-- ==== Sys2Proof/Word.lean ====
section
/-! DEFINITION. The word types of the KM-96 model and nothing else. -/

namespace Sys2Proof

/-- One byte of memory (R3). -/
abbrev Byte := BitVec 8

/-- A 64-bit scalar register, predicate or instruction word (R20, R56, R59, R63). -/
abbrev Word := BitVec 64

/-- A program counter or device address (R28, R56). -/
abbrev Addr48 := BitVec 48

/-- One 32-bit lane of a vector register (R158). -/
abbrev Lane := BitVec 32

end Sys2Proof
end

