-- ==== Sys2Proof/Syntax.lean ====
section
/-! DEFINITION. The commands of the KM-96: one constructor of `Instr` per row of spec/opcode_table.json, with the
operand records they carry. An instruction row is the event "context `ctx` of tile `tile` issues this instruction",
with the fields of its word as encoded (chapter 3), reserved values included. -/

namespace Sys2Proof

/-- The two hardware contexts of a tile (R20). -/
inductive Ctxt where
  | F
  | L
deriving DecidableEq, Repr

/-- What a read of tile SRAM meets (R394): physical, so it comes with the event. -/
inductive Sram where
  | good
  | corrected
  | uncorrectable
deriving DecidableEq, Repr

/-- Who issues an instruction, and its guard (Table 3-1); and what the reads of tile stores met that its issue makes of a
descriptor and for its operation, by tile (R394). -/
structure Head where
  tile : Nat
  ctx : Ctxt
  pred : BitVec 3
  pneg : Bool
  sram : List (Nat × Sram)
deriving DecidableEq, Repr

/-- A collective engine's turn: the tag or the place in the inbox, and what its reads of tile stores met, by tile (R394). -/
structure EngineTurn where
  n : Nat
  sram : List (Nat × Sram)
deriving DecidableEq, Repr

/-- Bits [49:0] of an M-class word (Table 3-3, R64). -/
structure MF where
  tw : BitVec 5
  ts : BitVec 5
  sa : BitVec 6
  sb : BitVec 6
  sc : BitVec 6
  rows : BitVec 11
  flow : BitVec 2
  fmt : BitVec 5
  var : BitVec 4
deriving DecidableEq, Repr

/-- Bits [49:0] of a V-class word. -/
structure VF where
  tw : BitVec 5
  ts : BitVec 5
  vd : BitVec 5
  va : BitVec 5
  vb : BitVec 5
  vc : BitVec 5
  ty : BitVec 5
  sa : BitVec 6
  imm9 : BitVec 9
deriving DecidableEq, Repr

/-- Bits [49:0] of an F-class word; `rsv` is bits [29:20], reserved. -/
structure FF where
  tw : BitVec 5
  ts : BitVec 5
  vd : BitVec 5
  va : BitVec 5
  rsv : BitVec 10
  ty : BitVec 5
  sa : BitVec 6
  var : BitVec 9
deriving DecidableEq, Repr

/-- Bits [49:0] of a D-class word. -/
structure DF where
  tw : BitVec 5
  ts : BitVec 5
  sa : BitVec 6
  sb : BitVec 6
  sc : BitVec 6
  chan : BitVec 4
  hint : BitVec 3
  size : BitVec 6
  var : BitVec 9
deriving DecidableEq, Repr

/-- Bits [49:0] of an X-class word. -/
structure XF where
  sd : BitVec 6
  sa : BitVec 6
  sb : BitVec 6
  imm : BitVec 32
deriving DecidableEq, Repr

/-- Bits [49:0] of arm and, but for MODE, of migrate (Table 3-5). -/
structure ArmF where
  creg : Bool
  sc : BitVec 6
  st : BitVec 6
  timm : Bool
  ti : BitVec 14
  cnum : BitVec 16
deriving DecidableEq, Repr

/-- Bits [49:0] of arrive (Table 3-5). -/
structure ArriveF where
  scope : BitVec 2
  epoch : BitVec 4
  creg : Bool
  sc : BitVec 6
  sn : BitVec 6
  nimm : Bool
  ni : BitVec 14
  cnum : BitVec 16
deriving DecidableEq, Repr

/-- Bits [49:0] of wait (Table 3-5). -/
structure WaitF where
  pd : BitVec 3
  notimeout : Bool
  creg : Bool
  sc : BitVec 6
  timeout : BitVec 16
  cnum : BitVec 16
deriving DecidableEq, Repr

/-- A cell of the array (or its checker) that returned a wrong product: the error ±m × 2^e it adds to the exact
product of step k of element (i, j) (R144 to R155). Physical, so it comes with the event. -/
structure CellErr where
  i : Nat
  j : Nat
  k : Nat
  neg : Bool
  m : Nat
  e : Int
deriving DecidableEq, Repr

/-- The physical outcome of a unit instruction's start: the SRAM reads, and the cells' errors in the first run of the
array and in each re-execution, of the array and, under CRUST_DUAL, of its checker. -/
structure UnitEvent where
  sram : Sram
  runs : List (List CellErr)
  checks : List (List CellErr)
deriving DecidableEq, Repr

/-- The units that hold or detect work of a tile (R35, R186). -/
inductive TUnit where
  | core
  | matrix
  | vector
  | sfu
  | narrow
  | chan (c : Nat)
deriving DecidableEq, Repr

/-- A failing margin test (Table 15-7): the highest CCLK in 0.1 GHz at which a compute die passes, a cluster that fails
at every step, the array or the stores of a tile, an HBM channel, a lane of a port, a die-to-die link and whether a
spare replaces the failing lane. -/
inductive MFail where
  | freq (die f : Nat)
  | cluster (q : Nat)
  | array (t : Nat)
  | tile (t : Nat)
  | channel (m : Nat)
  | lane (p k : Nat)
  | link (u : Nat) (spare : Bool)
deriving DecidableEq, Repr

/-- What the world contributes to a start of the module (Table 19-2): the straps, whether a copy of the configuration
store is valid, whether each Hearth start tried in turn reaches READY, whether REFCLK is there, the vendor code and failing step (0: none) of
edge dies 0 to 3, the attachments that do not train to full width (1 half, 2 not at all), and the failing margin
tests. -/
structure Start where
  straps : Nat
  store : Bool
  ready : List Bool
  refclk : Bool
  dies : List (Nat × Nat)
  links : List (Nat × Nat)
  fails : List MFail
deriving DecidableEq, Repr

/-- A stream as one of its ends names it (R258): the local endpoint, the other module and endpoint, the class. -/
structure StreamKey where
  ep : Nat
  dev : Nat
  far : Nat
  cls : Nat
deriving DecidableEq, Repr

/-- The registers with a PENDING bit (Table 19-6). -/
inductive PendReg where
  | rtepoch | chctl | fabctl | portctl | cpctl | bkctl | rmctl | rmalias | dieref | drainctl | twinctl | rstctl | mchctl
  | powercap | hdctl
deriving DecidableEq, Repr

/-- Instructions of the test port (R494). -/
inductive TestOp where
  | bypass
  | idcode
  | other
deriving DecidableEq, Repr

/-- What the module's read of a queue entry brings (R455, R458, R467): its 128 bytes, a refusal by the KA-2, or no answer. -/
inductive EntryRead where
  | entry (data : List Byte)
  | refused
  | lost
deriving DecidableEq, Repr

/-- Every command of the module. -/
inductive Instr where
  -- control and scalar instructions (chapter 3)
  | nop (tile : Nat) (ctx : Ctxt) (word : Word)
  | end_ (h : Head)
  | contextEnded (tile : Nat) (ctx : Ctxt)
  | br (h : Head) (offset : BitVec 32)
  | brl (h : Head) (sd : BitVec 6) (offset : BitVec 32)
  | jr (h : Head) (sa : BitVec 6)
  | jrl (h : Head) (sd sa : BitVec 6)
  | loop (h : Head) (sa : BitVec 6) (body : BitVec 12)
  | loopi (h : Head) (count : BitVec 20) (body : BitVec 12)
  | movi (h : Head) (sd : BitVec 6) (imm : BitVec 32)
  | ldhi (h : Head) (sd : BitVec 6) (imm : BitVec 32)
  | mfc (h : Head) (sd : BitVec 6) (num : BitVec 32)
  | mtc (h : Head) (sa : BitVec 6) (num : BitVec 32)
  | fret (h : Head)
  | add (h : Head) (sd sa sb : BitVec 6)
  | sub (h : Head) (sd sa sb : BitVec 6)
  | mul (h : Head) (sd sa sb : BitVec 6)
  | mulhu (h : Head) (sd sa sb : BitVec 6)
  | and_ (h : Head) (sd sa sb : BitVec 6)
  | or_ (h : Head) (sd sa sb : BitVec 6)
  | xor_ (h : Head) (sd sa sb : BitVec 6)
  | shl (h : Head) (sd sa sb : BitVec 6)
  | shr (h : Head) (sd sa sb : BitVec 6)
  | sra (h : Head) (sd sa sb : BitVec 6)
  | min_ (h : Head) (sd sa sb : BitVec 6)
  | max_ (h : Head) (sd sa sb : BitVec 6)
  | minu (h : Head) (sd sa sb : BitVec 6)
  | maxu (h : Head) (sd sa sb : BitVec 6)
  | addi (h : Head) (sd sa : BitVec 6) (imm : BitVec 32)
  | andi (h : Head) (sd sa : BitVec 6) (imm : BitVec 32)
  | ori (h : Head) (sd sa : BitVec 6) (imm : BitVec 32)
  | xori (h : Head) (sd sa : BitVec 6) (imm : BitVec 32)
  | shli (h : Head) (sd sa : BitVec 6) (imm : BitVec 32)
  | shri (h : Head) (sd sa : BitVec 6) (imm : BitVec 32)
  | srai (h : Head) (sd sa : BitVec 6) (imm : BitVec 32)
  | pset (h : Head) (pd : BitVec 3) (cond : BitVec 3) (sa sb : BitVec 6)
  | pseti (h : Head) (pd : BitVec 3) (cond : BitVec 3) (sa : BitVec 6) (imm : BitVec 29)
  | plog (h : Head) (pd pa pb : BitVec 3) (func : BitVec 2)
  | lds (h : Head) (sd sa : BitVec 6) (size : BitVec 2) (imm : BitVec 32) (sram : Sram)
  | sts (h : Head) (sd sa : BitVec 6) (size : BitVec 2) (imm : BitVec 32)
  | trap (h : Head)
  | rdtime (h : Head) (sd : BitVec 6)
  | unitFault (tile : Nat) (seq : Nat) (cause : BitVec 8) (info : Word)
  | contextSwitchToL (tile : Nat) (fcost lcost : Nat)
  | contextSwitchToF (tile : Nat) (fcost lcost : Nat)
  | unitInstructionStart (tile : Nat) (seq : Nat) (ev : UnitEvent)
  | unitInstructionComplete (tile : Nat) (seq : Nat)
  -- matrix array (chapter 5)
  | mmul (h : Head) (f : MF)
  | mslice (h : Head) (f : MF)
  | mread (h : Head) (f : MF)
  | manchor (h : Head) (f : MF)
  | mclear (h : Head) (f : MF)
  -- vector unit and special functions (chapter 6)
  | vadd (h : Head) (f : VF)
  | vsub (h : Head) (f : VF)
  | vmul (h : Head) (f : VF)
  | vfma (h : Head) (f : VF)
  | vmin (h : Head) (f : VF)
  | vmax (h : Head) (f : VF)
  | vabs (h : Head) (f : VF)
  | vneg (h : Head) (f : VF)
  | vcvt (h : Head) (f : VF)
  | vcmp (h : Head) (f : VF)
  | vsel (h : Head) (f : VF)
  | vand (h : Head) (f : VF)
  | vor (h : Head) (f : VF)
  | vxor (h : Head) (f : VF)
  | vshl (h : Head) (f : VF)
  | vshr (h : Head) (f : VF)
  | vld (h : Head) (f : VF) (sram : Sram)
  | vst (h : Head) (f : VF)
  | vbcast (h : Head) (f : VF)
  | vext (h : Head) (f : VF)
  | vrsum (h : Head) (f : VF)
  | vrmax (h : Head) (f : VF)
  | vrmin (h : Head) (f : VF)
  | vperm (h : Head) (f : VF)
  | vmovi (h : Head) (f : VF)
  | fexp (h : Head) (f : FF)
  | flog (h : Head) (f : FF)
  | frcp (h : Head) (f : FF)
  | frsq (h : Head) (f : FF)
  | cbload (h : Head) (f : FF)
  | cbswap (h : Head) (f : FF)
  | cblook (h : Head) (f : FF)
  -- stream channels, format engine, narrow path (chapters 7 and 13)
  | copy (h : Head) (f : DF)
  | copyQueueFullStall (tile : Nat) (ctx : Ctxt)
  | copyStart (cluster chan : Nat) (sram : Sram)
  | engineGrant (cluster : Nat) (sram : Sram)
  | copyComplete (cluster chan : Nat)
  | ldn (h : Head) (f : DF)
  | stn (h : Head) (f : DF)
  | narrowComplete (tile : Nat) (seq : Nat)
  | narrowPathFullStall (tile : Nat) (ctx : Ctxt)
  | atom (h : Head) (f : DF)
  | chrd (h : Head) (f : DF)
  | chctlPause (h : Head) (f : DF)
  | chctlResume (h : Head) (f : DF)
  | chctlAbort (h : Head) (f : DF)
  -- sync instructions and counters (chapters 2 and 3)
  | arm (h : Head) (f : ArmF)
  | arrive (h : Head) (f : ArriveF)
  | arrivalApplied (id : Nat)
  | wait (h : Head) (f : WaitF)
  | waitRetest (tile : Nat) (ctx : Ctxt)
  | waitTimeout (tile : Nat) (ctx : Ctxt)
  | migrateDrain (h : Head) (f : ArmF)
  | migrateDrainComplete (tile : Nat) (ctx : Ctxt)
  | migrateDiscard (h : Head) (f : ArmF)
  | scread (h : Head) (sd : BitVec 6) (creg : Bool) (sc : BitVec 6) (sel : BitVec 2) (cnum : BitVec 16)
  | twait (h : Head) (tok : BitVec 4)
  | tset (h : Head) (value : BitVec 8) (tok : BitVec 4)
  | tread (h : Head) (sd : BitVec 6) (tok : BitVec 4)
  | fence (h : Head) (scope : BitVec 2)
  | fenceComplete (tile : Nat) (ctx : Ctxt)
  | tpush (h : Head) (pd : BitVec 3) (sa sb sc : BitVec 6)
  | tpop (h : Head) (pd : BitVec 3) (sd se : BitVec 6)
  -- plan, bucket and exchange instructions (chapters 11 and 12)
  | bkarm (h : Head) (f : XF)
  | bkput (h : Head) (f : XF)
  | bkrd (h : Head) (f : XF)
  | xfire (h : Head) (f : XF)
  | xa2a (h : Head) (f : XF)
  | plansw (h : Head) (f : XF)
  -- collectives (chapters 11 and 12)
  | collOpen (tag : EngineTurn)
  | collFragment (n : EngineTurn)
  | collDeadline (tag : Nat)
  | bkctlAbort (tag : Nat)
  | rerunRequest (n : EngineTurn)
  | dwFlitReceived (n : Nat)
  | dwHoldExpiry (n : Nat)
  | dwPartnerTimeout (tag : Nat)
  -- routers, edge switches, streams and links (chapter 9)
  | routerPlacement (hits : List (Nat × Nat × Bool))
  | edgeSwitchPlacement (n : Nat) (hits : List (Nat × Bool))
  | messageDelivery (n : Nat)
  | ackSend (k : StreamKey)
  | ackReceived (n : Nat)
  | nack (n : Nat)
  | e2etoExpiry (k : StreamKey)
  | streamForget (k : StreamKey)
  | linkBlockReceived (n k : Nat) (block : List Byte)
  | nakReplay (n k : Nat)
  | replayTimeout (n k : Nat)
  | rtepochFlip
  | epochHoldEnd
  -- optical ports, spares and the crosspoint (chapter 10)
  | trainingFrame (p k : Nat) (frame : List Byte)
  | verifyTimeout (p k : Nat)
  | lockAttemptTimeout (p k : Nat)
  | ringFailed (p r : Nat)
  | portBringup (p up skew : Nat)
  | portReset (p : Nat)
  | portRetrain (n k : Nat) (ok : Bool)
  | lossOfLight (p : Nat)
  | probe (p : Nat) (on : Bool)
  | lightReturned (p : Nat)
  | laserHigh (n f : Nat)
  | laserHighClear (n f : Nat)
  | laserLow (n f : Nat) (low : Bool)
  | spareTakeover (n target : Nat)
  | spareRelease (n : Nat)
  | cpctlGo
  | planSwitchComplete
  | bundleUp (n b : Nat)
  -- memory controllers (chapter 8)
  | cacheSectorAccess (a n : Nat) (data : Option (List Byte)) (hint src : Nat) (u : List (Nat × Byte))
  | patrolScrub (m q sec : Nat) (u : List (Nat × Byte))
  | takeOutOfService (hearth : Bool) (m : Nat)
  | returnToService (hearth : Bool) (m : Nat) (errs : List (Nat × Nat))
  | channelLeavingDone (m : Nat)
  | channelFillDone (m : Nat)
  | startGenerator (hearth : Bool) (m : Nat)
  | stopGenerator (m : Nat) (errs : List (Nat × Nat))
  | generatorDone (m : Nat) (errs : List (Nat × Nat))
  -- remote traffic at a home agent and its replies (chapter 13)
  | remoteRead (n : Nat)
  | remoteWrite (n : Nat)
  | remoteAtomic (n : Nat)
  | remoteArrive (n : Nat)
  | rdata (n : Nat)
  | wack (n : Nat)
  | aresult (n : Nat)
  | retry (n : Nat)
  | retryBackoffExpiry (k : StreamKey)
  | refuse (n : Nat)
  | combineFold (sector : Nat)
  | gatewayTransfer (cluster chan : Nat)
  | gatewayApply (n : Nat)
  -- power and thermal control (chapter 14)
  | govRefill (d : Nat)
  | poolGrant (d : Nat)
  | hearthPowerStep (powers : List Nat) (input : Option Nat)
  | powercapWrite (hearth : Bool) (value : BitVec 32)
  | powerOver
  | powerOverClear
  | sprintStart (win : Nat)
  | sprintEnd (bound us win : Nat)
  | sensorSample (u : Nat) (r : List Int)
  | throttleFactorStep (d : Nat)
  | thermalShutdown (u : Nat) (t : Int)
  | powerupCommand (hottest : Int) (o : Start)
  -- drain, margins and health (chapter 15)
  | drain
  | drainComplete
  | marginTests (hearth : Bool) (fails : List MFail)
  | linkLaneFail (u : Nat) (spare : Bool)
  | linkDegraded (u : Nat) (both : Bool)
  | healthDecay
  | healthSave
  -- the twin (chapter 16)
  | heartbeatSend
  | heartbeatReceived (dev role drain : Nat) (launched : Bool) (resets : Nat)
  | peerLost
  | mirrorWrite (n : Nat)
  | drainNotice (counts : List Nat)
  | promotion (late : Bool)
  | twinctlPromote (hearth : Bool)
  | twinctlDetach (hearth : Bool)
  | detachNotice
  | hostFailover (peerEn : Bool)
  | hostFailback
  | shadowCompare (k : Nat)
  | shadowTimeout (k : Nat)
  -- the Hearth (chapter 17)
  | hearthBoot (ready : List Bool)
  | hearthReset
  | eventRecord
  | requestUpdate (image : List Byte)
  | verifyComplete
  | activateFirmware
  | commitSvn
  | spdmChallenge (transcript : List Byte)
  | spdmGetMeasurements (index : Nat) (transcript : List Byte)
  | setEndpointId (eid : BitVec 8)
  | i3cDynamicAddress (addr : Option (BitVec 7))
  -- bring-up of edge pairs and die-to-die links (chapters 17 and 20)
  | edgeAdmission (n vendor step : Nat)
  | ucieBringup (u width : Nat)
  -- the host link (chapter 18)
  | regrd (n : Nat)
  | regwr (n : Nat)
  | sqDoorbell (q : Nat) (tail : BitVec 12)
  | commandStart (read : EntryRead)
  | launchComplete (id : Nat)
  | dmaComplete (id : Nat)
  | data (n : Nat)
  | done (n : Nat)
  | completionRecord (r : Nat)
  | cqDoorbell (r : Nat) (head : BitVec 12)
  | eventRingWrite
  -- resets, power states and pins (chapter 19)
  | coldReset (o : Start)
  | modResetN (low : Bool)
  | pwrEn (on : Bool)
  | inputLoss (low40 : Bool)
  | inputRestored (full : Bool)
  | inputOutOfBand
  | refclkLoss
  | warmReset (hearth : Bool) (o : Start)
  | computeReset (hearth : Bool) (fails : List MFail)
  | enterNap (hearth : Bool)
  | leaveNap (hearth : Bool)
  | enterDeep (hearth : Bool)
  | leaveDeep (hearth : Bool) (o : Start)
  | idleGate (d : Nat)
  -- the register space (chapter 21)
  | sccountWrite (hearth : Bool) (c : Nat) (v : BitVec 32)
  | sctargetWrite (hearth : Bool) (c : Nat) (v : BitVec 32)
  | badRegisterAccess (hearth : Bool) (off size : Nat)
  | registerWrite (hearth : Bool) (off : Nat) (data : List Byte)
  | writtenValueTakesEffect (r : PendReg) (e : Nat) (o : Start) (errs : List (Nat × Nat))
  -- further events
  | lockLoss (p r : Nat)
  | shadowRecordReceived (k record : Nat)
  | twinPresN (low : Bool)
  | hrefclkLoss
  | hrefclkRestored
  | inputBackInRange
  | sprintCclkChange
  | dailyBucketRollover
  | spdmNegotiateAlgorithms (mldsa sha3 : Bool)
  | clearProtectedRegion
  | faultNRelease
  | blowOkeyhash (key : List Byte)
  | dwSentFlitRelease (tag : Nat)
  | testPortAccess (op : TestOp)

deriving DecidableEq, Repr

end Sys2Proof
end

