-- ==== Sys2Proof/Machine/Bits.lean ====
section
/-! DEFINITION. Bit fields, sign extension and byte order (R3): little-endian, bit 0 least significant. -/

namespace Sys2Proof.Machine

/-- Field [hi:lo] of a value (R3). -/
def bits (v hi lo : Nat) : Nat := v / 2 ^ lo % 2 ^ (hi + 1 - lo)

/-- One bit of a value. -/
def bit (v i : Nat) : Bool := v / 2 ^ i % 2 = 1

/-- `v` with field [hi:lo] replaced by the low bits of `x`. -/
def setBits (v hi lo x : Nat) : Nat :=
  v / 2 ^ (hi + 1) * 2 ^ (hi + 1) + x % 2 ^ (hi + 1 - lo) * 2 ^ lo + v % 2 ^ lo

/-- A Bool as a number. -/
def b2n (b : Bool) : Nat := if b then 1 else 0

/-- The signed reading of the low `w` bits. -/
def sext (w v : Nat) : Int :=
  let u := v % 2 ^ w
  if u < 2 ^ (w - 1) then (u : Int) else (u : Int) - (2 ^ w : Nat)

/-- An integer as a `w`-bit two's-complement pattern. -/
def wrapInt (w : Nat) (i : Int) : Nat := (i % ((2 ^ w : Nat) : Int)).toNat

/-- The `n` bytes of a value, lowest address first (R3). -/
def leBytes : Nat → Nat → List Byte
  | 0, _ => []
  | n + 1, v => BitVec.ofNat 8 v :: leBytes n (v / 256)

/-- The value of a list of bytes, lowest address first (R3). -/
def leValue : List Byte → Nat
  | [] => 0
  | b :: bs => b.toNat + 256 * leValue bs

/-- `⌈a / b⌉`. -/
def ceilDiv (a b : Nat) : Nat := (a + b - 1) / b

/-- The number of significant bits of `n`: 0 for 0, else `⌊log₂ n⌋ + 1`. -/
def bitLen (n : Nat) : Nat := if n = 0 then 0 else n.log2 + 1

/-- Sequence `[lo, lo + 1, …]` of `n` numbers. -/
def seqFrom (lo n : Nat) : List Nat := (List.range n).map (· + lo)

/-- Fold a state transformer over the numbers below `n`. -/
def forN {σ : Type} (n : Nat) (f : Nat → σ → σ) (s : σ) : σ := (List.range n).foldl (fun t i => f i t) s

/-- `min a (2^w - 1)`: a counter that stays at its maximum once reached. -/
def satTo (w a : Nat) : Nat := min a (2 ^ w - 1)

/-- One bit of CRC-32C, reflected: polynomial 0x1EDC_6F41 (R200). -/
def crcBits : Nat → Nat → Nat
  | 0, c => c
  | n + 1, c => crcBits n (if c % 2 = 1 then c / 2 ^^^ 0x82F63B78 else c / 2)

/-- Continue a CRC-32C register over bytes (R200). -/
def crcOver (c : Nat) (bs : List Byte) : Nat := bs.foldl (fun c b => crcBits 8 (c ^^^ b.toNat)) c

/-- The register of a CRC-32C of no bytes yet, and its final exclusive-or (R200). -/
def crcInit : Nat := 0xFFFFFFFF
def crcDone (c : Nat) : Nat := c ^^^ 0xFFFFFFFF

/-- CRC-32C of a list of bytes (R200). -/
def crc32c (bs : List Byte) : Nat := crcDone (crcOver crcInit bs)

/-! ## PRBS31 (Table 8-6) -/

/-- The next state of x³¹ + x²⁸ + 1. -/
def prbsNext (st : Nat) : Nat := (2 * st + b2n (st.testBit 30 != st.testBit 27)) % 2 ^ 31

/-- The number whose bit i < n is `p i`. -/
def bitsOf (n : Nat) (p : Nat → Bool) : Nat := (List.range n).foldl (fun a i => a + b2n (p i) * 2 ^ i) 0

/-- Successive bits from a state: the oldest of the 31 bits leaves first (DESIGN CHOICE, log 58). -/
def prbsBits : Nat → Nat → List Bool
  | 0, _ => []
  | n + 1, st => st.testBit 30 :: prbsBits n (prbsNext st)

end Sys2Proof.Machine
end

