-- ==== Sys2Proof/Machine/Formats.lean ====
section
/-! DEFINITION. Number formats and exact accumulation (chapter 4): what a stored pattern means, exact arithmetic on
those meanings, the one rounding of every conversion, MX, SX and BX8 blocks, KX elements and slices. -/

namespace Sys2Proof.Machine

/-- The meaning of a stored number: NaN, a signed infinity, or the exact value ±m × 2^e (m = 0: a signed zero). -/
inductive FVal where
  | nan
  | inf (neg : Bool)
  | fin (neg : Bool) (m : Nat) (e : Int)
deriving DecidableEq, Repr

/-- How a conversion rounds (R102): to nearest even, or up when the 24-bit random `r` is below the fraction (R103). -/
inductive Rnd where
  | rne
  | sr (r : Nat)
deriving DecidableEq, Repr

/-- What a floating-point format does beyond its largest finite value (Table 4-3). -/
inductive Over where
  | infNan (inf nan : Nat)   -- overflow and ±Inf give ±Inf
  | nanOnly (nan : Nat)      -- E4M3 with SAT = 0
  | satInf (inf nan : Nat)   -- E5M2 with SAT = 1
  | satNan (nan : Nat)       -- E4M3 with SAT = 1
  | satZero                  -- E3M2 and E2M1
deriving DecidableEq, Repr

/-- A floating-point layout (Table 4-2): exponent and mantissa widths, bias, the largest finite magnitude pattern. -/
structure FloatFmt where
  eb : Nat
  mb : Nat
  bias : Nat
  maxMag : Nat
  above : Over
deriving DecidableEq, Repr

def fp64 : FloatFmt := ⟨11, 52, 1023, 0x7FEFFFFFFFFFFFFF, .infNan 0x7FF0000000000000 0x7FF8000000000000⟩
def fp32 : FloatFmt := ⟨8, 23, 127, 0x7F7FFFFF, .infNan 0x7F800000 0x7FC00000⟩
def bf16 : FloatFmt := ⟨8, 7, 127, 0x7F7F, .infNan 0x7F80 0x7FC0⟩
def fp16 : FloatFmt := ⟨5, 10, 15, 0x7BFF, .infNan 0x7C00 0x7E00⟩
/-- E4M3 under the job's SAT setting (R101). -/
def e4m3 (sat : Bool) : FloatFmt := ⟨4, 3, 7, 0x7E, if sat then .satNan 0x7F else .nanOnly 0x7F⟩
/-- E5M2 under the job's SAT setting (R101). -/
def e5m2 (sat : Bool) : FloatFmt := ⟨5, 2, 15, 0x7B, if sat then .satInf 0x7C 0x7E else .infNan 0x7C 0x7E⟩
def e3m2 : FloatFmt := ⟨3, 2, 3, 0x1F, .satZero⟩
def e2m1 : FloatFmt := ⟨2, 1, 1, 0x7, .satZero⟩

/-- Width in bits of a floating-point format. -/
def FloatFmt.width (f : FloatFmt) : Nat := 1 + f.eb + f.mb

/-- Is a magnitude pattern Inf or NaN in this format (Table 4-2)? `some none` is NaN, `some (some ())` Inf. -/
def FloatFmt.special (f : FloatFmt) (mag : Nat) : Option (Option Unit) :=
  if mag ≤ f.maxMag then none
  else match f.above with
    | .infNan i _ => if mag = i then some (some ()) else some none
    | .satInf i _ => if mag = i then some (some ()) else some none
    | _ => some none

/-- R92: the value of a pattern. -/
def FloatFmt.decode (f : FloatFmt) (v : Nat) : FVal :=
  let neg := bit v (f.eb + f.mb)
  let mag := v % 2 ^ (f.eb + f.mb)
  match f.special mag with
  | some none => .nan
  | some (some ()) => .inf neg
  | none =>
    let x := mag / 2 ^ f.mb
    let m := mag % 2 ^ f.mb
    if x = 0 then .fin neg m (1 - (f.bias : Int) - f.mb)
    else .fin neg (2 ^ f.mb + m) ((x : Int) - f.bias - f.mb)

/-- Round m × 2^e / 2^q to an integer (R102, R103). -/
def roundTo (rnd : Rnd) (m : Nat) (e q : Int) : Nat :=
  if q ≤ e then m * 2 ^ (e - q).toNat
  else
    let sh := (q - e).toNat
    let lo := m / 2 ^ sh
    let rem := m % 2 ^ sh
    if rem = 0 then lo
    else match rnd with
      | .rne =>
        if rem * 2 > 2 ^ sh then lo + 1
        else if rem * 2 = 2 ^ sh then lo + lo % 2
        else lo
      | .sr r => if r < 2 ^ 24 * rem / 2 ^ sh then lo + 1 else lo

/-- Whether m × 2^e is a multiple of 2^q. -/
def exactAt (m : Nat) (e q : Int) : Bool := decide (q ≤ e) || decide (m % 2 ^ (q - e).toNat = 0)

/-- floor(log₂ (m × 2^e)) for m > 0. -/
def floorLog2 (m : Nat) (e : Int) : Int := (m.log2 : Int) + e

/-- The pattern of a NaN in a format (R93, Table 4-3); formats without NaN give 0. -/
def FloatFmt.nanPat (f : FloatFmt) : Nat :=
  match f.above with
  | .infNan _ n => n | .nanOnly n => n | .satInf _ n => n | .satNan n => n | .satZero => 0

/-- The pattern of an overflowed finite value (Table 4-3, first column). -/
def FloatFmt.overPat (f : FloatFmt) (neg : Bool) : Nat :=
  let sign := b2n neg * 2 ^ (f.eb + f.mb)
  match f.above with
  | .infNan i _ => sign + i
  | .nanOnly n => n
  | _ => sign + f.maxMag

/-- The pattern of an infinity (Table 4-3, second column). -/
def FloatFmt.infPat (f : FloatFmt) (neg : Bool) : Nat :=
  let sign := b2n neg * 2 ^ (f.eb + f.mb)
  match f.above with
  | .infNan i _ => sign + i
  | .satInf i _ => sign + i
  | .nanOnly n => n
  | _ => sign + f.maxMag

/-- R100, R101: one rounding of an exact value into a format. -/
def FloatFmt.encode (f : FloatFmt) (rnd : Rnd) : FVal → Nat
  | .nan => f.nanPat
  | .inf neg => f.infPat neg
  | .fin neg m e =>
    let sign := b2n neg * 2 ^ (f.eb + f.mb)
    if m = 0 then sign
    else
      let emin : Int := 1 - (f.bias : Int)
      let x := max (floorLog2 m e) emin
      let n := roundTo rnd m e (x - f.mb)
      let mag := (x + f.bias).toNat * 2 ^ f.mb + n - 2 ^ f.mb
      if mag > f.maxMag then f.overPat neg else sign + mag

/-! Exact arithmetic on meanings. -/

def FVal.isNeg : FVal → Bool
  | .nan => false | .inf n => n | .fin n _ _ => n

def FVal.isNan : FVal → Bool
  | .nan => true | _ => false

def FVal.isFin : FVal → Bool
  | .fin .. => true | _ => false

def FVal.isZero : FVal → Bool
  | .fin _ 0 _ => true | _ => false

def FVal.negate : FVal → FVal
  | .nan => .nan | .inf n => .inf (!n) | .fin n m e => .fin (!n) m e

def FVal.abs : FVal → FVal
  | .nan => .nan | .inf _ => .inf false | .fin _ m e => .fin false m e

/-- An exact integer multiple of 2^e as a value; zero takes the sign `zneg`. -/
def FVal.ofInt (zneg : Bool) (i e : Int) : FVal :=
  if i = 0 then .fin zneg 0 0 else .fin (decide (i < 0)) i.natAbs e

/-- The signed integer ±m. -/
def sgnInt (neg : Bool) (m : Nat) : Int := if neg then - (m : Int) else m

/-- Exact product; NaN for NaN operands and for infinity times zero. -/
def FVal.mul : FVal → FVal → FVal
  | .nan, _ => .nan
  | _, .nan => .nan
  | .inf a, .inf b => .inf (a != b)
  | .inf a, .fin b m _ => if m = 0 then .nan else .inf (a != b)
  | .fin a m _, .inf b => if m = 0 then .nan else .inf (a != b)
  | .fin a m e, .fin b n f => .fin (a != b) (m * n) (e + f)

/-- Exact sum under round-to-nearest sign rules: an exact zero sum of unlike signs is +0. -/
def FVal.add : FVal → FVal → FVal
  | .nan, _ => .nan
  | _, .nan => .nan
  | .inf a, .inf b => if a = b then .inf a else .nan
  | .inf a, .fin .. => .inf a
  | .fin .., .inf b => .inf b
  | .fin a m e, .fin b n f =>
    let g := min e f
    let i := sgnInt a m * 2 ^ (e - g).toNat + sgnInt b n * 2 ^ (f - g).toNat
    FVal.ofInt (a && b) i g

/-- Scale by 2^k. -/
def FVal.scale (k : Int) : FVal → FVal
  | .fin n m e => .fin n m (e + k)
  | v => v

/-- Ordering of finite values and infinities: `x < y`. False when either is NaN. Zeros of either sign are equal. -/
def FVal.lt : FVal → FVal → Bool
  | .nan, _ => false
  | _, .nan => false
  | .inf a, .inf b => a && !b
  | .inf a, .fin .. => a
  | .fin .., .inf b => !b
  | .fin a m e, .fin b n f =>
    let g := min e f
    decide (sgnInt a m * 2 ^ (e - g).toNat < sgnInt b n * 2 ^ (f - g).toNat)

/-- Numeric equality; false when either is NaN. -/
def FVal.eqv : FVal → FVal → Bool
  | .nan, _ => false
  | _, .nan => false
  | x, y => !x.lt y && !y.lt x

/-- floor(log₂ |x|) of a finite non-zero value. -/
def FVal.log2 : FVal → Option Int
  | .fin _ m e => if m = 0 then none else some (floorLog2 m e)
  | _ => none

/-! Integer formats (R99). -/

/-- The value of a `w`-bit two's-complement pattern. -/
def intVal (w v : Nat) : FVal := FVal.ofInt false (sext w v) 0

/-- The integer of a rounded value, clamped to `w` bits signed; NaN gives 0 (Table 4-3). -/
def intEncode (w : Nat) (rnd : Rnd) : FVal → Nat
  | .nan => 0
  | .inf neg => if neg then 2 ^ (w - 1) else 2 ^ (w - 1) - 1
  | .fin neg m e =>
    let n := roundTo rnd m e 0
    if neg then (if n > 2 ^ (w - 1) then 2 ^ (w - 1) else (2 ^ w - n) % 2 ^ w)
    else (if n > 2 ^ (w - 1) - 1 then 2 ^ (w - 1) - 1 else n)

/-! Plain (unscaled) format codes of Table 4-1. -/

/-- Element width in bits by format code (Table 4-1); 0 for a reserved code. -/
def fmtWidth (c : Nat) : Nat :=
  [0, 64, 32, 16, 16, 8, 8, 4, 8, 8, 6, 4, 8, 8, 4, 32, 8, 256, 64, 32, 8, 8].getD c 0

/-- Reserved codes of Table 4-1. -/
def fmtReserved (c : Nat) : Bool := decide (fmtWidth c = 0)

/-- The float layout of an element code, with the element of a block format standing for its block. -/
def fmtFloat (sat : Bool) (c : Nat) : Option FloatFmt :=
  match c with
  | 1 => some fp64 | 2 => some fp32 | 3 => some bf16 | 4 => some fp16
  | 5 => some (e4m3 sat) | 6 => some (e5m2 sat) | 7 => some e2m1
  | 8 => some (e4m3 sat) | 9 => some (e5m2 sat) | 10 => some e3m2 | 11 => some e2m1
  | _ => none

/-- Whether a code is an MX block format (Table 4-1). -/
def fmtIsMx (c : Nat) : Bool := decide (8 ≤ c) && decide (c ≤ 12)

/-- E8M0 (Table 4-2): 2^(x − 127), NaN at 0xFF. -/
def e8m0 (x : Nat) : FVal := if x = 0xFF then .nan else .fin false 1 ((x : Int) - 127)

/-- The value of one element pattern by its code, without a block scale (R92, R99). -/
def elemVal (sat : Bool) (c v : Nat) : FVal :=
  match fmtFloat sat c with
  | some f => f.decode v
  | none =>
    match c with
    | 12 => (intVal 8 v).scale (-6)
    | 13 => intVal 8 v
    | 14 => intVal 4 v
    | 15 => intVal 32 v
    | 16 => e8m0 v
    | _ => .nan

/-- Convert a value into one element of a plain format (R100, R101). -/
def elemEnc (sat : Bool) (c : Nat) (rnd : Rnd) (v : FVal) : Nat :=
  match fmtFloat sat c with
  | some f => f.encode rnd v
  | none =>
    match c with
    | 13 => intEncode 8 rnd v
    | 14 => intEncode 4 rnd v
    | 15 => intEncode 32 rnd v
    | _ => 0

/-- R96: the value of an MX element under block scale `x`. -/
def mxVal (c x v : Nat) : FVal :=
  if x = 0xFF then .nan else (elemVal false c v).scale ((x : Int) - 127)

/-- R95: element `k` of width `w` in a bit string held as a number. -/
def packedElem (w : Nat) (img k : Nat) : Nat := img / 2 ^ (w * k) % 2 ^ w

/-- R95: pack elements of width `w`, element 0 lowest. -/
def packElems (w : Nat) : List Nat → Nat
  | [] => 0
  | v :: vs => v % 2 ^ w + 2 ^ w * packElems w vs

/-! Stochastic rounding (R103). -/

/-- One round of Philox4x32. -/
def philoxRound (k0 k1 : Nat) : Nat × Nat × Nat × Nat → Nat × Nat × Nat × Nat
  | (c0, c1, c2, c3) =>
    let p0 := 0xD2511F53 * c0
    let p1 := 0xCD9E8D57 * c2
    ((p1 / 2 ^ 32 ^^^ c1) ^^^ k0, p1 % 2 ^ 32, (p0 / 2 ^ 32 ^^^ c3) ^^^ k1, p0 % 2 ^ 32)

/-- `n` rounds with the key bumped after each. -/
def philoxRounds : Nat → Nat → Nat → Nat × Nat × Nat × Nat → Nat × Nat × Nat × Nat
  | 0, _, _, c => c
  | n + 1, k0, k1, c =>
    philoxRounds n ((k0 + 0x9E3779B9) % 2 ^ 32) ((k1 + 0xBB67AE85) % 2 ^ 32) (philoxRound k0 k1 c)

/-- R103: the 24-bit draw for element index `idx` and stream `str` under `seed`. -/
def srDraw (seed idx str : Nat) : Nat :=
  (philoxRounds 10 (seed % 2 ^ 32) (seed / 2 ^ 32 % 2 ^ 32)
    (idx % 2 ^ 32, idx / 2 ^ 32 % 2 ^ 32, str % 2 ^ 32, 0)).1 / 2 ^ 8

/-- Job numerics settings (NUMCFG, R120) as the conversions use them. -/
structure NumCfg where
  seed : Nat
  sr : Bool
  sat : Bool
  fast : Bool
  lvl2 : Bool
  f32full : Bool
  f64full : Bool
  redfmt : Nat
deriving DecidableEq, Repr

/-- NUMCFG's fields (R120 table). -/
def NumCfg.ofReg (v : Nat) : NumCfg :=
  { seed := bits v 127 64, sr := decide (bits v 4 3 = 1), sat := bit v 5, fast := bit v 0,
    lvl2 := decide (bits v 2 1 = 1), f32full := bit v 8, f64full := bit v 9, redfmt := bits v 11 10 }

/-- The rounding of element index `idx` of stream `str` under the job's mode (R102, R103). -/
def NumCfg.rnd (c : NumCfg) (idx str : Nat) : Rnd := if c.sr then .sr (srDraw c.seed idx str) else .rne

/-! MX, BX8 and SX quantisation. -/

/-- The largest finite non-zero magnitude of a list, as a value. -/
def amax : List FVal → FVal
  | [] => .fin false 0 0
  | v :: vs =>
    let r := amax vs
    match v with
    | .fin _ m e => if r.lt (.fin false m e) then .fin false m e else r
    | _ => r

/-- emax of R97 by MX format code. -/
def mxEmax (c : Nat) : Int := [8, 15, 4, 2, 0].getD (c - 8) 0

/-- Clamp to 0–254. -/
def clampScale (i : Int) : Nat := (max 0 (min 254 i)).toNat

/-- The saturating element encoder of R97: the largest finite value with its sign on overflow; MXINT8 gives ±127. -/
def mxElem (c : Nat) (rnd : Rnd) (v : FVal) : Nat :=
  if c = 12 then
    match v with
    | .fin neg m e =>
      let n := min 127 (roundTo rnd m e (-6))
      if neg then (256 - n) % 256 else n
    | _ => 0
  else
    match fmtFloat false c, v with
    | some f, .fin neg m e =>
      let p := ({ f with above := .satZero } : FloatFmt).encode rnd (.fin neg m e)
      p
    | some f, .inf neg => f.infPat neg
    | _, _ => 0

/-- R97, R98: quantise 32 values into an MX block of code `c`: the scale byte and the element patterns. -/
def mxQuant (c : Nat) (rnd : Nat → Rnd) (vs : List FVal) : Nat × List Nat :=
  let bad := vs.any (fun v => v.isNan || (!v.isFin && c != 9))
  if bad then (0xFF, vs.map fun _ => 0)
  else
    let x := match (amax vs).log2 with
      | none => 0
      | some l => clampScale (l - mxEmax c + 127)
    (x, (vs.zipIdx).map fun (v, k) => mxElem c (rnd k) (v.scale (127 - (x : Int))))

/-- R119: quantise 32 values into a BX8 block (scale, FLAGS, elements). The rule gives a block with a NaN or an infinity only
its FLAGS bit, and a block of zeros no scale: the scale comes from the finite values, a special element is written as 0, and
a block without a finite non-zero value has scale 0 (DESIGN CHOICE, log 57). -/
def bxQuant (rnd : Nat → Rnd) (vs : List FVal) : Nat × Nat × List Nat :=
  let flag := b2n (vs.any fun v => !v.isFin)
  let x := match (amax vs).log2 with
    | none => 0
    | some l => clampScale (l + 127)
  (x, flag, (vs.zipIdx).map fun (v, k) =>
    match v with
    | .fin neg m e =>
      let n := min 127 (roundTo (rnd k) m e ((x : Int) - 133))
      if neg then (256 - n) % 256 else n
    | _ => 0)

/-- R119: the value of element pattern `q` of a BX8 block. -/
def bxVal (x flags q : Nat) : FVal := if bit flags 0 then .nan else (intVal 8 q).scale ((x : Int) - 133)

/-- One contribution converted to an SX grid (R118): the integer, or the special it is, or its overflow exponent. -/
inductive SxElem where
  | val (n : Int)
  | special (code : Nat)
  | above (exp : Int)
deriving DecidableEq, Repr

/-- R118: a contribution value on the grid of agreed exponent `e`; `w64` selects SX64. -/
def sxElem (w64 : Bool) (e : Int) (rnd : Rnd) : FVal → SxElem
  | .nan => .special 1
  | .inf neg => .special (if neg then 3 else 2)
  | .fin neg m x =>
    let fb : Int := if w64 then 56 else 24
    let n := roundTo rnd m x (e - fb)
    if n ≥ 2 ^ fb.toNat then .above (floorLog2 m x + 1) else .val (sgnInt neg n)

/-! KX elements (R104 to R110). -/

/-- A KX element: T on the grid 2^A, with its sticky flags (Table 4-5). -/
structure Kx where
  t : Int
  anchor : Int
  aset : Bool
  nan : Bool
  pinf : Bool
  ninf : Bool
  inexact : Bool
  ovf : Bool
deriving DecidableEq, Repr

/-- Read a KX element from its 256 bits; reserved bits are ignored. -/
def Kx.ofBits (v : Nat) : Kx :=
  { t := sext 144 v, anchor := sext 12 (bits v 155 144), aset := bit v 156, nan := bit v 168,
    pinf := bit v 169, ninf := bit v 170, inexact := bit v 171, ovf := bit v 172 }

/-- Write a KX element; reserved bits are 0. -/
def Kx.toBits (k : Kx) : Nat :=
  wrapInt 144 k.t + wrapInt 12 k.anchor * 2 ^ 144 + b2n k.aset * 2 ^ 156 + b2n k.nan * 2 ^ 168
    + b2n k.pinf * 2 ^ 169 + b2n k.ninf * 2 ^ 170 + b2n k.inexact * 2 ^ 171 + b2n k.ovf * 2 ^ 172

/-- The anchor range of Table 4-5. -/
def clampAnchor (a : Int) : Int := max (-2048) (min 2047 a)

/-- Whether an integer lies in the 128-bit window. -/
def inWindow (t : Int) : Bool := decide (-(2 ^ 127 : Nat) ≤ t) && decide (t < (2 ^ 127 : Nat))

/-- R105 to R107: add one exact product. -/
def Kx.add (k : Kx) : FVal → Kx
  | .nan => { k with nan := true }
  | .inf neg => if neg then { k with ninf := true } else { k with pinf := true }
  | .fin neg m e =>
    let q := roundTo .rne m e k.anchor
    let inx := k.inexact || !(exactAt m e k.anchor)
    if q ≥ 2 ^ 127 then { k with ovf := true, inexact := inx }
    else
      let t := sext 144 (wrapInt 144 (k.t + sgnInt neg q))
      { k with t := t, inexact := inx, ovf := k.ovf || !inWindow t }

/-- R108 AUTO: the anchor the largest non-zero finite product sets, if any. -/
def autoAnchor (ps : List FVal) : Option Int :=
  (amax ps).log2.map fun l => clampAnchor (l - 62)

/-- Add a list of products; an unset anchor is set from the largest of `as` (R108). -/
def Kx.addAllAt (k : Kx) (as ps : List FVal) : Kx :=
  let k := if k.aset then k else
    match autoAnchor as with
    | none => k
    | some a => { k with anchor := a, aset := true }
  ps.foldl Kx.add k

/-- Add a list of products with AUTO anchoring (R108): one instruction's products for one element. -/
def Kx.addAll (k : Kx) (ps : List FVal) : Kx := k.addAllAt ps ps

/-- R109: move an element to anchor `a`, setting ASET. -/
def Kx.setAnchor (k : Kx) (a : Int) : Kx :=
  let k' := { k with anchor := a, aset := true }
  if k.anchor ≤ a then
    let neg := decide (k.t < 0)
    let q := roundTo .rne k.t.natAbs k.anchor a
    { k' with t := sgnInt neg q, inexact := k.inexact || !(exactAt k.t.natAbs k.anchor a) }
  else
    let t := k.t * 2 ^ (k.anchor - a).toNat
    { k' with t := sext 144 (wrapInt 144 t), ovf := k.ovf || !inWindow t }

/-- R110: the value mread converts; the first rule that holds. -/
def Kx.value (k : Kx) : FVal :=
  if k.nan || (k.pinf && k.ninf) then .nan
  else if k.pinf then .inf false
  else if k.ninf then .inf true
  else if k.ovf then .nan
  else if k.t = 0 then .fin false 0 0
  else FVal.ofInt false (sext 128 (wrapInt 128 k.t)) k.anchor

/-! FAST mode (R111). -/

/-- Sum a list exactly. -/
def sumVals : List FVal → FVal
  | [] => .fin false 0 0
  | v :: vs => vs.foldl FVal.add v

/-- Split a list into runs of 16. -/
def groups16 : Nat → List FVal → List (List FVal)
  | 0, _ => []
  | n + 1, vs => if vs.isEmpty then [] else vs.take 16 :: groups16 n (vs.drop 16)

/-- R111: one element's update: each group of 16 products summed exactly, rounded, then added with a second rounding. -/
def fastAdd (acc : Nat) (ps : List FVal) : Nat :=
  (groups16 (ps.length / 16 + 1) ps).foldl
    (fun a g => fp32.encode .rne ((fp32.decode a).add (fp32.decode (fp32.encode .rne (sumVals g))))) acc

/-! Slices (R112). -/

/-- The exponent of a zero vector (R112). -/
def sliceZero : Int := -32768

/-- R112: the exponent of a vector given a starting exponent. -/
def sliceExp (given : Option Int) (vs : List FVal) : Int :=
  match (amax vs).log2 with
  | none => sliceZero
  | some l => match given with
    | none => l + 1
    | some g => max g (l + 1)

/-- R112, R139: whether an element is negative, and its unsigned bytes α_1 … α_S. -/
def sliceElem (s : Nat) (e : Int) (v : FVal) : Bool × List Nat :=
  (v.lt (.fin false 0 0),
   match v with
   | .fin _ m x =>
     let n := roundTo .rne m x (e - 8 * (s : Int))
     (List.range s).map fun i => n / 2 ^ (8 * (s - 1 - i)) % 256
   | _ => (List.range s).map fun _ => 0)

/-- A sliced K-vector (R112, R114, R170, R193): its exponent word, its sign word and, for each slice, its bytes. A given
exponent of 0x7FFF or 0x8000 is replaced by the computed one. -/
def sliceVec (s : Nat) (given : Option Nat) (vs : List FVal) : Nat × Nat × List (List Nat) :=
  let special := vs.any fun v => !v.isFin
  let g := match given with
    | some x => if x = 0x7FFF ∨ x = 0x8000 then none else some (sext 16 x)
    | none => none
  let e := if special then 0x7FFF else sliceExp g vs
  let es := vs.map (sliceElem s e)
  (if special then 0x7FFF else wrapInt 16 e, packElems 1 (es.map fun x => b2n x.1),
   (List.range s).map fun i => es.map fun x => x.2.getD i 0)

end Sys2Proof.Machine
end

