-- ==== Sys2Proof/Machine/Flags.lean ====
section
/-! DEFINITION. Comparison conditions and predicate functions: pset and pseti (R67), plog (R68), vcmp (R163) and the
lane rules of minimum and maximum (R161). -/

namespace Sys2Proof.Machine

/-- The condition of pset and pseti (R67). The reserved codes 6 and 7 never reach it (R58). -/
def scalarCond (cond : Nat) (a b : Word) : Bool :=
  match cond with
  | 0 => decide (a = b)
  | 1 => decide (a ≠ b)
  | 2 => a.slt b
  | 3 => a.ult b
  | 4 => !a.slt b
  | 5 => !a.ult b
  | _ => false

/-- The immediate of pseti: bits [28:0] of IMM32, sign-extended from bit 28 (R67). -/
def psetiImm (imm : BitVec 29) : Word := imm.signExtend 64

/-- The function of plog (R68). -/
def plogFunc (f : Nat) (a b : Word) : Word :=
  match f with
  | 0 => a &&& b
  | 1 => a ||| b
  | 2 => a ^^^ b
  | _ => a &&& ~~~b

/-- The guard of a word whose class is neither V nor F: bit 0 of PRED, inverted by PNEG (R60). -/
def guardBit (p : Word) (pneg : Bool) : Bool := p.getLsbD 0 != pneg

/-- The lane mask of a V or F word (R61). -/
def laneMask (p : Word) (pneg : Bool) : Word := if pneg then ~~~p else p

/-- vcmp's conditions (R163): a NaN operand is false for all but ne and unordered. -/
def vecCond (cond : Nat) (a b : FVal) : Bool :=
  let nan := a.isNan || b.isNan
  match cond with
  | 0 => a.eqv b
  | 1 => nan || !a.eqv b
  | 2 => a.lt b
  | 3 => a.lt b || a.eqv b
  | 4 => b.lt a
  | 5 => b.lt a || a.eqv b
  | 6 => nan
  | _ => false

/-- The smaller of two values: −0 below +0, NaN if either is NaN (Table 6-1). -/
def FVal.min (a b : FVal) : FVal :=
  if a.isNan || b.isNan then .nan else if a.lt b then a else if b.lt a then b else if a.isNeg then a else b

/-- The larger of two values: +0 above −0, NaN if either is NaN (Table 6-1). -/
def FVal.max (a b : FVal) : FVal :=
  if a.isNan || b.isNan then .nan else if a.lt b then b else if b.lt a then a else if a.isNeg then b else a

/-- A lane's participation: bit k of the mask, bit 2k for FP64 (R159). -/
def takesPart (ty : Nat) (mask : Word) (k : Nat) : Bool := bit mask.toNat (if ty = 1 then 2 * k else k)

/-- A comparison's result written into a predicate: both bits of an FP64 element; others unchanged (R159, R163). -/
def setPredBits (ty : Nat) (p : Nat) (k : Nat) (b : Bool) : Nat :=
  if ty = 1 then setBits p (2 * k + 1) (2 * k) (if b then 3 else 0) else setBits p k k (b2n b)

end Sys2Proof.Machine
end

