-- ==== Sys2Proof/Config.lean ====
section
/-! DEFINITION. What one module fixes, and the free values: constants with no body, so that no proof can see them and
a statement about them holds whatever they are. -/

namespace Sys2Proof.Config

/-- Clusters, tiles per cluster, tiles (Table 1-3). The enabled tile count is read from CAPTILE (R2, R514). -/
def clusters : Nat := 128
def tilesPerCluster : Nat := 9
def tiles : Nat := 1152

/-- HBM3E channels and granules of 256 bytes per channel (R214). -/
def channels : Nat := 192
def granulesPerChannel : Nat := 18874368

/-- Sync counters (R41). -/
def counters : Nat := 65536

/-- Collective tags (R298). -/
def tags : Nat := 4096

/-- Optical ports (Table 0-2). -/
def ports : Nat := 48

/-- The serial number fused at manufacture (R514): FREE VALUE (log entry 4). -/
opaque serial : BitVec 64

/-- Fused key hashes and the unique device secret of R446: FREE VALUES (log entry 4). -/
opaque vkeyHash : BitVec 256
opaque deviceSecret : BitVec 256

/-- FREE VALUE (log entry 5): how far a clock has moved between two readings; applied to State's counter of draws. -/
opaque elapsed : Nat → Nat

/-- FREE VALUE (log entry 6): a value the manual calls unspecified; applied to State's counter of draws. -/
opaque unspecified : Nat → Nat

/-- FREE VALUE (log entry 7): the special-function unit inside its stated bound (R177, R178): for an operation (and, at level 2,
a piece of frsq), the base-2 flag, the level-2 flag and a result, the place below that result from which on the unit answers
at least that result. -/
opaque sfu : Nat → Bool → Bool → BitVec 32 → BitVec 160

/-- FREE VALUE (log entry 8): SHA3-256 and ML-DSA-44 as the standards give them (R446 to R452). -/
opaque sha3 : List Byte → BitVec 256
opaque mldsaVerify : List Byte → List Byte → List Byte → Bool
opaque mldsaSign : BitVec 256 → List Byte → List Byte

/-- FREE VALUE (log entry 10): the bytes of the two image slots as manufactured (Table 17-1). -/
opaque flash : Nat → BitVec 8

end Sys2Proof.Config
end

