-- ==== Sys2Proof/Machine/Ditre.lean ====
section
/-! DEFINITION. The Ditre instruction word (chapter 3): the word each instruction row stands for, which words are
legal (R58, R65, R517 and the owning chapters), and which registers a unit instruction reads and writes (R62). -/

namespace Sys2Proof.Machine

/-- CLASS and OP of a word (Table 3-1). -/
def wCls (w : Nat) : Nat := bits w 63 60
def wOp (w : Nat) : Nat := bits w 59 54

/-- Bits [63:50] of a word (Table 3-1). -/
def encHead (cls op : Nat) (h : Head) : Nat :=
  cls * 2 ^ 60 + op * 2 ^ 54 + h.pred.toNat * 2 ^ 51 + b2n h.pneg * 2 ^ 50

/-- A C word from its fields [49:44], [43:38], [37:32] and [31:0] (Table 3-3). -/
def encC (op : Nat) (h : Head) (f44 f38 f32 imm : Nat) : Nat :=
  encHead 1 op h + f44 * 2 ^ 44 + f38 * 2 ^ 38 + f32 * 2 ^ 32 + imm

def encM (op : Nat) (h : Head) (f : MF) : Nat :=
  encHead 2 op h + f.tw.toNat * 2 ^ 45 + f.ts.toNat * 2 ^ 40 + f.sa.toNat * 2 ^ 34 + f.sb.toNat * 2 ^ 28
    + f.sc.toNat * 2 ^ 22 + f.rows.toNat * 2 ^ 11 + f.flow.toNat * 2 ^ 9 + f.fmt.toNat * 2 ^ 4 + f.var.toNat

def encV (op : Nat) (h : Head) (f : VF) : Nat :=
  encHead 3 op h + f.tw.toNat * 2 ^ 45 + f.ts.toNat * 2 ^ 40 + f.vd.toNat * 2 ^ 35 + f.va.toNat * 2 ^ 30
    + f.vb.toNat * 2 ^ 25 + f.vc.toNat * 2 ^ 20 + f.ty.toNat * 2 ^ 15 + f.sa.toNat * 2 ^ 9 + f.imm9.toNat

def encF (op : Nat) (h : Head) (f : FF) : Nat :=
  encHead 4 op h + f.tw.toNat * 2 ^ 45 + f.ts.toNat * 2 ^ 40 + f.vd.toNat * 2 ^ 35 + f.va.toNat * 2 ^ 30
    + f.rsv.toNat * 2 ^ 20 + f.ty.toNat * 2 ^ 15 + f.sa.toNat * 2 ^ 9 + f.var.toNat

def encD (op : Nat) (h : Head) (f : DF) : Nat :=
  encHead 5 op h + f.tw.toNat * 2 ^ 45 + f.ts.toNat * 2 ^ 40 + f.sa.toNat * 2 ^ 34 + f.sb.toNat * 2 ^ 28
    + f.sc.toNat * 2 ^ 22 + f.chan.toNat * 2 ^ 18 + f.hint.toNat * 2 ^ 15 + f.size.toNat * 2 ^ 9 + f.var.toNat

def encArm (op : Nat) (mode : Bool) (h : Head) (f : ArmF) : Nat :=
  encHead 6 op h + b2n mode * 2 ^ 49 + b2n f.creg * 2 ^ 43 + f.sc.toNat * 2 ^ 37 + f.st.toNat * 2 ^ 31
    + b2n f.timm * 2 ^ 30 + f.ti.toNat * 2 ^ 16 + f.cnum.toNat

def encArrive (h : Head) (f : ArriveF) : Nat :=
  encHead 6 1 h + f.scope.toNat * 2 ^ 48 + f.epoch.toNat * 2 ^ 44 + b2n f.creg * 2 ^ 43 + f.sc.toNat * 2 ^ 37
    + f.sn.toNat * 2 ^ 31 + b2n f.nimm * 2 ^ 30 + f.ni.toNat * 2 ^ 16 + f.cnum.toNat

def encWait (h : Head) (f : WaitF) : Nat :=
  encHead 6 2 h + f.pd.toNat * 2 ^ 47 + b2n f.notimeout * 2 ^ 46 + b2n f.creg * 2 ^ 43 + f.sc.toNat * 2 ^ 37
    + f.timeout.toNat * 2 ^ 16 + f.cnum.toNat

def encX (op : Nat) (h : Head) (f : XF) : Nat :=
  encHead 7 op h + f.sd.toNat * 2 ^ 44 + f.sa.toNat * 2 ^ 38 + f.sb.toNat * 2 ^ 32 + f.imm.toNat

/-! ## Legal words (R58) -/

/-- Bits [hi:lo] are 0. -/
def rz (w hi lo : Nat) : Bool := decide (bits w hi lo = 0)

def legalC (op w : Nat) : Bool :=
  match op with
  | 0x00 => rz w 49 0
  | 0x01 => rz w 49 0
  | 0x0C => rz w 49 0
  | 0x28 => rz w 49 0
  | 0x02 => rz w 49 32
  | 0x03 => rz w 43 32
  | 0x04 => rz w 49 44 && rz w 37 0
  | 0x05 => rz w 37 0
  | 0x06 => rz w 49 44 && rz w 37 12 && !rz w 11 0
  | 0x07 => rz w 49 32 && !rz w 11 0
  | 0x08 => rz w 43 32
  | 0x09 => rz w 43 32
  | 0x0A => rz w 43 32 && decide (bits w 31 0 ≤ 0x0A)
  | 0x0B => rz w 49 44 && rz w 37 32 && decide (bits w 31 0 ≤ 0x02)
  | 0x23 => rz w 49 44 && rz w 25 0 && decide (bits w 28 26 ≤ 5)
  | 0x24 => rz w 46 44 && rz w 37 32 && decide (bits w 49 47 ≤ 5)
  | 0x25 => rz w 49 47 && rz w 43 41 && rz w 37 35 && rz w 31 2
  | 0x26 => rz w 35 32
  | 0x27 => rz w 35 32
  | 0x29 => rz w 43 0
  | _ =>
    if 0x0E ≤ op ∧ op ≤ 0x1B then rz w 31 0
    else if 0x1C ≤ op ∧ op ≤ 0x1F then rz w 37 32
    else if 0x20 ≤ op ∧ op ≤ 0x22 then rz w 37 32 && decide (bits w 31 0 ≤ 63)
    else false

/-- R64: a disabled token field has its lower bits at 0. -/
def tokensLegal (w : Nat) : Bool := (bit w 49 || rz w 48 45) && (bit w 44 || rz w 43 40)

/-- K values per streamed row of an output-stationary instruction (R130). -/
def osPerRow (fmt : Nat) : Nat := if fmtWidth fmt = 4 then 2 else 1

def legalM (op w : Nat) : Bool :=
  let rows := bits w 21 11
  let flow := bits w 10 9
  let fmt := bits w 8 4
  let var := bits w 3 0
  tokensLegal w && decide (rows ≤ 1024) && decide (flow ≠ 3) &&
  (match op with
  | 0 => [3, 4, 5, 6, 7, 8, 9, 10, 11, 12, 13, 14].contains fmt && !bit var 1 && !bit var 3
      && (!bit var 2 || [5, 6, 8, 9].contains fmt)
      && (decide (flow ≠ 2) || !fmtIsMx fmt || decide (rows * osPerRow fmt % 32 = 0))
  | 1 => decide (flow = 0) && decide (2 ≤ var)
      && ((decide (fmt = 1) && decide (var ≤ 14)) || (decide (fmt = 2) && decide (var ≤ 6)))
  | 2 => [1, 2, 3, 4, 5, 6, 13, 15].contains fmt && decide (bits var 1 0 ≠ 3) && !bit var 3 && decide (flow = 0)
  | 3 => decide (fmt = 0x11) && decide (var ≤ 1) && decide (flow = 0)
  | 4 => [2, 15, 17].contains fmt && decide (var = 0) && decide (flow = 0)
  | _ => false)

/-- TYPE codes FP64, FP32 and INT32 (R161). -/
def isArith (ty : Nat) : Bool := [1, 2, 15].contains ty

/-- The types vcvt converts between (R167). -/
def isCvt (ty : Nat) : Bool := [1, 2, 3, 4, 5, 6, 7, 13, 14, 15].contains ty

/-- The legality of a V word. IMM9[8:6] of vext, of which no rule speaks, must be 0 (DESIGN CHOICE, log entry 57). -/
def legalV (op w : Nat) : Bool :=
  let ty := bits w 19 15
  let imm := bits w 8 0
  let vd0 := rz w 39 35; let va0 := rz w 34 30; let vb0 := rz w 29 25; let vc0 := rz w 24 20
  let sa0 := rz w 14 9; let im0 := rz w 8 0
  let g0 := rz w 53 50
  tokensLegal w &&
  (if op ≤ 2 ∨ op = 4 ∨ op = 5 ∨ op = 0x17 then isArith ty && vc0 && sa0 && im0
  else if op = 6 ∨ op = 7 ∨ (0x14 ≤ op ∧ op ≤ 0x16) then isArith ty && vb0 && vc0 && sa0 && im0
  else if 0x0B ≤ op ∧ op ≤ 0x0E then decide (ty = 15) && vc0 && sa0 && im0
  else match op with
  | 3 => isArith ty && sa0 && im0
  | 8 =>
    let dst := bits imm 4 0
    let half := bit imm 5
    let sl := bits imm 8 6
    vb0 && vc0 && isCvt ty && decide (dst ≠ ty) &&
    (if dst = 0x15 then
      (decide (ty = 1) && decide (1 ≤ sl) && decide (sl ≤ 7) || decide (ty = 2) && decide (1 ≤ sl) && decide (sl ≤ 3))
        && !half && g0
    else isCvt dst && decide (sl = 0) && (!half || decide (ty = 1 ∨ dst = 1)))
  | 9 => isArith ty && vc0 && sa0 && rz w 39 38 && decide (imm ≤ 6)
  | 0x0A => isArith ty && sa0 && im0 && rz w 24 23
  | 0x0F => decide (ty = 15) && vc0 && sa0 && decide (imm ≤ 1)
  | 0x10 => isArith ty && va0 && vb0 && vc0
  | 0x11 => isArith ty && vd0 && vb0 && vc0
  | 0x12 => isArith ty && va0 && vb0 && vc0 && im0
  | 0x13 => isArith ty && vd0 && vb0 && vc0 && g0 && decide (imm < (if ty = 1 then 32 else 64))
  | 0x18 => isArith ty && va0 && vb0 && vc0 && sa0
  | _ => false)

def legalF (op w : Nat) : Bool :=
  let ty := bits w 19 15
  let var := bits w 8 0
  let sa0 := rz w 14 9
  tokensLegal w && rz w 29 20 &&
  (match op with
  | 0 => decide (ty = 2) && decide (var ≤ 1) && sa0
  | 1 => decide (ty = 2) && decide (var ≤ 1) && sa0
  | 2 => decide (ty = 2) && decide (var = 0) && sa0
  | 3 => decide (ty = 2) && decide (var = 0) && sa0
  | 8 => decide (ty = 2) && decide (var ≤ 3) && sa0 && rz w 39 35
  | 9 => rz w 39 0
  | 10 => decide (ty = 2) && sa0 && !bit var 8
      && (bit var 0 || (decide (bits var 3 1 ≤ 3) && decide (bits var 7 4 = 0)))
  | _ => false)

/-- Lane width in bytes of an atomic type (Table 13-1). -/
def atomLane (atype : Nat) : Nat := if atype % 2 = 0 then 4 else 8

/-- Table 13-1: SIZE, ATYPE and RET of an AOP. -/
def atomLegal (aop atype ret size : Nat) : Bool :=
  let lanes := decide (size % atomLane atype = 0) && decide (4 ≤ size) && decide (size ≤ 32)
  match aop with
  | 0 => lanes && (decide (atype ≤ 1) || decide (ret = 0))
  | 1 => lanes
  | 2 => lanes
  | 3 => decide (atype = 0) && decide (ret = 1) && decide (1 ≤ size) && decide (size ≤ 32)
  | 4 => decide (atype = 0) && decide (ret = 1) && [4, 8, 16].contains size
  | _ => false

def legalD (op w : Nat) : Bool :=
  let size := bits w 14 9
  let var := bits w 8 0
  let hint := bits w 17 15
  let chan0 := rz w 21 18
  let sb0 := rz w 33 28
  let sc0 := rz w 27 22
  let narrow := decide (1 ≤ size) && decide (size ≤ 32) && chan0
  tokensLegal w && [0, 4, 5, 6, 7].contains hint &&
  (match op with
  | 0 => decide (size = 0) && decide (var = 0)
  | 1 => narrow && sc0 && decide (var = 0)
  | 2 => narrow && sc0 && decide (var = 0)
  | 3 => narrow && rz w 8 6 && (bit var 5 || sc0)
      && atomLegal (bits var 2 0) (bits var 4 3) (bits var 5 5) size
  | 4 => decide (var ≤ 5) && sb0 && sc0 && decide (size = 0) && decide (hint = 0)
  | 5 => decide (var ≤ 2) && rz w 39 34 && sb0 && sc0 && decide (size = 0) && decide (hint = 0)
  | _ => false)

def legalY (op w : Nat) : Bool :=
  let creg := bit w 43
  let cnumOk := !creg || rz w 15 0
  match op with
  | 0 => rz w 49 44 && cnumOk && (bit w 30 || rz w 29 16)
  | 1 => decide (bits w 49 48 ≠ 3) && cnumOk && (!creg || rz w 47 44) && (bit w 30 || rz w 29 16)
  | 2 => rz w 45 44 && rz w 36 32 && cnumOk && (!bit w 46 || rz w 31 16)
  | 3 => rz w 48 44 && cnumOk && (bit w 30 || rz w 29 16)
  | 4 => rz w 36 32 && rz w 29 16 && cnumOk && decide (bits w 31 30 ≠ 3)
  | 5 => rz w 49 4
  | 6 => rz w 49 12
  | 7 => rz w 43 4
  | 8 => rz w 47 0 && decide (bits w 49 48 ≠ 3)
  | 9 => rz w 46 44 && rz w 25 0
  | 10 => rz w 46 44 && rz w 31 0
  | _ => false

def legalX (op w : Nat) : Bool :=
  match op with
  | 0 => rz w 37 0
  | 1 => rz w 31 17 && decide (bits w 15 14 ≠ 3)
  | 2 => rz w 37 3 && decide (bits w 2 0 ≤ 5)
  | 3 => rz w 37 0
  | 4 => rz w 37 32 && rz w 31 22
  | 5 => rz w 37 0
  | _ => false

/-- R58: the word is not ILLEGAL. -/
def legal (w : Nat) : Bool :=
  match wCls w with
  | 1 => legalC (wOp w) w
  | 2 => legalM (wOp w) w
  | 3 => legalV (wOp w) w
  | 4 => legalF (wOp w) w
  | 5 => legalD (wOp w) w
  | 6 => legalY (wOp w) w
  | 7 => legalX (wOp w) w
  | _ => false

/-! ## Registers of a unit instruction (R62)

Register names as numbers: 0–63 scalars, 64–95 vectors, 96–103 predicates. What issue captures (scalars, the guard)
is not listed: issue itself waits for it. -/

/-- Registers a started unit instruction reads. -/
def uReads (w : Nat) : List Nat :=
  let va := 64 + bits w 34 30
  let vb := 64 + bits w 29 25
  let vc := 64 + bits w 24 20
  match wCls w with
  | 3 =>
    let op := wOp w
    if op = 0x10 ∨ op = 0x12 ∨ op = 0x18 then []
    else if op = 3 then [va, vb, vc]
    else if op = 0x0A then [va, vb, 96 + bits w 22 20]
    else if op ≤ 5 ∨ op = 9 ∨ (0x0B ≤ op ∧ op ≤ 0x0F) ∨ op = 0x17 then [va, vb]
    else [va]
  | 4 => if wOp w = 9 then [] else [va]
  | _ => []

/-- Registers a started unit instruction writes. -/
def uWrites (w : Nat) : List Nat :=
  let vd := 64 + bits w 39 35
  match wCls w with
  | 3 =>
    match wOp w with
    | 9 => [96 + bits w 37 35]
    | 0x11 => []
    | 0x13 => [bits w 14 9]
    | _ => [vd]
  | 4 => if wOp w = 8 ∨ wOp w = 9 then [] else [vd]
  | 5 => if wOp w = 4 then [bits w 39 34] else []
  | _ => []

/-- Scalar registers and the guard that issue captures for a unit instruction. -/
def uCaptures (w : Nat) : List Nat :=
  let g := 96 + bits w 53 51
  match wCls w with
  | 2 => [g, bits w 39 34, bits w 33 28, bits w 27 22]
  | 3 =>
    let op := wOp w
    if op = 0x10 ∨ op = 0x11 ∨ op = 0x12 then [g, bits w 14 9]
    else if op = 8 then [g, bits w 14 9, bits w 14 9 + 1]
    else [g]
  | 4 => [g]
  | 5 => if wOp w = 4 ∨ wOp w = 5 then [g] else [g, bits w 39 34, bits w 33 28, bits w 27 22]
  | _ => [g]

/-- The GOVCOST entry an operation is charged by (Table 14-1). -/
def costKey (w : Nat) : Nat :=
  let op := wOp w
  match wCls w with
  | 2 => if op ≤ 1 then 0 else 5
  | 3 =>
    let ty := bits w 19 15
    if op = 8 ∨ op = 9 ∨ op = 0x10 ∨ op = 0x11 ∨ op = 0x13 ∨ op = 0x17 then 10
    else if 0x14 ≤ op ∧ op ≤ 0x16 then 11
    else if op = 0x0A ∨ (0x0B ≤ op ∧ op ≤ 0x0F) ∨ op = 0x12 ∨ op = 0x18 then 9
    else if ty = 1 then 8 else if ty = 2 then 7 else 9
  | 4 => if op ≤ 3 then 12 else 13
  | 5 => if op = 0 ∨ op = 4 ∨ op = 5 then 14 else 15
  | _ => 16

end Sys2Proof.Machine
end

