-- ==== Sys2Proof/Machine/RegNames.lean ====
section
/-! DEFINITION. The names of the control-space registers (chapter 21, Table 21-1, and the register tables of
every chapter) and the types of the register table. The table itself is Machine/Registers.lean. -/

namespace Sys2Proof.Machine

/-- The 139 register definitions of the manual, one constructor each, by the manual's names. -/
inductive Reg where
  | SEGDESC
  | SCCOUNT
  | SCTARGET
  | SCSTAT
  | SCWAIT
  | SCDISC
  | SCDISCLAST
  | DLBCTL
  | NUMCFG
  | CRUSTCFG
  | CRUSTCHK
  | CRUSTTRN
  | CRUSTPRM
  | CRUSTLAST
  | STCLSEL
  | STCHSEL
  | CHSTAT
  | CHCTL
  | CHREM
  | CHCRC
  | CHOUT
  | CHOVF
  | CHCHUNK
  | CHDESC
  | MCHSEL
  | MCHMAP
  | MCHCTL
  | MCHSTAT
  | TGCFG
  | TGRANGE
  | TGSEED
  | TGERR
  | TGFIRST
  | TGUSER
  | MCHCNT
  | TGLANE
  | RTENT
  | DWENT
  | FABCTL
  | RTEPOCH
  | FLASTDROP
  | FCOUNT
  | FREPLAY
  | PORTSEL
  | PORTCTL
  | PORTSTAT
  | PCOUNT
  | RINGSTAT
  | LANESTAT
  | LANEEQ
  | CPCTL
  | CPCUR
  | CPSTAT
  | LASERSTAT
  | SPARE
  | LDMAP
  | PLBUND
  | PLLANE
  | BKSEL
  | BKSTATE
  | BKMISS
  | BKLAST
  | BKLATE
  | BKSPEC
  | BKOVF
  | BKCTL
  | CESTRAY
  | RMCTL
  | RMALIAS
  | RMREFLAST
  | RMCOUNT
  | POWERCAP
  | GOVSTAT
  | PAUSECNT
  | SPRSTAT
  | SPRWEAR
  | GOVCOST
  | DIEREF
  | SENSSUSP
  | TSENS
  | TOTHER
  | INTEGCFG
  | FENCENOTE
  | DRAINCTL
  | DRAINSTAT
  | HEALTHFLAG
  | FENCECL
  | FENCEARR
  | FENCETILE
  | FENCEOTH
  | D2DSTAT
  | SRAMCNT
  | HSCFG
  | HSSEL
  | HSUNIT
  | HSMOD
  | MIRWIN
  | TWINCFG
  | TWINCTL
  | TWINSTAT
  | MIRCNT
  | MIRPEER
  | SHCFG
  | SHSTAT
  | HDSTAT
  | HDFUSE
  | HDVER
  | HDCTL
  | EDADMIT
  | LOGSEL
  | LOGPTR
  | LOGLOST
  | LOGREC
  | SQCFG
  | SQDB
  | CQCFG
  | CQDB
  | EVRCFG
  | EVRSTAT
  | HLSTAT
  | RSTCTL
  | PWRSTAT
  | RSTCAUSE
  | STRAPS
  | IDVENDOR
  | IDPART
  | IDSERIAL
  | CAPTILE
  | CAPMEM
  | CAPSYNC
  | CAPCACHE
  | CAPFMT
  | CAPPORT
  | CAPEDGE
  | CAPSTACK
  | CAPLINK
  | CAPBOND
  | CSLAST
  | CSCOUNT
deriving DecidableEq, Repr

/-- The key of entry `i` of a register in the register store. -/
def Reg.key (r : Reg) (i : Nat) : Nat := r.ctorIdx * 2 ^ 24 + i

/-- Windows of the control space (Table 21-1). -/
inductive Win where
  | identity
  | job
  | segment
  | power
  | hearth
  | health
  | twin
  | rack
  | hostlink
  | collective
  | channel
  | memchan
  | port
  | optics
  | governor
  | fabric
  | syncmap
deriving DecidableEq, Repr

/-- Access codes of Table 0-3. -/
inductive Acc where
  | ro | rw | w1c | w1s | wo | rwH
deriving DecidableEq, Repr

/-- Survival classes of R7. -/
inductive Surv where
  | s0 | s1 | s2 | s3
deriving DecidableEq, Repr

/-- Deep markers of R8. -/
inductive Deep where
  | restored | defaults
deriving DecidableEq, Repr

/-- A field [hi:lo] of a register. -/
structure Fld where
  reg : Reg
  hi : Nat
  lo : Nat
deriving DecidableEq, Repr

/-- One row of a register's field table (R5). Reserved rows are left out: they read 0 and ignore writes (R6). -/
structure FieldRow where
  fld : Fld
  acc : Acc
  dflt : Nat
deriving DecidableEq, Repr

/-- A register's header line (R5): where it lies, its array dimensions as (count, stride) pairs from the
outermost in, its width, its survival class, its Deep marker, and its field rows. -/
structure RegSpec where
  win : Win
  off : Nat
  dims : List (Nat × Nat)
  width : Nat
  surv : Surv
  deep : Deep
  fields : List FieldRow
deriving DecidableEq, Repr

end Sys2Proof.Machine
end

