-- ==== Sys2Proof/Machine/Registers.lean ====
section
/-! DEFINITION. The register tables of the manual: windows (Table 21-1), and for every register its place, width,
survival class, Deep marker and field table (R5 to R8), one row per line of the manual's tables. -/

namespace Sys2Proof.Machine

/-- Base of a window (Table 21-1). -/
def Win.base : Win → Nat
  | .identity => 0x0
  | .job => 0x1000
  | .segment => 0x2000
  | .power => 0x3000
  | .hearth => 0x4000
  | .health => 0x5000
  | .twin => 0x6000
  | .rack => 0x7000
  | .hostlink => 0x8000
  | .collective => 0xc000
  | .channel => 0x10000
  | .memchan => 0x11000
  | .port => 0x12000
  | .optics => 0x18000
  | .governor => 0x20000
  | .fabric => 0x100000
  | .syncmap => 0x400000

/-- Size of a window in bytes (Table 21-1). -/
def Win.size : Win → Nat
  | .identity => 0x1000
  | .job => 0x1000
  | .segment => 0x1000
  | .power => 0x1000
  | .hearth => 0x1000
  | .health => 0x1000
  | .twin => 0x1000
  | .rack => 0x1000
  | .hostlink => 0x4000
  | .collective => 0x1000
  | .channel => 0x1000
  | .memchan => 0x1000
  | .port => 0x1000
  | .optics => 0x8000
  | .governor => 0x4000
  | .fabric => 0x100000
  | .syncmap => 0x400000

/-- Every window, in the order of Table 21-1. -/
def Win.all : List Win :=
  [.identity, .job, .segment, .power, .hearth, .health, .twin, .rack, .hostlink, .collective, .channel, .memchan, .port, .optics, .governor, .fabric, .syncmap]

/-! Field names: `F.<register>_<field>`. -/

def F.SEGDESC_LENGTH : Fld := ⟨.SEGDESC, 79, 48⟩
def F.SEGDESC_BASE : Fld := ⟨.SEGDESC, 47, 16⟩
def F.SEGDESC_PERM_ATOMIC : Fld := ⟨.SEGDESC, 9, 9⟩
def F.SEGDESC_PERM_WRITE : Fld := ⟨.SEGDESC, 8, 8⟩
def F.SEGDESC_PERM_READ : Fld := ⟨.SEGDESC, 7, 7⟩
def F.SEGDESC_RACKVIS : Fld := ⟨.SEGDESC, 6, 6⟩
def F.SEGDESC_MIRROR : Fld := ⟨.SEGDESC, 5, 5⟩
def F.SEGDESC_HINT : Fld := ⟨.SEGDESC, 4, 3⟩
def F.SEGDESC_PROT : Fld := ⟨.SEGDESC, 2, 2⟩
def F.SEGDESC_VALID : Fld := ⟨.SEGDESC, 0, 0⟩
def F.SCCOUNT_COUNT : Fld := ⟨.SCCOUNT, 31, 0⟩
def F.SCTARGET_TARGET : Fld := ⟨.SCTARGET, 31, 0⟩
def F.SCSTAT_OVF : Fld := ⟨.SCSTAT, 7, 7⟩
def F.SCSTAT_REACHED : Fld := ⟨.SCSTAT, 6, 6⟩
def F.SCSTAT_EPOCH : Fld := ⟨.SCSTAT, 3, 0⟩
def F.SCWAIT_WAITERS : Fld := ⟨.SCWAIT, 127, 0⟩
def F.SCDISC_DISCARDED : Fld := ⟨.SCDISC, 31, 0⟩
def F.SCDISCLAST_SEEN : Fld := ⟨.SCDISCLAST, 16, 16⟩
def F.SCDISCLAST_COUNTER : Fld := ⟨.SCDISCLAST, 15, 0⟩
def F.DLBCTL_SCOPE : Fld := ⟨.DLBCTL, 2, 1⟩
def F.DLBCTL_EN : Fld := ⟨.DLBCTL, 0, 0⟩
def F.NUMCFG_SRSEED : Fld := ⟨.NUMCFG, 127, 64⟩
def F.NUMCFG_REDFMT : Fld := ⟨.NUMCFG, 11, 10⟩
def F.NUMCFG_F64SL : Fld := ⟨.NUMCFG, 9, 9⟩
def F.NUMCFG_F32SL : Fld := ⟨.NUMCFG, 8, 8⟩
def F.NUMCFG_SAT : Fld := ⟨.NUMCFG, 5, 5⟩
def F.NUMCFG_RND : Fld := ⟨.NUMCFG, 4, 3⟩
def F.NUMCFG_SFULVL : Fld := ⟨.NUMCFG, 2, 1⟩
def F.NUMCFG_ACCMODE : Fld := ⟨.NUMCFG, 0, 0⟩
def F.CRUSTCFG_LEVEL : Fld := ⟨.CRUSTCFG, 1, 0⟩
def F.CRUSTCHK_CHECKED : Fld := ⟨.CRUSTCHK, 63, 0⟩
def F.CRUSTTRN_TRANSIENT : Fld := ⟨.CRUSTTRN, 31, 0⟩
def F.CRUSTPRM_PERMANENT : Fld := ⟨.CRUSTPRM, 31, 0⟩
def F.CRUSTLAST_FPRINT : Fld := ⟨.CRUSTLAST, 127, 64⟩
def F.CRUSTLAST_TILE : Fld := ⟨.CRUSTLAST, 44, 34⟩
def F.CRUSTLAST_ROW : Fld := ⟨.CRUSTLAST, 33, 24⟩
def F.CRUSTLAST_COL : Fld := ⟨.CRUSTLAST, 23, 18⟩
def F.CRUSTLAST_ROWV : Fld := ⟨.CRUSTLAST, 17, 17⟩
def F.CRUSTLAST_COLV : Fld := ⟨.CRUSTLAST, 16, 16⟩
def F.CRUSTLAST_DUAL : Fld := ⟨.CRUSTLAST, 2, 2⟩
def F.CRUSTLAST_KIND : Fld := ⟨.CRUSTLAST, 1, 0⟩
def F.STCLSEL_CLUSTER : Fld := ⟨.STCLSEL, 6, 0⟩
def F.STCHSEL_CHANNEL : Fld := ⟨.STCHSEL, 3, 0⟩
def F.CHSTAT_QDEPTH : Fld := ⟨.CHSTAT, 23, 20⟩
def F.CHSTAT_LASTST : Fld := ⟨.CHSTAT, 19, 16⟩
def F.CHSTAT_CUROP : Fld := ⟨.CHSTAT, 15, 12⟩
def F.CHSTAT_HELD : Fld := ⟨.CHSTAT, 1, 1⟩
def F.CHSTAT_BUSY : Fld := ⟨.CHSTAT, 0, 0⟩
def F.CHCTL_PENDING : Fld := ⟨.CHCTL, 31, 31⟩
def F.CHCTL_ACTION : Fld := ⟨.CHCTL, 1, 0⟩
def F.CHREM_REMAIN : Fld := ⟨.CHREM, 31, 0⟩
def F.CHCRC_CRC : Fld := ⟨.CHCRC, 31, 0⟩
def F.CHOUT_BYTES : Fld := ⟨.CHOUT, 63, 0⟩
def F.CHOVF_OVFBLK : Fld := ⟨.CHOVF, 31, 0⟩
def F.CHCHUNK_GRANTS : Fld := ⟨.CHCHUNK, 63, 0⟩
def F.CHDESC_DESC : Fld := ⟨.CHDESC, 511, 0⟩
def F.MCHSEL_CHANNEL : Fld := ⟨.MCHSEL, 7, 0⟩
def F.MCHMAP_MAPOUT : Fld := ⟨.MCHMAP, 1, 1⟩
def F.MCHMAP_ACTIVE : Fld := ⟨.MCHMAP, 0, 0⟩
def F.MCHCTL_PENDING : Fld := ⟨.MCHCTL, 31, 31⟩
def F.MCHCTL_ACTION : Fld := ⟨.MCHCTL, 2, 0⟩
def F.MCHSTAT_TGFAIL : Fld := ⟨.MCHSTAT, 7, 7⟩
def F.MCHSTAT_REFUSED : Fld := ⟨.MCHSTAT, 6, 6⟩
def F.MCHSTAT_TGDONE : Fld := ⟨.MCHSTAT, 5, 5⟩
def F.MCHSTAT_TGRUN : Fld := ⟨.MCHSTAT, 4, 4⟩
def F.MCHSTAT_SERVICE : Fld := ⟨.MCHSTAT, 1, 0⟩
def F.TGCFG_PASSES : Fld := ⟨.TGCFG, 63, 32⟩
def F.TGCFG_INVERT : Fld := ⟨.TGCFG, 8, 8⟩
def F.TGCFG_PCMASK : Fld := ⟨.TGCFG, 7, 6⟩
def F.TGCFG_MODE : Fld := ⟨.TGCFG, 5, 4⟩
def F.TGCFG_PATTERN : Fld := ⟨.TGCFG, 2, 0⟩
def F.TGRANGE_COUNT : Fld := ⟨.TGRANGE, 56, 32⟩
def F.TGRANGE_FIRST : Fld := ⟨.TGRANGE, 24, 0⟩
def F.TGSEED_SEED : Fld := ⟨.TGSEED, 30, 0⟩
def F.TGERR_BITS : Fld := ⟨.TGERR, 63, 0⟩
def F.TGFIRST_VALID : Fld := ⟨.TGFIRST, 63, 63⟩
def F.TGFIRST_LANE : Fld := ⟨.TGFIRST, 62, 56⟩
def F.TGFIRST_ADDR : Fld := ⟨.TGFIRST, 32, 0⟩
def F.TGUSER_PATTERN : Fld := ⟨.TGUSER, 255, 0⟩
def F.MCHCNT_SCRUBERR : Fld := ⟨.MCHCNT, 127, 96⟩
def F.MCHCNT_DETERR : Fld := ⟨.MCHCNT, 95, 64⟩
def F.MCHCNT_CORUNC : Fld := ⟨.MCHCNT, 63, 32⟩
def F.MCHCNT_CORFIX : Fld := ⟨.MCHCNT, 31, 0⟩
def F.TGLANE_MISMATCH : Fld := ⟨.TGLANE, 31, 0⟩
def F.RTENT_VALID : Fld := ⟨.RTENT, 15, 15⟩
def F.RTENT_PROD : Fld := ⟨.RTENT, 12, 0⟩
def F.DWENT_VALID : Fld := ⟨.DWENT, 15, 15⟩
def F.DWENT_EJECT : Fld := ⟨.DWENT, 14, 14⟩
def F.DWENT_OUT : Fld := ⟨.DWENT, 12, 0⟩
def F.FABCTL_PENDING : Fld := ⟨.FABCTL, 63, 63⟩
def F.FABCTL_RESENDMAX : Fld := ⟨.FABCTL, 31, 28⟩
def F.FABCTL_E2ETO : Fld := ⟨.FABCTL, 23, 8⟩
def F.FABCTL_HOPBUDGET : Fld := ⟨.FABCTL, 7, 0⟩
def F.RTEPOCH_PENDING : Fld := ⟨.RTEPOCH, 31, 31⟩
def F.RTEPOCH_EPBUSY : Fld := ⟨.RTEPOCH, 3, 3⟩
def F.RTEPOCH_HOLD : Fld := ⟨.RTEPOCH, 2, 2⟩
def F.RTEPOCH_FLIP : Fld := ⟨.RTEPOCH, 1, 1⟩
def F.RTEPOCH_CUR : Fld := ⟨.RTEPOCH, 0, 0⟩
def F.FLASTDROP_HDR : Fld := ⟨.FLASTDROP, 127, 48⟩
def F.FLASTDROP_SWITCH : Fld := ⟨.FLASTDROP, 23, 16⟩
def F.FLASTDROP_REASON : Fld := ⟨.FLASTDROP, 7, 0⟩
def F.FCOUNT_COUNT : Fld := ⟨.FCOUNT, 63, 0⟩
def F.FREPLAY_BADBLK : Fld := ⟨.FREPLAY, 63, 32⟩
def F.FREPLAY_REPLAY : Fld := ⟨.FREPLAY, 31, 0⟩
def F.PORTSEL_PORT : Fld := ⟨.PORTSEL, 5, 0⟩
def F.PORTCTL_PENDING : Fld := ⟨.PORTCTL, 31, 31⟩
def F.PORTCTL_ACTION : Fld := ⟨.PORTCTL, 1, 0⟩
def F.PORTSTAT_LANEUP : Fld := ⟨.PORTSTAT, 31, 16⟩
def F.PORTSTAT_TXSPARE : Fld := ⟨.PORTSTAT, 11, 10⟩
def F.PORTSTAT_RXSPARE : Fld := ⟨.PORTSTAT, 9, 8⟩
def F.PORTSTAT_LOS : Fld := ⟨.PORTSTAT, 7, 7⟩
def F.PORTSTAT_STATE : Fld := ⟨.PORTSTAT, 3, 0⟩
def F.PCOUNT_COUNT : Fld := ⟨.PCOUNT, 63, 0⟩
def F.RINGSTAT_HEATER : Fld := ⟨.RINGSTAT, 27, 16⟩
def F.RINGSTAT_SLOT : Fld := ⟨.RINGSTAT, 12, 8⟩
def F.RINGSTAT_LOCK : Fld := ⟨.RINGSTAT, 3, 0⟩
def F.LANESTAT_RXPWR : Fld := ⟨.LANESTAT, 31, 24⟩
def F.LANESTAT_PEERDEV : Fld := ⟨.LANESTAT, 23, 16⟩
def F.LANESTAT_PEERPORT : Fld := ⟨.LANESTAT, 15, 10⟩
def F.LANESTAT_ATTEMPTS : Fld := ⟨.LANESTAT, 9, 8⟩
def F.LANESTAT_LSTATE : Fld := ⟨.LANESTAT, 3, 0⟩
def F.LANEEQ_THR2 : Fld := ⟨.LANEEQ, 44, 38⟩
def F.LANEEQ_THR1 : Fld := ⟨.LANEEQ, 37, 31⟩
def F.LANEEQ_THR0 : Fld := ⟨.LANEEQ, 30, 24⟩
def F.LANEEQ_LVL3 : Fld := ⟨.LANEEQ, 23, 18⟩
def F.LANEEQ_LVL2 : Fld := ⟨.LANEEQ, 17, 12⟩
def F.LANEEQ_LVL1 : Fld := ⟨.LANEEQ, 11, 6⟩
def F.LANEEQ_LVL0 : Fld := ⟨.LANEEQ, 5, 0⟩
def F.CPCTL_PENDING : Fld := ⟨.CPCTL, 31, 31⟩
def F.CPCTL_RT : Fld := ⟨.CPCTL, 5, 5⟩
def F.CPCTL_GO : Fld := ⟨.CPCTL, 4, 4⟩
def F.CPCTL_PLAN : Fld := ⟨.CPCTL, 3, 0⟩
def F.CPCUR_CUR : Fld := ⟨.CPCUR, 3, 0⟩
def F.CPSTAT_NOTUP : Fld := ⟨.CPSTAT, 31, 8⟩
def F.CPSTAT_SWITCHING : Fld := ⟨.CPSTAT, 7, 7⟩
def F.CPSTAT_LAST : Fld := ⟨.CPSTAT, 3, 0⟩
def F.LASERSTAT_PROBE : Fld := ⟨.LASERSTAT, 10, 10⟩
def F.LASERSTAT_EN : Fld := ⟨.LASERSTAT, 9, 9⟩
def F.LASERSTAT_HIGH : Fld := ⟨.LASERSTAT, 7, 4⟩
def F.LASERSTAT_LOW : Fld := ⟨.LASERSTAT, 3, 0⟩
def F.SPARE_TAKEN : Fld := ⟨.SPARE, 15, 15⟩
def F.SPARE_RELEASE : Fld := ⟨.SPARE, 14, 14⟩
def F.SPARE_TARGET : Fld := ⟨.SPARE, 3, 0⟩
def F.LDMAP_VALID : Fld := ⟨.LDMAP, 15, 15⟩
def F.LDMAP_FARPORT : Fld := ⟨.LDMAP, 13, 8⟩
def F.LDMAP_FARDEV : Fld := ⟨.LDMAP, 7, 0⟩
def F.PLBUND_EN : Fld := ⟨.PLBUND, 15, 15⟩
def F.PLBUND_DEST : Fld := ⟨.PLBUND, 7, 0⟩
def F.PLLANE_BUNDLE : Fld := ⟨.PLLANE, 3, 0⟩
def F.BKSEL_TAG : Fld := ⟨.BKSEL, 11, 0⟩
def F.BKSTATE_GEN : Fld := ⟨.BKSTATE, 31, 24⟩
def F.BKSTATE_OP : Fld := ⟨.BKSTATE, 23, 16⟩
def F.BKSTATE_REASON : Fld := ⟨.BKSTATE, 11, 8⟩
def F.BKSTATE_STATE : Fld := ⟨.BKSTATE, 3, 0⟩
def F.BKMISS_NMISS : Fld := ⟨.BKMISS, 24, 16⟩
def F.BKMISS_RANK : Fld := ⟨.BKMISS, 7, 0⟩
def F.BKLAST_NARR : Fld := ⟨.BKLAST, 24, 16⟩
def F.BKLAST_BACKUP : Fld := ⟨.BKLAST, 9, 9⟩
def F.BKLAST_VALID : Fld := ⟨.BKLAST, 8, 8⟩
def F.BKLAST_RANK : Fld := ⟨.BKLAST, 7, 0⟩
def F.BKLATE_FCLKS : Fld := ⟨.BKLATE, 31, 0⟩
def F.BKSPEC_NANV : Fld := ⟨.BKSPEC, 8, 8⟩
def F.BKSPEC_NANRANK : Fld := ⟨.BKSPEC, 7, 0⟩
def F.BKOVF_BLOCKS : Fld := ⟨.BKOVF, 31, 0⟩
def F.BKCTL_PENDING : Fld := ⟨.BKCTL, 31, 31⟩
def F.BKCTL_ABORT : Fld := ⟨.BKCTL, 0, 0⟩
def F.CESTRAY_COUNT : Fld := ⟨.CESTRAY, 63, 0⟩
def F.RMCTL_PENDING : Fld := ⟨.RMCTL, 31, 31⟩
def F.RMCTL_HINT : Fld := ⟨.RMCTL, 15, 8⟩
def F.RMCTL_RETRYMAX : Fld := ⟨.RMCTL, 7, 0⟩
def F.RMALIAS_PENDING : Fld := ⟨.RMALIAS, 31, 31⟩
def F.RMALIAS_VALID : Fld := ⟨.RMALIAS, 8, 8⟩
def F.RMALIAS_ALIAS : Fld := ⟨.RMALIAS, 7, 0⟩
def F.RMREFLAST_ADDR : Fld := ⟨.RMREFLAST, 119, 64⟩
def F.RMREFLAST_UNIT : Fld := ⟨.RMREFLAST, 47, 46⟩
def F.RMREFLAST_NUM : Fld := ⟨.RMREFLAST, 42, 32⟩
def F.RMREFLAST_VALID : Fld := ⟨.RMREFLAST, 8, 8⟩
def F.RMREFLAST_REASON : Fld := ⟨.RMREFLAST, 7, 0⟩
def F.RMCOUNT_COUNT : Fld := ⟨.RMCOUNT, 63, 0⟩
def F.POWERCAP_PENDING : Fld := ⟨.POWERCAP, 31, 31⟩
def F.POWERCAP_SPRINTEN : Fld := ⟨.POWERCAP, 12, 12⟩
def F.POWERCAP_WATTS : Fld := ⟨.POWERCAP, 10, 0⟩
def F.GOVSTAT_REF : Fld := ⟨.GOVSTAT, 63, 32⟩
def F.GOVSTAT_FREQ : Fld := ⟨.GOVSTAT, 31, 24⟩
def F.GOVSTAT_THRF : Fld := ⟨.GOVSTAT, 23, 20⟩
def F.GOVSTAT_DUTY : Fld := ⟨.GOVSTAT, 19, 16⟩
def F.GOVSTAT_RATE : Fld := ⟨.GOVSTAT, 4, 4⟩
def F.GOVSTAT_THROTTLE : Fld := ⟨.GOVSTAT, 3, 3⟩
def F.GOVSTAT_WARN : Fld := ⟨.GOVSTAT, 2, 2⟩
def F.GOVSTAT_SPRINT : Fld := ⟨.GOVSTAT, 1, 1⟩
def F.GOVSTAT_OVER : Fld := ⟨.GOVSTAT, 0, 0⟩
def F.PAUSECNT_PAUSES : Fld := ⟨.PAUSECNT, 63, 0⟩
def F.SPRSTAT_WINUS : Fld := ⟨.SPRSTAT, 31, 18⟩
def F.SPRSTAT_LASTCAP : Fld := ⟨.SPRSTAT, 3, 0⟩
def F.SPRWEAR_SECONDS : Fld := ⟨.SPRWEAR, 31, 0⟩
def F.GOVCOST_COST : Fld := ⟨.GOVCOST, 15, 0⟩
def F.DIEREF_PENDING : Fld := ⟨.DIEREF, 31, 31⟩
def F.DIEREF_REF : Fld := ⟨.DIEREF, 27, 0⟩
def F.SENSSUSP_SUSPECT : Fld := ⟨.SENSSUSP, 63, 0⟩
def F.TSENS_TEMP : Fld := ⟨.TSENS, 15, 0⟩
def F.TOTHER_TEMP : Fld := ⟨.TOTHER, 15, 0⟩
def F.INTEGCFG_CLASS : Fld := ⟨.INTEGCFG, 0, 0⟩
def F.FENCENOTE_EN : Fld := ⟨.FENCENOTE, 31, 31⟩
def F.FENCENOTE_CNUM : Fld := ⟨.FENCENOTE, 15, 0⟩
def F.DRAINCTL_PENDING : Fld := ⟨.DRAINCTL, 31, 31⟩
def F.DRAINCTL_ACTION : Fld := ⟨.DRAINCTL, 1, 0⟩
def F.DRAINSTAT_CAUSE : Fld := ⟨.DRAINSTAT, 3, 2⟩
def F.DRAINSTAT_STATE : Fld := ⟨.DRAINSTAT, 1, 0⟩
def F.HEALTHFLAG_EXPELLED : Fld := ⟨.HEALTHFLAG, 1, 1⟩
def F.HEALTHFLAG_REPLACE : Fld := ⟨.HEALTHFLAG, 0, 0⟩
def F.FENCECL_FENCED : Fld := ⟨.FENCECL, 127, 0⟩
def F.FENCEARR_FENCED : Fld := ⟨.FENCEARR, 63, 0⟩
def F.FENCETILE_FENCED : Fld := ⟨.FENCETILE, 63, 0⟩
def F.FENCEOTH_ATT : Fld := ⟨.FENCEOTH, 27, 12⟩
def F.FENCEOTH_STACK : Fld := ⟨.FENCEOTH, 11, 0⟩
def F.D2DSTAT_WIDTH : Fld := ⟨.D2DSTAT, 9, 8⟩
def F.D2DSTAT_SPARES : Fld := ⟨.D2DSTAT, 7, 0⟩
def F.SRAMCNT_UNCORR : Fld := ⟨.SRAMCNT, 63, 32⟩
def F.SRAMCNT_CORR : Fld := ⟨.SRAMCNT, 31, 0⟩
def F.HSCFG_HALFLIFE : Fld := ⟨.HSCFG, 31, 24⟩
def F.HSCFG_EXPEL : Fld := ⟨.HSCFG, 19, 10⟩
def F.HSCFG_WARN : Fld := ⟨.HSCFG, 9, 0⟩
def F.HSSEL_CLASS : Fld := ⟨.HSSEL, 9, 8⟩
def F.HSSEL_INDEX : Fld := ⟨.HSSEL, 7, 0⟩
def F.HSUNIT_PENALTY : Fld := ⟨.HSUNIT, 31, 16⟩
def F.HSUNIT_SCORE : Fld := ⟨.HSUNIT, 9, 0⟩
def F.HSMOD_CLASS : Fld := ⟨.HSMOD, 27, 26⟩
def F.HSMOD_INDEX : Fld := ⟨.HSMOD, 25, 18⟩
def F.HSMOD_SCORE : Fld := ⟨.HSMOD, 9, 0⟩
def F.MIRWIN_LOCBASE : Fld := ⟨.MIRWIN, 127, 96⟩
def F.MIRWIN_SRCBASE : Fld := ⟨.MIRWIN, 95, 64⟩
def F.MIRWIN_LENGTH : Fld := ⟨.MIRWIN, 63, 32⟩
def F.MIRWIN_PROMSEG : Fld := ⟨.MIRWIN, 15, 10⟩
def F.MIRWIN_PERM_ATOMIC : Fld := ⟨.MIRWIN, 9, 9⟩
def F.MIRWIN_PERM_WRITE : Fld := ⟨.MIRWIN, 8, 8⟩
def F.MIRWIN_PERM_READ : Fld := ⟨.MIRWIN, 7, 7⟩
def F.MIRWIN_RACKVIS : Fld := ⟨.MIRWIN, 6, 6⟩
def F.MIRWIN_VALID : Fld := ⟨.MIRWIN, 0, 0⟩
def F.TWINCFG_SHEN : Fld := ⟨.TWINCFG, 18, 18⟩
def F.TWINCFG_FAILEN : Fld := ⟨.TWINCFG, 17, 17⟩
def F.TWINCFG_PEN : Fld := ⟨.TWINCFG, 16, 16⟩
def F.TWINCFG_PCNUM : Fld := ⟨.TWINCFG, 15, 0⟩
def F.TWINCTL_PENDING : Fld := ⟨.TWINCTL, 31, 31⟩
def F.TWINCTL_ACTION : Fld := ⟨.TWINCTL, 1, 0⟩
def F.TWINSTAT_PEERDEV : Fld := ⟨.TWINSTAT, 31, 24⟩
def F.TWINSTAT_GAP : Fld := ⟨.TWINSTAT, 15, 15⟩
def F.TWINSTAT_FAILOVER : Fld := ⟨.TWINSTAT, 14, 14⟩
def F.TWINSTAT_CONFLICT : Fld := ⟨.TWINSTAT, 13, 13⟩
def F.TWINSTAT_MSTATE : Fld := ⟨.TWINSTAT, 12, 11⟩
def F.TWINSTAT_PEER : Fld := ⟨.TWINSTAT, 10, 8⟩
def F.TWINSTAT_PROMOTED : Fld := ⟨.TWINSTAT, 7, 7⟩
def F.TWINSTAT_ROLE : Fld := ⟨.TWINSTAT, 0, 0⟩
def F.MIRCNT_COUNT : Fld := ⟨.MIRCNT, 63, 0⟩
def F.MIRPEER_PEERGEN : Fld := ⟨.MIRPEER, 63, 48⟩
def F.MIRPEER_RECEIVED : Fld := ⟨.MIRPEER, 47, 0⟩
def F.SHCFG_MBOX : Fld := ⟨.SHCFG, 51, 16⟩
def F.SHCFG_CNUM : Fld := ⟨.SHCFG, 15, 0⟩
def F.SHSTAT_MATCHES : Fld := ⟨.SHSTAT, 127, 96⟩
def F.SHSTAT_MISMATCHES : Fld := ⟨.SHSTAT, 95, 64⟩
def F.SHSTAT_LASTBAD : Fld := ⟨.SHSTAT, 63, 32⟩
def F.HDSTAT_SLOT : Fld := ⟨.HDSTAT, 2, 2⟩
def F.HDSTAT_STATE : Fld := ⟨.HDSTAT, 1, 0⟩
def F.HDFUSE_JTAGLOCK : Fld := ⟨.HDFUSE, 9, 9⟩
def F.HDFUSE_OLOCK : Fld := ⟨.HDFUSE, 8, 8⟩
def F.HDFUSE_CTR : Fld := ⟨.HDFUSE, 6, 0⟩
def F.HDVER_VALID : Fld := ⟨.HDVER, 48, 48⟩
def F.HDVER_SVN : Fld := ⟨.HDVER, 47, 40⟩
def F.HDVER_VERSION : Fld := ⟨.HDVER, 31, 0⟩
def F.HDCTL_PENDING : Fld := ⟨.HDCTL, 31, 31⟩
def F.HDCTL_HRESET : Fld := ⟨.HDCTL, 0, 0⟩
def F.EDADMIT_VENDOR : Fld := ⟨.EDADMIT, 31, 16⟩
def F.EDADMIT_STEP : Fld := ⟨.EDADMIT, 6, 4⟩
def F.EDADMIT_STATE : Fld := ⟨.EDADMIT, 1, 0⟩
def F.LOGSEL_REGION : Fld := ⟨.LOGSEL, 31, 31⟩
def F.LOGSEL_INDEX : Fld := ⟨.LOGSEL, 18, 0⟩
def F.LOGPTR_PCOUNT : Fld := ⟨.LOGPTR, 47, 32⟩
def F.LOGPTR_WRAPPED : Fld := ⟨.LOGPTR, 31, 31⟩
def F.LOGPTR_NEXT : Fld := ⟨.LOGPTR, 18, 0⟩
def F.LOGLOST_LOST : Fld := ⟨.LOGLOST, 31, 0⟩
def F.LOGREC_RECORD : Fld := ⟨.LOGREC, 255, 0⟩
def F.SQCFG_BASE : Fld := ⟨.SQCFG, 127, 64⟩
def F.SQCFG_CQ : Fld := ⟨.SQCFG, 23, 18⟩
def F.SQCFG_LOG2N : Fld := ⟨.SQCFG, 13, 10⟩
def F.SQCFG_EN : Fld := ⟨.SQCFG, 0, 0⟩
def F.SQDB_HEAD : Fld := ⟨.SQDB, 43, 32⟩
def F.SQDB_TAIL : Fld := ⟨.SQDB, 11, 0⟩
def F.CQCFG_BASE : Fld := ⟨.CQCFG, 127, 64⟩
def F.CQCFG_IVEC : Fld := ⟨.CQCFG, 31, 16⟩
def F.CQCFG_LOG2N : Fld := ⟨.CQCFG, 13, 10⟩
def F.CQCFG_REFUSED : Fld := ⟨.CQCFG, 2, 2⟩
def F.CQCFG_IEN : Fld := ⟨.CQCFG, 1, 1⟩
def F.CQCFG_EN : Fld := ⟨.CQCFG, 0, 0⟩
def F.CQDB_TAIL : Fld := ⟨.CQDB, 43, 32⟩
def F.CQDB_HEAD : Fld := ⟨.CQDB, 11, 0⟩
def F.EVRCFG_BASE : Fld := ⟨.EVRCFG, 127, 64⟩
def F.EVRCFG_HEAD : Fld := ⟨.EVRCFG, 63, 48⟩
def F.EVRCFG_IVEC : Fld := ⟨.EVRCFG, 47, 32⟩
def F.EVRCFG_LOG2N : Fld := ⟨.EVRCFG, 19, 16⟩
def F.EVRCFG_REFUSED : Fld := ⟨.EVRCFG, 1, 1⟩
def F.EVRCFG_EN : Fld := ⟨.EVRCFG, 0, 0⟩
def F.EVRSTAT_DROPPED : Fld := ⟨.EVRSTAT, 63, 32⟩
def F.EVRSTAT_TAIL : Fld := ⟨.EVRSTAT, 15, 0⟩
def F.HLSTAT_FAILOVER : Fld := ⟨.HLSTAT, 2, 2⟩
def F.HLSTAT_P43UP : Fld := ⟨.HLSTAT, 1, 1⟩
def F.HLSTAT_P42UP : Fld := ⟨.HLSTAT, 0, 0⟩
def F.RSTCTL_PENDING : Fld := ⟨.RSTCTL, 31, 31⟩
def F.RSTCTL_ACTION : Fld := ⟨.RSTCTL, 2, 0⟩
def F.PWRSTAT_REFUSED : Fld := ⟨.PWRSTAT, 9, 9⟩
def F.PWRSTAT_DEFAULTS_RESTORED : Fld := ⟨.PWRSTAT, 8, 8⟩
def F.PWRSTAT_STATE : Fld := ⟨.PWRSTAT, 3, 0⟩
def F.RSTCAUSE_WARM : Fld := ⟨.RSTCAUSE, 23, 20⟩
def F.RSTCAUSE_COLD : Fld := ⟨.RSTCAUSE, 19, 16⟩
def F.RSTCAUSE_NCOMPUTE : Fld := ⟨.RSTCAUSE, 15, 0⟩
def F.STRAPS_TWIN_ROLE : Fld := ⟨.STRAPS, 10, 10⟩
def F.STRAPS_BOOT_SRC : Fld := ⟨.STRAPS, 9, 8⟩
def F.STRAPS_I3C_ADDR : Fld := ⟨.STRAPS, 7, 6⟩
def F.STRAPS_SLOT_ID : Fld := ⟨.STRAPS, 5, 0⟩
def F.IDVENDOR_VENDOR : Fld := ⟨.IDVENDOR, 31, 16⟩
def F.IDVENDOR_FAMILY : Fld := ⟨.IDVENDOR, 15, 0⟩
def F.IDPART_MEMBER : Fld := ⟨.IDPART, 31, 16⟩
def F.IDPART_STEPPING : Fld := ⟨.IDPART, 15, 8⟩
def F.IDSERIAL_SERIAL : Fld := ⟨.IDSERIAL, 63, 0⟩
def F.CAPTILE_TILES : Fld := ⟨.CAPTILE, 26, 16⟩
def F.CAPTILE_CLUSTERS : Fld := ⟨.CAPTILE, 15, 8⟩
def F.CAPTILE_CDIES : Fld := ⟨.CAPTILE, 3, 0⟩
def F.CAPMEM_NCHAN : Fld := ⟨.CAPMEM, 55, 48⟩
def F.CAPMEM_CAPACITY : Fld := ⟨.CAPMEM, 47, 0⟩
def F.CAPSYNC_COUNTERS : Fld := ⟨.CAPSYNC, 31, 0⟩
def F.CAPCACHE_MIB : Fld := ⟨.CAPCACHE, 15, 0⟩
def F.CAPFMT_FMTS : Fld := ⟨.CAPFMT, 31, 0⟩
def F.CAPPORT_PORTS : Fld := ⟨.CAPPORT, 47, 0⟩
def F.CAPEDGE_EDGE : Fld := ⟨.CAPEDGE, 3, 0⟩
def F.CAPSTACK_STACKS : Fld := ⟨.CAPSTACK, 11, 0⟩
def F.CAPLINK_DEGRADED : Fld := ⟨.CAPLINK, 31, 0⟩
def F.CAPBOND_DEGRADED : Fld := ⟨.CAPBOND, 127, 0⟩
def F.CSLAST_VALID : Fld := ⟨.CSLAST, 63, 63⟩
def F.CSLAST_KIND : Fld := ⟨.CSLAST, 43, 40⟩
def F.CSLAST_OFFSET : Fld := ⟨.CSLAST, 39, 0⟩
def F.CSCOUNT_COUNT : Fld := ⟨.CSCOUNT, 31, 0⟩

/-- The register table: one line of the manual per row. -/
def Reg.spec : Reg → RegSpec
  | .SEGDESC => ⟨.segment, 0x0, [(64, 0x10)], 128, .s1, .restored,
      [⟨F.SEGDESC_LENGTH, .rw, 0x0⟩,
       ⟨F.SEGDESC_BASE, .rw, 0x0⟩,
       ⟨F.SEGDESC_PERM_ATOMIC, .rw, 0x0⟩,
       ⟨F.SEGDESC_PERM_WRITE, .rw, 0x0⟩,
       ⟨F.SEGDESC_PERM_READ, .rw, 0x0⟩,
       ⟨F.SEGDESC_RACKVIS, .rw, 0x0⟩,
       ⟨F.SEGDESC_MIRROR, .rw, 0x0⟩,
       ⟨F.SEGDESC_HINT, .rw, 0x0⟩,
       ⟨F.SEGDESC_PROT, .rw, 0x0⟩,
       ⟨F.SEGDESC_VALID, .rw, 0x0⟩]⟩
  | .SCCOUNT => ⟨.syncmap, 0x0, [(65536, 0x20)], 32, .s0, .defaults,
      [⟨F.SCCOUNT_COUNT, .rw, 0x0⟩]⟩
  | .SCTARGET => ⟨.syncmap, 0x4, [(65536, 0x20)], 32, .s0, .defaults,
      [⟨F.SCTARGET_TARGET, .rw, 0x0⟩]⟩
  | .SCSTAT => ⟨.syncmap, 0x8, [(65536, 0x20)], 32, .s0, .defaults,
      [⟨F.SCSTAT_OVF, .w1c, 0x0⟩,
       ⟨F.SCSTAT_REACHED, .ro, 0x1⟩,
       ⟨F.SCSTAT_EPOCH, .rw, 0x0⟩]⟩
  | .SCWAIT => ⟨.syncmap, 0x10, [(65536, 0x20)], 128, .s0, .defaults,
      [⟨F.SCWAIT_WAITERS, .ro, 0x0⟩]⟩
  | .SCDISC => ⟨.syncmap, 0x200000, [(4, 0x10)], 32, .s0, .defaults,
      [⟨F.SCDISC_DISCARDED, .rw, 0x0⟩]⟩
  | .SCDISCLAST => ⟨.syncmap, 0x200004, [(4, 0x10)], 32, .s0, .defaults,
      [⟨F.SCDISCLAST_SEEN, .ro, 0x0⟩,
       ⟨F.SCDISCLAST_COUNTER, .ro, 0x0⟩]⟩
  | .DLBCTL => ⟨.job, 0x100, [], 32, .s1, .restored,
      [⟨F.DLBCTL_SCOPE, .rw, 0x3⟩,
       ⟨F.DLBCTL_EN, .rw, 0x1⟩]⟩
  | .NUMCFG => ⟨.job, 0x180, [], 128, .s1, .restored,
      [⟨F.NUMCFG_SRSEED, .ro, 0x0⟩,
       ⟨F.NUMCFG_REDFMT, .ro, 0x0⟩,
       ⟨F.NUMCFG_F64SL, .ro, 0x0⟩,
       ⟨F.NUMCFG_F32SL, .ro, 0x0⟩,
       ⟨F.NUMCFG_SAT, .ro, 0x0⟩,
       ⟨F.NUMCFG_RND, .ro, 0x0⟩,
       ⟨F.NUMCFG_SFULVL, .ro, 0x0⟩,
       ⟨F.NUMCFG_ACCMODE, .ro, 0x0⟩]⟩
  | .CRUSTCFG => ⟨.job, 0x1a0, [], 32, .s1, .restored,
      [⟨F.CRUSTCFG_LEVEL, .ro, 0x0⟩]⟩
  | .CRUSTCHK => ⟨.job, 0x1a8, [], 64, .s0, .defaults,
      [⟨F.CRUSTCHK_CHECKED, .rw, 0x0⟩]⟩
  | .CRUSTTRN => ⟨.job, 0x1b0, [], 32, .s0, .defaults,
      [⟨F.CRUSTTRN_TRANSIENT, .rw, 0x0⟩]⟩
  | .CRUSTPRM => ⟨.job, 0x1b4, [], 32, .s0, .defaults,
      [⟨F.CRUSTPRM_PERMANENT, .rw, 0x0⟩]⟩
  | .CRUSTLAST => ⟨.job, 0x1c0, [], 128, .s0, .defaults,
      [⟨F.CRUSTLAST_FPRINT, .ro, 0x0⟩,
       ⟨F.CRUSTLAST_TILE, .ro, 0x0⟩,
       ⟨F.CRUSTLAST_ROW, .ro, 0x0⟩,
       ⟨F.CRUSTLAST_COL, .ro, 0x0⟩,
       ⟨F.CRUSTLAST_ROWV, .ro, 0x0⟩,
       ⟨F.CRUSTLAST_COLV, .ro, 0x0⟩,
       ⟨F.CRUSTLAST_DUAL, .ro, 0x0⟩,
       ⟨F.CRUSTLAST_KIND, .ro, 0x0⟩]⟩
  | .STCLSEL => ⟨.channel, 0x0, [], 32, .s0, .defaults,
      [⟨F.STCLSEL_CLUSTER, .rw, 0x0⟩]⟩
  | .STCHSEL => ⟨.channel, 0x4, [], 32, .s0, .defaults,
      [⟨F.STCHSEL_CHANNEL, .rw, 0x0⟩]⟩
  | .CHSTAT => ⟨.channel, 0x40, [], 32, .s0, .defaults,
      [⟨F.CHSTAT_QDEPTH, .ro, 0x0⟩,
       ⟨F.CHSTAT_LASTST, .ro, 0x0⟩,
       ⟨F.CHSTAT_CUROP, .ro, 0x0⟩,
       ⟨F.CHSTAT_HELD, .ro, 0x0⟩,
       ⟨F.CHSTAT_BUSY, .ro, 0x0⟩]⟩
  | .CHCTL => ⟨.channel, 0x44, [], 32, .s0, .defaults,
      [⟨F.CHCTL_PENDING, .ro, 0x0⟩,
       ⟨F.CHCTL_ACTION, .wo, 0x0⟩]⟩
  | .CHREM => ⟨.channel, 0x48, [], 32, .s0, .defaults,
      [⟨F.CHREM_REMAIN, .ro, 0x0⟩]⟩
  | .CHCRC => ⟨.channel, 0x4c, [], 32, .s0, .defaults,
      [⟨F.CHCRC_CRC, .ro, 0x0⟩]⟩
  | .CHOUT => ⟨.channel, 0x50, [], 64, .s0, .defaults,
      [⟨F.CHOUT_BYTES, .ro, 0x0⟩]⟩
  | .CHOVF => ⟨.channel, 0x58, [], 32, .s0, .defaults,
      [⟨F.CHOVF_OVFBLK, .rw, 0x0⟩]⟩
  | .CHCHUNK => ⟨.channel, 0x60, [], 64, .s0, .defaults,
      [⟨F.CHCHUNK_GRANTS, .rw, 0x0⟩]⟩
  | .CHDESC => ⟨.channel, 0x80, [], 512, .s0, .defaults,
      [⟨F.CHDESC_DESC, .ro, 0x0⟩]⟩
  | .MCHSEL => ⟨.memchan, 0x0, [], 32, .s0, .defaults,
      [⟨F.MCHSEL_CHANNEL, .rw, 0x0⟩]⟩
  | .MCHMAP => ⟨.memchan, 0x8, [], 32, .s3, .restored,
      [⟨F.MCHMAP_MAPOUT, .rwH, 0x0⟩,
       ⟨F.MCHMAP_ACTIVE, .ro, 0x1⟩]⟩
  | .MCHCTL => ⟨.memchan, 0x40, [], 32, .s0, .defaults,
      [⟨F.MCHCTL_PENDING, .ro, 0x0⟩,
       ⟨F.MCHCTL_ACTION, .wo, 0x0⟩]⟩
  | .MCHSTAT => ⟨.memchan, 0x44, [], 32, .s0, .defaults,
      [⟨F.MCHSTAT_TGFAIL, .ro, 0x0⟩,
       ⟨F.MCHSTAT_REFUSED, .w1c, 0x0⟩,
       ⟨F.MCHSTAT_TGDONE, .ro, 0x0⟩,
       ⟨F.MCHSTAT_TGRUN, .ro, 0x0⟩,
       ⟨F.MCHSTAT_SERVICE, .ro, 0x0⟩]⟩
  | .TGCFG => ⟨.memchan, 0x48, [], 64, .s0, .defaults,
      [⟨F.TGCFG_PASSES, .rw, 0x0⟩,
       ⟨F.TGCFG_INVERT, .rw, 0x0⟩,
       ⟨F.TGCFG_PCMASK, .rw, 0x3⟩,
       ⟨F.TGCFG_MODE, .rw, 0x0⟩,
       ⟨F.TGCFG_PATTERN, .rw, 0x0⟩]⟩
  | .TGRANGE => ⟨.memchan, 0x50, [], 64, .s0, .defaults,
      [⟨F.TGRANGE_COUNT, .rw, 0x0⟩,
       ⟨F.TGRANGE_FIRST, .rw, 0x0⟩]⟩
  | .TGSEED => ⟨.memchan, 0x58, [], 32, .s0, .defaults,
      [⟨F.TGSEED_SEED, .rw, 0x1⟩]⟩
  | .TGERR => ⟨.memchan, 0x60, [], 64, .s0, .defaults,
      [⟨F.TGERR_BITS, .ro, 0x0⟩]⟩
  | .TGFIRST => ⟨.memchan, 0x68, [], 64, .s0, .defaults,
      [⟨F.TGFIRST_VALID, .ro, 0x0⟩,
       ⟨F.TGFIRST_LANE, .ro, 0x0⟩,
       ⟨F.TGFIRST_ADDR, .ro, 0x0⟩]⟩
  | .TGUSER => ⟨.memchan, 0x80, [], 256, .s0, .defaults,
      [⟨F.TGUSER_PATTERN, .rw, 0x0⟩]⟩
  | .MCHCNT => ⟨.memchan, 0xc0, [], 128, .s0, .defaults,
      [⟨F.MCHCNT_SCRUBERR, .rw, 0x0⟩,
       ⟨F.MCHCNT_DETERR, .rw, 0x0⟩,
       ⟨F.MCHCNT_CORUNC, .rw, 0x0⟩,
       ⟨F.MCHCNT_CORFIX, .rw, 0x0⟩]⟩
  | .TGLANE => ⟨.memchan, 0x100, [(72, 0x4)], 32, .s0, .defaults,
      [⟨F.TGLANE_MISMATCH, .ro, 0x0⟩]⟩
  | .RTENT => ⟨.fabric, 0x10000, [(68, 0x400), (2, 0x200), (256, 0x2)], 16, .s2, .restored,
      [⟨F.RTENT_VALID, .rw, 0x0⟩,
       ⟨F.RTENT_PROD, .rw, 0x0⟩]⟩
  | .DWENT => ⟨.fabric, 0x40000, [(68, 0x1000), (2, 0x800), (1024, 0x2)], 16, .s2, .restored,
      [⟨F.DWENT_VALID, .rw, 0x0⟩,
       ⟨F.DWENT_EJECT, .rw, 0x0⟩,
       ⟨F.DWENT_OUT, .rw, 0x0⟩]⟩
  | .FABCTL => ⟨.fabric, 0x0, [], 64, .s2, .restored,
      [⟨F.FABCTL_PENDING, .ro, 0x0⟩,
       ⟨F.FABCTL_RESENDMAX, .rw, 0x8⟩,
       ⟨F.FABCTL_E2ETO, .rw, 0x14⟩,
       ⟨F.FABCTL_HOPBUDGET, .rw, 0xc8⟩]⟩
  | .RTEPOCH => ⟨.fabric, 0x10, [], 32, .s2, .restored,
      [⟨F.RTEPOCH_PENDING, .ro, 0x0⟩,
       ⟨F.RTEPOCH_EPBUSY, .w1c, 0x0⟩,
       ⟨F.RTEPOCH_HOLD, .ro, 0x0⟩,
       ⟨F.RTEPOCH_FLIP, .wo, 0x0⟩,
       ⟨F.RTEPOCH_CUR, .ro, 0x0⟩]⟩
  | .FLASTDROP => ⟨.fabric, 0x20, [], 128, .s0, .defaults,
      [⟨F.FLASTDROP_HDR, .ro, 0x0⟩,
       ⟨F.FLASTDROP_SWITCH, .ro, 0x0⟩,
       ⟨F.FLASTDROP_REASON, .ro, 0x0⟩]⟩
  | .FCOUNT => ⟨.fabric, 0x40, [(12, 0x8)], 64, .s0, .defaults,
      [⟨F.FCOUNT_COUNT, .rw, 0x0⟩]⟩
  | .FREPLAY => ⟨.fabric, 0x100, [(48, 0x8)], 64, .s0, .defaults,
      [⟨F.FREPLAY_BADBLK, .rw, 0x0⟩,
       ⟨F.FREPLAY_REPLAY, .rw, 0x0⟩]⟩
  | .PORTSEL => ⟨.port, 0x0, [], 32, .s0, .defaults,
      [⟨F.PORTSEL_PORT, .rw, 0x0⟩]⟩
  | .PORTCTL => ⟨.port, 0x40, [], 32, .s0, .defaults,
      [⟨F.PORTCTL_PENDING, .ro, 0x0⟩,
       ⟨F.PORTCTL_ACTION, .wo, 0x0⟩]⟩
  | .PORTSTAT => ⟨.port, 0x44, [], 32, .s0, .defaults,
      [⟨F.PORTSTAT_LANEUP, .ro, 0x0⟩,
       ⟨F.PORTSTAT_TXSPARE, .ro, 0x0⟩,
       ⟨F.PORTSTAT_RXSPARE, .ro, 0x0⟩,
       ⟨F.PORTSTAT_LOS, .ro, 0x0⟩,
       ⟨F.PORTSTAT_STATE, .ro, 0x0⟩]⟩
  | .PCOUNT => ⟨.port, 0x80, [(6, 0x8)], 64, .s0, .defaults,
      [⟨F.PCOUNT_COUNT, .rw, 0x0⟩]⟩
  | .RINGSTAT => ⟨.port, 0x100, [(36, 0x4)], 32, .s0, .defaults,
      [⟨F.RINGSTAT_HEATER, .ro, 0x0⟩,
       ⟨F.RINGSTAT_SLOT, .ro, 0x1f⟩,
       ⟨F.RINGSTAT_LOCK, .ro, 0x0⟩]⟩
  | .LANESTAT => ⟨.port, 0x200, [(16, 0x4)], 32, .s0, .defaults,
      [⟨F.LANESTAT_RXPWR, .ro, 0x80⟩,
       ⟨F.LANESTAT_PEERDEV, .ro, 0x0⟩,
       ⟨F.LANESTAT_PEERPORT, .ro, 0x0⟩,
       ⟨F.LANESTAT_ATTEMPTS, .ro, 0x0⟩,
       ⟨F.LANESTAT_LSTATE, .ro, 0x0⟩]⟩
  | .LANEEQ => ⟨.port, 0x280, [(16, 0x8)], 64, .s0, .defaults,
      [⟨F.LANEEQ_THR2, .ro, 0x0⟩,
       ⟨F.LANEEQ_THR1, .ro, 0x0⟩,
       ⟨F.LANEEQ_THR0, .ro, 0x0⟩,
       ⟨F.LANEEQ_LVL3, .ro, 0x0⟩,
       ⟨F.LANEEQ_LVL2, .ro, 0x0⟩,
       ⟨F.LANEEQ_LVL1, .ro, 0x0⟩,
       ⟨F.LANEEQ_LVL0, .ro, 0x0⟩]⟩
  | .CPCTL => ⟨.optics, 0x0, [], 32, .s0, .defaults,
      [⟨F.CPCTL_PENDING, .ro, 0x0⟩,
       ⟨F.CPCTL_RT, .rw, 0x0⟩,
       ⟨F.CPCTL_GO, .wo, 0x0⟩,
       ⟨F.CPCTL_PLAN, .rw, 0x8⟩]⟩
  | .CPCUR => ⟨.optics, 0x4, [], 32, .s2, .restored,
      [⟨F.CPCUR_CUR, .ro, 0x8⟩]⟩
  | .CPSTAT => ⟨.optics, 0x8, [], 32, .s0, .defaults,
      [⟨F.CPSTAT_NOTUP, .ro, 0x0⟩,
       ⟨F.CPSTAT_SWITCHING, .ro, 0x0⟩,
       ⟨F.CPSTAT_LAST, .ro, 0x5⟩]⟩
  | .LASERSTAT => ⟨.optics, 0x20, [(4, 0x4)], 32, .s0, .defaults,
      [⟨F.LASERSTAT_PROBE, .ro, 0x0⟩,
       ⟨F.LASERSTAT_EN, .ro, 0x0⟩,
       ⟨F.LASERSTAT_HIGH, .ro, 0x0⟩,
       ⟨F.LASERSTAT_LOW, .ro, 0x0⟩]⟩
  | .SPARE => ⟨.optics, 0x40, [(4, 0x4)], 32, .s3, .restored,
      [⟨F.SPARE_TAKEN, .w1s, 0x0⟩,
       ⟨F.SPARE_RELEASE, .rwH, 0x0⟩,
       ⟨F.SPARE_TARGET, .rw, 0x0⟩]⟩
  | .LDMAP => ⟨.optics, 0x1000, [(4, 0x200), (96, 0x2)], 16, .s3, .restored,
      [⟨F.LDMAP_VALID, .rw, 0x0⟩,
       ⟨F.LDMAP_FARPORT, .rw, 0x0⟩,
       ⟨F.LDMAP_FARDEV, .rw, 0x0⟩]⟩
  | .PLBUND => ⟨.optics, 0x2000, [(8, 0x40), (4, 0x10), (6, 0x2)], 16, .s2, .restored,
      [⟨F.PLBUND_EN, .rw, 0x0⟩,
       ⟨F.PLBUND_DEST, .rw, 0x0⟩]⟩
  | .PLLANE => ⟨.optics, 0x4000, [(8, 0x200), (4, 0x80), (96, 0x1)], 8, .s2, .restored,
      [⟨F.PLLANE_BUNDLE, .rw, 0xf⟩]⟩
  | .BKSEL => ⟨.collective, 0x0, [], 32, .s0, .defaults,
      [⟨F.BKSEL_TAG, .rw, 0x0⟩]⟩
  | .BKSTATE => ⟨.collective, 0x40, [], 32, .s0, .defaults,
      [⟨F.BKSTATE_GEN, .ro, 0x0⟩,
       ⟨F.BKSTATE_OP, .ro, 0x0⟩,
       ⟨F.BKSTATE_REASON, .ro, 0x0⟩,
       ⟨F.BKSTATE_STATE, .ro, 0x0⟩]⟩
  | .BKMISS => ⟨.collective, 0x44, [], 32, .s0, .defaults,
      [⟨F.BKMISS_NMISS, .ro, 0x0⟩,
       ⟨F.BKMISS_RANK, .ro, 0x0⟩]⟩
  | .BKLAST => ⟨.collective, 0x48, [], 32, .s0, .defaults,
      [⟨F.BKLAST_NARR, .ro, 0x0⟩,
       ⟨F.BKLAST_BACKUP, .ro, 0x0⟩,
       ⟨F.BKLAST_VALID, .ro, 0x0⟩,
       ⟨F.BKLAST_RANK, .ro, 0x0⟩]⟩
  | .BKLATE => ⟨.collective, 0x4c, [], 32, .s0, .defaults,
      [⟨F.BKLATE_FCLKS, .ro, 0x0⟩]⟩
  | .BKSPEC => ⟨.collective, 0x50, [], 32, .s0, .defaults,
      [⟨F.BKSPEC_NANV, .ro, 0x0⟩,
       ⟨F.BKSPEC_NANRANK, .ro, 0x0⟩]⟩
  | .BKOVF => ⟨.collective, 0x54, [], 32, .s0, .defaults,
      [⟨F.BKOVF_BLOCKS, .ro, 0x0⟩]⟩
  | .BKCTL => ⟨.collective, 0x60, [], 32, .s0, .defaults,
      [⟨F.BKCTL_PENDING, .ro, 0x0⟩,
       ⟨F.BKCTL_ABORT, .wo, 0x0⟩]⟩
  | .CESTRAY => ⟨.collective, 0x100, [(4, 0x8)], 64, .s0, .defaults,
      [⟨F.CESTRAY_COUNT, .rw, 0x0⟩]⟩
  | .RMCTL => ⟨.rack, 0x0, [], 32, .s2, .restored,
      [⟨F.RMCTL_PENDING, .ro, 0x0⟩,
       ⟨F.RMCTL_HINT, .rw, 0x2⟩,
       ⟨F.RMCTL_RETRYMAX, .rw, 0x10⟩]⟩
  | .RMALIAS => ⟨.rack, 0x8, [], 32, .s2, .restored,
      [⟨F.RMALIAS_PENDING, .ro, 0x0⟩,
       ⟨F.RMALIAS_VALID, .rw, 0x0⟩,
       ⟨F.RMALIAS_ALIAS, .rw, 0x0⟩]⟩
  | .RMREFLAST => ⟨.rack, 0x10, [], 128, .s0, .defaults,
      [⟨F.RMREFLAST_ADDR, .ro, 0x0⟩,
       ⟨F.RMREFLAST_UNIT, .ro, 0x0⟩,
       ⟨F.RMREFLAST_NUM, .ro, 0x0⟩,
       ⟨F.RMREFLAST_VALID, .ro, 0x0⟩,
       ⟨F.RMREFLAST_REASON, .ro, 0x0⟩]⟩
  | .RMCOUNT => ⟨.rack, 0x40, [(8, 0x8)], 64, .s0, .defaults,
      [⟨F.RMCOUNT_COUNT, .rw, 0x0⟩]⟩
  | .POWERCAP => ⟨.governor, 0x0, [], 32, .s2, .restored,
      [⟨F.POWERCAP_PENDING, .ro, 0x0⟩,
       ⟨F.POWERCAP_SPRINTEN, .rw, 0x1⟩,
       ⟨F.POWERCAP_WATTS, .rw, 0x7d0⟩]⟩
  | .GOVSTAT => ⟨.governor, 0x40, [(8, 0x8)], 64, .s0, .defaults,
      [⟨F.GOVSTAT_REF, .ro, 0x632ea00⟩,
       ⟨F.GOVSTAT_FREQ, .ro, 0x12⟩,
       ⟨F.GOVSTAT_THRF, .ro, 0x8⟩,
       ⟨F.GOVSTAT_DUTY, .ro, 0x0⟩,
       ⟨F.GOVSTAT_RATE, .ro, 0x0⟩,
       ⟨F.GOVSTAT_THROTTLE, .ro, 0x0⟩,
       ⟨F.GOVSTAT_WARN, .ro, 0x0⟩,
       ⟨F.GOVSTAT_SPRINT, .ro, 0x0⟩,
       ⟨F.GOVSTAT_OVER, .ro, 0x0⟩]⟩
  | .PAUSECNT => ⟨.governor, 0x80, [(8, 0x8)], 64, .s0, .defaults,
      [⟨F.PAUSECNT_PAUSES, .rw, 0x0⟩]⟩
  | .SPRSTAT => ⟨.governor, 0xc0, [], 32, .s0, .defaults,
      [⟨F.SPRSTAT_WINUS, .ro, 0x0⟩,
       ⟨F.SPRSTAT_LASTCAP, .ro, 0x0⟩]⟩
  | .SPRWEAR => ⟨.governor, 0xc8, [], 32, .s3, .restored,
      [⟨F.SPRWEAR_SECONDS, .ro, 0x0⟩]⟩
  | .GOVCOST => ⟨.governor, 0x100, [(32, 0x4)], 32, .s3, .restored,
      [⟨F.GOVCOST_COST, .rwH, 0x0⟩]⟩
  | .DIEREF => ⟨.governor, 0x180, [(8, 0x4)], 32, .s2, .restored,
      [⟨F.DIEREF_PENDING, .ro, 0x0⟩,
       ⟨F.DIEREF_REF, .rwH, 0x632ea00⟩]⟩
  | .SENSSUSP => ⟨.governor, 0x200, [(8, 0x8)], 64, .s2, .restored,
      [⟨F.SENSSUSP_SUSPECT, .rwH, 0x0⟩]⟩
  | .TSENS => ⟨.governor, 0x1000, [(8, 0x80), (64, 0x2)], 16, .s0, .defaults,
      [⟨F.TSENS_TEMP, .ro, 0x8000⟩]⟩
  | .TOTHER => ⟨.governor, 0x1400, [(20, 0x2)], 16, .s0, .defaults,
      [⟨F.TOTHER_TEMP, .ro, 0x8000⟩]⟩
  | .INTEGCFG => ⟨.health, 0x0, [], 32, .s1, .restored,
      [⟨F.INTEGCFG_CLASS, .ro, 0x0⟩]⟩
  | .FENCENOTE => ⟨.health, 0x8, [], 32, .s1, .restored,
      [⟨F.FENCENOTE_EN, .rw, 0x0⟩,
       ⟨F.FENCENOTE_CNUM, .rw, 0x0⟩]⟩
  | .DRAINCTL => ⟨.health, 0x10, [], 32, .s0, .defaults,
      [⟨F.DRAINCTL_PENDING, .ro, 0x0⟩,
       ⟨F.DRAINCTL_ACTION, .wo, 0x0⟩]⟩
  | .DRAINSTAT => ⟨.health, 0x14, [], 32, .s0, .defaults,
      [⟨F.DRAINSTAT_CAUSE, .ro, 0x0⟩,
       ⟨F.DRAINSTAT_STATE, .ro, 0x0⟩]⟩
  | .HEALTHFLAG => ⟨.health, 0x18, [], 32, .s3, .restored,
      [⟨F.HEALTHFLAG_EXPELLED, .rwH, 0x0⟩,
       ⟨F.HEALTHFLAG_REPLACE, .rwH, 0x0⟩]⟩
  | .FENCECL => ⟨.health, 0x40, [], 128, .s1, .restored,
      [⟨F.FENCECL_FENCED, .ro, 0x0⟩]⟩
  | .FENCEARR => ⟨.health, 0x60, [(18, 0x8)], 64, .s1, .restored,
      [⟨F.FENCEARR_FENCED, .ro, 0x0⟩]⟩
  | .FENCETILE => ⟨.health, 0x100, [(18, 0x8)], 64, .s1, .restored,
      [⟨F.FENCETILE_FENCED, .ro, 0x0⟩]⟩
  | .FENCEOTH => ⟨.health, 0x200, [], 64, .s1, .restored,
      [⟨F.FENCEOTH_ATT, .ro, 0x0⟩,
       ⟨F.FENCEOTH_STACK, .ro, 0x0⟩]⟩
  | .D2DSTAT => ⟨.health, 0x300, [(160, 0x4)], 32, .s2, .restored,
      [⟨F.D2DSTAT_WIDTH, .ro, 0x0⟩,
       ⟨F.D2DSTAT_SPARES, .ro, 0x0⟩]⟩
  | .SRAMCNT => ⟨.health, 0x600, [], 64, .s0, .defaults,
      [⟨F.SRAMCNT_UNCORR, .rw, 0x0⟩,
       ⟨F.SRAMCNT_CORR, .rw, 0x0⟩]⟩
  | .HSCFG => ⟨.health, 0x700, [], 32, .s3, .restored,
      [⟨F.HSCFG_HALFLIFE, .rwH, 0x18⟩,
       ⟨F.HSCFG_EXPEL, .rwH, 0x12c⟩,
       ⟨F.HSCFG_WARN, .rwH, 0x258⟩]⟩
  | .HSSEL => ⟨.health, 0x708, [], 32, .s0, .defaults,
      [⟨F.HSSEL_CLASS, .rw, 0x0⟩,
       ⟨F.HSSEL_INDEX, .rw, 0x0⟩]⟩
  | .HSUNIT => ⟨.health, 0x70c, [], 32, .s3, .restored,
      [⟨F.HSUNIT_PENALTY, .ro, 0x0⟩,
       ⟨F.HSUNIT_SCORE, .ro, 0x3e8⟩]⟩
  | .HSMOD => ⟨.health, 0x710, [], 32, .s3, .restored,
      [⟨F.HSMOD_CLASS, .ro, 0x0⟩,
       ⟨F.HSMOD_INDEX, .ro, 0x0⟩,
       ⟨F.HSMOD_SCORE, .ro, 0x3e8⟩]⟩
  | .MIRWIN => ⟨.twin, 0x40, [(8, 0x10)], 128, .s1, .restored,
      [⟨F.MIRWIN_LOCBASE, .rw, 0x0⟩,
       ⟨F.MIRWIN_SRCBASE, .rw, 0x0⟩,
       ⟨F.MIRWIN_LENGTH, .rw, 0x0⟩,
       ⟨F.MIRWIN_PROMSEG, .rw, 0x0⟩,
       ⟨F.MIRWIN_PERM_ATOMIC, .rw, 0x0⟩,
       ⟨F.MIRWIN_PERM_WRITE, .rw, 0x0⟩,
       ⟨F.MIRWIN_PERM_READ, .rw, 0x0⟩,
       ⟨F.MIRWIN_RACKVIS, .rw, 0x0⟩,
       ⟨F.MIRWIN_VALID, .rw, 0x0⟩]⟩
  | .TWINCFG => ⟨.twin, 0x0, [], 32, .s2, .restored,
      [⟨F.TWINCFG_SHEN, .rw, 0x0⟩,
       ⟨F.TWINCFG_FAILEN, .rw, 0x1⟩,
       ⟨F.TWINCFG_PEN, .rw, 0x0⟩,
       ⟨F.TWINCFG_PCNUM, .rw, 0x0⟩]⟩
  | .TWINCTL => ⟨.twin, 0x4, [], 32, .s0, .defaults,
      [⟨F.TWINCTL_PENDING, .ro, 0x0⟩,
       ⟨F.TWINCTL_ACTION, .wo, 0x0⟩]⟩
  | .TWINSTAT => ⟨.twin, 0x8, [], 32, .s0, .defaults,
      [⟨F.TWINSTAT_PEERDEV, .ro, 0x0⟩,
       ⟨F.TWINSTAT_GAP, .ro, 0x0⟩,
       ⟨F.TWINSTAT_FAILOVER, .ro, 0x0⟩,
       ⟨F.TWINSTAT_CONFLICT, .ro, 0x0⟩,
       ⟨F.TWINSTAT_MSTATE, .ro, 0x0⟩,
       ⟨F.TWINSTAT_PEER, .ro, 0x0⟩,
       ⟨F.TWINSTAT_PROMOTED, .ro, 0x0⟩,
       ⟨F.TWINSTAT_ROLE, .ro, 0x0⟩]⟩
  | .MIRCNT => ⟨.twin, 0xc0, [(4, 0x8)], 64, .s0, .defaults,
      [⟨F.MIRCNT_COUNT, .rw, 0x0⟩]⟩
  | .MIRPEER => ⟨.twin, 0xe0, [], 64, .s1, .defaults,
      [⟨F.MIRPEER_PEERGEN, .ro, 0x0⟩,
       ⟨F.MIRPEER_RECEIVED, .ro, 0x0⟩]⟩
  | .SHCFG => ⟨.twin, 0x100, [], 64, .s1, .restored,
      [⟨F.SHCFG_MBOX, .rw, 0x0⟩,
       ⟨F.SHCFG_CNUM, .rw, 0x0⟩]⟩
  | .SHSTAT => ⟨.twin, 0x110, [], 128, .s0, .defaults,
      [⟨F.SHSTAT_MATCHES, .ro, 0x0⟩,
       ⟨F.SHSTAT_MISMATCHES, .ro, 0x0⟩,
       ⟨F.SHSTAT_LASTBAD, .ro, 0x0⟩]⟩
  | .HDSTAT => ⟨.hearth, 0x0, [], 32, .s0, .defaults,
      [⟨F.HDSTAT_SLOT, .ro, 0x0⟩,
       ⟨F.HDSTAT_STATE, .ro, 0x0⟩]⟩
  | .HDFUSE => ⟨.hearth, 0x8, [], 32, .s3, .restored,
      [⟨F.HDFUSE_JTAGLOCK, .ro, 0x0⟩,
       ⟨F.HDFUSE_OLOCK, .ro, 0x0⟩,
       ⟨F.HDFUSE_CTR, .ro, 0x0⟩]⟩
  | .HDVER => ⟨.hearth, 0x10, [(2, 0x8)], 64, .s3, .restored,
      [⟨F.HDVER_VALID, .ro, 0x0⟩,
       ⟨F.HDVER_SVN, .ro, 0x0⟩,
       ⟨F.HDVER_VERSION, .ro, 0x0⟩]⟩
  | .HDCTL => ⟨.hearth, 0x20, [], 32, .s0, .defaults,
      [⟨F.HDCTL_PENDING, .ro, 0x0⟩,
       ⟨F.HDCTL_HRESET, .wo, 0x0⟩]⟩
  | .EDADMIT => ⟨.hearth, 0x40, [(4, 0x4)], 32, .s1, .defaults,
      [⟨F.EDADMIT_VENDOR, .ro, 0x0⟩,
       ⟨F.EDADMIT_STEP, .ro, 0x0⟩,
       ⟨F.EDADMIT_STATE, .ro, 0x0⟩]⟩
  | .LOGSEL => ⟨.hearth, 0x100, [], 32, .s0, .defaults,
      [⟨F.LOGSEL_REGION, .rw, 0x0⟩,
       ⟨F.LOGSEL_INDEX, .rw, 0x0⟩]⟩
  | .LOGPTR => ⟨.hearth, 0x108, [], 64, .s3, .restored,
      [⟨F.LOGPTR_PCOUNT, .ro, 0x0⟩,
       ⟨F.LOGPTR_WRAPPED, .ro, 0x0⟩,
       ⟨F.LOGPTR_NEXT, .ro, 0x0⟩]⟩
  | .LOGLOST => ⟨.hearth, 0x110, [], 32, .s3, .restored,
      [⟨F.LOGLOST_LOST, .rw, 0x0⟩]⟩
  | .LOGREC => ⟨.hearth, 0x120, [], 256, .s0, .defaults,
      [⟨F.LOGREC_RECORD, .ro, 0x0⟩]⟩
  | .SQCFG => ⟨.hostlink, 0x0, [(64, 0x10)], 128, .s1, .defaults,
      [⟨F.SQCFG_BASE, .rw, 0x0⟩,
       ⟨F.SQCFG_CQ, .rw, 0x0⟩,
       ⟨F.SQCFG_LOG2N, .rw, 0x1⟩,
       ⟨F.SQCFG_EN, .rw, 0x0⟩]⟩
  | .SQDB => ⟨.hostlink, 0x400, [(64, 0x8)], 64, .s1, .defaults,
      [⟨F.SQDB_HEAD, .ro, 0x0⟩,
       ⟨F.SQDB_TAIL, .rw, 0x0⟩]⟩
  | .CQCFG => ⟨.hostlink, 0x800, [(64, 0x10)], 128, .s1, .defaults,
      [⟨F.CQCFG_BASE, .rw, 0x0⟩,
       ⟨F.CQCFG_IVEC, .rw, 0x0⟩,
       ⟨F.CQCFG_LOG2N, .rw, 0x1⟩,
       ⟨F.CQCFG_REFUSED, .ro, 0x0⟩,
       ⟨F.CQCFG_IEN, .rw, 0x0⟩,
       ⟨F.CQCFG_EN, .rw, 0x0⟩]⟩
  | .CQDB => ⟨.hostlink, 0xc00, [(64, 0x8)], 64, .s1, .defaults,
      [⟨F.CQDB_TAIL, .ro, 0x0⟩,
       ⟨F.CQDB_HEAD, .rw, 0x0⟩]⟩
  | .EVRCFG => ⟨.hostlink, 0x1000, [], 128, .s2, .defaults,
      [⟨F.EVRCFG_BASE, .rw, 0x0⟩,
       ⟨F.EVRCFG_HEAD, .rw, 0x0⟩,
       ⟨F.EVRCFG_IVEC, .rw, 0x0⟩,
       ⟨F.EVRCFG_LOG2N, .rw, 0x1⟩,
       ⟨F.EVRCFG_REFUSED, .ro, 0x0⟩,
       ⟨F.EVRCFG_EN, .rw, 0x0⟩]⟩
  | .EVRSTAT => ⟨.hostlink, 0x1010, [], 64, .s2, .defaults,
      [⟨F.EVRSTAT_DROPPED, .rw, 0x0⟩,
       ⟨F.EVRSTAT_TAIL, .ro, 0x0⟩]⟩
  | .HLSTAT => ⟨.hostlink, 0x1020, [], 32, .s0, .defaults,
      [⟨F.HLSTAT_FAILOVER, .ro, 0x0⟩,
       ⟨F.HLSTAT_P43UP, .ro, 0x0⟩,
       ⟨F.HLSTAT_P42UP, .ro, 0x0⟩]⟩
  | .RSTCTL => ⟨.power, 0x0, [], 32, .s0, .defaults,
      [⟨F.RSTCTL_PENDING, .ro, 0x0⟩,
       ⟨F.RSTCTL_ACTION, .wo, 0x0⟩]⟩
  | .PWRSTAT => ⟨.power, 0x4, [], 32, .s0, .defaults,
      [⟨F.PWRSTAT_REFUSED, .w1c, 0x0⟩,
       ⟨F.PWRSTAT_DEFAULTS_RESTORED, .w1c, 0x0⟩,
       ⟨F.PWRSTAT_STATE, .ro, 0x0⟩]⟩
  | .RSTCAUSE => ⟨.power, 0x8, [], 32, .s3, .restored,
      [⟨F.RSTCAUSE_WARM, .ro, 0x0⟩,
       ⟨F.RSTCAUSE_COLD, .ro, 0x0⟩,
       ⟨F.RSTCAUSE_NCOMPUTE, .ro, 0x0⟩]⟩
  | .STRAPS => ⟨.power, 0x10, [], 32, .s2, .restored,
      [⟨F.STRAPS_TWIN_ROLE, .ro, 0x0⟩,
       ⟨F.STRAPS_BOOT_SRC, .ro, 0x0⟩,
       ⟨F.STRAPS_I3C_ADDR, .ro, 0x0⟩,
       ⟨F.STRAPS_SLOT_ID, .ro, 0x0⟩]⟩
  | .IDVENDOR => ⟨.identity, 0x0, [], 32, .s3, .restored,
      [⟨F.IDVENDOR_VENDOR, .ro, 0x4e53⟩,
       ⟨F.IDVENDOR_FAMILY, .ro, 0x4b59⟩]⟩
  | .IDPART => ⟨.identity, 0x4, [], 32, .s3, .restored,
      [⟨F.IDPART_MEMBER, .ro, 0x96⟩,
       ⟨F.IDPART_STEPPING, .ro, 0xb1⟩]⟩
  | .IDSERIAL => ⟨.identity, 0x8, [], 64, .s3, .restored,
      [⟨F.IDSERIAL_SERIAL, .ro, 0x0⟩]⟩
  | .CAPTILE => ⟨.identity, 0x40, [], 32, .s0, .defaults,
      [⟨F.CAPTILE_TILES, .ro, 0x480⟩,
       ⟨F.CAPTILE_CLUSTERS, .ro, 0x80⟩,
       ⟨F.CAPTILE_CDIES, .ro, 0x8⟩]⟩
  | .CAPMEM => ⟨.identity, 0x48, [], 64, .s0, .defaults,
      [⟨F.CAPMEM_NCHAN, .ro, 0xc0⟩,
       ⟨F.CAPMEM_CAPACITY, .ro, 0xd800000000⟩]⟩
  | .CAPSYNC => ⟨.identity, 0x50, [], 32, .s0, .defaults,
      [⟨F.CAPSYNC_COUNTERS, .ro, 0x10000⟩]⟩
  | .CAPCACHE => ⟨.identity, 0x54, [], 32, .s0, .defaults,
      [⟨F.CAPCACHE_MIB, .ro, 0x200⟩]⟩
  | .CAPFMT => ⟨.identity, 0x58, [], 32, .s0, .defaults,
      [⟨F.CAPFMT_FMTS, .ro, 0x7ff8⟩]⟩
  | .CAPPORT => ⟨.identity, 0x60, [], 64, .s0, .defaults,
      [⟨F.CAPPORT_PORTS, .ro, 0xffffffffffff⟩]⟩
  | .CAPEDGE => ⟨.identity, 0x68, [], 32, .s0, .defaults,
      [⟨F.CAPEDGE_EDGE, .ro, 0xf⟩]⟩
  | .CAPSTACK => ⟨.identity, 0x6c, [], 32, .s0, .defaults,
      [⟨F.CAPSTACK_STACKS, .ro, 0xfff⟩]⟩
  | .CAPLINK => ⟨.identity, 0x70, [], 32, .s0, .defaults,
      [⟨F.CAPLINK_DEGRADED, .ro, 0x0⟩]⟩
  | .CAPBOND => ⟨.identity, 0x80, [], 128, .s0, .defaults,
      [⟨F.CAPBOND_DEGRADED, .ro, 0x0⟩]⟩
  | .CSLAST => ⟨.identity, 0x100, [], 64, .s0, .defaults,
      [⟨F.CSLAST_VALID, .w1c, 0x0⟩,
       ⟨F.CSLAST_KIND, .ro, 0x0⟩,
       ⟨F.CSLAST_OFFSET, .ro, 0x0⟩]⟩
  | .CSCOUNT => ⟨.identity, 0x108, [], 32, .s0, .defaults,
      [⟨F.CSCOUNT_COUNT, .rw, 0x0⟩]⟩

/-- Every register, in the order of the manual. -/
def Reg.all : List Reg :=
  [.SEGDESC, .SCCOUNT, .SCTARGET, .SCSTAT, .SCWAIT, .SCDISC, .SCDISCLAST, .DLBCTL,
   .NUMCFG, .CRUSTCFG, .CRUSTCHK, .CRUSTTRN, .CRUSTPRM, .CRUSTLAST, .STCLSEL, .STCHSEL,
   .CHSTAT, .CHCTL, .CHREM, .CHCRC, .CHOUT, .CHOVF, .CHCHUNK, .CHDESC,
   .MCHSEL, .MCHMAP, .MCHCTL, .MCHSTAT, .TGCFG, .TGRANGE, .TGSEED, .TGERR,
   .TGFIRST, .TGUSER, .MCHCNT, .TGLANE, .RTENT, .DWENT, .FABCTL, .RTEPOCH,
   .FLASTDROP, .FCOUNT, .FREPLAY, .PORTSEL, .PORTCTL, .PORTSTAT, .PCOUNT, .RINGSTAT,
   .LANESTAT, .LANEEQ, .CPCTL, .CPCUR, .CPSTAT, .LASERSTAT, .SPARE, .LDMAP,
   .PLBUND, .PLLANE, .BKSEL, .BKSTATE, .BKMISS, .BKLAST, .BKLATE, .BKSPEC,
   .BKOVF, .BKCTL, .CESTRAY, .RMCTL, .RMALIAS, .RMREFLAST, .RMCOUNT, .POWERCAP,
   .GOVSTAT, .PAUSECNT, .SPRSTAT, .SPRWEAR, .GOVCOST, .DIEREF, .SENSSUSP, .TSENS,
   .TOTHER, .INTEGCFG, .FENCENOTE, .DRAINCTL, .DRAINSTAT, .HEALTHFLAG, .FENCECL, .FENCEARR,
   .FENCETILE, .FENCEOTH, .D2DSTAT, .SRAMCNT, .HSCFG, .HSSEL, .HSUNIT, .HSMOD,
   .MIRWIN, .TWINCFG, .TWINCTL, .TWINSTAT, .MIRCNT, .MIRPEER, .SHCFG, .SHSTAT,
   .HDSTAT, .HDFUSE, .HDVER, .HDCTL, .EDADMIT, .LOGSEL, .LOGPTR, .LOGLOST,
   .LOGREC, .SQCFG, .SQDB, .CQCFG, .CQDB, .EVRCFG, .EVRSTAT, .HLSTAT,
   .RSTCTL, .PWRSTAT, .RSTCAUSE, .STRAPS, .IDVENDOR, .IDPART, .IDSERIAL, .CAPTILE,
   .CAPMEM, .CAPSYNC, .CAPCACHE, .CAPFMT, .CAPPORT, .CAPEDGE, .CAPSTACK, .CAPLINK,
   .CAPBOND, .CSLAST, .CSCOUNT]

/-- Energy costs of Table 14-1 in their register order: the defaults of GOVCOST[k]. -/
def govcostDefault (k : Nat) : Nat :=
  [1200, 304, 290, 600, 60, 90, 300, 190, 260, 60, 120, 200, 240, 150, 40, 30, 10].getD k 0

/-- A register's default value at an index (R5): the defaults of its fields, with GOVCOST from Table 14-1. -/
def Reg.dflt (r : Reg) (i : Nat) : Nat :=
  match r with
  | .GOVCOST => govcostDefault i
  | _ => r.spec.fields.foldl (fun a f => a + f.dflt * 2 ^ f.fld.lo) 0

/-- The number of entries of a register (product of its dimensions). -/
def Reg.count (r : Reg) : Nat := r.spec.dims.foldl (fun a d => a * d.1) 1

/-- Offset of entry `i` within the window, by the strides of the dimensions, innermost last. -/
def Reg.entryOff : List (Nat × Nat) → Nat → Nat
  | [], _ => 0
  | d :: ds, i =>
    let inner := ds.foldl (fun a e => a * e.1) 1
    i / inner * d.2 + Reg.entryOff ds (i % inner)

/-- Registers behind a select register: every unit shows at the same offsets (Table 21-2). -/
def Win.selects : Win → Bool
  | .channel | .memchan | .port | .collective => true
  | _ => false

/-- Control-space offset of entry `i` of a register (R5, R504); of a register behind a select register, the entry
within its unit. -/
def Reg.at (r : Reg) (i : Nat) : Nat :=
  r.spec.win.base + r.spec.off + Reg.entryOff r.spec.dims (if r.spec.win.selects then i % r.count else i)

end Sys2Proof.Machine
end

