-- ==== Sys2Proof/Machine/Maps.lean ====
section
/-! DEFINITION. Sparse data in one canonical form: a list of (key, value) pairs with strictly rising keys,
and no entry equal to what an unlisted key reads as. Every operation keeps that form (Laws/Maps.lean). -/

namespace Sys2Proof.Machine

/-- Sparse data by key, sorted by key. -/
abbrev SMap (α : Type) := List (Nat × α)

/-- The entry at a key, if the map lists one. -/
def SMap.look {α : Type} : SMap α → Nat → Option α
  | [], _ => none
  | (k', v) :: m, k => if k = k' then some v else SMap.look m k

/-- The value at a key: the listed one, or the default `d`. -/
def SMap.get {α : Type} (d : α) (m : SMap α) (k : Nat) : α := (SMap.look m k).getD d

/-- Insert or replace, keeping the keys rising. -/
def SMap.ins {α : Type} : SMap α → Nat → α → SMap α
  | [], k, v => [(k, v)]
  | (k', v') :: m, k, v =>
    if k = k' then (k, v) :: m
    else if k < k' then (k, v) :: (k', v') :: m
    else (k', v') :: SMap.ins m k v

/-- Remove a key. -/
def SMap.del {α : Type} (m : SMap α) (k : Nat) : SMap α := m.filter (fun e => decide (e.1 ≠ k))

/-- Write a value: writing the default removes the entry, so equal contents are equal lists. -/
def SMap.set {α : Type} [DecidableEq α] (d : α) (m : SMap α) (k : Nat) (v : α) : SMap α :=
  if v = d then SMap.del m k else SMap.ins m k v

/-- Keys rise strictly, all above `lo` (exclusive, `none` = no bound). -/
def SMap.sortedFrom {α : Type} : Option Nat → SMap α → Bool
  | _, [] => true
  | none, (k, _) :: m => SMap.sortedFrom (some k) m
  | some b, (k, _) :: m => decide (b < k) && SMap.sortedFrom (some k) m

/-- The canonical form: keys strictly rising, no entry equal to the default `d`. -/
def SMap.wf {α : Type} [DecidableEq α] (d : α) (m : SMap α) : Bool :=
  SMap.sortedFrom none m && m.all (fun e => decide (e.2 ≠ d))

/-- Keep the entries whose key satisfies `p`. -/
def SMap.keep {α : Type} (m : SMap α) (p : Nat → Bool) : SMap α := m.filter (fun e => p e.1)

/-- Change every listed value. Unlisted keys keep the default. -/
def SMap.mapv {α : Type} [DecidableEq α] (d : α) (m : SMap α) (f : Nat → α → α) : SMap α :=
  (m.map (fun e => (e.1, f e.1 e.2))).filter (fun e => decide (e.2 ≠ d))

end Sys2Proof.Machine
end

