-- ==== Sys2Proof/Machine/State.lean ====
section
/-! DEFINITION. The state of the module as plain data, and the state right after reset. Where a register is only a
view of structured state (a counter's word, a channel's status) the structured state is its home and the register
read is computed (Machine/Control.lean); every other register's home is `State.regs`. -/

namespace Sys2Proof.Machine

/-- Why the machine stops with a fault. -/
inductive Fault where
  /-- Raised by every command that names a unit the module does not have (a tile at or above 1,152, a cluster at or
  above 128, a port at or above 48, …). The manual gives no such unit: SAFE. -/
  | noSuchUnit
deriving DecidableEq, Repr

/-- Why a command has no meaning. -/
inductive Refusal where
  /-- Raised by an arm of exec whose instruction has no meaning yet: SAFE. -/
  | notModelled (mnemonic : String)
deriving DecidableEq, Repr

/-! ## Tiles (chapters 2 to 6) -/

/-- One active hardware loop (R73, R74): body start, last word of the body, remaining passes with the current one. -/
structure Loop where
  start : Addr48
  last : Addr48
  left : Nat
deriving DecidableEq, Repr

/-- Why a context that could otherwise issue is stalled. -/
inductive Stall where
  | none
  | wait (cnum : Nat) (pd : BitVec 3) (timed : Bool) (woken : Bool)   -- R43 to R45
  | twait (tok : BitVec 4)                                            -- R81
  | fence (scope : BitVec 2)                                          -- R36
  | drain (cnum : Nat) (target : Nat)                                 -- R48
  | chanFull (word : Word)                                            -- R185
  | narrowFull (word : Word)                                          -- R349
deriving DecidableEq, Repr

/-- Whether a context runs a program (R21, R72, R87). -/
inductive Run where
  | idle       -- not launched since the last compute reset
  | running
  | stopping   -- `end` issued or an undelivered fault: waits for what it has issued
  | ended
deriving DecidableEq, Repr

/-- A fault that a context holds (R518) or that ended it (R87). `seq` orders instructions by issue. -/
structure FaultRec where
  seq : Nat
  pc : Addr48
  cause : BitVec 8
  info : Word
  unit : Bool
  inh : Bool
deriving DecidableEq, Repr

/-- An arrival on its way to a counter (R42, R47): counter, increment, epoch, and what R46 records of its source. -/
structure Arrival where
  id : Nat
  dev : Option Nat        -- another module's device number
  cnum : Nat
  inc : Nat
  epoch : Nat
  anyEpoch : Bool         -- carries the counter's current epoch (R397)
  unit : Nat              -- enabled tile number, or 0x07FF
  fromDev : Nat           -- arriving module's device number plus 1, or 0
  pc : Addr48             -- address of the arrive instruction, or 0
  who : Option (Nat × Ctxt × Nat) -- tile, context and issue number of the arrive instruction
deriving DecidableEq, Repr

/-- One hardware context (R20, Table 3-7). -/
structure Ctx where
  run : Run
  pc : Addr48
  s : SMap Word
  v : SMap Lane           -- key 64 × register + lane
  p : SMap Word
  loops : List Loop       -- innermost first
  fvec : Addr48
  fmask : BitVec 16
  fpc : Addr48
  fcause : BitVec 16
  finfo : Word
  fresume : Addr48
  inh : Bool
  stall : Stall
  held : Option FaultRec      -- detected, not yet delivered or reported
  endFault : Option FaultRec  -- the undelivered fault that ended the program
  arrives : List (Nat × BitVec 2 × Arrival) -- arrives that wait for earlier accesses (R42): issue number, scope, arrival
  launch : Option Nat         -- the launch it belongs to (R461)
deriving DecidableEq, Repr

def Ctx.reset : Ctx :=
  { run := .idle, pc := 0, s := [], v := [], p := [], loops := [], fvec := 0, fmask := 0, fpc := 0, fcause := 0,
    finfo := 0, fresume := 0, inh := false, stall := .none, held := none, endFault := none, arrives := [],
    launch := none }

/-- An M, V, F or D instruction that has issued and not completed: its word, what issue captured of the scalar
registers and the guard mask, and whether it has started (R35, R39). -/
structure UOp where
  seq : Nat
  ctx : Ctxt
  pc : Addr48
  unit : TUnit
  word : Word
  va : Word               -- s(SA), s(SB), s(SC) at issue
  vb : Word
  vc : Word
  mask : Word             -- lane mask of V and F (R61)
  started : Bool
  consumed : Bool         -- took its wait token
  before : List (Nat × Nat) -- what the registers it writes held when it started, until it completes (R85)
  wait : Nat              -- rack operations it still waits for
  cancelled : Bool        -- a fault of its own: it signals nothing
  exps : List Nat         -- manchor in bucket mode: the agreed exponents of its blocks, taken at issue (R326)
  inBytes : List (Nat × Nat) -- operand bytes of a started M instruction: first byte, how many (R136)
  outBytes : List (Nat × Nat) -- bytes it writes
  due : List (Nat × Nat)  -- rows and group checks still to be charged: entry of Table 14-1, how many (R372)
deriving DecidableEq, Repr

/-- One tile. -/
structure Tile where
  cur : Ctxt
  ctxF : Ctx
  ctxL : Ctx
  tokens : SMap (BitVec 8)
  store : List Host.Cell  -- tile store and accumulator store, 21-bit addresses (Table 2-3)
  fill : Option Nat       -- what unlisted bytes hold: 0, or free values after a march pattern (R413)
  ops : List UOp          -- in issue order
  seq : Nat               -- next issue number
  codebook : SMap Lane    -- key 256 × bank + entry (R179)
  bank : Nat              -- active bank
  checkedN : Nat          -- M instructions numbered by R150
  cclk : Nat              -- last CCLK count read (RDTIME)
  credit : Nat            -- governor balance in pJ (R371)
  want : Nat              -- deficit asked of the pool, 0 for none (R372)
  poor : Option Nat       -- entry of Table 14-1 that prices F's next instruction while L runs for want of credit (R22)
deriving DecidableEq, Repr

def Tile.reset : Tile :=
  { cur := .F, ctxF := .reset, ctxL := .reset, tokens := [], store := [], fill := none, ops := [], seq := 0, codebook := [],
    bank := 0, checkedN := 0, cclk := 0, credit := 0, want := 0, poor := none }

/-! ## Sync counters and task queues (chapter 2) -/

/-- One sync counter (R41). -/
structure Counter where
  count : Nat
  target : Nat
  waiters : List Nat      -- clusters, rising
  epoch : Nat
  ovf : Bool
deriving DecidableEq, Repr

def Counter.reset : Counter := { count := 0, target := 0, waiters := [], epoch := 0, ovf := false }

/-- One task of a task queue (R51): the base die that holds it, and its entry. -/
structure Task where
  die : Nat
  arg : Word
  num : BitVec 32
  owner : BitVec 32
deriving DecidableEq, Repr

/-! ## Stream channels (chapter 7) -/

/-- One copy in a channel's queue: its descriptor as read at issue after the offsets (CHDESC), who issued it, and the
progress of its run. -/
structure Copy where
  id : Nat
  desc : Nat
  word : Word
  tile : Nat
  ctx : Ctxt
  seq : Nat
  pc : Addr48
  started : Bool
  consumed : Bool
  pos : Nat               -- COUNT units done
  out : Nat               -- destination bytes written
  src : Nat               -- ZDECOMP: source bytes read
  crc : Nat               -- running CRC-32C register
  lit : List Nat          -- ZCOMP: open literal run
  zeros : Nat             -- ZCOMP: open zero run; ZDECOMP: zero bytes still to write
  litLeft : Nat           -- ZDECOMP: literal bytes still to copy
  status : Nat            -- status it will end with
  kept : SMap Byte        -- SLICE with CRC = 1: destination bytes by offset
  moved : Bool            -- every byte written or sent
  wait : Nat              -- rack operations it still waits for
  gateway : Bool          -- handed to a gateway engine
  reading : Bool          -- a READ of its next bytes is outstanding (R366)
  buf : List Byte         -- RAW with CRC = 1: bytes taken in that wait for the engine or a transfer (R201)
deriving DecidableEq, Repr

/-- One stream channel. -/
structure Chan where
  queue : List Copy
  held : Bool
  lastst : Nat
  crc : Nat
  out : Nat
  ovf : Nat
  grants : Nat
deriving DecidableEq, Repr

def Chan.reset : Chan := { queue := [], held := false, lastst := 0, crc := 0, out := 0, ovf := 0, grants := 0 }

/-! ## Memory (chapter 8) -/

/-- One cache line: valid and dirty bits of its eight sectors, the KEEP mark, and its place in the use order. -/
structure Line where
  valid : Nat
  dirty : Nat
  keep : Bool
  used : Nat
deriving DecidableEq, Repr

/-- A combining register (R363): the sector it serves, its lane width and its lane sums. -/
structure Comb where
  sector : Nat
  bank : Nat
  w64 : Bool
  lanes : List Nat
  used : Nat
deriving DecidableEq, Repr

/-- Device memory and the memory-side cache. Stored sectors are 36 bytes; the key of byte b of sector s of local
granule q of channel m is ((m × 2^25 + q) × 8 + s) × 36 + b. Lines are keyed m × 2^25 + q. -/
structure Mem where
  hbm : List Host.Cell
  cbytes : List Host.Cell
  lines : SMap Line
  clock : Nat
  combs : List Comb
deriving DecidableEq, Repr

def Mem.reset : Mem := { hbm := [], cbytes := [], lines := [], clock := 0, combs := [] }

/-! ## Events (chapter 17) -/

/-- The events of Table 17-5. -/
inductive Ev where
  | hearthStart | slotFallback | updateStaged | updateRejected | svnCommitted | edgeAdmitted | edgeRejected
  | eventsLost | protlogFull | configLost
  | crustTransient | crustPermanent | sramUncorrectable | contextFault | syncOverflow
  | memDetError | memCorUncorrectable | scrubFinding | combineLost
  | fabricDrop | epochBusy
  | laneRetired | laneMiswired | laserHigh | laserLow | bundleDown
  | thermWarning | thermThrottle | thermalShutdown | rateTrip | sensorSuspect | powerOver | sprintCap
  | powerupRefused
  | unitFenced | moduleDrain | linkDegraded | linkFenced | marginFail | healthLow | healthExpel | requalified
  | twinConflict | twinUnprotected | mirrorRefused | mirrorGap | twinPromoted | twinDetached | shadowMismatch
deriving DecidableEq, Repr

/-- An event on its way to Hearth (R439, R441): UNIT, DATA and whether the hardware queue held it. -/
structure EvRec where
  ev : Ev
  unit : Nat
  data : List Byte
  queued : Bool
deriving DecidableEq, Repr

/-! ## Rack requester (chapter 13) -/

/-- Who waits for a rack operation. -/
inductive ROwner where
  | narrow (tile : Nat) (seq : Nat)
  | copy (id chan : Nat)         -- chan: 16 × cluster + channel
  | arrive (tile : Nat) (ctx : Ctxt) (seq : Nat) (pc : Addr48)
  | engine                       -- an arrival of a copy, collective, Hearth or plan switch
  | expWord (tag : Nat)          -- an exponent word of a rerun on its way to EXPADDR on another module (R324, R341)
  | mirror (slice : Nat) (who : Option (Nat × Ctxt × Nat))  -- a mirror write (R420) and whose write caused it (R422)
deriving DecidableEq, Repr

/-- Kinds of request (R353). -/
inductive RKind where
  | read | write | atomic | arrive
deriving DecidableEq, Repr

/-- Where a rack operation stands with its stream (R361, R362). -/
inductive RPhase where
  | held        -- not yet sent: its stream waits for re-sends
  | sent
  | retried     -- answered RETRY, waiting for its backoff
deriving DecidableEq, Repr

/-- One outstanding rack operation of a requester of this module. -/
structure ROp where
  id : Nat
  kind : RKind
  sep : Nat                      -- endpoint of the requester
  dev : Nat
  tag : Nat                      -- TAG of its messages (R353)
  addr : Nat                     -- device address at the target, or the arrive word
  size : Nat
  data : List Byte               -- bytes written, or the atomic's operand
  mode : Nat                     -- AOP + 8 × ATYPE + 32 × RET
  local_ : Nat                   -- where a READ's data or an old value goes, in a form of Table 7-2
  hint : Nat                     -- HINT of the access (R189)
  owner : ROwner
  phase : RPhase
  resends : Nat
deriving DecidableEq, Repr

/-! ## Governor (chapter 14) -/

/-- One sensor's recent history: readings in 1/16 °C, newest first, at most 100, and consecutive outlying samples. -/
structure Sensor where
  history : List Int
  off : Nat
deriving DecidableEq, Repr

def Sensor.reset : Sensor := { history := [], off := 0 }

/-- A run of a channel's traffic generator, as its start found the registers (R237, R238): TGCFG, TGRANGE, TGSEED, TGUSER and
the three bits of a 36-bit group that no address fills. -/
structure GenRun where
  cfg : Nat
  range : Nat
  seed : Nat
  user : Nat
  loose : Nat
deriving DecidableEq, Repr

def GenRun.reset : GenRun := { cfg := 0, range := 0, seed := 0, user := 0, loose := 0 }

/-- One compute die's governor (R371 to R389): pool, share of the last refill (0: none yet), tile served last plus 1,
costs in force (R373), the mW its limit loses eightfold (R377), consecutive stable samples of a rate trip. -/
structure Gov where
  pool : Nat
  share : Nat
  last : Nat
  costs : List Nat
  excess : Nat
  stable : Nat
  sprintRef : Nat                -- REF while sprinting
deriving DecidableEq, Repr

/-- Table 14-1's costs, entries 0 to 16. -/
def defaultCosts : List Nat := [1200, 304, 290, 600, 60, 90, 300, 190, 260, 60, 120, 200, 240, 150, 40, 30, 10]

def Gov.reset : Gov := { pool := 0, share := 0, last := 0, costs := defaultCosts, excess := 0, stable := 0, sprintRef := 0 }

/-! ## Fabric (chapter 9) -/

/-- One flit (Tables 9-2 and 9-3). `ack` is ACKC and ACK while ACKV is set; `data` holds the LEN valid payload bytes. -/
structure Flit where
  resv : Nat
  syn : Bool
  hint : Nat
  resend : Bool
  sep : Nat
  dep : Nat
  sdev : Nat
  ddev : Nat
  kind : Nat
  cls : Nat
  epoch : Nat
  hops : Nat
  data : List Byte
  tag : Nat
  fcnt : Nat
  fidx : Nat
  ack : Option (Nat × Nat)
  seq : Nat
deriving DecidableEq, Repr

/-- A message a source keeps until it is acknowledged (R259), or that waits to be sent. -/
structure OutMsg where
  key : StreamKey
  sdev : Nat
  kind : Nat
  seq : Nat
  tag : Nat
  hint : Nat
  data : List Byte
  syn : Bool
  sent : Bool
  resends : Nat                  -- counted re-sends (R263)
  rop : Option Nat               -- the rack operation it carries
deriving DecidableEq, Repr

/-- A stream at its source: next SEQ, and whether its next message opens it (R264). -/
structure OutStream where
  key : StreamKey
  next : Nat
  fresh : Bool
deriving DecidableEq, Repr

/-- A stream at its destination: next expected SEQ, deliveries not yet acknowledged, flits held for reordering. -/
structure InStream where
  key : StreamKey
  next : Nat
  due : Nat
  store : List Flit
deriving DecidableEq, Repr

/-- A delivered message that its endpoint has not yet handled. -/
structure InMsg where
  key : StreamKey
  ddev : Nat                     -- the device number it was addressed to: the module's own or its alias
  kind : Nat
  tag : Nat
  hint : Nat
  data : List Byte
  early : Bool                   -- a home agent had accepted it when a drain began (R400)
deriving DecidableEq, Repr

/-- A mesh router: flits that arrived (input 0 N, 1 E, 2 S, 3 W, 4 attachment), carried flits, the local endpoint
injected last plus 1, the flits that waited for injection with the FCLKs they have waited, and dumbwaiter flits queued by
output. -/
structure Router where
  arrived : List (Nat × Flit)
  carried : List Flit
  turn : Nat
  waited : List (Flit × Nat)
  dwq : List (Nat × Flit)
deriving DecidableEq, Repr

def Router.reset : Router := { arrived := [], carried := [], turn := 0, waited := [], dwq := [] }

/-- An edge switch: flits that arrived (input 0–11 ports, 12–15 attachments by row) and its output queues. -/
structure EdgeSwitch where
  arrived : List (Nat × Flit)
  queues : List (Nat × Flit)
deriving DecidableEq, Repr

def EdgeSwitch.reset : EdgeSwitch := { arrived := [], queues := [] }

/-- One link block: its BSEQ and flits by position (R246). -/
structure Block where
  bseq : Nat
  flits : List Flit
deriving DecidableEq, Repr

/-- A link block as it is sent, with its trailer's BACK and NAK (R246, R247). -/
structure BlockOut where
  block : Block
  back : Nat
  nak : Bool
deriving DecidableEq, Repr

/-- The link layer of one optical port or cube bundle (R246 to R248), and its stream on the lanes (R276). -/
structure Link where
  next : Nat                     -- BSEQ of the next new block
  kept : List Block              -- replay buffer, oldest first
  expect : Nat                   -- BSEQ expected next
  nak : Bool                     -- NAK due in the next trailer
  asked : Bool                   -- the far end has set NAK
  replays : Nat                  -- replays since BACK last advanced
  sent : List BlockOut           -- the blocks of the last transmission
  pos : Nat                      -- stream bits since the lanes last began a superframe together
  lanes : List (List Bool)       -- data bits the last transmission put on each lane, by LIDX, scrambled
deriving DecidableEq, Repr

def Link.reset : Link :=
  { next := 0, kept := [], expect := 0, nak := false, asked := false, replays := 0, sent := [], pos := 0, lanes := [] }

/-- The fabric of the module. -/
structure Fabric where
  tick : Nat                     -- the package-wide FCLK count t (R244)
  routers : SMap Router
  edges : SMap EdgeSwitch
  links : SMap Link
  waiting : List (Nat × Flit)    -- flits waiting at a switch point to be injected
  out : List OutMsg
  outs : List OutStream
  ins : List InStream
  landed : List Flit             -- ejected flits their endpoints have not yet taken
  inbox : List InMsg
  dwIn : List Flit               -- dumbwaiter flits delivered to collective engines
  drops : SMap Nat               -- drops by switch point
deriving DecidableEq, Repr

def Fabric.reset : Fabric :=
  { tick := 0, routers := [], edges := [], links := [], waiting := [], out := [], outs := [], ins := [], landed := [],
    inbox := [], dwIn := [], drops := [] }

/-! ## Optics (chapter 10) -/

/-- What the last valid training frame of a lane said (Table 10-2), and the module's own end: a lock attempt in
progress (WRONG in its reverse frames), and its slot retired on the far end's word (R282). -/
structure RxLane where
  planv : Bool
  bundle : Nat
  lidx : Nat
  width : Nat
  attempt : Bool
  txRetired : Bool
deriving DecidableEq, Repr

def RxLane.reset : RxLane := { planv := false, bundle := 7, lidx := 0, width := 0, attempt := false, txRetired := false }

/-- An accepted switch of wiring plans (R294): target, RT, and the arrival it asked for. -/
structure PlanReq where
  target : Nat
  rt : Bool
  arr : Option (Nat × Nat)
deriving DecidableEq, Repr

/-! ## Collectives (chapters 11 and 12) -/

/-- The origin of blocks contributed by bkput (R330): first block, how many, and where the values lie. -/
structure Origin where
  b0 : Nat
  nb : Nat
  srcl : Nat
  stype : Nat
  tile : Nat
deriving DecidableEq, Repr

/-- A fragment received, in its first copy (R312, R344). -/
structure Frag where
  rank : Nat
  part : Nat
  ix : Nat
  data : List Byte
deriving DecidableEq, Repr

/-- A fragment sent, kept for a RETRY until the operation ends (R313). -/
structure SentFrag where
  key : StreamKey
  ptag : Nat
  data : List Byte
  no : Nat                       -- place in the order the engines issued them (R361)
  retried : Bool                 -- answered RETRY, or held back behind one that was
deriving DecidableEq, Repr

/-- One collective tag (R298, Table 11-4). -/
structure Tag where
  st : Nat                       -- Table 11-4
  reason : Nat
  desc : Nat                     -- the 64 bytes of the descriptor
  ranks : List Nat               -- rank-table entries
  exps : List Nat                -- agreed exponents, 16 bits each (R324)
  backup : Bool                  -- this module is its rank's backup (R342)
  origins : List Origin
  frags : List Frag
  arrived : List (Nat × Bool)    -- ranks in order of arrival, and whether a backup completed them
  late : Nat                     -- BKLATE
  nmiss : Nat
  miss : Nat
  nan : Option Nat               -- lowest rank that contributed a NaN (R337)
  combined : Bool                -- this rank's combining is over
  flagged : List (Nat × Int)     -- blocks of the current rerun round and their e2
  round : Nat
  rerun : List Nat               -- blocks re-run so far, rising
  asked : List (Nat × Int)       -- blocks this rank was asked to convert again, and the latest e2 (R341)
  found : List (Nat × Int × List Int) -- crumbs of re-run blocks as bkput found them (R339)
  sent : List SentFrag
  step : Nat                     -- dumbwaiter: place in this member's list of steps
  value : List Byte
  dwSent : List (Nat × Flit)     -- last dumbwaiter flit sent to each partner rank
  tries : Nat
  own : List Byte                -- this rank's own blocks, read when the operation opened (R305): those it combines, or BX8's
  results : List (Nat × List Byte) -- result blocks settled before the last round, not yet written (R338)
  base : Nat                     -- rerun request fragments sent in earlier rounds (R340)
  served : List (Nat × Nat)      -- rerun request fragments answered: rank and number (R344)
  wait : Nat                     -- exponent words on their way to another module (R341)
deriving DecidableEq, Repr

def Tag.free : Tag :=
  { st := 0, reason := 0, desc := 0, ranks := [], exps := [], backup := false, origins := [], frags := [], arrived := [],
    late := 0, nmiss := 0, miss := 0, nan := none, combined := false, flagged := [], round := 0, rerun := [], asked := [],
    found := [], sent := [], step := 0, value := [], dwSent := [], tries := 0, own := [], results := [], base := 0,
    served := [], wait := 0 }

/-- A bkput accepted and not yet converted whole (R330, R332). -/
structure Put where
  tile : Nat
  ctx : Ctxt
  seq : Nat
  pc : Addr48
  tag : Nat
  b0 : Nat
  nb : Nat
  done : Nat                     -- blocks converted
  srcl : Nat
  stype : Nat
  epoch : Nat
  noarr : Bool
  exps : List Nat                -- the agreed exponents of its blocks, taken while the tag was ARMED (R326)
deriving DecidableEq, Repr

/-! ## Control space (chapters 0 and 21) -/

/-- A write that has not yet taken effect (R9, R486): who wrote, the offset of the access, the value or action. -/
structure Ask where
  hearth : Bool
  off : Nat
  value : Nat
deriving DecidableEq, Repr

/-! ## Host link (chapter 18) -/

/-- What a message of the module to the KA-2 is for. -/
inductive HWhat where
  | dmaIn (cmd off len : Nat)    -- a DMARD of a DMA_IN: bytes asked for
  | dmaOut (cmd len : Nat)       -- a DMAWR of a DMA_OUT
  | record (ring : Nat)          -- the DMAWR of a completion record
  | event                        -- the DMAWR of an event record
  | intr
  | flush (queue : Nat)
deriving DecidableEq, Repr

/-- A message to the KA-2 not yet answered: the edge die it left by and its TAG. -/
structure HReq where
  die : Nat
  tag : Nat
  what : HWhat
deriving DecidableEq, Repr

/-- A host command that has started and not completed (R459). -/
structure HostCmd where
  id : Nat
  queue : Nat
  index : Nat
  entry : Nat                    -- the 128 bytes of its entry
  pos : Nat                      -- bytes moved
  status : Nat                   -- status found so far (Table 18-6)
  info : Nat                     -- FINFO
  started : Nat
  left : Nat                     -- contexts started and not ended
  nfault : Nat
  report : Option (Nat × Bool × FaultRec) -- tile, context L, fault of the lowest faulting tile (R464)
deriving DecidableEq, Repr

/-- A completion record on the module: ring and its 32 bytes without PHASE; `sent` while its DMAWR is not answered. -/
structure HRec where
  ring : Nat
  queue : Nat
  data : List Byte
  sent : Bool
deriving DecidableEq, Repr

/-- The host link. -/
structure HostLink where
  cmds : List HostCmd
  recs : List HRec               -- oldest first
  reqs : List HReq
  turn : Nat                     -- queue served last, plus 1
  waiting : SMap Nat             -- entries read that wait for BARRIER, by queue
  qdie : SMap Nat                -- edge die a queue's traffic is bound to, plus 1
  phase : SMap Nat               -- ring r: passes begun, modulo 2
  job : Bool                     -- a job owns the module (R54)
  events : List Nat              -- 256-bit records waiting for the event ring
  evSent : Option Nat            -- the record whose DMAWR is not answered
  evPhase : Nat                  -- passes of the event ring begun, modulo 2
deriving DecidableEq, Repr

def HostLink.reset : HostLink :=
  { cmds := [], recs := [], reqs := [], turn := 0, waiting := [], qdie := [], phase := [], job := false, events := [],
    evSent := none, evPhase := 0 }

/-! ## Twin (chapter 16) -/

/-- A comparison the module has started and not yet decided (R434): the slot and its bytes 0–11. -/
structure Shadow where
  slot : Nat
  record : Nat
deriving DecidableEq, Repr

/-- Twin operation. -/
structure Twin where
  present : Bool                 -- TWIN_PRES_N is low
  launched : Bool                -- launched since the last start-up
  resets : Nat                   -- compute and warm resets since the last cold reset, modulo 2^16
  shown : Nat                    -- the count its heartbeats carry
  mark : Nat                     -- operations numbered below were issued before the last reset
  sent : SMap Nat                -- mirror writes sent since the last reset, by slice
  got : SMap Nat                 -- mirror writes received from the peer, by slice
  notice : Option (List Nat)     -- a drain notice not yet acted on: counts by slice
  lost : Bool                    -- protection was lost in this job (R426)
  detached : Bool                -- this module has detached (R431)
  shadows : List Shadow
  theirs : SMap Nat              -- the peer's records, by slot
deriving DecidableEq, Repr

def Twin.reset : Twin :=
  { present := false, launched := false, resets := 0, shown := 0, mark := 0, sent := [], got := [], notice := none,
    lost := false, detached := false, shadows := [], theirs := [] }

/-! ## Hearth (chapter 17) -/

/-- Hearth's own state. -/
structure Hearth where
  ring : SMap Nat                -- the log ring: 256-bit records by index (R442)
  prot : SMap Nat                -- the protected region
  protNoted : Bool               -- PROTLOG_FULL has been logged
  boots : Nat                    -- cold resets since manufacture
  usec : Nat                     -- µs since the last cold reset
  lostNoted : Nat                -- LOGLOST when EVENTS_LOST was last logged
  pldm : List Nat                -- event messages not acknowledged, oldest first (R443)
  slots : SMap Byte              -- image slots as written: key slot × 2^25 + byte; unlisted bytes are as manufactured
  updating : Bool                -- an update is in progress (R449)
  torn : Option Nat              -- a slot written and not yet verified: invalid (R449)
  staged : Bool                  -- activated components wait for a reset
  prefer : Option Nat            -- the slot R438 prefers after ActivateFirmware
  okeyHash : Nat
  meas : SMap Nat                -- measurements 1 to 8 (Table 17-7)
  aliasSeed : Nat                -- seed of the alias key of this start (R451)
  negotiated : Bool              -- an SPDM connection has agreed its algorithms
  eid : Nat                      -- MCTP endpoint ID
  saved : SMap Nat               -- penalties as last saved to flash (R410)
  dynamic : Option Nat           -- I3C dynamic address; SMBus while none
deriving DecidableEq, Repr

def Hearth.reset : Hearth :=
  { ring := [], prot := [], protNoted := false, boots := 0, usec := 0, lostNoted := 0, pldm := [], slots := [],
    updating := false, torn := none, staged := false, prefer := none, okeyHash := 0, meas := [], aliasSeed := 0,
    negotiated := false, eid := 0, saved := [], dynamic := none }

/-- What the module has sent outside the fabric: over the twin bridge and to the management network. -/
inductive Sent where
  | heartbeat (port dev role drain : Nat) (launched : Bool) (resets : Nat)
  | drainNotice (counts : List Nat)
  | detachNotice
  | shadow (slot record : Nat)
  | manage (kind : Nat) (ok : Bool) (data : List Byte)
deriving DecidableEq, Repr

/-! ## Power, pins and resets (chapters 14, 19 and 20) -/

/-- The input's band (Table 20-1): full operation, within limits, lost at or above 40 V, below 40 V. -/
inductive Band where
  | full
  | limited
  | lost
  | gone
deriving DecidableEq, Repr

/-- Pins and what Hearth's rail and clock monitors see. -/
structure Power where
  band : Band
  pwrEn : Bool
  modReset : Bool                -- MOD_RESET_N is low
  hrefclk : Bool                 -- HREFCLK is present
  cause : Nat                    -- why the module went down, as RSTCAUSE.COLD
  fault : Bool                   -- FAULT_N is asserted
  shutdown : Bool                -- shut down under R390 and not yet powered up
  trips : SMap Nat               -- units 8 to 27: bit 0 warning, bit 1 throttle (Table 14-3)
  susp : SMap Nat                -- suspect sensors of base and edge dies, by unit
  wear : List Nat                -- sprint µs of the last 30 days, today first (R381)
  gated : List Nat               -- compute dies that are idle-gated, rising (R478)
  fails : SMap Nat               -- consecutive failed retests of a fenced unit (R398)
  lost : List Nat                -- links that have lost a lane without spare and wait for a quiet point (R403)
  late : List Nat                -- fences recorded after a drain had begun, without effect (R399), kind × 2^16 + number
  outs : List Nat                -- stacks whose channels are OUT until they are mapped out (R236, R404), rising
deriving DecidableEq, Repr

def Power.reset : Power :=
  { band := .full, pwrEn := true, modReset := false, hrefclk := true, cause := 0, fault := false, shutdown := false,
    trips := [], susp := [], wear := List.replicate 30 0, gated := [], fails := [], lost := [], late := [],
    outs := [] }


/-- The module. -/
structure State where
  regs : SMap Nat             -- control-space registers, key Reg.key
  tiles : SMap Tile
  counters : SMap Counter
  tasks : List Task           -- the four task queues together, oldest first
  chans : SMap Chan           -- key 16 × cluster + channel
  engines : SMap Nat          -- per cluster: channel the format engine served last, plus 1 (0: none yet)
  arrivals : List Arrival     -- arrivals on their way to counters
  mem : Mem
  events : List EvRec         -- events not yet recorded by EVENT_RECORD, oldest first
  rops : List ROp             -- outstanding rack operations, in issue order
  removed : List Nat          -- tile slots removed from the numbering for good, rising (R398)
  penalty : SMap Nat          -- health penalties of R409 in units of 2^-32, key 256 × class + index
  drainDue : Option Nat       -- a certified detection or failed crossing awaiting DRAIN: its DRAINSTAT.CAUSE

  govs : SMap Gov             -- per compute die
  gens : SMap GenRun          -- traffic generators that run, key channel
  sensors : SMap Sensor       -- key 64 × unit + sensor; units 0–7 compute, 8–11 base, 12–15 edge dies

  fab : Fabric
  refusing : List StreamKey   -- streams that home agents answer with RETRY (R360)

  rx : SMap RxLane            -- lanes, key 16 × port + slot
  shut : List Nat             -- ports whose output gate a bright laser fibre has closed (R285), rising
  retrains : SMap Nat         -- consecutive failed retrains, key 12 × edge die + local port
  training : List Nat         -- cube bundles in a retrain, key 6 × edge die + bundle, rising (R284)
  sfcnt : SMap Nat            -- superframes since a port's last bring-up (SFCNT of Table 10-2)
  frames : SMap (List Byte)   -- the training frame each lane sent last, key 16 × port + slot
  plan : Option PlanReq       -- the switch in progress

  tags : SMap Tag
  puts : List Put             -- accepted bkputs, oldest first
  dwHeld : List Flit          -- dumbwaiter flits held for operations not yet open (R321)

  host : HostLink
  twin : Twin
  hd : Hearth
  power : Power
  sent : List Sent            -- messages sent outside the fabric, oldest first

  asks : SMap Ask             -- writes whose PENDING reads 1, key Reg.key

  nextId : Nat                -- names for arrivals, rack operations and messages
  free : Nat                  -- MODEL'S OWN: how many free values have been drawn
  pending : List Instr        -- commands waiting, first in, first out
deriving DecidableEq, Repr

/-- Registers whose value at the end of a cold reset is not their default: the idle spare ports blanked (R287), light
requested on every edge die (R286), Hearth READY, the edge dies admitted, the module ACTIVE (R472). -/
def resetRegs : SMap Nat :=
  [(Reg.PORTSTAT.key 44, 5), (Reg.PORTSTAT.key 45, 5), (Reg.PORTSTAT.key 46, 5), (Reg.PORTSTAT.key 47, 5),
   (Reg.LASERSTAT.key 0, 512), (Reg.LASERSTAT.key 1, 512), (Reg.LASERSTAT.key 2, 512), (Reg.LASERSTAT.key 3, 512),
   (Reg.HDSTAT.key 0, 1), (Reg.EDADMIT.key 0, 1), (Reg.EDADMIT.key 1, 1), (Reg.EDADMIT.key 2, 1),
   (Reg.EDADMIT.key 3, 1), (Reg.PWRSTAT.key 0, 3)]

/-- The module right after reset: the end of the cold-reset sequence with every step passed (R472), no light yet at any
port and no command received (log entry 1). -/
def State.reset : State :=
  { regs := resetRegs, tiles := [], counters := [], tasks := [], chans := [], engines := [], arrivals := [],
    mem := .reset,
    events := ⟨.hearthStart, 0, List.replicate 14 0, false⟩
      :: List.replicate 4 ⟨.edgeAdmitted, 0, List.replicate 14 0, false⟩,
    rops := [], removed := [], penalty := [], drainDue := none, govs := [], gens := [], sensors := [], fab := .reset,
    refusing := [], rx := [], shut := [], retrains := [], training := [], sfcnt := [], frames := [],
    plan := none, tags := [], puts := [], dwHeld := [],
    host := .reset, twin := .reset, hd := .reset, power := .reset, sent := [], asks := [], nextId := 1, free := 0,
    pending := [] }

end Sys2Proof.Machine
end

