-- ==== Sys2Proof/Machine/Ops.lean ====
section
/-! DEFINITION. The named operations every family is built on: register fields, events, contexts and their registers,
tokens, counters and arrivals, segment checks, taking a fault and returning from one. -/

namespace Sys2Proof.Machine

/-- What a command answers. -/
abbrev Out := Host.Outcome State Fault Refusal

/-! ## Control registers -/

/-- The value of entry `i` of a register. -/
def State.reg (s : State) (r : Reg) (i : Nat) : Nat := SMap.get (r.dflt i) s.regs (r.key i)

/-- Set entry `i` of a register, in the register's width. -/
def State.setReg (s : State) (r : Reg) (i v : Nat) : State :=
  { s with regs := SMap.set (r.dflt i) s.regs (r.key i) (v % 2 ^ r.spec.width) }

/-- A field of entry `i` of a register. -/
def State.get (s : State) (f : Fld) (i : Nat) : Nat := bits (s.reg f.reg i) f.hi f.lo

/-- Set a field of entry `i` of a register. -/
def State.put (s : State) (f : Fld) (i x : Nat) : State := s.setReg f.reg i (setBits (s.reg f.reg i) f.hi f.lo x)

/-- Add to a field that stays at its maximum once reached. -/
def State.bump (s : State) (f : Fld) (i n : Nat) : State :=
  s.put f i (satTo (f.hi + 1 - f.lo) (s.get f i + n))

/-! ## Writes that wait (R9, R486) and access records (R511) -/

/-- The PENDING bit of a register. -/
def Reg.pendBit : Reg → Nat
  | .FABCTL => 63
  | _ => 31

/-- The waiting write of entry `i` of a register. -/
def State.ask (s : State) (r : Reg) (i : Nat) : Option Ask := SMap.look s.asks (r.key i)

/-- The action or value a waiting write of entry `i` asks for. -/
def State.asks? (s : State) (r : Reg) (i v : Nat) : Bool :=
  match s.ask r i with
  | some a => decide (a.value = v)
  | none => false

/-- A write waits: PENDING reads 1; a second write replaces the first (R9). -/
def State.setAsk (s : State) (r : Reg) (i : Nat) (a : Ask) : State :=
  let s := s.setReg r i (setBits (s.reg r i) r.pendBit r.pendBit 1)
  { s with asks := SMap.ins s.asks (r.key i) a }

/-- A waiting write has taken effect: PENDING clears. -/
def State.askDone (s : State) (r : Reg) (i : Nat) : State :=
  let s := s.setReg r i (setBits (s.reg r i) r.pendBit r.pendBit 0)
  { s with asks := SMap.del s.asks (r.key i) }

/-- Banked registers: entry 0 is the host's, entry 1 Hearth's (R211). -/
def bankOf (hearth : Bool) : Nat := b2n hearth

/-- Record an access of an agent: KIND 1 UNUSED, 2 NOEFFECT, 3 NOTPOWERED, 4 BADREG (R511). -/
def State.record (s : State) (hearth : Bool) (kind off : Nat) : State :=
  let b := bankOf hearth
  (((s.put F.CSLAST_VALID b 1).put F.CSLAST_KIND b kind).put F.CSLAST_OFFSET b off).bump F.CSCOUNT_COUNT b 1

/-- An action of an agent on entry `i` of a register is without effect: it is recorded with the offset of its access
(R509, R511), and PENDING clears. -/
def State.noEffect (s : State) (hearth : Bool) (r : Reg) (i : Nat) : State :=
  let off := match s.ask r i with
    | some a => a.off
    | none => r.at i
  (s.askDone r i).record hearth 2 off

/-! ## Free values -/

/-- Draw a value the manual leaves open (log entry 6). -/
def State.draw (s : State) : Nat × State := (Config.unspecified s.free, { s with free := s.free + 1 })

/-- Draw how far a clock has moved (log entry 5). -/
def State.drawTime (s : State) : Nat × State := (Config.elapsed s.free, { s with free := s.free + 1 })

/-! ## What the module is -/

/-- The module's own device number (R32). -/
def State.dev (s : State) : Nat := s.get F.STRAPS_SLOT_ID 0

/-- A device number that names this module: its own, or its alias while RMALIAS is valid (R33, R370). -/
def State.isOwn (s : State) (d : Nat) : Bool :=
  decide (d = s.dev) || (decide (s.get F.RMALIAS_VALID 0 = 1) && decide (d = s.get F.RMALIAS_ALIAS 0))

/-- Some context is launched and not ended (R21, R72). -/
def State.jobRuns (s : State) : Bool :=
  s.tiles.any fun e => decide (e.2.ctxF.run = .running) || decide (e.2.ctxF.run = .stopping)
    || decide (e.2.ctxL.run = .running) || decide (e.2.ctxL.run = .stopping)

/-- Enabled tiles (R2, R514). -/
def State.tileCount (s : State) : Nat := s.get F.CAPTILE_TILES 0

/-- Device capacity in bytes (R28). -/
def State.capacity (s : State) : Nat := s.get F.CAPMEM_CAPACITY 0

/-- The slot of an enabled tile: numbering skips removed slots without gaps (R13, R398). -/
def State.slotOf (s : State) (t : Nat) : Nat := s.removed.foldl (fun u r => if r ≤ u then u + 1 else u) t

/-- The cluster of an enabled tile (Table 1-3). -/
def State.clusterOf (s : State) (t : Nat) : Nat := s.slotOf t / Config.tilesPerCluster

/-- The compute die and base die of an enabled tile. -/
def State.cdieOf (s : State) (t : Nat) : Nat := s.clusterOf t / 16
def State.bdieOf (s : State) (t : Nat) : Nat := s.clusterOf t / 32

/-- The module runs jobs: PWRSTAT.STATE is ACTIVE or IDLE_GATED (R474). -/
def State.active (s : State) : Bool := decide (s.get F.PWRSTAT_STATE 0 = 3) || decide (s.get F.PWRSTAT_STATE 0 = 4)

/-- The module answers requests: not in warm or cold reset, Nap or Deep (R357). -/
def State.answers (s : State) : Bool := let p := s.get F.PWRSTAT_STATE 0; decide (2 ≤ p) && decide (p ≤ 4)

/-- Hearth is READY and its clock runs (R439, R473). -/
def State.hearthReady (s : State) : Bool := decide (s.get F.HDSTAT_STATE 0 = 1) && s.power.hrefclk

/-- The module drains or has drained, or a detection has just required it (R153, R400). -/
def State.draining (s : State) : Bool := s.drainDue.isSome || decide (s.get F.DRAINSTAT_STATE 0 ≠ 0)

/-- Cluster `q` is fenced. -/
def State.clusterFenced (s : State) (q : Nat) : Bool := bit (s.reg .FENCECL 0) q

/-- Tile `t` is fenced, by itself or with its cluster (R395). -/
def State.tileFenced (s : State) (t : Nat) : Bool :=
  bit (s.reg .FENCETILE (t / 64)) (t % 64) || s.clusterFenced (s.clusterOf t)

/-- The array of tile `t` is fenced (R152). -/
def State.arrayFenced (s : State) (t : Nat) : Bool := bit (s.reg .FENCEARR (t / 64)) (t % 64)

/-- The job runs under CERTIFIED (R392). -/
def State.certified (s : State) : Bool := decide (s.get F.INTEGCFG_CLASS 0 = 1)

/-- A cause that requires a drain: the first one stands (R400). -/
def State.drainFor (s : State) (cause : Nat) : State := { s with drainDue := s.drainDue.orElse fun _ => some cause }

/-- The module is sprinting. -/
def State.sprinting (s : State) : Bool := decide (s.get F.GOVSTAT_SPRINT 0 = 1)

/-- The wear sum of R381 in whole seconds, from its daily buckets in µs. -/
def wearSeconds (w : List Nat) : Nat := w.foldl (· + ·) 0 / 1000000

/-- A sprint of `us` µs is over: the flag clears, CCLK is back at 1.8 GHz, today's bucket grows, and WINUS shows the sprint
time of the last 100 ms (R380, R381). -/
def State.sprintOff (s : State) (us win : Nat) : State :=
  let s := (List.range 8).foldl (fun (u : State) d =>
    let u := u.put F.GOVSTAT_SPRINT d 0
    if u.get F.GOVSTAT_FREQ d = 20 then u.put F.GOVSTAT_FREQ d 18 else u) s
  let w := match s.power.wear with
    | x :: xs => (x + us) :: xs
    | [] => [us]
  let s := { s with power := { s.power with wear := w } }
  (s.put F.SPRSTAT_WINUS 0 (min win 10000)).put F.SPRWEAR_SECONDS 0 (wearSeconds w)

/-- Any sprint ends at a reset (R470); how long it has lasted is free (log entry 5). -/
def State.stopSprint (s : State) : State :=
  if s.sprinting then
    let d := s.drawTime
    let e := d.2.drawTime
    e.2.sprintOff d.1 e.1
  else s

/-- Commands that name a unit the module lacks stop by name. -/
def within (n limit : Nat) (o : Out) : Out := if n < limit then o else .fault .noSuchUnit

/-! ## Events (R439 to R442, Table 17-5) -/

/-- SOURCE of an event. -/
def Ev.source : Ev → Nat
  | .hearthStart | .slotFallback | .updateStaged | .updateRejected | .svnCommitted | .edgeAdmitted | .edgeRejected
  | .eventsLost | .protlogFull | .configLost => 1
  | .crustTransient | .crustPermanent | .sramUncorrectable | .contextFault | .syncOverflow => 2
  | .memDetError | .memCorUncorrectable | .scrubFinding | .combineLost => 3
  | .fabricDrop | .epochBusy => 4
  | .laneRetired | .laneMiswired | .laserHigh | .laserLow | .bundleDown => 5
  | .thermWarning | .thermThrottle | .thermalShutdown | .rateTrip | .sensorSuspect | .powerOver | .sprintCap
  | .powerupRefused => 6
  | .unitFenced | .moduleDrain | .linkDegraded | .linkFenced | .marginFail | .healthLow | .healthExpel
  | .requalified => 7
  | .twinConflict | .twinUnprotected | .mirrorRefused | .mirrorGap | .twinPromoted | .twinDetached
  | .shadowMismatch => 8

/-- CODE of an event. -/
def Ev.code : Ev → Nat
  | .hearthStart => 1 | .slotFallback => 2 | .updateStaged => 3 | .updateRejected => 4 | .svnCommitted => 5
  | .edgeAdmitted => 6 | .edgeRejected => 7 | .eventsLost => 8 | .protlogFull => 9 | .configLost => 10
  | .crustTransient => 1 | .crustPermanent => 2 | .sramUncorrectable => 3 | .contextFault => 4 | .syncOverflow => 5
  | .memDetError => 1 | .memCorUncorrectable => 2 | .scrubFinding => 3 | .combineLost => 4
  | .fabricDrop => 1 | .epochBusy => 2
  | .laneRetired => 1 | .laneMiswired => 2 | .laserHigh => 3 | .laserLow => 4 | .bundleDown => 5
  | .thermWarning => 1 | .thermThrottle => 2 | .thermalShutdown => 3 | .rateTrip => 4 | .sensorSuspect => 5
  | .powerOver => 6 | .sprintCap => 7 | .powerupRefused => 8
  | .unitFenced => 1 | .moduleDrain => 2 | .linkDegraded => 3 | .linkFenced => 4 | .marginFail => 5
  | .healthLow => 6 | .healthExpel => 7 | .requalified => 8
  | .twinConflict => 1 | .twinUnprotected => 2 | .mirrorRefused => 3 | .mirrorGap => 4 | .twinPromoted => 5
  | .twinDetached => 6 | .shadowMismatch => 7

/-- Severity: 0 info, 1 warning, 2 error, 3 critical. -/
def Ev.sev : Ev → Nat
  | .hearthStart | .updateStaged | .svnCommitted | .edgeAdmitted | .fabricDrop | .sprintCap | .requalified
  | .twinPromoted | .twinDetached => 0
  | .slotFallback | .edgeRejected | .configLost | .crustPermanent | .sramUncorrectable | .memCorUncorrectable
  | .combineLost | .laserHigh | .powerOver | .unitFenced | .linkFenced | .twinConflict | .mirrorRefused
  | .mirrorGap => 2
  | .thermalShutdown | .moduleDrain => 3
  | _ => 1

/-- Hand an event to Hearth with the bytes of its DATA that carry a field; unused bytes are 0 (R441). While Hearth is not
READY the hardware queue holds 256 records; the excess is lost and counted in LOGLOST (R439). -/
def State.log (s : State) (ev : Ev) (unit : Nat) (given : List Byte) : State :=
  let data := (given ++ List.replicate 14 0).take 14
  if s.hearthReady then { s with events := s.events ++ [⟨ev, unit, data, false⟩] }
  else if s.events.length < 256 then { s with events := s.events ++ [⟨ev, unit, data, true⟩] }
  else s.bump F.LOGLOST_LOST 0 1

/-- UNIT_FENCED: the unit's kind, for which the manual gives no code, is a free byte; then its number (R408, log entry 6). -/
def State.logFence (s : State) (unit : Nat) : State :=
  let d := s.draw
  d.2.log .unitFenced unit (leBytes 1 d.1 ++ leBytes 2 unit)

/-- MARGIN_FAIL: the test and the measured margin have no code or unit in the manual and are free bytes around the unit's
number (R408, log entry 6). -/
def State.logMargin (s : State) (unit : Nat) : State :=
  let d := s.draw
  let e := d.2.draw
  e.2.log .marginFail unit (leBytes 1 d.1 ++ leBytes 2 unit ++ leBytes 11 e.1)

/-! ## Tiles and contexts -/

def State.tile (s : State) (t : Nat) : Tile := SMap.get Tile.reset s.tiles t
def State.setTile (s : State) (t : Nat) (x : Tile) : State := { s with tiles := SMap.set Tile.reset s.tiles t x }

def Tile.ctx (t : Tile) : Ctxt → Ctx
  | .F => t.ctxF
  | .L => t.ctxL

def Tile.setCtx (t : Tile) : Ctxt → Ctx → Tile
  | .F, c => { t with ctxF := c }
  | .L, c => { t with ctxL := c }

def State.ctx (s : State) (t : Nat) (c : Ctxt) : Ctx := (s.tile t).ctx c
def State.setCtx (s : State) (t : Nat) (c : Ctxt) (x : Ctx) : State := s.setTile t ((s.tile t).setCtx c x)

/-- Scalar register read: s0 reads 0 (R63). -/
def Ctx.rdS (c : Ctx) (i : Nat) : Word := if i = 0 then 0 else SMap.get 0 c.s i

/-- Scalar register write: writes to s0 are discarded (R63). -/
def Ctx.wrS (c : Ctx) (i : Nat) (v : Word) : Ctx := if i = 0 then c else { c with s := SMap.set 0 c.s i v }

/-- Predicate read: p0 reads all ones (R59). -/
def Ctx.rdP (c : Ctx) (i : Nat) : Word := if i = 0 then BitVec.allOnes 64 else SMap.get 0 c.p i

/-- Predicate write: writes to p0 are discarded (R59). -/
def Ctx.wrP (c : Ctx) (i : Nat) (v : Word) : Ctx := if i = 0 then c else { c with p := SMap.set 0 c.p i v }

/-- A one-bit result written to all 64 bits of a predicate (R59). -/
def Ctx.wrPb (c : Ctx) (i : Nat) (b : Bool) : Ctx := c.wrP i (if b then BitVec.allOnes 64 else 0)

/-- Lane `k` of vector register `r`. -/
def Ctx.rdLane (c : Ctx) (r k : Nat) : Lane := SMap.get 0 c.v (64 * r + k)
def Ctx.wrLane (c : Ctx) (r k : Nat) (v : Lane) : Ctx := { c with v := SMap.set 0 c.v (64 * r + k) v }

/-- Element `k` of a vector register for a TYPE code: FP64 in lanes 2k and 2k + 1, else lane k (R158). -/
def Ctx.rdElem (c : Ctx) (ty r k : Nat) : Nat :=
  if ty = 1 then (c.rdLane r (2 * k)).toNat + (c.rdLane r (2 * k + 1)).toNat * 2 ^ 32 else (c.rdLane r k).toNat
def Ctx.wrElem (c : Ctx) (ty r k v : Nat) : Ctx :=
  if ty = 1 then (c.wrLane r (2 * k) (BitVec.ofNat 32 v)).wrLane r (2 * k + 1) (BitVec.ofNat 32 (v / 2 ^ 32))
  else c.wrLane r k (BitVec.ofNat 32 v)

/-- A vector register as the number its 256 bytes hold. -/
def Ctx.rdVec (c : Ctx) (r : Nat) : Nat := packElems 32 ((List.range 64).map fun k => (c.rdLane r k).toNat)
def Ctx.wrVec (c : Ctx) (r v : Nat) : Ctx :=
  (List.range 64).foldl (fun x k => x.wrLane r k (BitVec.ofNat 32 (packedElem 32 v k))) c

/-- Tile-local bytes (R3, Table 2-3). -/
def Tile.rdByte (t : Tile) (a : Nat) : Byte :=
  match t.fill with
  | none => SMap.get 0 t.store a
  | some v => SMap.get (BitVec.ofNat 8 (Config.unspecified (v + a))) t.store a
def Tile.wrByte (t : Tile) (a : Nat) (b : Byte) : Tile :=
  { t with store := match t.fill with
      | none => SMap.set 0 t.store a b
      | some _ => SMap.ins t.store a b }
def Tile.rdBytes (t : Tile) (a n : Nat) : List Byte := (List.range n).map fun i => t.rdByte (a + i)
def Tile.wrBytes (t : Tile) : Nat → List Byte → Tile
  | _, [] => t
  | a, b :: bs => (t.wrByte a b).wrBytes (a + 1) bs
def Tile.rdNat (t : Tile) (a n : Nat) : Nat := leValue (t.rdBytes a n)

/-- The enabled tile in a slot, if any (R398). -/
def State.tileInSlot (s : State) (slot : Nat) : Option Nat := (List.range s.tileCount).find? fun t => decide (s.slotOf t = slot)

/-- Under CRUST_DUAL, the checker of a tile of an even cluster: the tile at the same position in the next (R156). -/
def State.checkerOf (s : State) (t : Nat) : Option Nat :=
  if s.get F.CRUSTCFG_LEVEL 0 = 3 ∧ s.clusterOf t % 2 = 0 then s.tileInSlot (s.slotOf t + Config.tilesPerCluster)
  else none

/-- Write tile-local bytes of tile `t`, and of its checker under CRUST_DUAL (R156). -/
def State.putLocal (s : State) (t a : Nat) (bs : List Byte) : State :=
  let s' := s.setTile t ((s.tile t).wrBytes a bs)
  match s.checkerOf t with
  | some c => s'.setTile c ((s'.tile c).wrBytes a bs)
  | none => s'

/-- Operand bytes of a running M instruction were overwritten from outside: each element it writes is a free value (R136). -/
def State.spoil (s : State) (t a n : Nat) : State :=
  let hit := fun (o : UOp) => o.started && o.inBytes.any fun r => decide (a < r.1 + r.2) && decide (r.1 < a + n)
  (((s.tile t).ops.filter hit).flatMap UOp.outBytes).foldl (fun (u : State) r =>
    State.putLocal { u with free := u.free + r.2 } t r.1
      ((List.range r.2).map fun i => BitVec.ofNat 8 (Config.unspecified (u.free + i)))) s

/-- A write of tile-local bytes by another unit than the array. -/
def State.wrLocal (s : State) (t a : Nat) (bs : List Byte) : State := (s.putLocal t a bs).spoil t a bs.length

/-- First byte of [a, a + n) at or above `limit`, if any. -/
def firstAtOrAbove (a n limit : Nat) : Option Nat :=
  if n = 0 then none else if limit ≤ a then some a else if limit < a + n then some limit else none

/-- Tile store ends, accumulator store ends, the space ends (Table 2-3). -/
def tileStoreEnd : Nat := 0x180000
def localEnd : Nat := 0x1C0000

/-! ## Memory checks (R28, R29, R217) -/

/-- Segment descriptor fields. -/
def State.segValid (s : State) (n : Nat) : Bool := decide (s.get F.SEGDESC_VALID n = 1)
def State.segBase (s : State) (n : Nat) : Nat := s.get F.SEGDESC_BASE n * 2 ^ 16
def State.segLen (s : State) (n : Nat) : Nat := s.get F.SEGDESC_LENGTH n * 2 ^ 16

/-- A valid segment that covers every byte of [a, a + n). -/
def State.segCovers (s : State) (a n k : Nat) : Bool :=
  s.segValid k && decide (s.segBase k ≤ a) && decide (a + n ≤ s.segBase k + s.segLen k) && decide (0 < s.segLen k)

/-- The segment of an access, if one covers it whole. -/
def State.segOf (s : State) (a n : Nat) : Option Nat := (List.range 64).find? (s.segCovers a n)

/-- Permission an access needs. -/
inductive Perm where
  | read | write | atomic
deriving DecidableEq, Repr

def State.segAllows (s : State) (k : Nat) : Perm → Bool
  | .read => decide (s.get F.SEGDESC_PERM_READ k = 1)
  | .write => decide (s.get F.SEGDESC_PERM_WRITE k = 1)
  | .atomic => decide (s.get F.SEGDESC_PERM_ATOMIC k = 1)

/-- Fault causes (Table 3-6). -/
def cILLEGAL : Nat := 1
def cLOCAL_RANGE : Nat := 2
def cSEGMENT : Nat := 3
def cALIGN : Nat := 4
def cTOKEN_OVERFLOW : Nat := 5
def cLOOP_DEPTH : Nat := 6
def cOPERAND : Nat := 7
def cADDRESS : Nat := 8
def cDET_ERROR : Nat := 9
def cCOR_UNCORRECTABLE : Nat := 10
def cRACK_REFUSED : Nat := 11
def cRACK_RETRY_LIMIT : Nat := 12
def cUNIT_FENCED : Nat := 13
def cSOFT_TRAP : Nat := 14

/-- A fault found: its cause and FINFO. -/
abbrev FaultAt := Nat × Nat

/-- FINFO of a cause for which the manual states no detail: above 64 bits, so that taking the fault draws a free value
(log entry 6). -/
def unstated : Nat := 2 ^ 64

/-- The detail word of a fault. -/
def State.finfo (s : State) (n : Nat) : Word × State :=
  if n < 2 ^ 64 then (BitVec.ofNat 64 n, s)
  else
    let d := s.draw
    (BitVec.ofNat 64 d.1, d.2)

/-- R217 then R29: the fault of a device access of n ≥ 1 bytes, if it has one. -/
def State.devCheck (s : State) (a n : Nat) (p : Perm) : Option FaultAt :=
  match firstAtOrAbove a n s.capacity with
  | some x => some (cADDRESS, x)
  | none =>
    match s.segOf a n with
    | none => some (cSEGMENT, a)
    | some k => if s.segAllows k p then none else some (cSEGMENT, a)

/-- R26: the fault of a tile-local access, if it has one. -/
def localCheck (a n : Nat) : Option FaultAt := (firstAtOrAbove a n localEnd).map fun x => (cLOCAL_RANGE, x)

/-! ## Sync counters (R41 to R50) -/

def State.counter (s : State) (c : Nat) : Counter := SMap.get Counter.reset s.counters c
def State.setCounter (s : State) (c : Nat) (x : Counter) : State :=
  { s with counters := SMap.set Counter.reset s.counters c x }

/-- count ≥ target (R43). -/
def Counter.reached (c : Counter) : Bool := decide (c.target ≤ c.count)

/-- Insert into a rising list without repeats. -/
def insertRising (k : Nat) : List Nat → List Nat
  | [] => [k]
  | x :: xs => if k = x then x :: xs else if k < x then k :: x :: xs else x :: insertRising k xs

/-- Mark a context as woken when it waits on counter `c` (R45). -/
def Ctx.wake (x : Ctx) (c : Nat) : Ctx :=
  match x.stall with
  | .wait n pd timed _ => if n = c then { x with stall := .wait n pd timed true } else x
  | _ => x

/-- R45: once count meets target, wake the clusters of the waiter mask and clear it. -/
def State.wake (s : State) (c : Nat) : State :=
  let x := s.counter c
  if x.reached && !x.waiters.isEmpty then
    let s := s.setCounter c { x with waiters := [] }
    { s with tiles := SMap.mapv Tile.reset s.tiles fun t tl =>
        if x.waiters.contains (s.clusterOf t) then { tl with ctxF := tl.ctxF.wake c, ctxL := tl.ctxL.wake c }
        else tl }
  else s

/-- Arm (Table 2-5). -/
def State.armCounter (s : State) (c target : Nat) : State :=
  (s.setCounter c { s.counter c with count := 0, target := target }).wake c

/-- The one operation of R48: next epoch, count 0, new target. -/
def State.migrateCounter (s : State) (c target : Nat) : State :=
  let x := s.counter c
  (s.setCounter c { x with epoch := (x.epoch + 1) % 16, count := 0, target := target }).wake c

/-- The base die of a counter (R41). -/
def counterDie (c : Nat) : Nat := c / 2 ^ 14

/-- A base die applies an arrival (R41, R42, R46, R49). -/
def State.applyArrival (s : State) (a : Arrival) : State :=
  let x := s.counter a.cnum
  if a.anyEpoch || decide (a.epoch = x.epoch) then
    let sum := x.count + a.inc
    let above := decide (2 ^ 32 - 1 < sum)
    let s := s.setCounter a.cnum { x with count := min sum (2 ^ 32 - 1), ovf := x.ovf || above }
    let s := if above then s.log .syncOverflow a.unit (leBytes 2 a.cnum ++ leBytes 1 a.fromDev) else s
    if a.inc = 0 then s else s.wake a.cnum
  else
    let d := counterDie a.cnum
    (s.bump F.SCDISC_DISCARDED d 1).setReg .SCDISCLAST d (2 ^ 16 + a.cnum)

/-! ## Endpoints (Table 9-1) -/

/-- The router at row `r`, column `c`. -/
def routerAt (r c : Nat) : Nat := 8 * r + c

/-- The router of index j on a base die (R240). -/
def dieRouter (b j : Nat) : Nat := routerAt (4 * (b / 2) + j / 4) (4 * (b % 2) + j % 4)

/-- The endpoint of a cluster. -/
def clusterEp (q : Nat) : Nat :=
  let d := q / 16
  let y := q % 16 / 2
  16 * dieRouter (d / 2) (4 * (2 * (d % 2) + y / 4) + y % 4) + q % 2

/-- The endpoints of a base die's sync counters, collective engine, home agent, gateway and edge interface. -/
def counterEp (c : Nat) : Nat := 16 * dieRouter (c / 2 ^ 14) (bits c 13 10) + 3
def bankEp (b set : Nat) : Nat := 16 * dieRouter b (set % 16) + 2
def engineEp (b : Nat) : Nat := 16 * dieRouter b 5 + 4
def homeEp (b : Nat) : Nat := 16 * dieRouter b 6 + 5
def gatewayEp (b : Nat) : Nat := 16 * dieRouter b 9 + 6
def edgeEp (b : Nat) : Nat := 16 * dieRouter b (if b % 2 = 0 then 0 else 3) + 7

/-! ## Messages and their streams at the source (R258, R259, R264) -/

/-- Cut a payload into the parts of one to eight flits. -/
def flitParts : Nat → List Byte → List (List Byte)
  | 0, _ => []
  | n + 1, bs => if bs.length ≤ 32 then [bs] else bs.take 32 :: flitParts n (bs.drop 32)

/-- The flits of a message. -/
def OutMsg.flits (m : OutMsg) (resend : Bool) (ack : Option (Nat × Nat)) : List Flit :=
  let ps := flitParts 8 m.data
  ps.zipIdx.map fun (p, i) =>
    { resv := 0, syn := m.syn, hint := m.hint, resend := resend, sep := m.key.ep, dep := m.key.far, sdev := m.sdev,
      ddev := m.key.dev, kind := m.kind, cls := m.key.cls, epoch := 0, hops := 0, data := p, tag := m.tag,
      fcnt := ps.length - 1, fidx := i, ack := if i = 0 then ack else none, seq := m.seq }

/-- The acknowledgement due from an endpoint to another, request class first (R261). -/
def State.ackDue (s : State) (k : StreamKey) : Option (Nat × Nat) :=
  (s.fab.ins.find? fun i => decide (i.key = { k with cls := 0 }) && decide (0 < i.due) ||
    decide (i.key = { k with cls := 1 }) && decide (0 < i.due)).map fun i => (i.key.cls, (i.next + 65535) % 65536)

/-- The acknowledgement has been sent. -/
def State.ackSent (s : State) (k : StreamKey) (a : Option (Nat × Nat)) : State :=
  match a with
  | none => s
  | some (c, _) => { s with fab := { s.fab with ins := s.fab.ins.map fun i =>
      if i.key = { k with cls := c } then { i with due := 0 } else i } }

/-- Put a message's flits where they wait for injection. -/
def State.launchMsg (s : State) (m : OutMsg) (resend : Bool) : State :=
  let a := if m.key.cls = 1 then s.ackDue m.key else none
  let s := s.ackSent m.key a
  { s with fab := { s.fab with waiting := s.fab.waiting ++ (m.flits resend a).map fun f => (m.key.ep / 16, f) } }

/-- The messages of a stream that its source keeps. -/
def Fabric.of (f : Fabric) (k : StreamKey) : List OutMsg := f.out.filter fun m => decide (m.key = k)

def Fabric.outStream (f : Fabric) (k : StreamKey) : OutStream :=
  (f.outs.find? fun o => decide (o.key = k)).getD { key := k, next := 0, fresh := true }

def Fabric.setOut (f : Fabric) (o : OutStream) : Fabric :=
  { f with outs := f.outs.filter (fun x => decide (x.key ≠ o.key)) ++ [o] }

def Fabric.setMsg (f : Fabric) (m : OutMsg) : Fabric :=
  { f with out := f.out.map fun x => if x.key = m.key ∧ x.seq = m.seq then m else x }

/-- Send the stream's next waiting message if R259 and R264 let it go: fewer than 64 unacknowledged, and no SYN message
outstanding. SYN is set when the stream starts afresh, or when nothing is unacknowledged and 32 µs have passed. -/
def State.pump1 (s : State) (k : StreamKey) : State :=
  let ms := s.fab.of k
  let out := ms.filter fun m => m.sent
  match ms.find? fun m => !m.sent with
  | none => s
  | some m =>
    if 64 ≤ out.length || out.any fun x => x.syn then s
    else
      let o := s.fab.outStream k
      let d := s.drawTime
      let syn := o.fresh || (out.isEmpty && decide (32 ≤ d.1))
      let s := if o.fresh || !out.isEmpty then s else d.2
      let m := { m with sent := true, syn := syn }
      let s := { s with fab := (s.fab.setMsg m).setOut { o with fresh := false } }
      s.launchMsg m false

def State.pump (s : State) (k : StreamKey) : State := (List.range 64).foldl (fun u _ => u.pump1 k) s

/-- Hand a message to its stream (R259). -/
def State.post (s : State) (k : StreamKey) (sdev kind hint tag : Nat) (data : List Byte) (rop : Option Nat) : State :=
  let o := s.fab.outStream k
  let m : OutMsg := { key := k, sdev := sdev, kind := kind, seq := o.next, tag := tag, hint := hint, data := data,
                      syn := false, sent := false, resends := 0, rop := rop }
  let f := s.fab.setOut { o with next := (o.next + 1) % 65536 }
  State.pump { s with fab := { f with out := f.out ++ [m] } } k

/-! ## Rack operations -/

/-- The endpoint a rack operation goes to (R347, R367, R369, R421). -/
def ROp.dep (o : ROp) : Nat :=
  match o.owner with
  | .mirror slice _ => homeEp slice
  | _ =>
    if 64 ≤ o.dev then gatewayEp (o.dev % 4)
    else match o.kind with
      | .arrive => counterEp (bits o.addr 15 0)
      | _ => homeEp (bits o.addr 9 8)

/-- The stream of a rack operation. -/
def ROp.stream (o : ROp) : StreamKey := { ep := o.sep, dev := o.dev, far := o.dep, cls := 0 }

/-- Whether a stream waits for re-sends (R361). -/
def State.streamHeld (s : State) (k : StreamKey) : Bool :=
  s.rops.any fun o => decide (o.stream = k) && decide (o.phase ≠ .sent)

/-- KIND of a request (Table 9-4). -/
def RKind.code : RKind → Nat
  | .read => 1 | .write => 2 | .atomic => 3 | .arrive => 4

/-- The payload of a request: the request word of Table 13-2, then data; or the word of an ARRIVE. -/
def ROp.payload (o : ROp) (rtry : Bool) : List Byte :=
  match o.kind with
  | .arrive => leBytes 8 o.addr
  | _ => leBytes 8 (o.addr + o.size * 2 ^ 48 + o.mode % 8 * 2 ^ 57 + o.mode / 8 % 4 * 2 ^ 60 + o.mode / 32 % 2 * 2 ^ 62
                    + b2n rtry * 2 ^ 63) ++ o.data

/-- SDEV of what an endpoint sends to a device: a gateway's messages carry the module's alias (R370). -/
def State.sdevFor (s : State) (d : Nat) : Nat := if 64 ≤ d then s.get F.RMALIAS_ALIAS 0 else s.dev

/-- Pieces of [a, a + n) cut at multiples of `unit` (fuel `f`), ascending: offset and length. -/
def runPieces (unit : Nat) : Nat → Nat → Nat → List (Nat × Nat)
  | 0, _, _ => []
  | f + 1, a, n =>
    if n = 0 then []
    else
      let k := min n (unit - a % unit)
      (a, k) :: runPieces unit f (a + k) (n - k)

/-- The messages of a gateway transfer, one run in its stream (R368): WRITEs of up to 128 bytes, the last with RET = 1,
or one READ per granule. -/
def ROp.run (o : ROp) : List ROp :=
  match o.kind with
  | .write => (runPieces 128 40 o.addr o.size).map fun p =>
      { o with addr := p.1, size := p.2, data := (o.data.drop (p.1 - o.addr)).take p.2,
               mode := if p.1 + p.2 = o.addr + o.size then 32 else 0 }
  | .read => (runPieces 256 20 o.addr o.size).map fun p => { o with addr := p.1, size := p.2, data := [] }
  | _ => [o]

/-- Send a rack operation's request. -/
def State.request (s : State) (o : ROp) (rtry : Bool) : State :=
  (if 64 ≤ o.dev then o.run else [o]).foldl (fun u m =>
    u.post o.stream (u.sdevFor o.dev) o.kind.code o.hint o.tag (m.payload rtry) (some o.id)) s

/-- The least TAG no operation of a stream uses (R353). -/
def State.freeTag (s : State) (k : StreamKey) : Option Nat :=
  (List.range 256).find? fun t => s.rops.all fun o => decide (o.stream ≠ k) || decide (o.tag ≠ t)

/-- Issue a rack operation: sent, or held while its stream waits for re-sends (R361) or has no TAG free (R353). -/
def State.sendRop (s : State) (o : ROp) : State :=
  let t := s.freeTag o.stream
  let held := s.streamHeld o.stream || t.isNone
  let o := { o with id := s.nextId, tag := t.getD 256, phase := if held then .held else .sent }
  let s := { s with rops := s.rops ++ [o], nextId := s.nextId + 1 }
  if held then s else s.request o false

/-- Send an arrival on its way: to the local base die, or as an ARRIVE from endpoint `sep` to another module (R354). -/
def State.sendArrival (s : State) (sep : Nat) (o : ROwner) (a : Arrival) : State :=
  match a.dev with
  | none => { s with arrivals := s.arrivals ++ [{ a with id := s.nextId }], nextId := s.nextId + 1 }
  | some d =>
    s.sendRop { id := 0, kind := .arrive, sep := if 64 ≤ d then gatewayEp (d % 4) else sep, dev := d, tag := 0,
                addr := a.cnum + a.epoch * 2 ^ 16 + a.inc * 2 ^ 20, size := 8, data := [], mode := 0, local_ := 0,
                hint := 0, owner := o, phase := .sent, resends := 0 }

/-- An arrival the module itself makes at a local counter, in the given epoch. -/
def State.arriveAt (s : State) (unit cnum inc epoch : Nat) : State :=
  s.sendArrival 0 .engine
    { id := 0, dev := none, cnum := cnum, inc := inc, epoch := epoch, anyEpoch := false,
      unit := unit, fromDev := 0, pc := 0, who := none }

/-- An arrival of increment 1 that always counts (R397). -/
def State.arriveAny (s : State) (cnum : Nat) : State :=
  s.sendArrival 0 .engine
    { id := 0, dev := none, cnum := cnum, inc := 1, epoch := 0, anyEpoch := true,
      unit := 0x7FF, fromDev := 0, pc := 0, who := none }

/-- An arrive's counter in the layout of R76's SC word, which FINFO shows (R263). -/
def counterWord (cnum dev epoch : Nat) : Nat := cnum + dev * 2 ^ 16 + 2 ^ 24 + epoch * 2 ^ 25

/-! ## What a context has outstanding (Table 2-4, R72) -/

def State.chan (s : State) (k : Nat) : Chan := SMap.get Chan.reset s.chans k
def State.setChan (s : State) (k : Nat) (c : Chan) : State := { s with chans := SMap.set Chan.reset s.chans k c }

/-- Whether an address form of Table 7-2 is a rack address on another module. -/
def State.formRemote (s : State) (a : Nat) : Bool :=
  decide (bits a 63 62 = 2) && !s.isOwn (bits a 55 48)

/-- Copies that a context has issued and that have not ended. -/
def State.copiesOf (s : State) (t : Nat) (c : Ctxt) : List Copy :=
  s.chans.flatMap fun e => e.2.queue.filter fun x => decide (x.tile = t) && decide (x.ctx = c)

/-- Whether a narrow access writes tile store when it is answered: ldn, and atom with RET = 1 (R206, R350). -/
def UOp.returns (o : UOp) : Bool :=
  decide (wOp o.word.toNat = 1) || (decide (wOp o.word.toNat = 3) && bit o.word.toNat 5)

/-- Whether a unit instruction makes memory accesses a fence of this scope waits for. A narrow access to another module
makes tile-local ones too: it reads its operand as it starts, and writes what is returned when its reply comes
(Table 2-4). -/
def State.opInScope (s : State) (scope : Nat) (o : UOp) : Bool :=
  match o.unit with
  | .matrix => true
  | .vector => decide (wOp o.word.toNat = 0x10) || decide (wOp o.word.toNat = 0x11)
  | .narrow => decide (wOp o.word.toNat ≤ 3)
      && (decide (scope = 2) || !s.formRemote o.vb.toNat || !o.started || o.returns)
  | _ => false

/-! Descriptor fields of Table 7-1 a fence reads too; the others stand in Copies.lean. -/
def dSrc (d : Nat) : Nat := bits d 63 0
def dDst (d : Nat) : Nat := bits d 127 64
def dOp (d : Nat) : Nat := bits d 163 160
def dEarr (d : Nat) : Bool := bit d 164
def dCrcWr (d : Nat) : Bool := bit d 169
def dSfmt (d : Nat) : Nat := bits d 183 176
def dAux (d : Nat) : Nat := bits d 319 256

/-- AUX0 is an address of this copy (Table 7-3). -/
def auxUsed (d : Nat) : Bool :=
  match dOp d with
  | 1 => fmtIsMx (dSfmt d)
  | 2 => true
  | 3 => dEarr d
  | 4 => true
  | 7 => dEarr d
  | _ => false

/-- Whether a copy makes accesses a fence of this scope waits for: a tile-scope fence waits for tile-local ones. -/
def copyInScope (scope : Nat) (x : Copy) : Bool :=
  let tileForm := fun v => decide (bits v 63 62 = 0)
  decide (1 ≤ scope) || tileForm (dSrc x.desc) || tileForm (dDst x.desc)
    || (auxUsed x.desc && tileForm (dAux x.desc)) || dCrcWr x.desc

/-- R422: every mirror write caused by the context's writes issued before number `n` has been acknowledged. -/
def State.mirrorsDone (s : State) (t : Nat) (c : Ctxt) (n : Nat) : Bool :=
  s.rops.all fun o => match o.owner with
    | .mirror _ (some (t', c', q)) => decide (t' ≠ t) || decide (c' ≠ c) || decide (n ≤ q)
    | _ => true

/-- R36, R42: the context's accesses issued before number `n` are performed at the scope. -/
def State.performed (s : State) (t : Nat) (c : Ctxt) (scope n : Nat) : Bool :=
  (s.tile t).ops.all (fun o => decide (o.ctx ≠ c) || decide (n ≤ o.seq) || !s.opInScope scope o)
  && (s.copiesOf t c).all (fun x => decide (n ≤ x.seq) || !copyInScope scope x)
  && s.puts.all (fun p => decide (p.tile ≠ t) || decide (p.ctx ≠ c) || decide (n ≤ p.seq))
  && (decide (scope ≠ 2) || decide (s.get F.TWINSTAT_MSTATE 0 ≠ 1) || s.mirrorsDone t c n)

/-- No arrive the context issued before number `n` is on its way: it can still fault (R263). -/
def State.arrivesDone (s : State) (t : Nat) (c : Ctxt) (n : Nat) : Bool :=
  (s.ctx t c).arrives.all (fun e => decide (n ≤ e.1))
  && s.arrivals.all (fun a => match a.who with
    | some (t', c', q) => decide (t' ≠ t) || decide (c' ≠ c) || decide (n ≤ q)
    | none => true)
  && s.rops.all (fun o => match o.owner with
    | .arrive t' c' q _ => decide (t' ≠ t) || decide (c' ≠ c) || decide (n ≤ q)
    | _ => true)

/-- Every instruction the context issued before number `n` has completed or faulted (R85). -/
def State.before (s : State) (t : Nat) (c : Ctxt) (n : Nat) : Bool :=
  (s.tile t).ops.all (fun o => decide (o.ctx ≠ c) || decide (n ≤ o.seq))
  && (s.copiesOf t c).all (fun x => decide (n ≤ x.seq))
  && s.puts.all (fun p => decide (p.tile ≠ t) || decide (p.ctx ≠ c) || decide (n ≤ p.seq))
  && s.arrivesDone t c n

/-- Nothing the context has issued is outstanding (R72). -/
def State.quiet (s : State) (t : Nat) (c : Ctxt) : Bool := s.before t c (s.tile t).seq

/-- Send the arrives of a context whose earlier accesses are now performed (R42). -/
def State.flushArrives (s : State) (t : Nat) (c : Ctxt) : State :=
  let x := s.ctx t c
  let ready := x.arrives.filter fun (n, sc, _) => s.performed t c sc.toNat n
  let s := s.setCtx t c { x with arrives := x.arrives.filter fun (n, sc, _) => !s.performed t c sc.toNat n }
  ready.foldl (fun u e => u.sendArrival (clusterEp (s.clusterOf t)) (.arrive t c e.1 e.2.2.pc) e.2.2) s

/-- MSTATE becomes UNPROTECTED for the rest of the job, and no rack-scope arrive waits for mirror writes any more (R422,
R423, R426). -/
def State.unprotect (s : State) : State :=
  let s := { s with twin := { s.twin with lost := true } }
  if s.get F.TWINSTAT_MSTATE 0 = 1 then
    let s := s.put F.TWINSTAT_MSTATE 0 2
    s.tiles.foldl (fun (u : State) e => (u.flushArrives e.1 .F).flushArrives e.1 .L) s
  else s

/-! ## Taking a fault (R84 to R87, R518) and returning from one (R88) -/

/-- R86: the fault is delivered to the handler. -/
def Ctx.delivers (x : Ctx) (f : FaultRec) : Bool :=
  decide (x.fvec ≠ 0) && bit x.fmask.toNat f.cause.toNat && !x.inh

/-- R86, R87: deliver a fault to the handler, or end the program with it; Hearth logs it when the program has ended, since a
fault that R518 still discards is not logged. FRESUME is the address of the first instruction not issued. -/
def State.takeFault (s : State) (t : Nat) (c : Ctxt) (f : FaultRec) : State :=
  let x := s.ctx t c
  if x.delivers f then
    s.setCtx t c { x with fpc := f.pc, fcause := BitVec.ofNat 16 (b2n f.unit * 256 + f.cause.toNat), finfo := f.info,
                          fresume := x.pc, inh := true, pc := x.fvec, stall := .none, held := none, endFault := none,
                          run := .running }
  else s.setCtx t c { x with run := .stopping, endFault := some { f with inh := x.inh }, stall := .none, held := none }

/-- A fault found at issue: the instruction at pc does not issue (R85). -/
def State.issueFault (s : State) (t : Nat) (c : Ctxt) (f : FaultAt) : State :=
  let x := s.ctx t c
  let i := s.finfo f.2
  i.2.takeFault t c { seq := (s.tile t).seq, pc := x.pc, cause := BitVec.ofNat 8 f.1, info := i.1,
                      unit := false, inh := false }

/-- Causes detected in a unit, but TOKEN_OVERFLOW, which a signal raises (Table 3-6). -/
def unitCause (c : Nat) : Bool := decide (cDET_ERROR ≤ c) && decide (c ≤ cUNIT_FENCED)

/-! Tokens (R39, R40). -/

def Tile.token (t : Tile) (k : Nat) : BitVec 8 := SMap.get 0 t.tokens k
def Tile.setToken (t : Tile) (k : Nat) (v : BitVec 8) : Tile := { t with tokens := SMap.set 0 t.tokens k v }

/-- The wait token of a word, if it names one (R64). -/
def waitTok (w : Nat) : Option Nat := if bit w 49 then some (bits w 48 45) else none
/-- The signal token of a word, if it names one (R64). -/
def sigTok (w : Nat) : Option Nat := if bit w 44 then some (bits w 43 40) else none

/-- Give a consumed wait token back (R85). -/
def Tile.restore (t : Tile) (w : Nat) (consumed : Bool) : Tile :=
  if consumed then
    match waitTok w with
    | some k => t.setToken k (if t.token k = 255 then 255 else t.token k + 1)
    | none => t
  else t

/-- The wait token is satisfied, or the word names none (R39). -/
def Tile.tokenReady (t : Tile) (w : Nat) : Bool :=
  match waitTok w with
  | some k => decide (0 < (t.token k).toNat)
  | none => true

/-- Take the wait token (R39). -/
def Tile.takeToken (t : Tile) (w : Nat) : Tile :=
  match waitTok w with
  | some k => t.setToken k (t.token k - 1)
  | none => t

/-- The register of a name that R62 interlocks: 0–63 scalar, 64–95 vector, from 96 predicate. -/
def Ctx.rdName (x : Ctx) (r : Nat) : Nat :=
  if r < 64 then (x.rdS r).toNat else if r < 96 then x.rdVec (r - 64) else (x.rdP (r - 96)).toNat
def Ctx.wrName (x : Ctx) (r v : Nat) : Ctx :=
  if r < 64 then x.wrS r (BitVec.ofNat 64 v) else if r < 96 then x.wrVec (r - 64) v else x.wrP (r - 96) (BitVec.ofNat 64 v)

/-- Undo an instruction that has not completed: its wait token is given back, and it writes no register (R85). -/
def Tile.undo (t : Tile) (o : UOp) : Tile :=
  o.before.foldl (fun u e => u.setCtx o.ctx ((u.ctx o.ctx).wrName e.1 e.2)) (t.restore o.word.toNat o.consumed)

/-- Discard a context's unit instructions with issue number at or above `n` in one unit (R85). -/
def Tile.discard (t : Tile) (c : Ctxt) (u : TUnit) (n : Nat) : Tile :=
  let gone := fun (o : UOp) => decide (o.ctx = c) && decide (o.unit = u) && decide (n ≤ o.seq)
  let t' := (t.ops.filter gone).foldl Tile.undo t
  { t' with ops := t.ops.filter fun o => !gone o }

/-- Deliver a held fault once every earlier instruction of the context has completed or faulted (R85). -/
def State.settle (s : State) (t : Nat) (c : Ctxt) : State :=
  match (s.ctx t c).held with
  | none => s
  | some f =>
    if s.before t c f.seq then s.takeFault t c f else s

/-- The fault of a fetch (R70, R230): SEGMENT and ADDRESS are found at issue; a failing sector raises a cause that Table 3-6
detects in a unit, so UNIT is 1 and the entry follows the last earlier instruction. -/
def State.fetchFails (s : State) (t : Nat) (c : Ctxt) (f : FaultAt) : State :=
  if unitCause f.1 then
    let x := s.ctx t c
    let i := s.finfo f.2
    (i.2.setCtx t c { x with held := some { seq := (s.tile t).seq, pc := x.pc, cause := BitVec.ofNat 8 f.1,
                                            info := i.1, unit := true, inh := false } }).settle t c
  else s.issueFault t c f

/-- A fault detected in a unit (R85): discard the instruction and the context's later ones in that unit, hold the
fault, keep only the earlier of two that wait to be delivered or reported (R518), and deliver when earlier instructions are
done. Copies in channel queues
are discarded by the caller (R205). -/
def State.unitFaultAt (s : State) (t : Nat) (c : Ctxt) (u : TUnit) (seq : Nat) (pc : Addr48) (f : FaultAt) : State :=
  let i := s.finfo f.2
  let s := i.2.setTile t ((i.2.tile t).discard c u seq)
  let x := s.ctx t c
  let rec' : FaultRec := { seq := seq, pc := pc, cause := BitVec.ofNat 8 f.1, info := i.1,
                           unit := true, inh := false }
  let older := fun (h : Option FaultRec) => match h with
    | some h => decide (h.seq ≤ seq)
    | none => false
  let keep := older x.held || older x.endFault
  let s := if keep then s else s.setCtx t c { x with held := some rec' }
  (s.settle t c).flushArrives t c

/-- The signal of a completed instruction would raise its token above 255 (R40). -/
def Tile.overflows (t : Tile) (w : Nat) : Bool :=
  match sigTok w with
  | some k => decide (t.token k = 255)
  | none => false

/-- Signal the token of a completed instruction (R39). -/
def Tile.signal (t : Tile) (w : Nat) : Tile :=
  match sigTok w with
  | some k => t.setToken k (t.token k + 1)
  | none => t

/-! ## Fences of units (R395 to R397) -/

/-- The common part of every fence: the log record and the notification arrival, which a fence after a drain has begun no
longer makes (R397, R399). -/
def State.noteFence (s : State) (unit : Nat) : State :=
  let s := s.logFence unit
  if s.get F.FENCENOTE_EN 0 = 1 ∧ s.draining = false then s.arriveAny (s.get F.FENCENOTE_CNUM 0) else s

/-- End a context's program with an undelivered UNIT_FENCED fault (R395, R400); an arrive that waits for earlier accesses,
which now never come about, is not sent (R42, DEDUCED, log 12). -/
def State.endFenced (s : State) (t : Nat) (c : Ctxt) : State :=
  let x := s.ctx t c
  match x.run with
  | .running | .stopping =>
    let i := s.finfo unstated
    i.2.setCtx t c { x with run := .stopping, held := none, stall := .none, loops := [], arrives := [],
                            endFault := some { seq := (s.tile t).seq, pc := x.pc, cause := BitVec.ofNat 8 cUNIT_FENCED,
                                               info := i.1, unit := true, inh := x.inh } }
  | _ => s

/-- Remove a copy as under an abort (R209): it arrives nowhere and signals nothing. -/
def Chan.dropCopies (c : Chan) (p : Copy → Bool) : Chan :=
  if c.queue.any p then { c with queue := c.queue.filter (fun x => !p x), lastst := 1 } else c

/-- Fence a tile (R395, R396); once a drain has begun the fence is recorded and changes nothing (R399). -/
def State.fenceTile (s : State) (t : Nat) : State :=
  if bit (s.reg .FENCETILE (t / 64)) (t % 64) then s
  else
    let s := s.setReg .FENCETILE (t / 64) (setBits (s.reg .FENCETILE (t / 64)) (t % 64) (t % 64) 1)
    if s.draining then s.logFence t else
    let s := { s with chans := SMap.mapv Chan.reset s.chans (fun _ c => c.dropCopies fun x => decide (x.tile = t)),
                      puts := s.puts.filter fun p => decide (p.tile ≠ t) }
    let s := s.setTile t { s.tile t with ops := [], credit := 0, want := 0 }
    let s := (s.endFenced t .F).endFenced t .L
    s.noteFence t

/-- An uncorrectable SRAM error of tile `t` (R393, R394, Table 15-1). Which of the bytes that an access read failed is a free
value: the logged address is any of tile-local space. -/
def State.sramFail (s : State) (t : Nat) : State :=
  let d := (s.bump F.SRAMCNT_UNCORR 0 1).draw
  let s := d.2.log .sramUncorrectable t (leBytes 3 (d.1 % 2 ^ 21))
  if s.certified then s.drainFor 1 else s.fenceTile t

/-- The score of a penalty in units of 2^-32, and the module's: the lowest (R410). -/
def scoreOf (p : Nat) : Nat := 1000 - min 1000 (p / 2 ^ 32)
def State.moduleScore (s : State) : Nat := s.penalty.foldl (fun a e => min a (scoreOf e.2)) 1000

/-- The class and index of the lowest-scoring unit, the lowest of each on a tie (HSMOD). -/
def State.worstUnit (s : State) : Nat × Nat :=
  match s.penalty.find? fun e => decide (scoreOf e.2 = s.moduleScore) with
  | some e => if s.moduleScore = 1000 then (0, 0) else (e.1 / 256, e.1 % 256)
  | none => (0, 0)

/-- DATA of HEALTH_LOW and HEALTH_EXPEL: class, index and score as HSMOD has them (DESIGN CHOICE, log entry 6). -/
def scoreData (cls i score : Nat) : List Byte := leBytes 1 cls ++ leBytes 1 i ++ leBytes 2 score

/-- R411: crossings of WARN and EXPEL since unit and module scores were `u0` and `m0`; that of unit `i` of class `cls` is
`u1` now. -/
def State.noteScores (s : State) (cls i u0 m0 u1 : Nat) : State :=
  let warn := s.get F.HSCFG_WARN 0
  let expel := s.get F.HSCFG_EXPEL 0
  let m1 := s.moduleScore
  let w := s.worstUnit
  let s := if warn ≤ u0 ∧ u1 < warn then s.log .healthLow i (scoreData cls i u1) else s
  let s := if warn ≤ m0 ∧ m1 < warn then s.log .healthLow 0 (scoreData w.1 w.2 m1) else s
  if expel ≤ m0 ∧ m1 < expel then (s.put F.HEALTHFLAG_EXPELLED 0 1).log .healthExpel 0 (scoreData w.1 w.2 m1) else s

/-- Add a weight of Table 15-6 to a unit's penalty, up to 65,535 (R409). Classes: 0 cluster, 1 channel, 2 port,
3 link. -/
def State.penalise (s : State) (cls i w : Nat) : State :=
  let k := 256 * cls + i
  let p := SMap.get 0 s.penalty k
  let q := min (p + w * 2 ^ 32) (65535 * 2 ^ 32)
  State.noteScores { s with penalty := SMap.set 0 s.penalty k q } cls i (scoreOf p) s.moduleScore (scoreOf q)

/-- The outcome of a tile-store read (R394): corrected errors are counted. -/
def State.sramNote (s : State) (t : Nat) : Sram → State
  | .corrected => (s.bump F.SRAMCNT_CORR 0 1).penalise 0 (s.clusterOf t) 2
  | _ => s

/-- What a row's reads of tile `t`'s store met. -/
def sramAt (l : List (Nat × Sram)) (t : Nat) : Sram :=
  match l.find? fun e => decide (e.1 = t) with
  | some e => e.2
  | none => .good

/-- A row reads the stores of tiles `ts`; answers whether every read delivers (R394). -/
def State.sramReads (s : State) (l : List (Nat × Sram)) (ts : List Nat) : State × Bool :=
  ts.foldl (fun (a : State × Bool) t =>
    match sramAt l t with
    | .uncorrectable => (a.1.sramFail t, false)
    | x => (a.1.sramNote t x, a.2)) (s, true)

end Sys2Proof.Machine
end

