-- ==== Sys2Proof/Machine/Memory.lean ====
section
/-! DEFINITION. Device memory and the memory-side cache (chapter 8): the interleave, the stored sector and its codes,
the cache's behaviour under each hint, combining registers, and the mirroring of writes (chapter 16). -/

namespace Sys2Proof.Machine

/-! ## The interleave (R215, R216) -/

/-- The active list: slot s holds channel 16 (s mod 12) + floor(s / 12), mapped-out channels removed (R215). -/
def State.activeList (s : State) : List Nat :=
  ((List.range 192).map fun x => 16 * (x % 12) + x / 12).filter fun m => decide (s.get F.MCHMAP_ACTIVE m = 1)

/-- R216: the channel, local granule and byte within the granule of a device address. -/
def State.place (s : State) (d : Nat) : Nat × Nat × Nat :=
  let l := s.activeList
  let n := l.length
  let g := d / 256
  let q := g / n
  let x := q * 0x9E3779B1 % 2 ^ 32
  let slot := (g % n + x / 256 % n) % n
  (l.getD slot 0, q, d % 256)

/-- Key of a line, of a sector and of a stored byte (State.lean, `Mem`). -/
def lineKey (m q : Nat) : Nat := m * 2 ^ 25 + q
def sectorKey (m q sec : Nat) : Nat := lineKey m q * 8 + sec
def storedKey (sk b : Nat) : Nat := sk * 36 + b

/-- The base die that serves a channel (R214). -/
def channelDie (m : Nat) : Nat := m / 48

/-- The set of a line (R218). -/
def cacheSet (m q : Nat) : Nat := ((q % 2 ^ 15) ^^^ (q / 2 ^ 15)) ^^^ (683 * (m % 48) % 2 ^ 15)

/-! ## Sector codes (R224 to R228) -/

/-- Multiplication by α in GF(2^8) with field polynomial x⁸ + x⁴ + x³ + x² + 1 (R226). -/
def gfX (a : Nat) : Nat := if a < 128 then 2 * a else (2 * a % 256) ^^^ 0x1D

/-- Multiplication in GF(2^8), `n` bits of the first operand. -/
def gfMulN : Nat → Nat → Nat → Nat
  | 0, _, _ => 0
  | n + 1, a, b => (if a % 2 = 1 then b else 0) ^^^ gfMulN n (a / 2) (gfX b)

def gfMul (a b : Nat) : Nat := gfMulN 8 a b

/-- α^n. -/
def gfPow : Nat → Nat
  | 0 => 1
  | n + 1 => gfX (gfPow n)

/-- The polynomial of stored bytes evaluated at `x` (Horner): byte 0 is the highest coefficient (R226). -/
def gfEval (x : Nat) (bs : List Nat) : Nat := bs.foldl (fun a b => gfMul a x ^^^ b) 0

/-- Remainder of (bytes × x³) by g(x) = (x + 1)(x + α)(x + α²) = x³ + 7x² + 14x + 8: the three check symbols. -/
def rsCheck (bs : List Nat) : Nat × Nat × Nat :=
  bs.foldl (fun (r : Nat × Nat × Nat) b =>
    let f := r.1 ^^^ b
    (r.2.1 ^^^ gfMul f 7, r.2.2 ^^^ gfMul f 14, gfMul f 8)) (0, 0, 0)

/-- One step of the DET CRC-16, polynomial 0x8BB7, not reflected (R227). -/
def crc16Bits : Nat → Nat → Nat
  | 0, c => c
  | n + 1, c => crc16Bits n (if c < 2 ^ 15 then 2 * c else (2 * c % 2 ^ 16) ^^^ 0x8BB7)

def crc16 (bs : List Nat) : Nat := bs.foldl (fun c b => crc16Bits 8 (c ^^^ b * 256)) 0

/-- The 36 stored bytes of 32 data bytes under a protection class (Table 8-4). -/
def encodeSector (det : Bool) (data : List Nat) : List Nat :=
  if det then
    let c := crc16 (data ++ [0xFF])
    data ++ [0xFF, c % 256, c / 256, 0]
  else
    let r := rsCheck (data ++ [0])
    data ++ [0, r.1, r.2.1, r.2.2]

/-- What reading a stored sector finds. -/
inductive SecRead where
  | ok (det : Bool) (data : List Nat)
  | fixed (data : List Nat)
  | cor
  | det
deriving DecidableEq, Repr

def popcount8 (b : Nat) : Nat := (List.range 8).foldl (fun a i => a + b / 2 ^ i % 2) 0

/-- R225 to R228: decode a stored sector by the class its TAG names. -/
def decodeSector (bs : List Nat) : SecRead :=
  if popcount8 (bs.getD 32 0) ≤ 4 then
    let s0 := gfEval 1 bs
    let s1 := gfEval 2 bs
    let s2 := gfEval 4 bs
    if s0 = 0 ∧ s1 = 0 ∧ s2 = 0 then .ok false (bs.take 32)
    else
      match (List.range 36).find? fun i =>
          decide (s0 ≠ 0) && decide (gfMul s0 (gfPow (35 - i)) = s1) && decide (gfMul s1 (gfPow (35 - i)) = s2) with
      | some i => .fixed ((bs.set i (bs.getD i 0 ^^^ s0)).take 32)
      | none => .cor
  else if crc16 (bs.take 33) = bs.getD 33 0 + 256 * bs.getD 34 0 ∧ bs.getD 35 0 = 0 then .ok true (bs.take 32)
  else .det

/-! ## Stored bytes -/

def rdStored (m : List Host.Cell) (sk : Nat) : List Nat :=
  (List.range 36).map fun i => (SMap.get 0 m (storedKey sk i)).toNat

def wrStored (m : List Host.Cell) (sk : Nat) (bs : List Nat) : List Host.Cell :=
  (bs.zipIdx).foldl (fun a e => SMap.set 0 a (storedKey sk e.2) (BitVec.ofNat 8 e.1)) m

def delStored (m : List Host.Cell) (sk : Nat) : List Host.Cell :=
  (List.range 36).foldl (fun a i => SMap.set 0 a (storedKey sk i) 0) m

/-! ## The cache -/

def Mem.line (m : Mem) (k : Nat) : Option Line := SMap.look m.lines k

/-- The stored sector an access sees: the cache's copy when valid, else HBM's. -/
def Mem.sector (m : Mem) (ch q sec : Nat) : List Nat :=
  match m.line (lineKey ch q) with
  | some l => if bit l.valid sec then rdStored m.cbytes (sectorKey ch q sec) else rdStored m.hbm (sectorKey ch q sec)
  | none => rdStored m.hbm (sectorKey ch q sec)

/-- Write one sector's cached copy back to HBM. -/
def Mem.writeBack1 (m : Mem) (k sec : Nat) : Mem :=
  { m with hbm := wrStored m.hbm (k * 8 + sec) (rdStored m.cbytes (k * 8 + sec)) }

/-- Write a line's dirty sectors back, leaving it clean (R220). -/
def Mem.writeBack (m : Mem) (k : Nat) : Mem :=
  match m.line k with
  | none => m
  | some l =>
    let m := (List.range 8).foldl (fun a i => if bit l.dirty i then a.writeBack1 k i else a) m
    { m with lines := SMap.ins m.lines k { l with dirty := 0 } }

/-- Drop a line without write-back. -/
def Mem.drop (m : Mem) (k : Nat) : Mem :=
  { m with lines := SMap.del m.lines k,
           cbytes := (List.range 8).foldl (fun a i => delStored a (k * 8 + i)) m.cbytes }

/-- Evict a line: write back, then drop. -/
def Mem.evict (m : Mem) (k : Nat) : Mem := (m.writeBack k).drop k

/-- The lines that share a set with line `k`. -/
def Mem.setLines (m : Mem) (k : Nat) : List (Nat × Line) :=
  let ch := k / 2 ^ 25
  m.lines.filter fun e => decide (channelDie (e.1 / 2 ^ 25) = channelDie ch)
    && decide (cacheSet (e.1 / 2 ^ 25) (e.1 % 2 ^ 25) = cacheSet ch (k % 2 ^ 25))

/-- The least recently used line of a list. -/
def lru : List (Nat × Line) → Option Nat
  | [] => none
  | [e] => some e.1
  | e :: es =>
    match lru es, es.foldl (fun a x => min a x.2.used) e.2.used with
    | some k, u => if e.2.used = u then some e.1 else some k
    | none, _ => some e.1

/-- Cache hints (Table 8-2). -/
inductive Hint where
  | normal | keep | stream | last
deriving DecidableEq, Repr

/-- HINT as a segment encodes it. -/
def Hint.ofSeg (x : Nat) : Hint := match x with
  | 1 => .keep | 2 => .stream | 3 => .last | _ => .normal

/-- HINT of a D-class word over a segment's default (R189). -/
def Hint.ofWord (x : Nat) (dflt : Hint) : Hint := match x with
  | 4 => .normal | 5 => .keep | 6 => .stream | 7 => .last | _ => dflt

/-- Allocate an empty line, choosing a victim under R221. -/
def Mem.alloc (m : Mem) (k : Nat) (keep : Bool) : Mem :=
  let ls := m.setLines k
  let keeps := ls.filter fun e => e.2.keep
  let m :=
    if keep && decide (12 ≤ keeps.length) then
      match lru keeps with
      | some v => m.evict v
      | none => m
    else if ls.length < 16 then m
    else
      let plain := ls.filter fun e => !e.2.keep
      match lru (if plain.isEmpty then ls else plain) with
      | some v => m.evict v
      | none => m
  { m with lines := SMap.ins m.lines k { valid := 0, dirty := 0, keep := keep, used := m.clock }, clock := m.clock + 1 }

/-- The line state after a NORMAL or KEEP access to a present line: most recently used, KEEP mark under R221. -/
def Mem.touch (m : Mem) (k : Nat) (keep : Bool) : Mem :=
  match m.line k with
  | none => m
  | some l =>
    let others := (m.setLines k).filter fun e => e.2.keep && decide (e.1 ≠ k)
    let m :=
      if keep && !l.keep && decide (12 ≤ others.length) then
        match lru others with
        | some v => match m.line v with
          | some lv => { m with lines := SMap.ins m.lines v { lv with keep := false } }
          | none => m
        | none => m
      else m
    { m with lines := SMap.ins m.lines k { l with keep := keep, used := m.clock }, clock := m.clock + 1 }

/-- Fill sectors of a present line from HBM. -/
def Mem.fill (m : Mem) (k : Nat) (secs : List Nat) : Mem :=
  secs.foldl (fun a sec =>
    match a.line k with
    | some l => if bit l.valid sec then a
                else { a with cbytes := wrStored a.cbytes (k * 8 + sec) (rdStored a.hbm (k * 8 + sec)),
                              lines := SMap.ins a.lines k { l with valid := setBits l.valid sec sec 1 } }
    | none => a) m

/-- What a read of sectors of one line leaves in the cache (Table 8-2, R221, R222). -/
def Mem.afterRead (m : Mem) (k : Nat) (secs : List Nat) (h : Hint) : Mem :=
  match h, m.line k with
  | .normal, some _ => (m.touch k false).fill k secs
  | .normal, none => (m.alloc k false).fill k secs
  | .keep, some _ => (m.touch k true).fill k secs
  | .keep, none => (m.alloc k true).fill k secs
  | .stream, _ => m
  | .last, some _ => m.drop k
  | .last, none => m

/-- Clear the KEEP mark of a line that a LAST write meets (R221). -/
def Mem.unkeep (m : Mem) (k : Nat) : Mem :=
  match m.line k with
  | some l => { m with lines := SMap.ins m.lines k { l with keep := false } }
  | none => m

/-- Store one whole sector under a hint (R220, Table 8-2). -/
def Mem.putSector (m : Mem) (k sec : Nat) (bs : List Nat) (h : Hint) : Mem :=
  let into (m : Mem) : Mem :=
    match m.line k with
    | some l => { m with cbytes := wrStored m.cbytes (k * 8 + sec) bs,
                         lines := SMap.ins m.lines k { l with valid := setBits l.valid sec sec 1,
                                                              dirty := setBits l.dirty sec sec 1 } }
    | none => { m with hbm := wrStored m.hbm (k * 8 + sec) bs }
  match h, m.line k with
  | .normal, some _ => into (m.touch k false)
  | .normal, none => into (m.alloc k false)
  | .keep, some _ => into (m.touch k true)
  | .keep, none => into (m.alloc k true)
  | .stream, _ => into m
  | .last, _ => into (m.unkeep k)

/-! ## Accesses of the module

A memory failure is a fault cause and the device address of the failing sector's first byte (R230). -/

/-- A granule on a channel of a fenced stack: such channels are OUT until they are mapped out, though a retest passes
(R236, R404). -/
def State.stackFenced (s : State) (ch : Nat) : Bool := s.power.outs.contains (ch / 16)

/-- Count and log what a read of a sector of channel `ch` found (MCHCNT, R408, R409); `src` is the requester's device
number plus 1, or 0. -/
def State.noteRead (s : State) (ch src : Nat) : SecRead → State
  | .ok _ _ => s
  | .fixed _ => (s.bump F.MCHCNT_CORFIX ch 1).penalise 1 ch 1
  | .cor => ((s.bump F.MCHCNT_CORUNC ch 1).penalise 1 ch 200).log .memCorUncorrectable ch (leBytes 1 src)
  | .det => ((s.bump F.MCHCNT_DETERR ch 1).penalise 1 ch 100).log .memDetError ch (leBytes 1 src)

/-- The fault of a failing read. -/
def SecRead.fault : SecRead → Option Nat
  | .cor => some cCOR_UNCORRECTABLE
  | .det => some cDET_ERROR
  | _ => none

def SecRead.data : SecRead → List Nat
  | .ok _ d => d
  | .fixed d => d
  | _ => []

/-- The device address of local granule `q` of channel `ch`: the inverse of R216. -/
def State.unplace (s : State) (ch q : Nat) : Nat :=
  let l := s.activeList
  let n := l.length
  let x := q * 0x9E3779B1 % 2 ^ 32
  let slot := l.idxOf ch
  (q * n + (slot + n - x / 256 % n) % n) * 256

/-- The mirror state of an address: inside a valid MIRROR = 1 segment while PROTECTED, with a twin there to write to (R416,
R418, R420, R425). -/
def State.mirrored (s : State) (d : Nat) : Bool :=
  decide (s.get F.TWINSTAT_MSTATE 0 = 1) && decide (s.get F.TWINSTAT_CONFLICT 0 = 0) && s.twin.present && !s.draining &&
  match s.segOf d 1 with
  | some k => decide (s.get F.SEGDESC_MIRROR k = 1)
  | none => false

/-- R420, R421: send the bytes of one 128-byte block as they now stand to the twin. -/
def State.mirror (s : State) (d : Nat) (bs : List Byte) (who : Option (Nat × Ctxt × Nat)) : State :=
  if s.mirrored d then
    let pl := s.place d
    let slice := channelDie pl.1
    let s := s.bump F.MIRCNT_COUNT 0 1
    let n := SMap.get 0 s.twin.sent slice + 1
    let s := { s with twin := { s.twin with sent := SMap.set 0 s.twin.sent slice n } }
    s.sendRop { id := 0, kind := .write, sep := bankEp slice (cacheSet pl.1 pl.2.1), dev := s.get F.TWINSTAT_PEERDEV 0,
                tag := 0, addr := d, size := bs.length, data := bs, mode := 0, local_ := 0, hint := 0,
                owner := .mirror slice who, phase := .sent, resends := 0 }
  else s

/-- The protection class a write at an address takes (R225). -/
def State.segDet (s : State) (d : Nat) : Bool :=
  match s.segOf d 1 with
  | some k => decide (s.get F.SEGDESC_PROT k = 1)
  | none => false

/-- Fold one combining register into its sector: a read of the sector and a write of it whole, with a new check in the class
of its segment (R225, R363, R364). -/
def State.foldComb (s : State) (c : Comb) : State :=
  let sk := c.sector
  let k := sk / 8
  let ch := k / 2 ^ 25
  let a := s.unplace ch (k % 2 ^ 25) + 32 * (sk % 8)
  let r := decodeSector (s.mem.sector ch (k % 2 ^ 25) (sk % 8))
  let rest := State.noteRead { s with mem := { s.mem with combs := s.mem.combs.filter fun x => decide (x ≠ c) } } ch 0 r
  match r with
  | .cor | .det =>
    let s := rest.log .combineLost ch (0 :: leBytes 6 a)
    if s.certified then s.drainFor 1 else s
  | r =>
    let w := if c.w64 then 8 else 4
    let old := r.data
    let new := (List.range (32 / w)).flatMap fun i =>
      (leBytes w ((leValue ((old.drop (i * w)).take w |>.map (BitVec.ofNat 8)) + c.lanes.getD i 0) % 2 ^ (8 * w))).map
        BitVec.toNat
    let s := { rest with mem := rest.mem.putSector k (sk % 8) (encodeSector (rest.segDet a) new) .stream }
    s.mirror a (new.map (BitVec.ofNat 8)) none

/-- Fold the register that serves a sector, if one does: every other access is applied after it (R363). -/
def State.foldFor (s : State) (sk : Nat) : State :=
  match s.mem.combs.find? fun c => decide (c.sector = sk) with
  | some c => s.foldComb c
  | none => s

/-- A slice with 512 unacknowledged mirror writes makes a further mirrored write wait (R422). -/
def State.mirrorFull (s : State) (d n : Nat) : Bool :=
  (List.range (ceilDiv (d % 128 + n) 128)).any fun i =>
    let a := d / 128 * 128 + 128 * i
    s.mirrored a && decide (512 ≤ (s.rops.filter fun o => match o.owner with
      | .mirror sl _ => decide (sl = channelDie (s.place a).1)
      | _ => false).length)

/-- The segment's default hint at an address. -/
def State.segHint (s : State) (d : Nat) : Hint :=
  match s.segOf d 1 with
  | some k => Hint.ofSeg (s.get F.SEGDESC_HINT k)
  | none => .normal

/-- Sectors of a granule that [o, o + n) touches, o the offset in the granule. -/
def sectorsOf (o n : Nat) : List Nat := seqFrom (o / 32) (ceilDiv (o % 32 + n) 32)

/-- Read n bytes of one granule (R219 to R222, R226 to R230): the bytes, or the first failing sector's fault. What the read
finds in each of its sectors is counted. -/
def State.readGranule (s : State) (d n : Nat) (h : Hint) (src : Nat) : State × Except FaultAt (List Byte) :=
  let (ch, q, o) := s.place d
  if s.stackFenced ch then (s, .error (cCOR_UNCORRECTABLE, d))
  else
    let secs := sectorsOf o n
    let s := secs.foldl (fun u sec => u.foldFor (sectorKey ch q sec)) s
    let reads := secs.map fun sec => (sec, decodeSector (s.mem.sector ch q sec))
    let s := reads.foldl (fun u r => u.noteRead ch src r.2) s
    match reads.find? fun r => r.2.fault.isSome with
    | some (sec, r) => (s, .error (r.fault.getD 0, d / 256 * 256 + 32 * sec))
    | none =>
      let bytes := (reads.flatMap fun r => r.2.data).map (BitVec.ofNat 8)
      ({ s with mem := s.mem.afterRead (lineKey ch q) secs h }, .ok ((bytes.drop (o % 32)).take n))

/-- Write bytes of one sector (R220, R225, R229). `d` is the address of the first byte, all in one sector. -/
def State.writeSector (s : State) (d : Nat) (bs : List Byte) (h : Hint) (det : Bool) (src : Nat) :
    State × Option FaultAt :=
  let (ch, q, o) := s.place d
  let sec := o / 32
  let k := lineKey ch q
  if s.stackFenced ch then (s, some (cCOR_UNCORRECTABLE, d))
  else
    let s := s.foldFor (sectorKey ch q sec)
    let new := bs.map BitVec.toNat
    if bs.length = 32 then ({ s with mem := s.mem.putSector k sec (encodeSector det new) h }, none)
    else
      let r := decodeSector (s.mem.sector ch q sec)
      let s := s.noteRead ch src r
      match r.fault with
      | some c => (s, some (c, d / 32 * 32))
      | none =>
        let old := r.data
        let merged := old.take (o % 32) ++ new ++ old.drop (o % 32 + new.length)
        ({ s with mem := s.mem.putSector k sec (encodeSector det merged) h }, none)

/-- Cut [d, d + n) at multiples of `unit` (fuel `f`): (address, length) pieces in ascending order. -/
def pieces (unit : Nat) : Nat → Nat → Nat → List (Nat × Nat)
  | 0, _, _ => []
  | f + 1, d, n =>
    if n = 0 then []
    else
      let k := min n (unit - d % unit)
      (d, k) :: pieces unit f (d + k) (n - k)

/-- Pieces of a range, with fuel to spare. -/
def cut (unit d n : Nat) : List (Nat × Nat) := pieces unit (n / unit + 2) d n

/-- Read [d, d + n) of device memory, granule by granule; stops at the first failure. `hint` none: segment default. -/
def State.devRead (s : State) (d n : Nat) (hint : Nat) (src : Nat) : State × Except FaultAt (List Byte) :=
  (cut 256 d n).foldl (fun (a : State × Except FaultAt (List Byte)) p =>
    match a.2 with
    | .error e => (a.1, .error e)
    | .ok got =>
      let r := a.1.readGranule p.1 p.2 (Hint.ofWord hint (a.1.segHint p.1)) src
      match r.2 with
      | .error e => (r.1, .error e)
      | .ok bs => (r.1, .ok (got ++ bs))) (s, .ok [])

/-- Write bytes at device address d, sector by sector, then mirror each changed 128-byte block (R420); stops at the
first failure with the earlier sectors written. -/
def State.devWrite (s : State) (d : Nat) (bs : List Byte) (hint : Nat) (src : Nat) (who : Option (Nat × Ctxt × Nat)) :
    State × Option FaultAt :=
  let r := (cut 32 d bs.length).foldl (fun (a : State × Option FaultAt × Nat) p =>
    match a.2.1 with
    | some _ => a
    | none =>
      let w := a.1.writeSector p.1 ((bs.drop (p.1 - d)).take p.2) (Hint.ofWord hint (a.1.segHint p.1))
        (a.1.segDet p.1) src
      match w.2 with
      | some f => (w.1, some f, a.2.2)
      | none => (w.1, none, p.1 + p.2)) (s, none, d)
  let done := r.2.2 - d
  let s := (cut 128 d done).foldl (fun u p => u.mirror p.1 ((bs.drop (p.1 - d)).take p.2) who) r.1
  (s, r.2.1)

/-- What the check of an instruction fetch finds at a sector, changing nothing (R70, R230). -/
def State.fetchMem (s : State) (d : Nat) : Option FaultAt :=
  let (ch, q, o) := s.place d
  if s.stackFenced ch then some (cCOR_UNCORRECTABLE, d)
  else ((decodeSector (s.mem.sector ch q (o / 32))).fault).map fun c => (c, d / 32 * 32)

/-- What a failing fetch found is counted and logged (R409). -/
def State.fetchNote (s : State) (d : Nat) : State :=
  let (ch, q, o) := s.place d
  if s.stackFenced ch then s else s.noteRead ch 0 (decodeSector (s.mem.sector ch q (o / 32)))

/-- Write back every dirty sector (R223). -/
def Mem.writeBackAll (m : Mem) : Mem := m.lines.foldl (fun a e => a.writeBack e.1) m

/-- Fold every combining register. -/
def State.foldAll (s : State) : State := s.mem.combs.foldl (fun u c => u.foldComb c) s

/-- Zero-fill under R232: every sector zero data with the COR tag. -/
def Mem.zeroFill (m : Mem) : Mem := { m with hbm := [], cbytes := [], lines := [], combs := [] }

end Sys2Proof.Machine
end

