-- ==== Sys2Proof/Machine/Operands.lean ====
section
/-! DEFINITION. What every instruction row shares: who may issue, the fetch and decode checks, the register interlock,
the guard, the charge, the advance of the program counter with its loops, and the operand forms (counters of R76,
addresses of Table 7-2). -/

namespace Sys2Proof.Machine

/-! ## The program counter and loops (R56, R73 to R75) -/

/-- The back-edges at the end of a body: loops whose last word is `pc` take their next pass or end, innermost first
(R74). Answers the next address and the loops left. -/
def backEdge (pc : Addr48) : List Loop → Addr48 × List Loop
  | [] => (pc + 8, [])
  | l :: ls =>
    if l.last = pc then
      if 1 < l.left then (l.start, { l with left := l.left - 1 } :: ls) else backEdge pc ls
    else (pc + 8, l :: ls)

/-- After an instruction that does not change the flow (R56, R74). -/
def Ctx.advance (x : Ctx) : Ctx :=
  let r := backEdge x.pc x.loops
  { x with pc := r.1, loops := r.2 }

/-- The body of a loop contains an address. -/
def Loop.contains (l : Loop) (a : Addr48) : Bool := decide (l.start ≤ a) && decide (a ≤ l.last)

/-- A taken branch or jump (R71, R75). -/
def Ctx.jump (x : Ctx) (target : Addr48) : Ctx :=
  { x with pc := target, loops := x.loops.filter fun l => l.contains target }

def State.advance (s : State) (t : Nat) (c : Ctxt) : State := s.setCtx t c (s.ctx t c).advance

/-- The target of br and brl: the branch's own address plus 8 × OFFSET (R71). -/
def branchTarget (pc : Addr48) (offset : BitVec 32) : Addr48 := pc + (offset.signExtend 48) * 8

/-- A loop of `count` passes over the `body` words that follow (R73, R74). -/
def Ctx.startLoop (x : Ctx) (count body : Nat) : Ctx :=
  if count = 0 then { x with pc := x.pc + BitVec.ofNat 48 (8 * (body + 1)) }
  else { x with pc := x.pc + 8,
                loops := { start := x.pc + 8, last := x.pc + BitVec.ofNat 48 (8 * body), left := count } :: x.loops }

/-! ## Credit (R372 to R375) -/

def State.gov (s : State) (d : Nat) : Gov := SMap.get Gov.reset s.govs d
def State.setGov (s : State) (d : Nat) (g : Gov) : State := { s with govs := SMap.set Gov.reset s.govs d g }

/-- R372: the charge of operation `k` on tile `t`: min(cost, 2 × share); the cost alone before the first refill. -/
def State.chargeOf (s : State) (t k : Nat) : Nat :=
  let g := s.gov (s.cdieOf t)
  let cost := g.costs.getD k 0
  if g.share = 0 then cost else min cost (2 * g.share)

/-- The tile's balance covers operation `k` (R372). -/
def State.covered (s : State) (t k : Nat) : Bool := decide (s.chargeOf t k ≤ (s.tile t).credit)

/-! ## Who may issue -/

/-- The charge of an operation priced by entry `k` is at most the tile's balance plus the pool (R375). -/
def State.affordable (s : State) (t k : Nat) : Bool :=
  decide (s.chargeOf t k ≤ (s.tile t).credit + (s.gov (s.cdieOf t)).pool)

/-- The stalls for which R22 lets L run. -/
def Stall.yields (t : Tile) : Stall → Bool
  | .wait .. => true
  | .twait k => decide (t.token k.toNat = 0)
  | .fence scope => decide (scope ≠ 0)
  | .drain .. => true
  | _ => false

/-- F has no launched, unended program (R22, R87). -/
def Ctx.isOver (x : Ctx) : Bool :=
  decide (x.run = .idle) || decide (x.run = .ended) || (decide (x.run = .stopping) && x.endFault.isSome)

/-- F stalls or has no program: the conditions of R22 that do not concern credit. -/
def Tile.yields (t : Tile) (x : Ctx) : Bool := x.isOver || (decide (x.run = .running) && x.stall.yields t)

/-- A condition of R22 holds for F: it stalls, has no program, or its next instruction, priced when L was let run, is still
unaffordable. -/
def State.lAllowed (s : State) (t : Nat) : Bool :=
  let x := s.tile t
  x.yields x.ctxF || match x.poor with
    | some k => !s.affordable t k
    | none => false

/-- The tile exists and works, the context is current, runs a program, and neither stalls nor holds a fault. L issues only
while a condition of R22 holds for F: L never runs while F can issue (R23). -/
def State.ready (s : State) (t : Nat) (c : Ctxt) : Bool :=
  s.active && !s.draining && decide (t < s.tileCount) && !s.tileFenced t && decide ((s.tile t).cur = c)
  && decide ((s.ctx t c).run = .running) && decide ((s.ctx t c).stall = .none) && (s.ctx t c).held.isNone
  && (decide (c = .F) || s.lAllowed t)

/-- The fault of the fetch at an address (R70, R217, R230). -/
def State.fetchFault (s : State) (pc : Nat) : Option FaultAt :=
  match s.devCheck pc 8 .read with
  | some f => some f
  | none => s.fetchMem pc

/-- What a failing fetch leaves behind: its sector's finding is counted and logged (R226, R409). A fetch that succeeds reads
the instruction cache; the fill of a line of that cache is a command of its own, CACHE_SECTOR_ACCESS (log 57). -/
def State.fetched (s : State) (pc : Nat) : State :=
  if (s.devCheck pc 8 .read).isSome then s else s.fetchNote pc

/-- Register names that interlock: s0 and p0 hold constants (R63, R59). -/
def realReg (r : Nat) : Bool := decide (r ≠ 0) && decide (r ≠ 96)

/-- Two lists of register names meet. -/
def meet (a b : List Nat) : Bool := a.any fun r => realReg r && b.contains r

/-- R62: reads `rs` and writes `ws` must wait for a unit instruction of the context before number `n` that has not completed
and writes one of them, or has not started and reads one that is to be written. -/
def Tile.blocked (t : Tile) (c : Ctxt) (n : Nat) (rs ws : List Nat) : Bool :=
  t.ops.any fun o => decide (o.ctx = c) && decide (o.seq < n)
    && (meet rs (uWrites o.word.toNat) || meet ws (uWrites o.word.toNat) || (!o.started && meet ws (uReads o.word.toNat)))

/-! ## Charges (R372) -/

/-- Deduct the charge of an operation that starts (R372). -/
def State.pay (s : State) (t k : Nat) : State :=
  s.setTile t { s.tile t with credit := (s.tile t).credit - s.chargeOf t k, want := 0 }

/-- An operation not covered: one pause is counted and the deficit is asked of the pool (R372, R374). -/
def State.pause (s : State) (t k : Nat) : State :=
  let s' := s.bump F.PAUSECNT_PAUSES (s.cdieOf t) 1
  s'.setTile t { s'.tile t with want := s.chargeOf t k - (s.tile t).credit }

/-- Charge rows in order from balance `b`, each only when it is covered whole; answers the balance and what is left. -/
def rowsCovered (charge : Nat → Nat) : Nat → List (Nat × Nat) → Nat × List (Nat × Nat)
  | b, [] => (b, [])
  | b, (k, n) :: rest =>
    if n * charge k ≤ b then rowsCovered charge (b - n * charge k) rest
    else (b - b / charge k * charge k, (k, n - b / charge k) :: rest)

/-- The M instruction of a tile whose rows have not all started. -/
def Tile.inRows (t : Tile) : Option UOp := t.ops.find? fun o => o.started && !o.due.isEmpty

/-- The deficit of the next row of a tile's M instruction (R372). -/
def State.rowDeficit (s : State) (t : Nat) : Nat :=
  match (s.tile t).inRows with
  | some o => match o.due with
    | (k, _) :: _ => s.chargeOf t k - (s.tile t).credit
    | [] => 0
  | none => 0

/-- What a tile asks of the pool: for an operation that waits to start, else for the next row. -/
def State.deficit (s : State) (t : Nat) : Nat := if (s.tile t).want = 0 then s.rowDeficit t else (s.tile t).want

/-! ## Issue -/

/-- What an instruction that may issue does: a fault found at issue; a stall before it issues; or its effect, charged
by entry `key` of Table 14-1. -/
inductive Act where
  | fault (f : FaultAt)
  | hold (s : State)
  | go (key : Nat) (f : State → State)

/-- Take the act of an instruction whose checks are done. -/
def State.perform (s : State) (t : Nat) (c : Ctxt) : Act → State
  | .fault f => s.issueFault t c f
  | .hold s' => s'
  | .go k f => if s.covered t k then f (s.pay t k) else s.pause t k

/-- The scalar or predicate registers a control, sync or collective instruction reads and writes, for R62. -/
structure Uses where
  reads : List Nat
  writes : List Nat

/-- R58, R60, R62, R70, R85, R372: the issue of instruction word `w` from context `h`. `masked` is set for classes V
and F, which issue whatever their guard (R61). A context that cannot issue leaves the state unchanged. -/
def issue (h : Head) (w : Nat) (u : Uses) (masked : Bool) (act : State → Act) (s : State) : Out :=
  within h.tile Config.tiles <| .next <|
    if !s.ready h.tile h.ctx then s
    else
      let x := s.ctx h.tile h.ctx
      match s.fetchFault x.pc.toNat with
      | some f => (s.fetched x.pc.toNat).fetchFails h.tile h.ctx f
      | none =>
        if !legal w then s.issueFault h.tile h.ctx (cILLEGAL, 0)
        else if (s.tile h.tile).blocked h.ctx (s.tile h.tile).seq ((96 + h.pred.toNat) :: u.reads) u.writes then s
        else if !masked && !guardBit (x.rdP h.pred.toNat) h.pneg then s.advance h.tile h.ctx
        else s.perform h.tile h.ctx (act s)

/-- A control instruction with no fault of its own: its effect on the context, then the advance. -/
def issueC (h : Head) (w : Nat) (u : Uses) (f : Ctx → Ctx) (s : State) : Out :=
  issue h w u false (fun _ => .go 16 fun s =>
    s.setCtx h.tile h.ctx (f (s.ctx h.tile h.ctx)).advance) s

/-! ## Counter operands (R76, R78) -/

/-- A counter as a Y instruction names it: the module (none: this one), the counter and the epoch in SC. -/
structure CounterRef where
  dev : Option Nat
  cnum : Nat
  epoch : Nat
deriving DecidableEq, Repr

/-- R76: the counter named by CREG, SC and CNUM. -/
def State.counterRef (s : State) (x : Ctx) (creg : Bool) (sc : BitVec 6) (cnum : BitVec 16) : CounterRef :=
  if creg then
    let v := (x.rdS sc.toNat).toNat
    let d := bits v 23 16
    { dev := if bit v 24 && !s.isOwn d then some d else none, cnum := bits v 15 0, epoch := bits v 28 25 }
  else { dev := none, cnum := cnum.toNat, epoch := 0 }

/-! ## Address forms (Table 7-2) -/

/-- A place a copy or narrow access names. -/
inductive Loc where
  | tile (t a : Nat)
  | dev (a : Nat)
  | rack (d a : Nat)
deriving DecidableEq, Repr

/-- Table 7-2: the place an address names; `none` breaks the table. A rack address with the module's own device number
is local (R33). -/
def State.form (s : State) (v : Nat) : Option Loc :=
  match bits v 63 62 with
  | 0 => if bits v 61 32 = 0 ∧ bits v 31 21 < s.tileCount then some (.tile (bits v 31 21) (bits v 20 0)) else none
  | 1 => if bits v 61 48 = 0 then some (.dev (bits v 47 0)) else none
  | 2 => if bits v 61 56 = 0 then
      some (if s.isOwn (bits v 55 48) then .dev (bits v 47 0) else .rack (bits v 55 48) (bits v 47 0)) else none
  | _ => none

/-- The address bits of a form (R187): 21, 48 or 56; 0 for the reserved form. -/
def formBits (v : Nat) : Nat :=
  match bits v 63 62 with
  | 0 => 21 | 1 => 48 | 2 => 56 | _ => 0

/-- R187: an offset added in the form's address bits; `none` when the sum carries out. -/
def addOffset (v off : Nat) : Option Nat :=
  let n := formBits v
  if v % 2 ^ n + off < 2 ^ n then some (v + off) else none

/-- The check of an access of n bytes at a place (R26, R29, R217); a place on another module is checked there (R34). -/
def State.locCheck (s : State) (l : Loc) (n : Nat) (p : Perm) : Option FaultAt :=
  if n = 0 then none
  else match l with
    | .tile _ a => localCheck a n
    | .dev a => s.devCheck a n p
    | .rack _ _ => none

/-- Bits [63:21] of a tile-local address register must be 0 (R126, R162, R187, R206). -/
def localReg (v : Word) : Bool := decide (v.toNat < 2 ^ 21)

/-! ## Unit instructions -/

/-- Put an issued instruction into its unit's queue. -/
def State.enqueue (s : State) (t : Nat) (o : UOp) : State :=
  s.setTile t { s.tile t with ops := (s.tile t).ops ++ [{ o with seq := (s.tile t).seq }], seq := (s.tile t).seq + 1 }

/-- A unit instruction as issue captures it. -/
def capture (s : State) (h : Head) (u : TUnit) (w : Nat) (va vb vc : Nat) : UOp :=
  let x := s.ctx h.tile h.ctx
  { seq := 0, ctx := h.ctx, pc := x.pc, unit := u, word := BitVec.ofNat 64 w, va := x.rdS va, vb := x.rdS vb,
    vc := x.rdS vc, mask := laneMask (x.rdP h.pred.toNat) h.pneg, started := false, consumed := false, before := [], wait := 0,
    cancelled := false, exps := [], inBytes := [], outBytes := [], due := [] }

def Tile.op (t : Tile) (n : Nat) : Option UOp := t.ops.find? fun o => decide (o.seq = n)

/-- Replace one queued instruction. -/
def Tile.setOp (t : Tile) (o : UOp) : Tile :=
  { t with ops := t.ops.map fun x => if x.seq = o.seq then o else x }

/-- The rows of a tile's M instruction that its balance covers start, and are charged one by one; a row that is not covered is
a pause (R372, R374). -/
def State.takeRows (s : State) (t : Nat) : State :=
  match (s.tile t).inRows with
  | none => s
  | some o =>
    let r := rowsCovered (s.chargeOf t) (s.tile t).credit o.due
    let s := s.setTile t { (s.tile t).setOp { o with due := r.2 } with credit := r.1 }
    if r.2 = [] then s else s.bump F.PAUSECNT_PAUSES (s.cdieOf t) 1

def Tile.dropOp (t : Tile) (n : Nat) : Tile := { t with ops := t.ops.filter fun o => decide (o.seq ≠ n) }

/-- Device and rack accesses of the narrow path that have issued and not completed (R349). -/
def Tile.narrowCount (t : Tile) : Nat :=
  (t.ops.filter fun o => decide (o.unit = .narrow) && decide (wOp o.word.toNat ≤ 3)).length

/-- A unit's queue is taken in issue order: nothing unstarted stands earlier in the unit. chrd and chctl wait only for
their own context's (R207). -/
def Tile.first (t : Tile) (o : UOp) : Bool :=
  t.ops.all fun x => decide (o.seq ≤ x.seq) || decide (x.unit ≠ o.unit) || x.started
    || (decide (o.unit = .narrow) && decide (4 ≤ wOp o.word.toNat) && decide (x.ctx ≠ o.ctx))

/-- The tile-local bytes a narrow access writes when its answer comes: first and how many (R206, R350). -/
def UOp.writesLocal (o : UOp) : Nat × Nat :=
  let w := o.word.toNat
  if !o.returns then (0, 0) else ((if wOp w = 1 then o.va else o.vc).toNat, bits w 14 9)

/-- The tile-local bytes a narrow access reads as it starts: stn's data, an atom's operand (cas: two values). -/
def UOp.readsLocal (o : UOp) : Nat × Nat :=
  let w := o.word.toNat
  if wOp w = 2 then (o.va.toNat, bits w 14 9)
  else if wOp w = 3 then (o.va.toNat, if bits w 2 0 = 4 then 2 * bits w 14 9 else bits w 14 9)
  else (0, 0)

/-- Two byte ranges share a byte. -/
def rangesMeet (p q : Nat × Nat) : Bool := decide (p.1 < q.1 + q.2) && decide (q.1 < p.1 + p.2) && decide (0 < p.2) && decide (0 < q.2)

/-- R35: a narrow access does not start while an earlier one of its context has still to write a tile-local byte that it
reads or writes. -/
def Tile.narrowClear (t : Tile) (o : UOp) : Bool :=
  decide (o.unit ≠ .narrow) || decide (4 ≤ wOp o.word.toNat) || t.ops.all fun x =>
    decide (o.seq ≤ x.seq) || decide (x.unit ≠ .narrow) || decide (x.ctx ≠ o.ctx) || decide (4 ≤ wOp x.word.toNat)
    || decide (x.wait = 0) && x.started
    || !(rangesMeet x.writesLocal o.readsLocal || rangesMeet x.writesLocal o.writesLocal)

/-- R39, R62: the instruction may start: first in its unit, its registers free, its wait token at least 1. -/
def Tile.startable (t : Tile) (o : UOp) : Bool :=
  !o.started && t.first o && t.narrowClear o && t.tokenReady o.word.toNat
  && !t.blocked o.ctx o.seq (uReads o.word.toNat) (uWrites o.word.toNat)

/-- Mark an instruction started and take its wait token (R39). -/
def State.markStarted (s : State) (t : Nat) (o : UOp) : State :=
  let w := o.word.toNat
  let x := (s.tile t).takeToken w
  let y := x.ctx o.ctx
  s.setTile t (x.setOp { o with started := true, consumed := (waitTok w).isSome,
                                before := (uWrites w).map fun r => (r, y.rdName r) })

/-- R39, R72: an instruction leaves its unit complete: its token is signalled, held arrives may go and a held fault
may be delivered. A signal above 255 raises TOKEN_OVERFLOW (R40). -/
def State.completeOp (s : State) (t : Nat) (o : UOp) : State :=
  if !o.cancelled && (s.tile t).overflows o.word.toNat then
    s.unitFaultAt t o.ctx o.unit o.seq o.pc (cTOKEN_OVERFLOW, unstated)
  else
    let x := (s.tile t).dropOp o.seq
    let s := s.setTile t (if o.cancelled then x else x.signal o.word.toNat)
    (s.settle t o.ctx).flushArrives t o.ctx

end Sys2Proof.Machine
end

