-- ==== Sys2Proof/Machine/Control.lean ====
section
/-! DEFINITION. The control and scalar instructions (chapter 3, Table 3-4, class C). -/

namespace Sys2Proof.Machine

/-- Registers of a CR instruction. -/
def usesR (sd sa sb : BitVec 6) : Uses := { reads := [sa.toNat, sb.toNat], writes := [sd.toNat] }

/-- Word of a CR instruction (Table 3-3). -/
def wordCR (op : Nat) (h : Head) (sd sa sb : BitVec 6) : Nat := encC op h sd.toNat sa.toNat sb.toNat 0

/-- Word of a CI instruction (Table 3-3). -/
def wordCI (op : Nat) (h : Head) (sd sa : BitVec 6) (imm : BitVec 32) : Nat := encC op h sd.toNat sa.toNat 0 imm.toNat

/-- A register-register operation (R66). -/
def alu (op : Nat) (f : Word → Word → Word) (h : Head) (sd sa sb : BitVec 6) (s : State) : Out :=
  issueC h (wordCR op h sd sa sb) (usesR sd sa sb)
    (fun x => x.wrS sd.toNat (f (x.rdS sa.toNat) (x.rdS sb.toNat))) s

/-- A register-immediate operation (R66). -/
def aluImm (op : Nat) (f : Word → BitVec 32 → Word) (h : Head) (sd sa : BitVec 6) (imm : BitVec 32) (s : State) : Out :=
  issueC h (wordCI op h sd sa imm) (usesR sd sa 0) (fun x => x.wrS sd.toNat (f (x.rdS sa.toNat) imm)) s

/-- SD := SA add SB (R66). -/
def addOp (a b : Word) : Word := a + b

/-- SD := SA sub SB (R66). -/
def subOp (a b : Word) : Word := a - b

/-- SD := SA mul SB (R66). -/
def mulOp (a b : Word) : Word := a * b

/-- SD := SA mulhu SB (R66). -/
def mulhuOp (a b : Word) : Word := BitVec.ofNat 64 (a.toNat * b.toNat / 2 ^ 64)

/-- SD := SA and SB (R66). -/
def andOp (a b : Word) : Word := a &&& b

/-- SD := SA or SB (R66). -/
def orOp (a b : Word) : Word := a ||| b

/-- SD := SA xor SB (R66). -/
def xorOp (a b : Word) : Word := a ^^^ b

/-- SD := SA shl SB (R66). -/
def shlOp (a b : Word) : Word := a <<< (b.toNat % 64)

/-- SD := SA shr SB (R66). -/
def shrOp (a b : Word) : Word := a >>> (b.toNat % 64)

/-- SD := SA sra SB (R66). -/
def sraOp (a b : Word) : Word := a.sshiftRight (b.toNat % 64)

/-- SD := SA min SB (R66). -/
def minOp (a b : Word) : Word := if b.slt a then b else a

/-- SD := SA max SB (R66). -/
def maxOp (a b : Word) : Word := if a.slt b then b else a

/-- SD := SA minu SB (R66). -/
def minuOp (a b : Word) : Word := if b.ult a then b else a

/-- SD := SA maxu SB (R66). -/
def maxuOp (a b : Word) : Word := if a.ult b then b else a

/-- addi: SD := SA + sign-extended IMM32 (R66). -/
def addiOp (a : Word) (imm : BitVec 32) : Word := a + imm.signExtend 64

/-- andi: IMM32 zero-extended (R66). -/
def andiOp (a : Word) (imm : BitVec 32) : Word := a &&& imm.setWidth 64

/-- ori: IMM32 zero-extended (R66). -/
def oriOp (a : Word) (imm : BitVec 32) : Word := a ||| imm.setWidth 64

/-- xori: IMM32 zero-extended (R66). -/
def xoriOp (a : Word) (imm : BitVec 32) : Word := a ^^^ imm.setWidth 64

/-- shli: 0 to 63, else ILLEGAL (R66). -/
def shliOp (a : Word) (imm : BitVec 32) : Word := a <<< imm.toNat

/-- shri: 0 to 63, else ILLEGAL (R66). -/
def shriOp (a : Word) (imm : BitVec 32) : Word := a >>> imm.toNat

/-- srai: 0 to 63, else ILLEGAL (R66). -/
def sraiOp (a : Word) (imm : BitVec 32) : Word := a.sshiftRight imm.toNat

def execAdd (h : Head) (sd sa sb : BitVec 6) (s : State) : Out := alu 0x0E addOp h sd sa sb s
def execSub (h : Head) (sd sa sb : BitVec 6) (s : State) : Out := alu 0x0F subOp h sd sa sb s
def execMul (h : Head) (sd sa sb : BitVec 6) (s : State) : Out := alu 0x10 mulOp h sd sa sb s
def execMulhu (h : Head) (sd sa sb : BitVec 6) (s : State) : Out := alu 0x11 mulhuOp h sd sa sb s
def execAnd (h : Head) (sd sa sb : BitVec 6) (s : State) : Out := alu 0x12 andOp h sd sa sb s
def execOr (h : Head) (sd sa sb : BitVec 6) (s : State) : Out := alu 0x13 orOp h sd sa sb s
def execXor (h : Head) (sd sa sb : BitVec 6) (s : State) : Out := alu 0x14 xorOp h sd sa sb s
def execShl (h : Head) (sd sa sb : BitVec 6) (s : State) : Out := alu 0x15 shlOp h sd sa sb s
def execShr (h : Head) (sd sa sb : BitVec 6) (s : State) : Out := alu 0x16 shrOp h sd sa sb s
def execSra (h : Head) (sd sa sb : BitVec 6) (s : State) : Out := alu 0x17 sraOp h sd sa sb s
def execMin (h : Head) (sd sa sb : BitVec 6) (s : State) : Out := alu 0x18 minOp h sd sa sb s
def execMax (h : Head) (sd sa sb : BitVec 6) (s : State) : Out := alu 0x19 maxOp h sd sa sb s
def execMinu (h : Head) (sd sa sb : BitVec 6) (s : State) : Out := alu 0x1A minuOp h sd sa sb s
def execMaxu (h : Head) (sd sa sb : BitVec 6) (s : State) : Out := alu 0x1B maxuOp h sd sa sb s
def execAddi (h : Head) (sd sa : BitVec 6) (imm : BitVec 32) (s : State) : Out := aluImm 0x1C addiOp h sd sa imm s
def execAndi (h : Head) (sd sa : BitVec 6) (imm : BitVec 32) (s : State) : Out := aluImm 0x1D andiOp h sd sa imm s
def execOri (h : Head) (sd sa : BitVec 6) (imm : BitVec 32) (s : State) : Out := aluImm 0x1E oriOp h sd sa imm s
def execXori (h : Head) (sd sa : BitVec 6) (imm : BitVec 32) (s : State) : Out := aluImm 0x1F xoriOp h sd sa imm s
def execShli (h : Head) (sd sa : BitVec 6) (imm : BitVec 32) (s : State) : Out := aluImm 0x20 shliOp h sd sa imm s
def execShri (h : Head) (sd sa : BitVec 6) (imm : BitVec 32) (s : State) : Out := aluImm 0x21 shriOp h sd sa imm s
def execSrai (h : Head) (sd sa : BitVec 6) (imm : BitVec 32) (s : State) : Out := aluImm 0x22 sraiOp h sd sa imm s

/-- nop (R65). The row carries the whole word: any word that is ILLEGAL raises that fault here (R58); a legal word of
another instruction is not this event. -/
def execNop (tile : Nat) (ctx : Ctxt) (word : Word) (s : State) : Out :=
  let w := word.toNat
  if legal w && !(decide (wCls w = 1) && decide (wOp w = 0)) then within tile Config.tiles (.next s)
  else issueC { tile := tile, ctx := ctx, pred := BitVec.ofNat 3 (bits w 53 51), pneg := bit w 50, sram := [] } w ⟨[], []⟩ id s

/-- end stops issue from its context and ends every active loop (R72, R75). -/
def execEnd (h : Head) (s : State) : Out :=
  issueC h (encC 1 h 0 0 0 0) ⟨[], []⟩ (fun x => { x with run := .stopping, loops := [] }) s

/-- A taken branch with an optional link register (R71, R75). -/
def branchTo (h : Head) (w : Nat) (sd : BitVec 6) (link : Bool) (offset : BitVec 32) (s : State) : Out :=
  issue h w ⟨[], [sd.toNat]⟩ false (fun _ => .go 16 fun s =>
    let x := s.ctx h.tile h.ctx
    let y := if link then x.wrS sd.toNat ((x.pc + 8).setWidth 64) else x
    s.setCtx h.tile h.ctx (y.jump (branchTarget x.pc offset))) s

def execBr (h : Head) (offset : BitVec 32) (s : State) : Out :=
  branchTo h (encC 2 h 0 0 0 offset.toNat) 0 false offset s

/-- brl: SD := pc + 8, then the branch (Table 3-4). -/
def execBrl (h : Head) (sd : BitVec 6) (offset : BitVec 32) (s : State) : Out :=
  branchTo h (encC 3 h sd.toNat 0 0 offset.toNat) sd true offset s

/-- A jump to SA: ALIGN unless SA[2:0] = 0 (R71). SA is read before the link register is written. The spec states nothing of
SA[63:48]: the 48-bit pc drops them (DESIGN CHOICE, log 57). -/
def jumpTo (h : Head) (w : Nat) (sd sa : BitVec 6) (link : Bool) (s : State) : Out :=
  issue h w ⟨[sa.toNat], [sd.toNat]⟩ false (fun s =>
    let a := (s.ctx h.tile h.ctx).rdS sa.toNat
    if a.toNat % 8 ≠ 0 then .fault (cALIGN, a.toNat)
    else .go 16 fun s =>
      let x := s.ctx h.tile h.ctx
      let y := if link then x.wrS sd.toNat ((x.pc + 8).setWidth 64) else x
      s.setCtx h.tile h.ctx (y.jump (a.setWidth 48))) s

def execJr (h : Head) (sa : BitVec 6) (s : State) : Out := jumpTo h (encC 4 h 0 sa.toNat 0 0) 0 sa false s

def execJrl (h : Head) (sd sa : BitVec 6) (s : State) : Out := jumpTo h (encC 5 h sd.toNat sa.toNat 0 0) sd sa true s

/-- The start of a hardware loop (R73, R74). -/
def loopAct (h : Head) (count body : Nat) (s : State) : Act :=
  if 4 ≤ (s.ctx h.tile h.ctx).loops.length then .fault (cLOOP_DEPTH, unstated)
  else .go 16 fun s => s.setCtx h.tile h.ctx ((s.ctx h.tile h.ctx).startLoop count body)

def execLoop (h : Head) (sa : BitVec 6) (body : BitVec 12) (s : State) : Out :=
  issue h (encC 6 h 0 sa.toNat 0 body.toNat) ⟨[sa.toNat], []⟩ false (fun s =>
    let n := ((s.ctx h.tile h.ctx).rdS sa.toNat).toNat
    if 2 ^ 32 - 1 < n then .fault (cOPERAND, unstated) else loopAct h n body.toNat s) s

def execLoopi (h : Head) (count : BitVec 20) (body : BitVec 12) (s : State) : Out :=
  issue h (encC 7 h 0 0 0 (count.toNat * 2 ^ 12 + body.toNat)) ⟨[], []⟩ false
    (loopAct h count.toNat body.toNat) s

/-- movi: SD := IMM32 sign-extended. -/
def execMovi (h : Head) (sd : BitVec 6) (imm : BitVec 32) (s : State) : Out :=
  issueC h (encC 8 h sd.toNat 0 0 imm.toNat) ⟨[], [sd.toNat]⟩ (fun x => x.wrS sd.toNat (imm.signExtend 64)) s

/-- ldhi: SD[63:32] := IMM32, SD[31:0] kept. -/
def execLdhi (h : Head) (sd : BitVec 6) (imm : BitVec 32) (s : State) : Out :=
  issueC h (encC 9 h sd.toNat 0 0 imm.toNat) ⟨[sd.toNat], [sd.toNat]⟩
    (fun x => x.wrS sd.toNat (imm ++ (x.rdS sd.toNat).setWidth 32)) s

/-- The context control registers (Table 3-7). -/
def State.readCtl (s : State) (t : Nat) (c : Ctxt) (n : Nat) : Word :=
  let x := s.ctx t c
  match n with
  | 0 => x.fvec.setWidth 64
  | 1 => x.fmask.setWidth 64
  | 2 => x.fpc.setWidth 64
  | 3 => x.fcause.setWidth 64
  | 4 => x.finfo
  | 5 => x.fresume.setWidth 64
  | 6 => if x.inh then 1 else 0
  | 7 => BitVec.ofNat 64 x.loops.length
  | 8 => BitVec.ofNat 64 (match x.loops with
      | l :: _ => l.left - 1
      | [] => 0)
  | 9 => BitVec.ofNat 64 (b2n (decide (c = .L)) * 2 ^ 15 + t)
  | _ => BitVec.ofNat 64 s.dev

/-- mfc: SD := the control register (Table 3-7). -/
def execMfc (h : Head) (sd : BitVec 6) (num : BitVec 32) (s : State) : Out :=
  issue h (encC 0x0A h sd.toNat 0 0 num.toNat) ⟨[], [sd.toNat]⟩ false (fun _ => .go 16 fun s =>
    s.setCtx h.tile h.ctx
      ((s.ctx h.tile h.ctx).wrS sd.toNat (s.readCtl h.tile h.ctx num.toNat)).advance) s

/-- Write FVEC, FMASK or FPC (Table 3-7). -/
def Ctx.writeCtl (x : Ctx) (n : Nat) (v : Word) : Ctx :=
  match n with
  | 0 => { x with fvec := v.setWidth 48 }
  | 1 => { x with fmask := v.setWidth 16 }
  | 2 => { x with fpc := v.setWidth 48 }
  | _ => x

/-- mtc: the control register := SA; a read-only number is ILLEGAL by its word (Table 3-7). -/
def execMtc (h : Head) (sa : BitVec 6) (num : BitVec 32) (s : State) : Out :=
  issueC h (encC 0x0B h 0 sa.toNat 0 num.toNat) ⟨[sa.toNat], []⟩ (fun x => x.writeCtl num.toNat (x.rdS sa.toNat)) s

/-- fret: INH cleared, issue resumes at FPC; ILLEGAL while INH = 0 (R88). The active loops are kept. The spec states nothing
of an FPC or FVEC that is not a multiple of 8: the pc takes the value and no ALIGN is raised (DESIGN CHOICE, log 57). -/
def execFret (h : Head) (s : State) : Out :=
  issue h (encC 0x0C h 0 0 0 0) ⟨[], []⟩ false (fun s =>
    if (s.ctx h.tile h.ctx).inh then .go 16 fun s =>
      let x := s.ctx h.tile h.ctx
      s.setCtx h.tile h.ctx { x with inh := false, pc := x.fpc }
    else .fault (cILLEGAL, 0)) s

/-- pset: the comparison of SA and SB to all 64 bits of a predicate (R67, R59). -/
def execPset (h : Head) (pd cond : BitVec 3) (sa sb : BitVec 6) (s : State) : Out :=
  issueC h (encC 0x23 h 0 sa.toNat sb.toNat (pd.toNat * 2 ^ 29 + cond.toNat * 2 ^ 26))
    ⟨[sa.toNat, sb.toNat], [96 + pd.toNat]⟩
    (fun x => x.wrPb pd.toNat (scalarCond cond.toNat (x.rdS sa.toNat) (x.rdS sb.toNat))) s

/-- pseti (R67). -/
def execPseti (h : Head) (pd cond : BitVec 3) (sa : BitVec 6) (imm : BitVec 29) (s : State) : Out :=
  issueC h (encC 0x24 h (cond.toNat * 8) sa.toNat 0 (pd.toNat * 2 ^ 29 + imm.toNat))
    ⟨[sa.toNat], [96 + pd.toNat]⟩
    (fun x => x.wrPb pd.toNat (scalarCond cond.toNat (x.rdS sa.toNat) (psetiImm imm))) s

/-- plog on all 64 bits (R68). -/
def execPlog (h : Head) (pd pa pb : BitVec 3) (func : BitVec 2) (s : State) : Out :=
  issueC h (encC 0x25 h pd.toNat pa.toNat pb.toNat func.toNat)
    ⟨[96 + pa.toNat, 96 + pb.toNat], [96 + pd.toNat]⟩
    (fun x => x.wrP pd.toNat (plogFunc func.toNat (x.rdP pa.toNat) (x.rdP pb.toNat))) s

/-- The address of lds and sts (R69). -/
def scalarAddr (x : Ctx) (sa : BitVec 6) (imm : BitVec 32) : Nat := (x.rdS sa.toNat + imm.signExtend 64).toNat

/-- R26, R69: the fault of a scalar access, if it has one. The spec names the reserved range; a sum at or above 0x20_0000,
outside the 21-bit space, raises LOCAL_RANGE too (DESIGN CHOICE, log 57). -/
def scalarCheck (a n : Nat) : Option FaultAt := if a % n ≠ 0 then some (cALIGN, a) else localCheck a n

/-- lds: a zero-extended load of 1 to 8 bytes from tile-local space (R69, R394). -/
def execLds (h : Head) (sd sa : BitVec 6) (size : BitVec 2) (imm : BitVec 32) (sram : Sram) (s : State) : Out :=
  issue h (encC 0x26 h sd.toNat sa.toNat (size.toNat * 16) imm.toNat) ⟨[sa.toNat], [sd.toNat]⟩ false (fun s =>
    let a := scalarAddr (s.ctx h.tile h.ctx) sa imm
    let n := 2 ^ size.toNat
    match scalarCheck a n with
    | some f => .fault f
    | none => .go 16 fun s =>
      match sram with
      | .uncorrectable => s.sramFail h.tile
      | _ =>
        let s := s.sramNote h.tile sram
        s.setCtx h.tile h.ctx
          ((s.ctx h.tile h.ctx).wrS sd.toNat (BitVec.ofNat 64 ((s.tile h.tile).rdNat a n))).advance) s

/-- sts: a store of the low 1 to 8 bytes of a register (R69). -/
def execSts (h : Head) (sd sa : BitVec 6) (size : BitVec 2) (imm : BitVec 32) (s : State) : Out :=
  issue h (encC 0x27 h sd.toNat sa.toNat (size.toNat * 16) imm.toNat) ⟨[sd.toNat, sa.toNat], []⟩ false (fun s =>
    let a := scalarAddr (s.ctx h.tile h.ctx) sa imm
    let n := 2 ^ size.toNat
    match scalarCheck a n with
    | some f => .fault f
    | none => .go 16 fun s =>
      let v := (s.ctx h.tile h.ctx).rdS sd.toNat
      (s.wrLocal h.tile a (leBytes n v.toNat)).advance h.tile h.ctx) s

/-- trap raises SOFT_TRAP (Table 3-6). -/
def execTrap (h : Head) (s : State) : Out :=
  issue h (encC 0x28 h 0 0 0 0) ⟨[], []⟩ false (fun _ => .fault (cSOFT_TRAP, unstated)) s

/-- rdtime: SD := the tile's CCLK count, which has moved on by a free amount (log entry 5). -/
def execRdtime (h : Head) (sd : BitVec 6) (s : State) : Out :=
  issue h (encC 0x29 h sd.toNat 0 0 0) ⟨[], [sd.toNat]⟩ false (fun _ => .go 16 fun s =>
    let d := s.drawTime
    let n := ((d.2.tile h.tile).cclk + d.1) % 2 ^ 64
    let s := d.2.setTile h.tile { d.2.tile h.tile with cclk := n }
    s.setCtx h.tile h.ctx ((s.ctx h.tile h.ctx).wrS sd.toNat (BitVec.ofNat 64 n)).advance) s

/-! ## Switching contexts (R22 to R24, R89) -/

/-- L's next instruction is ready to issue: it has not stalled, its token wait is now satisfied (R22, R81), or the place it
waited for is free (R185, R349). -/
def State.lReady (s : State) (t : Nat) : Bool :=
  let x := s.tile t
  decide (x.ctxL.run = .running) && x.ctxL.held.isNone &&
    match x.ctxL.stall with
    | .none => true
    | .twait k => decide (x.token k.toNat ≠ 0)
    | .chanFull w => decide ((s.chan (16 * s.clusterOf t + bits w.toNat 21 18)).queue.length < 8)
    | .narrowFull _ => decide (x.narrowCount < 64)
    | _ => false

/-- Switch to L (R22). `fcost`, `lcost`: the entries of Table 14-1 that price the contexts' next operations. Where want of
credit lets L run, the tile keeps F's entry: L issues only while F stays unaffordable (R23). -/
def execContextSwitchToL (tile fcost lcost : Nat) (s : State) : Out :=
  within tile Config.tiles <| .next <|
    let x := s.tile tile
    let poor := decide (x.ctxF.run = .running) && decide (x.ctxF.stall = .none) && !s.affordable tile fcost
      && s.affordable tile lcost
    if decide (x.cur = .F) && s.lReady tile && (x.yields x.ctxF || poor) then
      s.setTile tile { x with cur := .L, poor := if x.yields x.ctxF then none else some fcost }
    else s

/-- Switch back to F once no condition of R22 holds for it (R23). -/
def execContextSwitchToF (tile fcost lcost : Nat) (s : State) : Out :=
  within tile Config.tiles <| .next <|
    let x := s.tile tile
    let poor := decide (x.ctxF.run = .running) && !s.affordable tile fcost && s.affordable tile lcost
    if decide (x.cur = .L) && !x.yields x.ctxF && !poor then s.setTile tile { x with cur := .F, poor := none } else s

end Sys2Proof.Machine
end

