-- ==== Sys2Proof/Machine/Matrix.lean ====
section
/-! DEFINITION. The matrix array (chapter 5): the checks of mmul, mslice, mread and mclear at issue, their products
and accumulation, and the crust. manchor is in Machine/Units.lean. -/

namespace Sys2Proof.Machine

/-! ## The operands of a word -/

/-- What an M instruction was issued with: its fields, its captured registers and the job's numerics (R126). -/
structure MArgs where
  op : Nat
  rows : Nat
  flow : Nat
  fmt : Nat
  var : Nat
  a : Nat
  b : Nat
  c : Nat
  num : NumCfg

/-- The arguments of a queued M instruction. -/
def MArgs.of (s : State) (o : UOp) : MArgs :=
  let w := o.word.toNat
  { op := wOp w, rows := bits w 21 11, flow := bits w 10 9, fmt := bits w 8 4, var := bits w 3 0,
    a := o.va.toNat, b := o.vb.toNat, c := o.vc.toNat, num := NumCfg.ofReg (s.reg .NUMCFG 0) }

/-- Element width in bits of the operands. -/
def MArgs.d (x : MArgs) : Nat := fmtWidth x.fmt

/-- K of one streamed row in WS and IS (Table 5-1). -/
def MArgs.k (x : MArgs) : Nat := if x.op = 1 then 16 else if x.d = 4 then 32 else 16

/-- Kt of an output-stationary instruction (R130). -/
def MArgs.kt (x : MArgs) : Nat := x.rows * osPerRow x.fmt

/-- Width in bytes of the accumulator elements of mmul and mslice (Table 5-1, R140). -/
def MArgs.w (x : MArgs) : Nat := if x.op = 1 then 32 else if x.num.fast then 4 else 32

def MArgs.mx (x : MArgs) : Bool := x.op = 0 && fmtIsMx x.fmt
def MArgs.os (x : MArgs) : Bool := x.op = 0 && decide (x.flow = 2)

/-- Bytes of the stationary operand's elements (a in OS) and of its scales (R128, R130, R131, R139). -/
def MArgs.aElems (x : MArgs) : Nat :=
  if x.op = 1 then 1280 else if x.os then 16 * x.kt * x.d / 8 else 64 * x.k * x.d / 8
def MArgs.aScales (x : MArgs) : Nat := if x.mx then (if x.os then 16 * ceilDiv x.kt 32 else 64) else 0

/-- Bytes of the streamed operand's elements (b in OS) and of its scales. -/
def MArgs.bElems (x : MArgs) : Nat :=
  if x.op = 1 then 20 * x.rows else if x.os then 64 * x.kt * x.d / 8 else x.k * x.rows * x.d / 8
def MArgs.bScales (x : MArgs) : Nat := if x.mx then (if x.os then 64 * ceilDiv x.kt 32 else x.rows) else 0

/-- Elements of the destination. -/
def MArgs.elems (x : MArgs) : Nat := if x.os then 1024 else 64 * x.rows

/-! ## Checks at issue (R126, R127, R141, R143) -/

/-- First byte of [a, a + n) outside tile store. -/
def outsideTile (a n : Nat) : Option Nat := firstAtOrAbove a n tileStoreEnd

/-- First byte of [a, a + n) outside accumulator store. -/
def outsideAcc (a n : Nat) : Option Nat :=
  if n = 0 then none else if a < tileStoreEnd then some a else firstAtOrAbove a n localEnd

/-- The first fault of a list of checks. -/
def firstFault (l : List (Option FaultAt)) : Option FaultAt := l.findSome? id

/-- OPERAND when bits [63:21] of an address register are not 0. -/
def needLocal (v : Nat) : Option FaultAt := if v < 2 ^ 21 then none else some (cOPERAND, unstated)

/-- ALIGN when an address is not a multiple of n. -/
def needAlign (v n : Nat) : Option FaultAt := if v % n = 0 then none else some (cALIGN, v)

def needStore (r : Option Nat) : Option FaultAt := r.map fun a => (cLOCAL_RANGE, a)

/-- R126, R127: the fault of mmul or mslice. Of several operands outside their stores the model names SA's byte before SB's and
SB's before SC's (DESIGN CHOICE, log entry 57). With ROWS = 0 no byte is read or written (R123). -/
def MArgs.checkMul (x : MArgs) : Option FaultAt :=
  firstFault ([needLocal x.a, needLocal x.b, needLocal x.c, needAlign x.a 64, needAlign x.b 64, needAlign x.c x.w]
    ++ if x.rows = 0 then [] else
      [needStore (outsideTile x.a (x.aElems + x.aScales)), needStore (outsideTile x.b (x.bElems + x.bScales)),
       needStore (outsideAcc x.c (x.w * x.elems))])

/-- Width of the source elements of mread (R141) and of the elements of mclear (R143). -/
def readWidth (var : Nat) : Nat := if var % 4 = 0 then 32 else 4
def clearWidth (fmt : Nat) : Nat := if fmt = 17 then 32 else 4

/-- R126, R141: the fault of mread; a source byte outside is named before a destination byte (DESIGN CHOICE, log entry 57). -/
def MArgs.checkRead (x : MArgs) : Option FaultAt :=
  let w := readWidth x.var
  let dst := x.b % 2 ^ 21
  firstFault [if bits x.b 31 21 = 0 then none else some (cOPERAND, unstated), needLocal x.c, needAlign dst 64,
    needAlign x.c w, needStore (outsideAcc x.c (w * 64 * x.rows)),
    needStore (outsideTile dst (64 * x.rows * x.d / 8))]

/-- R126, R143: the fault of mclear. -/
def MArgs.checkClear (x : MArgs) : Option FaultAt :=
  let w := clearWidth x.fmt
  firstFault [needLocal x.c, needAlign x.c w, needStore (outsideAcc x.c (w * 64 * x.rows))]

/-! ## Issue -/

/-- Registers an M instruction's issue reads. -/
def usesM (f : MF) : Uses := ⟨[f.sa.toNat, f.sb.toNat, f.sc.toNat], []⟩

/-- The issue of an M instruction: its checks, then its place in the array's queue with the exponents it takes at issue
(R135, R326). -/
def issueM (op : Nat) (h : Head) (f : MF) (check : State → MArgs → Option FaultAt) (exps : State → MArgs → List Nat)
    (s : State) : Out :=
  let w := encM op h f
  issue h w (usesM f) false (fun s =>
    let o := capture s h .matrix w f.sa.toNat f.sb.toNat f.sc.toNat
    let x := MArgs.of s o
    match check s x with
    | some e => .fault e
    | none =>
      if s.affordable h.tile (costKey w) then
        .hold ((s.enqueue h.tile { o with exps := exps s x }).advance h.tile h.ctx)
      else .hold (s.pause h.tile (costKey w))) s

/-- mmul (R123 to R133). -/
def execMmul (h : Head) (f : MF) (s : State) : Out := issueM 0 h f (fun _ => MArgs.checkMul) (fun _ _ => []) s
/-- mslice (R138 to R140). -/
def execMslice (h : Head) (f : MF) (s : State) : Out := issueM 1 h f (fun _ => MArgs.checkMul) (fun _ _ => []) s
/-- mread (R141). -/
def execMread (h : Head) (f : MF) (s : State) : Out := issueM 2 h f (fun _ => MArgs.checkRead) (fun _ _ => []) s
/-- mclear (R143). -/
def execMclear (h : Head) (f : MF) (s : State) : Out := issueM 4 h f (fun _ => MArgs.checkClear) (fun _ _ => []) s

/-! ## Products (R124, R128, R130, R131, R139, R140) -/

/-- The bytes of the operands as one number each, read once. -/
structure MData where
  a : Nat
  ascale : List Byte
  b : Nat
  bscale : List Byte

def MData.read (t : Tile) (x : MArgs) : MData :=
  { a := t.rdNat x.a x.aElems, ascale := t.rdBytes (x.a + x.aElems) x.aScales,
    b := t.rdNat x.b x.bElems, bscale := t.rdBytes (x.b + x.bElems) x.bScales }

/-- The format of the SB operand (R124): the other FP8 type when VAR[2] = 1. -/
def MArgs.bfmt (x : MArgs) : Nat :=
  if bit x.var 2 then (match x.fmt with | 5 => 6 | 6 => 5 | 8 => 9 | 9 => 8 | f => f) else x.fmt

/-- One element's value, with its scale byte for MX formats (R96, R131). -/
def mElem (mx : Bool) (fmt : Nat) (scale : Nat) (v : Nat) : FVal := if mx then mxVal fmt scale v else elemVal false fmt v

/-- S(i, k) and T(j, k) of WS and IS; a(k, i) and b(k, j) of OS. -/
def MArgs.stat (x : MArgs) (m : MData) (i k : Nat) : FVal :=
  let off := if x.os then 16 * k + i else if x.flow = 0 then 64 * k + i else x.k * i + k
  let sc := if x.os then 16 * (k / 32) + i else i
  mElem x.mx x.fmt (m.ascale.getD sc 0).toNat (packedElem x.d m.a off)

def MArgs.strm (x : MArgs) (m : MData) (j k : Nat) : FVal :=
  let off := if x.os then 64 * k + j else x.k * j + k
  let sc := if x.os then 64 * (k / 32) + j else j
  mElem x.mx x.bfmt (m.bscale.getD sc 0).toNat (packedElem x.d m.b off)

/-- Bytes of a slice plane: the slice byte, sign bit and exponent of vector v among n (R139). -/
def planeByte (p v k : Nat) : Nat := bits p (8 * (16 * v + k) + 7) (8 * (16 * v + k))
def planeSign (p n v k : Nat) : Bool := bit p (8 * (16 * n + 2 * v) + k)
def planeExp (p n v : Nat) : Int := sext 16 (p / 2 ^ (8 * (18 * n + 2 * v)))

/-- The scale of pass (s, t) for vectors i and j: 2^(E_i + F_j − 8(s + t)) (R113). -/
def MArgs.sliceScale (x : MArgs) (m : MData) (i j : Nat) : Int :=
  planeExp m.a 64 i + planeExp m.b x.rows j - 8 * x.var

/-- The products of element (i, j), in order of k. -/
def MArgs.products (x : MArgs) (m : MData) (i j : Nat) : List FVal :=
  if x.op = 1 then
    (List.range 16).map fun k =>
      .fin (planeSign m.a 64 i k != planeSign m.b x.rows j k) (planeByte m.a i k * planeByte m.b j k)
        (x.sliceScale m i j)
  else (List.range (if x.os then x.kt else x.k)).map fun k => (x.stat m i k).mul (x.strm m j k)

/-- A product as the cell returned it (R155). -/
def hitBy (errs : List CellErr) (i j k : Nat) (p : FVal) : FVal :=
  (errs.filter fun e => decide (e.i = i) && decide (e.j = j) && decide (e.k = k)).foldl
    (fun v e => match v with
      | .fin .. => v.add (.fin e.neg e.m e.e)
      | _ => v) p

/-! ## Accumulation (R132, R105 to R108, R111, R140) -/

/-- R113: the anchor mslice gives an element with ASET = 0. -/
def MArgs.sliceAnchor (x : MArgs) (m : MData) (i j : Nat) : Int :=
  let n : Int := if x.fmt = 1 then 7 else 3
  let full := if x.fmt = 1 then x.num.f64full else x.num.f32full
  clampAnchor (planeExp m.a 64 i + planeExp m.b x.rows j - (if full then 16 * n else 8 * (n + 1)))

/-- The new bytes of a destination element, whose products `ps` the cells returned. In OS the prescan finds the anchor without
multiplying: from the true products (R133). -/
def MArgs.update (x : MArgs) (m : MData) (i j : Nat) (old : Nat) (true_ ps : List FVal) : Nat :=
  if x.op = 1 then
    let e := planeExp m.a 64 i
    let f := planeExp m.b x.rows j
    let k := Kx.ofBits old
    if e = 0x7FFF ∨ f = 0x7FFF then ({ k with nan := true } : Kx).toBits
    else if e = sliceZero ∨ f = sliceZero then k.toBits
    else
      let k := if k.aset then k else { k with anchor := x.sliceAnchor m i j, aset := true }
      (ps.foldl Kx.add k).toBits
  else
    let old := if bit x.var 0 then 0 else old
    if !x.num.fast then ((Kx.ofBits old).addAllAt (if x.os then true_ else ps) ps).toBits
    else if x.fmt = 13 ∨ x.fmt = 14 then
      wrapInt 32 (ps.foldl (fun n p => match p with
        | .fin neg q e => n + sgnInt neg (q * 2 ^ e.toNat)
        | _ => n) (sext 32 old))
    else fastAdd old ps

/-- Address of destination element (i, j) (R128, R130, R140). -/
def MArgs.dest (x : MArgs) (i j : Nat) : Nat := x.c + x.w * (if x.os then 64 * i + j else 64 * j + i)

/-- Update the elements of a list of (i, j), with the cells' errors. -/
def State.accumulate (s : State) (t : Nat) (x : MArgs) (m : MData) (errs : List CellErr) (es : List (Nat × Nat)) : State :=
  es.foldl (fun u e =>
    let ps := (x.products m e.1 e.2).zipIdx.map fun p => hitBy errs e.1 e.2 p.2 p.1
    let a := x.dest e.1 e.2
    u.putLocal t a (leBytes x.w (x.update m e.1 e.2 ((u.tile t).rdNat a x.w) (x.products m e.1 e.2) ps))) s

/-! ## The crust (R144 to R157) -/

/-- Groups of 64 streamed rows (R144, R145). -/
def MArgs.groups (x : MArgs) : Nat := ceilDiv x.rows 64

/-- The group of an error: by streamed vector in WS, IS and mslice; by step in OS. -/
def MArgs.groupOf (x : MArgs) (e : CellErr) : Nat := if x.os then e.k / osPerRow x.fmt / 64 else e.j / 64

/-- R147: a vector holds a NaN, an infinity or a NaN scale: for the stationary side and the streamed side. -/
def MArgs.statBad (x : MArgs) (m : MData) (i : Nat) : Bool :=
  if x.op = 1 then decide (planeExp m.a 64 i = 0x7FFF)
  else (List.range (if x.os then x.kt else x.k)).any fun k => !(x.stat m i k).isFin
def MArgs.strmBad (x : MArgs) (m : MData) (j : Nat) : Bool :=
  if x.op = 1 then decide (planeExp m.b x.rows j = 0x7FFF)
  else (List.range (if x.os then x.kt else x.k)).any fun k => !(x.strm m j k).isFin

/-- The sum of errors is not 0. -/
def errSum (es : List CellErr) : Bool :=
  !((es.foldl (fun v e => v.add (.fin e.neg e.m e.e)) (FVal.fin false 0 0)).isZero)

/-- The index of the failing row check: streamed vector j, or output row i in OS (R144 to R147). -/
def MArgs.rowFail (x : MArgs) (m : MData) (es : List CellErr) : Option Nat :=
  if x.os then
    (List.range 16).find? fun i => !x.statBad m i && errSum (es.filter fun e => decide (e.i = i))
  else
    (List.range x.rows).find? fun j => !x.strmBad m j && errSum (es.filter fun e => decide (e.j = j))

/-- The index of the failing column check: stationary vector i, or output column j in OS. -/
def MArgs.colFail (x : MArgs) (m : MData) (es : List CellErr) : Option Nat :=
  if x.os then
    (List.range 64).find? fun j => !x.strmBad m j && errSum (es.filter fun e => decide (e.j = j))
  else
    (List.range 64).find? fun i => !x.statBad m i && errSum (es.filter fun e => decide (e.i = i))

/-- The arrays' results differ in some element (R156). -/
def differ (es es' : List CellErr) : Bool :=
  (es ++ es').any fun e =>
    let at' := fun (l : List CellErr) => l.filter fun f => decide (f.i = e.i) && decide (f.j = e.j)
    errSum (at' es ++ (at' es').map fun f => { f with neg := !f.neg })

/-- What the crust found: the errors that stand in the result, group by group; the last mismatch; and the group
that failed again, with its errors on both arrays. -/
structure Crust where
  kept : List CellErr
  first : Option (Option Nat × Option Nat × Bool × Nat)  -- row, column, dual, group of the last mismatch
  permanent : Option Nat
  own1 : Bool
  own2 : Bool

/-- Run the groups from `g` in run `r` (R148, R151, R152, R157); `again` is set while `g` is re-executed. ROW and COL of a
mismatch are those of the checked tile's own checks; where only the checker's failed, neither is valid (DESIGN CHOICE, log
entry 57). -/
def MArgs.crust (x : MArgs) (m : MData) (dual : Bool) (runs checks : List (List CellErr)) :
    Nat → Nat → Nat → Bool → Crust → Crust
  | 0, _, _, _, c => c
  | f + 1, g, r, again, c =>
    if x.groups ≤ g then c
    else
      let here := fun (l : List (List CellErr)) => (l.getD r []).filter fun e => decide (x.groupOf e = g)
      let e1 := here runs
      let e2 := here checks
      let sum1 := if x.os then c.kept ++ e1 else e1
      let sum2 := if x.os then c.kept ++ e2 else e2
      let row := x.rowFail m sum1
      let col := x.colFail m sum1
      let bad1 := row.isSome || col.isSome
      let bad2 := dual && ((x.rowFail m sum2).isSome || (x.colFail m sum2).isSome)
      let dis := dual && differ e1 e2
      if bad1 || bad2 || dis then
        let c := { c with first := some (row, col, dis, g) }
        if again then { c with permanent := some g, own1 := bad1, own2 := bad2 }
        else x.crust m dual runs checks f g (r + 1) true c
      else
        x.crust m dual runs checks f (g + 1) r false
          { c with kept := c.kept ++ e1 }

/-- The operand fingerprint (R154). -/
def MArgs.fingerprint (t : Tile) (x : MArgs) (g : Nat) : Nat :=
  let lo := 64 * g
  let n := min 64 (x.rows - lo)
  let part := fun (base per : Nat) => t.rdBytes (base + lo * per) (n * per)
  if x.op = 1 then
    let b := part x.b 16 ++ part (x.b + 16 * x.rows) 2 ++ part (x.b + 18 * x.rows) 2
    crc32c (t.rdBytes x.a 1280) * 2 ^ 32 + crc32c b
  else if x.os then
    let pr := osPerRow x.fmt
    let sc := fun (base w : Nat) => if x.mx then t.rdBytes (base + w * (lo * pr / 32)) (w * ceilDiv (n * pr) 32) else []
    crc32c (part x.a (16 * pr * x.d / 8) ++ sc (x.a + x.aElems) 16) * 2 ^ 32
      + crc32c (part x.b (64 * pr * x.d / 8) ++ sc (x.b + x.bElems) 64)
  else
    crc32c (t.rdBytes x.a (x.aElems + x.aScales)) * 2 ^ 32
      + crc32c (part x.b (x.k * x.d / 8) ++ (if x.mx then part (x.b + x.bElems) 1 else []))

/-- CRUSTLAST after a mismatch. -/
def crustLast (fp tile : Nat) (row col : Option Nat) (dual : Bool) (kind : Nat) : Nat :=
  fp * 2 ^ 64 + tile * 2 ^ 34 + row.getD 0 * 2 ^ 24 + col.getD 0 * 2 ^ 18 + b2n row.isSome * 2 ^ 17
    + b2n col.isSome * 2 ^ 16 + b2n dual * 2 ^ 2 + kind

/-- Fence the array of tile `t` (R152, R395, R397, R399). -/
def State.fenceArray (s : State) (t : Nat) : State :=
  if s.arrayFenced t then s
  else
    let s := s.setReg .FENCEARR (t / 64) (setBits (s.reg .FENCEARR (t / 64)) (t % 64) (t % 64) 1)
    if s.draining then s.logFence t else s.noteFence t

/-- R152, R157: the M unit of tile `t` is out of use: its array, or either array of its dual pair, is fenced. -/
def State.matrixFenced (s : State) (t : Nat) : Bool :=
  s.arrayFenced t || match s.checkerOf t with
    | some c => s.arrayFenced c
    | none => false

/-- R150 and Table 5-5: whether instruction number `n` of tile `t` is checked. -/
def crustChecks (level n t : Nat) : Bool :=
  match level with
  | 0 => false
  | 1 => decide ((n + t) % 16 = 15)
  | _ => true

/-- The elements a list of groups writes. -/
def MArgs.cells (x : MArgs) (upTo : Nat) : List (Nat × Nat) :=
  if x.os then (if x.groups ≤ upTo then (List.range 16).flatMap fun i => (List.range 64).map fun j => (i, j) else [])
  else (List.range (min x.rows (64 * upTo))).flatMap fun j => (List.range 64).map fun i => (i, j)

/-- A transient detection: it is counted, logged and charged to its cluster (R151, R409). -/
def State.crustTransient (s : State) (t : Nat) : State :=
  ((s.bump F.CRUSTTRN_TRANSIENT 0 1).log .crustTransient t (leBytes 8 (s.reg .CRUSTLAST 0))).penalise 0 (s.clusterOf t) 50

/-- Fence the arrays that disagree with themselves; both, when neither or both do. -/
def State.fencePair (s : State) (t k : Nat) (own1 own2 : Bool) : State :=
  let both := own1 == own2
  let s := if own1 || both then s.fenceArray t else s
  if own2 || both then s.fenceArray k else s

/-- What a permanent detection with fingerprint `v` does to the units: a certified job drains, any other fences. -/
def State.crustFence (s : State) (t v : Nat) (c : Crust) : State × Option FaultAt :=
  if s.certified then (s.drainFor 1, none)
  else
    match s.checkerOf t with
    | none => (s.fenceArray t, some (cUNIT_FENCED, v))
    | some k => (s.fencePair t k c.own1 c.own2, some (cUNIT_FENCED, v))

/-- A permanent detection: it is counted and logged, then acted on. -/
def State.crustPermanent (s : State) (t v : Nat) (c : Crust) : State × Option FaultAt :=
  ((s.bump F.CRUSTPRM_PERMANENT 0 1).log .crustPermanent t (leBytes 8 v)).crustFence t v c

/-- Count and log what the crust found (R151, R152, R157), and fence. A fault that went is one transient however many groups
it met, since it counts only when every check of the re-execution passes. Answers the fault to raise, if any. -/
def State.crustNote (s : State) (t : Nat) (fp : Nat → Nat) (c : Crust) : State × Option FaultAt :=
  match c.first with
  | none => (s, none)
  | some (row, col, dual, g) =>
    let kind := if c.permanent.isSome then 2 else 1
    let s := s.setReg .CRUSTLAST 0 (crustLast (fp g) t row col dual kind)
    if c.permanent.isSome then s.crustPermanent t (fp g) c else (s.crustTransient t, none)

/-- The effect of mmul or mslice with ROWS ≥ 1, and the fault it ends in, if any. -/
def State.runMul (s : State) (t : Nat) (x : MArgs) (ev : UnitEvent) : State × Option FaultAt :=
  let tl := s.tile t
  let m := MData.read tl x
  let n := tl.checkedN
  let s := s.setTile t { tl with checkedN := n + 1 }
  let level := s.get F.CRUSTCFG_LEVEL 0
  if crustChecks level n t then
    let s := s.bump F.CRUSTCHK_CHECKED 0 1
    let c := x.crust m (decide (level = 3)) ev.runs ev.checks (2 * x.groups + 2) 0 0 false
      { kept := [], first := none, permanent := none, own1 := false, own2 := false }
    let r := s.crustNote t (MArgs.fingerprint tl x) c
    match c.permanent with
    | none => (r.1.accumulate t x m c.kept (x.cells x.groups), none)
    | some g => (r.1.accumulate t x m c.kept (x.cells (if x.os then 0 else g)), r.2)
  else (s.accumulate t x m (ev.runs.getD 0 []) (x.cells x.groups), none)

/-! ## Readout and clearing (R141, R143) -/

/-- The value mread reads from a stored element. -/
def readVal (var v : Nat) : FVal :=
  match var % 4 with
  | 0 => (Kx.ofBits v).value
  | 1 => fp32.decode v
  | _ => intVal 32 v

def State.runRead (s : State) (t : Nat) (x : MArgs) : State :=
  let w := readWidth x.var
  let n := 64 * x.rows
  let tl := s.tile t
  let out := (List.range n).map fun e =>
    elemEnc x.num.sat x.fmt (x.num.rnd (x.a + e) (bits x.b 63 32)) (readVal x.var (tl.rdNat (x.c + w * e) w))
  let s := s.putLocal t (x.b % 2 ^ 21) (leBytes (n * x.d / 8) (packElems x.d out))
  if bit x.var 2 then s.putLocal t x.c (List.replicate (w * n) 0) else s

def State.runClear (s : State) (t : Nat) (x : MArgs) : State :=
  s.putLocal t x.c (List.replicate (clearWidth x.fmt * 64 * x.rows) 0)

end Sys2Proof.Machine
end

