-- ==== Sys2Proof/Machine/Flits.lean ====
section
/-! DEFINITION. Flits and link blocks as bytes (Tables 9-2 and 9-3, R243, R246). -/

namespace Sys2Proof.Machine

/-- The kinds of Table 9-4. -/
def kREAD : Nat := 1
def kWRITE : Nat := 2
def kATOMIC : Nat := 3
def kARRIVE : Nat := 4
def kCOLL : Nat := 5
def kRDATA : Nat := 8
def kWACK : Nat := 9
def kARESULT : Nat := 10
def kRETRY : Nat := 11
def kREFUSE : Nat := 12
def kNACK : Nat := 13
def kACK : Nat := 14
def kDW : Nat := 16

/-- The class a kind travels in; `none` for EMPTY and the reserved kinds (Tables 9-4 and 18-1). -/
def kindClass (k : Nat) : Option Nat :=
  if 1 ≤ k ∧ k ≤ 5 then some 0 else if 8 ≤ k ∧ k ≤ 14 then some 1 else if k = 16 then some 2
  else if 24 ≤ k ∧ k ≤ 29 then some 0 else if 30 ≤ k ∧ k ≤ 31 then some 1 else none

/-- A flit no switch point may carry (R243): its class does not fit its kind, or a host-link kind names the KA-2 in
neither device field (R456). -/
def Flit.malformed (f : Flit) : Bool :=
  decide (kindClass f.kind ≠ some f.cls) || (decide (24 ≤ f.kind) && decide (f.sdev ≠ 255) && decide (f.ddev ≠ 255))

/-- The header (Table 9-2). -/
def Flit.header (f : Flit) : Nat :=
  f.hops % 2 ^ 8 + f.epoch * 2 ^ 8 + f.cls * 2 ^ 9 + f.kind * 2 ^ 11 + f.ddev * 2 ^ 16 + f.sdev * 2 ^ 24 + f.dep * 2 ^ 32
  + f.sep * 2 ^ 42 + b2n f.resend * 2 ^ 52 + f.hint * 2 ^ 53 + f.data.length * 2 ^ 56 + b2n f.syn * 2 ^ 62
  + f.resv * 2 ^ 64

/-- The sequence and tag field (Table 9-3). -/
def Flit.tail (f : Flit) : Nat :=
  let a : Nat := match f.ack with
    | some (c, n) => n * 2 ^ 16 + 2 ^ 32 + c * 2 ^ 33
    | none => 0
  f.seq + a + f.fidx * 2 ^ 34 + f.fcnt * 2 ^ 37 + f.tag * 2 ^ 40

/-- The 48 bytes of a flit (R243). -/
def Flit.bytes (f : Flit) : List Byte :=
  leBytes 10 f.header ++ (f.data ++ List.replicate (32 - f.data.length) 0) ++ leBytes 6 f.tail

/-- Read a flit from its 48 bytes. -/
def Flit.ofBytes (bs : List Byte) : Flit :=
  let h := leValue (bs.take 10)
  let t := leValue ((bs.drop 42).take 6)
  { resv := bits h 79 64, syn := bit h 62, hint := bits h 55 53, resend := bit h 52, sep := bits h 51 42,
    dep := bits h 41 32, sdev := bits h 31 24, ddev := bits h 23 16, kind := bits h 15 11, cls := bits h 10 9,
    epoch := bits h 8 8, hops := bits h 7 0, data := (bs.drop 10).take (min (bits h 61 56) 32), tag := bits t 47 40,
    fcnt := bits t 39 37, fidx := bits t 36 34, ack := if bit t 32 then some (bits t 33 33, bits t 31 16) else none,
    seq := bits t 15 0 }

/-- An unused slot (R245). -/
def Flit.empty : Flit :=
  { resv := 0, syn := false, hint := 0, resend := false, sep := 0, dep := 0, sdev := 0, ddev := 0, kind := 0, cls := 0,
    epoch := 0, hops := 0, data := [], tag := 0, fcnt := 0, fidx := 0, ack := none, seq := 0 }

/-- One bit of the block CRC-32, reflected: polynomial 0x04C1_1DB7 (R246). -/
def crc32Bits : Nat → Nat → Nat
  | 0, c => c
  | n + 1, c => crc32Bits n (if c % 2 = 1 then c / 2 ^^^ 0xEDB88320 else c / 2)

/-- CRC-32 of a list of bytes (R246). -/
def crc32 (bs : List Byte) : Nat := bs.foldl (fun c b => crc32Bits 8 (c ^^^ b.toNat)) 0xFFFFFFFF ^^^ 0xFFFFFFFF

/-- Trailer bytes 388–391 of a block: BSEQ, BACK and NAK (R246). -/
def trailerHigh (bseq back : Nat) (nak : Bool) : List Byte := leBytes 4 (bseq + back * 2 ^ 8 + b2n nak * 2 ^ 16)

/-- The 392 bytes of a link block (R246). -/
def Block.bytes (b : Block) (back : Nat) (nak : Bool) : List Byte :=
  let body := b.flits.flatMap Flit.bytes
  let hi := trailerHigh b.bseq back nak
  body ++ leBytes 4 (crc32 (body ++ hi)) ++ hi

/-- What a receiver reads in a block: whether its CRC is good, BSEQ, BACK, NAK and the flits (R246, R247). -/
structure BlockIn where
  good : Bool
  bseq : Nat
  back : Nat
  nak : Bool
  flits : List Flit
deriving DecidableEq, Repr

def BlockIn.ofBytes (bs : List Byte) : BlockIn :=
  let body := bs.take 384
  let hi := (bs.drop 388).take 4
  let t := leValue hi
  { good := decide (bs.length = 392) && decide (crc32 (body ++ hi) = leValue ((bs.drop 384).take 4)), bseq := bits t 7 0,
    back := bits t 15 8, nak := bit t 16, flits := (List.range 8).map fun i => Flit.ofBytes ((body.drop (48 * i)).take 48) }

end Sys2Proof.Machine
end

