-- ==== Sys2Proof/Machine/Fabric.lean ====
section
/-! DEFINITION. Switch points (chapter 9): routing, placement by deflection at the mesh routers and edge switches, drops
and their NACKs, the dumbwaiter's queues, the link layer of the optical ports, and the routing-table epochs.
The commands place flits by FCLK; delays inside an FCLK are timing and are left out (R16, R267). -/

namespace Sys2Proof.Machine

/-! ## Topology (R240, R241) -/

/-- Outputs of a router: 0 N, 1 E, 2 S, 3 W, 4 attachment. The neighbour behind a mesh output. -/
def neighbour (r out : Nat) : Option Nat :=
  match out with
  | 0 => if 8 ≤ r then some (r - 8) else none
  | 1 => if r % 8 < 7 then some (r + 1) else none
  | 2 => if r < 56 then some (r + 8) else none
  | 3 => if 0 < r % 8 then some (r - 1) else none
  | _ => none

/-- The input of the neighbour that an output feeds. -/
def facing (out : Nat) : Nat := (out + 2) % 4

/-- The edge die a router attaches to, and the attachment's place r mod 4 (R241). -/
def attachOf (r : Nat) : Option (Nat × Nat) :=
  let n := 2 * (r / 32)
  if r % 8 = 0 then some (n, r / 8 % 4) else if r % 8 = 7 then some (n + 1, r / 8 % 4) else none

/-- The router of attachment `i` of edge die `n`. -/
def attachRouter (n i : Nat) : Nat := routerAt (4 * (n / 2) + i) (7 * (n % 2))

/-- The die-to-die link behind a router's output, as R409 numbers it; `none` inside a base die. -/
def crossing (r out : Nat) : Option Nat :=
  let row := r / 8
  let col := r % 8
  match out with
  | 1 => if col = 3 then some (16 + 4 * (row / 4) + row % 4) else none
  | 3 => if col = 4 then some (16 + 4 * (row / 4) + row % 4) else none
  | 2 => if row = 3 then some (24 + 4 * (col / 4) + col % 4) else none
  | 0 => if row = 4 then some (24 + 4 * (col / 4) + col % 4) else none
  | 4 => (attachOf r).map fun a => 4 * a.1 + a.2
  | _ => none

/-- Slots per FCLK and direction of one class at a link's width (R244, R403, Table 15-3). -/
def State.linkSlots (s : State) (u : Nat) : Nat :=
  match s.get F.D2DSTAT_WIDTH u with
  | 0 => 8 | 1 => 4 | _ => 0

/-- The index a router holds within its base die (R240). -/
def indexJ (r : Nat) : Nat := 4 * (r / 8 % 4) + r % 8 % 4

/-- Whether Table 9-1 has an endpoint at this number (R242). -/
def endpointOk (e : Nat) : Bool :=
  let r := e / 16
  let j := indexJ r
  match e % 16 with
  | 0 | 1 | 2 | 3 => decide (r < 64)
  | 4 => decide (j = 5)
  | 5 => decide (j = 6)
  | 6 => decide (j = 9)
  | 7 => decide (j = if r % 8 < 4 then 0 else 3)
  | _ => false

/-- The physical port behind local port 6 to 11 of an edge switch (Table 1-2, Table 10-1). -/
def portOf (n k : Nat) : Nat :=
  if k < 6 then 6 * n + k else if k < 10 then 24 + 4 * n + (k - 6) else if k = 10 then 40 + n else 44 + n

/-- The port that holds the role of local port k: the spare's, once it has taken over (R274). -/
def State.rolePort (s : State) (n k : Nat) : Nat :=
  if s.get F.SPARE_TAKEN n = 1 ∧ s.get F.SPARE_TARGET n = k then portOf n 11 else portOf n k

/-- A local port of an edge switch can carry flits: a bundle of the current plan that is up and does not retrain (R284,
R291, R294), or a fixed-bundle port in state UP with its gate open (R273, R285). -/
def State.localUp (s : State) (n k : Nat) : Bool :=
  if k < 6 then
    let p := s.get F.CPCUR_CUR 0
    decide (p < 8) && decide (s.get F.PLBUND_EN (24 * p + 6 * n + k) = 1) && !bit (s.get F.CPSTAT_NOTUP 0) (6 * n + k)
      && !s.training.contains (6 * n + k)
  else decide (s.get F.PORTSTAT_STATE (s.rolePort n k) = 3) && !s.shut.contains (s.rolePort n k)

/-! ## Drops (R249, R256, R257) -/

def State.setFab (s : State) (f : Fabric) : State := { s with fab := f }

/-- Record a drop at a switch point: FCOUNT, FLASTDROP, the event at most once per millisecond (the time since the last
one is a free value, log entry 5), and the NACK of R257. Reasons as in FLASTDROP. -/
def State.dropFlit (s : State) (sp reason : Nat) (f : Flit) : State :=
  let k := if reason = 6 then 8 else reason + 1
  let s := s.bump F.FCOUNT_COUNT k 1
  let s := s.setReg .FLASTDROP 0 ((if reason = 6 then 0 else f.header) * 2 ^ 48 + sp * 2 ^ 16 + reason)
  let n := SMap.get 0 s.fab.drops sp + 1
  let s := s.setFab { s.fab with drops := SMap.set 0 s.fab.drops sp n }
  let d := s.drawTime
  let s := if n = 1 || decide (1000 ≤ d.1) then d.2.log .fabricDrop sp (leBytes 8 n ++ List.replicate 6 0) else d.2
  if 5 ≤ reason ∨ 2 ≤ f.cls ∨ f.kind = kACK ∨ f.kind = kNACK then s
  else
    let d := s.draw
    let nack : Flit :=
      { Flit.empty with sep := d.1 % 1024, dep := f.sep, sdev := s.dev, ddev := f.sdev, kind := kNACK, cls := 1,
                        epoch := s.get F.RTEPOCH_CUR 0,
                        data := leBytes 2 f.seq ++ leBytes 1 f.cls ++ leBytes 1 reason ++ leBytes 2 f.dep
                          ++ leBytes 1 f.ddev ++ leBytes 1 f.tag }
    d.2.setFab { d.2.fab with waiting := d.2.fab.waiting ++ [(sp, nack)] }

/-! ## Routing (R250, R268, R370, R417) -/

/-- A message between a cache bank of this module and the twin, or host traffic that runs through the twin or comes for
it: it travels only over P40 and P41 (R417, R421, R432). -/
def State.bridged (s : State) (f : Flit) : Bool :=
  !s.isOwn f.ddev &&
    (decide (f.kind = kWRITE) && decide (f.sep % 16 = 2) || decide (f.cls = 1) && decide (f.dep % 16 = 2)
      || decide (24 ≤ f.kind) && decide (s.get F.TWINSTAT_CONFLICT 0 = 0)
         && (decide (f.ddev = 255) && decide (f.sdev = s.dev) && decide (s.get F.TWINSTAT_FAILOVER 0 = 1)
             || decide (f.ddev ≠ 255) && decide (s.get F.TWINSTAT_PEER 0 ≠ 0)
                && decide (f.ddev = s.get F.TWINSTAT_PEERDEV 0)))

/-- The edge dies whose bridge ports carry twin traffic: those UP while the carrier holds a twin (R416, R417). -/
def State.bridgeDies (s : State) : List Nat := (List.range 2).filter fun n => s.twin.present && s.localUp n 10

/-- The edge die a message takes to the bridge: while both ports are UP, messages of even SEQ take P40 and those of odd SEQ
P41 (DESIGN CHOICE, log 58: R417 only has both ports used). -/
def State.bridgeDie (s : State) (f : Flit) : Option Nat :=
  match s.bridgeDies with
  | [] => none
  | [n] => some n
  | _ => some (f.seq % 2)

/-- Outputs toward a row and a column, each with the distance left in its dimension. -/
def toward (r row col : Nat) : List (Nat × Nat) :=
  let y := r / 8
  let x := r % 8
  (if row < y then [(0, y - row)] else []) ++ (if x < col then [(1, col - x)] else []) ++
  (if y < row then [(2, row - y)] else []) ++ (if col < x then [(3, x - col)] else [])

/-- The productive outputs of a flit at a router with the remaining distance in each one's dimension; `none` where its
table entry routes nothing (R256). -/
def State.productive (s : State) (r : Nat) (f : Flit) : Option (List (Nat × Nat)) :=
  if s.isOwn f.ddev then some (toward r (f.dep / 16 / 8) (f.dep / 16 % 8))
  else if s.bridged f then
    match s.bridgeDie f with
    | none => none
    | some n => match attachOf r with
      | some (m, _) => some (if m = n then [(4, 0)] else toward r (min (r / 8) 3) (7 * n))
      | none => some (toward r (min (r / 8) 3) (7 * n))
  else
    let e := s.reg .RTENT (512 * r + 256 * f.epoch + f.ddev)
    let outs := (List.range 5).filter fun o => bit e o && (decide (o < 4) || (attachOf r).isSome)
    if bit e 15 && !outs.isEmpty then some (outs.map fun o => (o, 0)) else none

/-- Preference among free productive outputs: the attachment, then the larger distance, a tie to the column
direction (R251). -/
def outScore (o : Nat × Nat) : Nat := if o.1 = 4 then 1000 else 2 * o.2 + b2n (o.1 % 2 = 1)

/-- The best of a list of outputs. -/
def bestOut : List (Nat × Nat) → Option Nat
  | [] => none
  | o :: os => if os.all fun x => decide (outScore x ≤ outScore o) then some o.1 else bestOut os

/-! ## Acceptance at an endpoint (R260) -/

/-- The stream a flit belongs to, seen from its destination. -/
def Flit.stream (f : Flit) : StreamKey := { ep := f.dep, dev := f.sdev, far := f.sep, cls := f.cls }

/-- Flits an endpoint holds for reordering. -/
def Fabric.held (f : Fabric) (ep : Nat) : Nat :=
  (f.landed.filter fun x => decide (x.dep = ep)).length
  + (f.ins.filter fun i => decide (i.key.ep = ep)).foldl (fun a i => a + i.store.length) 0

/-- R260: always a flit of the next expected message; any other while the reorder store has room. -/
def Fabric.accepts (fb : Fabric) (f : Flit) : Bool :=
  decide (f.kind = kACK) || decide (f.kind = kNACK) || decide (fb.held f.dep < 512) ||
  match fb.ins.find? fun i => decide (i.key = f.stream) with
  | some i => decide (i.next = f.seq)
  | none => f.syn

/-- R370: what may be addressed to the alias. -/
def State.aliasOk (s : State) (f : Flit) : Bool :=
  decide (f.ddev = s.dev) ||
  decide (f.dep % 16 = 6) && (decide (f.kind = kREAD) || decide (f.kind = kWRITE) || decide (f.kind = kARRIVE) ||
    decide (f.cls = 1) && s.rops.any fun o => decide (o.sep = f.dep) && decide (o.dev = f.sdev))

/-! ## One router's FCLK (R251 to R253) -/

/-- A router's placement in progress: free slots by output, room for ejection, what it has sent and carried. -/
structure Placing where
  s : State
  free : List Nat
  eject : Nat
  sent : List (Nat × Flit)
  carried : List Flit
  waits : List Flit

/-- How a flit came to a router: through the mesh, from the attachment, or from a local endpoint. -/
inductive Came where
  | mesh
  | edge
  | here
deriving DecidableEq, Repr

/-- Send a flit on an output. -/
def Placing.send (p : Placing) (o : Nat) (f : Flit) : Placing :=
  { p with free := p.free.set o (p.free.getD o 0 - 1), sent := p.sent ++ [(o, f)] }

/-- Place one flit (R251). A flit that is not injected stays waiting. A router carries one flit of a class (R252); what would
be a second is dropped as NOSLOT (DESIGN CHOICE, log 58: R252 holds that it never happens). -/
def Placing.place (p : Placing) (r : Nat) (came : Came) (f : Flit) : Placing :=
  if f.malformed then { p with s := p.s.dropFlit r 4 f }
  else
    let home := p.s.isOwn f.ddev && decide (f.dep / 16 = r)
    if home && (!endpointOk f.dep || !p.s.aliasOk f) then { p with s := p.s.dropFlit r 4 f }
    else if home && decide (0 < p.eject) && p.s.fab.accepts f then
      { p with eject := p.eject - 1, s := p.s.setFab { p.s.fab with landed := p.s.fab.landed ++ [f] } }
    else if home && decide (came ≠ .mesh) then { p with waits := p.waits ++ [f] }
    else
      let g := { f with hops := if came = .here then 0 else f.hops + 1,
                        epoch := if came = .here then p.s.get F.RTEPOCH_CUR 0 else f.epoch }
      if p.s.get F.FABCTL_HOPBUDGET 0 < g.hops then { p with s := p.s.dropFlit r 1 g }
      else match p.s.productive r g with
        | none => { p with s := p.s.dropFlit r 2 g }
        | some outs =>
          let open_ := fun o => decide (0 < p.free.getD o 0)
          match bestOut (outs.filter fun o => open_ o.1) with
          | some o => p.send o g
          | none => match (List.range 4).find? open_ with
            | some o => { p.send o g with s := p.s.bump F.FCOUNT_COUNT 0 1 }
            | none =>
              if came = .mesh then
                if p.carried.isEmpty then { p with carried := [g], s := p.s.bump F.FCOUNT_COUNT 1 1 }
                else { p with s := p.s.dropFlit r 3 g }
              else { p with waits := p.waits ++ [f] }

/-- Insert by rank, after equal ranks. -/
def insertBy {α : Type} (rank : α → Nat) (x : α) : List α → List α
  | [] => [x]
  | y :: ys => if rank x < rank y then x :: y :: ys else y :: insertBy rank x ys

/-- Sort by rank, keeping the order of equals. -/
def sortBy {α : Type} (rank : α → Nat) (xs : List α) : List α := xs.foldl (fun a x => insertBy rank x a) []

/-- Highest hops first, then inputs in an order rotated each FCLK (R251). -/
def arrivalRank (t n : Nat) (e : Nat × Flit) : Nat := (1024 - min e.2.hops 1023) * 64 + (e.1 + n - t % n) % n

/-- Slots of a class that an FCLK leaves to it: lanes 0 and 8 belong to the dumbwaiter in their FCLKs (R244). -/
def classSlots (t cls n : Nat) : Nat :=
  if (cls = 0 ∧ t % 4 = 0) ∨ (cls = 1 ∧ t % 4 = 2) then n - 1 else n

def State.router (s : State) (r : Nat) : Router := SMap.get Router.reset s.fab.routers r
def State.setRouter (s : State) (r : Nat) (x : Router) : State :=
  s.setFab { s.fab with routers := SMap.set Router.reset s.fab.routers r x }

def State.edge (s : State) (n : Nat) : EdgeSwitch := SMap.get EdgeSwitch.reset s.fab.edges n
def State.setEdge (s : State) (n : Nat) (x : EdgeSwitch) : State :=
  s.setFab { s.fab with edges := SMap.set EdgeSwitch.reset s.fab.edges n x }

/-- Injections of a class have waited 64 FCLK at a router: it raises STARVE (R253). -/
def Router.starves (x : Router) (cls : Nat) : Bool := x.waited.any fun e => decide (e.1.cls = cls) && decide (64 ≤ e.2)

/-- Free slots by output before a router places a class: link widths, dumbwaiter lanes, and one slot toward each
neighbour that raises STARVE (R253). -/
def State.freeSlots (s : State) (r cls : Nat) : List Nat :=
  (List.range 5).map fun o =>
    let n := match crossing r o with
      | some u => s.linkSlots u
      | none => 8
    let n := classSlots s.fab.tick cls n
    match neighbour r o with
    | some m => if (s.router m).starves cls then n - 1 else n
    | none => if o = 4 ∧ (attachOf r).isSome then n else 0

/-- Local flits of a class waiting at a router, endpoint by endpoint in rotation (R253). -/
def State.localWaiting (s : State) (r cls : Nat) : List Flit :=
  let here := (s.fab.waiting.filter fun w => decide (w.1 = r) && decide (w.2.cls = cls)).map Prod.snd
  let turn := (s.router r).turn
  let nth := here.zipIdx.map fun (f, i) =>
    (f, ((here.take i).filter fun g => decide (g.sep % 16 = f.sep % 16)).length)
  (sortBy (fun (e : Flit × Nat) => 16 * e.2 + (e.1.sep % 16 + 16 - turn) % 16) nth).map Prod.fst

/-- Slots of a class that the attachment of a router has in this FCLK (R244). -/
def State.crossSlots (s : State) (r cls : Nat) : Nat :=
  match attachOf r with
  | some (n, i) =>
    let w := s.linkSlots (4 * n + i)
    if cls = 2 then b2n (decide (s.fab.tick % 2 = 0) && decide (0 < w)) else classSlots s.fab.tick cls w
  | none => 0

/-- Flits of a class that reach a router from its edge switch in this FCLK: the oldest, one for each slot. -/
def State.edgeQueued (s : State) (r cls : Nat) : List Flit :=
  match attachOf r with
  | some (n, i) => (((s.edge n).queues.filter fun q =>
      decide (q.1 = 12 + i) && decide (q.2.cls = cls)).take (s.crossSlots r cls)).map Prod.snd
  | none => []

/-- Put a router's flits where they arrive for the next FCLK: the facing input, or the edge switch. -/
def State.arriveFlit (s : State) (r : Nat) (e : Nat × Flit) : State :=
  match neighbour r e.1 with
  | some m => let x := s.router m
    s.setRouter m { x with arrived := x.arrived ++ [(facing e.1, e.2)] }
  | none => match attachOf r with
    | some (n, i) => s.setEdge n { s.edge n with arrived := (s.edge n).arrived ++ [(12 + i, e.2)] }
    | none => s

/-- Take flits from the queue of a router's attachment. -/
def State.dropQueued (s : State) (r : Nat) (fs : List Flit) : State :=
  match attachOf r with
  | some (n, i) => s.setEdge n { s.edge n with queues := fs.foldl (fun q f => q.erase (12 + i, f)) (s.edge n).queues }
  | none => s

/-- Take the flits of a class that wait at a router, from the attachment's queue and from its endpoints. -/
def State.takeWaiting (s : State) (r cls : Nat) : State :=
  State.dropQueued (s.setFab { s.fab with waiting := s.fab.waiting.filter fun x => decide (x.1 ≠ r) || decide (x.2.cls ≠ cls) })
    r (s.edgeQueued r cls)

/-- Put back, in front, those that were not injected. -/
def State.putWaiting (s : State) (r : Nat) (edge locals : List Flit) : State :=
  let s := s.setFab { s.fab with waiting := locals.map (fun f => (r, f)) ++ s.fab.waiting }
  match attachOf r with
  | some (n, i) => s.setEdge n { s.edge n with queues := edge.map (fun f => (12 + i, f)) ++ (s.edge n).queues }
  | none => s

/-- How long the flits still waiting at a router have waited, from how long they had before (R253). -/
def waitedFor (old : List (Flit × Nat)) (left : List Flit) : List (Flit × Nat) :=
  left.map fun f => (f, ((old.find? fun e => decide (e.1 = f)).map Prod.snd).getD 0 + 1)

/-- Place local flits in turn; answers the endpoint after the last that injected one (R253). -/
def Placing.inject (p : Placing) (r turn : Nat) (locals : List Flit) : Placing × Nat :=
  locals.foldl (fun (a : Placing × Nat) f =>
    let q := a.1.place r .here f
    (q, if q.waits.length = a.1.waits.length then (f.sep + 1) % 16 else a.2)) (p, turn)

/-- One router places one class: carried flit, arrivals, attachment, local endpoints (R251, R253). Answers the state
without the sent flits, and those. `arrived` are the flits of the class that reached the router. -/
def State.placeClass (s : State) (r cls : Nat) (arrived : List (Nat × Flit)) (carried : List Flit) :
    State × List (Nat × Flit) :=
  let edge := s.edgeQueued r cls
  let locals := s.localWaiting r cls
  let p : Placing :=
    { s := s.takeWaiting r cls, free := s.freeSlots r cls, eject := 8, sent := [], carried := [], waits := [] }
  let p := carried.foldl (fun p f => p.place r .mesh f) p
  let p := (sortBy (arrivalRank s.fab.tick 4) arrived).foldl (fun p e => p.place r .mesh e.2) p
  let pe := edge.foldl (fun p f => p.place r .edge f) p
  let pl := Placing.inject { pe with waits := [] } r (s.router r).turn locals
  let st := pl.1.s.putWaiting r pe.waits pl.1.waits
  let x := st.router r
  let waited := (x.waited.filter fun e => decide (e.1.cls ≠ cls)) ++ waitedFor x.waited (pe.waits ++ pl.1.waits)
  (st.setRouter r { x with carried := x.carried ++ pl.1.carried, waited := waited, turn := pl.2 }, pl.1.sent)

/-! ## The dumbwaiter (R271) -/

/-- Route one dumbwaiter flit at a switch point into its output queues, and to its endpoint. `home` answers whether a
copy is ejected here; `outs` are the outputs of its entry. -/
def dwFits (q : List (Nat × Flit)) (outs : List Nat) : Bool :=
  outs.all fun o => decide ((q.filter fun e => decide (e.1 = o)).length < 4)

/-- A dumbwaiter flit reaches a router: its entry's outputs, ejection, or a drop. Ejection adds no hop (R255); a copy whose
DEP is malformed is dropped (R256). -/
def State.dwRoute (s : State) (r : Nat) (f : Flit) (fromHere : Bool) : State :=
  if f.malformed then s.dropFlit r 4 f
  else
    let f := if fromHere then { f with hops := 0, epoch := s.get F.RTEPOCH_CUR 0 } else f
    let g := { f with hops := if fromHere then 0 else f.hops + 1 }
    let e := s.reg .DWENT (2048 * r + 1024 * f.epoch + f.resv % 1024)
    let outs := (List.range 5).filter fun o => bit e o && ((neighbour r o).isSome || (decide (o = 4) && (attachOf r).isSome))
    let x := s.router r
    if !bit e 15 || !dwFits x.dwq outs then s.dropFlit r 5 f
    else
      let s := if !bit e 14 then s
        else if endpointOk f.dep then s.setFab { s.fab with dwIn := s.fab.dwIn ++ [f] }
        else s.dropFlit r 4 f
      if outs.isEmpty then s
      else if s.get F.FABCTL_HOPBUDGET 0 < g.hops then s.dropFlit r 1 g
      else s.setRouter r { s.router r with dwq := (s.router r).dwq ++ outs.map fun o => (o, g) }

/-- The flits of a router's dumbwaiter queues that leave in this FCLK: the oldest of each output that works, in FCLKs whose
lane 0 or lane 8 belongs to the dumbwaiter (R244). -/
def State.dwLeaving (s : State) (r : Nat) : List (Nat × Flit) :=
  let works := fun (o : Nat) => match crossing r o with
    | some u => decide (0 < s.linkSlots u)
    | none => true
  if s.fab.tick % 2 = 0 then ((List.range 5).filter works).filterMap fun o => (s.router r).dwq.find? fun e => decide (e.1 = o)
  else []

/-- Remove the first entry of an output. -/
def dropFirst (o : Nat) : List (Nat × Flit) → List (Nat × Flit)
  | [] => []
  | e :: es => if e.1 = o then es else e :: dropFirst o es

/-! ## All routers, one FCLK -/

/-- An error of a mesh link or attachment in this FCLK (R249): the router that receives it, the position among its
arrivals, those of its attachment last, and whether it is uncorrectable. -/
def State.linkHits (s : State) (hits : List (Nat × Nat × Bool)) : State :=
  hits.foldl (fun u (r, i, fatal) =>
    let x := u.router r
    match x.arrived[i]? with
    | some e =>
      if fatal then (u.setRouter r { x with arrived := x.arrived.eraseIdx i }).dropFlit r 6 e.2
      else u.bump F.FCOUNT_COUNT 7 1
    | none =>
      match (u.edgeQueued r 2 ++ u.edgeQueued r 0 ++ u.edgeQueued r 1)[i - x.arrived.length]? with
      | some f => if fatal then (u.dropQueued r [f]).dropFlit r 6 f else u.bump F.FCOUNT_COUNT 7 1
      | none => u) s

/-- One router's FCLK over the flits that had arrived: the new state and what it sends. -/
def State.placeRouter (s : State) (r : Nat) : State × List (Nat × Nat × Flit) :=
  let x := s.router r
  let of := fun c => x.arrived.filter fun e => decide (e.2.cls = c)
  let had := fun c => x.carried.filter fun f => decide (f.cls = c)
  let s := s.setRouter r { x with arrived := [], carried := [] }
  let s := (x.arrived.filter fun e => decide (3 ≤ e.2.cls)).foldl (fun u e => u.dropFlit r 4 e.2) s
  let s := (of 2).foldl (fun u e => u.dwRoute r e.2 false) s
  let edgeDw := s.edgeQueued r 2
  let mine := (s.fab.waiting.filter fun w => decide (w.1 = r) && decide (w.2.cls = 2)).map Prod.snd
  let s := mine.foldl (fun u f => u.dwRoute r f true)
    (edgeDw.foldl (fun u f => u.dwRoute r f false) (s.takeWaiting r 2))
  let out := s.dwLeaving r
  let y := s.router r
  let s := s.setRouter r { y with dwq := out.foldl (fun q e => dropFirst e.1 q) y.dwq }
  let a := s.placeClass r 0 (of 0) (had 0)
  let b := a.1.placeClass r 1 (of 1) (had 1)
  (b.1, (out ++ a.2 ++ b.2).map fun e => (r, e.1, e.2))

/-- R251: every router places what had reached it; what it sends arrives for the next FCLK. -/
def State.fclk (s : State) : State :=
  let r := (List.range 64).foldl (fun (a : State × List (Nat × Nat × Flit)) r =>
    let b := a.1.placeRouter r
    (b.1, a.2 ++ b.2)) (s, [])
  let s := r.2.foldl (fun u e => u.arriveFlit e.1 (e.2.1, e.2.2)) r.1
  s.setFab { s.fab with tick := s.fab.tick + 1 }

/-- The fabric runs in the states that keep base dies powered and out of reset (R474). -/
def State.fabricOn (s : State) : Bool :=
  let p := s.get F.PWRSTAT_STATE 0
  decide (2 ≤ p) && decide (p ≤ 7)

/-- ROUTER_PLACEMENT: one FCLK of the mesh. `hits` are the link errors of this FCLK (R249). -/
def execRouterPlacement (hits : List (Nat × Nat × Bool)) (s : State) : Out :=
  .next (if s.fabricOn then (s.linkHits hits).fclk else s)

/-! ## Edge switches (R254) -/

/-- The link layer of local port k of edge switch n; cube bundles and fixed-bundle ports alike. -/
def State.link (s : State) (n k : Nat) : Link := SMap.get Link.reset s.fab.links (12 * n + k)
def State.setLink (s : State) (n k : Nat) (l : Link) : State :=
  s.setFab { s.fab with links := SMap.set Link.reset s.fab.links (12 * n + k) l }

/-- The ports of a hot edge die carry flits in every second block, those of even BSEQ (Table 14-3). -/
def State.edgeHot (s : State) (n : Nat) : Bool := bit (SMap.get 0 s.power.trips (24 + n)) 1

/-- A port is busy while it sends an EMPTY block because its die is hot (Table 14-3). -/
def State.emptyTurn (s : State) (n k : Nat) : Bool := s.edgeHot n && decide ((s.link n k).next % 2 = 1)

/-- A queue takes a flit: its port is up with room in the replay buffer, or its attachment works; 8 flits per class, 4
for the dumbwaiter (R248, R254, R271). The bridge takes none while no twin is there (R416). -/
def State.queueOpen (s : State) (n k cls : Nat) : Bool :=
  (if k < 12 then s.localUp n k && decide ((s.link n k).kept.length < 64) && !s.emptyTurn n k
      && (s.twin.present || decide (k ≠ 10) || decide (2 ≤ n))
   else decide (0 < s.linkSlots (4 * n + (k - 12)))) &&
  decide (((s.edge n).queues.filter fun q => decide (q.1 = k) && decide (q.2.cls = cls)).length
    < if cls = 2 then 4 else 8)

/-- An edge attachment is fenced, with effect (R399, Table 15-2). -/
def State.attFenced (s : State) (u : Nat) : Bool := bit (s.get F.FENCEOTH_ATT 0) u && !s.power.late.contains (3 * 2 ^ 16 + u)

/-- The queue of the attachment of edge die `n` nearest a row, a tie to the lower; a fenced one is no longer used (R250,
Table 15-2). -/
def State.nearestAttach (s : State) (n row : Nat) : Nat :=
  let far := fun (i : Nat) => 4 * (n / 2) + i - row + (row - (4 * (n / 2) + i))
  let works := (List.range 4).filter fun i => !s.attFenced (4 * n + i)
  12 + ((works.find? fun i => works.all fun k => decide (far i ≤ far k)).getD 0)

/-- The queues an edge switch holds productive for a flit; `none` where its entry routes nothing. -/
def State.edgeProductive (s : State) (n : Nat) (f : Flit) : Option (List Nat) :=
  if s.isOwn f.ddev then some [s.nearestAttach n (f.dep / 16 / 8)]
  else if s.bridged f then
    if s.bridgeDies.contains n then some [10] else if s.bridgeDies.isEmpty then none else some [12, 13, 14, 15]
  else
    let e := s.reg .RTENT (512 * (64 + n) + 256 * f.epoch + f.ddev)
    let outs := ((List.range 12).filter fun k => bit e k) ++ (if bit e 12 then [12, 13, 14, 15] else [])
    if bit e 15 && !outs.isEmpty then some outs else none

/-- Queues a flit may be deflected to: any, but twin traffic keeps to the bridge and the mesh (R254, R417). -/
def State.deflections (s : State) (n : Nat) (f : Flit) : List Nat :=
  if s.bridged f then (if n < 2 then [10] else []) ++ [12, 13, 14, 15] else List.range 16

/-- Place one flit of class request or reply at an edge switch. -/
def State.placeEdge (s : State) (n : Nat) (f : Flit) : State :=
  let sp := 64 + n
  if f.malformed then s.dropFlit sp 4 f
  else
    let g := { f with hops := f.hops + 1 }
    if s.get F.FABCTL_HOPBUDGET 0 < g.hops then s.dropFlit sp 1 g
    else match s.edgeProductive n g with
      | none => s.dropFlit sp 2 g
      | some outs =>
        let put := fun (u : State) k => u.setEdge n { u.edge n with queues := (u.edge n).queues ++ [(k, g)] }
        match outs.find? fun k => s.queueOpen n k g.cls with
        | some k => put s k
        | none => match (s.deflections n g).find? fun k => s.queueOpen n k g.cls with
          | some k => put (s.bump F.FCOUNT_COUNT 0 1) k
          | none => s.dropFlit sp 3 g

/-- Place one dumbwaiter flit at an edge switch (R271). -/
def State.placeEdgeDw (s : State) (n : Nat) (f : Flit) : State :=
  let sp := 64 + n
  let g := { f with hops := f.hops + 1 }
  if f.malformed then s.dropFlit sp 4 f else
  let e := s.reg .DWENT (2048 * sp + 1024 * f.epoch + f.resv % 1024)
  let mesh := s.nearestAttach n (if s.isOwn f.ddev then f.dep / 16 / 8 else 0)
  let outs := ((List.range 12).filter fun k => bit e k) ++ (if bit e 12 then [mesh] else [])
  if s.get F.FABCTL_HOPBUDGET 0 < g.hops then s.dropFlit sp 1 g
  else if !bit e 15 || !(outs.all fun k => s.queueOpen n k 2) then s.dropFlit sp 5 g
  else s.setEdge n { s.edge n with queues := (s.edge n).queues ++ outs.map fun k => (k, g) }

/-- Take up to `m` flits of a class from a port's queue. -/
def takeQueue (q : List (Nat × Flit)) (k cls m : Nat) : List Flit :=
  ((q.filter fun e => decide (e.1 = k) && decide (e.2.cls = cls)).take m).map Prod.snd

/-- The flits of the next block of a port by position (R245). -/
def blockFlits (q : List (Nat × Flit)) (k bseq : Nat) : List Flit :=
  let pad := fun (fs : List Flit) m => fs ++ List.replicate (m - fs.length) Flit.empty
  let half := fun (cls : Nat) (dw : Bool) =>
    if dw then pad (takeQueue q k 2 1) 1 ++ pad (takeQueue q k cls 3) 3 else pad (takeQueue q k cls 4) 4
  half 0 (decide (bseq % 8 = 0)) ++ half 1 (decide (bseq % 8 = 4))

/-! ## Blocks on the lanes (R246, R273, R276, R291) -/

def laneIx (p k : Nat) : Nat := 16 * p + k
def State.lstate (s : State) (p k : Nat) : Nat := s.get F.LANESTAT_LSTATE (laneIx p k)

/-- The port that carries cube lane x of a die: the spare's, once it has taken over (R274). -/
def State.cubePort (s : State) (n x : Nat) : Nat := s.rolePort n (x / 16)

/-- The cube lanes of bundle b of a die in a plan. -/
def State.planLanes (s : State) (p n b : Nat) : List Nat :=
  (List.range 96).filter fun x => decide (s.get F.PLLANE_BUNDLE (384 * p + 96 * n + x) = b)

/-- The UP lanes of a bundle of a plan, as port and slot; those of a closed output gate carry nothing (R285, R291). -/
def State.bundleUps (s : State) (p n b : Nat) : List (Nat × Nat) :=
  ((s.planLanes p n b).map fun x => (s.cubePort n x, x % 16)).filter fun l =>
    decide (s.lstate l.1 l.2 = 2) && !s.shut.contains l.1

/-- The lanes of a local port by LIDX: the UP lanes in ascending slot order (R273), of a bundle in ascending cube-lane order
(DESIGN CHOICE, log 58). -/
def State.laneList (s : State) (n k : Nat) : List (Nat × Nat) :=
  if k < 6 then s.bundleUps (s.get F.CPCUR_CUR 0) n k
  else ((List.range 16).filter fun i => decide (s.lstate (s.rolePort n k) i = 2)).map fun i => (s.rolePort n k, i)

/-- The bits of bytes, each byte from its most significant bit as training frames go (DESIGN CHOICE, log 58). -/
def bytesBits (bs : List Byte) : List Bool := bs.flatMap fun b => (List.range 8).map fun i => b.toNat.testBit (7 - i)

/-- Data bits of one lane in a superframe (R275). -/
def laneBits : Nat := 15232

/-- Bit b of a bundle's stream goes to the lane with LIDX b mod w, with the PRBS31 bit of its place in the superframe added
(R276). The bits begin `pos` bits into the stream. -/
def stripe (w pos : Nat) (bits : List Bool) : List (List Bool) :=
  let prbs := prbsBits laneBits (2 ^ 31 - 1)
  (List.range w).map fun l => bits.zipIdx.filterMap fun (x, i) =>
    if (pos + i) % w = l then some (x != prbs.getD ((pos + i) / w % laneBits) false) else none

/-- A port sends blocks: the first trailer carries a due NAK, each one BACK (R247). -/
def Link.transmit (l : Link) (w : Nat) (bs : List Block) : Link :=
  let back := (l.expect + 255) % 256
  let outs := bs.zipIdx.map fun (b, i) => ({ block := b, back := back, nak := l.nak && decide (i = 0) } : BlockOut)
  let bits := outs.flatMap fun o => bytesBits (o.block.bytes o.back o.nak)
  { l with nak := l.nak && bs.isEmpty, sent := outs, lanes := stripe w l.pos bits, pos := (l.pos + bits.length) % (laneBits * w) }

/-- An up port sends its next block (R245 to R247). With 64 blocks unacknowledged it sends an EMPTY block, which is not kept;
its BSEQ is a free value, the specification gives none (R248, log 58). A hot die's ports send EMPTY blocks between (Table
14-3). -/
def State.sendBlock (s : State) (n k : Nat) : State :=
  let l := s.link n k
  let w := (s.laneList n k).length
  if !s.localUp n k then s
  else if 64 ≤ l.kept.length then
    let d := s.draw
    d.2.setLink n k (l.transmit w [{ bseq := d.1 % 256, flits := List.replicate 8 Flit.empty }])
  else
    let fs := if s.emptyTurn n k then List.replicate 8 Flit.empty else blockFlits (s.edge n).queues k l.next
    let q := fs.foldl (fun q f => if f.kind = 0 then q else q.erase (k, f)) (s.edge n).queues
    let s := s.setEdge n { s.edge n with queues := q }
    let b : Block := { bseq := l.next, flits := fs }
    s.setLink n k { l.transmit w [b] with next := (l.next + 1) % 256, kept := l.kept ++ [b] }

/-- EDGE_SWITCH_PLACEMENT: edge switch n places what has arrived, and each up port sends one block. Host-link kinds come over
a host-link port, or over the bridge unless both modules claim one role (R418, R456). -/
def execEdgeSwitchPlacement (n : Nat) (hits : List (Nat × Bool)) (s : State) : Out :=
  within n 4 <| .next <|
    if !s.fabricOn then s
    else
      let s := hits.foldl (fun u (i, fatal) =>
        match (u.edge n).arrived[i]? with
        | none => u
        | some e =>
          if e.1 < 12 then u
          else if fatal then (u.setEdge n { u.edge n with arrived := (u.edge n).arrived.eraseIdx i }).dropFlit (64 + n) 6 e.2
          else u.bump F.FCOUNT_COUNT 7 1) s
      let x := s.edge n
      let mine := (s.fab.waiting.filter fun w => decide (w.1 = 64 + n)).map Prod.snd
      let s := s.setFab { s.fab with waiting := s.fab.waiting.filter fun w => decide (w.1 ≠ 64 + n) }
      let s := s.setEdge n { x with arrived := [] }
      let bad := fun (e : Nat × Flit) => decide (3 ≤ e.2.cls) || (decide (24 ≤ e.2.kind) && decide (e.1 < 12)
        && (decide (e.1 ≠ 10) || (decide (n < 2) && decide (s.get F.TWINSTAT_CONFLICT 0 = 1))))
      let s := (x.arrived.filter bad).foldl (fun u e => u.dropFlit (64 + n) 4 e.2) s
      let s := (x.arrived.filter fun e => decide (e.2.cls = 2)).foldl (fun u e => u.placeEdgeDw n e.2) s
      let order := sortBy (arrivalRank s.fab.tick 16)
        (x.arrived.filter (fun e => decide (e.2.cls ≤ 1) && !bad e) ++ mine.map fun f => (15, f))
      let s := order.foldl (fun u e => u.placeEdge n e.2) s
      (List.range 12).foldl (fun u k => u.sendBlock n k) s

/-! ## The link layer (R247, R248) -/

/-- BACK names a kept block: it and the earlier ones are released (R247). -/
def Link.release (l : Link) (back : Nat) : Link :=
  match l.kept.findIdx? fun b => decide (b.bseq = back) with
  | some i => { l with kept := l.kept.drop (i + 1), replays := 0 }
  | none => l

/-- LINK_BLOCK_RECEIVED: `block` is the 392 bytes as received (R246, R247). -/
def execLinkBlockReceived (n k : Nat) (block : List Byte) (s : State) : Out :=
  within n 4 <| within k 12 <| .next <|
    if !s.fabricOn || !s.localUp n k then s
    else
      let b := BlockIn.ofBytes block
      let l := s.link n k
      if b.good && decide (b.bseq = l.expect) then
        let l := Link.release { l with expect := (l.expect + 1) % 256, nak := false } b.back
        let s := s.setLink n k { l with asked := l.asked || b.nak }
        let x := s.edge n
        s.setEdge n { x with arrived := x.arrived ++ ((b.flits.filter fun f => decide (f.kind ≠ 0)).map fun f => (k, f)) }
      else (s.setLink n k { l with nak := true }).bump F.FREPLAY_BADBLK (s.rolePort n k) 1

/-- A replay: every kept block goes again; each 256 replays cost the port one penalty (R247, Table 15-6). -/
def State.replay (s : State) (n k : Nat) : State :=
  let p := s.rolePort n k
  let l := s.link n k
  let s := s.bump F.FREPLAY_REPLAY p 1
  let s := if s.get F.FREPLAY_REPLAY p % 256 = 0 then s.penalise 2 p 1 else s
  s.setLink n k { l.transmit (s.laneList n k).length l.kept with asked := false, replays := l.replays + 1 }

/-- RTEPOCH_FLIP's acceptance: every switch point uses the idle epoch and the hold begins (R269). -/
def State.flipEpoch (s : State) : State :=
  let s := s.put F.RTEPOCH_CUR 0 (1 - s.get F.RTEPOCH_CUR 0)
  (s.put F.RTEPOCH_PENDING 0 0).put F.RTEPOCH_HOLD 0 1

/-- A FLIP that meets the hold is refused (R269). -/
def State.epochBusy (s : State) : State := (s.put F.RTEPOCH_EPBUSY 0 1).log .epochBusy 0 []

/-- A FLIP request (R269): PENDING until RTEPOCH_FLIP, or refused while the hold runs. -/
def State.requestFlip (s : State) : State :=
  if s.get F.RTEPOCH_HOLD 0 = 1 then s.epochBusy else s.put F.RTEPOCH_PENDING 0 1

/-- RTEPOCH_FLIP: the requested flip reaches every switch point (R269). -/
def execRtepochFlip (s : State) : Out :=
  .next (if s.get F.RTEPOCH_PENDING 0 = 1 then s.flipEpoch else s)

/-- EPOCH_HOLD_END: the old epoch is idle again (R269). -/
def execEpochHoldEnd (s : State) : Out := .next (s.put F.RTEPOCH_HOLD 0 0)

end Sys2Proof.Machine
end

