-- ==== Sys2Proof/Machine/HostOps.lean ====
section
/-! DEFINITION. What the host link's commands share (chapter 18): paths, messages to the KA-2, completions and their
records, and the progress of DMA and fill. -/

namespace Sys2Proof.Machine

/-! ## Status codes (Table 18-6) -/

def stOK : Nat := 0
def stFAULT : Nat := 1
def stBADCMD : Nat := 2
def stBADFIELD : Nat := 3
def stCTX_BUSY : Nat := 4
def stINTEGRITY : Nat := 5
def stCRUST : Nat := 6
def stNUM_INVALID : Nat := 7
def stNUM_MISMATCH : Nat := 8
def stMIRWIN : Nat := 0x0A
def stSHADOW : Nat := 0x0B
def stHOSTWINDOW : Nat := 0x0C
def stADDRESS : Nat := 0x0D
def stMEMERR : Nat := 0x0E
def stHOSTLINK : Nat := 0x0F
def stRESET : Nat := 0x10
def stDRAINED : Nat := 0x11
def stSEGMENT : Nat := 0x12

/-! ## Message kinds (Table 18-1) -/

def kREGRD : Nat := 0x18
def kREGWR : Nat := 0x19
def kDMARD : Nat := 0x1A
def kDMAWR : Nat := 0x1B
def kINTR : Nat := 0x1C
def kFLUSH : Nat := 0x1D
def kDATA : Nat := 0x1E
def kDONE : Nat := 0x1F

/-- The KA-2's device number on the link (R456). -/
def ka2 : Nat := 0xFF

/-! ## Paths (R467) -/

/-- The host-link port of ED2 (P42) or ED3 (P43) is UP. -/
def State.hostPortUp (s : State) (die : Nat) : Bool :=
  let p := 40 + die
  let here := if s.get F.SPARE_TAKEN die = 1 ∧ s.get F.SPARE_TARGET die = 10 then 44 + die else p
  decide (s.get F.PORTSTAT_STATE here = 3) && !s.shut.contains here

/-- Some path to the host is there: a port of its own, or the twin's (R432). -/
def State.hostPath (s : State) : Bool :=
  s.hostPortUp 2 || s.hostPortUp 3 || decide (s.get F.TWINSTAT_FAILOVER 0 = 1)

/-- The edge die a queue's traffic should leave by (R467). -/
def State.wantDie (s : State) (q : Nat) : Nat :=
  match s.hostPortUp 2, s.hostPortUp 3 with
  | true, false => 2
  | false, true => 3
  | _, _ => 2 + q % 2

/-- The edge die a queue's traffic is bound to; a queue that has carried none is not yet bound. -/
def State.queueDie (s : State) (q : Nat) : Nat :=
  match SMap.get 0 s.host.qdie q with
  | 0 => s.wantDie q
  | d + 1 => d

def State.bindQueue (s : State) (q die : Nat) : State :=
  { s with host := { s.host with qdie := SMap.set 0 s.host.qdie q (die + 1) } }

/-! ## Messages to the KA-2 -/

/-- The stream from an edge die's interface endpoint to the KA-2. The manual gives the KA-2's endpoint no number; the
module uses its own (log entry 50). -/
def hostStream (die cls : Nat) : StreamKey := { ep := edgeEp die, dev := ka2, far := edgeEp die, cls := cls }

/-- The least TAG without an unanswered request on a port. -/
def State.hostTag (s : State) (die : Nat) : Option Nat :=
  (List.range 256).find? fun t => s.host.reqs.all fun r => decide (r.die ≠ die) || decide (r.tag ≠ t)

/-- Send a request to the KA-2 and await its DATA or DONE. -/
def State.hostSend (s : State) (die kind : Nat) (what : HWhat) (data : List Byte) : State :=
  match s.hostTag die with
  | none => s
  | some t =>
    let r : HReq := { die := die, tag := t, what := what }
    let s := { s with host := { s.host with reqs := s.host.reqs ++ [r] } }
    s.post (hostStream die 0) s.dev kind 0 t data none

/-- Answer a request of the KA-2. -/
def State.hostAnswer (s : State) (m : InMsg) (kind : Nat) (data : List Byte) : State :=
  let k : StreamKey := { m.key with cls := 1 }
  s.post k s.dev kind m.hint m.tag data none

/-! ## Commands and their records -/

def State.setHost (s : State) (h : HostLink) : State := { s with host := h }

def State.hostCmd (s : State) (id : Nat) : Option HostCmd := s.host.cmds.find? fun c => decide (c.id = id)

def State.setCmd (s : State) (c : HostCmd) : State :=
  s.setHost { s.host with cmds := s.host.cmds.map fun x => if x.id = c.id then c else x }

/-- KIND of an entry (Table 18-2). -/
def HostCmd.kind (c : HostCmd) : Nat := bits c.entry 7 0

/-- A completion record with PHASE 0 (Table 18-5). -/
def HostCmd.record (c : HostCmd) (status : Nat) : List Byte :=
  let f := if status = stFAULT then c.report else none
  let fc := match f with
    | some (_, _, r) => b2n r.inh * 2 ^ 15 + b2n r.unit * 2 ^ 8 + r.cause.toNat
    | none => 0
  let ft := match f with
    | some (t, l, _) => b2n l * 2 ^ 15 + t
    | none => 0
  let info := match f with
    | some (_, _, r) => r.info.toNat
    | none => c.info
  let pc := match f with
    | some (_, _, r) => r.pc.toNat
    | none => 0
  leBytes 2 c.index ++ leBytes 1 c.queue ++ leBytes 1 status ++ leBytes 2 fc ++ leBytes 2 ft ++ leBytes 8 info
    ++ leBytes 6 pc ++ leBytes 2 (min c.nfault 65535) ++ leBytes 4 c.started ++ leBytes 4 0

/-- A command completes: its record waits for the ring of its queue (R462). -/
def State.complete (s : State) (c : HostCmd) (status : Nat) : State :=
  let r : HRec := { ring := s.get F.SQCFG_CQ c.queue, queue := c.queue, data := c.record status, sent := false }
  s.setHost { s.host with cmds := s.host.cmds.filter fun x => decide (x.id ≠ c.id), recs := s.host.recs ++ [r] }

/-- A context has ended (R72, R87): its launch counts it, reports the fault of the lowest faulting tile (R464), and
arrives at its counter under CARR (R461); an overflow there names UNIT 0x07FF, of which R46 says nothing for a context's end
(DESIGN CHOICE, log 57). A tile without a launched context holds no balance (R371). -/
def State.endContext (s : State) (t : Nat) (c : Ctxt) : State :=
  let x := s.ctx t c
  let s := s.setCtx t c { x with run := .ended, stall := .none, held := none }
  let s := if x.endFault.isSome then s.log .contextFault t [] else s
  let y := s.tile t
  let idle := fun (z : Ctx) => decide (z.run = .idle) || decide (z.run = .ended)
  let s := if idle y.ctxF && idle y.ctxL then s.setTile t { y with credit := 0, want := 0 } else s
  match x.launch.bind s.hostCmd with
  | none => s
  | some k =>
    let first := match k.report with
      | some (u, _, _) => decide (t < u)
      | none => true
    let k' := { k with left := k.left - 1, nfault := k.nfault + b2n x.endFault.isSome,
                       report := match x.endFault with
                         | some f => if first then some (t, decide (c = .L), f) else k.report
                         | none => k.report }
    let s := s.setCmd k'
    if bit k.entry 11 then s.arriveAt 0x7FF (bits k.entry 47 32) 1 (bits k.entry 27 24) else s

/-- CONTEXT_ENDED: a stopped context whose instructions have all completed or faulted has ended (R72, R87). -/
def execContextEnded (tile : Nat) (ctx : Ctxt) (s : State) : Out :=
  within tile Config.tiles <| .next <|
    let x := s.ctx tile ctx
    if x.run = .stopping ∧ s.quiet tile ctx ∧ x.held.isNone then s.endContext tile ctx else s

/-- Records a ring holds on the module. -/
def State.held (s : State) (r : Nat) : Nat := (s.host.recs.filter fun x => decide (x.ring = r)).length

/-! ## Host memory -/

/-- Fields of a DMA or FILL entry (Table 18-7). -/
def dmaHost (e : Nat) : Nat := bits e 127 64
def dmaDev (e : Nat) : Nat := bits e 191 128
def dmaLen (e : Nat) : Nat := bits e 255 192
def dmaHint (e : Nat) : Nat := bits e 11 9

/-- The next piece of a DMA: at most `lim` bytes inside one 256-byte block of the host address. -/
def nextPiece (e pos lim : Nat) : Nat := min (min (dmaLen e - pos) lim) (256 - (dmaHost e + pos) % 256)

/-- A command stops with a status (R465). -/
def State.stopCmd (s : State) (c : HostCmd) (status info : Nat) : State :=
  s.setCmd { c with status := status, info := info, pos := dmaLen c.entry }

/-- Send a piece of a DMA_OUT, up to a failing sector; the command stops where the piece would begin with one (R465). -/
def State.dmaOut (s : State) (c : HostCmd) (n : Nat) : State :=
  let a := dmaDev c.entry + c.pos
  let r := s.devRead a n (dmaHint c.entry) 0
  let send := fun (u : State) (bs : List Byte) =>
    u.hostSend (u.queueDie c.queue) kDMAWR (.dmaOut c.id bs.length) (leBytes 8 (dmaHost c.entry + c.pos) ++ bs)
  match r.2 with
  | .ok bs => send r.1 bs
  | .error f =>
    let k := f.2 / 32 * 32 - a
    if k = 0 then r.1.stopCmd c stMEMERR (f.2 / 32 * 32)
    else
      let q := s.devRead a k (dmaHint c.entry) 0
      match q.2 with
      | .ok bs => send q.1 bs
      | .error g => q.1.stopCmd c stMEMERR (g.2 / 32 * 32)

/-- Ask for, or send, the next piece of a DMA command (R465). -/
def State.dmaStep (s : State) (id : Nat) : State :=
  match s.hostCmd id with
  | none => s
  | some c =>
    let e := c.entry
    if c.status ≠ stOK ∨ dmaLen e ≤ c.pos then s
    else if c.kind = 2 then
      let n := nextPiece e c.pos 256
      s.hostSend (s.queueDie c.queue) kDMARD (.dmaIn id c.pos n) (leBytes 8 (dmaHost e + c.pos) ++ leBytes 2 n)
    else if c.kind = 3 then s.dmaOut c (nextPiece e c.pos 248)
    else s

/-- FILL: granule by granule until the range ends, a sector fails or a mirrored write must wait; fuel `f` (R465). -/
def State.fillGo (id : Nat) : Nat → State → State
  | 0, s => s
  | f + 1, s =>
    match s.hostCmd id with
    | none => s
    | some c =>
      let e := c.entry
      let a := dmaDev e + c.pos
      let n := min (dmaLen e - c.pos) (128 - a % 128)
      if c.status ≠ stOK ∨ n = 0 ∨ s.mirrorFull a n then s
      else
        let bs := (List.range n).map fun i => BitVec.ofNat 8 (dmaHost e / 2 ^ (8 * ((c.pos + i) % 8)))
        let r := s.devWrite a bs (dmaHint e) 0 none
        match r.2 with
        | some x => r.1.stopCmd c stMEMERR (x.2 / 32 * 32)
        | none => State.fillGo id f (r.1.setCmd { c with pos := c.pos + n })

/-- A record that was not written is kept: its slot is free again, and PHASE goes back with TAIL (R462). -/
def State.recordBack (s : State) (r : Nat) : State :=
  let n := 2 ^ s.get F.CQCFG_LOG2N r
  let t := s.get F.CQDB_TAIL r
  let ph := SMap.get 0 s.host.phase r
  let s := s.setHost { s.host with
    recs := s.host.recs.map (fun (x : HRec) => if x.ring = r then { x with sent := false } else x),
    phase := if t = 0 then SMap.set 0 s.host.phase r (1 - ph) else s.host.phase }
  s.put F.CQDB_TAIL r ((t + n - 1) % n)

/-- The slot of an event record that was not written is free again. -/
def State.eventBack (s : State) : State :=
  let n := 2 ^ s.get F.EVRCFG_LOG2N 0
  let t := s.get F.EVRSTAT_TAIL 0
  let s := s.setHost { s.host with evSent := none, evPhase := if t = 0 then 1 - s.host.evPhase else s.host.evPhase }
  s.put F.EVRSTAT_TAIL 0 ((t + n - 1) % n)

/-- A host request ends without delivery (R263): its command ends HOSTLINK; a record or event waits for a path. A reply that
fails ends nothing here. -/
def State.hostFailed (s : State) (m : OutMsg) : State :=
  match s.host.reqs.find? fun r => decide (m.key.cls = 0) && decide (edgeEp r.die = m.key.ep) && decide (r.tag = m.tag) with
  | none => s
  | some r =>
    let s := s.setHost { s.host with reqs := s.host.reqs.filter fun x => decide (x ≠ r) }
    match r.what with
    | .dmaIn id _ _ | .dmaOut id _ =>
      match s.hostCmd id with
      | some c => s.stopCmd c stHOSTLINK 0
      | none => s
    | .record ring => s.recordBack ring
    | .event =>
      match s.host.evSent with
      | some e => s.eventBack.setHost { s.eventBack.host with events := e :: s.eventBack.host.events }
      | none => s
    | .flush q => s.bindQueue q (s.wantDie q)
    | .intr => s

end Sys2Proof.Machine
end

