-- ==== Sys2Proof/Machine/Atomic.lean ====
section
/-! DEFINITION. Atomics on device memory (chapter 13, Table 13-1) and their combining registers (R363). -/

namespace Sys2Proof.Machine

/-- Cut bytes into little-endian lanes of `w` bytes. -/
def lanesOf (w : Nat) (bs : List Byte) : List Nat :=
  (List.range (bs.length / w)).map fun i => leValue ((bs.drop (w * i)).take w)

/-- The new lane of add, min and max (Table 13-1). -/
def atomLaneOp (aop w old x : Nat) : Nat :=
  match aop with
  | 0 => (old + x) % 2 ^ (8 * w)
  | 1 => if sext (8 * w) x < sext (8 * w) old then x else old
  | _ => if sext (8 * w) old < sext (8 * w) x then x else old

/-- The bytes an atomic leaves for old bytes and its operand (Table 13-1). -/
def atomNew (aop atype : Nat) (old operand : List Byte) : List Byte :=
  let n := old.length
  match aop with
  | 3 => operand.take n
  | 4 => if operand.take n = old then (operand.drop n).take n else old
  | _ =>
    let w := atomLane atype
    (List.zipWith (atomLaneOp aop w) (lanesOf w old) (lanesOf w operand)).flatMap (leBytes w)

/-- Bytes of the operand (Table 13-1). -/
def atomOperandBytes (aop size : Nat) : Nat := if aop = 4 then 2 * size else size

/-- The alignment an atomic's target address needs (R350). -/
def atomAlign (aop atype size : Nat) : Nat := if aop ≤ 2 then atomLane atype else if aop = 4 then size else 1

/-- A bank has four combining registers: folding the least recently used makes room (R363). -/
def State.combRoom (s : State) (bank : Nat) : State :=
  let here := s.mem.combs.filter fun (c : Comb) => decide (c.bank = bank)
  if here.length < 4 then s
  else match here.find? fun (c : Comb) => here.all fun (d : Comb) => decide (c.used ≤ d.used) with
    | some c => s.foldComb c
    | none => s

def Mem.combAt (m : Mem) (sk : Nat) : Option Comb := m.combs.find? fun (c : Comb) => decide (c.sector = sk)

/-- R363: an SX add whose line is cached goes to a combining register of that sector and that ATYPE. -/
def State.combine (s : State) (ch q o w : Nat) (operand : List Byte) : State :=
  let sk := sectorKey ch q (o / 32)
  let bank := 16 * channelDie ch + cacheSet ch q % 16
  let s1 := match s.mem.combAt sk with
    | some c => if c.w64 = decide (w = 8) then s else (s.foldComb c).combRoom bank
    | none => s.combRoom bank
  let base : List Nat := match s1.mem.combAt sk with
    | some c => c.lanes
    | none => List.replicate (32 / w) 0
  let k := o % 32 / w
  let ls := lanesOf w operand
  let new := base.zipIdx.map fun (e : Nat × Nat) =>
    if k ≤ e.2 ∧ e.2 < k + ls.length then (e.1 + ls.getD (e.2 - k) 0) % 2 ^ (8 * w) else e.1
  let rest := s1.mem.combs.filter fun (c : Comb) => decide (c.sector ≠ sk)
  let c : Comb := { sector := sk, bank := bank, w64 := decide (w = 8), lanes := new, used := s1.mem.clock }
  { s1 with mem := { s1.mem with combs := rest ++ [c], clock := s1.mem.clock + 1 } }

/-- Apply an atomic of `size` bytes to device memory at its sector's ordering point (R348, R350): the old bytes, or the
fault of a failing sector. -/
def State.atomic (s : State) (d size aop atype ret : Nat) (operand : List Byte) (hint src : Nat)
    (who : Option (Nat × Ctxt × Nat)) : State × Except FaultAt (List Byte) :=
  let (ch, q, o) := s.place d
  let w := atomLane atype
  if aop = 0 ∧ 2 ≤ atype ∧ ret = 0 ∧ (s.mem.line (lineKey ch q)).isSome ∧ ¬ s.stackFenced ch then
    let s := (s.combine ch q o w operand).bump F.RMCOUNT_COUNT 3 1
    (s, .ok [])
  else
    let r := s.devRead d size hint src
    match r.2 with
    | .error e => (r.1, .error e)
    | .ok old =>
      let v := r.1.devWrite d (atomNew aop atype old operand) hint src who
      match v.2 with
      | some e => (v.1, .error e)
      | none => (v.1, .ok old)

end Sys2Proof.Machine
end

