-- ==== Sys2Proof/Machine/Blocks.lean ====
section
/-! DEFINITION. Reduction blocks as bytes (R116 to R119, R334, R335) and block top-k (R194). -/

namespace Sys2Proof.Machine

/-- An SX block (Table 4-7): agreed exponent, MAXE, OVFM, THIN, special codes and element integers. -/
structure SxBlock where
  e : Int
  maxe : Int
  ovfm : Bool
  thin : Bool
  codes : List Nat
  ns : List Int
deriving DecidableEq, Repr

/-- Element width in bytes. -/
def sxW (w64 : Bool) : Nat := if w64 then 8 else 4

/-- Size of a dense block (R116). -/
def sxSize (w64 : Bool) : Nat := if w64 then 272 else 144

/-- Size of a thinned block by J (Table 12-3). -/
def thinSize (w64 : Bool) (j : Nat) : Nat := if w64 then 24 + 8 * j else (20 + 4 * j + 7) / 8 * 8

/-- The 16 header bytes of Table 4-7. -/
def SxBlock.header (b : SxBlock) : List Byte :=
  leBytes 2 (wrapInt 16 b.e) ++ leBytes 2 (if b.ovfm then wrapInt 16 b.maxe else 0)
    ++ leBytes 1 (b2n b.ovfm + 2 * b2n b.thin) ++ leBytes 3 0 ++ leBytes 8 (packElems 2 b.codes)

/-- A dense block's bytes. -/
def SxBlock.bytes (w64 : Bool) (b : SxBlock) : List Byte :=
  b.header ++ b.ns.flatMap fun n => leBytes (sxW w64) (wrapInt (8 * sxW w64) n)

/-- Read a header; element integers are filled by the caller. -/
def SxBlock.ofHeader (bs : List Byte) : SxBlock :=
  let h := leValue (bs.take 16)
  { e := sext 16 h, maxe := sext 16 (bits h 31 16), ovfm := bit h 32, thin := bit h 33,
    codes := (List.range 32).map fun k => bits h (64 + 2 * k + 1) (64 + 2 * k), ns := [] }

/-- Read a dense block. -/
def SxBlock.dense (w64 : Bool) (bs : List Byte) : SxBlock :=
  let w := sxW w64
  { SxBlock.ofHeader bs with
    ns := (List.range 32).map fun k => sext (8 * w) (leValue ((bs.drop (16 + w * k)).take w)) }

/-- MASK of a thinned block. -/
def thinMask (bs : List Byte) : Nat := leValue ((bs.drop 16).take 4)

/-- Number of set bits of a 32-bit mask. -/
def maskCount (m : Nat) : Nat := (List.range 32).foldl (fun a i => a + b2n (bit m i)) 0

/-- The values of a thinned block's set mask bits, spread over the 32 elements (R335). -/
def spread (m : Nat) : Nat → List Int → Nat → List Int
  | 0, _, _ => []
  | n + 1, vs, k =>
    if bit m k then
      match vs with
      | v :: vs => v :: spread m n vs (k + 1)
      | [] => 0 :: spread m n [] (k + 1)
    else 0 :: spread m n vs (k + 1)

/-- Expand a thinned block from the start of its slot (R335). -/
def SxBlock.expand (w64 : Bool) (bs : List Byte) : SxBlock :=
  let w := sxW w64
  let lo := if w64 then 24 else 20
  let m := thinMask bs
  let vs := (List.range (maskCount m)).map fun i => sext (8 * w) (leValue ((bs.drop (lo + w * i)).take w))
  { SxBlock.ofHeader bs with ns := spread m 32 vs 0 }

/-- A thinned block is malformed when its MASK has more than `j` bits set, or one on a special element (R194, R335). -/
def thinBad (j : Nat) (bs : List Byte) : Bool :=
  let m := thinMask bs
  decide (j < maskCount m) ||
    (SxBlock.ofHeader bs).codes.zipIdx.any fun c => decide (c.1 ≠ 0) && bit m c.2

/-- A thinned block's bytes from its mask (Table 12-3). -/
def SxBlock.thinned (w64 : Bool) (j mask : Nat) (b : SxBlock) : List Byte :=
  let w := sxW w64
  let vs := (b.ns.zipIdx.filter fun e => bit mask e.2).flatMap fun e => leBytes w (wrapInt (8 * w) e.1)
  let body := ({ b with thin := true } : SxBlock).header ++ leBytes 4 mask ++ (if w64 then leBytes 4 0 else []) ++ vs
  (body ++ List.replicate (thinSize w64 j - body.length) 0).take (thinSize w64 j)

/-- floor(log₂ (|m| × 2^g)) + 1 of a non-zero integer. -/
def sxExp (m : Int) (g : Int) : Int := floorLog2 m.natAbs g + 1

/-- The larger of two optional exponents. -/
def maxOpt (a : Option Int) (b : Int) : Option Int :=
  match a with
  | none => some b
  | some x => some (max x b)

/-- R116 to R118, R192: form a dense block on the grid of `e` from 32 values. -/
def sxForm (w64 : Bool) (e : Int) (rnd : Nat → Rnd) (vs : List FVal) : SxBlock :=
  let es := vs.zipIdx.map fun v => sxElem w64 e (rnd v.2) v.1
  let mx := es.foldl (fun a x => match x with | .above t => maxOpt a t | _ => a) none
  { e := e, maxe := mx.getD 0, ovfm := mx.isSome, thin := false,
    codes := es.map fun x => match x with | .special c => c | _ => 0,
    ns := es.map fun x => match x with | .val n => n | _ => 0 }

/-- R329: 32 values on the grid of `e` before any test for overflow: block top-k makes its own test, with the crumb. -/
def sxRaw (w64 : Bool) (e : Int) (rnd : Nat → Rnd) (vs : List FVal) : SxBlock :=
  { e := e, maxe := 0, ovfm := false, thin := false,
    codes := vs.map fun v => match v with | .nan => 1 | .inf neg => if neg then 3 else 2 | .fin _ _ _ => 0,
    ns := vs.zipIdx.map fun v => match v.1 with
      | .fin neg m x => sgnInt neg (roundTo (rnd v.2) m x (e - if w64 then 56 else 24))
      | _ => 0 }

/-- Round an integer times 2^k to an integer, RNE. -/
def regrid (n : Int) (k : Int) : Int := sgnInt (decide (n < 0)) (roundTo .rne n.natAbs k 0)

/-- What top-k makes of one block: its thinned bytes, whether it carries OVFM, and the crumb block's integers when the
crumb is written. -/
structure TopK where
  out : List Byte
  ovfm : Bool
  crumb : Option (List Int)
  mask : Nat
deriving DecidableEq, Repr

/-- The indices of the `j` largest of a list of (magnitude, index), ties to the lower index. -/
def pickLargest : Nat → List (Nat × Nat) → List Nat
  | 0, _ => []
  | j + 1, l =>
    match l.foldl (fun (b : Option (Nat × Nat)) x => match b with
        | none => some x
        | some y => if y.1 < x.1 then some x else some y) none with
    | none => []
    | some b => b.2 :: pickLargest j (l.filter fun x => decide (x.2 ≠ b.2))

/-- R194, steps 1 to 5: `b` on its grid with a crumb of exponent `ec` and integers `cs`. -/
def topK (w64 : Bool) (j : Nat) (b : SxBlock) (ec : Int) (cs : List Int) : TopK :=
  let c' := cs.map fun c => regrid c (ec - b.e)
  let ys := (List.range 32).map fun k =>
    (if w64 then b.ns.getD k 0 else b.ns.getD k 0 * 2 ^ 32) + c'.getD k 0
  let ms := ys.map fun y => if w64 then y else regrid y (-32)
  let fin := fun (k : Nat) => decide (b.codes.getD k 0 = 0)
  let lim : Nat := if w64 then 2 ^ 56 else 2 ^ 24
  let grid : Int := if w64 then b.e - 56 else b.e - 24
  let overs := (List.range 32).filter fun k => fin k && decide (lim ≤ (ms.getD k 0).natAbs)
  if b.ovfm || !overs.isEmpty then
    let start := if b.ovfm then some b.maxe else none
    let mx := overs.foldl (fun a k => maxOpt a (sxExp (ms.getD k 0) grid)) start
    { out := ({ b with maxe := mx.getD 0, ovfm := true, ns := List.replicate 32 0 } : SxBlock).thinned w64 j 0,
      ovfm := true, crumb := none, mask := 0 }
  else
    let sel := pickLargest j (((List.range 32).filter fin).map fun k => ((ys.getD k 0).natAbs, k))
    let mask := sel.foldl (fun m k => m + 2 ^ k) 0
    { out := ({ b with maxe := 0, ovfm := false, ns := ms } : SxBlock).thinned w64 j mask, ovfm := false, mask := mask,
      crumb := some ((List.range 32).map fun k =>
        if !fin k then 0
        else if bit mask k then ys.getD k 0 - (if w64 then ms.getD k 0 else ms.getD k 0 * 2 ^ 32)
        else ys.getD k 0) }

/-- A crumb block's bytes: E := e, FLAGS and SPMAP 0 (R194). -/
def crumbBytes (e : Int) (cs : List Int) : List Byte :=
  ({ e := e, maxe := 0, ovfm := false, thin := false, codes := [], ns := cs } : SxBlock).bytes true

/-- A malformed source block's output (R194). -/
def badThin (w64 : Bool) (j : Nat) (b : SxBlock) : List Byte :=
  ({ b with maxe := 0, ovfm := false, codes := List.replicate 32 1, ns := List.replicate 32 0 } : SxBlock).thinned w64 j 0

/-- R192: the block of an exponent out of range. -/
def badSx : SxBlock :=
  { e := 0, maxe := 0, ovfm := false, thin := false, codes := List.replicate 32 1, ns := List.replicate 32 0 }

/-- A BX8 block's bytes (R119). -/
def bxBytes (x flags : Nat) (qs : List Nat) : List Byte :=
  leBytes 1 x ++ leBytes 1 flags ++ leBytes 6 0 ++ qs.map (BitVec.ofNat 8)

/-- R119: form a BX8 block. -/
def bxForm (rnd : Nat → Rnd) (vs : List FVal) : List Byte :=
  let r := bxQuant rnd vs
  bxBytes r.1 r.2.1 r.2.2

/-- The values of a BX8 block. -/
def bxVals (bs : List Byte) : List FVal :=
  (List.range 32).map fun k => bxVal (bs.getD 0 0).toNat (bs.getD 1 0).toNat (bs.getD (8 + k) 0).toNat

/-- R335: an element of an SX block as the value it stands for. -/
def SxBlock.val (w64 : Bool) (b : SxBlock) (k : Nat) : FVal :=
  match b.codes.getD k 0 with
  | 0 => FVal.ofInt false (b.ns.getD k 0) (if w64 then b.e - 56 else b.e - 24)
  | 1 => .nan
  | 2 => .inf false
  | _ => .inf true

end Sys2Proof.Machine
end

