-- ==== Sys2Proof/Machine/Copies.lean ====
section
/-! DEFINITION. Copy descriptors and their checks (Tables 7-1 to 7-3), and what one grant of each operation moves
(R191 to R202). -/

namespace Sys2Proof.Machine

/-! ## Descriptor fields (Table 7-1) -/

def dCount (d : Nat) : Nat := bits d 159 128
def dCrc (d : Nat) : Bool := bit d 168
def dArr (d : Nat) : Bool := bit d 170
def dCrem (d : Nat) : Bool := bit d 171
def dEpoch (d : Nat) : Nat := bits d 175 172
def dDfmt (d : Nat) : Nat := bits d 191 184
def dCnum (d : Nat) : Nat := bits d 207 192
def dCdev (d : Nat) : Nat := bits d 215 208
def dJ (d : Nat) : Nat := bits d 223 216
def dIncr (d : Nat) : Nat := bits d 255 224
def dIdx (d : Nat) : Nat := bits d 383 320
def dStream (d : Nat) : Nat := bits d 415 384
def dExp (d : Nat) : Nat := bits d 431 416
def dCrcAddr (d : Nat) : Nat := bits d 479 448

/-- SX64 where a format code says so. -/
def fmt64 (c : Nat) : Bool := decide (c = 18)

/-- Slices of SLICE by source format (R193). -/
def sliceCount (sf : Nat) : Nat := if sf = 1 then 7 else 3

/-- Formats an OP allows (Table 7-3). -/
def srcFmtOk (op sf : Nat) : Bool :=
  match op with
  | 1 => (decide (1 ≤ sf) && decide (sf ≤ 15))
  | 2 => decide (1 ≤ sf) && decide (sf ≤ 4)
  | 3 => decide (sf = 1) || decide (sf = 2)
  | 4 => decide (sf = 18) || decide (sf = 19)
  | 7 => decide (sf = 1) || decide (sf = 2)
  | _ => decide (sf = 0)

def dstFmtOk (op sf df : Nat) : Bool :=
  match op with
  | 1 => (decide (1 ≤ df) && decide (df ≤ 7) || decide (13 ≤ df) && decide (df ≤ 15)) && decide (df ≠ sf)
  | 2 => fmtIsMx df
  | 3 => decide (df = 18) || decide (df = 19)
  | 4 => decide (df = sf)
  | 7 => decide (df = 21)
  | _ => decide (df = 0)

/-- COUNT's multiples, and the even counts a 4-bit operand needs (Table 7-3). -/
def countOk (op sf df n : Nat) : Bool :=
  (match op with
  | 2 => decide (n % 32 = 0)
  | 3 => decide (n % 32 = 0)
  | 4 => decide (n % 32 = 0)
  | 5 => decide (n % 4 = 0)
  | _ => true) &&
  (decide (op = 0 ∨ op = 5 ∨ op = 6 ∨ op = 4) || !(fmtWidth sf = 4 || fmtWidth df = 4) || decide (n % 2 = 0))

/-! ## Sizes (Table 7-3) -/

def srcBytes (d : Nat) : Nat :=
  let n := dCount d
  match dOp d with
  | 4 => n / 32 * sxSize (fmt64 (dSfmt d))
  | 7 => n * 16 * fmtWidth (dSfmt d) / 8
  | 0 => n
  | 5 => n
  | 6 => n
  | _ => ceilDiv (n * fmtWidth (dSfmt d)) 8

def dstBytes (d : Nat) : Nat :=
  let n := dCount d
  if n = 0 then 0
  else match dOp d with
    | 0 => n
    | 3 => n / 32 * sxSize (fmt64 (dDfmt d))
    | 4 => n / 32 * thinSize (fmt64 (dSfmt d)) (dJ d)
    | 5 => dAux d
    | 6 => dAux d
    | 7 => sliceCount (dSfmt d) * 20 * n
    | _ => ceilDiv (n * fmtWidth (dDfmt d)) 8

def auxBytes (d : Nat) : Nat :=
  let n := dCount d
  match dOp d with
  | 1 => ceilDiv n 32
  | 2 => n / 32
  | 3 => n / 16
  | 4 => n / 32 * 272
  | 7 => 2 * n
  | _ => 0

/-! ## Checks at issue (R187, R188) -/

/-- The byte offset of the first field that breaks Table 7-1 or 7-3, if one does. -/
def State.badField (s : State) (d : Nat) : Option Nat :=
  let op := dOp d
  let src := s.form (dSrc d)
  let dst := s.form (dDst d)
  let remote := fun (l : Option Loc) => match l with | some (.rack _ _) => true | _ => false
  let aux := if auxUsed d then (s.form (dAux d)).isSome && !remote (s.form (dAux d))
    else if op = 5 then decide (dCount d + ceilDiv (dCount d) 512 ≤ dAux d)
    else if op = 6 then true
    else decide (dAux d = 0)
  let exp := if op = 3 && !dEarr d then decide (-1990 ≤ sext 16 (dExp d)) && decide (sext 16 (dExp d) ≤ 1990)
    else decide (dExp d = 0)
  ([(0, src.isSome && (decide (op = 0) || !remote src)),
    (8, dst.isSome && (decide (op = 0) || !remote dst)),
    (16, countOk op (dSfmt d) (dDfmt d) (dCount d)),
    (20, decide (op ≤ 7) && (!dEarr d || decide (op = 3) || decide (op = 7)) && decide (bits d 167 165 = 0)),
    (21, !dCrcWr d || dCrc d),
    (22, srcFmtOk op (dSfmt d)),
    (23, dstFmtOk op (dSfmt d) (dDfmt d)),
    (26, dCrem d || decide (dCdev d = 0)),
    (27, if op = 4 then [1, 2, 4, 8].contains (dJ d) else decide (dJ d = 0)),
    (32, aux),
    (52, exp),
    (54, decide (bits d 447 432 = 0)),
    (56, if dCrcWr d then decide (dCrcAddr d % 4 = 0) else decide (dCrcAddr d = 0)),
    (60, decide (bits d 511 480 = 0))].find? fun e => !e.2).map Prod.fst

/-- Fault of the descriptor address of copy, bkarm, xfire and xa2a (R187, R302). -/
def descCheck (a : Nat) : Option FaultAt :=
  if 2 ^ 21 ≤ a then some (cOPERAND, unstated)
  else if a % 64 ≠ 0 then some (cALIGN, a)
  else if tileStoreEnd ≤ a then some (cLOCAL_RANGE, a)
  else none

/-- R29 and R26 over one range of a descriptor, given by its form. -/
def State.rangeCheck (s : State) (v n : Nat) (p : Perm) : Option FaultAt :=
  match s.form v with
  | some l => s.locCheck l n p
  | none => none

/-- R367, R370: a copy to or from a device of another switch stage needs a local other end and an alias; so does a counter
on such a device, which the descriptor names with CREM = 1 (whatever ARR holds: DESIGN CHOICE, log 57). -/
def State.farCheck (s : State) (d : Nat) : Bool :=
  let far := fun (v : Nat) => match s.form v with | some (.rack m _) => decide (64 ≤ m) | _ => false
  let rem := fun (v : Nat) => match s.form v with | some (.rack _ _) => true | _ => false
  let none' := decide (s.get F.RMALIAS_VALID 0 = 0)
  (far (dSrc d) && (rem (dDst d) || none')) || (far (dDst d) && (rem (dSrc d) || none'))
    || (dCrem d && decide (64 ≤ dCdev d) && none')

/-- An address field after its offset (R187): a reserved form, or a sum that carries out, keeps the field as it is. -/
def offsetField (v off : Nat) : Nat := if formBits v = 0 then v else (addOffset v off).getD v

/-- An offset that carries out of the bits of its form (R187). -/
def carriesOut (v off : Nat) : Bool := decide (formBits v ≠ 0) && (addOffset v off).isNone

/-- R187, R188, R366: the descriptor after the offsets, or the fault of the copy. The forms of Table 7-2 and the fields are
judged with the offsets added, since an offset can carry a rack address to another module. -/
def State.copyCheck (s : State) (t : Nat) (va vb vc : Nat) : Except FaultAt Nat :=
  match descCheck va with
  | some f => .error f
  | none =>
    let d0 := (s.tile t).rdNat va 64
    let d := setBits (setBits d0 63 0 (offsetField (dSrc d0) vb)) 127 64 (offsetField (dDst d0) vc)
    match s.badField d with
    | some o => .error (cOPERAND, o)
    | none =>
      let auxRead := if dOp d = 2 then [Perm.write] else if dOp d = 4 then [Perm.read, Perm.write] else [Perm.read]
      let checks :=
        [s.rangeCheck (dSrc d) (srcBytes d) .read, s.rangeCheck (dDst d) (dstBytes d) .write]
        ++ (if auxUsed d then auxRead.map fun p => s.rangeCheck (dAux d) (auxBytes d) p else [])
        ++ (if dCrcWr d then [localCheck (dCrcAddr d) 4] else [])
      if carriesOut (dSrc d0) vb || carriesOut (dDst d0) vc || s.farCheck d then .error (cOPERAND, unstated)
      else match checks.findSome? id with
        | some f => .error f
        | none => .ok d

/-! ## Access to a place -/

/-- UNIT_FENCED when a place lies in a fenced tile (R396); FINFO is the address in its form. -/
def State.fencedLoc (s : State) : Loc → Option FaultAt
  | .tile t a => if s.tileFenced t then some (cUNIT_FENCED, t * 2 ^ 21 + a) else none
  | _ => none

/-- Move a place on by `o` bytes. -/
def Loc.plus : Loc → Nat → Loc
  | .tile t a, o => .tile t (a + o)
  | .dev a, o => .dev (a + o)
  | .rack d a, o => .rack d (a + o)

/-- Read n bytes of a local place. -/
def State.rdLoc (s : State) (l : Loc) (n hint : Nat) : State × Except FaultAt (List Byte) :=
  if n = 0 then (s, .ok [])
  else match s.fencedLoc l with
    | some f => (s, .error f)
    | none =>
      match l with
      | .tile t a => (s, .ok ((s.tile t).rdBytes a n))
      | .dev a => s.devRead a n hint 0
      | .rack _ _ => (s, .ok [])

/-- Write bytes to a local place. -/
def State.wrLoc (s : State) (l : Loc) (bs : List Byte) (hint : Nat) (who : Option (Nat × Ctxt × Nat)) :
    State × Option FaultAt :=
  if bs.isEmpty then (s, none)
  else match s.fencedLoc l with
    | some f => (s, some f)
    | none =>
      match l with
      | .tile t a => (s.wrLocal t a bs, none)
      | .dev a => s.devWrite a bs hint 0 who
      | .rack _ _ => (s, none)

/-- A write that a full mirror slice makes wait (R422). -/
def State.locFull (s : State) (l : Loc) (n : Nat) : Bool :=
  match l with
  | .dev a => s.mirrorFull a n
  | _ => false

/-! ## The grants of each operation -/

/-- What one grant does to the copy and which blocks it flagged. -/
structure Grant where
  copy : Copy
  ovf : Nat

/-- How a grant fails: its fault, and the destination bytes the copy has written by then, which stay written (R205). -/
abbrev GrantFault := FaultAt × Nat

/-- The address of a place within its space. -/
def Loc.addr : Loc → Nat
  | .tile t a => t * 2 ^ 21 + a
  | .dev a => a
  | .rack _ a => a

/-- Read n bytes of a copy's place at offset `o`. -/
def State.rdCopy (s : State) (c : Copy) (l : Loc) (o n : Nat) : State × Except GrantFault (List Byte) :=
  let r := s.rdLoc (l.plus o) n (bits c.word.toNat 17 15)
  (r.1, match r.2 with | .ok bs => .ok bs | .error f => .error (f, c.out))

def Copy.hint (c : Copy) : Nat := bits c.word.toNat 17 15
def Copy.who (c : Copy) : Option (Nat × Ctxt × Nat) := some (c.tile, c.ctx, c.seq)

/-- The source, destination and AUX0 places of a copy. -/
def State.copySrc (s : State) (c : Copy) : Loc := (s.form (dSrc c.desc)).getD (.dev 0)
def State.copyDst (s : State) (c : Copy) : Loc := (s.form (dDst c.desc)).getD (.dev 0)
def State.copyAux (s : State) (c : Copy) : Loc := (s.form (dAux c.desc)).getD (.dev 0)

/-- Write a grant's output at destination offset `o`, and extend the running CRC where it covers those bytes (R200). -/
def State.grantOut (s : State) (c : Copy) (o : Nat) (bs : List Byte) : State × Except GrantFault Copy :=
  let l := (s.copyDst c).plus o
  let r := s.wrLoc l bs c.hint c.who
  match r.2 with
  | some f => (r.1, .error (f, c.out + (f.2 - l.addr)))
  | none =>
    let slice := decide (dOp c.desc = 7) && dCrc c.desc
    (r.1, .ok { c with out := c.out + bs.length,
                       kept := if slice then bs.zipIdx.foldl (fun m e => SMap.ins m (o + e.2) e.1) c.kept else c.kept,
                       crc := if dCrc c.desc then crcOver c.crc bs else c.crc })

/-- The end of the grant of a 6-bit source with a 4-bit destination that begins at element `pos`: 256 source bytes hold 341
elements and a third, so the grants end at the last even element that each further 256 bytes complete (Table 7-3; the even
count, which keeps the destination's bytes whole, is DEDUCED, log 57). -/
def narrowEnd (pos : Nat) : Nat := 2 * (((pos + 2) * 6 / 2048 + 1) * 2048 / 12)

/-- Units of COUNT one grant covers that begins at `pos` (Table 7-3). -/
def grantUnits (d pos : Nat) : Nat :=
  let sw := fmtWidth (dSfmt d)
  match dOp d with
  | 1 => if sw = 6 ∧ fmtWidth (dDfmt d) = 4 then narrowEnd pos - pos
    else 2048 / max 1 (max sw (fmtWidth (dDfmt d)))
  | 2 => 2048 / max 1 sw
  | 3 => 2048 / max 1 sw
  | 4 => 32
  | 7 => 128 / max 1 sw
  | _ => 256

/-- The elements [pos, pos + n) of a packed source. -/
def State.srcElems (s : State) (c : Copy) (n : Nat) : State × Except GrantFault (List Nat) :=
  let w := fmtWidth (dSfmt c.desc)
  let lo := c.pos * w / 8
  let hi := ceilDiv ((c.pos + n) * w) 8
  let r := s.rdCopy c (s.copySrc c) lo (hi - lo)
  (r.1, r.2.map fun bs => (List.range n).map fun k => bits (leValue bs) ((c.pos + k) * w - 8 * lo + w - 1) ((c.pos + k) * w - 8 * lo))

/-- The rounding of element k of the copy (R191, R192). -/
def State.copyRnd (s : State) (c : Copy) (k : Nat) : Rnd :=
  (NumCfg.ofReg (s.reg .NUMCFG 0)).rnd (dIdx c.desc + k) (dStream c.desc)

/-- CONVERT (R191). -/
def State.grantConvert (s : State) (c : Copy) (n : Nat) : State × Except GrantFault Grant :=
  let d := c.desc
  let num := NumCfg.ofReg (s.reg .NUMCFG 0)
  let r := s.srcElems c n
  match r.2 with
  | .error f => (r.1, .error f)
  | .ok vs =>
    let mx := fmtIsMx (dSfmt d)
    let b0 := c.pos / 32
    let b1 := ceilDiv (c.pos + n) 32
    let sc := if mx then r.1.rdCopy c (s.copyAux c) b0 (b1 - b0) else (r.1, .ok [])
    match sc.2 with
    | .error f => (sc.1, .error f)
    | .ok scales =>
      let w := fmtWidth (dDfmt d)
      let out := vs.zipIdx.map fun (e : Nat × Nat) =>
        let k := c.pos + e.2
        let v := if mx then mxVal (dSfmt d) (scales.getD (k / 32 - b0) 0).toNat e.1 else elemVal num.sat (dSfmt d) e.1
        elemEnc num.sat (dDfmt d) (s.copyRnd c k) v
      let w' := sc.1.grantOut c (c.pos * w / 8) (leBytes (ceilDiv (n * w) 8) (packElems w out))
      (w'.1, w'.2.map fun c => { copy := { c with pos := c.pos + n }, ovf := 0 })

/-- MXQ (R191, R97, R98). The scale bytes follow the elements in the CRC (R200): they are added at the end. -/
def State.grantMxq (s : State) (c : Copy) (n : Nat) : State × Except GrantFault Grant :=
  let d := c.desc
  let r := s.srcElems c n
  match r.2 with
  | .error f => (r.1, .error f)
  | .ok vs =>
    let vals := vs.map (elemVal false (dSfmt d))
    let qs := (List.range (n / 32)).map fun b =>
      mxQuant (dDfmt d) (fun k => s.copyRnd c (c.pos + 32 * b + k)) ((vals.drop (32 * b)).take 32)
    let w := fmtWidth (dDfmt d)
    let o := r.1.grantOut c (c.pos * w / 8) (leBytes (n * w / 8) (packElems w (qs.flatMap Prod.snd)))
    match o.2 with
    | .error f => (o.1, .error f)
    | .ok c1 =>
      let sc := o.1.wrLoc ((s.copyAux c).plus (c.pos / 32)) (qs.map fun q => BitVec.ofNat 8 q.1) c.hint c.who
      match sc.2 with
      | some f => (sc.1, .error (f, c1.out))
      | none => (sc.1, .ok { copy := { c1 with pos := c.pos + n, lit := c1.lit ++ qs.map Prod.fst }, ovf := 0 })

/-- SXQ (R192). -/
def State.grantSxq (s : State) (c : Copy) (n : Nat) : State × Except GrantFault Grant :=
  let d := c.desc
  let w64 := fmt64 (dDfmt d)
  let r := s.srcElems c n
  match r.2 with
  | .error f => (r.1, .error f)
  | .ok vs =>
    let b0 := c.pos / 32
    let ex := if dEarr d then r.1.rdCopy c (s.copyAux c) (2 * b0) (n / 16) else (r.1, .ok [])
    match ex.2 with
    | .error f => (ex.1, .error f)
    | .ok es =>
      let vals := vs.map (elemVal false (dSfmt d))
      let blocks := (List.range (n / 32)).map fun b =>
        let e := if dEarr d then sext 16 (leValue ((es.drop (2 * b)).take 2)) else sext 16 (dExp d)
        if -1990 ≤ e ∧ e ≤ 1990 then
          (sxForm w64 e (fun k => s.copyRnd c (c.pos + 32 * b + k)) ((vals.drop (32 * b)).take 32), false)
        else (badSx, true)
      let o := ex.1.grantOut c (b0 * sxSize w64) (blocks.flatMap fun b => b.1.bytes w64)
      (o.1, o.2.map fun c => { copy := { c with pos := c.pos + n, status := if blocks.any Prod.snd then 4 else c.status },
                               ovf := (blocks.filter fun b => b.1.ovfm).length })

/-- TOPK (R194). -/
def State.grantTopk (s : State) (c : Copy) : State × Except GrantFault Grant :=
  let d := c.desc
  let w64 := fmt64 (dSfmt d)
  let b := c.pos / 32
  let size := sxSize w64
  let j := dJ d
  let r := s.rdCopy c (s.copySrc c) (b * size) size
  match r.2 with
  | .error f => (r.1, .error f)
  | .ok bs =>
    let thin := (SxBlock.ofHeader bs).thin
    let o := b * thinSize w64 j
    if thin && thinBad 8 bs then
      let out := r.1.grantOut c o (badThin w64 j (SxBlock.ofHeader bs))
      (out.1, out.2.map fun c => { copy := { c with pos := c.pos + 32, status := 4 }, ovf := 0 })
    else
      let blk := if thin then SxBlock.expand w64 bs else SxBlock.dense w64 bs
      let cr := r.1.rdCopy c (s.copyAux c) (272 * b) 272
      match cr.2 with
      | .error f => (cr.1, .error f)
      | .ok cb =>
        let crumb := SxBlock.dense true cb
        let k := topK w64 j blk crumb.e crumb.ns
        let out := cr.1.grantOut c o k.out
        match out.2 with
        | .error f => (out.1, .error f)
        | .ok c1 =>
          let wc := match k.crumb with
            | some cs => out.1.wrLoc ((s.copyAux c).plus (272 * b)) (crumbBytes blk.e cs) c.hint c.who
            | none => (out.1, none)
          match wc.2 with
          | some f => (wc.1, .error (f, c1.out))
          | none => (wc.1, .ok { copy := { c1 with pos := c.pos + 32 }, ovf := b2n k.ovfm })

/-- SLICE (R193): vectors [pos, pos + n). -/
def State.grantSlice (s : State) (c : Copy) (n : Nat) : State × Except GrantFault Grant :=
  let d := c.desc
  let sf := dSfmt d
  let w := fmtWidth sf / 8
  let sn := sliceCount sf
  let cnt := dCount d
  let r := s.rdCopy c (s.copySrc c) (16 * w * c.pos) (16 * w * n)
  match r.2 with
  | .error f => (r.1, .error f)
  | .ok bs =>
    let ex := if dEarr d then r.1.rdCopy c (s.copyAux c) (2 * c.pos) (2 * n) else (r.1, .ok [])
    match ex.2 with
    | .error f => (ex.1, .error f)
    | .ok es =>
      let vecs := (List.range n).map fun v =>
        let given := if dEarr d then some (leValue ((es.drop (2 * v)).take 2)) else none
        sliceVec sn given ((List.range 16).map fun k =>
          elemVal false sf (leValue ((bs.drop (w * (16 * v + k))).take w)))
      let pieces := (List.range sn).flatMap fun i =>
        let base := 20 * cnt * i
        [(base + 16 * c.pos, (vecs.flatMap fun v => (v.2.2.getD i []).map (BitVec.ofNat 8))),
         (base + 16 * cnt + 2 * c.pos, vecs.flatMap fun v => leBytes 2 v.2.1),
         (base + 18 * cnt + 2 * c.pos, vecs.flatMap fun v => leBytes 2 v.1)]
      let o := pieces.foldl (fun (a : State × Except GrantFault Copy) p =>
        match a.2 with
        | .error f => (a.1, .error f)
        | .ok c => a.1.grantOut c p.1 p.2) (ex.1, .ok c)
      (o.1, o.2.map fun c => { copy := { c with pos := c.pos + n }, ovf := 0 })

/-! ZCOMP (R198). -/

/-- Tokens of a zero run of `n` words. -/
def zeroTokens : Nat → Nat → List Byte
  | 0, _ => []
  | f + 1, n => if n = 0 then [] else if n ≤ 128 then [BitVec.ofNat 8 (0x80 + (n - 1))] else 0xFF :: zeroTokens f (n - 128)

/-- Tokens of a literal run. -/
def litTokens : Nat → List Nat → List Byte
  | 0, _ => []
  | f + 1, ws =>
    if ws.isEmpty then []
    else (BitVec.ofNat 8 ((ws.take 128).length - 1) :: (ws.take 128).flatMap (leBytes 4)) ++ litTokens f (ws.drop 128)

def flushLit (ws : List Nat) : List Byte := litTokens (ws.length + 1) ws

/-- One word of ZCOMP over (open literal run, open zero run, output). -/
def zStep (st : List Nat × Nat × List Byte) (w : Nat) : List Nat × Nat × List Byte :=
  let (lit, z, out) := st
  if w = 0 then
    if z = 1 then ([], 2, out ++ flushLit lit) else (lit, z + 1, out)
  else
    let (lit, out) := if z = 0 then (lit, out) else if z = 1 then (lit ++ [0], out) else (lit, out ++ zeroTokens (z + 1) z)
    let lit := lit ++ [w]
    if lit.length = 128 then ([], 0, out ++ flushLit lit) else (lit, 0, out)

/-- What is open at the end of the source. -/
def zEnd (lit : List Nat) (z : Nat) : List Byte :=
  if z = 0 then flushLit lit else if z = 1 then flushLit (lit ++ [0]) else zeroTokens (z + 1) z

def State.grantZcomp (s : State) (c : Copy) (n : Nat) : State × Except GrantFault Grant :=
  let r := s.rdCopy c (s.copySrc c) c.pos n
  match r.2 with
  | .error f => (r.1, .error f)
  | .ok bs =>
    let (lit, z, out) := (lanesOf 4 bs).foldl zStep (c.lit, c.zeros, [])
    let last := decide (c.pos + n = dCount c.desc)
    let out := if last then out ++ zEnd lit z else out
    let o := r.1.grantOut c c.out out
    (o.1, o.2.map fun c => { copy := { c with pos := c.pos + n, lit := lit, zeros := z }, ovf := 0 })

/-! ZDECOMP (R199). -/

/-- Progress of an expansion: output, bytes still literal, zero bytes still to write, source bytes used. -/
structure Expand where
  out : List Byte
  lit : Nat
  zeros : Nat
  used : Nat

/-- Expand tokens until `need` bytes are out or the source ends. -/
def expand : Nat → Nat → List Byte → Expand → Expand
  | 0, _, _, x => x
  | f + 1, need, src, x =>
    if need ≤ x.out.length then x
    else if 0 < x.zeros then
      let k := min x.zeros (need - x.out.length)
      expand f need src { x with out := x.out ++ List.replicate k 0, zeros := x.zeros - k }
    else if 0 < x.lit then
      let k := min (min x.lit (need - x.out.length)) (src.length / 4 * 4)
      if k = 0 then x
      else expand f need (src.drop k) { x with out := x.out ++ src.take k, lit := x.lit - k, used := x.used + k }
    else match src with
      | [] => x
      | b :: rest =>
        let n := 4 * (b.toNat % 128 + 1)
        if b.toNat < 128 then expand f need rest { x with lit := n, used := x.used + 1 }
        else expand f need rest { x with zeros := n, used := x.used + 1 }

/-- ZDECOMP: up to 256 destination bytes per grant. OVERRUN and BADSTREAM end the copy (R199). -/
def State.grantZdecomp (s : State) (c : Copy) : State × Except GrantFault Grant :=
  let cap := dAux c.desc
  let left := dCount c.desc - c.src
  let r := s.rdCopy c (s.copySrc c) c.src (min left 324)
  match r.2 with
  | .error f => (r.1, .error f)
  | .ok bs =>
    let room := cap - c.out
    let x := expand 700 (min 256 room) bs { out := [], lit := c.litLeft, zeros := c.zeros, used := 0 }
    let used := c.src + x.used
    let more := decide (0 < x.lit) || decide (0 < x.zeros) || decide (used < dCount c.desc)
    let full := decide (room ≤ x.out.length)
    let stuck := decide (x.out.length < min 256 room)
    let o := r.1.grantOut c c.out x.out
    (o.1, o.2.map fun c =>
      let c := { c with src := used, pos := used, litLeft := x.lit, zeros := x.zeros }
      let next := if x.lit = 0 then (match bs.drop x.used with | b :: _ => b.toNat | [] => 0x80) else 0
      let dry := decide (x.zeros = 0) && decide (next < 128)
        && decide (dCount c.desc - used - (if x.lit = 0 then 1 else 0) < 4) && decide (x.lit % 4 = 0)
      if full && more && !dry then { copy := { c with status := 2, pos := dCount c.desc }, ovf := 0 }
      else if (full && more) || stuck && (decide (0 < x.lit) || decide (used < dCount c.desc)) then
        { copy := { c with status := 3, pos := dCount c.desc }, ovf := 0 }
      else { copy := { c with pos := if more then min used (dCount c.desc - 1) else dCount c.desc }, ovf := 0 })

/-- Who waits for a rack operation of a copy: the copy, and the channel it runs in. -/
def State.copyOwner (s : State) (c : Copy) : ROwner :=
  .copy c.id (16 * s.clusterOf c.tile + bits c.word.toNat 21 18)

/-- Send bytes of a copy to another module as WRITEs of up to 128 bytes, each within one 128-byte block (R366). -/
def State.sendWrites (s : State) (c : Copy) (d a : Nat) (bs : List Byte) : State × Nat :=
  let ps := cut 128 a bs.length
  (ps.foldl (fun u p => u.sendRop
    { id := 0, kind := .write, sep := clusterEp (s.clusterOf c.tile), dev := d, tag := 0, addr := p.1, size := p.2,
      data := (bs.drop (p.1 - a)).take p.2, mode := 0, local_ := 0, hint := c.hint, owner := s.copyOwner c,
      phase := .sent, resends := 0 }) s, ps.length)

/-- RAW bytes on their way out: to a local place, or as WRITEs (R366). -/
def State.rawOut (s : State) (c : Copy) (bs : List Byte) : State × Except GrantFault Copy :=
  match (s.copyDst c).plus c.pos with
  | .rack d a =>
    let r := s.sendWrites c d a bs
    (r.1, .ok { c with wait := c.wait + r.2,
                       crc := if dCrc c.desc then crcOver c.crc bs else c.crc })
  | _ => s.grantOut c c.pos bs

/-- RAW bytes in hand go out, and the copy moves on. -/
def State.rawBytes (s : State) (c : Copy) (bs : List Byte) : State × Except GrantFault Grant :=
  let o := s.rawOut c bs
  (o.1, o.2.map fun c => { copy := { c with pos := c.pos + bs.length }, ovf := 0 })

/-- RAW from a local source: n bytes. -/
def State.grantRaw (s : State) (c : Copy) (n : Nat) : State × Except GrantFault Grant :=
  let r := s.rdCopy c (s.copySrc c) c.pos n
  match r.2 with
  | .error f => (r.1, .error f)
  | .ok bs => r.1.rawBytes c bs

/-- The source of a copy lies on another module. -/
def State.srcRemote (s : State) (c : Copy) : Bool :=
  match s.copySrc c with
  | .rack _ _ => true
  | _ => false

/-- RAW with CRC = 1, one grant of up to 256 bytes (R201): of bytes that have come from another module, of bytes for a
gateway's next transfers, or of a local source. -/
def State.grantCrc (s : State) (c : Copy) : State × Except GrantFault Grant :=
  if s.srcRemote c then
    let n := min 256 (dCount c.desc - c.pos)
    s.rawBytes { c with buf := c.buf.drop n } (c.buf.take n)
  else if c.gateway then
    let r := s.rdCopy c (s.copySrc c) c.src (min 256 (dCount c.desc - c.src))
    match r.2 with
    | .error f => (r.1, .error f)
    | .ok bs => (r.1, .ok { copy := { c with src := c.src + bs.length, buf := c.buf ++ bs, crc := crcOver c.crc bs }, ovf := 0 })
  else s.grantRaw c (min 256 (dCount c.desc - c.pos))

/-- The next grant of a copy has its input: bytes enough have come from another module, or a gateway's copy still has bytes
to take in (R201). -/
def State.grantReady (s : State) (c : Copy) : Bool :=
  if s.srcRemote c then dCrc c.desc && decide (min 256 (dCount c.desc - c.pos) ≤ c.buf.length)
  else if c.gateway then dCrc c.desc && decide (c.src < dCount c.desc) && decide (c.buf.length < 4096)
  else true

/-- RAW from another module: the next READ, of up to 256 bytes within one granule (R366), unless one is out or the bytes in
hand still wait for the engine. -/
def State.sendRead (s : State) (c : Copy) : State × Copy :=
  let o := c.pos + c.buf.length
  if c.gateway || c.reading || decide (dCount c.desc ≤ o) || decide (256 ≤ c.buf.length) then (s, c)
  else match (s.copySrc c).plus o with
    | .rack d a =>
      let n := min (dCount c.desc - o) (256 - a % 256)
      (s.sendRop { id := 0, kind := .read, sep := clusterEp (s.clusterOf c.tile), dev := d, tag := 0, addr := a, size := n,
                   data := [], mode := 0, local_ := 0, hint := c.hint, owner := s.copyOwner c, phase := .sent,
                   resends := 0 }, { c with wait := c.wait + 1, reading := true })
    | _ => (s, c)

/-- One grant of a copy that the engine serves. -/
def State.grant (s : State) (c : Copy) : State × Except GrantFault Grant :=
  let n := min (grantUnits c.desc c.pos) (dCount c.desc - c.pos)
  match dOp c.desc with
  | 1 => s.grantConvert c n
  | 2 => s.grantMxq c n
  | 3 => s.grantSxq c n
  | 4 => s.grantTopk c
  | 5 => s.grantZcomp c n
  | 6 => s.grantZdecomp c
  | 7 => s.grantSlice c n
  | _ => s.grantCrc c

end Sys2Proof.Machine
end

