-- ==== Sys2Proof/Machine/Streams.lean ====
section
/-! DEFINITION. Stream channels, narrow accesses and the narrow path (chapters 7 and 13): the instructions of class D
and the events that carry their work. -/

namespace Sys2Proof.Machine

/-! ## Channels -/

/-- CHSTAT of a channel. -/
def Chan.stat (c : Chan) : Nat :=
  let cur := match c.queue with | x :: _ => if x.started then dOp x.desc else 0 | [] => 0
  let busy := match c.queue with | x :: _ => x.started | [] => false
  c.queue.length * 2 ^ 20 + c.lastst * 2 ^ 16 + cur * 2 ^ 12 + b2n c.held * 2 + b2n busy

/-- CHREM: COUNT units of the running copy not yet written; bytes sent to another module are written when acknowledged. -/
def Chan.rem (c : Chan) : Nat :=
  match c.queue with
  | x :: _ => if x.started then dCount x.desc - (if dOp x.desc = 0 then x.out else x.pos) else 0
  | [] => 0

/-- CHDESC of the running copy. -/
def Chan.desc (c : Chan) : Nat :=
  match c.queue with
  | x :: _ => if x.started then x.desc else 0
  | [] => 0

/-- Replace the copy with the same id. -/
def Chan.setCopy (c : Chan) (x : Copy) : Chan := { c with queue := c.queue.map fun y => if y.id = x.id then x else y }

/-- Actions of R209. -/
def Chan.act (c : Chan) (action : Nat) : Chan :=
  match action with
  | 0 => { c with held := true }
  | 1 => { c with held := false }
  | 2 =>
    let keep := fun (x : Copy) => x.started && x.moved
    if c.queue.all keep then { c with held := false }
    else
      let out := match c.queue with
        | x :: _ => if x.started && !x.moved then x.out else 0
        | [] => 0
      { c with queue := c.queue.filter keep, held := false, lastst := 1, out := out }
  | _ => c

/-- What follows the end of a context's instruction: a held fault may be delivered, held arrives may go. -/
def State.after (s : State) (t : Nat) (c : Ctxt) : State := (s.settle t c).flushArrives t c

/-- Put a copy back with its new progress; its last byte has been written or sent when `pos` reaches COUNT. -/
def State.putCopy (s : State) (k : Nat) (c : Copy) : State :=
  s.setChan k ((s.chan k).setCopy { c with moved := decide (dCount c.desc ≤ c.pos) })

/-- The channel's running copy, if it reads from another module, sends its next READ (R366); a held channel sends none
(R209). -/
def State.readOn (s : State) (k : Nat) : State :=
  let c := s.chan k
  match c.queue with
  | x :: _ =>
    if x.started && !c.held && s.srcRemote x then
      let r := s.sendRead x
      r.1.putCopy k r.2
    else s
  | [] => s

/-- Apply an action to a channel (R209). A copy it removes no longer holds back a fault or an arrive of its context. -/
def State.chanAct (s : State) (k action : Nat) : State :=
  let c := s.chan k
  let c' := c.act action
  let gone := c.queue.filter fun x => !(c'.queue.any fun y => decide (y.id = x.id))
  (gone.foldl (fun u x => u.after x.tile x.ctx) (s.setChan k c')).readOn k

/-- R85, R205: a copy's fault discards it and its context's later copies in the queue, and gives its wait token back; the
channel ends it with status `st` and `out` bytes written. -/
def State.copyEnds (s : State) (k : Nat) (x : Copy) (st out : Nat) (f : FaultAt) : State :=
  let c := s.chan k
  let gone := fun (y : Copy) => decide (y.id = x.id) || (decide (y.tile = x.tile) && decide (y.ctx = x.ctx) && decide (x.seq ≤ y.seq))
  let s := (c.queue.filter gone).foldl (fun (u : State) y => u.setTile y.tile ((u.tile y.tile).restore y.word.toNat y.consumed)) s
  let s := s.setChan k { c with queue := c.queue.filter fun y => !gone y, lastst := st, out := out }
  s.unitFaultAt x.tile x.ctx (.chan (k % 16)) x.seq x.pc f

/-- R205: a copy ends in a fault: LASTST is FAULT, its context's later copies in the queue go, nothing arrives. -/
def State.copyFault (s : State) (k : Nat) (x : Copy) (f : FaultAt) : State := s.copyEnds k x 5 x.out f

/-- Find a copy by id: its channel key and the copy. -/
def State.findCopy (s : State) (id : Nat) : Option (Nat × Copy) :=
  s.chans.findSome? fun e => (e.2.queue.find? fun x => decide (x.id = id)).map fun x => (e.1, x)

/-! ## Issue of copies -/

/-- The copy instruction at issue, with its word's registers (R185, R187, R188). A descriptor that the read of the tile's store
does not deliver takes the tile out of use (R394). -/
def copyAct (h : Head) (w : Nat) (s : State) : Act :=
  let t := h.tile
  let x := s.ctx t h.ctx
  let k := 16 * s.clusterOf t + bits w 21 18
  if 8 ≤ (s.chan k).queue.length then .hold (s.setCtx t h.ctx { x with stall := .chanFull (BitVec.ofNat 64 w) })
  else if decide (sramAt h.sram t = .uncorrectable) && (descCheck (x.rdS (bits w 39 34)).toNat).isNone then
    .go 14 fun s => s.sramFail t
  else match s.copyCheck t (x.rdS (bits w 39 34)).toNat (x.rdS (bits w 33 28)).toNat (x.rdS (bits w 27 22)).toNat with
    | .error f => .fault f
    | .ok d => .go 14 fun s =>
      let s := s.sramNote t (sramAt h.sram t)
      let tl := s.tile t
      let c : Copy :=
        { id := s.nextId, desc := d, word := BitVec.ofNat 64 w, tile := t, ctx := h.ctx, seq := tl.seq, pc := x.pc,
          started := false, consumed := false, pos := 0, out := 0, src := 0, crc := crcInit, lit := [], zeros := 0,
          litLeft := 0, status := 0, kept := [], moved := false, wait := 0, gateway := false, reading := false, buf := [] }
      let s := { s with nextId := s.nextId + 1 }
      let s := s.setTile t { tl with seq := tl.seq + 1 }
      (s.setChan k { s.chan k with queue := (s.chan k).queue ++ [c] }).advance t h.ctx

/-- Registers a D instruction's issue reads. -/
def usesD (w : Nat) : Uses := ⟨uCaptures w, []⟩

def execCopy (h : Head) (f : DF) (s : State) : Out :=
  issue h (encD 0 h f) (usesD (encD 0 h f)) false (copyAct h (encD 0 h f)) s

/-- Finish a stalled D instruction through its act, once there is room. -/
def State.resume (s : State) (t : Nat) (c : Ctxt) (act : State → Act) : State :=
  let s1 := s.setCtx t c { s.ctx t c with stall := .none }
  if s1.ready t c then s1.perform t c (act s1) else s

/-- The head a word carries (Table 3-1). -/
def headOf (t : Nat) (c : Ctxt) (w : Nat) : Head :=
  { tile := t, ctx := c, pred := BitVec.ofNat 3 (bits w 53 51), pneg := bit w 50, sram := [] }

/-- A copy that waited for a place in its channel's queue issues (R185). -/
def execCopyQueueFullStall (tile : Nat) (ctx : Ctxt) (s : State) : Out :=
  within tile Config.tiles <| .next <|
    match (s.ctx tile ctx).stall with
    | .chanFull w =>
      if 8 ≤ (s.chan (16 * s.clusterOf tile + bits w.toNat 21 18)).queue.length then s
      else s.resume tile ctx (copyAct (headOf tile ctx w.toNat) w.toNat)
    | _ => s

/-! ## Running copies -/

/-- The device of a copy's far end, if it lies beyond the switch stage (R367). -/
def State.farDev (s : State) (c : Copy) : Option Nat :=
  match s.copySrc c, s.copyDst c with
  | .rack d _, _ => if 64 ≤ d then some d else none
  | _, .rack d _ => if 64 ≤ d then some d else none
  | _, _ => none

/-- The SRAM outcome of reads of a copy's source store (R394): uncorrectable takes its tile out of use. -/
def State.copySram (s : State) (c : Copy) (sram : Sram) : State :=
  match s.copySrc c, sram with
  | .tile t _, .uncorrectable => s.sramFail t
  | .tile t _, x => s.sramNote t x
  | _, _ => s

/-- Copies a gateway holds (R367). -/
def State.gatewayHeld (s : State) (g : Nat) : Nat :=
  (s.chans.flatMap fun e => e.2.queue.filter fun x =>
    x.gateway && decide ((s.farDev x).map (· % 4) = some g)).length

/-- Start a copy at the head of a channel's queue (R184, R39). -/
def State.startCopy (s : State) (k : Nat) (c : Copy) (sram : Sram) : State :=
  let tl := (s.tile c.tile).takeToken c.word.toNat
  let s := (s.setTile c.tile tl).copySram c sram
  let c := { c with started := true, consumed := (waitTok c.word.toNat).isSome }
  if s.draining || !(((s.chan k).queue.any fun y => decide (y.id = c.id))) then s
  else if dCount c.desc = 0 then s.putCopy k c
  else match s.farDev c with
    | some _ => s.putCopy k { c with gateway := true }
    | none =>
      if s.srcRemote c then (s.putCopy k c).readOn k
      else if dOp c.desc = 0 && !dCrc c.desc then
        let r := s.grantRaw c (dCount c.desc)
        match r.2 with
        | .error f => r.1.copyFault k { c with out := f.2 } f.1
        | .ok g => r.1.putCopy k g.copy
      else s.putCopy k c

/-- COPY_START: the channel's next copy starts (R184). It waits for its wait token, for a full gateway (R367) and for a
full mirror slice (R422). -/
def execCopyStart (cluster chan : Nat) (sram : Sram) (s : State) : Out :=
  within cluster Config.clusters <| within chan 16 <| .next <|
    let k := 16 * cluster + chan
    let c := s.chan k
    match c.queue with
    | x :: _ =>
      let full := match s.farDev x with
        | some d => decide (256 ≤ s.gatewayHeld (d % 4))
        | none => dOp x.desc = 0 && !dCrc x.desc && s.locFull (s.copyDst x) (dCount x.desc)
      if x.started || c.held || s.draining || !s.active || !(s.tile x.tile).tokenReady x.word.toNat || full then s
      else s.startCopy k x sram
    | [] => s

/-- The channel's running copy has a grant ready for the engine (R201). -/
def State.wantsGrant (s : State) (k : Nat) : Option Copy :=
  let c := s.chan k
  match c.queue with
  | x :: _ =>
    if x.started && !x.moved && !c.held && s.grantReady x && !s.locFull (s.copyDst x) 4096 then some x else none
  | [] => none

/-- One grant of channel `k`'s running copy (R201, R202). A source read that finds an uncorrectable error delivers nothing:
it fences the source's tile, which the grant then meets, or starts a drain, which stops the channel (R394, R400). -/
def State.grantChan (s : State) (k : Nat) (x : Copy) (sram : Sram) : State :=
  let s := s.setChan k { s.chan k with grants := satTo 64 ((s.chan k).grants + 1) }
  let s := s.copySram x sram
  if s.draining || !((s.chan k).queue.any fun y => decide (y.id = x.id)) then s
  else
    let r := s.grant x
    match r.2 with
    | .error f => r.1.copyFault k { x with out := f.2 } f.1
    | .ok g =>
      let s := r.1.setChan k { r.1.chan k with ovf := satTo 32 ((r.1.chan k).ovf + g.ovf) }
      (s.putCopy k g.copy).readOn k

/-- The CRC-32C of a finished copy (R200): for MXQ the elements and then the scales; for SLICE in address order. -/
def Copy.crcValue (c : Copy) : Nat :=
  let r := if dOp c.desc = 7 then crcOver crcInit (c.kept.map Prod.snd)
    else if dOp c.desc = 2 then crcOver c.crc (c.lit.map (BitVec.ofNat 8)) else c.crc
  crcDone r

/-- The arrival of a completed copy (R47, R203). -/
def State.copyArrival (s : State) (c : Copy) : Arrival :=
  let d := c.desc
  { id := 0, dev := if dCrem d && !s.isOwn (dCdev d) then some (dCdev d) else none, cnum := dCnum d,
    inc := if dCount d = 0 then 0 else dIncr d, epoch := dEpoch d, anyEpoch := false, unit := c.tile, fromDev := 0, pc := 0, who := none }

/-- R203, R190: a copy completes, with its CRC word stored unless COUNT is 0: CHCRC and CHOUT, the arrival, then the token, whose signal above 255 raises TOKEN_OVERFLOW (R40). -/
def State.copyDone (s : State) (k : Nat) (c : Copy) : State :=
  let d := c.desc
  let crc := c.crcValue
  let s := if dCrcWr d && decide (0 < dCount d) then s.wrLocal c.tile (dCrcAddr d) (leBytes 4 crc) else s
  let s := if dCrc d then s.setChan k { s.chan k with crc := crc } else s
  let s := if dArr d then s.sendArrival (clusterEp (k / 16)) .engine (s.copyArrival c) else s
  if (s.tile c.tile).overflows c.word.toNat then s.copyEnds k c c.status c.out (cTOKEN_OVERFLOW, unstated)
  else
    let ch := s.chan k
    let s := s.setChan k { ch with queue := ch.queue.filter (fun y => decide (y.id ≠ c.id)), lastst := c.status, out := c.out }
    (s.setTile c.tile ((s.tile c.tile).signal c.word.toNat)).after c.tile c.ctx

/-- COPY_COMPLETE (R203): every byte of the running copy is performed. -/
def execCopyComplete (cluster chan : Nat) (s : State) : Out :=
  within cluster Config.clusters <| within chan 16 <| .next <|
    let k := 16 * cluster + chan
    match (s.chan k).queue with
    | x :: _ => if x.started && x.moved && decide (x.wait = 0) then s.copyDone k x else s
    | [] => s

/-! ## Narrow accesses (R206, R349, R350) -/

/-- R350: ALIGN rules of a narrow target: within one sector, and the atomic's own alignment. -/
def narrowAlign (op var size a : Nat) : Bool :=
  decide (a % 32 + size ≤ 32) && (decide (op ≠ 3) || decide (a % atomAlign (bits var 2 0) (bits var 4 3) size = 0))

/-- The fault at issue of ldn, stn or atom with registers va, vb, vc (R206, R350, R367). -/
def State.narrowCheck (s : State) (w : Nat) (va vb vc : Nat) : Option FaultAt :=
  let op := wOp w
  let size := bits w 14 9
  let var := bits w 8 0
  let ret := bit var 5
  let bytes := if op = 3 then atomOperandBytes (bits var 2 0) size else size
  let perm := if op = 1 then Perm.read else if op = 2 then Perm.write else Perm.atomic
  let regs := decide (va < 2 ^ 21) && (decide (op ≠ 3) || !ret || decide (vc < 2 ^ 21))
  match s.form vb with
  | some (.tile _ _) => some (cOPERAND, unstated)
  | none => some (cOPERAND, unstated)
  | some l =>
    let a := match l with | .dev a => a | .rack _ a => a | .tile _ a => a
    let far := match l with | .rack d _ => decide (64 ≤ d) | _ => false
    if !regs || far then some (cOPERAND, unstated)
    else if !narrowAlign op var size a then some (cALIGN, vb)
    else [localCheck va bytes, if op = 3 && ret then localCheck vc size else none,
          s.locCheck l size perm].findSome? id

/-- ldn, stn or atom at issue. -/
def narrowAct (h : Head) (w : Nat) (s : State) : Act :=
  let t := h.tile
  let o := capture s h .narrow w (bits w 39 34) (bits w 33 28) (bits w 27 22)
  if 64 ≤ (s.tile t).narrowCount then
    .hold (s.setCtx t h.ctx { s.ctx t h.ctx with stall := .narrowFull (BitVec.ofNat 64 w) })
  else match s.narrowCheck w o.va.toNat o.vb.toNat o.vc.toNat with
    | some f => .fault f
    | none => .go 15 fun s => (s.enqueue t o).advance t h.ctx

def execLdn (h : Head) (f : DF) (s : State) : Out :=
  issue h (encD 1 h f) (usesD (encD 1 h f)) false (narrowAct h (encD 1 h f)) s

def execStn (h : Head) (f : DF) (s : State) : Out :=
  issue h (encD 2 h f) (usesD (encD 2 h f)) false (narrowAct h (encD 2 h f)) s

/-- atom (R350 to R352). -/
def execAtom (h : Head) (f : DF) (s : State) : Out :=
  issue h (encD 3 h f) (usesD (encD 3 h f)) false (narrowAct h (encD 3 h f)) s

/-- A narrow access that waited for room in the narrow path issues (R349). -/
def execNarrowPathFullStall (tile : Nat) (ctx : Ctxt) (s : State) : Out :=
  within tile Config.tiles <| .next <|
    match (s.ctx tile ctx).stall with
    | .narrowFull w =>
      if 64 ≤ (s.tile tile).narrowCount then s
      else s.resume tile ctx (narrowAct (headOf tile ctx w.toNat) w.toNat)
    | _ => s

/-- Update a queued instruction of a tile. -/
def State.setOp (s : State) (t : Nat) (o : UOp) : State := s.setTile t ((s.tile t).setOp o)

/-- The request of a remote narrow access (R353). -/
def State.narrowRop (s : State) (t : Nat) (o : UOp) (d a : Nat) : ROp :=
  let w := o.word.toNat
  let op := wOp w
  let size := bits w 14 9
  let var := bits w 8 0
  let bytes := if op = 3 then atomOperandBytes (bits var 2 0) size else size
  let dst := if op = 3 then o.vc.toNat else o.va.toNat
  { id := 0, kind := if op = 1 then .read else if op = 2 then .write else .atomic,
    sep := clusterEp (s.clusterOf t), dev := d, tag := 0, addr := a, size := size,
    data := if op = 1 then [] else (s.tile t).rdBytes o.va.toNat bytes, mode := if op = 3 then bits var 5 0 else 0,
    local_ := t * 2 ^ 21 + dst, hint := bits w 17 15, owner := .narrow t o.seq, phase := .sent, resends := 0 }

/-- Start a narrow access: a local one takes effect at its sector now, a remote one sends its request. -/
def State.runNarrow (s : State) (t : Nat) (o : UOp) (sram : Sram) : State :=
  let w := o.word.toNat
  let op := wOp w
  let size := bits w 14 9
  let var := bits w 8 0
  let hint := bits w 17 15
  let who := some (t, o.ctx, o.seq)
  let fail := fun (u : State) (f : FaultAt) => u.unitFaultAt t o.ctx .narrow o.seq o.pc f
  match s.form o.vb.toNat with
  | some (.rack d a) =>
    let s := if op = 1 then s else s.sramNote t sram
    let x := (s.tile t).op o.seq
    let s := s.sendRop (s.narrowRop t o d a)
    match x with
    | some y => s.setOp t { y with wait := 1 }
    | none => s
  | some (.dev a) =>
    if op = 1 then
      let r := s.devRead a size hint 0
      match r.2 with
      | .error f => fail r.1 f
      | .ok bs => r.1.wrLocal t o.va.toNat bs
    else if op = 2 then
      let s := s.sramNote t sram
      let r := s.devWrite a ((s.tile t).rdBytes o.va.toNat size) hint 0 who
      match r.2 with
      | some f => fail r.1 f
      | none => r.1
    else
      let s := s.sramNote t sram
      let aop := bits var 2 0
      let r := s.atomic a size aop (bits var 4 3) (bits var 5 5)
        ((s.tile t).rdBytes o.va.toNat (atomOperandBytes aop size)) hint 0 who
      match r.2 with
      | .error f => fail r.1 f
      | .ok old => if bit var 5 then r.1.wrLocal t o.vc.toNat old else r.1
  | _ => s

/-- The word of channel state chrd selects (R207). -/
def Chan.word (c : Chan) (sel : Nat) : Nat :=
  match sel with
  | 0 => c.stat
  | 1 => c.rem
  | 2 => c.crc
  | 3 => c.out
  | 4 => c.ovf
  | _ => c.grants

/-- The effect of chrd or chctl at its start (R207, R208). -/
def State.runChan (s : State) (t : Nat) (o : UOp) : State :=
  let w := o.word.toNat
  let k := 16 * s.clusterOf t + bits w 21 18
  if wOp w = 4 then
    s.setCtx t o.ctx ((s.ctx t o.ctx).wrS (bits w 39 34) (BitVec.ofNat 64 ((s.chan k).word (bits w 2 0))))
  else s.chanAct k (bits w 1 0)

/-- Start a queued instruction of the narrow path (R39, R207). -/
def State.startN (s : State) (t : Nat) (o : UOp) (sram : Sram) : State :=
  let w := o.word.toNat
  let full := match s.form o.vb.toNat with
    | some l => decide (2 ≤ wOp w) && decide (wOp w ≤ 3) && s.locFull l (bits w 14 9)
    | none => false
  if !(s.tile t).startable o || full then s
  else if decide (wOp w = 2 ∨ wOp w = 3) && decide (sram = .uncorrectable) then s.sramFail t
  else if 4 ≤ wOp w then (s.markStarted t o).runChan t o
  else (s.markStarted t o).runNarrow t o sram

/-- NARROW_COMPLETE: the bytes are performed at the destination's scope (R206, R350). -/
def execNarrowComplete (tile seq : Nat) (s : State) : Out :=
  within tile Config.tiles <| .next <|
    match (s.tile tile).op seq with
    | some o =>
      if decide (o.unit = .narrow) && decide (wOp o.word.toNat ≤ 3) && o.started && decide (o.wait = 0) then
        s.completeOp tile o
      else s
    | none => s

/-- chrd and chctl at issue: queued on the narrow path, started at once where it lets them. -/
def issueChan (op : Nat) (h : Head) (f : DF) (s : State) : Out :=
  let w := encD op h f
  issue h w (usesD w) false (fun _ => .go 14 fun s =>
    let o := capture s h .narrow w 0 0 0
    let n := (s.tile h.tile).seq
    ((s.enqueue h.tile o).advance h.tile h.ctx).startN h.tile { o with seq := n } .good) s

/-- chrd (R207). -/
def execChrd (h : Head) (f : DF) (s : State) : Out := issueChan 4 h f s

/-- The word of a chctl row: VAR[1:0] names the action (R208). -/
def execChctlPause (h : Head) (f : DF) (s : State) : Out := issueChan 5 h { f with var := 0 } s
def execChctlResume (h : Head) (f : DF) (s : State) : Out := issueChan 5 h { f with var := 1 } s
def execChctlAbort (h : Head) (f : DF) (s : State) : Out := issueChan 5 h { f with var := 2 } s

end Sys2Proof.Machine
end

