-- ==== Sys2Proof/Machine/Tags.lean ====
section
/-! DEFINITION. Collective tags (chapter 11): the fields of their descriptors, and the end of an operation. -/

namespace Sys2Proof.Machine

/-! ## Descriptor fields (Table 11-2, R316) -/

def gTag (d : Nat) : Nat := bits d 11 0
def gOp (d : Nat) : Nat := bits d 23 16
def gFmt (d : Nat) : Nat := bits d 31 24
def gJ (d : Nat) : Nat := bits d 39 32
def gN (d : Nat) : Nat := bits d 63 48
def gMe (d : Nat) : Nat := bits d 79 64
def gOwner (d : Nat) : Nat := bits d 95 80
def gCount (d : Nat) : Nat := bits d 127 96
def gSrc (d : Nat) : Nat := bits d 191 128
def gDst (d : Nat) : Nat := bits d 255 192
def gExp (d : Nat) : Nat := bits d 319 256
def gResv (d : Nat) : Nat := bits d 271 256
def gEpr (d : Nat) : Nat := bits d 271 256
def gC (d : Nat) : Nat := bits d 287 272
def gSlotb (d : Nat) : Nat := bits d 319 288
def gCrumb (d : Nat) : Nat := bits d 383 320
def gRanktab (d : Nat) : Nat := bits d 447 384
def gTrig (d : Nat) : Nat := bits d 463 448
def gDone (d : Nat) : Nat := bits d 479 464
def gDepoch (d : Nat) : Nat := bits d 483 480
def gTrigv (d : Nat) : Bool := bit d 484
def gArr (d : Nat) : Bool := bit d 485
def gNodl (d : Nat) : Bool := bit d 486
def gDrem (d : Nat) : Bool := bit d 487
def gGen (d : Nat) : Nat := bits d 495 488
def gDeadline (d : Nat) : Nat := bits d 511 496

/-! ## Tags -/

def State.tagAt (s : State) (t : Nat) : Tag := SMap.get Tag.free s.tags t
def State.setTag (s : State) (t : Nat) (x : Tag) : State := { s with tags := SMap.set Tag.free s.tags t x }

/-- The endpoint of a tag's home engine (R298). -/
def homeEngine (t : Nat) : Nat := engineEp (t / 1024)

/-- An operation in progress. -/
def Tag.busy (x : Tag) : Bool := decide (1 ≤ x.st) && decide (x.st ≤ 3)
def Tag.live (x : Tag) : Bool := decide (x.st = 2) || decide (x.st = 3)

/-- The agreed exponent of block b (R324). -/
def Tag.expOf (x : Tag) (b : Nat) : Int := sext 16 (x.exps.getD b 0)

/-- PRIMARY, BACKUP and BKV of a rank-table entry. -/
def Tag.primary (x : Tag) (r : Nat) : Nat := bits (x.ranks.getD r 0) 7 0
def Tag.backupDev (x : Tag) (r : Nat) : Option Nat :=
  let e := x.ranks.getD r 0
  if bit e 16 then some (bits e 15 8) else none

/-! ## The end of an operation (R307 to R310) -/

/-- The completion arrival (R309). Where the rank table could not be read (R308), the primary is unknown and the arrival is
local (DESIGN CHOICE, log 57). -/
def State.doneArrival (s : State) (t : Nat) (x : Tag) : State :=
  let d := x.desc
  if !gArr d then s
  else
    let p := x.primary (gMe d)
    s.sendArrival (homeEngine t) .engine
      { id := 0, dev := if gDrem d && !x.ranks.isEmpty && !s.isOwn p then some p else none, cnum := gDone d, inc := 1, epoch := gDepoch d,
        anyEpoch := false, unit := 0x7FF, fromDev := 0, pc := 0, who := none }

/-- End an operation in a state of Table 11-4. Sent fragments and waiting contributions are dropped; the dumbwaiter's
sent flits stay (R321). -/
def State.endTag (s : State) (t st reason nmiss miss : Nat) : State :=
  let x := s.tagAt t
  let s := s.setTag t { x with st := st, reason := reason, nmiss := nmiss, miss := miss, frags := [], sent := [],
                               flagged := [], value := [], own := [], results := [], wait := 0 }
  let s := { s with puts := s.puts.filter fun p => decide (p.tag ≠ t) }
  s.doneArrival t x

/-- A memory error of an engine (R308). -/
def State.memErr (s : State) (t : Nat) : State := s.endTag t 6 4 0 (gMe (s.tagAt t).desc)

/-- An exponent word has been written on another module; with the last one the operation is DONE (R341). -/
def State.expAcked (s : State) (t : Nat) : State :=
  let x := s.tagAt t
  if x.wait = 0 then s
  else if x.wait = 1 then s.endTag t 4 0 0 0
  else s.setTag t { x with wait := x.wait - 1 }

/-- An exponent word could not be written on another module: MEMERR (R341). -/
def State.expFailed (s : State) (t : Nat) : State := if (s.tagAt t).wait = 0 then s else s.memErr t

/-- A message of an operation's own rank has failed under R263: FAILED with reason SENDFAIL (R308). `w` is its
collective word (Table 11-5). -/
def State.sendFailed (s : State) (w : Nat) : State :=
  let t := bits w 11 0
  let x := s.tagAt t
  if x.live && decide (gGen x.desc = bits w 56 49) then s.endTag t 6 2 0 (gMe x.desc) else s

end Sys2Proof.Machine
end

