-- ==== Sys2Proof/Machine/Messages.lean ====
section
/-! DEFINITION. End-to-end delivery (R258 to R266): reorder stores, acknowledgements, NACKs, re-sends and failure, and
how a failed rack operation ends for its requester. -/

namespace Sys2Proof.Machine

/-! ## The end of a rack operation that fails -/

/-- The rack address of an operation's target (R32). -/
def ROp.rackAddr (o : ROp) : Nat := o.dev * 2 ^ 48 + o.addr

/-- The counter of an ARRIVE as FINFO shows it (R263). -/
def ROp.counterWord (o : ROp) : Nat := Machine.counterWord (bits o.addr 15 0) o.dev (bits o.addr 19 16)

def State.dropRop (s : State) (id : Nat) : State := { s with rops := s.rops.filter fun o => decide (o.id ≠ id) }

/-- A rack operation ends with a fault cause for its requester (R263, R357, R362); a mirror write ends protection (R483). -/
def State.failRop (s : State) (o : ROp) (cause : Nat) : State :=
  let s := s.dropRop o.id
  match o.owner with
  | .narrow t n =>
    match (s.tile t).op n with
    | some x => s.unitFaultAt t x.ctx .narrow n x.pc (cause, o.rackAddr)
    | none => s
  | .copy id _ =>
    match s.findCopy id with
    | some (k, x) => s.copyFault k x (cause, o.rackAddr)
    | none => s
  | .arrive t c n pc => s.unitFaultAt t c .core n pc (cause, o.counterWord)
  | .engine => s
  | .expWord t => s.expFailed t
  | .mirror _ _ => s.unprotect

/-- Send the operations a stream held back, once none of it waits for a re-send (R361). -/
def State.releaseHeld (s : State) (k : StreamKey) : State :=
  if s.rops.any fun o => decide (o.stream = k) && decide (o.phase = .retried) then s
  else
    let held := s.rops.filter fun o => decide (o.stream = k) && decide (o.phase = .held)
    held.foldl (fun u o =>
      match u.freeTag k with
      | none => u
      | some t =>
        let o := { o with phase := .sent, tag := t }
        State.request { u with rops := u.rops.map fun x => if x.id = o.id then o else x } o false) s

/-! ## Sources (R259, R262, R263) -/

/-- The outcome for exhausted re-sends: the message and every later one of its stream end, and the stream starts afresh
(R263, R264). -/
def State.failStream (s : State) (k : StreamKey) (seq : Nat) : State :=
  let ms := (s.fab.of k).dropWhile fun m => decide (m.seq ≠ seq)
  let o := s.fab.outStream k
  let f := s.fab.setOut { o with fresh := true }
  let s := s.setFab { f with out := f.out.filter fun m => !ms.contains m }
  let s := s.bump F.FCOUNT_COUNT 11 ms.length
  ms.foldl (fun u m =>
    match m.rop with
    | none => if m.kind = kCOLL then u.sendFailed (leValue (m.data.take 8)) else u.hostFailed m
    | some id => match u.rops.find? fun (o : ROp) => decide (o.id = id) with
      | some o => u.failRop o cRACK_RETRY_LIMIT
      | none => u) s

/-- The oldest unacknowledged message of a stream. -/
def Fabric.oldest (f : Fabric) (k : StreamKey) : Option OutMsg := (f.of k).find? fun m => m.sent

/-- Re-send a message; while it is the oldest the re-send counts, and past RESENDMAX it fails (R263). -/
def State.resend (s : State) (m : OutMsg) (syn : Bool) : State :=
  let oldest := decide (s.fab.oldest m.key = some m)
  if oldest && decide (s.get F.FABCTL_RESENDMAX 0 ≤ m.resends) then s.failStream m.key m.seq
  else
    let m' := { m with resends := if oldest then m.resends + 1 else m.resends, syn := m.syn || syn }
    let s := (s.setFab (s.fab.setMsg m')).bump F.FCOUNT_COUNT 9 1
    s.launchMsg m' true

/-- A cumulative acknowledgement covers every message up to `seq` (R259, R261). -/
def State.acked (s : State) (k : StreamKey) (seq : Nat) : State :=
  let covered := fun (m : OutMsg) => decide (m.key = k) && m.sent && decide ((seq + 65536 - m.seq) % 65536 < 32768)
  State.pump { s with fab := { s.fab with out := s.fab.out.filter fun m => !covered m } } k

/-- The acknowledgement a flit carries. -/
def State.takeAck (s : State) (f : Flit) : State :=
  match f.ack with
  | none => s
  | some (c, n) => s.acked { ep := f.dep, dev := f.sdev, far := f.sep, cls := c } n

/-! ## Destinations (R260, R261, R264) -/

/-- An endpoint refuses a message with a NACK of reason NOSTREAM or STREAMFULL (R264): one for a message, at its first
flit; the others of a refused message are discarded. -/
def State.refuseStream (s : State) (f : Flit) (reason : Nat) : State :=
  let n : Flit :=
    { Flit.empty with sep := f.dep, dep := f.sep, sdev := f.ddev, ddev := f.sdev, kind := kNACK, cls := 1,
                      data := leBytes 2 f.seq ++ leBytes 1 f.cls ++ leBytes 1 reason ++ leBytes 2 f.dep
                        ++ leBytes 1 f.ddev ++ leBytes 1 f.tag }
  s.setFab { s.fab with waiting := s.fab.waiting ++ [(f.dep / 16, n)] }

/-- Flits of one message in a reorder store, by FIDX. -/
def InStream.message (i : InStream) : Option (List Flit) :=
  let fs := i.store.filter fun f => decide (f.seq = i.next)
  match fs with
  | [] => none
  | f :: _ =>
    let parts := (List.range (f.fcnt + 1)).filterMap fun n => fs.find? fun g => decide (g.fidx = n)
    if parts.length = f.fcnt + 1 then some parts else none

/-- Deliver every message that is next in order, with fuel. -/
def deliverRun : Nat → InStream → List InMsg → InStream × List InMsg
  | 0, i, out => (i, out)
  | n + 1, i, out =>
    match i.message with
    | none => (i, out)
    | some fs =>
      let f := fs.headD Flit.empty
      let m : InMsg := { key := i.key, ddev := f.ddev, kind := f.kind, tag := f.tag, hint := f.hint,
                         data := fs.flatMap Flit.data, early := false }
      deliverRun n { i with next := (i.next + 1) % 65536, due := i.due + 1,
                            store := i.store.filter fun g => decide (g.seq ≠ i.next) } (out ++ [m])

/-- A known stream takes a flit: duplicates are discarded and counted, others stored, messages delivered in order. -/
def State.storeFlit (s : State) (i : InStream) (f : Flit) : State :=
  let put := fun (u : State) (j : InStream) =>
    u.setFab { u.fab with ins := u.fab.ins.map fun x => if x.key = j.key then j else x }
  if (i.next + 65535 - f.seq) % 65536 < 32768 then
    let s := if f.fidx = f.fcnt then s.bump F.FCOUNT_COUNT 10 1 else s
    put s { i with due := max i.due 1 }
  else
    let known := i.store.any fun g => decide (g.seq = f.seq) && decide (g.fidx = f.fidx)
    let i := if known then i else { i with store := i.store ++ [f] }
    let r := deliverRun 512 i []
    let s := put s r.1
    s.setFab { s.fab with inbox := s.fab.inbox ++ r.2 }

/-- A destination takes a flit of a sequenced message (R260, R264). -/
def State.takeFlit (s : State) (f : Flit) : State :=
  let s := s.takeAck f
  match s.fab.ins.find? fun i => decide (i.key = f.stream) with
  | some i => s.storeFlit i f
  | none =>
    if !f.syn then if f.fidx = 0 then s.refuseStream f 7 else s
    else if 16384 ≤ (s.fab.ins.filter fun i => decide (i.key.ep = f.dep)).length then
      if f.fidx = 0 then s.refuseStream f 8 else s
    else
      let i : InStream := { key := f.stream, next := f.seq, due := 0, store := [] }
      State.storeFlit { s with fab := { s.fab with ins := s.fab.ins ++ [i] } } i f

/-- Landed flit number `n`, taken from its endpoint. -/
def State.takeLanded (s : State) (n : Nat) (ok : Flit → Bool) (k : Flit → State → State) : State :=
  match s.fab.landed[n]? with
  | none => s
  | some f => if ok f then k f (s.setFab { s.fab with landed := s.fab.landed.eraseIdx n }) else s

/-- An endpoint takes messages: outside the states in which the module answers, only the edge interfaces do (R357, R480:
a request to a module in Nap is never acknowledged, and its requester ends under R263). -/
def State.takes (s : State) (ep : Nat) : Bool := s.answers || decide (ep % 16 = 7)

/-- MESSAGE_DELIVERY: the destination of landed flit `n` takes it and delivers what is complete and in order. -/
def execMessageDelivery (n : Nat) (s : State) : Out :=
  .next (s.takeLanded n (fun f => decide (f.kind ≠ kACK) && decide (f.kind ≠ kNACK) && s.takes f.dep)
    fun f u => u.takeFlit f)

/-- ACK_SEND: a destination acknowledges a stream (R261). -/
def execAckSend (k : StreamKey) (s : State) : Out :=
  .next <| match s.fab.ins.find? fun i => decide (i.key = k) && decide (0 < i.due) && s.takes k.ep with
    | none => s
    | some i =>
      let a : Flit := { Flit.empty with sep := k.ep, dep := k.far, sdev := s.sdevFor k.dev, ddev := k.dev, kind := kACK,
                                        cls := 1, ack := some (k.cls, (i.next + 65535) % 65536) }
      let s := s.ackSent k (some (k.cls, 0))
      s.setFab { s.fab with waiting := s.fab.waiting ++ [(k.ep / 16, a)] }

/-- ACK_RECEIVED: a source takes landed ACK flit `n` (R259). -/
def execAckReceived (n : Nat) (s : State) : Out :=
  .next (s.takeLanded n (fun f => decide (f.kind = kACK)) fun f u => u.takeAck f)

/-- A source receives a NACK (R262, R264). -/
def State.takeNack (s : State) (f : Flit) : State :=
  let v := leValue f.data
  let k : StreamKey := { ep := f.dep, dev := bits v 55 48, far := bits v 41 32, cls := bits v 17 16 }
  let seq := bits v 15 0
  match bits v 31 24, (s.fab.of k).find? fun m => m.sent && decide (m.seq = seq) with
  | 7, _ => match s.fab.oldest k with
    | some m => s.resend m true
    | none => s
  | 8, _ => match s.fab.oldest k with
    | some m => s.resend m false
    | none => s
  | 4, some m => s.failStream k m.seq
  | _, some m => s.resend m false
  | _, none => s

/-- NACK: a source takes landed NACK flit `n`. -/
def execNack (n : Nat) (s : State) : Out :=
  .next (s.takeLanded n (fun f => decide (f.kind = kNACK)) fun f u => u.takeNack f)

/-- E2ETO_EXPIRY: no acknowledgement has advanced the stream for E2ETO (R263). -/
def execE2etoExpiry (k : StreamKey) (s : State) : Out :=
  .next <| match s.fab.oldest k with
    | some m => s.resend m false
    | none => s

/-- STREAM_FORGET: 64 µs after its last traffic, with every received message delivered (R264). -/
def execStreamForget (k : StreamKey) (s : State) : Out :=
  .next (s.setFab { s.fab with ins := s.fab.ins.filter fun i => decide (i.key ≠ k) || !i.store.isEmpty })

/-- A delivered message of inbox place `n`, if it is of the wanted kind and the first of its stream. -/
def State.inMsg (s : State) (n : Nat) (ok : InMsg → Bool) : Option InMsg :=
  match s.fab.inbox[n]? with
  | none => none
  | some m => if ok m && !((s.fab.inbox.take n).any fun x => decide (x.key = m.key)) then some m else none

/-- Remove inbox message `n`. -/
def State.dropIn (s : State) (n : Nat) : State := s.setFab { s.fab with inbox := s.fab.inbox.eraseIdx n }

end Sys2Proof.Machine
end

