-- ==== Sys2Proof/Machine/Buckets.lean ====
section
/-! DEFINITION. Collective descriptors and blocks (chapters 11 and 12): checks (R299 to R304),
sizes, and the conversion of a tile's values into contribution blocks (R328, R329, R339). -/

namespace Sys2Proof.Machine

/-- Which instruction starts an OP (Table 11-1): 0 bkarm, 1 xfire, 2 xa2a. -/
def opStarter (op : Nat) : Option Nat :=
  if op ≤ 2 then some 0 else if op ≤ 5 ∨ (0x10 ≤ op ∧ op ≤ 0x14) then some 1 else if op = 0x20 then some 2 else none

def isDw (d : Nat) : Bool := decide (0x10 ≤ gOp d) && decide (gOp d ≤ 0x14)
def isRed (d : Nat) : Bool := decide (gOp d ≤ 2)
def isXa (d : Nat) : Bool := decide (gOp d = 0x20)
def isBx (d : Nat) : Bool := isRed d && decide (gFmt d = 0x14)

/-- An operation that is a barrier (R301). -/
def isBarrier (d : Nat) : Bool := if isXa d then decide (gSlotb d = 0) else decide (gCount d = 0) || decide (gOp d = 5)

/-- SX64 by FMT. -/
def g64 (d : Nat) : Bool := decide (gFmt d = 0x12)

/-- Bytes of a contribution block and of a result block (R330, R335). -/
def blockB (d : Nat) : Nat :=
  if gFmt d = 0x14 then 40 else if gOp d = 1 then thinSize (g64 d) (gJ d) else sxSize (g64 d)
def resultB (d : Nat) : Nat := if gFmt d = 0x14 then 40 else sxSize (g64 d)

/-- Blocks that rank r combines under OP 0x02: those b with b mod N = r. -/
def blocksOf (d r : Nat) : Nat := if r < gCount d then ceilDiv (gCount d - r) (gN d) else 0

/-- The place MAPS names, as a form of Table 7-2 (R316); `none` for a reserved value. -/
def mapsForm (m : Nat) : Option Nat :=
  match bits m 31 30 with
  | 0 => if m = 0 then some 0 else none
  | 1 => some (bits m 29 19 * 2 ^ 21 + bits m 18 0 * 4)
  | 2 => some (2 ^ 62 + bits m 29 0 * 2 ^ 18)
  | _ => none

/-- Sizes of the areas (Tables 11-1, 11-7). -/
def gSrcBytes (d : Nat) : Nat :=
  match gOp d with
  | 0x20 => gN d * gEpr d * gC d * gSlotb d
  | 3 => gCount d | 4 => gCount d
  | 5 => 0
  | _ => if isDw d then gCount d else gCount d * blockB d
def gDstBytes (d : Nat) : Nat :=
  match gOp d with
  | 0x20 => gN d * gEpr d * gC d * gSlotb d
  | 3 => gN d * gCount d | 4 => gCount d
  | 5 => 0
  | _ => if isDw d then gCount d else gCount d * resultB d
def mapWords (d : Nat) : Nat := ceilDiv (gC d) 32
def mapBytes (d : Nat) : Nat := 4 * mapWords d * gN d * gEpr d + 4 * gN d * gEpr d

/-- A descriptor address: a form of Table 7-2 that is not on another module, since R303 has it checked as R188 checks a copy,
and R366 makes a rack address of anything but a RAW copy a bad field (DEDUCED, log 40). -/
def State.goodForm (s : State) (v : Nat) : Bool :=
  match s.form v with
  | some (.rack _ _) => false
  | some _ => true
  | none => false

/-- Whether a descriptor needs a SRC and a DST (Table 11-2): they must be 0 where it does not. -/
def needSrc (d : Nat) : Bool := decide (gOp d ≠ 5) && (decide (gOp d ≠ 4) || decide (gMe d = gOwner d))
def needDst (d : Nat) : Bool :=
  if isXa d then decide (gDst d ≠ 0) else decide (gOp d ≠ 5) && (decide (2 ≤ gOp d) || decide (gMe d = gOwner d))

/-- R304 check 2: the byte offset of the first bad field and whether the code is WRONGOP. -/
def State.badDesc (s : State) (starter d : Nat) : Option (Nat × Bool) :=
  let op := gOp d
  let me := gMe d
  let red := isRed d
  let dw := isDw d
  let xa := isXa d
  let maps := mapsForm (gCount d)
  let rows : List (Nat × Bool) :=
    [(0, bits d 15 12 ≠ 0),
     (2, opStarter op ≠ some starter),
     (3, if red then !(gFmt d = 0x12 ∨ gFmt d = 0x13 ∨ (gFmt d = 0x14 ∧ op ≠ 1)) else gFmt d ≠ 0),
     (4, if op = 1 then !([1, 2, 4, 8].contains (gJ d)) else gJ d ≠ 0),
     (5, bits d 47 40 ≠ 0),
     (6, gN d = 0 ∨ (if dw then 64 else 256) < gN d),
     (8, gN d ≤ me),
     (10, if op ≤ 1 ∨ op = 4 ∨ op = 0x14 then gN d ≤ gOwner d else gOwner d ≠ 0),
     (12, if xa then maps.isNone || decide ((gDst d = 0) ≠ (gCount d = 0))
            || (match maps with | some m => gCount d ≠ 0 && !s.goodForm m | none => false)
          else if dw then 32 < gCount d ∨ (op ≤ 0x12 ∧ gCount d % 8 ≠ 0)
          else if op = 5 then gCount d ≠ 0
          else 2 ^ 31 < (if red then gCount d * max (blockB d) (resultB d) else gCount d)),
     (16, if needSrc d then !s.goodForm (gSrc d) else gSrc d ≠ 0),
     (24, if needDst d then !s.goodForm (gDst d) else gDst d ≠ 0),
     (32, if xa then gEpr d = 0 ∨ 256 < gEpr d
          else if dw then gResv d % 8 ≠ 0 ∨ 1016 < gResv d
          else if red ∧ gFmt d ≠ 0x14 then (s.form (gExp d)).isNone else gExp d ≠ 0),
     (34, if xa then 1024 < gC d else dw && decide (bits d 319 272 ≠ 0)),
     (36, xa && (decide (gSlotb d % 32 ≠ 0) || decide (65536 < gSlotb d))),
     (40, if xa ∨ op = 1 then !s.goodForm (gCrumb d) else gCrumb d ≠ 0),
     (48, !s.goodForm (gRanktab d)),
     (62, if gNodl d then gDeadline d ≠ 0 else gDeadline d = 0)]
  (rows.find? fun r => r.2).map fun r =>
    (r.1, decide (r.1 = 2) && (opStarter op).isSome)

/-- R304 check 3: the address ranges over their whole size. -/
def State.descRanges (s : State) (d : Nat) : Option FaultAt :=
  let r := fun v n p => if n = 0 then none else s.rangeCheck v n p
  let sx := isRed d && decide (gFmt d ≠ 0x14)
  [r (gSrc d) (if needSrc d then gSrcBytes d else 0) .read,
   r (gDst d) (if needDst d then gDstBytes d else 0) .write,
   r (gExp d) (if sx then 2 * gCount d else 0) .read,
   r (gExp d) (if sx then 2 * gCount d else 0) .write,
   r (gCrumb d) (if gOp d = 1 then 272 * gCount d else if isXa d then 4 * gN d * gEpr d else 0) .read,
   r (gCrumb d) (if gOp d = 1 then 272 * gCount d else 0) .write,
   r ((mapsForm (gCount d)).getD 0) (if isXa d ∧ gCount d ≠ 0 then mapBytes d else 0) .write,
   r (gRanktab d) (4 * gN d) .read].findSome? id

/-! ## Memory of an engine -/

/-- Read bytes at a form. -/
def State.rdFormE (s : State) (v o n : Nat) : State × Except FaultAt (List Byte) :=
  match s.form v with
  | none => (s, .error (cOPERAND, v))
  | some l => s.rdLoc (l.plus o) n 0

/-- Read or write bytes at a form; `none` is a memory error of R308. -/
def State.rdForm (s : State) (v o n : Nat) : State × Option (List Byte) :=
  let r := s.rdFormE v o n
  (r.1, match r.2 with | .ok bs => some bs | .error _ => none)

def State.wrForm (s : State) (v o : Nat) (bs : List Byte) : State × Bool :=
  match s.form v with
  | none => (s, false)
  | some l =>
    let r := s.wrLoc (l.plus o) bs 0 none
    (r.1, r.2.isNone)

/-! ## Conversion of contributions (R328, R329) -/

/-- Element width of a source type (Table 12-1). -/
def stypeBytes (stype : Nat) : Nat := match stype with | 0 => 32 | 1 => 4 | _ => 8

/-- The bits of source element k of a call's block i. -/
def srcBits (t : Tile) (stype srcl i k : Nat) : Nat :=
  t.rdNat (srcl + stypeBytes stype * (32 * i + k)) (stypeBytes stype)

/-- R328: what a KX element contributes to an SX block: T x 2^A, or its special code. -/
def Kx.srcVal (x : Kx) : FVal :=
  if x.nan || (x.pinf && x.ninf) || x.ovf then .nan
  else if x.pinf then .inf false
  else if x.ninf then .inf true
  else if x.aset then FVal.ofInt false x.t x.anchor
  else .fin false 0 0

/-- Source element k of a call's block i as the value R328 converts. -/
def srcVal (t : Tile) (stype srcl i k : Nat) : FVal :=
  let v := srcBits t stype srcl i k
  match stype with
  | 0 => (Kx.ofBits v).srcVal
  | 1 => fp32.decode v
  | _ => fp64.decode v

/-- IDX and STREAM of R328. -/
def State.bkRnd (s : State) (d b k : Nat) : Rnd :=
  (NumCfg.ofReg (s.reg .NUMCFG 0)).rnd ((gGen d * 2 ^ 40 + 32 * b + k) % 2 ^ 64) (gTag d)

/-- Convert block i of a call into bucket block b on grid exponent e: SX. -/
def State.convertSx (s : State) (d : Nat) (o : Origin) (i b : Nat) (e : Int) : SxBlock :=
  sxForm (g64 d) e (s.bkRnd d b) ((List.range 32).map fun k => srcVal (s.tile o.tile) o.stype o.srcl i k)

/-- Block i of a call on grid exponent e for block top-k, which tests for overflow itself (R329). -/
def State.convertRaw (s : State) (d : Nat) (o : Origin) (i b : Nat) (e : Int) : SxBlock :=
  sxRaw (g64 d) e (s.bkRnd d b) ((List.range 32).map fun k => srcVal (s.tile o.tile) o.stype o.srcl i k)

/-- BX8: a KX source is first read out to FP32 (R328, R110). -/
def State.convertBx (s : State) (d : Nat) (o : Origin) (i b : Nat) : List Byte :=
  bxForm (s.bkRnd d b) ((List.range 32).map fun k =>
    if o.stype = 0 then
      fp32.decode (fp32.encode (s.bkRnd d b k) (Kx.ofBits (srcBits (s.tile o.tile) 0 o.srcl i k)).value)
    else srcVal (s.tile o.tile) o.stype o.srcl i k)

/-- The bytes of contribution block b on agreed exponent e, and the crumb integers to write (R328, R329), or the fault of the
crumb's read. -/
def State.contribution (s : State) (x : Tag) (o : Origin) (i b : Nat) (e : Int) :
    State × Except FaultAt (List Byte × Option (List Int)) :=
  let d := x.desc
  if gFmt d = 0x14 then (s, .ok (s.convertBx d o i b, none))
  else if gOp d = 1 then
    let r := s.rdFormE (gCrumb d) (272 * b) 272
    (r.1, r.2.map fun cb =>
      let crumb := SxBlock.dense true cb
      let k := topK (g64 d) (gJ d) (s.convertRaw d o i b e) crumb.e crumb.ns
      (k.out, k.crumb))
  else (s, .ok ((s.convertSx d o i b e).bytes (g64 d), none))

/-- The crumb as bkput found it (R339): recovered on e_b from the crumb now stored, the values the block sent and the
origin converted again, unless bkput overflowed the block. Answers its exponent and integers. -/
def State.oldCrumb (s : State) (x : Tag) (o : Origin) (i b : Nat) (sent crumb : List Byte) : Int × List Int :=
  let d := x.desc
  let c := SxBlock.dense true crumb
  if (SxBlock.ofHeader sent).ovfm then (c.e, c.ns)
  else
    let e := x.expOf b
    let orig := s.convertRaw d o i b e
    let vs := (SxBlock.expand (g64 d) sent).ns
    let u : Int := if g64 d then 1 else 2 ^ 32
    (e, (List.range 32).map fun k =>
      if orig.codes.getD k 0 ≠ 0 then c.ns.getD k 0
      else c.ns.getD k 0 + vs.getD k 0 * u - orig.ns.getD k 0 * u)

/-- Re-grid a block that has no origin (R339). -/
def State.regridBlock (s : State) (d b : Nat) (e2 : Int) (blk : SxBlock) : SxBlock :=
  { blk with e := e2, ns := blk.ns.zipIdx.map fun n =>
      if blk.codes.getD n.2 0 ≠ 0 then n.1
      else sgnInt (decide (n.1 < 0)) (roundTo (s.bkRnd d b n.2) n.1.natAbs blk.e e2) }

/-- The origin that covers block b, and the call's block number (R330). -/
def Tag.originOf (x : Tag) (b : Nat) : Option (Origin × Nat) :=
  (x.origins.find? fun o => decide (o.b0 ≤ b) && decide (b < o.b0 + o.nb)).map fun o => (o, b - o.b0)

/-- Rerun data of block b on grid e2 (R339), and the crumb as bkput found it; `none` on a memory error, or when the origin
lies in a fenced tile (R308). -/
def State.rerunBlock (s : State) (x : Tag) (b : Nat) (e2 : Int) :
    State × Option (List Byte × Option (Int × List Int)) :=
  let d := x.desc
  let w := g64 d
  let src := s.rdForm (gSrc d) (blockB d * b) (blockB d)
  match src.2 with
  | none => (src.1, none)
  | some bs =>
    match x.originOf b with
    | some (o, i) =>
      if s.tileFenced o.tile then (src.1, none)
      else if gOp d = 1 then
        let cr := src.1.rdForm (gCrumb d) (272 * b) 272
        match cr.2 with
        | none => (cr.1, none)
        | some cb =>
          let old := match x.found.find? fun f => decide (f.1 = b) with
            | some f => f.2
            | none => s.oldCrumb x o i b bs cb
          let k := topK w (gJ d) (s.convertRaw d o i b e2) old.1 old.2
          let wr := match k.crumb with
            | some cs => cr.1.wrForm (gCrumb d) (272 * b) (crumbBytes e2 cs)
            | none => cr.1.wrForm (gCrumb d) (272 * b) (crumbBytes old.1 old.2)
          (wr.1, if wr.2 then some (k.out, some old) else none)
      else (src.1, some ((s.convertSx d o i b e2).bytes w, none))
    | none =>
      if gOp d = 1 then
        (src.1, some ((s.regridBlock d b e2 (SxBlock.expand w bs)).thinned w (gJ d) (thinMask bs), none))
      else (src.1, some ((s.regridBlock d b e2 (SxBlock.dense w bs)).bytes w, none))

/-! ## Combining (R335 to R337) -/

/-- A contribution block as received. -/
def readBlock (d : Nat) (bs : List Byte) : SxBlock :=
  if gOp d = 1 then SxBlock.expand (g64 d) bs else SxBlock.dense (g64 d) bs

/-- R325, R335: the block does not match the bucket. -/
def blockMismatch (d : Nat) (e : Int) (bs : List Byte) : Bool :=
  decide ((SxBlock.ofHeader bs).e ≠ e) || (decide (gOp d = 1) && thinBad (gJ d) bs)

/-- Table 12-4: the result code of one element. -/
def mergeCodes (cs : List Nat) : Nat :=
  if cs.contains 1 ∨ (cs.contains 2 ∧ cs.contains 3) then 1
  else if cs.contains 2 then 2 else if cs.contains 3 then 3 else 0

/-- R336: combine the contributions to one block on grid exponent e. -/
def combineBlocks (w64 : Bool) (e : Int) (bs : List SxBlock) : SxBlock :=
  let code := fun k => mergeCodes (bs.map fun b => b.codes.getD k 0)
  let w := 8 * sxW w64
  { e := e, maxe := 0, ovfm := false, thin := false, codes := (List.range 32).map code,
    ns := (List.range 32).map fun k =>
      if code k ≠ 0 then 0 else sext w (wrapInt w (bs.foldl (fun a b => a + b.ns.getD k 0) 0)) }

/-- The largest MAXE among contributions that carry OVFM (R338). -/
def maxeOf (bs : List SxBlock) : Option Int :=
  bs.foldl (fun a b => if b.ovfm then maxOpt a b.maxe else a) none

/-- raise(N) of R338. -/
def raiseN (n : Nat) : Int := max ((bitLen (n - 1) : Int) - 7) 0

/-- R119, R299: add a block in FP32 and quantise again. -/
def State.bxStep (s : State) (d b : Nat) (a own : List Byte) : List Byte :=
  bxForm (s.bkRnd d b) (List.zipWith (fun x y => fp32.decode (fp32.encode .rne (x.add y))) (bxVals a) (bxVals own))

/-- A BX8 block that counts as a NaN contribution (R337). -/
def bxNan (bs : List Byte) : Bool := bit (bs.getD 1 0).toNat 0

end Sys2Proof.Machine
end

