-- ==== Sys2Proof/Machine/Rack.lean ====
section
/-! DEFINITION. Rack memory space (chapter 13): home agents and counter endpoints that serve remote requests, requesters
that take replies, the retry protocol, and the gateways. -/

namespace Sys2Proof.Machine

/-! ## Home agents (R356, R360) -/

/-- Send the reply to a delivered request, in the reply class with its TAG. -/
def State.reply (s : State) (m : InMsg) (kind : Nat) (data : List Byte) : State :=
  s.post { m.key with cls := 1 } (s.sdevFor m.key.dev) kind 0 m.tag data none

/-- REFUSE with a reason of Table 13-4, counted (R357). -/
def State.refuse (s : State) (m : InMsg) (reason : Nat) : State :=
  (s.bump F.RMCOUNT_COUNT 2 1).reply m kREFUSE (leBytes 8 reason)

/-- Table 13-4, checks 2 to 5: the first that fails. `early`: the request had been accepted when a drain began (R400). -/
def State.rackCheck (s : State) (a n : Nat) (p : Perm) (early : Bool) : Option Nat :=
  if s.capacity < a + n then some 2
  else match (List.range 64).find? fun k => s.segCovers a n k && decide (s.get F.SEGDESC_RACKVIS k = 1) with
    | none => some 3
    | some k => if !s.segAllows k p then some 4 else if s.draining && !early then some 5 else none

/-- What a check of the sector at an address finds, with its channel; a fenced stack reads as uncorrectable (R404). -/
def State.sectorRead (s : State) (a : Nat) : Nat × SecRead :=
  let (ch, q, o) := s.place a
  (ch, if s.stackFenced ch then .cor else decodeSector (s.mem.sector ch q (o / 32)))

/-- The reason of a memory failure: check 6, DET, of every sector comes before check 7, COR (Table 13-4). -/
def failReason (rs : List SecRead) : Option Nat :=
  if rs.contains .det then some 6 else if rs.contains .cor then some 7 else none

/-- The reason of a failing read of [a, a + n) (Table 13-4). -/
def State.readReason (s : State) (a n : Nat) : Nat :=
  (failReason ((cut 32 a n).map fun p => (s.sectorRead p.1).2)).getD 7

/-- The request word of a message (Table 13-2). -/
def InMsg.word (m : InMsg) : Nat := leValue (m.data.take 8)
def InMsg.addr (m : InMsg) : Nat := bits m.word 47 0
def InMsg.size (m : InMsg) : Nat := bits m.word 56 48
def InMsg.rest (m : InMsg) : List Byte := m.data.drop 8

/-- Requests of one endpoint that stand before place `n` in the inbox: its queue (R360). -/
def State.queuedBefore (s : State) (n ep : Nat) : Nat :=
  ((s.fab.inbox.take n).filter fun m => decide (m.key.ep = ep) && decide (m.key.cls = 0)).length

/-- Answer RETRY, to this request and later ones of its stream (R360). -/
def State.retry (s : State) (m : InMsg) : State :=
  let s := { s with refusing := m.key :: s.refusing.filter fun k => decide (k ≠ m.key) }
  (s.bump F.RMCOUNT_COUNT 1 1).reply m kRETRY (leBytes 8 (s.get F.RMCTL_HINT 0))

/-- A home agent receives request `n` of the inbox: RETRY while its queue is full or the stream must re-send, else the
request is accepted and served by `f` (R360). -/
def State.serve (s : State) (n kind : Nat) (extra : InMsg → Bool) (f : InMsg → State → State) : State :=
  match s.inMsg n fun m => decide (m.kind = kind) && decide (m.key.ep % 16 = 5) && extra m with
  | none => s
  | some m =>
    if !s.answers then s
    else
      let full := decide (512 ≤ s.queuedBefore n m.key.ep)
      let s := s.dropIn n
      if full || (s.refusing.contains m.key && !bit m.word 63) then s.retry m
      else
        let s := { s with refusing := s.refusing.filter fun k => decide (k ≠ m.key) }
        f m (s.bump F.RMCOUNT_COUNT 0 1)

/-- The range of a request breaks R354 or its word holds a reserved value. -/
def malformed (m : InMsg) (most unit : Nat) (reserved : Bool) : Bool :=
  reserved || decide (m.size = 0) || decide (most < m.size) || decide (unit < m.addr % unit + m.size)

/-- Serve a READ (R356). -/
def State.serveRead (m : InMsg) (s : State) : State :=
  if malformed m 256 256 (decide (bits m.word 62 57 ≠ 0)) || decide (m.data.length ≠ 8) then s.refuse m 1
  else match s.rackCheck m.addr m.size .read m.early with
    | some r => s.refuse m r
    | none =>
      let r := s.devRead m.addr m.size m.hint (m.key.dev + 1)
      match r.2 with
      | .error _ => r.1.refuse m (s.readReason m.addr m.size)
      | .ok bs => r.1.reply m kRDATA bs

/-- REMOTE_READ: a home agent receives READ `n` of the inbox. -/
def execRemoteRead (n : Nat) (s : State) : Out := .next (s.serve n kREAD (fun _ => true) State.serveRead)

/-- What the checks of the sectors find that a write of n bytes covers only partly, with their channels. -/
def State.partialReads (s : State) (a n : Nat) : List (Nat × SecRead) :=
  ((cut 32 a n).filter fun p => decide (p.2 < 32) || s.stackFenced (s.place p.1).1).map fun p => s.sectorRead p.1

/-- Why a write of n bytes is refused for a sector it covers only partly: a refused write changes no byte (R356). -/
def State.partialFault (s : State) (a n : Nat) : Option Nat := failReason ((s.partialReads a n).map Prod.snd)

/-- Apply a checked write whole, or answer how it fails; then every failed check counts as a read finds it (R357). -/
def State.applyWhole (s : State) (a hint src : Nat) (bs : List Byte) : State × Option Nat :=
  match s.partialFault a bs.length with
  | some reason =>
    ((s.partialReads a bs.length).foldl (fun u e => if u.stackFenced e.1 then u else u.noteRead e.1 src e.2) s, some reason)
  | none => ((s.devWrite a bs hint src none).1, none)

/-- Serve a WRITE (R356, R359). -/
def State.serveWrite (m : InMsg) (s : State) : State :=
  if malformed m 248 256 (decide (bits m.word 62 57 ≠ 0)) || decide (m.rest.length ≠ m.size) then s.refuse m 1
  else match s.rackCheck m.addr m.size .write m.early with
    | some r => s.refuse m r
    | none =>
      let r := s.applyWhole m.addr m.hint (m.key.dev + 1) m.rest
      match r.2 with
      | some reason => r.1.refuse m reason
      | none => r.1.reply m kWACK []

/-- A write that would need a slice's 513th mirror write waits (R422). -/
def State.writeWaits (s : State) (n : Nat) : Bool :=
  match s.fab.inbox[n]? with
  | some m => s.mirrorFull m.addr m.size
  | none => false

/-- REMOTE_WRITE: a home agent receives WRITE `n` of the inbox; those of a cache bank are mirror writes (R421). -/
def execRemoteWrite (n : Nat) (s : State) : Out :=
  .next (if s.writeWaits n then s else s.serve n kWRITE (fun m => decide (m.key.far % 16 ≠ 2)) State.serveWrite)

/-- Serve an ATOMIC (R348, R350, R356). -/
def State.serveAtomic (m : InMsg) (s : State) : State :=
  let w := m.word
  let aop := bits w 59 57
  let atype := bits w 61 60
  let ret := bits w 62 62
  if malformed m 32 32 (!atomLegal aop atype ret m.size) || decide (m.rest.length ≠ atomOperandBytes aop m.size) then
    s.refuse m 1
  else match s.rackCheck m.addr m.size .atomic m.early with
    | some r => s.refuse m r
    | none =>
      let r := s.atomic m.addr m.size aop atype ret m.rest m.hint (m.key.dev + 1) none
      match r.2 with
      | .error _ => r.1.refuse m (s.readReason m.addr m.size)
      | .ok old => r.1.reply m kARESULT (if ret = 1 then old else [])

/-- REMOTE_ATOMIC: a home agent receives ATOMIC `n` of the inbox. -/
def execRemoteAtomic (n : Nat) (s : State) : Out :=
  .next (if s.writeWaits n then s else s.serve n kATOMIC (fun _ => true) State.serveAtomic)

/-- Apply an ARRIVE from another module and acknowledge it (R356). -/
def State.serveArrive (m : InMsg) (s : State) : State :=
  let a : Arrival :=
    { id := 0, dev := none, cnum := bits m.word 15 0, inc := bits m.word 51 20, epoch := bits m.word 19 16,
      anyEpoch := false, unit := 0x7FF, fromDev := m.key.dev + 1, pc := 0, who := none }
  (s.applyArrival a).reply m kWACK []

/-- REMOTE_ARRIVE: a sync-counter endpoint receives ARRIVE `n` of the inbox; it is never refused (R356). -/
def execRemoteArrive (n : Nat) (s : State) : Out :=
  .next <| match s.inMsg n fun m => decide (m.kind = kARRIVE) && decide (m.key.ep % 16 = 3) with
    | none => s
    | some m => if s.answers then (s.dropIn n).serveArrive m else s

/-! ## Requesters -/

/-- The outstanding operation a reply answers: its stream and TAG (R353). -/
def State.answered (s : State) (m : InMsg) : Option ROp :=
  s.rops.find? fun o => decide (o.sep = m.key.ep) && decide (o.dev = m.key.dev) && decide (o.dep = m.key.far)
    && decide (o.tag = m.tag) && decide (o.phase = .sent)

/-- A requester takes reply `n` of the inbox, of the wanted kind. A reply that answers nothing is discarded. -/
def State.onReply (s : State) (n kind : Nat) (f : InMsg → ROp → State → State) : State :=
  match s.inMsg n fun m => decide (m.kind = kind) && decide (m.key.cls = 1) with
  | none => s
  | some m =>
    let s := s.dropIn n
    match s.answered m with
    | none => s
    | some o => f m o s

/-- An operation is over: its TAG is free, and held operations may go. -/
def State.endRop (s : State) (o : ROp) : State := (s.dropRop o.id).releaseHeld o.stream

/-- A narrow access has its reply: NARROW_COMPLETE may follow. -/
def State.narrowAnswered (s : State) (t n : Nat) : State :=
  match (s.tile t).op n with
  | some x => s.setOp t { x with wait := 0 }
  | none => s

/-- The data of a READ of a copy have come: they reach its destination, or wait for the engine under CRC = 1 (R201); the next
READ goes (R366). -/
def State.copyData (s : State) (id : Nat) (bs : List Byte) : State :=
  match s.findCopy id with
  | none => s
  | some (k, x) =>
    let x := { x with wait := x.wait - 1, reading := false }
    if dCrc x.desc then (s.putCopy k { x with buf := x.buf ++ bs }).readOn k
    else
      let r := s.rawBytes x bs
      match r.2 with
      | .error f => r.1.copyFault k { x with out := f.2 } f.1
      | .ok g => (r.1.putCopy k g.copy).readOn k

/-- RDATA: read data complete a read (R354). A gateway's read transfer is complete with its last granule (R368). -/
def State.takeData (m : InMsg) (o : ROp) (s : State) : State :=
  match o.owner with
  | .narrow t n =>
    let s := s.endRop o
    if ((s.tile t).op n).isSome then (s.wrLocal t (o.local_ % 2 ^ 21) m.data).narrowAnswered t n else s
  | .copy id _ =>
    if 64 ≤ o.dev then
      let got := o.data ++ m.data
      if got.length < o.size then
        { s with rops := s.rops.map fun (x : ROp) => if x.id = o.id then { o with data := got } else x }
      else (s.endRop o).copyData id got
    else (s.endRop o).copyData id m.data
  | _ => s.endRop o

def execRdata (n : Nat) (s : State) : Out := .next (s.onReply n kRDATA State.takeData)

/-- A WRITE of a copy is acknowledged: its bytes are written now; a gateway's transfer counts as moved then (R366, R368). -/
def State.copyAcked (s : State) (id size : Nat) (far : Bool) : State :=
  match s.findCopy id with
  | none => s
  | some (k, x) =>
    s.putCopy k { x with wait := x.wait - 1, out := x.out + size, pos := if far then x.pos + size else x.pos }

/-- WACK: a write, arrive or mirror write is acknowledged (R359, R422). -/
def State.takeAckd (_ : InMsg) (o : ROp) (s : State) : State :=
  let s := s.endRop o
  match o.owner with
  | .narrow t n => s.narrowAnswered t n
  | .copy id _ => s.copyAcked id o.size (decide (64 ≤ o.dev))
  | .arrive t c _ _ => s.settle t c
  | .engine => s
  | .expWord t => s.expAcked t
  | .mirror _ who => match who with
    | some (t, c, _) => s.flushArrives t c
    | none => s

def execWack (n : Nat) (s : State) : Out := .next (s.onReply n kWACK State.takeAckd)

/-- ARESULT: an atomic was applied; any old value goes to tile store (R350, R352). -/
def State.takeResult (m : InMsg) (o : ROp) (s : State) : State :=
  let s := s.endRop o
  match o.owner with
  | .narrow t n =>
    if ((s.tile t).op n).isSome then
      (if m.data.isEmpty then s else s.wrLocal t (o.local_ % 2 ^ 21) m.data).narrowAnswered t n
    else s
  | _ => s

def execAresult (n : Nat) (s : State) : Out := .next (s.onReply n kARESULT State.takeResult)

/-- RETRY: the operation waits for its backoff, and its stream sends nothing new (R361). -/
def State.takeRetry (_ : InMsg) (o : ROp) (s : State) : State :=
  let s := s.bump F.RMCOUNT_COUNT 4 1
  { s with rops := s.rops.map fun (x : ROp) => if x.id = o.id then { o with phase := .retried, data :=
      if o.kind = .read then [] else o.data } else x }

/-- A RETRY to a collective engine: every fragment of the stream under that TAG that its operation still keeps is sent
again after the backoff (R313). -/
def State.collRetry (s : State) (n : Nat) (m : InMsg) : State :=
  let s := (s.dropIn n).bump F.RMCOUNT_COUNT 4 1
  let k := { m.key with cls := 0 }
  { s with tags := SMap.mapv Tag.free s.tags fun _ t => { t with sent := t.sent.map fun f =>
      if f.key = k ∧ f.ptag = m.tag then { f with retried := true } else f } }

def execRetry (n : Nat) (s : State) : Out :=
  .next <| match s.inMsg n fun m => decide (m.kind = kRETRY) && decide (m.key.ep % 16 = 4) && (s.answered m).isNone with
    | some m => s.collRetry n m
    | none => s.onReply n kRETRY State.takeRetry

/-- Send the fragments of an engine's stream that were answered with RETRY again, and those held back behind them, in the
order in which the engine issued them; without a limit (R313, R361, R362). -/
def State.collResend (s : State) (k : StreamKey) : State :=
  let again := sortBy SentFrag.no (s.tags.flatMap fun e => e.2.sent.filter fun f => f.retried && decide (f.key = k))
  let s := { s with tags := SMap.mapv Tag.free s.tags fun _ t => { t with sent := t.sent.map fun f =>
    if f.key = k then { f with retried := false } else f } }
  again.foldl (fun u f => u.post k u.dev kCOLL 0 f.ptag f.data none) s

/-- R362: RETRYMAX limits the re-sends of tiles, copies and gateways; engines re-send without a limit. -/
def ROp.limited (o : ROp) : Bool :=
  match o.owner with
  | .engine | .expWord _ => false
  | _ => true

/-- RETRY_BACKOFF_EXPIRY: the oldest operation of the stream that was answered with RETRY is re-sent, or fails after
RETRYMAX re-sends (R361, R362). -/
def execRetryBackoffExpiry (k : StreamKey) (s : State) : Out :=
  .next <| match s.rops.find? fun o => decide (o.stream = k) && decide (o.phase = .retried) with
    | none => if k.ep % 16 = 4 then s.collResend k else s
    | some o =>
      if s.get F.RMCTL_RETRYMAX 0 ≤ o.resends ∧ o.limited then
        ((s.bump F.RMCOUNT_COUNT 5 1).failRop o cRACK_RETRY_LIMIT).releaseHeld k
      else
        let o := { o with phase := .sent, resends := o.resends + 1 }
        let s := { s with rops := s.rops.map fun (x : ROp) => if x.id = o.id then o else x }
        (s.request o true).releaseHeld k

/-- RMREFLAST's UNIT and NUM for a requester. -/
def State.refusedUnit (_s : State) (o : ROp) : Nat :=
  if 64 ≤ o.dev then 2 * 2 ^ 46 + o.dev % 4 * 2 ^ 32
  else match o.owner with
    | .narrow t _ => t * 2 ^ 32
    | .copy _ k => 2 ^ 46 + k * 2 ^ 32
    | _ => 0

/-- REFUSE: recorded in RMREFLAST, and the requester faults (R357); a refused mirror write ends protection (R423). -/
def State.takeRefuse (m : InMsg) (o : ROp) (s : State) : State :=
  let s' := s.setReg .RMREFLAST 0 ((o.dev * 2 ^ 48 + o.addr) * 2 ^ 64 + s.refusedUnit o + 2 ^ 8 + leValue (m.data.take 1))
  match o.owner with
  | .mirror _ _ =>
    let u := s.dropRop o.id
    (u.unprotect.log .mirrorRefused 0 []).releaseHeld
      o.stream
  | _ => (s'.failRop o cRACK_REFUSED).releaseHeld o.stream

def execRefuse (n : Nat) (s : State) : Out := .next (s.onReply n kREFUSE State.takeRefuse)

/-! ## Combining registers (R363, R364) -/

/-- COMBINE_FOLD: the register that serves a sector is folded into it. -/
def execCombineFold (sector : Nat) (s : State) : Out := .next (s.foldFor sector)

/-! ## Gateways (R367 to R370) -/

/-- Where the next transfer of a copy that a gateway serves begins, and its length: its far range up to the next 4,096-byte
boundary (R368). Bytes that have come and wait for the engine are moved already. -/
def Copy.nextTransfer (c : Copy) (far : Nat) (out : Bool) : Nat × Nat :=
  let o := if out then c.pos else c.pos + c.buf.length
  (o, min (dCount c.desc - o) (4096 - (far + o) % 4096))

/-- Send the next transfer of a copy that a gateway serves. With CRC = 1 its bytes have passed through the format engine, or
will when they have come (R201). -/
def State.transfer (s : State) (k : Nat) (c : Copy) (d far : Nat) (out : Bool) : State :=
  let e := c.nextTransfer far out
  let o : ROp :=
    { id := 0, kind := if out then .write else .read, sep := gatewayEp (d % 4), dev := d, tag := 0, addr := far + e.1,
      size := e.2, data := [], mode := 0, local_ := 0, hint := c.hint, owner := s.copyOwner c, phase := .sent, resends := 0 }
  let go := fun (u : State) (o : ROp) (c : Copy) =>
    ((u.sendRop o).bump F.RMCOUNT_COUNT 6 1).putCopy k { c with wait := c.wait + 1 }
  if !out then go s o c
  else if dCrc c.desc then go s { o with data := c.buf.take e.2 } { c with buf := c.buf.drop e.2 }
  else
    let r := s.rdLoc ((s.copySrc c).plus c.pos) e.2 c.hint
    match r.2 with
    | .error f => r.1.copyFault k c f
    | .ok bs => go r.1 { o with data := bs } c

/-- A gateway's copy may send its next transfer: the last is answered, and with CRC = 1 the engine has passed its bytes, or
few that came still wait for it. -/
def Copy.transferReady (c : Copy) (far : Nat) (out : Bool) : Bool :=
  let e := c.nextTransfer far out
  decide (c.wait = 0) && decide (e.1 < dCount c.desc)
    && (!dCrc c.desc || (if out then decide (e.2 ≤ c.buf.length) else decide (c.buf.length < 256)))

/-- GATEWAY_TRANSFER: the gateway that serves a channel's copy sends its next transfer, once the last is answered and unless
the channel is held (R209). -/
def execGatewayTransfer (cluster chan : Nat) (s : State) : Out :=
  within cluster Config.clusters <| within chan 16 <| .next <|
    let k := 16 * cluster + chan
    match (s.chan k).queue with
    | x :: _ =>
      let go := fun (d a : Nat) (out : Bool) => if x.transferReady a out then s.transfer k x d a out else s
      if !x.gateway || (s.chan k).held || !s.answers then s
      else match s.copySrc x, s.copyDst x with
        | .rack d a, _ => go d a false
        | _, .rack d a => go d a true
        | _, _ => s
    | [] => s

/-- The run of one stream's messages from inbox place `n` on: WRITEs up to the one with RET = 1; READs of one TAG and adjoining
ranges within one 4,096-byte block; one ARRIVE. Answers their places and messages, or `none` while incomplete. -/
def State.runAt (s : State) (n : Nat) (m : InMsg) : Option (List (Nat × InMsg)) :=
  let mine := (s.fab.inbox.zipIdx.filter fun e => decide (n ≤ e.2) && decide (e.1.key = m.key)).map fun e => (e.2, e.1)
  if m.kind = kWRITE then
    match mine.findIdx? fun e => decide (e.2.kind ≠ kWRITE) || bit e.2.word 62 with
    | some i => some (mine.take (i + 1))
    | none => none
  else if m.kind = kREAD then
    let next := fun (e f : Nat × InMsg) => decide (f.2.kind = kREAD) && decide (f.2.tag = e.2.tag)
      && decide (f.2.addr = e.2.addr + e.2.size)
      && decide (f.2.addr % 4096 ≠ 0)
    let len := (List.range mine.length).takeWhile fun i => decide (i = 0) ||
      (match mine[i - 1]?, mine[i]? with | some e, some f => next e f | _, _ => false)
    some (mine.take len.length)
  else some (mine.take 1)

/-- Apply a checked transfer of WRITEs as one, and answer its last message (R369). -/
def State.runWrite (s : State) (m last : InMsg) (data : List Byte) : State :=
  let r := s.applyWhole m.addr m.hint (m.key.dev + 1) data
  match r.2 with
  | some reason => r.1.refuse last reason
  | none => r.1.reply last kWACK []

/-- The data of a transfer's READs, in order, or the fault of the first that fails; every READ is made, so that every sector
is checked (R369). -/
def State.runData (s : State) (src : Nat) (run : List InMsg) : State × Except FaultAt (List (InMsg × List Byte)) :=
  run.foldl (fun (a : State × Except FaultAt (List (InMsg × List Byte))) x =>
    let q := a.1.devRead x.addr x.size x.hint src
    (q.1, match a.2, q.2 with
      | .error f, _ => .error f
      | _, .error f => .error f
      | .ok got, .ok bs => .ok (got ++ [(x, bs)]))) (s, .ok [])

/-- Answer a checked transfer of READs message by message, or refuse it whole (R369). -/
def State.serveReads (s : State) (m last : InMsg) (run : List InMsg) : State :=
  let r := s.runData (m.key.dev + 1) run
  match r.2 with
  | .error _ => r.1.refuse last (s.readReason m.addr (run.foldl (fun a x => a + x.size) 0))
  | .ok got => got.foldl (fun u e => u.reply e.1 kRDATA e.2) r.1

/-- A message of a transfer that breaks the form of R368. -/
def badRun (write : Bool) (last x : InMsg) : Bool :=
  if write then malformed x 248 256 (decide (x.kind ≠ kWRITE) || decide (bits x.word 61 57 ≠ 0)
    || (decide (x ≠ last) && bit x.word 62)) || decide (x.rest.length ≠ x.size)
  else malformed x 256 256 (decide (bits x.word 62 57 ≠ 0))

/-- Check and apply a whole transfer (R369). -/
def State.applyTransfer (s : State) (run : List InMsg) : State :=
  match run with
  | [] => s
  | m :: _ =>
    if m.kind = kARRIVE then s.serveArrive m
    else
      let last := run.getLastD m
      let write := decide (m.kind = kWRITE)
      let s := s.bump F.RMCOUNT_COUNT 7 1
      if run.any (badRun write last) then s.refuse last 1
      else match s.rackCheck m.addr (run.foldl (fun a x => a + x.size) 0) (if write then .write else .read) m.early with
        | some r => s.refuse last r
        | none => if write then s.runWrite m last (run.flatMap InMsg.rest) else s.serveReads m last run

/-- GATEWAY_APPLY: a gateway receives the transfer whose first message is number `n` of the inbox. -/
def execGatewayApply (n : Nat) (s : State) : Out :=
  .next <| match s.inMsg n fun m => decide (m.key.cls = 0) && decide (m.key.ep % 16 = 6) with
    | none => s
    | some m =>
      if !s.answers || s.mirrorFull m.addr 4096 then s
      else match s.runAt n m with
        | none => s
        | some run =>
          let gone := run.map Prod.fst
          let keep := (s.fab.inbox.zipIdx.filter fun e => !gone.contains e.2).map Prod.fst
          (s.setFab { s.fab with inbox := keep }).applyTransfer (run.map Prod.snd)

end Sys2Proof.Machine
end

