-- ==== Sys2Proof/Machine/Collectives.lean ====
section
/-! DEFINITION. The life of a collective operation (chapters 11 and 12): arming, opening, fragments, combining and
reruns, reports and ends, the expert exchange, and bkput. -/

namespace Sys2Proof.Machine

/-! ## Failing ends (R308) -/

def State.mismatch (s : State) (t rank : Nat) : State := s.endTag t 6 1 0 (if rank < gN (s.tagAt t).desc then rank else 0xFF)

/-! ## Sending (R312, R343) -/

/-- The collective word (Table 11-5). -/
def collWord (tag part rank frag gen : Nat) (backup : Bool) : Nat :=
  tag + part * 2 ^ 12 + rank * 2 ^ 16 + b2n backup * 2 ^ 24 + frag * 2 ^ 25 + gen * 2 ^ 49

/-- Cut a byte stream into fragments of 248 bytes; an empty stream is one empty fragment. -/
def fragsOf : Nat → List Byte → List (List Byte)
  | 0, _ => []
  | n + 1, bs => if bs.length ≤ 248 then [bs] else bs.take 248 :: fragsOf n (bs.drop 248)

/-- The devices of a rank that receive what is sent to it, this module left out (R343). -/
def State.rankDevs (s : State) (x : Tag) (r : Nat) : List Nat :=
  ([x.primary r] ++ (x.backupDev r).toList).filter fun d => decide (d ≠ s.dev)

/-- Send one fragment to a device; while a fragment of its stream waits for a re-send it is held back behind it (R361). -/
def State.sendFrag (s : State) (t dev : Nat) (data : List Byte) : State :=
  let x := s.tagAt t
  let k : StreamKey := { ep := homeEngine t, dev := dev, far := homeEngine t, cls := 0 }
  let held := s.tags.any fun e => e.2.sent.any fun f => f.retried && decide (f.key = k)
  let f : SentFrag := { key := k, ptag := s.nextId % 256, data := data, no := s.nextId, retried := held }
  let s := State.setTag { s with nextId := s.nextId + 1 } t { x with sent := x.sent ++ [f] }
  if held then s else s.post k s.dev kCOLL 0 f.ptag data none

/-- Send numbered fragments of one part to a rank. -/
def State.sendParts (s : State) (t rank part : Nat) (fs : List (Nat × List Byte)) : State :=
  let x := s.tagAt t
  let d := x.desc
  fs.foldl (fun u f =>
    let data := leBytes 8 (collWord t part (gMe d) f.1 (gGen d) x.backup) ++ f.2
    (s.rankDevs x rank).foldl (fun v dev => v.sendFrag t dev data) u) s

/-- Send a byte stream to a rank, its first fragment numbered `base` (R312). -/
def State.sendStream (s : State) (t rank part base : Nat) (bs : List Byte) : State :=
  s.sendParts t rank part ((fragsOf (bs.length / 248 + 1) bs).zipIdx.map fun f => (base + f.2, f.1))

/-- Fragments of a stream of n bytes. -/
def fragCount (n : Nat) : Nat := max 1 (ceilDiv n 248)

def others (d : Nat) : List Nat := (List.range (gN d)).filter fun r => decide (r ≠ gMe d)

/-! ## What an engine expects (R301, R307) -/

/-- P: the largest power of two not above N (R320). -/
def dwP (n : Nat) : Nat := if n = 0 then 1 else 2 ^ n.log2

/-- This member's dumbwaiter steps in order: the step, the rank it sends to and the rank it receives from (R320). -/
def dwSteps (d : Nat) : List (Nat × Option Nat × Option Nat) :=
  let n := gN d
  let me := gMe d
  let p := dwP n
  let r := fun (c : Bool) (v : Nat) => if c then some v else none
  let edge := fun (step : Nat) (send recv : Option Nat) =>
    if send.isNone ∧ recv.isNone then [] else [(step, send, recv)]
  edge 0 (r (decide (p ≤ me)) (me - p)) (r (decide (me < n - p)) (me + p))
  ++ (if me < p then (seqFrom 1 p.log2).map fun i => let q := me ^^^ 2 ^ (i - 1); (i, some q, some q) else [])
  ++ edge 7 (r (decide (me < n - p)) (me + p)) (r (decide (p ≤ me)) (me - p))

/-- Expected streams other than the exchange's slots and rerun data: rank, part, bytes. -/
def expects (d : Nat) : List (Nat × Nat × Nat) :=
  let me := gMe d
  let n := gN d
  let all := blockB d * gCount d
  if isBarrier d then if me = 0 then (others d).map fun r => (r, 0, 0) else [(0, 1, 0)]
  else if isBx d then
    (if 0 < me then [(me - 1, 0, all)] else []) ++
    (if gOp d = 2 then (if me ≠ n - 1 then [(n - 1, 1, all)] else [])
     else if me = gOwner d then (if me ≠ n - 1 then [(n - 1, 1, all)] else [])
     else [(gOwner d, 1, 0)])
  else match gOp d with
    | 2 =>
      (if 0 < blocksOf d me then (others d).map fun r => (r, 0, blockB d * blocksOf d me) else []) ++
      ((others d).filter fun r => decide (0 < blocksOf d r)).map fun r => (r, 1, resultB d * blocksOf d r)
    | 3 => (others d).map fun r => (r, 0, gCount d)
    | 4 => if me = gOwner d then [] else [(gOwner d, 0, gCount d)]
    | 0x20 => (others d).map fun r => (r, 2, 4 * gEpr d)
    | _ => if me = gOwner d then (others d).map fun r => (r, 0, all) else [(gOwner d, 1, 0)]

/-- A received fragment. -/
def Tag.frag (x : Tag) (rank part ix : Nat) : Option Frag :=
  x.frags.find? fun f => decide (f.rank = rank) && decide (f.part = part) && decide (f.ix = ix)

/-- A stream has been received whole: its bytes. -/
def Tag.stream (x : Tag) (rank part base bytes : Nat) : Option (List Byte) :=
  let fs := (List.range (fragCount bytes)).map fun i => x.frag rank part (base + i)
  if fs.all Option.isSome then some (fs.flatMap fun f => (f.map Frag.data).getD []) else none

/-! ### The exchange's slots (R316, R317) -/

/-- The token counts a source announced to this rank. -/
def countsOf (d : Nat) (bs : List Byte) : List Nat := (List.range (gEpr d)).map fun e => leValue ((bs.drop (4 * e)).take 4)

/-- Valid slots of an expert. -/
def validSlots (d n : Nat) : Nat := min n (gC d)

/-- Byte o of a source's region lies in a valid slot. -/
def slotByte (d : Nat) (ns : List Nat) (o : Nat) : Bool :=
  let slot := o / gSlotb d
  decide (slot % gC d < validSlots d (ns.getD (slot / gC d) 0))

/-- The fragments of a region that hold a valid byte. Slots and fragments are multiples of 8 bytes. -/
def slotFrags (d : Nat) (ns : List Nat) : List Nat :=
  let total := gEpr d * gC d * gSlotb d
  (List.range (ceilDiv total 248)).filter fun f =>
    (List.range 31).any fun i => decide (248 * f + 8 * i < total) && slotByte d ns (248 * f + 8 * i)

/-- A rank owes nothing more (R306, R317). -/
def Tag.rankDone (x : Tag) (r : Nat) : Bool :=
  let d := x.desc
  ((expects d).filter fun e => decide (e.1 = r)).all (fun e => (x.stream r e.2.1 0 e.2.2).isSome) &&
  (!isXa d || isBarrier d || decide (gC d = 0) ||
    match x.stream r 2 0 (4 * gEpr d) with
    | some bs => (slotFrags d (countsOf d bs)).all fun f => (x.frag r 3 f).isSome
    | none => false)

/-- The ranks of R307 that an engine waits for, its own included: those that owe it a fragment (log 40). Away from OWNER, a
reduction to it expects OWNER alone. -/
def expectedRanks (d : Nat) : List Nat :=
  let owes := fun (r : Nat) =>
    if isDw d then (dwSteps d).any fun e => decide (e.2.2 = some r)
    else ((expects d).any fun e => decide (e.1 = r))
      && (isBarrier d || decide (2 ≤ gOp d) || decide (gMe d = gOwner d) || decide (r = gOwner d))
  (List.range (gN d)).filter fun r => decide (r = gMe d) || owes r

/-- Record an arrival (R314): the lateness is a time, and grows by a free value with each arrival (log entry 5). -/
def State.rankArrived (s : State) (t r : Nat) (backup : Bool) : State :=
  let x := s.tagAt t
  if x.arrived.any fun a => decide (a.1 = r) then s
  else
    let d := s.drawTime
    let late := if x.arrived.isEmpty then 0 else satTo 32 (x.late + d.1)
    d.2.setTag t { x with arrived := x.arrived ++ [(r, backup)], late := late }

/-- Where the rerun data of the round in progress begin among a rank's fragments (R340): a request fragment's 31 entries fill
whole fragments of data, and both streams go on from round to round. -/
def Tag.dataBase (x : Tag) : Nat := 2 ^ 23 + blockB x.desc / 8 * x.base

/-- A rank's rerun data of the round in progress, once whole. -/
def Tag.roundData (x : Tag) (r : Nat) : Option (List Byte) :=
  x.stream r 4 x.dataBase (blockB x.desc * x.flagged.length)

/-- Expected ranks that have not arrived: how many, and the lowest (R307). In a rerun a rank is absent while its rerun
data is. -/
def Tag.missing (x : Tag) : List Nat :=
  let d := x.desc
  (expectedRanks d).filter fun r =>
    !(x.arrived.any fun a => decide (a.1 = r)) ||
    (decide (x.st = 3) && decide (r ≠ gMe d) && (x.roundData r).isNone)

/-! ## The exchange's maps (R317, R318) -/

/-- The validity words and overflow word of one source's expert. -/
def State.writeMaps (s : State) (d src e valid above : Nat) : State × Bool :=
  if gCount d = 0 then (s, true)
  else
    let m := (mapsForm (gCount d)).getD 0
    let w := mapWords d
    let words := (List.range w).flatMap fun i => leBytes 4 (2 ^ (min 32 (valid - 32 * i)) - 1)
    let a := s.wrForm m (4 * w * (gEpr d * src + e)) words
    let b := a.1.wrForm m (4 * w * gN d * gEpr d + 4 * (gEpr d * src + e)) (leBytes 4 above)
    (b.1, a.2 && b.2)

/-- Write what a source sent: valid slots and maps. -/
def State.writeSource (s : State) (d src : Nat) (ns : List Nat) (byte : Nat → List Byte) : State × Bool :=
  (List.range (gEpr d)).foldl (fun (a : State × Bool) e =>
    let n := ns.getD e 0
    let v := validSlots d n
    let base := gSlotb d * gC d * e
    let r := if gDst d = 0 then (a.1, true) else
      (List.range v).foldl (fun (b : State × Bool) k =>
        let q := b.1.wrForm (gDst d) (gSlotb d * (gC d * (gEpr d * src + e) + k)) (byte (base + gSlotb d * k))
        (q.1, b.2 && q.2)) (a.1, true)
    let q := r.1.writeMaps d src e v (n - v)
    (q.1, a.2 && r.2 && q.2)) (s, true)

/-! ## Combining and its rerun (R336 to R341) -/

/-- The blocks this rank combines. -/
def myBlocks (d : Nat) : List Nat :=
  if gOp d = 2 then (List.range (blocksOf d (gMe d))).map fun i => gMe d + gN d * i
  else if gMe d = gOwner d then List.range (gCount d) else []

/-- Contribution number i of a rank to a stream of blocks. -/
def blockAt (d : Nat) (bs : List Byte) (i : Nat) : List Byte := (bs.drop (blockB d * i)).take (blockB d)

/-- Every rank's bytes of the blocks in hand, by rank; this rank's own from `own`. -/
def Tag.parts (x : Tag) (part base bytes : Nat) (own : List Byte) : List (Nat × List Byte) :=
  (List.range (gN x.desc)).map fun r =>
    (r, if r = gMe x.desc then own else (x.stream r part base bytes).getD [])

/-! ### The check of received blocks (R325, R335) -/

/-- Byte `o` of a stream, if the fragment that holds it is here. -/
def Tag.byteAt (x : Tag) (rank part base o : Nat) : Option Byte :=
  (x.frag rank part (base + o / 248)).bind fun f => f.data[o % 248]?

/-- n bytes of a stream, if all are here. -/
def Tag.bytesAt (x : Tag) (rank part base o n : Nat) : Option (List Byte) :=
  let bs := (List.range n).map fun i => x.byteAt rank part base (o + i)
  if bs.all Option.isSome then some (bs.filterMap id) else none

/-- Some block that fragment number `f` of a stream touches does not match its bucket: its header, and under OP 0x01 its MASK,
are here and break R325 or R335. `es` are the exponents of the stream's blocks. -/
def Tag.badBlock (x : Tag) (rank part base f : Nat) (es : List Int) : Bool :=
  let d := x.desc
  let n := blockB d
  let head := if gOp d = 1 then 20 else 16
  (seqFrom (248 * f / n) (248 / n + 2)).any fun i =>
    match x.bytesAt rank part base (n * i) head, es[i]? with
    | some bs, some e => blockMismatch d e bs
    | _, _ => false

/-- The lowest rank whose block mismatches (R325). -/
def findMismatch (d : Nat) (parts : List (Nat × List Byte)) (es : List Int) : Option Nat :=
  (parts.find? fun p => es.zipIdx.any fun e => blockMismatch d e.1 (blockAt d p.2 e.2)).map Prod.fst

/-- The lowest rank with a NaN among its contributions (R337). -/
def nanRank (d n : Nat) (parts : List (Nat × List Byte)) : Option Nat :=
  (parts.find? fun p => (List.range n).any fun i => (readBlock d (blockAt d p.2 i)).codes.contains 1).map Prod.fst

/-- Write result blocks: to this rank's DST, and to every other rank under OP 0x02 (R336). -/
def State.writeResults (s : State) (t : Nat) (bs : List (Nat × List Byte)) : State :=
  let d := (s.tagAt t).desc
  let r := bs.foldl (fun (a : State × Bool) b =>
    let q := a.1.wrForm (gDst d) (resultB d * b.1) b.2
    (q.1, a.2 && q.2)) (s, true)
  if !r.2 then r.1.memErr t
  else
    let x := r.1.tagAt t
    let s := r.1.setTag t { x with combined := true, st := 2, base := x.base + ceilDiv x.flagged.length 31, flagged := [],
                                   results := [] }
    if gOp d = 2 then (others d).foldl (fun u k => u.sendStream t k 1 0 (bs.flatMap Prod.snd)) s
    else (others d).foldl (fun u k => u.sendStream t k 1 0 []) s

/-- Results of a set of blocks: combined on their grid, an unresolved overflow kept in the header. -/
def finishBlock (d : Nat) (e : Int) (bs : List SxBlock) : List Byte :=
  let c := combineBlocks (g64 d) e bs
  (match maxeOf bs with
  | some m => { c with ovfm := true, maxe := m }
  | none => c).bytes (g64 d)

/-- Read the result block this engine has already written, for a block that needs no further round. -/
def sxOf (d : Nat) (parts : List (Nat × List Byte)) (i : Nat) : List SxBlock :=
  parts.map fun p => readBlock d (blockAt d p.2 i)

/-- R339 on this rank: convert the requested blocks again; the data, or a memory error. -/
def State.rerunData (s : State) (t : Nat) (req : List (Nat × Int)) : State × Option (List Byte) :=
  req.foldl (fun (a : State × Option (List Byte)) e =>
    match a.2 with
    | none => a
    | some got =>
      let x := a.1.tagAt t
      let r := a.1.rerunBlock x e.1 e.2
      match r.2 with
      | none => (r.1, none)
      | some (bs, f) =>
        let keep := x.found.any fun q => decide (q.1 = e.1)
        let found := match f with
          | some c => if keep then x.found else x.found ++ [(e.1, c)]
          | none => x.found
        let asked := x.asked.filter (fun q => decide (q.1 ≠ e.1)) ++ [e]
        (r.1.setTag t { x with found := found, asked := asked }, some (got ++ bs))) (s, some [])

/-- Ask every rank for rerun data of the flagged blocks (R338, R340). The request fragments of a round are numbered on from
those of the rounds before, so that a second copy of any fragment is known as one (R344; DEDUCED, log 40). -/
def State.startRound (s : State) (t : Nat) (flagged : List (Nat × Int)) (round : Nat) : State :=
  let x := s.tagAt t
  let d := x.desc
  let rer := flagged.foldl (fun l b => insertRising b.1 l) x.rerun
  let base := x.base + ceilDiv x.flagged.length 31
  let s := s.setTag t { x with st := 3, flagged := flagged, round := round, rerun := rer, base := base,
                               frags := x.frags.filter fun f => decide (f.part ≠ 4) }
  let entries := flagged.flatMap fun b => leBytes 4 b.1 ++ leBytes 2 (wrapInt 16 b.2) ++ leBytes 2 0
  (others d).foldl (fun u r => u.sendStream t r 4 base entries) s

/-- e2 of a flagged block (R338). -/
def e2Of (d : Nat) (maxe : Int) : Int := min (maxe + raiseN (gN d)) 1990

/-- R338, first pass: all contributions are here. Blocks without overflow are settled, and written at the end; flagged ones
start the rerun. -/
def State.combineFirst (s : State) (t : Nat) : State :=
  let x := s.tagAt t
  let d := x.desc
  let bs := myBlocks d
  let parts := x.parts 0 0 (blockB d * bs.length) x.own
  match findMismatch d parts (bs.map x.expOf) with
  | some r => s.mismatch t r
  | none =>
    let flagged := bs.zipIdx.filterMap fun b => (maxeOf (sxOf d parts b.2)).map fun m => (b.1, e2Of d m)
    let settled := (bs.zipIdx.filter fun b => !(flagged.any fun q => decide (q.1 = b.1))).map fun b =>
      (b.1, finishBlock d (x.expOf b.1) (sxOf d parts b.2))
    let s := s.setTag t { x with nan := nanRank d bs.length parts, results := settled }
    if flagged.isEmpty then s.writeResults t settled else s.startRound t flagged 1

/-- A rerun round is complete: combine, and go on with blocks still flagged, up to four rounds; then every block is written
(R338). -/
def State.endRound (s : State) (t : Nat) (own : List Byte) : State :=
  let x := s.tagAt t
  let d := x.desc
  let n := x.flagged.length
  let parts := x.parts 4 x.dataBase (blockB d * n) own
  match findMismatch d parts (x.flagged.map Prod.snd) with
  | some r => s.mismatch t r
  | none =>
    let nan := match x.nan, nanRank d n parts with
      | some a, some b => some (min a b)
      | a, b => a.orElse fun _ => b
    let still := x.flagged.zipIdx.filterMap fun f => (maxeOf (sxOf d parts f.2)).map fun m => (f.1.1, e2Of d m)
    let above := decide (4 ≤ x.round)
    let settled := (x.flagged.zipIdx.filter fun f => above || !(still.any fun q => decide (q.1 = f.1.1))).map fun f =>
      (f.1.1, finishBlock d f.1.2 (sxOf d parts f.2))
    let results := x.results ++ settled
    let s := s.setTag t { x with nan := nan, results := results }
    if !above && !still.isEmpty then s.startRound t still (x.round + 1)
    else s.writeResults t (sortBy Prod.fst results)

/-! ## Progress -/

/-- Blocks `bs` of this rank's SRC, or a memory error. -/
def State.srcBlocks (s : State) (t : Nat) (bs : List Nat) : State × Option (List Byte) :=
  let d := (s.tagAt t).desc
  bs.foldl (fun (a : State × Option (List Byte)) b =>
    match a.2 with
    | none => a
    | some got =>
      let r := a.1.rdForm (gSrc d) (blockB d * b) (blockB d)
      (r.1, r.2.map fun bs => got ++ bs)) (s, some [])

/-- The blocks of its own that a rank keeps from its reading of SRC at the opening (R305, R306): those it combines itself, or
all of them in BX8, whose ring adds them in turn. -/
def keptBlocks (d : Nat) : List Nat := if isBx d then List.range (gCount d) else myBlocks d

/-- Read this rank's own blocks that it does not send, and keep them. -/
def State.keepOwn (s : State) (t : Nat) : State :=
  let d := (s.tagAt t).desc
  if !isRed d || isBarrier d || !(s.tagAt t).live then s
  else
    let r := s.srcBlocks t (keptBlocks d)
    match r.2 with
    | none => r.1.memErr t
    | some bs => r.1.setTag t { r.1.tagAt t with own := bs }

/-- Write an exponent word of a re-run block: in this module's memory, or by a WRITE to another module (R341). Answers whether
it was written or is on its way. -/
def State.wrExp (s : State) (t : Nat) (e : Nat × Int) : State × Bool :=
  let d := (s.tagAt t).desc
  let bs := leBytes 2 (wrapInt 16 (min (e.2 + 1) 1990))
  match (s.form (gExp d)).map (Loc.plus · (2 * e.1)) with
  | some (Loc.rack m a) =>
    let u := s.sendRop { id := 0, kind := .write, sep := homeEngine t, dev := m, tag := 0, addr := a, size := 2, data := bs,
                         mode := 0, local_ := 0, hint := 0, owner := .expWord t, phase := .sent, resends := 0 }
    (u.setTag t { u.tagAt t with wait := (u.tagAt t).wait + 1 }, true)
  | _ => s.wrForm (gExp d) (2 * e.1) bs

/-- R341: the words of re-run blocks are raised, then the operation is DONE, at once or when the last word on another module is
acknowledged. -/
def State.finishTag (s : State) (t : Nat) : State :=
  let r := (s.tagAt t).asked.foldl (fun (a : State × Bool) e =>
    let q := a.1.wrExp t e
    (q.1, a.2 && q.2)) (s, true)
  if !r.2 then r.1.memErr t
  else if (r.1.tagAt t).wait = 0 then r.1.endTag t 4 0 0 0
  else r.1

/-- Write what has arrived as results: shards, broadcasts, result streams, exchanged slots; `none` on a memory error. -/
def State.takeResults (s : State) (t r : Nat) : State × Bool :=
  let x := s.tagAt t
  let d := x.desc
  let put := fun (o : Nat) (bs : Option (List Byte)) =>
    match bs with
    | some b => s.wrForm (gDst d) o b
    | none => (s, true)
  if isBarrier d then (s, true)
  else if isXa d then
    let ns := countsOf d ((x.stream r 2 0 (4 * gEpr d)).getD [])
    let at' := fun o => match x.frag r 3 (o / 248) with
      | some f => (f.data.drop (o % 248)).headD 0
      | none => 0
    s.writeSource d r ns fun o => (List.range (gSlotb d)).map fun i => at' (o + i)
  else match gOp d with
    | 3 => put (gCount d * r) (x.stream r 0 0 (gCount d))
    | 4 => put 0 (x.stream r 0 0 (gCount d))
    | _ =>
      if isBx d then
        if (gOp d = 2 ∨ gMe d = gOwner d) ∧ r = gN d - 1 then put 0 (x.stream r 1 0 (blockB d * gCount d)) else (s, true)
      else if gOp d = 2 then
        match x.stream r 1 0 (resultB d * blocksOf d r) with
        | some bs => (List.range (blocksOf d r)).foldl (fun (a : State × Bool) i =>
            let q := a.1.wrForm (gDst d) (resultB d * (r + gN d * i)) ((bs.drop (resultB d * i)).take (resultB d))
            (q.1, a.2 && q.2)) (s, true)
        | none => (s, true)
      else (s, true)

/-- BX8's turn on the ring: the previous rank's blocks with this rank's added and quantised again (R299). -/
def State.bxTurn (s : State) (t : Nat) : State :=
  let x := s.tagAt t
  let d := x.desc
  let me := gMe d
  let n := gN d
  let prev := x.stream (me - 1) 0 0 (blockB d * gCount d)
  let out := if me = 0 then x.own else
    (List.range (gCount d)).flatMap fun b => s.bxStep d b (blockAt d (prev.getD []) b) (blockAt d x.own b)
  let nanIn := (List.range (gCount d)).any fun b => bxNan (blockAt d x.own b)
  let nanUp := me ≠ 0 && (List.range (gCount d)).any fun b => bxNan (blockAt d (prev.getD []) b)
  let s := s.setTag t { x with combined := true, nan := if nanUp then some (me - 1) else if nanIn then some me else none }
  if me < n - 1 then s.sendStream t (me + 1) 0 0 out
  else if gOp d = 2 ∨ me = gOwner d then
    let w := s.wrForm (gDst d) 0 out
    if !w.2 then w.1.memErr t
    else if gOp d = 2 then (others d).foldl (fun u k => u.sendStream t k 1 0 out) w.1
    else (others d).foldl (fun u k => u.sendStream t k 1 0 []) w.1
  else s.sendStream t (gOwner d) 1 0 out

/-- Whether this rank's combining may run: it combines something, has not, and every contribution is here. -/
def Tag.canCombine (x : Tag) : Bool :=
  let d := x.desc
  isRed d && !isBarrier d && !x.combined && decide (x.st = 2) &&
  if isBx d then decide (gMe d = 0) || (x.stream (gMe d - 1) 0 0 (blockB d * gCount d)).isSome
  else !(myBlocks d).isEmpty && ((expects d).filter fun e => decide (e.2.1 = 0)).all fun e =>
    (x.stream e.1 0 0 e.2.2).isSome

/-- The rerun round is complete. -/
def Tag.roundComplete (x : Tag) : Bool :=
  decide (x.st = 3) && (others x.desc).all fun r => (x.roundData r).isSome

/-- Nothing this rank owes is left: combining over, results written. -/
def Tag.settled (x : Tag) : Bool :=
  let d := x.desc
  decide (x.st = 2) && decide (x.wait = 0) && (expectedRanks d).all (fun r => x.arrived.any fun a => decide (a.1 = r)) &&
  (!isRed d || isBarrier d || x.combined || (!isBx d && (myBlocks d).isEmpty))

/-- One step of an operation after an event. -/
def State.advanceTag (s : State) (t : Nat) : State :=
  let x := s.tagAt t
  let d := x.desc
  if !x.live then s
  else if x.canCombine then
    if isBx d then s.bxTurn t else s.combineFirst t
  else if x.roundComplete then
    let b := s.rerunData t x.flagged
    match b.2 with
    | some own => b.1.endRound t own
    | none => b.1.memErr t
  else if x.settled then
    if isBarrier d ∧ gMe d = 0 ∧ ¬ x.combined then
      (others d).foldl (fun u r => u.sendStream t r 1 0 []) (s.setTag t { x with combined := true })
    else if isBx d ∧ gOp d = 0 ∧ gMe d = gOwner d ∧ gMe d ≠ gN d - 1 ∧ x.round = 0 then
      (others d).foldl (fun u r => u.sendStream t r 1 0 []) (s.setTag t { x with round := 1 })
    else s.finishTag t
  else s

/-- Run an operation as far as it goes. -/
def State.runTag (s : State) (t : Nat) : State := (List.range 16).foldl (fun u _ => u.advanceTag t) s

/-! ## Opening (R305) -/

/-- Send this rank's own data on opening (Table 11-1). -/
def State.sendOwn (s : State) (t : Nat) : State :=
  let x := s.tagAt t
  let d := x.desc
  let me := gMe d
  let src := fun (o n : Nat) => s.rdForm (gSrc d) o n
  let fail := fun (u : State) => u.memErr t
  if isBarrier d then if me = 0 then s else s.sendStream t 0 0 0 []
  else if isXa d then
    let c := s.rdForm (gCrumb d) 0 (4 * gN d * gEpr d)
    match c.2 with
    | none => fail c.1
    | some cnt =>
      let region := gEpr d * gC d * gSlotb d
      (List.range (gN d)).foldl (fun u r =>
        if !(u.tagAt t).live then u
        else
          let mine := (cnt.drop (4 * gEpr d * r)).take (4 * gEpr d)
          let ns := countsOf d mine
          let q := if gC d = 0 then (u, some []) else u.rdForm (gSrc d) (region * r) region
          match q.2 with
          | none => fail q.1
          | some bytes =>
            if r = me then
              let w := q.1.writeSource d me ns fun o => (bytes.drop o).take (gSlotb d)
              if w.2 then w.1 else fail w.1
            else
              let u := q.1.sendStream t r 2 0 mine
              if gC d = 0 then u
              else u.sendParts t r 3 ((slotFrags d ns).map fun f => (f, (bytes.drop (248 * f)).take 248))) c.1
  else match gOp d with
    | 3 =>
      let r := src 0 (gCount d)
      match r.2 with
      | none => fail r.1
      | some bs =>
        let w := r.1.wrForm (gDst d) (gCount d * me) bs
        if w.2 then (others d).foldl (fun u k => u.sendStream t k 0 0 bs) w.1 else fail w.1
    | 4 =>
      if me ≠ gOwner d then s
      else
        let r := src 0 (gCount d)
        match r.2 with
        | none => fail r.1
        | some bs =>
          let w := r.1.wrForm (gDst d) 0 bs
          if w.2 then (others d).foldl (fun u k => u.sendStream t k 0 0 bs) w.1 else fail w.1
    | _ =>
      if isBx d then s
      else
        let dests := if gOp d = 2 then others d else (others d).filter fun r => decide (r = gOwner d)
        dests.foldl (fun u r =>
          if !(u.tagAt t).live then u
          else
            let bs := if gOp d = 2 then (List.range (blocksOf d r)).map fun i => r + gN d * i else List.range (gCount d)
            let got := u.srcBlocks t bs
            match got.2 with
            | none => fail got.1
            | some data => if bs.isEmpty then got.1 else got.1.sendStream t r 0 0 data) s

end Sys2Proof.Machine
end

