-- ==== Sys2Proof/Machine/Engines.lean ====
section
/-! DEFINITION. The commands of the collective engines (chapters 11 and 12): bkarm, xfire, xa2a, bkrd, bkput and
manchor; opening, fragments, reruns, deadlines and aborts; the dumbwaiter; and the format engine's grants, which bkput
shares with the stream channels. -/

namespace Sys2Proof.Machine

/-! ## The dumbwaiter (R319 to R322) -/

/-- combine of R320, lane by lane. -/
def dwCombine (op : Nat) (a b : List Byte) : List Byte :=
  match op with
  | 0x10 => (List.zipWith (fun x y => (x + y) % 2 ^ 64) (lanesOf 8 a) (lanesOf 8 b)).flatMap (leBytes 8)
  | 0x11 => (List.zipWith (fun x y => if sext 64 y < sext 64 x then y else x) (lanesOf 8 a) (lanesOf 8 b)).flatMap (leBytes 8)
  | 0x12 => (List.zipWith (fun x y => if sext 64 x < sext 64 y then y else x) (lanesOf 8 a) (lanesOf 8 b)).flatMap (leBytes 8)
  | _ => List.zipWith (fun x y => x ||| y) a b

/-- Hand a dumbwaiter flit to the engine's router. -/
def State.dwSend (s : State) (t : Nat) (f : Flit) : State :=
  s.setFab { s.fab with waiting := s.fab.waiting ++ [(homeEngine t / 16, f)] }

/-- The flit of a step to a partner rank (R319). -/
def State.dwFlit (s : State) (t : Nat) (x : Tag) (step rank : Nat) : Flit :=
  { Flit.empty with resv := gResv x.desc + step, sep := homeEngine t, dep := homeEngine t, sdev := s.dev,
                    ddev := x.primary rank, kind := kDW, cls := 2, data := x.value, tag := gGen x.desc }

/-- The result of a dumbwaiter operation is written and the operation ends. -/
def State.dwFinish (s : State) (t : Nat) : State :=
  let x := s.tagAt t
  let d := x.desc
  let w := if gCount d = 0 then (s, true) else s.wrForm (gDst d) 0 x.value
  if w.2 then w.1.endTag t 4 0 0 0 else w.1.memErr t

/-- Send the flit of a step to its partner, if the step has one, and keep it for a repeat (R321). -/
def State.dwStep (s : State) (t step : Nat) (send : Option Nat) : State :=
  match send with
  | none => s
  | some r =>
    let x := s.tagAt t
    let f := s.dwFlit t x step r
    (s.setTag t { x with dwSent := x.dwSent.filter (fun e => decide (e.1 ≠ r)) ++ [(r, f)] }).dwSend t f

/-- Enter steps until one waits for a partner; after the last one the value goes to DST. `fuel` bounds the steps. -/
def State.dwEnter : Nat → State → Nat → State
  | 0, s, _ => s
  | fuel + 1, s, t =>
    let x := s.tagAt t
    match (dwSteps x.desc)[x.step]? with
    | none => s.dwFinish t
    | some (step, send, some _) => s.dwStep t step send
    | some (step, send, none) =>
      let s := s.dwStep t step send
      State.dwEnter fuel (s.setTag t { s.tagAt t with step := x.step + 1, tries := 0 }) t

/-- The partner's value for the step in progress (R320): the partner's rank has arrived, since this is the one flit that it
owes this member (R306, R314). -/
def State.dwTake (s : State) (t : Nat) (f : Flit) : State :=
  let x := s.tagAt t
  let d := x.desc
  match (dwSteps d)[x.step]? with
  | some (step, _, some r) =>
    let v := if step = 7 then f.data else dwCombine (gOp d) x.value f.data
    let s := s.setTag t { x with value := v, step := x.step + 1, tries := 0 }
    State.dwEnter 10 (s.rankArrived t r false) t
  | _ => s

/-- The tag a flit belongs to: the armed operation of its generation whose range holds its reservation, else an ended one
of that generation whose sent flits are kept, else the armed operation whose range holds it (R319, R321). -/
def State.dwTag (s : State) (engine resv gen : Nat) : Option Nat :=
  let hit := fun (e : Nat × Tag) => isDw e.2.desc && decide (homeEngine e.1 = engine)
    && decide (gResv e.2.desc ≤ resv) && decide (resv < gResv e.2.desc + 8)
  let find := fun (p : Tag → Bool) => (s.tags.find? fun e => hit e && p e.2).map Prod.fst
  let same := fun (x : Tag) => decide (gGen x.desc = gen)
  match find fun x => x.busy && same x with
  | some t => some t
  | none => match find fun x => !x.dwSent.isEmpty && same x with
    | some t => some t
    | none => find Tag.busy

/-- A flit matches the step an open operation waits for. -/
def Tag.dwWants (x : Tag) (f : Flit) : Bool :=
  decide (x.st = 2) && decide (f.tag = gGen x.desc) &&
  match (dwSteps x.desc)[x.step]? with
  | some (step, _, some _) => decide (f.resv = gResv x.desc + step)
  | _ => false

/-- Apply held flits that an operation now wants. -/
def State.dwHeldFor (s : State) (t : Nat) : State :=
  match s.dwHeld.find? fun f => decide (f.dep = homeEngine t) && (s.tagAt t).dwWants f with
  | some f => State.dwTake { s with dwHeld := s.dwHeld.erase f } t f
  | none => s

def State.dwSettle (s : State) (t : Nat) : State := (List.range 8).foldl (fun u _ => u.dwHeldFor t) s

/-- Count a stale fragment or flit of the engine of base die n (R313, R321). -/
def State.stray (s : State) (n : Nat) : State := s.bump F.CESTRAY_COUNT n 1

/-- The base die of an engine's endpoint. -/
def engineDie (ep : Nat) : Nat := ((List.range 4).find? fun b => decide (engineEp b = ep)).getD 0

/-- An engine receives a dumbwaiter flit (R321). -/
def State.dwReceive (s : State) (f : Flit) : State :=
  let die := engineDie f.dep
  let hold := fun (u : State) =>
    if 64 ≤ (u.dwHeld.filter fun g => decide (g.dep = f.dep)).length then u.stray die
    else { u with dwHeld := u.dwHeld ++ [f] }
  match s.dwTag f.dep f.resv f.tag with
  | none => hold s
  | some t =>
    let x := s.tagAt t
    let age := (f.tag + 256 - gGen x.desc) % 256
    if 128 ≤ age then s.stray die
    else if 0 < age then hold s
    else if x.dwWants f then (s.dwTake t f).dwSettle t
    else
      let past := decide (4 ≤ x.st) || ((dwSteps x.desc).take x.step).any fun e => decide (f.resv = gResv x.desc + e.1)
      if past then
        let rank := (List.range (gN x.desc)).find? fun r => decide (x.primary r = f.sdev)
        match rank.bind fun r => x.dwSent.find? fun e => decide (e.1 = r) with
        | some e => s.dwSend t e.2
        | none => s
      else hold s

/-- DW_FLIT_RECEIVED: an engine takes dumbwaiter flit `n` that the fabric delivered. -/
def execDwFlitReceived (n : Nat) (s : State) : Out :=
  .next <| match s.fab.dwIn[n]? with
    | none => s
    | some f => (s.setFab { s.fab with dwIn := s.fab.dwIn.eraseIdx n }).dwReceive f

/-- DW_HOLD_EXPIRY: a held flit whose operation has not opened within 20 µs is discarded and counted (R321). -/
def execDwHoldExpiry (n : Nat) (s : State) : Out :=
  .next <| match s.dwHeld[n]? with
    | none => s
    | some f => State.stray { s with dwHeld := s.dwHeld.eraseIdx n } (engineDie f.dep)

/-- DW_PARTNER_TIMEOUT: 2 µs without the partner's flit (R322). -/
def execDwPartnerTimeout (tag : Nat) (s : State) : Out :=
  within tag Config.tags <| .next <|
    let x := s.tagAt tag
    if !isDw x.desc ∨ x.st ≠ 2 then s
    else match (dwSteps x.desc)[x.step]? with
      | some (_, _, some r) =>
        if 8 ≤ x.tries then s.endTag tag 6 3 0 r
        else
          let s := s.setTag tag { x with tries := x.tries + 1 }
          match x.dwSent.find? fun e => decide (e.1 = r) with
          | some e => s.dwSend tag e.2
          | none => s
      | _ => s

/-- DW_SENT_FLIT_RELEASE: 20 µs after the end the sent flits are dropped (R321). -/
def execDwSentFlitRelease (tag : Nat) (s : State) : Out :=
  within tag Config.tags <| .next <|
    let x := s.tagAt tag
    if isDw x.desc && decide (4 ≤ x.st) then s.setTag tag { x with dwSent := [] } else s

/-! ## Opening and arming (R302 to R305) -/

/-- An armed operation opens: the deadline starts, this rank's data is read and sent (R305). -/
def State.openTag (s : State) (t : Nat) : State :=
  let x := s.tagAt t
  let d := x.desc
  if x.st ≠ 1 then s
  else
    let s := s.setTag t { x with st := 2 }
    if isDw d then
      let zero := List.replicate (gCount d) (0 : Byte)
      let r := if gCount d = 0 ∨ (gOp d = 0x14 ∧ gMe d ≠ gOwner d) then (s, some zero) else s.rdForm (gSrc d) 0 (gCount d)
      match r.2 with
      | none => r.1.memErr t
      | some v =>
        let u := r.1.setTag t { r.1.tagAt t with value := v }
        (State.dwEnter 10 (u.rankArrived t (gMe d) false) t).dwSettle t
    else
      let s := (s.sendOwn t).keepOwn t
      if (s.tagAt t).live then (s.rankArrived t (gMe d) x.backup).runTag t else s

/-- The trigger of an armed operation has come (R305). -/
def State.triggered (s : State) (d : Nat) : Bool := !gTrigv d || (s.counter (gTrig d)).reached

/-- The tiles whose stores some forms of Table 7-2 name. -/
def State.formTiles (s : State) (vs : List Nat) : List Nat :=
  vs.flatMap fun v => match s.form v with
    | some (.tile t _) => [t]
    | _ => []

/-- The tiles whose stores an engine may read for an operation: its SRC and crumbs, and the sources of contributions. -/
def State.engineTiles (s : State) (x : Tag) : List Nat :=
  (s.formTiles [gSrc x.desc, gCrumb x.desc] ++ x.origins.map fun o => o.tile).eraseDups

/-- An engine's turn on an operation, with what its reads of tile stores met: a read that delivers nothing ends the operation
MEMERR (R308, R394). -/
def State.engineReads (s : State) (t : Nat) (l : List (Nat × Sram)) (f : State → State) : State :=
  let q := s.sramReads l (s.engineTiles (s.tagAt t))
  if q.2 then f q.1 else q.1.memErr t

/-- COLL_OPEN: an armed operation's trigger counter has reached its target. -/
def execCollOpen (tag : EngineTurn) (s : State) : Out :=
  within tag.n Config.tags <| .next <|
    if decide ((s.tagAt tag.n).st = 1) && s.triggered (s.tagAt tag.n).desc && s.active && !s.draining then
      s.engineReads tag.n tag.sram fun u => u.openTag tag.n
    else s

/-- Reservation ranges in use overlap (R319). -/
def State.resvClash (s : State) (d : Nat) : Bool :=
  isDw d && s.tags.any fun e => e.2.busy && isDw e.2.desc &&
    decide (gResv e.2.desc < gResv d + 8) && decide (gResv d < gResv e.2.desc + 8)

/-- The rank table of a descriptor, 4 bytes a rank. -/
def State.readRanks (s : State) (d : Nat) : State × Except FaultAt (List Byte) :=
  match s.form (gRanktab d) with
  | some l => s.rdLoc l (4 * gN d) 0
  | none => (s, .ok [])

/-- n bytes of another module's memory: free values (R324 lets EXPADDR name it; log 40). -/
def State.drawBytes : Nat → State → List Byte × State
  | 0, s => ([], s)
  | n + 1, s =>
    let d := s.draw
    let r := State.drawBytes n d.2
    (BitVec.ofNat 8 d.1 :: r.1, r.2)

/-- The agreed exponents of a descriptor, 2 bytes a block, where its format has them (R324). -/
def State.readExps (s : State) (d : Nat) : State × Except FaultAt (List Byte) :=
  if isRed d && decide (gFmt d ≠ 0x14) then
    match s.form (gExp d) with
    | some (.rack _ _) => let r := State.drawBytes (2 * gCount d) s
      (r.2, .ok r.1)
    | some l => s.rdLoc l (2 * gCount d) 0
    | none => (s, .ok [])
  else (s, .ok [])

/-- Arm a tag whose descriptor and tables have passed: BUSY, a clash of reservations, or armed, and open at once when its
trigger has come (R303 to R305). `broken`: a sector of the rank table or the exponents failed its check, so that the operation
ends MEMERR as soon as it is armed (R308). -/
def State.armReady (s : State) (d : Nat) (x : Tag) (broken : Bool) : State × Nat :=
  if x.exps.any fun e => decide (1990 < (sext 16 e).natAbs) then (s, 2 + 32 * 2 ^ 8)
  else if (s.tagAt (gTag d)).busy then (s, 1)
  else if s.resvClash d then (s, 4)
  else
    let s := s.setTag (gTag d) x
    (if broken then s.memErr (gTag d) else if s.triggered d then s.openTag (gTag d) else s, 0)

/-- Judge the rank table of a descriptor, and read its exponents (R303, R342). The module's own device number is its SLOT_ID
(R32). -/
def State.armRanks (s : State) (d : Nat) (x : Tag) : State × Nat :=
  let prim := decide (x.primary (gMe d) = s.dev)
  let back := decide (x.backupDev (gMe d) = some s.dev)
  if x.ranks.any fun e => decide (2 ^ 17 ≤ e) then (s, 2 + 48 * 2 ^ 8)
  else if !prim && !back then (s, 2 + 8 * 2 ^ 8)
  else
    let ex := s.readExps d
    let x := { x with backup := !prim }
    match ex.2 with
    | .error _ => ex.1.armReady d x true
    | .ok eb =>
      let exps := (List.range (eb.length / 2)).map fun b => leValue ((eb.drop (2 * b)).take 2)
      ex.1.armReady d { x with exps := exps } false

/-- Read the rank table of a descriptor that names no bad field (R303). -/
def State.armDesc (s : State) (d : Nat) : State × Nat :=
  let rt := s.readRanks d
  let x : Tag := { Tag.free with st := 1, desc := d }
  match rt.2 with
  | .error _ => rt.1.armReady d x true
  | .ok rb => rt.1.armRanks d { x with ranks := (List.range (gN d)).map fun r => leValue ((rb.drop (4 * r)).take 4) }

/-- The tiles whose stores arming reads: those of the rank table and the exponents, and of SRC where the operation opens. -/
def State.armTiles (s : State) (d : Nat) : List Nat :=
  (s.formTiles ([gRanktab d] ++ (if isRed d && decide (gFmt d ≠ 0x14) then [gExp d] else [])
    ++ (if s.triggered d then [gSrc d, gCrumb d] else []))).eraseDups

/-- Arm a descriptor that names no bad field; where a read of a tile's store delivers nothing, the operation ends MEMERR as
soon as it is armed (R308, R394). -/
def State.armRead (s : State) (d : Nat) (l : List (Nat × Sram)) : State × Nat :=
  let q := s.sramReads l (s.armTiles d)
  if q.2 then q.1.armDesc d else q.1.armReady d { Tag.free with st := 1, desc := d } true

/-- What decides an arming instruction at issue (R302 to R304, checks 1 to 3): a fault, a status for a bad field, or a
descriptor to arm. -/
def State.armCheck (s : State) (t0 va starter : Nat) : Except FaultAt (Except Nat Nat) :=
  match descCheck va with
  | some f => .error f
  | none =>
    let d := (s.tile t0).rdNat va 64
    match s.badDesc starter d with
    | some (o, wrong) => .ok (.error (if wrong then 3 else 2 + o * 2 ^ 8))
    | none => match s.descRanges d with
      | some f => .error f
      | none => .ok (.ok d)

/-- bkarm, xfire and xa2a at issue (R302): SD receives the status. A descriptor that the read of the tile's store does not
deliver takes the tile out of use (R394). -/
def issueArm (op starter : Nat) (h : Head) (f : XF) (s : State) : Out :=
  issue h (encX op h f) ⟨[f.sa.toNat], [f.sd.toNat]⟩ false (fun s =>
    let give := fun (s : State) (st : Nat) =>
      s.setCtx h.tile h.ctx ((s.ctx h.tile h.ctx).wrS f.sd.toNat (BitVec.ofNat 64 st)).advance
    let va := ((s.ctx h.tile h.ctx).rdS f.sa.toNat).toNat
    let met := sramAt h.sram h.tile
    if decide (met = .uncorrectable) && (descCheck va).isNone then .go 16 fun s => s.sramFail h.tile
    else match s.armCheck h.tile va starter with
      | .error e => .fault e
      | .ok (.error st) => .go 16 fun s => give (s.sramNote h.tile met) st
      | .ok (.ok d) => .go 16 fun s => let r := (s.sramNote h.tile met).armRead d h.sram
        give r.1 r.2) s

/-- bkarm (R302). -/
def execBkarm (h : Head) (f : XF) (s : State) : Out := issueArm 0 0 h f s
/-- xfire (R302). -/
def execXfire (h : Head) (f : XF) (s : State) : Out := issueArm 3 1 h f s
/-- xa2a (R316). -/
def execXa2a (h : Head) (f : XF) (s : State) : Out := issueArm 5 2 h f s

/-! ## Reports (R315) -/

def Tag.stateWord (x : Tag) : Nat := x.st + x.reason * 2 ^ 8 + gOp x.desc * 2 ^ 16 + gGen x.desc * 2 ^ 24
def Tag.missWord (x : Tag) : Nat := x.miss + x.nmiss * 2 ^ 16
def Tag.lastWord (x : Tag) : Nat :=
  match x.arrived.getLast? with
  | none => 0
  | some (r, b) => r + 2 ^ 8 + b2n b * 2 ^ 9 + x.arrived.length * 2 ^ 16
def Tag.specWord (x : Tag) : Nat :=
  match x.nan with
  | some r => r + 2 ^ 8
  | none => 0

/-- The report words in the order of R315; a FREE tag reads as zero. -/
def Tag.report (x : Tag) (sel : Nat) : Nat :=
  if x.st = 0 then 0
  else match sel with
    | 0 => x.stateWord | 1 => x.missWord | 2 => x.lastWord | 3 => x.late | 4 => x.specWord | _ => x.rerun.length

/-- bkrd (R315). -/
def execBkrd (h : Head) (f : XF) (s : State) : Out :=
  issue h (encX 2 h f) ⟨[f.sa.toNat], [f.sd.toNat]⟩ false (fun s =>
    let v := ((s.ctx h.tile h.ctx).rdS f.sa.toNat).toNat
    if 4096 ≤ v then .fault (cOPERAND, unstated)
    else .go 16 fun s =>
      let w := (s.tagAt v).report (bits f.imm.toNat 2 0)
      s.setCtx h.tile h.ctx ((s.ctx h.tile h.ctx).wrS f.sd.toNat (BitVec.ofNat 64 w)).advance) s

/-! ## Fragments (R313, R340, R344) -/

/-- The bytes of the stream a fragment belongs to, where this rank expects that stream, and the fragment's place in it. -/
def fragStream (x : Tag) (rank part ix : Nat) : Option (Nat × Nat) :=
  let d := x.desc
  match part with
  | 3 => if isXa d then some (gEpr d * gC d * gSlotb d, ix) else none
  | 4 => if x.flagged.isEmpty then none else some (blockB d * x.flagged.length, ix - x.dataBase)
  | _ => ((expects d).find? fun e => decide (e.1 = rank) && decide (e.2.1 = part)).map fun e => (e.2.2, ix)

/-- What an engine makes of a fragment of `len` bytes. -/
inductive FragKind where
  | room (bytes : Nat)  -- expected: its place holds this many bytes
  | odd                 -- of a stream this rank does not expect, or of a round that is over
  | beyond              -- beyond the armed size (R308)
deriving DecidableEq, Repr

/-- R300, R308, R344: a fragment beyond the armed size is detected; one of a stream that another rank's unequal descriptor
makes it send, within that size, is not, and a late copy from a round that is over is discarded. -/
def fragKind (x : Tag) (rank part ix len : Nat) : FragKind :=
  let d := x.desc
  if part = 4 ∧ ix < x.dataBase then .odd
  else match fragStream x rank part ix with
    | some (bytes, i) =>
      if i < fragCount bytes then if len ≤ min 248 (bytes - 248 * i) then .room (min 248 (bytes - 248 * i)) else .beyond
      else .beyond
    | none =>
      let most := max (gSrcBytes d) (gDstBytes d)
      if 248 * (ix % 2 ^ 23) + len ≤ most then .odd else .beyond

/-- Apply a fragment of the armed generation to an open operation (R306, R308, R325, R344). A fragment shorter than its place
is not detected: the bytes it leaves out are free values (R300). -/
def State.applyFrag (s : State) (t rank part ix : Nat) (data : List Byte) (backup : Bool) : State :=
  let x := s.tagAt t
  let d := x.desc
  if gN d ≤ rank then s.mismatch t 0xFF
  else match fragKind x rank part ix data.length with
    | .beyond => s.mismatch t rank
    | .odd => s
    | .room n =>
      if (x.frag rank part ix).isSome then s
      else
        let r := State.drawBytes (n - data.length) s
        let x := { x with frags := x.frags ++ [{ rank := rank, part := part, ix := ix, data := data ++ r.1 }] }
        let s := r.2.setTag t x
        let bad := isRed d && !isBarrier d && !isBx d
          && (decide (part = 0) && x.badBlock rank 0 0 ix ((myBlocks d).map x.expOf)
              || decide (part = 4) && x.badBlock rank 4 x.dataBase (ix - x.dataBase) (x.flagged.map Prod.snd))
        let had := x.arrived.any fun a => decide (a.1 = rank)
        if bad then s.mismatch t rank
        else if !had && x.rankDone rank then
          let w := s.takeResults t rank
          if w.2 then (w.1.rankArrived t rank backup).runTag t else w.1.memErr t
        else s.runTag t

/-- What a fragment's word says against the tag (R313): 0 apply, 1 RETRY, 2 stale. -/
def Tag.fragFate (x : Tag) (gen : Nat) : Nat :=
  let age := (gen + 256 - gGen x.desc) % 256
  if x.st = 0 then 1
  else if 128 ≤ age then 2
  else if 0 < age then 1
  else if x.st = 1 then 1
  else if x.live then 0
  else 2

/-- The engine's answer to COLL message `n`: RETRY, discard, or `f` on an open operation. -/
def State.onFrag (s : State) (n : Nat) (request : Bool) (f : Nat → Nat → List Byte → State → State) : State :=
  let isReq := fun (m : InMsg) => let w := leValue (m.data.take 8); decide (bits w 15 12 = 4) && !bit w 48
  match s.inMsg n fun m => decide (m.kind = kCOLL) && decide (m.key.ep % 16 = 4) && decide (isReq m = request) with
  | none => s
  | some m =>
    if !s.answers then s
    else
      let s := s.dropIn n
      let w := leValue (m.data.take 8)
      let t := bits w 11 0
      if homeEngine t ≠ m.key.ep ∨ 5 ≤ bits w 15 12 ∨ bits w 63 57 ≠ 0 ∨ m.data.length < 8 then s.stray (engineDie m.key.ep)
      else match (s.tagAt t).fragFate (bits w 56 49) with
        | 0 => f t w (m.data.drop 8) s
        | 1 => (s.bump F.RMCOUNT_COUNT 1 1).reply m kRETRY (leBytes 8 (s.get F.RMCTL_HINT 0))
        | _ => s.stray (engineDie m.key.ep)

/-- COLL_FRAGMENT: an engine receives COLL message `n` of the inbox, other than a rerun request. -/
def execCollFragment (n : EngineTurn) (s : State) : Out :=
  .next (s.onFrag n.n false fun t w data u => u.engineReads t n.sram fun u =>
    u.applyFrag t (bits w 23 16) (bits w 15 12) (bits w 48 25) data (bit w 24))

/-- The entries of a request fragment (R340). -/
def requestEntries (bs : List Byte) : List (Nat × Int) :=
  (List.range (bs.length / 8)).map fun i =>
    let v := leValue ((bs.drop (8 * i)).take 8)
    (bits v 31 0, sext 16 (bits v 47 32))

/-- A rank answers a rerun request: 31 entries of a fragment fill whole fragments of rerun data (R339, R340). A second copy of
a request fragment is discarded (R344). -/
def State.answerRerun (s : State) (t rank frag : Nat) (bs : List Byte) : State :=
  let x := s.tagAt t
  let d := x.desc
  let req := requestEntries bs
  if gN d ≤ rank then s.mismatch t 0xFF
  else if !isRed d ∨ (req.any fun e => decide (gCount d ≤ e.1)) then s.mismatch t rank
  else if x.served.contains (rank, frag) then s
  else
    let r := (s.setTag t { x with served := x.served ++ [(rank, frag)] }).rerunData t req
    match r.2 with
    | none => r.1.memErr t
    | some data => if req.isEmpty then r.1 else r.1.sendStream t rank 4 (2 ^ 23 + blockB d / 8 * frag) data

/-- RERUN_REQUEST: a rank receives rerun request message `n` of the inbox (R339). -/
def execRerunRequest (n : EngineTurn) (s : State) : Out :=
  .next (s.onFrag n.n true fun t w data u => u.engineReads t n.sram fun u =>
    u.answerRerun t (bits w 23 16) (bits w 47 25) data)

/-! ## Deadline and abort (R307, R311, R318) -/

/-- The maps of sources that have not arrived (R318); answers whether every word was written. -/
def State.missingMaps (s : State) (t : Nat) : State × Bool :=
  let x := s.tagAt t
  let d := x.desc
  if !isXa d || isBarrier d then (s, true)
  else x.missing.foldl (fun (a : State × Bool) r => (List.range (gEpr d)).foldl (fun (b : State × Bool) e =>
    let q := b.1.writeMaps d r e 0 0xFFFFFFFF
    (q.1, b.2 && q.2)) a) (s, true)

/-- COLL_DEADLINE: the deadline of an OPEN or RERUN operation passes (R307); a map that cannot be written ends it MEMERR instead
(R308). -/
def execCollDeadline (tag : Nat) (s : State) : Out :=
  within tag Config.tags <| .next <|
    let x := s.tagAt tag
    if !x.live || gNodl x.desc then s
    else
      let m := x.missing
      let w := s.missingMaps tag
      if w.2 then w.1.endTag tag 5 0 m.length (m.headD 0) else w.1.memErr tag

/-- BKCTL_ABORT: the abort of the selected tag is applied (R311). -/
def State.bkctlAbort (s : State) (tag : Nat) : State :=
    let s := s.askDone .BKCTL tag
    if (s.tagAt tag).busy then s.endTag tag 7 0 0 0 else s

def execBkctlAbort (tag : Nat) (s : State) : Out :=
  within tag Config.tags <| .next (s.bkctlAbort tag)

/-! ## bkput (R327 to R332) -/

/-- Blocks of an arming that have an origin or wait for one. -/
def State.putBlocks (s : State) (t b0 nb : Nat) : Bool :=
  let meets := fun (b n : Nat) => decide (b < b0 + nb) && decide (b0 < b + n)
  ((s.tagAt t).origins.any fun o => meets o.b0 o.nb) || s.puts.any fun p => decide (p.tag = t) && meets p.b0 p.nb

/-- Origin records in use on a tag's engine (R331). -/
def State.originsUsed (s : State) (t : Nat) : Nat :=
  (s.tags.filter fun e => decide (e.1 / 1024 = t / 1024) && e.2.busy).foldl (fun a e => a + e.2.origins.length) 0
  + (s.puts.filter fun p => decide (p.tag / 1024 = t / 1024)).length

/-- Table 12-2's statuses, in the order of R331. -/
def State.putStatus (s : State) (t b0 nb : Nat) : Nat :=
  let x := s.tagAt t
  let d := x.desc
  if x.st ≠ 1 then 1
  else if 3 ≤ gOp d then 3
  else if gCount d < b0 + nb then 2
  else if nb = 0 then 0
  else if s.putBlocks t b0 nb then 4
  else if 16384 ≤ s.originsUsed t then 5
  else 0

/-- The faults of bkput at issue (R327). -/
def putFault (va vb imm : Nat) : Option FaultAt :=
  let stype := bits imm 15 14
  let n := stypeBytes stype * 32 * bits imm 13 0
  if 2 ^ 21 ≤ va ∨ 2 ^ 48 ≤ vb then some (cOPERAND, unstated)
  else if n = 0 then none
  else if stype = 0 ∧ va < tileStoreEnd then some (cLOCAL_RANGE, va)
  else localCheck va n

/-- The trigger arrival of an accepted bkput (R330, R332). R46 gives the tile number as UNIT for an arrival that a tile's
instruction makes, without naming bkput: the model takes it for bkput too (DEDUCED, log 57). -/
def State.putArrive (s : State) (tile trig nb epoch : Nat) : State := s.arriveAt tile trig nb epoch

/-- bkput (R327). -/
def execBkput (h : Head) (f : XF) (s : State) : Out :=
  issue h (encX 1 h f) ⟨[f.sa.toNat, f.sb.toNat], [f.sd.toNat]⟩ false (fun s =>
    let x := s.ctx h.tile h.ctx
    let va := (x.rdS f.sa.toNat).toNat
    let vb := (x.rdS f.sb.toNat).toNat
    let imm := f.imm.toNat
    match putFault va vb imm with
    | some e => .fault e
    | none => .go 16 fun s =>
      let t := bits vb 11 0
      let b0 := bits vb 47 16
      let nb := bits imm 13 0
      let st := s.putStatus t b0 nb
      let seq := (s.tile h.tile).seq
      let s := if st ≠ 0 then s
        else if nb = 0 then
          if bit imm 16 then s else s.putArrive h.tile (gTrig (s.tagAt t).desc) 0 (bits vb 15 12)
        else
          let p : Put := { tile := h.tile, ctx := h.ctx, seq := seq, pc := x.pc, tag := t, b0 := b0, nb := nb, done := 0,
                           srcl := va, stype := bits imm 15 14, epoch := bits vb 15 12, noarr := bit imm 16,
                           exps := ((s.tagAt t).exps.drop b0).take nb }
          State.setTile { s with puts := s.puts ++ [p] } h.tile { s.tile h.tile with seq := seq + 1 }
      s.setCtx h.tile h.ctx ((s.ctx h.tile h.ctx).wrS f.sd.toNat (BitVec.ofNat 64 st)).advance) s

/-- A bkput may read: every earlier M, V and F instruction of its context has completed (R327). -/
def State.putReady (s : State) (p : Put) : Bool :=
  (s.tile p.tile).ops.all fun o => decide (o.ctx ≠ p.ctx) || decide (p.seq ≤ o.seq) || decide (o.unit = .narrow)

/-- The next block of a bkput is converted and written; with the last one the origin is recorded and the trigger
arrives (R330, R332). Its exponents are those it took while the tag was ARMED (R326). -/
def State.grantPut (s : State) (p : Put) (sram : Sram) : State :=
  match sram with
  | .uncorrectable => s.sramFail p.tile
  | sram =>
    let s := s.sramNote p.tile sram
    let x := s.tagAt p.tag
    let d := x.desc
    let b := p.b0 + p.done
    let e := sext 16 (p.exps.getD p.done 0)
    let o : Origin := { b0 := p.b0, nb := p.nb, srcl := p.srcl, stype := p.stype, tile := p.tile }
    let fail := fun (u : State) (f : FaultAt) =>
      State.unitFaultAt { u with puts := u.puts.filter fun q => decide (q ≠ p) } p.tile p.ctx .core p.seq p.pc f
    let who := some (p.tile, p.ctx, p.seq)
    let put := fun (u : State) (v off : Nat) (bs : List Byte) =>
      match u.form v with
      | none => (u, none)
      | some l => u.wrLoc (l.plus off) bs 0 who
    let c := s.contribution x o p.done b e
    match c.2 with
    | .error f => fail c.1 f
    | .ok (bs, crumb) =>
      let w := put c.1 (gSrc d) (blockB d * b) bs
      match w.2 with
      | some f => fail w.1 f
      | none =>
        let w2 := match crumb with
          | some cs => put w.1 (gCrumb d) (272 * b) (crumbBytes e cs)
          | none => (w.1, none)
        match w2.2 with
        | some f => fail w2.1 f
        | none =>
          if p.done + 1 < p.nb then
            { w2.1 with puts := w2.1.puts.map fun q => if q = p then { p with done := p.done + 1 } else q }
          else
            let u := State.setTag { w2.1 with puts := w2.1.puts.filter fun q => decide (q ≠ p) } p.tag
              { w2.1.tagAt p.tag with origins := (w2.1.tagAt p.tag).origins ++ [o] }
            let u := if p.noarr then u else u.putArrive p.tile (gTrig d) p.nb p.epoch
            (u.settle p.tile p.ctx).flushArrives p.tile p.ctx

/-- The oldest bkput of a cluster that may read; a fenced tile receives no more work (R395). -/
def State.wantsPut (s : State) (q : Nat) : Option Put :=
  s.puts.find? fun p => decide (s.clusterOf p.tile = q) && !s.tileFenced p.tile && s.putReady p && !s.locFull ((s.form (gSrc (s.tagAt p.tag).desc)).getD (.tile 0 0)) 272

/-- ENGINE_GRANT: one grant to the next ready channel, starting after the one served last; the cluster's bkputs take
their turn after channel 15 (R201, R202, R332). -/
def execEngineGrant (cluster : Nat) (sram : Sram) (s : State) : Out :=
  within cluster Config.clusters <| .next <|
    if s.draining || !s.active then s
    else
      let last := SMap.get 0 s.engines cluster
      let turn := (List.range 17).map fun i => (last + i) % 17
      let ready := fun ch => if ch = 16 then (s.wantsPut cluster).isSome else (s.wantsGrant (16 * cluster + ch)).isSome
      match turn.find? ready with
      | none => s
      | some ch =>
        let s' := { s with engines := SMap.set 0 s.engines cluster (ch + 1) }
        if ch = 16 then
          match s.wantsPut cluster with
          | some p => s'.grantPut p sram
          | none => s
        else
          match s.wantsGrant (16 * cluster + ch) with
          | some x => s'.grantChan (16 * cluster + ch) x sram
          | none => s

end Sys2Proof.Machine
end

