-- ==== Sys2Proof/Machine/MemCtl.lean ====
section
/-! DEFINITION. The memory-channel commands (chapter 8): one access at a cache slice, the patrol scrubber, taking
channels out of service and returning them, and the traffic generator. -/

namespace Sys2Proof.Machine

/-- What the world does to a stored sector before a read meets it: bytes and the bits that flip in them. -/
def flipBytes (bs : List Nat) (u : List (Nat × Byte)) : List Nat :=
  u.foldl (fun a e => a.set e.1 (a.getD e.1 0 ^^^ e.2.toNat)) bs

/-- Flip bits of the copy of a sector that an access sees. -/
def Mem.upset (m : Mem) (ch q sec : Nat) (u : List (Nat × Byte)) : Mem :=
  let sk := sectorKey ch q sec
  match m.line (lineKey ch q) with
  | some l =>
    if bit l.valid sec then { m with cbytes := wrStored m.cbytes sk (flipBytes (rdStored m.cbytes sk) u) }
    else { m with hbm := wrStored m.hbm sk (flipBytes (rdStored m.hbm sk) u) }
  | none => { m with hbm := wrStored m.hbm sk (flipBytes (rdStored m.hbm sk) u) }

/-- CACHE_SECTOR_ACCESS: one read of n bytes (`data` none) or one write, within one sector, under a HINT of Table 7-3,
for requester `src` (its device number plus 1, or 0). `u` is what physically happened to the stored sector. -/
def execCacheSectorAccess (a n : Nat) (data : Option (List Byte)) (hint src : Nat) (u : List (Nat × Byte)) (s : State) :
    Out :=
  .next <|
    let n := match data with
      | some bs => bs.length
      | none => n
    if n = 0 ∨ 32 < a % 32 + n ∨ s.capacity ≤ a then s
    else
      let pl := s.place a
      let s := if u.isEmpty then s else { s with mem := s.mem.upset pl.1 pl.2.1 (pl.2.2 / 32) u }
      match data with
      | none => (s.devRead a n hint src).1
      | some bs => (s.devWrite a bs hint src none).1

/-- PATROL_SCRUB: the scrubber reads sector `sec` of local granule `q` of channel `m` from HBM (R231). -/
def execPatrolScrub (m q sec : Nat) (u : List (Nat × Byte)) (s : State) : Out :=
  within m Config.channels <| .next <|
    let dirty := match s.mem.line (lineKey m q) with
      | some l => bit l.dirty sec
      | none => false
    if s.get F.MCHMAP_ACTIVE m ≠ 1 ∨ Config.granulesPerChannel ≤ q ∨ 8 ≤ sec ∨ s.stackFenced m then s
    else
      let sk := sectorKey m q sec
      let s := if u.isEmpty then s
        else { s with mem := { s.mem with hbm := wrStored s.mem.hbm sk (flipBytes (rdStored s.mem.hbm sk) u) } }
      if dirty then s
      else match decodeSector (rdStored s.mem.hbm sk) with
        | .ok _ _ => s
        | .fixed d =>
          ((State.bump { s with mem := { s.mem with hbm := wrStored s.mem.hbm sk (encodeSector false d) } }
            F.MCHCNT_CORFIX m 1)).penalise 1 m 1
        | _ => ((s.bump F.MCHCNT_SCRUBERR m 1).penalise 1 m 5).log .scrubFinding m (leBytes 1 0)

/-! ## Service states (R234 to R236) -/

/-- Lines of one channel. -/
def Mem.linesOf (m : Mem) (ch : Nat) : List Nat := (m.lines.filter fun e => decide (e.1 / 2 ^ 25 = ch)).map Prod.fst

/-- Combining registers of a channel folded, its dirty sectors written back and its lines dropped (R234). -/
def State.flushChannel (s : State) (m : Nat) : State :=
  let s := (s.mem.combs.filter fun c => decide (c.sector / 8 / 2 ^ 25 = m)).foldl (fun u c => u.foldComb c) s
  { s with mem := (s.mem.linesOf m).foldl (fun a k => a.evict k) s.mem }

/-- Zero-fill one channel (R232). -/
def Mem.zeroChannel (x : Mem) (m : Nat) : Mem :=
  { x with hbm := SMap.keep x.hbm fun k => decide (k / 36 / 8 / 2 ^ 25 ≠ m),
           cbytes := SMap.keep x.cbytes fun k => decide (k / 36 / 8 / 2 ^ 25 ≠ m),
           lines := SMap.keep x.lines fun k => decide (k / 2 ^ 25 ≠ m),
           combs := x.combs.filter fun c => decide (c.sector / 8 / 2 ^ 25 ≠ m) }

/-- A refused action of MCHCTL: REFUSED is set and the write counts as without effect (R234, R237). -/
def State.mchRefuse (s : State) (hearth : Bool) (m : Nat) : State :=
  (s.put F.MCHSTAT_REFUSED m 1).noEffect hearth .MCHCTL m

/-- Service actions are refused while a context runs and on a channel outside the active list (R234, R236). -/
def State.serviceRefused (s : State) (m : Nat) : Bool := s.jobRuns || decide (s.get F.MCHMAP_ACTIVE m ≠ 1)

/-- The service state: a channel that is mapped out, or whose stack is fenced, is OUT (R236, R404). -/
def State.service (s : State) (m : Nat) : Nat :=
  if s.get F.MCHMAP_ACTIVE m ≠ 1 || s.stackFenced m then 2 else s.get F.MCHSTAT_SERVICE m

def State.takeOut (s : State) (hearth : Bool) (m : Nat) : State :=
  if s.serviceRefused m then s.mchRefuse hearth m
  else
    let s := s.askDone .MCHCTL m
    if s.service m = 0 then (s.flushChannel m).put F.MCHSTAT_SERVICE m 1 else s

/-- TAKE_OUT_OF_SERVICE on channel `m` (R234). Only an IN_SERVICE channel leaves. -/
def execTakeOutOfService (hearth : Bool) (m : Nat) (s : State) : Out :=
  within m Config.channels (.next (s.takeOut hearth m))

/-- CHANNEL_LEAVING_DONE (R234). -/
def execChannelLeavingDone (m : Nat) (s : State) : Out :=
  within m Config.channels <| .next <|
    if s.service m = 1 then (s.flushChannel m).put F.MCHSTAT_SERVICE m 2 else s

/-! ## The traffic generator (R237, R238) -/

/-- A bit that comes back wrong from the stack: which beat the run reads, counted from its start, and which bit of that beat,
72 × transfer + lane. -/
abbrev TgErr := Nat × Nat

def GenRun.passes (g : GenRun) : Nat := bits g.cfg 63 32
def GenRun.invert (g : GenRun) : Bool := bit g.cfg 8
def GenRun.mode (g : GenRun) : Nat := bits g.cfg 5 4
def GenRun.pattern (g : GenRun) : Nat := bits g.cfg 2 0
def GenRun.count (g : GenRun) : Nat := bits g.range 56 32
def GenRun.first (g : GenRun) : Nat := bits g.range 24 0

/-- A lane's pseudo-channel (the lane numbers of TGLANE) takes part. -/
def GenRun.uses (g : GenRun) (lane : Nat) : Bool :=
  bit (bits g.cfg 7 6) (if lane < 64 then lane / 32 else (lane - 64) / 4)

/-- PRBS31's state after `n` bits. -/
def prbsSkip : Nat → Nat → Nat
  | 0, st => st
  | n + 1, st => prbsSkip n (prbsNext st)

/-- The 288 bits of the beat of stored sector `b` (local address 32 × b) in a pass: four transfers, 72 lanes each (Table 8-6).
The transfers of a beat, a PRBS31 that begins again with each pass, and the first walking lane are the model's choice (log
entry 59). -/
def GenRun.beat (g : GenRun) (pass b : Nat) : List Bool :=
  let n := b - 8 * g.first
  let raw := match g.pattern with
    | 0 => prbsBits 288 (prbsSkip (288 * n) g.seed)
    | 1 => (List.range 288).map fun k => decide (k % 72 = n % 72)
    | 2 => (List.range 288).map fun k =>
      let l := k % 72
      let i := if l < 64 then l % 32 else 32 + l % 4
      if i < 33 then bit (32 * b) i else bit g.loose (i - 33)
    | _ => (List.range 288).map fun k =>
      let l := k % 72
      if l < 64 then bit g.user (64 * (k / 72) + l) else bit g.user (8 * (k / 72) + l - 64)
  raw.map fun v => v != (g.invert && decide (pass % 2 = 1))

/-- The bit of a beat that stored bit `j` of a sector travels on: 32 data bytes, then 4 check bytes. -/
def beatSlot (j : Nat) : Nat := if j < 256 then 72 * (j / 64) + j % 64 else 72 * ((j - 256) / 8) + 64 + (j - 256) % 8

/-- A beat as it lies in its stored sector, and back. -/
def storeBeat (old : List Nat) (use : Nat → Bool) (bs : List Bool) : List Nat :=
  (List.range 36).map fun y => bitsOf 8 fun z =>
    let k := beatSlot (8 * y + z)
    if use (k % 72) then bs.getD k false else bit (old.getD y 0) z

/-- One granule of a pass: each of its eight beats written, or read and compared with what the pass expects. The lane and the
address of every mismatch are kept, the latest first. `n` is the number of beats read before. -/
def genGranule (g : GenRun) (m pass q n : Nat) (wr : Bool) (errs : List TgErr) (x : Mem × List (Nat × Nat)) :
    Mem × List (Nat × Nat) :=
  (List.range 8).foldl (fun (a : Mem × List (Nat × Nat)) sec =>
    let b := 8 * q + sec
    let sk := sectorKey m q sec
    let here := rdStored a.1.hbm sk
    let want := g.beat pass b
    if wr then ({ a.1 with hbm := wrStored a.1.hbm sk (storeBeat here g.uses want) }, a.2)
    else (a.1, (List.range 288).foldl (fun l k =>
      let j := (List.range 288).find? fun j => decide (beatSlot j = k)
      let got := match j with
        | some j => bit (here.getD (j / 8) 0) (j % 8)
        | none => false
      let seen := got != errs.contains (n + sec, k)
      if g.uses (k % 72) && seen != want.getD k false then (k % 72, 32 * b) :: l else l) a.2)) x

/-- Granule moves of one pass: the writes, then the reads (TGCFG.MODE). -/
def GenRun.perPass (g : GenRun) : Nat := if g.mode = 0 then 2 * g.count else g.count

/-- The first `w` granule moves of a run (R237). -/
def genMoves (g : GenRun) (m w : Nat) (errs : List TgErr) (x : Mem) : Mem × List (Nat × Nat) :=
  (List.range w).foldl (fun a i =>
    let pass := i / g.perPass
    let k := i % g.perPass
    let wr := decide (g.mode = 1) || (decide (g.mode = 0) && decide (k < g.count))
    genGranule g m pass (g.first + k % g.count) (8 * (g.count * pass + k % g.count)) wr errs a) (x, [])

/-- A run ends after `w` granule moves; the results hold the mismatches the checker found (R237). -/
def State.genEnd (s : State) (m w : Nat) (errs : List TgErr) : State :=
  let r := genMoves (SMap.get .reset s.gens m) m w errs s.mem
  let s := { s with mem := r.1, gens := SMap.set .reset s.gens m .reset }
  let s := (s.put F.MCHSTAT_TGRUN m 0).put F.MCHSTAT_TGDONE m 1
  let found := r.2.reverse
  let s := found.foldl (fun (u : State) e =>
    (u.bump F.TGERR_BITS m 1).bump F.TGLANE_MISMATCH (72 * m + e.1) 1) s
  match found with
  | [] => s
  | e :: _ =>
    (((s.put F.MCHSTAT_TGFAIL m 1).put F.TGFIRST_VALID m 1).put F.TGFIRST_LANE m e.1).put F.TGFIRST_ADDR m e.2

/-- All granule moves of a run. -/
def GenRun.total (g : GenRun) : Nat := g.passes * g.perPass

/-- A run is stopped at its next granule boundary: how far it has come is free (log entry 5). -/
def State.genHalt (s : State) (m : Nat) (errs : List TgErr) : State :=
  let d := s.drawTime
  d.2.genEnd m (min (1 + d.1) (SMap.get GenRun.reset s.gens m).total) errs

/-- Clear the results of the last run (R237). -/
def State.genClear (s : State) (m : Nat) : State :=
  let s := (List.range 72).foldl (fun (u : State) k => u.setReg .TGLANE (72 * m + k) 0) s
  (((s.setReg .TGERR m 0).setReg .TGFIRST m 0).put F.MCHSTAT_TGFAIL m 0).put F.MCHSTAT_TGDONE m 0

/-- The generator may not start: the channel is not OUT, the range ends beyond the channel, or PRBS31 has seed 0. -/
def State.genRefused (s : State) (m : Nat) : Bool :=
  decide (s.service m ≠ 2)
  || (decide (s.get F.TGRANGE_COUNT m ≠ 0)
      && decide (Config.granulesPerChannel < s.get F.TGRANGE_FIRST m + s.get F.TGRANGE_COUNT m))
  || (decide (s.get F.TGCFG_PATTERN m = 0) && decide (s.get F.TGSEED_SEED m = 0))

def State.startGen (s : State) (hearth : Bool) (m : Nat) : State :=
  if s.genRefused m then s.mchRefuse hearth m
  else
    let s := (s.askDone .MCHCTL m).genClear m
    if s.get F.TGCFG_PASSES m = 0 ∨ s.get F.TGRANGE_COUNT m = 0 ∨ s.get F.TGCFG_PCMASK m = 0 then
      s.put F.MCHSTAT_TGDONE m 1
    else
      let d := s.draw
      let g : GenRun := { cfg := s.reg .TGCFG m, range := s.reg .TGRANGE m, seed := s.get F.TGSEED_SEED m,
                          user := s.reg .TGUSER m, loose := d.1 % 8 }
      State.put { d.2 with gens := SMap.set .reset s.gens m g } F.MCHSTAT_TGRUN m 1

/-- START_GENERATOR (R237). -/
def execStartGenerator (hearth : Bool) (m : Nat) (s : State) : Out :=
  within m Config.channels (.next (s.startGen hearth m))

def State.stopGen (s : State) (m : Nat) (errs : List TgErr) : State :=
  let s := s.askDone .MCHCTL m
  if s.get F.MCHSTAT_TGRUN m = 1 then s.genHalt m errs else s

/-- Every generator that runs is stopped. -/
def State.haltGens (s : State) : State := s.gens.foldl (fun (u : State) e => u.genHalt e.1 []) s

/-- STOP_GENERATOR: the run ends at the next granule boundary (R237). -/
def execStopGenerator (m : Nat) (errs : List TgErr) (s : State) : Out :=
  within m Config.channels (.next (s.stopGen m errs))

/-- GENERATOR_DONE: the run has made its passes (R237). -/
def execGeneratorDone (m : Nat) (errs : List TgErr) (s : State) : Out :=
  within m Config.channels <| .next <|
    if s.get F.MCHSTAT_TGRUN m = 1 then s.genEnd m (SMap.get GenRun.reset s.gens m).total errs else s

def State.returnIn (s : State) (hearth : Bool) (m : Nat) (errs : List TgErr) : State :=
  if s.serviceRefused m then s.mchRefuse hearth m
  else
    let s := s.askDone .MCHCTL m
    if s.service m = 2 && !s.stackFenced m then
      let s := if s.get F.MCHSTAT_TGRUN m = 1 then s.genHalt m errs else s
      s.put F.MCHSTAT_SERVICE m 3
    else s

/-- RETURN_TO_SERVICE: a running generator stops first; the channel fills (R234, R237). Only an OUT channel returns. -/
def execReturnToService (hearth : Bool) (m : Nat) (errs : List TgErr) (s : State) : Out :=
  within m Config.channels (.next (s.returnIn hearth m errs))

/-- CHANNEL_FILL_DONE (R234). -/
def execChannelFillDone (m : Nat) (s : State) : Out :=
  within m Config.channels <| .next <|
    if s.service m = 3 then State.put { s with mem := s.mem.zeroChannel m } F.MCHSTAT_SERVICE m 0 else s

end Sys2Proof.Machine
end

