-- ==== Sys2Proof/Machine/Optics.lean ====
section
/-! DEFINITION. Optical ports and wiring plans (chapter 10): rings, lanes and ports; replays and retrains; loss and
return of light, laser inputs; spares; plan switches. What light and rings do comes with the commands. -/

namespace Sys2Proof.Machine

/-! ## Names -/

def rxRing (r : Nat) : Bool := decide (18 ≤ r)
def ringIx (p r : Nat) : Nat := 36 * p + r

/-- The edge die of a port and its local number there (Table 1-2). -/
def dieOfPort (p : Nat) : Nat := if p < 24 then p / 6 else if p < 40 then (p - 24) / 4 else if p < 44 then p - 40 else p - 44
def localOfPort (p : Nat) : Nat := if p < 24 then p % 6 else if p < 40 then 6 + (p - 24) % 4 else if p < 44 then 10 else 11

/-- The local number whose role a port holds: a spare's TARGET once it has taken over; `none` for an idle spare and a
replaced port (R274). -/
def State.role (s : State) (p : Nat) : Option Nat :=
  let n := dieOfPort p
  let k := localOfPort p
  let taken := decide (s.get F.SPARE_TAKEN n = 1)
  if k = 11 then (if taken then some (s.get F.SPARE_TARGET n) else none)
  else if taken ∧ s.get F.SPARE_TARGET n = k then none else some k

def State.pstate (s : State) (p : Nat) : Nat := s.get F.PORTSTAT_STATE p
def State.rxLane (s : State) (p k : Nat) : RxLane := SMap.get RxLane.reset s.rx (laneIx p k)
def State.setRx (s : State) (p k : Nat) (x : RxLane) : State := { s with rx := SMap.set RxLane.reset s.rx (laneIx p k) x }

/-- The ring of one direction assigned to a slot. -/
def State.ringOf (s : State) (p k : Nat) (rx : Bool) : Option Nat :=
  (seqFrom (if rx then 18 else 0) 18).find? fun r => decide (s.get F.RINGSTAT_SLOT (ringIx p r) = k)

def State.setLock (s : State) (p k : Nat) (rx : Bool) (lock : Nat) : State :=
  match s.ringOf p k rx with
  | some r => s.put F.RINGSTAT_LOCK (ringIx p r) lock
  | none => s

/-- A cube-plane role. -/
def State.isCube (s : State) (p : Nat) : Bool :=
  match s.role p with
  | some k => decide (k < 6)
  | none => false

/-- LASER_EN of a die: high while a port requests light, or for a probe (R286, R288). -/
def State.laserEn (s : State) (n : Nat) : State :=
  let asks := (List.range 12).any fun k =>
    let p := portOf n k
    (s.role p).isSome && decide (s.pstate p ≤ 4)
  s.put F.LASERSTAT_EN n (b2n (asks || decide (s.get F.LASERSTAT_PROBE n = 1)))

/-! ## Bundles (R273, R291) -/

/-- R294 step 4: every UP lane receives valid frames of a bundle of its own width, and every LIDX arrives. -/
def State.bundleReady (s : State) (p n b : Nat) : Bool :=
  let ups := s.bundleUps p n b
  let w := ups.length
  decide (0 < w) && (ups.all fun l => let r := s.rxLane l.1 l.2; r.planv && decide (r.bundle ≠ 7) && decide (r.width = w))
  && (List.range w).all fun i => ups.any fun l => decide ((s.rxLane l.1 l.2).lidx = i)

/-- A bundle of one plan, or nothing: enable, destination and lanes. -/
def State.bundleIn (s : State) (p n b : Nat) : Option (Nat × List Nat) :=
  if p < 8 ∧ s.get F.PLBUND_EN (24 * p + 6 * n + b) = 1 then some (s.get F.PLBUND_DEST (24 * p + 6 * n + b), s.planLanes p n b)
  else none

/-- A bundle runs on through the switch in progress, if any (R294). -/
def State.unaffected (s : State) (n b : Nat) : Bool :=
  match s.plan with
  | none => true
  | some r => decide (s.bundleIn r.target n b = s.bundleIn (s.get F.CPCUR_CUR 0) n b)

/-- The bundle of the current plan a cube port's lane belongs to; none while a switch changes that bundle. -/
def State.bundleOf (s : State) (p k : Nat) : Option (Nat × Nat) :=
  match s.role p with
  | some r =>
    let n := dieOfPort p
    let cur := s.get F.CPCUR_CUR 0
    let b := s.get F.PLLANE_BUNDLE (384 * cur + 96 * n + 16 * r + k)
    if r < 6 ∧ cur < 8 ∧ b < 6 ∧ s.unaffected n b then some (n, b) else none
  | none => none

/-! ## Retrains and resets (R283, R284) -/

/-- The ports whose lanes make up a local port of an edge switch. -/
def State.localPorts (s : State) (n k : Nat) : List Nat :=
  if k < 6 then ((s.planLanes (s.get F.CPCUR_CUR 0) n k).map fun x => s.cubePort n x).eraseDups else [s.rolePort n k]

/-- PORTSTAT.LANEUP of a port follows its lanes. -/
def State.showLanes (s : State) (p : Nat) : State :=
  s.put F.PORTSTAT_LANEUP p ((List.range 16).foldl (fun a i => a + b2n (decide (s.lstate p i = 2)) * 2 ^ i) 0)

/-- A retrain of the lanes of a bundle that is up begins, on their locked rings (R284). Cube ports with lanes in it read
RETRAIN meanwhile. -/
def State.beginRetrain (s : State) (n k : Nat) : State :=
  if k < 6 then
    if s.localUp n k then
      (s.localPorts n k).foldl (fun (u : State) p => if u.pstate p = 3 then u.put F.PORTSTAT_STATE p 4 else u)
        { s with training := insertRising (6 * n + k) s.training }
    else s
  else if s.pstate (s.rolePort n k) = 3 then s.put F.PORTSTAT_STATE (s.rolePort n k) 4 else s

/-- A cube bundle is no longer in a retrain; its ports read UP again once none of their bundles is. -/
def State.endTraining (s : State) (n b : Nat) : State :=
  let ports := s.localPorts n b
  let s := { s with training := s.training.filter fun e => decide (e ≠ 6 * n + b) }
  let busy := fun (p : Nat) => (List.range 6).any fun c => s.training.contains (6 * n + c) && (s.localPorts n c).contains p
  ports.foldl (fun (u : State) p => if u.pstate p = 4 ∧ ¬ busy p then u.put F.PORTSTAT_STATE p 3 else u) s

/-- A PORTCTL retrain: of a fixed bundle, or of every cube bundle with an UP lane at the port. -/
def State.retrainPort (s : State) (p : Nat) : State :=
  let n := dieOfPort p
  match s.role p with
  | none => s
  | some k =>
    if 6 ≤ k then s.beginRetrain n k
    else (List.range 6).foldl (fun (u : State) b =>
      if (u.bundleUps (u.get F.CPCUR_CUR 0) n b).any fun l => decide (l.1 = p) then u.beginRetrain n b else u) s

/-- The set of UP lanes of a cube bundle has changed: it retrains, or it is down (R284, R295). -/
def State.bundleChanged (s : State) (n b : Nat) : State :=
  if (s.bundleUps (s.get F.CPCUR_CUR 0) n b).isEmpty then
    let was := bit (s.get F.CPSTAT_NOTUP 0) (6 * n + b)
    let s := (s.endTraining n b).put F.CPSTAT_NOTUP 0 (setBits (s.get F.CPSTAT_NOTUP 0) (6 * n + b) (6 * n + b) 1)
    if was then s else s.log .bundleDown (6 * n + b) []
  else s.beginRetrain n b

/-- The set of UP lanes of a port's bundle has changed (R273, R284, R295). -/
def State.lanesChanged (s : State) (p k : Nat) : State :=
  let s := s.showLanes p
  if s.isCube p then
    match s.bundleOf p k with
    | none => s
    | some (n, b) => s.bundleChanged n b
  else if s.pstate p = 1 ∨ s.pstate p = 2 ∨ 5 ≤ s.pstate p then s
  else s.put F.PORTSTAT_STATE p (if s.get F.PORTSTAT_LANEUP p = 0 then 0 else 4)

/-- Put a lane in a state; its port and bundle follow when it was or becomes UP. -/
def State.setLane (s : State) (p k st : Nat) : State :=
  let was := s.lstate p k
  let s := s.put F.LANESTAT_LSTATE (laneIx p k) st
  if (was = 2) = (st = 2) then s else s.lanesChanged p k

/-- A slot is retired until the next port reset (R282). -/
def State.retireLane (s : State) (p k : Nat) : State :=
  let s := s.setRx p k { s.rxLane p k with attempt := false }
  ((s.setLane p k 3).bump F.PCOUNT_COUNT (6 * p + 3) 1).log .laneRetired p (leBytes 14 k)

/-- Retire a slot in service, which costs its port a penalty (R282, Table 15-6). -/
def State.retireSlot (s : State) (p k : Nat) : State := (s.retireLane p k).penalise 2 p 100

/-- Begin a lock attempt: the receive ring is swept again and WRONG is set in the reverse frames (R282). -/
def State.startAttempt (s : State) (p k : Nat) : State :=
  let x := s.rxLane p k
  if s.lstate p k = 3 ∨ x.attempt then s
  else ((s.setRx p k { x with attempt := true }).setLock p k true 1).setLane p k 1

/-- A port reset: ring assignments, spares and lanes start over and all 36 rings sweep; the replay buffers and sequences of a
fixed-bundle port are discarded (R279, R283). -/
def State.resetPort (s : State) (p : Nat) : State :=
  let n := dieOfPort p
  let s := match s.role p with
    | some k => if 6 ≤ k then s.setLink n k Link.reset else s
    | none => s
  let s := (List.range 36).foldl (fun u r =>
    (u.put F.RINGSTAT_SLOT (ringIx p r) (if r % 18 < 16 then r % 18 else 0x1F)).put F.RINGSTAT_LOCK (ringIx p r)
      1) s
  let s := (List.range 16).foldl (fun u k =>
    ((u.setRx p k RxLane.reset).setLane p k 1).put F.LANESTAT_ATTEMPTS (laneIx p k) 0) s
  let s := ((s.put F.PORTSTAT_TXSPARE p 0).put F.PORTSTAT_RXSPARE p 0).put F.PORTSTAT_STATE p 1
  State.laserEn { s with retrains := SMap.set 0 s.retrains (12 * n + (s.role p).getD 11) 0 } n

/-- PORTCTL's actions do nothing on a port that is blanked, probing or fenced, or without power. -/
def State.portActs (s : State) (p : Nat) : Bool := decide (s.pstate p ≤ 4) && (s.role p).isSome && s.fabricOn

/-- PORT_RESET: the reset of a port begins (R283). -/
def State.portReset (s : State) (p : Nat) : State :=
    let s := s.askDone .PORTCTL p
    if s.portActs p then s.resetPort p else s

def execPortReset (p : Nat) (s : State) : Out :=
  within p Config.ports <| .next <| s.portReset p

/-- The lanes of a local port as port and slot, each with its place: the slot, or the cube lane. -/
def State.places (s : State) (n k : Nat) : List (Nat × Nat × Nat) :=
  if k < 6 then (s.planLanes (s.get F.CPCUR_CUR 0) n k).map fun x => (x, s.cubePort n x, x % 16)
  else (List.range 16).map fun i => (i, s.rolePort n k, i)

/-- The training on ALIGN sets the DAC codes and thresholds of a lane (R279). -/
def State.equalise (s : State) (p k : Nat) : State := s.draw.2.setReg .LANEEQ (laneIx p k) s.draw.1

/-- The lanes of a bundle have trained again and are deskewed: those of places in `skew` lie outside the window (R277). -/
def State.retrained (s : State) (n k skew : Nat) : State :=
  let s := ((s.places n k).filter fun e => decide (s.lstate e.2.1 e.2.2 = 2) || decide (s.lstate e.2.1 e.2.2 = 5)).foldl
    (fun (u : State) e => (u.equalise e.2.1 e.2.2).put F.LANESTAT_LSTATE (laneIx e.2.1 e.2.2) (if bit skew e.1 then 5 else 2)) s
  let s := (s.localPorts n k).foldl (fun (u : State) p => u.showLanes p) s
  if k < 6 then
    let s := s.endTraining n k
    if (s.bundleUps (s.get F.CPCUR_CUR 0) n k).isEmpty then s.bundleChanged n k else s
  else
    let p := s.rolePort n k
    s.put F.PORTSTAT_STATE p (if s.get F.PORTSTAT_LANEUP p = 0 then 0 else 3)

/-- PORT_RETRAIN: a retrain of the lanes of one bundle ends, trained or failed; the sender then replays, and two
failures in a row reset the port (R284). Which lanes lie outside the deskew window (R277) is physical, and free (log 58). -/
def execPortRetrain (n k : Nat) (ok : Bool) (s : State) : Out :=
  within n 4 <| within k 12 <| .next <|
    let key := 12 * n + k
    let can := if k < 6 then s.localUp n k || s.training.contains (6 * n + k)
      else decide (s.pstate (s.rolePort n k) = 3) || decide (s.pstate (s.rolePort n k) = 4)
    if !can then s
    else
      let s := (s.localPorts n k).foldl (fun (u : State) p =>
        ((u.askDone .PORTCTL p).bump F.PCOUNT_COUNT (6 * p + 4) 1).penalise 2 p 20) s
      if ok then
        let d := s.draw
        let s := State.retrained { d.2 with retrains := SMap.set 0 s.retrains key 0 } n k d.1
        let s := s.setLink n k { s.link n k with replays := 0, pos := 0 }
        if (s.link n k).kept.isEmpty then s else s.replay n k
      else if 1 ≤ SMap.get 0 s.retrains key then
        (s.localPorts n k).foldl (fun u q => u.resetPort q) { s with retrains := SMap.set 0 s.retrains key 0 }
      else { s with retrains := SMap.set 0 s.retrains key 1 }

/-- A replay, and the retrain that 16 replays without an advance of BACK start (R248). -/
def State.replayOn (s : State) (n k : Nat) : State :=
  let s := s.replay n k
  if 16 ≤ (s.link n k).replays then s.beginRetrain n k else s

/-- NAK_REPLAY: the sender has seen NAK (R247). -/
def execNakReplay (n k : Nat) (s : State) : Out :=
  within n 4 <| within k 12 <| .next <|
    if s.localUp n k && (s.link n k).asked then s.replayOn n k else s

/-- REPLAY_TIMEOUT: BACK has not advanced for 1 µs (R247). -/
def execReplayTimeout (n k : Nat) (s : State) : Out :=
  within n 4 <| within k 12 <| .next <|
    if s.localUp n k && !(s.link n k).kept.isEmpty then s.replayOn n k else s

/-- Rings that have found their line and await the far end (Table 10-3). -/
def State.awaitPeer (s : State) (p k : Nat) (rx : Bool) : State :=
  match s.ringOf p k rx with
  | some r =>
    if s.get F.RINGSTAT_LOCK (ringIx p r) = 1 ∨ s.get F.RINGSTAT_LOCK (ringIx p r) = 2 then s.put F.RINGSTAT_LOCK (ringIx p r) 3
    else s
  | none => s

/-- PORT_BRINGUP: a port that is DOWN, locking or training finishes its bring-up; a DOWN port first sweeps its rings as
after a port reset. `up` and `skew` are the slots that verified and those outside the deskew window (R277, R283). Rings of
other slots await the far end; the idle spares are off again (DESIGN CHOICE, log 58). -/
def execPortBringup (p up skew : Nat) (s : State) : Out :=
  within p Config.ports <| .next <|
    if s.pstate p ≤ 2 ∧ (s.role p).isSome ∧ s.fabricOn then
      let s := if s.pstate p = 0 then s.resetPort p else s
      let s := { s with sfcnt := SMap.set 0 s.sfcnt p 0 }
      let s := (List.range 16).foldl (fun (u : State) k =>
        if u.lstate p k = 3 ∨ u.lstate p k = 4 then u
        else
          let u := u.equalise p k
          let e := u.draw
          let u := e.2.put F.LANESTAT_RXPWR (laneIx p k) e.1
          if bit up k then
            let dark := u.isCube p && (u.bundleOf p k).isNone
            (((u.setLock p k true 4).setLock p k false 4).put F.LANESTAT_ATTEMPTS (laneIx p k) 0).setLane p k
              (if dark then 6 else 2)
          else if bit skew k then ((u.setLock p k true 4).setLock p k false 4).setLane p k 5
          else (u.awaitPeer p k true).awaitPeer p k false) s
      let s := (List.range 36).foldl (fun (u : State) r =>
        let d := u.draw
        if u.get F.RINGSTAT_LOCK (ringIx p r) = 4 then d.2.put F.RINGSTAT_HEATER (ringIx p r) d.1
        else if 16 ≤ u.get F.RINGSTAT_SLOT (ringIx p r) ∧ u.get F.RINGSTAT_LOCK (ringIx p r) = 1 then
          u.put F.RINGSTAT_LOCK (ringIx p r) 0
        else u) s
      let s := s.showLanes p
      let any := decide (s.get F.PORTSTAT_LANEUP p ≠ 0) || s.isCube p
      s.put F.PORTSTAT_STATE p (if any then 3 else 0)
    else s

/-! ## Training frames and locks (R278 to R282) -/

/-- One bit of the frame's CRC-16 and its register over bytes (R227). -/
def frameCrc (bs : List Byte) : Nat :=
  bs.foldl (fun c b => (List.range 8).foldl (fun c _ => if c < 2 ^ 15 then 2 * c else (2 * c % 2 ^ 16) ^^^ 0x8BB7)
    (c ^^^ b.toNat * 256)) 0

/-- The lane-destination map entry of a cube port's slot is contradicted by the frame's sender (R278). -/
def State.miswired (s : State) (p k sdev sport : Nat) : Bool :=
  match s.role p with
  | some r =>
    let x := 96 * dieOfPort p + 16 * r + k
    decide (r < 6) && decide (s.get F.LDMAP_VALID x = 1)
      && (decide (s.get F.LDMAP_FARDEV x ≠ sdev) || decide (s.get F.LDMAP_FARPORT x ≠ sport))
  | none => false

/-- The sender's side of a frame: RXUP verifies the transmit ring, WRONG sweeps it again and its lane is down meanwhile,
RETIRED retires the slot (Table 10-3, R280, R282). -/
def State.takeRstat (s : State) (p k rstat : Nat) : State :=
  let lock := fun (u : State) => ((u.ringOf p k false).map fun r => u.get F.RINGSTAT_LOCK (ringIx p r)).getD 0
  let s := if bit rstat 0 ∧ 1 ≤ lock s ∧ lock s ≤ 3 then s.setLock p k false 4 else s
  let s := if bit rstat 1 ∧ s.lstate p k ≠ 3 ∧ s.lstate p k ≠ 4 then (s.setLock p k false 1).setLane p k 1 else s
  if bit rstat 2 ∧ s.lstate p k ≠ 3 then (s.setRx p k { s.rxLane p k with txRetired := true }).retireSlot p k else s

/-- A ring of a slot is LOCKED. -/
def State.locked (s : State) (p k : Nat) (rx : Bool) : Bool :=
  match s.ringOf p k rx with
  | some r => decide (s.get F.RINGSTAT_LOCK (ringIx p r) = 4)
  | none => false

/-- ALIGN: the levels 0, 1, 2, 3, 3, 2, 1, 0 thirty-two times, four symbols a byte (Table 10-2). -/
def alignBytes : List Byte := (List.replicate 32 [BitVec.ofNat 8 0x1B, BitVec.ofNat 8 0xE4]).flatten

/-- The lanes of the bundle that a lane carries for. -/
def State.lanesWith (s : State) (p k : Nat) : List (Nat × Nat) :=
  if s.isCube p then match s.bundleOf p k with
    | some (n, b) => s.laneList n b
    | none => []
  else match s.role p with
    | some r => s.laneList (dieOfPort p) r
    | none => []

/-- Bytes 64 to 141 of the frame that the module sends on a slot (Table 10-2). A lane that carries for no bundle sends LIDX 0
and width 1 (DESIGN CHOICE, log 58). -/
def State.frameBody (s : State) (p k : Nat) : List Byte :=
  let cur := s.get F.CPCUR_CUR 0
  let plan := if cur < 8 then cur + (if s.isCube p then 8 else 0) else 0
  let bundle := ((s.bundleOf p k).map Prod.snd).getD 7
  let lanes := s.lanesWith p k
  let lidx := (lanes.findIdx? fun l => decide (l = (p, k))).getD 0
  let rx := s.rxLane p k
  let rstat := b2n (s.locked p k true) + 2 * b2n rx.attempt + 4 * b2n (decide (s.lstate p k = 3) && !rx.txRetired)
  leBytes 1 s.dev ++ leBytes 1 p ++ leBytes 1 k ++ leBytes 1 (plan + 16 * bundle)
    ++ leBytes 2 (lidx + 64 * (lanes.length - 1)) ++ leBytes 1 rstat ++ leBytes 1 0 ++ leBytes 8 (SMap.get 0 s.sfcnt p)
    ++ List.replicate 62 0

/-- The training frame of a slot: ALIGN, the fields and their CRC (Table 10-2). -/
def State.frameOut (s : State) (p k : Nat) : List Byte :=
  alignBytes ++ s.frameBody p k ++ leBytes 2 (frameCrc (s.frameBody p k))

/-- A superframe passes on a lane while its transmitter has light: the module sends its own frame there (R275). How many
superframes have passed since the last one seen is time, a free value. -/
def State.sendFrame (s : State) (p k : Nat) : State :=
  if s.shut.contains p then s
  else
    let d := s.drawTime
    let s := { d.2 with sfcnt := SMap.set 0 d.2.sfcnt p ((SMap.get 0 d.2.sfcnt p + d.1) % 2 ^ 64) }
    { s with frames := SMap.set [] s.frames (laneIx p k) (s.frameOut p k) }

/-- A port receives on a slot: it is not blanked, probing or fenced, and the slot's ring is on. -/
def State.lit (s : State) (p k : Nat) : Bool :=
  decide (s.pstate p ≤ 4) && match s.ringOf p k true with
    | some r => decide (1 ≤ s.get F.RINGSTAT_LOCK (ringIx p r)) && decide (s.get F.RINGSTAT_LOCK (ringIx p r) ≤ 4)
    | none => false

/-- A valid frame of the slot's own sender verifies the receive ring; the lane comes up once its transmit ring is LOCKED
too (R278, R280). -/
def State.laneVerified (s : State) (p k : Nat) : State :=
  let s := (s.setLock p k true 4).put F.LANESTAT_ATTEMPTS (laneIx p k) 0
  if s.lstate p k ≤ 1 ∧ s.locked p k false then s.setLane p k (if s.isCube p && (s.bundleOf p k).isNone then 6 else 2) else s

/-- TRAINING_FRAME: the receiver of a slot judges a received frame of 144 bytes (R278); the module's own frame goes out on
that slot (R275). -/
def execTrainingFrame (p k : Nat) (frame : List Byte) (s : State) : Out :=
  within p Config.ports <| within k 16 <| .next <|
    let at' := fun i => (frame.getD i 0).toNat
    if !s.lit p k then s
    else
      let s := s.sendFrame p k
      if frameCrc ((frame.drop 64).take 78) ≠ at' 142 + 256 * at' 143 then s
      else
        let sport := at' 65 % 64
        let info := at' 68 + 256 * at' 69
        let s := (s.put F.LANESTAT_PEERDEV (laneIx p k) (at' 64)).put F.LANESTAT_PEERPORT (laneIx p k) sport
        let s := s.takeRstat p k (at' 70)
        let done := fun (u : State) => u.setRx p k { u.rxLane p k with attempt := false }
        if s.lstate p k = 3 ∨ s.lstate p k = 4 then s
        else if at' 66 % 16 ≠ k then s.startAttempt p k
        else if s.miswired p k (at' 64) sport then
          (((done s).setLock p k true 4).setLane p k 4).log .laneMiswired p (leBytes 14 k)
        else
          let x := (done s).rxLane p k
          State.laneVerified (s.setRx p k { x with planv := bit (at' 67) 3, bundle := bits (at' 67) 6 4, lidx := bits info 5 0,
                                                   width := bits info 11 6 + 1 }) p k

/-- VERIFY_TIMEOUT: a locked receive ring without a valid frame for 8 superframes: one end has a wrong-order lock
(R278). -/
def execVerifyTimeout (p k : Nat) (s : State) : Out :=
  within p Config.ports <| within k 16 <| .next <|
    if s.lit p k ∧ s.lstate p k ≠ 4 then s.startAttempt p k else s

/-- LOCK_ATTEMPT_TIMEOUT: an attempt has not verified within 45 µs; after three the slot is retired (R282). -/
def execLockAttemptTimeout (p k : Nat) (s : State) : Out :=
  within p Config.ports <| within k 16 <| .next <|
    if !(s.rxLane p k).attempt then s
    else
      let s := s.bump F.PCOUNT_COUNT (6 * p + 2) 1
      let n := s.get F.LANESTAT_ATTEMPTS (laneIx p k) + 1
      let s := s.put F.LANESTAT_ATTEMPTS (laneIx p k) (min n 3)
      if 3 ≤ n then s.retireSlot p k else s.setLock p k true 1

/-- A lane one of whose rings is not LOCKED is down, if it was UP, dark or in SKEW (R280). -/
def State.laneDown (s : State) (p k : Nat) : State :=
  if s.lstate p k = 2 ∨ 5 ≤ s.lstate p k then s.setLane p k 0 else s

/-- LOCK_LOSS: a locked ring loses its line; its lane goes down while the loop tries to regain it (R280). -/
def execLockLoss (p r : Nat) (s : State) : Out :=
  within p Config.ports <| within r 36 <| .next <|
    if s.get F.RINGSTAT_LOCK (ringIx p r) ≠ 4 then s
    else
      let k := s.get F.RINGSTAT_SLOT (ringIx p r)
      let s := ((s.put F.RINGSTAT_LOCK (ringIx p r) 2).bump F.PCOUNT_COUNT (6 * p) 1).penalise 2 p 10
      if k < 16 then s.laneDown p k else s

/-- RING_FAILED: a ring fails; a spare ring of its direction takes the slot, or the slot is retired (R280). -/
def execRingFailed (p r : Nat) (s : State) : Out :=
  within p Config.ports <| within r 36 <| .next <|
    let ix := ringIx p r
    if s.get F.RINGSTAT_LOCK ix = 6 ∨ s.get F.RINGSTAT_LOCK ix = 0 then s
    else
      let k := s.get F.RINGSTAT_SLOT ix
      let s := (s.put F.RINGSTAT_LOCK ix 6).put F.RINGSTAT_SLOT ix 0x1F
      let base := if rxRing r then 18 else 0
      let spare := [base + 16, base + 17].find? fun q =>
        decide (s.get F.RINGSTAT_SLOT (ringIx p q) = 0x1F) && decide (s.get F.RINGSTAT_LOCK (ringIx p q) ≠ 6)
      if 16 ≤ k then s
      else match spare with
        | some q =>
          let f := if rxRing r then F.PORTSTAT_RXSPARE else F.PORTSTAT_TXSPARE
          let s := (s.put F.RINGSTAT_SLOT (ringIx p q) k).put F.RINGSTAT_LOCK (ringIx p q) 1
          let s := ((s.put f p (s.get f p + 1)).bump F.PCOUNT_COUNT (6 * p + 1) 1).penalise 2 p 100
          s.laneDown p k
        | none => s.retireSlot p k

/-! ## Light (R285 to R288) -/

/-- Blank a port: gate closed, light request dropped, a probe over, rings held, lanes down (R287, R288). -/
def State.blank (s : State) (p : Nat) : State :=
  let s := if s.pstate p = 6 then s.put F.LASERSTAT_PROBE (dieOfPort p) 0 else s
  let s := (s.put F.PORTSTAT_STATE p 5).bump F.PCOUNT_COUNT (6 * p + 5) 1
  let s := (List.range 36).foldl (fun u r =>
    let l := u.get F.RINGSTAT_LOCK (ringIx p r)
    if l = 0 ∨ l = 6 then u else u.put F.RINGSTAT_LOCK (ringIx p r) 5) s
  let s := (List.range 16).foldl (fun u k =>
    let u := u.put F.LANESTAT_RXPWR (laneIx p k) 0x80
    if u.lstate p k = 3 ∨ u.lstate p k = 4 then u else u.setLane p k 0) s
  s.laserEn (dieOfPort p)

/-- LOSS_OF_LIGHT: receive power below −20 dBm for 50 µs (R287). -/
def execLossOfLight (p : Nat) (s : State) : Out :=
  within p Config.ports <| .next <|
    if s.pstate p ≤ 4 ∧ (s.role p).isSome then (s.put F.PORTSTAT_LOS p 1).blank p else s

/-- PROBE: a blanked port's probe begins or ends (R288). -/
def execProbe (p : Nat) (on : Bool) (s : State) : Out :=
  within p Config.ports <| .next <|
    let n := dieOfPort p
    if on then
      if s.pstate p = 5 ∧ (s.role p).isSome then
        let s := s.put F.PORTSTAT_STATE p 6
        if s.get F.LASERSTAT_EN n = 0 then (s.put F.LASERSTAT_PROBE n 1).put F.LASERSTAT_EN n 1 else s
      else s
    else if s.pstate p = 6 then ((s.put F.PORTSTAT_STATE p 5).put F.LASERSTAT_PROBE n 0).laserEn n
    else s

/-- All 36 rings of a port are off: it has had no port reset since power-up. -/
def State.ringsOff (s : State) (p : Nat) : Bool :=
  (List.range 36).all fun r => decide (s.get F.RINGSTAT_LOCK (ringIx p r) = 0)

/-- LIGHT_RETURNED: receive power back for 10 µs; the port brings itself up: all rings sweep, and the block streams begin at
BSEQ 0 (R283, R288). -/
def execLightReturned (p : Nat) (s : State) : Out :=
  within p Config.ports <| .next <|
    if (s.pstate p = 5 ∨ s.pstate p = 6) ∧ (s.role p).isSome then
      let n := dieOfPort p
      let s := ((s.put F.PORTSTAT_LOS p 0).put F.PORTSTAT_STATE p 1).put F.LASERSTAT_PROBE n 0
      if s.ringsOff p then s.resetPort p
      else
        let s := (List.range 36).foldl (fun u r =>
          if u.get F.RINGSTAT_LOCK (ringIx p r) = 6 then u else u.put F.RINGSTAT_LOCK (ringIx p r) 1) s
        let s := (List.range 16).foldl (fun u k => if u.lstate p k = 0 then u.setLane p k 1 else u) s
        let s := match s.role p with
          | some k => if 6 ≤ k then s.setLink n k Link.reset else s
          | none => s
        s.laserEn n
    else s

/-- The three ports a laser fibre feeds (R285). -/
def fibrePorts (n f : Nat) : List Nat := (List.range 3).map fun i => portOf n (3 * f + i)

def setFlag (v i : Nat) (b : Bool) : Nat := setBits v i i (b2n b)

/-- The output gates of some ports close or open: the cube bundles with lanes there are narrower or wider (R285). -/
def State.gatesMoved (s : State) (n : Nat) (ps : List Nat) : State :=
  (List.range 6).foldl (fun (u : State) b =>
    if u.unaffected n b && (u.bundleIn (u.get F.CPCUR_CUR 0) n b).isSome
       && (u.places n b).any fun e => ps.contains e.2.1 && decide (u.lstate e.2.1 e.2.2 = 2) then u.bundleChanged n b else u) s

/-- LASER_HIGH: a fibre above +27 dBm for 1 ms closes the gates of its three ports (R285). -/
def execLaserHigh (n f : Nat) (s : State) : Out :=
  within n 4 <| within f 4 <| .next <|
    let s := s.put F.LASERSTAT_HIGH n (setFlag (s.get F.LASERSTAT_HIGH n) f true)
    let s := { s with shut := (fibrePorts n f).foldl (fun l p => insertRising p l) s.shut }
    (s.gatesMoved n (fibrePorts n f)).log .laserHigh (portOf n (3 * f)) []

/-- LASER_HIGH_CLEAR: the power has stayed in range for 1 s (R285). -/
def execLaserHighClear (n f : Nat) (s : State) : Out :=
  within n 4 <| within f 4 <| .next <|
    State.gatesMoved { s.put F.LASERSTAT_HIGH n (setFlag (s.get F.LASERSTAT_HIGH n) f false) with
      shut := s.shut.filter fun p => !(fibrePorts n f).contains p } n (fibrePorts n f)

/-- LASER_LOW: a fibre falls below +21 dBm, or is back above it (R285). -/
def execLaserLow (n f : Nat) (low : Bool) (s : State) : Out :=
  within n 4 <| within f 4 <| .next <|
    let s := s.put F.LASERSTAT_LOW n (setFlag (s.get F.LASERSTAT_LOW n) f low)
    if low then s.log .laserLow (portOf n (3 * f)) [] else s

/-! ## Spares (R274) -/

/-- SPARE_TAKEOVER: SPARE[n] is written with TAKEN = 1; the replaced port is fenced (R274, R397, Table 15-2). -/
def State.takeSpare (s : State) (n target : Nat) : State :=
    if s.get F.SPARE_TAKEN n = 1 ∨ 11 ≤ target then s
    else
      let old := portOf n target
      let s := ((s.blank old).put F.PORTSTAT_STATE old 7).noteFence old
      let s := (s.put F.SPARE_TARGET n target).put F.SPARE_TAKEN n 1
      s.resetPort (portOf n 11)

def execSpareTakeover (n target : Nat) (s : State) : Out :=
  within n 4 <| .next <| s.takeSpare n target

/-- SPARE_RELEASE: Hearth writes RELEASE; it takes effect at the next warm or cold reset. -/
def execSpareRelease (n : Nat) (s : State) : Out :=
  within n 4 <| .next (if s.get F.SPARE_TAKEN n = 1 then s.put F.SPARE_RELEASE n 1 else s)

/-- A warm or cold reset completes a requested release. -/
def State.releaseSpares (s : State) : State :=
  (List.range 4).foldl (fun u n =>
    if u.get F.SPARE_RELEASE n = 1 then
      let old := portOf n (u.get F.SPARE_TARGET n)
      (u.setReg .SPARE n 0).put F.PORTSTAT_STATE old 0
    else u) s

/-! ## Wiring plans (R290 to R297) -/

/-- A MISWIRED lane tries again once its map entry has changed (R278). -/
def State.mapChanged (s : State) (e : Nat) : State :=
  let p := s.cubePort (e / 96) (e % 96)
  if s.lstate p (e % 16) = 4 then s.put F.LANESTAT_LSTATE (laneIx p (e % 16)) 1 else s

/-- R292: a plan may not be switched to. -/
def State.planInvalid (s : State) (p : Nat) : Bool :=
  (List.range 4).any fun n =>
    let lanes := fun b => s.planLanes p n b
    let en := fun b => decide (s.get F.PLBUND_EN (24 * p + 6 * n + b) = 1)
    let dest := fun b => s.get F.PLBUND_DEST (24 * p + 6 * n + b)
    (List.range 6).any fun b =>
      (!en b && !(lanes b).isEmpty)
      || (en b && ((lanes b).isEmpty || decide (64 < (lanes b).length) || decide (dest b = s.dev)))
      || (lanes b).any fun x => decide (s.get F.LDMAP_VALID (96 * n + x) = 0) || decide (s.get F.LDMAP_FARDEV (96 * n + x) ≠ dest b)

/-- R294 steps 1 and 2, R295: an affected bundle stops; its queued flits are placed again; its replay buffer goes unless
number and destination stay; its lanes go dark. -/
def State.stopBundle (s : State) (cur p n b : Nat) : State :=
  let old := s.bundleIn cur n b
  let new := s.bundleIn p n b
  if old = new then s
  else
    let x := s.edge n
    let back := x.queues.filter fun q => decide (q.1 = b)
    let s := s.setEdge n { arrived := x.arrived ++ back, queues := x.queues.filter fun q => decide (q.1 ≠ b) }
    let s := if old.map Prod.fst = new.map Prod.fst then s else s.setLink n b Link.reset
    let s := ((old.map Prod.snd).getD []).foldl (fun u l =>
      let q := u.cubePort n l
      if u.lstate q (l % 16) = 2 then u.put F.LANESTAT_LSTATE (laneIx q (l % 16)) 6 else u) s
    (s.endTraining n b).put F.CPSTAT_NOTUP 0 (setFlag (s.get F.CPSTAT_NOTUP 0) (6 * n + b) true)

/-- LANEUP of every cube port follows its lanes. -/
def State.showCube (s : State) : State := (List.range Config.ports).foldl (fun (u : State) p => if u.isCube p then u.showLanes p else u) s

/-- R293: a request for plan `p`: its status (Table 10-6) and the state after it. Its arrival names UNIT 0x07FF, of which R46 says
nothing for a plan switch (DESIGN CHOICE, log 57). -/
def State.requestPlan (s : State) (p : Nat) (rt : Bool) (arr : Option (Nat × Nat)) : Nat × State :=
  let cur := s.get F.CPCUR_CUR 0
  let note := fun (st : Nat) (u : State) => (st, u.put F.CPSTAT_LAST 0 st)
  if s.get F.CPSTAT_SWITCHING 0 = 1 then note 1 s
  else if p < 8 ∧ s.planInvalid p then note 2 s
  else if p = cur then
    note 3 (match arr with
      | some (c, e) => s.arriveAt 0x7FF c 1 e
      | none => s)
  else if rt ∧ s.get F.RTEPOCH_HOLD 0 = 1 then note 4 (s.log .epochBusy 0 [])
  else
    let s := (List.range 24).foldl (fun u i => u.stopBundle cur p (i / 6) (i % 6)) s
    note 0 (State.put { s.showCube with plan := some { target := p, rt := rt, arr := arr } } F.CPSTAT_SWITCHING 0 1)

/-- CPCTL_GO: the request of a CPCTL write with GO = 1 is judged (R293). -/
def State.cpctlGo (s : State) : State :=
    if s.get F.CPCTL_PENDING 0 = 1 then
      (s.requestPlan (s.get F.CPCTL_PLAN 0) (decide (s.get F.CPCTL_RT 0 = 1)) none).2.askDone .CPCTL 0
    else s

def execCpctlGo (s : State) : Out :=
  .next (s.cpctlGo)

/-- Light the dark lanes of a plan's bundles: locked lanes of a bundle are UP. -/
def State.lightLanes (s : State) (p : Nat) : State :=
  (List.range 384).foldl (fun u i =>
    let n := i / 96
    let x := i % 96
    let q := u.cubePort n x
    let b := u.get F.PLLANE_BUNDLE (384 * p + 96 * n + x)
    if u.lstate q (x % 16) = 6 ∧ b < 6 then u.put F.LANESTAT_LSTATE (laneIx q (x % 16)) 2 else u) s

/-- R295: a bundle that is up after the switch with other lanes but its number and DEST kept replays. -/
def State.replayMoved (s : State) (cur p : Nat) : State :=
  (List.range 24).foldl (fun (u : State) i =>
    let old := u.bundleIn cur (i / 6) (i % 6)
    let new := u.bundleIn p (i / 6) (i % 6)
    if old ≠ new ∧ old.map Prod.fst = new.map Prod.fst ∧ u.localUp (i / 6) (i % 6) ∧ (u.link (i / 6) (i % 6)).kept ≠ [] then
      u.replay (i / 6) (i % 6)
    else u) s

/-- PLAN_SWITCH_COMPLETE: step 4 is reached, or 3.0 µs have passed (R294). -/
def execPlanSwitchComplete (s : State) : Out :=
  .next <| match s.plan with
    | none => s
    | some r =>
      let cur := s.get F.CPCUR_CUR 0
      let s := s.put F.CPCUR_CUR 0 r.target
      let s := (if r.target < 8 then s.lightLanes r.target else s).showCube
      let pend := s.get F.CPSTAT_NOTUP 0
      let notup := if r.target < 8 then
          (List.range 24).foldl (fun a i =>
            let en := (s.bundleIn r.target (i / 6) (i % 6)).isSome
            a + b2n (en && bit pend i && !s.bundleReady r.target (i / 6) (i % 6)) * 2 ^ i) 0
        else 0
      let s := ((s.put F.CPSTAT_NOTUP 0 notup).put F.CPSTAT_SWITCHING 0 0).put F.CPSTAT_LAST 0 5
      let s := if r.rt then s.requestFlip else s
      let s := State.replayMoved { s with plan := none } cur r.target
      match r.arr with
      | some (c, e) => s.arriveAt 0x7FF c 1 e
      | none => s

/-- BUNDLE_UP: the far end's frames satisfy step 4 for a bundle left in NOTUP (R294). -/
def execBundleUp (n b : Nat) (s : State) : Out :=
  within n 4 <| within b 6 <| .next <|
    let cur := s.get F.CPCUR_CUR 0
    if cur < 8 ∧ (s.bundleIn cur n b).isSome ∧ s.unaffected n b ∧ s.bundleReady cur n b then
      let was := bit (s.get F.CPSTAT_NOTUP 0) (6 * n + b)
      let s := s.put F.CPSTAT_NOTUP 0 (setFlag (s.get F.CPSTAT_NOTUP 0) (6 * n + b) false)
      if was && !(s.link n b).kept.isEmpty then s.replay n b else s
    else s

/-- plansw (R297): OPERAND unless s(SA) names a plan 0 to 8; SD receives the status. -/
def execPlansw (h : Head) (f : XF) (s : State) : Out :=
  issue h (encX 4 h f) ⟨[f.sa.toNat], [f.sd.toNat]⟩ false (fun s =>
    let p := ((s.ctx h.tile h.ctx).rdS f.sa.toNat).toNat
    let imm := f.imm.toNat
    if 9 ≤ p then .fault (cOPERAND, unstated)
    else .go 16 fun s =>
      let r := s.requestPlan p (bit imm 21) (if bit imm 16 then some (bits imm 15 0, bits imm 20 17) else none)
      r.2.setCtx h.tile h.ctx ((r.2.ctx h.tile h.ctx).wrS f.sd.toNat (BitVec.ofNat 64 r.1)).advance) s

end Sys2Proof.Machine
end

