-- ==== Sys2Proof/Machine/Health.lean ====
section
/-! DEFINITION. Fences, drain, die-to-die links, margin tests and the health score (chapter 15, R498 to R502). What links,
dies and tests show comes with the commands. -/

namespace Sys2Proof.Machine

/-! ## Fences (Table 15-2) -/

/-- A cluster is fenced: its channels stop as under an abort and its nine tiles are fenced as tiles (R395, R396). -/
def State.fenceCluster (s : State) (q : Nat) : State :=
  if s.clusterFenced q then s
  else
    let s := s.setReg .FENCECL 0 (setBits (s.reg .FENCECL 0) q q 1)
    if s.draining then s.logFence q
    else
      let s := (List.range 16).foldl (fun (u : State) c =>
        u.setChan (16 * q + c) { (u.chan (16 * q + c)).dropCopies fun _ => true with held := false }) s
      let s := ((List.range s.tileCount).filter fun t => decide (s.clusterOf t = q)).foldl (fun (u : State) t =>
        let u := u.setReg .FENCETILE (t / 64) (setBits (u.reg .FENCETILE (t / 64)) (t % 64) (t % 64) 1)
        let u := { u with puts := u.puts.filter fun p => decide (p.tile ≠ t) }
        let u := u.setTile t { u.tile t with ops := [], credit := 0, want := 0 }
        (u.endFenced t .F).endFenced t .L) s
      s.noteFence q

/-- A port is fenced as R274 fences a replaced port. -/
def State.fencePort (s : State) (p : Nat) : State := ((s.blank p).put F.PORTSTAT_STATE p 7).laserEn (dieOfPort p)

def State.fenceDiePorts (s : State) (n : Nat) : State :=
  (List.range 12).foldl (fun (u : State) k => u.fencePort (portOf n k)) s

/-- The ports of a die that has lost its attachments are fenced, each a fence of its own (R397, Table 15-2). -/
def State.cutPorts (s : State) (n : Nat) : State :=
  (List.range 12).foldl (fun (u : State) k =>
    if u.pstate (portOf n k) = 7 then u else (u.fencePort (portOf n k)).noteFence (portOf n k)) s

/-- The bit of an attachment or stack fence. -/
def State.setOther (s : State) (b : Nat) (on : Bool) : State := s.setReg .FENCEOTH 0 (setFlag (s.reg .FENCEOTH 0) b on)

/-- A fence after a drain has begun is recorded and changes nothing (R399). -/
def State.recordLate (s : State) (u : Nat) : State :=
  State.logFence { s with power := { s.power with late := insertRising u s.power.late } } (u % 2 ^ 16)

/-- Every attachment of an edge die is fenced. -/
def State.dieCut (s : State) (n : Nat) : Bool := (List.range 4).all fun i => s.attFenced (4 * n + i)

/-- An edge attachment is fenced: its edge switch stops using it and places its flits again; the ports of a die without
attachments are fenced (Table 15-3). -/
def State.fenceAttachment (s : State) (u : Nat) : State :=
  if bit (s.get F.FENCEOTH_ATT 0) u then s
  else
    let n := u / 4
    let s := s.setOther (12 + u) true
    if s.draining then s.recordLate (3 * 2 ^ 16 + u)
    else
      let s := s.put F.D2DSTAT_WIDTH u 2
      let x := s.edge n
      let back := x.queues.filter fun q => decide (q.1 = 12 + u % 4)
      let s := s.setEdge n { arrived := x.arrived ++ back, queues := x.queues.filter fun q => decide (q.1 ≠ 12 + u % 4) }
      let s := s.noteFence u
      if s.dieCut n then s.cutPorts n else s

/-- A stack is fenced: its channels are OUT (R402, R404). -/
def State.fenceStack (s : State) (k : Nat) : State :=
  if bit (s.get F.FENCEOTH_STACK 0) k then s
  else
    let s := s.setOther k true
    if s.draining then s.recordLate (4 * 2 ^ 16 + k)
    else State.noteFence { s with power := { s.power with outs := insertRising k s.power.outs } } k

/-! ## Die-to-die links (R402, R403, R498 to R502) -/

/-- The penalty of a link or bond group (Table 15-6). -/
def State.linkPenalty (s : State) (u w : Nat) : State := if u < 32 then s.penalise 3 u w else s.penalise 0 (u - 32) w

/-- A link runs at half width from now on (R403). -/
def State.narrowLink (s : State) (u : Nat) : State := (s.put F.D2DSTAT_WIDTH u 1).log .linkDegraded u (leBytes 1 u)

/-- A link in service goes to half width, which costs its unit a penalty (R403, Table 15-6). -/
def State.halfWidth (s : State) (u : Nat) : State := (s.linkPenalty u 250).narrowLink u

/-- The link fails again: it is fenced with the unit behind it (Table 15-3); after a drain has begun that is only recorded
(R399). -/
def State.linkFence (s : State) (u : Nat) : State :=
  if s.get F.D2DSTAT_WIDTH u = 2 then s
  else
    let s := s.log .linkFenced u (leBytes 1 u)
    if u < 16 then s.fenceAttachment u
    else if u < 32 then (if s.draining then s.recordLate (3 * 2 ^ 16 + u) else (s.put F.D2DSTAT_WIDTH u 2).drainFor 2)
    else (if s.draining then s else s.put F.D2DSTAT_WIDTH u 2).fenceCluster (u - 32)

/-- LINK_LANE_FAIL: a connection of link `u` is judged failing. It is steered onto a spare if one is left; without one a
half-width link is fenced, and a full-width link waits for its quiet point. Numbers 160 to 171 are the lanes of stacks 0
to 11, whose own redundancy is spent when no spare is left (R402, R498, R502). -/
def execLinkLaneFail (u : Nat) (spare : Bool) (s : State) : Out :=
  within u 172 <| .next <|
    if 160 ≤ u then (if spare then s else s.fenceStack (u - 160))
    else if s.get F.D2DSTAT_WIDTH u = 2 then s
    else if spare then
      (s.put F.D2DSTAT_SPARES u (satTo 8 (s.get F.D2DSTAT_SPARES u + 1))).linkPenalty u 100
    else if s.get F.D2DSTAT_WIDTH u = 1 then s.linkFence u
    else { s with power := { s.power with lost := insertRising u s.power.lost } }

/-- LINK_DEGRADED: at its quiet point a waiting link goes to half width; with a failure in both halves it goes directly to
the action of Table 15-3 (R403, R498). -/
def execLinkDegraded (u : Nat) (both : Bool) (s : State) : Out :=
  within u 160 <| .next <|
    if s.power.lost.contains u then
      let s := { s with power := { s.power with lost := s.power.lost.filter fun x => decide (x ≠ u) } }
      if both then s.linkFence u else s.halfWidth u
    else s

/-- An attachment has trained its mainband: full, half, or not at all (R501). -/
def State.bringLink (s : State) (u width : Nat) : State :=
  if bit (s.get F.FENCEOTH_ATT 0) u then s
  else match width with
    | 0 => s.put F.D2DSTAT_WIDTH u 0
    | 1 => s.halfWidth u
    | _ => s.linkFence u

/-- UCIE_BRINGUP of attachment `u`: only an admitted edge die trains its mainband (R501). `width`: 0 full, 1 half, else
not at all. -/
def execUcieBringup (u width : Nat) (s : State) : Out :=
  within u 16 <| .next <|
    if s.get F.EDADMIT_STATE (u / 4) = 1 ∧ (s.active ∨ s.get F.PWRSTAT_STATE 0 < 2) then s.bringLink u width else s

/-! ## Drain (R400, R401) -/

/-- Copies stop and are removed as under an abort; live operations end ABORTED (R400 steps 2 and 3). -/
def State.stopWork (s : State) : State :=
  let s := { s with chans := SMap.mapv Chan.reset s.chans fun _ c => c.act 2 }
  s.tags.foldl (fun (u : State) e => if e.2.busy then u.endTag e.1 7 0 0 0 else u) s

/-- Requests that a home agent's queue holds, its first 512, have been accepted: they are applied and answered though a drain
begins (R360, R400 step 4). -/
def State.acceptQueued (s : State) : State :=
  let early := fun (e : InMsg × Nat) => decide (e.1.key.ep % 16 = 5) && decide (e.1.key.cls = 0)
    && !s.refusing.contains e.1.key && decide (s.queuedBefore e.2 e.1.key.ep < 512)
  s.setFab { s.fab with inbox := s.fab.inbox.zipIdx.map fun e => if early e then { e.1 with early := true } else e.1 }

/-- A drain begins: from now on no tile issues, no M instruction writes, home agents refuse and no mirror write is
sent (R400). Causes as in DRAINSTAT. -/
def State.startDrain (s : State) (cause : Nat) : State :=
  let s := (State.put { s.acceptQueued with drainDue := none } F.DRAINSTAT_CAUSE 0 cause).put F.DRAINSTAT_STATE 0 1
  let s := s.stopWork.log .moduleDrain 0 (leBytes 1 cause)
  if cause = 0 then s
  else State.put { s with power := { s.power with fault := true } } F.HEALTHFLAG_REPLACE 0 1

/-- DRAIN: a detection that requires it, or the action of DRAINCTL; none while one is under way (R401). -/
def State.drainNow (s : State) : State :=
    let s := s.askDone .DRAINCTL 0
    if s.get F.DRAINSTAT_STATE 0 ≠ 0 then s else s.startDrain (s.drainDue.getD 0)

def execDrain (s : State) : Out :=
  .next (s.drainNow)

/-- The mirror writes a slice has sent since the last reset, slice by slice. -/
def Twin.counts (x : Twin) : List Nat := (List.range 4).map fun i => SMap.get 0 x.sent i

/-- Some mirror write is unacknowledged. -/
def State.mirrorsOut (s : State) : Bool := s.rops.any fun o => match o.owner with
  | .mirror _ _ => true
  | _ => false

/-- Every launched context ends with an undelivered UNIT_FENCED fault (R400 step 6). -/
def State.endAll (s : State) : State :=
  s.tiles.foldl (fun (u : State) e =>
    let t := e.1
    let live := fun (x : Ctx) => decide (x.run = .running) || decide (x.run = .stopping)
    let f := live e.2.ctxF
    let l := live e.2.ctxL
    let u := u.setTile t { u.tile t with ops := [] }
    let u := (u.endFenced t .F).endFenced t .L
    let u := if f then u.endContext t .F else u
    if l then u.endContext t .L else u) s

/-- DRAIN_COMPLETE: the mirror writes sent have completed, the twin gets its notice if there is one, and every context has
ended (R400 steps 5 and 6, R416, R427). -/
def execDrainComplete (s : State) : Out :=
  .next <|
    if s.get F.DRAINSTAT_STATE 0 = 1 ∧ ¬ s.mirrorsOut then
      let s := { s with puts := [] }
      let note := if s.twin.present then [Sent.drainNotice s.twin.counts] else []
      let s := { s.endAll with sent := s.sent ++ note }
      s.put F.DRAINSTAT_STATE 0 2
    else s

/-! ## Retests and margin tests (R398, R413 to R415) -/

/-- Units a fence can hold, as kind × 2^16 + number: clusters, arrays and tiles by slot, attachments and crossings by link,
stacks. The ports behind a cut die follow its attachments. -/
def State.fencedUnits (s : State) : List Nat :=
  let ts := List.range s.tileCount
  (List.range 128).filter s.clusterFenced
  ++ (ts.filter s.arrayFenced).map (fun t => 2 ^ 16 + s.slotOf t)
  ++ (ts.filter fun t => bit (s.reg .FENCETILE (t / 64)) (t % 64)).map (fun t => 2 * 2 ^ 16 + s.slotOf t)
  ++ ((List.range 32).filter fun u => bit (s.get F.FENCEOTH_ATT 0) u && decide (u < 16)
      || decide (16 ≤ u) && (decide (s.get F.D2DSTAT_WIDTH u = 2) || s.power.late.contains (3 * 2 ^ 16 + u))).map (fun u => 3 * 2 ^ 16 + u)
  ++ ((List.range 12).filter fun k => bit (s.get F.FENCEOTH_STACK 0) k).map fun k => 4 * 2 ^ 16 + k

/-- Set or clear the fence bit of a unit. A slot outside the numbering has none. A link that comes back from its fence runs
at half width. A stack's channels are OUT from its fence on (R404). -/
def State.setFence (s : State) (u : Nat) (on : Bool) : State :=
  let i := u % 2 ^ 16
  let tileBit := fun (v : State) (r : Reg) (slot : Nat) => match v.tileInSlot slot with
    | some t => v.setReg r (t / 64) (setFlag (v.reg r (t / 64)) (t % 64) on)
    | none => v
  match u / 2 ^ 16 with
  | 0 =>
    let s := s.setReg .FENCECL 0 (setFlag (s.reg .FENCECL 0) i on)
    if on then (seqFrom (i * Config.tilesPerCluster) Config.tilesPerCluster).foldl (fun v slot => tileBit v .FENCETILE slot) s
    else if s.get F.D2DSTAT_WIDTH (32 + i) = 2 then s.put F.D2DSTAT_WIDTH (32 + i) 1 else s
  | 1 => tileBit s .FENCEARR i
  | 2 => tileBit s .FENCETILE i
  | 3 => (if i < 16 then s.setOther (12 + i) on else s).put F.D2DSTAT_WIDTH i (if on then 2
      else if s.get F.D2DSTAT_WIDTH i = 2 then 1 else s.get F.D2DSTAT_WIDTH i)
  | _ =>
    let s := s.setOther i on
    if on then { s with power := { s.power with outs := insertRising i s.power.outs } } else s

/-- The unit a failing test concerns, in the numbering of `fencedUnits`. -/
def State.failUnit (s : State) : MFail → Option Nat
  | .cluster q => some q
  | .array t => some (2 ^ 16 + s.slotOf t)
  | .tile t => some (2 * 2 ^ 16 + s.slotOf t)
  | .channel m => some (4 * 2 ^ 16 + m / 16)
  | .link u _ => if u < 32 then some (3 * 2 ^ 16 + u) else some (u - 32)
  | _ => none

/-- A unit as event records number it (Table 17-4): tiles and arrays by their enabled tile number, a cluster, link or stack
by its own. -/
def State.unitNumber (s : State) (u : Nat) : Nat :=
  if u / 2 ^ 16 = 1 ∨ u / 2 ^ 16 = 2 then (s.tileInSlot (u % 2 ^ 16)).getD (u % 2 ^ 16) else u % 2 ^ 16

/-- The unit a failing test names in its record. -/
def State.failNumber (s : State) : MFail → Nat
  | .freq d _ => d
  | .channel m => m
  | .lane p _ => p
  | .link u _ => u
  | f => s.unitNumber ((s.failUnit f).getD 0)

/-- A fence is permanent after the third failed retest in a row (R398). -/
def State.permanent (s : State) (u : Nat) : Bool := decide (3 ≤ SMap.get 0 s.power.fails u)

/-- A unit stays fenced for its cluster's sake. -/
def inFenced (still : List Nat) (u : Nat) : Bool :=
  decide (u / 2 ^ 16 = 2) && still.contains (u % 2 ^ 16 / Config.tilesPerCluster)

/-- The ports of a die whose attachments work again leave their fence, but for a replaced port; they are blanked until light
returns (R274, R287, R398). -/
def State.restorePorts (s : State) (n : Nat) : State :=
  if s.dieCut n ∨ s.get F.EDADMIT_STATE n ≠ 1 then s
  else (List.range 12).foldl (fun (u : State) k =>
    let p := portOf n k
    if u.pstate p = 7 ∧ ¬ (u.get F.SPARE_TAKEN n = 1 ∧ u.get F.SPARE_TARGET n = k) then u.put F.PORTSTAT_STATE p 5 else u) s

/-- R398: every fenced unit is retested; the units that pass are unfenced, a failure is counted and logged. Answers the
units that stay fenced. -/
def State.retest (s : State) (fails : List MFail) : State × List Nat :=
  let bad := fails.filterMap s.failUnit
  let us := s.fencedUnits
  let still := us.filter fun u => s.permanent u || bad.contains u
  let keep := us.filter fun u => still.contains u || inFenced still u
  let s := us.foldl (fun (v : State) u =>
    if v.permanent u then v
    else
      let n := if bad.contains u then SMap.get 0 v.power.fails u + 1 else 0
      { v with power := { v.power with fails := SMap.set 0 v.power.fails u n } }) s
  let s := (us.filter fun u => bad.contains u).foldl (fun (v : State) u => v.logMargin (v.unitNumber u)) s
  let s := us.foldl (fun (v : State) u => v.setFence u (keep.contains u)) { s with power := { s.power with late := [] } }
  ((List.range 4).foldl (fun (v : State) n => v.restorePorts n) s, keep)

/-- What a failing margin test does to a unit in service (Table 15-7). No health score changes (R414). -/
def State.applyFail (s : State) (f : MFail) : State :=
  let s := s.logMargin (s.failNumber f)
  let mark := fun (u : Nat) (v : State) =>
    if v.fencedUnits.contains u then v else (v.setFence u true).logFence (v.unitNumber u)
  match f with
  | .freq d x => if 6 ≤ x ∧ x ≤ 17 then s.put F.GOVSTAT_FREQ d x else s
  | .cluster q => mark q s
  | .array t => mark (2 ^ 16 + s.slotOf t) s
  | .tile t => mark (2 * 2 ^ 16 + s.slotOf t) s
  | .channel m => s.put F.MCHMAP_MAPOUT m 1
  | .lane p k => s.retireLane p k
  | .link u spare =>
    if spare then s.put F.D2DSTAT_SPARES u (satTo 8 (s.get F.D2DSTAT_SPARES u + 1))
    else if s.get F.D2DSTAT_WIDTH u = 1 then s.linkFence u
    else s.narrowLink u

/-- The march pattern leaves unspecified bytes in tile store and accumulator store (log entry 6). -/
def State.march (s : State) : State :=
  { s with tiles := (List.range Config.tiles).filterMap (fun t =>
             let x : Tile := { s.tile t with store := [], fill := some (s.free + 2 ^ 21 * t) }
             if x = Tile.reset then none else some (t, x)),
           free := s.free + 2 ^ 21 * Config.tiles }

/-- Margin tests requalify suspect sensors of base and edge dies: which, is Hearth's own decision and free; those of compute
dies requalify when Hearth writes SENSSUSP (R384, log entry 57). -/
def State.requalifySensors (s : State) : State :=
  let d := s.draw
  { d.2 with power := { d.2.power with susp := SMap.mapv 0 s.power.susp fun u v => v &&& Config.unspecified (d.1 + u) } }

/-- The margin tests: failures act on their units (R413, R414). -/
def State.marginTests (s : State) (fails : List MFail) : State :=
  (fails.foldl (fun (u : State) f => u.applyFail f) s).requalifySensors

/-- The HBM-channel row runs only on channels that are OUT (R413). -/
def State.testable (s : State) : MFail → Bool
  | .channel m => decide (s.service m = 2)
  | _ => true

/-- MARGIN_TESTS: the action of DRAINCTL between jobs; a write without effect while a context runs; it waits until Hearth is
READY (R413, Table 17-2). -/
def State.marginCmd (s : State) (hearth : Bool) (fails : List MFail) : State :=
    if s.jobRuns then s.noEffect hearth .DRAINCTL 0
    else if !s.hearthReady then s
    else (s.askDone .DRAINCTL 0).march.marginTests (fails.filter s.testable)

def execMarginTests (hearth : Bool) (fails : List MFail) (s : State) : Out :=
  .next (s.marginCmd hearth fails)

/-! ## The health score (R410) -/

/-- The largest n ≤ hi with 2 × n^k ≤ p^k, found bit by bit from `b`: p × 2^(−1/k) to the unit of the penalty. -/
def rootHalf (p k : Nat) : Nat → Nat → Nat
  | 0, n => n
  | b + 1, n => let m := n + 2 ^ b
    rootHalf p k b (if 2 * m ^ k ≤ p ^ k then m else n)

/-- One minute's decay: P × 2^(−60 / (3,600 × HALFLIFE)) (R410). -/
def decayed (halflife p : Nat) : Nat := rootHalf p (60 * halflife) 48 0

/-- HEALTH_DECAY: every 60 s that Hearth runs. -/
def execHealthDecay (s : State) : Out :=
  .next <|
    if s.hearthReady then
      { s with penalty := SMap.mapv 0 s.penalty fun _ p => decayed (s.get F.HSCFG_HALFLIFE 0) p }
    else s

/-- Save every penalty to flash (R410). -/
def State.saveHealth (s : State) : State := { s with hd := { s.hd with saved := s.penalty } }

/-- HEALTH_SAVE: every 10 minutes. -/
def execHealthSave (s : State) : Out := .next (if s.hearthReady then s.saveHealth else s)

end Sys2Proof.Machine
end

