-- ==== Sys2Proof/Machine/Resets.lean ====
section
/-! DEFINITION. What resets, losses of power and power states keep and discard (chapter 19, Table 19-4), the compute
reset, Nap and the entry to Deep, and the shutdown of R390. -/

namespace Sys2Proof.Machine

/-! ## Registers by survival class (R7, R8, Table 19-4) -/

/-- The register a key belongs to. -/
def regOf (key : Nat) : Option Reg := Reg.all[key / 2 ^ 24]?

/-- Return the registers of a set to their defaults; their waiting writes go with them. -/
def State.clearRegs (s : State) (p : Reg → Bool) : State :=
  let keep := fun (k : Nat) => match regOf k with
    | some r => !p r
    | none => false
  { s with regs := SMap.keep s.regs keep, asks := SMap.keep s.asks keep }

/-- S0 registers that show the present state of a unit or of Hearth, whatever reset the rest of the module takes. -/
def Reg.held : Reg → Bool
  | .PWRSTAT | .HDSTAT | .TWINSTAT | .CAPTILE | .CAPMEM => true
  | _ => false

/-- S0 registers of units that a compute reset leaves alone: ports, lasers, the plan switch (R477). -/
def Reg.runs : Reg → Bool
  | .PORTSTAT | .RINGSTAT | .LANESTAT | .LANEEQ | .LASERSTAT | .CPSTAT => true
  | r => r.held

/-- CPSTAT.LAST, the one part of CPSTAT that is no present state of the optics, takes its default when no switch is under way
(R7, R477). -/
def State.clearPlanStatus (s : State) : State := if s.plan.isSome then s else s.put F.CPSTAT_LAST 0 5

/-- What TWINSTAT shows of the peer takes its default at a warm reset and in Deep, until heartbeats come again; ROLE and
CONFLICT are of the straps (R7, R8, R416, R418). -/
def State.clearPeer (s : State) : State := ((s.put F.TWINSTAT_PEER 0 0).put F.TWINSTAT_PEERDEV 0 0).put F.TWINSTAT_FAILOVER 0 0

/-- At a compute reset TWINSTAT keeps what it shows of the peer and the bridge, which run on; MSTATE, PROMOTED and GAP
clear. -/
def State.clearTwin (s : State) : State := ((s.put F.TWINSTAT_MSTATE 0 0).put F.TWINSTAT_PROMOTED 0 0).put F.TWINSTAT_GAP 0 0

/-! ## The end of a job (R54, R55, R477) -/

/-- Every started command completes with status RESET (R468). -/
def State.endCommands (s : State) : State := s.host.cmds.foldl (fun (u : State) c => u.complete c stRESET) s

/-- An operation that outlives the job it came from: its reply is taken and ignored. -/
def ROp.orphan (o : ROp) : ROp :=
  match o.owner with
  | .mirror _ _ => o
  | _ => { o with owner := .engine }

/-- Rack operations at the end of a job: mirror writes stay, those of the job are orphans, those not yet sent are gone. -/
def orphans (os : List ROp) : List ROp :=
  (os.filter fun o => match o.owner with
    | .mirror _ _ => true
    | _ => decide (o.phase ≠ .held)).map ROp.orphan

/-- The stop and clearing that every reset above a port reset includes: tiles, contexts, counters, queues, channels,
collectives, commands, drain and sprint; the mirror counts restart (R55, R210, R311, R401, R427, R470). -/
def State.stopJob (s : State) : State :=
  let s := s.endCommands.stopSprint
  { s with tiles := [], counters := [], tasks := [], chans := [], engines := [], arrivals := [],
           rops := orphans s.rops, tags := [], puts := [], dwHeld := [], drainDue := none,
           host := { s.host with job := false }, power := { s.power with gated := [] },
           twin := { s.twin with resets := (s.twin.resets + 1) % 2 ^ 16, mark := s.nextId, sent := [], lost := false,
                                 shadows := [], theirs := [] } }

/-- COMPUTE_RESET, with the margin-test failures of its retests; a write without effect in any other state than ACTIVE
and IDLE_GATED (R470, R477, R482). -/
def State.computeReset (s : State) (hearth : Bool) (fails : List MFail) : State :=
    if !s.active then s.noEffect hearth .RSTCTL 0
    else
      let s := (s.stopJob.haltGens.retest fails).1
      let s := (s.clearRegs fun r => decide (r.spec.surv = .s0) && !r.runs).clearTwin.clearPlanStatus
      ((s.setReg .PWRSTAT 0 3).bump F.RSTCAUSE_NCOMPUTE 0 1).saveHealth

def execComputeReset (hearth : Bool) (fails : List MFail) (s : State) : Out :=
  .next (s.computeReset hearth fails)

/-! ## Nap and Deep (R479 to R482) -/

/-- The cache is written back and empty (R223). -/
def State.writeBackCache (s : State) : State :=
  let s := s.foldAll
  let m := s.mem.writeBackAll
  { s with mem := { m with cbytes := [], lines := [] } }

/-- Entry is refused: a context is launched and not ended, or a command started and not completed (R479). -/
def State.sleepRefused (s : State) : Bool := s.jobRuns || !s.host.cmds.isEmpty

/-- A refused entry (R479). -/
def State.refuseSleep (s : State) (hearth : Bool) : State := (s.put F.PWRSTAT_REFUSED 0 1).noEffect hearth .RSTCTL 0

/-- ENTER_NAP (R479, R480). -/
def State.enterNap (s : State) (hearth : Bool) : State :=
    if !s.active then s.noEffect hearth .RSTCTL 0
    else if s.sleepRefused then s.refuseSleep hearth
    else State.put (s.askDone .RSTCTL 0).writeBackCache F.PWRSTAT_STATE 0 6

def execEnterNap (hearth : Bool) (s : State) : Out :=
  .next (s.enterNap hearth)

/-- LEAVE_NAP: tile state returns as after a compute reset (R480, R482). -/
def State.leaveNap (s : State) (hearth : Bool) : State :=
    if s.get F.PWRSTAT_STATE 0 = 6 then
      let s := s.askDone .RSTCTL 0
      State.put { s with tiles := [], power := { s.power with gated := [] } } F.PWRSTAT_STATE 0 3
    else s.noEffect hearth .RSTCTL 0

def execLeaveNap (hearth : Bool) (s : State) : Out :=
  .next (s.leaveNap hearth)

/-- ENTER_DEEP, from ACTIVE, IDLE_GATED or NAP (R479, R481, R482). -/
def State.enterDeep (s : State) (hearth : Bool) : State :=
    if s.get F.PWRSTAT_STATE 0 ≠ 6 ∧ ¬ s.active then s.noEffect hearth .RSTCTL 0
    else if s.sleepRefused then s.refuseSleep hearth
    else
      let s := (State.put (s.askDone .RSTCTL 0).haltGens.writeBackCache F.PWRSTAT_STATE 0 9).saveHealth
      (List.range 4).foldl (fun (u : State) n => u.setReg .LASERSTAT n 0) s

def execEnterDeep (hearth : Bool) (s : State) : Out :=
  .next (s.enterDeep hearth)

/-- A die does work: a launched context, a copy or a bkput of its clusters (R478). -/
def State.dieBusy (s : State) (d : Nat) : Bool :=
  let live := fun (x : Ctx) => decide (x.run = .running) || decide (x.run = .stopping)
  (s.tiles.any fun e => decide (s.cdieOf e.1 = d) && (live e.2.ctxF || live e.2.ctxL))
  || (s.chans.any fun e => decide (e.1 / 256 = d) && !e.2.queue.isEmpty)
  || s.puts.any fun p => decide (s.cdieOf p.tile = d)

/-- IDLE_GATE: die `d` has had no work for 10 µs (R478). -/
def execIdleGate (d : Nat) (s : State) : Out :=
  within d 8 <| .next <|
    if s.active ∧ ¬ s.dieBusy d then
      let g := insertRising d s.power.gated
      let s := { s with power := { s.power with gated := g } }
      if g.length = 8 then s.put F.PWRSTAT_STATE 0 4 else s
    else s

/-- A launch wakes a die (R478). -/
def State.wakeDie (s : State) (d : Nat) : State :=
  let s := { s with power := { s.power with gated := s.power.gated.filter fun x => decide (x ≠ d) } }
  if s.get F.PWRSTAT_STATE 0 = 4 then s.put F.PWRSTAT_STATE 0 3 else s

/-! ## Loss of power -/

/-- Ports start over: an idle spare is blanked, a replaced port and the ports of a die that is rejected or cut off are
fenced, every other is DOWN and requests light; the bundles of the current plan are not up (R274, R283, R286, R287,
R454). -/
def State.portsStart (s : State) : State :=
  let s := (List.range 4).foldl (fun (u : State) n =>
    let u := if u.get F.SPARE_TAKEN n = 1 then u.put F.PORTSTAT_STATE (portOf n (u.get F.SPARE_TARGET n)) 7
      else u.put F.PORTSTAT_STATE (portOf n 11) 5
    let u := if u.get F.EDADMIT_STATE n ≠ 1 ∨ u.dieCut n then
        (List.range 12).foldl (fun (v : State) k => v.put F.PORTSTAT_STATE (portOf n k) 7) u
      else u
    u.laserEn n) s
  let cur := s.get F.CPCUR_CUR 0
  let s := { s with twin := { s.twin with detached := false } }
  s.put F.CPSTAT_NOTUP 0 ((List.range 24).foldl (fun a i => a + b2n (s.bundleIn cur (i / 6) (i % 6)).isSome * 2 ^ i) 0)

/-- What no loss of power to the dies leaves: every S0, S1 and S2 register, memory, fabric, optics and job state. `held`
names the registers that outlive it; the tile count and the capacity change only at the reset that follows (R514). -/
def State.loseAll (s : State) (held : Reg → Bool) : State :=
  let s := s.stopSprint.clearRegs fun r =>
    decide (r.spec.surv ≠ .s3) && !held r && decide (r ≠ .CAPTILE) && decide (r ≠ .CAPMEM)
  { s with tiles := [], counters := [], tasks := [], chans := [], engines := [], arrivals := [], mem := .reset,
           rops := [], drainDue := none, govs := [], gens := [], sensors := [], fab := .reset, refusing := [], rx := [], shut := [],
           retrains := [], training := [], sfcnt := [], frames := [], plan := none, tags := [], puts := [], dwHeld := [], host := .reset,
           twin := { Twin.reset with present := s.twin.present },
           power := { s.power with trips := [], susp := [], gated := [], lost := [] } }

/-- Power is gone from every die but the always-on island: Hearth runs on, with the straps it has latched and what they
settled (R390, R471, R488). -/
def State.islandOnly (s : State) : State :=
  let role := s.get F.TWINSTAT_ROLE 0
  let conflict := s.get F.TWINSTAT_CONFLICT 0
  let s := s.loseAll fun r => decide (r = .HDSTAT) || decide (r = .STRAPS)
  (s.put F.TWINSTAT_ROLE 0 role).put F.TWINSTAT_CONFLICT 0 conflict

/-- Everything stops, Hearth included. After a loss of its supply, what it had not written to flash is gone (R410,
R442). -/
def State.allDown (s : State) (supply : Bool) : State :=
  let s := s.loseAll fun _ => false
  if supply then { s with events := [], penalty := s.hd.saved } else s

/-- The module is down for a cause of RSTCAUSE.COLD. -/
def State.downFor (s : State) (cause : Nat) : State := { s with power := { s.power with cause := cause } }

/-- The shutdown of R390, logged with a unit and data. -/
def State.shutDown (s : State) (unit : Nat) (data : List Byte) : State :=
  let s := (s.log .thermalShutdown unit data).islandOnly
  State.downFor { s with power := { s.power with fault := true, shutdown := true } } 4

end Sys2Proof.Machine
end

