-- ==== Sys2Proof/Machine/Hearth.lean ====
section
/-! DEFINITION. Hearth (chapter 17): image slots, boot and reset, the event log, firmware update, identity and
measurements, the management network's commands, and the admission of edge dies. -/

namespace Sys2Proof.Machine

def State.setHd (s : State) (h : Hearth) : State := { s with hd := h }

/-! ## Images (Table 17-6, R446 to R448) -/

/-- A byte of an image slot: as written, or as manufactured (log entry 10). -/
def State.slotByte (s : State) (k a : Nat) : Byte :=
  (SMap.look s.hd.slots (k * 2 ^ 25 + a)).getD (Config.flash (k * 2 ^ 25 + a))
def State.slotBytes (s : State) (k a n : Nat) : List Byte := (List.range n).map fun i => s.slotByte k (a + i)
def State.slotNat (s : State) (k a n : Nat) : Nat := leValue (s.slotBytes k a n)

def State.imageVersion (s : State) (k : Nat) : Nat := s.slotNat k 8 4
def State.imageSvn (s : State) (k : Nat) : Nat := s.slotNat k 12 1
def State.imageComps (s : State) (k : Nat) : Nat := s.slotNat k 14 2

/-- The entry of a component: type, offset, length, reserved word, digest. -/
structure Comp where
  type : Nat
  offset : Nat
  length : Nat
  reserved : Nat
  digest : Nat

def State.comp (s : State) (k i : Nat) : Comp :=
  let a := 2640 + 48 * i
  { type := s.slotNat k a 4, offset := s.slotNat k (a + 4) 4, length := s.slotNat k (a + 8) 4,
    reserved := s.slotNat k (a + 12) 4, digest := s.slotNat k (a + 16) 32 }

/-- A component lies inside the slot and matches its digest. -/
def State.compOk (s : State) (k : Nat) (c : Comp) : Bool :=
  decide (c.reserved = 0) && decide (c.offset + c.length ≤ 2 ^ 25)
  && decide ((Config.sha3 (s.slotBytes k c.offset c.length)).toNat = c.digest)

/-- The digest of the component of a type in a slot; 0 for none. -/
def State.compDigest (s : State) (k type : Nat) : Nat :=
  match ((List.range (min (s.imageComps k) 8)).map (s.comp k)).find? fun c => decide (c.type = type) with
  | some c => c.digest
  | none => 0

/-- A key and its signature over bytes 0 to 3,023 of the header (R447). -/
def State.signedBy (s : State) (k keyAt sigAt keyHash : Nat) : Bool :=
  decide ((Config.sha3 (s.slotBytes k keyAt 1312)).toNat = keyHash)
  && Config.mldsaVerify (s.slotBytes k keyAt 1312) (s.slotBytes k 0 3024) (s.slotBytes k sigAt 2420)

/-- A slot is valid (R448); one written and not verified is not (R449). Exactly one component is Hearth firmware. -/
def State.imageValid (s : State) (k : Nat) : Bool :=
  let n := s.imageComps k
  let cs := (List.range (min n 8)).map (s.comp k)
  let flags := s.slotNat k 13 1
  decide (s.hd.torn ≠ some k)
  && decide (s.slotNat k 0 4 = 0x4D49484E) && decide (s.slotNat k 4 4 = 1) && decide (1 ≤ n) && decide (n ≤ 8)
  && decide (flags / 2 = 0) && decide (s.slotNat k (2640 + 48 * n) (48 * (8 - n)) = 0) && decide (s.slotNat k 7864 328 = 0)
  && s.signedBy k 16 3024 Config.vkeyHash.toNat
  && (decide (s.get F.HDFUSE_OLOCK 0 = 0) || (decide (flags % 2 = 1) && s.signedBy k 1328 5444 s.hd.okeyHash))
  && decide (s.get F.HDFUSE_CTR 0 ≤ s.imageSvn k)
  && cs.all (s.compOk k) && decide ((cs.filter fun c => decide (c.type = 1)).length = 1)

/-- HDVER of a slot. -/
def State.noteSlot (s : State) (k : Nat) : State :=
  s.setReg .HDVER k (b2n (s.imageValid k) * 2 ^ 48 + s.imageSvn k * 2 ^ 40 + s.imageVersion k)

/-! ## Boot (R438, R451) -/

/-- The slot R438 chooses, before any start: the preferred one, else the valid one with the higher VERSION, A when the
two are equal. -/
def State.chooseSlot (s : State) : Nat :=
  match s.hd.prefer with
  | some k => k
  | none =>
    if !s.imageValid 1 then 0 else if !s.imageValid 0 then 1
    else if s.imageVersion 0 < s.imageVersion 1 then 1 else 0

/-- One of three starts in a row reaches READY; a start the command says nothing of does. -/
def starts (ready : List Bool) : Bool := (List.range 3).any fun i => ready.getD i true

/-- The configuration-lock block (Table 17-7), 40 bytes; the widths of its parts are the model's (log entry 11). -/
def State.lockBlock (s : State) : List Byte :=
  leBytes 2 (s.get F.HDFUSE_OLOCK 0) ++ leBytes 32 s.hd.okeyHash ++ leBytes 2 (s.get F.HDFUSE_CTR 0)
  ++ leBytes 2 (s.get F.HDFUSE_JTAGLOCK 0) ++ leBytes 2 (s.get F.STRAPS_BOOT_SRC 0)

/-- Hearth starts from slot `k` (R451): its measurements and alias key are new, every SPDM connection has ended. -/
def State.startSlot (s : State) (k : Nat) : State :=
  let m1 := s.compDigest k 1
  let m4 := (Config.sha3 s.lockBlock).toNat
  let d := s.draw
  let cdi := (Config.sha3 (leBytes 32 Config.deviceSecret.toNat ++ leBytes 32 m1 ++ leBytes 32 m4)).toNat
  let seed := (Config.sha3 (leBytes 32 cdi ++ leBytes 32 d.1)).toNat
  let s := d.2.setHd { d.2.hd with meas := SMap.set 0 (SMap.set 0 s.hd.meas 1 m1) 4 m4, aliasSeed := seed,
                                   negotiated := false }
  (s.setReg .HDSTAT 0 (4 * k + 1)).log .hearthStart 0 []

/-- Records lost from the hardware queue are reported once Hearth is READY (R439). -/
def State.reportLost (s : State) : State :=
  let n := s.get F.LOGLOST_LOST 0
  let was := s.hd.lostNoted
  let s := s.setHd { s.hd with lostNoted := n }
  if was < n then s.log .eventsLost 0 [] else s

/-- No slot can be started: recovery, with no compute, base or edge die powered (R438). -/
def State.recover (s : State) : State :=
  (if s.get F.PWRSTAT_STATE 0 = 0 then s else s.islandOnly).setReg .HDSTAT 0 2

/-- Start slot `k` (R438), and report what was lost while Hearth did not run (R439). -/
def State.runSlot (s : State) (k : Nat) : State := (s.startSlot k).reportLost

/-- The choice and start of a slot, the slots' states being known. -/
def State.bootFrom (s : State) (ready : List Bool) : State :=
  match s.get F.STRAPS_BOOT_SRC 0 with
  | 0 =>
    let c := s.chooseSlot
    let o := 1 - c
    if s.imageValid c && starts ready then s.runSlot c
    else if s.imageValid o then
      if starts (if s.imageValid c then ready.drop 3 else ready) then (s.runSlot o).log .slotFallback 0 [] else s.recover
    else s.recover
  | 3 => s.recover
  | n => if s.imageValid (n - 1) && starts ready then s.runSlot (n - 1) else s.recover

/-- The boot ROM chooses a slot and starts it (R438). `ready` tells, start by start, which reach READY. -/
def State.bootHearth (s : State) (ready : List Bool) : State := ((s.noteSlot 0).noteSlot 1).bootFrom ready

/-- Hearth restarts: its window's S0 registers and its own volatile state go (R439, R444, R449). -/
def State.hearthStops (s : State) : State :=
  let s := s.stopSprint.clearRegs fun r => decide (r.spec.win = .hearth) && decide (r.spec.surv = .s0)
  s.setHd { s.hd with updating := false, negotiated := false, eid := 0, dynamic := none }

/-- HEARTH_RESET: a watchdog expiry, HDCTL, or new Hearth firmware (R439). -/
def State.hearthRestarts (s : State) : State :=
  (s.askDone .HDCTL 0).hearthStops

def execHearthReset (s : State) : Out :=
  .next (s.hearthRestarts)

/-- HEARTH_BOOT: the boot ROM runs (R438). -/
def execHearthBoot (ready : List Bool) (s : State) : Out :=
  .next (if s.get F.HDSTAT_STATE 0 = 0 ∧ s.power.hrefclk then s.bootHearth ready else s)

/-- HREFCLK_LOSS: Hearth does not run, the rest of the module goes on as during a Hearth reset (R473). -/
def execHrefclkLoss (s : State) : Out := .next { s.stopSprint with power := { s.power with hrefclk := false } }

/-- HREFCLK_RESTORED: Hearth runs again (R473). -/
def execHrefclkRestored (s : State) : Out :=
  .next <|
    if s.power.hrefclk then s
    else
      let s : State := { s with power := { s.power with hrefclk := true } }
      if s.hearthReady then s.reportLost else s

/-! ## The event log (R441 to R443) -/

/-- The 32 bytes of a record as a number (Table 17-4). -/
def State.recordOf (s : State) (e : EvRec) : Nat :=
  let body := leBytes 6 s.hd.usec ++ leBytes 1 e.ev.source ++ leBytes 1 (e.ev.sev + 4 * b2n e.queued)
    ++ leBytes 2 e.ev.code ++ leBytes 2 s.hd.boots ++ leBytes 2 e.unit ++ e.data.take 14
  leValue (body ++ leBytes 4 (crc32c body))

/-- SEV[1:0] of a record. -/
def recSev (r : Nat) : Nat := bits r 57 56

/-- The unacknowledged event messages, at most 1,024: the oldest below critical is dropped and counted (R443). -/
def pldmPush (q : List Nat) (r : Nat) : List Nat × Bool :=
  let q := q ++ [r]
  if q.length ≤ 1024 then (q, false)
  else
    (q.eraseIdx ((q.findIdx? fun x => decide (recSev x < 3)).getD 0), true)

/-- Offer a record to the host: it waits for the event ring, or is counted while the ring is refused (R466). -/
def State.offerHost (s : State) (r : Nat) : State :=
  if s.get F.EVRCFG_EN 0 = 1 then s.setHost { s.host with events := s.host.events ++ [r] }
  else if s.get F.EVRCFG_REFUSED 0 = 1 then s.bump F.EVRSTAT_DROPPED 0 1
  else s

/-- Put a record into the protected region (R442). -/
def State.protect (s : State) (r : Nat) : State :=
  let n := s.get F.LOGPTR_PCOUNT 0
  if n < 32768 then (s.setHd { s.hd with prot := SMap.set 0 s.hd.prot n r }).put F.LOGPTR_PCOUNT 0 (n + 1)
  else if s.hd.protNoted then s
  else (s.setHd { s.hd with protNoted := true }).log .protlogFull 0 []

/-- Write a record into the log ring (R442). -/
def State.ringPut (s : State) (r : Nat) : State :=
  let n := s.get F.LOGPTR_NEXT 0
  let s := if (SMap.look s.hd.ring n).isSome then s.put F.LOGPTR_WRAPPED 0 1 else s
  (s.setHd { s.hd with ring := SMap.set 0 s.hd.ring n r }).put F.LOGPTR_NEXT 0 ((n + 1) % 524288)

/-- EVENT_RECORD: Hearth writes the oldest event it has not written (R441 to R443). Its TIME has moved on by a free
amount (log entry 5). -/
def execEventRecord (s : State) : Out :=
  .next <| match s.events with
    | [] => s
    | e :: es =>
      if !s.hearthReady then s
      else
        let d := s.drawTime
        let s := State.setHd { d.2 with events := es } { d.2.hd with usec := (d.2.hd.usec + d.1) % 2 ^ 48 }
        let r := s.recordOf e
        let s := s.ringPut r
        let s := if 2 ≤ e.ev.sev then s.protect r else s
        let p := pldmPush s.hd.pldm r
        let s := s.setHd { s.hd with pldm := p.1 }
        (if p.2 then s.bump F.LOGLOST_LOST 0 1 else s).offerHost r

/-- CLEAR_PROTECTED_REGION: a management command (R442). -/
def execClearProtectedRegion (s : State) : Out :=
  .next <|
    if s.hearthReady then (s.setHd { s.hd with prot := [], protNoted := false }).put F.LOGPTR_PCOUNT 0 0 else s

/-! ## Firmware update (R449, R450) -/

/-- Hearth answers the management network. -/
def State.answer (s : State) (kind : Nat) (ok : Bool) (data : List Byte) : State :=
  { s with sent := s.sent ++ [Sent.manage kind ok data] }

/-- Kinds of answers recorded in `sent`: the model's own names. -/
def aUPDATE : Nat := 1
def aVERIFY : Nat := 2
def aACTIVATE : Nat := 3
def aALGORITHMS : Nat := 4
def aCHALLENGE : Nat := 5
def aMEASURE : Nat := 6

/-- The slot an update goes to: the one not booted; A in recovery (R438, R449). -/
def State.targetSlot (s : State) : Nat := if s.get F.HDSTAT_STATE 0 = 2 then 0 else 1 - s.get F.HDSTAT_SLOT 0

/-- Hearth or, in recovery, its boot ROM answers firmware updates. -/
def State.updates (s : State) : Bool :=
  s.power.hrefclk && (decide (s.get F.HDSTAT_STATE 0 = 1) || decide (s.get F.HDSTAT_STATE 0 = 2))

/-- REQUEST_UPDATE: an image is written into the target slot, which is invalid from the first byte on; a second update is
answered busy (R449). -/
def execRequestUpdate (image : List Byte) (s : State) : Out :=
  .next <|
    if !s.updates then s
    else if s.hd.updating then s.answer aUPDATE false []
    else
      let k := s.targetSlot
      let slots := (image.take (2 ^ 25)).zipIdx.foldl (fun m (b, i) => SMap.ins m (k * 2 ^ 25 + i) b) s.hd.slots
      let s := s.setHd { s.hd with slots := slots, updating := true, torn := some k }
      (s.put F.HDVER_VALID k 0).answer aUPDATE true []

/-- VERIFY_COMPLETE: R448 decides whether the new image is staged or rejected (R449). -/
def execVerifyComplete (s : State) : Out :=
  .next <|
    if !s.updates || !s.hd.updating then s
    else
      let k := s.targetSlot
      let u := (s.setHd { s.hd with updating := false, torn := none }).noteSlot k
      if u.imageValid k then (u.log .updateStaged 0 []).answer aVERIFY true []
      else ((u.setHd { u.hd with torn := some k }).log .updateRejected 0 []).answer aVERIFY false []

/-- ACTIVATE_FIRMWARE: the new slot is preferred; its Hearth firmware takes effect at the Hearth reset that follows, its
other components at the next warm or cold reset (R449). -/
def execActivateFirmware (s : State) : Out :=
  .next <|
    let k := s.targetSlot
    if !s.updates then s
    else if s.get F.HDVER_VALID k = 1 then (s.setHd { s.hd with prefer := some k, staged := true }).answer aACTIVATE true []
    else s.answer aACTIVATE false []

/-- COMMIT_SVN: CTR takes the running image's SVN when that is higher; the other slot may become invalid (R450). -/
def execCommitSvn (s : State) : Out :=
  .next <|
    let k := s.get F.HDSTAT_SLOT 0
    let svn := s.get F.HDVER_SVN k
    let ctr := s.get F.HDFUSE_CTR 0
    if s.hearthReady ∧ ctr < 64 ∧ ctr < svn then
      let s := (s.put F.HDFUSE_CTR 0 (min svn 64)).log .svnCommitted 0 []
      if s.get F.HDVER_SVN (1 - k) < s.get F.HDFUSE_CTR 0 then s.put F.HDVER_VALID (1 - k) 0 else s
    else s

/-- BLOW_OKEYHASH: a management command carrying the owner key, once (R446). -/
def execBlowOkeyhash (key : List Byte) (s : State) : Out :=
  .next <|
    if s.hearthReady ∧ s.get F.HDFUSE_OLOCK 0 = 0 then
      (s.setHd { s.hd with okeyHash := (Config.sha3 key).toNat }).put F.HDFUSE_OLOCK 0 1
    else s

/-- Components but Hearth's own take effect at a warm or cold reset (R449, Table 17-7). -/
def State.loadComponents (s : State) : State :=
  let k := s.get F.HDSTAT_SLOT 0
  let m := SMap.set 0 (SMap.set 0 s.hd.meas 2 (s.compDigest k 2)) 3 (s.compDigest k 3)
  s.setHd { s.hd with meas := m, staged := false }

/-! ## SPDM and the management bus (R444, R445, R452) -/

/-- SPDM_NEGOTIATE_ALGORITHMS: ML-DSA-44 with SHA3-256, or ERROR UnsupportedRequest. -/
def execSpdmNegotiateAlgorithms (mldsa sha3 : Bool) (s : State) : Out :=
  .next <|
    if !s.hearthReady then s
    else if mldsa && sha3 then (s.setHd { s.hd with negotiated := true }).answer aALGORITHMS true []
    else s.answer aALGORITHMS false []

/-- The alias key's signature over the transcript of the connection (R452). -/
def State.sign (s : State) (transcript : List Byte) : List Byte := Config.mldsaSign (BitVec.ofNat 256 s.hd.aliasSeed) transcript

/-- SPDM_CHALLENGE: CHALLENGE_AUTH signed with the alias key. -/
def execSpdmChallenge (transcript : List Byte) (s : State) : Out :=
  .next <|
    if !s.hearthReady then s
    else if s.hd.negotiated then s.answer aCHALLENGE true (s.sign transcript)
    else s.answer aCHALLENGE false []

/-- A measurement of Table 17-7. -/
def State.measurement (s : State) (i : Nat) : List Byte := leBytes 32 (SMap.get 0 s.hd.meas i)

/-- SPDM_GET_MEASUREMENTS: one measurement, or all (0xFF), signed with the alias key. -/
def execSpdmGetMeasurements (index : Nat) (transcript : List Byte) (s : State) : Out :=
  .next <|
    let ms := if index = 255 then seqFrom 1 8 else if 1 ≤ index ∧ index ≤ 8 then [index] else []
    if !s.hearthReady then s
    else if s.hd.negotiated ∧ ms ≠ [] then
      s.answer aMEASURE true (ms.flatMap s.measurement ++ s.sign transcript)
    else s.answer aMEASURE false []

/-- SET_ENDPOINT_ID (R445). -/
def execSetEndpointId (eid : BitVec 8) (s : State) : Out :=
  .next (if s.hearthReady then s.setHd { s.hd with eid := eid.toNat } else s)

/-- I3C_DYNAMIC_ADDRESS: SETDASA or ENTDAA assigns one, RSTDAA takes it back (R444). -/
def execI3cDynamicAddress (addr : Option (BitVec 7)) (s : State) : Out :=
  .next (if s.hearthReady then s.setHd { s.hd with dynamic := addr.map BitVec.toNat } else s)

/-! ## Edge dies (R453, R454) -/

/-- The result of a die's check: its vendor code and failing step, 0 for none. The manifest's digest is a free value (log
entry 6). -/
def State.admitDie (s : State) (n vendor step : Nat) : State :=
  if step = 0 then
    let d := s.draw
    let s := d.2.setHd { d.2.hd with meas := SMap.set 0 d.2.hd.meas (5 + n) (d.1 % 2 ^ 256) }
    (s.setReg .EDADMIT n (vendor % 2 ^ 16 * 2 ^ 16 + 1)).log .edgeAdmitted 0 []
  else
    let s := s.setHd { s.hd with meas := SMap.set 0 s.hd.meas (5 + n) 0 }
    let s := s.setReg .EDADMIT n (vendor % 2 ^ 16 * 2 ^ 16 + step % 8 * 16 + 2)
    (s.fenceDiePorts n).log .edgeRejected 0 (leBytes 1 step)

/-- Ports that only a rejection had fenced are DOWN again once their die is admitted. -/
def State.unfenceDie (s : State) (n : Nat) : State :=
  if s.dieCut n then s
  else
    let s := (List.range 12).foldl (fun (u : State) k =>
      let p := portOf n k
      if u.pstate p = 7 ∧ (u.role p).isSome then u.put F.PORTSTAT_STATE p 0 else u) s
    s.laserEn n

/-- EDGE_ADMISSION of edge die `n`. -/
def execEdgeAdmission (n vendor step : Nat) (s : State) : Out :=
  within n 4 <| .next <|
    if !s.hearthReady || !(s.active || decide (s.get F.PWRSTAT_STATE 0 < 2)) then s
    else
      let was := s.get F.EDADMIT_STATE n
      let s := s.admitDie n vendor (min step 4)
      if was = 2 ∧ step = 0 then s.unfenceDie n else s

end Sys2Proof.Machine
end

