-- ==== Sys2Proof/Machine/Governor.lean ====
section
/-! DEFINITION. The power governor, sprint, temperature sensors, the throttle, the rate trip and the thermal shutdown
(chapter 14). Powers, temperatures and times come with the commands. -/

namespace Sys2Proof.Machine

/-! ## The refill (R371 to R373) -/

/-- Die `d` takes its costs from GOVCOST (R373). -/
def State.loadCosts (s : State) (d : Nat) : State :=
  s.setGov d { s.gov d with costs := (List.range 17).map fun k => s.get F.GOVCOST_COST k }

/-- Die `d` sprints: the module does, and the die's clock is not set below 1.8 GHz (R380, R382). -/
def State.dieSprints (s : State) (d : Nat) : Bool :=
  decide (s.get F.GOVSTAT_SPRINT d = 1) && decide (18 ≤ s.get F.GOVSTAT_FREQ d)

/-- REF before the halving of R379 and the factor F: DIEREF's, or the raised one of a sprint (R380). -/
def State.refBase (s : State) (d : Nat) : Nat :=
  if s.dieSprints d then (s.gov d).sprintRef else s.get F.DIEREF_REF d

/-- The refill in force, as GOVSTAT.REF shows it (R371, R379, R387). -/
def State.refOf (s : State) (d : Nat) : Nat :=
  let r := s.refBase d
  (if s.get F.GOVSTAT_OVER d = 1 then r / 2 else r) * s.get F.GOVSTAT_THRF d / 8

/-- The tiles of die `d` that hold a balance: unfenced, with a launched, unended context (R371). -/
def State.holders (s : State) (d : Nat) : List Nat :=
  let live := fun (x : Ctx) => decide (x.run = .running) || decide (x.run = .stopping)
  (s.tiles.filter fun e => decide (s.cdieOf e.1 = d) && (live e.2.ctxF || live e.2.ctxL) && !s.tileFenced e.1).map Prod.fst

/-- A written REF is used from the next refill on (R9, Table 19-6). -/
def State.takeDieref (s : State) (d : Nat) : State :=
  match s.ask .DIEREF d with
  | some a => (s.put F.DIEREF_REF d (a.value % 2 ^ 28)).askDone .DIEREF d
  | none => s

/-- One tile's refill: its balance, and what it leaves to the pool. -/
def refillTile (share credit : Nat) : Nat × Nat :=
  let b := min (credit + share) (2 * share)
  (b, credit + share - b)

/-- The tiles of die `d` whose M instruction has rows to start. -/
def State.inRows (s : State) (d : Nat) : List Nat :=
  (s.tiles.filter fun e => decide (s.cdieOf e.1 = d) && e.2.inRows.isSome).map Prod.fst

/-- Rows go on in the tiles of die `d` where no other operation waits for the balance. -/
def State.rowsGoOn (s : State) (d : Nat) : State :=
  (s.inRows d).foldl (fun (u : State) t => if (u.tile t).want = 0 then u.takeRows t else u) s

/-- The forced duty in force on die `d`, as GOVSTAT.DUTY shows it (R376, R385). -/
def State.dutyOf (s : State) (d : Nat) : Nat :=
  let susp := s.get F.SENSSUSP_SUSPECT d
  let dark := (List.range 16).any fun q =>
    let y := 2 * (2 * (q / 8) + q % 2)
    let x := 2 * (q / 2 % 4)
    bit susp (8 * y + x) && bit susp (8 * y + x + 1) && bit susp (8 * y + 8 + x) && bit susp (8 * y + 9 + x)
  if s.get F.GOVSTAT_RATE d = 1 ∨ dark then 8 else 0

/-- The pauses of the last microsecond on die `d` that no command told of: under a forced duty, and the cycles that
operations have waited for credit; a free number (R374, log entry 5). -/
def State.countPauses (s : State) (d : Nat) : State :=
  if s.dutyOf d ≠ 0 ∨ (s.tiles.any fun e => decide (s.cdieOf e.1 = d) && decide (s.deficit e.1 ≠ 0)) then
    let x := s.drawTime
    x.2.bump F.PAUSECNT_PAUSES d x.1
  else s

/-- What the tiles of die `d` asked of the pool lapses: each asks again for what it lacks then. -/
def State.askAnew (s : State) (d : Nat) : State :=
  (s.tiles.filter fun e => decide (s.cdieOf e.1 = d) && decide (e.2.want ≠ 0)).foldl
    (fun (u : State) e => u.setTile e.1 { u.tile e.1 with want := 0 }) s

/-- GOV_REFILL of die `d`, every 1 µs. -/
def execGovRefill (d : Nat) (s : State) : Out :=
  within d 8 <| .next <|
    let s := (s.takeDieref d).loadCosts d
    if !s.active then s
    else
      let s := s.countPauses d
      let r := s.refOf d
      let ts := s.holders d
      let share := if ts = [] then 0 else r / ts.length
      let above := ts.foldl (fun a t => a + (refillTile share (s.tile t).credit).2) 0
      let s := ts.foldl (fun (u : State) t => u.setTile t { u.tile t with credit := (refillTile share (u.tile t).credit).1 }) s
      let g := s.gov d
      let s := s.setGov d { g with share := share, pool := min (g.pool + (r - share * ts.length) + above) r }
      (s.rowsGoOn d).askAnew d

/-- The pool covers tile `t`'s deficit: for the operation that asked, else for its next row, which starts. -/
def State.grantTile (s : State) (t : Nat) : State :=
  let x := s.tile t
  let n := s.deficit t
  let s := s.setTile t { x with credit := x.credit + n, want := 0 }
  let d := s.cdieOf t
  let g := s.gov d
  let s := s.setGov d { g with pool := g.pool - n, last := t + 1 }
  if x.want = 0 then s.takeRows t else s

/-- POOL_GRANT on die `d`, one in each CCLK: rows that are covered start; the pool serves the first tile in rotation whose
whole deficit it covers (R372). -/
def execPoolGrant (d : Nat) (s : State) : Out :=
  within d 8 <| .next <|
    let s := s.rowsGoOn d
    let g := s.gov d
    let ok := fun (e : Nat × Tile) =>
      decide (s.cdieOf e.1 = d) && decide (0 < s.deficit e.1) && decide (s.deficit e.1 ≤ g.pool)
    let ts := s.tiles.filter ok
    match (ts.filter fun e => decide (g.last ≤ e.1)) ++ ts.filter fun e => decide (e.1 < g.last) with
    | [] => s
    | e :: _ => s.grantTile e.1

/-! ## The power limit (R377 to R379) -/

/-- Eight times DIELIM of die `d` in mW (R377, R380). -/
def State.limit8 (s : State) (d : Nat) : Nat :=
  (if s.dieSprints d then 2600 - 976 else s.get F.POWERCAP_WATTS 0 - 976) * 1000 - (s.gov d).excess

/-- Bounds of REF (R377). -/
def clampRef (r : Nat) : Nat := min (max r 10000000) 268435455

/-- One step of REF toward the limit, by a free amount of at most one eighth (log entry 6). -/
def State.stepRef (s : State) (d mw : Nat) : State :=
  let r := s.refBase d
  let x := s.draw
  let by_ := x.1 % (r / 8 + 1)
  let lim := s.limit8 d
  let r' := clampRef (if 8 * mw < lim then r + by_ else if lim < 8 * mw then r - by_ else r)
  if s.get F.GOVSTAT_OVER d = 1 then s
  else if s.dieSprints d then x.2.setGov d { s.gov d with sprintRef := r' }
  else x.2.put F.DIEREF_REF d r'

/-- A waiting POWERCAP takes effect (R378). -/
def State.takePowercap (s : State) : State :=
  match s.ask .POWERCAP 0 with
  | some a =>
    let s := s.put F.POWERCAP_SPRINTEN 0 (bits a.value 12 12)
    let w := bits a.value 10 0
    (if 1200 ≤ w ∧ w ≤ 2000 then s.put F.POWERCAP_WATTS 0 w else s).askDone .POWERCAP 0
  | none => s

/-- A bound ends a sprint of `us` µs (R381). Bounds as in SPRSTAT.LASTCAP. -/
def State.endSprint (s : State) (bound us win : Nat) : State :=
  if s.sprinting then ((s.sprintOff us win).put F.SPRSTAT_LASTCAP 0 bound).log .sprintCap 0 (leBytes 1 bound) else s

/-- The same where the command does not tell how long the sprint was: free times (log entry 5). -/
def State.cutSprint (s : State) (bound : Nat) : State :=
  if s.sprinting then
    let d := s.drawTime
    let e := d.2.drawTime
    e.2.endSprint bound d.1 e.1
  else s

/-- A waiting POWERCAP takes effect, and a cap that no sprint may meet ends the sprint (R378, R381). -/
def State.powercapNow (s : State) : State :=
  let s := s.takePowercap
  if s.get F.POWERCAP_WATTS 0 < 2000 ∨ s.get F.POWERCAP_SPRINTEN 0 = 0 then s.cutSprint 4 else s

/-- HEARTH_POWER_STEP, every 1 ms: the rail power of each compute die in mW, and the module's input in mW averaged over
10 ms whenever ten have passed. -/
def execHearthPowerStep (powers : List Nat) (input : Option Nat) (s : State) : Out :=
  .next <|
    if !s.hearthReady then s
    else
      let s := s.powercapNow
      if !s.active then s
      else
        let s := match input with
          | some mw => (List.range 8).foldl (fun (u : State) d =>
              u.setGov d { u.gov d with excess := mw - u.get F.POWERCAP_WATTS 0 * 1000 }) s
          | none => s
        (List.range 8).foldl (fun (u : State) d => match powers[d]? with
          | some mw => u.stepRef d mw
          | none => u) s

/-- POWER_OVER: the input has exceeded 2,600 W over 50 µs (R379). -/
def execPowerOver (s : State) : Out :=
  .next <|
    if !s.active then s
    else
      let s := (List.range 8).foldl (fun (u : State) d => u.put F.GOVSTAT_OVER d 1) (s.cutSprint 4)
      State.log { s with power := { s.power with fault := true } } .powerOver 0 []

/-- POWER_OVER_CLEAR: 10 ms below 2,000 W; steps start again from the halved value (R379). -/
def execPowerOverClear (s : State) : Out :=
  .next ((List.range 8).foldl (fun (u : State) d =>
    if u.get F.GOVSTAT_OVER d = 1 then (u.put F.DIEREF_REF d (u.get F.DIEREF_REF d / 2)).put F.GOVSTAT_OVER d 0 else u) s)

/-! ## Sprint (R380 to R382) -/

/-- Every bound of R381 permits a sprint, with `win` µs of sprint time in the last 100 ms. -/
def State.sprintAllowed (s : State) (win : Nat) : Bool :=
  s.active && s.hearthReady && decide (s.get F.POWERCAP_SPRINTEN 0 = 1) && decide (s.get F.POWERCAP_WATTS 0 = 2000)
  && decide (win < 10000) && decide (s.get F.SPRWEAR_SECONDS 0 < 129600) && decide (s.power.band = .full)
  && ((List.range 8).all fun d => decide (s.get F.GOVSTAT_WARN d = 0) && decide (s.get F.GOVSTAT_OVER d = 0))
  && (seqFrom 16 12).all fun u => decide (SMap.get 0 s.power.trips u / 2 % 2 = 0)

/-- SPRINT_START: some die has paused for credit in over 5 % of a millisecond (R380). GOVSTAT.SPRINT of every die says that the
module sprints; a die whose clock is set below 1.8 GHz does not (R382). -/
def execSprintStart (win : Nat) (s : State) : Out :=
  .next <|
    if s.sprinting || !s.sprintAllowed win then s
    else
      (List.range 8).foldl (fun (u : State) d =>
        let r := u.get F.DIEREF_REF d
        let r' := if u.get F.GOVSTAT_FREQ d = 18 then min (r * 203 / 128) 268435455 else r
        (u.setGov d { u.gov d with sprintRef := r' }).put F.GOVSTAT_SPRINT d 1) (s.put F.SPRSTAT_WINUS 0 win)

/-- SPRINT_CCLK_CHANGE: the core rail has risen. -/
def execSprintCclkChange (s : State) : Out :=
  .next <|
    if s.sprinting then
      (List.range 8).foldl (fun (u : State) d => if u.get F.GOVSTAT_FREQ d = 18 then u.put F.GOVSTAT_FREQ d 20 else u) s
    else s

/-- SPRINT_END: a bound is reached after `us` µs of sprint, `win` µs of the last 100 ms. -/
def execSprintEnd (bound us win : Nat) (s : State) : Out :=
  .next (if 1 ≤ bound ∧ bound ≤ 4 then s.endSprint bound us win else s)

/-- DAILY_BUCKET_ROLLOVER (R381). -/
def execDailyBucketRollover (s : State) : Out :=
  .next <|
    if s.hearthReady then
      let w := 0 :: s.power.wear.take 29
      State.put { s with power := { s.power with wear := w } } F.SPRWEAR_SECONDS 0 (wearSeconds w)
    else s

/-! ## Sensors (R383 to R386). Units: compute dies 0–7, base dies 8–11, edge dies 12–15, stacks 16–27 -/

def sensorCount (u : Nat) : Nat := if u < 8 then 64 else if u < 12 then 16 else if u < 16 then 12 else 1

/-- The neighbours of a sensor in its unit's grid. -/
def neighbours (u i : Nat) : List Nat :=
  let w := if u < 8 then 8 else if u < 12 then 4 else if u < 16 then 12 else 1
  let n := sensorCount u
  (if w ≤ i then [i - w] else []) ++ (if i + w < n then [i + w] else [])
  ++ (if i % w ≠ 0 then [i - 1] else []) ++ (if i % w + 1 < w then [i + 1] else [])

def State.sensor (s : State) (u i : Nat) : Sensor := SMap.get Sensor.reset s.sensors (64 * u + i)
def State.setSensor (s : State) (u i : Nat) (x : Sensor) : State :=
  { s with sensors := SMap.set Sensor.reset s.sensors (64 * u + i) x }

/-- The suspect sensors of a unit, one bit each. -/
def State.suspects (s : State) (u : Nat) : Nat := if u < 8 then s.get F.SENSSUSP_SUSPECT u else SMap.get 0 s.power.susp u

/-- A sensor becomes suspect. -/
def State.suspect (s : State) (u i : Nat) : State :=
  let v := setBits (s.suspects u) i i 1
  if u < 8 then s.put F.SENSSUSP_SUSPECT u v else { s with power := { s.power with susp := SMap.set 0 s.power.susp u v } }

/-- Insert a reading in rising order. -/
def insertInt (x : Int) : List Int → List Int
  | [] => [x]
  | y :: ys => if x ≤ y then x :: y :: ys else y :: insertInt x ys

/-- The median; of an even number, the larger of the two middle readings (R384). -/
def medianInt (xs : List Int) : Int := (xs.foldr insertInt [] )[xs.length / 2]?.getD 0

def maxInt : List Int → Option Int
  | [] => none
  | x :: xs => some (xs.foldl max x)

/-- What the sensors of a unit read. -/
abbrev Readings := List Int

/-- The reading of sensor i; readings a command does not give are 0 °C. -/
def Readings.at (r : Readings) (i : Nat) : Int := r.getD i 0

/-- The sensor's new count of outlying samples (R384). -/
def State.outlying (s : State) (u : Nat) (r : Readings) (i : Nat) : Nat :=
  let susp := s.suspects u
  let ns := (neighbours u i).filter fun k => !bit susp k
  if bit susp i ∨ ns.length < 2 then 0
  else
    let m := medianInt (ns.map (Readings.at r))
    if 160 < (r.at i - m).natAbs then (s.sensor u i).off + 1 else 0

/-- The rise of a sensor over its last 100 samples (R389). -/
def State.rise (s : State) (u : Nat) (r : Readings) (i : Nat) : Int :=
  match (s.sensor u i).history with
  | [] => 0
  | x :: xs => r.at i - xs.foldl min x

/-- What a sensor shows: its reading, or a suspect's replacement; free where no sensor of the unit is valid (log
entry 6). -/
def State.shown (s : State) (u : Nat) (r : Readings) (i : Nat) : Int :=
  let susp := s.suspects u
  let top := fun (ks : List Nat) => maxInt ((ks.filter fun k => !bit susp k).map (Readings.at r))
  if !bit susp i then r.at i
  else match top (neighbours u i) with
    | some x => x + 80
    | none => match top (List.range (sensorCount u)) with
      | some x => x + 80
      | none => Int.ofNat (Config.unspecified (s.free + i) % 2 ^ 15)

/-- A temperature as TSENS and TOTHER show it. -/
def tempBits (x : Int) : Nat := (x % 2 ^ 16).toNat

/-- A die index in TOTHER order (Table 17-4); a compute die has none, and its UNIT is free (log entry 6). -/
def State.logDie (s : State) (ev : Ev) (u : Nat) (data : List Byte) : State :=
  if u < 8 then
    let d := s.draw
    d.2.log ev (d.1 % 2 ^ 16) data
  else s.log ev (if u < 16 then u + 4 else u - 16) data

/-! ## Thresholds (Tables 14-2 and 14-3) and the shutdown -/

/-- Warning trip and clear, throttle trip and clear, shutdown, in °C. -/
def thresholds (u : Nat) : Int × Int × Int × Int × Int :=
  if u < 12 then (95, 90, 105, 100, 120) else (85, 80, 95, 90, 105)

def State.trip (s : State) (u b : Nat) : Bool :=
  if u < 8 then decide (s.get (if b = 0 then F.GOVSTAT_WARN else F.GOVSTAT_THROTTLE) u = 1)
  else bit (SMap.get 0 s.power.trips u) b

def State.setTrip (s : State) (u b : Nat) (on : Bool) : State :=
  if u < 8 then s.put (if b = 0 then F.GOVSTAT_WARN else F.GOVSTAT_THROTTLE) u (b2n on)
  else { s with power := { s.power with trips := SMap.set 0 s.power.trips u (setFlag (SMap.get 0 s.power.trips u) b on) } }

/-- One threshold of a unit at temperature `t` (1/16 °C). -/
def State.judge (s : State) (u b : Nat) (trip clear t : Int) : State :=
  if 16 * trip ≤ t ∧ ¬ s.trip u b then (s.setTrip u b true).logDie (if b = 0 then .thermWarning else .thermThrottle) u []
  else if t ≤ 16 * clear ∧ s.trip u b then s.setTrip u b false
  else s

/-- The rate trip of a compute die (R389). -/
def State.rateTrip (s : State) (u : Nat) (rises : List Int) : State :=
  let g := s.gov u
  let fires := rises.any fun x => decide (240 ≤ x)
  let calm := rises.all fun x => decide (x < 80)
  if s.get F.GOVSTAT_RATE u = 1 then
    if calm ∧ 499 ≤ g.stable then (s.setGov u { g with stable := 0 }).put F.GOVSTAT_RATE u 0
    else s.setGov u { g with stable := if calm then g.stable + 1 else 0 }
  else if fires then ((s.setGov u { g with stable := 0 }).put F.GOVSTAT_RATE u 1).logDie .rateTrip u []
  else s

/-- The dies that hold sensors of a unit are powered. -/
def State.sampled (s : State) (u : Nat) : Bool := s.active || (decide (8 ≤ u) && decide (s.get F.PWRSTAT_STATE 0 = 6))

/-- The shutdown at temperature `t` (R390). -/
def State.overheated (s : State) (u : Nat) (t : Int) : State :=
  let d := s.draw
  let unit := if u < 8 then d.1 % 2 ^ 16 else if u < 16 then u + 4 else u - 16
  (if u < 8 then d.2 else s).shutDown unit (leBytes 2 (tempBits t))

/-- SENSOR_SAMPLE of a unit: readings in 1/16 °C, in the order of its sensors. -/
def execSensorSample (u : Nat) (r : List Int) (s : State) : Out :=
  within u 28 <| .next <|
    if !s.sampled u then s
    else
      let is := List.range (sensorCount u)
      let offs := is.map fun i => (i, s.outlying u r i)
      let rose := is.map fun i => (i, s.rise u r i)
      let s := offs.foldl (fun (v : State) (i, n) =>
        let v := v.setSensor u i { history := (Readings.at r i :: (v.sensor u i).history).take 100, off := n }
        if 8 ≤ n ∧ ¬ bit (v.suspects u) i then (v.suspect u i).logDie .sensorSuspect u [] else v) s
      let shown := is.map (s.shown u r)
      let t := (maxInt shown).getD 0
      let s : State := { s with free := s.free + 64 }
      let s := if u < 8 then (is.zip shown).foldl (fun (v : State) (i, x) => v.put F.TSENS_TEMP (64 * u + i) (tempBits x)) s
        else s.put F.TOTHER_TEMP (if u < 16 then u + 4 else u - 16) (tempBits t)
      let s := if u < 8 then s.rateTrip u ((rose.filter fun e => !bit (s.suspects u) e.1).map Prod.snd) else s
      let th := thresholds u
      let s := (s.judge u 0 th.1 th.2.1 t).judge u 1 th.2.2.1 th.2.2.2.1 t
      let s := if (u < 8 ∧ s.trip u 0) ∨ (16 ≤ u ∧ s.trip u 1) then s.cutSprint 2 else s
      if 16 * th.2.2.2.2 ≤ t then s.overheated u t else s

/-- THERMAL_SHUTDOWN: unit `u` reads `t` (1/16 °C), at or above its shutdown threshold (R388, R390). -/
def execThermalShutdown (u : Nat) (t : Int) (s : State) : Out :=
  within u 28 <| .next (if s.sampled u ∧ 16 * (thresholds u).2.2.2.2 ≤ t then s.overheated u t else s)

/-- THROTTLE_FACTOR_STEP of die `d`: F falls to 2/8 while its throttle or that of the base die below is tripped, else rises
to 8/8 (R387, Table 14-3). -/
def execThrottleFactorStep (d : Nat) (s : State) : Out :=
  within d 8 <| .next <|
    let f := s.get F.GOVSTAT_THRF d
    if s.trip d 1 || s.trip (8 + d / 2) 1 then (if 2 < f then s.put F.GOVSTAT_THRF d (f - 1) else s)
    else if f < 8 then s.put F.GOVSTAT_THRF d (f + 1)
    else s

end Sys2Proof.Machine
end

