-- ==== Sys2Proof/Machine/Power.lean ====
section
/-! DEFINITION. Cold and warm resets, the exit from Deep, the power and reset pins, the input bands and the clocks
(chapters 19 and 20). What the dies, links and tests show at a start comes with the command (`Start`). -/

namespace Sys2Proof.Machine

def State.setPower (s : State) (p : Power) : State := { s with power := p }

/-! ## Bringing the module up (Table 19-2 steps 4 to 9, R475) -/

/-- The enabled-tile numbering closes the gaps of permanently fenced tiles and clusters (R398). -/
def State.renumber (s : State) : State :=
  let gone := fun (slot : Nat) => s.permanent (2 * 2 ^ 16 + slot) || s.permanent (slot / Config.tilesPerCluster)
  let r := (List.range Config.tiles).filter gone
  State.put { s with removed := r } F.CAPTILE_TILES 0 (Config.tiles - r.length)

/-- A channel is active after this reset (R215, R235). -/
def State.willBeActive (s : State) (m : Nat) : Bool := decide (s.get F.MCHMAP_MAPOUT m = 0)

/-- The active list and the capacity are built again (R215, R235). -/
def State.rebuild (s : State) : State :=
  let n := ((List.range Config.channels).filter s.willBeActive).length
  let s := (List.range Config.channels).foldl (fun (u : State) m =>
    u.put F.MCHMAP_ACTIVE m (1 - u.get F.MCHMAP_MAPOUT m)) s
  (s.put F.CAPMEM_NCHAN 0 n).put F.CAPMEM_CAPACITY 0 (n * 4831838208)

/-- The active list changes at this reset (R235). -/
def State.listChanges (s : State) : Bool :=
  (List.range Config.channels).any fun m => decide (s.get F.MCHMAP_ACTIVE m = s.get F.MCHMAP_MAPOUT m)

/-- Edge dies are admitted and their attachments trained (R453, R501). -/
def State.admitAll (s : State) (o : Start) : State :=
  let s := (List.range 4).foldl (fun (u : State) n =>
    let d := o.dies.getD n (0, 0)
    u.admitDie n d.1 (min d.2 4)) s
  o.links.foldl (fun (u : State) l =>
    if l.1 < 16 ∧ u.get F.EDADMIT_STATE (l.1 / 4) = 1 then u.bringLink l.1 l.2 else u) s

/-- The channels of a fenced stack are mapped out (R236, R404). -/
def State.mapOutStack (s : State) (k : Nat) : State :=
  (seqFrom (16 * k) 16).foldl (fun (u : State) m => u.put F.MCHMAP_MAPOUT m 1) s

/-- A margin test that runs at this start: at a warm reset, the channel row only on channels that are OUT and on those
whose MAPOUT changes (R476). -/
def State.runsAt (s : State) (warm : Bool) : MFail → Bool
  | .channel m => !warm || decide (s.service m = 2) || decide (s.get F.MCHMAP_ACTIVE m = s.get F.MCHMAP_MAPOUT m)
  | _ => true

/-- The failing tests name their tiles as numbered when the command came; after the numbering has closed its gaps, the same
slots have other numbers, and removed ones none (R398). -/
def State.renamed (s old : State) (fails : List MFail) : List MFail :=
  fails.filterMap fun f => match f with
    | .tile t => (s.tileInSlot (old.slotOf t)).map MFail.tile
    | .array t => (s.tileInSlot (old.slotOf t)).map MFail.array
    | f => some f

/-- The channels of stacks that were fenced are mapped out (R236, R404). -/
def State.mapOutStacks (s : State) (still : List Nat) : State :=
  let ks := (List.range 12).filter fun k => s.power.outs.contains k || still.contains (4 * 2 ^ 16 + k)
  let s := ks.foldl (fun (u : State) k => u.mapOutStack k) s
  { s with power := { s.power with outs := [] } }

/-- The fences that stay, the dies, the links, the margin tests `fails`, the interleave and the zero-fill, the ports. `still`
are the units that stay fenced (R398, R472, R475). -/
def State.bring (s : State) (o : Start) (still : List Nat) (fails : List MFail) (warm : Bool) : State :=
  let old := s
  let s := (s.releaseSpares.renumber).mapOutStacks still
  let s := still.foldl (fun (u : State) x => u.setFence x true) s
  let s := s.admitAll o
  let s := s.marginTests ((s.renamed old fails).filter fun f => match s.failUnit f with
    | some u => !still.contains u
    | none => true)
  let changes := s.listChanges
  let s := s.rebuild
  let s := if warm && !changes then s else { s with mem := s.mem.zeroFill }
  let s := (List.range 8).foldl (fun (u : State) d => u.loadCosts d) s.portsStart
  s.setReg .PWRSTAT 0 3

/-! ## Cold reset (R471, R472) -/

/-- The straps are sampled, 11 bits; TWIN_ROLE settles ROLE (R416, R471). -/
def State.sampleStraps (s : State) (straps : Nat) : State :=
  let v := straps % 2 ^ 11
  ((s.setReg .STRAPS 0 v).put F.TWINSTAT_ROLE 0 (v / 2 ^ 10)).put F.TWINSTAT_CONFLICT 0 0

/-- Registers whose home is fuses or image slots, not the configuration store. -/
def Reg.fused : Reg → Bool
  | .HDFUSE | .HDVER => true
  | _ => false

/-- Without a valid copy of the configuration store, every S3 register, penalty and wear bucket starts at its default and
CONFIG_LOST is logged (R437). The tile numbering has its gaps no more. -/
def State.loseStore (s : State) : State :=
  let s := s.clearRegs fun r => decide (r.spec.surv = .s3) && !r.fused
  State.log { s with penalty := [], hd := { s.hd with saved := [] },
                     power := { s.power with wear := List.replicate 30 0, fails := [] } } .configLost 0 []

/-- When every margin test of a cold reset passes, an expelled module requalifies (R415). -/
def State.requalify (s : State) (fails : List MFail) : State :=
  if s.get F.HEALTHFLAG_EXPELLED 0 = 1 ∧ fails = [] then
    let s : State := { s with penalty := SMap.mapv 0 s.penalty fun _ p => min p (500 * 2 ^ 32) }
    (s.put F.HEALTHFLAG_EXPELLED 0 0).log .requalified 0 (leBytes 2 s.moduleScore)
  else s

/-- A cold reset may run: the pins, the input and HREFCLK allow it (R471, R473, R488). -/
def State.mayStart (s : State) : Bool :=
  !s.power.modReset && s.power.pwrEn && (decide (s.power.band = .full) || decide (s.power.band = .limited)) && s.power.hrefclk

/-- Only the fences held in S3 outlive a cold reset (Table 19-4). -/
def State.heldFences (s : State) : List Nat := (s.power.fails.filter fun e => decide (3 ≤ e.2)).map Prod.fst

/-- What a cold reset notes before it runs: the cause, the boot count, and the fences that stay (R472, R473). -/
def State.coldNotes (s : State) : State :=
  let s := (s.put F.RSTCAUSE_COLD 0 s.power.cause).put F.RSTCAUSE_WARM 0 0
  (s.put F.RSTCAUSE_NCOMPUTE 0 0).setHd { s.hd with boots := (s.hd.boots + 1) % 2 ^ 16, usec := 0 }

/-- The pin's fault and the cause are over; only held fences keep their failures (Table 19-4). -/
def State.coldPower (s : State) : State :=
  s.setPower { s.power with fault := false, shutdown := false, cause := 0,
                            fails := SMap.keep s.power.fails fun u => s.heldFences.contains u }

/-- Steps 1 and 2: the straps are sampled, the store is read, Hearth boots (R437, R471, R472). -/
def State.coldBoot (s : State) (o : Start) : State :=
  if o.store then (s.sampleStraps o.straps).bootHearth o.ready
  else (s.sampleStraps o.straps).loseStore.bootHearth o.ready

/-- Steps 3 on, once Hearth runs; without its reference clock a module reports a fault (R472, R473). -/
def State.coldBring (s : State) (o : Start) : State :=
  if s.get F.HDSTAT_STATE 0 ≠ 1 then s
  else if !o.refclk then { s with power := { s.power with fault := true } }
  else (s.loadComponents.bring o s.heldFences o.fails false).requalify o.fails

/-- Hearth boots where it does not run yet. -/
def State.coldHearth (s : State) (o : Start) : State :=
  if s.get F.HDSTAT_STATE 0 = 1 then s else s.coldBoot o

/-- The cold-reset sequence from step 3 on, or from step 1 where Hearth does not run (R472). -/
def State.coldStart (s : State) (o : Start) : State :=
  (s.coldNotes.coldPower.coldHearth o).coldBring o

/-- COLD_RESET. A module that was up goes down first, for a cause unknown. -/
def execColdReset (o : Start) (s : State) : Out :=
  .next <|
    if !s.mayStart then s
    else if s.get F.PWRSTAT_STATE 0 = 0 then s.coldStart o
    else (s.allDown false).coldStart o

/-! ## Warm reset and Deep (R475, R476, R481) -/

/-- Registers a warm reset returns to their defaults: S0 and S1. -/
def Reg.warmClears (r : Reg) : Bool := (decide (r.spec.surv = .s0) && !r.held) || decide (r.spec.surv = .s1)

/-- WARM_RESET by the host or Hearth, from any state that runs or from Nap; else a write without effect (R470, R475,
R482). -/
def State.warmReset (s : State) (hearth : Bool) (o : Start) : State :=
    if !s.active ∧ s.get F.PWRSTAT_STATE 0 ≠ 6 then s.noEffect hearth .RSTCTL 0
    else
      let fails := o.fails.filter (s.runsAt true)
      let r := s.stopJob.haltGens.retest o.fails
      let s := r.1.writeBackCache
      let s := (s.clearRegs Reg.warmClears).clearTwin.clearPeer
      let s := { s with fab := { Fabric.reset with tick := s.fab.tick }, rops := [], refusing := [], rx := [], shut := [],
                        retrains := [], training := [], sfcnt := [], frames := [], plan := none, sensors := [], govs := [], gens := [],
                        host := { HostLink.reset with evPhase := s.host.evPhase },
                        twin := { s.twin with got := [], notice := none },
                        power := { s.power with trips := [], lost := [] } }
      let s := s.put F.RSTCAUSE_WARM 0 (if hearth then 2 else 1)
      (s.loadComponents.bring o r.2 fails true).saveHealth

def execWarmReset (hearth : Bool) (o : Start) (s : State) : Out :=
  .next (s.warmReset hearth o)

/-- What Deep discards: registers marked DEFAULTS, fabric streams, tags, tiles, counters (Table 19-4). -/
def State.deepLoss (s : State) : State :=
  let s := s.clearRegs fun r => decide (r.spec.deep = .defaults) && !r.held
  { s with fab := { Fabric.reset with tick := s.fab.tick }, tiles := [], counters := [], tasks := [], chans := [],
           engines := [], arrivals := [], rops := [], tags := [], puts := [], dwHeld := [], drainDue := none, govs := [],
           gens := [], sensors := [], refusing := [], rx := [], shut := [], retrains := [], training := [], sfcnt := [], frames := [],
           plan := none, host := .reset,
           twin := { s.twin with got := [], sent := [], notice := none, shadows := [], theirs := [] },
           power := { s.power with gated := [], trips := [], lost := [] } }

/-- LEAVE_DEEP, by Hearth only: neither margin tests nor zero-fill run (R481, R482). -/
def State.leaveDeep (s : State) (hearth : Bool) (o : Start) : State :=
    if !hearth ∨ s.get F.PWRSTAT_STATE 0 ≠ 9 then s.noEffect hearth .RSTCTL 0
    else
      let s := ((s.askDone .RSTCTL 0).deepLoss.clearTwin.clearPeer.admitAll o).portsStart
      let s := (List.range 8).foldl (fun (u : State) d => u.loadCosts d) s
      (s.setReg .PWRSTAT 0 3).put F.PWRSTAT_DEFAULTS_RESTORED 0 1

def execLeaveDeep (hearth : Bool) (o : Start) (s : State) : Out :=
  .next (s.leaveDeep hearth o)

/-! ## Pins, input and clocks (R436, R473, R488, R490, R491) -/

/-- MOD_RESET_N goes low, and everything stops, or high, and COLD_RESET may follow. -/
def execModResetN (low : Bool) (s : State) : Out :=
  .next <|
    if low then (State.setPower (s.allDown false) { (s.allDown false).power with modReset := true, fault := false }).downFor 3
    else s.setPower { s.power with modReset := false }

/-- PWR_EN is deasserted, and Hearth stops with everything else, or asserted (R436). -/
def execPwrEn (on : Bool) (s : State) : Out :=
  .next <|
    if on then s.setPower { s.power with pwrEn := true }
    else (State.setPower (s.allDown true) { (s.allDown true).power with pwrEn := false, fault := false }).downFor 2

/-- INPUT_LOSS: below 44 V or above 57 V; Hearth runs on unless the input is below 40 V (R488). -/
def execInputLoss (low40 : Bool) (s : State) : Out :=
  .next <|
    if low40 then (State.setPower (s.allDown true) { (s.allDown true).power with band := .gone, fault := false }).downFor 1
    else if s.power.band = .gone then s
    else
      let u := if s.get F.PWRSTAT_STATE 0 = 0 then s else s.islandOnly
      (u.setPower { u.power with band := .lost }).downFor 1

/-- INPUT_RESTORED: within 47.0–54.5 V for 100 ms; `full` where it is within 48–54 V. COLD_RESET may follow. -/
def execInputRestored (full : Bool) (s : State) : Out :=
  .next <|
    if s.power.band = .lost ∨ s.power.band = .gone then s.setPower { s.power with band := if full then .full else .limited }
    else s

/-- INPUT_OUT_OF_BAND: outside 48–54 V and inside the limits: sprint ends and is barred (Table 20-1). -/
def execInputOutOfBand (s : State) : Out :=
  .next <|
    if s.power.band = .full then (s.cutSprint 4).setPower { (s.cutSprint 4).power with band := .limited } else s

/-- INPUT_BACK_IN_RANGE. -/
def execInputBackInRange (s : State) : Out :=
  .next (if s.power.band = .limited then s.setPower { s.power with band := .full } else s)

/-- REFCLK_LOSS: absent for 10 µs in service; Hearth performs the shutdown of R390 (R473). -/
def execRefclkLoss (s : State) : Out :=
  .next (if s.hearthReady ∧ s.get F.PWRSTAT_STATE 0 ≠ 0 then s.shutDown 0 [0xFF] else s)

/-- POWERUP_COMMAND, with the highest of the interposer sensors in 1/16 °C: refused and logged unless every one reads below
90 °C (R391). -/
def execPowerupCommand (hottest : Int) (o : Start) (s : State) : Out :=
  .next <|
    if !s.power.shutdown || !s.hearthReady || !s.mayStart then s
    else if 16 * 90 ≤ hottest then s.log .powerupRefused 0 []
    else s.coldStart o

/-- FAULT_N_RELEASE: a management command (R491). -/
def execFaultNRelease (s : State) : Out :=
  .next (if s.hearthReady then s.setPower { s.power with fault := false } else s)

/-! ## Output pins (Table 20-2, R474, R491) -/

/-- PG is high (R474). -/
def State.pg (s : State) : Bool := s.active

/-- FAULT_N is low. -/
def State.faultN (s : State) : Bool := s.power.fault

/-- ALERT_N is low: a warning is tripped, or the input is outside 48–54 V. -/
def State.alertN (s : State) : Bool :=
  decide (s.power.band = .limited) || decide (s.power.band = .lost) || (List.range 28).any fun u => s.trip u 0

/-- THERM_N is low: a throttle or shutdown threshold is tripped. -/
def State.thermN (s : State) : Bool := s.power.shutdown || (List.range 28).any fun u => s.trip u 1

/-- LASER_EN[n] is high: an unpowered module drives it not (R286). -/
def State.laserPin (s : State) (n : Nat) : Bool := s.fabricOn && decide (s.get F.LASERSTAT_EN n = 1)

end Sys2Proof.Machine
end

