-- ==== Sys2Proof/Machine/Twin.lean ====
section
/-! DEFINITION. Twin operation (chapter 16): heartbeats and the peer's state, mirror writes at the twin, drain notice,
promotion and detach, host-link failover, and shadow comparisons. -/

namespace Sys2Proof.Machine

def State.setTwin (s : State) (x : Twin) : State := { s with twin := x }
def State.setTwinCounts (s : State) (m : SMap Nat) : State := s.setTwin { s.twin with got := m }

/-! ## Heartbeats (R416 to R418, R427, R435) -/

/-- The module is up as far as its bridge is concerned: it serves in Nap, not in Deep or a reset (R480, R483). -/
def State.bridgeServes (s : State) : Bool :=
  s.twin.present && (s.active || decide (s.get F.PWRSTAT_STATE 0 = 6)) && !s.twin.detached

/-- Some bridge port is UP. -/
def State.bridgeUp (s : State) : Bool := s.hostPortUp 0 || s.hostPortUp 1

/-- Every mirror write sent before the last reset has been acknowledged or discarded (R427). -/
def State.mirrorsSettled (s : State) : Bool :=
  s.rops.all fun o => match o.owner with
    | .mirror _ _ => decide (s.twin.mark ≤ o.id)
    | _ => true

/-- HEARTBEAT_SEND, every 10 µs: one on each UP bridge port. -/
def execHeartbeatSend (s : State) : Out :=
  .next <|
    if !s.bridgeServes then s
    else
      let shown := if s.mirrorsSettled then s.twin.resets else s.twin.shown
      let beat := fun (n : Nat) => Sent.heartbeat (40 + n) s.dev (s.get F.TWINSTAT_ROLE 0) (s.get F.DRAINSTAT_STATE 0) s.twin.launched shown
      let s := s.setTwin { s.twin with shown := shown }
      { s with sent := s.sent ++ (if s.hostPortUp 0 then [beat 0] else []) ++ (if s.hostPortUp 1 then [beat 1] else []) }

/-- The peer state a heartbeat reports: its drain first, then whether it has been launched (R417, R435). -/
def peerOf (drain : Nat) (launched : Bool) : Nat :=
  if drain = 1 then 3 else if drain = 2 then 4 else if launched then 1 else 6

/-- Both modules report the same role (R418). Neither accepts failover traffic from now on, so the module's own no longer runs
through its twin (DEDUCED, log 58). -/
def State.conflict (s : State) : State :=
  if s.get F.TWINSTAT_CONFLICT 0 = 1 then s
  else ((s.put F.TWINSTAT_CONFLICT 0 1).put F.TWINSTAT_FAILOVER 0 0).log .twinConflict 0 []

/-- HEARTBEAT_RECEIVED: the peer's device number, role, DRAINSTAT.STATE, launched bit and reset count. The numbers of
received mirror writes restart when the count is new or the peer was LOST (R427). -/
def execHeartbeatReceived (dev role drain : Nat) (launched : Bool) (resets : Nat) (s : State) : Out :=
  .next <|
    if !s.twin.present || !s.bridgeUp then s
    else
      let lost := decide (s.get F.TWINSTAT_PEER 0 = 2)
      let s := (s.put F.TWINSTAT_PEERDEV 0 dev).put F.TWINSTAT_PEER 0 (peerOf drain launched)
      let s := if role % 2 = s.get F.TWINSTAT_ROLE 0 then s.conflict else s
      if lost ∨ resets % 2 ^ 16 ≠ s.get F.MIRPEER_PEERGEN 0 then
        ((s.setTwinCounts []).put F.MIRPEER_PEERGEN 0 (resets % 2 ^ 16)).put F.MIRPEER_RECEIVED 0 0
      else s

/-- Unacknowledged mirror writes are discarded, with what their streams still hold of them (R426). -/
def State.discardMirrors (s : State) : State :=
  let isMir := fun (o : ROp) => match o.owner with
    | .mirror _ _ => true
    | _ => false
  let gone := s.rops.filter isMir
  let s := { s with rops := s.rops.filter fun o => !isMir o }
  let s := s.bump F.MIRCNT_COUNT 3 gone.length
  let mine := fun (m : OutMsg) => match m.rop with
    | some id => gone.any fun o => decide (o.id = id)
    | none => false
  let outs := s.fab.outs.map fun (x : OutStream) =>
    if s.fab.out.any fun m => mine m && decide (m.key = x.key) then { x with fresh := true } else x
  s.setFab { s.fab with out := s.fab.out.filter fun m => !mine m, outs := outs }

/-- PEER_LOST: no heartbeat has arrived on either port for 1 ms (R417, R426, R432). -/
def execPeerLost (s : State) : Out :=
  .next <|
    let p := s.get F.TWINSTAT_PEER 0
    if !s.twin.present ∨ p = 2 ∨ p = 5 then s
    else
      let s := (s.put F.TWINSTAT_PEER 0 2).discardMirrors.unprotect
      s.put F.TWINSTAT_FAILOVER 0 0

/-- TWIN_PRES_N changes (R416). -/
def execTwinPresN (low : Bool) (s : State) : Out :=
  .next <|
    let s := s.setTwin { s.twin with present := low }
    if low then s else (s.put F.TWINSTAT_PEER 0 0).put F.TWINSTAT_FAILOVER 0 0

/-! ## Mirror writes at the twin (R419 to R423) -/

/-- Window `w`. -/
def State.winValid (s : State) (w : Nat) : Bool := decide (s.get F.MIRWIN_VALID w = 1)
def State.winSrc (s : State) (w : Nat) : Nat := s.get F.MIRWIN_SRCBASE w * 2 ^ 16
def State.winLoc (s : State) (w : Nat) : Nat := s.get F.MIRWIN_LOCBASE w * 2 ^ 16
def State.winLen (s : State) (w : Nat) : Nat := s.get F.MIRWIN_LENGTH w * 2 ^ 16

/-- The valid window that covers [a, a + n) of the peer whole. -/
def State.windowOf (s : State) (a n : Nat) : Option Nat :=
  (List.range 8).find? fun w => s.winValid w && decide (s.winSrc w ≤ a) && decide (a + n ≤ s.winSrc w + s.winLen w)

/-- Write bytes as COR sectors, sector by sector (R421). -/
def State.writeCor (s : State) (a hint src : Nat) (bs : List Byte) : State :=
  (cut 32 a bs.length).foldl (fun (u : State) p =>
    (u.writeSector p.1 ((bs.drop (p.1 - a)).take p.2) (Hint.ofWord hint (u.segHint p.1)) false src).1) s

/-- The base die of a cache bank's endpoint. -/
def bankDie (ep : Nat) : Nat := 2 * (ep / 16 / 8 / 4) + ep / 16 % 8 / 4

/-- A mirror write has been received from a slice of the peer (R427). -/
def State.countMirror (s : State) (slice : Nat) : State :=
  let n := SMap.get 0 s.twin.got slice + 1
  (s.setTwinCounts (SMap.set 0 s.twin.got slice n)).bump F.MIRPEER_RECEIVED 0 1

/-- Apply mirror write `m` into window `w` (R421, R423). -/
def State.applyMirror (s : State) (m : InMsg) (w : Nat) : State :=
  let a := s.winLoc w + (m.addr - s.winSrc w)
  match s.partialFault a m.size with
  | some reason =>
    ((s.partialReads a m.size).foldl (fun u e => if u.stackFenced e.1 then u else u.noteRead e.1 (m.key.dev + 1) e.2) s).refuse m
      reason
  | none => ((s.writeCor a m.hint (m.key.dev + 1) m.rest).bump F.MIRCNT_COUNT 1 1).reply m kWACK []

/-- A counted mirror write is applied, or discarded where no window covers it or both modules claim one role
(R418, R423). -/
def State.mirrorInto (s : State) (m : InMsg) : State :=
  if s.get F.TWINSTAT_CONFLICT 0 = 1 then s.reply m kWACK []
  else match s.windowOf m.addr m.size with
    | none => (s.bump F.MIRCNT_COUNT 2 1).reply m kWACK []
    | some w => s.applyMirror m w

/-- Serve a mirror write: counted, then applied or discarded (R418, R421, R423). -/
def State.serveMirror (m : InMsg) (s : State) : State :=
  if malformed m 248 256 (decide (bits m.word 62 57 ≠ 0)) || decide (m.rest.length ≠ m.size) then s.refuse m 1
  else if s.draining && !m.early then s.refuse m 5
  else (s.countMirror (bankDie m.key.far)).mirrorInto m

/-- MIRROR_WRITE: a home agent receives mirror write `n` of the inbox. -/
def execMirrorWrite (n : Nat) (s : State) : Out :=
  .next (s.serve n kWRITE (fun m => decide (m.key.far % 16 = 2)) State.serveMirror)

/-! ## Drain notice, promotion, detach (R427 to R431) -/

/-- DRAIN_NOTICE: the peer's counts, slice by slice; PROMOTION follows. -/
def execDrainNotice (counts : List Nat) (s : State) : Out :=
  .next (if s.twin.present ∧ s.bridgeUp then s.setTwin { s.twin with notice := some (counts.take 4) } else s)

/-- Every slice's number equals the notice's. -/
def State.noticeMet (s : State) (counts : List Nat) : Bool :=
  (List.range 4).all fun i => decide (SMap.get 0 s.twin.got i = counts.getD i 0)

/-- R429: the descriptor of a window is written, and the window cleared. -/
def State.promoteWin (s : State) (w : Nat) : State :=
  if !s.winValid w then s
  else
    let k := s.get F.MIRWIN_PROMSEG w
    let s := (((s.setReg .SEGDESC k 0).put F.SEGDESC_BASE k (s.get F.MIRWIN_LOCBASE w)).put F.SEGDESC_LENGTH k (s.get F.MIRWIN_LENGTH w))
    let s := ((s.put F.SEGDESC_PERM_ATOMIC k (s.get F.MIRWIN_PERM_ATOMIC w)).put F.SEGDESC_PERM_WRITE k (s.get F.MIRWIN_PERM_WRITE w))
    let s := ((s.put F.SEGDESC_PERM_READ k (s.get F.MIRWIN_PERM_READ w)).put F.SEGDESC_RACKVIS k (s.get F.MIRWIN_RACKVIS w))
    (s.put F.SEGDESC_VALID k 1).put F.MIRWIN_VALID w 0

/-- Promotion (R429). -/
def State.promote (s : State) (gap : Bool) : State :=
  let s := (List.range 8).foldl (fun (u : State) w => u.promoteWin w) s
  let s := (s.put F.TWINSTAT_PROMOTED 0 1).put F.TWINSTAT_GAP 0 (b2n gap)
  let s := if s.get F.TWINCFG_PEN 0 = 1 then s.arriveAny (s.get F.TWINCFG_PCNUM 0) else s
  s.log .twinPromoted 0 []

/-- PROMOTION: Hearth acts on a drain notice once every counted write has arrived, or after 1 ms (`late`). -/
def execPromotion (late : Bool) (s : State) : Out :=
  .next <| match s.twin.notice with
    | none => s
    | some counts =>
      let met := s.noticeMet counts
      if !s.hearthReady || !(met || late) then s
      else
        let s := (s.setTwin { s.twin with notice := none }).promote (!met)
        if met then s else s.log .mirrorGap 0 []

/-- TWINCTL_PROMOTE (R428). It waits until Hearth is READY (Table 17-2). -/
def State.twinPromote (s : State) (hearth : Bool) : State :=
    let p := s.get F.TWINSTAT_PEER 0
    if p ≠ 2 ∧ p ≠ 4 ∧ p ≠ 5 then s.noEffect hearth .TWINCTL 0
    else if !s.hearthReady then s
    else (s.askDone .TWINCTL 0).promote (decide (p = 2))

def execTwinctlPromote (hearth : Bool) (s : State) : Out :=
  .next (s.twinPromote hearth)

/-- TWINCTL_DETACH: a drained module sends its notice, stops its heartbeats and blanks every port (R431). -/
def State.twinDetach (s : State) (hearth : Bool) : State :=
    if s.get F.DRAINSTAT_STATE 0 ≠ 2 then s.noEffect hearth .TWINCTL 0
    else
      let s := s.askDone .TWINCTL 0
      let note := if s.twin.present then [Sent.detachNotice] else []
      let s := State.setTwin { s with sent := s.sent ++ note } { s.twin with detached := true }
      (List.range Config.ports).foldl (fun (u : State) p =>
        if u.pstate p ≤ 4 ∧ (u.role p).isSome then (u.put F.PORTSTAT_LOS p 1).blank p else u) s

def execTwinctlDetach (hearth : Bool) (s : State) : Out :=
  .next (s.twinDetach hearth)

/-- DETACH_NOTICE: the peer has detached. -/
def execDetachNotice (s : State) : Out :=
  .next <|
    if s.twin.present then ((s.put F.TWINSTAT_PEER 0 5).put F.TWINSTAT_FAILOVER 0 0).log .twinDetached 0 [] else s

/-! ## Failover (R432) -/

/-- HOST_FAILOVER: both host-link ports have been out of UP for 100 µs; `peerEn` is the peer's FAILEN. -/
def execHostFailover (peerEn : Bool) (s : State) : Out :=
  .next <|
    if !s.hostPortUp 2 && !s.hostPortUp 3 && peerEn && decide (s.get F.TWINCFG_FAILEN 0 = 1)
       && decide (s.get F.TWINSTAT_PEER 0 = 1) && decide (s.get F.TWINSTAT_CONFLICT 0 = 0) then
      s.put F.TWINSTAT_FAILOVER 0 1
    else s

/-- HOST_FAILBACK: a host-link port has stayed UP for 10 ms. -/
def execHostFailback (s : State) : Out :=
  .next (if s.hostPortUp 2 || s.hostPortUp 3 then s.put F.TWINSTAT_FAILOVER 0 0 else s)

/-! ## Shadow comparisons (R433, R434) -/

/-- Device address of a mailbox slot. -/
def State.slotAddr (s : State) (k : Nat) : Nat := s.get F.SHCFG_MBOX 0 * 4096 + 16 * k

/-- POINT of a record. -/
def recPoint (r : Nat) : Nat := r % 2 ^ 32

/-- RESULT codes of R434. -/
def rMATCH : Nat := 1
def rMISMATCH : Nat := 2
def rTIMEOUT : Nat := 3
def rSKEW : Nat := 4

/-- The result of two records of one slot. -/
def shadowResult (mine theirs : Nat) : Nat :=
  if recPoint mine ≠ recPoint theirs then rSKEW else if mine = theirs then rMATCH else rMISMATCH

/-- A comparison ends: RESULT is written, the counter receives 1, SHSTAT and the log follow. -/
def State.shadowEnd (s : State) (x : Shadow) (code : Nat) : State :=
  let s := s.setTwin { s.twin with shadows := s.twin.shadows.filter fun y => decide (y.slot ≠ x.slot) }
  let s := (s.devWrite (s.slotAddr x.slot + 12) [BitVec.ofNat 8 code] 0 0 none).1
  let s := s.arriveAny (s.get F.SHCFG_CNUM 0)
  if code = rMATCH then s.bump F.SHSTAT_MATCHES 0 1
  else
    let s := (s.bump F.SHSTAT_MISMATCHES 0 1).put F.SHSTAT_LASTBAD 0 (recPoint x.record)
    if code = rMISMATCH then s.log .shadowMismatch 0 (leBytes 4 (recPoint x.record)) else s

/-- A comparison waits for the twin's record, or ends with the one already there. -/
def State.shadowMatch (s : State) (x : Shadow) : State :=
  match SMap.look s.twin.theirs x.slot with
  | some r => (s.setTwin { s.twin with theirs := SMap.del s.twin.theirs x.slot }).shadowEnd x (shadowResult x.record r)
  | none =>
    s.setTwin { s.twin with shadows := s.twin.shadows.filter (fun y => decide (y.slot ≠ x.slot)) ++ [x] }

/-- SHADOW_COMPARE: a write of bytes 0–11 of mailbox slot `k` with POINT ≠ 0 has been performed at device scope. -/
def execShadowCompare (k : Nat) (s : State) : Out :=
  within k 256 <| .next <|
    if s.get F.TWINCFG_SHEN 0 = 0 ∨ s.get F.TWINSTAT_CONFLICT 0 = 1 ∨ ¬ s.active then s
    else
      let r := s.devRead (s.slotAddr k) 12 0 0
      match r.2 with
      | .error _ => r.1
      | .ok bs =>
        let x : Shadow := { slot := k, record := leValue bs }
        if recPoint x.record = 0 then r.1
        else if r.1.get F.TWINSTAT_PEER 0 ≠ 1 then r.1.shadowEnd x rTIMEOUT
        else State.shadowMatch { r.1 with sent := r.1.sent ++ [Sent.shadow k x.record] } x

/-- SHADOW_RECORD_RECEIVED: the twin's record of slot `k`, bytes 0–11 as a number. -/
def execShadowRecordReceived (k record : Nat) (s : State) : Out :=
  within k 256 <| .next <|
    let r := record % 2 ^ 96
    if s.get F.TWINSTAT_CONFLICT 0 = 1 ∨ s.get F.TWINCFG_SHEN 0 = 0 then s
    else match s.twin.shadows.find? fun x => decide (x.slot = k) with
      | some x => s.shadowEnd x (shadowResult x.record r)
      | none => s.setTwin { s.twin with theirs := SMap.ins s.twin.theirs k r }

/-- SHADOW_TIMEOUT: no record of slot `k` has come from the twin within 10 ms. -/
def execShadowTimeout (k : Nat) (s : State) : Out :=
  within k 256 <| .next <| match s.twin.shadows.find? fun x => decide (x.slot = k) with
    | some x => s.shadowEnd x rTIMEOUT
    | none => s

end Sys2Proof.Machine
end

