-- ==== Sys2Proof/WellFormed.lean ====
section
/-! DEFINITION. Well-formed commands: every unit a command names by number is one the module has, and every byte string
has the length the manual gives it. Instruction rows carry reserved encodings on purpose (R58), so a field of a word is
never a ground. -/

namespace Sys2Proof

/-- The kinds of unit that commands number. -/
inductive Kind where
  | tile
  | cluster
  | chan
  | edge
  | localPort
  | port
  | slot
  | ring
  | fibre
  | bundle
  | memChannel
  | sector
  | computeDie
  | sensorUnit
  | link
  | dieLink
  | attachment
  | mailSlot
  | hostQueue
  | counter
  | tag
  | entry (r : PendReg)
deriving DecidableEq, Repr

/-- How many entries a register with PENDING has: one for each unit its selector can name (Table 19-6). -/
def PendReg.count : PendReg → Nat
  | .chctl => 16 * Config.clusters
  | .portctl => Config.ports
  | .bkctl => Config.tags
  | .mchctl => Config.channels
  | .dieref => 8
  | .rtepoch | .fabctl | .cpctl | .rmctl | .rmalias | .drainctl | .twinctl | .rstctl | .powercap | .hdctl => 1

/-- How many of each the module has (Tables 0-2, 1-3 and 11-4, and the chapters that own the units). -/
def Kind.count : Kind → Nat
  | .tile => Config.tiles
  | .cluster => Config.clusters
  | .chan => 16
  | .edge => 4
  | .localPort => 12
  | .port => Config.ports
  | .slot => 16
  | .ring => 36
  | .fibre => 4
  | .bundle => 6
  | .memChannel => Config.channels
  | .sector => 8
  | .computeDie => 8
  | .sensorUnit => 28
  | .link => 172
  | .dieLink => 160
  | .attachment => 16
  | .mailSlot => 256
  | .hostQueue => 64
  | .counter => Config.counters
  | .tag => Config.tags
  | .entry r => r.count

/-- One condition on a command's operands. -/
inductive Check where
  | unit (k : Kind) (n : Nat)
  | bytes (given : List Byte) (wanted : Nat)
deriving DecidableEq, Repr

/-- The condition holds. -/
def Check.holds : Check → Bool
  | .unit k n => decide (n < k.count)
  | .bytes given wanted => decide (given.length = wanted)

/-- The conditions on each command. -/
def Instr.checks : Instr → List Check
  | .nop tile _ _ => [.unit .tile tile]
  | .end_ h => [.unit .tile h.tile]
  | .contextEnded tile _ => [.unit .tile tile]
  | .br h _ => [.unit .tile h.tile]
  | .brl h _ _ => [.unit .tile h.tile]
  | .jr h _ => [.unit .tile h.tile]
  | .jrl h _ _ => [.unit .tile h.tile]
  | .loop h _ _ => [.unit .tile h.tile]
  | .loopi h _ _ => [.unit .tile h.tile]
  | .movi h _ _ => [.unit .tile h.tile]
  | .ldhi h _ _ => [.unit .tile h.tile]
  | .mfc h _ _ => [.unit .tile h.tile]
  | .mtc h _ _ => [.unit .tile h.tile]
  | .fret h => [.unit .tile h.tile]
  | .add h _ _ _ => [.unit .tile h.tile]
  | .sub h _ _ _ => [.unit .tile h.tile]
  | .mul h _ _ _ => [.unit .tile h.tile]
  | .mulhu h _ _ _ => [.unit .tile h.tile]
  | .and_ h _ _ _ => [.unit .tile h.tile]
  | .or_ h _ _ _ => [.unit .tile h.tile]
  | .xor_ h _ _ _ => [.unit .tile h.tile]
  | .shl h _ _ _ => [.unit .tile h.tile]
  | .shr h _ _ _ => [.unit .tile h.tile]
  | .sra h _ _ _ => [.unit .tile h.tile]
  | .min_ h _ _ _ => [.unit .tile h.tile]
  | .max_ h _ _ _ => [.unit .tile h.tile]
  | .minu h _ _ _ => [.unit .tile h.tile]
  | .maxu h _ _ _ => [.unit .tile h.tile]
  | .addi h _ _ _ => [.unit .tile h.tile]
  | .andi h _ _ _ => [.unit .tile h.tile]
  | .ori h _ _ _ => [.unit .tile h.tile]
  | .xori h _ _ _ => [.unit .tile h.tile]
  | .shli h _ _ _ => [.unit .tile h.tile]
  | .shri h _ _ _ => [.unit .tile h.tile]
  | .srai h _ _ _ => [.unit .tile h.tile]
  | .pset h _ _ _ _ => [.unit .tile h.tile]
  | .pseti h _ _ _ _ => [.unit .tile h.tile]
  | .plog h _ _ _ _ => [.unit .tile h.tile]
  | .lds h _ _ _ _ _ => [.unit .tile h.tile]
  | .sts h _ _ _ _ => [.unit .tile h.tile]
  | .trap h => [.unit .tile h.tile]
  | .rdtime h _ => [.unit .tile h.tile]
  | .unitFault tile _ _ _ => [.unit .tile tile]
  | .contextSwitchToL tile _ _ => [.unit .tile tile]
  | .contextSwitchToF tile _ _ => [.unit .tile tile]
  | .unitInstructionStart tile _ _ => [.unit .tile tile]
  | .unitInstructionComplete tile _ => [.unit .tile tile]
  | .mmul h _ => [.unit .tile h.tile]
  | .mslice h _ => [.unit .tile h.tile]
  | .mread h _ => [.unit .tile h.tile]
  | .manchor h _ => [.unit .tile h.tile]
  | .mclear h _ => [.unit .tile h.tile]
  | .vadd h _ => [.unit .tile h.tile]
  | .vsub h _ => [.unit .tile h.tile]
  | .vmul h _ => [.unit .tile h.tile]
  | .vfma h _ => [.unit .tile h.tile]
  | .vmin h _ => [.unit .tile h.tile]
  | .vmax h _ => [.unit .tile h.tile]
  | .vabs h _ => [.unit .tile h.tile]
  | .vneg h _ => [.unit .tile h.tile]
  | .vcvt h _ => [.unit .tile h.tile]
  | .vcmp h _ => [.unit .tile h.tile]
  | .vsel h _ => [.unit .tile h.tile]
  | .vand h _ => [.unit .tile h.tile]
  | .vor h _ => [.unit .tile h.tile]
  | .vxor h _ => [.unit .tile h.tile]
  | .vshl h _ => [.unit .tile h.tile]
  | .vshr h _ => [.unit .tile h.tile]
  | .vld h _ _ => [.unit .tile h.tile]
  | .vst h _ => [.unit .tile h.tile]
  | .vbcast h _ => [.unit .tile h.tile]
  | .vext h _ => [.unit .tile h.tile]
  | .vrsum h _ => [.unit .tile h.tile]
  | .vrmax h _ => [.unit .tile h.tile]
  | .vrmin h _ => [.unit .tile h.tile]
  | .vperm h _ => [.unit .tile h.tile]
  | .vmovi h _ => [.unit .tile h.tile]
  | .fexp h _ => [.unit .tile h.tile]
  | .flog h _ => [.unit .tile h.tile]
  | .frcp h _ => [.unit .tile h.tile]
  | .frsq h _ => [.unit .tile h.tile]
  | .cbload h _ => [.unit .tile h.tile]
  | .cbswap h _ => [.unit .tile h.tile]
  | .cblook h _ => [.unit .tile h.tile]
  | .copy h _ => [.unit .tile h.tile]
  | .copyQueueFullStall tile _ => [.unit .tile tile]
  | .copyStart cluster chan _ => [.unit .cluster cluster, .unit .chan chan]
  | .engineGrant cluster _ => [.unit .cluster cluster]
  | .copyComplete cluster chan => [.unit .cluster cluster, .unit .chan chan]
  | .ldn h _ => [.unit .tile h.tile]
  | .stn h _ => [.unit .tile h.tile]
  | .narrowComplete tile _ => [.unit .tile tile]
  | .narrowPathFullStall tile _ => [.unit .tile tile]
  | .atom h _ => [.unit .tile h.tile]
  | .chrd h _ => [.unit .tile h.tile]
  | .chctlPause h _ => [.unit .tile h.tile]
  | .chctlResume h _ => [.unit .tile h.tile]
  | .chctlAbort h _ => [.unit .tile h.tile]
  | .arm h _ => [.unit .tile h.tile]
  | .arrive h _ => [.unit .tile h.tile]
  | .arrivalApplied _ => []
  | .wait h _ => [.unit .tile h.tile]
  | .waitRetest tile _ => [.unit .tile tile]
  | .waitTimeout tile _ => [.unit .tile tile]
  | .migrateDrain h _ => [.unit .tile h.tile]
  | .migrateDrainComplete tile _ => [.unit .tile tile]
  | .migrateDiscard h _ => [.unit .tile h.tile]
  | .scread h _ _ _ _ _ => [.unit .tile h.tile]
  | .twait h _ => [.unit .tile h.tile]
  | .tset h _ _ => [.unit .tile h.tile]
  | .tread h _ _ => [.unit .tile h.tile]
  | .fence h _ => [.unit .tile h.tile]
  | .fenceComplete tile _ => [.unit .tile tile]
  | .tpush h _ _ _ _ => [.unit .tile h.tile]
  | .tpop h _ _ _ => [.unit .tile h.tile]
  | .bkarm h _ => [.unit .tile h.tile]
  | .bkput h _ => [.unit .tile h.tile]
  | .bkrd h _ => [.unit .tile h.tile]
  | .xfire h _ => [.unit .tile h.tile]
  | .xa2a h _ => [.unit .tile h.tile]
  | .plansw h _ => [.unit .tile h.tile]
  | .collOpen tag => [.unit .tag tag.n]
  | .collFragment _ => []
  | .collDeadline tag => [.unit .tag tag]
  | .bkctlAbort tag => [.unit .tag tag]
  | .rerunRequest _ => []
  | .dwFlitReceived _ => []
  | .dwHoldExpiry _ => []
  | .dwPartnerTimeout tag => [.unit .tag tag]
  | .routerPlacement _ => []
  | .edgeSwitchPlacement n _ => [.unit .edge n]
  | .messageDelivery _ => []
  | .ackSend _ => []
  | .ackReceived _ => []
  | .nack _ => []
  | .e2etoExpiry _ => []
  | .streamForget _ => []
  | .linkBlockReceived n k block => [.unit .edge n, .unit .localPort k, .bytes block 392]
  | .nakReplay n k => [.unit .edge n, .unit .localPort k]
  | .replayTimeout n k => [.unit .edge n, .unit .localPort k]
  | .rtepochFlip => []
  | .epochHoldEnd => []
  | .trainingFrame p k frame => [.unit .port p, .unit .slot k, .bytes frame 144]
  | .verifyTimeout p k => [.unit .port p, .unit .slot k]
  | .lockAttemptTimeout p k => [.unit .port p, .unit .slot k]
  | .ringFailed p r => [.unit .port p, .unit .ring r]
  | .portBringup p _ _ => [.unit .port p]
  | .portReset p => [.unit .port p]
  | .portRetrain n k _ => [.unit .edge n, .unit .localPort k]
  | .lossOfLight p => [.unit .port p]
  | .probe p _ => [.unit .port p]
  | .lightReturned p => [.unit .port p]
  | .laserHigh n f => [.unit .edge n, .unit .fibre f]
  | .laserHighClear n f => [.unit .edge n, .unit .fibre f]
  | .laserLow n f _ => [.unit .edge n, .unit .fibre f]
  | .spareTakeover n target => [.unit .edge n, .unit .localPort target]
  | .spareRelease n => [.unit .edge n]
  | .cpctlGo => []
  | .planSwitchComplete => []
  | .bundleUp n b => [.unit .edge n, .unit .bundle b]
  | .cacheSectorAccess _ _ _ _ _ _ => []
  | .patrolScrub m _ sec _ => [.unit .memChannel m, .unit .sector sec]
  | .takeOutOfService _ m => [.unit .memChannel m]
  | .returnToService _ m _ => [.unit .memChannel m]
  | .channelLeavingDone m => [.unit .memChannel m]
  | .channelFillDone m => [.unit .memChannel m]
  | .startGenerator _ m => [.unit .memChannel m]
  | .stopGenerator m _ => [.unit .memChannel m]
  | .generatorDone m _ => [.unit .memChannel m]
  | .remoteRead _ => []
  | .remoteWrite _ => []
  | .remoteAtomic _ => []
  | .remoteArrive _ => []
  | .rdata _ => []
  | .wack _ => []
  | .aresult _ => []
  | .retry _ => []
  | .retryBackoffExpiry _ => []
  | .refuse _ => []
  | .combineFold _ => []
  | .gatewayTransfer cluster chan => [.unit .cluster cluster, .unit .chan chan]
  | .gatewayApply _ => []
  | .govRefill d => [.unit .computeDie d]
  | .poolGrant d => [.unit .computeDie d]
  | .hearthPowerStep _ _ => []
  | .powercapWrite _ _ => []
  | .powerOver => []
  | .powerOverClear => []
  | .sprintStart _ => []
  | .sprintEnd _ _ _ => []
  | .sensorSample u _ => [.unit .sensorUnit u]
  | .throttleFactorStep d => [.unit .computeDie d]
  | .thermalShutdown u _ => [.unit .sensorUnit u]
  | .powerupCommand _ _ => []
  | .drain => []
  | .drainComplete => []
  | .marginTests _ _ => []
  | .linkLaneFail u _ => [.unit .link u]
  | .linkDegraded u _ => [.unit .dieLink u]
  | .healthDecay => []
  | .healthSave => []
  | .heartbeatSend => []
  | .heartbeatReceived _ _ _ _ _ => []
  | .peerLost => []
  | .mirrorWrite _ => []
  | .drainNotice _ => []
  | .promotion _ => []
  | .twinctlPromote _ => []
  | .twinctlDetach _ => []
  | .detachNotice => []
  | .hostFailover _ => []
  | .hostFailback => []
  | .shadowCompare k => [.unit .mailSlot k]
  | .shadowTimeout k => [.unit .mailSlot k]
  | .hearthBoot _ => []
  | .hearthReset => []
  | .eventRecord => []
  | .requestUpdate _ => []
  | .verifyComplete => []
  | .activateFirmware => []
  | .commitSvn => []
  | .spdmChallenge _ => []
  | .spdmGetMeasurements _ _ => []
  | .setEndpointId _ => []
  | .i3cDynamicAddress _ => []
  | .edgeAdmission n _ _ => [.unit .edge n]
  | .ucieBringup u _ => [.unit .attachment u]
  | .regrd _ => []
  | .regwr _ => []
  | .sqDoorbell q _ => [.unit .hostQueue q]
  | .commandStart read => match read with
    | .entry e => [.bytes e 128]
    | .refused => []
    | .lost => []
  | .launchComplete _ => []
  | .dmaComplete _ => []
  | .data _ => []
  | .done _ => []
  | .completionRecord r => [.unit .hostQueue r]
  | .cqDoorbell r _ => [.unit .hostQueue r]
  | .eventRingWrite => []
  | .coldReset _ => []
  | .modResetN _ => []
  | .pwrEn _ => []
  | .inputLoss _ => []
  | .inputRestored _ => []
  | .inputOutOfBand => []
  | .refclkLoss => []
  | .warmReset _ _ => []
  | .computeReset _ _ => []
  | .enterNap _ => []
  | .leaveNap _ => []
  | .enterDeep _ => []
  | .leaveDeep _ _ => []
  | .idleGate d => [.unit .computeDie d]
  | .sccountWrite _ c _ => [.unit .counter c]
  | .sctargetWrite _ c _ => [.unit .counter c]
  | .badRegisterAccess _ _ _ => []
  | .registerWrite _ _ _ => []
  | .writtenValueTakesEffect r e _ _ => [.unit (.entry r) e]
  | .lockLoss p r => [.unit .port p, .unit .ring r]
  | .shadowRecordReceived k _ => [.unit .mailSlot k]
  | .twinPresN _ => []
  | .hrefclkLoss => []
  | .hrefclkRestored => []
  | .inputBackInRange => []
  | .sprintCclkChange => []
  | .dailyBucketRollover => []
  | .spdmNegotiateAlgorithms _ _ => []
  | .clearProtectedRegion => []
  | .faultNRelease => []
  | .blowOkeyhash key => [.bytes key 1312]
  | .dwSentFlitRelease tag => [.unit .tag tag]
  | .testPortAccess _ => []

/-- A command that names only what the module has. -/
def Instr.wellFormed (i : Instr) : Bool := i.checks.all Check.holds

end Sys2Proof
end

