-- ==== Sys2Proof/Machine/Space.lean ====
section
/-! DEFINITION. The control space (chapters 0 and 21): what an access reaches, what each register reads, what a write
does, and the values that take effect later (R5 to R9, R486, R503 to R514). An access comes from the host or from
Hearth. -/

namespace Sys2Proof.Machine

/-! ## What an access reaches (R504 to R508, R512, R513) -/

/-- A legal size and alignment, wholly inside one window (R506, R507). -/
def accessOk (off size : Nat) : Bool :=
  [4, 8, 16, 32, 64].contains size && decide (off % size = 0)
  && Win.all.any fun w => decide (w.base ≤ off) && decide (off + size ≤ w.base + w.size)

/-- The window of an offset. -/
def winAt (off : Nat) : Option Win := Win.all.find? fun w => decide (w.base ≤ off) && decide (off < w.base + w.size)

/-- The entry of an array at distance `a` from its first entry, and the distance inside that entry. -/
def entryAt : List (Nat × Nat) → Nat → Nat → Option (Nat × Nat)
  | [], i, a => some (i, a)
  | d :: ds, i, a => if a / d.2 < d.1 then entryAt ds (i * d.1 + a / d.2) (a % d.2) else none

/-- Whether byte `a` of a window falls on a register: its entry and the byte of the entry. -/
def Reg.hit (r : Reg) (a : Nat) : Option (Nat × Nat) :=
  if a < r.spec.off then none
  else match entryAt r.spec.dims 0 (a - r.spec.off) with
    | some (i, b) => if b < r.spec.width / 8 then some (i, b) else none
    | none => none

/-- The part of an access that falls on one entry of one register: entry, first byte of the entry, bytes. -/
structure Part where
  reg : Reg
  ix : Nat
  lo : Nat
  bytes : List Byte
deriving DecidableEq, Repr

/-- The register, entry and byte at byte `a` of a window. -/
def regAt (w : Win) (a : Nat) : Option (Reg × Nat × Nat) :=
  (Reg.all.filter fun r => decide (r.spec.win = w)).findSome? fun r => (r.hit a).map fun h => (r, h.1, h.2)

/-- The parts of an access, in ascending address order (R506). -/
def partsOf (w : Win) : Nat → List Byte → List Part
  | _, [] => []
  | a, b :: bs =>
    let rest := partsOf w (a + 1) bs
    match regAt w a with
    | none => rest
    | some (r, i, k) =>
      match rest with
      | p :: ps => if p.reg = r ∧ p.ix = i then { p with lo := k, bytes := b :: p.bytes } :: ps
        else { reg := r, ix := i, lo := k, bytes := [b] } :: p :: ps
      | [] => [{ reg := r, ix := i, lo := k, bytes := [b] }]

/-- Registers of which each agent has its own (R211, R511, R512). -/
def Reg.banked : Reg → Bool
  | .STCLSEL | .STCHSEL | .MCHSEL | .PORTSEL | .BKSEL | .HSSEL | .LOGSEL | .CSLAST | .CSCOUNT => true
  | _ => false

/-- The unit that the agent's select registers name, for a register behind them (Table 21-2). -/
def State.unitOf (s : State) (hearth : Bool) (r : Reg) : Nat :=
  let b := bankOf hearth
  match r.spec.win, r with
  | .channel, _ => 16 * s.get F.STCLSEL_CLUSTER b + s.get F.STCHSEL_CHANNEL b
  | .memchan, _ => s.get F.MCHSEL_CHANNEL b
  | .port, _ => s.get F.PORTSEL_PORT b
  | .collective, .CESTRAY => 0
  | .collective, _ => s.get F.BKSEL_TAG b
  | _, _ => 0

/-- The entry an agent's access reaches. -/
def State.entry (s : State) (hearth : Bool) (r : Reg) (i : Nat) : Nat :=
  if r.banked then bankOf hearth else s.unitOf hearth r * r.count + i

/-- A unit of R409 is fenced: a cluster, a port or a link. -/
def State.scoredFenced (s : State) (cls i : Nat) : Bool :=
  match cls with
  | 0 => s.clusterFenced i
  | 2 => decide (s.pstate i = 7)
  | 3 => decide (s.get F.D2DSTAT_WIDTH i = 2)
  | _ => false

/-- The selected unit is fenced (R212, R512). -/
def State.unitFenced (s : State) (hearth : Bool) (r : Reg) : Bool :=
  !r.banked && match r.spec.win with
    | .channel => s.clusterFenced (s.unitOf hearth r / 16)
    | .port => decide (s.pstate (s.unitOf hearth r) = 7)
    | .health => decide (r = .HSUNIT) && s.scoredFenced (s.get F.HSSEL_CLASS (bankOf hearth)) (s.get F.HSSEL_INDEX (bankOf hearth))
    | _ => false

/-- How far a window can be reached: 0 not at all, 1 reads only, 2 whole (R513). -/
def State.reach (s : State) (w : Win) : Nat :=
  let p := s.get F.PWRSTAT_STATE 0
  match w with
  | .identity | .power | .hearth => 2
  | .job | .governor => if 2 ≤ p ∧ p ≤ 4 then 2 else if 5 ≤ p ∧ p ≤ 7 then 1 else 0
  | _ => if 2 ≤ p ∧ p ≤ 7 then 2 else 0

/-! ## What registers read -/

/-- The unit of R409 with the lowest score: class, index, score; the lowest on a tie. -/
def State.lowest (s : State) : Nat × Nat × Nat :=
  s.penalty.foldl (fun a e => if scoreOf e.2 < a.2.2 then (e.1 / 256, e.1 % 256, scoreOf e.2) else a) (0, 0, 1000)

/-- A register whose writes take effect later shows the last value written while PENDING reads 1 (R486). -/
def Reg.valued : Reg → Bool
  | .FABCTL | .RMCTL | .RMALIAS | .POWERCAP | .DIEREF => true
  | _ => false

/-- The stored value of an entry, or the one last written to it. -/
def State.written (s : State) (r : Reg) (e : Nat) : Nat :=
  match s.ask r e with
  | some a => if r.valued then setBits a.value r.pendBit r.pendBit 1 else s.reg r e
  | none => s.reg r e

/-- What entry `e` of a register reads; `hearth` is the reading agent. -/
def State.view (s : State) (hearth : Bool) (r : Reg) (e : Nat) : Nat :=
  let b := bankOf hearth
  match r with
  | .SCCOUNT => (s.counter e).count
  | .SCTARGET => (s.counter e).target
  | .SCSTAT => b2n (s.counter e).ovf * 2 ^ 7 + b2n (s.counter e).reached * 2 ^ 6 + (s.counter e).epoch
  | .SCWAIT => bitsOf 128 fun q => (s.counter e).waiters.contains q
  | .CHSTAT => (s.chan e).stat
  | .CHREM => (s.chan e).rem
  | .CHCRC => (s.chan e).crc
  | .CHOUT => (s.chan e).out
  | .CHOVF => (s.chan e).ovf
  | .CHCHUNK => (s.chan e).grants
  | .CHDESC => match (s.chan e).queue with
    | x :: _ => if x.started then x.desc else 0
    | [] => 0
  | .MCHSTAT => setBits (s.reg r e) 1 0 (s.service e)
  | .BKSTATE => (s.tagAt e).report 0
  | .BKMISS => (s.tagAt e).report 1
  | .BKLAST => (s.tagAt e).report 2
  | .BKLATE => (s.tagAt e).report 3
  | .BKSPEC => (s.tagAt e).report 4
  | .BKOVF => (s.tagAt e).report 5
  | .GOVSTAT => setBits (setBits (s.reg r e) 63 32 (s.refOf e)) 19 16 (s.dutyOf e)
  | .HSUNIT =>
    let p := SMap.get 0 s.penalty (256 * s.get F.HSSEL_CLASS b + s.get F.HSSEL_INDEX b)
    p / 2 ^ 32 * 2 ^ 16 + scoreOf p
  | .HSMOD => let l := s.lowest
    l.1 * 2 ^ 26 + l.2.1 * 2 ^ 18 + l.2.2
  | .HDSTAT => if s.power.hrefclk then s.reg r e else setBits (s.reg r e) 1 0 0
  | .LOGREC =>
    SMap.get 0 (if s.get F.LOGSEL_REGION b = 1 then s.hd.prot else s.hd.ring) (s.get F.LOGSEL_INDEX b)
  | .HLSTAT => s.get F.TWINSTAT_FAILOVER 0 * 4 + b2n (s.hostPortUp 3) * 2 + b2n (s.hostPortUp 2)
  | .IDSERIAL => Config.serial.toNat
  | .CAPPORT => bitsOf 48 fun p => decide (s.pstate p ≠ 7)
  | .CAPEDGE => bitsOf 4 fun n => decide (s.get F.EDADMIT_STATE n = 1)
  | .CAPSTACK => bitsOf 12 fun k => !bit (s.get F.FENCEOTH_STACK 0) k
  | .CAPLINK => bitsOf 32 fun u => decide (s.get F.D2DSTAT_WIDTH u ≠ 0)
  | .CAPBOND => bitsOf 128 fun q => decide (s.get F.D2DSTAT_WIDTH (32 + q) ≠ 0)
  | _ => s.written r e

/-- One part of a read. -/
def State.readPart (s : State) (hearth : Bool) (p : Part) : Nat :=
  if s.unitFenced hearth p.reg then 0 else s.view hearth p.reg (s.entry hearth p.reg p.ix) / 2 ^ (8 * p.lo)

/-- The byte an agent reads at an offset. -/
def State.readByte (s : State) (hearth : Bool) (off : Nat) : Byte :=
  match winAt off with
  | none => 0
  | some w =>
    if s.reach w = 0 then 0
    else match regAt w (off - w.base) with
      | none => 0
      | some (r, i, k) => BitVec.ofNat 8 (s.readPart hearth { reg := r, ix := i, lo := k, bytes := [] })

/-- A read of a legal access: its bytes, and the record of one that reaches no register (R508). -/
def State.readSpace (s : State) (hearth : Bool) (off size : Nat) : List Byte × State :=
  let bs := (List.range size).map fun i => s.readByte hearth (off + i)
  let none_ := match winAt off with
    | some w => (partsOf w (off - w.base) (List.replicate size 0)).isEmpty
    | none => true
  (bs, if none_ then s.record hearth 1 off else s)

/-! ## What a write does to a register (R6, R506, R509) -/

/-- Bits of `old` replaced by those of `d` where `m` is set. -/
def mergeBits (old d m : Nat) : Nat := (old ^^^ (old &&& m)) ||| (d &&& m)

/-- The number of units of a class of R409. -/
def classCount (c : Nat) : Nat := [128, 192, 48, 32].getD c 0

/-- Value `x` is reserved in a field of entry `e`; `new` is the whole value being written (R6). -/
def Fld.reserved (f : Fld) (new x : Nat) : Bool :=
  if f = F.STCLSEL_CLUSTER then decide (128 ≤ x)
  else if f = F.MCHSEL_CHANNEL then decide (192 ≤ x)
  else if f = F.PORTSEL_PORT then decide (48 ≤ x)
  else if f = F.TGCFG_MODE then decide (x = 3)
  else if f = F.TGCFG_PATTERN then decide (4 ≤ x)
  else if f = F.FABCTL_RESENDMAX ∨ f = F.FABCTL_E2ETO ∨ f = F.RMCTL_HINT ∨ f = F.RMCTL_RETRYMAX then decide (x = 0)
  else if f = F.FABCTL_HOPBUDGET then decide (x < 16)
  else if f = F.CPCTL_PLAN then decide (8 < x)
  else if f = F.SPARE_TARGET then decide (10 < x)
  else if f = F.LDMAP_FARPORT then decide (23 < x)
  else if f = F.PLLANE_BUNDLE then decide (6 ≤ x) && decide (x ≠ 15)
  else if f = F.RMALIAS_ALIAS then decide (x < 64)
  else if f = F.POWERCAP_WATTS then decide (x < 1200) || decide (2000 < x)
  else if f = F.HSCFG_HALFLIFE then decide (x = 0) || decide (168 < x)
  else if f = F.HSCFG_EXPEL ∨ f = F.HSCFG_WARN then decide (1000 < x)
  else if f = F.HSSEL_INDEX then decide (classCount (bits new 9 8) ≤ x)
  else if f = F.LOGSEL_INDEX then decide (bits new 31 31 = 1) && decide (32768 ≤ x)
  else if f = F.SQCFG_BASE ∨ f = F.CQCFG_BASE ∨ f = F.EVRCFG_BASE then decide (2 ^ 56 ≤ x)
  else if f = F.SQCFG_LOG2N ∨ f = F.CQCFG_LOG2N then decide (x = 0) || decide (12 < x)
  else if f = F.EVRCFG_LOG2N then decide (x = 0)
  else false

/-- Bits of a field of entry `e` that ignore writes: PROD[12:5] at a router, EJECT at an edge switch, the entries of GOVCOST
that Table 14-1 leaves out. -/
def Fld.writable (f : Fld) (e x old : Nat) : Nat :=
  if (f = F.RTENT_PROD ∧ e / 512 < 64) ∨ (f = F.DWENT_OUT ∧ e / 2048 < 64) then x % 32
  else if f = F.DWENT_EJECT ∧ 64 ≤ e / 2048 then old
  else if f = F.GOVCOST_COST ∧ 17 ≤ e then old
  else x

/-- The agent can change a field. -/
def Acc.changes (a : Acc) (hearth : Bool) : Bool :=
  match a with
  | .ro => false
  | .rwH => hearth
  | _ => true

/-- The value of an entry after a write of data `d` under byte mask `m`, field by field (Table 0-3). Action fields keep
reading 0. -/
def Reg.merged (r : Reg) (hearth : Bool) (e old d m : Nat) : Nat :=
  let new := mergeBits old d m
  r.spec.fields.foldl (fun (v : Nat) (f : FieldRow) =>
    let o := bits old f.fld.hi f.fld.lo
    let x := bits new f.fld.hi f.fld.lo
    let ones := bits (d &&& m) f.fld.hi f.fld.lo
    let put := fun (y : Nat) => setBits v f.fld.hi f.fld.lo y
    match f.acc with
    | .ro | .wo => v
    | .rw => put (if f.fld.reserved new x then o else f.fld.writable e x o)
    | .rwH => if hearth then put (if f.fld.reserved new x then o else f.fld.writable e x o) else v
    | .w1c => put (o ^^^ (o &&& ones))
    | .w1s => put (o ||| ones)) old

/-- Byte mask and data of a part. -/
def Part.mask (p : Part) : Nat := (2 ^ (8 * p.bytes.length) - 1) * 2 ^ (8 * p.lo)
def Part.data (p : Part) : Nat := leValue p.bytes * 2 ^ (8 * p.lo)

/-- A part covers a bit of a register. -/
def Part.covers (p : Part) (i : Nat) : Bool := bit p.mask i

/-- Some byte of a part reaches a field that the agent can change (R509). -/
def Part.reaches (p : Part) (hearth : Bool) : Bool :=
  p.reg.spec.fields.any fun f => f.acc.changes hearth && decide (bits p.mask f.fld.hi f.fld.lo ≠ 0)

/-- Action `v` of a register is refused as it is written (R234, R237, R413, R428, R431, R470, R479, R482). -/
def State.refuses (s : State) (hearth : Bool) (r : Reg) (e v : Nat) : Bool :=
  let p := s.get F.PWRSTAT_STATE 0
  match r, v with
  | .MCHCTL, 1 | .MCHCTL, 2 => s.serviceRefused e
  | .MCHCTL, 3 => s.genRefused e
  | .DRAINCTL, 2 => s.jobRuns
  | .TWINCTL, 1 => let q := s.get F.TWINSTAT_PEER 0
    decide (q ≠ 2) && decide (q ≠ 4) && decide (q ≠ 5)
  | .TWINCTL, 2 => decide (s.get F.DRAINSTAT_STATE 0 ≠ 2)
  | .RSTCTL, 1 => !s.active
  | .RSTCTL, 2 => !s.active && decide (p ≠ 6)
  | .RSTCTL, 3 => !s.active || s.sleepRefused
  | .RSTCTL, 4 => decide (p ≠ 6)
  | .RSTCTL, 5 => !(s.active || decide (p = 6)) || s.sleepRefused
  | .RSTCTL, 6 => !hearth || decide (p ≠ 9)
  | _, _ => false

/-- The REFUSED bit that a refused action sets (R234, R237, R479). -/
def State.markRefused (s : State) (r : Reg) (e v : Nat) : State :=
  match r with
  | .MCHCTL => s.put F.MCHSTAT_REFUSED e 1
  | .RSTCTL =>
    if (v = 3 ∧ s.active) ∨ (v = 5 ∧ (s.active ∨ s.get F.PWRSTAT_STATE 0 = 6)) then s.put F.PWRSTAT_REFUSED 0 1 else s
  | _ => s

/-- The code of the action a part writes. -/
def Part.code (p : Part) : Nat :=
  if p.covers 0 then p.data % (match p.reg with
    | .MCHCTL | .RSTCTL => 8
    | _ => 4)
  else 0

/-- The rules that make a write without effect (R31, R269, R274, R290, R296, R373, R419, R458 and the twin window's). `e` is
the entry reached. -/
def State.barred (s : State) (hearth : Bool) (p : Part) (e : Nat) : Bool :=
  let switching := fun (q : Nat) => match s.plan with
    | some t => decide (q = t.target) || decide (q = s.get F.CPCUR_CUR 0)
    | none => false
  match p.reg with
  | .SEGDESC | .DLBCTL | .MIRWIN | .TWINCFG | .SHCFG => !hearth && s.jobRuns
  | .RTENT | .DWENT => decide (s.get F.RTEPOCH_HOLD 0 = 1)
  | .LDMAP => decide (s.get F.CPCUR_CUR 0 ≠ 8) || s.plan.isSome
  | .PLBUND => switching (e / 24)
  | .PLLANE => switching (e / 384)
  | .SPARE => decide (s.get F.SPARE_TAKEN e = 1) && !hearth
  | .SQCFG => decide (s.get F.SQCFG_EN e = 1) && !(p.covers 0 && !bit p.data 0)
  | .PORTCTL => decide (bits p.data 1 0 = 1 ∨ bits p.data 1 0 = 2) && p.covers 0 && !s.portActs e
  | .HDCTL => decide (s.get F.HDSTAT_STATE 0 = 0) || !s.power.hrefclk
  | .GOVCOST => !hearth
  | .MCHCTL | .RSTCTL | .DRAINCTL | .TWINCTL => s.refuses hearth p.reg e p.code
  | _ => s.unitFenced hearth p.reg

/-- A written action waits; `v` = 0 names none, and codes above `top` are reserved (R6, R486). -/
def State.action (s : State) (hearth : Bool) (r : Reg) (e off v top : Nat) : State :=
  if v = 0 ∨ top < v then s else s.setAsk r e { hearth := hearth, off := off, value := v }

/-- The write of one part into entry `e`, which nothing bars. `off` is the offset of the access. -/
def State.applyPart (s : State) (hearth : Bool) (p : Part) (e off : Nat) : State :=
  let r := p.reg
  let d := p.data
  let v := r.merged hearth e (s.written r e) d p.mask
  let low := if p.covers 0 then d % 8 else 0
  match r with
  | .SCCOUNT => (s.setCounter e { s.counter e with count := d % 2 ^ 32 }).wake e
  | .SCTARGET => (s.setCounter e { s.counter e with target := d % 2 ^ 32 }).wake e
  | .SCSTAT => s.setCounter e { s.counter e with epoch := d % 16, ovf := (s.counter e).ovf && !bit d 7 }
  | .CHOVF => s.setChan e { s.chan e with ovf := d % 2 ^ 32 }
  | .CHCHUNK => s.setChan e { s.chan e with grants := mergeBits (s.chan e).grants d p.mask }
  | .CHCTL => if d % 4 = 3 then s else s.setAsk r e { hearth := hearth, off := off, value := d % 4 }
  | .MCHCTL => s.action hearth r e off (low % 8) 4
  | .PORTCTL | .DRAINCTL | .TWINCTL => s.action hearth r e off (low % 4) 2
  | .BKCTL | .HDCTL => s.action hearth r e off (low % 2) 1
  | .RSTCTL => s.action hearth r e off (low % 8) 6
  | .FABCTL | .RMCTL | .RMALIAS | .POWERCAP | .DIEREF =>
    s.setAsk r e { hearth := hearth, off := off, value := setBits v r.pendBit r.pendBit 0 }
  | .RTEPOCH =>
    let s := s.setReg r e v
    if p.covers 1 && bit d 1 then s.requestFlip else s
  | .CPCTL =>
    let s := s.setReg r e v
    if p.covers F.CPCTL_GO.lo && bit d F.CPCTL_GO.lo then s.put F.CPCTL_PENDING 0 1 else s
  | .SPARE =>
    if s.get F.SPARE_TAKEN e = 1 then s.put F.SPARE_RELEASE e (bits v 14 14)
    else if bit v 15 then (s.put F.SPARE_RELEASE e (bits v 14 14)).takeSpare e (bits v 3 0)
    else s.setReg r e v
  | .LDMAP => if v = s.reg r e then s else (s.setReg r e v).mapChanged e
  | .CQCFG => s.setReg r e (if p.covers 0 && bit d 0 then setBits v 2 2 0 else v)
  | .EVRCFG => s.setReg r e (if p.covers 0 && bit d 0 then setBits v 1 1 0 else v)
  | _ => s.setReg r e v

/-- What became of one part: applied, barred by a rule, or reaching nothing the agent can change. -/
inductive Verdict where
  | applied
  | barred
  | nothing
deriving DecidableEq, Repr

/-- One part of a write (R509). -/
def State.writePart (s : State) (hearth : Bool) (off reach : Nat) (p : Part) : State × Verdict :=
  let e := s.entry hearth p.reg p.ix
  if !p.reaches hearth then (s, .nothing)
  else if reach ≠ 2 then (s, .barred)
  else if s.barred hearth p e then
    (if s.refuses hearth p.reg e p.code then s.markRefused p.reg e p.code else s, .barred)
  else (s.applyPart hearth p e off, .applied)

/-- A write of a legal access (R506, R508, R509, R511, R513). -/
def State.writeSpace (s : State) (hearth : Bool) (off : Nat) (data : List Byte) : State :=
  match winAt off with
  | none => s
  | some w =>
    let ps := partsOf w (off - w.base) data
    let reach := s.reach w
    if ps = [] then s.record hearth 1 off
    else
      let q := ps.foldl (fun (a : State × List Verdict) p =>
        let x := a.1.writePart hearth off reach p
        (x.1, x.2 :: a.2)) (s, [])
      if q.2.contains .barred || q.2.all (fun v => decide (v = .nothing)) then
        q.1.record hearth (if reach = 0 then 3 else 2) off
      else q.1

/-- A bad access changes nothing and is recorded (R507). -/
def State.badAccess (s : State) (hearth : Bool) (off : Nat) : State := s.record hearth 4 off

/-! ## The commands -/

/-- Hearth makes accesses only while it is READY and has its clock (R439, R473). -/
def State.mayAccess (s : State) (hearth : Bool) : Bool := !hearth || s.hearthReady

/-- A write access of an agent. -/
def State.access (s : State) (hearth : Bool) (off : Nat) (data : List Byte) : State :=
  if !s.mayAccess hearth then s
  else if accessOk off data.length then s.writeSpace hearth off data
  else s.badAccess hearth off

/-- REGISTER_WRITE: a write access of the host or of Hearth. -/
def execRegisterWrite (hearth : Bool) (off : Nat) (data : List Byte) (s : State) : Out :=
  .next (s.access hearth off data)

/-- BAD_REGISTER_ACCESS (R507). -/
def execBadRegisterAccess (hearth : Bool) (off size : Nat) (s : State) : Out :=
  .next (if !s.mayAccess hearth || accessOk off size then s else s.badAccess hearth off)

/-- SCCOUNT_WRITE: one operation that sets a count and wakes waiters where it meets the target (R45, R510). -/
def execSccountWrite (hearth : Bool) (c : Nat) (v : BitVec 32) (s : State) : Out :=
  within c Config.counters <| .next <|
    s.access hearth (Win.syncmap.base + Reg.SCCOUNT.spec.off + 0x20 * c) (leBytes 4 v.toNat)

/-- SCTARGET_WRITE (R45, R510). -/
def execSctargetWrite (hearth : Bool) (c : Nat) (v : BitVec 32) (s : State) : Out :=
  within c Config.counters <| .next <|
    s.access hearth (Win.syncmap.base + Reg.SCTARGET.spec.off + 0x20 * c) (leBytes 4 v.toNat)

/-- POWERCAP_WRITE: it waits for Hearth's next step (R378). Reserved bits and a WATTS outside 1,200 to 2,000 keep what they
held (R6). -/
def execPowercapWrite (hearth : Bool) (value : BitVec 32) (s : State) : Out :=
  .next (s.access hearth (Reg.POWERCAP.at 0) (leBytes 4 value.toNat))

/-- The register a command of Table 19-6 names. -/
def pendReg : PendReg → Reg
  | .rtepoch => .RTEPOCH | .chctl => .CHCTL | .fabctl => .FABCTL | .portctl => .PORTCTL | .cpctl => .CPCTL
  | .bkctl => .BKCTL | .rmctl => .RMCTL | .rmalias => .RMALIAS | .dieref => .DIEREF | .drainctl => .DRAINCTL
  | .twinctl => .TWINCTL | .rstctl => .RSTCTL | .mchctl => .MCHCTL | .powercap => .POWERCAP | .hdctl => .HDCTL

/-- The waiting action of a port (R283, R284). -/
def State.portAsk (s : State) (p v : Nat) : State :=
  if v = 1 then s.portReset p else ((s.askDone .PORTCTL p).retrainPort p)

/-- The waiting action of DRAINCTL. -/
def State.drainAsk (s : State) (h : Bool) (v : Nat) (fails : List MFail) : State :=
  if v = 1 then s.drainNow else s.marginCmd h fails

/-- The waiting action of RSTCTL. -/
def State.resetAsk (s : State) (h : Bool) (v : Nat) (o : Start) : State :=
  match v with
  | 1 => s.computeReset h o.fails
  | 2 => s.warmReset h o
  | 3 => s.enterNap h
  | 4 => s.leaveNap h
  | 5 => s.enterDeep h
  | _ => s.leaveDeep h o

/-- The waiting action of MCHCTL. -/
def State.mchAsk (s : State) (h : Bool) (m v : Nat) (errs : List TgErr) : State :=
  match v with
  | 1 => s.takeOut h m
  | 2 => s.returnIn h m errs
  | 3 => s.startGen h m
  | _ => s.stopGen m errs

/-- A waiting write takes effect (R9, R486): values are stored, actions performed. DIEREF takes effect at a refill, POWERCAP
at Hearth's step. -/
def State.takeAsk (s : State) (r : PendReg) (e : Nat) (a : Ask) (o : Start) (errs : List TgErr) : State :=
  match r with
  | .fabctl | .rmctl | .rmalias => (s.setReg (pendReg r) e a.value).askDone (pendReg r) e
  | .dieref => s.takeDieref e
  | .powercap => if s.hearthReady then s.powercapNow else s
  | .chctl => (s.askDone .CHCTL e).chanAct e a.value
  | .portctl => s.portAsk e a.value
  | .bkctl => s.bkctlAbort e
  | .drainctl => s.drainAsk a.hearth a.value o.fails
  | .twinctl => if a.value = 1 then s.twinPromote a.hearth else s.twinDetach a.hearth
  | .rstctl => s.resetAsk a.hearth a.value o
  | .mchctl => s.mchAsk a.hearth e a.value errs
  | .hdctl => s.hearthRestarts
  | .rtepoch | .cpctl => s

/-- WRITTEN_VALUE_TAKES_EFFECT on entry `e` of a register of Table 19-6. `o` and `errs` are what a reset's tests and
dies, or a generator run, show. -/
def execWrittenValueTakesEffect (r : PendReg) (e : Nat) (o : Start) (errs : List TgErr) (s : State) : Out :=
  within e r.count <| .next <| match r with
    | .rtepoch => if s.get F.RTEPOCH_PENDING 0 = 1 then s.flipEpoch else s
    | .cpctl => s.cpctlGo
    | _ => match s.ask (pendReg r) e with
      | some a => s.takeAsk r e a o errs
      | none => s

/-- TEST_PORT_ACCESS: the test port never changes a bit of device memory or of any register; with JTAGLOCK every
instruction but IDCODE acts as BYPASS (R494). -/
def execTestPortAccess (_ : TestOp) (s : State) : Out := .next s

end Sys2Proof.Machine
end

