-- ==== Sys2Proof/Machine/HostLink.lean ====
section
/-! DEFINITION. The host link (chapter 18): register accesses over the link, submission queues and command starts,
launches, DMA and fill, completion records and the event ring. -/

namespace Sys2Proof.Machine

/-! ## Messages of the KA-2 (R456) -/

/-- The edge die of an interface endpoint. -/
def edgeDie (ep : Nat) : Option Nat := (List.range 4).find? fun d => decide (edgeEp d = ep)

/-- A message of the KA-2 to an interface endpoint, of the wanted kind, at place `n` of the inbox. -/
def State.linkMsg (s : State) (n kind : Nat) : Option InMsg :=
  s.inMsg n fun m => decide (m.kind = kind) && decide (m.key.dev = ka2) && (edgeDie m.key.ep).isSome

/-- The word of a REGRD or REGWR. -/
def InMsg.regOff (m : InMsg) : Nat := bits (leValue (m.data.take 8)) 39 0
def InMsg.regSize (m : InMsg) : Nat := bits (leValue (m.data.take 8)) 47 40

def doneOk : List Byte := [0x00]
def doneBadReg : List Byte := [0x02]

/-- REGRD: the KA-2's register read at place `n` of the inbox is answered DATA, or DONE with BADREG. -/
def execRegrd (n : Nat) (s : State) : Out :=
  .next <| match s.linkMsg n kREGRD with
    | none => s
    | some m =>
      let s := s.dropIn n
      if accessOk m.regOff m.regSize && decide (m.data.length = 8) then
        let r := s.readSpace false m.regOff m.regSize
        r.2.hostAnswer m kDATA r.1
      else (s.badAccess false m.regOff).hostAnswer m kDONE doneBadReg

/-- REGWR: the KA-2's register write is applied and answered DONE. -/
def execRegwr (n : Nat) (s : State) : Out :=
  .next <| match s.linkMsg n kREGWR with
    | none => s
    | some m =>
      let s := s.dropIn n
      if accessOk m.regOff m.regSize && decide (m.data.length = 8 + m.regSize) then
        (s.writeSpace false m.regOff (m.data.drop 8)).hostAnswer m kDONE doneOk
      else (s.badAccess false m.regOff).hostAnswer m kDONE doneBadReg

/-- SQ_DOORBELL: the host writes SQDB[q].TAIL (R458). -/
def execSqDoorbell (q : Nat) (tail : BitVec 12) (s : State) : Out :=
  within q 64 <| .next (s.access false (Win.hostlink.base + 0x400 + 8 * q) (leBytes 4 tail.toNat))

/-- CQ_DOORBELL: the host writes CQDB[r].HEAD (R462). -/
def execCqDoorbell (r : Nat) (head : BitVec 12) (s : State) : Out :=
  within r 64 <| .next (s.access false (Win.hostlink.base + 0xC00 + 8 * r) (leBytes 4 head.toNat))

/-! ## The launch (Tables 18-3 and 18-4) -/

def lBarrier (e : Nat) : Bool := bit e 8
def lCtx (e : Nat) : Ctxt := if bit e 9 then .L else .F
def lAll (e : Nat) : Bool := bit e 10
def lCarr (e : Nat) : Bool := bit e 11
def lClass (e : Nat) : Nat := bits e 16 16
def lLevel (e : Nat) : Nat := bits e 18 17
def lCnum (e : Nat) : Nat := bits e 47 32
def lEntry (e : Nat) : Nat := bits e 127 64
def lArgs (e : Nat) : Nat := bits e 191 128
def lMask (e : Nat) : Nat := bits e 255 192
def lNum (e : Nat) : Nat := bits e 383 256

/-- Bytes of a tile mask (R460). -/
def State.maskLen (s : State) : Nat := ceilDiv s.tileCount 8

/-- Check 1 of Table 18-4. -/
def State.badLaunch (s : State) (e : Nat) : Bool :=
  decide (bits e 15 12 ≠ 0) || decide (bits e 23 19 ≠ 0) || decide (bits e 31 28 ≠ 0) || decide (bits e 63 48 ≠ 0)
  || decide (bits e 1023 384 ≠ 0) || (!lCarr e && decide (lCnum e ≠ 0)) || (lAll e && decide (lMask e ≠ 0))
  || decide (lEntry e % 8 ≠ 0) || decide (2 ^ 48 ≤ lEntry e)
  || (!lAll e && decide (s.capacity < lMask e + s.maskLen))

/-- The tiles a launch starts: those named, but for fenced ones and, under CRUST_DUAL, those of odd clusters (R460). -/
def State.launchTiles (s : State) (e mask : Nat) : List Nat :=
  (List.range s.tileCount).filter fun t =>
    (lAll e || bit mask t) && !s.tileFenced t && !(decide (lLevel e = 3) && decide (s.clusterOf t % 2 = 1))

/-- A context is launched and not ended. -/
def Ctx.live (x : Ctx) : Bool := decide (x.run = .running) || decide (x.run = .stopping)

/-- NUMCFG's reserved values (R120). -/
def numReserved (v : Nat) : Bool :=
  decide (bits v 63 12 ≠ 0) || decide (bits v 7 6 ≠ 0) || decide (bits v 11 10 = 3) || decide (2 ≤ bits v 4 3)
  || decide (2 ≤ bits v 2 1)

/-- Two ranges meet. -/
def meets (a n b m : Nat) : Bool := decide (0 < n) && decide (0 < m) && decide (a < b + m) && decide (b < a + n)

/-- R30 fails. -/
def State.segsBad (s : State) : Bool :=
  let vs := (List.range 64).filter s.segValid
  (vs.any fun k => decide (s.capacity < s.segBase k + s.segLen k))
  || vs.any fun k => vs.any fun j => decide (j ≠ k) && meets (s.segBase k) (s.segLen k) (s.segBase j) (s.segLen j)

/-- R419 fails. -/
def State.winsBad (s : State) : Bool :=
  let ws := (List.range 8).filter s.winValid
  ws.any fun w =>
    decide (s.capacity < s.winLoc w + s.winLen w) || s.segValid (s.get F.MIRWIN_PROMSEG w)
    || ((List.range 64).any fun k => s.segValid k && meets (s.winLoc w) (s.winLen w) (s.segBase k) (s.segLen k))
    || ws.any fun v => decide (v ≠ w) &&
        (decide (s.get F.MIRWIN_PROMSEG v = s.get F.MIRWIN_PROMSEG w)
         || meets (s.winLoc w) (s.winLen w) (s.winLoc v) (s.winLen v))

/-- R433 fails. -/
def State.mailboxBad (s : State) : Bool :=
  decide (s.get F.TWINCFG_SHEN 0 = 1) &&
    !((List.range 64).any fun k => s.segCovers (s.slotAddr 0) 4096 k && s.segAllows k .write
        && decide (s.get F.SEGDESC_MIRROR k = 0))

/-- Checks of Table 18-4 after the tile mask has been read, for the tiles that would start: the first status that applies;
OK for none. -/
def State.launchStatus (s : State) (e : Nat) (ts : List Nat) : Nat :=
  if ts.any fun t => (s.ctx t (lCtx e)).live then stCTX_BUSY
  else if s.host.job ∧ lClass e ≠ s.get F.INTEGCFG_CLASS 0 then stINTEGRITY
  else if s.host.job ∧ lLevel e ≠ s.get F.CRUSTCFG_LEVEL 0 then stCRUST
  else if numReserved (lNum e) then stNUM_INVALID
  else if s.host.job ∧ lNum e ≠ s.reg .NUMCFG 0 then stNUM_MISMATCH
  else if s.segsBad then stSEGMENT
  else if s.winsBad then stMIRWIN
  else if s.mailboxBad then stSHADOW
  else stOK

/-- The first launch of a job sets the job's values (R54, R120, R149, R392). -/
def State.beginJob (s : State) (e : Nat) : State :=
  if s.host.job then s
  else
    let s := ((s.setReg .NUMCFG 0 (lNum e)).put F.CRUSTCFG_LEVEL 0 (lLevel e)).put F.INTEGCFG_CLASS 0 (lClass e)
    s.setHost { s.host with job := true }

/-- The mirror state a launch sets (R425, R426). -/
def State.launchMirror (s : State) : State :=
  let has := (List.range 64).any fun k => s.segValid k && decide (s.get F.SEGDESC_MIRROR k = 1)
  if !has then s.put F.TWINSTAT_MSTATE 0 0
  else if s.get F.TWINSTAT_PEER 0 = 1 ∧ s.get F.TWINSTAT_CONFLICT 0 = 0 ∧ ¬ s.twin.lost then s.put F.TWINSTAT_MSTATE 0 1
  else (s.put F.TWINSTAT_MSTATE 0 2).log .twinUnprotected 0 []

/-- Start a context of a launch (R461). -/
def State.startCtx (s : State) (id e t : Nat) : State :=
  let s := s.wakeDie (s.cdieOf t)
  let x := s.ctx t (lCtx e)
  let x := x.wrS 1 (BitVec.ofNat 64 (lArgs e))
  s.setCtx t (lCtx e) { x with run := .running, pc := BitVec.ofNat 48 (lEntry e), loops := [], inh := false, stall := .none,
                               held := none, endFault := none, arrives := [], launch := some id }

/-- A launch that passes its checks (R461). -/
def State.launchGo (s : State) (c : HostCmd) (ts : List Nat) : State :=
  let s := (s.beginJob c.entry).launchMirror
  let s := s.setTwin { s.twin with launched := true }
  let c := { c with started := ts.length, left := ts.length }
  if ts = [] then s.complete c stOK
  else
    let s := s.setHost { s.host with cmds := s.host.cmds ++ [c] }
    ts.foldl (fun (u : State) t => u.startCtx c.id c.entry t) s

/-- LAUNCH (Table 18-4). -/
def State.launch (s : State) (c : HostCmd) : State :=
  let e := c.entry
  if s.badLaunch e then s.complete c stBADFIELD
  else if s.draining then s.complete c stDRAINED
  else
    let r : State × Except FaultAt (List Byte) := if lAll e then (s, .ok []) else s.devRead (lMask e) s.maskLen 0 0
    match r.2 with
    | .error f => r.1.complete { c with info := f.2 / 32 * 32 } stMEMERR
    | .ok bs =>
      let s := r.1
      let ts := s.launchTiles e (leValue bs)
      let st := s.launchStatus e ts
      if st = stOK then s.launchGo c ts else s.complete c st

/-! ## DMA and fill (Table 18-7, R465) -/

/-- A field a DMA or FILL command may not carry. -/
def badDma (e : Nat) : Bool :=
  let k := bits e 7 0
  let h := dmaHint e
  decide (bits e 15 12 ≠ 0) || decide (bits e 63 16 ≠ 0) || decide (bits e 1023 256 ≠ 0) || decide (2 ^ 40 ≤ dmaLen e)
  || decide (1 ≤ h ∧ h ≤ 3) || (decide (k ≠ 4) && decide (2 ^ 56 ≤ dmaHost e))

/-- Start a DMA or FILL command. -/
def State.dmaStart (s : State) (c : HostCmd) : State :=
  let e := c.entry
  if badDma e then s.complete c stBADFIELD
  else if dmaLen e = 0 then s.complete c stOK
  else if s.capacity < dmaDev e + dmaLen e then s.complete { c with info := max (dmaDev e) s.capacity } stADDRESS
  else
    let s := s.setHost { s.host with cmds := s.host.cmds ++ [c] }
    if c.kind = 4 then State.fillGo c.id (2 ^ 16) s else s.dmaStep c.id

/-! ## Submission queues (R458, R459) -/

/-- An enabled queue that could start a command: an entry is there, and its ring takes records (R462). -/
def State.queueServes (s : State) (q : Nat) : Bool :=
  decide (s.get F.SQCFG_EN q = 1) && decide (s.held (s.get F.SQCFG_CQ q) < 256)
  && ((SMap.look s.host.waiting q).isSome || decide (s.get F.SQDB_HEAD q ≠ s.get F.SQDB_TAIL q % 2 ^ s.get F.SQCFG_LOG2N q))

/-- Commands of a queue started and not completed. -/
def State.queueBusy (s : State) (q : Nat) : Bool := s.host.cmds.any fun c => decide (c.queue = q)

/-- An entry that waits for BARRIER may start, or none waits. -/
def State.queueFree (s : State) (q : Nat) : Bool := (SMap.look s.host.waiting q).isNone || !s.queueBusy q

/-- A FLUSH of a queue is under way. -/
def State.flushing (s : State) (q : Nat) : Bool := s.host.reqs.any fun r => decide (r.what = .flush q)

/-- The queue whose turn it is. -/
def State.nextQueue (s : State) : Option Nat :=
  let ok := fun (q : Nat) => s.queueServes q && s.queueFree q && !s.flushing q
  ((seqFrom s.host.turn (64 - s.host.turn)) ++ List.range s.host.turn).find? ok

/-- The next command of a queue, with its entry. -/
def State.newCmd (s : State) (q index e : Nat) : State × HostCmd :=
  (State.bindQueue { s with nextId := s.nextId + 1 } q (s.queueDie q),
   { id := s.nextId, queue := q, index := index, entry := e, pos := 0, status := stOK, info := 0, started := 0,
     left := 0, nfault := 0, report := none })

/-- A command of a queue starts. -/
def State.startCmd (s : State) (q index e : Nat) : State :=
  let r := s.newCmd q index e
  match r.2.kind with
  | 0 => r.1.complete r.2 stOK
  | 1 => r.1.launch r.2
  | 2 | 3 | 4 => r.1.dmaStart r.2
  | _ => r.1.complete r.2 stBADCMD

/-- Serve a queue: the entry that waits for BARRIER starts, or the entry at HEAD is read. A read that the KA-2 refuses, or
that is never answered, ends that command with HOSTWINDOW or HOSTLINK (R455, R467). -/
def State.serveQueue (s : State) (q : Nat) (r : EntryRead) : State :=
  let n := 2 ^ s.get F.SQCFG_LOG2N q
  let head := s.get F.SQDB_HEAD q
  let s := s.setHost { s.host with turn := (q + 1) % 64 }
  match SMap.look s.host.waiting q with
  | some w => (s.setHost { s.host with waiting := SMap.del s.host.waiting q }).startCmd q ((head + n - 1) % n) w
  | none =>
    let s := s.put F.SQDB_HEAD q ((head + 1) % n)
    match r with
    | .entry d =>
      let e := leValue d % 2 ^ 1024
      if lBarrier e && s.queueBusy q then s.setHost { s.host with waiting := SMap.ins s.host.waiting q e }
      else s.startCmd q head e
    | .refused => (s.newCmd q head 0).1.complete (s.newCmd q head 0).2 stHOSTWINDOW
    | .lost => (s.newCmd q head 0).1.complete (s.newCmd q head 0).2 stHOSTLINK

/-- COMMAND_START: the next queue in rotation is served; `read` is what the read of its entry at HEAD brings (log entry 51). A
queue whose traffic must move to another port sends a FLUSH first (R463, R467). -/
def execCommandStart (read : EntryRead) (s : State) : Out :=
  .next <|
    if !s.active || !s.hostPath then s
    else match s.nextQueue with
      | none => s
      | some q =>
        let old := s.queueDie q
        if s.wantDie q ≠ old then s.hostSend old kFLUSH (.flush q) []
        else s.serveQueue q read

/-- LAUNCH_COMPLETE: the last context that launch `id` started has ended (R461, R464). -/
def execLaunchComplete (id : Nat) (s : State) : Out :=
  .next <| match s.hostCmd id with
    | some c => if c.kind = 1 ∧ c.left = 0 then s.complete c (if c.nfault = 0 then stOK else stFAULT) else s
    | none => s

/-- DMA_COMPLETE: the last byte of DMA or FILL command `id` has moved, or it has stopped (R465). -/
def execDmaComplete (id : Nat) (s : State) : Out :=
  .next <|
    let s := match s.hostCmd id with
      | some c => if c.kind = 4 then State.fillGo id (2 ^ 16) s else s
      | none => s
    let waits := s.host.reqs.any fun r => match r.what with
      | .dmaIn i _ _ | .dmaOut i _ => decide (i = id)
      | _ => false
    match s.hostCmd id with
    | some c => if c.kind ≠ 1 ∧ dmaLen c.entry ≤ c.pos ∧ ¬ waits then s.complete c c.status else s
    | none => s

/-! ## Replies of the KA-2 -/

/-- The request that a reply at an endpoint answers. -/
def State.linkReq (s : State) (m : InMsg) : Option HReq :=
  s.host.reqs.find? fun r => decide (edgeEp r.die = m.key.ep) && decide (r.tag = m.tag)

def State.dropReq (s : State) (r : HReq) : State := s.setHost { s.host with reqs := s.host.reqs.filter fun x => decide (x ≠ r) }

/-- The bytes of a DMA_IN arrive (R465). -/
def State.dmaData (s : State) (id off : Nat) (bs : List Byte) : State :=
  match s.hostCmd id with
  | none => s
  | some c =>
    if c.status ≠ stOK then s
    else
      let r := s.devWrite (dmaDev c.entry + off) bs (dmaHint c.entry) 0 none
      match r.2 with
      | some f => r.1.stopCmd c stMEMERR (f.2 / 32 * 32)
      | none => (r.1.setCmd { c with pos := off + bs.length }).dmaStep id

/-- A DMA_IN write that would need a slice's 513th mirror write waits (R422). -/
def State.dataWaits (s : State) (r : HReq) : Bool :=
  match r.what with
  | .dmaIn id off n => match s.hostCmd id with
    | some c => s.mirrorFull (dmaDev c.entry + off) n
    | none => false
  | _ => false

/-- DATA: reply `n` of the inbox returns the data of a DMARD. -/
def execData (n : Nat) (s : State) : Out :=
  .next <| match s.linkMsg n kDATA with
    | none => s
    | some m => match s.linkReq m with
      | none => s.dropIn n
      | some r =>
        if s.dataWaits r then s
        else
          let s := (s.dropIn n).dropReq r
          match r.what with
          | .dmaIn id off k => s.dmaData id off (m.data.take k)
          | _ => s

/-- The KA-2 refused a request (R462, R465, R466). -/
def State.linkRefused (s : State) : HWhat → State
  | .dmaIn id _ _ | .dmaOut id _ => match s.hostCmd id with
    | some c => s.stopCmd c stHOSTWINDOW 0
    | none => s
  | .record r => ((s.recordBack r).put F.CQCFG_EN r 0).put F.CQCFG_REFUSED r 1
  | .event =>
    let k := s.host.events.length + 1
    let s := s.eventBack
    (((s.setHost { s.host with events := [] }).put F.EVRCFG_EN 0 0).put F.EVRCFG_REFUSED 0 1).bump F.EVRSTAT_DROPPED 0 k
  | .flush q => s.bindQueue q (s.wantDie q)
  | .intr => s

/-- The KA-2 performed a request. -/
def State.linkDone (s : State) : HWhat → State
  | .dmaIn id _ _ => match s.hostCmd id with
    | some c => s.stopCmd c stHOSTLINK 0
    | none => s
  | .dmaOut id n => match s.hostCmd id with
    | some c => if c.status = stOK then (s.setCmd { c with pos := c.pos + n }).dmaStep id else s
    | none => s
  | .record r => s.setHost { s.host with recs := s.host.recs.filter fun x => !(decide (x.ring = r) && x.sent) }
  | .event => s.setHost { s.host with evSent := none }
  | .flush q => s.bindQueue q (s.wantDie q)
  | .intr => s

/-- DONE: reply `n` of the inbox reports the outcome of a request. -/
def execDone (n : Nat) (s : State) : Out :=
  .next <| match s.linkMsg n kDONE with
    | none => s
    | some m =>
      let s := s.dropIn n
      match s.linkReq m with
      | none => s
      | some r =>
        let s := s.dropReq r
        if leValue (m.data.take 1) = 0 then s.linkDone r.what else s.linkRefused r.what

/-! ## Completion records and events (R462, R463, R466) -/

/-- A port takes `n` more requests. -/
def State.hostRoom (s : State) (die n : Nat) : Bool :=
  decide ((s.host.reqs.filter fun r => decide (r.die = die)).length + n ≤ 256)

/-- COMPLETION_RECORD: the oldest record of ring `r` is written at TAIL, and INTR follows when IEN is set. -/
def execCompletionRecord (r : Nat) (s : State) : Out :=
  within r 64 <| .next <|
    let n := 2 ^ s.get F.CQCFG_LOG2N r
    let t := s.get F.CQDB_TAIL r
    let full := decide ((t + 1) % n = s.get F.CQDB_HEAD r % n)
    let busy := s.host.reqs.any fun x => decide (x.what = .record r)
    match s.host.recs.find? fun x => decide (x.ring = r) with
    | none => s
    | some x =>
      let die := s.queueDie x.queue
      if s.get F.CQCFG_EN r = 0 ∨ full ∨ busy ∨ x.sent ∨ ¬ s.hostPath ∨ ¬ s.hostRoom die 2 then s
      else
        let ph := 1 - SMap.get 0 s.host.phase r
        let ref := (s.get F.CQCFG_BASE r + 32 * t) % 2 ^ 64
        let s := s.setHost { s.host with recs := s.host.recs.map fun y => if y = x then { y with sent := true } else y }
        let s := s.hostSend die kDMAWR (.record r) (leBytes 8 ref ++ x.data.take 31 ++ leBytes 1 ph)
        let s := s.put F.CQDB_TAIL r ((t + 1) % n)
        let s := if (t + 1) % n = 0 then s.setHost { s.host with phase := SMap.set 0 s.host.phase r ph } else s
        if s.get F.CQCFG_IEN r = 1 then s.hostSend die kINTR .intr (leBytes 2 (s.get F.CQCFG_IVEC r)) else s

/-- EVENT_RING_WRITE: Hearth writes its next record into the event ring, PHASE in bit 7 of SEV, and sends INTR; one that finds
the ring full is dropped. -/
def execEventRingWrite (s : State) : Out :=
  .next <| match s.host.events with
    | [] => s
    | e :: es =>
      let n := 2 ^ s.get F.EVRCFG_LOG2N 0
      let t := s.get F.EVRSTAT_TAIL 0
      let die := s.wantDie 0
      if s.get F.EVRCFG_EN 0 = 0 ∨ ¬ s.hearthReady ∨ s.host.evSent.isSome ∨ ¬ s.hostPath ∨ ¬ s.hostRoom die 2 then s
      else if (t + 1) % n = s.get F.EVRCFG_HEAD 0 % n then
        (s.setHost { s.host with events := es }).bump F.EVRSTAT_DROPPED 0 1
      else
        let ph := 1 - s.host.evPhase
        let ref := (s.get F.EVRCFG_BASE 0 + 32 * t) % 2 ^ 64
        let s := s.setHost { s.host with events := es, evSent := some e }
        let s := s.hostSend die kDMAWR .event (leBytes 8 ref ++ leBytes 32 (setBits e 63 63 ph))
        let s := s.put F.EVRSTAT_TAIL 0 ((t + 1) % n)
        let s := if (t + 1) % n = 0 then s.setHost { s.host with evPhase := ph } else s
        s.hostSend die kINTR .intr (leBytes 2 (s.get F.EVRCFG_IVEC 0))

end Sys2Proof.Machine
end

