-- ==== Sys2Proof/Machine/Vector.lean ====
section
/-! DEFINITION. The vector unit (chapter 6): the meaning of each V instruction at its start, and its issue. -/

namespace Sys2Proof.Machine

/-! ## Elements -/

/-- Elements of a register by TYPE (R158). -/
def elemsOf (ty : Nat) : Nat := if ty = 1 then 32 else 64

/-- The element patterns of a register. -/
def Ctx.elems (x : Ctx) (ty r : Nat) : List Nat := (List.range (elemsOf ty)).map (x.rdElem ty r)

/-- Write the participating elements of a register (R61, R159). -/
def Ctx.wrElems (x : Ctx) (ty r : Nat) (mask : Word) (vs : List Nat) : Ctx :=
  vs.zipIdx.foldl (fun y e => if takesPart ty mask e.2 then y.wrElem ty r e.2 e.1 else y) x

/-- The layout of FP64 and FP32. -/
def arithFmt (ty : Nat) : FloatFmt := if ty = 1 then fp64 else fp32

/-- Apply an operation of integers or of float values to element patterns: one rounding, RNE, canonical NaN (R160). -/
def lift1 (ty : Nat) (fi : Int → Int) (ff : FVal → FVal) (a : Nat) : Nat :=
  if ty = 15 then wrapInt 32 (fi (sext 32 a)) else (arithFmt ty).encode .rne (ff ((arithFmt ty).decode a))

def lift2 (ty : Nat) (fi : Int → Int → Int) (ff : FVal → FVal → FVal) (a b : Nat) : Nat :=
  if ty = 15 then wrapInt 32 (fi (sext 32 a) (sext 32 b))
  else (arithFmt ty).encode .rne (ff ((arithFmt ty).decode a) ((arithFmt ty).decode b))

/-- The value of an element for a comparison. -/
def arithVal (ty v : Nat) : FVal := if ty = 15 then intVal 32 v else (arithFmt ty).decode v

/-! ## Two-source and one-source operations (Table 6-1) -/

def vecAdd (ty : Nat) : Nat → Nat → Nat := lift2 ty (· + ·) FVal.add
def vecSub (ty : Nat) : Nat → Nat → Nat := lift2 ty (· - ·) fun a b => a.add b.negate
def vecMul (ty : Nat) : Nat → Nat → Nat := lift2 ty (· * ·) FVal.mul
def vecMin (ty : Nat) : Nat → Nat → Nat := lift2 ty min FVal.min
def vecMax (ty : Nat) : Nat → Nat → Nat := lift2 ty max FVal.max
def vecAbs (ty : Nat) : Nat → Nat := lift1 ty (fun i => if i < 0 then -i else i) FVal.abs
def vecNeg (ty : Nat) : Nat → Nat := lift1 ty (fun i => -i) FVal.negate

/-- vfma: one rounding after the exact product and sum (R160). -/
def vecFma (ty a b c : Nat) : Nat :=
  if ty = 15 then wrapInt 32 (sext 32 a * sext 32 b + sext 32 c)
  else
    let f := arithFmt ty
    f.encode .rne (((f.decode a).mul (f.decode b)).add (f.decode c))

def vecShl (a b : Nat) : Nat := a * 2 ^ (b % 32) % 2 ^ 32
def vecShr (arith : Bool) (a b : Nat) : Nat :=
  if arith then wrapInt 32 (sext 32 a / 2 ^ (b % 32)) else a / 2 ^ (b % 32)

/-! ## Conversion (R167 to R170) -/

/-- The source element of vcvt by TYPE: packed position k for types narrower than 32 bits (R168). -/
def Ctx.cvtSource (x : Ctx) (ty r k : Nat) : FVal :=
  if fmtWidth ty < 32 then elemVal false ty (packedElem (fmtWidth ty) (x.rdVec r) k)
  else elemVal false ty (x.rdElem ty r k)

/-- Write destination element k of vcvt (R168). -/
def Ctx.cvtDest (x : Ctx) (dst r k v : Nat) : Ctx :=
  let w := fmtWidth dst
  if w < 32 then x.wrVec r (setBits (x.rdVec r) (w * k + w - 1) (w * k) v) else x.wrElem dst r k v

/-- The (source, destination) element pairs of a conversion (R168). -/
def cvtPairs (ty dst : Nat) (half : Bool) : List (Nat × Nat) :=
  let h := if half then 32 else 0
  if ty = 1 then (List.range 32).map fun k => (k, h + k)
  else if dst = 1 then (List.range 32).map fun k => (h + k, k)
  else (List.range 64).map fun k => (k, k)

/-- vcvt to any destination but the sliced operand (R167 to R169). -/
def Ctx.cvt (x : Ctx) (num : NumCfg) (o : UOp) : Ctx :=
  let w := o.word.toNat
  let ty := bits w 19 15
  let dst := bits w 4 0
  let vd := bits w 39 35
  let vs := (cvtPairs ty dst (bit w 5)).map fun p =>
    (p.2, elemEnc num.sat dst (num.rnd (o.va.toNat + p.2) (o.vb.toNat % 2 ^ 32)) (x.cvtSource ty (bits w 34 30) p.1))
  vs.foldl (fun y e => if takesPart dst o.mask e.1 then y.cvtDest dst vd e.1 e.2 else y) x

/-- vcvt to the sliced operand (R170): the bytes it writes, as (position, byte). -/
def Ctx.cvtSliced (x : Ctx) (o : UOp) : Ctx :=
  let w := o.word.toNat
  let ty := bits w 19 15
  let n := if ty = 1 then 7 else 3
  let sl := bits w 8 6
  let given := if bits w 14 9 = 0 then none else some (o.va.toNat % 2 ^ 16)
  let src := (List.range (elemsOf ty)).map (x.cvtSource ty (bits w 34 30))
  let vd := bits w 39 35
  let img := (List.range (elemsOf ty / 16)).foldl (fun (u : Nat) v =>
    let r := sliceVec n given ((src.drop (16 * v)).take 16)
    let u := setBits u (8 * (16 * v + 15) + 7) (8 * 16 * v) (packElems 8 (r.2.2.getD (sl - 1) []))
    let u := setBits u (8 * (65 + 2 * v) + 7) (8 * (64 + 2 * v)) r.2.1
    setBits u (8 * (73 + 2 * v) + 7) (8 * (72 + 2 * v)) r.1) (x.rdVec vd)
  x.wrVec vd img

/-! ## Reductions (R171) -/

/-- The fixed tree: the first half combined with the second, level by level. -/
def tree (f : Nat → Nat → Nat) : Nat → List Nat → Nat
  | 0, vs => vs.getD 0 0
  | n + 1, vs =>
    let h := 2 ^ n
    tree f n ((List.range h).map fun k => f (vs.getD k 0) (vs.getD (k + h) 0))

/-- What an element that does not take part enters as: for sum, maximum, minimum. -/
def idle (ty op : Nat) : Nat :=
  let sign := if ty = 1 then 2 ^ 63 else 2 ^ 31
  let inf := if ty = 1 then 0x7FF0000000000000 else 0x7F800000
  if ty = 15 then (match op with | 0x14 => 0 | 0x15 => 2 ^ 31 | _ => 2 ^ 31 - 1)
  else match op with | 0x14 => sign | 0x15 => sign + inf | _ => inf

def Ctx.reduce (x : Ctx) (op ty va vd : Nat) (mask : Word) : Ctx :=
  let f := match op with | 0x14 => vecAdd ty | 0x15 => vecMax ty | _ => vecMin ty
  let vs := (x.elems ty va).zipIdx.map fun e => if takesPart ty mask e.2 then e.1 else idle ty op
  let r := tree f (if ty = 1 then 5 else 6) vs
  x.wrElems ty vd mask (List.replicate (elemsOf ty) r)

/-! ## The effect of a V instruction at its start -/

/-- The register part: every V instruction but vld and vst. -/
def Ctx.runV (x : Ctx) (num : NumCfg) (o : UOp) : Ctx :=
  let w := o.word.toNat
  let op := wOp w
  let ty := bits w 19 15
  let vd := bits w 39 35
  let va := bits w 34 30
  let vb := bits w 29 25
  let vc := bits w 24 20
  let imm := bits w 8 0
  let a := x.elems ty va
  let b := x.elems ty vb
  let two := fun (f : Nat → Nat → Nat) => x.wrElems ty vd o.mask (List.zipWith f a b)
  match op with
  | 0x00 => two (vecAdd ty)
  | 0x01 => two (vecSub ty)
  | 0x02 => two (vecMul ty)
  | 0x03 => x.wrElems ty vd o.mask (List.zipWith (fun p c => vecFma ty p.1 p.2 c) (a.zip b) (x.elems ty vc))
  | 0x04 => two (vecMin ty)
  | 0x05 => two (vecMax ty)
  | 0x06 => x.wrElems ty vd o.mask (a.map (vecAbs ty))
  | 0x07 => x.wrElems ty vd o.mask (a.map (vecNeg ty))
  | 0x08 => if bits imm 4 0 = 0x15 then x.cvtSliced o else x.cvt num o
  | 0x09 =>
    let p := bits vd 2 0
    let bs := List.zipWith (fun c d => vecCond (bits imm 2 0) (arithVal ty c) (arithVal ty d)) a b
    x.wrP p (BitVec.ofNat 64 (bs.zipIdx.foldl
      (fun q e => if takesPart ty o.mask e.2 then setPredBits ty q e.2 e.1 else q) (x.rdP p).toNat))
  | 0x0A =>
    let p := x.rdP (bits vc 2 0)
    x.wrElems ty vd o.mask ((a.zip b).zipIdx.map fun e => if takesPart ty p e.2 then e.1.1 else e.1.2)
  | 0x0B => two (· &&& ·)
  | 0x0C => two (· ||| ·)
  | 0x0D => two (· ^^^ ·)
  | 0x0E => two vecShl
  | 0x0F => two (vecShr (bit imm 0))
  | 0x12 => x.wrElems ty vd o.mask (List.replicate (elemsOf ty) (o.va.toNat % 2 ^ (if ty = 1 then 64 else 32)))
  | 0x13 =>
    let v := x.rdElem ty va (bits imm (if ty = 1 then 4 else 5) 0)
    x.wrS (bits w 14 9) (BitVec.ofNat 64 (if ty = 15 then wrapInt 64 (sext 32 v) else v))
  | 0x17 =>
    x.wrElems ty vd o.mask ((List.range (elemsOf ty)).map fun k =>
      let sel := x.rdLane vb (if ty = 1 then 2 * k else k)
      a.getD (sel.toNat % elemsOf ty) 0)
  | 0x18 =>
    let i := sext 9 imm
    let v := if ty = 15 then wrapInt 32 i else (arithFmt ty).encode .rne (FVal.ofInt false i 0)
    x.wrElems ty vd o.mask (List.replicate (elemsOf ty) v)
  | _ => x.reduce op ty va vd o.mask

/-- The tile-local address of vld and vst: s(SA) + 256 × IMM9 (R162). -/
def vecAddr (sa : Word) (imm : Nat) : Int := (sa.toNat : Int) + 256 * sext 9 imm

/-- R162: the fault of vld or vst, if it has one. -/
def vecCheck (sa : Word) (ty imm : Nat) : Option FaultAt :=
  let a := vecAddr sa imm
  if !localReg sa then some (cOPERAND, unstated)
  else if a % (if ty = 1 then 8 else 4) ≠ 0 then some (cALIGN, wrapInt 64 a)
  else if a < 0 then some (cLOCAL_RANGE, wrapInt 64 a)
  else localCheck a.toNat 256

/-- Start a V instruction: its whole effect (R172). `sram` is what vld's read meets (R394). -/
def State.runV (s : State) (t : Nat) (o : UOp) (sram : Sram) : State :=
  let w := o.word.toNat
  let ty := bits w 19 15
  let a := (vecAddr o.va (bits w 8 0)).toNat
  let n := if ty = 1 then 8 else 4
  let x := s.ctx t o.ctx
  if wOp w = 0x10 then
    let vs := (List.range (elemsOf ty)).map fun k => (s.tile t).rdNat (a + n * k) n
    (s.sramNote t sram).setCtx t o.ctx (x.wrElems ty (bits w 39 35) o.mask vs)
  else if wOp w = 0x11 then
    (x.elems ty (bits w 34 30)).zipIdx.foldl
      (fun u e => if takesPart ty o.mask e.2 then u.wrLocal t (a + n * e.2) (leBytes n e.1) else u) s
  else s.setCtx t o.ctx (x.runV (NumCfg.ofReg (s.reg .NUMCFG 0)) o)

/-- Start a queued V instruction if it may start and its charge is covered (R39, R172, R372). A read of vld that finds
an uncorrectable error delivers nothing (R394). -/
def State.startV (s : State) (t : Nat) (o : UOp) (sram : Sram) : State :=
  if !(s.tile t).startable o then s
  else if decide (wOp o.word.toNat = 0x10) && decide (sram = .uncorrectable) then s.sramFail t
  else if !s.covered t (costKey o.word.toNat) then s.pause t (costKey o.word.toNat)
  else ((s.pay t (costKey o.word.toNat)).markStarted t o).runV t o sram

/-! ## Issue -/

/-- Registers a V or F instruction's issue reads. -/
def usesUnit (w : Nat) : Uses := ⟨uCaptures w, []⟩

/-- R169: vcvt under SR with SA = 63 raises OPERAND, but for the sliced operand. -/
def cvtCheck (num : NumCfg) (f : VF) : Option FaultAt :=
  if num.sr && decide (f.sa = 63) && decide (f.imm9.toNat % 32 ≠ 0x15) then some (cOPERAND, unstated) else none

/-- The issue of a V instruction: it always issues, its guard being a lane mask (R61), and starts at once where its
unit's queue lets it. -/
def issueV (op : Nat) (h : Head) (f : VF) (check : State → Option FaultAt) (sram : Sram) (s : State) : Out :=
  let w := encV op h f
  issue h w (usesUnit w) true (fun s =>
    match check s with
    | some e => .fault e
    | none =>
      if s.affordable h.tile (costKey w) then
        let o := capture s h .vector w f.sa.toNat (f.sa.toNat + 1) 0
        let n := (s.tile h.tile).seq
        .hold (((s.enqueue h.tile o).advance h.tile h.ctx).startV h.tile { o with seq := n } sram)
      else .hold (s.pause h.tile (costKey w))) s

def noCheck : State → Option FaultAt := fun _ => none

def execVadd (h : Head) (f : VF) (s : State) : Out := issueV 0x00 h f noCheck .good s
def execVsub (h : Head) (f : VF) (s : State) : Out := issueV 0x01 h f noCheck .good s
def execVmul (h : Head) (f : VF) (s : State) : Out := issueV 0x02 h f noCheck .good s
def execVfma (h : Head) (f : VF) (s : State) : Out := issueV 0x03 h f noCheck .good s
def execVmin (h : Head) (f : VF) (s : State) : Out := issueV 0x04 h f noCheck .good s
def execVmax (h : Head) (f : VF) (s : State) : Out := issueV 0x05 h f noCheck .good s
def execVabs (h : Head) (f : VF) (s : State) : Out := issueV 0x06 h f noCheck .good s
def execVneg (h : Head) (f : VF) (s : State) : Out := issueV 0x07 h f noCheck .good s
/-- vcvt (R167 to R170). -/
def execVcvt (h : Head) (f : VF) (s : State) : Out :=
  issueV 0x08 h f (fun s => cvtCheck (NumCfg.ofReg (s.reg .NUMCFG 0)) f) .good s
def execVcmp (h : Head) (f : VF) (s : State) : Out := issueV 0x09 h f noCheck .good s
def execVsel (h : Head) (f : VF) (s : State) : Out := issueV 0x0A h f noCheck .good s
def execVand (h : Head) (f : VF) (s : State) : Out := issueV 0x0B h f noCheck .good s
def execVor (h : Head) (f : VF) (s : State) : Out := issueV 0x0C h f noCheck .good s
def execVxor (h : Head) (f : VF) (s : State) : Out := issueV 0x0D h f noCheck .good s
def execVshl (h : Head) (f : VF) (s : State) : Out := issueV 0x0E h f noCheck .good s
def execVshr (h : Head) (f : VF) (s : State) : Out := issueV 0x0F h f noCheck .good s
/-- vld (R162). -/
def execVld (h : Head) (f : VF) (sram : Sram) (s : State) : Out :=
  issueV 0x10 h f (fun s => vecCheck ((s.ctx h.tile h.ctx).rdS f.sa.toNat) f.ty.toNat f.imm9.toNat) sram s
/-- vst (R162). -/
def execVst (h : Head) (f : VF) (s : State) : Out :=
  issueV 0x11 h f (fun s => vecCheck ((s.ctx h.tile h.ctx).rdS f.sa.toNat) f.ty.toNat f.imm9.toNat) .good s
def execVbcast (h : Head) (f : VF) (s : State) : Out := issueV 0x12 h f noCheck .good s
def execVext (h : Head) (f : VF) (s : State) : Out := issueV 0x13 h f noCheck .good s
def execVrsum (h : Head) (f : VF) (s : State) : Out := issueV 0x14 h f noCheck .good s
def execVrmax (h : Head) (f : VF) (s : State) : Out := issueV 0x15 h f noCheck .good s
def execVrmin (h : Head) (f : VF) (s : State) : Out := issueV 0x16 h f noCheck .good s
def execVperm (h : Head) (f : VF) (s : State) : Out := issueV 0x17 h f noCheck .good s
def execVmovi (h : Head) (f : VF) (s : State) : Out := issueV 0x18 h f noCheck .good s

end Sys2Proof.Machine
end

