-- ==== Sys2Proof/Machine/Sfu.lean ====
section
/-! DEFINITION. The special-function unit and the codebook (chapter 6). A finite result of the four functions is a FREE
VALUE (log entry 7) inside the bound the manual states; special inputs, exact results and the level-2 seams are fixed.
The exact value is enclosed by rational bounds with 160 fractional bits. -/

namespace Sys2Proof.Machine

/-! ## Enclosures, in units of 2^-160 -/

def sfuP : Nat := 160
def sfuOne : Nat := 2 ^ sfuP

/-- Sum of z^(2k+1)/(2k+1) over k below `n`, z in units of 2^-160: `p` is the running power. -/
def atanhSum (z2 : Nat) : Nat → Nat → Nat → Nat
  | 0, _, _ => 0
  | n + 1, p, k => p / (2 * k + 1) + atanhSum z2 n (p * z2 / sfuOne) (k + 1)

/-- ln(a / b) for 1 ≤ a/b ≤ 2, from below, within 2^-150. -/
def lnRatio (a b : Nat) : Nat :=
  let z := (a - b) * sfuOne / (a + b)
  2 * atanhSum (z * z / sfuOne) 60 z 0

/-- ln 2 from below. -/
def ln2 : Nat := lnRatio 2 1

/-- Sum of x^k / k! over k below `n`: `p` is the running term. -/
def expSum (x : Nat) : Nat → Nat → Nat → Nat
  | 0, _, _ => 0
  | n + 1, p, k => p + expSum x n (p * x / sfuOne / (k + 1)) (k + 1)

/-- e^x from below for 0 ≤ x ≤ 1, in units of 2^-160, within 2^-150. -/
def expFrac (x : Nat) : Nat := expSum x 60 sfuOne 0

/-- The error every enclosure stays within, in units of 2^-160. -/
def sfuSlack : Nat := 2 ^ 12

/-- A bound ±m × 2^e pair: an interval that holds the exact value. -/
structure Encl where
  lo : FVal
  hi : FVal
deriving DecidableEq, Repr

/-- An interval around n × 2^e (n an integer in units of 2^e). -/
def Encl.around (n : Int) (slack : Nat) (e : Int) : Encl :=
  { lo := FVal.ofInt false (n - slack) e, hi := FVal.ofInt false (n + slack) e }

/-- m × 2^e as an integer in units of 2^-160, rounded down. -/
def toFix (neg : Bool) (m : Nat) (e : Int) : Int :=
  let s := e + 160
  let u : Int := sgnInt neg m
  if 0 ≤ s then u * 2 ^ s.toNat else u / (2 ^ (-s).toNat : Int)

/-- e^x or 2^x for finite x with |x| < 2^10. -/
def exactExp (base2 : Bool) (neg : Bool) (m : Nat) (e : Int) : Encl :=
  let x := toFix neg m e
  let y := if base2 then x * ln2 / (sfuOne : Int) else x
  let n := y / (ln2 : Int)
  let f := (y - n * ln2).toNat
  Encl.around (expFrac f) (2 ^ 24) (n - 160)

/-- ln x or log₂ x for finite x > 0. -/
def exactLog (base2 : Bool) (m : Nat) (e : Int) : Encl :=
  let k := floorLog2 m e
  let f := lnRatio m (2 ^ m.log2)
  if base2 then Encl.around (k * sfuOne + (f * sfuOne / ln2 : Nat)) sfuSlack (-160)
  else Encl.around (k * ln2 + f) (2 ^ 24) (-160)

/-- 1 / x for finite x > 0. -/
def exactRcp (m : Nat) (e : Int) : Encl :=
  let q := 2 ^ 200 / m
  { lo := .fin false q (-200 - e), hi := .fin false (q + 1) (-200 - e) }

/-- Integer square root by bits: the largest r with r² ≤ n, from bit `b` down. -/
def sqrtBits (n : Nat) : Nat → Nat → Nat
  | 0, r => r
  | b + 1, r => sqrtBits n b (if (r + 2 ^ b) * (r + 2 ^ b) ≤ n then r + 2 ^ b else r)

/-- 1 / √x for finite x > 0: √(2^(2k) / x) with an even exponent. -/
def exactRsq (m : Nat) (e : Int) : Encl :=
  let h := e / 2
  let m' := m * 2 ^ (e - 2 * h).toNat
  let r := sqrtBits (2 ^ 240 / m') 122 0
  { lo := .fin false r (-120 - h), hi := .fin false (r + 1) (-120 - h) }

/-! ## Results -/

/-- One ulp of the exact result (R177), taken from the bound of larger magnitude. -/
def ulpOf (b : Encl) : FVal :=
  let l := max (b.lo.abs.log2.getD (-149)) (b.hi.abs.log2.getD (-149))
  .fin false 1 (max (l - 23) (-149))

/-- A pattern is a finite value within n ulp of the exact value (R177, R178). -/
def withinUlp (n : Nat) (b : Encl) (v : FVal) : Bool :=
  let u := ulpOf b
  let d := match u with
    | .fin _ m e => FVal.fin false (m * n) e
    | x => x
  v.isFin && !v.lt (b.lo.add d.negate) && !(b.hi.add d).lt v

/-- m × 2^(e + k), rounded down. -/
def scaledTo (m : Nat) (e k : Int) : Nat := let s := e + k; if 0 ≤ s then m * 2 ^ s.toNat else m / 2 ^ (-s).toNat

/-- Where a magnitude lies on the ladder of FP32 values: pattern of the largest value not above it, and 160 bits of the way to
the next. -/
def ladderPos (m : Nat) (e : Int) : Nat × Nat :=
  let v := fp32.encode (.sr 0) (.fin false m e)
  let u : Int := max (v / 2 ^ 23 : Nat) 1 - 150
  let base := match fp32.decode v with
    | .fin _ n f => scaledTo n f (160 - u)
    | _ => 0
  (v, scaledTo m e (160 - u) - base)

/-- The unit's result for an exact magnitude: the largest FP32 value whose threshold, a free value, the magnitude has reached.
A threshold lies at most n steps below its value and n - 1 steps above it (n = 1, or 2 at level 2), so the result is within
the bound, and it never falls while the exact value rises (R177, R178). -/
def sfuLadder (op : Nat) (base2 lvl2 : Bool) (b : Encl) : Option Nat :=
  match b.lo with
  | .fin neg m e =>
    let n := if lvl2 then 2 else 1
    let p := ladderPos m e
    let ok := fun (w : Nat) =>
      decide (w * 2 ^ 160 + (2 * n - 1) * (Config.sfu op base2 lvl2 (BitVec.ofNat 32 w)).toNat ≤ (p.1 + n) * 2 ^ 160 + p.2)
      && withinUlp n b (fp32.decode (b2n neg * 2 ^ 31 + w))
    let low := p.1 + 1 - n
    (((List.range (2 * n)).map fun i => low + i).filter ok).getLast?.map fun w => b2n neg * 2 ^ 31 + w
  | _ => none

/-- The result for a finite input that is no special case: overflow and underflow as R175 states, else the unit's own. -/
def sfuResult (op : Nat) (base2 lvl2 : Bool) (b : Encl) : Nat :=
  let near := fp32.encode .rne b.lo
  if near = 0x7F800000 ∨ near % 2 ^ 31 = 0 then near else (sfuLadder op base2 lvl2 b).getD near

/-- The level-2 frsq seams (Table 6-5). -/
def frsqSeam : Nat → Option Nat
  | 0x3FADFFFF => some 0x3F5B9192
  | 0x3FAE0000 => some 0x3F5B9193
  | 0x4051FFFF => some 0x3F0D534D
  | 0x40520000 => some 0x3F0D534E
  | 0x3DF3FFFF => some 0x40396ACC
  | 0x3DF40000 => some 0x40396ACD
  | _ => none

def nan32 : Nat := 0x7FC00000
def inf32 : Nat := 0x7F800000
def one32 : Nat := 0x3F800000

/-- A power of two's exponent: m × 2^e = 2^k. -/
def pow2Exp (m : Nat) (e : Int) : Option Int := if m = 2 ^ m.log2 then some ((m.log2 : Int) + e) else none

/-- fexp (R173 to R178, Table 6-4). -/
def sfuExp (base2 lvl2 : Bool) (x : Nat) : Nat :=
  match fp32.decode x with
  | .nan => nan32
  | .inf neg => if neg then 0 else inf32
  | .fin neg m e =>
    if m = 0 then one32
    else if base2 && exactAt m e 0 then
      let k := sgnInt neg (roundTo .rne m e 0)
      if k ≥ 128 then inf32 else if k < -149 then 0 else fp32.encode .rne (.fin false 1 k)
    else if 10 ≤ floorLog2 m e then (if neg then 0 else inf32)
    else sfuResult 0 base2 lvl2 (exactExp base2 neg m e)

/-- flog. -/
def sfuLog (base2 lvl2 : Bool) (x : Nat) : Nat :=
  match fp32.decode x with
  | .nan => nan32
  | .inf neg => if neg then nan32 else inf32
  | .fin neg m e =>
    if m = 0 then 2 ^ 31 + inf32
    else if neg then nan32
    else match pow2Exp m e with
      | some k =>
        if k = 0 then 0
        else if base2 then fp32.encode .rne (FVal.ofInt false k 0)
        else sfuResult 1 base2 lvl2 (exactLog base2 m e)
      | none => sfuResult 1 base2 lvl2 (exactLog base2 m e)

/-- frcp: symmetric in the sign (Table 6-4). -/
def sfuRcp (lvl2 : Bool) (x : Nat) : Nat :=
  let sign := x / 2 ^ 31 * 2 ^ 31
  match fp32.decode x with
  | .nan => nan32
  | .inf _ => sign
  | .fin _ m e =>
    if m = 0 then sign + inf32
    else match pow2Exp m e with
      | some k => sign + (if k < -127 then inf32 else fp32.encode .rne (.fin false 1 (-k)))
      | none => sign + sfuResult 2 false lvl2 (exactRcp m e)

/-- The four pieces between the level-2 seams, on each of which frsq never rises; with the least and the largest result of each
(R178, Table 6-5). -/
def frsqPiece (x : Nat) : Nat × Nat × Nat :=
  if x < 0x3DF40000 then (0, 0x40396ACC, 0x7F7FFFFF)
  else if x < 0x3FAE0000 then (1, 0x3F5B9192, 0x40396ACD)
  else if x < 0x40520000 then (2, 0x3F0D534D, 0x3F5B9193)
  else (3, 0, 0x3F0D534E)

/-- frsq of a positive finite x that Table 6-5 and R176 do not fix. -/
def frsqFree (lvl2 : Bool) (x m : Nat) (e : Int) : Nat :=
  if lvl2 then
    let p := frsqPiece x
    max p.2.1 (min p.2.2 (sfuResult (3 + p.1) false true (exactRsq m e)))
  else sfuResult 3 false false (exactRsq m e)

/-- frsq. -/
def sfuRsq (lvl2 : Bool) (x : Nat) : Nat :=
  match fp32.decode x with
  | .nan => nan32
  | .inf neg => if neg then nan32 else 0
  | .fin neg m e =>
    if m = 0 then x / 2 ^ 31 * 2 ^ 31 + inf32
    else if neg then nan32
    else
      let seam := if lvl2 then frsqSeam x else none
      match seam, pow2Exp m e with
      | some r, _ => r
      | none, some k => if k % 2 = 0 then fp32.encode .rne (.fin false 1 (-(k / 2)))
                        else frsqFree lvl2 x m e
      | none, none => frsqFree lvl2 x m e

/-! ## The codebook (R179 to R183) -/

def Tile.entry (t : Tile) (bank i : Nat) : Lane := SMap.get 0 t.codebook (256 * bank + i)
def Tile.setEntry (t : Tile) (bank i : Nat) (v : Lane) : Tile :=
  { t with codebook := SMap.set 0 t.codebook (256 * bank + i) v }

/-- cbload: lanes of VA into quarter q of the shadow bank; NaN stored canonical (R180). -/
def Tile.cbload (t : Tile) (vs : List Nat) (mask : Word) (q : Nat) : Tile :=
  vs.zipIdx.foldl (fun u e =>
    if takesPart 2 mask e.2 then
      u.setEntry (1 - t.bank) (64 * q + e.2) (BitVec.ofNat 32 (if (fp32.decode e.1).isNan then nan32 else e.1))
    else u) t

/-- The entry index lane k looks up (R181). -/
def cbIndex (va var k : Nat) : Nat :=
  let g := bits var 3 1
  if bit var 0 then 16 * bits var 7 4 + packedElem 4 va (64 * g + k) else packedElem 8 va (64 * g + k)

/-- Start an F instruction: its whole effect (R173 to R183). -/
def State.runF (s : State) (t : Nat) (o : UOp) : State :=
  let w := o.word.toNat
  let var := bits w 8 0
  let vd := bits w 39 35
  let x := s.ctx t o.ctx
  let src := x.elems 2 (bits w 34 30)
  let lvl2 := (NumCfg.ofReg (s.reg .NUMCFG 0)).lvl2
  let each := fun (f : Nat → Nat) => s.setCtx t o.ctx (x.wrElems 2 vd o.mask (src.map f))
  match wOp w with
  | 0 => each (sfuExp (bit var 0) lvl2)
  | 1 => each (sfuLog (bit var 0) lvl2)
  | 2 => each (sfuRcp lvl2)
  | 3 => each (sfuRsq lvl2)
  | 8 => s.setTile t ((s.tile t).cbload src o.mask (bits var 1 0))
  | 9 => s.setTile t { s.tile t with bank := 1 - (s.tile t).bank }
  | _ =>
    let img := x.rdVec (bits w 34 30)
    let tl := s.tile t
    s.setCtx t o.ctx (x.wrElems 2 vd o.mask
      ((List.range 64).map fun k => (tl.entry tl.bank (cbIndex img var k)).toNat))

/-- R182: cbswap starts only when no earlier F instruction of the tile remains. -/
def Tile.swapReady (t : Tile) (o : UOp) : Bool :=
  decide (wOp o.word.toNat ≠ 9) || t.ops.all fun x => decide (x.unit ≠ .sfu) || decide (o.seq ≤ x.seq)

/-- Start a queued F instruction if it may start and its charge is covered; cbswap also completes (R182). -/
def State.startF (s : State) (t : Nat) (o : UOp) : State :=
  if !(s.tile t).startable o || !(s.tile t).swapReady o then s
  else if !s.covered t (costKey o.word.toNat) then s.pause t (costKey o.word.toNat)
  else
    let s := ((s.pay t (costKey o.word.toNat)).markStarted t o).runF t o
    if wOp o.word.toNat = 9 then s.completeOp t o else s

/-- The issue of an F instruction (R61, R173). -/
def issueF (op : Nat) (h : Head) (f : FF) (s : State) : Out :=
  let w := encF op h f
  issue h w (usesUnit w) true (fun s =>
    if s.affordable h.tile (costKey w) then
      let o := capture s h .sfu w 0 0 0
      let n := (s.tile h.tile).seq
      .hold (((s.enqueue h.tile o).advance h.tile h.ctx).startF h.tile { o with seq := n })
    else .hold (s.pause h.tile (costKey w))) s

def execFexp (h : Head) (f : FF) (s : State) : Out := issueF 0 h f s
def execFlog (h : Head) (f : FF) (s : State) : Out := issueF 1 h f s
def execFrcp (h : Head) (f : FF) (s : State) : Out := issueF 2 h f s
def execFrsq (h : Head) (f : FF) (s : State) : Out := issueF 3 h f s
def execCbload (h : Head) (f : FF) (s : State) : Out := issueF 8 h f s
def execCbswap (h : Head) (f : FF) (s : State) : Out := issueF 9 h f s
def execCblook (h : Head) (f : FF) (s : State) : Out := issueF 10 h f s

end Sys2Proof.Machine
end

