-- ==== Sys2Proof/Machine/Sync.lean ====
section
/-! DEFINITION. Sync instructions (chapters 2 and 3, class Y): counters, waits, migration, tokens, fences and task
queues, and the events that complete their stalls. -/

namespace Sys2Proof.Machine

/-- A 32-bit operand from a register, or OPERAND above 2^32 − 1 (R77). -/
def reg32 (v : Word) : Except FaultAt Nat :=
  if 2 ^ 32 - 1 < v.toNat then .error (cOPERAND, unstated) else .ok v.toNat

/-- Target or increment of Table 3-5: the immediate, or a register. -/
def State.operand32 (s : State) (h : Head) (isImm : Bool) (imm : BitVec 14) (r : BitVec 6) : Except FaultAt Nat :=
  if isImm then .ok imm.toNat else reg32 ((s.ctx h.tile h.ctx).rdS r.toNat)

/-- Registers that name a counter and an operand. -/
def usesY (creg : Bool) (sc : BitVec 6) (isImm : Bool) (r : BitVec 6) : Uses :=
  ⟨(if creg then [sc.toNat] else []) ++ (if isImm then [] else [r.toNat]), []⟩

/-- A Y instruction on a local counter (R78): OPERAND when SC names another module. -/
def localCounter (h : Head) (creg : Bool) (sc : BitVec 6) (cnum : BitVec 16) (k : Nat → Act) (s : State) : Act :=
  let r := s.counterRef (s.ctx h.tile h.ctx) creg sc cnum
  match r.dev with
  | some _ => .fault (cOPERAND, unstated)
  | none => k r.cnum

/-- arm (Table 2-5). -/
def execArm (h : Head) (f : ArmF) (s : State) : Out :=
  issue h (encArm 0 false h f) (usesY f.creg f.sc f.timm f.st) false (fun s =>
    localCounter h f.creg f.sc f.cnum (fun c =>
      match s.operand32 h f.timm f.ti f.st with
      | .error e => .fault e
      | .ok target => .go 16 fun s => (s.armCounter c target).advance h.tile h.ctx) s) s

/-- The arrival an arrive instruction sends (R42, R76). -/
def arriveOf (s : State) (h : Head) (f : ArriveF) (n : Nat) : Arrival :=
  let r := s.counterRef (s.ctx h.tile h.ctx) f.creg f.sc f.cnum
  { id := 0, dev := r.dev, cnum := r.cnum, inc := n, epoch := if f.creg then r.epoch else f.epoch.toNat,
    anyEpoch := false, unit := h.tile, fromDev := 0, pc := (s.ctx h.tile h.ctx).pc,
    who := some (h.tile, h.ctx, (s.tile h.tile).seq) }

/-- The scope that orders an arrive: rack for another module, whatever SCOPE holds (R78). -/
def arriveScope (a : Arrival) (scope : BitVec 2) : BitVec 2 := if a.dev.isSome then 2 else scope

/-- A device beyond the switch stage while the module has no alias (R370). -/
def State.farWithoutAlias (s : State) (dev : Option Nat) : Bool :=
  match dev with
  | some d => decide (64 ≤ d) && decide (s.get F.RMALIAS_VALID 0 = 0)
  | none => false

/-- arrive: it issues at once, with an issue number of its own; its increment is held until the context's earlier accesses
are performed (R42). -/
def execArrive (h : Head) (f : ArriveF) (s : State) : Out :=
  issue h (encArrive h f) (usesY f.creg f.sc f.nimm f.sn) false (fun s =>
    match s.operand32 h f.nimm f.ni f.sn with
    | .error e => .fault e
    | .ok n =>
      if s.farWithoutAlias (arriveOf s h f n).dev then .fault (cOPERAND, unstated)
      else .go 16 fun s =>
        let a := arriveOf s h f n
        let q := (s.tile h.tile).seq
        let x := s.ctx h.tile h.ctx
        let s := s.setCtx h.tile h.ctx { x with arrives := x.arrives ++ [(q, arriveScope a f.scope, a)] }
        let s := s.setTile h.tile { s.tile h.tile with seq := q + 1 }
        (s.flushArrives h.tile h.ctx).advance h.tile h.ctx) s

/-- A base die applies an arrival that has reached it (R41, R42). -/
def execArrivalApplied (id : Nat) (s : State) : Out :=
  .next <| match s.arrivals.find? fun a => decide (a.id = id) with
    | some a =>
      let s := ({ s with arrivals := s.arrivals.filter fun b => decide (b.id ≠ id) }).applyArrival a
      match a.who with
      | some (t, c, _) => s.settle t c
      | none => s
    | none => s

/-- Set the waiter bit of a tile's cluster (Table 2-5). -/
def State.setWaiter (s : State) (c t : Nat) : State :=
  let x := s.counter c
  s.setCounter c { x with waiters := insertRising (s.clusterOf t) x.waiters }

/-- A stalled instruction completes: its predicate is written and the context goes on. -/
def Ctx.finishWait (x : Ctx) (pd : BitVec 3) (b : Bool) : Ctx :=
  ({ x with stall := .none }.wrPb pd.toNat b).advance

/-- wait (R43, R44). -/
def execWait (h : Head) (f : WaitF) (s : State) : Out :=
  issue h (encWait h f) ⟨if f.creg then [f.sc.toNat] else [], [96 + f.pd.toNat]⟩ false
    (localCounter h f.creg f.sc f.cnum fun c => .go 16 fun s =>
      let x := s.ctx h.tile h.ctx
      if (s.counter c).reached then s.setCtx h.tile h.ctx (x.finishWait f.pd true)
      else if !f.notimeout && decide (f.timeout = 0) then s.setCtx h.tile h.ctx (x.finishWait f.pd false)
      else (s.setCtx h.tile h.ctx { x with stall := .wait c f.pd (!f.notimeout) false }).setWaiter c h.tile) s

/-- A woken context re-tests its wait (R45). -/
def execWaitRetest (tile : Nat) (ctx : Ctxt) (s : State) : Out :=
  within tile Config.tiles <| .next <|
    let x := s.ctx tile ctx
    match x.stall with
    | .wait c pd timed true =>
      if (s.counter c).reached then s.setCtx tile ctx (x.finishWait pd true)
      else (s.setCtx tile ctx { x with stall := .wait c pd timed false }).setWaiter c tile
    | _ => s

/-- The timeout of a wait expires first (R44). -/
def execWaitTimeout (tile : Nat) (ctx : Ctxt) (s : State) : Out :=
  within tile Config.tiles <| .next <|
    let x := s.ctx tile ctx
    match x.stall with
    | .wait _ pd true _ => s.setCtx tile ctx (x.finishWait pd false)
    | _ => s

/-- migrate DRAIN (R48): at once when the old epoch is complete, else the context stalls. -/
def execMigrateDrain (h : Head) (f : ArmF) (s : State) : Out :=
  issue h (encArm 3 false h f) (usesY f.creg f.sc f.timm f.st) false (fun s =>
    localCounter h f.creg f.sc f.cnum (fun c =>
      match s.operand32 h f.timm f.ti f.st with
      | .error e => .fault e
      | .ok target => .go 16 fun s =>
        if (s.counter c).reached then (s.migrateCounter c target).advance h.tile h.ctx
        else s.setCtx h.tile h.ctx { s.ctx h.tile h.ctx with stall := .drain c target }) s) s

/-- The old epoch of a stalled DRAIN migrate completes (R48). -/
def execMigrateDrainComplete (tile : Nat) (ctx : Ctxt) (s : State) : Out :=
  within tile Config.tiles <| .next <|
    let x := s.ctx tile ctx
    match x.stall with
    | .drain c target =>
      if (s.counter c).reached then
        (s.migrateCounter c target).setCtx tile ctx { x with stall := .none }.advance
      else s
    | _ => s

/-- migrate DISCARD (R48). -/
def execMigrateDiscard (h : Head) (f : ArmF) (s : State) : Out :=
  issue h (encArm 3 true h f) (usesY f.creg f.sc f.timm f.st) false (fun s =>
    localCounter h f.creg f.sc f.cnum (fun c =>
      match s.operand32 h f.timm f.ti f.st with
      | .error e => .fault e
      | .ok target => .go 16 fun s => (s.migrateCounter c target).advance h.tile h.ctx) s) s

/-- SCSTAT of a counter. -/
def Counter.stat (c : Counter) : Nat := b2n c.ovf * 2 ^ 7 + b2n c.reached * 2 ^ 6 + c.epoch

/-- The word scread selects (R80). -/
def Counter.word (c : Counter) (sel : Nat) : Nat :=
  match sel with
  | 0 => c.count
  | 1 => c.target
  | _ => c.stat

/-- scread (R80). -/
def execScread (h : Head) (sd : BitVec 6) (creg : Bool) (sc : BitVec 6) (sel : BitVec 2) (cnum : BitVec 16)
    (s : State) : Out :=
  issue h (encHead 6 4 h + sd.toNat * 2 ^ 44 + b2n creg * 2 ^ 43 + sc.toNat * 2 ^ 37 + sel.toNat * 2 ^ 30 + cnum.toNat)
    ⟨if creg then [sc.toNat] else [], [sd.toNat]⟩ false
    (localCounter h creg sc cnum fun c => .go 16 fun s =>
      s.setCtx h.tile h.ctx
        ((s.ctx h.tile h.ctx).wrS sd.toNat (BitVec.ofNat 64 ((s.counter c).word sel.toNat))).advance) s

/-! ## Tokens (R81, R82) -/

/-- twait (R81). A stalled twait completes by this command again once its token is at least 1. -/
def execTwait (h : Head) (tok : BitVec 4) (s : State) : Out :=
  let x := s.ctx h.tile h.ctx
  let s1 := if x.stall = .twait tok then s.setCtx h.tile h.ctx { x with stall := .none } else s
  if s1.ready h.tile h.ctx then
    issue h (encHead 6 5 h + tok.toNat) ⟨[], []⟩ false (fun s =>
      if (s.tile h.tile).token tok.toNat = 0 then
        .hold (s.setCtx h.tile h.ctx { s.ctx h.tile h.ctx with stall := .twait tok })
      else .go 16 fun s =>
        let x := s.tile h.tile
        (s.setTile h.tile (x.setToken tok.toNat (x.token tok.toNat - 1))).advance h.tile h.ctx) s1
  else within h.tile Config.tiles (.next s)

/-- tset (R81). -/
def execTset (h : Head) (value : BitVec 8) (tok : BitVec 4) (s : State) : Out :=
  issue h (encHead 6 6 h + value.toNat * 16 + tok.toNat) ⟨[], []⟩ false (fun _ => .go 16 fun s =>
    (s.setTile h.tile ((s.tile h.tile).setToken tok.toNat value)).advance h.tile h.ctx) s

/-- tread (R81). -/
def execTread (h : Head) (sd : BitVec 6) (tok : BitVec 4) (s : State) : Out :=
  issue h (encHead 6 7 h + sd.toNat * 2 ^ 44 + tok.toNat) ⟨[], [sd.toNat]⟩ false (fun _ => .go 16 fun s =>
    s.setCtx h.tile h.ctx
      ((s.ctx h.tile h.ctx).wrS sd.toNat (((s.tile h.tile).token tok.toNat).setWidth 64)).advance) s

/-! ## Fences (Table 2-4) -/

/-- fence: at once when the earlier accesses are performed at the scope, else the context stalls (R36). -/
def execFence (h : Head) (scope : BitVec 2) (s : State) : Out :=
  issue h (encHead 6 8 h + scope.toNat * 2 ^ 48) ⟨[], []⟩ false (fun _ => .go 16 fun s =>
    if s.performed h.tile h.ctx scope.toNat (s.tile h.tile).seq then s.advance h.tile h.ctx
    else s.setCtx h.tile h.ctx { s.ctx h.tile h.ctx with stall := .fence scope }) s

/-- The accesses a stalled fence waits for become performed (R36). -/
def execFenceComplete (tile : Nat) (ctx : Ctxt) (s : State) : Out :=
  within tile Config.tiles <| .next <|
    let x := s.ctx tile ctx
    match x.stall with
    | .fence scope =>
      if s.performed tile ctx scope.toNat (s.tile tile).seq then
        s.setCtx tile ctx { x with stall := .none }.advance
      else s
    | _ => s

/-! ## Task queues (R51 to R53, R83) -/

/-- tpush: into the queue of the tile's base die, which holds 4,096 entries (R52). -/
def execTpush (h : Head) (pd : BitVec 3) (sa sb sc : BitVec 6) (s : State) : Out :=
  issue h (encHead 6 9 h + pd.toNat * 2 ^ 47 + sa.toNat * 2 ^ 38 + sb.toNat * 2 ^ 32 + sc.toNat * 2 ^ 26)
    ⟨[sa.toNat, sb.toNat, sc.toNat], [96 + pd.toNat]⟩ false (fun _ => .go 16 fun s =>
      let x := s.ctx h.tile h.ctx
      let d := s.bdieOf h.tile
      let room := decide ((s.tasks.filter fun k => decide (k.die = d)).length < 4096)
      let task : Task := { die := d, arg := x.rdS sa.toNat, num := (x.rdS sb.toNat).setWidth 32,
                           owner := (x.rdS sc.toNat).setWidth 32 }
      let s := if room then { s with tasks := s.tasks ++ [task] } else s
      s.setCtx h.tile h.ctx (x.wrPb pd.toNat room).advance) s

/-- A task whose owner is another tile within steal level `l` of tile `t`: cluster, compute die, base die, module. -/
def State.stealable (s : State) (t l : Nat) (k : Task) : Bool :=
  let o := k.owner.toNat
  decide (o ≠ t) && decide (o < s.tileCount) &&
  match l with
  | 0 => decide (s.clusterOf o = s.clusterOf t)
  | 1 => decide (s.cdieOf o = s.cdieOf t)
  | 2 => decide (s.bdieOf o = s.bdieOf t)
  | _ => true

/-- R51: the task a pop of tile `t` returns. -/
def State.popChoice (s : State) (t : Nat) : Option Task :=
  match s.tasks.find? fun k => decide (k.owner.toNat = t) with
  | some k => some k
  | none =>
    if s.get F.DLBCTL_EN 0 = 1 then
      (List.range (s.get F.DLBCTL_SCOPE 0 + 1)).findSome? fun l => s.tasks.find? (s.stealable t l)
    else none

/-- tpop (R51, R83). -/
def execTpop (h : Head) (pd : BitVec 3) (sd se : BitVec 6) (s : State) : Out :=
  issue h (encHead 6 10 h + pd.toNat * 2 ^ 47 + sd.toNat * 2 ^ 38 + se.toNat * 2 ^ 32)
    ⟨[], [sd.toNat, se.toNat, 96 + pd.toNat]⟩ false (fun _ => .go 16 fun s =>
      let x := s.ctx h.tile h.ctx
      match s.popChoice h.tile with
      | some k =>
        let y := ((x.wrS sd.toNat k.arg).wrS se.toNat (k.num.setWidth 64)).wrPb pd.toNat true
        ({ s with tasks := s.tasks.erase k }).setCtx h.tile h.ctx y.advance
      | none => s.setCtx h.tile h.ctx (x.wrPb pd.toNat false).advance) s

end Sys2Proof.Machine
end

