-- ==== Sys2Proof/Machine/Units.lean ====
section
/-! DEFINITION. manchor, and the start, completion and faults of instructions in their units (R39, R85, R135, R172). -/

namespace Sys2Proof.Machine

/-! ## manchor (R142) -/

/-- Bucket mode at issue: the tag is ARMED, not BX8, and every element's block exists. -/
def State.checkAnchor (s : State) (x : MArgs) : Option FaultAt :=
  let bad := some (cOPERAND, unstated)
  if x.var % 2 = 0 then
    if x.a < 2048 ∨ 2 ^ 64 - 2048 ≤ x.a then none else bad
  else if 4096 ≤ x.a then bad
  else
    let t := s.tagAt x.a
    let n := 64 * x.rows
    if t.st ≠ 1 ∨ !isRed t.desc ∨ gFmt t.desc = 0x14 then bad
    else if n ≠ 0 ∧ gCount t.desc ≤ x.b + (n - 1) / 32 then bad
    else none

/-- The fault of manchor at issue: SA and SB as R142 states, then SC under R126 (log entry 19). -/
def State.checkManchor (s : State) (x : MArgs) : Option FaultAt :=
  firstFault [s.checkAnchor x, needLocal x.c, needAlign x.c 32, needStore (outsideAcc x.c (32 * 64 * x.rows))]

/-- The exponents manchor takes at issue in bucket mode: the anchors of its blocks, 56 or 24 below the agreed exponents (R108,
R326). -/
def State.anchorExps (s : State) (x : MArgs) : List Nat :=
  if x.var % 2 = 0 then []
  else
    let t := s.tagAt x.a
    (List.range (2 * x.rows)).map fun i => wrapInt 16 (t.expOf (x.b + i) - (if g64 t.desc then 56 else 24))

/-- The anchor manchor gives element e: SA, or that of its block (R108). -/
def anchorOf (x : MArgs) (exps : List Nat) (e : Nat) : Int :=
  if x.var % 2 = 0 then sext 64 x.a else sext 16 (exps.getD (e / 32) 0)

/-- The effect of manchor; in a FAST job nothing changes (R111). -/
def State.runAnchor (s : State) (t : Nat) (x : MArgs) (exps : List Nat) : State :=
  if x.num.fast then s
  else
    let tl := s.tile t
    (List.range (64 * x.rows)).foldl (fun u e =>
      u.putLocal t (x.c + 32 * e)
        (leBytes 32 ((Kx.ofBits (tl.rdNat (x.c + 32 * e) 32)).setAnchor (anchorOf x exps e)).toBits)) s

/-- manchor (R142, R326). -/
def execManchor (h : Head) (f : MF) (s : State) : Out := issueM 3 h f State.checkManchor State.anchorExps s

/-! ## Starting an M instruction (R39, R135, R152, Table 14-1) -/

/-- The entry a streamed row is charged by. -/
def MArgs.rowKey (x : MArgs) : Nat :=
  if 2 ≤ x.op then 5
  else if x.op = 1 then 1
  else if x.d = 4 then 2
  else if x.d = 16 then 3
  else 1

/-- An output-stationary instruction with an unset anchor streams its operands once more (R133). -/
def MArgs.prescans (x : MArgs) (t : Tile) : Bool :=
  x.os && !x.num.fast && (List.range 1024).any fun e =>
    !(Kx.ofBits (if bit x.var 0 then 0 else t.rdNat (x.c + 32 * e) 32)).aset

/-- The rows and group checks of an M instruction, in the order in which they start: the prescan, then each group's rows and
its check (R133, R150, Table 14-1). -/
def MArgs.charges (x : MArgs) (prescan crust : Bool) : List (Nat × Nat) :=
  (if prescan then [(4, x.rows)] else [])
  ++ if crust then (List.range x.groups).flatMap fun g => [(x.rowKey, min 64 (x.rows - 64 * g)), (6, 1)]
     else [(x.rowKey, x.rows)]

/-- The operand bytes that no other unit may write while an M instruction runs (R136). -/
def MArgs.inBytes (x : MArgs) : List (Nat × Nat) :=
  if x.rows = 0 then []
  else match x.op with
    | 0 | 1 => [(x.a, x.aElems + x.aScales), (x.b, x.bElems + x.bScales)]
    | 2 => [(x.c, readWidth x.var * 64 * x.rows)]
    | 3 => [(x.c, 32 * 64 * x.rows)]
    | _ => []

/-- The bytes an M instruction writes. -/
def MArgs.outBytes (x : MArgs) : List (Nat × Nat) :=
  if x.rows = 0 then []
  else match x.op with
    | 0 | 1 => [(x.c, x.w * x.elems)]
    | 2 => (x.b % 2 ^ 21, 64 * x.rows * x.d / 8) :: if bit x.var 2 then [(x.c, readWidth x.var * 64 * x.rows)] else []
    | 3 => if x.num.fast then [] else [(x.c, 32 * 64 * x.rows)]
    | _ => []

/-- Charge the rows of an instruction that has started: each starts when its own charge is covered (R137, R372). What the
instruction computes does not depend on when (R137). -/
def State.payRows (s : State) (t : Nat) (o : UOp) (x : MArgs) : State :=
  let tl := s.tile t
  let crust := decide (x.op ≤ 1) && crustChecks (s.get F.CRUSTCFG_LEVEL 0) tl.checkedN t
  match tl.op o.seq with
  | some y => State.takeRows (s.setTile t (tl.setOp { y with inBytes := x.inBytes, outBytes := x.outBytes, due := x.charges (x.prescans tl) crust })) t
  | none => s

/-- The whole effect of a started M instruction and the fault it ends in, if any. -/
def State.runM (s : State) (t : Nat) (x : MArgs) (exps : List Nat) (ev : UnitEvent) : State × Option FaultAt :=
  if x.rows = 0 then (s, none)
  else match x.op with
    | 0 | 1 => s.runMul t x ev
    | 2 => (s.runRead t x, none)
    | 3 => (s.runAnchor t x exps, none)
    | _ => (s.runClear t x, none)

/-- Start a queued M instruction. On a fenced array it raises UNIT_FENCED with FINFO = 0 (R152); a permanent crust
fault under CERTIFIED leaves it without a signal (R153). -/
def State.startM (s : State) (t : Nat) (o : UOp) (ev : UnitEvent) : State :=
  let x := MArgs.of s o
  if !(s.tile t).startable o then s
  else if s.matrixFenced t then s.unitFaultAt t o.ctx .matrix o.seq o.pc (cUNIT_FENCED, 0)
  else if decide (ev.sram = .uncorrectable) && decide (0 < x.rows) && decide (x.op ≠ 4) then s.sramFail t
  else if decide (x.op ≤ 1) && decide (0 < x.rows) && !s.covered t 0 then s.pause t 0
  else
    let s := if x.op ≤ 1 ∧ 0 < x.rows then s.pay t 0 else s
    let s := ((s.markStarted t o).payRows t o x).sramNote t ev.sram
    let r := s.runM t x o.exps ev
    match r.2 with
    | some f => r.1.unitFaultAt t o.ctx .matrix o.seq o.pc f
    | none =>
      if r.1.draining then
        match (r.1.tile t).op o.seq with
        | some y => r.1.setOp t { y with cancelled := true }
        | none => r.1
      else r.1

/-! ## The unit rows -/

/-- UNIT_INSTRUCTION_START: instruction number `seq` of a tile starts in its unit, if it may (R39). -/
def execUnitInstructionStart (tile seq : Nat) (ev : UnitEvent) (s : State) : Out :=
  within tile Config.tiles <| .next <|
    match (s.tile tile).op seq with
    | none => s
    | some o =>
      if s.draining || !s.active || s.tileFenced tile then s
      else match o.unit with
        | .matrix => s.startM tile o ev
        | .vector => s.startV tile o ev.sram
        | .sfu => s.startF tile o
        | .narrow => s.startN tile o ev.sram
        | _ => s

/-- UNIT_INSTRUCTION_COMPLETE: a started M, V, F, chrd or chctl instruction completes and signals (R39); an M instruction not
before all its rows have started. -/
def execUnitInstructionComplete (tile seq : Nat) (s : State) : Out :=
  within tile Config.tiles <| .next <|
    match (s.tile tile).op seq with
    | none => s
    | some o =>
      let here := match o.unit with
        | .matrix | .vector | .sfu => true
        | .narrow => decide (4 ≤ wOp o.word.toNat)
        | _ => false
      if here && o.started && o.due.isEmpty then s.completeOp tile o else s

/-- A local arrive that is on its way and ends with exhausted re-sends: it never counts, and its tile faults with the counter
in FINFO (R263). -/
def State.arriveFails (s : State) (a : Arrival) (tile : Nat) (c : Ctxt) (seq : Nat) : State :=
  State.unitFaultAt { s with arrivals := s.arrivals.filter fun b => decide (b.id ≠ a.id) } tile c .core seq a.pc
    (cRACK_RETRY_LIMIT, counterWord a.cnum s.dev a.epoch)

/-- UNIT_FAULT: a unit detects a fault of a started instruction (R85), or a channel of a copy (R205). An access or an arrive
to this module travels as a message too, and ends with RACK_RETRY_LIMIT when its re-sends are exhausted (R263): the access
may or may not have been applied (R258), and the arrive has not. -/
def execUnitFault (tile seq : Nat) (cause : BitVec 8) (info : Word) (s : State) : Out :=
  within tile Config.tiles <| .next <|
    if !unitCause cause.toNat then s
    else match (s.tile tile).op seq with
      | some o =>
        let lost := decide (o.unit = .narrow) && decide (cause.toNat = cRACK_RETRY_LIMIT) && (s.tile tile).startable o
        if o.started || lost then s.unitFaultAt tile o.ctx o.unit o.seq o.pc (cause.toNat, info.toNat) else s
      | none =>
        match s.chans.findSome? fun e =>
            (e.2.queue.find? fun x => decide (x.tile = tile) && decide (x.seq = seq) && x.started).map fun x => (e.1, x) with
        | some (k, x) => s.copyFault k x (cause.toNat, info.toNat)
        | none =>
          match s.arrivals.find? fun a => decide (a.who.map (fun w => (w.1, w.2.2)) = some (tile, seq)) with
          | some a =>
            match a.who with
            | some (_, c, _) => if cause.toNat = cRACK_RETRY_LIMIT then s.arriveFails a tile c seq else s
            | none => s
          | none => s

end Sys2Proof.Machine
end

