-- ==== Sys2Proof/Machine/Dispatch.lean ====
section
/-! DEFINITION. What each command does: one arm per constructor of Instr, each a direct call of its meaning. -/

namespace Sys2Proof.Machine

def exec (i : Instr) (s : State) : Host.Outcome State Fault Refusal :=
  match i with
  | .nop tile ctx word => Sys2Proof.Machine.execNop tile ctx word s
  | .end_ h => Sys2Proof.Machine.execEnd h s
  | .contextEnded tile ctx => Sys2Proof.Machine.execContextEnded tile ctx s
  | .br h offset => Sys2Proof.Machine.execBr h offset s
  | .brl h sd offset => Sys2Proof.Machine.execBrl h sd offset s
  | .jr h sa => Sys2Proof.Machine.execJr h sa s
  | .jrl h sd sa => Sys2Proof.Machine.execJrl h sd sa s
  | .loop h sa body => Sys2Proof.Machine.execLoop h sa body s
  | .loopi h count body => Sys2Proof.Machine.execLoopi h count body s
  | .movi h sd imm => Sys2Proof.Machine.execMovi h sd imm s
  | .ldhi h sd imm => Sys2Proof.Machine.execLdhi h sd imm s
  | .mfc h sd num => Sys2Proof.Machine.execMfc h sd num s
  | .mtc h sa num => Sys2Proof.Machine.execMtc h sa num s
  | .fret h => Sys2Proof.Machine.execFret h s
  | .add h sd sa sb => Sys2Proof.Machine.execAdd h sd sa sb s
  | .sub h sd sa sb => Sys2Proof.Machine.execSub h sd sa sb s
  | .mul h sd sa sb => Sys2Proof.Machine.execMul h sd sa sb s
  | .mulhu h sd sa sb => Sys2Proof.Machine.execMulhu h sd sa sb s
  | .and_ h sd sa sb => Sys2Proof.Machine.execAnd h sd sa sb s
  | .or_ h sd sa sb => Sys2Proof.Machine.execOr h sd sa sb s
  | .xor_ h sd sa sb => Sys2Proof.Machine.execXor h sd sa sb s
  | .shl h sd sa sb => Sys2Proof.Machine.execShl h sd sa sb s
  | .shr h sd sa sb => Sys2Proof.Machine.execShr h sd sa sb s
  | .sra h sd sa sb => Sys2Proof.Machine.execSra h sd sa sb s
  | .min_ h sd sa sb => Sys2Proof.Machine.execMin h sd sa sb s
  | .max_ h sd sa sb => Sys2Proof.Machine.execMax h sd sa sb s
  | .minu h sd sa sb => Sys2Proof.Machine.execMinu h sd sa sb s
  | .maxu h sd sa sb => Sys2Proof.Machine.execMaxu h sd sa sb s
  | .addi h sd sa imm => Sys2Proof.Machine.execAddi h sd sa imm s
  | .andi h sd sa imm => Sys2Proof.Machine.execAndi h sd sa imm s
  | .ori h sd sa imm => Sys2Proof.Machine.execOri h sd sa imm s
  | .xori h sd sa imm => Sys2Proof.Machine.execXori h sd sa imm s
  | .shli h sd sa imm => Sys2Proof.Machine.execShli h sd sa imm s
  | .shri h sd sa imm => Sys2Proof.Machine.execShri h sd sa imm s
  | .srai h sd sa imm => Sys2Proof.Machine.execSrai h sd sa imm s
  | .pset h pd cond sa sb => Sys2Proof.Machine.execPset h pd cond sa sb s
  | .pseti h pd cond sa imm => Sys2Proof.Machine.execPseti h pd cond sa imm s
  | .plog h pd pa pb func => Sys2Proof.Machine.execPlog h pd pa pb func s
  | .lds h sd sa size imm sram => Sys2Proof.Machine.execLds h sd sa size imm sram s
  | .sts h sd sa size imm => Sys2Proof.Machine.execSts h sd sa size imm s
  | .trap h => Sys2Proof.Machine.execTrap h s
  | .rdtime h sd => Sys2Proof.Machine.execRdtime h sd s
  | .unitFault tile seq cause info => Sys2Proof.Machine.execUnitFault tile seq cause info s
  | .contextSwitchToL tile fcost lcost => Sys2Proof.Machine.execContextSwitchToL tile fcost lcost s
  | .contextSwitchToF tile fcost lcost => Sys2Proof.Machine.execContextSwitchToF tile fcost lcost s
  | .unitInstructionStart tile seq ev => Sys2Proof.Machine.execUnitInstructionStart tile seq ev s
  | .unitInstructionComplete tile seq => Sys2Proof.Machine.execUnitInstructionComplete tile seq s
  | .mmul h f => Sys2Proof.Machine.execMmul h f s
  | .mslice h f => Sys2Proof.Machine.execMslice h f s
  | .mread h f => Sys2Proof.Machine.execMread h f s
  | .manchor h f => Sys2Proof.Machine.execManchor h f s
  | .mclear h f => Sys2Proof.Machine.execMclear h f s
  | .vadd h f => Sys2Proof.Machine.execVadd h f s
  | .vsub h f => Sys2Proof.Machine.execVsub h f s
  | .vmul h f => Sys2Proof.Machine.execVmul h f s
  | .vfma h f => Sys2Proof.Machine.execVfma h f s
  | .vmin h f => Sys2Proof.Machine.execVmin h f s
  | .vmax h f => Sys2Proof.Machine.execVmax h f s
  | .vabs h f => Sys2Proof.Machine.execVabs h f s
  | .vneg h f => Sys2Proof.Machine.execVneg h f s
  | .vcvt h f => Sys2Proof.Machine.execVcvt h f s
  | .vcmp h f => Sys2Proof.Machine.execVcmp h f s
  | .vsel h f => Sys2Proof.Machine.execVsel h f s
  | .vand h f => Sys2Proof.Machine.execVand h f s
  | .vor h f => Sys2Proof.Machine.execVor h f s
  | .vxor h f => Sys2Proof.Machine.execVxor h f s
  | .vshl h f => Sys2Proof.Machine.execVshl h f s
  | .vshr h f => Sys2Proof.Machine.execVshr h f s
  | .vld h f sram => Sys2Proof.Machine.execVld h f sram s
  | .vst h f => Sys2Proof.Machine.execVst h f s
  | .vbcast h f => Sys2Proof.Machine.execVbcast h f s
  | .vext h f => Sys2Proof.Machine.execVext h f s
  | .vrsum h f => Sys2Proof.Machine.execVrsum h f s
  | .vrmax h f => Sys2Proof.Machine.execVrmax h f s
  | .vrmin h f => Sys2Proof.Machine.execVrmin h f s
  | .vperm h f => Sys2Proof.Machine.execVperm h f s
  | .vmovi h f => Sys2Proof.Machine.execVmovi h f s
  | .fexp h f => Sys2Proof.Machine.execFexp h f s
  | .flog h f => Sys2Proof.Machine.execFlog h f s
  | .frcp h f => Sys2Proof.Machine.execFrcp h f s
  | .frsq h f => Sys2Proof.Machine.execFrsq h f s
  | .cbload h f => Sys2Proof.Machine.execCbload h f s
  | .cbswap h f => Sys2Proof.Machine.execCbswap h f s
  | .cblook h f => Sys2Proof.Machine.execCblook h f s
  | .copy h f => Sys2Proof.Machine.execCopy h f s
  | .copyQueueFullStall tile ctx => Sys2Proof.Machine.execCopyQueueFullStall tile ctx s
  | .copyStart cluster chan sram => Sys2Proof.Machine.execCopyStart cluster chan sram s
  | .engineGrant cluster sram => Sys2Proof.Machine.execEngineGrant cluster sram s
  | .copyComplete cluster chan => Sys2Proof.Machine.execCopyComplete cluster chan s
  | .ldn h f => Sys2Proof.Machine.execLdn h f s
  | .stn h f => Sys2Proof.Machine.execStn h f s
  | .narrowComplete tile seq => Sys2Proof.Machine.execNarrowComplete tile seq s
  | .narrowPathFullStall tile ctx => Sys2Proof.Machine.execNarrowPathFullStall tile ctx s
  | .atom h f => Sys2Proof.Machine.execAtom h f s
  | .chrd h f => Sys2Proof.Machine.execChrd h f s
  | .chctlPause h f => Sys2Proof.Machine.execChctlPause h f s
  | .chctlResume h f => Sys2Proof.Machine.execChctlResume h f s
  | .chctlAbort h f => Sys2Proof.Machine.execChctlAbort h f s
  | .arm h f => Sys2Proof.Machine.execArm h f s
  | .arrive h f => Sys2Proof.Machine.execArrive h f s
  | .arrivalApplied id => Sys2Proof.Machine.execArrivalApplied id s
  | .wait h f => Sys2Proof.Machine.execWait h f s
  | .waitRetest tile ctx => Sys2Proof.Machine.execWaitRetest tile ctx s
  | .waitTimeout tile ctx => Sys2Proof.Machine.execWaitTimeout tile ctx s
  | .migrateDrain h f => Sys2Proof.Machine.execMigrateDrain h f s
  | .migrateDrainComplete tile ctx => Sys2Proof.Machine.execMigrateDrainComplete tile ctx s
  | .migrateDiscard h f => Sys2Proof.Machine.execMigrateDiscard h f s
  | .scread h sd creg sc sel cnum => Sys2Proof.Machine.execScread h sd creg sc sel cnum s
  | .twait h tok => Sys2Proof.Machine.execTwait h tok s
  | .tset h value tok => Sys2Proof.Machine.execTset h value tok s
  | .tread h sd tok => Sys2Proof.Machine.execTread h sd tok s
  | .fence h scope => Sys2Proof.Machine.execFence h scope s
  | .fenceComplete tile ctx => Sys2Proof.Machine.execFenceComplete tile ctx s
  | .tpush h pd sa sb sc => Sys2Proof.Machine.execTpush h pd sa sb sc s
  | .tpop h pd sd se => Sys2Proof.Machine.execTpop h pd sd se s
  | .bkarm h f => Sys2Proof.Machine.execBkarm h f s
  | .bkput h f => Sys2Proof.Machine.execBkput h f s
  | .bkrd h f => Sys2Proof.Machine.execBkrd h f s
  | .xfire h f => Sys2Proof.Machine.execXfire h f s
  | .xa2a h f => Sys2Proof.Machine.execXa2a h f s
  | .plansw h f => Sys2Proof.Machine.execPlansw h f s
  | .collOpen tag => Sys2Proof.Machine.execCollOpen tag s
  | .collFragment n => Sys2Proof.Machine.execCollFragment n s
  | .collDeadline tag => Sys2Proof.Machine.execCollDeadline tag s
  | .bkctlAbort tag => Sys2Proof.Machine.execBkctlAbort tag s
  | .rerunRequest n => Sys2Proof.Machine.execRerunRequest n s
  | .dwFlitReceived n => Sys2Proof.Machine.execDwFlitReceived n s
  | .dwHoldExpiry n => Sys2Proof.Machine.execDwHoldExpiry n s
  | .dwPartnerTimeout tag => Sys2Proof.Machine.execDwPartnerTimeout tag s
  | .routerPlacement hits => Sys2Proof.Machine.execRouterPlacement hits s
  | .edgeSwitchPlacement n hits => Sys2Proof.Machine.execEdgeSwitchPlacement n hits s
  | .messageDelivery n => Sys2Proof.Machine.execMessageDelivery n s
  | .ackSend k => Sys2Proof.Machine.execAckSend k s
  | .ackReceived n => Sys2Proof.Machine.execAckReceived n s
  | .nack n => Sys2Proof.Machine.execNack n s
  | .e2etoExpiry k => Sys2Proof.Machine.execE2etoExpiry k s
  | .streamForget k => Sys2Proof.Machine.execStreamForget k s
  | .linkBlockReceived n k block => Sys2Proof.Machine.execLinkBlockReceived n k block s
  | .nakReplay n k => Sys2Proof.Machine.execNakReplay n k s
  | .replayTimeout n k => Sys2Proof.Machine.execReplayTimeout n k s
  | .rtepochFlip => Sys2Proof.Machine.execRtepochFlip s
  | .epochHoldEnd => Sys2Proof.Machine.execEpochHoldEnd s
  | .trainingFrame p k frame => Sys2Proof.Machine.execTrainingFrame p k frame s
  | .verifyTimeout p k => Sys2Proof.Machine.execVerifyTimeout p k s
  | .lockAttemptTimeout p k => Sys2Proof.Machine.execLockAttemptTimeout p k s
  | .ringFailed p r => Sys2Proof.Machine.execRingFailed p r s
  | .portBringup p up skew => Sys2Proof.Machine.execPortBringup p up skew s
  | .portReset p => Sys2Proof.Machine.execPortReset p s
  | .portRetrain n k ok => Sys2Proof.Machine.execPortRetrain n k ok s
  | .lossOfLight p => Sys2Proof.Machine.execLossOfLight p s
  | .probe p on => Sys2Proof.Machine.execProbe p on s
  | .lightReturned p => Sys2Proof.Machine.execLightReturned p s
  | .laserHigh n f => Sys2Proof.Machine.execLaserHigh n f s
  | .laserHighClear n f => Sys2Proof.Machine.execLaserHighClear n f s
  | .laserLow n f low => Sys2Proof.Machine.execLaserLow n f low s
  | .spareTakeover n target => Sys2Proof.Machine.execSpareTakeover n target s
  | .spareRelease n => Sys2Proof.Machine.execSpareRelease n s
  | .cpctlGo => Sys2Proof.Machine.execCpctlGo s
  | .planSwitchComplete => Sys2Proof.Machine.execPlanSwitchComplete s
  | .bundleUp n b => Sys2Proof.Machine.execBundleUp n b s
  | .cacheSectorAccess a n data hint src u => Sys2Proof.Machine.execCacheSectorAccess a n data hint src u s
  | .patrolScrub m q sec u => Sys2Proof.Machine.execPatrolScrub m q sec u s
  | .takeOutOfService hearth m => Sys2Proof.Machine.execTakeOutOfService hearth m s
  | .returnToService hearth m errs => Sys2Proof.Machine.execReturnToService hearth m errs s
  | .channelLeavingDone m => Sys2Proof.Machine.execChannelLeavingDone m s
  | .channelFillDone m => Sys2Proof.Machine.execChannelFillDone m s
  | .startGenerator hearth m => Sys2Proof.Machine.execStartGenerator hearth m s
  | .stopGenerator m errs => Sys2Proof.Machine.execStopGenerator m errs s
  | .generatorDone m errs => Sys2Proof.Machine.execGeneratorDone m errs s
  | .remoteRead n => Sys2Proof.Machine.execRemoteRead n s
  | .remoteWrite n => Sys2Proof.Machine.execRemoteWrite n s
  | .remoteAtomic n => Sys2Proof.Machine.execRemoteAtomic n s
  | .remoteArrive n => Sys2Proof.Machine.execRemoteArrive n s
  | .rdata n => Sys2Proof.Machine.execRdata n s
  | .wack n => Sys2Proof.Machine.execWack n s
  | .aresult n => Sys2Proof.Machine.execAresult n s
  | .retry n => Sys2Proof.Machine.execRetry n s
  | .retryBackoffExpiry k => Sys2Proof.Machine.execRetryBackoffExpiry k s
  | .refuse n => Sys2Proof.Machine.execRefuse n s
  | .combineFold sector => Sys2Proof.Machine.execCombineFold sector s
  | .gatewayTransfer cluster chan => Sys2Proof.Machine.execGatewayTransfer cluster chan s
  | .gatewayApply n => Sys2Proof.Machine.execGatewayApply n s
  | .govRefill d => Sys2Proof.Machine.execGovRefill d s
  | .poolGrant d => Sys2Proof.Machine.execPoolGrant d s
  | .hearthPowerStep powers input => Sys2Proof.Machine.execHearthPowerStep powers input s
  | .powercapWrite hearth value => Sys2Proof.Machine.execPowercapWrite hearth value s
  | .powerOver => Sys2Proof.Machine.execPowerOver s
  | .powerOverClear => Sys2Proof.Machine.execPowerOverClear s
  | .sprintStart win => Sys2Proof.Machine.execSprintStart win s
  | .sprintEnd bound us win => Sys2Proof.Machine.execSprintEnd bound us win s
  | .sensorSample u r => Sys2Proof.Machine.execSensorSample u r s
  | .throttleFactorStep d => Sys2Proof.Machine.execThrottleFactorStep d s
  | .thermalShutdown u t => Sys2Proof.Machine.execThermalShutdown u t s
  | .powerupCommand hottest o => Sys2Proof.Machine.execPowerupCommand hottest o s
  | .drain => Sys2Proof.Machine.execDrain s
  | .drainComplete => Sys2Proof.Machine.execDrainComplete s
  | .marginTests hearth fails => Sys2Proof.Machine.execMarginTests hearth fails s
  | .linkLaneFail u spare => Sys2Proof.Machine.execLinkLaneFail u spare s
  | .linkDegraded u both => Sys2Proof.Machine.execLinkDegraded u both s
  | .healthDecay => Sys2Proof.Machine.execHealthDecay s
  | .healthSave => Sys2Proof.Machine.execHealthSave s
  | .heartbeatSend => Sys2Proof.Machine.execHeartbeatSend s
  | .heartbeatReceived dev role drain launched resets => Sys2Proof.Machine.execHeartbeatReceived dev role drain launched resets s
  | .peerLost => Sys2Proof.Machine.execPeerLost s
  | .mirrorWrite n => Sys2Proof.Machine.execMirrorWrite n s
  | .drainNotice counts => Sys2Proof.Machine.execDrainNotice counts s
  | .promotion late => Sys2Proof.Machine.execPromotion late s
  | .twinctlPromote hearth => Sys2Proof.Machine.execTwinctlPromote hearth s
  | .twinctlDetach hearth => Sys2Proof.Machine.execTwinctlDetach hearth s
  | .detachNotice => Sys2Proof.Machine.execDetachNotice s
  | .hostFailover peerEn => Sys2Proof.Machine.execHostFailover peerEn s
  | .hostFailback => Sys2Proof.Machine.execHostFailback s
  | .shadowCompare k => Sys2Proof.Machine.execShadowCompare k s
  | .shadowTimeout k => Sys2Proof.Machine.execShadowTimeout k s
  | .hearthBoot ready => Sys2Proof.Machine.execHearthBoot ready s
  | .hearthReset => Sys2Proof.Machine.execHearthReset s
  | .eventRecord => Sys2Proof.Machine.execEventRecord s
  | .requestUpdate image => Sys2Proof.Machine.execRequestUpdate image s
  | .verifyComplete => Sys2Proof.Machine.execVerifyComplete s
  | .activateFirmware => Sys2Proof.Machine.execActivateFirmware s
  | .commitSvn => Sys2Proof.Machine.execCommitSvn s
  | .spdmChallenge transcript => Sys2Proof.Machine.execSpdmChallenge transcript s
  | .spdmGetMeasurements index transcript => Sys2Proof.Machine.execSpdmGetMeasurements index transcript s
  | .setEndpointId eid => Sys2Proof.Machine.execSetEndpointId eid s
  | .i3cDynamicAddress addr => Sys2Proof.Machine.execI3cDynamicAddress addr s
  | .edgeAdmission n vendor step => Sys2Proof.Machine.execEdgeAdmission n vendor step s
  | .ucieBringup u width => Sys2Proof.Machine.execUcieBringup u width s
  | .regrd n => Sys2Proof.Machine.execRegrd n s
  | .regwr n => Sys2Proof.Machine.execRegwr n s
  | .sqDoorbell q tail => Sys2Proof.Machine.execSqDoorbell q tail s
  | .commandStart read => Sys2Proof.Machine.execCommandStart read s
  | .launchComplete id => Sys2Proof.Machine.execLaunchComplete id s
  | .dmaComplete id => Sys2Proof.Machine.execDmaComplete id s
  | .data n => Sys2Proof.Machine.execData n s
  | .done n => Sys2Proof.Machine.execDone n s
  | .completionRecord r => Sys2Proof.Machine.execCompletionRecord r s
  | .cqDoorbell r head => Sys2Proof.Machine.execCqDoorbell r head s
  | .eventRingWrite => Sys2Proof.Machine.execEventRingWrite s
  | .coldReset o => Sys2Proof.Machine.execColdReset o s
  | .modResetN low => Sys2Proof.Machine.execModResetN low s
  | .pwrEn on => Sys2Proof.Machine.execPwrEn on s
  | .inputLoss low40 => Sys2Proof.Machine.execInputLoss low40 s
  | .inputRestored full => Sys2Proof.Machine.execInputRestored full s
  | .inputOutOfBand => Sys2Proof.Machine.execInputOutOfBand s
  | .refclkLoss => Sys2Proof.Machine.execRefclkLoss s
  | .warmReset hearth o => Sys2Proof.Machine.execWarmReset hearth o s
  | .computeReset hearth fails => Sys2Proof.Machine.execComputeReset hearth fails s
  | .enterNap hearth => Sys2Proof.Machine.execEnterNap hearth s
  | .leaveNap hearth => Sys2Proof.Machine.execLeaveNap hearth s
  | .enterDeep hearth => Sys2Proof.Machine.execEnterDeep hearth s
  | .leaveDeep hearth o => Sys2Proof.Machine.execLeaveDeep hearth o s
  | .idleGate d => Sys2Proof.Machine.execIdleGate d s
  | .sccountWrite hearth c v => Sys2Proof.Machine.execSccountWrite hearth c v s
  | .sctargetWrite hearth c v => Sys2Proof.Machine.execSctargetWrite hearth c v s
  | .badRegisterAccess hearth off size => Sys2Proof.Machine.execBadRegisterAccess hearth off size s
  | .registerWrite hearth off data => Sys2Proof.Machine.execRegisterWrite hearth off data s
  | .writtenValueTakesEffect r e o errs => Sys2Proof.Machine.execWrittenValueTakesEffect r e o errs s
  | .lockLoss p r => Sys2Proof.Machine.execLockLoss p r s
  | .shadowRecordReceived k record => Sys2Proof.Machine.execShadowRecordReceived k record s
  | .twinPresN low => Sys2Proof.Machine.execTwinPresN low s
  | .hrefclkLoss => Sys2Proof.Machine.execHrefclkLoss s
  | .hrefclkRestored => Sys2Proof.Machine.execHrefclkRestored s
  | .inputBackInRange => Sys2Proof.Machine.execInputBackInRange s
  | .sprintCclkChange => Sys2Proof.Machine.execSprintCclkChange s
  | .dailyBucketRollover => Sys2Proof.Machine.execDailyBucketRollover s
  | .spdmNegotiateAlgorithms mldsa sha3 => Sys2Proof.Machine.execSpdmNegotiateAlgorithms mldsa sha3 s
  | .clearProtectedRegion => Sys2Proof.Machine.execClearProtectedRegion s
  | .faultNRelease => Sys2Proof.Machine.execFaultNRelease s
  | .blowOkeyhash key => Sys2Proof.Machine.execBlowOkeyhash key s
  | .dwSentFlitRelease tag => Sys2Proof.Machine.execDwSentFlitRelease tag s
  | .testPortAccess op => Sys2Proof.Machine.execTestPortAccess op s

end Sys2Proof.Machine
end

