-- ==== Sys2Proof/Machine/Rows.lean ====
section
/-! DEFINITION. The Ditre encoding in both directions (chapter 3): the word of each instruction row, and the row a fetched
word stands for. -/

namespace Sys2Proof

open Machine

/-- The word an instruction row stands for (Tables 3-1 to 3-5); none for the other rows. -/
def Instr.word : Instr → Option Nat
  | .nop _ _ word => some word.toNat
  | .end_ h => some (encC 1 h 0 0 0 0)
  | .contextEnded _ _ => none
  | .br h offset => some (encC 2 h 0 0 0 offset.toNat)
  | .brl h sd offset => some (encC 3 h sd.toNat 0 0 offset.toNat)
  | .jr h sa => some (encC 4 h 0 sa.toNat 0 0)
  | .jrl h sd sa => some (encC 5 h sd.toNat sa.toNat 0 0)
  | .loop h sa body => some (encC 6 h 0 sa.toNat 0 body.toNat)
  | .loopi h count body => some (encC 7 h 0 0 0 (count.toNat * 2 ^ 12 + body.toNat))
  | .movi h sd imm => some (encC 8 h sd.toNat 0 0 imm.toNat)
  | .ldhi h sd imm => some (encC 9 h sd.toNat 0 0 imm.toNat)
  | .mfc h sd num => some (encC 0xa h sd.toNat 0 0 num.toNat)
  | .mtc h sa num => some (encC 0xb h 0 sa.toNat 0 num.toNat)
  | .fret h => some (encC 0xc h 0 0 0 0)
  | .add h sd sa sb => some (encC 0xe h sd.toNat sa.toNat sb.toNat 0)
  | .sub h sd sa sb => some (encC 0xf h sd.toNat sa.toNat sb.toNat 0)
  | .mul h sd sa sb => some (encC 0x10 h sd.toNat sa.toNat sb.toNat 0)
  | .mulhu h sd sa sb => some (encC 0x11 h sd.toNat sa.toNat sb.toNat 0)
  | .and_ h sd sa sb => some (encC 0x12 h sd.toNat sa.toNat sb.toNat 0)
  | .or_ h sd sa sb => some (encC 0x13 h sd.toNat sa.toNat sb.toNat 0)
  | .xor_ h sd sa sb => some (encC 0x14 h sd.toNat sa.toNat sb.toNat 0)
  | .shl h sd sa sb => some (encC 0x15 h sd.toNat sa.toNat sb.toNat 0)
  | .shr h sd sa sb => some (encC 0x16 h sd.toNat sa.toNat sb.toNat 0)
  | .sra h sd sa sb => some (encC 0x17 h sd.toNat sa.toNat sb.toNat 0)
  | .min_ h sd sa sb => some (encC 0x18 h sd.toNat sa.toNat sb.toNat 0)
  | .max_ h sd sa sb => some (encC 0x19 h sd.toNat sa.toNat sb.toNat 0)
  | .minu h sd sa sb => some (encC 0x1a h sd.toNat sa.toNat sb.toNat 0)
  | .maxu h sd sa sb => some (encC 0x1b h sd.toNat sa.toNat sb.toNat 0)
  | .addi h sd sa imm => some (encC 0x1c h sd.toNat sa.toNat 0 imm.toNat)
  | .andi h sd sa imm => some (encC 0x1d h sd.toNat sa.toNat 0 imm.toNat)
  | .ori h sd sa imm => some (encC 0x1e h sd.toNat sa.toNat 0 imm.toNat)
  | .xori h sd sa imm => some (encC 0x1f h sd.toNat sa.toNat 0 imm.toNat)
  | .shli h sd sa imm => some (encC 0x20 h sd.toNat sa.toNat 0 imm.toNat)
  | .shri h sd sa imm => some (encC 0x21 h sd.toNat sa.toNat 0 imm.toNat)
  | .srai h sd sa imm => some (encC 0x22 h sd.toNat sa.toNat 0 imm.toNat)
  | .pset h pd cond sa sb => some (encC 0x23 h 0 sa.toNat sb.toNat (pd.toNat * 2 ^ 29 + cond.toNat * 2 ^ 26))
  | .pseti h pd cond sa imm => some (encC 0x24 h (cond.toNat * 8) sa.toNat 0 (pd.toNat * 2 ^ 29 + imm.toNat))
  | .plog h pd pa pb func => some (encC 0x25 h pd.toNat pa.toNat pb.toNat func.toNat)
  | .lds h sd sa size imm _ => some (encC 0x26 h sd.toNat sa.toNat (size.toNat * 16) imm.toNat)
  | .sts h sd sa size imm => some (encC 0x27 h sd.toNat sa.toNat (size.toNat * 16) imm.toNat)
  | .trap h => some (encC 0x28 h 0 0 0 0)
  | .rdtime h sd => some (encC 0x29 h sd.toNat 0 0 0)
  | .unitFault _ _ _ _ => none
  | .contextSwitchToL _ _ _ => none
  | .contextSwitchToF _ _ _ => none
  | .unitInstructionStart _ _ _ => none
  | .unitInstructionComplete _ _ => none
  | .mmul h f => some (encM 0 h f)
  | .mslice h f => some (encM 1 h f)
  | .mread h f => some (encM 2 h f)
  | .manchor h f => some (encM 3 h f)
  | .mclear h f => some (encM 4 h f)
  | .vadd h f => some (encV 0 h f)
  | .vsub h f => some (encV 1 h f)
  | .vmul h f => some (encV 2 h f)
  | .vfma h f => some (encV 3 h f)
  | .vmin h f => some (encV 4 h f)
  | .vmax h f => some (encV 5 h f)
  | .vabs h f => some (encV 6 h f)
  | .vneg h f => some (encV 7 h f)
  | .vcvt h f => some (encV 8 h f)
  | .vcmp h f => some (encV 9 h f)
  | .vsel h f => some (encV 10 h f)
  | .vand h f => some (encV 11 h f)
  | .vor h f => some (encV 12 h f)
  | .vxor h f => some (encV 13 h f)
  | .vshl h f => some (encV 14 h f)
  | .vshr h f => some (encV 15 h f)
  | .vld h f _ => some (encV 16 h f)
  | .vst h f => some (encV 17 h f)
  | .vbcast h f => some (encV 18 h f)
  | .vext h f => some (encV 19 h f)
  | .vrsum h f => some (encV 20 h f)
  | .vrmax h f => some (encV 21 h f)
  | .vrmin h f => some (encV 22 h f)
  | .vperm h f => some (encV 23 h f)
  | .vmovi h f => some (encV 24 h f)
  | .fexp h f => some (encF 0 h f)
  | .flog h f => some (encF 1 h f)
  | .frcp h f => some (encF 2 h f)
  | .frsq h f => some (encF 3 h f)
  | .cbload h f => some (encF 8 h f)
  | .cbswap h f => some (encF 9 h f)
  | .cblook h f => some (encF 10 h f)
  | .copy h f => some (encD 0 h f)
  | .copyQueueFullStall _ _ => none
  | .copyStart _ _ _ => none
  | .engineGrant _ _ => none
  | .copyComplete _ _ => none
  | .ldn h f => some (encD 1 h f)
  | .stn h f => some (encD 2 h f)
  | .narrowComplete _ _ => none
  | .narrowPathFullStall _ _ => none
  | .atom h f => some (encD 3 h f)
  | .chrd h f => some (encD 4 h f)
  | .chctlPause h f => some (encD 5 h { f with var := 0 })
  | .chctlResume h f => some (encD 5 h { f with var := 1 })
  | .chctlAbort h f => some (encD 5 h { f with var := 2 })
  | .arm h f => some (encArm 0 false h f)
  | .arrive h f => some (encArrive h f)
  | .arrivalApplied _ => none
  | .wait h f => some (encWait h f)
  | .waitRetest _ _ => none
  | .waitTimeout _ _ => none
  | .migrateDrain h f => some (encArm 3 false h f)
  | .migrateDrainComplete _ _ => none
  | .migrateDiscard h f => some (encArm 3 true h f)
  | .scread h sd creg sc sel cnum => some (encHead 6 4 h + sd.toNat * 2 ^ 44 + b2n creg * 2 ^ 43 + sc.toNat * 2 ^ 37 + sel.toNat * 2 ^ 30 + cnum.toNat)
  | .twait h tok => some (encHead 6 5 h + tok.toNat)
  | .tset h value tok => some (encHead 6 6 h + value.toNat * 16 + tok.toNat)
  | .tread h sd tok => some (encHead 6 7 h + sd.toNat * 2 ^ 44 + tok.toNat)
  | .fence h scope => some (encHead 6 8 h + scope.toNat * 2 ^ 48)
  | .fenceComplete _ _ => none
  | .tpush h pd sa sb sc => some (encHead 6 9 h + pd.toNat * 2 ^ 47 + sa.toNat * 2 ^ 38 + sb.toNat * 2 ^ 32 + sc.toNat * 2 ^ 26)
  | .tpop h pd sd se => some (encHead 6 10 h + pd.toNat * 2 ^ 47 + sd.toNat * 2 ^ 38 + se.toNat * 2 ^ 32)
  | .bkarm h f => some (encX 0 h f)
  | .bkput h f => some (encX 1 h f)
  | .bkrd h f => some (encX 2 h f)
  | .xfire h f => some (encX 3 h f)
  | .xa2a h f => some (encX 5 h f)
  | .plansw h f => some (encX 4 h f)
  | .collOpen _ => none
  | .collFragment _ => none
  | .collDeadline _ => none
  | .bkctlAbort _ => none
  | .rerunRequest _ => none
  | .dwFlitReceived _ => none
  | .dwHoldExpiry _ => none
  | .dwPartnerTimeout _ => none
  | .routerPlacement _ => none
  | .edgeSwitchPlacement _ _ => none
  | .messageDelivery _ => none
  | .ackSend _ => none
  | .ackReceived _ => none
  | .nack _ => none
  | .e2etoExpiry _ => none
  | .streamForget _ => none
  | .linkBlockReceived _ _ _ => none
  | .nakReplay _ _ => none
  | .replayTimeout _ _ => none
  | .rtepochFlip => none
  | .epochHoldEnd => none
  | .trainingFrame _ _ _ => none
  | .verifyTimeout _ _ => none
  | .lockAttemptTimeout _ _ => none
  | .ringFailed _ _ => none
  | .portBringup _ _ _ => none
  | .portReset _ => none
  | .portRetrain _ _ _ => none
  | .lossOfLight _ => none
  | .probe _ _ => none
  | .lightReturned _ => none
  | .laserHigh _ _ => none
  | .laserHighClear _ _ => none
  | .laserLow _ _ _ => none
  | .spareTakeover _ _ => none
  | .spareRelease _ => none
  | .cpctlGo => none
  | .planSwitchComplete => none
  | .bundleUp _ _ => none
  | .cacheSectorAccess _ _ _ _ _ _ => none
  | .patrolScrub _ _ _ _ => none
  | .takeOutOfService _ _ => none
  | .returnToService _ _ _ => none
  | .channelLeavingDone _ => none
  | .channelFillDone _ => none
  | .startGenerator _ _ => none
  | .stopGenerator _ _ => none
  | .generatorDone _ _ => none
  | .remoteRead _ => none
  | .remoteWrite _ => none
  | .remoteAtomic _ => none
  | .remoteArrive _ => none
  | .rdata _ => none
  | .wack _ => none
  | .aresult _ => none
  | .retry _ => none
  | .retryBackoffExpiry _ => none
  | .refuse _ => none
  | .combineFold _ => none
  | .gatewayTransfer _ _ => none
  | .gatewayApply _ => none
  | .govRefill _ => none
  | .poolGrant _ => none
  | .hearthPowerStep _ _ => none
  | .powercapWrite _ _ => none
  | .powerOver => none
  | .powerOverClear => none
  | .sprintStart _ => none
  | .sprintEnd _ _ _ => none
  | .sensorSample _ _ => none
  | .throttleFactorStep _ => none
  | .thermalShutdown _ _ => none
  | .powerupCommand _ _ => none
  | .drain => none
  | .drainComplete => none
  | .marginTests _ _ => none
  | .linkLaneFail _ _ => none
  | .linkDegraded _ _ => none
  | .healthDecay => none
  | .healthSave => none
  | .heartbeatSend => none
  | .heartbeatReceived _ _ _ _ _ => none
  | .peerLost => none
  | .mirrorWrite _ => none
  | .drainNotice _ => none
  | .promotion _ => none
  | .twinctlPromote _ => none
  | .twinctlDetach _ => none
  | .detachNotice => none
  | .hostFailover _ => none
  | .hostFailback => none
  | .shadowCompare _ => none
  | .shadowTimeout _ => none
  | .hearthBoot _ => none
  | .hearthReset => none
  | .eventRecord => none
  | .requestUpdate _ => none
  | .verifyComplete => none
  | .activateFirmware => none
  | .commitSvn => none
  | .spdmChallenge _ => none
  | .spdmGetMeasurements _ _ => none
  | .setEndpointId _ => none
  | .i3cDynamicAddress _ => none
  | .edgeAdmission _ _ _ => none
  | .ucieBringup _ _ => none
  | .regrd _ => none
  | .regwr _ => none
  | .sqDoorbell _ _ => none
  | .commandStart _ => none
  | .launchComplete _ => none
  | .dmaComplete _ => none
  | .data _ => none
  | .done _ => none
  | .completionRecord _ => none
  | .cqDoorbell _ _ => none
  | .eventRingWrite => none
  | .coldReset _ => none
  | .modResetN _ => none
  | .pwrEn _ => none
  | .inputLoss _ => none
  | .inputRestored _ => none
  | .inputOutOfBand => none
  | .refclkLoss => none
  | .warmReset _ _ => none
  | .computeReset _ _ => none
  | .enterNap _ => none
  | .leaveNap _ => none
  | .enterDeep _ => none
  | .leaveDeep _ _ => none
  | .idleGate _ => none
  | .sccountWrite _ _ _ => none
  | .sctargetWrite _ _ _ => none
  | .badRegisterAccess _ _ _ => none
  | .registerWrite _ _ _ => none
  | .writtenValueTakesEffect _ _ _ _ => none
  | .lockLoss _ _ => none
  | .shadowRecordReceived _ _ => none
  | .twinPresN _ => none
  | .hrefclkLoss => none
  | .hrefclkRestored => none
  | .inputBackInRange => none
  | .sprintCclkChange => none
  | .dailyBucketRollover => none
  | .spdmNegotiateAlgorithms _ _ => none
  | .clearProtectedRegion => none
  | .faultNRelease => none
  | .blowOkeyhash _ => none
  | .dwSentFlitRelease _ => none
  | .testPortAccess _ => none

namespace Machine

/-- Who issues a fetched word: bits [53:50] are its guard (Table 3-1). No word tells what its reads of tile stores meet. -/
def rowHead (t : Nat) (c : Ctxt) (w : Nat) : Head :=
  { tile := t, ctx := c, pred := BitVec.ofNat 3 (bits w 53 51), pneg := bit w 50, sram := [] }

/-- Bits [49:0] of an M word (Table 3-3). -/
def rowM (w : Nat) : MF :=
  { tw := BitVec.ofNat 5 (bits w 49 45), ts := BitVec.ofNat 5 (bits w 44 40), sa := BitVec.ofNat 6 (bits w 39 34),
    sb := BitVec.ofNat 6 (bits w 33 28), sc := BitVec.ofNat 6 (bits w 27 22), rows := BitVec.ofNat 11 (bits w 21 11),
    flow := BitVec.ofNat 2 (bits w 10 9), fmt := BitVec.ofNat 5 (bits w 8 4), var := BitVec.ofNat 4 (bits w 3 0) }

/-- Bits [49:0] of a V word (Table 3-3). -/
def rowV (w : Nat) : VF :=
  { tw := BitVec.ofNat 5 (bits w 49 45), ts := BitVec.ofNat 5 (bits w 44 40), vd := BitVec.ofNat 5 (bits w 39 35),
    va := BitVec.ofNat 5 (bits w 34 30), vb := BitVec.ofNat 5 (bits w 29 25), vc := BitVec.ofNat 5 (bits w 24 20),
    ty := BitVec.ofNat 5 (bits w 19 15), sa := BitVec.ofNat 6 (bits w 14 9), imm9 := BitVec.ofNat 9 (bits w 8 0) }

/-- Bits [49:0] of an F word (Table 3-3). -/
def rowF (w : Nat) : FF :=
  { tw := BitVec.ofNat 5 (bits w 49 45), ts := BitVec.ofNat 5 (bits w 44 40), vd := BitVec.ofNat 5 (bits w 39 35),
    va := BitVec.ofNat 5 (bits w 34 30), rsv := BitVec.ofNat 10 (bits w 29 20), ty := BitVec.ofNat 5 (bits w 19 15),
    sa := BitVec.ofNat 6 (bits w 14 9), var := BitVec.ofNat 9 (bits w 8 0) }

/-- Bits [49:0] of a D word (Table 3-3). -/
def rowD (w : Nat) : DF :=
  { tw := BitVec.ofNat 5 (bits w 49 45), ts := BitVec.ofNat 5 (bits w 44 40), sa := BitVec.ofNat 6 (bits w 39 34),
    sb := BitVec.ofNat 6 (bits w 33 28), sc := BitVec.ofNat 6 (bits w 27 22), chan := BitVec.ofNat 4 (bits w 21 18),
    hint := BitVec.ofNat 3 (bits w 17 15), size := BitVec.ofNat 6 (bits w 14 9), var := BitVec.ofNat 9 (bits w 8 0) }

/-- Bits [49:0] of an X word (Table 3-3). -/
def rowX (w : Nat) : XF :=
  { sd := BitVec.ofNat 6 (bits w 49 44), sa := BitVec.ofNat 6 (bits w 43 38), sb := BitVec.ofNat 6 (bits w 37 32),
    imm := BitVec.ofNat 32 (bits w 31 0) }

/-- Bits of arm and migrate but MODE (Table 3-5). -/
def rowArm (w : Nat) : ArmF :=
  { creg := bit w 43, sc := BitVec.ofNat 6 (bits w 42 37), st := BitVec.ofNat 6 (bits w 36 31), timm := bit w 30,
    ti := BitVec.ofNat 14 (bits w 29 16), cnum := BitVec.ofNat 16 (bits w 15 0) }

/-- Bits of arrive (Table 3-5). -/
def rowArrive (w : Nat) : ArriveF :=
  { scope := BitVec.ofNat 2 (bits w 49 48), epoch := BitVec.ofNat 4 (bits w 47 44), creg := bit w 43,
    sc := BitVec.ofNat 6 (bits w 42 37), sn := BitVec.ofNat 6 (bits w 36 31), nimm := bit w 30,
    ni := BitVec.ofNat 14 (bits w 29 16), cnum := BitVec.ofNat 16 (bits w 15 0) }

/-- Bits of wait (Table 3-5). -/
def rowWait (w : Nat) : WaitF :=
  { pd := BitVec.ofNat 3 (bits w 49 47), notimeout := bit w 46, creg := bit w 43, sc := BitVec.ofNat 6 (bits w 42 37),
    timeout := BitVec.ofNat 16 (bits w 31 16), cnum := BitVec.ofNat 16 (bits w 15 0) }

/-- The class C row of an OP (Table 3-4); `m` is what a read of tile SRAM meets. -/
def rowC (h : Head) (m : Sram) (w : Nat) : Nat → Option Instr
  | 1 => some (.end_ h)
  | 2 => some (.br h (BitVec.ofNat 32 (bits w 31 0)))
  | 3 => some (.brl h (BitVec.ofNat 6 (bits w 49 44)) (BitVec.ofNat 32 (bits w 31 0)))
  | 4 => some (.jr h (BitVec.ofNat 6 (bits w 43 38)))
  | 5 => some (.jrl h (BitVec.ofNat 6 (bits w 49 44)) (BitVec.ofNat 6 (bits w 43 38)))
  | 6 => some (.loop h (BitVec.ofNat 6 (bits w 43 38)) (BitVec.ofNat 12 (bits w 11 0)))
  | 7 => some (.loopi h (BitVec.ofNat 20 (bits w 31 12)) (BitVec.ofNat 12 (bits w 11 0)))
  | 8 => some (.movi h (BitVec.ofNat 6 (bits w 49 44)) (BitVec.ofNat 32 (bits w 31 0)))
  | 9 => some (.ldhi h (BitVec.ofNat 6 (bits w 49 44)) (BitVec.ofNat 32 (bits w 31 0)))
  | 10 => some (.mfc h (BitVec.ofNat 6 (bits w 49 44)) (BitVec.ofNat 32 (bits w 31 0)))
  | 11 => some (.mtc h (BitVec.ofNat 6 (bits w 43 38)) (BitVec.ofNat 32 (bits w 31 0)))
  | 12 => some (.fret h)
  | 14 => some (.add h (BitVec.ofNat 6 (bits w 49 44)) (BitVec.ofNat 6 (bits w 43 38)) (BitVec.ofNat 6 (bits w 37 32)))
  | 15 => some (.sub h (BitVec.ofNat 6 (bits w 49 44)) (BitVec.ofNat 6 (bits w 43 38)) (BitVec.ofNat 6 (bits w 37 32)))
  | 16 => some (.mul h (BitVec.ofNat 6 (bits w 49 44)) (BitVec.ofNat 6 (bits w 43 38)) (BitVec.ofNat 6 (bits w 37 32)))
  | 17 => some (.mulhu h (BitVec.ofNat 6 (bits w 49 44)) (BitVec.ofNat 6 (bits w 43 38)) (BitVec.ofNat 6 (bits w 37 32)))
  | 18 => some (.and_ h (BitVec.ofNat 6 (bits w 49 44)) (BitVec.ofNat 6 (bits w 43 38)) (BitVec.ofNat 6 (bits w 37 32)))
  | 19 => some (.or_ h (BitVec.ofNat 6 (bits w 49 44)) (BitVec.ofNat 6 (bits w 43 38)) (BitVec.ofNat 6 (bits w 37 32)))
  | 20 => some (.xor_ h (BitVec.ofNat 6 (bits w 49 44)) (BitVec.ofNat 6 (bits w 43 38)) (BitVec.ofNat 6 (bits w 37 32)))
  | 21 => some (.shl h (BitVec.ofNat 6 (bits w 49 44)) (BitVec.ofNat 6 (bits w 43 38)) (BitVec.ofNat 6 (bits w 37 32)))
  | 22 => some (.shr h (BitVec.ofNat 6 (bits w 49 44)) (BitVec.ofNat 6 (bits w 43 38)) (BitVec.ofNat 6 (bits w 37 32)))
  | 23 => some (.sra h (BitVec.ofNat 6 (bits w 49 44)) (BitVec.ofNat 6 (bits w 43 38)) (BitVec.ofNat 6 (bits w 37 32)))
  | 24 => some (.min_ h (BitVec.ofNat 6 (bits w 49 44)) (BitVec.ofNat 6 (bits w 43 38)) (BitVec.ofNat 6 (bits w 37 32)))
  | 25 => some (.max_ h (BitVec.ofNat 6 (bits w 49 44)) (BitVec.ofNat 6 (bits w 43 38)) (BitVec.ofNat 6 (bits w 37 32)))
  | 26 => some (.minu h (BitVec.ofNat 6 (bits w 49 44)) (BitVec.ofNat 6 (bits w 43 38)) (BitVec.ofNat 6 (bits w 37 32)))
  | 27 => some (.maxu h (BitVec.ofNat 6 (bits w 49 44)) (BitVec.ofNat 6 (bits w 43 38)) (BitVec.ofNat 6 (bits w 37 32)))
  | 28 => some (.addi h (BitVec.ofNat 6 (bits w 49 44)) (BitVec.ofNat 6 (bits w 43 38)) (BitVec.ofNat 32 (bits w 31 0)))
  | 29 => some (.andi h (BitVec.ofNat 6 (bits w 49 44)) (BitVec.ofNat 6 (bits w 43 38)) (BitVec.ofNat 32 (bits w 31 0)))
  | 30 => some (.ori h (BitVec.ofNat 6 (bits w 49 44)) (BitVec.ofNat 6 (bits w 43 38)) (BitVec.ofNat 32 (bits w 31 0)))
  | 31 => some (.xori h (BitVec.ofNat 6 (bits w 49 44)) (BitVec.ofNat 6 (bits w 43 38)) (BitVec.ofNat 32 (bits w 31 0)))
  | 32 => some (.shli h (BitVec.ofNat 6 (bits w 49 44)) (BitVec.ofNat 6 (bits w 43 38)) (BitVec.ofNat 32 (bits w 31 0)))
  | 33 => some (.shri h (BitVec.ofNat 6 (bits w 49 44)) (BitVec.ofNat 6 (bits w 43 38)) (BitVec.ofNat 32 (bits w 31 0)))
  | 34 => some (.srai h (BitVec.ofNat 6 (bits w 49 44)) (BitVec.ofNat 6 (bits w 43 38)) (BitVec.ofNat 32 (bits w 31 0)))
  | 35 => some (.pset h (BitVec.ofNat 3 (bits w 31 29)) (BitVec.ofNat 3 (bits w 28 26)) (BitVec.ofNat 6 (bits w 43 38)) (BitVec.ofNat 6 (bits w 37 32)))
  | 36 => some (.pseti h (BitVec.ofNat 3 (bits w 31 29)) (BitVec.ofNat 3 (bits w 49 47)) (BitVec.ofNat 6 (bits w 43 38)) (BitVec.ofNat 29 (bits w 28 0)))
  | 37 => some (.plog h (BitVec.ofNat 3 (bits w 46 44)) (BitVec.ofNat 3 (bits w 40 38)) (BitVec.ofNat 3 (bits w 34 32)) (BitVec.ofNat 2 (bits w 1 0)))
  | 38 => some (.lds h (BitVec.ofNat 6 (bits w 49 44)) (BitVec.ofNat 6 (bits w 43 38)) (BitVec.ofNat 2 (bits w 37 36)) (BitVec.ofNat 32 (bits w 31 0)) m)
  | 39 => some (.sts h (BitVec.ofNat 6 (bits w 49 44)) (BitVec.ofNat 6 (bits w 43 38)) (BitVec.ofNat 2 (bits w 37 36)) (BitVec.ofNat 32 (bits w 31 0)))
  | 40 => some (.trap h)
  | 41 => some (.rdtime h (BitVec.ofNat 6 (bits w 49 44)))
  | _ => none

/-- The class M row of an OP. -/
def rowMatrix (h : Head) (f : MF) : Nat → Option Instr
  | 0 => some (.mmul h f)
  | 1 => some (.mslice h f)
  | 2 => some (.mread h f)
  | 3 => some (.manchor h f)
  | 4 => some (.mclear h f)
  | _ => none

/-- The class V row of an OP. -/
def rowVector (h : Head) (m : Sram) (f : VF) : Nat → Option Instr
  | 0 => some (.vadd h f)
  | 1 => some (.vsub h f)
  | 2 => some (.vmul h f)
  | 3 => some (.vfma h f)
  | 4 => some (.vmin h f)
  | 5 => some (.vmax h f)
  | 6 => some (.vabs h f)
  | 7 => some (.vneg h f)
  | 8 => some (.vcvt h f)
  | 9 => some (.vcmp h f)
  | 10 => some (.vsel h f)
  | 11 => some (.vand h f)
  | 12 => some (.vor h f)
  | 13 => some (.vxor h f)
  | 14 => some (.vshl h f)
  | 15 => some (.vshr h f)
  | 16 => some (.vld h f m)
  | 17 => some (.vst h f)
  | 18 => some (.vbcast h f)
  | 19 => some (.vext h f)
  | 20 => some (.vrsum h f)
  | 21 => some (.vrmax h f)
  | 22 => some (.vrmin h f)
  | 23 => some (.vperm h f)
  | 24 => some (.vmovi h f)
  | _ => none

/-- The class F row of an OP. -/
def rowSfu (h : Head) (f : FF) : Nat → Option Instr
  | 0 => some (.fexp h f)
  | 1 => some (.flog h f)
  | 2 => some (.frcp h f)
  | 3 => some (.frsq h f)
  | 8 => some (.cbload h f)
  | 9 => some (.cbswap h f)
  | 10 => some (.cblook h f)
  | _ => none

/-- The class D row of an OP; VAR names the action of chctl (R208). -/
def rowData (h : Head) (f : DF) : Nat → Option Instr
  | 0 => some (.copy h f)
  | 1 => some (.ldn h f)
  | 2 => some (.stn h f)
  | 3 => some (.atom h f)
  | 4 => some (.chrd h f)
  | 5 => match f.var.toNat with
    | 0 => some (.chctlPause h f)
    | 1 => some (.chctlResume h f)
    | 2 => some (.chctlAbort h f)
    | _ => none
  | _ => none

/-- The class Y row of an OP; MODE names the action of migrate (R48). -/
def rowSync (h : Head) (w : Nat) : Nat → Option Instr
  | 0 => some (.arm h (rowArm w))
  | 1 => some (.arrive h (rowArrive w))
  | 2 => some (.wait h (rowWait w))
  | 3 => some (if bit w 49 then .migrateDiscard h (rowArm w) else .migrateDrain h (rowArm w))
  | 4 => some (.scread h (BitVec.ofNat 6 (bits w 49 44)) (bit w 43) (BitVec.ofNat 6 (bits w 42 37)) (BitVec.ofNat 2 (bits w 31 30)) (BitVec.ofNat 16 (bits w 15 0)))
  | 5 => some (.twait h (BitVec.ofNat 4 (bits w 3 0)))
  | 6 => some (.tset h (BitVec.ofNat 8 (bits w 11 4)) (BitVec.ofNat 4 (bits w 3 0)))
  | 7 => some (.tread h (BitVec.ofNat 6 (bits w 49 44)) (BitVec.ofNat 4 (bits w 3 0)))
  | 8 => some (.fence h (BitVec.ofNat 2 (bits w 49 48)))
  | 9 => some (.tpush h (BitVec.ofNat 3 (bits w 49 47)) (BitVec.ofNat 6 (bits w 43 38)) (BitVec.ofNat 6 (bits w 37 32)) (BitVec.ofNat 6 (bits w 31 26)))
  | 10 => some (.tpop h (BitVec.ofNat 3 (bits w 49 47)) (BitVec.ofNat 6 (bits w 43 38)) (BitVec.ofNat 6 (bits w 37 32)))
  | _ => none

/-- The class X row of an OP. -/
def rowColl (h : Head) (f : XF) : Nat → Option Instr
  | 0 => some (.bkarm h f)
  | 1 => some (.bkput h f)
  | 2 => some (.bkrd h f)
  | 3 => some (.xfire h f)
  | 5 => some (.xa2a h f)
  | 4 => some (.plansw h f)
  | _ => none

/-- The row that word `w`, fetched by context `c` of tile `t`, stands for; none for nop and for what no row encodes. -/
def rowOf (t : Nat) (c : Ctxt) (m : Sram) (w : Nat) : Option Instr :=
  let h := rowHead t c w
  match wCls w with
  | 1 => rowC h m w (wOp w)
  | 2 => rowMatrix h (rowM w) (wOp w)
  | 3 => rowVector h m (rowV w) (wOp w)
  | 4 => rowSfu h (rowF w) (wOp w)
  | 5 => rowData h (rowD w) (wOp w)
  | 6 => rowSync h w (wOp w)
  | 7 => rowColl h (rowX w) (wOp w)
  | _ => none

end Machine

/-- Who issues an instruction row; none for the other rows. -/
def Instr.head : Instr → Option Head
  | .nop t c w => some (rowHead t c w.toNat)
  | .end_ h => some h
  | .contextEnded _ _ => none
  | .br h _ => some h
  | .brl h _ _ => some h
  | .jr h _ => some h
  | .jrl h _ _ => some h
  | .loop h _ _ => some h
  | .loopi h _ _ => some h
  | .movi h _ _ => some h
  | .ldhi h _ _ => some h
  | .mfc h _ _ => some h
  | .mtc h _ _ => some h
  | .fret h => some h
  | .add h _ _ _ => some h
  | .sub h _ _ _ => some h
  | .mul h _ _ _ => some h
  | .mulhu h _ _ _ => some h
  | .and_ h _ _ _ => some h
  | .or_ h _ _ _ => some h
  | .xor_ h _ _ _ => some h
  | .shl h _ _ _ => some h
  | .shr h _ _ _ => some h
  | .sra h _ _ _ => some h
  | .min_ h _ _ _ => some h
  | .max_ h _ _ _ => some h
  | .minu h _ _ _ => some h
  | .maxu h _ _ _ => some h
  | .addi h _ _ _ => some h
  | .andi h _ _ _ => some h
  | .ori h _ _ _ => some h
  | .xori h _ _ _ => some h
  | .shli h _ _ _ => some h
  | .shri h _ _ _ => some h
  | .srai h _ _ _ => some h
  | .pset h _ _ _ _ => some h
  | .pseti h _ _ _ _ => some h
  | .plog h _ _ _ _ => some h
  | .lds h _ _ _ _ _ => some h
  | .sts h _ _ _ _ => some h
  | .trap h => some h
  | .rdtime h _ => some h
  | .unitFault _ _ _ _ => none
  | .contextSwitchToL _ _ _ => none
  | .contextSwitchToF _ _ _ => none
  | .unitInstructionStart _ _ _ => none
  | .unitInstructionComplete _ _ => none
  | .mmul h _ => some h
  | .mslice h _ => some h
  | .mread h _ => some h
  | .manchor h _ => some h
  | .mclear h _ => some h
  | .vadd h _ => some h
  | .vsub h _ => some h
  | .vmul h _ => some h
  | .vfma h _ => some h
  | .vmin h _ => some h
  | .vmax h _ => some h
  | .vabs h _ => some h
  | .vneg h _ => some h
  | .vcvt h _ => some h
  | .vcmp h _ => some h
  | .vsel h _ => some h
  | .vand h _ => some h
  | .vor h _ => some h
  | .vxor h _ => some h
  | .vshl h _ => some h
  | .vshr h _ => some h
  | .vld h _ _ => some h
  | .vst h _ => some h
  | .vbcast h _ => some h
  | .vext h _ => some h
  | .vrsum h _ => some h
  | .vrmax h _ => some h
  | .vrmin h _ => some h
  | .vperm h _ => some h
  | .vmovi h _ => some h
  | .fexp h _ => some h
  | .flog h _ => some h
  | .frcp h _ => some h
  | .frsq h _ => some h
  | .cbload h _ => some h
  | .cbswap h _ => some h
  | .cblook h _ => some h
  | .copy h _ => some h
  | .copyQueueFullStall _ _ => none
  | .copyStart _ _ _ => none
  | .engineGrant _ _ => none
  | .copyComplete _ _ => none
  | .ldn h _ => some h
  | .stn h _ => some h
  | .narrowComplete _ _ => none
  | .narrowPathFullStall _ _ => none
  | .atom h _ => some h
  | .chrd h _ => some h
  | .chctlPause h _ => some h
  | .chctlResume h _ => some h
  | .chctlAbort h _ => some h
  | .arm h _ => some h
  | .arrive h _ => some h
  | .arrivalApplied _ => none
  | .wait h _ => some h
  | .waitRetest _ _ => none
  | .waitTimeout _ _ => none
  | .migrateDrain h _ => some h
  | .migrateDrainComplete _ _ => none
  | .migrateDiscard h _ => some h
  | .scread h _ _ _ _ _ => some h
  | .twait h _ => some h
  | .tset h _ _ => some h
  | .tread h _ _ => some h
  | .fence h _ => some h
  | .fenceComplete _ _ => none
  | .tpush h _ _ _ _ => some h
  | .tpop h _ _ _ => some h
  | .bkarm h _ => some h
  | .bkput h _ => some h
  | .bkrd h _ => some h
  | .xfire h _ => some h
  | .xa2a h _ => some h
  | .plansw h _ => some h
  | .collOpen _ => none
  | .collFragment _ => none
  | .collDeadline _ => none
  | .bkctlAbort _ => none
  | .rerunRequest _ => none
  | .dwFlitReceived _ => none
  | .dwHoldExpiry _ => none
  | .dwPartnerTimeout _ => none
  | .routerPlacement _ => none
  | .edgeSwitchPlacement _ _ => none
  | .messageDelivery _ => none
  | .ackSend _ => none
  | .ackReceived _ => none
  | .nack _ => none
  | .e2etoExpiry _ => none
  | .streamForget _ => none
  | .linkBlockReceived _ _ _ => none
  | .nakReplay _ _ => none
  | .replayTimeout _ _ => none
  | .rtepochFlip => none
  | .epochHoldEnd => none
  | .trainingFrame _ _ _ => none
  | .verifyTimeout _ _ => none
  | .lockAttemptTimeout _ _ => none
  | .ringFailed _ _ => none
  | .portBringup _ _ _ => none
  | .portReset _ => none
  | .portRetrain _ _ _ => none
  | .lossOfLight _ => none
  | .probe _ _ => none
  | .lightReturned _ => none
  | .laserHigh _ _ => none
  | .laserHighClear _ _ => none
  | .laserLow _ _ _ => none
  | .spareTakeover _ _ => none
  | .spareRelease _ => none
  | .cpctlGo => none
  | .planSwitchComplete => none
  | .bundleUp _ _ => none
  | .cacheSectorAccess _ _ _ _ _ _ => none
  | .patrolScrub _ _ _ _ => none
  | .takeOutOfService _ _ => none
  | .returnToService _ _ _ => none
  | .channelLeavingDone _ => none
  | .channelFillDone _ => none
  | .startGenerator _ _ => none
  | .stopGenerator _ _ => none
  | .generatorDone _ _ => none
  | .remoteRead _ => none
  | .remoteWrite _ => none
  | .remoteAtomic _ => none
  | .remoteArrive _ => none
  | .rdata _ => none
  | .wack _ => none
  | .aresult _ => none
  | .retry _ => none
  | .retryBackoffExpiry _ => none
  | .refuse _ => none
  | .combineFold _ => none
  | .gatewayTransfer _ _ => none
  | .gatewayApply _ => none
  | .govRefill _ => none
  | .poolGrant _ => none
  | .hearthPowerStep _ _ => none
  | .powercapWrite _ _ => none
  | .powerOver => none
  | .powerOverClear => none
  | .sprintStart _ => none
  | .sprintEnd _ _ _ => none
  | .sensorSample _ _ => none
  | .throttleFactorStep _ => none
  | .thermalShutdown _ _ => none
  | .powerupCommand _ _ => none
  | .drain => none
  | .drainComplete => none
  | .marginTests _ _ => none
  | .linkLaneFail _ _ => none
  | .linkDegraded _ _ => none
  | .healthDecay => none
  | .healthSave => none
  | .heartbeatSend => none
  | .heartbeatReceived _ _ _ _ _ => none
  | .peerLost => none
  | .mirrorWrite _ => none
  | .drainNotice _ => none
  | .promotion _ => none
  | .twinctlPromote _ => none
  | .twinctlDetach _ => none
  | .detachNotice => none
  | .hostFailover _ => none
  | .hostFailback => none
  | .shadowCompare _ => none
  | .shadowTimeout _ => none
  | .hearthBoot _ => none
  | .hearthReset => none
  | .eventRecord => none
  | .requestUpdate _ => none
  | .verifyComplete => none
  | .activateFirmware => none
  | .commitSvn => none
  | .spdmChallenge _ => none
  | .spdmGetMeasurements _ _ => none
  | .setEndpointId _ => none
  | .i3cDynamicAddress _ => none
  | .edgeAdmission _ _ _ => none
  | .ucieBringup _ _ => none
  | .regrd _ => none
  | .regwr _ => none
  | .sqDoorbell _ _ => none
  | .commandStart _ => none
  | .launchComplete _ => none
  | .dmaComplete _ => none
  | .data _ => none
  | .done _ => none
  | .completionRecord _ => none
  | .cqDoorbell _ _ => none
  | .eventRingWrite => none
  | .coldReset _ => none
  | .modResetN _ => none
  | .pwrEn _ => none
  | .inputLoss _ => none
  | .inputRestored _ => none
  | .inputOutOfBand => none
  | .refclkLoss => none
  | .warmReset _ _ => none
  | .computeReset _ _ => none
  | .enterNap _ => none
  | .leaveNap _ => none
  | .enterDeep _ => none
  | .leaveDeep _ _ => none
  | .idleGate _ => none
  | .sccountWrite _ _ _ => none
  | .sctargetWrite _ _ _ => none
  | .badRegisterAccess _ _ _ => none
  | .registerWrite _ _ _ => none
  | .writtenValueTakesEffect _ _ _ _ => none
  | .lockLoss _ _ => none
  | .shadowRecordReceived _ _ => none
  | .twinPresN _ => none
  | .hrefclkLoss => none
  | .hrefclkRestored => none
  | .inputBackInRange => none
  | .sprintCclkChange => none
  | .dailyBucketRollover => none
  | .spdmNegotiateAlgorithms _ _ => none
  | .clearProtectedRegion => none
  | .faultNRelease => none
  | .blowOkeyhash _ => none
  | .dwSentFlitRelease _ => none
  | .testPortAccess _ => none

/-- What the read of tile SRAM met that an instruction row carries; `good` for a row that reads none. -/
def Instr.sram : Instr → Sram
  | .lds _ _ _ _ _ m => m
  | .vld _ _ m => m
  | _ => .good

end Sys2Proof
end

