-- ==== Sys2Proof/Safety.lean ====
section
/-! DEFINITION. What counts as a safe run: every step answers a next state, and the sparse data of the state stay in their
one canonical form, so that equal contents are equal data. -/

namespace Sys2Proof.Machine

/-- The step neither faults nor is refused. -/
def safe (o : Out) : Bool :=
  match o with
  | .next _ => true
  | .fault _ => false
  | .refused _ => false

/-- The tile's memory is canonical: addresses rise strictly, and no entry equals what an unlisted address reads as. After a
march pattern unlisted addresses read as free values, which no entry can be held against. -/
def Tile.wf (t : Tile) : Bool :=
  match t.fill with
  | none => SMap.wf 0 t.store
  | some _ => SMap.sortedFrom none t.store

/-- Device memory and the cache's bytes are canonical, and its lines rise strictly. -/
def Mem.wf (m : Mem) : Bool := SMap.wf 0 m.hbm && SMap.wf 0 m.cbytes && SMap.sortedFrom none m.lines

/-- A running instruction of the array of tile `u` that has an operand byte among the `n` from `a` writes byte `b` (R136). -/
def State.spoilt (s : State) (u a n b : Nat) : Prop :=
  ∃ o ∈ (s.tile u).ops, o.started = true ∧ (∃ r ∈ o.inBytes, a < r.1 + r.2 ∧ r.1 < a + n)
    ∧ ∃ r ∈ o.outBytes, r.1 ≤ b ∧ b < r.1 + r.2

/-- Byte `i` of the `n` from `a` of tile `u`, and of its checker (R156), holds `v i` in `t`, where it names a byte; every other byte
of every tile is as it was, but for what an instruction of the array writes whose operands this overwrites (R136). -/
def State.storesLocal (t s : State) (u a n : Nat) (v : Nat → Option Byte) : Prop :=
  (∀ w, w = u ∨ s.checkerOf u = some w → ∀ b, ¬ s.spoilt u a n b →
    (t.tile w).rdByte b = (if a ≤ b ∧ b < a + n then v (b - a) else none).getD ((s.tile w).rdByte b))
  ∧ ∀ w b, w ≠ u → s.checkerOf u ≠ some w → (t.tile w).rdByte b = (s.tile w).rdByte b

/-- Nothing stops instruction word `w` of context `h` at issue: the context may issue, the fetch and the word are good, no
register interlocks, and its guard is 1 unless the instruction is masked by lanes (R22, R58 to R62, R70). -/
def State.goes (s : State) (h : Head) (w : Nat) (u : Uses) (masked : Bool) : Bool :=
  decide (h.tile < Config.tiles) && s.ready h.tile h.ctx
  && (s.fetchFault (s.ctx h.tile h.ctx).pc.toNat).isNone && legal w
  && !(s.tile h.tile).blocked h.ctx (s.tile h.tile).seq ((96 + h.pred.toNat) :: u.reads) u.writes
  && (masked || guardBit ((s.ctx h.tile h.ctx).rdP h.pred.toNat) h.pneg)

/-- State `t` differs from `s` at most in context `h` and in the credit of its tile: no register of the control space, no
counter, no memory, no other tile or context, no token, no unit queue. -/
def State.elsewhere (t s : State) (h : Head) : Prop :=
  { t with tiles := s.tiles } = s ∧ (∀ u, u ≠ h.tile → t.tile u = s.tile u)
  ∧ ∃ (x : Ctx) (credit want : Nat), t.tile h.tile = { s.tile h.tile with credit := credit, want := want }.setCtx h.ctx x

/-- In context `h` the predicates, the vector registers and the fault registers are as they were. -/
def State.keepsPV (t s : State) (h : Head) : Prop :=
  let y := t.ctx h.tile h.ctx
  let x := s.ctx h.tile h.ctx
  (∀ j, y.rdP j = x.rdP j) ∧ (∀ r k, y.rdLane r k = x.rdLane r k)
  ∧ y.fvec = x.fvec ∧ y.fmask = x.fmask ∧ y.fpc = x.fpc ∧ y.fcause = x.fcause ∧ y.finfo = x.finfo
  ∧ y.fresume = x.fresume ∧ y.inh = x.inh

/-- The scalar registers of context `h` are as they were, but for register `d`, which holds `v`; s0 reads 0 (R63). -/
def State.onlyS (t s : State) (h : Head) (d : Nat) (v : Word) : Prop :=
  ∀ j, (t.ctx h.tile h.ctx).rdS j = if j = 0 then 0 else if j = d then v else (s.ctx h.tile h.ctx).rdS j

/-- The context goes on at the next instruction: the next word, or the back-edges of its loops (R56, R74). -/
def State.wentOn (t s : State) (h : Head) : Prop :=
  ((t.ctx h.tile h.ctx).pc, (t.ctx h.tile h.ctx).loops)
    = backEdge (s.ctx h.tile h.ctx).pc (s.ctx h.tile h.ctx).loops

/-- The scalar registers of context `h` are as they were. -/
def State.keepsS (t s : State) (h : Head) : Prop :=
  ∀ j, (t.ctx h.tile h.ctx).rdS j = (s.ctx h.tile h.ctx).rdS j

/-- The context goes on at `target`; only loops whose body holds it stay active (R71, R75). -/
def State.wentTo (t s : State) (h : Head) (target : Addr48) : Prop :=
  (t.ctx h.tile h.ctx).pc = target
  ∧ (t.ctx h.tile h.ctx).loops = (s.ctx h.tile h.ctx).loops.filter fun l => l.contains target

/-- The predicates of context `h` are as they were, but for predicate `d`, which holds `v`; p0 reads all ones (R59). -/
def State.onlyP (t s : State) (h : Head) (d : Nat) (v : Word) : Prop :=
  ∀ j, (t.ctx h.tile h.ctx).rdP j = if j = 0 then BitVec.allOnes 64 else if j = d then v else (s.ctx h.tile h.ctx).rdP j

/-- Nothing stops instruction word `w` with registers `u`, and the balance of its tile covers a control instruction (entry
16 of Table 14-1, R372). -/
def State.runs (s : State) (h : Head) (w : Nat) (u : Uses) : Prop :=
  s.goes h w u false = true ∧ s.covered h.tile 16 = true

/-- Command `i` of context `h`, with word `w` and registers `u`, completes wherever it runs, and writes `v` to scalar
register `d` and nothing else. -/
def State.writesS (s : State) (h : Head) (w : Nat) (u : Uses) (i : Instr) (d : Nat) (v : Word) : Prop :=
  s.runs h w u → ∃ t, exec i s = .next t ∧ t.onlyS s h d v ∧ t.keepsPV s h ∧ t.wentOn s h ∧ t.elsewhere s h

/-- The same for a predicate. -/
def State.writesP (s : State) (h : Head) (w : Nat) (u : Uses) (i : Instr) (d : Nat) (v : Word) : Prop :=
  s.runs h w u → ∃ t, exec i s = .next t ∧ t.onlyP s h d v ∧ t.keepsS s h ∧ t.wentOn s h ∧ t.elsewhere s h

/-- A unit instruction with word `w`, issued to unit `u`, starts at once: nothing stops its issue, the balance covers its
charge, its wait token and its registers are free, and every instruction that stands before it in the unit has started
(R39, R61, R62, R372). -/
def State.startsAtIssue (s : State) (h : Head) (u : TUnit) (w : Nat) : Prop :=
  s.goes h w (usesUnit w) true = true ∧ s.covered h.tile (costKey w) = true ∧ (s.tile h.tile).tokenReady w = true
  ∧ (s.tile h.tile).blocked h.ctx (s.tile h.tile).seq (uReads w) (uWrites w) = false
  ∧ ∀ o ∈ (s.tile h.tile).ops, o.unit = u → o.started = true

/-- State `t` differs from `s` at most in tile `h.tile`: in context `h`, in its balance, in its unit queues, where the
instruction with word `w` stands started, and in its wait token, which is one less. -/
def State.unitElsewhere (t s : State) (h : Head) (w : Nat) : Prop :=
  let x := s.tile h.tile
  let y := t.tile h.tile
  { t with tiles := s.tiles } = s ∧ (∀ u, u ≠ h.tile → t.tile u = s.tile u)
  ∧ (∀ c, c ≠ h.ctx → t.ctx h.tile c = s.ctx h.tile c) ∧ (∀ b, y.rdByte b = x.rdByte b)
  ∧ (∀ k, y.token k = if waitTok w = some k then x.token k - 1 else x.token k)
  ∧ (∀ b i, y.entry b i = x.entry b i) ∧ y.bank = x.bank ∧ y.seq = x.seq + 1
  ∧ ∃ o ∈ y.ops, o.seq = x.seq ∧ o.ctx = h.ctx ∧ o.started = true ∧ o.word = BitVec.ofNat 64 w

/-- The vector registers of context `h` are as they were, but for the elements of register `d` that take part under the
guard of `h`, which hold `v` (R61, R159). -/
def State.onlyV (t s : State) (h : Head) (ty d : Nat) (v : Nat → Nat) : Prop :=
  let x := s.ctx h.tile h.ctx
  let y := t.ctx h.tile h.ctx
  (∀ k, k < elemsOf ty → y.rdElem ty d k
    = if takesPart ty (laneMask (x.rdP h.pred.toNat) h.pneg) k then v k % 2 ^ (if ty = 1 then 64 else 32)
      else x.rdElem ty d k)
  ∧ ∀ r k, r ≠ d → k < 64 → y.rdLane r k = x.rdLane r k

/-- Command `i` of context `h`, with vector word `w`, completes wherever it starts at issue: it writes `v` to the elements of
register `d` that take part, and nothing else. -/
def State.writesV (s : State) (h : Head) (u : TUnit) (w : Nat) (i : Instr) (ty d : Nat) (v : Nat → Nat) : Prop :=
  s.startsAtIssue h u w → ∃ t, exec i s = .next t ∧ t.onlyV s h ty d v ∧ t.keepsS s h
    ∧ (∀ j, (t.ctx h.tile h.ctx).rdP j = (s.ctx h.tile h.ctx).rdP j) ∧ t.wentOn s h ∧ t.unitElsewhere s h w

/-- No register of the control space, no device memory, no channel, no byte of a tile and no token of `s` is changed in `t`. -/
def State.keepsData (t s : State) : Prop :=
  t.regs = s.regs ∧ t.mem = s.mem ∧ t.chans = s.chans ∧ (∀ u b, (t.tile u).rdByte b = (s.tile u).rdByte b)
  ∧ ∀ u k, (t.tile u).token k = (s.tile u).token k

/-- The counters of `t` are those of `s`, but for counter `c`, which is `x`. -/
def State.onlyCounter (t s : State) (c : Nat) (x : Counter) : Prop := ∀ k, t.counter k = if k = c then x else s.counter k

/-- No message of stream `k` that its source keeps has the number its next message takes (R259). -/
def State.freeSeq (s : State) (k : StreamKey) : Prop := ∀ m ∈ s.fab.out, m.key = k → m.seq ≠ (s.fab.outStream k).next

/-- The source of stream `k` keeps a message of this kind, TAG and data until it is acknowledged (R259). -/
def State.keeps (t : State) (k : StreamKey) (kind tag : Nat) (data : List Byte) : Prop :=
  ∃ m ∈ t.fab.out, m.key = k ∧ m.kind = kind ∧ m.tag = tag ∧ m.data = data

/-- Message `m` stands at place `n` of the inbox and is the first of its stream there. -/
def State.nextIn (s : State) (n : Nat) (m : InMsg) : Prop :=
  s.fab.inbox[n]? = some m ∧ ∀ x ∈ s.fab.inbox.take n, x.key ≠ m.key

/-- The registers the fabric's own traffic counts in: event counts, the last drop, lost events (Table 9-8, R439). -/
def fabricCounts : List Reg := [.FCOUNT, .FLASTDROP, .LOGLOST]

/-- State `t` differs from `s` at most in the fabric, in the registers that count its traffic, and in events logged. -/
def State.onlyFabric (t s : State) : Prop :=
  { t with fab := s.fab, regs := s.regs, events := s.events, free := s.free } = s
  ∧ ∀ r i, i < 2 ^ 24 → r ∉ fabricCounts → t.reg r i = s.reg r i

/-- The registers that optical ports and wiring plans show themselves in, and the counts their events add to. -/
def opticsRegs : List Reg :=
  [.PORTSTAT, .LANESTAT, .RINGSTAT, .LANEEQ, .PCOUNT, .LASERSTAT, .SPARE, .CPSTAT, .PORTCTL, .FREPLAY, .HEALTHFLAG, .LOGLOST]

/-- State `t` differs from `s` at most in optical ports and their link layers, in penalties, and in events logged. -/
def State.onlyOptics (t s : State) : Prop :=
  { t with fab := s.fab, regs := s.regs, events := s.events, rx := s.rx, retrains := s.retrains, shut := s.shut,
           training := s.training, sfcnt := s.sfcnt, frames := s.frames, penalty := s.penalty, asks := s.asks, free := s.free } = s
  ∧ { t.fab with links := s.fab.links } = s.fab
  ∧ ∀ r i, i < 2 ^ 24 → r ∉ opticsRegs → t.reg r i = s.reg r i

/-- Field `f` of entry `i` counts one more event in `t`, up to its greatest value. -/
def State.counted (t s : State) (f : Fld) (i : Nat) : Prop :=
  t.get f i = min (2 ^ (f.hi + 1 - f.lo) - 1) (s.get f i + 1)

/-- Event `ev` of unit `u` is logged in `t`. -/
def State.logged (t : State) (ev : Ev) (u : Nat) : Prop := ∃ e ∈ t.events, e.ev = ev ∧ e.unit = u

/-- The cache agrees with HBM: a dirty sector is valid, and a sector the cache holds clean is the one HBM holds (R220). -/
def Mem.coherent (m : Mem) : Prop :=
  ∀ k l, m.line k = some l → ∀ sec, sec < 8 →
    (bit l.dirty sec = true → bit l.valid sec = true)
    ∧ (bit l.valid sec = true → bit l.dirty sec = false → rdStored m.cbytes (k * 8 + sec) = rdStored m.hbm (k * 8 + sec))

/-- Every sector of `m` but one, if any, is what it was in `m'`. -/
def Mem.sectorsKept (m m' : Mem) (but : Option (Nat × Nat × Nat)) : Prop :=
  ∀ ch q sec, q < 2 ^ 25 → sec < 8 → but ≠ some (ch, q, sec) → m.sector ch q sec = m'.sector ch q sec

/-- The invariant every step keeps: memory, registers, tiles, counters, channels and tags in canonical form, and thirty daily
buckets of sprint time (R381). -/
def State.inv (s : State) : Bool :=
  s.mem.wf && SMap.sortedFrom none s.regs && SMap.sortedFrom none s.asks && SMap.wf Tile.reset s.tiles
  && s.tiles.all (fun e => e.2.wf) && SMap.wf Counter.reset s.counters && SMap.wf Chan.reset s.chans
  && SMap.wf Tag.free s.tags && decide (s.power.wear.length = 30)

end Sys2Proof.Machine
end

