-- ==== Sys2Proof/Certificates/Slice0/Obligations.lean ====
section
/-! DEFINITION. What is to be proved of the model: one proposition for each rule or group of rules. -/

open Sys2Proof Sys2Proof.Machine

/-! ## The step, reset and the invariant -/

/-- A step takes the command at the front of the queue and has its effect on the state with the queue's rest; on an empty queue the
block idles (the model's choice, log entry 2). -/
def Obligations.StepRunsFront : Prop :=
  (∀ (c : Instr) (rest : List Instr) (s : State),
     step { s with pending := c :: rest } = exec c { s with pending := rest })
  ∧ (∀ s : State, s.pending = [] → step s = .next s)

/-- The state right after reset is in canonical form. -/
def Obligations.ResetCanonical : Prop := State.reset.inv = true

/-- Every step keeps the canonical form of memory, registers, tiles, counters, channels and tags. -/
def Obligations.StepKeepsCanonical : Prop :=
  ∀ s t : State, s.inv = true → step s = .next t → t.inv = true

/-- A command whose units all exist never stops: it answers a next state from every state. -/
def Obligations.WellFormedNeverStops : Prop :=
  ∀ (c : Instr) (s : State), c.wellFormed = true → ∃ t, exec c s = .next t

/-- What the manual gives for reset: the module ACTIVE, no drain, no fence, the die clocks and job defaults, every tile, counter
and channel at its default (R55, R472). -/
def Obligations.ResetValues : Prop :=
  State.reset.get F.PWRSTAT_STATE 0 = 3 ∧ State.reset.get F.HDSTAT_STATE 0 = 1
  ∧ State.reset.get F.DRAINSTAT_STATE 0 = 0 ∧ State.reset.get F.DLBCTL_EN 0 = 1 ∧ State.reset.get F.DLBCTL_SCOPE 0 = 3
  ∧ (∀ t, State.reset.tile t = Tile.reset) ∧ (∀ c, State.reset.counter c = Counter.reset)
  ∧ (∀ k, State.reset.chan k = Chan.reset) ∧ State.reset.tasks = []
  ∧ (∀ t c j, (State.reset.ctx t c).rdS j = 0) ∧ (∀ t k, (State.reset.tile t).token k = 0)
  ∧ (∀ t a, (State.reset.tile t).rdByte a = 0)

/-! ## Control and scalar instructions (chapter 3) -/

/-- R59, R63, R66, Table 3-4: a write to s0 or p0 is discarded; they read 0 and all ones, every other register what was last written to
it. The register-register and the register-immediate operations, movi and ldhi write their result to SD and change
nothing else; andi, ori and xori extend with zeros, addi and movi with the sign, and ldhi keeps SD[31:0]. -/
def Obligations.ScalarOps : Prop :=
  (∀ (x : Ctx) (i j : Nat) (v : Word),
       (x.wrS i v).rdS j = (if j = 0 then 0 else if j = i then v else x.rdS j)
       ∧ (x.wrP i v).rdP j = (if j = 0 then BitVec.allOnes 64 else if j = i then v else x.rdP j)
       ∧ x.wrS 0 v = x ∧ x.wrP 0 v = x ∧ (x.wrS i v).rdP j = x.rdP j ∧ (x.wrP i v).rdS j = x.rdS j)
  ∧ (∀ (h : Head) (sd sa sb : BitVec 6) (s : State),
     let a := (s.ctx h.tile h.ctx).rdS sa.toNat
     let b := (s.ctx h.tile h.ctx).rdS sb.toNat
     let w := fun op => wordCR op h sd sa sb
     let u := usesR sd sa sb
     s.writesS h (w 0x0E) u (.add h sd sa sb) sd.toNat (a + b)
     ∧ s.writesS h (w 0x0F) u (.sub h sd sa sb) sd.toNat (a - b)
     ∧ s.writesS h (w 0x10) u (.mul h sd sa sb) sd.toNat (a * b)
     ∧ s.writesS h (w 0x11) u (.mulhu h sd sa sb) sd.toNat (BitVec.ofNat 64 (a.toNat * b.toNat / 2 ^ 64))
     ∧ s.writesS h (w 0x12) u (.and_ h sd sa sb) sd.toNat (a &&& b)
     ∧ s.writesS h (w 0x13) u (.or_ h sd sa sb) sd.toNat (a ||| b)
     ∧ s.writesS h (w 0x14) u (.xor_ h sd sa sb) sd.toNat (a ^^^ b)
     ∧ s.writesS h (w 0x15) u (.shl h sd sa sb) sd.toNat (a <<< (b.toNat % 64))
     ∧ s.writesS h (w 0x16) u (.shr h sd sa sb) sd.toNat (a >>> (b.toNat % 64))
     ∧ s.writesS h (w 0x17) u (.sra h sd sa sb) sd.toNat (a.sshiftRight (b.toNat % 64))
     ∧ s.writesS h (w 0x18) u (.min_ h sd sa sb) sd.toNat (if b.slt a then b else a)
     ∧ s.writesS h (w 0x19) u (.max_ h sd sa sb) sd.toNat (if a.slt b then b else a)
     ∧ s.writesS h (w 0x1A) u (.minu h sd sa sb) sd.toNat (if b.ult a then b else a)
     ∧ s.writesS h (w 0x1B) u (.maxu h sd sa sb) sd.toNat (if a.ult b then b else a))
  ∧ (∀ (h : Head) (sd sa : BitVec 6) (imm : BitVec 32) (s : State),
       let a := (s.ctx h.tile h.ctx).rdS sa.toNat
       let d := (s.ctx h.tile h.ctx).rdS sd.toNat
       let w := fun op => wordCI op h sd sa imm
       let u := usesR sd sa 0
       s.writesS h (w 0x1C) u (.addi h sd sa imm) sd.toNat (a + imm.signExtend 64)
       ∧ s.writesS h (w 0x1D) u (.andi h sd sa imm) sd.toNat (a &&& imm.setWidth 64)
       ∧ s.writesS h (w 0x1E) u (.ori h sd sa imm) sd.toNat (a ||| imm.setWidth 64)
       ∧ s.writesS h (w 0x1F) u (.xori h sd sa imm) sd.toNat (a ^^^ imm.setWidth 64)
       ∧ s.writesS h (w 0x20) u (.shli h sd sa imm) sd.toNat (a <<< imm.toNat)
       ∧ s.writesS h (w 0x21) u (.shri h sd sa imm) sd.toNat (a >>> imm.toNat)
       ∧ s.writesS h (w 0x22) u (.srai h sd sa imm) sd.toNat (a.sshiftRight imm.toNat)
       ∧ s.writesS h (encC 8 h sd.toNat 0 0 imm.toNat) ⟨[], [sd.toNat]⟩ (.movi h sd imm) sd.toNat (imm.signExtend 64)
       ∧ s.writesS h (encC 9 h sd.toNat 0 0 imm.toNat) ⟨[sd.toNat], [sd.toNat]⟩ (.ldhi h sd imm) sd.toNat
           (imm ++ d.setWidth 32))

/-- R59, R67, R68: pset and pseti write the comparison to all 64 bits of the predicate; plog works on all 64 bits. -/
def Obligations.PredicateOps : Prop :=
  ∀ (h : Head) (pd : BitVec 3) (s : State),
    let x := s.ctx h.tile h.ctx
    (∀ (cond : BitVec 3) (sa sb : BitVec 6),
      let a := x.rdS sa.toNat
      let b := x.rdS sb.toNat
      let r := match cond.toNat with
        | 0 => decide (a = b)
        | 1 => decide (a ≠ b)
        | 2 => a.slt b
        | 3 => a.ult b
        | 4 => !a.slt b
        | 5 => !a.ult b
        | _ => false
      s.writesP h (encC 0x23 h 0 sa.toNat sb.toNat (pd.toNat * 2 ^ 29 + cond.toNat * 2 ^ 26))
        ⟨[sa.toNat, sb.toNat], [96 + pd.toNat]⟩ (.pset h pd cond sa sb) pd.toNat
        (if r then BitVec.allOnes 64 else 0))
    ∧ (∀ (cond : BitVec 3) (sa : BitVec 6) (imm : BitVec 29),
      let a := x.rdS sa.toNat
      let b := imm.signExtend 64
      let r := match cond.toNat with
        | 0 => decide (a = b)
        | 1 => decide (a ≠ b)
        | 2 => a.slt b
        | 3 => a.ult b
        | 4 => !a.slt b
        | 5 => !a.ult b
        | _ => false
      s.writesP h (encC 0x24 h (cond.toNat * 8) sa.toNat 0 (pd.toNat * 2 ^ 29 + imm.toNat))
        ⟨[sa.toNat], [96 + pd.toNat]⟩ (.pseti h pd cond sa imm) pd.toNat (if r then BitVec.allOnes 64 else 0))
    ∧ (∀ (pa pb : BitVec 3) (func : BitVec 2),
      let a := x.rdP pa.toNat
      let b := x.rdP pb.toNat
      s.writesP h (encC 0x25 h pd.toNat pa.toNat pb.toNat func.toNat)
        ⟨[96 + pa.toNat, 96 + pb.toNat], [96 + pd.toNat]⟩ (.plog h pd pa pb func) pd.toNat
        (match func.toNat with
          | 0 => a &&& b
          | 1 => a ||| b
          | 2 => a ^^^ b
          | _ => a &&& ~~~b))

/-- R56, R71, R75: br, brl, jr and jrl go to their target and end the active loops whose body does not hold it; brl and jrl
write the next word's address to SD; a target of jr or jrl that is not a multiple of 8 raises ALIGN. -/
def Obligations.BranchesAndJumps : Prop :=
  ∀ (h : Head) (sd sa : BitVec 6) (offset : BitVec 32) (s : State),
    let x := s.ctx h.tile h.ctx
    let next := x.pc + offset.signExtend 48 * 8
    let a := x.rdS sa.toNat
    let link := (x.pc + 8).setWidth 64
    (s.runs h (encC 2 h 0 0 0 offset.toNat) ⟨[], [0]⟩ →
      ∃ t, exec (.br h offset) s = .next t ∧ t.wentTo s h next ∧ t.keepsS s h ∧ t.keepsPV s h ∧ t.elsewhere s h)
    ∧ (s.runs h (encC 3 h sd.toNat 0 0 offset.toNat) ⟨[], [sd.toNat]⟩ →
      ∃ t, exec (.brl h sd offset) s = .next t ∧ t.wentTo s h next ∧ t.onlyS s h sd.toNat link ∧ t.keepsPV s h
        ∧ t.elsewhere s h)
    ∧ (s.runs h (encC 4 h 0 sa.toNat 0 0) ⟨[sa.toNat], [0]⟩ →
      (a.toNat % 8 = 0 → ∃ t, exec (.jr h sa) s = .next t ∧ t.wentTo s h (a.setWidth 48) ∧ t.keepsS s h
        ∧ t.keepsPV s h ∧ t.elsewhere s h)
      ∧ (a.toNat % 8 ≠ 0 → exec (.jr h sa) s = .next (s.issueFault h.tile h.ctx (cALIGN, a.toNat))))
    ∧ (s.runs h (encC 5 h sd.toNat sa.toNat 0 0) ⟨[sa.toNat], [sd.toNat]⟩ →
      (a.toNat % 8 = 0 → ∃ t, exec (.jrl h sd sa) s = .next t ∧ t.wentTo s h (a.setWidth 48)
        ∧ t.onlyS s h sd.toNat link ∧ t.keepsPV s h ∧ t.elsewhere s h)
      ∧ (a.toNat % 8 ≠ 0 → exec (.jrl h sd sa) s = .next (s.issueFault h.tile h.ctx (cALIGN, a.toNat))))

/-- R73 to R75: loop and loopi start a loop of COUNT passes over the BODY words that follow, or skip them at a count of 0; a count of
loop above 2^32 − 1 raises OPERAND, and a fifth active loop LOOP_DEPTH. After an instruction that does not change the flow the pc
advances by 8, but at the last word of a body the innermost such loop takes its next pass, and loops on their last pass there end from
the innermost outward. -/
def Obligations.HardwareLoops : Prop :=
  (∀ (h : Head) (sa : BitVec 6) (count : BitVec 20) (body : BitVec 12) (s : State),
     let x := s.ctx h.tile h.ctx
     let n := (x.rdS sa.toNat).toNat
     let started := fun (t : State) (k : Nat) =>
       t.keepsS s h ∧ t.keepsPV s h ∧ t.elsewhere s h
       ∧ (k = 0 → (t.ctx h.tile h.ctx).pc = x.pc + BitVec.ofNat 48 (8 * (body.toNat + 1))
           ∧ (t.ctx h.tile h.ctx).loops = x.loops)
       ∧ (k ≠ 0 → (t.ctx h.tile h.ctx).pc = x.pc + 8
           ∧ (t.ctx h.tile h.ctx).loops = ⟨x.pc + 8, x.pc + BitVec.ofNat 48 (8 * body.toNat), k⟩ :: x.loops)
     (s.runs h (encC 6 h 0 sa.toNat 0 body.toNat) ⟨[sa.toNat], []⟩ →
       (n < 2 ^ 32 → x.loops.length < 4 → ∃ t, exec (.loop h sa body) s = .next t ∧ started t n)
       ∧ (2 ^ 32 ≤ n → exec (.loop h sa body) s = .next (s.issueFault h.tile h.ctx (cOPERAND, unstated)))
       ∧ (n < 2 ^ 32 → 4 ≤ x.loops.length →
           exec (.loop h sa body) s = .next (s.issueFault h.tile h.ctx (cLOOP_DEPTH, unstated))))
     ∧ (s.runs h (encC 7 h 0 0 0 (count.toNat * 2 ^ 12 + body.toNat)) ⟨[], []⟩ →
       (x.loops.length < 4 → ∃ t, exec (.loopi h count body) s = .next t ∧ started t count.toNat)
       ∧ (4 ≤ x.loops.length →
           exec (.loopi h count body) s = .next (s.issueFault h.tile h.ctx (cLOOP_DEPTH, unstated)))))
  ∧ (∀ (pc : Addr48) (l : Loop) (ls : List Loop),
       backEdge pc [] = (pc + 8, [])
       ∧ (l.last ≠ pc → backEdge pc (l :: ls) = (pc + 8, l :: ls))
       ∧ (l.last = pc → 1 < l.left → backEdge pc (l :: ls) = (l.start, ⟨l.start, l.last, l.left - 1⟩ :: ls))
       ∧ (l.last = pc → l.left ≤ 1 → backEdge pc (l :: ls) = backEdge pc ls))

/-- R65, R72, R88, Table 3-7: nop only goes on; end stops issue and ends every loop; mfc reads and mtc writes the context
control registers; rdtime reads the clock of the tile; fret clears INH and goes on at FPC, and is ILLEGAL while INH is 0. -/
def Obligations.ControlRegisters : Prop :=
  ∀ (h : Head) (sd sa : BitVec 6) (num : BitVec 32) (s : State),
    let x := s.ctx h.tile h.ctx
    let a := x.rdS sa.toNat
    (∀ w : Word, wCls w.toNat = 1 → wOp w.toNat = 0 → h.pred = BitVec.ofNat 3 (bits w.toNat 53 51) → h.pneg = bit w.toNat 50 →
      s.runs h w.toNat ⟨[], []⟩ → ∃ t, exec (.nop h.tile h.ctx w) s = .next t ∧ t.keepsS s h ∧ t.keepsPV s h ∧ t.wentOn s h
        ∧ t.elsewhere s h)
    ∧ (s.runs h (encC 1 h 0 0 0 0) ⟨[], []⟩ → ∃ t, exec (.end_ h) s = .next t ∧ t.keepsS s h ∧ t.keepsPV s h
        ∧ t.elsewhere s h ∧ (t.ctx h.tile h.ctx).run = .stopping ∧ (t.ctx h.tile h.ctx).loops = [])
    ∧ s.writesS h (encC 0x0A h sd.toNat 0 0 num.toNat) ⟨[], [sd.toNat]⟩ (.mfc h sd num) sd.toNat
        (s.readCtl h.tile h.ctx num.toNat)
    ∧ s.readCtl h.tile h.ctx 0 = x.fvec.setWidth 64 ∧ s.readCtl h.tile h.ctx 1 = x.fmask.setWidth 64
    ∧ s.readCtl h.tile h.ctx 2 = x.fpc.setWidth 64 ∧ s.readCtl h.tile h.ctx 3 = x.fcause.setWidth 64
    ∧ s.readCtl h.tile h.ctx 4 = x.finfo ∧ s.readCtl h.tile h.ctx 5 = x.fresume.setWidth 64
    ∧ s.readCtl h.tile h.ctx 6 = (if x.inh then 1 else 0)
    ∧ s.readCtl h.tile h.ctx 7 = BitVec.ofNat 64 x.loops.length
    ∧ (∀ l ls, x.loops = l :: ls → s.readCtl h.tile h.ctx 8 = BitVec.ofNat 64 (l.left - 1))
    ∧ (h.ctx = .F → s.readCtl h.tile h.ctx 9 = BitVec.ofNat 64 h.tile)
    ∧ (h.ctx = .L → s.readCtl h.tile h.ctx 9 = BitVec.ofNat 64 (2 ^ 15 + h.tile))
    ∧ s.readCtl h.tile h.ctx 10 = BitVec.ofNat 64 (s.get F.STRAPS_SLOT_ID 0)
    ∧ (s.runs h (encC 0x0B h 0 sa.toNat 0 num.toNat) ⟨[sa.toNat], []⟩ → ∃ t, exec (.mtc h sa num) s = .next t
        ∧ t.keepsS s h ∧ t.wentOn s h ∧ t.elsewhere s h
        ∧ (t.ctx h.tile h.ctx).fvec = (if num.toNat = 0 then a.setWidth 48 else x.fvec)
        ∧ (t.ctx h.tile h.ctx).fmask = (if num.toNat = 1 then a.setWidth 16 else x.fmask)
        ∧ (t.ctx h.tile h.ctx).fpc = (if num.toNat = 2 then a.setWidth 48 else x.fpc))
    ∧ (s.runs h (encC 0x29 h sd.toNat 0 0 0) ⟨[], [sd.toNat]⟩ → ∃ t n, exec (.rdtime h sd) s = .next t
        ∧ t.onlyS s h sd.toNat n ∧ t.keepsPV s h ∧ t.wentOn s h ∧ (t.tile h.tile).cclk = n.toNat ∧ t.regs = s.regs
        ∧ t.mem = s.mem ∧ (∀ b, (t.tile h.tile).rdByte b = (s.tile h.tile).rdByte b))
    ∧ (s.runs h (encC 0x0C h 0 0 0 0) ⟨[], []⟩ →
      (x.inh = true → ∃ t, exec (.fret h) s = .next t ∧ t.keepsS s h ∧ t.elsewhere s h
        ∧ (t.ctx h.tile h.ctx).inh = false ∧ (t.ctx h.tile h.ctx).pc = x.fpc ∧ (t.ctx h.tile h.ctx).loops = x.loops)
      ∧ (x.inh = false → exec (.fret h) s = .next (s.issueFault h.tile h.ctx (cILLEGAL, 0))))

/-- R69, R26, R3: lds reads and sts writes 1 to 8 bytes of tile-local space at SA + IMM32, lowest byte first; a misaligned
address raises ALIGN and a byte in the reserved range LOCAL_RANGE. sts stores those bytes and no others, in the tile and in its
checker (R156); what an instruction of the array writes that has one of them among its operands becomes unspecified (R136). A
corrected error of the read is counted, an uncorrectable one delivers nothing (R394). -/
def Obligations.ScalarMemory : Prop :=
  ∀ (h : Head) (sd sa : BitVec 6) (size : BitVec 2) (imm : BitVec 32) (s : State),
    let x := s.ctx h.tile h.ctx
    let a := (x.rdS sa.toNat + imm.signExtend 64).toNat
    let n := 2 ^ size.toNat
    let wl := encC 0x26 h sd.toNat sa.toNat (size.toNat * 16) imm.toNat
    let ws := encC 0x27 h sd.toNat sa.toNat (size.toNat * 16) imm.toNat
    (a % n = 0 → a + n ≤ localEnd →
      s.writesS h wl ⟨[sa.toNat], [sd.toNat]⟩ (.lds h sd sa size imm .good) sd.toNat
        (BitVec.ofNat 64 (leValue ((List.range n).map fun i => (s.tile h.tile).rdByte (a + i)))))
    ∧ (a % n = 0 → a + n ≤ localEnd → s.runs h wl ⟨[sa.toNat], [sd.toNat]⟩ →
      (∃ t, exec (.lds h sd sa size imm .corrected) s = .next t ∧ t.keepsPV s h ∧ t.wentOn s h
        ∧ t.onlyS s h sd.toNat (BitVec.ofNat 64 (leValue ((List.range n).map fun i => (s.tile h.tile).rdByte (a + i))))
        ∧ t.counted s F.SRAMCNT_CORR 0 ∧ t.mem = s.mem ∧ t.counters = s.counters ∧ t.chans = s.chans
        ∧ (∀ u b, (t.tile u).rdByte b = (s.tile u).rdByte b) ∧ ∀ u k, (t.tile u).token k = (s.tile u).token k)
      ∧ exec (.lds h sd sa size imm .uncorrectable) s = .next ((s.pay h.tile 16).sramFail h.tile))
    ∧ (s.runs h ws ⟨[sd.toNat, sa.toNat], []⟩ → a % n = 0 → a + n ≤ localEnd →
      ∃ t, exec (.sts h sd sa size imm) s = .next t ∧ t.keepsS s h ∧ t.keepsPV s h ∧ t.wentOn s h
        ∧ { t with tiles := s.tiles, free := s.free } = s
        ∧ t.storesLocal s h.tile a n (fun i => some (BitVec.ofNat 8 ((x.rdS sd.toNat).toNat / 2 ^ (8 * i))))
        ∧ ∀ u, u ≠ h.tile → s.checkerOf h.tile ≠ some u → t.tile u = s.tile u)
    ∧ (∀ sram, s.runs h wl ⟨[sa.toNat], [sd.toNat]⟩ → a % n ≠ 0 →
        exec (.lds h sd sa size imm sram) s = .next (s.issueFault h.tile h.ctx (cALIGN, a)))
    ∧ (s.runs h ws ⟨[sd.toNat, sa.toNat], []⟩ → a % n ≠ 0 →
        exec (.sts h sd sa size imm) s = .next (s.issueFault h.tile h.ctx (cALIGN, a)))
    ∧ (∀ sram, s.runs h wl ⟨[sa.toNat], [sd.toNat]⟩ → a % n = 0 → localEnd ≤ a →
        exec (.lds h sd sa size imm sram) s = .next (s.issueFault h.tile h.ctx (cLOCAL_RANGE, a)))

/-- R84 to R87: trap raises SOFT_TRAP. A fault is delivered when FVEC is not 0, its FMASK bit is 1 and INH is 0: FPC, FCAUSE,
FINFO and FRESUME are written, INH is set, the loops are kept and issue goes on at FVEC; else it ends the program. -/
def Obligations.TakingAFault : Prop :=
  ∀ (h : Head) (s : State) (cause info : Nat),
    let x := s.ctx h.tile h.ctx
    let delivered := x.fvec ≠ 0 ∧ bit x.fmask.toNat (cause % 256) = true ∧ x.inh = false
    let t := s.issueFault h.tile h.ctx (cause, info)
    let y := t.ctx h.tile h.ctx
    (s.runs h (encC 0x28 h 0 0 0 0) ⟨[], []⟩ →
      exec (.trap h) s = .next (s.issueFault h.tile h.ctx (cSOFT_TRAP, unstated)))
    ∧ (∀ j, y.rdS j = x.rdS j) ∧ (∀ j, y.rdP j = x.rdP j) ∧ (∀ r k, y.rdLane r k = x.rdLane r k)
    ∧ t.regs = s.regs ∧ t.mem = s.mem ∧ t.counters = s.counters ∧ t.events = s.events
    ∧ (∀ b, (t.tile h.tile).rdByte b = (s.tile h.tile).rdByte b) ∧ (∀ k, (t.tile h.tile).token k = (s.tile h.tile).token k)
    ∧ (delivered → y.pc = x.fvec ∧ y.fpc = x.pc ∧ y.fcause = BitVec.ofNat 16 (cause % 256) ∧ y.fresume = x.pc
        ∧ y.inh = true ∧ y.run = .running ∧ y.loops = x.loops ∧ (info < 2 ^ 64 → y.finfo = BitVec.ofNat 64 info))
    ∧ (¬ delivered → y.run = .stopping ∧ y.pc = x.pc ∧ ∃ f, y.endFault = some f ∧ f.pc = x.pc
        ∧ f.cause = BitVec.ofNat 8 cause ∧ f.unit = false ∧ f.inh = x.inh)

/-- R22, R23, R72, R87: the control core switches to L when F yields (it stalls on a counter, token, fence or drain, or has no
program) or cannot afford its next operation while L can, and L can issue; and back once none of this holds. A stopped context whose
instructions are all done has ended: a fault that ended it is logged, and its launch counts it. -/
def Obligations.ContextEvents : Prop :=
  ∀ (tile fcost lcost : Nat) (c : Ctxt) (s : State), tile < Config.tiles →
    let x := s.tile tile
    let switched := fun (t : State) (to' : Ctxt) => (t.tile tile).cur = to'
      ∧ t.ctx tile .F = s.ctx tile .F ∧ t.ctx tile .L = s.ctx tile .L ∧ { t with tiles := s.tiles } = s
      ∧ ∀ u, u ≠ tile → t.tile u = s.tile u
    let poor := x.ctxF.run = .running ∧ s.affordable tile fcost = false ∧ s.affordable tile lcost = true
    (∀ n pd timed woken, x.cur = .F → x.ctxF.run = .running → x.ctxF.stall = .wait n pd timed woken → x.ctxL.run = .running →
      x.ctxL.stall = .none → x.ctxL.held = none →
      ∃ t, exec (.contextSwitchToL tile fcost lcost) s = .next t ∧ switched t .L)
    ∧ (x.cur = .F → s.lReady tile = true → x.yields x.ctxF = true ∨ poor ∧ x.ctxF.stall = .none →
      ∃ t, exec (.contextSwitchToL tile fcost lcost) s = .next t ∧ switched t .L)
    ∧ (x.cur = .L → x.yields x.ctxF = false → ¬ poor →
      ∃ t, exec (.contextSwitchToF tile fcost lcost) s = .next t ∧ switched t .F)
    ∧ (x.yields x.ctxF = true ↔ x.ctxF.run = .idle ∨ x.ctxF.run = .ended ∨ (x.ctxF.run = .stopping ∧ x.ctxF.endFault ≠ none)
        ∨ (x.ctxF.run = .running ∧ match x.ctxF.stall with
            | .wait .. | .drain .. => True
            | .twait k => x.token k.toNat = 0
            | .fence scope => scope ≠ 0
            | _ => False))
    ∧ ((s.ctx tile c).run = .stopping → s.quiet tile c = true → (s.ctx tile c).held = none →
      ∃ t, exec (.contextEnded tile c) s = .next t ∧ (t.ctx tile c).run = .ended
        ∧ (∀ j, (t.ctx tile c).rdS j = (s.ctx tile c).rdS j) ∧ t.mem = s.mem ∧ t.counters = s.counters
        ∧ ((s.ctx tile c).endFault = none → t.events = s.events ∧ t.regs = s.regs)
        ∧ ((s.ctx tile c).endFault ≠ none → s.hearthReady = true → t.logged .contextFault tile ∧ t.regs = s.regs)
        ∧ ∀ id k, (s.ctx tile c).launch = some id → s.hostCmd id = some k → ∃ k', t.hostCmd id = some k'
            ∧ k'.left = k.left - 1 ∧ k'.nfault = k.nfault + (if (s.ctx tile c).endFault = none then 0 else 1)
            ∧ (bit k.entry 11 = true → ∃ a ∈ t.arrivals, a.cnum = bits k.entry 47 32 ∧ a.inc = 1
                ∧ a.epoch = bits k.entry 27 24))

/-! ## The vector unit, special functions and the codebook (chapter 6) -/

/-- R158 to R161, Table 6-1: the arithmetic of two and three vectors works element by element on the elements that take part,
and leaves every other element, register, predicate and byte as it was. On INT32 it is that of the integers modulo 2^32, minimum and
maximum are signed; a NaN operand of a floating-point sum, product or fused product gives the canonical NaN. -/
def Obligations.VectorArithmetic : Prop :=
  (∀ (h : Head) (f : VF) (s : State),
      let x := s.ctx h.tile h.ctx
      let ty := f.ty.toNat
      let d := f.vd.toNat
      let a := x.rdElem ty f.va.toNat
      let b := x.rdElem ty f.vb.toNat
      let c := x.rdElem ty f.vc.toNat
      s.writesV h .vector (encV 0x00 h f) (.vadd h f) ty d (fun k => vecAdd ty (a k) (b k))
      ∧ s.writesV h .vector (encV 0x01 h f) (.vsub h f) ty d (fun k => vecSub ty (a k) (b k))
      ∧ s.writesV h .vector (encV 0x02 h f) (.vmul h f) ty d (fun k => vecMul ty (a k) (b k))
      ∧ s.writesV h .vector (encV 0x03 h f) (.vfma h f) ty d (fun k => vecFma ty (a k) (b k) (c k))
      ∧ s.writesV h .vector (encV 0x04 h f) (.vmin h f) ty d (fun k => vecMin ty (a k) (b k))
      ∧ s.writesV h .vector (encV 0x05 h f) (.vmax h f) ty d (fun k => vecMax ty (a k) (b k))
      ∧ s.writesV h .vector (encV 0x06 h f) (.vabs h f) ty d (fun k => vecAbs ty (a k))
      ∧ s.writesV h .vector (encV 0x07 h f) (.vneg h f) ty d (fun k => vecNeg ty (a k)))
  ∧ ∀ (a b c : Nat), a < 2 ^ 32 → b < 2 ^ 32 → c < 2 ^ 32 →
    vecAdd 15 a b = (a + b) % 2 ^ 32 ∧ vecSub 15 a b = (a + (2 ^ 32 - b)) % 2 ^ 32 ∧ vecMul 15 a b = a * b % 2 ^ 32
    ∧ vecFma 15 a b c = (a * b + c) % 2 ^ 32
    ∧ vecMin 15 a b = (if sext 32 b < sext 32 a then b else a) ∧ vecMax 15 a b = (if sext 32 a < sext 32 b then b else a)
    ∧ vecNeg 15 a = (2 ^ 32 - a) % 2 ^ 32 ∧ vecAbs 15 a = (if a < 2 ^ 31 then a else 2 ^ 32 - a)
    ∧ ((fp32.decode a).isNan = true ∨ (fp32.decode b).isNan = true →
        vecAdd 2 a b = 0x7FC00000 ∧ vecSub 2 a b = 0x7FC00000 ∧ vecMul 2 a b = 0x7FC00000
        ∧ vecFma 2 a b c = 0x7FC00000 ∧ vecFma 2 c a b = 0x7FC00000)

/-- R158, R159, R163 to R166, Table 6-1: the bitwise operations and shifts, vsel, vbcast, vmovi and vperm write the elements that
take part; vcmp writes the predicate bits of those elements, both bits of an FP64 element, and vext one element to a scalar register,
sign-extended for INT32. -/
def Obligations.VectorMoves : Prop :=
  ∀ (h : Head) (f : VF) (s : State),
    let x := s.ctx h.tile h.ctx
    let ty := f.ty.toNat
    let d := f.vd.toNat
    let a := x.rdElem ty f.va.toNat
    let b := x.rdElem ty f.vb.toNat
    let mask := laneMask (x.rdP h.pred.toNat) h.pneg
    let n := if ty = 1 then 32 else 64
    let e := f.imm9.toNat % n
    s.writesV h .vector (encV 0x0B h f) (.vand h f) ty d (fun k => a k &&& b k)
    ∧ s.writesV h .vector (encV 0x0C h f) (.vor h f) ty d (fun k => a k ||| b k)
    ∧ s.writesV h .vector (encV 0x0D h f) (.vxor h f) ty d (fun k => a k ^^^ b k)
    ∧ s.writesV h .vector (encV 0x0E h f) (.vshl h f) ty d (fun k => a k * 2 ^ (b k % 32))
    ∧ s.writesV h .vector (encV 0x0F h f) (.vshr h f) ty d (fun k =>
        if f.imm9.toNat % 2 = 1 then wrapInt 32 (sext 32 (a k) / 2 ^ (b k % 32)) else a k / 2 ^ (b k % 32))
    ∧ s.writesV h .vector (encV 0x0A h f) (.vsel h f) ty d (fun k =>
        if takesPart ty (x.rdP (f.vc.toNat % 8)) k then a k else b k)
    ∧ s.writesV h .vector (encV 0x12 h f) (.vbcast h f) ty d (fun _ => (x.rdS f.sa.toNat).toNat)
    ∧ s.writesV h .vector (encV 0x18 h f) (.vmovi h f) ty d (fun _ =>
        if ty = 15 then wrapInt 32 (sext 9 f.imm9.toNat) else (arithFmt ty).encode .rne (FVal.ofInt false (sext 9 f.imm9.toNat) 0))
    ∧ s.writesV h .vector (encV 0x17 h f) (.vperm h f) ty d (fun k =>
        a ((x.rdLane f.vb.toNat (if ty = 1 then 2 * k else k)).toNat % n))
    ∧ (s.startsAtIssue h .vector (encV 0x13 h f) → ∃ t, exec (.vext h f) s = .next t
        ∧ t.onlyS s h f.sa.toNat (BitVec.ofNat 64 (if ty = 15 then wrapInt 64 (sext 32 (a e)) else a e))
        ∧ t.keepsPV s h ∧ t.wentOn s h ∧ t.unitElsewhere s h (encV 0x13 h f))
    ∧ (s.startsAtIssue h .vector (encV 0x09 h f) → ∃ t, exec (.vcmp h f) s = .next t ∧ t.keepsS s h
        ∧ (∀ r k, (t.ctx h.tile h.ctx).rdLane r k = x.rdLane r k) ∧ t.wentOn s h ∧ t.unitElsewhere s h (encV 0x09 h f)
        ∧ (∀ j, j ≠ d % 8 → (t.ctx h.tile h.ctx).rdP j = x.rdP j)
        ∧ (d % 8 ≠ 0 → ∀ i, i < 64 → bit ((t.ctx h.tile h.ctx).rdP (d % 8)).toNat i
            = (let k := if ty = 1 then i / 2 else i
               if takesPart ty mask k then vecCond (f.imm9.toNat % 8) (arithVal ty (a k)) (arithVal ty (b k))
               else bit (x.rdP (d % 8)).toNat i)))

/-- R171: a reduction combines the elements in a fixed tree, first half with second half at each level; an element that does not take
part enters as the identity (−0, −infinity and +infinity; 0 and the extremes for INT32), and every element that takes part
receives the result. -/
def Obligations.VectorReductions : Prop :=
  ∀ (h : Head) (f : VF) (s : State),
    let x := s.ctx h.tile h.ctx
    let ty := f.ty.toNat
    let mask := laneMask (x.rdP h.pred.toNat) h.pneg
    let from' := fun (z : Nat) => (List.range (elemsOf ty)).map fun k => if takesPart ty mask k then x.rdElem ty f.va.toNat k else z
    let lv := if ty = 1 then 5 else 6
    let sign := if ty = 1 then 2 ^ 63 else 2 ^ 31
    let inf := if ty = 1 then 0x7FF0000000000000 else 0x7F800000
    s.writesV h .vector (encV 0x14 h f) (.vrsum h f) ty f.vd.toNat
        (fun _ => tree (vecAdd ty) lv (from' (if ty = 15 then 0 else sign)))
    ∧ s.writesV h .vector (encV 0x15 h f) (.vrmax h f) ty f.vd.toNat
        (fun _ => tree (vecMax ty) lv (from' (if ty = 15 then 2 ^ 31 else sign + inf)))
    ∧ s.writesV h .vector (encV 0x16 h f) (.vrmin h f) ty f.vd.toNat
        (fun _ => tree (vecMin ty) lv (from' (if ty = 15 then 2 ^ 31 - 1 else inf)))
    ∧ (∀ (g : Nat → Nat → Nat) (n : Nat) (vs : List Nat), tree g (n + 1) vs
        = tree g n ((List.range (2 ^ n)).map fun k => g (vs.getD k 0) (vs.getD (k + 2 ^ n) 0)))
    ∧ ∀ (g : Nat → Nat → Nat) (vs : List Nat), tree g 0 vs = vs.getD 0 0

/-- R162: vld reads and vst writes the elements that take part at s(SA) + 256 × IMM9, lowest byte first; a register with bits [63:21]
set raises OPERAND, a misaligned address ALIGN, a byte in the reserved range LOCAL_RANGE. vst stores those bytes and no others, in the
tile and in its checker (R156); what an instruction of the array writes that has one of them among its operands becomes unspecified
(R136). A corrected error of vld's read is counted, an uncorrectable one delivers nothing (R394). -/
def Obligations.VectorMemory : Prop :=
  ∀ (h : Head) (f : VF) (s : State),
    let x := s.ctx h.tile h.ctx
    let ty := f.ty.toNat
    let n : Nat := if ty = 1 then 8 else 4
    let va := vecAddr (x.rdS f.sa.toNat) f.imm9.toNat
    let a := va.toNat
    let mask := laneMask (x.rdP h.pred.toNat) h.pneg
    let inRange := (x.rdS f.sa.toNat).toNat < 2 ^ 21 ∧ 0 ≤ va ∧ va % (n : Int) = 0 ∧ va + 256 ≤ (localEnd : Int)
    (inRange → s.writesV h .vector (encV 0x10 h f) (.vld h f .good) ty f.vd.toNat (fun k => (s.tile h.tile).rdNat (a + n * k) n))
    ∧ (inRange → s.startsAtIssue h .vector (encV 0x10 h f) →
      (∃ t, exec (.vld h f .corrected) s = .next t ∧ t.keepsS s h ∧ t.wentOn s h
        ∧ t.onlyV s h ty f.vd.toNat (fun k => (s.tile h.tile).rdNat (a + n * k) n)
        ∧ t.counted s F.SRAMCNT_CORR 0 ∧ t.mem = s.mem ∧ t.counters = s.counters ∧ t.chans = s.chans
        ∧ ∀ u b, (t.tile u).rdByte b = (s.tile u).rdByte b)
      ∧ exec (.vld h f .uncorrectable) s = .next (State.sramFail ((s.enqueue h.tile
          (capture s h .vector (encV 0x10 h f) f.sa.toNat (f.sa.toNat + 1) 0)).advance h.tile h.ctx) h.tile))
    ∧ (inRange → s.startsAtIssue h .vector (encV 0x11 h f) →
      ∃ t, exec (.vst h f) s = .next t ∧ t.keepsS s h ∧ t.keepsPV s h ∧ t.wentOn s h
        ∧ { t with tiles := s.tiles, free := s.free } = s
        ∧ t.storesLocal s h.tile a 256 (fun i =>
            if takesPart ty mask (i / n) then some (BitVec.ofNat 8 (x.rdElem ty f.va.toNat (i / n) / 2 ^ (8 * (i % n)))) else none)
        ∧ ∀ u, u ≠ h.tile → s.checkerOf h.tile ≠ some u → t.tile u = s.tile u)
    ∧ (∀ w i sram, w = encV 0x10 h f ∧ i = .vld h f sram ∨ w = encV 0x11 h f ∧ i = .vst h f →
      s.goes h w (usesUnit w) true = true →
      (2 ^ 21 ≤ (x.rdS f.sa.toNat).toNat → exec i s = .next (s.issueFault h.tile h.ctx (cOPERAND, unstated)))
      ∧ ((x.rdS f.sa.toNat).toNat < 2 ^ 21 → va % (n : Int) ≠ 0 →
          exec i s = .next (s.issueFault h.tile h.ctx (cALIGN, wrapInt 64 va)))
      ∧ ((x.rdS f.sa.toNat).toNat < 2 ^ 21 → va % (n : Int) = 0 → va < 0 →
          exec i s = .next (s.issueFault h.tile h.ctx (cLOCAL_RANGE, wrapInt 64 va)))
      ∧ ((x.rdS f.sa.toNat).toNat < 2 ^ 21 → va % (n : Int) = 0 → 0 ≤ va → (localEnd : Int) < va + 256 →
          exec i s = .next (s.issueFault h.tile h.ctx (cLOCAL_RANGE, max localEnd a))))

/-- R167 to R170: vcvt gives each destination element that takes part the source element's value, rounded once under the job's
numerics, and leaves the others; between FP64 and a type of 64 elements the half that IMM9[5] names takes part. A type narrower than 32
bits lies packed from byte 0. To the sliced operand, slice s = IMM9[8:6] of each vector of 16 elements goes to its 16 bytes, the sign word
and the exponent behind. Under stochastic rounding SA = 63 raises OPERAND. -/
def Obligations.VectorConversion : Prop :=
  ∀ (h : Head) (f : VF) (s : State),
    let x := s.ctx h.tile h.ctx
    let w := encV 0x08 h f
    let num := NumCfg.ofReg (s.reg .NUMCFG 0)
    let ty := f.ty.toNat
    let dst := f.imm9.toNat % 32
    let wd := fmtWidth dst
    let mask := laneMask (x.rdP h.pred.toNat) h.pneg
    let half := if bit f.imm9.toNat 5 then 32 else 0
    let src := fun (k : Nat) => if ty = 1 then k - half else if dst = 1 then half + k else k
    let part := fun (k : Nat) => takesPart dst mask k = true ∧ (ty = 1 → half ≤ k ∧ k < half + 32)
    let val := fun (k : Nat) => elemEnc num.sat dst
      (num.rnd ((x.rdS f.sa.toNat).toNat + k) ((x.rdS (f.sa.toNat + 1)).toNat % 2 ^ 32)) (x.cvtSource ty f.va.toNat (src k)) % 2 ^ wd
    let rest := fun (t : State) => t.keepsS s h ∧ (∀ j, (t.ctx h.tile h.ctx).rdP j = x.rdP j) ∧ t.wentOn s h
      ∧ t.unitElsewhere s h w ∧ ∀ r k, r ≠ f.vd.toNat → k < 64 → (t.ctx h.tile h.ctx).rdLane r k = x.rdLane r k
    (dst = 1 ∨ dst = 2 ∨ dst = 15 → ty ≠ 1 → dst ≠ 1 → (num.sr = true → f.sa ≠ 63) →
      s.writesV h .vector w (.vcvt h f) dst f.vd.toNat (fun k =>
        elemEnc num.sat dst (num.rnd ((x.rdS f.sa.toNat).toNat + k) ((x.rdS (f.sa.toNat + 1)).toNat % 2 ^ 32))
          (x.cvtSource ty f.va.toNat k)))
    ∧ (s.startsAtIssue h .vector w → dst ≠ 0x15 → (num.sr = true → f.sa ≠ 63) →
      ∃ t, exec (.vcvt h f) s = .next t ∧ rest t
        ∧ (32 ≤ wd → ∀ k, k < elemsOf dst → (t.ctx h.tile h.ctx).rdElem dst f.vd.toNat k
            = if part k then val k else x.rdElem dst f.vd.toNat k)
        ∧ (wd < 32 → (∀ k, k < 64 → packedElem wd ((t.ctx h.tile h.ctx).rdVec f.vd.toNat) k
            = if part k then val k else packedElem wd (x.rdVec f.vd.toNat) k)
          ∧ (t.ctx h.tile h.ctx).rdVec f.vd.toNat / 2 ^ (64 * wd) = x.rdVec f.vd.toNat / 2 ^ (64 * wd)))
    ∧ (s.startsAtIssue h .vector w → dst = 0x15 →
      ∃ t, exec (.vcvt h f) s = .next t ∧ rest t ∧
        let y := (t.ctx h.tile h.ctx).rdVec f.vd.toNat
        let m := elemsOf ty
        let sliced := fun (v : Nat) => sliceVec (if ty = 1 then 7 else 3)
          (if f.sa.toNat = 0 then none else some ((x.rdS f.sa.toNat).toNat % 2 ^ 16))
          ((List.range 16).map fun k => x.cvtSource ty f.va.toNat (16 * v + k))
        (∀ v, v < m / 16 → (∀ k, k < 16 → packedElem 8 y (16 * v + k)
              = ((sliced v).2.2.getD (bits f.imm9.toNat 8 6 - 1) []).getD k 0 % 256)
            ∧ packedElem 16 y (32 + v) = (sliced v).2.1 % 2 ^ 16 ∧ packedElem 16 y (36 + v) = (sliced v).1 % 2 ^ 16)
        ∧ ∀ i, i < 256 → (m ≤ i ∧ i < 64) ∨ (64 + m / 8 ≤ i ∧ i < 72) ∨ 72 + m / 8 ≤ i →
            packedElem 8 y i = packedElem 8 (x.rdVec f.vd.toNat) i)
    ∧ (s.goes h w (usesUnit w) true = true → num.sr = true → f.sa = 63 → dst ≠ 0x15 →
      exec (.vcvt h f) s = .next (s.issueFault h.tile h.ctx (cOPERAND, unstated)))

/-- R173 to R178, Table 6-4: the special functions work element by element in FP32; NaN gives the canonical NaN, and the special
operands give the table's results. -/
def Obligations.SpecialFunctions : Prop :=
  ∀ (h : Head) (f : FF) (s : State),
    let a := (s.ctx h.tile h.ctx).rdElem 2 f.va.toNat
    let lvl2 := (NumCfg.ofReg (s.reg .NUMCFG 0)).lvl2
    s.writesV h .sfu (encF 0 h f) (.fexp h f) 2 f.vd.toNat (fun k => sfuExp (f.var.toNat % 2 = 1) lvl2 (a k))
    ∧ s.writesV h .sfu (encF 1 h f) (.flog h f) 2 f.vd.toNat (fun k => sfuLog (f.var.toNat % 2 = 1) lvl2 (a k))
    ∧ s.writesV h .sfu (encF 2 h f) (.frcp h f) 2 f.vd.toNat (fun k => sfuRcp lvl2 (a k))
    ∧ s.writesV h .sfu (encF 3 h f) (.frsq h f) 2 f.vd.toNat (fun k => sfuRsq lvl2 (a k))
    ∧ (∀ v base2 lv, (fp32.decode v).isNan = true →
        sfuExp base2 lv v = nan32 ∧ sfuLog base2 lv v = nan32 ∧ sfuRcp lv v = nan32 ∧ sfuRsq lv v = nan32)
    ∧ (∀ base2 lv, sfuExp base2 lv 0 = 0x3F800000 ∧ sfuExp base2 lv 0x7F800000 = 0x7F800000
        ∧ sfuExp base2 lv 0xFF800000 = 0 ∧ sfuLog base2 lv 0 = 0xFF800000 ∧ sfuLog base2 lv 0x3F800000 = 0
        ∧ sfuLog base2 lv 0x7F800000 = 0x7F800000 ∧ sfuLog base2 lv 0xBF800000 = nan32
        ∧ sfuRcp lv 0 = 0x7F800000 ∧ sfuRcp lv 0x80000000 = 0xFF800000 ∧ sfuRcp lv 0xFF800000 = 0x80000000
        ∧ sfuRsq lv 0 = 0x7F800000 ∧ sfuRsq lv 0x7F800000 = 0 ∧ sfuRsq lv 0xBF800000 = nan32)

/-- R179 to R183: cbload writes the lanes that take part into a quarter of the shadow bank, a NaN in canonical form; cbswap exchanges the
banks once no earlier F instruction is left, and completes at once; cblook gives each lane the active bank's entry that its 8-bit
or 4-bit index names. -/
def Obligations.Codebook : Prop :=
  ∀ (h : Head) (f : FF) (s : State),
    let x := s.ctx h.tile h.ctx
    let y := s.tile h.tile
    let mask := laneMask (x.rdP h.pred.toNat) h.pneg
    let rest := fun (t : State) => t.keepsS s h ∧ t.keepsPV s h ∧ t.wentOn s h ∧ { t with tiles := s.tiles } = s
      ∧ (∀ u, u ≠ h.tile → t.tile u = s.tile u) ∧ (∀ b, (t.tile h.tile).rdByte b = y.rdByte b)
    (s.startsAtIssue h .sfu (encF 8 h f) → ∃ t, exec (.cbload h f) s = .next t ∧ rest t ∧ (t.tile h.tile).bank = y.bank
        ∧ ∀ b i, b < 2 → i < 256 → (t.tile h.tile).entry b i
          = (if b = 1 - y.bank ∧ i / 64 = f.var.toNat % 4 ∧ takesPart 2 mask (i % 64) = true then
              BitVec.ofNat 32 (let v := x.rdElem 2 f.va.toNat (i % 64)
                               if (fp32.decode v).isNan then 0x7FC00000 else v)
             else y.entry b i))
    ∧ (s.startsAtIssue h .sfu (encF 9 h f) → (∀ o ∈ y.ops, o.unit ≠ .sfu) → (y.takeToken (encF 9 h f)).overflows (encF 9 h f) = false →
        ∃ t, exec (.cbswap h f) s = .next t ∧ t.keepsS s h ∧ t.keepsPV s h ∧ t.wentOn s h ∧ (t.tile h.tile).bank = 1 - y.bank
          ∧ (∀ b i, (t.tile h.tile).entry b i = y.entry b i) ∧ (t.tile h.tile).ops = y.ops.filter (fun o => o.seq ≠ y.seq)
          ∧ t.regs = s.regs ∧ t.mem = s.mem ∧ t.counters = s.counters
          ∧ ((s.ctx h.tile h.ctx).arrives = [] → rest t))
    ∧ s.writesV h .sfu (encF 10 h f) (.cblook h f) 2 f.vd.toNat (fun k =>
        (y.entry y.bank (if f.var.toNat % 2 = 1 then 16 * bits f.var.toNat 7 4
            + packedElem 4 (x.rdVec f.va.toNat) (64 * bits f.var.toNat 3 1 + k)
          else packedElem 8 (x.rdVec f.va.toNat) (64 * bits f.var.toNat 3 1 + k))).toNat)

/-! ## The matrix array and units (chapters 2 to 5) -/

/-- Table 4-5, R96, R105 to R107, R110, R124, R128, R132: the accumulator element. Its 256 bits hold it; a product on or above its anchor is
added exactly, and OVF is set when the sum leaves the 128-bit window; a NaN or infinite product only sets its flag. An INT8 product in
weight-stationary flow of a FAST job adds sixteen products of signed bytes to the old element, or to 0 under VAR[0], modulo 2^32. -/
def Obligations.MatrixArithmetic : Prop :=
  (∀ (k : Kx),
     (-(2 : Int) ^ 143 ≤ k.t → k.t < 2 ^ 143 → -2048 ≤ k.anchor → k.anchor < 2048 → Kx.ofBits k.toBits = k)
     ∧ (∀ (neg : Bool) (m : Nat) (d : Nat), m * 2 ^ d < 2 ^ 127 → k.t.natAbs + m * 2 ^ d < 2 ^ 143 →
         let t := k.t + (if neg then -((m * 2 ^ d : Nat) : Int) else ((m * 2 ^ d : Nat) : Int))
         k.add (.fin neg m (k.anchor + d)) = { k with t := t, ovf := k.ovf || decide (t < -(2 : Int) ^ 127 ∨ 2 ^ 127 ≤ t) })
     ∧ k.add .nan = { k with nan := true } ∧ k.add (.inf false) = { k with pinf := true }
     ∧ k.add (.inf true) = { k with ninf := true }
     ∧ (k.nan = true ∨ k.pinf = true ∧ k.ninf = true ∨ k.ovf = true ∧ k.pinf = false ∧ k.ninf = false → k.value = .nan))
  ∧ (∀ (x : MArgs) (m : MData) (i j old : Nat), x.op = 0 → x.fmt = 13 → x.flow = 0 → x.num.fast = true →
       let byte := fun (v n : Nat) => sext 8 (v / 2 ^ (8 * n))
       x.update m i j old (x.products m i j) (x.products m i j)
         = wrapInt 32 ((if x.var % 2 = 1 then 0 else sext 32 old)
             + ((List.range 16).map fun k => byte m.a (64 * k + i) * byte m.b (16 * j + k)).sum))

/-- R126, R127, R135, R141 to R143: mmul, mslice, mread, manchor and mclear are checked at issue; one that passes stands last in the
array's queue with the registers it captured, manchor in bucket mode with the agreed exponents of its blocks (R326), and the context
goes on. The checks of mclear come in their order: the address register
below 2^21 (OPERAND), its alignment to the element (ALIGN with the address), and the range inside accumulator store (LOCAL_RANGE with the
first byte outside). -/
def Obligations.MatrixIssue : Prop :=
  (∀ (h : Head) (f : MF) (s : State),
     let issues := fun (op : Nat) (i : Instr) (check : MArgs → Option FaultAt) (exps : MArgs → List Nat) =>
       let w := encM op h f
       let x := s.ctx h.tile h.ctx
       let o := capture s h .matrix w f.sa.toNat f.sb.toNat f.sc.toNat
       s.goes h w (usesM f) false = true →
         (check (MArgs.of s o) = none → s.affordable h.tile (costKey w) = true →
           ∃ t, exec i s = .next t ∧ t.keepsS s h ∧ t.keepsPV s h ∧ t.wentOn s h ∧ { t with tiles := s.tiles } = s
             ∧ (∀ u, u ≠ h.tile → t.tile u = s.tile u)
             ∧ (t.tile h.tile).ops = (s.tile h.tile).ops ++ [{ o with seq := (s.tile h.tile).seq, exps := exps (MArgs.of s o) }]
             ∧ o.va = x.rdS f.sa.toNat ∧ o.vb = x.rdS f.sb.toNat ∧ o.vc = x.rdS f.sc.toNat ∧ o.started = false
             ∧ (∀ b, (t.tile h.tile).rdByte b = (s.tile h.tile).rdByte b)
             ∧ (∀ k, (t.tile h.tile).token k = (s.tile h.tile).token k))
         ∧ (∀ e, check (MArgs.of s o) = some e → exec i s = .next (s.issueFault h.tile h.ctx e))
     let no := fun (_ : MArgs) => ([] : List Nat)
     issues 0 (.mmul h f) MArgs.checkMul no ∧ issues 1 (.mslice h f) MArgs.checkMul no ∧ issues 2 (.mread h f) MArgs.checkRead no
     ∧ issues 3 (.manchor h f) s.checkManchor s.anchorExps ∧ issues 4 (.mclear h f) MArgs.checkClear no)
  ∧ (∀ (x : MArgs), x.op = 4 → 0 < x.rows →
       (2 ^ 21 ≤ x.c → x.checkClear = some (cOPERAND, unstated))
       ∧ (x.c < 2 ^ 21 → x.c % clearWidth x.fmt ≠ 0 → x.checkClear = some (cALIGN, x.c))
       ∧ (x.c < 2 ^ 21 → x.c % clearWidth x.fmt = 0 → x.c < tileStoreEnd → x.checkClear = some (cLOCAL_RANGE, x.c))
       ∧ (x.c < 2 ^ 21 → x.c % clearWidth x.fmt = 0 → localEnd ≤ x.c → x.checkClear = some (cLOCAL_RANGE, x.c))
       ∧ (x.c % clearWidth x.fmt = 0 → tileStoreEnd ≤ x.c → x.c < localEnd → localEnd < x.c + clearWidth x.fmt * 64 * x.rows →
           x.checkClear = some (cLOCAL_RANGE, localEnd))
       ∧ (x.c % clearWidth x.fmt = 0 → tileStoreEnd ≤ x.c → x.c + clearWidth x.fmt * 64 * x.rows ≤ localEnd →
           x.checkClear = none))

/-- R39, R123, R128, R133, R135, R141 to R143, R145, R150, R372: a matrix instruction that may start has its whole effect. mmul and
mslice give every element of their destination its update by its products, at every crust level when no cell errs, mread stores the
converted elements and clears them under VAR[2], manchor moves each element to its anchor, mclear stores zeros; with ROWS = 0 nothing is
stored. Every other byte of tile-local space is unchanged, and no register but those that count its rows' pauses, its check and a
corrected error of its reads. -/
def Obligations.MatrixStart : Prop :=
  ∀ (tile seq : Nat) (ev : UnitEvent) (o : UOp) (s : State),
    let x := MArgs.of s o
    let y := s.tile tile
    let m := MData.read y x
    let counts := [Reg.PAUSECNT, .CRUSTCHK, .SRAMCNT, .HEALTHFLAG, .LOGLOST]
    let runs := fun (t : State) => exec (.unitInstructionStart tile seq ev) s = .next t ∧ t.mem = s.mem ∧ t.counters = s.counters
      ∧ (∀ r i, i < 2 ^ 24 → r ∉ counts → t.reg r i = s.reg r i)
      ∧ (∃ z, (t.tile tile).op seq = some z ∧ z.started = true ∧ z.word = o.word)
      ∧ ∀ u, u ≠ tile → s.checkerOf tile ≠ some u → t.tile u = s.tile u
    tile < Config.tiles → y.op seq = some o → o.unit = .matrix → y.startable o = true → s.draining = false → s.active = true →
    s.tileFenced tile = false → s.matrixFenced tile = false → ev.sram ≠ .uncorrectable →
    (x.rows = 0 → ∃ t, runs t ∧ ∀ b, (t.tile tile).rdByte b = y.rdByte b)
    ∧ (x.op ≤ 1 → x.checkMul = none → 0 < x.rows → s.covered tile 0 = true → (∀ l ∈ ev.runs, l = []) → (∀ l ∈ ev.checks, l = []) →
      ∃ t, runs t
        ∧ (∀ e ∈ x.cells x.groups, (t.tile tile).rdNat (x.dest e.1 e.2) x.w
            = x.update m e.1 e.2 (y.rdNat (x.dest e.1 e.2) x.w) (x.products m e.1 e.2) (x.products m e.1 e.2) % 2 ^ (8 * x.w))
        ∧ (∀ b, b < x.c ∨ x.c + x.w * x.elems ≤ b → (t.tile tile).rdByte b = y.rdByte b))
    ∧ (x.op = 2 → x.checkRead = none → x.var % 4 ≤ 2 → 0 < x.rows →
      let lo := x.b % 2 ^ 21
      let n := 64 * x.rows * x.d / 8
      let z := readWidth x.var * (64 * x.rows)
      ∃ t, runs t
        ∧ (t.tile tile).rdNat lo n
            = packElems x.d ((List.range (64 * x.rows)).map fun e =>
                elemEnc x.num.sat x.fmt (x.num.rnd (x.a + e) (bits x.b 63 32))
                  (readVal x.var (y.rdNat (x.c + readWidth x.var * e) (readWidth x.var)))) % 2 ^ (8 * n)
        ∧ (∀ b, x.c ≤ b → b < x.c + z → (t.tile tile).rdByte b = if bit x.var 2 then 0 else y.rdByte b)
        ∧ ∀ b, b < lo ∨ lo + n ≤ b → b < x.c ∨ x.c + z ≤ b → (t.tile tile).rdByte b = y.rdByte b)
    ∧ (x.op = 3 → 0 < x.rows →
      ∃ t, runs t
        ∧ (x.num.fast = true → ∀ b, (t.tile tile).rdByte b = y.rdByte b)
        ∧ (x.num.fast = false → ∀ e, e < 64 * x.rows → (t.tile tile).rdNat (x.c + 32 * e) 32
            = ((Kx.ofBits (y.rdNat (x.c + 32 * e) 32)).setAnchor
                (if x.var % 2 = 0 then sext 64 x.a else sext 16 (o.exps.getD (e / 32) 0))).toBits % 2 ^ 256)
        ∧ (∀ b, b < x.c ∨ x.c + 32 * (64 * x.rows) ≤ b → (t.tile tile).rdByte b = y.rdByte b))
    ∧ (x.op = 4 → 0 < x.rows →
      ∃ t, runs t
        ∧ (∀ b, x.c ≤ b → b < x.c + clearWidth x.fmt * 64 * x.rows → (t.tile tile).rdByte b = 0)
        ∧ (∀ b, b < x.c ∨ x.c + clearWidth x.fmt * 64 * x.rows ≤ b → (t.tile tile).rdByte b = y.rdByte b))

/-- R39, R40, R72, R85, R152: an instruction that completes leaves its unit and signals its token; a signal above 255 is a fault
TOKEN_OVERFLOW of that instruction instead, and a matrix instruction on a fenced array UNIT_FENCED with FINFO 0. A fault detected in a
unit (R86, R263, R518) discards the instruction and the context's later ones of that unit. With nothing earlier outstanding it is
delivered or ends the program, with the UNIT bit set; else it is held, unless a fault of an earlier instruction is. -/
def Obligations.UnitCompletion : Prop :=
  (∀ (tile seq : Nat) (o : UOp) (s : State),
      let y := s.tile tile
      tile < Config.tiles → y.op seq = some o →
      (o.unit = .matrix ∨ o.unit = .vector ∨ o.unit = .sfu ∨ o.unit = .narrow ∧ 4 ≤ wOp o.word.toNat → o.started = true → o.due = [] →
        o.cancelled = true ∨ y.overflows o.word.toNat = false →
        ∃ t, exec (.unitInstructionComplete tile seq) s = .next t
          ∧ (t.tile tile).ops = y.ops.filter (fun p => decide (p.seq ≠ seq))
          ∧ (∀ k, (t.tile tile).token k = if o.cancelled = false ∧ sigTok o.word.toNat = some k then y.token k + 1 else y.token k)
          ∧ (∀ b, (t.tile tile).rdByte b = y.rdByte b) ∧ t.regs = s.regs ∧ t.mem = s.mem
          ∧ (∀ c j, (t.ctx tile c).rdS j = (s.ctx tile c).rdS j) ∧ ∀ u, u ≠ tile → t.tile u = s.tile u)
      ∧ (o.unit = .matrix ∨ o.unit = .vector ∨ o.unit = .sfu ∨ o.unit = .narrow ∧ 4 ≤ wOp o.word.toNat → o.started = true → o.due = [] →
        o.cancelled = false → y.overflows o.word.toNat = true →
        exec (.unitInstructionComplete tile seq) s
          = .next (s.unitFaultAt tile o.ctx o.unit o.seq o.pc (cTOKEN_OVERFLOW, unstated)))
      ∧ (∀ ev, o.unit = .matrix → y.startable o = true → s.draining = false → s.active = true → s.tileFenced tile = false →
        s.matrixFenced tile = true →
        exec (.unitInstructionStart tile seq ev) s = .next (s.unitFaultAt tile o.ctx .matrix o.seq o.pc (cUNIT_FENCED, 0))))
  ∧ ∀ (tile seq : Nat) (cause : BitVec 8) (info : Word) (o : UOp) (s : State),
    let y := s.tile tile
    let x := s.ctx tile o.ctx
    tile < Config.tiles → y.op seq = some o → cDET_ERROR ≤ cause.toNat → cause.toNat ≤ cUNIT_FENCED →
    o.started = true ∨ o.unit = .narrow ∧ cause.toNat = cRACK_RETRY_LIMIT ∧ y.startable o = true →
    x.held = none → x.endFault = none →
    ∃ t, exec (.unitFault tile seq cause info) s = .next t ∧ t.mem = s.mem ∧ t.regs = s.regs ∧ t.counters = s.counters
      ∧ (∀ p ∈ (t.tile tile).ops, ¬ (p.ctx = o.ctx ∧ p.unit = o.unit ∧ seq ≤ p.seq))
      ∧ (∀ p ∈ y.ops, ¬ (p.ctx = o.ctx ∧ p.unit = o.unit ∧ seq ≤ p.seq) → p ∈ (t.tile tile).ops)
      ∧ (s.before tile o.ctx seq = true →
          let z := t.ctx tile o.ctx
          ((x.fvec ≠ 0 ∧ bit x.fmask.toNat cause.toNat = true ∧ x.inh = false) →
            z.pc = x.fvec ∧ z.fpc = o.pc ∧ z.fcause = BitVec.ofNat 16 (256 + cause.toNat) ∧ z.finfo = info ∧ z.fresume = x.pc
            ∧ z.inh = true ∧ z.run = .running)
          ∧ (¬ (x.fvec ≠ 0 ∧ bit x.fmask.toNat cause.toNat = true ∧ x.inh = false) →
            z.run = .stopping ∧ ∃ f, z.endFault = some f ∧ f.pc = o.pc ∧ f.cause = cause ∧ f.info = info ∧ f.unit = true
              ∧ f.inh = x.inh))
      ∧ (s.before tile o.ctx seq = false →
          ∃ f, (t.ctx tile o.ctx).held = some f ∧ f.seq = seq ∧ f.pc = o.pc ∧ f.cause = cause ∧ f.info = info ∧ f.unit = true)

/-! ## Copies and the format engine (chapter 7) -/

/-- R185, R187, R188: a copy that nothing stops is checked, and enters its channel's queue last with its descriptor as read now, after the
offsets; a failed check is its fault, and a queue of eight copies stalls the context. A copy that waited issues, once there is room, as
if it issued then. A corrected error of the descriptor's read is counted, an uncorrectable one delivers nothing (R394). The checks come in their order: the descriptor's address, its fields in the order of their offsets, the two sums, and
then the ranges. -/
def Obligations.CopyIssue : Prop :=
  (∀ (h : Head) (f : DF) (s : State),
     let w := encD 0 h f
     let x := s.ctx h.tile h.ctx
     let y := s.tile h.tile
     let k := 16 * s.clusterOf h.tile + f.chan.toNat
     let check := s.copyCheck h.tile (x.rdS f.sa.toNat).toNat (x.rdS f.sb.toNat).toNat (x.rdS f.sc.toNat).toNat
     let met := sramAt h.sram h.tile
     (s.goes h w (usesD w) false = true →
       (∀ d, (s.chan k).queue.length < 8 → check = .ok d → s.covered h.tile 14 = true → met = .good →
         ∃ t c, exec (.copy h f) s = .next t
           ∧ { t with chans := s.chans, tiles := s.tiles, nextId := s.nextId } = s ∧ t.nextId = s.nextId + 1
           ∧ t.chan k = { s.chan k with queue := (s.chan k).queue ++ [c] } ∧ (∀ j, j ≠ k → t.chan j = s.chan j)
           ∧ c.desc = d ∧ c.word = BitVec.ofNat 64 w ∧ c.tile = h.tile ∧ c.ctx = h.ctx ∧ c.seq = y.seq ∧ c.pc = x.pc
           ∧ c.started = false ∧ c.moved = false ∧ c.pos = 0 ∧ c.status = 0
           ∧ t.tile h.tile = { y.setCtx h.ctx x.advance with
               seq := y.seq + 1, credit := y.credit - s.chargeOf h.tile 14, want := 0 }
           ∧ ∀ u, u ≠ h.tile → t.tile u = s.tile u)
       ∧ (∀ d, (s.chan k).queue.length < 8 → check = .ok d → s.covered h.tile 14 = true → met = .corrected →
           let r := (s.pay h.tile 14).sramNote h.tile .corrected
           ∃ t c, exec (.copy h f) s = .next t
             ∧ { t with chans := r.chans, tiles := r.tiles, nextId := r.nextId } = r
             ∧ t.chan k = { s.chan k with queue := (s.chan k).queue ++ [c] } ∧ c.desc = d)
       ∧ ((s.chan k).queue.length < 8 → descCheck (x.rdS f.sa.toNat).toNat = none → s.covered h.tile 14 = true →
           met = .uncorrectable → exec (.copy h f) s = .next ((s.pay h.tile 14).sramFail h.tile))
       ∧ (∀ e, (s.chan k).queue.length < 8 → check = .error e →
           (met = .uncorrectable → descCheck (x.rdS f.sa.toNat).toNat ≠ none) →
           exec (.copy h f) s = .next (s.issueFault h.tile h.ctx e))
       ∧ (8 ≤ (s.chan k).queue.length →
           exec (.copy h f) s = .next (s.setCtx h.tile h.ctx { x with stall := .chanFull (BitVec.ofNat 64 w) })))
     ∧ (x.stall = .chanFull (BitVec.ofNat 64 w) → (s.chan k).queue.length < 8 → h.sram = [] →
         let s' := s.setCtx h.tile h.ctx { x with stall := .none }
         s'.goes h w (usesD w) false = true → exec (.copyQueueFullStall h.tile h.ctx) s = exec (.copy h f) s'))
  ∧ (∀ (s : State) (tile va vb vc : Nat),
       let d := (s.tile tile).rdNat va 64
       let check := s.copyCheck tile va vb vc
       (2 ^ 21 ≤ va → check = .error (cOPERAND, unstated))
       ∧ (va < 2 ^ 21 → va % 64 ≠ 0 → check = .error (cALIGN, va))
       ∧ (va < 2 ^ 21 → va % 64 = 0 → 0x180000 ≤ va → check = .error (cLOCAL_RANGE, va))
       ∧ (va % 64 = 0 → va < 0x180000 →
           let e := setBits (setBits d 63 0 (offsetField (dSrc d) vb)) 127 64 (offsetField (dDst d) vc)
           let carries := (formBits (dSrc d) ≠ 0 ∧ addOffset (dSrc d) vb = none) ∨ (formBits (dDst d) ≠ 0 ∧ addOffset (dDst d) vc = none)
           let auxFree := auxUsed e = true → s.rangeCheck (dAux e) (auxBytes e) (if dOp e = 2 then .write else .read) = none
             ∧ (dOp e = 4 → s.rangeCheck (dAux e) (auxBytes e) .write = none)
           let free := s.rangeCheck (dSrc e) (srcBytes e) .read = none ∧ s.rangeCheck (dDst e) (dstBytes e) .write = none
             ∧ auxFree ∧ (dCrcWr e = true → dCrcAddr e + 4 ≤ localEnd)
           (∀ o, s.badField e = some o → check = .error (cOPERAND, o))
           ∧ (s.badField e = none → carries → check = .error (cOPERAND, unstated))
           ∧ (s.badField e = none → s.farCheck e = true → check = .error (cOPERAND, unstated))
           ∧ (s.badField e = none → ¬ carries → s.farCheck e = false → free → check = .ok e)
           ∧ (∀ r, check = .ok r → r = e ∧ free)
           ∧ (∀ f, check = .error f → s.badField e = none → ¬ carries → s.farCheck e = false → ¬ free))
       ∧ (∀ v n, offsetField v n
           = if formBits v ≠ 0 ∧ v % 2 ^ formBits v + n < 2 ^ formBits v then v + n else v)
       ∧ ∀ v n, addOffset v n = (if v % 2 ^ formBits v + n < 2 ^ formBits v then some (v + n) else none))

/-- R184, R39, R200, R201, R203: a copy starts and takes its token: a copy of no unit, or one that the engine serves, only starts; one
with a far end beyond the switch stage is handed to a gateway (R367); one from another module sends its first READ (R366); a RAW copy
without a CRC moves. Between tiles, a RAW copy without a CRC moves when it starts; with one, a grant of the engine moves up to 256 bytes
and extends the CRC. The engine serves the ready channel, or the cluster's bkputs, that follow what was served last. Then a copy
completes: CHCRC, CHOUT and the stored CRC, the arrival at home or on another module, and the token. -/
def Obligations.CopyRuns : Prop :=
  ∀ (cl ch : Nat) (x : Copy) (rest : List Copy) (s : State),
    let k := 16 * cl + ch
    let n := dCount x.desc
    let tl := s.tile x.tile
    cl < Config.clusters → ch < 16 → (s.chan k).queue = x :: rest →
    (∀ (t1 a t2 b : Nat), dOp x.desc = 0 →
      s.form (dSrc x.desc) = some (.tile t1 a) → s.form (dDst x.desc) = some (.tile t2 b) →
      s.tileFenced t1 = false → s.tileFenced t2 = false → s.draining = false → s.active = true →
      let moves := fun (t : State) (lo hi : Nat) =>
        t.storesLocal s t2 (b + lo) (hi - lo) (fun i => some ((s.tile t1).rdByte (a + lo + i)))
        ∧ { t with chans := s.chans, tiles := s.tiles, engines := s.engines, free := s.free } = s
      (x.started = false → (s.chan k).held = false → tl.tokenReady x.word.toNat = true → x.pos = 0 → x.out = 0 →
        ∃ t y, exec (.copyStart cl ch .good) s = .next t ∧ (t.chan k).queue.head? = some y
          ∧ (∀ j, (t.tile x.tile).token j = if waitTok x.word.toNat = some j then tl.token j - 1 else tl.token j)
          ∧ y.started = true ∧ y.desc = x.desc ∧ y.id = x.id ∧ y.wait = x.wait
          ∧ (dCrc x.desc = false → moves t 0 n ∧ y.moved = true ∧ y.out = n)
          ∧ (dCrc x.desc = true → moves t 0 0 ∧ y.moved = decide (n = 0) ∧ y.crc = x.crc ∧ y.pos = 0))
      ∧ (∀ last, SMap.get 0 s.engines cl = last → s.wantsGrant k = some x → dCrc x.desc = true → last < 18 →
          (∀ j, j < (ch + 17 - last) % 17 → if (last + j) % 17 = 16 then s.wantsPut cl = none
            else s.wantsGrant (16 * cl + (last + j) % 17) = none) →
          let m := min 256 (n - x.pos)
          x.gateway = false →
          ∃ t y, exec (.engineGrant cl .good) s = .next t ∧ (t.chan k).queue.head? = some y
            ∧ moves t x.pos (x.pos + m) ∧ y.pos = x.pos + m ∧ y.out = x.out + m ∧ y.moved = decide (n ≤ x.pos + m)
            ∧ y.crc = crcOver x.crc ((s.tile t1).rdBytes (a + x.pos) m)
            ∧ SMap.get 0 t.engines cl = ch + 1 ∧ (t.chan k).grants = min (2 ^ 64 - 1) ((s.chan k).grants + 1)))
    ∧ (∀ sram, sram ≠ .uncorrectable → x.started = false → (s.chan k).held = false → s.draining = false → s.active = true →
        tl.tokenReady x.word.toNat = true →
        (∀ d, s.farDev x = some d → s.gatewayHeld (d % 4) < 256) →
        (s.farDev x = none → dOp x.desc = 0 → dCrc x.desc = false → s.locFull (s.copyDst x) n = false) →
        let c := { x with started := true, consumed := (waitTok x.word.toNat).isSome }
        let u := (s.setTile x.tile (tl.takeToken x.word.toNat)).copySram c sram
        let answers := fun (t : State) => exec (.copyStart cl ch sram) s = .next t
        (n = 0 → answers (u.putCopy k c))
        ∧ (n ≠ 0 → u.farDev c ≠ none → answers (u.putCopy k { c with gateway := true }))
        ∧ (n ≠ 0 → u.farDev c = none → u.srcRemote c = true → answers ((u.putCopy k c).readOn k))
        ∧ (n ≠ 0 → u.farDev c = none → u.srcRemote c = false → dOp x.desc ≠ 0 ∨ dCrc x.desc = true → answers (u.putCopy k c))
        ∧ (n ≠ 0 → u.farDev c = none → u.srcRemote c = false → dOp x.desc = 0 → dCrc x.desc = false →
            (∀ g, (u.grantRaw c n).2 = .ok g → answers ((u.grantRaw c n).1.putCopy k g.copy))
            ∧ ∀ f, (u.grantRaw c n).2 = .error f → answers ((u.grantRaw c n).1.copyFault k { c with out := f.2 } f.1)))
    ∧ (∀ sram last, SMap.get 0 s.engines cl = last → last < 18 → s.draining = false → s.active = true →
        let earlier := fun (m : Nat) => ∀ j, j < (m + 17 - last) % 17 → if (last + j) % 17 = 16 then s.wantsPut cl = none
          else s.wantsGrant (16 * cl + (last + j) % 17) = none
        (s.wantsGrant k = some x → earlier ch →
          exec (.engineGrant cl sram) s = .next (State.grantChan { s with engines := SMap.set 0 s.engines cl (ch + 1) } k x sram))
        ∧ ∀ p, s.wantsPut cl = some p → earlier 16 →
          exec (.engineGrant cl sram) s = .next (State.grantPut { s with engines := SMap.set 0 s.engines cl 17 } p sram))
    ∧ (x.started = true → x.moved = true → x.wait = 0 → tl.overflows x.word.toNat = false →
        let inc := if n = 0 then 0 else dIncr x.desc
        let away := dCrem x.desc = true ∧ s.isOwn (dCdev x.desc) = false
        ∃ t, exec (.copyComplete cl ch) s = .next t ∧ t.regs = s.regs ∧ t.mem = s.mem
          ∧ t.chan k = { s.chan k with
              queue := (s.chan k).queue.filter (fun y => decide (y.id ≠ x.id)), lastst := x.status, out := x.out,
              crc := if dCrc x.desc then x.crcValue else (s.chan k).crc }
          ∧ t.storesLocal s x.tile (dCrcAddr x.desc) (if dCrcWr x.desc = true ∧ 0 < n then 4 else 0)
              (fun i => some (BitVec.ofNat 8 (x.crcValue / 2 ^ (8 * i))))
          ∧ (∀ j, (t.tile x.tile).token j = if sigTok x.word.toNat = some j then tl.token j + 1 else tl.token j)
          ∧ (dArr x.desc = true → away → ∃ o ∈ t.rops, o.kind = .arrive ∧ o.dev = dCdev x.desc
              ∧ o.addr = dCnum x.desc + dEpoch x.desc * 2 ^ 16 + inc * 2 ^ 20)
          ∧ (¬ (dArr x.desc = true ∧ away) → (s.ctx x.tile x.ctx).arrives = [] →
              t.arrivals = s.arrivals ++ (if dArr x.desc then
                [{ id := s.nextId, dev := none, cnum := dCnum x.desc, inc := inc, epoch := dEpoch x.desc, anyEpoch := false,
                   unit := x.tile, fromDev := 0, pc := 0, who := none }] else [])))

/-- R198, R199, R200: expanding the tokens of a zero-run compression gives back its words, and the CRC-32C of the nine ASCII bytes of
123456789 is 0xE3069283. -/
def Obligations.CompressionRoundTrip : Prop :=
  (∀ (ws : List Nat) (fuel : Nat), (∀ w ∈ ws, w < 2 ^ 32) →
    let r := ws.foldl zStep ([], 0, [])
    let bs := r.2.2 ++ zEnd r.1 r.2.1
    2 * bs.length + 2 ≤ fuel →
      (expand fuel (4 * ws.length) bs { out := [], lit := 0, zeros := 0, used := 0 }).out = ws.flatMap (leBytes 4)
      ∧ (expand fuel (4 * ws.length) bs { out := [], lit := 0, zeros := 0, used := 0 }).used = bs.length)
  ∧ crcDone (crcOver crcInit [0x31, 0x32, 0x33, 0x34, 0x35, 0x36, 0x37, 0x38, 0x39]) = 0xE3069283

/-- R194, R196: block top-k loses nothing. The thinned block sends at most J integers, and for every ordinary element of a block that
has not overflowed the integer sent and the new crumb make up the source and the old crumb on the grid of the block's exponent; the
crumb of an SX32 element is at most half its unit, and a special element keeps no crumb and goes out with its code. -/
def Obligations.TopkLosesNothing : Prop :=
  ∀ (w64 : Bool) (j : Nat) (b : SxBlock) (ec : Int) (cs new : List Int), j = 1 ∨ j = 2 ∨ j = 4 ∨ j = 8 →
    b.ns.length = 32 → b.codes.length = 32 → (∀ c ∈ b.codes, c < 4) → cs.length = 32 → -1990 ≤ b.e → b.e ≤ 1990 →
    (topK w64 j b ec cs).crumb = some new →
    let r := topK w64 j b ec cs
    let out := SxBlock.expand w64 r.out
    let unit : Int := if w64 then 1 else 2 ^ 32
    r.out.length = thinSize w64 j ∧ thinBad j r.out = false ∧ r.ovfm = false ∧ out.thin = true ∧ out.ovfm = false
    ∧ out.e = b.e ∧ out.codes = b.codes ∧ maskCount r.mask ≤ j
    ∧ ∀ k, k < 32 →
        (b.codes.getD k 0 = 0 → out.ns.getD k 0 * unit + new.getD k 0
            = b.ns.getD k 0 * unit + regrid (cs.getD k 0) (ec - b.e))
        ∧ (bit r.mask k = true → (new.getD k 0).natAbs ≤ 2 ^ 31)
        ∧ (b.codes.getD k 0 ≠ 0 → new.getD k 0 = 0 ∧ out.ns.getD k 0 = 0)

/-! ## The narrow path and channel state (chapters 7 and 13) -/

/-- R26, R29, R206, R217, R349, R350: ldn, stn and atom are checked at issue; one that passes stands last in the narrow path's queue with
the registers it captured, and the context goes on. A failed check is its fault, and sixty-four accesses that have not completed stall
the context; an access that waited issues, once there is room, as if it issued then. The checks of ldn and stn come in their order: the
form and the register (OPERAND), the sector (ALIGN with the address), and the two ranges. -/
def Obligations.NarrowIssue : Prop :=
  (∀ (h : Head) (f : DF) (s : State),
     let x := s.ctx h.tile h.ctx
     let issues := fun (op : Nat) (i : Instr) =>
       let w := encD op h f
       let o := capture s h .narrow w f.sa.toNat f.sb.toNat f.sc.toNat
       let check := s.narrowCheck w (x.rdS f.sa.toNat).toNat (x.rdS f.sb.toNat).toNat (x.rdS f.sc.toNat).toNat
       (s.goes h w (usesD w) false = true →
         (64 ≤ (s.tile h.tile).narrowCount →
           exec i s = .next (s.setCtx h.tile h.ctx { x with stall := .narrowFull (BitVec.ofNat 64 w) }))
         ∧ (∀ e, (s.tile h.tile).narrowCount < 64 → check = some e → exec i s = .next (s.issueFault h.tile h.ctx e))
         ∧ ((s.tile h.tile).narrowCount < 64 → check = none → s.covered h.tile 15 = true →
           ∃ t, exec i s = .next t ∧ t.keepsS s h ∧ t.keepsPV s h ∧ t.wentOn s h ∧ { t with tiles := s.tiles } = s
             ∧ (∀ u, u ≠ h.tile → t.tile u = s.tile u)
             ∧ (t.tile h.tile).ops = (s.tile h.tile).ops ++ [{ o with seq := (s.tile h.tile).seq }]
             ∧ (∀ b, (t.tile h.tile).rdByte b = (s.tile h.tile).rdByte b)
             ∧ ∀ k, (t.tile h.tile).token k = (s.tile h.tile).token k))
       ∧ (x.stall = .narrowFull (BitVec.ofNat 64 w) → (s.tile h.tile).narrowCount < 64 →
           let s' := s.setCtx h.tile h.ctx { x with stall := .none }
           s'.goes h w (usesD w) false = true → exec (.narrowPathFullStall h.tile h.ctx) s = exec i s')
     issues 1 (.ldn h f) ∧ issues 2 (.stn h f) ∧ issues 3 (.atom h f))
  ∧ (∀ (s : State) (w va vb vc : Nat),
       let size := bits w 14 9
       let check := s.narrowCheck w va vb vc
       (wOp w = 1 ∨ wOp w = 2 → 1 ≤ size → size ≤ 32 →
         (bits vb 63 62 = 0 ∨ 3 ≤ bits vb 63 62 ∨ 2 ^ 21 ≤ va → check = some (cOPERAND, unstated))
         ∧ (vb / 2 ^ 48 = 2 ^ 14 → va < 2 ^ 21 → 32 < vb % 32 + size → check = some (cALIGN, vb))
         ∧ (vb / 2 ^ 48 = 2 ^ 14 → va < 2 ^ 21 → vb % 32 + size ≤ 32 → localEnd < va + size →
             check = some (cLOCAL_RANGE, max va localEnd))
         ∧ (vb / 2 ^ 48 = 2 ^ 14 → va < 2 ^ 21 → vb % 32 + size ≤ 32 → va + size ≤ localEnd →
             check = s.devCheck (vb % 2 ^ 48) size (if wOp w = 1 then .read else .write)))
       ∧ ∀ a n p, 0 < n →
           (s.capacity < a + n → s.devCheck a n p = some (cADDRESS, max a s.capacity))
           ∧ (a + n ≤ s.capacity → (∀ k, k < 64 → s.segCovers a n k = false) → s.devCheck a n p = some (cSEGMENT, a))
           ∧ (a + n ≤ s.capacity → (∀ k, k < 64 → s.segCovers a n k = true → s.segAllows k p = true) →
               (∃ k, k < 64 ∧ s.segCovers a n k = true) → s.devCheck a n p = none))

/-- R39, R206, R349, R350, R353, Table 13-1: a narrow access that may start has its effect: ldn stores the device bytes it reads, stn
writes bytes of tile store to device memory, atom applies its operation there and stores the old value where the word asks for it; an
access of another module sends one request. A failing sector is a fault of the unit. It completes once nothing of it is outstanding.
Add is modulo the lane, minimum and maximum are signed, swap stores the operand, and compare and swap stores the second half of its
operand where the old bytes equal the first. -/
def Obligations.NarrowEffects : Prop :=
  (∀ (tile seq : Nat) (ev : UnitEvent) (o : UOp) (s : State),
     let y := s.tile tile
     let w := o.word.toNat
     let size := bits w 14 9
     let m := s.markStarted tile o
     let who := some (tile, o.ctx, o.seq)
     let failed := fun (u : State) (e : FaultAt) => u.unitFaultAt tile o.ctx .narrow o.seq o.pc e
     tile < Config.tiles → y.op seq = some o → o.unit = .narrow →
     (y.startable o = true → s.draining = false → s.active = true → s.tileFenced tile = false →
       wOp w = 1 ∨ ev.sram ≠ .uncorrectable →
       (∀ a, s.form o.vb.toNat = some (.dev a) →
         (wOp w = 1 →
           let r := m.devRead a size (bits w 17 15) 0
           (∀ e, r.2 = .error e → exec (.unitInstructionStart tile seq ev) s = .next (failed r.1 e))
           ∧ (∀ bs, r.2 = .ok bs → ∃ t, exec (.unitInstructionStart tile seq ev) s = .next t
               ∧ { t with tiles := r.1.tiles, free := r.1.free } = r.1
               ∧ t.storesLocal r.1 tile o.va.toNat bs.length (fun i => bs[i]?)))
         ∧ (wOp w = 2 → s.mirrorFull a size = false →
           let r := (m.sramNote tile ev.sram).devWrite a (y.rdBytes o.va.toNat size) (bits w 17 15) 0 who
           (∀ e, r.2 = some e → exec (.unitInstructionStart tile seq ev) s = .next (failed r.1 e))
           ∧ (r.2 = none → exec (.unitInstructionStart tile seq ev) s = .next r.1))
         ∧ (wOp w = 3 → s.mirrorFull a size = false →
           let r := (m.sramNote tile ev.sram).atomic a size (bits w 2 0) (bits w 4 3) (bits w 5 5)
             (y.rdBytes o.va.toNat (if bits w 2 0 = 4 then 2 * size else size)) (bits w 17 15) 0 who
           (∀ e, r.2 = .error e → exec (.unitInstructionStart tile seq ev) s = .next (failed r.1 e))
           ∧ (∀ old, r.2 = .ok old → exec (.unitInstructionStart tile seq ev) s
               = .next (if bit w 5 then r.1.wrLocal tile o.vc.toNat old else r.1))))
       ∧ (∀ d a, s.form o.vb.toNat = some (.rack d a) → 1 ≤ wOp w → wOp w ≤ 3 →
         ∃ t r p, exec (.unitInstructionStart tile seq ev) s = .next t ∧ t.rops = s.rops ++ [r]
           ∧ (t.tile tile).op seq = some p ∧ p.wait = 1 ∧ p.started = true
           ∧ r.kind = (if wOp w = 1 then .read else if wOp w = 2 then .write else .atomic)
           ∧ r.dev = d ∧ r.addr = a ∧ r.size = size ∧ r.owner = .narrow tile o.seq ∧ r.sep = clusterEp (s.clusterOf tile)
           ∧ (wOp w = 2 → r.data = y.rdBytes o.va.toNat size)
           ∧ t.mem = s.mem ∧ ∀ u c, (t.tile u).rdByte c = (s.tile u).rdByte c))
     ∧ (o.started = true → wOp w ≤ 3 → o.wait = 0 → o.cancelled = true ∨ y.overflows w = false →
       ∃ t, exec (.narrowComplete tile seq) s = .next t ∧ t.regs = s.regs ∧ t.mem = s.mem ∧ t.counters = s.counters
         ∧ ((s.ctx tile o.ctx).arrives = [] → { t with tiles := s.tiles } = s)
         ∧ (t.tile tile).ops = y.ops.filter (fun p => decide (p.seq ≠ seq))
         ∧ (∀ k, (t.tile tile).token k = if o.cancelled = false ∧ sigTok w = some k then y.token k + 1 else y.token k)
         ∧ (∀ u c, (t.tile u).rdByte c = (s.tile u).rdByte c)))
  ∧ ((∀ (w old x : Nat), atomLaneOp 0 w old x = (old + x) % 2 ^ (8 * w)
       ∧ atomLaneOp 1 w old x = (if sext (8 * w) x < sext (8 * w) old then x else old)
       ∧ atomLaneOp 2 w old x = (if sext (8 * w) old < sext (8 * w) x then x else old))
     ∧ (∀ (atype : Nat) (old x y : List Byte), x.length = old.length → y.length = old.length →
         atomNew 3 atype old x = x
         ∧ (x = old → atomNew 4 atype old (x ++ y) = y) ∧ (x ≠ old → atomNew 4 atype old (x ++ y) = old))
     ∧ ∀ (aop atype k : Nat) (old x : List Byte), aop ≤ 2 → atype ≤ 3 → x.length = old.length →
         old.length % atomLane atype = 0 → k < old.length / atomLane atype →
         let w := atomLane atype
         (atomNew aop atype old x).length = old.length
         ∧ (lanesOf w (atomNew aop atype old x)).getD k 0 = atomLaneOp aop w ((lanesOf w old).getD k 0) ((lanesOf w x).getD k 0))

/-- R207, R208, R209: chrd waits for no copy and writes the word VAR selects to its scalar register; chctl applies its action: a pause
holds the channel with its queue, a resume lets it go on, an abort removes every copy whose last grant has not finished, and the
channel is then not held. A copy from another module goes on with its next READ (R366). -/
def Obligations.ChannelState : Prop :=
  ∀ (h : Head) (f : DF) (s : State),
    let k := 16 * s.clusterOf h.tile + f.chan.toNat
    let c := s.chan k
    let starts := fun (w : Nat) =>
      s.goes h w (usesD w) false = true ∧ s.covered h.tile 14 = true ∧ (s.tile h.tile).tokenReady w = true
      ∧ (s.tile h.tile).blocked h.ctx (s.tile h.tile).seq (uReads w) (uWrites w) = false
      ∧ ∀ o ∈ (s.tile h.tile).ops, o.unit = .narrow → o.ctx = h.ctx → o.started = true
    let word := match f.var.toNat with
      | 0 => c.stat | 1 => c.rem | 2 => c.crc | 3 => c.out | 4 => c.ovf | _ => c.grants
    let acts := fun (n : Nat) (i : Instr) (c' : Chan) =>
      starts (encD 5 h { f with var := BitVec.ofNat 9 n }) →
        ∃ t, exec i s = .next t ∧ (∀ j, j ≠ k → t.chan j = s.chan j) ∧ t.keepsS s h ∧ t.wentOn s h
          ∧ t.regs = s.regs ∧ t.mem = s.mem ∧ (∀ u b, (t.tile u).rdByte b = (s.tile u).rdByte b)
          ∧ (c'.held = true ∨ (∀ x rest, c'.queue = x :: rest → s.srcRemote x = false) → t.chan k = c')
          ∧ (t.chan k).held = c'.held ∧ (t.chan k).queue.map Copy.id = c'.queue.map Copy.id ∧ (t.chan k).lastst = c'.lastst
          ∧ (t.chan k).out = c'.out
    (starts (encD 4 h f) →
      ∃ t, exec (.chrd h f) s = .next t ∧ t.onlyS s h f.sa.toNat (BitVec.ofNat 64 word) ∧ t.keepsPV s h ∧ t.wentOn s h
        ∧ t.unitElsewhere s h (encD 4 h f))
    ∧ acts 0 (.chctlPause h f) { c with held := true }
    ∧ acts 1 (.chctlResume h f) { c with held := false }
    ∧ acts 2 (.chctlAbort h f)
        { c with queue := c.queue.filter (fun x => x.started && x.moved), held := false,
                 lastst := if c.queue.all (fun x => x.started && x.moved) then c.lastst else 1,
                 out := if c.queue.all (fun x => x.started && x.moved) then c.out
                   else match c.queue with | x :: _ => if x.started && !x.moved then x.out else 0 | [] => 0 }
    ∧ (c.queue.length ≤ 8 → c.lastst < 16 → bits c.stat 23 20 = c.queue.length ∧ bits c.stat 19 16 = c.lastst
        ∧ bit c.stat 1 = c.held ∧ bit c.stat 0 = (match c.queue with | x :: _ => x.started | [] => false))

/-! ## Sync counters, tokens, fences and task queues (chapters 2 and 3) -/

/-- R41 to R43, R45, R46, R49, R76 to R78, R80, R370, Table 2-5: arm sets COUNT to 0 and the target; arrive sends its increment, home or
as an ARRIVE to another module, at once when the earlier accesses are performed at its scope, and keeps it else; scread reads. A counter
of another module is OPERAND for arm and scread, and one beyond the switch stage for arrive too while the module has no alias. An arrival of another epoch is discarded and recorded; else
COUNT grows, up to 2^32 − 1 with OVF set and an event beyond it, and a count at the target wakes the clusters of the waiter mask. -/
def Obligations.SyncCounters : Prop :=
  (∀ (h : Head) (f : ArmF) (g : ArriveF) (sd sc : BitVec 6) (creg : Bool) (sel : BitVec 2) (cnum : BitVec 16) (s : State),
     s.inv = true →
     let x := s.ctx h.tile h.ctx
     let wa := encArm 0 false h f
     let r := s.counterRef x f.creg f.sc f.cnum
     let target := if f.timm then f.ti.toNat else (x.rdS f.st.toNat).toNat
     let rg := s.counterRef x g.creg g.sc g.cnum
     let n := if g.nimm then g.ni.toNat else (x.rdS g.sn.toNat).toNat
     let e := if g.creg then rg.epoch else g.epoch.toNat
     let rs := s.counterRef x creg sc cnum
     let c := s.counter r.cnum
     (s.runs h wa (usesY f.creg f.sc f.timm f.st) →
       (r.dev = none → target < 2 ^ 32 →
         ∃ t, exec (.arm h f) s = .next t ∧ t.keepsS s h ∧ t.keepsPV s h ∧ t.wentOn s h ∧ t.keepsData s
           ∧ t.onlyCounter s r.cnum { c with count := 0, target := target, waiters := if target = 0 then [] else c.waiters })
       ∧ (r.dev ≠ none ∨ 2 ^ 32 ≤ target → exec (.arm h f) s = .next (s.issueFault h.tile h.ctx (cOPERAND, unstated))))
     ∧ (s.runs h (encArrive h g) (usesY g.creg g.sc g.nimm g.sn) →
       (2 ^ 32 ≤ n ∨ s.farWithoutAlias rg.dev = true →
         exec (.arrive h g) s = .next (s.issueFault h.tile h.ctx (cOPERAND, unstated)))
       ∧ (n < 2 ^ 32 → s.farWithoutAlias rg.dev = false →
         let q := (s.tile h.tile).seq
         let scope : BitVec 2 := if rg.dev = none then g.scope else 2
         let a : Arrival := ⟨0, rg.dev, rg.cnum, n, e, false, h.tile, 0, x.pc, some (h.tile, h.ctx, q)⟩
         ∃ t, exec (.arrive h g) s = .next t ∧ t.keepsS s h ∧ t.keepsPV s h ∧ t.wentOn s h ∧ t.keepsData s
           ∧ t.counters = s.counters ∧ (t.tile h.tile).seq = q + 1
           ∧ (s.performed h.tile h.ctx scope.toNat q = false → (q, scope, a) ∈ (t.ctx h.tile h.ctx).arrives)
           ∧ (s.performed h.tile h.ctx scope.toNat q = true →
               (rg.dev = none → ∃ b ∈ t.arrivals, { b with id := 0 } = a)
               ∧ ∀ d, rg.dev = some d → ∃ o ∈ t.rops, o.kind = .arrive ∧ o.dev = d ∧ o.addr = rg.cnum + e * 2 ^ 16 + n * 2 ^ 20
                   ∧ o.owner = .arrive h.tile h.ctx q x.pc)
           ∧ (x.arrives = [] → rg.dev = none → s.performed h.tile h.ctx scope.toNat q = true →
               (t.ctx h.tile h.ctx).arrives = [] ∧ t.arrivals = s.arrivals ++ [{ a with id := s.nextId }])
           ∧ (x.arrives = [] → s.performed h.tile h.ctx scope.toNat q = false →
               t.arrivals = s.arrivals ∧ t.rops = s.rops ∧ (t.ctx h.tile h.ctx).arrives = [(q, scope, a)])))
     ∧ (s.runs h (encHead 6 4 h + sd.toNat * 2 ^ 44 + b2n creg * 2 ^ 43 + sc.toNat * 2 ^ 37 + sel.toNat * 2 ^ 30 + cnum.toNat)
         ⟨if creg then [sc.toNat] else [], [sd.toNat]⟩ →
         (rs.dev ≠ none → exec (.scread h sd creg sc sel cnum) s = .next (s.issueFault h.tile h.ctx (cOPERAND, unstated)))
         ∧ (rs.dev = none →
         let y := s.counter rs.cnum
         ∃ t, exec (.scread h sd creg sc sel cnum) s = .next t ∧ t.keepsPV s h ∧ t.wentOn s h ∧ t.elsewhere s h
           ∧ t.onlyS s h sd.toNat (BitVec.ofNat 64 (match sel.toNat with
               | 0 => y.count
               | 1 => y.target
               | _ => (if y.ovf then 2 ^ 7 else 0) + (if y.target ≤ y.count then 2 ^ 6 else 0) + y.epoch)))))
  ∧ (∀ (id : Nat) (a : Arrival) (s : State), s.inv = true → s.arrivals.find? (fun b => decide (b.id = id)) = some a →
       let c := s.counter a.cnum
       let sum := c.count + a.inc
       let d := a.cnum / 2 ^ 14
       (a.anyEpoch = true ∨ a.epoch = c.epoch →
         ∃ t, exec (.arrivalApplied id) s = .next t ∧ t.arrivals = s.arrivals.filter (fun b => decide (b.id ≠ id))
           ∧ t.mem = s.mem ∧ t.chans = s.chans
           ∧ t.onlyCounter s a.cnum { c with
               count := min sum (2 ^ 32 - 1), ovf := c.ovf || decide (2 ^ 32 ≤ sum),
               waiters := if a.inc ≠ 0 ∧ c.target ≤ min sum (2 ^ 32 - 1) then [] else c.waiters }
           ∧ (sum < 2 ^ 32 → t.events = s.events ∧ t.regs = s.regs)
           ∧ (2 ^ 32 ≤ sum → s.hearthReady = true → t.regs = s.regs ∧ t.events = s.events ++
               [⟨.syncOverflow, a.unit, (leBytes 2 a.cnum ++ leBytes 1 a.fromDev ++ List.replicate 14 0).take 14, false⟩])
           ∧ (a.inc ≠ 0 → c.target ≤ min sum (2 ^ 32 - 1) → ∀ u k pd timed woken, (s.ctx u k).stall = .wait a.cnum pd timed woken →
               (s.ctx u k).held = none → (t.ctx u k).stall = .wait a.cnum pd timed (woken || c.waiters.contains (s.clusterOf u))))
       ∧ (a.anyEpoch = false → a.epoch ≠ c.epoch → a.cnum < 2 ^ 16 →
         ∃ t, exec (.arrivalApplied id) s = .next t ∧ t.arrivals = s.arrivals.filter (fun b => decide (b.id ≠ id))
           ∧ t.counters = s.counters ∧ t.mem = s.mem ∧ t.events = s.events
           ∧ ((∀ w, a.who = some w → (s.ctx w.1 w.2.1).held = none) → t.tiles = s.tiles)
           ∧ t.get F.SCDISC_DISCARDED d = min (2 ^ 32 - 1) (s.get F.SCDISC_DISCARDED d + 1)
           ∧ t.get F.SCDISCLAST_SEEN d = 1 ∧ t.get F.SCDISCLAST_COUNTER d = a.cnum))

/-- R43 to R45, R48: wait goes on with its predicate 1 once COUNT has reached the target and with 0 when its time is over; else the
context stalls and its cluster waits. A woken context tests again. migrate takes the next epoch with COUNT 0 and the new target: DRAIN
when the old epoch is complete, DISCARD at once. A counter of another module, or a target above 2^32 − 1, is OPERAND (R77, R78). -/
def Obligations.CounterWaits : Prop :=
  ∀ (h : Head) (f : WaitF) (g : ArmF) (s : State), s.inv = true →
    let x := s.ctx h.tile h.ctx
    let r := s.counterRef x f.creg f.sc f.cnum
    let c := s.counter r.cnum
    let rm := s.counterRef x g.creg g.sc g.cnum
    let y := s.counter rm.cnum
    let target := if g.timm then g.ti.toNat else (x.rdS g.st.toNat).toNat
    let ones : Word := BitVec.allOnes 64
    let goesOn := fun (t : State) (pd : BitVec 3) (v : Word) =>
      t.onlyP s h pd.toNat v ∧ t.keepsS s h ∧ t.wentOn s h ∧ t.elsewhere s h ∧ (t.ctx h.tile h.ctx).stall = .none
    let stalls := fun (t : State) (n : Nat) (pd : BitVec 3) (timed : Bool) =>
      (t.ctx h.tile h.ctx).stall = .wait n pd timed false ∧ (t.ctx h.tile h.ctx).pc = x.pc ∧ t.keepsS s h ∧ t.keepsPV s h
      ∧ t.keepsData s
      ∧ t.onlyCounter s n { s.counter n with waiters := insertRising (s.clusterOf h.tile) (s.counter n).waiters }
    let migrates := fun (t : State) (n k : Nat) =>
      t.keepsS s h ∧ t.keepsPV s h ∧ t.wentOn s h ∧ t.keepsData s
      ∧ t.onlyCounter s n { s.counter n with
          epoch := ((s.counter n).epoch + 1) % 16, count := 0, target := k,
          waiters := if k = 0 then [] else (s.counter n).waiters }
    (s.runs h (encWait h f) ⟨if f.creg then [f.sc.toNat] else [], [96 + f.pd.toNat]⟩ →
      (r.dev ≠ none → exec (.wait h f) s = .next (s.issueFault h.tile h.ctx (cOPERAND, unstated))) ∧ (r.dev = none →
      (c.target ≤ c.count → ∃ t, exec (.wait h f) s = .next t ∧ goesOn t f.pd ones)
      ∧ (c.count < c.target → f.notimeout = false → f.timeout = 0 → ∃ t, exec (.wait h f) s = .next t ∧ goesOn t f.pd 0)
      ∧ (c.count < c.target → f.notimeout = true ∨ f.timeout ≠ 0 →
          ∃ t, exec (.wait h f) s = .next t ∧ stalls t r.cnum f.pd (!f.notimeout))))
    ∧ (h.tile < Config.tiles → ∀ n pd timed woken, x.stall = .wait n pd timed woken →
      (woken = true → (s.counter n).target ≤ (s.counter n).count →
        ∃ t, exec (.waitRetest h.tile h.ctx) s = .next t ∧ goesOn t pd ones)
      ∧ (woken = true → (s.counter n).count < (s.counter n).target →
        ∃ t, exec (.waitRetest h.tile h.ctx) s = .next t ∧ stalls t n pd timed)
      ∧ (timed = true → ∃ t, exec (.waitTimeout h.tile h.ctx) s = .next t ∧ goesOn t pd 0))
    ∧ (rm.dev ≠ none ∨ 2 ^ 32 ≤ target → ∀ discard, s.runs h (encArm 3 discard h g) (usesY g.creg g.sc g.timm g.st) →
        exec (if discard then .migrateDiscard h g else .migrateDrain h g) s
          = .next (s.issueFault h.tile h.ctx (cOPERAND, unstated)))
    ∧ (rm.dev = none → target < 2 ^ 32 →
      (s.runs h (encArm 3 true h g) (usesY g.creg g.sc g.timm g.st) →
        ∃ t, exec (.migrateDiscard h g) s = .next t ∧ migrates t rm.cnum target)
      ∧ (s.runs h (encArm 3 false h g) (usesY g.creg g.sc g.timm g.st) →
        (y.target ≤ y.count → ∃ t, exec (.migrateDrain h g) s = .next t ∧ migrates t rm.cnum target)
        ∧ (y.count < y.target → ∃ t, exec (.migrateDrain h g) s = .next t ∧ t.elsewhere s h
            ∧ (t.ctx h.tile h.ctx) = { x with stall := .drain rm.cnum target })))
    ∧ (h.tile < Config.tiles → ∀ n k, x.stall = .drain n k → (s.counter n).target ≤ (s.counter n).count →
        ∃ t, exec (.migrateDrainComplete h.tile h.ctx) s = .next t ∧ migrates t n k ∧ (t.ctx h.tile h.ctx).stall = .none)

/-- R39, R81, R82, R36: twait takes one from its token or stalls, tset writes it and tread reads it. A fence goes on once the context's
earlier accesses are performed at its scope, and stalls until then. -/
def Obligations.TokensAndFences : Prop :=
  ∀ (h : Head) (tok : BitVec 4) (value : BitVec 8) (sd : BitVec 6) (scope : BitVec 2) (s : State),
    let x := s.ctx h.tile h.ctx
    let k := (s.tile h.tile).token tok.toNat
    let token := fun (t : State) (v : BitVec 8) =>
      t.keepsS s h ∧ t.keepsPV s h ∧ t.wentOn s h ∧ { t with tiles := s.tiles } = s
      ∧ (∀ u, u ≠ h.tile → t.tile u = s.tile u) ∧ (∀ b, (t.tile h.tile).rdByte b = (s.tile h.tile).rdByte b)
      ∧ (t.tile h.tile).ops = (s.tile h.tile).ops
      ∧ ∀ j, (t.tile h.tile).token j = if j = tok.toNat then v else (s.tile h.tile).token j
    let wt := encHead 6 5 h + tok.toNat
    (s.runs h wt ⟨[], []⟩ →
      (k ≠ 0 → ∃ t, exec (.twait h tok) s = .next t ∧ token t (k - 1))
      ∧ (k = 0 → exec (.twait h tok) s = .next (s.setCtx h.tile h.ctx { x with stall := .twait tok })))
    ∧ (x.stall = .twait tok →
        let s' := s.setCtx h.tile h.ctx { x with stall := .none }
        s'.runs h wt ⟨[], []⟩ → exec (.twait h tok) s = exec (.twait h tok) s')
    ∧ (s.runs h (encHead 6 6 h + value.toNat * 16 + tok.toNat) ⟨[], []⟩ → ∃ t, exec (.tset h value tok) s = .next t ∧ token t value)
    ∧ s.writesS h (encHead 6 7 h + sd.toNat * 2 ^ 44 + tok.toNat) ⟨[], [sd.toNat]⟩ (.tread h sd tok) sd.toNat (k.setWidth 64)
    ∧ (s.runs h (encHead 6 8 h + scope.toNat * 2 ^ 48) ⟨[], []⟩ →
      (s.performed h.tile h.ctx scope.toNat (s.tile h.tile).seq = true →
        ∃ t, exec (.fence h scope) s = .next t ∧ t.keepsS s h ∧ t.keepsPV s h ∧ t.wentOn s h ∧ t.elsewhere s h)
      ∧ (s.performed h.tile h.ctx scope.toNat (s.tile h.tile).seq = false →
        ∃ t, exec (.fence h scope) s = .next t ∧ t.ctx h.tile h.ctx = { x with stall := .fence scope } ∧ t.elsewhere s h))
    ∧ (h.tile < Config.tiles → x.stall = .fence scope → s.performed h.tile h.ctx scope.toNat (s.tile h.tile).seq = true →
        ∃ t, exec (.fenceComplete h.tile h.ctx) s = .next t ∧ t.keepsS s h ∧ t.keepsPV s h ∧ t.wentOn s h ∧ t.elsewhere s h
          ∧ (t.ctx h.tile h.ctx).stall = .none)

/-- R51 to R53, R83: tpush puts its task last into the queue of its base die and answers 1, or 0 with nothing changed when the queue holds
4,096 tasks. tpop takes the oldest task the tile owns; with none, and the balancer on, the oldest of the nearest level that has one, up
to its scope; with the balancer off it steals none, and with none to take it answers 0. -/
def Obligations.TaskQueues : Prop :=
  ∀ (h : Head) (pd : BitVec 3) (sa sb sc : BitVec 6) (s : State),
    let x := s.ctx h.tile h.ctx
    let ones : Word := BitVec.allOnes 64
    let room := (s.tasks.filter fun k => decide (k.die = s.bdieOf h.tile)).length < 4096
    let others := fun (t : State) =>
      t.wentOn s h ∧ { t with tiles := s.tiles, tasks := s.tasks } = s ∧ (∀ u, u ≠ h.tile → t.tile u = s.tile u)
      ∧ (∀ b, (t.tile h.tile).rdByte b = (s.tile h.tile).rdByte b)
    (s.runs h (encHead 6 9 h + pd.toNat * 2 ^ 47 + sa.toNat * 2 ^ 38 + sb.toNat * 2 ^ 32 + sc.toNat * 2 ^ 26)
        ⟨[sa.toNat, sb.toNat, sc.toNat], [96 + pd.toNat]⟩ →
      ∃ t, exec (.tpush h pd sa sb sc) s = .next t ∧ others t ∧ t.keepsS s h
        ∧ t.onlyP s h pd.toNat (if room then ones else 0)
        ∧ t.tasks = s.tasks ++ (if room then
            [⟨s.bdieOf h.tile, x.rdS sa.toNat, (x.rdS sb.toNat).setWidth 32, (x.rdS sc.toNat).setWidth 32⟩] else []))
    ∧ (s.runs h (encHead 6 10 h + pd.toNat * 2 ^ 47 + sa.toNat * 2 ^ 38 + sb.toNat * 2 ^ 32)
        ⟨[], [sa.toNat, sb.toNat, 96 + pd.toNat]⟩ →
      (∀ k, s.tasks.find? (fun k => decide (k.owner.toNat = h.tile)) = some k →
        ∃ t, exec (.tpop h pd sa sb) s = .next t ∧ others t ∧ t.onlyP s h pd.toNat ones ∧ t.tasks = s.tasks.erase k
          ∧ ∀ j, (t.ctx h.tile h.ctx).rdS j = if j = 0 then 0 else if j = sb.toNat then k.num.setWidth 64
              else if j = sa.toNat then k.arg else x.rdS j)
      ∧ (∀ k, s.popChoice h.tile = some k →
        ∃ t, exec (.tpop h pd sa sb) s = .next t ∧ others t ∧ t.onlyP s h pd.toNat ones ∧ t.tasks = s.tasks.erase k
          ∧ ∀ j, (t.ctx h.tile h.ctx).rdS j = if j = 0 then 0 else if j = sb.toNat then k.num.setWidth 64
              else if j = sa.toNat then k.arg else x.rdS j)
      ∧ (s.popChoice h.tile = none →
        ∃ t, exec (.tpop h pd sa sb) s = .next t ∧ others t ∧ t.keepsS s h ∧ t.onlyP s h pd.toNat 0 ∧ t.tasks = s.tasks)
      ∧ ((∀ k ∈ s.tasks, k.owner.toNat ≠ h.tile) → s.get F.DLBCTL_EN 0 = 0 →
        ∃ t, exec (.tpop h pd sa sb) s = .next t ∧ others t ∧ t.keepsS s h ∧ t.onlyP s h pd.toNat 0 ∧ t.tasks = s.tasks))
    ∧ (∀ tile k, s.popChoice tile = some k → k ∈ s.tasks ∧ (k.owner.toNat = tile ∨
        ((∀ j ∈ s.tasks, j.owner.toNat ≠ tile) ∧ s.get F.DLBCTL_EN 0 = 1 ∧ ∃ l, l ≤ s.get F.DLBCTL_SCOPE 0
          ∧ s.stealable tile l k = true ∧ ∀ i, i < l → ∀ j ∈ s.tasks, s.stealable tile i j = false)))
    ∧ (∀ tile, s.popChoice tile = none ↔ (∀ j ∈ s.tasks, j.owner.toNat ≠ tile)
        ∧ (s.get F.DLBCTL_EN 0 = 1 → ∀ l, l ≤ s.get F.DLBCTL_SCOPE 0 → ∀ j ∈ s.tasks, s.stealable tile l j = false))
    ∧ (∀ tile l k, s.stealable tile l k = true → k.owner.toNat ≠ tile ∧ k.owner.toNat < s.tileCount
        ∧ (l = 0 → s.clusterOf k.owner.toNat = s.clusterOf tile) ∧ (l = 1 → s.cdieOf k.owner.toNat = s.cdieOf tile)
        ∧ (l = 2 → s.bdieOf k.owner.toNat = s.bdieOf tile))

/-! ## Collectives (chapters 11 and 12) -/

/-- R302 to R304, R308, R342: bkarm, xfire and xa2a give SD the status of arming, or their fault, and go on. The checks come in the order
of R304; what fails leaves every tag as it was; a descriptor that passes arms its tag under its own fields, and opens it at once when its
trigger has come. A sector of the rank table or the exponents that cannot be read ends the armed operation MEMERR. A corrected error of
the descriptor's read is counted, an uncorrectable one delivers nothing, and one of another read of a tile's store ends the operation
MEMERR as well (R394). -/
def Obligations.CollectiveArming : Prop :=
  (∀ (h : Head) (f : XF) (s : State),
    let va := ((s.ctx h.tile h.ctx).rdS f.sa.toNat).toNat
    let arms := fun (op starter : Nat) (i : Instr) =>
      let w := encX op h f
      let check := s.armCheck h.tile va starter
      let met := sramAt h.sram h.tile
      s.runs h w ⟨[f.sa.toNat], [f.sd.toNat]⟩ →
        (∀ e, check = .error e → (met = .uncorrectable → descCheck va ≠ none) →
          exec i s = .next (s.issueFault h.tile h.ctx e))
        ∧ (descCheck va = none → met = .uncorrectable → exec i s = .next ((s.pay h.tile 16).sramFail h.tile))
        ∧ (∀ n, check = .ok (.error n) → met = .good → ∃ t, exec i s = .next t ∧ t.onlyS s h f.sd.toNat (BitVec.ofNat 64 n)
            ∧ t.keepsPV s h ∧ t.wentOn s h ∧ t.elsewhere s h)
        ∧ (∀ n, check = .ok (.error n) → met = .corrected →
          let r := (s.pay h.tile 16).sramNote h.tile .corrected
          ∃ t, exec i s = .next t ∧ { t with tiles := r.tiles } = r ∧ t.onlyS s h f.sd.toNat (BitVec.ofNat 64 n)
            ∧ t.keepsPV s h ∧ t.wentOn s h)
        ∧ (∀ d, check = .ok (.ok d) → met ≠ .uncorrectable →
          let r := ((s.pay h.tile 16).sramNote h.tile met).armRead d h.sram
          ∃ t, exec i s = .next t ∧ { t with tiles := r.1.tiles } = r.1 ∧ t.onlyS r.1 h f.sd.toNat (BitVec.ofNat 64 r.2)
            ∧ t.keepsPV r.1 h ∧ t.wentOn r.1 h ∧ ∀ u, u ≠ h.tile → t.tile u = r.1.tile u)
    arms 0 0 (.bkarm h f) ∧ arms 3 1 (.xfire h f) ∧ arms 5 2 (.xa2a h f))
  ∧ (∀ (tile va starter : Nat) (s : State),
      let d := (s.tile tile).rdNat va 64
      let check := s.armCheck tile va starter
      (2 ^ 21 ≤ va → check = .error (cOPERAND, unstated))
      ∧ (va < 2 ^ 21 → va % 64 ≠ 0 → check = .error (cALIGN, va))
      ∧ (va < 2 ^ 21 → va % 64 = 0 → 0x180000 ≤ va → check = .error (cLOCAL_RANGE, va))
      ∧ (va % 64 = 0 → va < 0x180000 →
          (∀ o, s.badDesc starter d = some (o, true) → check = .ok (.error 3))
          ∧ (∀ o, s.badDesc starter d = some (o, false) → check = .ok (.error (2 + o * 2 ^ 8)))
          ∧ (s.badDesc starter d = none → ∀ e, s.descRanges d = some e → check = .error e)
          ∧ (s.badDesc starter d = none → s.descRanges d = none → check = .ok (.ok d))))
  ∧ (∀ (d : Nat) (x : Tag) (s : State),
      ((∃ e ∈ x.ranks, 2 ^ 17 ≤ e) → s.armRanks d x = (s, 2 + 48 * 2 ^ 8))
      ∧ ((∀ e ∈ x.ranks, e < 2 ^ 17) → x.primary (gMe d) ≠ s.dev → x.backupDev (gMe d) ≠ some s.dev →
          s.armRanks d x = (s, 2 + 8 * 2 ^ 8)))
  ∧ (∀ (d : Nat) (l : List (Nat × Sram)) (s : State),
      ((∀ t ∈ s.armTiles d, sramAt l t = .good) → s.armRead d l = s.armDesc d)
      ∧ ((∃ t ∈ s.armTiles d, sramAt l t = .uncorrectable) → ∃ u : State,
          s.armRead d l = u.armReady d { Tag.free with st := 1, desc := d } true ∧ u.tags = s.tags))
  ∧ (∀ (d t1 a : Nat) (s : State), s.form (gRanktab d) = some (.tile t1 a) →
      let x : Tag := { Tag.free with st := 1, desc := d }
      (gN d ≠ 0 → s.tileFenced t1 = true → s.armDesc d = s.armReady d x true)
      ∧ (s.tileFenced t1 = false → s.armDesc d
          = s.armRanks d { x with ranks := (List.range (gN d)).map fun r => (s.tile t1).rdNat (a + 4 * r) 4 }))
  ∧ ∀ (d : Nat) (x : Tag) (broken : Bool) (s : State),
      let r := s.armReady d x broken
      ((∃ e ∈ x.exps, 1990 < (sext 16 e).natAbs) → r = (s, 2 + 32 * 2 ^ 8))
      ∧ ((∀ e ∈ x.exps, (sext 16 e).natAbs ≤ 1990) →
        ((s.tagAt (gTag d)).busy = true → r = (s, 1))
        ∧ ((s.tagAt (gTag d)).busy = false → s.resvClash d = true → r = (s, 4))
        ∧ ((s.tagAt (gTag d)).busy = false → s.resvClash d = false →
            r.2 = 0
            ∧ (broken = true → (r.1.tagAt (gTag d)).st = 6 ∧ (r.1.tagAt (gTag d)).reason = 4
                ∧ ∀ k, k ≠ gTag d → r.1.tagAt k = s.tagAt k)
            ∧ (broken = false → gTrigv d = true → (s.counter (gTrig d)).count < (s.counter (gTrig d)).target →
                r.1.tagAt (gTag d) = x ∧ (∀ k, k ≠ gTag d → r.1.tagAt k = s.tagAt k) ∧ { r.1 with tags := s.tags } = s)))

/-- R315, R327, R330, R331, Table 12-2: bkrd reads a report word of its tag, 0 for a FREE tag, and raises OPERAND when a bit above the tag
is set. bkput faults on its registers and range, gives SD its status, and with status 0 its blocks stand last among those waiting for the
format engine; with no blocks it only arrives, with increment 0. -/
def Obligations.BucketPuts : Prop :=
  (∀ (h : Head) (f : XF) (s : State),
     let v := ((s.ctx h.tile h.ctx).rdS f.sa.toNat).toNat
     let x := s.tagAt v
     let d := x.desc
     let last := match x.arrived.getLast? with
       | none => 0
       | some (r, b) => r + 2 ^ 8 + (if b then 2 ^ 9 else 0) + x.arrived.length * 2 ^ 16
     let word := if x.st = 0 then 0 else match f.imm.toNat % 8 with
       | 0 => x.st + x.reason * 2 ^ 8 + gOp d * 2 ^ 16 + gGen d * 2 ^ 24
       | 1 => x.miss + x.nmiss * 2 ^ 16
       | 2 => last
       | 3 => x.late
       | 4 => (match x.nan with | some r => r + 2 ^ 8 | none => 0)
       | _ => x.rerun.length
     (v < 4096 → s.writesS h (encX 2 h f) ⟨[f.sa.toNat], [f.sd.toNat]⟩ (.bkrd h f) f.sd.toNat (BitVec.ofNat 64 word))
     ∧ (s.runs h (encX 2 h f) ⟨[f.sa.toNat], [f.sd.toNat]⟩ → 4096 ≤ v →
         exec (.bkrd h f) s = .next (s.issueFault h.tile h.ctx (cOPERAND, unstated))))
  ∧ (∀ (h : Head) (f : XF) (s : State),
       let x := s.ctx h.tile h.ctx
       let va := (x.rdS f.sa.toNat).toNat
       let vb := (x.rdS f.sb.toNat).toNat
       let tag := vb % 2 ^ 12
       let b0 := bits vb 47 16
       let nb := f.imm.toNat % 2 ^ 14
       let noarr := bit f.imm.toNat 16
       let size := 32 * (match bits f.imm.toNat 15 14 with | 0 => 32 | 1 => 4 | _ => 8)
       let st := s.putStatus tag b0 nb
       let y := s.tagAt tag
       (s.runs h (encX 1 h f) ⟨[f.sa.toNat, f.sb.toNat], [f.sd.toNat]⟩ →
         (2 ^ 21 ≤ va ∨ 2 ^ 48 ≤ vb → exec (.bkput h f) s = .next (s.issueFault h.tile h.ctx (cOPERAND, unstated)))
         ∧ (va < 2 ^ 21 → vb < 2 ^ 48 → nb ≠ 0 → bits f.imm.toNat 15 14 = 0 → va < tileStoreEnd →
             exec (.bkput h f) s = .next (s.issueFault h.tile h.ctx (cLOCAL_RANGE, va)))
         ∧ (va < 2 ^ 21 → vb < 2 ^ 48 → (nb ≠ 0 → (bits f.imm.toNat 15 14 = 0 → tileStoreEnd ≤ va) ∧ va + size * nb ≤ localEnd) →
           ∃ t, exec (.bkput h f) s = .next t ∧ t.onlyS s h f.sd.toNat (BitVec.ofNat 64 st) ∧ t.keepsPV s h ∧ t.wentOn s h
             ∧ t.keepsData s ∧ t.tags = s.tags ∧ t.counters = s.counters ∧ (∀ u, u ≠ h.tile → t.tile u = s.tile u)
             ∧ t.puts = s.puts ++ (if st = 0 ∧ nb ≠ 0 then
                 [⟨h.tile, h.ctx, (s.tile h.tile).seq, x.pc, tag, b0, nb, 0, va, bits f.imm.toNat 15 14, bits vb 15 12, noarr,
                   (y.exps.drop b0).take nb⟩] else [])
             ∧ t.arrivals = s.arrivals ++ (if st = 0 ∧ nb = 0 ∧ noarr = false then
                 [⟨s.nextId, none, gTrig y.desc, 0, bits vb 15 12, false, h.tile, 0, 0, none⟩] else [])))
       ∧ (y.st ≠ 1 → st = 1)
       ∧ (y.st = 1 → (3 ≤ gOp y.desc → st = 3)
         ∧ (gOp y.desc < 3 → (gCount y.desc < b0 + nb → st = 2)
           ∧ (b0 + nb ≤ gCount y.desc → nb = 0 → st = 0)
           ∧ (b0 + nb ≤ gCount y.desc → nb ≠ 0 → s.putBlocks tag b0 nb = true → st = 4)
           ∧ (b0 + nb ≤ gCount y.desc → nb ≠ 0 → s.putBlocks tag b0 nb = false →
               st = if 16384 ≤ s.originsUsed tag then 5 else 0))))

/-- R335 to R337, Table 12-4: the combination of contributions. Each ordinary element is the sum of the ranks' integers in two's
complement, whatever their order; a NaN, or infinities of both signs, make a NaN, else an infinity stands. -/
def Obligations.CombiningIsExact : Prop :=
  ∀ (w64 : Bool) (e : Int) (bs cs : List SxBlock) (k : Nat), k < 32 →
    let r := combineBlocks w64 e bs
    let codes := bs.map fun b => b.codes.getD k 0
    let w := if w64 then 64 else 32
    (bs.Perm cs → combineBlocks w64 e cs = r) ∧ r.e = e ∧ r.ovfm = false ∧ r.thin = false
    ∧ ((∀ c ∈ codes, c = 0) → r.codes.getD k 0 = 0
        ∧ r.ns.getD k 0 = sext w (wrapInt w (bs.map fun b => b.ns.getD k 0).sum))
    ∧ (1 ∈ codes ∨ 2 ∈ codes ∧ 3 ∈ codes → r.codes.getD k 0 = 1 ∧ r.ns.getD k 0 = 0)
    ∧ (1 ∉ codes → 2 ∈ codes → 3 ∉ codes → r.codes.getD k 0 = 2 ∧ r.ns.getD k 0 = 0)
    ∧ (1 ∉ codes → 2 ∉ codes → 3 ∈ codes → r.codes.getD k 0 = 3 ∧ r.ns.getD k 0 = 0)

/-- R305 to R307, R309, R311, R313: the life of an operation. An armed broadcast opens on a rank that is not its owner and waits; its
last fragment writes DST and ends it DONE; the deadline ends an open operation MISSING, with the ranks that have not arrived, and an
abort ends one ABORTED; each end arrives at the completion counter. A stale fragment is counted, an early one answered with RETRY, and
one of the armed generation is applied. A read of a tile's store that delivers nothing in an engine's turn ends the operation MEMERR (R308,
R394). -/
def Obligations.CollectiveLife : Prop :=
  ∀ (tag : Nat) (s : State), tag < 4096 →
    let x := s.tagAt tag
    let d := x.desc
    let ends := fun (t : State) (st nmiss miss : Nat) =>
      (t.tagAt tag).st = st ∧ (t.tagAt tag).desc = d ∧ (t.tagAt tag).nmiss = nmiss ∧ (t.tagAt tag).miss = miss
      ∧ (∀ k, k ≠ tag → t.tagAt k = s.tagAt k)
      ∧ (gDrem d = false → t.arrivals = s.arrivals ++ (if gArr d then
          [⟨s.nextId, none, gDone d, 1, gDepoch d, false, 0x7FF, 0, 0, none⟩] else []))
    let bcast := gOp d = 4 ∧ gMe d ≠ gOwner d ∧ gMe d < gN d ∧ gOwner d < gN d ∧ 0 < gCount d
    let calm := fun (l : List (Nat × Sram)) => ∀ t ∈ s.engineTiles x, sramAt l t = .good
    (∀ l, bcast → calm l → x.st = 1 → x.arrived = [] → s.triggered d = true → s.active = true → s.draining = false →
      ∃ t, exec (.collOpen ⟨tag, l⟩) s = .next t ∧ (t.tagAt tag).st = 2 ∧ (t.tagAt tag).arrived = [(gMe d, x.backup)]
        ∧ (∀ k, k ≠ tag → t.tagAt k = s.tagAt k) ∧ t.keepsData s ∧ t.arrivals = s.arrivals)
    ∧ (∀ l, x.st = 1 → s.triggered d = true → s.active = true → s.draining = false →
        (calm l → exec (.collOpen ⟨tag, l⟩) s = .next (s.openTag tag))
        ∧ ((∃ t ∈ s.engineTiles x, sramAt l t = .uncorrectable) → ∃ t, exec (.collOpen ⟨tag, l⟩) s = .next t
            ∧ (t.tagAt tag).st = 6 ∧ (t.tagAt tag).reason = 4))
    ∧ (x.live = true → gNodl d = false →
      (isXa d = false → ∃ t, exec (.collDeadline tag) s = .next t ∧ ends t 5 x.missing.length (x.missing.headD 0) ∧ t.keepsData s)
      ∧ ∀ u, (s.missingMaps tag = (u, true) →
            exec (.collDeadline tag) s = .next (u.endTag tag 5 0 x.missing.length (x.missing.headD 0)))
          ∧ (s.missingMaps tag = (u, false) → exec (.collDeadline tag) s = .next (u.memErr tag)))
    ∧ (x.busy = true → ∃ t, exec (.bkctlAbort tag) s = .next t ∧ ends t 7 0 0 ∧ t.ask .BKCTL tag = none)
    ∧ (x.busy = false → exec (.bkctlAbort tag) s = .next (s.askDone .BKCTL tag))
    ∧ ∀ (n : Nat) (m : InMsg) (l : List (Nat × Sram)), s.nextIn n m → m.kind = kCOLL → m.key.ep = homeEngine tag → s.answers = true →
      let w := leValue (m.data.take 8)
      let bs := m.data.drop 8
      let rank := bits w 23 16
      let ix := bits w 48 25
      let r := if bits w 15 12 = 4 ∧ bit w 48 = false then exec (.rerunRequest ⟨n, l⟩) s else exec (.collFragment ⟨n, l⟩) s
      w % 2 ^ 12 = tag → bits w 15 12 < 5 → w / 2 ^ 57 = 0 → 8 ≤ m.data.length →
      (x.fragFate (bits w 56 49) = 2 → ∃ t, r = .next t ∧ t.tags = s.tags ∧ t.keepsData (s.bump F.CESTRAY_COUNT (tag / 1024) 1)
          ∧ t.fab.inbox = s.fab.inbox.eraseIdx n)
      ∧ (x.fragFate (bits w 56 49) = 1 → s.freeSeq { m.key with cls := 1 } → ∃ t, r = .next t ∧ t.tags = s.tags
          ∧ t.keeps { m.key with cls := 1 } kRETRY m.tag (leBytes 8 (s.get F.RMCTL_HINT 0))
          ∧ t.fab.inbox = s.fab.inbox.eraseIdx n)
      ∧ (x.fragFate (bits w 56 49) = 0 → (∃ t ∈ s.engineTiles x, sramAt l t = .uncorrectable) → ∃ t, r = .next t
          ∧ (t.tagAt tag).st = 6 ∧ (t.tagAt tag).reason = 4)
      ∧ (bits w 15 12 = 4 → bit w 48 = false → x.fragFate (bits w 56 49) = 0 → calm l →
          exec (.rerunRequest ⟨n, l⟩) s = .next ((s.dropIn n).answerRerun tag rank (bits w 47 25) bs))
      ∧ (bits w 15 12 ≠ 4 ∨ bit w 48 = true → x.fragFate (bits w 56 49) = 0 → calm l →
          exec (.collFragment ⟨n, l⟩) s = .next ((s.dropIn n).applyFrag tag rank (bits w 15 12) ix bs (bit w 24)))
      ∧ (bcast → calm l → x.fragFate (bits w 56 49) = 0 → bits w 15 12 = 0 → rank = gOwner d → x.st = 2 →
          x.arrived = [(gMe d, x.backup)] → x.asked = [] → x.wait = 0 → x.frags = [] → gCount d ≤ 248 → ix = 0 → bs.length = gCount d →
          ∀ t2 b, s.form (gDst d) = some (.tile t2 b) → s.tileFenced t2 = false →
            ∃ t, r = .next t ∧ ends t 4 0 0 ∧ t.regs = s.regs ∧ t.mem = s.mem
              ∧ t.storesLocal s t2 b (gCount d) (fun i => bs[i]?))

/-- R319 to R322: the dumbwaiter. A flit an open operation waits for gives its value to the combination; one that is early waits in the
store of 64; a stale one is counted, and one that was taken before makes the engine send its own flit to that partner again. A partner that is late is sent the last flit again, and after the eighth time the operation ends
FAILED with DWTIMEOUT. A held flit that is over its time is counted, and the sent flits are dropped in the end. -/
def Obligations.Dumbwaiter : Prop :=
  ∀ (tag : Nat) (s : State), tag < 4096 →
    let x := s.tagAt tag
    let d := x.desc
    (∀ (n : Nat) (f : Flit), s.fab.dwIn[n]? = some f →
      let u := s.setFab { s.fab with dwIn := s.fab.dwIn.eraseIdx n }
      let age := (f.tag + 256 - gGen d) % 256
      (s.dwTag f.dep f.resv f.tag = none →
        (s.dwHeld.filter fun g => decide (g.dep = f.dep)).length < 64 →
          exec (.dwFlitReceived n) s = .next { u with dwHeld := s.dwHeld ++ [f] })
      ∧ (s.dwTag f.dep f.resv f.tag = some tag → 128 ≤ age → f.dep = homeEngine tag →
          exec (.dwFlitReceived n) s = .next (u.bump F.CESTRAY_COUNT (tag / 1024) 1))
      ∧ (s.dwTag f.dep f.resv f.tag = some tag → 0 < age → age < 128 →
          (s.dwHeld.filter fun g => decide (g.dep = f.dep)).length < 64 →
          exec (.dwFlitReceived n) s = .next { u with dwHeld := s.dwHeld ++ [f] })
      ∧ (s.dwTag f.dep f.resv f.tag = some tag → age = 0 → x.dwWants f = true →
          exec (.dwFlitReceived n) s = .next ((u.dwTake tag f).dwSettle tag)
          ∧ ∀ step send r, (dwSteps d)[x.step]? = some (step, send, some r) → s.dwHeld = [] →
            let v := if step = 7 then f.data else dwCombine (gOp d) x.value f.data
            (∀ st2 send2 r2, (dwSteps d)[x.step + 1]? = some (st2, send2, some r2) →
              ∃ t, exec (.dwFlitReceived n) s = .next t ∧ (t.tagAt tag).value = v ∧ (t.tagAt tag).step = x.step + 1
                ∧ (t.tagAt tag).st = 2 ∧ (∀ k, k ≠ tag → t.tagAt k = s.tagAt k) ∧ t.keepsData s)
            ∧ ((dwSteps d)[x.step + 1]? = none → ∀ t2 b, s.form (gDst d) = some (.tile t2 b) → s.tileFenced t2 = false → 0 < gCount d →
              ∃ t, exec (.dwFlitReceived n) s = .next t ∧ (t.tagAt tag).st = 4 ∧ (∀ k, k ≠ tag → t.tagAt k = s.tagAt k)
                ∧ t.regs = s.regs ∧ t.mem = s.mem ∧ t.storesLocal s t2 b v.length (fun i => v[i]?)))
      ∧ (s.dwTag f.dep f.resv f.tag = some tag → age = 0 → x.dwWants f = false →
          4 ≤ x.st ∨ (∃ e ∈ (dwSteps d).take x.step, f.resv = gResv d + e.1) →
          ∀ r e, (List.range (gN d)).find? (fun r => decide (x.primary r = f.sdev)) = some r →
            x.dwSent.find? (fun e => decide (e.1 = r)) = some e →
            ∃ t, exec (.dwFlitReceived n) s = .next t ∧ t.tags = s.tags ∧ t.keepsData s
              ∧ t.fab.waiting = s.fab.waiting ++ [(homeEngine tag / 16, e.2)]))
    ∧ (∀ (n : Nat) (f : Flit), s.dwHeld[n]? = some f → f.dep = homeEngine tag →
        exec (.dwHoldExpiry n) s = .next (State.bump { s with dwHeld := s.dwHeld.eraseIdx n } F.CESTRAY_COUNT (tag / 1024) 1))
    ∧ (∀ step send r, isDw d = true → x.st = 2 → (dwSteps d)[x.step]? = some (step, send, some r) →
        (x.tries < 8 → ∀ e, x.dwSent.find? (fun e => decide (e.1 = r)) = some e →
          ∃ t, exec (.dwPartnerTimeout tag) s = .next t ∧ t.tagAt tag = { x with tries := x.tries + 1 }
            ∧ (∀ k, k ≠ tag → t.tagAt k = s.tagAt k) ∧ t.fab.waiting = s.fab.waiting ++ [(homeEngine tag / 16, e.2)]
            ∧ t.keepsData s)
        ∧ (8 ≤ x.tries → ∃ t, exec (.dwPartnerTimeout tag) s = .next t ∧ (t.tagAt tag).st = 6 ∧ (t.tagAt tag).reason = 3
            ∧ (t.tagAt tag).miss = r ∧ (∀ k, k ≠ tag → t.tagAt k = s.tagAt k) ∧ t.keepsData s))
    ∧ (isDw d = true → 4 ≤ x.st → ∃ t, exec (.dwSentFlitRelease tag) s = .next t ∧ t.tagAt tag = { x with dwSent := [] }
        ∧ (∀ k, k ≠ tag → t.tagAt k = s.tagAt k) ∧ { t with tags := s.tags } = s)
    ∧ (∀ n, 1 ≤ n → n ≤ 64 → dwP n ≤ n ∧ n < 2 * dwP n)
    ∧ ∀ (a b : List Byte), a.length % 8 = 0 → b.length = a.length →
        lanesOf 8 (dwCombine 0x10 a b) = List.zipWith (fun x y => (x + y) % 2 ^ 64) (lanesOf 8 a) (lanesOf 8 b)
        ∧ lanesOf 8 (dwCombine 0x11 a b) = List.zipWith (fun x y => if sext 64 y < sext 64 x then y else x) (lanesOf 8 a) (lanesOf 8 b)
        ∧ lanesOf 8 (dwCombine 0x12 a b) = List.zipWith (fun x y => if sext 64 x < sext 64 y then y else x) (lanesOf 8 a) (lanesOf 8 b)
        ∧ dwCombine 0x13 a b = List.zipWith (fun x y => x ||| y) a b

/-! ## The fabric (chapter 9) -/

/-- R251, R252, R254 to R256: placement by deflection. A flit is ejected at its own router while its endpoint accepts it, else it leaves on a
free productive output, else on any free output (a deflection); a router carries one transit flit of a class for which nothing is free, and an
edge switch drops it; no flit departs beyond the hop budget. ROUTER_PLACEMENT is one FCLK of all routers; EDGE_SWITCH_PLACEMENT sends one block
of eight flits from every up port whose replay buffer has room, with its trailer and on its lanes as `Link.transmit` says. That a second carried
flit is dropped, and the BSEQ of the EMPTY block that a port with 64 unacknowledged blocks sends, are the model's choices (log 58). -/
def Obligations.FabricPlacement : Prop :=
  (∀ (p : Placing) (r : Nat) (came : Came) (f : Flit), f.malformed = true → p.place r came f = { p with s := p.s.dropFlit r 4 f })
  ∧ (∀ (p : Placing) (r : Nat) (came : Came) (f : Flit), f.malformed = false →
     let q := p.place r came f
     let g := { f with hops := if came = .here then 0 else f.hops + 1,
                       epoch := if came = .here then p.s.get F.RTEPOCH_CUR 0 else f.epoch }
     let home := p.s.isOwn f.ddev = true ∧ f.dep / 16 = r
     let taken := 0 < p.eject ∧ p.s.fab.accepts f = true
     let transit := ¬ home ∨ endpointOk f.dep = true ∧ p.s.aliasOk f = true ∧ came = .mesh ∧ ¬ taken
     let budget := p.s.get F.FABCTL_HOPBUDGET 0
     (home → endpointOk f.dep = false ∨ p.s.aliasOk f = false → q = { p with s := p.s.dropFlit r 4 f })
     ∧ (home → endpointOk f.dep = true → p.s.aliasOk f = true → ¬ taken → came ≠ .mesh → q = { p with waits := p.waits ++ [f] })
     ∧ (home → endpointOk f.dep = true → p.s.aliasOk f = true → taken →
         q = { p with eject := p.eject - 1, s := p.s.setFab { p.s.fab with landed := p.s.fab.landed ++ [f] } })
     ∧ (transit → budget < g.hops → q = { p with s := p.s.dropFlit r 1 g })
     ∧ (transit → g.hops ≤ budget → p.s.productive r g = none → q = { p with s := p.s.dropFlit r 2 g })
     ∧ (∀ outs, transit → g.hops ≤ budget → p.s.productive r g = some outs →
         ((∃ o ∈ outs, 0 < p.free.getD o.1 0) → ∃ o ∈ outs, 0 < p.free.getD o.1 0 ∧ q = p.send o.1 g
           ∧ ∀ x ∈ outs, 0 < p.free.getD x.1 0 → outScore x ≤ outScore o)
         ∧ ((∀ o ∈ outs, p.free.getD o.1 0 = 0) → (∃ o, o < 4 ∧ 0 < p.free.getD o 0) →
             ∃ o, o < 4 ∧ 0 < p.free.getD o 0 ∧ (∀ x, x < o → p.free.getD x 0 = 0)
               ∧ q = Placing.send { p with s := p.s.bump F.FCOUNT_COUNT 0 1 } o g)
         ∧ ((∀ o, p.free.getD o 0 = 0) →
             q = if came = .mesh then
                   if p.carried = [] then { p with carried := [g], s := p.s.bump F.FCOUNT_COUNT 1 1 }
                   else { p with s := p.s.dropFlit r 3 g }
                 else { p with waits := p.waits ++ [f] })))
  ∧ (∀ (r o m : Nat) (g : Flit) (s : State), r < 64 → neighbour r o = some m →
      m < 64 ∧ neighbour m (facing o) = some r ∧ ((s.arriveFlit r (o, g)).router m).arrived = (s.router m).arrived ++ [(facing o, g)])
  ∧ (∀ (hits : List (Nat × Nat × Bool)) (s : State), s.fabricOn = true →
      ∃ t, exec (.routerPlacement hits) s = .next t ∧ t.onlyFabric s ∧ t.fab.tick = s.fab.tick + 1 ∧ t.fab.links = s.fab.links
        ∧ t.fab.out = s.fab.out ∧ t.fab.ins = s.fab.ins ∧ t.fab.inbox = s.fab.inbox ∧ s.fab.landed <+: t.fab.landed)
  ∧ (∀ (n : Nat) (f : Flit) (s : State), f.malformed = false →
      let g := { f with hops := f.hops + 1 }
      let budget := s.get F.FABCTL_HOPBUDGET 0
      let queued := fun (u : State) (k : Nat) => u.setEdge n { s.edge n with queues := (s.edge n).queues ++ [(k, g)] }
      (budget < g.hops → s.placeEdge n f = s.dropFlit (64 + n) 1 g)
      ∧ (g.hops ≤ budget → s.edgeProductive n g = none → s.placeEdge n f = s.dropFlit (64 + n) 2 g)
      ∧ ∀ outs, g.hops ≤ budget → s.edgeProductive n g = some outs →
          ((∃ k ∈ outs, s.queueOpen n k g.cls = true) →
            ∃ k ∈ outs, s.queueOpen n k g.cls = true ∧ s.placeEdge n f = queued s k)
          ∧ ((∀ k ∈ outs, s.queueOpen n k g.cls = false) → (∃ k ∈ s.deflections n g, s.queueOpen n k g.cls = true) →
              ∃ k ∈ s.deflections n g, s.queueOpen n k g.cls = true ∧ s.placeEdge n f = queued (s.bump F.FCOUNT_COUNT 0 1) k)
          ∧ ((∀ k, k ∈ outs ∨ k ∈ s.deflections n g → s.queueOpen n k g.cls = false) → s.placeEdge n f = s.dropFlit (64 + n) 3 g))
  ∧ (∀ (s : State), s.fabricOn = false → (∀ hits, exec (.routerPlacement hits) s = .next s)
      ∧ ∀ n hits, n < 4 → exec (.edgeSwitchPlacement n hits) s = .next s)
  ∧ ∀ (n : Nat) (hits : List (Nat × Bool)) (s : State), n < 4 → s.fabricOn = true →
      ∃ t, exec (.edgeSwitchPlacement n hits) s = .next t ∧ t.onlyFabric s ∧ (t.edge n).arrived = []
        ∧ t.fab.out = s.fab.out ∧ t.fab.ins = s.fab.ins ∧ t.fab.inbox = s.fab.inbox ∧ t.fab.landed = s.fab.landed
        ∧ (∀ k, k < 12 → s.localUp n k = true → (s.link n k).kept.length < 64 → ∃ fs : List Flit, fs.length = 8
            ∧ t.link n k = { (s.link n k).transmit (s.laneList n k).length [⟨(s.link n k).next, fs⟩] with
                next := ((s.link n k).next + 1) % 256, kept := (s.link n k).kept ++ [⟨(s.link n k).next, fs⟩] })
        ∧ (∀ k, k < 12 → s.localUp n k = true → 64 ≤ (s.link n k).kept.length → ∃ x, x < 256
            ∧ t.link n k = (s.link n k).transmit (s.laneList n k).length [⟨x, List.replicate 8 Flit.empty⟩])
        ∧ ∀ k, k < 12 → s.localUp n k = false → t.link n k = s.link n k

/-- R258 to R264: end-to-end delivery. A destination delivers each message of a stream once and in SEQ order, discards a duplicate, and refuses a
message of an unknown stream that does not open it. It acknowledges the last delivered SEQ, which frees the covered messages at their source.
A NACK or an expiry re-sends; the oldest message fails, with every later one of its stream, when it has been re-sent RESENDMAX times. A module
that answers nothing (R357) delivers and acknowledges nothing but what its edge interfaces take. -/
def Obligations.StreamDelivery : Prop :=
  (∀ (n : Nat) (f : Flit) (s : State), s.fab.landed[n]? = some f → f.kind ≠ kACK → f.kind ≠ kNACK → s.answers = false → f.dep % 16 ≠ 7 →
     exec (.messageDelivery n) s = .next s)
  ∧ (∀ (n : Nat) (f : Flit) (s : State), s.fab.landed[n]? = some f → f.kind ≠ kACK → f.kind ≠ kNACK → s.answers = true ∨ f.dep % 16 = 7 →
     f.seq < 65536 →
     let m : InMsg := ⟨f.stream, f.ddev, f.kind, f.tag, f.hint, f.data, false⟩
     let landed := s.fab.landed.eraseIdx n
     let u := (s.setFab { s.fab with landed := landed }).takeAck f
     (f.ack = none → u = s.setFab { s.fab with landed := landed })
     ∧ ∃ t, exec (.messageDelivery n) s = .next t ∧ t.onlyFabric u ∧ t.fab.landed = landed ∧ t.fab.out = u.fab.out
       ∧ t.fab.links = s.fab.links ∧ t.fab.routers = s.fab.routers ∧ t.fab.edges = s.fab.edges
       ∧ (∀ i, u.fab.ins.find? (fun j => decide (j.key = f.stream)) = some i → i.next < 65536 →
           (∃ ms : List InMsg, t.fab.inbox = s.fab.inbox ++ ms ∧ (∀ x ∈ ms, x.key = i.key)
             ∧ ∃ j ∈ t.fab.ins, j.key = f.stream ∧ j.next = (i.next + ms.length) % 65536)
           ∧ (f.seq = i.next → f.fcnt = 0 → f.fidx = 0 → i.store = [] → t.fab.inbox = s.fab.inbox ++ [m])
           ∧ ((i.next + 65535 - f.seq) % 65536 < 32768 → t.fab.inbox = s.fab.inbox ∧ (f.fidx = f.fcnt →
               t.get F.FCOUNT_COUNT 10 = min (2 ^ 64 - 1) (s.get F.FCOUNT_COUNT 10 + 1))))
       ∧ (u.fab.ins.find? (fun j => decide (j.key = f.stream)) = none →
           (f.syn = true → (u.fab.ins.filter fun i => decide (i.key.ep = f.dep)).length < 16384 → f.fcnt = 0 → f.fidx = 0 →
             t.fab.inbox = s.fab.inbox ++ [m] ∧ t.fab.ins = u.fab.ins ++ [⟨f.stream, (f.seq + 1) % 65536, 1, []⟩])
           ∧ (f.syn = false ∨ 16384 ≤ (u.fab.ins.filter fun i => decide (i.key.ep = f.dep)).length →
               (f.fidx ≠ 0 → t = u)
               ∧ (f.fidx = 0 → t.fab.inbox = s.fab.inbox ∧ t.fab.ins = u.fab.ins ∧ ∃ g : Flit,
                 t.fab.waiting = u.fab.waiting ++ [(f.dep / 16, g)] ∧ g.kind = kNACK ∧ g.cls = 1 ∧ g.dep = f.sep ∧ g.ddev = f.sdev
                 ∧ g.data = leBytes 2 f.seq ++ leBytes 1 f.cls ++ leBytes 1 (if f.syn = false then 7 else 8) ++ leBytes 2 f.dep
                     ++ leBytes 1 f.ddev ++ leBytes 1 f.tag))))
  ∧ (∀ (k : StreamKey) (s : State), s.takes k.ep = false → exec (.ackSend k) s = .next s)
  ∧ (∀ (k : StreamKey) (i : InStream) (s : State), s.takes k.ep = true →
      s.fab.ins.find? (fun i => decide (i.key = k) && decide (0 < i.due)) = some i →
      ∃ (t : State) (a : Flit), exec (.ackSend k) s = .next t ∧ { t with fab := s.fab } = s
        ∧ t.fab = { s.fab with waiting := s.fab.waiting ++ [(k.ep / 16, a)],
                               ins := s.fab.ins.map fun j => if j.key = k then { j with due := 0 } else j }
        ∧ a.kind = kACK ∧ a.cls = 1 ∧ a.seq = 0 ∧ a.data = [] ∧ a.dep = k.far ∧ a.ddev = k.dev
        ∧ a.ack = some (k.cls, (i.next + 65535) % 65536))
  ∧ (∀ (n : Nat) (f : Flit) (c q : Nat) (s : State), s.fab.landed[n]? = some f → f.kind = kACK → f.ack = some (c, q) →
      let k : StreamKey := ⟨f.dep, f.sdev, f.sep, c⟩
      let kept := s.fab.out.filter fun m => decide (m.key ≠ k) || !m.sent || decide (32768 ≤ (q + 65536 - m.seq) % 65536)
      let freed := { s.fab with landed := s.fab.landed.eraseIdx n, out := kept }
      exec (.ackReceived n) s = .next ((s.setFab freed).pump k)
      ∧ ((∀ m ∈ s.fab.out, m.key = k → m.sent = true) → exec (.ackReceived n) s = .next (s.setFab freed)))
  ∧ (∀ (k : StreamKey) (m : OutMsg) (s : State), s.fab.oldest k = some m →
      let max := s.get F.FABCTL_RESENDMAX 0
      let m' := { m with resends := m.resends + 1 }
      let later := (s.fab.of k).dropWhile fun x => decide (x.seq ≠ m.seq)
      (m.resends < max → ∃ t ack, exec (.e2etoExpiry k) s = .next t ∧ t.onlyFabric s
        ∧ t.fab.out = (s.fab.out.map fun x => if x.key = k ∧ x.seq = m.seq then m' else x) ∧ t.fab.inbox = s.fab.inbox
        ∧ t.fab.waiting = s.fab.waiting ++ (m'.flits true ack).map (fun g => (k.ep / 16, g))
        ∧ t.get F.FCOUNT_COUNT 9 = min (2 ^ 64 - 1) (s.get F.FCOUNT_COUNT 9 + 1))
      ∧ (max ≤ m.resends → exec (.e2etoExpiry k) s = .next (s.failStream k m.seq))
      ∧ (max ≤ m.resends → k.cls = 1 → (∀ x ∈ later, x.rop = none ∧ x.kind ≠ kCOLL) →
          ∃ t, exec (.e2etoExpiry k) s = .next t ∧ t.onlyFabric s ∧ t.fab.out = s.fab.out.filter (fun x => !later.contains x)
            ∧ (t.fab.outStream k).fresh = true ∧ (t.fab.outStream k).next = (s.fab.outStream k).next
            ∧ t.get F.FCOUNT_COUNT 11 = min (2 ^ 64 - 1) (s.get F.FCOUNT_COUNT 11 + later.length)))
  ∧ (∀ (n : Nat) (f : Flit) (m : OutMsg) (s : State), s.fab.landed[n]? = some f → f.kind = kNACK →
      let v := leValue f.data
      let k : StreamKey := ⟨f.dep, bits v 55 48, bits v 41 32, bits v 17 16⟩
      let u := s.setFab { s.fab with landed := s.fab.landed.eraseIdx n }
      (bits v 31 24 = 4 → (s.fab.of k).find? (fun x => x.sent && decide (x.seq = bits v 15 0)) = some m →
        exec (.nack n) s = .next (u.failStream k m.seq))
      ∧ (bits v 31 24 < 4 → (s.fab.of k).find? (fun x => x.sent && decide (x.seq = bits v 15 0)) = some m →
          let first := s.fab.oldest k = some m
          let m' := { m with resends := if s.fab.oldest k = some m then m.resends + 1 else m.resends }
          (first → s.get F.FABCTL_RESENDMAX 0 ≤ m.resends → exec (.nack n) s = .next (u.failStream k m.seq))
          ∧ ((first → m.resends < s.get F.FABCTL_RESENDMAX 0) →
              ∃ t ack, exec (.nack n) s = .next t ∧ t.onlyFabric s ∧ t.fab.inbox = s.fab.inbox
                ∧ t.fab.out = (s.fab.out.map fun x => if x.key = k ∧ x.seq = m.seq then m' else x)
                ∧ t.fab.waiting = s.fab.waiting ++ (m'.flits true ack).map (fun g => (k.ep / 16, g))))
      ∧ (bits v 31 24 = 7 ∨ bits v 31 24 = 8 → s.fab.oldest k = some m →
          let m' := { m with resends := m.resends + 1, syn := m.syn || decide (bits v 31 24 = 7) }
          (s.get F.FABCTL_RESENDMAX 0 ≤ m.resends → exec (.nack n) s = .next (u.failStream k m.seq))
          ∧ (m.resends < s.get F.FABCTL_RESENDMAX 0 → ∃ t ack, exec (.nack n) s = .next t ∧ t.onlyFabric s ∧ t.fab.inbox = s.fab.inbox
            ∧ t.fab.out = (s.fab.out.map fun x => if x.key = k ∧ x.seq = m.seq then m' else x)
            ∧ t.fab.waiting = s.fab.waiting ++ (m'.flits true ack).map (fun g => (k.ep / 16, g)))))
  ∧ ∀ (k : StreamKey) (s : State), ∃ t, exec (.streamForget k) s = .next t ∧ { t with fab := s.fab } = s
      ∧ { t.fab with ins := s.fab.ins } = s.fab
      ∧ t.fab.ins = s.fab.ins.filter fun i => decide (i.key ≠ k) || !i.store.isEmpty

/-- R243, R246, Tables 9-2 to 9-4, with the rules' own examples: a flit's 48 bytes and a block's 392 bytes say all its fields, and nothing
is lost between writing and reading them; the CRC-32 of "123456789" is 0xCBF43926. -/
def Obligations.FlitEncoding : Prop :=
  (∀ f : Flit, f.resv < 2 ^ 16 → f.hint < 8 → f.sep < 1024 → f.dep < 1024 → f.sdev < 256 → f.ddev < 256 → f.kind < 32 → f.cls < 4 →
     f.epoch < 2 → f.hops < 256 → f.data.length ≤ 32 → f.tag < 256 → f.fcnt < 8 → f.fidx < 8 → f.seq < 65536 →
     (∀ c n, f.ack = some (c, n) → c < 2 ∧ n < 65536) → f.bytes.length = 48 ∧ Flit.ofBytes f.bytes = f)
  ∧ (∀ (b : Block) (back : Nat) (nak : Bool), b.bseq < 256 → back < 256 → b.flits.length = 8 →
      (∀ f ∈ b.flits, f.bytes.length = 48 ∧ Flit.ofBytes f.bytes = f) →
      (b.bytes back nak).length = 392 ∧ BlockIn.ofBytes (b.bytes back nak) = ⟨true, b.bseq, back, nak, b.flits⟩)
  ∧ crc32 ([0x31, 0x32, 0x33, 0x34, 0x35, 0x36, 0x37, 0x38, 0x39] : List Byte) = 0xCBF43926
  ∧ (∀ k c, kindClass k = some c → k < 32 ∧ c < 3 ∧ ∀ f : Flit, f.kind = k → f.cls ≠ c → f.malformed = true)
  ∧ ∀ f : Flit, f.kind = 0 ∨ f.kind = 6 ∨ f.kind = 7 ∨ f.kind = 15 ∨ (16 < f.kind ∧ f.kind < 24) → f.malformed = true

/-- R247, R248, R269: the link layer. A good block with the BSEQ expected next is taken: its BACK frees the kept blocks up to it and its flits go
to the edge switch; any other block is discarded, counted and answered with NAK. A NAK or a timeout sends every kept block again, the first with
a due NAK, and the 16th replay without an advance of BACK begins a retrain. A flip of
the routing-table epoch takes effect at once, and its hold refuses another. -/
def Obligations.LinkLayer : Prop :=
  (∀ (n k : Nat) (bytes : List Byte) (s : State), n < 4 → k < 12 → s.fabricOn = true → s.localUp n k = true →
     let b := BlockIn.ofBytes bytes
     let l := s.link n k
     (b.good = true → b.bseq = l.expect → ∃ t, exec (.linkBlockReceived n k bytes) s = .next t ∧ { t with fab := s.fab } = s
       ∧ { t.fab with links := s.fab.links, edges := s.fab.edges } = s.fab
       ∧ (t.link n k).expect = (l.expect + 1) % 256 ∧ (t.link n k).nak = false ∧ (t.link n k).asked = (l.asked || b.nak)
       ∧ (t.link n k).next = l.next
       ∧ (∀ i x, l.kept[i]? = some x → x.bseq = b.back → (∀ j y, j < i → l.kept[j]? = some y → y.bseq ≠ b.back) →
           (t.link n k).kept = l.kept.drop (i + 1) ∧ (t.link n k).replays = 0)
       ∧ ((∀ x ∈ l.kept, x.bseq ≠ b.back) → (t.link n k).kept = l.kept ∧ (t.link n k).replays = l.replays)
       ∧ (∀ m j, (m, j) ≠ (n, k) → m < 4 → j < 12 → t.link m j = s.link m j)
       ∧ (∀ m, m ≠ n → t.edge m = s.edge m)
       ∧ t.edge n = { s.edge n with arrived := (s.edge n).arrived
           ++ (b.flits.filter fun f => decide (f.kind ≠ 0)).map fun f => (k, f) })
     ∧ (b.good = false ∨ b.bseq ≠ l.expect → ∃ t, exec (.linkBlockReceived n k bytes) s = .next t
       ∧ { t with fab := s.fab, regs := s.regs } = s ∧ { t.fab with links := s.fab.links } = s.fab
       ∧ t.link n k = { l with nak := true } ∧ (∀ m j, (m, j) ≠ (n, k) → m < 4 → j < 12 → t.link m j = s.link m j)
       ∧ t.get F.FREPLAY_BADBLK (s.rolePort n k) = min (2 ^ 32 - 1) (s.get F.FREPLAY_BADBLK (s.rolePort n k) + 1)
       ∧ ∀ r i, i < 2 ^ 24 → (r, i) ≠ (.FREPLAY, s.rolePort n k) → t.reg r i = s.reg r i))
  ∧ (∀ (n k : Nat) (s : State), n < 4 → k < 12 → s.localUp n k = true →
      let p := s.rolePort n k
      let l := s.link n k
      let replays := fun (t : State) =>
        { t.fab with links := s.fab.links } = s.fab
        ∧ t.link n k = { l.transmit (s.laneList n k).length l.kept with asked := false, replays := l.replays + 1 }
        ∧ (∀ m j, (m, j) ≠ (n, k) → m < 4 → j < 12 → t.link m j = s.link m j)
        ∧ t.get F.FREPLAY_REPLAY p = min (2 ^ 32 - 1) (s.get F.FREPLAY_REPLAY p + 1)
        ∧ (min (2 ^ 32 - 1) (s.get F.FREPLAY_REPLAY p + 1) % 256 ≠ 0 → { t with fab := s.fab, regs := s.regs } = s)
      (l.asked = true → l.replays < 15 → ∃ t, exec (.nakReplay n k) s = .next t ∧ replays t)
      ∧ (l.kept ≠ [] → l.replays < 15 → ∃ t, exec (.replayTimeout n k) s = .next t ∧ replays t)
      ∧ (l.asked = true → 15 ≤ l.replays → exec (.nakReplay n k) s = .next ((s.replay n k).beginRetrain n k))
      ∧ (l.kept ≠ [] → 15 ≤ l.replays → exec (.replayTimeout n k) s = .next ((s.replay n k).beginRetrain n k))
      ∧ (l.asked = false → exec (.nakReplay n k) s = .next s) ∧ (l.kept = [] → exec (.replayTimeout n k) s = .next s))
  ∧ (∀ s : State, s.get F.RTEPOCH_PENDING 0 = 1 → ∃ t, exec .rtepochFlip s = .next t ∧ { t with regs := s.regs } = s
      ∧ t.get F.RTEPOCH_CUR 0 = 1 - s.get F.RTEPOCH_CUR 0 ∧ t.get F.RTEPOCH_PENDING 0 = 0 ∧ t.get F.RTEPOCH_HOLD 0 = 1
      ∧ t.get F.RTEPOCH_EPBUSY 0 = s.get F.RTEPOCH_EPBUSY 0
      ∧ (∀ r i, i < 2 ^ 24 → (r, i) ≠ (.RTEPOCH, 0) → t.reg r i = s.reg r i)
      ∧ (t.requestFlip).get F.RTEPOCH_EPBUSY 0 = 1 ∧ (t.requestFlip).get F.RTEPOCH_CUR 0 = t.get F.RTEPOCH_CUR 0
      ∧ (t.requestFlip).get F.RTEPOCH_PENDING 0 = 0)
  ∧ ∀ s : State, ∃ t, exec .epochHoldEnd s = .next t ∧ { t with regs := s.regs } = s ∧ t.get F.RTEPOCH_HOLD 0 = 0
      ∧ t.get F.RTEPOCH_CUR 0 = s.get F.RTEPOCH_CUR 0 ∧ t.get F.RTEPOCH_PENDING 0 = s.get F.RTEPOCH_PENDING 0
      ∧ ∀ r i, i < 2 ^ 24 → (r, i) ≠ (.RTEPOCH, 0) → t.reg r i = s.reg r i

/-! ## Optical ports and wiring plans (chapter 10) -/

/-- R275, R278, R280, R282: what a receiver makes of a training frame, and the frame the module sends meanwhile. A frame with a wrong CRC changes
nothing more; RSTAT's RXUP verifies the transmit ring, WRONG sweeps it, RETIRED retires the slot; a frame of another slot starts a lock attempt;
one of an unexpected sender marks the lane MISWIRED; a right one verifies the receive ring, and the lane is UP, or DARK without a bundle, once
both rings are locked. After a third attempt without success the slot is retired. A ring's loss or failure takes its lane down. -/
def Obligations.TrainingAndLocks : Prop :=
  ∀ (p k : Nat) (s : State), p < 48 → k < 16 →
    let i := laneIx p k
    (∀ frame : List Byte,
       let b := fun j => (frame.getD j 0).toNat
       let good := frameCrc ((frame.drop 64).take 78) = b 142 + 256 * b 143
       let retired := (b 70).testBit 2 = true ∧ s.lstate p k ≠ 3
       let wrong := (b 70).testBit 1 = true ∧ s.lstate p k ≠ 3 ∧ s.lstate p k ≠ 4
       let now := if retired then 3 else if wrong then 1 else s.lstate p k
       let txOk := ¬ wrong ∧ ∃ r, s.ringOf p k false = some r ∧ (s.get F.RINGSTAT_LOCK (ringIx p r) = 4
         ∨ (b 70).testBit 0 = true ∧ 1 ≤ s.get F.RINGSTAT_LOCK (ringIx p r) ∧ s.get F.RINGSTAT_LOCK (ringIx p r) ≤ 3)
       (s.lit p k = false → exec (.trainingFrame p k frame) s = .next s)
       ∧ (s.lit p k = true → ¬ good → exec (.trainingFrame p k frame) s = .next (s.sendFrame p k))
       ∧ (p ∉ s.shut → ∃ n, { s.sendFrame p k with free := s.free }
             = { s with sfcnt := SMap.set 0 s.sfcnt p (n % 2 ^ 64), frames := (s.sendFrame p k).frames }
           ∧ SMap.get [] (s.sendFrame p k).frames i
             = State.frameOut { s with sfcnt := SMap.set 0 s.sfcnt p (n % 2 ^ 64) } p k)
       ∧ (p ∈ s.shut → s.sendFrame p k = s)
       ∧ (s.lit p k = true → good → ∃ t, exec (.trainingFrame p k frame) s = .next t ∧ t.onlyOptics s
           ∧ t.frames = (s.sendFrame p k).frames ∧ t.sfcnt = (s.sendFrame p k).sfcnt
           ∧ t.get F.LANESTAT_PEERDEV i = b 64 ∧ t.get F.LANESTAT_PEERPORT i = b 65 % 64
           ∧ (retired → (t.rxLane p k).txRetired = true ∧ t.counted s F.PCOUNT_COUNT (6 * p + 3))
           ∧ (now = 3 ∨ now = 4 → t.lstate p k = now)
           ∧ (now ≠ 3 → now ≠ 4 →
             (b 66 % 16 ≠ k → (s.rxLane p k).attempt = true → t.lstate p k = now ∧ (t.rxLane p k).attempt = true)
             ∧ (b 66 % 16 ≠ k → (s.rxLane p k).attempt = false → t.lstate p k = 1 ∧ (t.rxLane p k).attempt = true
                 ∧ ∀ r, s.ringOf p k true = some r → t.get F.RINGSTAT_LOCK (ringIx p r) = 1)
             ∧ (b 66 % 16 = k → s.miswired p k (b 64) (b 65 % 64) = true → t.lstate p k = 4 ∧ (t.rxLane p k).attempt = false
                 ∧ (s.hearthReady = true → t.logged .laneMiswired p))
             ∧ (b 66 % 16 = k → s.miswired p k (b 64) (b 65 % 64) = false →
                 t.get F.LANESTAT_ATTEMPTS i = 0 ∧ (t.rxLane p k).attempt = false ∧ (t.rxLane p k).lidx = b 68 % 64
                 ∧ (t.rxLane p k).width = (b 68 / 64 + 4 * b 69) % 64 + 1
                 ∧ (t.rxLane p k).bundle = b 67 / 16 % 8 ∧ (t.rxLane p k).planv = (b 67).testBit 3
                 ∧ (∀ r, s.ringOf p k true = some r → t.get F.RINGSTAT_LOCK (ringIx p r) = 4)
                 ∧ (now ≤ 1 → txOk → t.lstate p k = if s.isCube p = true ∧ s.bundleOf p k = none then 6 else 2)
                 ∧ (¬ (now ≤ 1 ∧ txOk) → t.lstate p k = now)))))
    ∧ (s.lit p k = true → s.lstate p k ≠ 3 → s.lstate p k ≠ 4 → (s.rxLane p k).attempt = false →
        ∃ t, exec (.verifyTimeout p k) s = .next t ∧ t.onlyOptics s ∧ t.lstate p k = 1 ∧ (t.rxLane p k).attempt = true
          ∧ ∀ r, s.ringOf p k true = some r → t.get F.RINGSTAT_LOCK (ringIx p r) = 1)
    ∧ (s.lit p k = false ∨ s.lstate p k = 3 ∨ s.lstate p k = 4 ∨ (s.rxLane p k).attempt = true → exec (.verifyTimeout p k) s = .next s)
    ∧ ((s.rxLane p k).attempt = false → exec (.lockAttemptTimeout p k) s = .next s)
    ∧ ((s.rxLane p k).attempt = true →
        ∃ t, exec (.lockAttemptTimeout p k) s = .next t ∧ t.onlyOptics s ∧ t.counted s F.PCOUNT_COUNT (6 * p + 2)
          ∧ t.get F.LANESTAT_ATTEMPTS i = min 3 (s.get F.LANESTAT_ATTEMPTS i + 1)
          ∧ (s.get F.LANESTAT_ATTEMPTS i < 2 → t.lstate p k = s.lstate p k ∧ (t.rxLane p k).attempt = true)
          ∧ (2 ≤ s.get F.LANESTAT_ATTEMPTS i → t.lstate p k = 3 ∧ (t.rxLane p k).attempt = false
              ∧ t.counted s F.PCOUNT_COUNT (6 * p + 3) ∧ (s.hearthReady = true → t.logged .laneRetired p)))
    ∧ ∀ r, r < 36 →
        let j := ringIx p r
        let slot := s.get F.RINGSTAT_SLOT j
        (s.get F.RINGSTAT_LOCK j = 4 → ∃ t, exec (.lockLoss p r) s = .next t ∧ t.onlyOptics s
          ∧ t.get F.RINGSTAT_LOCK j = 2 ∧ t.get F.RINGSTAT_SLOT j = slot ∧ t.counted s F.PCOUNT_COUNT (6 * p)
          ∧ (slot < 16 → t.lstate p slot = if s.lstate p slot = 2 ∨ 5 ≤ s.lstate p slot then 0 else s.lstate p slot))
        ∧ (s.get F.RINGSTAT_LOCK j ≠ 4 → exec (.lockLoss p r) s = .next s)
        ∧ (s.get F.RINGSTAT_LOCK j = 6 ∨ s.get F.RINGSTAT_LOCK j = 0 → exec (.ringFailed p r) s = .next s)
        ∧ (s.get F.RINGSTAT_LOCK j ≠ 6 → s.get F.RINGSTAT_LOCK j ≠ 0 → 16 ≤ slot →
          ∃ t, exec (.ringFailed p r) s = .next t ∧ { t with regs := s.regs } = s ∧ t.get F.RINGSTAT_LOCK j = 6
            ∧ t.get F.RINGSTAT_SLOT j = 0x1F ∧ ∀ f x, x < 2 ^ 24 → (f, x) ≠ (.RINGSTAT, j) → t.reg f x = s.reg f x)
        ∧ (s.get F.RINGSTAT_LOCK j ≠ 6 → s.get F.RINGSTAT_LOCK j ≠ 0 → slot < 16 →
          ∃ t, exec (.ringFailed p r) s = .next t ∧ t.onlyOptics s ∧ t.get F.RINGSTAT_LOCK j = 6
            ∧ t.get F.RINGSTAT_SLOT j = 0x1F
            ∧ (∀ q, q = (if r < 18 then 16 else 34) ∨ q = (if r < 18 then 17 else 35)
                  ∧ (s.get F.RINGSTAT_SLOT (ringIx p (q - 1)) ≠ 0x1F ∨ s.get F.RINGSTAT_LOCK (ringIx p (q - 1)) = 6) →
                s.get F.RINGSTAT_SLOT (ringIx p q) = 0x1F → s.get F.RINGSTAT_LOCK (ringIx p q) ≠ 6 →
                t.get F.RINGSTAT_SLOT (ringIx p q) = slot ∧ t.get F.RINGSTAT_LOCK (ringIx p q) = 1
                ∧ t.counted s F.PCOUNT_COUNT (6 * p + 1)
                ∧ t.lstate p slot = if s.lstate p slot = 2 ∨ 5 ≤ s.lstate p slot then 0 else s.lstate p slot)
            ∧ ((∀ q, q < 2 → s.get F.RINGSTAT_SLOT (ringIx p ((if r < 18 then 16 else 34) + q)) ≠ 0x1F
                  ∨ s.get F.RINGSTAT_LOCK (ringIx p ((if r < 18 then 16 else 34) + q)) = 6) →
                t.lstate p slot = 3 ∧ t.counted s F.PCOUNT_COUNT (6 * p + 3)))

/-- R273, R277, R279, R283, R284, R287, R288: the life of a port. A reset sweeps all 36 rings and starts every lane over, and a fixed bundle's link
with them; bring-up ends with the lanes that verified; a retrain ends with the lanes inside the deskew window UP and a replay, and two that fail
in a row reset the port; loss of light blanks it, and light that returns starts it again. Which lanes a retrain finds in the window is free
(log 58). -/
def Obligations.PortLife : Prop :=
  (∀ (p : Nat) (s : State), p < 48 → (s.role p).isSome = true →
     let restarted := fun (t : State) =>
       t.pstate p = 1 ∧ (∀ k, k < 16 → t.lstate p k = 1 ∧ t.rxLane p k = RxLane.reset ∧ t.get F.LANESTAT_ATTEMPTS (laneIx p k) = 0)
       ∧ (∀ r, r < 36 → t.get F.RINGSTAT_SLOT (ringIx p r) = (if r % 18 < 16 then r % 18 else 0x1F)
           ∧ t.get F.RINGSTAT_LOCK (ringIx p r) = 1)
       ∧ t.get F.PORTSTAT_TXSPARE p = 0 ∧ t.get F.PORTSTAT_RXSPARE p = 0 ∧ t.get F.LASERSTAT_EN (dieOfPort p) = 1
       ∧ ∀ k, s.role p = some k → 6 ≤ k → t.link (dieOfPort p) k = Link.reset
     (s.pstate p ≤ 4 → s.fabricOn = true → ∃ t, exec (.portReset p) s = .next t ∧ t.onlyOptics s ∧ restarted t ∧ t.ask .PORTCTL p = none)
     ∧ (5 ≤ s.pstate p ∨ s.fabricOn = false → ∃ t, exec (.portReset p) s = .next t ∧ t.onlyOptics s ∧ t.fab = s.fab ∧ t.rx = s.rx
         ∧ t.ask .PORTCTL p = none ∧ ∀ r i, i < 2 ^ 24 → (r, i) ≠ (.PORTCTL, p) → t.reg r i = s.reg r i)
     ∧ (s.pstate p = 0 → s.fabricOn = true → ∀ up skew, exec (.portBringup p up skew) s = exec (.portBringup p up skew) (s.resetPort p))
     ∧ (3 ≤ s.pstate p ∨ s.fabricOn = false → ∀ up skew, exec (.portBringup p up skew) s = .next s)
     ∧ (1 ≤ s.pstate p → s.pstate p ≤ 2 → s.fabricOn = true → ∀ up skew, ∃ t, exec (.portBringup p up skew) s = .next t ∧ t.onlyOptics s
         ∧ t.fab = s.fab ∧ SMap.get 0 t.sfcnt p = 0
         ∧ (∀ k, k < 16 → t.lstate p k =
             if s.lstate p k = 3 ∨ s.lstate p k = 4 then s.lstate p k
             else if up.testBit k then (if s.isCube p = true ∧ s.bundleOf p k = none then 6 else 2)
             else if skew.testBit k then 5 else s.lstate p k)
         ∧ (∀ k rx r, k < 16 → s.lstate p k ≠ 3 → s.lstate p k ≠ 4 → (up.testBit k || skew.testBit k) = true → s.ringOf p k rx = some r →
             t.get F.RINGSTAT_LOCK (ringIx p r) = 4)
         ∧ (∀ k, k < 16 → (t.get F.PORTSTAT_LANEUP p).testBit k = decide (t.lstate p k = 2))
         ∧ (s.isCube p = true ∨ (∃ k, k < 16 ∧ t.lstate p k = 2) → t.pstate p = 3)
         ∧ (s.isCube p = false → (∀ k, k < 16 → t.lstate p k ≠ 2) → t.pstate p = 0))
     ∧ (s.pstate p ≤ 4 → ∃ t, exec (.lossOfLight p) s = .next t ∧ t.onlyOptics s ∧ t.pstate p = 5
         ∧ t.get F.PORTSTAT_LOS p = 1 ∧ t.counted s F.PCOUNT_COUNT (6 * p + 5)
         ∧ (∀ k, k < 16 → t.get F.LANESTAT_RXPWR (laneIx p k) = 0x80
             ∧ t.lstate p k = if s.lstate p k = 3 ∨ s.lstate p k = 4 then s.lstate p k else 0)
         ∧ ∀ r, r < 36 → t.get F.RINGSTAT_LOCK (ringIx p r) =
             if s.get F.RINGSTAT_LOCK (ringIx p r) = 0 ∨ s.get F.RINGSTAT_LOCK (ringIx p r) = 6
             then s.get F.RINGSTAT_LOCK (ringIx p r) else 5)
     ∧ (s.pstate p = 5 → ∃ t, exec (.probe p true) s = .next t ∧ t.onlyOptics s ∧ t.fab = s.fab ∧ t.pstate p = 6
         ∧ t.get F.LASERSTAT_EN (dieOfPort p) = (if s.get F.LASERSTAT_EN (dieOfPort p) = 0 then 1 else s.get F.LASERSTAT_EN (dieOfPort p)))
     ∧ (s.pstate p = 6 → ∃ t, exec (.probe p false) s = .next t ∧ t.onlyOptics s ∧ t.fab = s.fab ∧ t.pstate p = 5
         ∧ t.get F.LASERSTAT_PROBE (dieOfPort p) = 0)
     ∧ (s.pstate p = 5 ∨ s.pstate p = 6 → ∃ t, exec (.lightReturned p) s = .next t ∧ t.onlyOptics s
         ∧ t.pstate p = 1 ∧ t.get F.PORTSTAT_LOS p = 0 ∧ t.get F.LASERSTAT_EN (dieOfPort p) = 1
         ∧ (s.ringsOff p = true → restarted t)
         ∧ (s.ringsOff p = false → ∀ k, k < 16 → t.lstate p k = if s.lstate p k = 0 then 1 else s.lstate p k)
         ∧ (∀ r, r < 36 → t.get F.RINGSTAT_LOCK (ringIx p r) = if s.get F.RINGSTAT_LOCK (ringIx p r) = 6 then 6 else 1)
         ∧ (s.isCube p = true → t.fab = s.fab)
         ∧ ∀ k, s.role p = some k → 6 ≤ k → t.link (dieOfPort p) k = Link.reset))
  ∧ (∀ (n k : Nat) (s : State), n < 4 → k < 12 →
      let key := 12 * n + k
      let can := if k < 6 then s.localUp n k = true ∨ 6 * n + k ∈ s.training
        else s.pstate (s.rolePort n k) = 3 ∨ s.pstate (s.rolePort n k) = 4
      let l := { s.link n k with replays := 0, pos := 0 }
      let counts := fun (t : State) => ∀ p ∈ s.localPorts n k, t.counted s F.PCOUNT_COUNT (6 * p + 4)
      (¬ can → ∀ ok, exec (.portRetrain n k ok) s = .next s)
      ∧ (can →
        (∃ t x, exec (.portRetrain n k true) s = .next t ∧ t.onlyOptics s ∧ counts t ∧ SMap.get 0 t.retrains key = 0
          ∧ (∀ e ∈ s.places n k, t.lstate e.2.1 e.2.2 =
              if s.lstate e.2.1 e.2.2 = 2 ∨ s.lstate e.2.1 e.2.2 = 5 then (if Nat.testBit x e.1 then 5 else 2) else s.lstate e.2.1 e.2.2)
          ∧ (6 ≤ k → (∃ i, i < 16 ∧ t.lstate (s.rolePort n k) i = 2) → t.pstate (s.rolePort n k) = 3)
          ∧ (6 ≤ k → (∀ i, i < 16 → t.lstate (s.rolePort n k) i ≠ 2) → t.pstate (s.rolePort n k) = 0)
          ∧ (k < 6 → 6 * n + k ∉ t.training)
          ∧ t.link n k = if l.kept = [] then l
              else { l.transmit (t.laneList n k).length l.kept with asked := false, replays := 1 })
        ∧ ∃ t, exec (.portRetrain n k false) s = .next t ∧ t.onlyOptics s ∧ counts t
          ∧ (SMap.get 0 s.retrains key = 0 → t.fab = s.fab ∧ SMap.get 0 t.retrains key = 1 ∧ ∀ p, p < 48 → t.pstate p = s.pstate p)
          ∧ (1 ≤ SMap.get 0 s.retrains key → ∀ p ∈ s.localPorts n k, t.pstate p = 1 ∧ ∀ j, j < 16 → t.lstate p j = 1)))
  ∧ ∀ (n b : Nat) (s : State), n < 4 → b < 6 →
      let cur := s.get F.CPCUR_CUR 0
      let was := (s.get F.CPSTAT_NOTUP 0).testBit (6 * n + b) = true ∧ (s.link n b).kept ≠ []
      cur < 8 → (s.bundleIn cur n b).isSome = true → s.unaffected n b = true → s.bundleReady cur n b = true →
      ∃ t, exec (.bundleUp n b) s = .next t ∧ t.onlyOptics s ∧ t.rx = s.rx
        ∧ (∀ i, i < 24 → (t.get F.CPSTAT_NOTUP 0).testBit i = ((s.get F.CPSTAT_NOTUP 0).testBit i && decide (i ≠ 6 * n + b)))
        ∧ (¬ was → t.fab = s.fab)
        ∧ (was → t.link n b = { (s.link n b).transmit (s.laneList n b).length (s.link n b).kept with
            asked := false, replays := (s.link n b).replays + 1 })

/-- R274, R285, R292 to R294, R297: laser fibres, spares and plan switches. A bright fibre closes three ports; a spare takes the role of its target,
once, and is reset; a request for a plan has its status; an accepted switch leaves unaffected bundles running and ends with the new plan
current. That the arrival of a plan switch names UNIT 0x07FF is the model's choice (log 57). -/
def Obligations.LasersAndPlans : Prop :=
  (∀ (n f : Nat) (s : State), n < 4 → f < 4 →
     let own := fun q => q = portOf n (3 * f) ∨ q = portOf n (3 * f + 1) ∨ q = portOf n (3 * f + 2)
     (∃ t, exec (.laserHigh n f) s = .next t ∧ t.onlyOptics s ∧ t.fab = s.fab
       ∧ (∀ q, q ∈ t.shut ↔ own q ∨ q ∈ s.shut) ∧ (s.hearthReady = true → t.logged .laserHigh (portOf n (3 * f)))
       ∧ ∀ g, g < 4 → (t.get F.LASERSTAT_HIGH n).testBit g = (decide (g = f) || (s.get F.LASERSTAT_HIGH n).testBit g))
     ∧ (∃ t, exec (.laserHighClear n f) s = .next t ∧ t.onlyOptics s ∧ t.fab = s.fab ∧ t.events = s.events
       ∧ (∀ q, q ∈ t.shut ↔ q ∈ s.shut ∧ ¬ own q)
       ∧ ∀ g, g < 4 → (t.get F.LASERSTAT_HIGH n).testBit g = (decide (g ≠ f) && (s.get F.LASERSTAT_HIGH n).testBit g))
     ∧ ∀ low, ∃ t, exec (.laserLow n f low) s = .next t ∧ t.onlyOptics s ∧ t.fab = s.fab ∧ t.shut = s.shut
       ∧ (low = true → s.hearthReady = true → t.logged .laserLow (portOf n (3 * f)))
       ∧ ∀ g, g < 4 → (t.get F.LASERSTAT_LOW n).testBit g = if g = f then low else (s.get F.LASERSTAT_LOW n).testBit g)
  ∧ (∀ (n target : Nat) (s : State), n < 4 → target < 11 →
      (s.get F.SPARE_TAKEN n = 0 → ∃ t, exec (.spareTakeover n target) s = .next t
        ∧ (s.get F.FENCENOTE_EN 0 = 0 → t.onlyOptics s)
        ∧ (s.get F.FENCENOTE_EN 0 = 1 → s.draining = false → ∃ a, t.arrivals = s.arrivals ++ [a] ∧ a.cnum = s.get F.FENCENOTE_CNUM 0 ∧ a.inc = 1
            ∧ a.anyEpoch = true)
        ∧ (s.hearthReady = true → ∃ e ∈ t.events, e.ev = .unitFenced)
        ∧ t.get F.SPARE_TAKEN n = 1 ∧ t.get F.SPARE_TARGET n = target ∧ t.pstate (portOf n target) = 7
        ∧ t.role (portOf n target) = none ∧ t.role (portOf n 11) = some target ∧ t.rolePort n target = portOf n 11
        ∧ t.pstate (portOf n 11) = 1)
      ∧ (s.get F.SPARE_TAKEN n = 1 → exec (.spareTakeover n target) s = .next s)
      ∧ (s.get F.SPARE_TAKEN n = 1 → ∃ t, exec (.spareRelease n) s = .next t ∧ t.onlyOptics s ∧ t.fab = s.fab
          ∧ t.get F.SPARE_RELEASE n = 1 ∧ t.get F.SPARE_TAKEN n = 1 ∧ t.get F.SPARE_TARGET n = s.get F.SPARE_TARGET n))
  ∧ (∀ (p : Nat) (rt : Bool) (arr : Option (Nat × Nat)) (s : State), p ≤ 8 →
      let cur := s.get F.CPCUR_CUR 0
      let r := s.requestPlan p rt arr
      let bad := p < 8 ∧ s.planInvalid p = true
      let hold := rt = true ∧ s.get F.RTEPOCH_HOLD 0 = 1
      let same := r.2 = s.put F.CPSTAT_LAST 0 r.1
      (s.get F.CPSTAT_SWITCHING 0 = 1 → r.1 = 1 ∧ same)
      ∧ (s.get F.CPSTAT_SWITCHING 0 = 0 →
        (bad → r.1 = 2 ∧ same)
        ∧ (¬ bad → p = cur → r.1 = 3 ∧ r.2.plan = s.plan ∧ r.2.regs = (s.put F.CPSTAT_LAST 0 3).regs
            ∧ r.2.arrivals = s.arrivals ++ (match arr with
              | some (c, e) => [⟨s.nextId, none, c, 1, e, false, 0x7FF, 0, 0, none⟩]
              | none => []))
        ∧ (¬ bad → p ≠ cur → hold → r.1 = 4 ∧ r.2 = (s.log .epochBusy 0 []).put F.CPSTAT_LAST 0 4)
        ∧ (¬ bad → p ≠ cur → ¬ hold → r.1 = 0 ∧ r.2.plan = some ⟨p, rt, arr⟩ ∧ r.2.get F.CPSTAT_SWITCHING 0 = 1
            ∧ r.2.get F.CPSTAT_LAST 0 = 0 ∧ r.2.get F.CPCUR_CUR 0 = cur ∧ r.2.arrivals = s.arrivals
            ∧ ∀ n b, n < 4 → b < 6 → s.bundleIn cur n b = s.bundleIn p n b →
                r.2.link n b = s.link n b
                ∧ (r.2.get F.CPSTAT_NOTUP 0).testBit (6 * n + b) = (s.get F.CPSTAT_NOTUP 0).testBit (6 * n + b))))
  ∧ (∀ (h : Head) (f : XF) (s : State),
      let v := ((s.ctx h.tile h.ctx).rdS f.sa.toNat).toNat
      let imm := f.imm.toNat
      let r := (s.pay h.tile 16).requestPlan v (imm.testBit 21) (if imm.testBit 16 then some (bits imm 15 0, bits imm 20 17) else none)
      s.runs h (encX 4 h f) ⟨[f.sa.toNat], [f.sd.toNat]⟩ →
        (9 ≤ v → exec (.plansw h f) s = .next (s.issueFault h.tile h.ctx (cOPERAND, unstated)))
        ∧ (v < 9 → ∃ t, exec (.plansw h f) s = .next t ∧ { t with tiles := r.2.tiles } = r.2
            ∧ t.onlyS r.2 h f.sd.toNat (BitVec.ofNat 64 r.1) ∧ t.keepsPV r.2 h ∧ t.wentOn r.2 h
            ∧ ∀ u, u ≠ h.tile → t.tile u = r.2.tile u))
  ∧ (∀ s : State, s.get F.CPCTL_PENDING 0 = 1 → ∃ t, exec .cpctlGo s = .next t
      ∧ t = (s.requestPlan (s.get F.CPCTL_PLAN 0) (decide (s.get F.CPCTL_RT 0 = 1)) none).2.askDone .CPCTL 0
      ∧ t.get F.CPCTL_PENDING 0 = 0)
  ∧ ∀ (r : PlanReq) (s : State), s.plan = some r → r.target ≤ 8 →
      ∃ t, exec .planSwitchComplete s = .next t ∧ t.plan = none ∧ t.get F.CPCUR_CUR 0 = r.target
        ∧ t.get F.CPSTAT_SWITCHING 0 = 0 ∧ t.get F.CPSTAT_LAST 0 = 5 ∧ t.tiles = s.tiles ∧ t.mem = s.mem
        ∧ { t.fab with links := s.fab.links } = s.fab
        ∧ (∀ n k, n < 4 → k < 12 → (6 ≤ k ∨ s.bundleIn (s.get F.CPCUR_CUR 0) n k = s.bundleIn r.target n k ∨ (s.link n k).kept = []) →
            t.link n k = s.link n k)
        ∧ t.arrivals = s.arrivals ++ (match r.arr with
            | some (c, e) => [⟨s.nextId, none, c, 1, e, false, 0x7FF, 0, 0, none⟩]
            | none => [])
        ∧ (r.rt = true → s.get F.RTEPOCH_HOLD 0 = 0 → t.get F.RTEPOCH_PENDING 0 = 1)
        ∧ (r.rt = true → s.get F.RTEPOCH_HOLD 0 = 1 → t.get F.RTEPOCH_EPBUSY 0 = 1 ∧ t.get F.RTEPOCH_CUR 0 = s.get F.RTEPOCH_CUR 0)
        ∧ (r.target = 8 → t.get F.CPSTAT_NOTUP 0 = 0)
        ∧ ∀ i, i < 24 → (t.get F.CPSTAT_NOTUP 0).testBit i = true → (s.get F.CPSTAT_NOTUP 0).testBit i = true

/-! ## Device memory and the rack memory space (chapters 8 and 13) -/

/-- R216, R225 to R228: the interleave puts every address in one place and can be undone; a stored sector decodes to the data that was
encoded, under the class of its TAG; one wrong byte of a COR sector is corrected, one wrong byte of a DET sector is found. -/
def Obligations.SectorCodes : Prop :=
  (∀ (s : State) (d e : Nat), s.activeList ≠ [] →
     (s.place d = s.place e → d = e) ∧ (s.place d).1 ∈ s.activeList ∧ s.unplace (s.place d).1 (s.place d).2.1 = d / 256 * 256)
  ∧ (∀ (q n : Nat) (s : State), s.activeList.length = n → 0 < n → ∀ m ∈ s.activeList,
      ∃ r, r < n ∧ (s.place ((q * n + r) * 256)).1 = m ∧ (s.place ((q * n + r) * 256)).2.1 = q)
  ∧ (∀ data : List Nat, data.length = 32 → (∀ b ∈ data, b < 256) →
      let cor := encodeSector false data
      let det := encodeSector true data
      cor.length = 36 ∧ det.length = 36 ∧ (∀ b ∈ cor, b < 256) ∧ (∀ b ∈ det, b < 256)
      ∧ decodeSector cor = .ok false data ∧ decodeSector det = .ok true data
      ∧ ∀ i x, i < 36 → 0 < x → x < 256 →
          (i ≠ 32 ∨ popcount8 x ≤ 4 → decodeSector (cor.set i (cor.getD i 0 ^^^ x)) = .fixed data)
          ∧ (i ≠ 32 ∨ popcount8 x ≤ 3 → decodeSector (det.set i (det.getD i 0 ^^^ x)) = .det))
  ∧ crc16 [0x31, 0x32, 0x33, 0x34, 0x35, 0x36, 0x37, 0x38, 0x39] = 0xD0DB
  ∧ ∀ det : Bool, ∃ x, encodeSector det (List.replicate 32 0) = List.replicate 32 0 ++ x ∧ decodeSector (List.replicate 36 0) = .ok false (List.replicate 32 0)

/-- R219 to R222, R231, Tables 8-2 and 8-3: a write of a whole sector is read back whatever the hints, no other sector changes, and the cache
stays coherent with HBM; a read under any hint but LAST changes no sector. An access, a scrub and an evicted channel do the same; every access and
every scrub completes. -/
def Obligations.MemoryReadBack : Prop :=
  (∀ (d : Nat) (bs : List Byte) (h : Hint) (det : Bool) (src : Nat) (s : State), s.mem.coherent → s.mem.combs = [] →
     bs.length = 32 → d % 32 = 0 →
     let pl := s.place d
     let r := s.writeSector d bs h det src
     pl.2.1 < 2 ^ 25 → s.stackFenced pl.1 = false →
       r.2 = none ∧ { r.1 with mem := s.mem } = s ∧ r.1.mem.combs = [] ∧ r.1.mem.coherent
       ∧ r.1.mem.sector pl.1 pl.2.1 (pl.2.2 / 32) = encodeSector det (bs.map BitVec.toNat)
       ∧ r.1.mem.sectorsKept s.mem (some (pl.1, pl.2.1, pl.2.2 / 32))
       ∧ ∀ h' src', (r.1.readGranule d 32 h' src').2 = .ok bs)
  ∧ (∀ (d n : Nat) (h : Hint) (src : Nat) (s : State), s.mem.coherent → s.mem.combs = [] → h ≠ .last →
      (s.place d).2.1 < 2 ^ 25 → d % 256 + n ≤ 256 →
      let r := s.readGranule d n h src
      r.1.mem.coherent ∧ r.1.mem.sectorsKept s.mem none ∧ r.1.mem.combs = [])
  ∧ (∀ (a n hint src : Nat) (data : Option (List Byte)) (u : List (Nat × Byte)) (s : State),
      let z := match data with | some bs => bs.length | none => n
      let pl := s.place a
      let s' := if u = [] then s else { s with mem := s.mem.upset pl.1 pl.2.1 (pl.2.2 / 32) u }
      (z = 0 ∨ 32 < a % 32 + z ∨ s.capacity ≤ a → exec (.cacheSectorAccess a n data hint src u) s = .next s)
      ∧ (0 < z → a % 32 + z ≤ 32 → a < s.capacity → exec (.cacheSectorAccess a n data hint src u) s =
          .next (match data with | some bs => (s'.devWrite a bs hint src none).1 | none => (s'.devRead a n hint src).1)))
  ∧ (∀ (a n hint src : Nat) (bs : List Byte) (s : State), s.mem.coherent → s.mem.combs = [] → a < s.capacity →
      let pl := s.place a
      let sec := pl.2.2 / 32
      pl.2.1 < 2 ^ 25 → s.stackFenced pl.1 = false →
      (a % 32 = 0 → bs.length = 32 → s.mirrored a = false →
        ∃ t, exec (.cacheSectorAccess a n (some bs) hint src []) s = .next t ∧ { t with mem := s.mem } = s ∧ t.mem.coherent
          ∧ t.mem.sector pl.1 pl.2.1 sec = encodeSector (s.segDet a) (bs.map BitVec.toNat)
          ∧ t.mem.sectorsKept s.mem (some (pl.1, pl.2.1, sec)))
      ∧ (0 < n → a % 32 + n ≤ 32 → Hint.ofWord hint (s.segHint a) ≠ .last →
        (∀ det data, decodeSector (s.mem.sector pl.1 pl.2.1 sec) = .ok det data →
          ∃ t, exec (.cacheSectorAccess a n none hint src []) s = .next t ∧ { t with mem := s.mem } = s ∧ t.mem.coherent
            ∧ t.mem.sectorsKept s.mem none)
        ∧ (∀ data b x, s.mem.sector pl.1 pl.2.1 sec = encodeSector false data → data.length = 32 → (∀ y ∈ data, y < 256) →
            b < 36 → b ≠ 32 → x ≠ 0 → pl.1 < 192 →
            ∃ t, exec (.cacheSectorAccess a n none hint src [(b, x)]) s = .next t ∧ t.counted s F.MCHCNT_CORFIX pl.1
              ∧ t.mem.sectorsKept s.mem (some (pl.1, pl.2.1, sec))
              ∧ decodeSector (t.mem.sector pl.1 pl.2.1 sec) = .fixed data)))
  ∧ (∀ (m q sec : Nat) (u : List (Nat × Byte)) (s : State), m < 192 → ∃ t, exec (.patrolScrub m q sec u) s = .next t ∧ t.tiles = s.tiles
      ∧ t.fab = s.fab ∧ t.mem.cbytes = s.mem.cbytes ∧ t.mem.lines = s.mem.lines
      ∧ (s.get F.MCHMAP_ACTIVE m ≠ 1 ∨ 18874368 ≤ q ∨ 8 ≤ sec ∨ s.stackFenced m = true → t = s))
  ∧ (∀ (m q sec : Nat) (s : State), m < 192 → q < 18874368 → sec < 8 → s.get F.MCHMAP_ACTIVE m = 1 → s.stackFenced m = false →
      (∀ l, s.mem.line (lineKey m q) = some l → bit l.dirty sec = false) →
      let here := rdStored s.mem.hbm (sectorKey m q sec)
      (∀ det data, decodeSector here = .ok det data → exec (.patrolScrub m q sec []) s = .next s)
      ∧ (∀ data b x, here = encodeSector false data → data.length = 32 → (∀ y ∈ data, y < 256) → b < 36 → b ≠ 32 → x ≠ 0 →
          ∃ t, exec (.patrolScrub m q sec [(b, x)]) s = .next t ∧ t.counted s F.MCHCNT_CORFIX m
            ∧ t.mem.cbytes = s.mem.cbytes ∧ t.mem.lines = s.mem.lines ∧ t.tiles = s.tiles ∧ t.fab = s.fab
            ∧ ∀ k, rdStored t.mem.hbm k = rdStored s.mem.hbm k)
      ∧ (∀ u, decodeSector (flipBytes here u) = .det ∨ decodeSector (flipBytes here u) = .cor →
          ∃ t, exec (.patrolScrub m q sec u) s = .next t ∧ t.counted s F.MCHCNT_SCRUBERR m
            ∧ (s.hearthReady = true → t.logged .scrubFinding m))
      ∧ (∀ data b x, here = encodeSector true data → data.length = 32 → (∀ y ∈ data, y < 256) → b < 36 → b ≠ 32 → x ≠ 0 →
          ∃ t, exec (.patrolScrub m q sec [(b, x)]) s = .next t ∧ t.counted s F.MCHCNT_SCRUBERR m
            ∧ (s.hearthReady = true → t.logged .scrubFinding m) ∧ t.tiles = s.tiles ∧ t.fab = s.fab
            ∧ decodeSector (rdStored t.mem.hbm (sectorKey m q sec)) = .det))

/-- R232, R234, R236 to R238: a channel leaves service with its cached data written back and returns with every sector zero; its generator runs
only while it is OUT, over the registers it latched when it started, and counts what its checker finds; an undisturbed write and check finds
nothing. A refused action sets REFUSED and changes no memory. How a beat lies on the lanes beyond Table 8-6, and how far a stopped run has come,
are the model's choices (logs 5 and 59). -/
def Obligations.MemoryChannels : Prop :=
  (∀ (hearth : Bool) (m : Nat) (s : State), m < 192 →
    let refusal := fun (t : State) => t.get F.MCHSTAT_REFUSED m = 1 ∧ t.mem = s.mem ∧ t.tiles = s.tiles ∧ t.fab = s.fab
      ∧ t.get F.MCHSTAT_SERVICE m = s.get F.MCHSTAT_SERVICE m ∧ t.ask .MCHCTL m = none
      ∧ t.get F.CSLAST_VALID (bankOf hearth) = 1 ∧ t.get F.CSLAST_KIND (bankOf hearth) = 2
    let fenced := s.stackFenced m
    let active := s.get F.MCHMAP_ACTIVE m = 1
    let sv := s.get F.MCHSTAT_SERVICE m
    (s.service m = if ¬ active ∨ fenced = true then 2 else sv)
    ∧ (s.jobRuns = true ∨ ¬ active → ∀ errs, (∃ t, exec (.takeOutOfService hearth m) s = .next t ∧ refusal t)
      ∧ ∃ t, exec (.returnToService hearth m errs) s = .next t ∧ refusal t)
    ∧ (s.jobRuns = false → active →
        (s.service m = 0 → exec (.takeOutOfService hearth m) s = .next (((s.askDone .MCHCTL m).flushChannel m).put F.MCHSTAT_SERVICE m 1))
        ∧ (s.service m ≠ 0 → exec (.takeOutOfService hearth m) s = .next (s.askDone .MCHCTL m))
        ∧ (s.service m ≠ 2 ∨ fenced = true → ∀ errs, exec (.returnToService hearth m errs) s = .next (s.askDone .MCHCTL m)))
    ∧ (s.service m = 1 → exec (.channelLeavingDone m) s = .next ((s.flushChannel m).put F.MCHSTAT_SERVICE m 2))
    ∧ (s.service m ≠ 1 → exec (.channelLeavingDone m) s = .next s) ∧ (s.service m ≠ 3 → exec (.channelFillDone m) s = .next s)
    ∧ (active → fenced = false → s.mem.combs = [] → s.mem.coherent →
        (s.jobRuns = false → sv = 0 → ∃ t, exec (.takeOutOfService hearth m) s = .next t ∧ t.get F.MCHSTAT_SERVICE m = 1
          ∧ t.mem.linesOf m = [] ∧ t.mem.sectorsKept s.mem none ∧ t.mem.coherent ∧ t.tiles = s.tiles ∧ t.ask .MCHCTL m = none)
        ∧ (sv = 1 → ∃ t, exec (.channelLeavingDone m) s = .next t ∧ t.get F.MCHSTAT_SERVICE m = 2 ∧ t.mem.linesOf m = []
          ∧ t.mem.sectorsKept s.mem none ∧ t.mem.coherent ∧ t.tiles = s.tiles))
    ∧ (active → fenced = false →
        (s.jobRuns = false → sv = 2 → ∀ errs, ∃ t, exec (.returnToService hearth m errs) s = .next t ∧ t.get F.MCHSTAT_SERVICE m = 3
          ∧ (s.get F.MCHSTAT_TGRUN m ≠ 1 → t.mem = s.mem) ∧ t.get F.MCHSTAT_TGRUN m = 0 ∧ t.tiles = s.tiles)
        ∧ (sv = 3 → ∃ t, exec (.channelFillDone m) s = .next t ∧ t.get F.MCHSTAT_SERVICE m = 0 ∧ t.tiles = s.tiles
          ∧ (∀ q sec, q < 2 ^ 25 → sec < 8 → t.mem.sector m q sec = List.replicate 36 0)
          ∧ ∀ c q sec, c ≠ m → q < 2 ^ 25 → sec < 8 → t.mem.sector c q sec = s.mem.sector c q sec))
    ∧ (let n := s.get F.TGRANGE_COUNT m
       let bad := s.service m ≠ 2 ∨ (n ≠ 0 ∧ 18874368 < s.get F.TGRANGE_FIRST m + n)
         ∨ (s.get F.TGCFG_PATTERN m = 0 ∧ s.get F.TGSEED_SEED m = 0)
       let empty := s.get F.TGCFG_PASSES m = 0 ∨ n = 0 ∨ s.get F.TGCFG_PCMASK m = 0
       (bad → ∃ t, exec (.startGenerator hearth m) s = .next t ∧ refusal t)
       ∧ (¬ bad → ∃ t, exec (.startGenerator hearth m) s = .next t ∧ t.get F.TGERR_BITS m = 0 ∧ t.get F.TGFIRST_VALID m = 0
           ∧ t.get F.MCHSTAT_TGFAIL m = 0 ∧ (∀ k, k < 72 → t.get F.TGLANE_MISMATCH (72 * m + k) = 0)
           ∧ t.get F.MCHSTAT_TGDONE m = (if s.get F.TGCFG_PASSES m = 0 ∨ n = 0 ∨ s.get F.TGCFG_PCMASK m = 0 then 1 else 0)
           ∧ (¬ empty → t.get F.MCHSTAT_TGRUN m = 1 ∧ ∃ x, x < 8 ∧ SMap.get GenRun.reset t.gens m
               = ⟨s.reg .TGCFG m, s.reg .TGRANGE m, s.get F.TGSEED_SEED m, s.reg .TGUSER m, x⟩)
           ∧ t.mem = s.mem ∧ t.tiles = s.tiles))
    ∧ (s.get F.MCHSTAT_TGRUN m ≠ 1 → ∀ errs, exec (.stopGenerator m errs) s = .next (s.askDone .MCHCTL m)
        ∧ exec (.generatorDone m errs) s = .next s)
    ∧ (s.get F.MCHSTAT_TGRUN m = 1 → ∀ errs : List TgErr,
        let g := SMap.get GenRun.reset s.gens m
        let ended := fun (t : State) (w : Nat) =>
          let run := genMoves g m w errs s.mem
          let found := run.2.reverse
          t.get F.MCHSTAT_TGRUN m = 0 ∧ t.get F.MCHSTAT_TGDONE m = 1 ∧ t.mem = run.1 ∧ SMap.get GenRun.reset t.gens m = GenRun.reset
          ∧ t.tiles = s.tiles ∧ t.fab = s.fab
          ∧ t.get F.TGERR_BITS m = min (2 ^ 64 - 1) (s.get F.TGERR_BITS m + found.length)
          ∧ (∀ k, k < 72 → t.get F.TGLANE_MISMATCH (72 * m + k)
              = min (2 ^ 32 - 1) (s.get F.TGLANE_MISMATCH (72 * m + k) + (found.filter fun e => decide (e.1 = k)).length))
          ∧ (∀ e, found.head? = some e → t.get F.MCHSTAT_TGFAIL m = 1 ∧ t.get F.TGFIRST_VALID m = 1
              ∧ t.get F.TGFIRST_LANE m = e.1 ∧ t.get F.TGFIRST_ADDR m = e.2 % 2 ^ 33)
          ∧ (found = [] → t.get F.MCHSTAT_TGFAIL m = s.get F.MCHSTAT_TGFAIL m)
        (∃ t w, exec (.stopGenerator m errs) s = .next t ∧ w ≤ g.total ∧ (0 < g.total → 0 < w) ∧ ended t w ∧ t.ask .MCHCTL m = none)
        ∧ ∃ t, exec (.generatorDone m errs) s = .next t ∧ ended t g.total))
  ∧ ∀ (g : GenRun) (m : Nat) (x : Mem), g.mode = 0 → (genMoves g m g.total [] x).2 = []

/-- R353, R354, R356, R357, R360, Tables 13-2 to 13-4: a home agent answers each request it accepts once: with its data, its acknowledgement or
its old value, or with REFUSE and the first reason that applies, with no byte changed; with RETRY while its queue is full or its stream must
re-send. The requester's reply ends its operation. -/
def Obligations.RemoteRequests : Prop :=
  (∀ (n : Nat) (m : InMsg) (s : State), s.nextIn n m → s.answers = true →
     let r := m.key
     let k : StreamKey := { r with cls := 1 }
     s.freeSeq k →
     let u := State.bump { s.dropIn n with refusing := s.refusing.filter fun x => decide (x ≠ r) } F.RMCOUNT_COUNT 0 1
     let turned := 512 ≤ s.queuedBefore n r.ep ∨ r ∈ s.refusing ∧ bit m.word 63 = false
     let home := r.ep % 16 = 5
     let a := m.addr
     let z := m.size
     let w := m.word
     let src := r.dev + 1
     let answers := fun (i : Instr) (kind : Nat) (data : List Byte) =>
       ∃ t, exec i s = .next t ∧ t.keeps k kind m.tag data ∧ t.fab.inbox = s.fab.inbox.eraseIdx n
     let refuses := fun (i : Instr) (reason : Nat) =>
       ∃ t, exec i s = .next t ∧ t.keeps k kREFUSE m.tag (leBytes 8 reason) ∧ t.mem = s.mem ∧ t.tiles = s.tiles
         ∧ t.fab.inbox = s.fab.inbox.eraseIdx n ∧ t.counted s F.RMCOUNT_COUNT 2
     let waits := s.mirrorFull a z = true
     let failing := leBytes 8 (if (cut 32 a z).any (fun p => decide ((s.sectorRead p.1).2 = .det)) then 6 else 7)
     (home → turned → (m.kind = kREAD → answers (.remoteRead n) kRETRY (leBytes 8 (s.get F.RMCTL_HINT 0)))
       ∧ (m.kind = kWRITE → r.far % 16 ≠ 2 → ¬ waits → answers (.remoteWrite n) kRETRY (leBytes 8 (s.get F.RMCTL_HINT 0)))
       ∧ (m.kind = kATOMIC → ¬ waits → answers (.remoteAtomic n) kRETRY (leBytes 8 (s.get F.RMCTL_HINT 0))))
     ∧ (home → ¬ turned → m.kind = kREAD →
         (bits w 62 57 ≠ 0 ∨ z = 0 ∨ 256 < z ∨ 256 < a % 256 + z ∨ m.data.length ≠ 8 → refuses (.remoteRead n) 1)
         ∧ (bits w 62 57 = 0 → 0 < z → a % 256 + z ≤ 256 → m.data.length = 8 →
             (∀ x, s.rackCheck a z .read m.early = some x → refuses (.remoteRead n) x)
             ∧ (s.rackCheck a z .read m.early = none →
                 (∀ bs, (u.devRead a z m.hint src).2 = .ok bs → answers (.remoteRead n) kRDATA bs)
                 ∧ ∀ c i, (u.devRead a z m.hint src).2 = .error (c, i) →
                     answers (.remoteRead n) kREFUSE failing)))
     ∧ (waits → m.kind = kWRITE → exec (.remoteWrite n) s = .next s) ∧ (waits → m.kind = kATOMIC → exec (.remoteAtomic n) s = .next s)
     ∧ (home → ¬ turned → ¬ waits → m.kind = kWRITE → r.far % 16 ≠ 2 →
         bits w 62 57 ≠ 0 ∨ z = 0 ∨ 248 < z ∨ 256 < a % 256 + z ∨ m.rest.length ≠ z → refuses (.remoteWrite n) 1)
     ∧ (home → ¬ turned → ¬ waits → m.kind = kATOMIC → atomLegal (bits w 59 57) (bits w 61 60) (bits w 62 62) z = false ∨ z = 0
         ∨ 32 < a % 32 + z ∨ m.rest.length ≠ atomOperandBytes (bits w 59 57) z → refuses (.remoteAtomic n) 1)
     ∧ (home → ¬ turned → ¬ waits → m.kind = kWRITE → r.far % 16 ≠ 2 → bits w 62 57 = 0 → 0 < z → z ≤ 248 → a % 256 + z ≤ 256 →
         m.rest.length = z →
         (∀ x, s.rackCheck a z .write m.early = some x → refuses (.remoteWrite n) x)
         ∧ (s.rackCheck a z .write m.early = none →
             (u.partialFault a z = none → answers (.remoteWrite n) kWACK []
               ∧ ∃ t, exec (.remoteWrite n) s = .next t ∧ t.mem = (u.devWrite a m.rest m.hint src none).1.mem)
             ∧ ∀ x, u.partialFault a z = some x → answers (.remoteWrite n) kREFUSE (leBytes 8 x)
               ∧ ∃ t, exec (.remoteWrite n) s = .next t ∧ t.mem = s.mem))
     ∧ (home → ¬ turned → ¬ waits → m.kind = kATOMIC → atomLegal (bits w 59 57) (bits w 61 60) (bits w 62 62) z = true →
         0 < z → a % 32 + z ≤ 32 → m.rest.length = atomOperandBytes (bits w 59 57) z →
         (∀ x, s.rackCheck a z .atomic m.early = some x → refuses (.remoteAtomic n) x)
         ∧ (s.rackCheck a z .atomic m.early = none →
             let got := (u.atomic a z (bits w 59 57) (bits w 61 60) (bits w 62 62) m.rest m.hint src none).2
             (∀ old, got = .ok old → answers (.remoteAtomic n) kARESULT (if bits w 62 62 = 1 then old else []))
             ∧ ∀ f, got = .error f → answers (.remoteAtomic n) kREFUSE failing))
     ∧ (m.kind = kARRIVE → r.ep % 16 = 3 →
         let c := s.counter (bits w 15 0)
         let sum := c.count + bits w 51 20
         answers (.remoteArrive n) kWACK []
         ∧ ∃ t, exec (.remoteArrive n) s = .next t ∧ t.mem = s.mem
           ∧ (∀ j, j ≠ bits w 15 0 → t.counter j = s.counter j)
           ∧ (bits w 19 16 = c.epoch → (t.counter (bits w 15 0)).count = min sum (2 ^ 32 - 1)
               ∧ (t.counter (bits w 15 0)).ovf = (c.ovf || decide (2 ^ 32 ≤ sum)))
           ∧ (bits w 19 16 ≠ c.epoch → t.counter (bits w 15 0) = c ∧ t.counted s F.SCDISC_DISCARDED (bits w 15 0 / 2 ^ 14))))
  ∧ (∀ (n : Nat) (m : InMsg) (s : State), s.nextIn n m → m.key.cls = 1 →
      let u := s.dropIn n
      (s.answered m = none → (m.kind = kRDATA → exec (.rdata n) s = .next u) ∧ (m.kind = kWACK → exec (.wack n) s = .next u)
        ∧ (m.kind = kARESULT → exec (.aresult n) s = .next u))
      ∧ ∀ o, s.answered m = some o → (m.kind = kRDATA → exec (.rdata n) s = .next (u.takeData m o))
        ∧ (m.kind = kWACK → exec (.wack n) s = .next (u.takeAckd m o)) ∧ (m.kind = kARESULT → exec (.aresult n) s = .next (u.takeResult m o)))
  ∧ ∀ (n : Nat) (m : InMsg) (o : ROp) (x : UOp) (tile seq : Nat) (s : State), s.nextIn n m → m.key.cls = 1 → s.answered m = some o →
      o.owner = .narrow tile seq → (s.tile tile).op seq = some x →
      let a := o.local_ % 2 ^ 21
      let ends := fun (t : State) (bs : List Byte) =>
        (t.tile tile).op seq = some { x with wait := 0 } ∧ t.mem = s.mem ∧ t.chans = s.chans
        ∧ (∀ y ∈ t.rops, y.id ≠ o.id) ∧ t.fab.inbox = s.fab.inbox.eraseIdx n
        ∧ t.storesLocal s tile a bs.length (fun i => bs[i]?) ∧ ∀ v c, t.ctx v c = s.ctx v c
      (m.kind = kRDATA → ∃ t, exec (.rdata n) s = .next t ∧ ends t m.data)
      ∧ (m.kind = kWACK → ∃ t, exec (.wack n) s = .next t ∧ ends t [])
      ∧ (m.kind = kARESULT → ∃ t, exec (.aresult n) s = .next t ∧ ends t m.data)

/-- R313, R357, R361 to R364, R367 to R369: an operation answered RETRY waits, and is sent again with RETRY set until its limit; a refusal is
recorded and faults its instruction. A combining register is folded into its sector lane by lane. A gateway moves up to 4,096 bytes at a
time, and applies a transfer that reaches it whole or refuses it whole. -/
def Obligations.RetriesAndGateways : Prop :=
  (∀ (n : Nat) (m : InMsg) (o : ROp) (s : State), s.nextIn n m → m.key.cls = 1 → s.answered m = some o →
     let u := s.dropIn n
     (m.kind = kRETRY → ∃ t, exec (.retry n) s = .next t ∧ t.counted s F.RMCOUNT_COUNT 4 ∧ t.tiles = s.tiles ∧ t.mem = s.mem
       ∧ t.fab = u.fab ∧ (∀ y ∈ t.rops, y.id = o.id → y.phase = .retried)
       ∧ (t.rops.filter fun y => decide (y.id ≠ o.id)) = s.rops.filter fun y => decide (y.id ≠ o.id))
     ∧ (m.kind = kREFUSE → (∀ sl who, o.owner ≠ .mirror sl who) → exec (.refuse n) s =
         .next (State.releaseHeld (State.failRop (u.setReg .RMREFLAST 0 ((o.dev * 2 ^ 48 + o.addr) * 2 ^ 64 + s.refusedUnit o + 2 ^ 8
           + leValue (m.data.take 1))) o cRACK_REFUSED) o.stream))
     ∧ (m.kind = kREFUSE → ∀ sl who, o.owner = .mirror sl who → exec (.refuse n) s =
         .next (State.releaseHeld ((u.dropRop o.id).unprotect.log .mirrorRefused 0 []) o.stream))
     ∧ (m.kind = kREFUSE →
       let v := (o.dev * 2 ^ 48 + o.addr) * 2 ^ 64 + s.refusedUnit o + 2 ^ 8 + leValue (m.data.take 1)
       (∀ tile seq x, o.owner = .narrow tile seq → (s.tile tile).op seq = some x →
         exec (.refuse n) s = .next (State.releaseHeld (State.unitFaultAt ((u.setReg .RMREFLAST 0 v).dropRop o.id) tile x.ctx .narrow
           seq x.pc (cRACK_REFUSED, o.dev * 2 ^ 48 + o.addr)) o.stream))
       ∧ (o.owner = .engine → (∀ y ∈ s.rops, y.phase = .sent) → ∃ t, exec (.refuse n) s = .next t ∧ t.tiles = s.tiles
           ∧ t.rops = s.rops.filter (fun y => decide (y.id ≠ o.id)) ∧ t.reg .RMREFLAST 0 = v % 2 ^ 128)
       ∧ ∀ sl who, o.owner = .mirror sl who → (∀ y ∈ s.rops, y.phase = .sent) →
           (∀ z c, (s.ctx z c).arrives = []) → s.hearthReady = true → s.get F.TWINSTAT_MSTATE 0 = 1 →
           ∃ t, exec (.refuse n) s = .next t ∧ t.get F.TWINSTAT_MSTATE 0 = 2 ∧ t.logged .mirrorRefused 0
             ∧ t.rops = s.rops.filter (fun y => decide (y.id ≠ o.id)) ∧ t.reg .RMREFLAST 0 = s.reg .RMREFLAST 0))
  ∧ (∀ (n : Nat) (m : InMsg) (s : State), s.nextIn n m → m.key.cls = 1 → s.answered m = none →
      (m.kind = kREFUSE → exec (.refuse n) s = .next (s.dropIn n))
      ∧ (m.kind = kRETRY → m.key.ep % 16 ≠ 4 → exec (.retry n) s = .next (s.dropIn n))
      ∧ (m.kind = kRETRY → m.key.ep % 16 = 4 → ∃ t, exec (.retry n) s = .next t ∧ t.counted s F.RMCOUNT_COUNT 4 ∧ t.tiles = s.tiles
          ∧ t.mem = s.mem ∧ t.fab = (s.dropIn n).fab ∧ t.rops = s.rops
          ∧ (SMap.wf Tag.free s.tags = true → ∀ j, (t.tagAt j).sent = (s.tagAt j).sent.map fun f =>
              if f.key = { m.key with cls := 0 } ∧ f.ptag = m.tag then { f with retried := true } else f)))
  ∧ (∀ (k : StreamKey) (s : State),
      let first := s.rops.find? (fun o => decide (o.stream = k) && decide (o.phase = .retried))
      (first = none → exec (.retryBackoffExpiry k) s = .next (if k.ep % 16 = 4 then s.collResend k else s))
      ∧ ∀ o, first = some o →
          (s.get F.RMCTL_RETRYMAX 0 ≤ o.resends → o.limited = true → exec (.retryBackoffExpiry k) s =
            .next (State.releaseHeld ((s.bump F.RMCOUNT_COUNT 5 1).failRop o cRACK_RETRY_LIMIT) k))
          ∧ (o.resends < s.get F.RMCTL_RETRYMAX 0 ∨ o.limited = false →
            let o' := { o with phase := .sent, resends := o.resends + 1 }
            let again := s.rops.map fun (x : ROp) => if x.id = o.id then o' else x
            exec (.retryBackoffExpiry k) s = .next (State.releaseHeld (State.request { s with rops := again } o' true) k)))
  ∧ (∀ (k : StreamKey) (o : ROp) (s : State),
      s.rops.find? (fun o => decide (o.stream = k) && decide (o.phase = .retried)) = some o →
      (∀ y ∈ s.rops, y.stream = k → y.phase ≠ .held) →
      (o.resends < s.get F.RMCTL_RETRYMAX 0 ∨ o.limited = false → o.dev < 64 → s.freeSeq k →
        ∃ t, exec (.retryBackoffExpiry k) s = .next t ∧ t.keeps k o.kind.code o.tag (o.payload true) ∧ t.tiles = s.tiles
          ∧ t.mem = s.mem ∧ ∀ y ∈ t.rops, y.id = o.id → y.phase = .sent ∧ y.resends = o.resends + 1)
      ∧ (∀ tile seq x, s.get F.RMCTL_RETRYMAX 0 ≤ o.resends → o.owner = .narrow tile seq → (s.tile tile).op seq = some x →
          exec (.retryBackoffExpiry k) s = .next (State.releaseHeld (State.unitFaultAt ((s.bump F.RMCOUNT_COUNT 5 1).dropRop o.id) tile
            x.ctx .narrow seq x.pc (cRACK_RETRY_LIMIT, o.dev * 2 ^ 48 + o.addr)) k)))
  ∧ (∀ (ch q sec : Nat) (c : Comb) (det : Bool) (old : List Nat) (s : State), q < 2 ^ 25 → sec < 8 →
      let sk := sectorKey ch q sec
      let w := if c.w64 then 8 else 4
      let lane := fun (xs : List Nat) (i : Nat) => leValue (((xs.drop (i * w)).take w).map (BitVec.ofNat 8))
      s.mem.combs.find? (fun c => decide (c.sector = sk)) = some c →
      (decodeSector (s.mem.sector ch q sec) = .det ∨ decodeSector (s.mem.sector ch q sec) = .cor → ch < 192 →
        ∃ t, exec (.combineFold sk) s = .next t ∧ t.mem.combs = s.mem.combs.filter (fun x => decide (x ≠ c)) ∧ t.tiles = s.tiles
          ∧ t.mem.sectorsKept s.mem none ∧ (s.hearthReady = true → t.logged .combineLost ch))
      ∧ (decodeSector (s.mem.sector ch q sec) = .ok det old → old.length = 32 →
       ∃ t, exec (.combineFold sk) s = .next t ∧ t.tiles = s.tiles ∧ t.mem.combs = s.mem.combs.filter (fun x => decide (x ≠ c)))
      ∧ (decodeSector (s.mem.sector ch q sec) = .ok det old → old.length = 32 → s.mirrored (s.unplace ch q + 32 * sec) = false →
      ∃ t new, exec (.combineFold sk) s = .next t ∧ { t with mem := s.mem } = s ∧ t.mem.combs = s.mem.combs.filter (fun x => decide (x ≠ c))
        ∧ t.mem.sector ch q sec = encodeSector (s.segDet (s.unplace ch q + 32 * sec)) new ∧ new.length = 32
        ∧ (∀ i, i < 32 / w → lane new i = (lane old i + c.lanes.getD i 0) % 2 ^ (8 * w))
        ∧ t.mem.sectorsKept s.mem (some (ch, q, sec))))
  ∧ (∀ (cluster chan d a : Nat) (x : Copy) (xs : List Copy) (s : State), cluster < 128 → chan < 16 →
      let k := 16 * cluster + chan
      let crc := dCrc x.desc
      let sends := fun (t : State) (out : Bool) (data : List Byte) => t.counted s F.RMCOUNT_COUNT 6
        ∧ ∃ o ∈ t.rops, o.kind = (if out then .write else .read) ∧ o.dev = d ∧ o.addr = a + (x.nextTransfer a out).1
          ∧ o.size = (x.nextTransfer a out).2 ∧ o.owner = .copy x.id (16 * s.clusterOf x.tile + bits x.word.toNat 21 18)
          ∧ o.sep = gatewayEp (d % 4) ∧ o.data = data
      (s.chan k).queue = x :: xs →
      (x.gateway = false ∨ (s.chan k).held = true ∨ s.answers = false → exec (.gatewayTransfer cluster chan) s = .next s)
      ∧ (x.gateway = true → (s.chan k).held = false → s.answers = true →
        (s.copySrc x = .rack d a →
          (x.transferReady a false = false → exec (.gatewayTransfer cluster chan) s = .next s)
          ∧ (x.transferReady a false = true → ∃ t, exec (.gatewayTransfer cluster chan) s = .next t ∧ t.tiles = s.tiles ∧ t.mem = s.mem
              ∧ t.rops.length = s.rops.length + 1 ∧ sends t false []))
        ∧ ((∀ d a, s.copySrc x ≠ .rack d a) → s.copyDst x = .rack d a →
          (x.transferReady a true = false → exec (.gatewayTransfer cluster chan) s = .next s)
          ∧ (x.transferReady a true = true → crc = true → ∃ t, exec (.gatewayTransfer cluster chan) s = .next t ∧ t.tiles = s.tiles
              ∧ t.mem = s.mem ∧ sends t true (x.buf.take (x.nextTransfer a true).2))
          ∧ (x.transferReady a true = true → crc = false →
              let r := s.rdLoc ((s.copySrc x).plus x.pos) (x.nextTransfer a true).2 x.hint
              (∀ f, r.2 = .error f → exec (.gatewayTransfer cluster chan) s = .next (r.1.copyFault k x f))
              ∧ ∀ bs, r.2 = .ok bs → ∃ t, exec (.gatewayTransfer cluster chan) s = .next t ∧ t.mem = r.1.mem ∧ sends t true bs))))
  ∧ (∀ (n : Nat) (m : InMsg) (s : State), s.nextIn n m → m.key.cls = 0 → m.key.ep % 16 = 6 →
      (s.answers = false ∨ s.mirrorFull m.addr 4096 = true ∨ s.runAt n m = none → exec (.gatewayApply n) s = .next s)
      ∧ ∀ run, s.answers = true → s.mirrorFull m.addr 4096 = false → s.runAt n m = some run →
          let left := (s.fab.inbox.zipIdx.filter fun e => !(run.map Prod.fst).contains e.2).map Prod.fst
          exec (.gatewayApply n) s = .next (State.applyTransfer (s.setFab { s.fab with inbox := left }) (run.map Prod.snd)))
  ∧ ∀ (n : Nat) (m : InMsg) (s : State), s.nextIn n m → m.key.cls = 0 → m.key.ep % 16 = 6 → s.answers = true →
      s.mirrorFull m.addr 4096 = false → (s.fab.inbox.filter fun y => decide (y.key = m.key)).length = 1 →
      let k : StreamKey := { m.key with cls := 1 }
      s.freeSeq k →
      let u := (s.dropIn n).bump F.RMCOUNT_COUNT 7 1
      let a := m.addr
      let z := m.size
      let w := m.word
      let answers := fun (kind : Nat) (data : List Byte) => ∃ t, exec (.gatewayApply n) s = .next t ∧ t.keeps k kind m.tag data
        ∧ t.fab.inbox = s.fab.inbox.eraseIdx n ∧ t.counted s F.RMCOUNT_COUNT 7
      (m.kind = kWRITE → bits w 62 57 = 32 → 0 < z → z ≤ 248 → a % 256 + z ≤ 256 → m.rest.length = z →
        (∀ x, s.rackCheck a z .write m.early = some x → answers kREFUSE (leBytes 8 x)
          ∧ ∃ t, exec (.gatewayApply n) s = .next t ∧ t.mem = s.mem)
        ∧ (s.rackCheck a z .write m.early = none → ∀ x, u.partialFault a z = some x → answers kREFUSE (leBytes 8 x)
          ∧ ∃ t, exec (.gatewayApply n) s = .next t ∧ t.mem = s.mem)
        ∧ (s.rackCheck a z .write m.early = none → u.partialFault a z = none → answers kWACK []
          ∧ ∃ t, exec (.gatewayApply n) s = .next t ∧ t.mem = (u.devWrite a m.rest m.hint (m.key.dev + 1) none).1.mem))
      ∧ (m.kind = kREAD → bits w 62 57 = 0 → 0 < z → a % 256 + z ≤ 256 →
        (∀ x, s.rackCheck a z .read m.early = some x → answers kREFUSE (leBytes 8 x))
        ∧ (s.rackCheck a z .read m.early = none →
          (∀ bs, (u.devRead a z m.hint (m.key.dev + 1)).2 = .ok bs → answers kRDATA bs)
          ∧ ∀ f, (u.devRead a z m.hint (m.key.dev + 1)).2 = .error f → answers kREFUSE
              (leBytes 8 (if (cut 32 a z).any (fun p => decide ((s.sectorRead p.1).2 = .det)) then 6 else 7))))

/-! ## Power and heat (chapter 14) -/

/-- R371 to R374, R377 to R379, R381, R387: the governor. A refill divides REF among the tiles that hold a balance, caps each at two shares and
gives the rest to the pool; rows that a balance covers start; a grant covers one tile's whole deficit, in rotation; a step moves REF toward the
limit by at most an eighth; a cap below 2,000 W ends a sprint; a power-over event halves the refill until it is over. How many pauses a forced
duty or a wait for credit has made is free (log 5). -/
def Obligations.Governor : Prop :=
  (∀ (d : Nat) (s : State), d < 8 → s.inv = true →
     let rows := fun (v : Nat) => s.cdieOf v = d ∧ (s.tile v).inRows.isSome = true
     let u := s.rowsGoOn d
     let g := u.gov d
     (s.active = true → s.ask .DIEREF d = none →
       let r := s.refOf d
       let ts := s.holders d
       let share := if ts = [] then 0 else r / ts.length
       let spill := (ts.map fun u => (s.tile u).credit + share - min ((s.tile u).credit + share) (2 * share)).sum
       ∃ t u, exec (.govRefill d) s = .next t ∧ t = (State.rowsGoOn u d).askAnew d
         ∧ { u with tiles := s.tiles, govs := s.govs, regs := s.regs, free := s.free } = s
         ∧ (∀ r i, i < 2 ^ 24 → (r, i) ≠ (.PAUSECNT, d) → u.reg r i = s.reg r i)
         ∧ (s.dutyOf d = 0 → (∀ v, s.cdieOf v = d → (s.tile v).want = 0 ∧ (s.tile v).inRows = none) → u.regs = s.regs ∧ u.free = s.free)
         ∧ (∀ v, u.tile v = if v ∈ ts then { s.tile v with credit := min ((s.tile v).credit + share) (2 * share) } else s.tile v)
         ∧ (u.gov d).share = share ∧ (u.gov d).pool = min ((s.gov d).pool + (r - share * ts.length) + spill) r
         ∧ (u.gov d).costs = (List.range 17).map (fun k => s.get F.GOVCOST_COST k) ∧ (u.gov d).last = (s.gov d).last
         ∧ (∀ e, e ≠ d → u.gov e = s.gov e) ∧ t.govs = u.govs
         ∧ (∀ v, s.cdieOf v = d → (t.tile v).want = 0)
         ∧ ((∀ v, ¬ rows v) → ∀ v, t.tile v = if s.cdieOf v = d then { u.tile v with want := 0 } else u.tile v))
     ∧ (s.active = false → s.ask .DIEREF d = none → ∃ t, exec (.govRefill d) s = .next t ∧ { t with govs := s.govs } = s
         ∧ (t.gov d).costs = (List.range 17).map (fun k => s.get F.GOVCOST_COST k))
     ∧ (∀ a, s.ask .DIEREF d = some a → ∃ t, exec (.govRefill d) s = .next t ∧ t.get F.DIEREF_REF d = a.value % 2 ^ 28
         ∧ t.get F.DIEREF_PENDING d = 0 ∧ t.ask .DIEREF d = none)
     ∧ (u.govs = s.govs ∧ ((∀ v, ¬ rows v) → u = s)
         ∧ (∀ v, ¬ rows v ∨ (s.tile v).want ≠ 0 → u.tile v = s.tile v)
         ∧ ∀ v o, s.cdieOf v = d → (s.tile v).inRows = some o → (s.tile v).want = 0 →
             let r := rowsCovered (s.chargeOf v) (s.tile v).credit o.due
             u.tile v = { (s.tile v).setOp { o with due := r.2 } with credit := r.1 })
     ∧ (let asks := fun (v : Nat) => s.cdieOf v = d ∧ 0 < u.deficit v ∧ u.deficit v ≤ g.pool
        ((∀ v, ¬ asks v) → exec (.poolGrant d) s = .next u)
        ∧ ∀ v, asks v → (∀ w, asks w → (g.last ≤ v ∧ (w < g.last ∨ v ≤ w)) ∨ (v < g.last ∧ w < g.last ∧ v ≤ w)) →
          exec (.poolGrant d) s = .next (u.grantTile v)
          ∧ (u.grantTile v).gov d = { g with pool := g.pool - u.deficit v, last := v + 1 } ∧ (∀ e, e ≠ d → (u.grantTile v).gov e = s.gov e)
          ∧ (∀ w, w ≠ v → (u.grantTile v).tile w = u.tile w)
          ∧ ((u.tile v).want ≠ 0 → { u.grantTile v with tiles := u.tiles, govs := u.govs } = u
              ∧ (u.grantTile v).tile v = { u.tile v with credit := (u.tile v).credit + u.deficit v, want := 0 })))
  ∧ (∀ (powers : List Nat) (input : Option Nat) (s : State), s.hearthReady = false → exec (.hearthPowerStep powers input) s = .next s)
  ∧ (∀ (powers : List Nat) (input : Option Nat) (s : State), s.hearthReady = true → s.sprinting = true →
      (s.takePowercap.get F.POWERCAP_WATTS 0 < 2000 ∨ s.takePowercap.get F.POWERCAP_SPRINTEN 0 = 0) →
      ∃ t, exec (.hearthPowerStep powers input) s = .next t ∧ t.sprinting = false ∧ t.get F.SPRSTAT_LASTCAP 0 = 4 ∧ t.logged .sprintCap 0
        ∧ ∀ d, d < 8 → t.get F.GOVSTAT_SPRINT d = 0)
  ∧ (∀ (powers : List Nat) (input : Option Nat) (s : State), s.hearthReady = true →
      (∀ a, s.ask .POWERCAP 0 = some a → ∃ t, exec (.hearthPowerStep powers input) s = .next t ∧ t.ask .POWERCAP 0 = none
        ∧ t.get F.POWERCAP_PENDING 0 = 0 ∧ t.get F.POWERCAP_SPRINTEN 0 = a.value / 2 ^ 12 % 2
        ∧ t.get F.POWERCAP_WATTS 0 = if 1200 ≤ a.value % 2 ^ 11 ∧ a.value % 2 ^ 11 ≤ 2000 then a.value % 2 ^ 11 else s.get F.POWERCAP_WATTS 0)
      ∧ (s.ask .POWERCAP 0 = none → s.active = true → powers.length = 8 →
          (∀ e, e < 8 → s.get F.GOVSTAT_SPRINT e = 0 ∧ s.get F.GOVSTAT_OVER e = 0) →
          let watts := s.get F.POWERCAP_WATTS 0
          ∃ t, exec (.hearthPowerStep powers input) s = .next t ∧ t.tiles = s.tiles ∧ t.mem = s.mem ∧ t.fab = s.fab ∧ t.events = s.events
            ∧ (∀ r i, i < 2 ^ 24 → r ≠ .DIEREF → t.reg r i = s.reg r i)
            ∧ (∀ mw, input = some mw → ∀ e, e < 8 → (t.gov e).excess = mw - watts * 1000)
            ∧ (input = none → t.govs = s.govs)
            ∧ ∀ e mw, powers[e]? = some mw →
                let was := s.get F.DIEREF_REF e
                let now := t.get F.DIEREF_REF e
                let lim := (watts - 976) * 1000 - (t.gov e).excess
                10000000 ≤ was → 10000000 ≤ now ∧ now ≤ was + was / 8 ∧ was - was / 8 ≤ now
                  ∧ (8 * mw < lim → was ≤ now) ∧ (lim < 8 * mw → now ≤ was) ∧ (8 * mw = lim → now = was)))
  ∧ (∀ (hearth : Bool) (v : BitVec 32) (s : State),
      let w := v.toNat % 2 ^ 11
      (s.mayAccess hearth = false → exec (.powercapWrite hearth v) s = .next s)
      ∧ (s.mayAccess hearth = true → s.reach .governor ≠ 2 → ∃ t, exec (.powercapWrite hearth v) s = .next t ∧ { t with regs := s.regs } = s
          ∧ t.get F.CSLAST_KIND (bankOf hearth) = (if s.reach .governor = 0 then 3 else 2)
          ∧ t.get F.POWERCAP_WATTS 0 = s.get F.POWERCAP_WATTS 0)
      ∧ (s.mayAccess hearth = true → s.reach .governor = 2 → ∃ t x, exec (.powercapWrite hearth v) s = .next t
          ∧ { t with regs := s.regs, asks := s.asks } = s ∧ t.ask .POWERCAP 0 = some ⟨hearth, Reg.POWERCAP.at 0, x⟩
          ∧ x % 2 ^ 11 = (if 1200 ≤ w ∧ w ≤ 2000 then w else s.written .POWERCAP 0 % 2 ^ 11)
          ∧ x / 2 ^ 12 % 2 = v.toNat / 2 ^ 12 % 2
          ∧ t.get F.POWERCAP_PENDING 0 = 1 ∧ t.get F.POWERCAP_WATTS 0 = s.get F.POWERCAP_WATTS 0
          ∧ t.get F.POWERCAP_SPRINTEN 0 = s.get F.POWERCAP_SPRINTEN 0))
  ∧ (∀ s : State, s.active = false → exec .powerOver s = .next s)
  ∧ (∀ s : State, s.active = true → ∃ t, exec .powerOver s = .next t ∧ t.power.fault = true ∧ t.tiles = s.tiles ∧ t.mem = s.mem
      ∧ (s.hearthReady = true → t.logged .powerOver 0)
      ∧ ∀ d, d < 8 → t.get F.GOVSTAT_OVER d = 1 ∧ (s.sprinting = true → t.get F.GOVSTAT_SPRINT d = 0))
  ∧ (∀ s : State, s.active = true → s.sprinting = false → ∃ t, exec .powerOver s = .next t
      ∧ ∀ d, d < 8 → t.get F.GOVSTAT_OVER d = 1 ∧ t.refOf d = s.refBase d / 2 * s.get F.GOVSTAT_THRF d / 8)
  ∧ ∀ s : State, ∃ t, exec .powerOverClear s = .next t ∧ { t with regs := s.regs } = s ∧ ∀ d, d < 8 →
      t.get F.GOVSTAT_OVER d = 0 ∧ t.get F.DIEREF_REF d = if s.get F.GOVSTAT_OVER d = 1 then s.get F.DIEREF_REF d / 2 else s.get F.DIEREF_REF d

/-- R380, R381, R384, R386, R387, R389 to R391, Tables 14-2 and 14-3: sprint starts only while every bound permits, and each bound ends it; the
sensors' readings trip and clear the thresholds; a sensor that stays off its neighbours is suspect; at its shutdown threshold the module
goes down, and comes up only when it has cooled. -/
def Obligations.SprintAndThermal : Prop :=
  (∀ (win : Nat) (s : State),
     (s.sprinting = true ∨ s.sprintAllowed win = false → exec (.sprintStart win) s = .next s)
     ∧ (s.sprinting = false → exec .sprintCclkChange s = .next s ∧ ∀ bound us, exec (.sprintEnd bound us win) s = .next s)
     ∧ (∀ bound us, bound = 0 ∨ 4 < bound → exec (.sprintEnd bound us win) s = .next s)
     ∧ (s.sprinting = false → s.sprintAllowed win = true → ∃ t, exec (.sprintStart win) s = .next t
         ∧ { t with regs := s.regs, govs := s.govs } = s ∧ t.get F.SPRSTAT_WINUS 0 = win
         ∧ ∀ d, d < 8 → t.get F.GOVSTAT_SPRINT d = 1 ∧ t.get F.GOVSTAT_FREQ d = s.get F.GOVSTAT_FREQ d
             ∧ t.get F.DIEREF_REF d = s.get F.DIEREF_REF d
             ∧ t.refBase d = if s.get F.GOVSTAT_FREQ d = 18 then min (s.get F.DIEREF_REF d * 203 / 128) 268435455
                 else s.get F.DIEREF_REF d))
  ∧ (∀ s : State, s.sprinting = true → ∃ t, exec .sprintCclkChange s = .next t ∧ { t with regs := s.regs } = s
      ∧ ∀ d, d < 8 → t.get F.GOVSTAT_FREQ d = (if s.get F.GOVSTAT_FREQ d = 18 then 20 else s.get F.GOVSTAT_FREQ d)
          ∧ t.get F.GOVSTAT_SPRINT d = s.get F.GOVSTAT_SPRINT d)
  ∧ (∀ (bound us win : Nat) (s : State), 1 ≤ bound → bound ≤ 4 → s.sprinting = true → ∀ w ws, s.power.wear = w :: ws →
      ∃ t, exec (.sprintEnd bound us win) s = .next t ∧ t.tiles = s.tiles ∧ t.mem = s.mem ∧ t.get F.SPRSTAT_LASTCAP 0 = bound
        ∧ t.get F.SPRSTAT_WINUS 0 = min win 10000 ∧ t.power = { s.power with wear := (w + us) :: ws }
        ∧ (((w + us) :: ws).sum / 1000000 < 2 ^ 32 → t.get F.SPRWEAR_SECONDS 0 = ((w + us) :: ws).sum / 1000000)
        ∧ (s.hearthReady = true → t.logged .sprintCap 0)
        ∧ ∀ d, d < 8 → t.get F.GOVSTAT_SPRINT d = 0 ∧ t.refBase d = s.get F.DIEREF_REF d
            ∧ t.get F.GOVSTAT_FREQ d = if s.get F.GOVSTAT_FREQ d = 20 then 18 else s.get F.GOVSTAT_FREQ d)
  ∧ (∀ s : State, s.hearthReady = true → ∃ t, exec .dailyBucketRollover s = .next t ∧ t.power = { s.power with wear := 0 :: s.power.wear.take 29 }
      ∧ ((s.power.wear.take 29).sum / 1000000 < 2 ^ 32 → t.get F.SPRWEAR_SECONDS 0 = (s.power.wear.take 29).sum / 1000000)
      ∧ { t with regs := s.regs, power := s.power } = s)
  ∧ (∀ (u : Nat) (r : List Int) (x : Int) (s : State), u < 28 → s.sampled u = false →
      exec (.sensorSample u r) s = .next s ∧ exec (.thermalShutdown u x) s = .next s)
  ∧ (∀ (u : Nat) (r : List Int) (top : Int) (s : State), u < 8 → r.length = 64 → s.active = true → s.suspects u = 0 →
      (∀ i, i < 64 → s.outlying u r i < 8) → top ∈ r → (∀ x ∈ r, x ≤ top) → top < 16 * 120 →
      let rises := (List.range 64).map (s.rise u r)
      ∃ t, exec (.sensorSample u r) s = .next t ∧ t.tiles = s.tiles ∧ t.mem = s.mem ∧ t.fab = s.fab ∧ t.suspects u = 0
        ∧ (∀ i, i < 64 → t.get F.TSENS_TEMP (64 * u + i) = (r.getD i 0 % 2 ^ 16).toNat
            ∧ t.sensor u i = ⟨(r.getD i 0 :: (s.sensor u i).history).take 100, s.outlying u r i⟩)
        ∧ (t.get F.GOVSTAT_WARN u = 1 ↔ 16 * 95 ≤ top ∨ (16 * 90 < top ∧ s.get F.GOVSTAT_WARN u = 1))
        ∧ (t.get F.GOVSTAT_THROTTLE u = 1 ↔ 16 * 105 ≤ top ∨ (16 * 100 < top ∧ s.get F.GOVSTAT_THROTTLE u = 1))
        ∧ (t.get F.GOVSTAT_WARN u = 1 → t.sprinting = false)
        ∧ (s.get F.GOVSTAT_RATE u = 0 → (t.get F.GOVSTAT_RATE u = 1 ↔ ∃ x ∈ rises, 16 * 15 ≤ x))
        ∧ (s.get F.GOVSTAT_RATE u = 1 → (t.get F.GOVSTAT_RATE u = 0 ↔ (∀ x ∈ rises, x < 16 * 5) ∧ 499 ≤ (s.gov u).stable)
            ∧ ((∃ x ∈ rises, 16 * 5 ≤ x) → (t.gov u).stable = 0))
        ∧ (s.hearthReady = true → 16 * 95 ≤ top → s.get F.GOVSTAT_WARN u = 0 → ∃ e ∈ t.events, e.ev = .thermWarning))
  ∧ (∀ (u i : Nat) (r : List Int) (s : State), u < 8 → i < 64 → s.active = true → s.suspects u = 0 → 7 ≤ (s.sensor u i).off →
      160 < (r.getD i 0 - medianInt ((neighbours u i).map (Readings.at r))).natAbs → (∀ x ∈ r, x < 16 * 110) →
      (∃ j, j < 64 ∧ s.outlying u r j < 8) →
      ∃ t, exec (.sensorSample u r) s = .next t ∧ bit (t.suspects u) i = true
        ∧ (s.hearthReady = true → ∃ e ∈ t.events, e.ev = .sensorSuspect))
  ∧ (∀ (u : Nat) (x : Int) (s : State), 16 ≤ u → u < 28 → s.active = true → s.suspects u = 0 → x < 16 * 105 →
      ∃ t, exec (.sensorSample u [x]) s = .next t ∧ t.tiles = s.tiles ∧ t.mem = s.mem ∧ t.fab = s.fab
        ∧ t.get F.TOTHER_TEMP (u - 16) = (x % 2 ^ 16).toNat
        ∧ (t.trip u 0 = true ↔ 16 * 85 ≤ x ∨ (16 * 80 < x ∧ s.trip u 0 = true))
        ∧ (t.trip u 1 = true ↔ 16 * 95 ≤ x ∨ (16 * 90 < x ∧ s.trip u 1 = true))
        ∧ (t.trip u 1 = true → t.sprinting = false))
  ∧ (∀ (d : Nat) (s : State), d < 8 →
      let f := s.get F.GOVSTAT_THRF d
      let hot := s.trip d 1 = true ∨ s.trip (8 + d / 2) 1 = true
      f ≤ 8 → ∃ t, exec (.throttleFactorStep d) s = .next t ∧ { t with regs := s.regs } = s
        ∧ (hot → t.get F.GOVSTAT_THRF d = if 2 < f then f - 1 else f) ∧ (¬ hot → t.get F.GOVSTAT_THRF d = min 8 (f + 1))
        ∧ ∀ e, e < 8 → e ≠ d → t.get F.GOVSTAT_THRF e = s.get F.GOVSTAT_THRF e)
  ∧ (∀ (u : Nat) (x : Int) (s : State), u < 28 → s.sampled u = true →
      let limit := if u < 12 then 120 else 105
      (16 * limit ≤ x → ∃ t, exec (.thermalShutdown u x) s = .next t ∧ t.power.shutdown = true ∧ t.power.fault = true
        ∧ t.get F.PWRSTAT_STATE 0 = 0 ∧ t.tiles = [] ∧ t.mem = Mem.reset ∧ t.fab = Fabric.reset
        ∧ (∀ n, n < 4 → t.get F.LASERSTAT_EN n = 0) ∧ t.get F.HDSTAT_STATE 0 = s.get F.HDSTAT_STATE 0 ∧ t.power.cause = 4
        ∧ t.thermN = true ∧ t.faultN = true ∧ (s.hearthReady = true → ∃ e ∈ t.events, e.ev = .thermalShutdown))
      ∧ (x < 16 * limit → exec (.thermalShutdown u x) s = .next s))
  ∧ (∀ (hottest : Int) (o : Start) (s : State), s.power.shutdown = false ∨ s.hearthReady = false ∨ s.mayStart = false →
      exec (.powerupCommand hottest o) s = .next s)
  ∧ ∀ (hottest : Int) (o : Start) (s : State), s.power.shutdown = true → s.hearthReady = true → s.mayStart = true →
      (16 * 90 ≤ hottest → ∃ t, exec (.powerupCommand hottest o) s = .next t ∧ { t with events := s.events } = s
        ∧ t.logged .powerupRefused 0)
      ∧ (hottest < 16 * 90 → o.refclk = true → ∃ t, exec (.powerupCommand hottest o) s = .next t ∧ t.get F.PWRSTAT_STATE 0 = 3
          ∧ t.power.shutdown = false ∧ t.power.cause = 0 ∧ t.get F.RSTCAUSE_COLD 0 = s.power.cause % 16 ∧ t.hd.boots = (s.hd.boots + 1) % 2 ^ 16)

/-! ## Faults, health and the twin (chapters 15 and 16) -/

/-- R399 to R404, R410, R413, R414, Tables 15-2, 15-3 and 15-7: a drain stops every channel and operation and ends with every context; a link that
loses lanes uses its spares, then half its width, then is fenced with the unit behind it, unless a drain has begun; a margin test's failure acts on its unit and changes
no score; every minute a penalty becomes P × 2^(−60 / (3,600 × HALFLIFE)). -/
def Obligations.Health : Prop :=
  (∀ s : State, s.inv = true →
     (s.get F.DRAINSTAT_STATE 0 = 0 → ∃ t, exec .drain s = .next t ∧ t.get F.DRAINSTAT_STATE 0 = 1
       ∧ t.get F.DRAINSTAT_CAUSE 0 = s.drainDue.getD 0 % 4 ∧ t.draining = true ∧ t.mem = s.mem ∧ t.ask .DRAINCTL 0 = none
       ∧ (∀ k, t.chan k = (s.chan k).act 2) ∧ (∀ k, (s.tagAt k).busy = true → (t.tagAt k).st = 7)
       ∧ (s.hearthReady = true → t.logged .moduleDrain 0)
       ∧ (s.drainDue.getD 0 = 0 → t.power = s.power ∧ t.get F.HEALTHFLAG_REPLACE 0 = s.get F.HEALTHFLAG_REPLACE 0)
       ∧ (s.drainDue.getD 0 ≠ 0 → t.power.fault = true ∧ t.get F.HEALTHFLAG_REPLACE 0 = 1))
     ∧ (s.get F.DRAINSTAT_STATE 0 ≠ 0 → ∃ t, exec .drain s = .next t ∧ { t with regs := s.regs, asks := s.asks } = s
         ∧ t.get F.DRAINSTAT_STATE 0 = s.get F.DRAINSTAT_STATE 0 ∧ t.ask .DRAINCTL 0 = none)
     ∧ (s.get F.DRAINSTAT_STATE 0 = 1 → s.mirrorsOut = false → ∃ t, exec .drainComplete s = .next t
         ∧ t.get F.DRAINSTAT_STATE 0 = 2
         ∧ t.sent = s.sent ++ (if s.twin.present = true then [Sent.drainNotice ((List.range 4).map fun i => SMap.get 0 s.twin.sent i)] else [])
         ∧ t.puts = [] ∧ t.mem = s.mem ∧ ∀ u c, (t.ctx u c).run = .idle ∨ (t.ctx u c).run = .ended)
     ∧ (s.get F.DRAINSTAT_STATE 0 ≠ 1 ∨ s.mirrorsOut = true → exec .drainComplete s = .next s))
  ∧ (∀ (hearth : Bool) (s : State),
      (s.jobRuns = true → ∀ fails, ∃ t, exec (.marginTests hearth fails) s = .next t ∧ { t with regs := s.regs, asks := s.asks } = s
        ∧ t.ask .DRAINCTL 0 = none ∧ t.get F.CSLAST_KIND (bankOf hearth) = 2)
      ∧ (s.jobRuns = false → s.hearthReady = false → ∀ fails, exec (.marginTests hearth fails) s = .next s)
      ∧ (s.jobRuns = false → s.hearthReady = true →
        let one := fun (f : MFail) (p : State → Prop) => ∃ t, exec (.marginTests hearth [f]) s = .next t ∧ p t ∧ t.penalty = s.penalty
          ∧ t.mem = s.mem ∧ ∃ e ∈ t.events, e.ev = .marginFail
        (∃ t, exec (.marginTests hearth []) s = .next t ∧ t.penalty = s.penalty ∧ t.mem = s.mem ∧ t.fab = s.fab
          ∧ t.events = s.events ∧ (∀ u, u < 1152 → (t.tile u).fill.isSome = true ∧ (t.tile u).store = []
            ∧ ∀ c, t.ctx u c = s.ctx u c))
        ∧ (∀ d x, d < 8 → 6 ≤ x → x ≤ 17 → one (.freq d x) fun t => t.get F.GOVSTAT_FREQ d = x)
        ∧ (∀ q, q < 128 → one (.cluster q) fun t => t.clusterFenced q = true)
        ∧ (∀ m, m < 192 → s.service m = 2 → one (.channel m) fun t => t.get F.MCHMAP_MAPOUT m = 1)
        ∧ (∀ p k, p < 48 → k < 16 → one (.lane p k) fun t => t.lstate p k = 3)
        ∧ ∀ u, u < 160 → s.get F.D2DSTAT_WIDTH u = 0 →
            one (.link u true) (fun t => t.get F.D2DSTAT_SPARES u = min 255 (s.get F.D2DSTAT_SPARES u + 1))
            ∧ one (.link u false) fun t => t.get F.D2DSTAT_WIDTH u = 1))
  ∧ (∀ (u : Nat) (s : State), u < 160 →
      let behind := fun (t : State) => (s.hearthReady = true → t.logged .linkFenced u)
        ∧ (u < 16 → bit (t.get F.FENCEOTH_ATT 0) u = true) ∧ (32 ≤ u → t.clusterFenced (u - 32) = true)
        ∧ (s.draining = false → (u < 16 → bit (s.get F.FENCEOTH_ATT 0) u = false) → t.get F.D2DSTAT_WIDTH u = 2)
        ∧ (s.draining = false → 16 ≤ u → u < 32 → t.drainDue.isSome = true)
        ∧ (s.draining = true → t.get F.D2DSTAT_WIDTH u = s.get F.D2DSTAT_WIDTH u ∧ t.tiles = s.tiles)
      let width := s.get F.D2DSTAT_WIDTH u
      (width = 2 → ∀ spare, exec (.linkLaneFail u spare) s = .next s)
      ∧ (width < 2 → ∃ t, exec (.linkLaneFail u true) s = .next t ∧ t.get F.D2DSTAT_WIDTH u = width
          ∧ t.get F.D2DSTAT_SPARES u = min 255 (s.get F.D2DSTAT_SPARES u + 1) ∧ t.tiles = s.tiles ∧ t.mem = s.mem ∧ t.fab = s.fab)
      ∧ (width = 1 → ∃ t, exec (.linkLaneFail u false) s = .next t ∧ behind t)
      ∧ (width = 0 → ∃ t, exec (.linkLaneFail u false) s = .next t ∧ { t with power := s.power } = s ∧ u ∈ t.power.lost)
      ∧ (u ∈ s.power.lost → width < 2 →
          (∃ t, exec (.linkDegraded u false) s = .next t ∧ t.get F.D2DSTAT_WIDTH u = 1 ∧ u ∉ t.power.lost
            ∧ (s.hearthReady = true → t.logged .linkDegraded u) ∧ t.tiles = s.tiles ∧ t.mem = s.mem ∧ t.fab = s.fab)
          ∧ ∃ t, exec (.linkDegraded u true) s = .next t ∧ behind t ∧ u ∉ t.power.lost)
      ∧ (u ∉ s.power.lost → ∀ both, exec (.linkDegraded u both) s = .next s))
  ∧ (∀ (k : Nat) (s : State), k < 12 → exec (.linkLaneFail (160 + k) true) s = .next s
      ∧ (bit (s.get F.FENCEOTH_STACK 0) k = true → exec (.linkLaneFail (160 + k) false) s = .next s)
      ∧ (bit (s.get F.FENCEOTH_STACK 0) k = false → ∃ t, exec (.linkLaneFail (160 + k) false) s = .next t
          ∧ bit (t.get F.FENCEOTH_STACK 0) k = true ∧ t.tiles = s.tiles ∧ t.mem = s.mem
          ∧ (s.draining = false → ∀ c, c / 16 = k → t.stackFenced c = true) ∧ (s.draining = true → t.power.outs = s.power.outs)))
  ∧ (∀ s : State, s.hearthReady = false → exec .healthSave s = .next s ∧ exec .healthDecay s = .next s)
  ∧ (∀ s : State, s.hearthReady = true → SMap.wf 0 s.penalty = true → (∃ t, exec .healthSave s = .next t ∧ t.hd.saved = s.penalty
        ∧ { t with hd := s.hd } = s)
      ∧ (0 < s.get F.HSCFG_HALFLIFE 0 → ∃ t, exec .healthDecay s = .next t ∧ { t with penalty := s.penalty } = s ∧ ∀ k,
          let p := SMap.get 0 s.penalty k
          let n := SMap.get 0 t.penalty k
          let h := 60 * s.get F.HSCFG_HALFLIFE 0
          p < 2 ^ 48 → 2 * n ^ h ≤ p ^ h ∧ p ^ h < 2 * (n + 1) ^ h))

/-- R416 to R418, R421, R423, R426 to R429, R431 to R434: twin operation. Heartbeats carry the module's state and show the peer's; a lost peer
ends protection; a mirror write is applied through its window or discarded, and acknowledged either way; promotion turns every window into a
segment; comparisons end with the result of the two records. -/
def Obligations.Twin : Prop :=
  (∀ s : State, s.bridgeServes = false → exec .heartbeatSend s = .next s)
  ∧ (∀ s : State, s.bridgeServes = true →
     let shown := if s.mirrorsSettled then s.twin.resets else s.twin.shown
     let beat := fun n => Sent.heartbeat (40 + n) s.dev (s.get F.TWINSTAT_ROLE 0) (s.get F.DRAINSTAT_STATE 0) s.twin.launched shown
     ∃ t, exec .heartbeatSend s = .next t ∧ { t with sent := s.sent, twin := s.twin } = s ∧ t.twin = { s.twin with shown := shown }
       ∧ t.sent = s.sent ++ ((List.range 2).filter s.hostPortUp).map beat)
  ∧ (∀ (dev role drain : Nat) (launched : Bool) (resets : Nat) (counts : List Nat) (s : State), s.twin.present = false ∨ s.bridgeUp = false →
      exec (.heartbeatReceived dev role drain launched resets) s = .next s ∧ exec (.drainNotice counts) s = .next s)
  ∧ (∀ s : State, (s.twin.present = false ∨ s.get F.TWINSTAT_PEER 0 = 2 ∨ s.get F.TWINSTAT_PEER 0 = 5 → exec .peerLost s = .next s)
      ∧ (s.twin.present = false → exec .detachNotice s = .next s))
  ∧ (∀ (dev role drain : Nat) (launched : Bool) (resets : Nat) (s : State), s.twin.present = true → s.bridgeUp = true → dev < 256 →
      resets < 2 ^ 16 → ∃ t, exec (.heartbeatReceived dev role drain launched resets) s = .next t ∧ t.tiles = s.tiles ∧ t.mem = s.mem
        ∧ t.fab = s.fab ∧ t.get F.TWINSTAT_PEERDEV 0 = dev
        ∧ t.get F.TWINSTAT_PEER 0 = (if drain = 1 then 3 else if drain = 2 then 4 else if launched then 1 else 6)
        ∧ t.get F.TWINSTAT_MSTATE 0 = s.get F.TWINSTAT_MSTATE 0
        ∧ (role % 2 = s.get F.TWINSTAT_ROLE 0 → t.get F.TWINSTAT_CONFLICT 0 = 1
            ∧ (s.get F.TWINSTAT_CONFLICT 0 = 0 → t.get F.TWINSTAT_FAILOVER 0 = 0 ∧ (s.hearthReady = true → t.logged .twinConflict 0)))
        ∧ (role % 2 ≠ s.get F.TWINSTAT_ROLE 0 → t.get F.TWINSTAT_CONFLICT 0 = s.get F.TWINSTAT_CONFLICT 0 ∧ t.events = s.events)
        ∧ (s.get F.TWINSTAT_PEER 0 = 2 ∨ resets ≠ s.get F.MIRPEER_PEERGEN 0 → t.twin.got = [] ∧ t.get F.MIRPEER_PEERGEN 0 = resets
            ∧ t.get F.MIRPEER_RECEIVED 0 = 0)
        ∧ (s.get F.TWINSTAT_PEER 0 ≠ 2 → resets = s.get F.MIRPEER_PEERGEN 0 → t.twin.got = s.twin.got))
  ∧ (∀ s : State, s.twin.present = true → s.get F.TWINSTAT_PEER 0 ≠ 2 → s.get F.TWINSTAT_PEER 0 ≠ 5 →
      let lost := s.rops.filter fun o => match o.owner with | .mirror _ _ => true | _ => false
      ∃ t, exec .peerLost s = .next t ∧ t.get F.TWINSTAT_PEER 0 = 2 ∧ t.get F.TWINSTAT_FAILOVER 0 = 0 ∧ t.twin.lost = true
        ∧ t.mem = s.mem ∧ t.mirrorsOut = false
        ∧ t.get F.TWINSTAT_MSTATE 0 = (if s.get F.TWINSTAT_MSTATE 0 = 1 then 2 else s.get F.TWINSTAT_MSTATE 0)
        ∧ t.get F.MIRCNT_COUNT 3 = min (2 ^ 64 - 1) (s.get F.MIRCNT_COUNT 3 + lost.length))
  ∧ (∀ (n : Nat) (m : InMsg) (s : State), s.nextIn n m → m.kind = kWRITE → m.key.ep % 16 = 5 → m.key.far % 16 = 2 → s.answers = true →
      s.queuedBefore n m.key.ep < 512 → m.key ∉ s.refusing → bits m.word 62 57 = 0 → 0 < m.size → m.addr % 256 + m.size ≤ 256 →
      m.rest.length = m.size → m.size ≤ 248 →
      let k : StreamKey := { m.key with cls := 1 }
      s.freeSeq k →
      let slice := bankDie m.key.far
      let counts := fun (t : State) => SMap.get 0 t.twin.got slice = SMap.get 0 s.twin.got slice + 1 ∧ t.counted s F.MIRPEER_RECEIVED 0
        ∧ t.keeps k kWACK m.tag []
      let closed := s.draining = true ∧ m.early = false
      let u := State.bump { s.dropIn n with refusing := s.refusing.filter fun x => decide (x ≠ m.key) } F.RMCOUNT_COUNT 0 1
      (closed → ∃ t, exec (.mirrorWrite n) s = .next t ∧ t.keeps k kREFUSE m.tag (leBytes 8 5) ∧ t.mem = s.mem ∧ t.twin = s.twin)
      ∧ (¬ closed → exec (.mirrorWrite n) s = .next ((u.countMirror slice).mirrorInto m))
      ∧ (¬ closed → s.get F.TWINSTAT_CONFLICT 0 = 1 → ∃ t, exec (.mirrorWrite n) s = .next t ∧ counts t ∧ t.mem = s.mem)
      ∧ (¬ closed → s.get F.TWINSTAT_CONFLICT 0 = 0 →
        (s.windowOf m.addr m.size = none → ∃ t, exec (.mirrorWrite n) s = .next t ∧ counts t ∧ t.mem = s.mem
          ∧ t.counted s F.MIRCNT_COUNT 2)
        ∧ ∀ w, s.windowOf m.addr m.size = some w → s.mem.coherent → s.mem.combs = [] → m.size = 32 → m.addr % 32 = 0 →
            let a := s.winLoc w + (m.addr - s.winSrc w)
            (s.place a).2.1 < 2 ^ 25 → s.stackFenced (s.place a).1 = false →
            ∃ t, exec (.mirrorWrite n) s = .next t ∧ counts t ∧ t.counted s F.MIRCNT_COUNT 1
              ∧ t.mem.sector (s.place a).1 (s.place a).2.1 ((s.place a).2.2 / 32) = encodeSector false (m.rest.map BitVec.toNat)
              ∧ t.mem.sectorsKept s.mem (some ((s.place a).1, (s.place a).2.1, (s.place a).2.2 / 32))))
  ∧ (∀ (counts : List Nat) (s : State), s.twin.present = true → s.bridgeUp = true →
      ∃ t, exec (.drainNotice counts) s = .next t ∧ { t with twin := s.twin } = s ∧ t.twin = { s.twin with notice := some (counts.take 4) })
  ∧ (∀ s : State, s.hearthReady = true →
      let promoted := fun (t : State) (gap : Bool) => t.get F.TWINSTAT_PROMOTED 0 = 1 ∧ t.get F.TWINSTAT_GAP 0 = b2n gap
        ∧ t.logged .twinPromoted 0 ∧ t.tiles = s.tiles ∧ t.mem = s.mem ∧ (∀ w, w < 8 → t.get F.MIRWIN_VALID w = 0)
        ∧ (s.get F.TWINCFG_PEN 0 = 1 → ∃ a, t.arrivals = s.arrivals ++ [a] ∧ a.cnum = s.get F.TWINCFG_PCNUM 0 ∧ a.inc = 1 ∧ a.anyEpoch = true)
        ∧ ∀ w, w < 8 → s.winValid w = true → (∀ v, v < 8 → v ≠ w → s.winValid v = true → s.get F.MIRWIN_PROMSEG v ≠ s.get F.MIRWIN_PROMSEG w) →
            let g := s.get F.MIRWIN_PROMSEG w
            t.segValid g = true ∧ t.segBase g = s.winLoc w ∧ t.segLen g = s.winLen w
            ∧ t.get F.SEGDESC_PERM_READ g = s.get F.MIRWIN_PERM_READ w ∧ t.get F.SEGDESC_PERM_WRITE g = s.get F.MIRWIN_PERM_WRITE w
            ∧ t.get F.SEGDESC_PERM_ATOMIC g = s.get F.MIRWIN_PERM_ATOMIC w ∧ t.get F.SEGDESC_RACKVIS g = s.get F.MIRWIN_RACKVIS w
            ∧ t.get F.SEGDESC_HINT g = 0 ∧ t.get F.SEGDESC_PROT g = 0 ∧ t.get F.SEGDESC_MIRROR g = 0
      (∀ late, s.twin.notice = none → exec (.promotion late) s = .next s)
      ∧ (∀ counts late, s.twin.notice = some counts →
        let met := ∀ i, i < 4 → SMap.get 0 s.twin.got i = counts.getD i 0
        (met → ∃ t, exec (.promotion late) s = .next t ∧ promoted t false ∧ t.twin.notice = none)
        ∧ (¬ met → late = true → ∃ t, exec (.promotion late) s = .next t ∧ promoted t true ∧ t.logged .mirrorGap 0)
        ∧ (¬ met → late = false → exec (.promotion late) s = .next s))
      ∧ ∀ hearth : Bool,
          let p := s.get F.TWINSTAT_PEER 0
          (p = 2 ∨ p = 4 ∨ p = 5 → ∃ t, exec (.twinctlPromote hearth) s = .next t ∧ promoted t (decide (p = 2)) ∧ t.ask .TWINCTL 0 = none)
          ∧ (p ≠ 2 → p ≠ 4 → p ≠ 5 → ∃ t, exec (.twinctlPromote hearth) s = .next t ∧ { t with regs := s.regs, asks := s.asks } = s
              ∧ t.get F.CSLAST_KIND (bankOf hearth) = 2 ∧ t.ask .TWINCTL 0 = none))
  ∧ (∀ (hearth : Bool) (s : State),
      (s.get F.DRAINSTAT_STATE 0 = 2 → ∃ t, exec (.twinctlDetach hearth) s = .next t
        ∧ t.sent = s.sent ++ (if s.twin.present = true then [Sent.detachNotice] else [])
        ∧ t.twin = { s.twin with detached := true } ∧ t.bridgeServes = false ∧ t.tiles = s.tiles ∧ t.mem = s.mem ∧ t.ask .TWINCTL 0 = none
        ∧ ∀ p, p < 48 → s.pstate p ≤ 4 → (s.role p).isSome = true → t.pstate p = 5)
      ∧ (s.get F.DRAINSTAT_STATE 0 ≠ 2 → ∃ t, exec (.twinctlDetach hearth) s = .next t ∧ { t with regs := s.regs, asks := s.asks } = s
          ∧ t.get F.CSLAST_KIND (bankOf hearth) = 2))
  ∧ (∀ s : State, s.twin.present = true → ∃ t, exec .detachNotice s = .next t ∧ t.get F.TWINSTAT_PEER 0 = 5
      ∧ t.get F.TWINSTAT_FAILOVER 0 = 0 ∧ (s.hearthReady = true → t.logged .twinDetached 0) ∧ { t with regs := s.regs, events := s.events } = s)
  ∧ (∀ s : State, (s.hostPortUp 2 = false → s.hostPortUp 3 = false → s.get F.TWINCFG_FAILEN 0 = 1 → s.get F.TWINSTAT_PEER 0 = 1 →
        s.get F.TWINSTAT_CONFLICT 0 = 0 → ∃ t, exec (.hostFailover true) s = .next t ∧ { t with regs := s.regs } = s
        ∧ t.get F.TWINSTAT_FAILOVER 0 = 1 ∧ t.get F.TWINSTAT_PEER 0 = 1)
      ∧ exec (.hostFailover false) s = .next s
      ∧ (s.hostPortUp 2 = true ∨ s.hostPortUp 3 = true → ∃ t, exec .hostFailback s = .next t ∧ { t with regs := s.regs } = s
        ∧ t.get F.TWINSTAT_FAILOVER 0 = 0)
      ∧ (s.hostPortUp 2 = false → s.hostPortUp 3 = false → exec .hostFailback s = .next s)
      ∧ (∃ t, exec (.twinPresN true) s = .next t ∧ { t with twin := s.twin } = s ∧ t.twin = { s.twin with present := true })
      ∧ ∃ t, exec (.twinPresN false) s = .next t ∧ t.twin = { s.twin with present := false } ∧ t.get F.TWINSTAT_PEER 0 = 0
        ∧ t.get F.TWINSTAT_FAILOVER 0 = 0 ∧ t.bridgeServes = false ∧ { t with regs := s.regs, twin := s.twin } = s)
  ∧ ∀ (k : Nat) (s : State), k < 256 →
      let ends := fun (t u : State) (point code : Nat) =>
        t.mem = (u.devWrite (s.get F.SHCFG_MBOX 0 * 4096 + 16 * k + 12) [BitVec.ofNat 8 code] 0 0 none).1.mem
        ∧ (∃ a, t.arrivals = s.arrivals ++ [a] ∧ a.cnum = s.get F.SHCFG_CNUM 0 ∧ a.inc = 1) ∧ (∀ y ∈ t.twin.shadows, y.slot ≠ k)
        ∧ (code = 1 → t.counted s F.SHSTAT_MATCHES 0)
        ∧ (code ≠ 1 → t.counted s F.SHSTAT_MISMATCHES 0 ∧ t.get F.SHSTAT_LASTBAD 0 = point)
        ∧ (code = 2 → s.hearthReady = true → t.logged .shadowMismatch 0)
      let judge := fun (a b : Nat) => if a % 2 ^ 32 ≠ b % 2 ^ 32 then 4 else if a = b then 1 else 2
      let others := s.twin.shadows.filter fun y => decide (y.slot ≠ k)
      (s.twin.shadows.find? (fun y => decide (y.slot = k)) = none → exec (.shadowTimeout k) s = .next s ∧ ∀ record,
          record < 2 ^ 96 → s.get F.TWINSTAT_CONFLICT 0 = 0 → s.get F.TWINCFG_SHEN 0 = 1 →
          ∃ t, exec (.shadowRecordReceived k record) s = .next t ∧ { t with twin := s.twin } = s
            ∧ SMap.look t.twin.theirs k = some record ∧ t.twin.shadows = s.twin.shadows)
      ∧ (s.get F.TWINSTAT_CONFLICT 0 = 1 ∨ s.get F.TWINCFG_SHEN 0 = 0 → exec (.shadowCompare k) s = .next s
          ∧ ∀ record, exec (.shadowRecordReceived k record) s = .next s)
      ∧ (s.active = false → exec (.shadowCompare k) s = .next s)
      ∧ (∀ x, s.twin.shadows.find? (fun y => decide (y.slot = k)) = some x →
        (∃ t, exec (.shadowTimeout k) s = .next t ∧ ends t (s.setTwin { s.twin with shadows := others }) (x.record % 2 ^ 32) 3)
        ∧ ∀ record, record < 2 ^ 96 → s.get F.TWINSTAT_CONFLICT 0 = 0 → s.get F.TWINCFG_SHEN 0 = 1 →
            ∃ t, exec (.shadowRecordReceived k record) s = .next t
              ∧ ends t (s.setTwin { s.twin with shadows := others }) (x.record % 2 ^ 32) (judge x.record record))
      ∧ (s.get F.TWINCFG_SHEN 0 = 1 → s.get F.TWINSTAT_CONFLICT 0 = 0 → s.active = true → ∀ u res,
          s.devRead (s.get F.SHCFG_MBOX 0 * 4096 + 16 * k) 12 0 0 = (u, res) →
          (∀ f, res = .error f → exec (.shadowCompare k) s = .next u)
          ∧ ∀ bs, res = .ok bs →
          let r := leValue bs
          (r % 2 ^ 32 = 0 → exec (.shadowCompare k) s = .next u)
          ∧ (r % 2 ^ 32 ≠ 0 →
          (s.get F.TWINSTAT_PEER 0 ≠ 1 → ∃ t, exec (.shadowCompare k) s = .next t
            ∧ ends t (u.setTwin { u.twin with shadows := others }) (r % 2 ^ 32) 3)
          ∧ (s.get F.TWINSTAT_PEER 0 = 1 → SMap.look s.twin.theirs k = none → ∃ t, exec (.shadowCompare k) s = .next t
              ∧ t.twin.shadows = others ++ [⟨k, r⟩] ∧ t.sent = u.sent ++ [Sent.shadow k r] ∧ t.mem = u.mem ∧ t.arrivals = s.arrivals)
          ∧ ∀ x, s.get F.TWINSTAT_PEER 0 = 1 → SMap.look s.twin.theirs k = some x → ∃ t, exec (.shadowCompare k) s = .next t
              ∧ ends t (State.setTwin { u with sent := u.sent ++ [Sent.shadow k r] }
                  { u.twin with shadows := others, theirs := SMap.del u.twin.theirs k }) (r % 2 ^ 32) (judge r x)))

/-! ## Hearth (chapter 17) -/

/-- R438, R439, R441 to R446, R448 to R454, R473, R494, R501: Hearth. The boot ROM starts the slot that R438 chooses; a Hearth reset leaves
the rest of the module alone; events become 32-byte records of the log; an image is staged only if R448 holds; measurements are signed;
a die that fails admission has its ports fenced. -/
def Obligations.Hearth : Prop :=
  (∀ (ready : List Bool) (s : State), s.inv = true →
      let src := s.get F.STRAPS_BOOT_SRC 0
      let ok := fun k => s.imageValid k = true
      let first := fun k => k < 2 ∧ ok k ∧ (s.hd.prefer = some k ∨ s.hd.prefer = none
        ∧ (ok (1 - k) → s.imageVersion (1 - k) < s.imageVersion k ∨ s.imageVersion (1 - k) = s.imageVersion k ∧ k = 0))
      let runs := fun (t : State) k => t.get F.HDSTAT_STATE 0 = 1 ∧ t.get F.HDSTAT_SLOT 0 = k ∧ t.logged .hearthStart 0
        ∧ t.hd.negotiated = false ∧ SMap.get 0 t.hd.meas 1 = s.compDigest k 1
        ∧ SMap.get 0 t.hd.meas 4 = (Config.sha3 s.lockBlock).toNat ∧ t.tiles = s.tiles ∧ t.mem = s.mem ∧ t.fab = s.fab
      let recovers := fun (t : State) => t.get F.HDSTAT_STATE 0 = 2 ∧ t.get F.PWRSTAT_STATE 0 = 0
      (s.get F.HDSTAT_STATE 0 ≠ 0 ∨ s.power.hrefclk = false → exec (.hearthBoot ready) s = .next s)
      ∧ (s.get F.HDSTAT_STATE 0 = 0 → s.power.hrefclk = true → ∃ t, exec (.hearthBoot ready) s = .next t
          ∧ (∀ k, k < 2 → t.get F.HDVER_VALID k = b2n (s.imageValid k) ∧ t.get F.HDVER_VERSION k = s.imageVersion k)
          ∧ (src = 0 → ∀ k, first k → (starts ready = true → runs t k)
              ∧ (starts ready = false → ok (1 - k) → starts (ready.drop 3) = true → runs t (1 - k) ∧ t.logged .slotFallback 0)
              ∧ (starts ready = false → ¬ ok (1 - k) → recovers t))
          ∧ (src = 0 → ∀ k, k < 2 → s.hd.prefer = some k → ¬ ok k → ok (1 - k) →
              (starts ready = true → runs t (1 - k) ∧ t.logged .slotFallback 0) ∧ (starts ready = false → recovers t))
          ∧ (src = 0 → ¬ ok 0 → ¬ ok 1 → (∀ k, s.hd.prefer = some k → k < 2) → recovers t)
          ∧ (src = 1 ∨ src = 2 → ok (src - 1) → starts ready = true → runs t (src - 1))
          ∧ (src = 1 ∨ src = 2 → ¬ ok (src - 1) ∨ starts ready = false → recovers t)
          ∧ (src = 3 → recovers t)))
  ∧ (∀ s : State, s.inv = true → ∃ t, exec .hearthReset s = .next t ∧ t.get F.HDSTAT_STATE 0 = 0 ∧ t.ask .HDCTL 0 = none
      ∧ t.sprinting = false ∧ t.hd.negotiated = false ∧ t.hd.dynamic = none ∧ t.hd.eid = 0 ∧ t.hd.ring = s.hd.ring ∧ t.penalty = s.penalty
      ∧ t.tiles = s.tiles ∧ t.mem = s.mem ∧ t.fab = s.fab ∧ t.tags = s.tags ∧ t.twin = s.twin ∧ t.events = s.events
      ∧ ∀ r i, i < 2 ^ 24 → let own := r.spec.win = .hearth ∧ r.spec.surv = .s0
          (own → t.reg r i = r.dflt i) ∧ (¬ own → r ∉ [.GOVSTAT, .SPRSTAT, .SPRWEAR] → t.reg r i = s.reg r i))
  ∧ (∀ s : State, (∃ t, exec .hrefclkLoss s = .next t ∧ t.power.hrefclk = false ∧ t.hearthReady = false ∧ t.sprinting = false
        ∧ t.tiles = s.tiles ∧ t.mem = s.mem ∧ t.fab = s.fab ∧ t.events = s.events)
      ∧ ∃ t, exec .hrefclkRestored s = .next t ∧ t.power.hrefclk = true ∧ t.tiles = s.tiles ∧ t.mem = s.mem ∧ t.fab = s.fab
          ∧ (s.power.hrefclk = false → s.get F.HDSTAT_STATE 0 = 1 → s.hd.lostNoted < s.get F.LOGLOST_LOST 0 → t.logged .eventsLost 0))
  ∧ (∀ (e : EvRec) (rest : List EvRec) (s : State), s.hearthReady = true → s.events = e :: rest → e.data.length = 14 →
      let n := s.get F.LOGPTR_NEXT 0
      let p := s.get F.LOGPTR_PCOUNT 0
      ∃ t, exec .eventRecord s = .next t ∧ t.tiles = s.tiles ∧ t.mem = s.mem ∧ t.fab = s.fab
        ∧ t.get F.LOGPTR_NEXT 0 = (n + 1) % 524288 ∧ ((SMap.look s.hd.ring n).isSome = true → t.get F.LOGPTR_WRAPPED 0 = 1)
        ∧ ∃ r, SMap.get 0 t.hd.ring n = r ∧ r < 2 ^ 256 ∧ bits r 47 0 = t.hd.usec ∧ bits r 55 48 = e.ev.source ∧ bits r 57 56 = e.ev.sev
          ∧ bits r 58 58 = b2n e.queued ∧ bits r 79 64 = e.ev.code ∧ bits r 95 80 = s.hd.boots % 2 ^ 16 ∧ bits r 111 96 = e.unit % 2 ^ 16
          ∧ bits r 223 112 = leValue e.data ∧ bits r 255 224 = crc32c (leBytes 28 r)
          ∧ (∀ k, k ≠ n → SMap.get 0 t.hd.ring k = SMap.get 0 s.hd.ring k)
          ∧ (e.ev.sev < 2 → t.hd.prot = s.hd.prot ∧ t.get F.LOGPTR_PCOUNT 0 = p)
          ∧ (2 ≤ e.ev.sev → p < 32768 → SMap.get 0 t.hd.prot p = r ∧ t.get F.LOGPTR_PCOUNT 0 = p + 1)
          ∧ (2 ≤ e.ev.sev → 32768 ≤ p → t.hd.prot = s.hd.prot ∧ (s.hd.protNoted = false → t.logged .protlogFull 0 ∧ t.hd.protNoted = true))
          ∧ (s.hd.pldm.length < 1024 → t.hd.pldm = s.hd.pldm ++ [r]) ∧ (s.hd.pldm.length ≤ 1024 → t.hd.pldm.length ≤ 1024)
          ∧ (s.get F.EVRCFG_EN 0 = 1 → t.host.events = s.host.events ++ [r])
          ∧ (s.get F.EVRCFG_EN 0 = 0 → s.get F.EVRCFG_REFUSED 0 = 1 → t.counted s F.EVRSTAT_DROPPED 0 ∧ t.host = s.host))
  ∧ (∀ s : State, s.hearthReady = true → ∃ t, exec .clearProtectedRegion s = .next t ∧ t.hd.prot = [] ∧ t.get F.LOGPTR_PCOUNT 0 = 0
      ∧ t.hd.ring = s.hd.ring ∧ t.get F.LOGPTR_NEXT 0 = s.get F.LOGPTR_NEXT 0 ∧ { t with regs := s.regs, hd := s.hd } = s)
  ∧ (∀ (image : List Byte) (s : State), s.updates = true →
      let k := s.targetSlot
      let onlyHd := fun (t : State) => { t with regs := s.regs, hd := s.hd, sent := s.sent, events := s.events } = s
      (s.hd.updating = true → ∃ t, exec (.requestUpdate image) s = .next t ∧ { t with sent := s.sent } = s
        ∧ t.sent = s.sent ++ [.manage aUPDATE false []])
      ∧ (s.hd.updating = false → ∃ t, exec (.requestUpdate image) s = .next t ∧ onlyHd t ∧ t.sent = s.sent ++ [.manage aUPDATE true []]
        ∧ t.hd.updating = true ∧ t.get F.HDVER_VALID k = 0 ∧ t.imageValid k = false
        ∧ t.get F.HDVER_VALID (1 - k) = s.get F.HDVER_VALID (1 - k)
        ∧ (∀ i b, image[i]? = some b → i < 2 ^ 25 → t.slotByte k i = b) ∧ ∀ i, i < 2 ^ 25 → t.slotByte (1 - k) i = s.slotByte (1 - k) i)
      ∧ (s.hd.updating = true → s.hearthReady = true →
          let good := { s with hd := { s.hd with updating := false, torn := none } }.imageValid k
          ∃ t, exec .verifyComplete s = .next t ∧ onlyHd t ∧ t.hd.updating = false ∧ t.get F.HDVER_VALID k = b2n good ∧ t.imageValid k = good
            ∧ t.sent = s.sent ++ [.manage aVERIFY good []]
            ∧ (good = true → t.logged .updateStaged 0 ∧ t.get F.HDVER_SVN k = s.imageSvn k ∧ t.get F.HDVER_VERSION k = s.imageVersion k)
            ∧ (good = false → t.logged .updateRejected 0))
      ∧ (s.get F.HDVER_VALID k = 1 → ∃ t, exec .activateFirmware s = .next t ∧ onlyHd t ∧ t.regs = s.regs
          ∧ t.hd = { s.hd with prefer := some k, staged := true } ∧ t.sent = s.sent ++ [.manage aACTIVATE true []])
      ∧ (s.get F.HDVER_VALID k = 0 → ∃ t, exec .activateFirmware s = .next t ∧ { t with sent := s.sent } = s
          ∧ t.sent = s.sent ++ [.manage aACTIVATE false []]))
  ∧ (∀ (key : List Byte) (s : State), s.hearthReady = true →
      let k := s.get F.HDSTAT_SLOT 0
      let svn := s.get F.HDVER_SVN k
      let ctr := s.get F.HDFUSE_CTR 0
      (ctr < 64 → ctr < svn → ∃ t, exec .commitSvn s = .next t ∧ t.get F.HDFUSE_CTR 0 = min svn 64 ∧ t.logged .svnCommitted 0
        ∧ t.get F.HDVER_VALID k = s.get F.HDVER_VALID k ∧ { t with regs := s.regs, events := s.events } = s
        ∧ t.get F.HDVER_VALID (1 - k) = (if s.get F.HDVER_SVN (1 - k) < min svn 64 then 0 else s.get F.HDVER_VALID (1 - k)))
      ∧ (64 ≤ ctr ∨ svn ≤ ctr → exec .commitSvn s = .next s)
      ∧ (s.get F.HDFUSE_OLOCK 0 = 0 → ∃ t, exec (.blowOkeyhash key) s = .next t ∧ t.get F.HDFUSE_OLOCK 0 = 1
          ∧ t.hd.okeyHash = (Config.sha3 key).toNat ∧ t.get F.HDFUSE_CTR 0 = ctr ∧ { t with regs := s.regs, hd := s.hd } = s)
      ∧ (s.get F.HDFUSE_OLOCK 0 = 1 → exec (.blowOkeyhash key) s = .next s))
  ∧ (∀ (transcript : List Byte) (s : State), s.hearthReady = true →
      let sig := Config.mldsaSign (BitVec.ofNat 256 s.hd.aliasSeed) transcript
      let replies := fun (i : Instr) kind ok data => ∃ t, exec i s = .next t ∧ { t with sent := s.sent } = s
        ∧ t.sent = s.sent ++ [.manage kind ok data]
      (∃ t, exec (.spdmNegotiateAlgorithms true true) s = .next t ∧ { t with hd := s.hd, sent := s.sent } = s
        ∧ t.hd = { s.hd with negotiated := true } ∧ t.sent = s.sent ++ [.manage aALGORITHMS true []])
      ∧ replies (.spdmNegotiateAlgorithms true false) aALGORITHMS false [] ∧ replies (.spdmNegotiateAlgorithms false true) aALGORITHMS false []
      ∧ replies (.spdmNegotiateAlgorithms false false) aALGORITHMS false []
      ∧ (s.hd.negotiated = true → replies (.spdmChallenge transcript) aCHALLENGE true sig
          ∧ replies (.spdmGetMeasurements 255 transcript) aMEASURE true
              ((List.range 8).flatMap (fun i => leBytes 32 (SMap.get 0 s.hd.meas (i + 1))) ++ sig)
          ∧ ∀ i, 1 ≤ i → i ≤ 8 → replies (.spdmGetMeasurements i transcript) aMEASURE true (leBytes 32 (SMap.get 0 s.hd.meas i) ++ sig))
      ∧ (s.hd.negotiated = false → replies (.spdmChallenge transcript) aCHALLENGE false [])
      ∧ (∀ eid : BitVec 8, ∃ t, exec (.setEndpointId eid) s = .next t ∧ t.hd = { s.hd with eid := eid.toNat } ∧ { t with hd := s.hd } = s)
      ∧ ∀ a : Option (BitVec 7), ∃ t, exec (.i3cDynamicAddress a) s = .next t ∧ t.hd = { s.hd with dynamic := a.map BitVec.toNat }
          ∧ { t with hd := s.hd } = s)
  ∧ (∀ (n vendor step : Nat) (s : State), n < 4 → s.hearthReady = false → exec (.edgeAdmission n vendor step) s = .next s)
  ∧ (∀ (n vendor step : Nat) (s : State), n < 4 → vendor < 2 ^ 16 → s.hearthReady = true → s.active = true →
      (step = 0 → ∃ t, exec (.edgeAdmission n vendor step) s = .next t ∧ t.get F.EDADMIT_STATE n = 1 ∧ t.get F.EDADMIT_VENDOR n = vendor
        ∧ t.get F.EDADMIT_STEP n = 0 ∧ t.logged .edgeAdmitted 0 ∧ t.tiles = s.tiles ∧ t.mem = s.mem)
      ∧ (1 ≤ step → step ≤ 4 → (s.get F.LASERSTAT_PROBE n = 1 → ∃ k, k < 12 ∧ s.pstate (portOf n k) = 6) → ∃ t, exec (.edgeAdmission n vendor step) s = .next t ∧ t.get F.EDADMIT_STATE n = 2
        ∧ t.get F.EDADMIT_VENDOR n = vendor ∧ t.get F.EDADMIT_STEP n = step ∧ t.logged .edgeRejected 0 ∧ SMap.get 0 t.hd.meas (5 + n) = 0
        ∧ t.get F.LASERSTAT_EN n = 0 ∧ (∀ k, k < 12 → t.pstate (portOf n k) = 7) ∧ t.tiles = s.tiles ∧ t.mem = s.mem
        ∧ ∀ m, m < 4 → m ≠ n → t.get F.EDADMIT_STATE m = s.get F.EDADMIT_STATE m ∧ ∀ k, k < 12 → t.pstate (portOf m k) = s.pstate (portOf m k)))
  ∧ (∀ (u : Nat) (s : State), u < 16 → s.active = true → s.get F.EDADMIT_STATE (u / 4) = 1 → bit (s.get F.FENCEOTH_ATT 0) u = false →
      (∃ t, exec (.ucieBringup u 0) s = .next t ∧ t.get F.D2DSTAT_WIDTH u = 0 ∧ { t with regs := s.regs } = s)
      ∧ (∃ t, exec (.ucieBringup u 1) s = .next t ∧ t.get F.D2DSTAT_WIDTH u = 1 ∧ (s.hearthReady = true → t.logged .linkDegraded u)
          ∧ t.tiles = s.tiles ∧ t.mem = s.mem ∧ t.fab = s.fab)
      ∧ (s.get F.D2DSTAT_WIDTH u ≠ 2 → ∃ t, exec (.ucieBringup u 2) s = .next t
          ∧ (s.draining = false → t.get F.D2DSTAT_WIDTH u = 2) ∧ (s.draining = true → t.get F.D2DSTAT_WIDTH u = s.get F.D2DSTAT_WIDTH u)
          ∧ bit (t.get F.FENCEOTH_ATT 0) u = true ∧ t.tiles = s.tiles ∧ t.mem = s.mem)
      ∧ ∀ w, s.get F.D2DSTAT_WIDTH u = 2 → 2 ≤ w → exec (.ucieBringup u w) s = .next s)
  ∧ (∀ (u w : Nat) (s : State), u < 16 → s.get F.EDADMIT_STATE (u / 4) ≠ 1 ∨ bit (s.get F.FENCEOTH_ATT 0) u = true →
      exec (.ucieBringup u w) s = .next s)
  ∧ ∀ (op : TestOp) (s : State), exec (.testPortAccess op) s = .next s

/-! ## The host link (chapter 18) -/

/-- R456, R458 to R466: the host link. Register messages are answered; doorbells move TAIL and HEAD; queues are served in rotation, an entry
with BARRIER waits, a launch answers the first check of Table 18-4 that fails or starts its contexts; completions become records, written at
TAIL with PHASE and followed by INTR; a refused record or event clears EN and sets REFUSED. -/
def Obligations.HostLink : Prop :=
  (∀ (n : Nat) (m : InMsg) (s : State), s.nextIn n m → m.key.dev = ka2 → (edgeDie m.key.ep).isSome = true →
      let k : StreamKey := { m.key with cls := 1 }
      let off := bits (leValue (m.data.take 8)) 39 0
      let size := bits (leValue (m.data.take 8)) 47 40
      let u := (s.dropIn n).writeSpace false off (m.data.drop 8)
      let answers := fun (i : Instr) kind data (p : State → Prop) => ∃ t, exec i s = .next t ∧ t.keeps k kind m.tag data
        ∧ t.fab.inbox = s.fab.inbox.eraseIdx n ∧ p t
      let bad := fun (t : State) => t.get F.CSLAST_KIND 0 = 4 ∧ t.get F.CSLAST_OFFSET 0 = off ∧ t.counted s F.CSCOUNT_COUNT 0
        ∧ t.mem = s.mem ∧ t.tiles = s.tiles ∧ t.counters = s.counters ∧ t.asks = s.asks
      (m.kind = kREGRD → accessOk off size = true → m.data.length = 8 → exec (.regrd n) s = .next
          (((s.dropIn n).readSpace false off size).2.hostAnswer m kDATA ((List.range size).map fun i => s.readByte false (off + i))))
      ∧ (m.kind = kREGWR → accessOk off size = true → m.data.length = 8 + size → exec (.regwr n) s = .next (u.hostAnswer m kDONE [0]))
      ∧ (m.kind ≠ kREGRD → exec (.regrd n) s = .next s) ∧ (m.kind ≠ kREGWR → exec (.regwr n) s = .next s)
      ∧ (s.freeSeq k →
      (m.kind = kREGRD → accessOk off size = true → m.data.length = 8 →
        answers (.regrd n) kDATA ((List.range size).map fun i => s.readByte false (off + i)) fun t =>
          t.mem = s.mem ∧ t.tiles = s.tiles ∧ t.asks = s.asks)
      ∧ (m.kind = kREGRD → accessOk off size = false → answers (.regrd n) kDONE [2] bad)
      ∧ (m.kind = kREGWR → accessOk off size = false → answers (.regwr n) kDONE [2] bad)
      ∧ (m.kind = kREGWR → accessOk off size = true → m.data.length = 8 + size → u.freeSeq k → u.fab.inbox = s.fab.inbox.eraseIdx n →
          answers (.regwr n) kDONE [0] fun t => t.regs = u.regs ∧ t.asks = u.asks ∧ t.counters = u.counters ∧ t.mem = u.mem
            ∧ t.tiles = u.tiles ∧ t.chans = u.chans)))
  ∧ (∀ (q : Nat) (v : BitVec 12) (s : State), q < 64 → 2 ≤ s.get F.PWRSTAT_STATE 0 → s.get F.PWRSTAT_STATE 0 ≤ 7 →
      (∃ t, exec (.sqDoorbell q v) s = .next t ∧ { t with regs := s.regs } = s ∧ t.get F.SQDB_TAIL q = v.toNat
        ∧ t.get F.SQDB_HEAD q = s.get F.SQDB_HEAD q ∧ ∀ p, p < 64 → p ≠ q → t.reg .SQDB p = s.reg .SQDB p)
      ∧ ∃ t, exec (.cqDoorbell q v) s = .next t ∧ { t with regs := s.regs } = s ∧ t.get F.CQDB_HEAD q = v.toNat
        ∧ t.get F.CQDB_TAIL q = s.get F.CQDB_TAIL q ∧ ∀ p, p < 64 → p ≠ q → t.reg .CQDB p = s.reg .CQDB p)
  ∧ (∀ (d : EntryRead) (s : State),
      (s.active = false ∨ s.hostPath = false ∨ s.nextQueue = none → exec (.commandStart d) s = .next s)
      ∧ ∀ q, s.active = true → s.hostPath = true → s.nextQueue = some q →
          (s.wantDie q ≠ s.queueDie q → exec (.commandStart d) s = .next (s.hostSend (s.queueDie q) kFLUSH (.flush q) []))
          ∧ (s.wantDie q = s.queueDie q → exec (.commandStart d) s = .next (s.serveQueue q d)))
  ∧ (∀ (q : Nat) (s : State), q < 64 → s.active = true → s.hostPath = true → s.host.turn < 64 →
      (∀ c ∈ s.host.cmds, c.id < s.nextId) →
      let able := fun p => s.queueServes p = true ∧ s.queueFree p = true ∧ s.flushing p = false
      able q → (∀ p, p < 64 → able p → (q + 64 - s.host.turn) % 64 ≤ (p + 64 - s.host.turn) % 64) → s.wantDie q = s.queueDie q →
      let n := 2 ^ s.get F.SQCFG_LOG2N q
      let head := s.get F.SQDB_HEAD q
      let took := fun (t : State) => t.host.turn = (q + 1) % 64 ∧ (n ≤ 4096 → t.get F.SQDB_HEAD q = (head + 1) % n)
      let done := fun (t : State) (status info : Nat) => t.host.cmds = s.host.cmds ∧ ∃ y : HRec, t.host.recs = s.host.recs ++ [y]
        ∧ y.ring = s.get F.SQCFG_CQ q ∧ y.queue = q ∧ y.sent = false
        ∧ y.data = leBytes 2 head ++ leBytes 1 q ++ leBytes 1 status ++ leBytes 4 0 ++ leBytes 8 info ++ leBytes 16 0
      let starts := fun (d : EntryRead) (p : State → Prop) => ∃ t, exec (.commandStart d) s = .next t ∧ p t
      (SMap.look s.host.waiting q = none →
        starts .refused (fun t => took t ∧ done t stHOSTWINDOW 0) ∧ starts .lost (fun t => took t ∧ done t stHOSTLINK 0)
        ∧ ∀ d : List Byte, d.length = 128 →
          let e := leValue d
          let kind := bits e 7 0
          let answers := fun status info => starts (.entry d) fun t => took t ∧ done t status info
          (bit e 8 = true → s.queueBusy q = true → starts (.entry d) fun t => took t ∧ SMap.look t.host.waiting q = some e
            ∧ t.host.cmds = s.host.cmds ∧ t.host.recs = s.host.recs ∧ t.tiles = s.tiles ∧ t.mem = s.mem)
          ∧ ((bit e 8 = true → s.queueBusy q = false) →
            (kind = 0 → answers stOK 0)
            ∧ (5 ≤ kind → answers stBADCMD 0)
            ∧ (kind = 1 →
              let ts := (List.range s.tileCount).filter fun t => !s.tileFenced t && !(decide (bits e 18 17 = 3) && decide (s.clusterOf t % 2 = 1))
              let c : Ctxt := if bit e 9 then .L else .F
              let num := bits e 383 256
              (s.badLaunch e = true → answers stBADFIELD 0)
              ∧ (s.badLaunch e = false → s.draining = true → answers stDRAINED 0)
              ∧ (s.badLaunch e = false → s.draining = false → bit e 10 = true →
                let busy := ∃ t ∈ ts, (s.ctx t c).run = .running ∨ (s.ctx t c).run = .stopping
                let job := s.host.job = true
                let one := job ∧ bits e 16 16 ≠ s.get F.INTEGCFG_CLASS 0
                let two := job ∧ bits e 18 17 ≠ s.get F.CRUSTCFG_LEVEL 0
                let three := job ∧ num ≠ s.reg .NUMCFG 0
                (busy → answers stCTX_BUSY 0)
                ∧ (¬ busy → one → answers stINTEGRITY 0)
                ∧ (¬ busy → ¬ one → two → answers stCRUST 0)
                ∧ (¬ busy → ¬ one → ¬ two → numReserved num = true → answers stNUM_INVALID 0)
                ∧ (¬ busy → ¬ one → ¬ two → numReserved num = false → three → answers stNUM_MISMATCH 0)
                ∧ (¬ busy → ¬ one → ¬ two → numReserved num = false → ¬ three →
                  (s.segsBad = true → answers stSEGMENT 0)
                  ∧ (s.segsBad = false → s.winsBad = true → answers stMIRWIN 0)
                  ∧ (s.segsBad = false → s.winsBad = false → s.mailboxBad = true → answers stSHADOW 0)
                  ∧ (s.segsBad = false → s.winsBad = false → s.mailboxBad = false →
                      (ts = [] → answers stOK 0)
                      ∧ (ts ≠ [] → starts (.entry d) fun t => took t ∧ t.host.job = true ∧ t.reg .NUMCFG 0 = num ∧ t.get F.CRUSTCFG_LEVEL 0 = bits e 18 17
                          ∧ t.get F.INTEGCFG_CLASS 0 = bits e 16 16 ∧ t.host.recs = s.host.recs ∧ t.mem = s.mem
                          ∧ (∃ k, t.hostCmd s.nextId = some k ∧ k.entry = e ∧ k.started = ts.length ∧ k.left = ts.length ∧ k.nfault = 0)
                          ∧ (∀ u, u ∉ ts → t.tile u = s.tile u) ∧ ∀ u ∈ ts,
                            let x := t.ctx u c
                            let y := s.ctx u c
                            x.run = .running ∧ x.pc = BitVec.ofNat 48 (bits e 127 64) ∧ x.rdS 1 = BitVec.ofNat 64 (bits e 191 128)
                            ∧ x.loops = [] ∧ x.inh = false ∧ (∀ j, j ≠ 1 → x.rdS j = y.rdS j) ∧ (∀ j, x.rdP j = y.rdP j) ∧ x.v = y.v
                            ∧ x.fvec = y.fvec ∧ x.fmask = y.fmask)))))
            ∧ ((kind = 2 ∨ kind = 3 ∨ kind = 4) →
              let dev := bits e 191 128
              let len := bits e 255 192
              (badDma e = true → answers stBADFIELD 0)
              ∧ (badDma e = false → len = 0 → answers stOK 0)
              ∧ (badDma e = false → 0 < len → s.capacity < dev + len → answers stADDRESS (max dev s.capacity))
              ∧ (badDma e = false → 0 < len → dev + len ≤ s.capacity → kind = 2 → ∀ tag, s.hostTag (s.queueDie q) = some tag →
                  starts (.entry d) fun t => took t ∧ t.mem = s.mem ∧ t.host.recs = s.host.recs ∧ (∃ k, t.hostCmd s.nextId = some k ∧ k.entry = e ∧ k.pos = 0)
                    ∧ ∃ r ∈ t.host.reqs, r.tag = tag ∧ r.die = s.queueDie q
                      ∧ r.what = .dmaIn s.nextId 0 (min (min len 256) (256 - bits e 127 64 % 256))))))
      ∧ ∀ w, SMap.look s.host.waiting q = some w → bits w 7 0 = 0 → ∀ d, starts d fun t => SMap.look t.host.waiting q = none
          ∧ t.get F.SQDB_HEAD q = head ∧ t.host.cmds = s.host.cmds ∧ ∃ y : HRec, t.host.recs = s.host.recs ++ [y] ∧ y.queue = q)
  ∧ (∀ (id : Nat) (c : HostCmd) (s : State), s.hostCmd id = some c →
      let ends := fun (t : State) (status : Nat) => { t with host := s.host } = s ∧ t.hostCmd id = none
        ∧ t.host.recs = s.host.recs ++ [⟨s.get F.SQCFG_CQ c.queue, c.queue, c.record status, false⟩]
      (bits c.entry 7 0 = 1 → c.left ≠ 0 → exec (.launchComplete id) s = .next s)
      ∧ (bits c.entry 7 0 = 1 → c.left = 0 → c.nfault = 0 → ∃ t, exec (.launchComplete id) s = .next t ∧ ends t stOK
          ∧ c.record stOK = leBytes 2 c.index ++ leBytes 1 c.queue ++ leBytes 1 stOK ++ leBytes 4 0 ++ leBytes 8 c.info ++ leBytes 8 0
            ++ leBytes 4 c.started ++ leBytes 4 0)
      ∧ (∀ tile l f, bits c.entry 7 0 = 1 → c.left = 0 → 0 < c.nfault → c.report = some (tile, l, f) →
          ∃ t, exec (.launchComplete id) s = .next t ∧ ends t stFAULT
          ∧ c.record stFAULT = leBytes 2 c.index ++ leBytes 1 c.queue ++ leBytes 1 stFAULT
            ++ leBytes 2 (b2n f.inh * 2 ^ 15 + b2n f.unit * 2 ^ 8 + f.cause.toNat) ++ leBytes 2 (b2n l * 2 ^ 15 + tile) ++ leBytes 8 f.info.toNat
            ++ leBytes 6 f.pc.toNat ++ leBytes 2 (min c.nfault 65535) ++ leBytes 4 c.started ++ leBytes 4 0)
      ∧ (bits c.entry 7 0 ≠ 1 → bits c.entry 255 192 ≤ c.pos → (∀ r ∈ s.host.reqs, ∀ o k, r.what ≠ .dmaIn id o k ∧ r.what ≠ .dmaOut id k) →
          ∃ t, exec (.dmaComplete id) s = .next t ∧ ends t c.status))
  ∧ (∀ (n : Nat) (m : InMsg) (r : HReq) (s : State), s.nextIn n m → m.key.dev = ka2 → (edgeDie m.key.ep).isSome = true → s.linkReq m = some r →
      let u := (s.dropIn n).dropReq r
      let gone := fun (t : State) => r ∉ t.host.reqs ∧ t.fab.inbox = s.fab.inbox.eraseIdx n
      (m.kind ≠ kDATA → exec (.data n) s = .next s) ∧ (m.kind ≠ kDONE → exec (.done n) s = .next s)
      ∧ (m.kind = kDATA → (s.dataWaits r = true → exec (.data n) s = .next s)
          ∧ ∀ id off k, r.what = .dmaIn id off k → s.dataWaits r = false → exec (.data n) s = .next (u.dmaData id off (m.data.take k)))
      ∧ (m.kind = kDONE → exec (.done n) s = .next (if leValue (m.data.take 1) = 0 then u.linkDone r.what else u.linkRefused r.what))
      ∧
      (∀ id off k c, m.kind = kDATA → r.what = .dmaIn id off k → s.hostCmd id = some c → c.status = stOK → s.dataWaits r = false →
        let bs := m.data.take k
        let w := u.devWrite (bits c.entry 191 128 + off) bs (bits c.entry 11 9) 0 none
        (w.2 = none → bits c.entry 255 192 ≤ off + bs.length → ∃ t, exec (.data n) s = .next t ∧ t.mem = w.1.mem ∧ r ∉ t.host.reqs
          ∧ t.hostCmd id = some { c with pos := off + bs.length })
        ∧ ∀ f, w.2 = some f → ∃ t, exec (.data n) s = .next t ∧ t.mem = w.1.mem ∧ r ∉ t.host.reqs
          ∧ t.hostCmd id = some { c with status := stMEMERR, info := f.2 / 32 * 32, pos := bits c.entry 255 192 })
      ∧ (m.kind = kDONE →
        let good := leValue (m.data.take 1) = 0
        (∀ id k c, r.what = .dmaOut id k → s.hostCmd id = some c → c.status = stOK → bits c.entry 255 192 ≤ c.pos + k → good →
          ∃ t, exec (.done n) s = .next t ∧ gone t ∧ t.hostCmd id = some { c with pos := c.pos + k } ∧ t.mem = s.mem)
        ∧ (∀ id o k c, r.what = .dmaIn id o k ∨ r.what = .dmaOut id k → s.hostCmd id = some c → ¬ good →
          ∃ t, exec (.done n) s = .next t ∧ gone t ∧ t.hostCmd id = some { c with status := stHOSTWINDOW, info := 0, pos := bits c.entry 255 192 }
            ∧ t.mem = s.mem)
        ∧ (∀ g, r.what = .record g → g < 64 →
            (good → ∃ t, exec (.done n) s = .next t ∧ gone t ∧ t.host.recs = s.host.recs.filter (fun x => !(decide (x.ring = g) && x.sent))
              ∧ t.regs = s.regs)
            ∧ (¬ good → s.get F.CQCFG_LOG2N g ≤ 12 → ∃ t, exec (.done n) s = .next t ∧ gone t ∧ t.get F.CQCFG_EN g = 0 ∧ t.get F.CQCFG_REFUSED g = 1
              ∧ t.get F.CQDB_TAIL g = (s.get F.CQDB_TAIL g + 2 ^ s.get F.CQCFG_LOG2N g - 1) % 2 ^ s.get F.CQCFG_LOG2N g
              ∧ t.host.recs = s.host.recs.map fun (x : HRec) => if x.ring = g then { x with sent := false } else x))
        ∧ (r.what = .event →
            (good → ∃ t, exec (.done n) s = .next t ∧ gone t ∧ t.host.evSent = none ∧ t.host.events = s.host.events ∧ t.regs = s.regs)
            ∧ (¬ good → ∃ t, exec (.done n) s = .next t ∧ gone t ∧ t.host.evSent = none ∧ t.host.events = [] ∧ t.get F.EVRCFG_EN 0 = 0
              ∧ t.get F.EVRCFG_REFUSED 0 = 1 ∧ t.get F.EVRSTAT_DROPPED 0 = min (2 ^ 32 - 1) (s.get F.EVRSTAT_DROPPED 0 + s.host.events.length + 1)))
        ∧ (∀ q, r.what = .flush q → ∃ t, exec (.done n) s = .next t ∧ gone t ∧ t.queueDie q = s.wantDie q ∧ t.regs = s.regs)))
  ∧ (∀ (n : Nat) (m : InMsg) (s : State), s.nextIn n m → m.key.dev = ka2 → (edgeDie m.key.ep).isSome = true → s.linkReq m = none →
      (m.kind = kDATA → exec (.data n) s = .next (s.dropIn n)) ∧ (m.kind = kDONE → exec (.done n) s = .next (s.dropIn n)))
  ∧ (∀ (g : Nat) (x : HRec) (s : State), g < 64 → s.host.recs.find? (fun y => decide (y.ring = g)) = some x →
      let n := 2 ^ s.get F.CQCFG_LOG2N g
      let at_ := s.get F.CQDB_TAIL g
      let full := (at_ + 1) % n = s.get F.CQDB_HEAD g % n
      (s.get F.CQCFG_EN g = 0 ∨ full ∨ x.sent = true → exec (.completionRecord g) s = .next s)
      ∧ ∀ tag two die, die = s.queueDie x.queue → n ≤ 4096 → s.get F.CQCFG_EN g = 1 → ¬ full → x.sent = false → s.hostPath = true →
          s.hostRoom die 2 = true → (∀ r ∈ s.host.reqs, r.what ≠ .record g) → s.hostTag die = some tag → two < 256 → two ≠ tag →
          (∀ r ∈ s.host.reqs, r.die = die → r.tag ≠ two) → s.freeSeq (hostStream die 0) →
          (∀ y ∈ s.fab.out, y.key = hostStream die 0 → y.seq ≠ ((s.fab.outStream (hostStream die 0)).next + 1) % 65536) →
          let ph := 1 - SMap.get 0 s.host.phase g
          ∃ t, exec (.completionRecord g) s = .next t ∧ t.get F.CQDB_TAIL g = (at_ + 1) % n ∧ t.mem = s.mem ∧ t.tiles = s.tiles
            ∧ t.keeps (hostStream die 0) kDMAWR tag
                (leBytes 8 ((s.get F.CQCFG_BASE g + 32 * at_) % 2 ^ 64) ++ x.data.take 31 ++ leBytes 1 ph)
            ∧ (∃ r ∈ t.host.reqs, r = ⟨die, tag, .record g⟩)
            ∧ SMap.get 0 t.host.phase g = (if (at_ + 1) % n = 0 then ph else SMap.get 0 s.host.phase g)
            ∧ (∀ y ∈ t.host.recs, y.sent = true ∨ y ∈ s.host.recs)
            ∧ (s.get F.CQCFG_IEN g = 1 → ∃ i, t.keeps (hostStream die 0) kINTR i (leBytes 2 (s.get F.CQCFG_IVEC g))))
  ∧ ∀ (e : Nat) (es : List Nat) (s : State), s.host.events = e :: es → s.get F.EVRCFG_EN 0 = 1 → s.hearthReady = true → s.host.evSent = none →
      s.hostPath = true →
      let n := 2 ^ s.get F.EVRCFG_LOG2N 0
      let at_ := s.get F.EVRSTAT_TAIL 0
      let full := (at_ + 1) % n = s.get F.EVRCFG_HEAD 0 % n
      let die := s.wantDie 0
      s.hostRoom die 2 = true →
      (full → ∃ t, exec .eventRingWrite s = .next t ∧ t.host = { s.host with events := es } ∧ t.counted s F.EVRSTAT_DROPPED 0
        ∧ { t with host := s.host, regs := s.regs } = s)
      ∧ (¬ full → ∀ tag two, s.hostTag die = some tag → two < 256 → two ≠ tag → (∀ r ∈ s.host.reqs, r.die = die → r.tag ≠ two) →
          s.freeSeq (hostStream die 0) →
          (∀ y ∈ s.fab.out, y.key = hostStream die 0 → y.seq ≠ ((s.fab.outStream (hostStream die 0)).next + 1) % 65536) →
          ∃ t, exec .eventRingWrite s = .next t ∧ t.host.events = es ∧ t.host.evSent = some e ∧ t.get F.EVRSTAT_TAIL 0 = (at_ + 1) % n
            ∧ t.mem = s.mem ∧ t.tiles = s.tiles
            ∧ t.keeps (hostStream die 0) kDMAWR tag
                (leBytes 8 ((s.get F.EVRCFG_BASE 0 + 32 * at_) % 2 ^ 64) ++ leBytes 32 (setBits e 63 63 (1 - s.host.evPhase)))
            ∧ ∃ i, t.keeps (hostStream die 0) kINTR i (leBytes 2 (s.get F.EVRCFG_IVEC 0)))

/-! ## Resets, power states and pins (chapters 19 and 20) -/

/-- R436, R470 to R482, R488, R491, Tables 19-2, 19-4 and 20-1: resets and power states. Each keeps and discards what Table 19-4 says: a compute
reset ends the job and keeps memory and every S1, S2 and S3 setting; a warm reset returns S0 and S1 to their defaults; Nap keeps the
registers; Deep keeps those marked RESTORED; a loss of power to the dies leaves S3 alone. -/
def Obligations.Resets : Prop :=
  let refused := fun (i : Instr) (hearth : Bool) (s : State) => ∃ t, exec i s = .next t ∧ { t with regs := s.regs, asks := s.asks } = s
    ∧ t.ask .RSTCTL 0 = none ∧ t.get F.CSLAST_VALID (bankOf hearth) = 1 ∧ t.get F.CSLAST_KIND (bankOf hearth) = 2
    ∧ t.get F.PWRSTAT_STATE 0 = s.get F.PWRSTAT_STATE 0
  let jobOver := fun (t : State) => t.counters = [] ∧ t.tasks = [] ∧ t.chans = [] ∧ t.tags = [] ∧ t.puts = [] ∧ t.host.cmds = [] ∧ t.host.job = false
  let settings := [Reg.SEGDESC, .DLBCTL, .NUMCFG, .CRUSTCFG, .INTEGCFG, .FENCENOTE, .MIRWIN, .SHCFG, .SQCFG, .SQDB, .CQCFG, .CQDB]
  let plans := [Reg.FABCTL, .RTENT, .DWENT, .CPCUR, .PLBUND, .PLLANE, .RMCTL, .RMALIAS, .POWERCAP, .DIEREF, .TWINCFG, .STRAPS, .EVRCFG, .EVRSTAT,
    .LDMAP, .HSCFG, .HDFUSE]
  (∀ (hearth : Bool) (fails : List MFail) (s : State), s.inv = true →
      (s.active = false → refused (.computeReset hearth fails) hearth s)
      ∧ (s.active = true → ∃ t, exec (.computeReset hearth fails) s = .next t ∧ jobOver t ∧ t.tiles = [] ∧ t.get F.PWRSTAT_STATE 0 = 3
          ∧ t.pg = true ∧ t.counted s F.RSTCAUSE_NCOMPUTE 0 ∧ t.get F.DRAINSTAT_STATE 0 = 0 ∧ t.sprinting = false
          ∧ (s.gens = [] → t.mem = s.mem) ∧ t.fab = s.fab ∧ t.rx = s.rx ∧ t.plan = s.plan ∧ t.twin.resets = (s.twin.resets + 1) % 2 ^ 16
          ∧ (∀ c ∈ s.host.cmds, ∃ y ∈ t.host.recs, y.queue = c.queue ∧ y.data = c.record stRESET)
          ∧ t.get F.TWINSTAT_MSTATE 0 = 0 ∧ t.get F.TWINSTAT_PROMOTED 0 = 0 ∧ t.get F.TWINSTAT_GAP 0 = 0
          ∧ (∀ f ∈ [F.TWINSTAT_ROLE, F.TWINSTAT_PEER, F.TWINSTAT_PEERDEV, F.TWINSTAT_CONFLICT, F.TWINSTAT_FAILOVER], t.get f 0 = s.get f 0)
          ∧ (s.plan = none → t.get F.CPSTAT_LAST 0 = 5) ∧ t.hd.saved = s.penalty
          ∧ ∀ r i, i < 2 ^ 24 →
              (r.spec.surv = .s0 → r.runs = false → t.reg r i = r.dflt i)
              ∧ (r.spec.surv ≠ .s0 → r ∉ [.RSTCAUSE, .SPRWEAR, .LOGLOST, .FENCECL, .FENCEARR, .FENCETILE, .FENCEOTH, .D2DSTAT] → t.reg r i = s.reg r i)))
  ∧ (∀ (hearth : Bool) (o : Start) (s : State), s.inv = true →
      (s.active = false → s.get F.PWRSTAT_STATE 0 ≠ 6 → refused (.warmReset hearth o) hearth s)
      ∧ (s.active = true ∨ s.get F.PWRSTAT_STATE 0 = 6 → ∃ t, exec (.warmReset hearth o) s = .next t ∧ (o.fails = [] → jobOver t ∧ t.tiles = [])
          ∧ t.get F.PWRSTAT_STATE 0 = 3 ∧ t.get F.RSTCAUSE_WARM 0 = (if hearth then 2 else 1) ∧ t.get F.RSTCAUSE_COLD 0 = s.get F.RSTCAUSE_COLD 0
          ∧ t.get F.HDSTAT_STATE 0 = s.get F.HDSTAT_STATE 0 ∧ t.rops = [] ∧ t.fab.out = [] ∧ t.fab.ins = [] ∧ t.fab.inbox = []
          ∧ (∀ r ∈ settings, ∀ i, i < 2 ^ 24 → t.reg r i = r.dflt i) ∧ (∀ r ∈ plans, ∀ i, i < 2 ^ 24 → t.reg r i = s.reg r i)
          ∧ (∀ f ∈ [F.TWINSTAT_PEER, F.TWINSTAT_PEERDEV, F.TWINSTAT_FAILOVER, F.TWINSTAT_MSTATE, F.TWINSTAT_PROMOTED, F.TWINSTAT_GAP], t.get f 0 = 0)
          ∧ (∀ f ∈ [F.TWINSTAT_ROLE, F.TWINSTAT_CONFLICT], t.get f 0 = s.get f 0)
          ∧ (o.fails = [] → s.fencedUnits = [] → s.power.outs = [] → s.gens = [] → s.mem.combs = [] → s.mem.coherent →
              ((∀ m, m < 192 → s.get F.MCHMAP_ACTIVE m ≠ s.get F.MCHMAP_MAPOUT m) → t.mem.sectorsKept s.mem none ∧ t.mem.lines = [])
              ∧ ((∃ m, m < 192 ∧ s.get F.MCHMAP_ACTIVE m = s.get F.MCHMAP_MAPOUT m) → t.mem.hbm = [] ∧ t.mem.lines = []
                  ∧ ∀ m, m < 192 → t.get F.MCHMAP_ACTIVE m = 1 - s.get F.MCHMAP_MAPOUT m))))
  ∧ (∀ (hearth : Bool) (o : Start) (s : State), s.inv = true → s.mem.combs = [] → s.mem.coherent →
      let st := s.get F.PWRSTAT_STATE 0
      let sleeps := fun (i : Instr) code => ∃ t, exec i s = .next t ∧ t.get F.PWRSTAT_STATE 0 = code ∧ t.pg = false ∧ t.ask .RSTCTL 0 = none
        ∧ t.mem.sectorsKept s.mem none ∧ t.mem.lines = [] ∧ t.tiles = s.tiles ∧ t.counters = s.counters ∧ t.fab = s.fab
        ∧ ∀ r i, i < 2 ^ 24 → r ∉ [.PWRSTAT, .RSTCTL, .LASERSTAT] → t.reg r i = s.reg r i
      let denied := fun (i : Instr) => refused i hearth s ∧ ∃ t, exec i s = .next t ∧ t.get F.PWRSTAT_REFUSED 0 = 1
      (s.active = true → s.sleepRefused = false → sleeps (.enterNap hearth) 6
        ∧ ∃ t, exec (.enterNap hearth) s = .next t ∧ ∀ n, n < 4 → t.reg .LASERSTAT n = s.reg .LASERSTAT n) ∧ (s.active = true → s.sleepRefused = true → denied (.enterNap hearth))
      ∧ (s.active = false → refused (.enterNap hearth) hearth s)
      ∧ (s.active = true ∨ st = 6 → s.sleepRefused = false → (s.gens = [] → sleeps (.enterDeep hearth) 9)
        ∧ ∃ t, exec (.enterDeep hearth) s = .next t ∧ t.get F.PWRSTAT_STATE 0 = 9 ∧ t.pg = false ∧ t.hd.saved = s.penalty
          ∧ ∀ n, n < 4 → t.reg .LASERSTAT n = 0 ∧ t.laserPin n = false)
      ∧ (s.active = true ∨ st = 6 → s.sleepRefused = true → denied (.enterDeep hearth))
      ∧ (s.active = false → st ≠ 6 → refused (.enterDeep hearth) hearth s)
      ∧ (st = 6 → ∃ t, exec (.leaveNap hearth) s = .next t ∧ t.get F.PWRSTAT_STATE 0 = 3 ∧ t.pg = true ∧ t.tiles = [] ∧ t.mem = s.mem
          ∧ t.counters = s.counters ∧ t.fab = s.fab ∧ t.host = s.host ∧ t.get F.PWRSTAT_DEFAULTS_RESTORED 0 = s.get F.PWRSTAT_DEFAULTS_RESTORED 0
          ∧ ∀ r i, i < 2 ^ 24 → r ∉ [.PWRSTAT, .RSTCTL] → t.reg r i = s.reg r i)
      ∧ (st ≠ 6 → refused (.leaveNap hearth) hearth s)
      ∧ (hearth = false ∨ st ≠ 9 → refused (.leaveDeep hearth o) hearth s)
      ∧ (hearth = true → st = 9 → ∃ t, exec (.leaveDeep hearth o) s = .next t ∧ t.get F.PWRSTAT_STATE 0 = 3
          ∧ t.get F.PWRSTAT_DEFAULTS_RESTORED 0 = 1 ∧ t.pg = true ∧ t.tiles = [] ∧ t.tags = [] ∧ t.mem = s.mem ∧ t.counters = []
          ∧ t.fab.out = [] ∧ t.fab.inbox = []
          ∧ (∀ f ∈ [F.TWINSTAT_PEER, F.TWINSTAT_PEERDEV, F.TWINSTAT_FAILOVER, F.TWINSTAT_MSTATE, F.TWINSTAT_PROMOTED, F.TWINSTAT_GAP], t.get f 0 = 0)
          ∧ t.get F.PWRSTAT_REFUSED 0 = 0
          ∧ (∀ r ∈ settings, ∀ i, i < 2 ^ 24 → t.reg r i = if r.spec.deep = .defaults then r.dflt i else s.reg r i)
          ∧ ∀ r ∈ plans, ∀ i, i < 2 ^ 24 → t.reg r i = if r.spec.deep = .defaults then r.dflt i else s.reg r i))
  ∧ (∀ (o : Start) (s : State), s.inv = true →
      (s.mayStart = false → exec (.coldReset o) s = .next s)
      ∧ (s.mayStart = true →
          let held := s.get F.PWRSTAT_STATE 0 = 0 ∧ s.get F.HDSTAT_STATE 0 = 1
          let up := fun (t : State) => t.get F.PWRSTAT_STATE 0 = 3 ∧ t.pg = true ∧ t.mem.hbm = [] ∧ t.mem.lines = [] ∧ t.power.fault = false
          (held → o.refclk = false → ∃ t, exec (.coldReset o) s = .next t ∧ t.power.fault = true ∧ t.get F.PWRSTAT_STATE 0 = 0)
          ∧ (held → ∃ t, exec (.coldReset o) s = .next t ∧ t.reg .STRAPS 0 = s.reg .STRAPS 0 ∧ t.hd.boots = (s.hd.boots + 1) % 2 ^ 16
              ∧ t.get F.RSTCAUSE_COLD 0 = s.power.cause % 16 ∧ t.get F.RSTCAUSE_WARM 0 = 0 ∧ t.get F.RSTCAUSE_NCOMPUTE 0 = 0
              ∧ t.power.shutdown = false ∧ (o.refclk = true → up t))
          ∧ (¬ held → ∃ t, exec (.coldReset o) s = .next t ∧ t.reg .STRAPS 0 = o.straps % 2 ^ 11 ∧ t.get F.TWINSTAT_ROLE 0 = o.straps % 2 ^ 11 / 2 ^ 10
              ∧ t.hd.boots = (s.hd.boots + 1) % 2 ^ 16 ∧ (s.get F.PWRSTAT_STATE 0 ≠ 0 → o.fails = [] → t.tiles = [] ∧ jobOver t)
              ∧ (t.get F.HDSTAT_STATE 0 ≠ 1 → t.get F.PWRSTAT_STATE 0 = 0)
              ∧ (t.get F.HDSTAT_STATE 0 = 1 → o.refclk = true → up t) ∧ (o.store = false → s.events.length < 256 → t.logged .configLost 0))))
  ∧ (∀ s : State, s.inv = true →
      let down := fun (t : State) cause => t.power.cause = cause ∧ t.get F.PWRSTAT_STATE 0 = 0 ∧ t.pg = false ∧ t.tiles = [] ∧ t.mem = Mem.reset
        ∧ t.fab = Fabric.reset ∧ t.host = HostLink.reset ∧ (∀ n, n < 4 → t.get F.LASERSTAT_EN n = 0)
        ∧ ∀ r i, i < 2 ^ 24 → r.spec.surv = .s3 → r ∉ [.SPRWEAR, .LOGLOST] → t.reg r i = s.reg r i
      let all := fun (t : State) => t.get F.HDSTAT_STATE 0 = 0 ∧ t.power.fault = false
        ∧ ∀ r i, i < 2 ^ 24 → r.spec.surv ≠ .s3 → r ∉ [.CAPTILE, .CAPMEM] → t.reg r i = r.dflt i
      let island := fun (t : State) => t.get F.HDSTAT_STATE 0 = s.get F.HDSTAT_STATE 0 ∧ t.reg .STRAPS 0 = s.reg .STRAPS 0
        ∧ t.get F.TWINSTAT_ROLE 0 = s.get F.TWINSTAT_ROLE 0 ∧ t.get F.TWINSTAT_CONFLICT 0 = s.get F.TWINSTAT_CONFLICT 0
        ∧ ∀ r i, i < 2 ^ 24 → r.spec.surv ≠ .s3 → r ∉ [.CAPTILE, .CAPMEM, .HDSTAT, .STRAPS, .TWINSTAT] → t.reg r i = r.dflt i
      (∃ t, exec (.modResetN true) s = .next t ∧ down t 3 ∧ all t ∧ t.power.modReset = true ∧ t.mayStart = false)
      ∧ (∃ t, exec (.modResetN false) s = .next t ∧ { t with power := s.power } = s ∧ t.power = { s.power with modReset := false })
      ∧ (∃ t, exec (.pwrEn false) s = .next t ∧ down t 2 ∧ all t ∧ t.events = [] ∧ t.power.pwrEn = false ∧ t.mayStart = false)
      ∧ (∃ t, exec (.pwrEn true) s = .next t ∧ { t with power := s.power } = s ∧ t.power = { s.power with pwrEn := true })
      ∧ (∃ t, exec (.inputLoss true) s = .next t ∧ down t 1 ∧ all t ∧ t.events = [] ∧ t.power.band = .gone)
      ∧ (s.power.band = .gone → exec (.inputLoss false) s = .next s)
      ∧ (s.power.band ≠ .gone → s.get F.PWRSTAT_STATE 0 ≠ 0 → ∃ t, exec (.inputLoss false) s = .next t ∧ down t 1 ∧ island t ∧ t.events = s.events
          ∧ t.power.band = .lost ∧ t.mayStart = false ∧ t.alertN = true)
      ∧ (s.power.band ≠ .gone → s.get F.PWRSTAT_STATE 0 = 0 → ∃ t, exec (.inputLoss false) s = .next t ∧ { t with power := s.power } = s
          ∧ t.power = { s.power with band := .lost, cause := 1 })
      ∧ (∀ full : Bool, s.power.band = .full ∨ s.power.band = .limited → exec (.inputRestored full) s = .next s)
      ∧ (s.power.band ≠ .full → exec .inputOutOfBand s = .next s) ∧ (s.power.band ≠ .limited → exec .inputBackInRange s = .next s)
      ∧ (s.hearthReady = false ∨ s.get F.PWRSTAT_STATE 0 = 0 → exec .refclkLoss s = .next s)
      ∧ (s.hearthReady = false → exec .faultNRelease s = .next s)
      ∧ (∀ full : Bool, s.power.band = .lost ∨ s.power.band = .gone → ∃ t, exec (.inputRestored full) s = .next t ∧ { t with power := s.power } = s
          ∧ t.power = { s.power with band := if full then .full else .limited })
      ∧ (s.power.band = .full → ∃ t, exec .inputOutOfBand s = .next t ∧ t.power.band = .limited ∧ t.alertN = true ∧ t.sprinting = false
          ∧ t.get F.PWRSTAT_STATE 0 = s.get F.PWRSTAT_STATE 0 ∧ t.tiles = s.tiles ∧ t.mem = s.mem)
      ∧ (s.power.band = .limited → ∃ t, exec .inputBackInRange s = .next t ∧ { t with power := s.power } = s
          ∧ t.power = { s.power with band := .full })
      ∧ (s.hearthReady = true → s.get F.PWRSTAT_STATE 0 ≠ 0 → ∃ t, exec .refclkLoss s = .next t ∧ down t 4 ∧ island t ∧ t.power.shutdown = true
          ∧ t.faultN = true ∧ t.thermN = true ∧ ∃ e ∈ t.events, e.ev = .thermalShutdown ∧ e.unit = 0 ∧ e.data = 0xFF :: List.replicate 13 0)
      ∧ (s.hearthReady = true → ∃ t, exec .faultNRelease s = .next t ∧ t.faultN = false ∧ { t with power := s.power } = s))
  ∧ ∀ (d : Nat) (s : State), d < 8 → (s.active = false → exec (.idleGate d) s = .next s) ∧ (s.active = true →
      (s.dieBusy d = true → exec (.idleGate d) s = .next s)
      ∧ (s.dieBusy d = false → ∃ t, exec (.idleGate d) s = .next t ∧ d ∈ t.power.gated ∧ (∀ k ∈ s.power.gated, k ∈ t.power.gated)
          ∧ (t.power.gated.length = 8 → t.get F.PWRSTAT_STATE 0 = 4) ∧ (t.power.gated.length ≠ 8 → t.get F.PWRSTAT_STATE 0 = s.get F.PWRSTAT_STATE 0)
          ∧ t.pg = true ∧ t.tiles = s.tiles ∧ t.mem = s.mem ∧ t.fab = s.fab ∧ ∀ r i, i < 2 ^ 24 → r ≠ .PWRSTAT → t.reg r i = s.reg r i))

/-! ## The control space (chapters 0 and 21) -/

/-- R6, R8, R9, R31, R45, R486, R506 to R513, Table 19-6: accesses of the host and of Hearth. A bad access changes nothing, an unused offset and a
write without effect change no register, and each is recorded for its agent; reserved values leave a field as it was; a write of an action or
of a value that crosses a clock domain waits with PENDING and takes effect as its command does. -/
def Obligations.Registers : Prop :=
  let agent := fun (hearth : Bool) => bankOf hearth
  let recorded := fun (i : Instr) (hearth : Bool) off kind (s : State) => ∃ t, exec i s = .next t ∧ { t with regs := s.regs } = s
    ∧ t.get F.CSLAST_VALID (agent hearth) = 1 ∧ t.get F.CSLAST_KIND (agent hearth) = kind ∧ t.get F.CSLAST_OFFSET (agent hearth) = off % 2 ^ 40
    ∧ t.counted s F.CSCOUNT_COUNT (agent hearth) ∧ t.reg .CSLAST (agent (!hearth)) = s.reg .CSLAST (agent (!hearth))
    ∧ ∀ r k, k < 2 ^ 24 → r ∉ [.CSLAST, .CSCOUNT] → t.reg r k = s.reg r k
  let at_ := fun (r : Reg) k => r.spec.win.base + r.spec.off + k
  let only := fun (t s : State) (r : Reg) => { t with regs := s.regs } = s ∧ ∀ q k, k < 2 ^ 24 → q ≠ r → t.reg q k = s.reg q k
  (∀ (hearth : Bool) (off : Nat) (data : List Byte) (s : State),
      let size := data.length
      (s.mayAccess hearth = false → exec (.registerWrite hearth off data) s = .next s ∧ exec (.badRegisterAccess hearth off size) s = .next s)
      ∧ (s.mayAccess hearth = true →
        (accessOk off size = false → recorded (.registerWrite hearth off data) hearth off 4 s
          ∧ recorded (.badRegisterAccess hearth off size) hearth off 4 s)
        ∧ (accessOk off size = true → exec (.badRegisterAccess hearth off size) s = .next s)
        ∧ ∀ w, accessOk off size = true → winAt off = some w →
            ((∀ i, i < size → regAt w (off - w.base + i) = none) → recorded (.registerWrite hearth off data) hearth off 1 s)
            ∧ (s.reach w = 0 → (∃ i, i < size ∧ regAt w (off - w.base + i) ≠ none) → recorded (.registerWrite hearth off data) hearth off 3 s)))
  ∧ (∀ (hearth : Bool) (n : Nat) (data : List Byte) (s : State), s.mayAccess hearth = true → s.active = true → n < 64 → data.length = 16 →
      let i := Instr.registerWrite hearth (at_ .SEGDESC (16 * n)) data
      (hearth = false → s.jobRuns = true → recorded i hearth (at_ .SEGDESC (16 * n)) 2 s)
      ∧ (hearth = true ∨ s.jobRuns = false → ∃ t, exec i s = .next t ∧ only t s .SEGDESC ∧ (∀ m, m < 64 → m ≠ n → t.reg .SEGDESC m = s.reg .SEGDESC m)
          ∧ ∀ f ∈ [F.SEGDESC_VALID, F.SEGDESC_PROT, F.SEGDESC_HINT, F.SEGDESC_MIRROR, F.SEGDESC_RACKVIS, F.SEGDESC_PERM_READ, F.SEGDESC_PERM_WRITE,
              F.SEGDESC_PERM_ATOMIC, F.SEGDESC_BASE, F.SEGDESC_LENGTH], t.get f n = bits (leValue data) f.hi f.lo))
  ∧ (∀ (hearth : Bool) (v : BitVec 32) (s : State), s.mayAccess hearth = true → s.active = true →
      let wr := fun (r : Reg) => Instr.registerWrite hearth (at_ r 0) (leBytes 4 v.toNat)
      let x := v.toNat
      (hearth = false → recorded (wr .HSCFG) hearth (at_ .HSCFG 0) 2 s)
      ∧ (hearth = true → ∃ t, exec (wr .HSCFG) s = .next t ∧ only t s .HSCFG ∧ ∀ f lo hi, (f, lo, hi) ∈ [(F.HSCFG_HALFLIFE, 1, 168),
            (F.HSCFG_EXPEL, 0, 1000), (F.HSCFG_WARN, 0, 1000)] →
          t.get f 0 = if lo ≤ bits x f.hi f.lo ∧ bits x f.hi f.lo ≤ hi then bits x f.hi f.lo else s.get f 0)
      ∧ (∃ t, exec (wr .MCHSEL) s = .next t ∧ only t s .MCHSEL ∧ t.reg .MCHSEL (agent (!hearth)) = s.reg .MCHSEL (agent (!hearth))
          ∧ t.get F.MCHSEL_CHANNEL (agent hearth) = if x % 256 < 192 then x % 256 else s.get F.MCHSEL_CHANNEL (agent hearth))
      ∧ (∃ t, exec (wr .PWRSTAT) s = .next t ∧ only t s .PWRSTAT ∧ t.get F.PWRSTAT_STATE 0 = s.get F.PWRSTAT_STATE 0
          ∧ t.get F.PWRSTAT_REFUSED 0 = (if bit x 9 then 0 else s.get F.PWRSTAT_REFUSED 0)
          ∧ t.get F.PWRSTAT_DEFAULTS_RESTORED 0 = if bit x 8 then 0 else s.get F.PWRSTAT_DEFAULTS_RESTORED 0)
      ∧ (x % 8 = 0 ∨ x % 8 = 7 → exec (wr .RSTCTL) s = .next s)
      ∧ (s.refuses hearth .RSTCTL 0 (x % 8) = true → ∃ t, exec (wr .RSTCTL) s = .next t ∧ { t with regs := s.regs } = s
          ∧ t.get F.CSLAST_VALID (agent hearth) = 1 ∧ t.get F.CSLAST_KIND (agent hearth) = 2
          ∧ t.get F.CSLAST_OFFSET (agent hearth) = at_ .RSTCTL 0 ∧ t.counted s F.CSCOUNT_COUNT (agent hearth) ∧ t.reg .RSTCTL 0 = s.reg .RSTCTL 0
          ∧ t.get F.PWRSTAT_STATE 0 = s.get F.PWRSTAT_STATE 0
          ∧ t.get F.PWRSTAT_REFUSED 0 = if x % 8 = 3 ∨ x % 8 = 5 then 1 else s.get F.PWRSTAT_REFUSED 0)
      ∧ (∀ r ∈ [Reg.DRAINCTL, .TWINCTL], s.refuses hearth r 0 (x % 4) = true → recorded (wr r) hearth (at_ r 0) 2 s)
      ∧ (s.refuses hearth .RSTCTL 0 1 = false ∧ s.refuses hearth .RSTCTL 0 2 = false ∧ s.refuses hearth .RSTCTL 0 4 = true
          ∧ s.refuses hearth .RSTCTL 0 6 = true ∧ (∀ k ∈ [3, 5], s.refuses hearth .RSTCTL 0 k = s.sleepRefused)
          ∧ s.refuses hearth .DRAINCTL 0 2 = s.jobRuns)
      ∧ (1 ≤ x % 8 → x % 8 ≤ 6 → s.refuses hearth .RSTCTL 0 (x % 8) = false → ∃ t, exec (wr .RSTCTL) s = .next t ∧ { t with regs := s.regs, asks := s.asks } = s ∧ t.get F.RSTCTL_PENDING 0 = 1
          ∧ t.ask .RSTCTL 0 = some { hearth := hearth, off := at_ .RSTCTL 0, value := x % 8 } ∧ ∀ q k, k < 2 ^ 24 → q ≠ .RSTCTL → t.reg q k = s.reg q k)
      ∧ (s.ask .POWERCAP 0 = none → ∃ t, exec (wr .POWERCAP) s = .next t ∧ { t with regs := s.regs, asks := s.asks } = s
          ∧ t.get F.POWERCAP_PENDING 0 = 1
          ∧ t.get F.POWERCAP_WATTS 0 = s.get F.POWERCAP_WATTS 0 ∧ ∃ a, t.ask .POWERCAP 0 = some a ∧ a.hearth = hearth
          ∧ bits a.value 10 0 = if 1200 ≤ bits x 10 0 ∧ bits x 10 0 ≤ 2000 then bits x 10 0 else s.get F.POWERCAP_WATTS 0))
  ∧ (∀ (hearth : Bool) (c : Nat) (v : BitVec 32) (s : State), s.mayAccess hearth = true → c < 65536 →
      let x := s.counter c
      (2 ≤ s.get F.PWRSTAT_STATE 0 → s.get F.PWRSTAT_STATE 0 ≤ 7 →
        exec (.sccountWrite hearth c v) s = .next ((s.setCounter c { x with count := v.toNat }).wake c)
        ∧ exec (.sctargetWrite hearth c v) s = .next ((s.setCounter c { x with target := v.toNat }).wake c)
        ∧ ∃ t u, exec (.sccountWrite hearth c v) s = .next t ∧ exec (.sctargetWrite hearth c v) s = .next u
            ∧ (t.counter c).count = v.toNat ∧ (t.counter c).target = x.target ∧ (u.counter c).target = v.toNat ∧ (u.counter c).count = x.count
            ∧ (t.counter c).waiters = (if x.target ≤ v.toNat then [] else x.waiters)
            ∧ (u.counter c).waiters = (if v.toNat ≤ x.count then [] else x.waiters)
            ∧ (∀ k, k ≠ c → t.counter k = s.counter k ∧ u.counter k = s.counter k)
            ∧ ∀ tile, (s.tile tile).ctxF.stall = .wait c 0 false false → s.clusterOf tile ∈ x.waiters → tile < 1152 →
                (x.target ≤ v.toNat → (t.tile tile).ctxF.stall = .wait c 0 false true)
                ∧ (v.toNat < x.target → (t.tile tile).ctxF.stall = .wait c 0 false false))
      ∧ (s.get F.PWRSTAT_STATE 0 < 2 ∨ 7 < s.get F.PWRSTAT_STATE 0 →
          recorded (.sccountWrite hearth c v) hearth (at_ .SCCOUNT (32 * c)) 3 s
          ∧ recorded (.sctargetWrite hearth c v) hearth (at_ .SCTARGET (32 * c)) 3 s))
  ∧ ∀ (r : PendReg) (e : Nat) (o : Start) (errs : List TgErr) (s : State), e < r.count →
      let i := Instr.writtenValueTakesEffect r e o errs
      let same := fun (j : Instr) => exec i s = exec j s ∧ ∃ t, exec i s = .next t
      (r ≠ .rtepoch → r ≠ .cpctl → s.ask (pendReg r) e = none → exec i s = .next s)
      ∧ (r = .rtepoch → s.get F.RTEPOCH_PENDING 0 = 0 → exec i s = .next s)
      ∧ (r = .cpctl → same .cpctlGo)
      ∧ ∀ a, s.ask (pendReg r) e = some a → let h := a.hearth
        (r = .fabctl ∨ r = .rmctl ∨ r = .rmalias → ∃ t, exec i s = .next t ∧ { t with regs := s.regs, asks := s.asks } = s
          ∧ t.reg (pendReg r) e = setBits (a.value % 2 ^ (pendReg r).spec.width) (pendReg r).pendBit (pendReg r).pendBit 0 ∧ t.ask (pendReg r) e = none
          ∧ ∀ q k, k < 2 ^ 24 → q ≠ pendReg r → t.reg q k = s.reg q k)
        ∧ (r = .dieref → ∃ t, exec i s = .next t ∧ t.get F.DIEREF_REF e = a.value % 2 ^ 28 ∧ t.ask .DIEREF e = none
            ∧ { t with regs := s.regs, asks := s.asks } = s)
        ∧ (r = .powercap → s.hearthReady = true → exec i s = .next s.powercapNow)
        ∧ (r = .powercap → s.hearthReady = true → s.sprinting = false → 1200 ≤ bits a.value 10 0 → bits a.value 10 0 ≤ 2000 → ∃ t, exec i s = .next t
            ∧ t.get F.POWERCAP_WATTS 0 = bits a.value 10 0 ∧ t.get F.POWERCAP_SPRINTEN 0 = bits a.value 12 12 ∧ t.ask .POWERCAP 0 = none
            ∧ { t with regs := s.regs, asks := s.asks } = s)
        ∧ (r = .powercap → s.hearthReady = true → s.sprinting = true → bits a.value 10 0 < 2000 ∨ bits a.value 12 12 = 0 →
            1200 ≤ bits a.value 10 0 → ∃ t, exec i s = .next t ∧ t.sprinting = false ∧ t.get F.SPRSTAT_LASTCAP 0 = 4)
        ∧ (r = .powercap → s.hearthReady = false → exec i s = .next s)
        ∧ (r = .chctl → (s.chan e).queue = [] → ∃ t, exec i s = .next t ∧ t.chan e = (s.chan e).act a.value ∧ t.ask .CHCTL e = none
            ∧ (∀ k, k ≠ e → t.chan k = s.chan k) ∧ t.tiles = s.tiles ∧ t.mem = s.mem)
        ∧ (r = .portctl → a.value = 1 → same (.portReset e)) ∧ (r = .bkctl → same (.bkctlAbort e)) ∧ (r = .hdctl → same .hearthReset)
        ∧ (r = .drainctl → (a.value = 1 → same .drain) ∧ (a.value = 2 → same (.marginTests h o.fails)))
        ∧ (r = .twinctl → (a.value = 1 → same (.twinctlPromote h)) ∧ (a.value = 2 → same (.twinctlDetach h)))
        ∧ (r = .mchctl → (a.value = 1 → same (.takeOutOfService h e)) ∧ (a.value = 2 → same (.returnToService h e errs))
            ∧ (a.value = 3 → same (.startGenerator h e)) ∧ (a.value = 4 → same (.stopGenerator e errs)))
        ∧ (r = .rstctl → (a.value = 1 → same (.computeReset h o.fails)) ∧ (a.value = 2 → same (.warmReset h o)) ∧ (a.value = 3 → same (.enterNap h))
            ∧ (a.value = 4 → same (.leaveNap h)) ∧ (a.value = 5 → same (.enterDeep h)) ∧ (a.value = 6 → same (.leaveDeep h o)))
end

