-- ==== Sys2Proof/Laws/Bits.lean ====
section
/-! SUPPORT. Bit fields: what a field reads after a field was set, and the numbers made of bytes. -/

namespace Sys2Proof.Machine

theorem bits_lt (v hi lo : Nat) : bits v hi lo < 2 ^ (hi + 1 - lo) := Nat.mod_lt _ (Nat.two_pow_pos _)

theorem bits_one_le (v i : Nat) : bits v i i ≤ 1 := by
  have := bits_lt v i i
  rw [show i + 1 - i = 1 by omega] at this
  omega

/-- A field reads what it was set to. -/
theorem bits_setBits_same (v : Nat) {hi lo : Nat} (x : Nat) (h : lo ≤ hi) :
    bits (setBits v hi lo x) hi lo = x % 2 ^ (hi + 1 - lo) := by
  unfold bits setBits
  have e : (2 : Nat) ^ (hi + 1) = 2 ^ (hi + 1 - lo) * 2 ^ lo := by rw [← Nat.pow_add]; congr 1; omega
  generalize hk : hi + 1 - lo = k at *
  have hv : v / 2 ^ (hi + 1) * 2 ^ (hi + 1) + x % 2 ^ k * 2 ^ lo + v % 2 ^ lo
      = (v / 2 ^ (hi + 1) * 2 ^ k + x % 2 ^ k) * 2 ^ lo + v % 2 ^ lo := by
    rw [e]; ring
  rw [hv, Nat.mul_comm, Nat.mul_add_div (Nat.two_pow_pos _), Nat.div_eq_of_lt (Nat.mod_lt _ (Nat.two_pow_pos _)),
    Nat.add_zero, Nat.mul_comm, Nat.mul_add_mod]
  exact Nat.mod_mod _ _

/-- A field above the one set keeps its value. -/
theorem bits_setBits_above (v x : Nat) {hi lo hi' lo' : Nat} (h : lo ≤ hi) (h' : hi < lo') :
    bits (setBits v hi lo x) hi' lo' = bits v hi' lo' := by
  unfold bits setBits
  congr 1
  have e : (2 : Nat) ^ (hi + 1) = 2 ^ (hi + 1 - lo) * 2 ^ lo := by rw [← Nat.pow_add]; congr 1; omega
  have el : (2 : Nat) ^ lo' = 2 ^ (hi + 1) * 2 ^ (lo' - (hi + 1)) := by rw [← Nat.pow_add]; congr 1; omega
  have hlt : x % 2 ^ (hi + 1 - lo) * 2 ^ lo + v % 2 ^ lo < 2 ^ (hi + 1) := by
    have h1 := Nat.mod_lt x (Nat.two_pow_pos (hi + 1 - lo))
    have h2 := Nat.mod_lt v (Nat.two_pow_pos lo)
    rw [e]
    calc x % 2 ^ (hi + 1 - lo) * 2 ^ lo + v % 2 ^ lo
        < x % 2 ^ (hi + 1 - lo) * 2 ^ lo + 2 ^ lo := by omega
      _ = (x % 2 ^ (hi + 1 - lo) + 1) * 2 ^ lo := by ring
      _ ≤ 2 ^ (hi + 1 - lo) * 2 ^ lo := Nat.mul_le_mul_right _ h1
  rw [el, ← Nat.div_div_eq_div_mul, ← Nat.div_div_eq_div_mul, Nat.add_assoc, Nat.mul_comm (v / _),
    Nat.mul_add_div (Nat.two_pow_pos _), Nat.div_eq_of_lt hlt, Nat.add_zero]

/-- A field below the one set keeps its value. -/
theorem bits_setBits_below (v x : Nat) {hi lo hi' lo' : Nat} (h : lo ≤ hi) (h' : hi' < lo) :
    bits (setBits v hi lo x) hi' lo' = bits v hi' lo' := by
  unfold bits setBits
  have e : (2 : Nat) ^ (hi + 1) = 2 ^ (hi + 1 - lo) * 2 ^ lo := by rw [← Nat.pow_add]; congr 1; omega
  have hv : v / 2 ^ (hi + 1) * 2 ^ (hi + 1) + x % 2 ^ (hi + 1 - lo) * 2 ^ lo + v % 2 ^ lo
      = 2 ^ lo * (v / 2 ^ (hi + 1) * 2 ^ (hi + 1 - lo) + x % 2 ^ (hi + 1 - lo)) + v % 2 ^ lo := by
    rw [e]; ring
  have hq : v = 2 ^ lo * (v / 2 ^ lo) + v % 2 ^ lo := (Nat.div_add_mod _ _).symm
  rw [hv]
  by_cases hl : lo' ≤ hi'
  · have e2 : (2 : Nat) ^ lo = 2 ^ lo' * (2 ^ (hi' + 1 - lo') * 2 ^ (lo - (hi' + 1))) := by
      rw [← Nat.pow_add, ← Nat.pow_add]; congr 1; omega
    have key : ∀ q r : Nat, (2 ^ lo * q + r) / 2 ^ lo' % 2 ^ (hi' + 1 - lo') = r / 2 ^ lo' % 2 ^ (hi' + 1 - lo') := by
      intro q r
      rw [e2, Nat.mul_assoc, Nat.mul_add_div (Nat.two_pow_pos _), Nat.mul_assoc, Nat.mul_add_mod]
    rw [key]
    conv_rhs => rw [hq]
    rw [key]
  · have : hi' + 1 - lo' = 0 := by omega
    rw [this]; simp [Nat.mod_one]

theorem bits_mod {v w hi lo : Nat} (h : hi < w) : bits (v % 2 ^ w) hi lo = bits v hi lo := by
  unfold bits
  by_cases hl : lo ≤ hi
  · have e : (2 : Nat) ^ w = 2 ^ lo * 2 ^ (w - lo) := by rw [← Nat.pow_add]; congr 1; omega
    have e2 : (2 : Nat) ^ (w - lo) = 2 ^ (hi + 1 - lo) * 2 ^ (w - (hi + 1)) := by
      rw [← Nat.pow_add]; congr 1; omega
    rw [e, Nat.mod_mul_right_div_self, e2, Nat.mod_mul_right_mod]
  · have : hi + 1 - lo = 0 := by omega
    rw [this]; simp [Nat.mod_one]

theorem setBits_lt {v w hi lo : Nat} (x : Nat) (h : lo ≤ hi) (hw : hi < w) (hv : v < 2 ^ w) :
    setBits v hi lo x < 2 ^ w := by
  unfold setBits
  have e : (2 : Nat) ^ (hi + 1) = 2 ^ (hi + 1 - lo) * 2 ^ lo := by rw [← Nat.pow_add]; congr 1; omega
  have ew : (2 : Nat) ^ w = 2 ^ (w - (hi + 1)) * 2 ^ (hi + 1) := by rw [← Nat.pow_add]; congr 1; omega
  have h1 := Nat.mod_lt x (Nat.two_pow_pos (hi + 1 - lo))
  have h2 := Nat.mod_lt v (Nat.two_pow_pos lo)
  have h3 : v / 2 ^ (hi + 1) < 2 ^ (w - (hi + 1)) := by
    rw [Nat.div_lt_iff_lt_mul (Nat.two_pow_pos _), ← ew]; exact hv
  have h4 : x % 2 ^ (hi + 1 - lo) * 2 ^ lo + v % 2 ^ lo < 2 ^ (hi + 1) := by
    rw [e]
    calc x % 2 ^ (hi + 1 - lo) * 2 ^ lo + v % 2 ^ lo
        < x % 2 ^ (hi + 1 - lo) * 2 ^ lo + 2 ^ lo := by omega
      _ = (x % 2 ^ (hi + 1 - lo) + 1) * 2 ^ lo := by ring
      _ ≤ 2 ^ (hi + 1 - lo) * 2 ^ lo := Nat.mul_le_mul_right _ h1
  calc v / 2 ^ (hi + 1) * 2 ^ (hi + 1) + x % 2 ^ (hi + 1 - lo) * 2 ^ lo + v % 2 ^ lo
      < v / 2 ^ (hi + 1) * 2 ^ (hi + 1) + 2 ^ (hi + 1) := by omega
    _ = (v / 2 ^ (hi + 1) + 1) * 2 ^ (hi + 1) := by ring
    _ ≤ 2 ^ (w - (hi + 1)) * 2 ^ (hi + 1) := Nat.mul_le_mul_right _ h3
    _ = 2 ^ w := ew.symm

theorem leBytes_length (n v : Nat) : (leBytes n v).length = n := by
  induction n generalizing v with
  | zero => rfl
  | succ n ih => simp [leBytes, ih]

/-- The bytes of a number, put together again, are the number. -/
theorem leValue_leBytes (n v : Nat) : leValue (leBytes n v) = v % 2 ^ (8 * n) := by
  induction n generalizing v with
  | zero => simp [leBytes, leValue, Nat.mod_one]
  | succ n ih =>
    simp only [leBytes, leValue, ih, BitVec.toNat_ofNat]
    rw [show 8 * (n + 1) = 8 + 8 * n by ring, Nat.pow_add, Nat.mod_mul]

end Sys2Proof.Machine
end

