-- ==== Sys2Proof/Laws/Maps.lean ====
section
/-! SUPPORT. Sparse maps: what a read finds after a write, and that every operation keeps the canonical form. -/

namespace Sys2Proof.Machine

variable {α : Type}

/-- A lower bound on every key, as `sortedFrom` carries it. -/
def SMap.above (lo : Option Nat) (k : Nat) : Prop := ∀ b, lo = some b → b < k

theorem SMap.sortedFrom_cons (lo : Option Nat) (k : Nat) (v : α) (m : SMap α) :
    SMap.sortedFrom lo ((k, v) :: m) = true ↔ SMap.above lo k ∧ SMap.sortedFrom (some k) m = true := by
  cases lo <;> simp [SMap.sortedFrom, SMap.above]

theorem SMap.sortedFrom_weaken {lo lo' : Option Nat} {m : SMap α} (h : SMap.sortedFrom lo m = true)
    (hb : ∀ k, SMap.above lo k → SMap.above lo' k) : SMap.sortedFrom lo' m = true := by
  cases m with
  | nil => cases lo' <;> rfl
  | cons e m =>
    obtain ⟨k, v⟩ := e
    rw [SMap.sortedFrom_cons] at h ⊢
    exact ⟨hb k h.1, h.2⟩

theorem SMap.above_mono {a b : Nat} (h : a ≤ b) (k : Nat) (hk : SMap.above (some b) k) : SMap.above (some a) k := by
  intro c hc; cases hc; exact Nat.lt_of_le_of_lt h (hk b rfl)

theorem SMap.sorted_nil {lo : Option Nat} : SMap.sortedFrom lo ([] : SMap α) = true := by cases lo <;> rfl

theorem SMap.sortedFrom_ins {lo : Option Nat} {m : SMap α} (k : Nat) (v : α) (h : SMap.sortedFrom lo m = true)
    (hk : SMap.above lo k) : SMap.sortedFrom lo (SMap.ins m k v) = true := by
  induction m generalizing lo with
  | nil => simp only [SMap.ins]; rw [SMap.sortedFrom_cons]; exact ⟨hk, rfl⟩
  | cons e m ih =>
    obtain ⟨k', v'⟩ := e
    rw [SMap.sortedFrom_cons] at h
    simp only [SMap.ins]
    split
    · subst_vars; rw [SMap.sortedFrom_cons]; exact h
    · split
      · rename_i hlt
        rw [SMap.sortedFrom_cons, SMap.sortedFrom_cons]
        exact ⟨hk, fun b hb => by cases hb; exact hlt, h.2⟩
      · rw [SMap.sortedFrom_cons]
        exact ⟨h.1, ih h.2 fun b hb => by cases hb; omega⟩

theorem SMap.sortedFrom_filter {lo : Option Nat} {m : SMap α} (p : Nat × α → Bool) (h : SMap.sortedFrom lo m = true) :
    SMap.sortedFrom lo (m.filter p) = true := by
  induction m generalizing lo with
  | nil => exact h
  | cons e m ih =>
    obtain ⟨k', v'⟩ := e
    rw [SMap.sortedFrom_cons] at h
    rw [List.filter_cons]
    split
    · rw [SMap.sortedFrom_cons]; exact ⟨h.1, ih h.2⟩
    · exact ih (SMap.sortedFrom_weaken h.2 fun j hj b hb => Nat.lt_trans (h.1 b hb) (hj k' rfl))

theorem SMap.sortedFrom_del {lo : Option Nat} {m : SMap α} (k : Nat) (h : SMap.sortedFrom lo m = true) :
    SMap.sortedFrom lo (SMap.del m k) = true := SMap.sortedFrom_filter _ h

theorem SMap.sortedFrom_map {lo : Option Nat} {m : SMap α} {β : Type} (f : Nat → α → β)
    (h : SMap.sortedFrom lo m = true) : SMap.sortedFrom lo (m.map fun e => (e.1, f e.1 e.2)) = true := by
  induction m generalizing lo with
  | nil => cases lo <;> rfl
  | cons e m ih =>
    obtain ⟨k', v'⟩ := e
    rw [SMap.sortedFrom_cons] at h
    rw [List.map_cons, SMap.sortedFrom_cons]
    exact ⟨h.1, ih h.2⟩

theorem SMap.mem_ins {m : SMap α} {k : Nat} {v : α} {e : Nat × α} (h : e ∈ SMap.ins m k v) : e = (k, v) ∨ e ∈ m := by
  induction m with
  | nil => simpa [SMap.ins] using h
  | cons x m ih =>
    obtain ⟨k', v'⟩ := x
    simp only [SMap.ins] at h
    split at h
    · simp only [List.mem_cons] at h ⊢
      rcases h with h | h
      · exact .inl h
      · exact .inr (.inr h)
    · split at h
      · simpa using h
      · simp only [List.mem_cons] at h ⊢
        rcases h with h | h
        · exact .inr (.inl h)
        · rcases ih h with h | h
          · exact .inl h
          · exact .inr (.inr h)

theorem SMap.mem_del {m : SMap α} {k : Nat} {e : Nat × α} (h : e ∈ SMap.del m k) : e ∈ m := (List.mem_filter.1 h).1

variable [DecidableEq α]

theorem SMap.wf_iff {d : α} {m : SMap α} :
    SMap.wf d m = true ↔ SMap.sortedFrom none m = true ∧ ∀ e ∈ m, e.2 ≠ d := by
  simp [SMap.wf]

theorem SMap.wf_nil (d : α) : SMap.wf d ([] : SMap α) = true := rfl

theorem SMap.wf_del {d : α} {m : SMap α} (k : Nat) (h : SMap.wf d m = true) : SMap.wf d (SMap.del m k) = true := by
  rw [SMap.wf_iff] at h ⊢
  exact ⟨SMap.sortedFrom_del k h.1, fun e he => h.2 e (SMap.mem_del he)⟩

theorem SMap.wf_ins {d : α} {m : SMap α} (k : Nat) {v : α} (hv : v ≠ d) (h : SMap.wf d m = true) :
    SMap.wf d (SMap.ins m k v) = true := by
  rw [SMap.wf_iff] at h ⊢
  refine ⟨SMap.sortedFrom_ins k v h.1 (by intro b hb; cases hb), fun e he => ?_⟩
  rcases SMap.mem_ins he with rfl | he
  · exact hv
  · exact h.2 e he

theorem SMap.wf_set {d : α} {m : SMap α} (k : Nat) (v : α) (h : SMap.wf d m = true) :
    SMap.wf d (SMap.set d m k v) = true := by
  unfold SMap.set
  split
  · exact SMap.wf_del k h
  · exact SMap.wf_ins k ‹_› h

theorem SMap.sorted_set {d : α} {m : SMap α} (k : Nat) (v : α) (h : SMap.sortedFrom none m = true) :
    SMap.sortedFrom none (SMap.set d m k v) = true := by
  unfold SMap.set
  split
  · exact SMap.sortedFrom_del k h
  · exact SMap.sortedFrom_ins k v h (by intro b hb; cases hb)

omit [DecidableEq α] in
theorem SMap.sorted_ins {m : SMap α} (k : Nat) (v : α) (h : SMap.sortedFrom none m = true) :
    SMap.sortedFrom none (SMap.ins m k v) = true := SMap.sortedFrom_ins k v h (by intro b hb; cases hb)

omit [DecidableEq α] in
theorem SMap.sorted_keep {lo : Option Nat} {m : SMap α} (p : Nat → Bool) (h : SMap.sortedFrom lo m = true) :
    SMap.sortedFrom lo (SMap.keep m p) = true := SMap.sortedFrom_filter _ h

theorem SMap.wf_filter {d : α} {m : SMap α} (p : Nat × α → Bool) (h : SMap.wf d m = true) :
    SMap.wf d (m.filter p) = true := by
  rw [SMap.wf_iff] at h ⊢
  exact ⟨SMap.sortedFrom_filter p h.1, fun e he => h.2 e (List.mem_filter.1 he).1⟩

theorem SMap.wf_keep {d : α} {m : SMap α} (p : Nat → Bool) (h : SMap.wf d m = true) :
    SMap.wf d (SMap.keep m p) = true := SMap.wf_filter _ h

theorem SMap.wf_mapv {d : α} {m : SMap α} (f : Nat → α → α) (h : SMap.wf d m = true) :
    SMap.wf d (SMap.mapv d m f) = true := by
  rw [SMap.wf_iff] at h ⊢
  refine ⟨SMap.sortedFrom_filter _ (SMap.sortedFrom_map f h.1), fun e he => ?_⟩
  simpa using (List.mem_filter.1 he).2

omit [DecidableEq α] in
theorem SMap.look_ins (m : SMap α) (k j : Nat) (v : α) :
    SMap.look (SMap.ins m k v) j = if j = k then some v else SMap.look m j := by
  induction m with
  | nil => simp only [SMap.ins, SMap.look]
  | cons e m ih =>
    obtain ⟨k', v'⟩ := e
    simp only [SMap.ins]
    split
    · subst_vars; simp only [SMap.look]; split <;> rfl
    · split
      · simp only [SMap.look]
      · simp only [SMap.look, ih]
        split
        · rw [if_neg (by omega)]
        · rfl

omit [DecidableEq α] in
theorem SMap.look_keep (m : SMap α) (p : Nat → Bool) (j : Nat) :
    SMap.look (SMap.keep m p) j = if p j then SMap.look m j else none := by
  unfold SMap.keep
  induction m with
  | nil => simp [SMap.look]
  | cons e m ih =>
    obtain ⟨k', v'⟩ := e
    rw [List.filter_cons]
    by_cases hp : p k' = true
    · rw [if_pos hp]
      simp only [SMap.look, ih]
      split
      · subst_vars; rw [if_pos hp]
      · rfl
    · rw [if_neg hp, ih]
      simp only [SMap.look]
      by_cases hj : j = k'
      · subst hj
        rw [if_neg hp, if_neg hp]
      · rw [if_neg hj]

omit [DecidableEq α] in
theorem SMap.look_del (m : SMap α) (k j : Nat) :
    SMap.look (SMap.del m k) j = if j = k then none else SMap.look m j := by
  have := SMap.look_keep m (fun x => decide (x ≠ k)) j
  unfold SMap.keep at this
  unfold SMap.del
  rw [this]
  by_cases h : j = k <;> simp [h]

/-- Reading after writing: the written key gives the value, every other key what it gave before. -/
@[simp] theorem SMap.get_set (d : α) (m : SMap α) (k j : Nat) (v : α) :
    SMap.get d (SMap.set d m k v) j = if j = k then v else SMap.get d m j := by
  unfold SMap.set SMap.get
  split
  · subst_vars; rw [SMap.look_del]; split <;> rfl
  · rw [SMap.look_ins]; split <;> rfl

omit [DecidableEq α] in
theorem SMap.get_ins (d : α) (m : SMap α) (k j : Nat) (v : α) :
    SMap.get d (SMap.ins m k v) j = if j = k then v else SMap.get d m j := by
  unfold SMap.get
  rw [SMap.look_ins]; split <;> rfl

omit [DecidableEq α] in
theorem SMap.get_nil (d : α) (j : Nat) : SMap.get d ([] : SMap α) j = d := rfl

/-- A map listed from a function of the keys below `n`, the default left out, is canonical. -/
theorem SMap.wf_tabulate (d : α) (f : Nat → α) (n : Nat) :
    SMap.wf d ((List.range n).filterMap fun t => if f t = d then none else some (t, f t)) = true := by
  have key : ∀ (l : List Nat) (lo : Option Nat), (∀ x ∈ l, SMap.above lo x) → l.Pairwise (· < ·) →
      SMap.sortedFrom lo (l.filterMap fun t => if f t = d then none else some (t, f t)) = true := by
    intro l
    induction l with
    | nil => intro lo _ _; exact SMap.sorted_nil
    | cons x l ih =>
      intro lo hl hp
      rw [List.pairwise_cons] at hp
      rw [List.filterMap_cons]
      by_cases hx : f x = d
      · rw [if_pos hx]; exact ih lo (fun y hy => hl y (List.mem_cons_of_mem _ hy)) hp.2
      · rw [if_neg hx]
        dsimp only
        rw [SMap.sortedFrom_cons]
        exact ⟨hl x List.mem_cons_self, ih (some x) (fun y hy b hb => by cases hb; exact hp.1 y hy) hp.2⟩
  rw [SMap.wf_iff]
  refine ⟨key _ none (fun x _ b hb => by cases hb) List.pairwise_lt_range, fun e he => ?_⟩
  obtain ⟨x, -, hx⟩ := List.mem_filterMap.1 he
  split at hx
  · cases hx
  · cases hx; assumption

end Sys2Proof.Machine
end

