-- ==== Sys2Proof/Laws/Invariant.lean ====
section
/-! SUPPORT. The invariant of Safety.lean field by field: what it gives, what gives it, and the forms in which the laws of the
shared operations state that they keep it. -/

namespace Sys2Proof.Machine

theorem State.inv_iff (s : State) : s.inv = true ↔
    s.mem.wf = true ∧ SMap.sortedFrom none s.regs = true ∧ SMap.sortedFrom none s.asks = true
    ∧ SMap.wf Tile.reset s.tiles = true ∧ (∀ e ∈ s.tiles, e.2.wf = true) ∧ SMap.wf Counter.reset s.counters = true
    ∧ SMap.wf Chan.reset s.chans = true ∧ SMap.wf Tag.free s.tags = true ∧ s.power.wear.length = 30 := by
  simp [State.inv, and_assoc]

variable {s : State}

/-- Every listed tile's memory is canonical. -/
def TilesWf (m : SMap Tile) : Prop := ∀ e ∈ m, e.2.wf = true

theorem TilesWf.nil : TilesWf [] := by intro e he; cases he

theorem TilesWf.mapv {m : SMap Tile} {f : Nat → Tile → Tile} (hf : ∀ k x, x.wf = true → (f k x).wf = true) (h : TilesWf m) :
    TilesWf (SMap.mapv Tile.reset m f) := by
  intro e he
  obtain ⟨x, hx, rfl⟩ := List.mem_map.1 (List.mem_filter.1 he).1
  exact hf _ _ (h x hx)

theorem State.inv_mem (h : s.inv = true) : s.mem.wf = true := (s.inv_iff.1 h).1
theorem State.inv_regs (h : s.inv = true) : SMap.sortedFrom none s.regs = true := (s.inv_iff.1 h).2.1
theorem State.inv_asks (h : s.inv = true) : SMap.sortedFrom none s.asks = true := (s.inv_iff.1 h).2.2.1
theorem State.inv_tiles (h : s.inv = true) : SMap.wf Tile.reset s.tiles = true := (s.inv_iff.1 h).2.2.2.1
theorem State.inv_each (h : s.inv = true) : TilesWf s.tiles := (s.inv_iff.1 h).2.2.2.2.1
theorem State.inv_counters (h : s.inv = true) : SMap.wf Counter.reset s.counters = true := (s.inv_iff.1 h).2.2.2.2.2.1
theorem State.inv_chans (h : s.inv = true) : SMap.wf Chan.reset s.chans = true := (s.inv_iff.1 h).2.2.2.2.2.2.1
theorem State.inv_tags (h : s.inv = true) : SMap.wf Tag.free s.tags = true := (s.inv_iff.1 h).2.2.2.2.2.2.2.1
theorem State.inv_wear (h : s.inv = true) : s.power.wear.length = 30 := (s.inv_iff.1 h).2.2.2.2.2.2.2.2

/-- Any record of the nine parts that is canonical has the invariant. -/
theorem State.mk_inv {t : State} (h1 : t.mem.wf = true) (h2 : SMap.sortedFrom none t.regs = true)
    (h3 : SMap.sortedFrom none t.asks = true) (h4 : SMap.wf Tile.reset t.tiles = true)
    (h5 : TilesWf t.tiles) (h6 : SMap.wf Counter.reset t.counters = true)
    (h7 : SMap.wf Chan.reset t.chans = true) (h8 : SMap.wf Tag.free t.tags = true)
    (h9 : t.power.wear.length = 30) : t.inv = true :=
  t.inv_iff.2 ⟨h1, h2, h3, h4, h5, h6, h7, h8, h9⟩

/-- The invariant of a state written field by field. -/
theorem State.lit_inv {regs tiles counters tasks chans engines arrivals mem events rops removed penalty drainDue govs gens sensors fab refusing rx shut retrains training sfcnt frames plan tags puts dwHeld host twin hd power sent asks nextId free pending} :
    State.inv (State.mk regs tiles counters tasks chans engines arrivals mem events rops removed penalty drainDue govs gens sensors fab refusing rx shut retrains training sfcnt frames plan tags puts dwHeld host twin hd power sent asks nextId free pending) = true ↔
    mem.wf = true ∧ SMap.sortedFrom none regs = true ∧ SMap.sortedFrom none asks = true
    ∧ SMap.wf Tile.reset tiles = true ∧ TilesWf tiles ∧ SMap.wf Counter.reset counters = true
    ∧ SMap.wf Chan.reset chans = true ∧ SMap.wf Tag.free tags = true ∧ power.wear.length = 30 :=
  State.inv_iff _

theorem State.reset_inv : State.reset.inv = true := by decide

/-! Device memory -/

theorem Mem.lit_wf {hbm cbytes lines clock combs} :
    Mem.wf (Mem.mk hbm cbytes lines clock combs) = true ↔
    SMap.wf 0 hbm = true ∧ SMap.wf 0 cbytes = true ∧ SMap.sortedFrom none lines = true := by
  simp [Mem.wf, and_assoc]

theorem Mem.wf_hbm {m : Mem} (h : m.wf = true) : SMap.wf 0 m.hbm = true := (Mem.lit_wf.1 h).1
theorem Mem.wf_cbytes {m : Mem} (h : m.wf = true) : SMap.wf 0 m.cbytes = true := (Mem.lit_wf.1 h).2.1
theorem Mem.wf_lines {m : Mem} (h : m.wf = true) : SMap.sortedFrom none m.lines = true := (Mem.lit_wf.1 h).2.2

/-- A fold of steps on one part of memory that keep a property keeps it. -/
theorem foldl_prop {α β : Type} {P : β → Prop} {f : β → α → β} {l : List α} {m : β} (hf : ∀ u x, P u → P (f u x)) (h : P m) :
    P (l.foldl f m) := by
  induction l generalizing m with
  | nil => exact h
  | cons x l ih => exact ih (hf m x h)

theorem foldl_wf {α : Type} {f : Mem → α → Mem} {l : List α} {m : Mem} (hf : ∀ u x, Mem.wf u = true → (f u x).wf = true)
    (h : m.wf = true) : (l.foldl f m).wf = true := foldl_prop (P := fun (m : Mem) => m.wf = true) hf h

theorem foldl_cells {α : Type} {f : List Host.Cell → α → List Host.Cell} {l : List α} {m : List Host.Cell}
    (hf : ∀ u x, SMap.wf 0 u = true → SMap.wf 0 (f u x) = true) (h : SMap.wf 0 m = true) :
    SMap.wf 0 (l.foldl f m) = true := foldl_prop (P := fun m => SMap.wf 0 m = true) hf h

theorem wrStored_wf {m : List Host.Cell} {sk : Nat} {bs : List Nat} (h : SMap.wf 0 m = true) :
    SMap.wf 0 (wrStored m sk bs) = true := foldl_cells (fun _ _ hu => SMap.wf_set _ _ hu) h

theorem delStored_wf {m : List Host.Cell} {sk : Nat} (h : SMap.wf 0 m = true) : SMap.wf 0 (delStored m sk) = true :=
  foldl_cells (fun _ _ hu => SMap.wf_set _ _ hu) h

theorem foldTile_wf {α : Type} {f : Tile → α → Tile} {l : List α} {m : Tile} (hf : ∀ u x, u.wf = true → (f u x).wf = true)
    (h : m.wf = true) : (l.foldl f m).wf = true := foldl_prop (P := fun (m : Tile) => m.wf = true) hf h

/-! Forms -/

/-- Every next state has the invariant. -/
def Out.keeps (o : Out) : Prop := ∀ t, o = .next t → t.inv = true

theorem next_keeps {t : State} (h : t.inv = true) : Out.keeps (.next t) := by
  intro u hu; cases hu; exact h

theorem within_keeps {n l : Nat} {o : Out} (h : Out.keeps o) : Out.keeps (within n l o) := by
  unfold within; split
  · exact h
  · intro t ht; cases ht

theorem ite_inv {c : Prop} [Decidable c] {a b : State} (ha : a.inv = true) (hb : b.inv = true) :
    (if c then a else b).inv = true := by split <;> assumption

theorem ite_keeps {c : Prop} [Decidable c] {a b : Out} (ha : Out.keeps a) (hb : Out.keeps b) : Out.keeps (if c then a else b) := by
  split <;> assumption

/-- A fold of steps that keep the invariant keeps it. -/
theorem foldl_inv {α : Type} {f : State → α → State} {l : List α} {s : State} (hf : ∀ u x, u.inv = true → (f u x).inv = true)
    (h : s.inv = true) : (l.foldl f s).inv = true := by
  induction l generalizing s with
  | nil => exact h
  | cons x l ih => exact ih (hf s x h)

/-- The same where the fold carries the state first of a pair. -/
theorem foldl_inv1 {α β : Type} {f : State × β → α → State × β} {l : List α} {s : State × β}
    (hf : ∀ u x, u.1.inv = true → (f u x).1.inv = true) (h : s.1.inv = true) : (l.foldl f s).1.inv = true := by
  induction l generalizing s with
  | nil => exact h
  | cons x l ih => exact ih (hf s x h)

/-- Every state an act of an instruction can lead to has the invariant. -/
def Act.keeps : Act → Prop
  | .fault _ => True
  | .hold s => s.inv = true
  | .go _ f => ∀ u, u.inv = true → (f u).inv = true

theorem Act.fault_keeps {f : FaultAt} : (Act.fault f).keeps := trivial
theorem Act.hold_keeps {s : State} (h : s.inv = true) : (Act.hold s).keeps := h
theorem Act.go_keeps {k : Nat} {f : State → State} (h : ∀ u, u.inv = true → (f u).inv = true) : (Act.go k f).keeps := h

/-- The same where the fold carries the state second of a pair. -/
theorem foldl_inv2 {α β : Type} {f : β × State → α → β × State} {l : List α} {s : β × State}
    (hf : ∀ u x, u.2.inv = true → (f u x).2.inv = true) (h : s.2.inv = true) : (l.foldl f s).2.inv = true := by
  induction l generalizing s with
  | nil => exact h
  | cons x l ih => exact ih (hf s x h)

/-! Tiles -/

theorem Mem.reset_wf : Mem.reset.wf = true := by decide

theorem Tile.reset_wf : Tile.reset.wf = true := by decide

theorem State.tile_wf (h : s.inv = true) (t : Nat) : (s.tile t).wf = true := by
  have hh : ∀ e ∈ s.tiles, e.2.wf = true := s.inv_each h
  unfold State.tile SMap.get
  generalize s.tiles = m at hh
  induction m with
  | nil => exact Tile.reset_wf
  | cons e m ih =>
    obtain ⟨k, v⟩ := e
    simp only [SMap.look]
    split
    · exact hh _ List.mem_cons_self
    · exact ih fun e he => hh e (List.mem_cons_of_mem _ he)

theorem State.setTile_inv {t : Nat} {x : Tile} (hx : x.wf = true) (h : s.inv = true) : (s.setTile t x).inv = true := by
  refine State.mk_inv (t := s.setTile t x) (s.inv_mem h) (s.inv_regs h) (s.inv_asks h) (SMap.wf_set t x (s.inv_tiles h)) ?_
    (s.inv_counters h) (s.inv_chans h) (s.inv_tags h) (s.inv_wear h)
  intro e he
  have he' : e ∈ SMap.set Tile.reset s.tiles t x := he
  unfold SMap.set at he'
  split at he'
  · exact s.inv_each h e (SMap.mem_del he')
  · rcases SMap.mem_ins he' with rfl | he'
    · exact hx
    · exact s.inv_each h e he'

theorem Tile.wrByte_wf {t : Tile} (a : Nat) (b : Byte) (h : t.wf = true) : (t.wrByte a b).wf = true := by
  unfold Tile.wf at h ⊢
  unfold Tile.wrByte
  cases hf : t.fill with
  | none => rw [hf] at h; simp only; exact SMap.wf_set a b h
  | some v => rw [hf] at h; simp only; exact SMap.sortedFrom_ins a b h (by intro b hb; cases hb)

theorem Tile.wrBytes_wf {t : Tile} (a : Nat) (bs : List Byte) (h : t.wf = true) : (t.wrBytes a bs).wf = true := by
  induction bs generalizing t a with
  | nil => exact h
  | cons b bs ih => exact ih (a + 1) (Tile.wrByte_wf a b h)

/-- A tile with another tile's memory is as canonical as it. -/
theorem Tile.wf_of {t u : Tile} (h : u.wf = true) (h1 : t.store = u.store) (h2 : t.fill = u.fill) : t.wf = true := by
  unfold Tile.wf at h ⊢
  rw [h1, h2]; exact h

/-- The memory of a tile is canonical. -/
def MemOk (store : List Host.Cell) (fill : Option Nat) : Prop := (({ Tile.reset with store := store, fill := fill } : Tile).wf = true)

/-- A tile written field by field. -/
theorem Tile.lit_wf {cur ctxF ctxL tokens store fill ops seq codebook bank checkedN cclk credit want poor} :
    Tile.wf (Tile.mk cur ctxF ctxL tokens store fill ops seq codebook bank checkedN cclk credit want poor) = true ↔ MemOk store fill := Iff.rfl

theorem Tile.memOk {t : Tile} (h : t.wf = true) : MemOk t.store t.fill := h

theorem Tile.setCtx_wf {t : Tile} (c : Ctxt) (x : Ctx) (h : t.wf = true) : (t.setCtx c x).wf = true := by
  cases c <;> exact h

theorem State.setCtx_inv {t : Nat} {c : Ctxt} {x : Ctx} (h : s.inv = true) : (s.setCtx t c x).inv = true :=
  State.setTile_inv (Tile.setCtx_wf c x (s.tile_wf h t)) h

end Sys2Proof.Machine
end

