-- ==== Sys2Proof/Laws/State.lean ====
section
/-! SUPPORT. What each update of the state leaves alone, field by field, and what a register, a context, a counter, a channel
or a governor reads after it was written. -/

namespace Sys2Proof.Machine

/-! ## Fields an update does not touch -/

@[simp] theorem State.setReg_tiles (s : State) (r : Reg) (i v : Nat) : (s.setReg r i v).tiles = s.tiles := rfl
@[simp] theorem State.setReg_counters (s : State) (r : Reg) (i v : Nat) : (s.setReg r i v).counters = s.counters := rfl
@[simp] theorem State.setReg_tasks (s : State) (r : Reg) (i v : Nat) : (s.setReg r i v).tasks = s.tasks := rfl
@[simp] theorem State.setReg_chans (s : State) (r : Reg) (i v : Nat) : (s.setReg r i v).chans = s.chans := rfl
@[simp] theorem State.setReg_engines (s : State) (r : Reg) (i v : Nat) : (s.setReg r i v).engines = s.engines := rfl
@[simp] theorem State.setReg_arrivals (s : State) (r : Reg) (i v : Nat) : (s.setReg r i v).arrivals = s.arrivals := rfl
@[simp] theorem State.setReg_mem (s : State) (r : Reg) (i v : Nat) : (s.setReg r i v).mem = s.mem := rfl
@[simp] theorem State.setReg_events (s : State) (r : Reg) (i v : Nat) : (s.setReg r i v).events = s.events := rfl
@[simp] theorem State.setReg_rops (s : State) (r : Reg) (i v : Nat) : (s.setReg r i v).rops = s.rops := rfl
@[simp] theorem State.setReg_removed (s : State) (r : Reg) (i v : Nat) : (s.setReg r i v).removed = s.removed := rfl
@[simp] theorem State.setReg_penalty (s : State) (r : Reg) (i v : Nat) : (s.setReg r i v).penalty = s.penalty := rfl
@[simp] theorem State.setReg_drainDue (s : State) (r : Reg) (i v : Nat) : (s.setReg r i v).drainDue = s.drainDue := rfl
@[simp] theorem State.setReg_govs (s : State) (r : Reg) (i v : Nat) : (s.setReg r i v).govs = s.govs := rfl
@[simp] theorem State.setReg_gens (s : State) (r : Reg) (i v : Nat) : (s.setReg r i v).gens = s.gens := rfl
@[simp] theorem State.setReg_sensors (s : State) (r : Reg) (i v : Nat) : (s.setReg r i v).sensors = s.sensors := rfl
@[simp] theorem State.setReg_fab (s : State) (r : Reg) (i v : Nat) : (s.setReg r i v).fab = s.fab := rfl
@[simp] theorem State.setReg_refusing (s : State) (r : Reg) (i v : Nat) : (s.setReg r i v).refusing = s.refusing := rfl
@[simp] theorem State.setReg_rx (s : State) (r : Reg) (i v : Nat) : (s.setReg r i v).rx = s.rx := rfl
@[simp] theorem State.setReg_shut (s : State) (r : Reg) (i v : Nat) : (s.setReg r i v).shut = s.shut := rfl
@[simp] theorem State.setReg_retrains (s : State) (r : Reg) (i v : Nat) : (s.setReg r i v).retrains = s.retrains := rfl
@[simp] theorem State.setReg_training (s : State) (r : Reg) (i v : Nat) : (s.setReg r i v).training = s.training := rfl
@[simp] theorem State.setReg_sfcnt (s : State) (r : Reg) (i v : Nat) : (s.setReg r i v).sfcnt = s.sfcnt := rfl
@[simp] theorem State.setReg_frames (s : State) (r : Reg) (i v : Nat) : (s.setReg r i v).frames = s.frames := rfl
@[simp] theorem State.setReg_plan (s : State) (r : Reg) (i v : Nat) : (s.setReg r i v).plan = s.plan := rfl
@[simp] theorem State.setReg_tags (s : State) (r : Reg) (i v : Nat) : (s.setReg r i v).tags = s.tags := rfl
@[simp] theorem State.setReg_puts (s : State) (r : Reg) (i v : Nat) : (s.setReg r i v).puts = s.puts := rfl
@[simp] theorem State.setReg_dwHeld (s : State) (r : Reg) (i v : Nat) : (s.setReg r i v).dwHeld = s.dwHeld := rfl
@[simp] theorem State.setReg_host (s : State) (r : Reg) (i v : Nat) : (s.setReg r i v).host = s.host := rfl
@[simp] theorem State.setReg_twin (s : State) (r : Reg) (i v : Nat) : (s.setReg r i v).twin = s.twin := rfl
@[simp] theorem State.setReg_hd (s : State) (r : Reg) (i v : Nat) : (s.setReg r i v).hd = s.hd := rfl
@[simp] theorem State.setReg_power (s : State) (r : Reg) (i v : Nat) : (s.setReg r i v).power = s.power := rfl
@[simp] theorem State.setReg_sent (s : State) (r : Reg) (i v : Nat) : (s.setReg r i v).sent = s.sent := rfl
@[simp] theorem State.setReg_asks (s : State) (r : Reg) (i v : Nat) : (s.setReg r i v).asks = s.asks := rfl
@[simp] theorem State.setReg_nextId (s : State) (r : Reg) (i v : Nat) : (s.setReg r i v).nextId = s.nextId := rfl
@[simp] theorem State.setReg_free (s : State) (r : Reg) (i v : Nat) : (s.setReg r i v).free = s.free := rfl
@[simp] theorem State.setReg_pending (s : State) (r : Reg) (i v : Nat) : (s.setReg r i v).pending = s.pending := rfl

@[simp] theorem State.put_tiles (s : State) (f : Fld) (i x : Nat) : (s.put f i x).tiles = s.tiles := rfl
@[simp] theorem State.put_counters (s : State) (f : Fld) (i x : Nat) : (s.put f i x).counters = s.counters := rfl
@[simp] theorem State.put_tasks (s : State) (f : Fld) (i x : Nat) : (s.put f i x).tasks = s.tasks := rfl
@[simp] theorem State.put_chans (s : State) (f : Fld) (i x : Nat) : (s.put f i x).chans = s.chans := rfl
@[simp] theorem State.put_engines (s : State) (f : Fld) (i x : Nat) : (s.put f i x).engines = s.engines := rfl
@[simp] theorem State.put_arrivals (s : State) (f : Fld) (i x : Nat) : (s.put f i x).arrivals = s.arrivals := rfl
@[simp] theorem State.put_mem (s : State) (f : Fld) (i x : Nat) : (s.put f i x).mem = s.mem := rfl
@[simp] theorem State.put_events (s : State) (f : Fld) (i x : Nat) : (s.put f i x).events = s.events := rfl
@[simp] theorem State.put_rops (s : State) (f : Fld) (i x : Nat) : (s.put f i x).rops = s.rops := rfl
@[simp] theorem State.put_removed (s : State) (f : Fld) (i x : Nat) : (s.put f i x).removed = s.removed := rfl
@[simp] theorem State.put_penalty (s : State) (f : Fld) (i x : Nat) : (s.put f i x).penalty = s.penalty := rfl
@[simp] theorem State.put_drainDue (s : State) (f : Fld) (i x : Nat) : (s.put f i x).drainDue = s.drainDue := rfl
@[simp] theorem State.put_govs (s : State) (f : Fld) (i x : Nat) : (s.put f i x).govs = s.govs := rfl
@[simp] theorem State.put_gens (s : State) (f : Fld) (i x : Nat) : (s.put f i x).gens = s.gens := rfl
@[simp] theorem State.put_sensors (s : State) (f : Fld) (i x : Nat) : (s.put f i x).sensors = s.sensors := rfl
@[simp] theorem State.put_fab (s : State) (f : Fld) (i x : Nat) : (s.put f i x).fab = s.fab := rfl
@[simp] theorem State.put_refusing (s : State) (f : Fld) (i x : Nat) : (s.put f i x).refusing = s.refusing := rfl
@[simp] theorem State.put_rx (s : State) (f : Fld) (i x : Nat) : (s.put f i x).rx = s.rx := rfl
@[simp] theorem State.put_shut (s : State) (f : Fld) (i x : Nat) : (s.put f i x).shut = s.shut := rfl
@[simp] theorem State.put_retrains (s : State) (f : Fld) (i x : Nat) : (s.put f i x).retrains = s.retrains := rfl
@[simp] theorem State.put_training (s : State) (f : Fld) (i x : Nat) : (s.put f i x).training = s.training := rfl
@[simp] theorem State.put_sfcnt (s : State) (f : Fld) (i x : Nat) : (s.put f i x).sfcnt = s.sfcnt := rfl
@[simp] theorem State.put_frames (s : State) (f : Fld) (i x : Nat) : (s.put f i x).frames = s.frames := rfl
@[simp] theorem State.put_plan (s : State) (f : Fld) (i x : Nat) : (s.put f i x).plan = s.plan := rfl
@[simp] theorem State.put_tags (s : State) (f : Fld) (i x : Nat) : (s.put f i x).tags = s.tags := rfl
@[simp] theorem State.put_puts (s : State) (f : Fld) (i x : Nat) : (s.put f i x).puts = s.puts := rfl
@[simp] theorem State.put_dwHeld (s : State) (f : Fld) (i x : Nat) : (s.put f i x).dwHeld = s.dwHeld := rfl
@[simp] theorem State.put_host (s : State) (f : Fld) (i x : Nat) : (s.put f i x).host = s.host := rfl
@[simp] theorem State.put_twin (s : State) (f : Fld) (i x : Nat) : (s.put f i x).twin = s.twin := rfl
@[simp] theorem State.put_hd (s : State) (f : Fld) (i x : Nat) : (s.put f i x).hd = s.hd := rfl
@[simp] theorem State.put_power (s : State) (f : Fld) (i x : Nat) : (s.put f i x).power = s.power := rfl
@[simp] theorem State.put_sent (s : State) (f : Fld) (i x : Nat) : (s.put f i x).sent = s.sent := rfl
@[simp] theorem State.put_asks (s : State) (f : Fld) (i x : Nat) : (s.put f i x).asks = s.asks := rfl
@[simp] theorem State.put_nextId (s : State) (f : Fld) (i x : Nat) : (s.put f i x).nextId = s.nextId := rfl
@[simp] theorem State.put_free (s : State) (f : Fld) (i x : Nat) : (s.put f i x).free = s.free := rfl
@[simp] theorem State.put_pending (s : State) (f : Fld) (i x : Nat) : (s.put f i x).pending = s.pending := rfl

@[simp] theorem State.bump_tiles (s : State) (f : Fld) (i n : Nat) : (s.bump f i n).tiles = s.tiles := rfl
@[simp] theorem State.bump_counters (s : State) (f : Fld) (i n : Nat) : (s.bump f i n).counters = s.counters := rfl
@[simp] theorem State.bump_tasks (s : State) (f : Fld) (i n : Nat) : (s.bump f i n).tasks = s.tasks := rfl
@[simp] theorem State.bump_chans (s : State) (f : Fld) (i n : Nat) : (s.bump f i n).chans = s.chans := rfl
@[simp] theorem State.bump_engines (s : State) (f : Fld) (i n : Nat) : (s.bump f i n).engines = s.engines := rfl
@[simp] theorem State.bump_arrivals (s : State) (f : Fld) (i n : Nat) : (s.bump f i n).arrivals = s.arrivals := rfl
@[simp] theorem State.bump_mem (s : State) (f : Fld) (i n : Nat) : (s.bump f i n).mem = s.mem := rfl
@[simp] theorem State.bump_events (s : State) (f : Fld) (i n : Nat) : (s.bump f i n).events = s.events := rfl
@[simp] theorem State.bump_rops (s : State) (f : Fld) (i n : Nat) : (s.bump f i n).rops = s.rops := rfl
@[simp] theorem State.bump_removed (s : State) (f : Fld) (i n : Nat) : (s.bump f i n).removed = s.removed := rfl
@[simp] theorem State.bump_penalty (s : State) (f : Fld) (i n : Nat) : (s.bump f i n).penalty = s.penalty := rfl
@[simp] theorem State.bump_drainDue (s : State) (f : Fld) (i n : Nat) : (s.bump f i n).drainDue = s.drainDue := rfl
@[simp] theorem State.bump_govs (s : State) (f : Fld) (i n : Nat) : (s.bump f i n).govs = s.govs := rfl
@[simp] theorem State.bump_gens (s : State) (f : Fld) (i n : Nat) : (s.bump f i n).gens = s.gens := rfl
@[simp] theorem State.bump_sensors (s : State) (f : Fld) (i n : Nat) : (s.bump f i n).sensors = s.sensors := rfl
@[simp] theorem State.bump_fab (s : State) (f : Fld) (i n : Nat) : (s.bump f i n).fab = s.fab := rfl
@[simp] theorem State.bump_refusing (s : State) (f : Fld) (i n : Nat) : (s.bump f i n).refusing = s.refusing := rfl
@[simp] theorem State.bump_rx (s : State) (f : Fld) (i n : Nat) : (s.bump f i n).rx = s.rx := rfl
@[simp] theorem State.bump_shut (s : State) (f : Fld) (i n : Nat) : (s.bump f i n).shut = s.shut := rfl
@[simp] theorem State.bump_retrains (s : State) (f : Fld) (i n : Nat) : (s.bump f i n).retrains = s.retrains := rfl
@[simp] theorem State.bump_training (s : State) (f : Fld) (i n : Nat) : (s.bump f i n).training = s.training := rfl
@[simp] theorem State.bump_sfcnt (s : State) (f : Fld) (i n : Nat) : (s.bump f i n).sfcnt = s.sfcnt := rfl
@[simp] theorem State.bump_frames (s : State) (f : Fld) (i n : Nat) : (s.bump f i n).frames = s.frames := rfl
@[simp] theorem State.bump_plan (s : State) (f : Fld) (i n : Nat) : (s.bump f i n).plan = s.plan := rfl
@[simp] theorem State.bump_tags (s : State) (f : Fld) (i n : Nat) : (s.bump f i n).tags = s.tags := rfl
@[simp] theorem State.bump_puts (s : State) (f : Fld) (i n : Nat) : (s.bump f i n).puts = s.puts := rfl
@[simp] theorem State.bump_dwHeld (s : State) (f : Fld) (i n : Nat) : (s.bump f i n).dwHeld = s.dwHeld := rfl
@[simp] theorem State.bump_host (s : State) (f : Fld) (i n : Nat) : (s.bump f i n).host = s.host := rfl
@[simp] theorem State.bump_twin (s : State) (f : Fld) (i n : Nat) : (s.bump f i n).twin = s.twin := rfl
@[simp] theorem State.bump_hd (s : State) (f : Fld) (i n : Nat) : (s.bump f i n).hd = s.hd := rfl
@[simp] theorem State.bump_power (s : State) (f : Fld) (i n : Nat) : (s.bump f i n).power = s.power := rfl
@[simp] theorem State.bump_sent (s : State) (f : Fld) (i n : Nat) : (s.bump f i n).sent = s.sent := rfl
@[simp] theorem State.bump_asks (s : State) (f : Fld) (i n : Nat) : (s.bump f i n).asks = s.asks := rfl
@[simp] theorem State.bump_nextId (s : State) (f : Fld) (i n : Nat) : (s.bump f i n).nextId = s.nextId := rfl
@[simp] theorem State.bump_free (s : State) (f : Fld) (i n : Nat) : (s.bump f i n).free = s.free := rfl
@[simp] theorem State.bump_pending (s : State) (f : Fld) (i n : Nat) : (s.bump f i n).pending = s.pending := rfl

@[simp] theorem State.setAsk_tiles (s : State) (r : Reg) (i : Nat) (a : Ask) : (s.setAsk r i a).tiles = s.tiles := rfl
@[simp] theorem State.setAsk_counters (s : State) (r : Reg) (i : Nat) (a : Ask) : (s.setAsk r i a).counters = s.counters := rfl
@[simp] theorem State.setAsk_tasks (s : State) (r : Reg) (i : Nat) (a : Ask) : (s.setAsk r i a).tasks = s.tasks := rfl
@[simp] theorem State.setAsk_chans (s : State) (r : Reg) (i : Nat) (a : Ask) : (s.setAsk r i a).chans = s.chans := rfl
@[simp] theorem State.setAsk_engines (s : State) (r : Reg) (i : Nat) (a : Ask) : (s.setAsk r i a).engines = s.engines := rfl
@[simp] theorem State.setAsk_arrivals (s : State) (r : Reg) (i : Nat) (a : Ask) : (s.setAsk r i a).arrivals = s.arrivals := rfl
@[simp] theorem State.setAsk_mem (s : State) (r : Reg) (i : Nat) (a : Ask) : (s.setAsk r i a).mem = s.mem := rfl
@[simp] theorem State.setAsk_events (s : State) (r : Reg) (i : Nat) (a : Ask) : (s.setAsk r i a).events = s.events := rfl
@[simp] theorem State.setAsk_rops (s : State) (r : Reg) (i : Nat) (a : Ask) : (s.setAsk r i a).rops = s.rops := rfl
@[simp] theorem State.setAsk_removed (s : State) (r : Reg) (i : Nat) (a : Ask) : (s.setAsk r i a).removed = s.removed := rfl
@[simp] theorem State.setAsk_penalty (s : State) (r : Reg) (i : Nat) (a : Ask) : (s.setAsk r i a).penalty = s.penalty := rfl
@[simp] theorem State.setAsk_drainDue (s : State) (r : Reg) (i : Nat) (a : Ask) : (s.setAsk r i a).drainDue = s.drainDue := rfl
@[simp] theorem State.setAsk_govs (s : State) (r : Reg) (i : Nat) (a : Ask) : (s.setAsk r i a).govs = s.govs := rfl
@[simp] theorem State.setAsk_gens (s : State) (r : Reg) (i : Nat) (a : Ask) : (s.setAsk r i a).gens = s.gens := rfl
@[simp] theorem State.setAsk_sensors (s : State) (r : Reg) (i : Nat) (a : Ask) : (s.setAsk r i a).sensors = s.sensors := rfl
@[simp] theorem State.setAsk_fab (s : State) (r : Reg) (i : Nat) (a : Ask) : (s.setAsk r i a).fab = s.fab := rfl
@[simp] theorem State.setAsk_refusing (s : State) (r : Reg) (i : Nat) (a : Ask) : (s.setAsk r i a).refusing = s.refusing := rfl
@[simp] theorem State.setAsk_rx (s : State) (r : Reg) (i : Nat) (a : Ask) : (s.setAsk r i a).rx = s.rx := rfl
@[simp] theorem State.setAsk_shut (s : State) (r : Reg) (i : Nat) (a : Ask) : (s.setAsk r i a).shut = s.shut := rfl
@[simp] theorem State.setAsk_retrains (s : State) (r : Reg) (i : Nat) (a : Ask) : (s.setAsk r i a).retrains = s.retrains := rfl
@[simp] theorem State.setAsk_training (s : State) (r : Reg) (i : Nat) (a : Ask) : (s.setAsk r i a).training = s.training := rfl
@[simp] theorem State.setAsk_sfcnt (s : State) (r : Reg) (i : Nat) (a : Ask) : (s.setAsk r i a).sfcnt = s.sfcnt := rfl
@[simp] theorem State.setAsk_frames (s : State) (r : Reg) (i : Nat) (a : Ask) : (s.setAsk r i a).frames = s.frames := rfl
@[simp] theorem State.setAsk_plan (s : State) (r : Reg) (i : Nat) (a : Ask) : (s.setAsk r i a).plan = s.plan := rfl
@[simp] theorem State.setAsk_tags (s : State) (r : Reg) (i : Nat) (a : Ask) : (s.setAsk r i a).tags = s.tags := rfl
@[simp] theorem State.setAsk_puts (s : State) (r : Reg) (i : Nat) (a : Ask) : (s.setAsk r i a).puts = s.puts := rfl
@[simp] theorem State.setAsk_dwHeld (s : State) (r : Reg) (i : Nat) (a : Ask) : (s.setAsk r i a).dwHeld = s.dwHeld := rfl
@[simp] theorem State.setAsk_host (s : State) (r : Reg) (i : Nat) (a : Ask) : (s.setAsk r i a).host = s.host := rfl
@[simp] theorem State.setAsk_twin (s : State) (r : Reg) (i : Nat) (a : Ask) : (s.setAsk r i a).twin = s.twin := rfl
@[simp] theorem State.setAsk_hd (s : State) (r : Reg) (i : Nat) (a : Ask) : (s.setAsk r i a).hd = s.hd := rfl
@[simp] theorem State.setAsk_power (s : State) (r : Reg) (i : Nat) (a : Ask) : (s.setAsk r i a).power = s.power := rfl
@[simp] theorem State.setAsk_sent (s : State) (r : Reg) (i : Nat) (a : Ask) : (s.setAsk r i a).sent = s.sent := rfl
@[simp] theorem State.setAsk_nextId (s : State) (r : Reg) (i : Nat) (a : Ask) : (s.setAsk r i a).nextId = s.nextId := rfl
@[simp] theorem State.setAsk_free (s : State) (r : Reg) (i : Nat) (a : Ask) : (s.setAsk r i a).free = s.free := rfl
@[simp] theorem State.setAsk_pending (s : State) (r : Reg) (i : Nat) (a : Ask) : (s.setAsk r i a).pending = s.pending := rfl

@[simp] theorem State.askDone_tiles (s : State) (r : Reg) (i : Nat) : (s.askDone r i).tiles = s.tiles := rfl
@[simp] theorem State.askDone_counters (s : State) (r : Reg) (i : Nat) : (s.askDone r i).counters = s.counters := rfl
@[simp] theorem State.askDone_tasks (s : State) (r : Reg) (i : Nat) : (s.askDone r i).tasks = s.tasks := rfl
@[simp] theorem State.askDone_chans (s : State) (r : Reg) (i : Nat) : (s.askDone r i).chans = s.chans := rfl
@[simp] theorem State.askDone_engines (s : State) (r : Reg) (i : Nat) : (s.askDone r i).engines = s.engines := rfl
@[simp] theorem State.askDone_arrivals (s : State) (r : Reg) (i : Nat) : (s.askDone r i).arrivals = s.arrivals := rfl
@[simp] theorem State.askDone_mem (s : State) (r : Reg) (i : Nat) : (s.askDone r i).mem = s.mem := rfl
@[simp] theorem State.askDone_events (s : State) (r : Reg) (i : Nat) : (s.askDone r i).events = s.events := rfl
@[simp] theorem State.askDone_rops (s : State) (r : Reg) (i : Nat) : (s.askDone r i).rops = s.rops := rfl
@[simp] theorem State.askDone_removed (s : State) (r : Reg) (i : Nat) : (s.askDone r i).removed = s.removed := rfl
@[simp] theorem State.askDone_penalty (s : State) (r : Reg) (i : Nat) : (s.askDone r i).penalty = s.penalty := rfl
@[simp] theorem State.askDone_drainDue (s : State) (r : Reg) (i : Nat) : (s.askDone r i).drainDue = s.drainDue := rfl
@[simp] theorem State.askDone_govs (s : State) (r : Reg) (i : Nat) : (s.askDone r i).govs = s.govs := rfl
@[simp] theorem State.askDone_gens (s : State) (r : Reg) (i : Nat) : (s.askDone r i).gens = s.gens := rfl
@[simp] theorem State.askDone_sensors (s : State) (r : Reg) (i : Nat) : (s.askDone r i).sensors = s.sensors := rfl
@[simp] theorem State.askDone_fab (s : State) (r : Reg) (i : Nat) : (s.askDone r i).fab = s.fab := rfl
@[simp] theorem State.askDone_refusing (s : State) (r : Reg) (i : Nat) : (s.askDone r i).refusing = s.refusing := rfl
@[simp] theorem State.askDone_rx (s : State) (r : Reg) (i : Nat) : (s.askDone r i).rx = s.rx := rfl
@[simp] theorem State.askDone_shut (s : State) (r : Reg) (i : Nat) : (s.askDone r i).shut = s.shut := rfl
@[simp] theorem State.askDone_retrains (s : State) (r : Reg) (i : Nat) : (s.askDone r i).retrains = s.retrains := rfl
@[simp] theorem State.askDone_training (s : State) (r : Reg) (i : Nat) : (s.askDone r i).training = s.training := rfl
@[simp] theorem State.askDone_sfcnt (s : State) (r : Reg) (i : Nat) : (s.askDone r i).sfcnt = s.sfcnt := rfl
@[simp] theorem State.askDone_frames (s : State) (r : Reg) (i : Nat) : (s.askDone r i).frames = s.frames := rfl
@[simp] theorem State.askDone_plan (s : State) (r : Reg) (i : Nat) : (s.askDone r i).plan = s.plan := rfl
@[simp] theorem State.askDone_tags (s : State) (r : Reg) (i : Nat) : (s.askDone r i).tags = s.tags := rfl
@[simp] theorem State.askDone_puts (s : State) (r : Reg) (i : Nat) : (s.askDone r i).puts = s.puts := rfl
@[simp] theorem State.askDone_dwHeld (s : State) (r : Reg) (i : Nat) : (s.askDone r i).dwHeld = s.dwHeld := rfl
@[simp] theorem State.askDone_host (s : State) (r : Reg) (i : Nat) : (s.askDone r i).host = s.host := rfl
@[simp] theorem State.askDone_twin (s : State) (r : Reg) (i : Nat) : (s.askDone r i).twin = s.twin := rfl
@[simp] theorem State.askDone_hd (s : State) (r : Reg) (i : Nat) : (s.askDone r i).hd = s.hd := rfl
@[simp] theorem State.askDone_power (s : State) (r : Reg) (i : Nat) : (s.askDone r i).power = s.power := rfl
@[simp] theorem State.askDone_sent (s : State) (r : Reg) (i : Nat) : (s.askDone r i).sent = s.sent := rfl
@[simp] theorem State.askDone_nextId (s : State) (r : Reg) (i : Nat) : (s.askDone r i).nextId = s.nextId := rfl
@[simp] theorem State.askDone_free (s : State) (r : Reg) (i : Nat) : (s.askDone r i).free = s.free := rfl
@[simp] theorem State.askDone_pending (s : State) (r : Reg) (i : Nat) : (s.askDone r i).pending = s.pending := rfl

@[simp] theorem State.setTile_regs (s : State) (t : Nat) (x : Tile) : (s.setTile t x).regs = s.regs := rfl
@[simp] theorem State.setTile_counters (s : State) (t : Nat) (x : Tile) : (s.setTile t x).counters = s.counters := rfl
@[simp] theorem State.setTile_tasks (s : State) (t : Nat) (x : Tile) : (s.setTile t x).tasks = s.tasks := rfl
@[simp] theorem State.setTile_chans (s : State) (t : Nat) (x : Tile) : (s.setTile t x).chans = s.chans := rfl
@[simp] theorem State.setTile_engines (s : State) (t : Nat) (x : Tile) : (s.setTile t x).engines = s.engines := rfl
@[simp] theorem State.setTile_arrivals (s : State) (t : Nat) (x : Tile) : (s.setTile t x).arrivals = s.arrivals := rfl
@[simp] theorem State.setTile_mem (s : State) (t : Nat) (x : Tile) : (s.setTile t x).mem = s.mem := rfl
@[simp] theorem State.setTile_events (s : State) (t : Nat) (x : Tile) : (s.setTile t x).events = s.events := rfl
@[simp] theorem State.setTile_rops (s : State) (t : Nat) (x : Tile) : (s.setTile t x).rops = s.rops := rfl
@[simp] theorem State.setTile_removed (s : State) (t : Nat) (x : Tile) : (s.setTile t x).removed = s.removed := rfl
@[simp] theorem State.setTile_penalty (s : State) (t : Nat) (x : Tile) : (s.setTile t x).penalty = s.penalty := rfl
@[simp] theorem State.setTile_drainDue (s : State) (t : Nat) (x : Tile) : (s.setTile t x).drainDue = s.drainDue := rfl
@[simp] theorem State.setTile_govs (s : State) (t : Nat) (x : Tile) : (s.setTile t x).govs = s.govs := rfl
@[simp] theorem State.setTile_gens (s : State) (t : Nat) (x : Tile) : (s.setTile t x).gens = s.gens := rfl
@[simp] theorem State.setTile_sensors (s : State) (t : Nat) (x : Tile) : (s.setTile t x).sensors = s.sensors := rfl
@[simp] theorem State.setTile_fab (s : State) (t : Nat) (x : Tile) : (s.setTile t x).fab = s.fab := rfl
@[simp] theorem State.setTile_refusing (s : State) (t : Nat) (x : Tile) : (s.setTile t x).refusing = s.refusing := rfl
@[simp] theorem State.setTile_rx (s : State) (t : Nat) (x : Tile) : (s.setTile t x).rx = s.rx := rfl
@[simp] theorem State.setTile_shut (s : State) (t : Nat) (x : Tile) : (s.setTile t x).shut = s.shut := rfl
@[simp] theorem State.setTile_retrains (s : State) (t : Nat) (x : Tile) : (s.setTile t x).retrains = s.retrains := rfl
@[simp] theorem State.setTile_training (s : State) (t : Nat) (x : Tile) : (s.setTile t x).training = s.training := rfl
@[simp] theorem State.setTile_sfcnt (s : State) (t : Nat) (x : Tile) : (s.setTile t x).sfcnt = s.sfcnt := rfl
@[simp] theorem State.setTile_frames (s : State) (t : Nat) (x : Tile) : (s.setTile t x).frames = s.frames := rfl
@[simp] theorem State.setTile_plan (s : State) (t : Nat) (x : Tile) : (s.setTile t x).plan = s.plan := rfl
@[simp] theorem State.setTile_tags (s : State) (t : Nat) (x : Tile) : (s.setTile t x).tags = s.tags := rfl
@[simp] theorem State.setTile_puts (s : State) (t : Nat) (x : Tile) : (s.setTile t x).puts = s.puts := rfl
@[simp] theorem State.setTile_dwHeld (s : State) (t : Nat) (x : Tile) : (s.setTile t x).dwHeld = s.dwHeld := rfl
@[simp] theorem State.setTile_host (s : State) (t : Nat) (x : Tile) : (s.setTile t x).host = s.host := rfl
@[simp] theorem State.setTile_twin (s : State) (t : Nat) (x : Tile) : (s.setTile t x).twin = s.twin := rfl
@[simp] theorem State.setTile_hd (s : State) (t : Nat) (x : Tile) : (s.setTile t x).hd = s.hd := rfl
@[simp] theorem State.setTile_power (s : State) (t : Nat) (x : Tile) : (s.setTile t x).power = s.power := rfl
@[simp] theorem State.setTile_sent (s : State) (t : Nat) (x : Tile) : (s.setTile t x).sent = s.sent := rfl
@[simp] theorem State.setTile_asks (s : State) (t : Nat) (x : Tile) : (s.setTile t x).asks = s.asks := rfl
@[simp] theorem State.setTile_nextId (s : State) (t : Nat) (x : Tile) : (s.setTile t x).nextId = s.nextId := rfl
@[simp] theorem State.setTile_free (s : State) (t : Nat) (x : Tile) : (s.setTile t x).free = s.free := rfl
@[simp] theorem State.setTile_pending (s : State) (t : Nat) (x : Tile) : (s.setTile t x).pending = s.pending := rfl

@[simp] theorem State.setCtx_regs (s : State) (t : Nat) (c : Ctxt) (x : Ctx) : (s.setCtx t c x).regs = s.regs := rfl
@[simp] theorem State.setCtx_counters (s : State) (t : Nat) (c : Ctxt) (x : Ctx) : (s.setCtx t c x).counters = s.counters := rfl
@[simp] theorem State.setCtx_tasks (s : State) (t : Nat) (c : Ctxt) (x : Ctx) : (s.setCtx t c x).tasks = s.tasks := rfl
@[simp] theorem State.setCtx_chans (s : State) (t : Nat) (c : Ctxt) (x : Ctx) : (s.setCtx t c x).chans = s.chans := rfl
@[simp] theorem State.setCtx_engines (s : State) (t : Nat) (c : Ctxt) (x : Ctx) : (s.setCtx t c x).engines = s.engines := rfl
@[simp] theorem State.setCtx_arrivals (s : State) (t : Nat) (c : Ctxt) (x : Ctx) : (s.setCtx t c x).arrivals = s.arrivals := rfl
@[simp] theorem State.setCtx_mem (s : State) (t : Nat) (c : Ctxt) (x : Ctx) : (s.setCtx t c x).mem = s.mem := rfl
@[simp] theorem State.setCtx_events (s : State) (t : Nat) (c : Ctxt) (x : Ctx) : (s.setCtx t c x).events = s.events := rfl
@[simp] theorem State.setCtx_rops (s : State) (t : Nat) (c : Ctxt) (x : Ctx) : (s.setCtx t c x).rops = s.rops := rfl
@[simp] theorem State.setCtx_removed (s : State) (t : Nat) (c : Ctxt) (x : Ctx) : (s.setCtx t c x).removed = s.removed := rfl
@[simp] theorem State.setCtx_penalty (s : State) (t : Nat) (c : Ctxt) (x : Ctx) : (s.setCtx t c x).penalty = s.penalty := rfl
@[simp] theorem State.setCtx_drainDue (s : State) (t : Nat) (c : Ctxt) (x : Ctx) : (s.setCtx t c x).drainDue = s.drainDue := rfl
@[simp] theorem State.setCtx_govs (s : State) (t : Nat) (c : Ctxt) (x : Ctx) : (s.setCtx t c x).govs = s.govs := rfl
@[simp] theorem State.setCtx_gens (s : State) (t : Nat) (c : Ctxt) (x : Ctx) : (s.setCtx t c x).gens = s.gens := rfl
@[simp] theorem State.setCtx_sensors (s : State) (t : Nat) (c : Ctxt) (x : Ctx) : (s.setCtx t c x).sensors = s.sensors := rfl
@[simp] theorem State.setCtx_fab (s : State) (t : Nat) (c : Ctxt) (x : Ctx) : (s.setCtx t c x).fab = s.fab := rfl
@[simp] theorem State.setCtx_refusing (s : State) (t : Nat) (c : Ctxt) (x : Ctx) : (s.setCtx t c x).refusing = s.refusing := rfl
@[simp] theorem State.setCtx_rx (s : State) (t : Nat) (c : Ctxt) (x : Ctx) : (s.setCtx t c x).rx = s.rx := rfl
@[simp] theorem State.setCtx_shut (s : State) (t : Nat) (c : Ctxt) (x : Ctx) : (s.setCtx t c x).shut = s.shut := rfl
@[simp] theorem State.setCtx_retrains (s : State) (t : Nat) (c : Ctxt) (x : Ctx) : (s.setCtx t c x).retrains = s.retrains := rfl
@[simp] theorem State.setCtx_training (s : State) (t : Nat) (c : Ctxt) (x : Ctx) : (s.setCtx t c x).training = s.training := rfl
@[simp] theorem State.setCtx_sfcnt (s : State) (t : Nat) (c : Ctxt) (x : Ctx) : (s.setCtx t c x).sfcnt = s.sfcnt := rfl
@[simp] theorem State.setCtx_frames (s : State) (t : Nat) (c : Ctxt) (x : Ctx) : (s.setCtx t c x).frames = s.frames := rfl
@[simp] theorem State.setCtx_plan (s : State) (t : Nat) (c : Ctxt) (x : Ctx) : (s.setCtx t c x).plan = s.plan := rfl
@[simp] theorem State.setCtx_tags (s : State) (t : Nat) (c : Ctxt) (x : Ctx) : (s.setCtx t c x).tags = s.tags := rfl
@[simp] theorem State.setCtx_puts (s : State) (t : Nat) (c : Ctxt) (x : Ctx) : (s.setCtx t c x).puts = s.puts := rfl
@[simp] theorem State.setCtx_dwHeld (s : State) (t : Nat) (c : Ctxt) (x : Ctx) : (s.setCtx t c x).dwHeld = s.dwHeld := rfl
@[simp] theorem State.setCtx_host (s : State) (t : Nat) (c : Ctxt) (x : Ctx) : (s.setCtx t c x).host = s.host := rfl
@[simp] theorem State.setCtx_twin (s : State) (t : Nat) (c : Ctxt) (x : Ctx) : (s.setCtx t c x).twin = s.twin := rfl
@[simp] theorem State.setCtx_hd (s : State) (t : Nat) (c : Ctxt) (x : Ctx) : (s.setCtx t c x).hd = s.hd := rfl
@[simp] theorem State.setCtx_power (s : State) (t : Nat) (c : Ctxt) (x : Ctx) : (s.setCtx t c x).power = s.power := rfl
@[simp] theorem State.setCtx_sent (s : State) (t : Nat) (c : Ctxt) (x : Ctx) : (s.setCtx t c x).sent = s.sent := rfl
@[simp] theorem State.setCtx_asks (s : State) (t : Nat) (c : Ctxt) (x : Ctx) : (s.setCtx t c x).asks = s.asks := rfl
@[simp] theorem State.setCtx_nextId (s : State) (t : Nat) (c : Ctxt) (x : Ctx) : (s.setCtx t c x).nextId = s.nextId := rfl
@[simp] theorem State.setCtx_free (s : State) (t : Nat) (c : Ctxt) (x : Ctx) : (s.setCtx t c x).free = s.free := rfl
@[simp] theorem State.setCtx_pending (s : State) (t : Nat) (c : Ctxt) (x : Ctx) : (s.setCtx t c x).pending = s.pending := rfl

@[simp] theorem State.setCounter_regs (s : State) (c : Nat) (x : Counter) : (s.setCounter c x).regs = s.regs := rfl
@[simp] theorem State.setCounter_tiles (s : State) (c : Nat) (x : Counter) : (s.setCounter c x).tiles = s.tiles := rfl
@[simp] theorem State.setCounter_tasks (s : State) (c : Nat) (x : Counter) : (s.setCounter c x).tasks = s.tasks := rfl
@[simp] theorem State.setCounter_chans (s : State) (c : Nat) (x : Counter) : (s.setCounter c x).chans = s.chans := rfl
@[simp] theorem State.setCounter_engines (s : State) (c : Nat) (x : Counter) : (s.setCounter c x).engines = s.engines := rfl
@[simp] theorem State.setCounter_arrivals (s : State) (c : Nat) (x : Counter) : (s.setCounter c x).arrivals = s.arrivals := rfl
@[simp] theorem State.setCounter_mem (s : State) (c : Nat) (x : Counter) : (s.setCounter c x).mem = s.mem := rfl
@[simp] theorem State.setCounter_events (s : State) (c : Nat) (x : Counter) : (s.setCounter c x).events = s.events := rfl
@[simp] theorem State.setCounter_rops (s : State) (c : Nat) (x : Counter) : (s.setCounter c x).rops = s.rops := rfl
@[simp] theorem State.setCounter_removed (s : State) (c : Nat) (x : Counter) : (s.setCounter c x).removed = s.removed := rfl
@[simp] theorem State.setCounter_penalty (s : State) (c : Nat) (x : Counter) : (s.setCounter c x).penalty = s.penalty := rfl
@[simp] theorem State.setCounter_drainDue (s : State) (c : Nat) (x : Counter) : (s.setCounter c x).drainDue = s.drainDue := rfl
@[simp] theorem State.setCounter_govs (s : State) (c : Nat) (x : Counter) : (s.setCounter c x).govs = s.govs := rfl
@[simp] theorem State.setCounter_gens (s : State) (c : Nat) (x : Counter) : (s.setCounter c x).gens = s.gens := rfl
@[simp] theorem State.setCounter_sensors (s : State) (c : Nat) (x : Counter) : (s.setCounter c x).sensors = s.sensors := rfl
@[simp] theorem State.setCounter_fab (s : State) (c : Nat) (x : Counter) : (s.setCounter c x).fab = s.fab := rfl
@[simp] theorem State.setCounter_refusing (s : State) (c : Nat) (x : Counter) : (s.setCounter c x).refusing = s.refusing := rfl
@[simp] theorem State.setCounter_rx (s : State) (c : Nat) (x : Counter) : (s.setCounter c x).rx = s.rx := rfl
@[simp] theorem State.setCounter_shut (s : State) (c : Nat) (x : Counter) : (s.setCounter c x).shut = s.shut := rfl
@[simp] theorem State.setCounter_retrains (s : State) (c : Nat) (x : Counter) : (s.setCounter c x).retrains = s.retrains := rfl
@[simp] theorem State.setCounter_training (s : State) (c : Nat) (x : Counter) : (s.setCounter c x).training = s.training := rfl
@[simp] theorem State.setCounter_sfcnt (s : State) (c : Nat) (x : Counter) : (s.setCounter c x).sfcnt = s.sfcnt := rfl
@[simp] theorem State.setCounter_frames (s : State) (c : Nat) (x : Counter) : (s.setCounter c x).frames = s.frames := rfl
@[simp] theorem State.setCounter_plan (s : State) (c : Nat) (x : Counter) : (s.setCounter c x).plan = s.plan := rfl
@[simp] theorem State.setCounter_tags (s : State) (c : Nat) (x : Counter) : (s.setCounter c x).tags = s.tags := rfl
@[simp] theorem State.setCounter_puts (s : State) (c : Nat) (x : Counter) : (s.setCounter c x).puts = s.puts := rfl
@[simp] theorem State.setCounter_dwHeld (s : State) (c : Nat) (x : Counter) : (s.setCounter c x).dwHeld = s.dwHeld := rfl
@[simp] theorem State.setCounter_host (s : State) (c : Nat) (x : Counter) : (s.setCounter c x).host = s.host := rfl
@[simp] theorem State.setCounter_twin (s : State) (c : Nat) (x : Counter) : (s.setCounter c x).twin = s.twin := rfl
@[simp] theorem State.setCounter_hd (s : State) (c : Nat) (x : Counter) : (s.setCounter c x).hd = s.hd := rfl
@[simp] theorem State.setCounter_power (s : State) (c : Nat) (x : Counter) : (s.setCounter c x).power = s.power := rfl
@[simp] theorem State.setCounter_sent (s : State) (c : Nat) (x : Counter) : (s.setCounter c x).sent = s.sent := rfl
@[simp] theorem State.setCounter_asks (s : State) (c : Nat) (x : Counter) : (s.setCounter c x).asks = s.asks := rfl
@[simp] theorem State.setCounter_nextId (s : State) (c : Nat) (x : Counter) : (s.setCounter c x).nextId = s.nextId := rfl
@[simp] theorem State.setCounter_free (s : State) (c : Nat) (x : Counter) : (s.setCounter c x).free = s.free := rfl
@[simp] theorem State.setCounter_pending (s : State) (c : Nat) (x : Counter) : (s.setCounter c x).pending = s.pending := rfl

@[simp] theorem State.setChan_regs (s : State) (k : Nat) (c : Chan) : (s.setChan k c).regs = s.regs := rfl
@[simp] theorem State.setChan_tiles (s : State) (k : Nat) (c : Chan) : (s.setChan k c).tiles = s.tiles := rfl
@[simp] theorem State.setChan_counters (s : State) (k : Nat) (c : Chan) : (s.setChan k c).counters = s.counters := rfl
@[simp] theorem State.setChan_tasks (s : State) (k : Nat) (c : Chan) : (s.setChan k c).tasks = s.tasks := rfl
@[simp] theorem State.setChan_engines (s : State) (k : Nat) (c : Chan) : (s.setChan k c).engines = s.engines := rfl
@[simp] theorem State.setChan_arrivals (s : State) (k : Nat) (c : Chan) : (s.setChan k c).arrivals = s.arrivals := rfl
@[simp] theorem State.setChan_mem (s : State) (k : Nat) (c : Chan) : (s.setChan k c).mem = s.mem := rfl
@[simp] theorem State.setChan_events (s : State) (k : Nat) (c : Chan) : (s.setChan k c).events = s.events := rfl
@[simp] theorem State.setChan_rops (s : State) (k : Nat) (c : Chan) : (s.setChan k c).rops = s.rops := rfl
@[simp] theorem State.setChan_removed (s : State) (k : Nat) (c : Chan) : (s.setChan k c).removed = s.removed := rfl
@[simp] theorem State.setChan_penalty (s : State) (k : Nat) (c : Chan) : (s.setChan k c).penalty = s.penalty := rfl
@[simp] theorem State.setChan_drainDue (s : State) (k : Nat) (c : Chan) : (s.setChan k c).drainDue = s.drainDue := rfl
@[simp] theorem State.setChan_govs (s : State) (k : Nat) (c : Chan) : (s.setChan k c).govs = s.govs := rfl
@[simp] theorem State.setChan_gens (s : State) (k : Nat) (c : Chan) : (s.setChan k c).gens = s.gens := rfl
@[simp] theorem State.setChan_sensors (s : State) (k : Nat) (c : Chan) : (s.setChan k c).sensors = s.sensors := rfl
@[simp] theorem State.setChan_fab (s : State) (k : Nat) (c : Chan) : (s.setChan k c).fab = s.fab := rfl
@[simp] theorem State.setChan_refusing (s : State) (k : Nat) (c : Chan) : (s.setChan k c).refusing = s.refusing := rfl
@[simp] theorem State.setChan_rx (s : State) (k : Nat) (c : Chan) : (s.setChan k c).rx = s.rx := rfl
@[simp] theorem State.setChan_shut (s : State) (k : Nat) (c : Chan) : (s.setChan k c).shut = s.shut := rfl
@[simp] theorem State.setChan_retrains (s : State) (k : Nat) (c : Chan) : (s.setChan k c).retrains = s.retrains := rfl
@[simp] theorem State.setChan_training (s : State) (k : Nat) (c : Chan) : (s.setChan k c).training = s.training := rfl
@[simp] theorem State.setChan_sfcnt (s : State) (k : Nat) (c : Chan) : (s.setChan k c).sfcnt = s.sfcnt := rfl
@[simp] theorem State.setChan_frames (s : State) (k : Nat) (c : Chan) : (s.setChan k c).frames = s.frames := rfl
@[simp] theorem State.setChan_plan (s : State) (k : Nat) (c : Chan) : (s.setChan k c).plan = s.plan := rfl
@[simp] theorem State.setChan_tags (s : State) (k : Nat) (c : Chan) : (s.setChan k c).tags = s.tags := rfl
@[simp] theorem State.setChan_puts (s : State) (k : Nat) (c : Chan) : (s.setChan k c).puts = s.puts := rfl
@[simp] theorem State.setChan_dwHeld (s : State) (k : Nat) (c : Chan) : (s.setChan k c).dwHeld = s.dwHeld := rfl
@[simp] theorem State.setChan_host (s : State) (k : Nat) (c : Chan) : (s.setChan k c).host = s.host := rfl
@[simp] theorem State.setChan_twin (s : State) (k : Nat) (c : Chan) : (s.setChan k c).twin = s.twin := rfl
@[simp] theorem State.setChan_hd (s : State) (k : Nat) (c : Chan) : (s.setChan k c).hd = s.hd := rfl
@[simp] theorem State.setChan_power (s : State) (k : Nat) (c : Chan) : (s.setChan k c).power = s.power := rfl
@[simp] theorem State.setChan_sent (s : State) (k : Nat) (c : Chan) : (s.setChan k c).sent = s.sent := rfl
@[simp] theorem State.setChan_asks (s : State) (k : Nat) (c : Chan) : (s.setChan k c).asks = s.asks := rfl
@[simp] theorem State.setChan_nextId (s : State) (k : Nat) (c : Chan) : (s.setChan k c).nextId = s.nextId := rfl
@[simp] theorem State.setChan_free (s : State) (k : Nat) (c : Chan) : (s.setChan k c).free = s.free := rfl
@[simp] theorem State.setChan_pending (s : State) (k : Nat) (c : Chan) : (s.setChan k c).pending = s.pending := rfl

@[simp] theorem State.setGov_regs (s : State) (d : Nat) (g : Gov) : (s.setGov d g).regs = s.regs := rfl
@[simp] theorem State.setGov_tiles (s : State) (d : Nat) (g : Gov) : (s.setGov d g).tiles = s.tiles := rfl
@[simp] theorem State.setGov_counters (s : State) (d : Nat) (g : Gov) : (s.setGov d g).counters = s.counters := rfl
@[simp] theorem State.setGov_tasks (s : State) (d : Nat) (g : Gov) : (s.setGov d g).tasks = s.tasks := rfl
@[simp] theorem State.setGov_chans (s : State) (d : Nat) (g : Gov) : (s.setGov d g).chans = s.chans := rfl
@[simp] theorem State.setGov_engines (s : State) (d : Nat) (g : Gov) : (s.setGov d g).engines = s.engines := rfl
@[simp] theorem State.setGov_arrivals (s : State) (d : Nat) (g : Gov) : (s.setGov d g).arrivals = s.arrivals := rfl
@[simp] theorem State.setGov_mem (s : State) (d : Nat) (g : Gov) : (s.setGov d g).mem = s.mem := rfl
@[simp] theorem State.setGov_events (s : State) (d : Nat) (g : Gov) : (s.setGov d g).events = s.events := rfl
@[simp] theorem State.setGov_rops (s : State) (d : Nat) (g : Gov) : (s.setGov d g).rops = s.rops := rfl
@[simp] theorem State.setGov_removed (s : State) (d : Nat) (g : Gov) : (s.setGov d g).removed = s.removed := rfl
@[simp] theorem State.setGov_penalty (s : State) (d : Nat) (g : Gov) : (s.setGov d g).penalty = s.penalty := rfl
@[simp] theorem State.setGov_drainDue (s : State) (d : Nat) (g : Gov) : (s.setGov d g).drainDue = s.drainDue := rfl
@[simp] theorem State.setGov_gens (s : State) (d : Nat) (g : Gov) : (s.setGov d g).gens = s.gens := rfl
@[simp] theorem State.setGov_sensors (s : State) (d : Nat) (g : Gov) : (s.setGov d g).sensors = s.sensors := rfl
@[simp] theorem State.setGov_fab (s : State) (d : Nat) (g : Gov) : (s.setGov d g).fab = s.fab := rfl
@[simp] theorem State.setGov_refusing (s : State) (d : Nat) (g : Gov) : (s.setGov d g).refusing = s.refusing := rfl
@[simp] theorem State.setGov_rx (s : State) (d : Nat) (g : Gov) : (s.setGov d g).rx = s.rx := rfl
@[simp] theorem State.setGov_shut (s : State) (d : Nat) (g : Gov) : (s.setGov d g).shut = s.shut := rfl
@[simp] theorem State.setGov_retrains (s : State) (d : Nat) (g : Gov) : (s.setGov d g).retrains = s.retrains := rfl
@[simp] theorem State.setGov_training (s : State) (d : Nat) (g : Gov) : (s.setGov d g).training = s.training := rfl
@[simp] theorem State.setGov_sfcnt (s : State) (d : Nat) (g : Gov) : (s.setGov d g).sfcnt = s.sfcnt := rfl
@[simp] theorem State.setGov_frames (s : State) (d : Nat) (g : Gov) : (s.setGov d g).frames = s.frames := rfl
@[simp] theorem State.setGov_plan (s : State) (d : Nat) (g : Gov) : (s.setGov d g).plan = s.plan := rfl
@[simp] theorem State.setGov_tags (s : State) (d : Nat) (g : Gov) : (s.setGov d g).tags = s.tags := rfl
@[simp] theorem State.setGov_puts (s : State) (d : Nat) (g : Gov) : (s.setGov d g).puts = s.puts := rfl
@[simp] theorem State.setGov_dwHeld (s : State) (d : Nat) (g : Gov) : (s.setGov d g).dwHeld = s.dwHeld := rfl
@[simp] theorem State.setGov_host (s : State) (d : Nat) (g : Gov) : (s.setGov d g).host = s.host := rfl
@[simp] theorem State.setGov_twin (s : State) (d : Nat) (g : Gov) : (s.setGov d g).twin = s.twin := rfl
@[simp] theorem State.setGov_hd (s : State) (d : Nat) (g : Gov) : (s.setGov d g).hd = s.hd := rfl
@[simp] theorem State.setGov_power (s : State) (d : Nat) (g : Gov) : (s.setGov d g).power = s.power := rfl
@[simp] theorem State.setGov_sent (s : State) (d : Nat) (g : Gov) : (s.setGov d g).sent = s.sent := rfl
@[simp] theorem State.setGov_asks (s : State) (d : Nat) (g : Gov) : (s.setGov d g).asks = s.asks := rfl
@[simp] theorem State.setGov_nextId (s : State) (d : Nat) (g : Gov) : (s.setGov d g).nextId = s.nextId := rfl
@[simp] theorem State.setGov_free (s : State) (d : Nat) (g : Gov) : (s.setGov d g).free = s.free := rfl
@[simp] theorem State.setGov_pending (s : State) (d : Nat) (g : Gov) : (s.setGov d g).pending = s.pending := rfl

@[simp] theorem State.pay_regs (s : State) (t k : Nat) : (s.pay t k).regs = s.regs := rfl
@[simp] theorem State.pay_counters (s : State) (t k : Nat) : (s.pay t k).counters = s.counters := rfl
@[simp] theorem State.pay_tasks (s : State) (t k : Nat) : (s.pay t k).tasks = s.tasks := rfl
@[simp] theorem State.pay_chans (s : State) (t k : Nat) : (s.pay t k).chans = s.chans := rfl
@[simp] theorem State.pay_engines (s : State) (t k : Nat) : (s.pay t k).engines = s.engines := rfl
@[simp] theorem State.pay_arrivals (s : State) (t k : Nat) : (s.pay t k).arrivals = s.arrivals := rfl
@[simp] theorem State.pay_mem (s : State) (t k : Nat) : (s.pay t k).mem = s.mem := rfl
@[simp] theorem State.pay_events (s : State) (t k : Nat) : (s.pay t k).events = s.events := rfl
@[simp] theorem State.pay_rops (s : State) (t k : Nat) : (s.pay t k).rops = s.rops := rfl
@[simp] theorem State.pay_removed (s : State) (t k : Nat) : (s.pay t k).removed = s.removed := rfl
@[simp] theorem State.pay_penalty (s : State) (t k : Nat) : (s.pay t k).penalty = s.penalty := rfl
@[simp] theorem State.pay_drainDue (s : State) (t k : Nat) : (s.pay t k).drainDue = s.drainDue := rfl
@[simp] theorem State.pay_govs (s : State) (t k : Nat) : (s.pay t k).govs = s.govs := rfl
@[simp] theorem State.pay_gens (s : State) (t k : Nat) : (s.pay t k).gens = s.gens := rfl
@[simp] theorem State.pay_sensors (s : State) (t k : Nat) : (s.pay t k).sensors = s.sensors := rfl
@[simp] theorem State.pay_fab (s : State) (t k : Nat) : (s.pay t k).fab = s.fab := rfl
@[simp] theorem State.pay_refusing (s : State) (t k : Nat) : (s.pay t k).refusing = s.refusing := rfl
@[simp] theorem State.pay_rx (s : State) (t k : Nat) : (s.pay t k).rx = s.rx := rfl
@[simp] theorem State.pay_shut (s : State) (t k : Nat) : (s.pay t k).shut = s.shut := rfl
@[simp] theorem State.pay_retrains (s : State) (t k : Nat) : (s.pay t k).retrains = s.retrains := rfl
@[simp] theorem State.pay_training (s : State) (t k : Nat) : (s.pay t k).training = s.training := rfl
@[simp] theorem State.pay_sfcnt (s : State) (t k : Nat) : (s.pay t k).sfcnt = s.sfcnt := rfl
@[simp] theorem State.pay_frames (s : State) (t k : Nat) : (s.pay t k).frames = s.frames := rfl
@[simp] theorem State.pay_plan (s : State) (t k : Nat) : (s.pay t k).plan = s.plan := rfl
@[simp] theorem State.pay_tags (s : State) (t k : Nat) : (s.pay t k).tags = s.tags := rfl
@[simp] theorem State.pay_puts (s : State) (t k : Nat) : (s.pay t k).puts = s.puts := rfl
@[simp] theorem State.pay_dwHeld (s : State) (t k : Nat) : (s.pay t k).dwHeld = s.dwHeld := rfl
@[simp] theorem State.pay_host (s : State) (t k : Nat) : (s.pay t k).host = s.host := rfl
@[simp] theorem State.pay_twin (s : State) (t k : Nat) : (s.pay t k).twin = s.twin := rfl
@[simp] theorem State.pay_hd (s : State) (t k : Nat) : (s.pay t k).hd = s.hd := rfl
@[simp] theorem State.pay_power (s : State) (t k : Nat) : (s.pay t k).power = s.power := rfl
@[simp] theorem State.pay_sent (s : State) (t k : Nat) : (s.pay t k).sent = s.sent := rfl
@[simp] theorem State.pay_asks (s : State) (t k : Nat) : (s.pay t k).asks = s.asks := rfl
@[simp] theorem State.pay_nextId (s : State) (t k : Nat) : (s.pay t k).nextId = s.nextId := rfl
@[simp] theorem State.pay_free (s : State) (t k : Nat) : (s.pay t k).free = s.free := rfl
@[simp] theorem State.pay_pending (s : State) (t k : Nat) : (s.pay t k).pending = s.pending := rfl

@[simp] theorem State.advance_regs (s : State) (t : Nat) (c : Ctxt) : (s.advance t c).regs = s.regs := rfl
@[simp] theorem State.advance_counters (s : State) (t : Nat) (c : Ctxt) : (s.advance t c).counters = s.counters := rfl
@[simp] theorem State.advance_tasks (s : State) (t : Nat) (c : Ctxt) : (s.advance t c).tasks = s.tasks := rfl
@[simp] theorem State.advance_chans (s : State) (t : Nat) (c : Ctxt) : (s.advance t c).chans = s.chans := rfl
@[simp] theorem State.advance_engines (s : State) (t : Nat) (c : Ctxt) : (s.advance t c).engines = s.engines := rfl
@[simp] theorem State.advance_arrivals (s : State) (t : Nat) (c : Ctxt) : (s.advance t c).arrivals = s.arrivals := rfl
@[simp] theorem State.advance_mem (s : State) (t : Nat) (c : Ctxt) : (s.advance t c).mem = s.mem := rfl
@[simp] theorem State.advance_events (s : State) (t : Nat) (c : Ctxt) : (s.advance t c).events = s.events := rfl
@[simp] theorem State.advance_rops (s : State) (t : Nat) (c : Ctxt) : (s.advance t c).rops = s.rops := rfl
@[simp] theorem State.advance_removed (s : State) (t : Nat) (c : Ctxt) : (s.advance t c).removed = s.removed := rfl
@[simp] theorem State.advance_penalty (s : State) (t : Nat) (c : Ctxt) : (s.advance t c).penalty = s.penalty := rfl
@[simp] theorem State.advance_drainDue (s : State) (t : Nat) (c : Ctxt) : (s.advance t c).drainDue = s.drainDue := rfl
@[simp] theorem State.advance_govs (s : State) (t : Nat) (c : Ctxt) : (s.advance t c).govs = s.govs := rfl
@[simp] theorem State.advance_gens (s : State) (t : Nat) (c : Ctxt) : (s.advance t c).gens = s.gens := rfl
@[simp] theorem State.advance_sensors (s : State) (t : Nat) (c : Ctxt) : (s.advance t c).sensors = s.sensors := rfl
@[simp] theorem State.advance_fab (s : State) (t : Nat) (c : Ctxt) : (s.advance t c).fab = s.fab := rfl
@[simp] theorem State.advance_refusing (s : State) (t : Nat) (c : Ctxt) : (s.advance t c).refusing = s.refusing := rfl
@[simp] theorem State.advance_rx (s : State) (t : Nat) (c : Ctxt) : (s.advance t c).rx = s.rx := rfl
@[simp] theorem State.advance_shut (s : State) (t : Nat) (c : Ctxt) : (s.advance t c).shut = s.shut := rfl
@[simp] theorem State.advance_retrains (s : State) (t : Nat) (c : Ctxt) : (s.advance t c).retrains = s.retrains := rfl
@[simp] theorem State.advance_training (s : State) (t : Nat) (c : Ctxt) : (s.advance t c).training = s.training := rfl
@[simp] theorem State.advance_sfcnt (s : State) (t : Nat) (c : Ctxt) : (s.advance t c).sfcnt = s.sfcnt := rfl
@[simp] theorem State.advance_frames (s : State) (t : Nat) (c : Ctxt) : (s.advance t c).frames = s.frames := rfl
@[simp] theorem State.advance_plan (s : State) (t : Nat) (c : Ctxt) : (s.advance t c).plan = s.plan := rfl
@[simp] theorem State.advance_tags (s : State) (t : Nat) (c : Ctxt) : (s.advance t c).tags = s.tags := rfl
@[simp] theorem State.advance_puts (s : State) (t : Nat) (c : Ctxt) : (s.advance t c).puts = s.puts := rfl
@[simp] theorem State.advance_dwHeld (s : State) (t : Nat) (c : Ctxt) : (s.advance t c).dwHeld = s.dwHeld := rfl
@[simp] theorem State.advance_host (s : State) (t : Nat) (c : Ctxt) : (s.advance t c).host = s.host := rfl
@[simp] theorem State.advance_twin (s : State) (t : Nat) (c : Ctxt) : (s.advance t c).twin = s.twin := rfl
@[simp] theorem State.advance_hd (s : State) (t : Nat) (c : Ctxt) : (s.advance t c).hd = s.hd := rfl
@[simp] theorem State.advance_power (s : State) (t : Nat) (c : Ctxt) : (s.advance t c).power = s.power := rfl
@[simp] theorem State.advance_sent (s : State) (t : Nat) (c : Ctxt) : (s.advance t c).sent = s.sent := rfl
@[simp] theorem State.advance_asks (s : State) (t : Nat) (c : Ctxt) : (s.advance t c).asks = s.asks := rfl
@[simp] theorem State.advance_nextId (s : State) (t : Nat) (c : Ctxt) : (s.advance t c).nextId = s.nextId := rfl
@[simp] theorem State.advance_free (s : State) (t : Nat) (c : Ctxt) : (s.advance t c).free = s.free := rfl
@[simp] theorem State.advance_pending (s : State) (t : Nat) (c : Ctxt) : (s.advance t c).pending = s.pending := rfl

/-- Logging an event queues it, or counts it lost (R441). -/
theorem State.log_cases {P : State → Prop} (s : State) (e : Ev) (u : Nat) (d : List Byte)
    (hq : ∀ l, P { s with events := l }) (hl : ∀ f i n, P (s.bump f i n)) : P (s.log e u d) := by
  unfold State.log
  extract_lets data
  by_cases h : s.hearthReady = true
  · rw [if_pos h]; exact hq _
  · rw [if_neg h]
    by_cases h2 : s.events.length < 256
    · rw [if_pos h2]; exact hq _
    · rw [if_neg h2]; exact hl _ _ _

@[simp] theorem State.log_tiles (s : State) (e : Ev) (u : Nat) (d : List Byte) : (s.log e u d).tiles = s.tiles :=
  State.log_cases (P := fun t => t.tiles = s.tiles) s e u d (fun _ => rfl) (fun _ _ _ => rfl)
@[simp] theorem State.log_counters (s : State) (e : Ev) (u : Nat) (d : List Byte) : (s.log e u d).counters = s.counters :=
  State.log_cases (P := fun t => t.counters = s.counters) s e u d (fun _ => rfl) (fun _ _ _ => rfl)
@[simp] theorem State.log_tasks (s : State) (e : Ev) (u : Nat) (d : List Byte) : (s.log e u d).tasks = s.tasks :=
  State.log_cases (P := fun t => t.tasks = s.tasks) s e u d (fun _ => rfl) (fun _ _ _ => rfl)
@[simp] theorem State.log_chans (s : State) (e : Ev) (u : Nat) (d : List Byte) : (s.log e u d).chans = s.chans :=
  State.log_cases (P := fun t => t.chans = s.chans) s e u d (fun _ => rfl) (fun _ _ _ => rfl)
@[simp] theorem State.log_engines (s : State) (e : Ev) (u : Nat) (d : List Byte) : (s.log e u d).engines = s.engines :=
  State.log_cases (P := fun t => t.engines = s.engines) s e u d (fun _ => rfl) (fun _ _ _ => rfl)
@[simp] theorem State.log_arrivals (s : State) (e : Ev) (u : Nat) (d : List Byte) : (s.log e u d).arrivals = s.arrivals :=
  State.log_cases (P := fun t => t.arrivals = s.arrivals) s e u d (fun _ => rfl) (fun _ _ _ => rfl)
@[simp] theorem State.log_mem (s : State) (e : Ev) (u : Nat) (d : List Byte) : (s.log e u d).mem = s.mem :=
  State.log_cases (P := fun t => t.mem = s.mem) s e u d (fun _ => rfl) (fun _ _ _ => rfl)
@[simp] theorem State.log_rops (s : State) (e : Ev) (u : Nat) (d : List Byte) : (s.log e u d).rops = s.rops :=
  State.log_cases (P := fun t => t.rops = s.rops) s e u d (fun _ => rfl) (fun _ _ _ => rfl)
@[simp] theorem State.log_removed (s : State) (e : Ev) (u : Nat) (d : List Byte) : (s.log e u d).removed = s.removed :=
  State.log_cases (P := fun t => t.removed = s.removed) s e u d (fun _ => rfl) (fun _ _ _ => rfl)
@[simp] theorem State.log_penalty (s : State) (e : Ev) (u : Nat) (d : List Byte) : (s.log e u d).penalty = s.penalty :=
  State.log_cases (P := fun t => t.penalty = s.penalty) s e u d (fun _ => rfl) (fun _ _ _ => rfl)
@[simp] theorem State.log_drainDue (s : State) (e : Ev) (u : Nat) (d : List Byte) : (s.log e u d).drainDue = s.drainDue :=
  State.log_cases (P := fun t => t.drainDue = s.drainDue) s e u d (fun _ => rfl) (fun _ _ _ => rfl)
@[simp] theorem State.log_govs (s : State) (e : Ev) (u : Nat) (d : List Byte) : (s.log e u d).govs = s.govs :=
  State.log_cases (P := fun t => t.govs = s.govs) s e u d (fun _ => rfl) (fun _ _ _ => rfl)
@[simp] theorem State.log_gens (s : State) (e : Ev) (u : Nat) (d : List Byte) : (s.log e u d).gens = s.gens :=
  State.log_cases (P := fun t => t.gens = s.gens) s e u d (fun _ => rfl) (fun _ _ _ => rfl)
@[simp] theorem State.log_sensors (s : State) (e : Ev) (u : Nat) (d : List Byte) : (s.log e u d).sensors = s.sensors :=
  State.log_cases (P := fun t => t.sensors = s.sensors) s e u d (fun _ => rfl) (fun _ _ _ => rfl)
@[simp] theorem State.log_fab (s : State) (e : Ev) (u : Nat) (d : List Byte) : (s.log e u d).fab = s.fab :=
  State.log_cases (P := fun t => t.fab = s.fab) s e u d (fun _ => rfl) (fun _ _ _ => rfl)
@[simp] theorem State.log_refusing (s : State) (e : Ev) (u : Nat) (d : List Byte) : (s.log e u d).refusing = s.refusing :=
  State.log_cases (P := fun t => t.refusing = s.refusing) s e u d (fun _ => rfl) (fun _ _ _ => rfl)
@[simp] theorem State.log_rx (s : State) (e : Ev) (u : Nat) (d : List Byte) : (s.log e u d).rx = s.rx :=
  State.log_cases (P := fun t => t.rx = s.rx) s e u d (fun _ => rfl) (fun _ _ _ => rfl)
@[simp] theorem State.log_shut (s : State) (e : Ev) (u : Nat) (d : List Byte) : (s.log e u d).shut = s.shut :=
  State.log_cases (P := fun t => t.shut = s.shut) s e u d (fun _ => rfl) (fun _ _ _ => rfl)
@[simp] theorem State.log_retrains (s : State) (e : Ev) (u : Nat) (d : List Byte) : (s.log e u d).retrains = s.retrains :=
  State.log_cases (P := fun t => t.retrains = s.retrains) s e u d (fun _ => rfl) (fun _ _ _ => rfl)
@[simp] theorem State.log_training (s : State) (e : Ev) (u : Nat) (d : List Byte) : (s.log e u d).training = s.training :=
  State.log_cases (P := fun t => t.training = s.training) s e u d (fun _ => rfl) (fun _ _ _ => rfl)
@[simp] theorem State.log_sfcnt (s : State) (e : Ev) (u : Nat) (d : List Byte) : (s.log e u d).sfcnt = s.sfcnt :=
  State.log_cases (P := fun t => t.sfcnt = s.sfcnt) s e u d (fun _ => rfl) (fun _ _ _ => rfl)
@[simp] theorem State.log_frames (s : State) (e : Ev) (u : Nat) (d : List Byte) : (s.log e u d).frames = s.frames :=
  State.log_cases (P := fun t => t.frames = s.frames) s e u d (fun _ => rfl) (fun _ _ _ => rfl)
@[simp] theorem State.log_plan (s : State) (e : Ev) (u : Nat) (d : List Byte) : (s.log e u d).plan = s.plan :=
  State.log_cases (P := fun t => t.plan = s.plan) s e u d (fun _ => rfl) (fun _ _ _ => rfl)
@[simp] theorem State.log_tags (s : State) (e : Ev) (u : Nat) (d : List Byte) : (s.log e u d).tags = s.tags :=
  State.log_cases (P := fun t => t.tags = s.tags) s e u d (fun _ => rfl) (fun _ _ _ => rfl)
@[simp] theorem State.log_puts (s : State) (e : Ev) (u : Nat) (d : List Byte) : (s.log e u d).puts = s.puts :=
  State.log_cases (P := fun t => t.puts = s.puts) s e u d (fun _ => rfl) (fun _ _ _ => rfl)
@[simp] theorem State.log_dwHeld (s : State) (e : Ev) (u : Nat) (d : List Byte) : (s.log e u d).dwHeld = s.dwHeld :=
  State.log_cases (P := fun t => t.dwHeld = s.dwHeld) s e u d (fun _ => rfl) (fun _ _ _ => rfl)
@[simp] theorem State.log_host (s : State) (e : Ev) (u : Nat) (d : List Byte) : (s.log e u d).host = s.host :=
  State.log_cases (P := fun t => t.host = s.host) s e u d (fun _ => rfl) (fun _ _ _ => rfl)
@[simp] theorem State.log_twin (s : State) (e : Ev) (u : Nat) (d : List Byte) : (s.log e u d).twin = s.twin :=
  State.log_cases (P := fun t => t.twin = s.twin) s e u d (fun _ => rfl) (fun _ _ _ => rfl)
@[simp] theorem State.log_hd (s : State) (e : Ev) (u : Nat) (d : List Byte) : (s.log e u d).hd = s.hd :=
  State.log_cases (P := fun t => t.hd = s.hd) s e u d (fun _ => rfl) (fun _ _ _ => rfl)
@[simp] theorem State.log_power (s : State) (e : Ev) (u : Nat) (d : List Byte) : (s.log e u d).power = s.power :=
  State.log_cases (P := fun t => t.power = s.power) s e u d (fun _ => rfl) (fun _ _ _ => rfl)
@[simp] theorem State.log_sent (s : State) (e : Ev) (u : Nat) (d : List Byte) : (s.log e u d).sent = s.sent :=
  State.log_cases (P := fun t => t.sent = s.sent) s e u d (fun _ => rfl) (fun _ _ _ => rfl)
@[simp] theorem State.log_asks (s : State) (e : Ev) (u : Nat) (d : List Byte) : (s.log e u d).asks = s.asks :=
  State.log_cases (P := fun t => t.asks = s.asks) s e u d (fun _ => rfl) (fun _ _ _ => rfl)
@[simp] theorem State.log_nextId (s : State) (e : Ev) (u : Nat) (d : List Byte) : (s.log e u d).nextId = s.nextId :=
  State.log_cases (P := fun t => t.nextId = s.nextId) s e u d (fun _ => rfl) (fun _ _ _ => rfl)
@[simp] theorem State.log_free (s : State) (e : Ev) (u : Nat) (d : List Byte) : (s.log e u d).free = s.free :=
  State.log_cases (P := fun t => t.free = s.free) s e u d (fun _ => rfl) (fun _ _ _ => rfl)
@[simp] theorem State.log_pending (s : State) (e : Ev) (u : Nat) (d : List Byte) : (s.log e u d).pending = s.pending :=
  State.log_cases (P := fun t => t.pending = s.pending) s e u d (fun _ => rfl) (fun _ _ _ => rfl)

/-! ## Registers -/

theorem Reg.ctorIdx_inj {r q : Reg} (h : r.ctorIdx = q.ctorIdx) : r = q := by
  rw [← Reg.ofNat_ctorIdx r, ← Reg.ofNat_ctorIdx q, h]

theorem Reg.key_inj {r q : Reg} {i j : Nat} (hi : i < 2 ^ 24) (hj : j < 2 ^ 24) (h : r.key i = q.key j) : r = q ∧ i = j := by
  unfold Reg.key at h
  have : r.ctorIdx = q.ctorIdx := by omega
  exact ⟨Reg.ctorIdx_inj this, by omega⟩

@[simp] theorem State.reg_setReg_same (s : State) (r : Reg) (i v : Nat) :
    (s.setReg r i v).reg r i = v % 2 ^ r.spec.width := by
  simp [State.reg, State.setReg]

theorem State.reg_setReg_other (s : State) {r q : Reg} {i j : Nat} (v : Nat) (hi : i < 2 ^ 24) (hj : j < 2 ^ 24)
    (h : q ≠ r ∨ j ≠ i) : (s.setReg r i v).reg q j = s.reg q j := by
  unfold State.reg State.setReg
  dsimp only
  unfold SMap.get
  have hk : q.key j ≠ r.key i := fun e => by
    have := Reg.key_inj hj hi e
    rcases h with h | h
    · exact h this.1
    · exact h this.2
  have := SMap.get_set (r.dflt i) s.regs (r.key i) (q.key j) (v % 2 ^ r.spec.width)
  unfold SMap.set
  split
  · rw [SMap.look_del, if_neg hk]
  · rw [SMap.look_ins, if_neg hk]

/-- A field reads what it was set to. -/
theorem State.get_put_same (s : State) (f : Fld) (i x : Nat) (h : f.lo ≤ f.hi) (hw : f.hi < f.reg.spec.width) :
    (s.put f i x).get f i = x % 2 ^ (f.hi + 1 - f.lo) := by
  unfold State.get State.put
  rw [State.reg_setReg_same, bits_mod hw, bits_setBits_same _ _ h]

/-- Another entry or another register keeps its fields. -/
theorem State.get_put_other (s : State) {f g : Fld} {i j : Nat} (x : Nat) (hi : i < 2 ^ 24) (hj : j < 2 ^ 24)
    (h : g.reg ≠ f.reg ∨ j ≠ i) : (s.put f i x).get g j = s.get g j := by
  unfold State.get State.put
  rw [State.reg_setReg_other _ _ hi hj h]

/-- Another field of the same entry keeps its value. -/
theorem State.get_put_field (s : State) {f g : Fld} (i x : Nat) (hr : g.reg = f.reg) (h : f.lo ≤ f.hi)
    (hw : g.hi < f.reg.spec.width) (hd : f.hi < g.lo ∨ g.hi < f.lo) : (s.put f i x).get g i = s.get g i := by
  unfold State.get State.put
  rw [hr, State.reg_setReg_same, bits_mod hw]
  rcases hd with hd | hd
  · exact bits_setBits_above _ _ h hd
  · exact bits_setBits_below _ _ h hd

theorem State.reg_put_other (s : State) {f : Fld} {q : Reg} {i j : Nat} (x : Nat) (hi : i < 2 ^ 24) (hj : j < 2 ^ 24)
    (h : q ≠ f.reg ∨ j ≠ i) : (s.put f i x).reg q j = s.reg q j := State.reg_setReg_other _ _ hi hj h

/-- Updates outside the registers leave every field alone. -/
theorem State.get_congr {s t : State} (h : t.regs = s.regs) (f : Fld) (i : Nat) : t.get f i = s.get f i := by
  unfold State.get State.reg; rw [h]

theorem State.reg_congr {s t : State} (h : t.regs = s.regs) (r : Reg) (i : Nat) : t.reg r i = s.reg r i := by
  unfold State.reg; rw [h]

/-! ## Tiles, contexts and their registers -/

@[simp] theorem State.tile_setTile (s : State) (t u : Nat) (x : Tile) :
    (s.setTile t x).tile u = if u = t then x else s.tile u := by
  simp [State.tile, State.setTile]

@[simp] theorem Tile.ctx_setCtx (t : Tile) (c d : Ctxt) (x : Ctx) : (t.setCtx c x).ctx d = if d = c then x else t.ctx d := by
  cases c <;> cases d <;> rfl

@[simp] theorem State.ctx_setCtx (s : State) (t : Nat) (c : Ctxt) (x : Ctx) : (s.setCtx t c x).ctx t c = x := by
  simp [State.ctx, State.setCtx]

theorem State.ctx_setCtx_other (s : State) {t u : Nat} {c d : Ctxt} (x : Ctx) (h : u ≠ t ∨ d ≠ c) :
    (s.setCtx t c x).ctx u d = s.ctx u d := by
  unfold State.ctx State.setCtx
  rw [State.tile_setTile]
  split
  · subst_vars
    rw [Tile.ctx_setCtx, if_neg (by rcases h with h | h <;> simp_all)]
  · rfl

@[simp] theorem State.ctx_pay (s : State) (t k u : Nat) (c : Ctxt) : (s.pay t k).ctx u c = s.ctx u c := by
  unfold State.ctx State.pay
  rw [State.tile_setTile]
  split
  · subst_vars; cases c <;> rfl
  · rfl

@[simp] theorem Ctx.rdS_wrS (x : Ctx) (i j : Nat) (v : Word) :
    (x.wrS i v).rdS j = if j = 0 then 0 else if j = i then v else x.rdS j := by
  unfold Ctx.wrS Ctx.rdS
  by_cases hj : j = 0
  · simp [hj]
  · by_cases hi : i = 0
    · subst hi; simp [hj]
    · simp [hi, hj]

@[simp] theorem Ctx.rdP_wrP (x : Ctx) (i j : Nat) (v : Word) :
    (x.wrP i v).rdP j = if j = 0 then BitVec.allOnes 64 else if j = i then v else x.rdP j := by
  unfold Ctx.wrP Ctx.rdP
  by_cases hj : j = 0
  · simp [hj]
  · by_cases hi : i = 0
    · subst hi; simp [hj]
    · simp [hi, hj]

@[simp] theorem Ctx.rdLane_wrLane (x : Ctx) (r k q j : Nat) (v : Lane) :
    (x.wrLane r k v).rdLane q j = if 64 * q + j = 64 * r + k then v else x.rdLane q j := by
  simp [Ctx.rdLane, Ctx.wrLane]

@[simp] theorem Ctx.rdS_advance (x : Ctx) (i : Nat) : x.advance.rdS i = x.rdS i := rfl
@[simp] theorem Ctx.rdP_advance (x : Ctx) (i : Nat) : x.advance.rdP i = x.rdP i := rfl
@[simp] theorem Ctx.rdLane_advance (x : Ctx) (r k : Nat) : x.advance.rdLane r k = x.rdLane r k := rfl
@[simp] theorem Ctx.rdP_wrS (x : Ctx) (i j : Nat) (v : Word) : (x.wrS i v).rdP j = x.rdP j := by
  unfold Ctx.wrS; split <;> rfl
@[simp] theorem Ctx.rdS_wrP (x : Ctx) (i j : Nat) (v : Word) : (x.wrP i v).rdS j = x.rdS j := by
  unfold Ctx.wrP; split <;> rfl

/-! ## Counters, channels, governors, tokens -/

@[simp] theorem State.counter_setCounter (s : State) (c d : Nat) (x : Counter) :
    (s.setCounter c x).counter d = if d = c then x else s.counter d := by
  simp [State.counter, State.setCounter]

@[simp] theorem State.chan_setChan (s : State) (k j : Nat) (x : Chan) :
    (s.setChan k x).chan j = if j = k then x else s.chan j := by
  simp [State.chan, State.setChan]

@[simp] theorem State.gov_setGov (s : State) (d e : Nat) (g : Gov) :
    (s.setGov d g).gov e = if e = d then g else s.gov e := by
  simp [State.gov, State.setGov]

@[simp] theorem Tile.token_setToken (t : Tile) (k j : Nat) (v : BitVec 8) :
    (t.setToken k v).token j = if j = k then v else t.token j := by
  simp [Tile.token, Tile.setToken]

/-- A byte of tile-local space reads what was written, every other byte what it read before. -/
theorem Tile.rdByte_wrByte (t : Tile) (a b : Nat) (v : Byte) (h : t.fill = none) :
    (t.wrByte a v).rdByte b = if b = a then v else t.rdByte b := by
  unfold Tile.wrByte Tile.rdByte
  simp [h]

end Sys2Proof.Machine
end

