-- ==== Sys2Proof/Laws/Issue.lean ====
section
/-! SUPPORT. The issue of an instruction: one lemma for each way it can go. -/

namespace Sys2Proof.Machine

/-- The conditions of `State.goes`, one by one. -/
theorem State.goes_iff {s : State} {h : Head} {w : Nat} {u : Uses} {masked : Bool} :
    s.goes h w u masked = true ↔ h.tile < Config.tiles ∧ s.ready h.tile h.ctx = true
      ∧ s.fetchFault (s.ctx h.tile h.ctx).pc.toNat = none ∧ legal w = true
      ∧ (s.tile h.tile).blocked h.ctx (s.tile h.tile).seq ((96 + h.pred.toNat) :: u.reads) u.writes = false
      ∧ (masked = true ∨ guardBit ((s.ctx h.tile h.ctx).rdP h.pred.toNat) h.pneg = true) := by
  unfold State.goes
  cases masked <;> simp [and_assoc]

/-- An instruction that nothing stops performs its act. -/
theorem issue_goes {s : State} {h : Head} {w : Nat} {u : Uses} {masked : Bool} {act : State → Act}
    (hg : s.goes h w u masked = true) : issue h w u masked act s = .next (s.perform h.tile h.ctx (act s)) := by
  obtain ⟨h1, h2, h3, h4, h5, h6⟩ := State.goes_iff.1 hg
  unfold issue within
  rw [if_pos h1]
  simp only [h2, h3, h4, h5, Bool.not_true, Bool.false_eq_true, if_false]
  rw [if_neg]
  rcases h6 with h6 | h6 <;> simp [h6]

/-- An act whose charge the balance covers takes effect after the charge (R372). -/
theorem State.perform_go {s : State} {t k : Nat} {c : Ctxt} {f : State → State} (hc : s.covered t k = true) :
    s.perform t c (.go k f) = f (s.pay t k) := by
  show (if s.covered t k then f (s.pay t k) else s.pause t k) = _
  rw [if_pos hc]

theorem State.perform_hold {s u : State} {t : Nat} {c : Ctxt} : s.perform t c (.hold u) = u := rfl

theorem State.perform_fault {s : State} {t : Nat} {c : Ctxt} {f : FaultAt} :
    s.perform t c (.fault f) = s.issueFault t c f := rfl

/-- A control instruction that nothing stops has its effect on the context, then the advance. -/
theorem issueC_goes {s : State} {h : Head} {w : Nat} {u : Uses} {f : Ctx → Ctx} (hg : s.goes h w u false = true)
    (hc : s.covered h.tile 16 = true) :
    issueC h w u f s = .next ((s.pay h.tile 16).setCtx h.tile h.ctx (f (s.ctx h.tile h.ctx)).advance) := by
  unfold issueC
  rw [issue_goes hg, State.perform_go hc, State.ctx_pay]

/-- Charging a tile and setting one of its contexts touches nothing else. -/
theorem State.elsewhere_pay (s : State) (h : Head) (k : Nat) (x : Ctx) :
    ((s.pay h.tile k).setCtx h.tile h.ctx x).elsewhere s h := by
  refine ⟨rfl, fun u hu => ?_, x, (s.tile h.tile).credit - s.chargeOf h.tile k, 0, ?_⟩
  · unfold State.setCtx State.pay
    rw [State.tile_setTile, if_neg hu, State.tile_setTile, if_neg hu]
  · unfold State.setCtx State.pay
    rw [State.tile_setTile, if_pos rfl, State.tile_setTile, if_pos rfl]

/-- A control instruction that writes one scalar register and nothing else. -/
theorem State.writesS_of {s : State} {h : Head} {w : Nat} {u : Uses} {i : Instr} {d : Nat} {v : Word} {f : Ctx → Ctx}
    (he : exec i s = issueC h w u f s) (hf : f (s.ctx h.tile h.ctx) = (s.ctx h.tile h.ctx).wrS d v) :
    s.writesS h w u i d v := by
  rintro ⟨hg, hc⟩
  refine ⟨_, by rw [he, issueC_goes hg hc], ?_, ?_, ?_, State.elsewhere_pay ..⟩
  · intro j
    rw [State.ctx_setCtx, hf, Ctx.rdS_advance, Ctx.rdS_wrS]
  · unfold State.keepsPV
    rw [State.ctx_setCtx, hf]
    refine ⟨fun j => ?_, fun r k => ?_, ?_⟩
    · rw [Ctx.rdP_advance, Ctx.rdP_wrS]
    · rw [Ctx.rdLane_advance]; unfold Ctx.wrS; split <;> rfl
    · unfold Ctx.wrS Ctx.advance; split <;> exact ⟨rfl, rfl, rfl, rfl, rfl, rfl, rfl⟩
  · unfold State.wentOn
    rw [State.ctx_setCtx, hf]
    unfold Ctx.wrS Ctx.advance; split <;> rfl

theorem State.writesS_alu {s : State} {h : Head} {op : Nat} {f : Word → Word → Word} {sd sa sb : BitVec 6} {i : Instr}
    (he : exec i s = alu op f h sd sa sb s) :
    s.writesS h (wordCR op h sd sa sb) (usesR sd sa sb) i sd.toNat
      (f ((s.ctx h.tile h.ctx).rdS sa.toNat) ((s.ctx h.tile h.ctx).rdS sb.toNat)) :=
  State.writesS_of (f := fun x => x.wrS sd.toNat (f (x.rdS sa.toNat) (x.rdS sb.toNat))) he rfl

theorem State.writesS_aluImm {s : State} {h : Head} {op : Nat} {f : Word → BitVec 32 → Word} {sd sa : BitVec 6}
    {imm : BitVec 32} {i : Instr} (he : exec i s = aluImm op f h sd sa imm s) :
    s.writesS h (wordCI op h sd sa imm) (usesR sd sa 0) i sd.toNat (f ((s.ctx h.tile h.ctx).rdS sa.toNat) imm) :=
  State.writesS_of (f := fun x => x.wrS sd.toNat (f (x.rdS sa.toNat) imm)) he rfl

/-- A control instruction that writes one predicate and nothing else. -/
theorem State.writesP_of {s : State} {h : Head} {w : Nat} {u : Uses} {i : Instr} {d : Nat} {v : Word} {f : Ctx → Ctx}
    (he : exec i s = issueC h w u f s) (hf : f (s.ctx h.tile h.ctx) = (s.ctx h.tile h.ctx).wrP d v) :
    s.writesP h w u i d v := by
  rintro ⟨hg, hc⟩
  refine ⟨_, by rw [he, issueC_goes hg hc], ?_, ?_, ?_, State.elsewhere_pay ..⟩
  · intro j
    rw [State.ctx_setCtx, hf, Ctx.rdP_advance, Ctx.rdP_wrP]
  · intro j
    rw [State.ctx_setCtx, hf, Ctx.rdS_advance, Ctx.rdS_wrP]
  · unfold State.wentOn
    rw [State.ctx_setCtx, hf]
    unfold Ctx.wrP Ctx.advance; split <;> rfl

/-- A context that may not issue leaves the state as it is. -/
theorem issue_not_ready {s : State} {h : Head} {w : Nat} {u : Uses} {masked : Bool} {act : State → Act}
    (ht : h.tile < Config.tiles) (hr : s.ready h.tile h.ctx = false) : issue h w u masked act s = .next s := by
  unfold issue within
  rw [if_pos ht]
  simp [hr]

/-- A word that is not legal raises ILLEGAL (R58). -/
theorem issue_illegal {s : State} {h : Head} {w : Nat} {u : Uses} {masked : Bool} {act : State → Act}
    (ht : h.tile < Config.tiles) (hr : s.ready h.tile h.ctx = true)
    (hf : s.fetchFault (s.ctx h.tile h.ctx).pc.toNat = none) (hl : legal w = false) :
    issue h w u masked act s = .next (s.issueFault h.tile h.ctx (cILLEGAL, 0)) := by
  unfold issue within
  rw [if_pos ht]
  simp [hr, hf, hl]

/-- An instruction whose guard is 0 has no effect but the advance (R60). -/
theorem issue_guarded {s : State} {h : Head} {w : Nat} {u : Uses} {act : State → Act}
    (ht : h.tile < Config.tiles) (hr : s.ready h.tile h.ctx = true)
    (hf : s.fetchFault (s.ctx h.tile h.ctx).pc.toNat = none) (hl : legal w = true)
    (hb : (s.tile h.tile).blocked h.ctx (s.tile h.tile).seq ((96 + h.pred.toNat) :: u.reads) u.writes = false)
    (hg : guardBit ((s.ctx h.tile h.ctx).rdP h.pred.toNat) h.pneg = false) :
    issue h w u false act s = .next (s.advance h.tile h.ctx) := by
  unfold issue within
  rw [if_pos ht]
  simp [hr, hf, hl, hb, hg]

/-- Reads of tile stores that all deliver without an error change nothing (R394). -/
theorem State.sramReads_good {s : State} {l : List (Nat × Sram)} {ts : List Nat} (h : ∀ t ∈ ts, sramAt l t = .good) :
    s.sramReads l ts = (s, true) := by
  unfold State.sramReads
  induction ts with
  | nil => rfl
  | cons t ts ih =>
    rw [List.foldl_cons, h t (by simp)]
    exact ih fun u hu => h u (by simp [hu])

end Sys2Proof.Machine
end

