-- ==== Sys2Proof/Laws/KeepOps.lean ====
section
/-! SUPPORT. The definitions of Machine/Ops.lean keep the invariant State.inv of Safety.lean: one lemma each. -/

namespace Sys2Proof.Machine

theorem State.setReg_inv {s : State} {r : Reg} {i : Nat} {v : Nat} (hs : s.inv = true) : (State.setReg s r i
    v).inv = true := by
  unfold State.setReg
  try dsimp only
  repeat' first
    | (with_reducible first | assumption)
    | (simp only [State.lit_inv]; refine ⟨?_, ?_, ?_, ?_, ?_, ?_, ?_, ?_, ?_⟩)
    | (with_reducible first
        | apply State.inv_mem | apply State.inv_regs | apply State.inv_asks | apply State.inv_tiles
        | apply State.inv_each | apply State.inv_counters | apply State.inv_chans | apply State.inv_tags
        | apply State.inv_wear | apply SMap.sorted_set)
    | intro _ | split

theorem State.put_inv {s : State} {f : Fld} {i : Nat} {x : Nat} (hs : s.inv = true) : (State.put s f i x).inv =
    true := by
  unfold State.put
  try dsimp only
  repeat' first
    | (with_reducible first | assumption | apply State.setReg_inv)
    | intro _ | split

theorem State.bump_inv {s : State} {f : Fld} {i : Nat} {n : Nat} (hs : s.inv = true) : (State.bump s f i n).inv
    = true := by
  unfold State.bump
  try dsimp only
  repeat' first
    | (with_reducible first | assumption | apply State.put_inv)
    | intro _ | split

theorem State.log_inv {s : State} {ev : Ev} {unit : Nat} {given : List Byte} (hs : s.inv = true) : (State.log s
    ev unit given).inv = true := by
  unfold State.log
  try dsimp only
  repeat' first
    | (with_reducible first | assumption | apply State.bump_inv)
    | (simp only [State.lit_inv]; refine ⟨?_, ?_, ?_, ?_, ?_, ?_, ?_, ?_, ?_⟩)
    | (with_reducible first
        | apply ite_inv | apply State.inv_mem | apply State.inv_regs | apply State.inv_asks | apply State.inv_tiles
        | apply State.inv_each | apply State.inv_counters | apply State.inv_chans | apply State.inv_tags
        | apply State.inv_wear)
    | intro _ | split

theorem State.noteScores_inv {s : State} {cls : Nat} {i : Nat} {u0 : Nat} {m0 : Nat} {u1 : Nat} (hs : s.inv =
    true) : (State.noteScores s cls i u0 m0 u1).inv = true := by
  unfold State.noteScores
  try dsimp only
  repeat' first
    | (with_reducible first | assumption | apply State.log_inv | apply State.put_inv | apply ite_inv)
    | intro _ | split

theorem State.penalise_inv {s : State} {cls : Nat} {i : Nat} {w : Nat} (hs : s.inv = true) : (State.penalise s
    cls i w).inv = true := by
  unfold State.penalise
  try dsimp only
  repeat' first
    | (with_reducible first | assumption | apply State.noteScores_inv)
    | (simp only [State.lit_inv]; refine ⟨?_, ?_, ?_, ?_, ?_, ?_, ?_, ?_, ?_⟩)
    | (with_reducible first
        | apply State.inv_mem | apply State.inv_regs | apply State.inv_asks | apply State.inv_tiles
        | apply State.inv_each | apply State.inv_counters | apply State.inv_chans | apply State.inv_tags
        | apply State.inv_wear)
    | intro _ | split

theorem State.drainFor_inv {s : State} {cause : Nat} (hs : s.inv = true) : (State.drainFor s cause).inv = true := by
  unfold State.drainFor
  try dsimp only
  repeat' first
    | (with_reducible first | assumption)
    | (simp only [State.lit_inv]; refine ⟨?_, ?_, ?_, ?_, ?_, ?_, ?_, ?_, ?_⟩)
    | (with_reducible first
        | apply State.inv_mem | apply State.inv_regs | apply State.inv_asks | apply State.inv_tiles
        | apply State.inv_each | apply State.inv_counters | apply State.inv_chans | apply State.inv_tags
        | apply State.inv_wear)
    | intro _ | split

theorem State.drawTime_inv {s : State} (hs : s.inv = true) : (State.drawTime s).2.inv = true := by
  unfold State.drawTime
  try dsimp only
  repeat' first
    | (with_reducible first | assumption)
    | (simp only [State.lit_inv]; refine ⟨?_, ?_, ?_, ?_, ?_, ?_, ?_, ?_, ?_⟩)
    | (with_reducible first
        | apply State.inv_mem | apply State.inv_regs | apply State.inv_asks | apply State.inv_tiles
        | apply State.inv_each | apply State.inv_counters | apply State.inv_chans | apply State.inv_tags
        | apply State.inv_wear)
    | intro _ | split

theorem State.ackSent_inv {s : State} {k : StreamKey} {a : Option (Nat × Nat)} (hs : s.inv = true) :
    (State.ackSent s k a).inv = true := by
  unfold State.ackSent
  try dsimp only
  repeat' first
    | (with_reducible first | assumption)
    | (simp only [State.lit_inv]; refine ⟨?_, ?_, ?_, ?_, ?_, ?_, ?_, ?_, ?_⟩)
    | (with_reducible first
        | apply State.inv_mem | apply State.inv_regs | apply State.inv_asks | apply State.inv_tiles
        | apply State.inv_each | apply State.inv_counters | apply State.inv_chans | apply State.inv_tags
        | apply State.inv_wear)
    | intro _ | split

theorem State.launchMsg_inv {s : State} {m : OutMsg} {resend : Bool} (hs : s.inv = true) : (State.launchMsg s m
    resend).inv = true := by
  unfold State.launchMsg
  try dsimp only
  repeat' first
    | (with_reducible first | assumption | apply State.ackSent_inv)
    | (simp only [State.lit_inv]; refine ⟨?_, ?_, ?_, ?_, ?_, ?_, ?_, ?_, ?_⟩)
    | (with_reducible first
        | apply State.inv_mem | apply State.inv_regs | apply State.inv_asks | apply State.inv_tiles
        | apply State.inv_each | apply State.inv_counters | apply State.inv_chans | apply State.inv_tags
        | apply State.inv_wear)
    | intro _ | split

theorem State.pump1_inv {s : State} {k : StreamKey} (hs : s.inv = true) : (State.pump1 s k).inv = true := by
  unfold State.pump1
  try dsimp only
  repeat' first
    | (with_reducible first | assumption | apply State.drawTime_inv | apply State.launchMsg_inv)
    | (simp only [State.lit_inv]; refine ⟨?_, ?_, ?_, ?_, ?_, ?_, ?_, ?_, ?_⟩)
    | (with_reducible first
        | apply ite_inv | apply State.inv_mem | apply State.inv_regs | apply State.inv_asks | apply State.inv_tiles
        | apply State.inv_each | apply State.inv_counters | apply State.inv_chans | apply State.inv_tags
        | apply State.inv_wear)
    | intro _ | split

theorem State.pump_inv {s : State} {k : StreamKey} (hs : s.inv = true) : (State.pump s k).inv = true := by
  unfold State.pump
  try dsimp only
  repeat' first
    | (with_reducible first | assumption | apply State.pump1_inv | (apply foldl_inv <;> (try intro _ _ _)))
    | intro _ | split

theorem State.post_inv {s : State} {k : StreamKey} {sdev : Nat} {kind : Nat} {hint : Nat} {tag : Nat} {data :
    List Byte} {rop : Option Nat} (hs : s.inv = true) : (State.post s k sdev kind hint tag data rop).inv = true := by
  unfold State.post
  try dsimp only
  repeat' first
    | (with_reducible first | assumption | apply State.pump_inv)
    | (simp only [State.lit_inv]; refine ⟨?_, ?_, ?_, ?_, ?_, ?_, ?_, ?_, ?_⟩)
    | (with_reducible first
        | apply State.inv_mem | apply State.inv_regs | apply State.inv_asks | apply State.inv_tiles
        | apply State.inv_each | apply State.inv_counters | apply State.inv_chans | apply State.inv_tags
        | apply State.inv_wear)
    | intro _ | split

theorem State.request_inv {s : State} {o : ROp} {rtry : Bool} (hs : s.inv = true) : (State.request s o rtry).inv
    = true := by
  unfold State.request
  try dsimp only
  repeat' first
    | (with_reducible first | assumption | apply State.post_inv | (apply foldl_inv <;> (try intro _ _ _)))
    | intro _ | split

theorem State.sendRop_inv {s : State} {o : ROp} (hs : s.inv = true) : (State.sendRop s o).inv = true := by
  unfold State.sendRop
  try dsimp only
  repeat' first
    | (with_reducible first | assumption | apply State.request_inv)
    | (simp only [State.lit_inv]; refine ⟨?_, ?_, ?_, ?_, ?_, ?_, ?_, ?_, ?_⟩)
    | (with_reducible first
        | apply ite_inv | apply State.inv_mem | apply State.inv_regs | apply State.inv_asks | apply State.inv_tiles
        | apply State.inv_each | apply State.inv_counters | apply State.inv_chans | apply State.inv_tags
        | apply State.inv_wear)
    | intro _ | split

theorem State.putLocal_inv {s : State} {t : Nat} {a : Nat} {bs : List Byte} (hs : s.inv = true) :
    (State.putLocal s t a bs).inv = true := by
  unfold State.putLocal
  try dsimp only
  repeat' first
    | (with_reducible first
        | assumption | apply State.setTile_inv | apply Tile.wrBytes_wf | apply State.tile_wf | apply State.tile_wf
        | apply State.setTile_inv)
    | intro _ | split

theorem State.spoil_inv {s : State} {t : Nat} {a : Nat} {n : Nat} (hs : s.inv = true) : (State.spoil s t a
    n).inv = true := by
  unfold State.spoil
  try dsimp only
  repeat' first
    | (with_reducible first | assumption | apply State.putLocal_inv | (apply foldl_inv <;> (try intro _ _ _)))
    | (simp only [State.lit_inv]; refine ⟨?_, ?_, ?_, ?_, ?_, ?_, ?_, ?_, ?_⟩)
    | (with_reducible first
        | apply State.inv_mem | apply State.inv_regs | apply State.inv_asks | apply State.inv_tiles
        | apply State.inv_each | apply State.inv_counters | apply State.inv_chans | apply State.inv_tags
        | apply State.inv_wear)
    | intro _ | split

theorem State.wrLocal_inv {s : State} {t : Nat} {a : Nat} {bs : List Byte} (hs : s.inv = true) : (State.wrLocal
    s t a bs).inv = true := by
  unfold State.wrLocal
  try dsimp only
  repeat' first
    | (with_reducible first | assumption | apply State.spoil_inv | apply State.putLocal_inv)
    | intro _ | split

theorem State.sendArrival_inv {s : State} {sep : Nat} {o : ROwner} {a : Arrival} (hs : s.inv = true) :
    (State.sendArrival s sep o a).inv = true := by
  unfold State.sendArrival
  try dsimp only
  repeat' first
    | (with_reducible first | assumption | apply State.sendRop_inv)
    | (simp only [State.lit_inv]; refine ⟨?_, ?_, ?_, ?_, ?_, ?_, ?_, ?_, ?_⟩)
    | (with_reducible first
        | apply State.inv_mem | apply State.inv_regs | apply State.inv_asks | apply State.inv_tiles
        | apply State.inv_each | apply State.inv_counters | apply State.inv_chans | apply State.inv_tags
        | apply State.inv_wear)
    | intro _ | split

theorem State.draw_inv {s : State} (hs : s.inv = true) : (State.draw s).2.inv = true := by
  unfold State.draw
  try dsimp only
  repeat' first
    | (with_reducible first | assumption)
    | (simp only [State.lit_inv]; refine ⟨?_, ?_, ?_, ?_, ?_, ?_, ?_, ?_, ?_⟩)
    | (with_reducible first
        | apply State.inv_mem | apply State.inv_regs | apply State.inv_asks | apply State.inv_tiles
        | apply State.inv_each | apply State.inv_counters | apply State.inv_chans | apply State.inv_tags
        | apply State.inv_wear)
    | intro _ | split

theorem State.finfo_inv {s : State} {n : Nat} (hs : s.inv = true) : (State.finfo s n).2.inv = true := by
  unfold State.finfo
  try dsimp only
  repeat' first
    | (with_reducible first | assumption | apply State.draw_inv)
    | intro _ | split

theorem State.takeFault_inv {s : State} {t : Nat} {c : Ctxt} {f : FaultRec} (hs : s.inv = true) :
    (State.takeFault s t c f).inv = true := by
  unfold State.takeFault
  try dsimp only
  repeat' first
    | (with_reducible first | assumption | apply State.setCtx_inv | apply ite_inv | apply State.setCtx_inv)
    | intro _ | split

theorem State.settle_inv {s : State} {t : Nat} {c : Ctxt} (hs : s.inv = true) : (State.settle s t c).inv = true := by
  unfold State.settle
  try dsimp only
  repeat' first
    | (with_reducible first | assumption | apply State.takeFault_inv | apply ite_inv)
    | intro _ | split

theorem State.issueFault_inv {s : State} {t : Nat} {c : Ctxt} {f : FaultAt} (hs : s.inv = true) :
    (State.issueFault s t c f).inv = true := by
  unfold State.issueFault
  try dsimp only
  repeat' first
    | (with_reducible first | assumption | apply State.finfo_inv | apply State.takeFault_inv)
    | intro _ | split

theorem State.fetchFails_inv {s : State} {t : Nat} {c : Ctxt} {f : FaultAt} (hs : s.inv = true) :
    (State.fetchFails s t c f).inv = true := by
  unfold State.fetchFails
  try dsimp only
  repeat' first
    | (with_reducible first
        | assumption | apply State.finfo_inv | apply State.settle_inv | apply State.setCtx_inv
        | apply State.issueFault_inv | apply ite_inv | apply State.setCtx_inv)
    | intro _ | split

theorem State.logFence_inv {s : State} {unit : Nat} (hs : s.inv = true) : (State.logFence s unit).inv = true := by
  unfold State.logFence
  try dsimp only
  repeat' first
    | (with_reducible first | assumption | apply State.draw_inv | apply State.log_inv)
    | intro _ | split

theorem State.endFenced_inv {s : State} {t : Nat} {c : Ctxt} (hs : s.inv = true) : (State.endFenced s t c).inv =
    true := by
  unfold State.endFenced
  try dsimp only
  repeat' first
    | (with_reducible first | assumption | apply State.finfo_inv | apply State.setCtx_inv | apply State.setCtx_inv)
    | intro _ | split

theorem State.arriveAny_inv {s : State} {cnum : Nat} (hs : s.inv = true) : (State.arriveAny s cnum).inv = true := by
  unfold State.arriveAny
  try dsimp only
  repeat' first
    | (with_reducible first | assumption | apply State.sendArrival_inv)
    | intro _ | split

theorem State.noteFence_inv {s : State} {unit : Nat} (hs : s.inv = true) : (State.noteFence s unit).inv = true := by
  unfold State.noteFence
  try dsimp only
  repeat' first
    | (with_reducible first | assumption | apply State.logFence_inv | apply State.arriveAny_inv | apply ite_inv)
    | intro _ | split

theorem State.fenceTile_inv {s : State} {t : Nat} (hs : s.inv = true) : (State.fenceTile s t).inv = true := by
  unfold State.fenceTile
  try dsimp only
  repeat' first
    | (with_reducible first
        | assumption | apply State.setReg_inv | apply State.logFence_inv | apply State.setTile_inv
        | apply State.tile_wf | apply State.endFenced_inv | apply State.noteFence_inv)
    | (simp only [State.lit_inv]; refine ⟨?_, ?_, ?_, ?_, ?_, ?_, ?_, ?_, ?_⟩)
    | simp only [Tile.lit_wf]
    | (with_reducible first
        | apply ite_inv | apply State.inv_mem | apply State.inv_regs | apply State.inv_asks | apply State.inv_tiles
        | apply State.inv_each | apply State.inv_counters | apply State.inv_chans | apply State.inv_tags
        | apply State.inv_wear | apply SMap.wf_mapv | apply State.tile_wf | apply State.setTile_inv
        | apply Tile.memOk)
    | intro _ | split

theorem State.sramFail_inv {s : State} {t : Nat} (hs : s.inv = true) : (State.sramFail s t).inv = true := by
  unfold State.sramFail
  try dsimp only
  repeat' first
    | (with_reducible first
        | assumption | apply State.draw_inv | apply State.bump_inv | apply State.log_inv | apply State.drainFor_inv
        | apply State.fenceTile_inv | apply ite_inv)
    | intro _ | split

theorem State.sramNote_inv {s : State} {t : Nat} {y2 : Sram} (hs : s.inv = true) : (State.sramNote s t y2).inv =
    true := by
  unfold State.sramNote
  try dsimp only
  repeat' first
    | (with_reducible first | assumption | apply State.penalise_inv | apply State.bump_inv)
    | intro _ | split

theorem State.arriveAt_inv {s : State} {unit : Nat} {cnum : Nat} {inc : Nat} {epoch : Nat} (hs : s.inv = true) :
    (State.arriveAt s unit cnum inc epoch).inv = true := by
  unfold State.arriveAt
  try dsimp only
  repeat' first
    | (with_reducible first | assumption | apply State.sendArrival_inv)
    | intro _ | split

theorem Tile.setToken_wf {t : Tile} {k : Nat} {v : BitVec 8} (ht : t.wf = true) : (Tile.setToken t k v).wf =
    true := by
  unfold Tile.setToken
  try dsimp only
  repeat' first
    | (with_reducible first | assumption)
    | simp only [Tile.lit_wf]
    | (with_reducible first | apply Tile.memOk)
    | intro _ | split

theorem Tile.restore_wf {t : Tile} {w : Nat} {consumed : Bool} (ht : t.wf = true) : (Tile.restore t w
    consumed).wf = true := by
  unfold Tile.restore
  try dsimp only
  repeat' first
    | (with_reducible first | assumption | apply Tile.setToken_wf)
    | intro _ | split

theorem Tile.undo_wf {t : Tile} {o : UOp} (ht : t.wf = true) : (Tile.undo t o).wf = true := by
  unfold Tile.undo
  try dsimp only
  repeat' first
    | (with_reducible first
        | assumption | apply Tile.setCtx_wf | apply Tile.restore_wf | (apply foldTile_wf <;> (try intro _ _ _)))
    | intro _ | split

theorem Tile.discard_wf {t : Tile} {c : Ctxt} {u : TUnit} {n : Nat} (ht : t.wf = true) : (Tile.discard t c u
    n).wf = true := by
  unfold Tile.discard
  try dsimp only
  repeat' first
    | (with_reducible first | assumption | apply Tile.undo_wf | (apply foldTile_wf <;> (try intro _ _ _)))
    | simp only [Tile.lit_wf]
    | (with_reducible first | apply Tile.memOk)
    | intro _ | split

theorem State.flushArrives_inv {s : State} {t : Nat} {c : Ctxt} (hs : s.inv = true) : (State.flushArrives s t
    c).inv = true := by
  unfold State.flushArrives
  try dsimp only
  repeat' first
    | (with_reducible first
        | assumption | apply State.setCtx_inv | apply State.sendArrival_inv | (apply foldl_inv <;> (try intro _ _ _))
        | apply State.setCtx_inv)
    | intro _ | split

theorem State.unitFaultAt_inv {s : State} {t : Nat} {c : Ctxt} {u : TUnit} {seq : Nat} {pc : Addr48} {f :
    FaultAt} (hs : s.inv = true) : (State.unitFaultAt s t c u seq pc f).inv = true := by
  unfold State.unitFaultAt
  try dsimp only
  repeat' first
    | (with_reducible first
        | assumption | apply State.finfo_inv | apply State.setTile_inv | apply Tile.discard_wf | apply State.tile_wf
        | apply State.setCtx_inv | apply State.flushArrives_inv | apply State.settle_inv | apply ite_inv
        | apply State.tile_wf | apply State.setTile_inv | apply State.setCtx_inv)
    | intro _ | split

theorem State.setChan_inv {s : State} {k : Nat} {c : Chan} (hs : s.inv = true) : (State.setChan s k c).inv =
    true := by
  unfold State.setChan
  try dsimp only
  repeat' first
    | (with_reducible first | assumption)
    | (simp only [State.lit_inv]; refine ⟨?_, ?_, ?_, ?_, ?_, ?_, ?_, ?_, ?_⟩)
    | (with_reducible first
        | apply State.inv_mem | apply State.inv_regs | apply State.inv_asks | apply State.inv_tiles
        | apply State.inv_each | apply State.inv_counters | apply State.inv_chans | apply State.inv_tags
        | apply State.inv_wear | apply SMap.wf_set)
    | intro _ | split

theorem Tile.takeToken_wf {t : Tile} {w : Nat} (ht : t.wf = true) : (Tile.takeToken t w).wf = true := by
  unfold Tile.takeToken
  try dsimp only
  repeat' first
    | (with_reducible first | assumption | apply Tile.setToken_wf)
    | intro _ | split

theorem Tile.signal_wf {t : Tile} {w : Nat} (ht : t.wf = true) : (Tile.signal t w).wf = true := by
  unfold Tile.signal
  try dsimp only
  repeat' first
    | (with_reducible first | assumption | apply Tile.setToken_wf)
    | intro _ | split

theorem State.setCounter_inv {s : State} {c : Nat} {x : Counter} (hs : s.inv = true) : (State.setCounter s c
    x).inv = true := by
  unfold State.setCounter
  try dsimp only
  repeat' first
    | (with_reducible first | assumption)
    | (simp only [State.lit_inv]; refine ⟨?_, ?_, ?_, ?_, ?_, ?_, ?_, ?_, ?_⟩)
    | (with_reducible first
        | apply State.inv_mem | apply State.inv_regs | apply State.inv_asks | apply State.inv_tiles
        | apply State.inv_each | apply State.inv_counters | apply State.inv_chans | apply State.inv_tags
        | apply State.inv_wear | apply SMap.wf_set)
    | intro _ | split

theorem State.wake_inv {s : State} {c : Nat} (hs : s.inv = true) : (State.wake s c).inv = true := by
  unfold State.wake
  try dsimp only
  repeat' first
    | (with_reducible first | assumption | apply State.setCounter_inv)
    | (simp only [State.lit_inv]; refine ⟨?_, ?_, ?_, ?_, ?_, ?_, ?_, ?_, ?_⟩)
    | simp only [Tile.lit_wf]
    | (with_reducible first
        | apply ite_inv | apply State.inv_mem | apply State.inv_regs | apply State.inv_asks | apply State.inv_tiles
        | apply State.inv_each | apply State.inv_counters | apply State.inv_chans | apply State.inv_tags
        | apply State.inv_wear | apply TilesWf.mapv | apply SMap.wf_mapv | apply Tile.memOk)
    | intro _ | split

theorem State.armCounter_inv {s : State} {c : Nat} {target : Nat} (hs : s.inv = true) : (State.armCounter s c
    target).inv = true := by
  unfold State.armCounter
  try dsimp only
  repeat' first
    | (with_reducible first | assumption | apply State.wake_inv | apply State.setCounter_inv)
    | intro _ | split

theorem State.applyArrival_inv {s : State} {a : Arrival} (hs : s.inv = true) : (State.applyArrival s a).inv =
    true := by
  unfold State.applyArrival
  try dsimp only
  repeat' first
    | (with_reducible first
        | assumption | apply State.setCounter_inv | apply State.log_inv | apply State.wake_inv
        | apply State.setReg_inv | apply State.bump_inv | apply ite_inv)
    | intro _ | split

theorem State.migrateCounter_inv {s : State} {c : Nat} {target : Nat} (hs : s.inv = true) :
    (State.migrateCounter s c target).inv = true := by
  unfold State.migrateCounter
  try dsimp only
  repeat' first
    | (with_reducible first | assumption | apply State.wake_inv | apply State.setCounter_inv)
    | intro _ | split

theorem State.sramReads_inv {s : State} {l : List (Nat × Sram)} {ts : List Nat} (hs : s.inv = true) :
    (State.sramReads s l ts).1.inv = true := by
  unfold State.sramReads
  try dsimp only
  repeat' first
    | (with_reducible first
        | assumption | apply State.sramFail_inv | apply State.sramNote_inv | (apply foldl_inv1 <;> (try intro _ _ _)))
    | intro _ | split

theorem State.askDone_inv {s : State} {r : Reg} {i : Nat} (hs : s.inv = true) : (State.askDone s r i).inv = true := by
  unfold State.askDone
  try dsimp only
  repeat' first
    | (with_reducible first | assumption | apply State.setReg_inv)
    | (simp only [State.lit_inv]; refine ⟨?_, ?_, ?_, ?_, ?_, ?_, ?_, ?_, ?_⟩)
    | (with_reducible first
        | apply State.inv_mem | apply State.inv_regs | apply State.inv_asks | apply State.inv_tiles
        | apply State.inv_each | apply State.inv_counters | apply State.inv_chans | apply State.inv_tags
        | apply State.inv_wear | apply SMap.sortedFrom_del)
    | intro _ | split

theorem State.unprotect_inv {s : State} (hs : s.inv = true) : (State.unprotect s).inv = true := by
  unfold State.unprotect
  try dsimp only
  repeat' first
    | (with_reducible first
        | assumption | apply State.put_inv | apply State.flushArrives_inv | (apply foldl_inv <;> (try intro _ _ _)))
    | (simp only [State.lit_inv]; refine ⟨?_, ?_, ?_, ?_, ?_, ?_, ?_, ?_, ?_⟩)
    | (with_reducible first
        | apply ite_inv | apply State.inv_mem | apply State.inv_regs | apply State.inv_asks | apply State.inv_tiles
        | apply State.inv_each | apply State.inv_counters | apply State.inv_chans | apply State.inv_tags
        | apply State.inv_wear)
    | intro _ | split

theorem State.record_inv {s : State} {hearth : Bool} {kind : Nat} {off : Nat} (hs : s.inv = true) :
    (State.record s hearth kind off).inv = true := by
  unfold State.record
  try dsimp only
  repeat' first
    | (with_reducible first | assumption | apply State.bump_inv | apply State.put_inv)
    | intro _ | split

theorem State.noEffect_inv {s : State} {hearth : Bool} {r : Reg} {i : Nat} (hs : s.inv = true) : (State.noEffect
    s hearth r i).inv = true := by
  unfold State.noEffect
  try dsimp only
  repeat' first
    | (with_reducible first | assumption | apply State.record_inv | apply State.askDone_inv)
    | intro _ | split

theorem State.sprintOff_inv {s : State} {us : Nat} {win : Nat} (hs : s.inv = true) : (State.sprintOff s us
    win).inv = true := by
  unfold State.sprintOff
  refine State.put_inv (State.put_inv ?_)
  have hf : (List.foldl (fun (u : State) d =>
      let u := u.put F.GOVSTAT_SPRINT d 0
      if u.get F.GOVSTAT_FREQ d = 20 then u.put F.GOVSTAT_FREQ d 18 else u) s (List.range 8)).inv = true := by
    refine foldl_inv (fun u d hu => ?_) hs
    dsimp only
    split
    · exact State.put_inv (State.put_inv hu)
    · exact State.put_inv hu
  generalize List.foldl _ s (List.range 8) = q at hf ⊢
  have hw := State.inv_wear hf
  dsimp only
  rw [State.lit_inv]
  refine ⟨State.inv_mem hf, State.inv_regs hf, State.inv_asks hf, State.inv_tiles hf, State.inv_each hf,
    State.inv_counters hf, State.inv_chans hf, State.inv_tags hf, ?_⟩
  dsimp only
  split
  · rename_i x xs hx
    rw [hx] at hw
    simpa using hw
  · rename_i hx
    rw [hx] at hw
    simp at hw

theorem State.setAsk_inv {s : State} {r : Reg} {i : Nat} {a : Ask} (hs : s.inv = true) : (State.setAsk s r i
    a).inv = true := by
  unfold State.setAsk
  try dsimp only
  repeat' first
    | (with_reducible first | assumption | apply State.setReg_inv)
    | (simp only [State.lit_inv]; refine ⟨?_, ?_, ?_, ?_, ?_, ?_, ?_, ?_, ?_⟩)
    | (with_reducible first
        | apply State.inv_mem | apply State.inv_regs | apply State.inv_asks | apply State.inv_tiles
        | apply State.inv_each | apply State.inv_counters | apply State.inv_chans | apply State.inv_tags
        | apply State.inv_wear | apply SMap.sorted_ins)
    | intro _ | split

theorem State.stopSprint_inv {s : State} (hs : s.inv = true) : (State.stopSprint s).inv = true := by
  unfold State.stopSprint
  try dsimp only
  repeat' first
    | (with_reducible first | assumption | apply State.drawTime_inv | apply State.sprintOff_inv | apply ite_inv)
    | intro _ | split

theorem State.logMargin_inv {s : State} {unit : Nat} (hs : s.inv = true) : (State.logMargin s unit).inv = true := by
  unfold State.logMargin
  try dsimp only
  repeat' first
    | (with_reducible first | assumption | apply State.draw_inv | apply State.log_inv)
    | intro _ | split

end Sys2Proof.Machine
end

