-- ==== Sys2Proof/Laws/KeepMemory.lean ====
section
/-! SUPPORT. The definitions of Machine/Memory.lean keep the invariant State.inv of Safety.lean: one lemma each. -/

namespace Sys2Proof.Machine

theorem State.noteRead_inv {s : State} {ch : Nat} {src : Nat} {y3 : SecRead} (hs : s.inv = true) :
    (State.noteRead s ch src y3).inv = true := by
  unfold State.noteRead
  try dsimp only
  repeat' first
    | (with_reducible first | assumption | apply State.penalise_inv | apply State.bump_inv | apply State.log_inv)
    | intro _ | split

theorem Mem.touch_wf {m : Mem} {k : Nat} {keep : Bool} (hm : m.wf = true) : (Mem.touch m k keep).wf = true := by
  unfold Mem.touch
  try dsimp only
  repeat' first
    | (with_reducible first | assumption)
    | (simp only [Mem.lit_wf]; refine ⟨?_, ?_, ?_⟩)
    | (with_reducible first | apply SMap.sorted_ins | apply Mem.wf_hbm | apply Mem.wf_cbytes | apply Mem.wf_lines)
    | intro _ | split

theorem Mem.drop_wf {m : Mem} {k : Nat} (hm : m.wf = true) : (Mem.drop m k).wf = true := by
  unfold Mem.drop
  try dsimp only
  repeat' first
    | (with_reducible first | assumption | (apply foldl_cells <;> (try intro _ _ _)))
    | (simp only [Mem.lit_wf]; refine ⟨?_, ?_, ?_⟩)
    | (with_reducible first
        | apply SMap.sortedFrom_del | apply Mem.wf_hbm | apply Mem.wf_cbytes | apply Mem.wf_lines
        | apply delStored_wf)
    | intro _ | split

theorem Mem.writeBack1_wf {m : Mem} {k : Nat} {sec : Nat} (hm : m.wf = true) : (Mem.writeBack1 m k sec).wf =
    true := by
  unfold Mem.writeBack1
  try dsimp only
  repeat' first
    | (with_reducible first | assumption)
    | (simp only [Mem.lit_wf]; refine ⟨?_, ?_, ?_⟩)
    | (with_reducible first | apply Mem.wf_hbm | apply Mem.wf_cbytes | apply Mem.wf_lines | apply wrStored_wf)
    | intro _ | split

theorem Mem.writeBack_wf {m : Mem} {k : Nat} (hm : m.wf = true) : (Mem.writeBack m k).wf = true := by
  unfold Mem.writeBack
  try dsimp only
  repeat' first
    | (with_reducible first | assumption | apply Mem.writeBack1_wf | (apply foldl_wf <;> (try intro _ _ _)))
    | (simp only [Mem.lit_wf]; refine ⟨?_, ?_, ?_⟩)
    | (with_reducible first | apply SMap.sorted_ins | apply Mem.wf_hbm | apply Mem.wf_cbytes | apply Mem.wf_lines)
    | intro _ | split

theorem Mem.evict_wf {m : Mem} {k : Nat} (hm : m.wf = true) : (Mem.evict m k).wf = true := by
  unfold Mem.evict
  try dsimp only
  repeat' first
    | (with_reducible first | assumption | apply Mem.drop_wf | apply Mem.writeBack_wf)
    | intro _ | split

theorem Mem.alloc_wf {m : Mem} {k : Nat} {keep : Bool} (hm : m.wf = true) : (Mem.alloc m k keep).wf = true := by
  unfold Mem.alloc
  try dsimp only
  repeat' first
    | (with_reducible first | assumption | apply Mem.evict_wf)
    | (simp only [Mem.lit_wf]; refine ⟨?_, ?_, ?_⟩)
    | (with_reducible first | apply SMap.sorted_ins | apply Mem.wf_hbm | apply Mem.wf_cbytes | apply Mem.wf_lines)
    | intro _ | split

theorem Mem.unkeep_wf {m : Mem} {k : Nat} (hm : m.wf = true) : (Mem.unkeep m k).wf = true := by
  unfold Mem.unkeep
  try dsimp only
  repeat' first
    | (with_reducible first | assumption)
    | (simp only [Mem.lit_wf]; refine ⟨?_, ?_, ?_⟩)
    | (with_reducible first | apply SMap.sorted_ins | apply Mem.wf_hbm | apply Mem.wf_cbytes | apply Mem.wf_lines)
    | intro _ | split

theorem Mem.putSector_wf {m : Mem} {k : Nat} {sec : Nat} {bs : List Nat} {h : Hint} (hm : m.wf = true) :
    (Mem.putSector m k sec bs h).wf = true := by
  unfold Mem.putSector
  try dsimp only
  repeat' first
    | (with_reducible first | assumption | apply Mem.touch_wf | apply Mem.alloc_wf | apply Mem.unkeep_wf)
    | (simp only [Mem.lit_wf]; refine ⟨?_, ?_, ?_⟩)
    | (with_reducible first
        | apply SMap.sorted_ins | apply Mem.wf_hbm | apply Mem.wf_cbytes | apply Mem.wf_lines | apply wrStored_wf)
    | intro _ | split

theorem State.mirror_inv {s : State} {d : Nat} {bs : List Byte} {who : Option (Nat × Ctxt × Nat)} (hs : s.inv =
    true) : (State.mirror s d bs who).inv = true := by
  unfold State.mirror
  try dsimp only
  repeat' first
    | (with_reducible first | assumption | apply State.bump_inv | apply State.sendRop_inv)
    | (simp only [State.lit_inv]; refine ⟨?_, ?_, ?_, ?_, ?_, ?_, ?_, ?_, ?_⟩)
    | (with_reducible first
        | apply ite_inv | apply State.inv_mem | apply State.inv_regs | apply State.inv_asks | apply State.inv_tiles
        | apply State.inv_each | apply State.inv_counters | apply State.inv_chans | apply State.inv_tags
        | apply State.inv_wear)
    | intro _ | split

theorem State.foldComb_inv {s : State} {c : Comb} (hs : s.inv = true) : (State.foldComb s c).inv = true := by
  unfold State.foldComb
  try dsimp only
  repeat' first
    | (with_reducible first
        | assumption | apply State.noteRead_inv | apply State.log_inv | apply State.drainFor_inv
        | apply Mem.putSector_wf | apply State.mirror_inv)
    | (simp only [State.lit_inv]; refine ⟨?_, ?_, ?_, ?_, ?_, ?_, ?_, ?_, ?_⟩)
    | (simp only [Mem.lit_wf]; refine ⟨?_, ?_, ?_⟩)
    | (with_reducible first
        | apply ite_inv | apply State.inv_mem | apply State.inv_regs | apply State.inv_asks | apply State.inv_tiles
        | apply State.inv_each | apply State.inv_counters | apply State.inv_chans | apply State.inv_tags
        | apply State.inv_wear | apply Mem.wf_hbm | apply Mem.wf_cbytes | apply Mem.wf_lines)
    | intro _ | split

theorem State.foldFor_inv {s : State} {sk : Nat} (hs : s.inv = true) : (State.foldFor s sk).inv = true := by
  unfold State.foldFor
  try dsimp only
  repeat' first
    | (with_reducible first | assumption | apply State.foldComb_inv)
    | intro _ | split

theorem Mem.fill_wf {m : Mem} {k : Nat} {secs : List Nat} (hm : m.wf = true) : (Mem.fill m k secs).wf = true := by
  unfold Mem.fill
  try dsimp only
  repeat' first
    | (with_reducible first | assumption | (apply foldl_wf <;> (try intro _ _ _)))
    | (simp only [Mem.lit_wf]; refine ⟨?_, ?_, ?_⟩)
    | (with_reducible first
        | apply SMap.sorted_ins | apply Mem.wf_hbm | apply Mem.wf_cbytes | apply Mem.wf_lines | apply wrStored_wf)
    | intro _ | split

theorem Mem.afterRead_wf {m : Mem} {k : Nat} {secs : List Nat} {h : Hint} (hm : m.wf = true) : (Mem.afterRead m
    k secs h).wf = true := by
  unfold Mem.afterRead
  try dsimp only
  repeat' first
    | (with_reducible first
        | assumption | apply Mem.fill_wf | apply Mem.touch_wf | apply Mem.alloc_wf | apply Mem.drop_wf)
    | intro _ | split

theorem State.readGranule_inv {s : State} {d : Nat} {n : Nat} {h : Hint} {src : Nat} (hs : s.inv = true) :
    (State.readGranule s d n h src).1.inv = true := by
  unfold State.readGranule
  try dsimp only
  repeat' first
    | (with_reducible first
        | assumption | apply State.foldFor_inv | apply State.noteRead_inv | apply Mem.afterRead_wf
        | (apply foldl_inv <;> (try intro _ _ _)))
    | (simp only [State.lit_inv]; refine ⟨?_, ?_, ?_, ?_, ?_, ?_, ?_, ?_, ?_⟩)
    | (with_reducible first
        | apply State.inv_mem | apply State.inv_regs | apply State.inv_asks | apply State.inv_tiles
        | apply State.inv_each | apply State.inv_counters | apply State.inv_chans | apply State.inv_tags
        | apply State.inv_wear)
    | intro _ | split

theorem State.devRead_inv {s : State} {d : Nat} {n : Nat} {hint : Nat} {src : Nat} (hs : s.inv = true) :
    (State.devRead s d n hint src).1.inv = true := by
  unfold State.devRead
  try dsimp only
  repeat' first
    | (with_reducible first | assumption | apply State.readGranule_inv | (apply foldl_inv1 <;> (try intro _ _ _)))
    | intro _ | split

theorem State.writeSector_inv {s : State} {d : Nat} {bs : List Byte} {h : Hint} {det : Bool} {src : Nat} (hs :
    s.inv = true) : (State.writeSector s d bs h det src).1.inv = true := by
  unfold State.writeSector
  try dsimp only
  repeat' first
    | (with_reducible first
        | assumption | apply State.foldFor_inv | apply Mem.putSector_wf | apply State.noteRead_inv)
    | (simp only [State.lit_inv]; refine ⟨?_, ?_, ?_, ?_, ?_, ?_, ?_, ?_, ?_⟩)
    | (with_reducible first
        | apply State.inv_mem | apply State.inv_regs | apply State.inv_asks | apply State.inv_tiles
        | apply State.inv_each | apply State.inv_counters | apply State.inv_chans | apply State.inv_tags
        | apply State.inv_wear)
    | intro _ | split

theorem State.devWrite_inv {s : State} {d : Nat} {bs : List Byte} {hint : Nat} {src : Nat} {who : Option (Nat ×
    Ctxt × Nat)} (hs : s.inv = true) : (State.devWrite s d bs hint src who).1.inv = true := by
  unfold State.devWrite
  try dsimp only
  repeat' first
    | (with_reducible first
        | assumption | apply State.writeSector_inv | apply State.mirror_inv | (apply foldl_inv <;> (try intro _ _ _))
        | (apply foldl_inv1 <;> (try intro _ _ _)))
    | intro _ | split

theorem State.fetchNote_inv {s : State} {d : Nat} (hs : s.inv = true) : (State.fetchNote s d).inv = true := by
  unfold State.fetchNote
  try dsimp only
  repeat' first
    | (with_reducible first | assumption | apply State.noteRead_inv | apply ite_inv)
    | intro _ | split

theorem Mem.zeroFill_wf {m : Mem} (hm : m.wf = true) : (Mem.zeroFill m).wf = true := by
  unfold Mem.zeroFill
  try dsimp only
  repeat' first
    | (with_reducible first | assumption)
    | (simp only [Mem.lit_wf]; refine ⟨?_, ?_, ?_⟩)
    | (with_reducible first | apply SMap.sorted_nil | apply SMap.wf_nil)
    | intro _ | split

theorem State.foldAll_inv {s : State} (hs : s.inv = true) : (State.foldAll s).inv = true := by
  unfold State.foldAll
  try dsimp only
  repeat' first
    | (with_reducible first | assumption | apply State.foldComb_inv | (apply foldl_inv <;> (try intro _ _ _)))
    | intro _ | split

theorem Mem.writeBackAll_wf {m : Mem} (hm : m.wf = true) : (Mem.writeBackAll m).wf = true := by
  unfold Mem.writeBackAll
  try dsimp only
  repeat' first
    | (with_reducible first | assumption | apply Mem.writeBack_wf | (apply foldl_wf <;> (try intro _ _ _)))
    | intro _ | split

end Sys2Proof.Machine
end

