-- ==== Sys2Proof/Laws/KeepAtomic.lean ====
section
/-! SUPPORT. The definitions of Machine/Atomic.lean keep the invariant State.inv of Safety.lean: one lemma each. -/

namespace Sys2Proof.Machine

theorem State.combRoom_inv {s : State} {bank : Nat} (hs : s.inv = true) : (State.combRoom s bank).inv = true := by
  unfold State.combRoom
  try dsimp only
  repeat' first
    | (with_reducible first | assumption | apply State.foldComb_inv | apply ite_inv)
    | intro _ | split

theorem State.combine_inv {s : State} {ch : Nat} {q : Nat} {o : Nat} {w : Nat} {operand : List Byte} (hs : s.inv
    = true) : (State.combine s ch q o w operand).inv = true := by
  unfold State.combine
  try dsimp only
  repeat' first
    | (with_reducible first | assumption | apply State.combRoom_inv | apply State.foldComb_inv)
    | (simp only [State.lit_inv]; refine ⟨?_, ?_, ?_, ?_, ?_, ?_, ?_, ?_, ?_⟩)
    | (simp only [Mem.lit_wf]; refine ⟨?_, ?_, ?_⟩)
    | (with_reducible first
        | apply ite_inv | apply State.inv_mem | apply State.inv_regs | apply State.inv_asks | apply State.inv_tiles
        | apply State.inv_each | apply State.inv_counters | apply State.inv_chans | apply State.inv_tags
        | apply State.inv_wear | apply Mem.wf_hbm | apply Mem.wf_cbytes | apply Mem.wf_lines)
    | intro _ | split

theorem State.atomic_inv {s : State} {d : Nat} {size : Nat} {aop : Nat} {atype : Nat} {ret : Nat} {operand :
    List Byte} {hint : Nat} {src : Nat} {who : Option (Nat × Ctxt × Nat)} (hs : s.inv = true) : (State.atomic s
    d size aop atype ret operand hint src who).1.inv = true := by
  unfold State.atomic
  try dsimp only
  repeat' first
    | (with_reducible first
        | assumption | apply State.bump_inv | apply State.combine_inv | apply State.devRead_inv
        | apply State.devWrite_inv)
    | intro _ | split

end Sys2Proof.Machine
end

