-- ==== Sys2Proof/Laws/KeepCopies.lean ====
section
/-! SUPPORT. The definitions of Machine/Copies.lean keep the invariant State.inv of Safety.lean: one lemma each. -/

namespace Sys2Proof.Machine

theorem State.rdLoc_inv {s : State} {l : Loc} {n : Nat} {hint : Nat} (hs : s.inv = true) : (State.rdLoc s l n
    hint).1.inv = true := by
  unfold State.rdLoc
  try dsimp only
  repeat' first
    | (with_reducible first | assumption | apply State.devRead_inv)
    | intro _ | split

theorem State.wrLoc_inv {s : State} {l : Loc} {bs : List Byte} {hint : Nat} {who : Option (Nat × Ctxt × Nat)}
    (hs : s.inv = true) : (State.wrLoc s l bs hint who).1.inv = true := by
  unfold State.wrLoc
  try dsimp only
  repeat' first
    | (with_reducible first | assumption | apply State.wrLocal_inv | apply State.devWrite_inv)
    | intro _ | split

theorem State.rdCopy_inv {s : State} {c : Copy} {l : Loc} {o : Nat} {n : Nat} (hs : s.inv = true) :
    (State.rdCopy s c l o n).1.inv = true := by
  unfold State.rdCopy
  try dsimp only
  repeat' first
    | (with_reducible first | assumption | apply State.rdLoc_inv)
    | intro _ | split

theorem State.grantOut_inv {s : State} {c : Copy} {o : Nat} {bs : List Byte} (hs : s.inv = true) :
    (State.grantOut s c o bs).1.inv = true := by
  unfold State.grantOut
  try dsimp only
  repeat' first
    | (with_reducible first | assumption | apply State.wrLoc_inv)
    | intro _ | split

theorem State.srcElems_inv {s : State} {c : Copy} {n : Nat} (hs : s.inv = true) : (State.srcElems s c n).1.inv =
    true := by
  unfold State.srcElems
  try dsimp only
  repeat' first
    | (with_reducible first | assumption | apply State.rdCopy_inv)
    | intro _ | split

theorem State.grantConvert_inv {s : State} {c : Copy} {n : Nat} (hs : s.inv = true) : (State.grantConvert s c
    n).1.inv = true := by
  unfold State.grantConvert
  try dsimp only
  repeat' first
    | (with_reducible first
        | assumption | apply State.srcElems_inv | apply State.rdCopy_inv | apply State.grantOut_inv)
    | simp only [Tile.lit_wf]
    | intro _ | split

theorem State.grantMxq_inv {s : State} {c : Copy} {n : Nat} (hs : s.inv = true) : (State.grantMxq s c n).1.inv =
    true := by
  unfold State.grantMxq
  try dsimp only
  repeat' first
    | (with_reducible first
        | assumption | apply State.srcElems_inv | apply State.grantOut_inv | apply State.wrLoc_inv)
    | intro _ | split

theorem State.grantSxq_inv {s : State} {c : Copy} {n : Nat} (hs : s.inv = true) : (State.grantSxq s c n).1.inv =
    true := by
  unfold State.grantSxq
  try dsimp only
  repeat' first
    | (with_reducible first
        | assumption | apply State.srcElems_inv | apply State.rdCopy_inv | apply State.grantOut_inv)
    | simp only [Tile.lit_wf]
    | intro _ | split

theorem State.grantTopk_inv {s : State} {c : Copy} (hs : s.inv = true) : (State.grantTopk s c).1.inv = true := by
  unfold State.grantTopk
  try dsimp only
  repeat' first
    | (with_reducible first | assumption | apply State.rdCopy_inv | apply State.grantOut_inv | apply State.wrLoc_inv)
    | simp only [Tile.lit_wf]
    | intro _ | split

theorem State.grantSlice_inv {s : State} {c : Copy} {n : Nat} (hs : s.inv = true) : (State.grantSlice s c
    n).1.inv = true := by
  unfold State.grantSlice
  try dsimp only
  repeat' first
    | (with_reducible first
        | assumption | apply State.rdCopy_inv | apply State.grantOut_inv | (apply foldl_inv1 <;> (try intro _ _ _)))
    | simp only [Tile.lit_wf]
    | intro _ | split

theorem State.grantZcomp_inv {s : State} {c : Copy} {n : Nat} (hs : s.inv = true) : (State.grantZcomp s c
    n).1.inv = true := by
  unfold State.grantZcomp
  try dsimp only
  repeat' first
    | (with_reducible first | assumption | apply State.rdCopy_inv | apply State.grantOut_inv)
    | intro _ | split

theorem State.grantZdecomp_inv {s : State} {c : Copy} (hs : s.inv = true) : (State.grantZdecomp s c).1.inv =
    true := by
  unfold State.grantZdecomp
  try dsimp only
  repeat' first
    | (with_reducible first | assumption | apply State.rdCopy_inv | apply State.grantOut_inv)
    | intro _ | split

theorem State.sendWrites_inv {s : State} {c : Copy} {d : Nat} {a : Nat} {bs : List Byte} (hs : s.inv = true) :
    (State.sendWrites s c d a bs).1.inv = true := by
  unfold State.sendWrites
  try dsimp only
  repeat' first
    | (with_reducible first | assumption | apply State.sendRop_inv | (apply foldl_inv <;> (try intro _ _ _)))
    | intro _ | split

theorem State.rawOut_inv {s : State} {c : Copy} {bs : List Byte} (hs : s.inv = true) : (State.rawOut s c
    bs).1.inv = true := by
  unfold State.rawOut
  try dsimp only
  repeat' first
    | (with_reducible first | assumption | apply State.sendWrites_inv | apply State.grantOut_inv)
    | intro _ | split

theorem State.rawBytes_inv {s : State} {c : Copy} {bs : List Byte} (hs : s.inv = true) : (State.rawBytes s c
    bs).1.inv = true := by
  unfold State.rawBytes
  try dsimp only
  repeat' first
    | (with_reducible first | assumption | apply State.rawOut_inv)
    | intro _ | split

theorem State.grantRaw_inv {s : State} {c : Copy} {n : Nat} (hs : s.inv = true) : (State.grantRaw s c n).1.inv =
    true := by
  unfold State.grantRaw
  try dsimp only
  repeat' first
    | (with_reducible first | assumption | apply State.rdCopy_inv | apply State.rawBytes_inv)
    | intro _ | split

theorem State.grantCrc_inv {s : State} {c : Copy} (hs : s.inv = true) : (State.grantCrc s c).1.inv = true := by
  unfold State.grantCrc
  try dsimp only
  repeat' first
    | (with_reducible first
        | assumption | apply State.rawBytes_inv | apply State.rdCopy_inv | apply State.grantRaw_inv)
    | intro _ | split

theorem State.sendRead_inv {s : State} {c : Copy} (hs : s.inv = true) : (State.sendRead s c).1.inv = true := by
  unfold State.sendRead
  try dsimp only
  repeat' first
    | (with_reducible first | assumption | apply State.sendRop_inv)
    | intro _ | split

theorem State.grant_inv {s : State} {c : Copy} (hs : s.inv = true) : (State.grant s c).1.inv = true := by
  unfold State.grant
  try dsimp only
  repeat' first
    | (with_reducible first
        | assumption | apply State.grantConvert_inv | apply State.grantMxq_inv | apply State.grantSxq_inv
        | apply State.grantTopk_inv | apply State.grantZcomp_inv | apply State.grantZdecomp_inv
        | apply State.grantSlice_inv | apply State.grantCrc_inv)
    | intro _ | split

end Sys2Proof.Machine
end

