-- ==== Sys2Proof/Laws/KeepBuckets.lean ====
section
/-! SUPPORT. The definitions of Machine/Buckets.lean keep the invariant State.inv of Safety.lean: one lemma each. -/

namespace Sys2Proof.Machine

theorem State.rdFormE_inv {s : State} {v : Nat} {o : Nat} {n : Nat} (hs : s.inv = true) : (State.rdFormE s v o
    n).1.inv = true := by
  unfold State.rdFormE
  try dsimp only
  repeat' first
    | (with_reducible first | assumption | apply State.rdLoc_inv)
    | intro _ | split

theorem State.rdForm_inv {s : State} {v : Nat} {o : Nat} {n : Nat} (hs : s.inv = true) : (State.rdForm s v o
    n).1.inv = true := by
  unfold State.rdForm
  try dsimp only
  repeat' first
    | (with_reducible first | assumption | apply State.rdFormE_inv)
    | intro _ | split

theorem State.wrForm_inv {s : State} {v : Nat} {o : Nat} {bs : List Byte} (hs : s.inv = true) : (State.wrForm s
    v o bs).1.inv = true := by
  unfold State.wrForm
  try dsimp only
  repeat' first
    | (with_reducible first | assumption | apply State.wrLoc_inv)
    | intro _ | split

theorem State.contribution_inv {s : State} {x : Tag} {o : Origin} {i : Nat} {b : Nat} {e : Int} (hs : s.inv =
    true) : (State.contribution s x o i b e).1.inv = true := by
  unfold State.contribution
  try dsimp only
  repeat' first
    | (with_reducible first | assumption | apply State.rdFormE_inv)
    | intro _ | split

theorem State.rerunBlock_inv {s : State} {x : Tag} {b : Nat} {e2 : Int} (hs : s.inv = true) : (State.rerunBlock
    s x b e2).1.inv = true := by
  unfold State.rerunBlock
  try dsimp only
  repeat' first
    | (with_reducible first | assumption | apply State.rdForm_inv | apply State.wrForm_inv)
    | simp only [Tile.lit_wf]
    | intro _ | split

end Sys2Proof.Machine
end

