-- ==== Sys2Proof/Laws/KeepTags.lean ====
section
/-! SUPPORT. The definitions of Machine/Tags.lean keep the invariant State.inv of Safety.lean: one lemma each. -/

namespace Sys2Proof.Machine

theorem State.setTag_inv {s : State} {t : Nat} {x : Tag} (hs : s.inv = true) : (State.setTag s t x).inv = true := by
  unfold State.setTag
  try dsimp only
  repeat' first
    | (with_reducible first | assumption)
    | (simp only [State.lit_inv]; refine ⟨?_, ?_, ?_, ?_, ?_, ?_, ?_, ?_, ?_⟩)
    | (with_reducible first
        | apply State.inv_mem | apply State.inv_regs | apply State.inv_asks | apply State.inv_tiles
        | apply State.inv_each | apply State.inv_counters | apply State.inv_chans | apply State.inv_tags
        | apply State.inv_wear | apply SMap.wf_set)
    | intro _ | split

theorem State.doneArrival_inv {s : State} {t : Nat} {x : Tag} (hs : s.inv = true) : (State.doneArrival s t
    x).inv = true := by
  unfold State.doneArrival
  try dsimp only
  repeat' first
    | (with_reducible first | assumption | apply State.sendArrival_inv | apply ite_inv)
    | intro _ | split

theorem State.endTag_inv {s : State} {t : Nat} {st : Nat} {reason : Nat} {nmiss : Nat} {miss : Nat} (hs : s.inv
    = true) : (State.endTag s t st reason nmiss miss).inv = true := by
  unfold State.endTag
  try dsimp only
  repeat' first
    | (with_reducible first | assumption | apply State.setTag_inv | apply State.doneArrival_inv)
    | (simp only [State.lit_inv]; refine ⟨?_, ?_, ?_, ?_, ?_, ?_, ?_, ?_, ?_⟩)
    | (with_reducible first
        | apply State.inv_mem | apply State.inv_regs | apply State.inv_asks | apply State.inv_tiles
        | apply State.inv_each | apply State.inv_counters | apply State.inv_chans | apply State.inv_tags
        | apply State.inv_wear)
    | intro _ | split

theorem State.memErr_inv {s : State} {t : Nat} (hs : s.inv = true) : (State.memErr s t).inv = true := by
  unfold State.memErr
  try dsimp only
  repeat' first
    | (with_reducible first | assumption | apply State.endTag_inv)
    | intro _ | split

theorem State.sendFailed_inv {s : State} {w : Nat} (hs : s.inv = true) : (State.sendFailed s w).inv = true := by
  unfold State.sendFailed
  try dsimp only
  repeat' first
    | (with_reducible first | assumption | apply State.endTag_inv | apply ite_inv)
    | intro _ | split

theorem State.expFailed_inv {s : State} {t : Nat} (hs : s.inv = true) : (State.expFailed s t).inv = true := by
  unfold State.expFailed
  try dsimp only
  repeat' first
    | (with_reducible first | assumption | apply State.memErr_inv | apply ite_inv)
    | intro _ | split

theorem State.expAcked_inv {s : State} {t : Nat} (hs : s.inv = true) : (State.expAcked s t).inv = true := by
  unfold State.expAcked
  try dsimp only
  repeat' first
    | (with_reducible first | assumption | apply State.endTag_inv | apply State.setTag_inv | apply ite_inv)
    | intro _ | split

end Sys2Proof.Machine
end

