-- ==== Sys2Proof/Laws/KeepCollectives.lean ====
section
/-! SUPPORT. The definitions of Machine/Collectives.lean keep the invariant State.inv of Safety.lean: one lemma each. -/

namespace Sys2Proof.Machine

theorem State.mismatch_inv {s : State} {t : Nat} {rank : Nat} (hs : s.inv = true) : (State.mismatch s t
    rank).inv = true := by
  unfold State.mismatch
  try dsimp only
  repeat' first
    | (with_reducible first | assumption | apply State.endTag_inv)
    | intro _ | split

theorem State.sendFrag_inv {s : State} {t : Nat} {dev : Nat} {data : List Byte} (hs : s.inv = true) :
    (State.sendFrag s t dev data).inv = true := by
  unfold State.sendFrag
  try dsimp only
  repeat' first
    | (with_reducible first | assumption | apply State.setTag_inv | apply State.post_inv)
    | (simp only [State.lit_inv]; refine ⟨?_, ?_, ?_, ?_, ?_, ?_, ?_, ?_, ?_⟩)
    | (with_reducible first
        | apply ite_inv | apply State.inv_mem | apply State.inv_regs | apply State.inv_asks | apply State.inv_tiles
        | apply State.inv_each | apply State.inv_counters | apply State.inv_chans | apply State.inv_tags
        | apply State.inv_wear)
    | intro _ | split

theorem State.sendParts_inv {s : State} {t : Nat} {rank : Nat} {part : Nat} {fs : List (Nat × List Byte)} (hs :
    s.inv = true) : (State.sendParts s t rank part fs).inv = true := by
  unfold State.sendParts
  try dsimp only
  repeat' first
    | (with_reducible first | assumption | apply State.sendFrag_inv | (apply foldl_inv <;> (try intro _ _ _)))
    | intro _ | split

theorem State.sendStream_inv {s : State} {t : Nat} {rank : Nat} {part : Nat} {base : Nat} {bs : List Byte} (hs :
    s.inv = true) : (State.sendStream s t rank part base bs).inv = true := by
  unfold State.sendStream
  try dsimp only
  repeat' first
    | (with_reducible first | assumption | apply State.sendParts_inv)
    | intro _ | split

theorem State.rankArrived_inv {s : State} {t : Nat} {r : Nat} {backup : Bool} (hs : s.inv = true) :
    (State.rankArrived s t r backup).inv = true := by
  unfold State.rankArrived
  try dsimp only
  repeat' first
    | (with_reducible first | assumption | apply State.drawTime_inv | apply State.setTag_inv | apply ite_inv)
    | intro _ | split

theorem State.writeMaps_inv {s : State} {d : Nat} {src : Nat} {e : Nat} {valid : Nat} {above : Nat} (hs : s.inv
    = true) : (State.writeMaps s d src e valid above).1.inv = true := by
  unfold State.writeMaps
  try dsimp only
  repeat' first
    | (with_reducible first | assumption | apply State.wrForm_inv)
    | intro _ | split

theorem State.writeSource_inv {s : State} {d : Nat} {src : Nat} {ns : List Nat} {byte : Nat → List Byte} (hs :
    s.inv = true) : (State.writeSource s d src ns byte).1.inv = true := by
  unfold State.writeSource
  try dsimp only
  repeat' first
    | (with_reducible first
        | assumption | apply State.wrForm_inv | apply State.writeMaps_inv | apply hbyte
        | (apply foldl_inv1 <;> (try intro _ _ _)))
    | intro _ | split

theorem State.writeResults_inv {s : State} {t : Nat} {bs : List (Nat × List Byte)} (hs : s.inv = true) :
    (State.writeResults s t bs).inv = true := by
  unfold State.writeResults
  try dsimp only
  repeat' first
    | (with_reducible first
        | assumption | apply State.wrForm_inv | apply State.memErr_inv | apply State.setTag_inv
        | apply State.sendStream_inv | (apply foldl_inv <;> (try intro _ _ _))
        | (apply foldl_inv1 <;> (try intro _ _ _)) | apply ite_inv)
    | intro _ | split

theorem State.rerunData_inv {s : State} {t : Nat} {req : List (Nat × Int)} (hs : s.inv = true) :
    (State.rerunData s t req).1.inv = true := by
  unfold State.rerunData
  try dsimp only
  repeat' first
    | (with_reducible first
        | assumption | apply State.rerunBlock_inv | apply State.setTag_inv | (apply foldl_inv1 <;> (try intro _ _ _)))
    | intro _ | split

theorem State.startRound_inv {s : State} {t : Nat} {flagged : List (Nat × Int)} {round : Nat} (hs : s.inv =
    true) : (State.startRound s t flagged round).inv = true := by
  unfold State.startRound
  try dsimp only
  repeat' first
    | (with_reducible first
        | assumption | apply State.setTag_inv | apply State.sendStream_inv | (apply foldl_inv <;> (try intro _ _ _)))
    | intro _ | split

theorem State.combineFirst_inv {s : State} {t : Nat} (hs : s.inv = true) : (State.combineFirst s t).inv = true := by
  unfold State.combineFirst
  try dsimp only
  repeat' first
    | (with_reducible first
        | assumption | apply State.mismatch_inv | apply State.setTag_inv | apply State.writeResults_inv
        | apply State.startRound_inv | apply ite_inv)
    | intro _ | split

theorem State.endRound_inv {s : State} {t : Nat} {own : List Byte} (hs : s.inv = true) : (State.endRound s t
    own).inv = true := by
  unfold State.endRound
  try dsimp only
  repeat' first
    | (with_reducible first
        | assumption | apply State.mismatch_inv | apply State.setTag_inv | apply State.startRound_inv
        | apply State.writeResults_inv | apply ite_inv)
    | intro _ | split

theorem State.srcBlocks_inv {s : State} {t : Nat} {bs : List Nat} (hs : s.inv = true) : (State.srcBlocks s t
    bs).1.inv = true := by
  unfold State.srcBlocks
  try dsimp only
  repeat' first
    | (with_reducible first | assumption | apply State.rdForm_inv | (apply foldl_inv1 <;> (try intro _ _ _)))
    | intro _ | split

theorem State.keepOwn_inv {s : State} {t : Nat} (hs : s.inv = true) : (State.keepOwn s t).inv = true := by
  unfold State.keepOwn
  try dsimp only
  repeat' first
    | (with_reducible first
        | assumption | apply State.srcBlocks_inv | apply State.memErr_inv | apply State.setTag_inv | apply ite_inv)
    | intro _ | split

theorem State.wrExp_inv {s : State} {t : Nat} {e : Nat × Int} (hs : s.inv = true) : (State.wrExp s t e).1.inv =
    true := by
  unfold State.wrExp
  try dsimp only
  repeat' first
    | (with_reducible first | assumption | apply State.sendRop_inv | apply State.setTag_inv | apply State.wrForm_inv)
    | intro _ | split

theorem State.finishTag_inv {s : State} {t : Nat} (hs : s.inv = true) : (State.finishTag s t).inv = true := by
  unfold State.finishTag
  try dsimp only
  repeat' first
    | (with_reducible first
        | assumption | apply State.wrExp_inv | apply State.memErr_inv | apply State.endTag_inv
        | (apply foldl_inv1 <;> (try intro _ _ _)) | apply ite_inv)
    | intro _ | split

theorem State.takeResults_inv {s : State} {t : Nat} {r : Nat} (hs : s.inv = true) : (State.takeResults s t
    r).1.inv = true := by
  unfold State.takeResults
  try dsimp only
  repeat' first
    | (with_reducible first
        | assumption | apply State.wrForm_inv | apply State.writeSource_inv
        | (apply foldl_inv1 <;> (try intro _ _ _)))
    | intro _ | split

theorem State.bxTurn_inv {s : State} {t : Nat} (hs : s.inv = true) : (State.bxTurn s t).inv = true := by
  unfold State.bxTurn
  try dsimp only
  repeat' first
    | (with_reducible first
        | assumption | apply State.setTag_inv | apply State.sendStream_inv | apply State.wrForm_inv
        | apply State.memErr_inv | (apply foldl_inv <;> (try intro _ _ _)) | apply ite_inv)
    | intro _ | split

theorem State.advanceTag_inv {s : State} {t : Nat} (hs : s.inv = true) : (State.advanceTag s t).inv = true := by
  unfold State.advanceTag
  try dsimp only
  repeat' first
    | (with_reducible first
        | assumption | apply State.bxTurn_inv | apply State.combineFirst_inv | apply State.rerunData_inv
        | apply State.endRound_inv | apply State.memErr_inv | apply State.sendStream_inv | apply State.setTag_inv
        | apply State.finishTag_inv | (apply foldl_inv <;> (try intro _ _ _)) | apply ite_inv)
    | intro _ | split

theorem State.runTag_inv {s : State} {t : Nat} (hs : s.inv = true) : (State.runTag s t).inv = true := by
  unfold State.runTag
  try dsimp only
  repeat' first
    | (with_reducible first | assumption | apply State.advanceTag_inv | (apply foldl_inv <;> (try intro _ _ _)))
    | intro _ | split

theorem State.sendOwn_inv {s : State} {t : Nat} (hs : s.inv = true) : (State.sendOwn s t).inv = true := by
  unfold State.sendOwn
  try dsimp only
  repeat' first
    | (with_reducible first
        | assumption | apply State.rdForm_inv | apply State.memErr_inv | apply State.sendStream_inv
        | apply State.writeSource_inv | apply State.sendParts_inv | apply State.wrForm_inv
        | apply State.srcBlocks_inv | (apply foldl_inv <;> (try intro _ _ _)) | apply ite_inv)
    | intro _ | split

end Sys2Proof.Machine
end

