-- ==== Sys2Proof/Laws/KeepOperands.lean ====
section
/-! SUPPORT. The definitions of Machine/Operands.lean keep the invariant State.inv of Safety.lean: one lemma each. -/

namespace Sys2Proof.Machine

theorem State.fetched_inv {s : State} {pc : Nat} (hs : s.inv = true) : (State.fetched s pc).inv = true := by
  unfold State.fetched
  try dsimp only
  repeat' first
    | (with_reducible first | assumption | apply State.fetchNote_inv | apply ite_inv)
    | intro _ | split

theorem State.advance_inv {s : State} {t : Nat} {c : Ctxt} (hs : s.inv = true) : (State.advance s t c).inv =
    true := by
  unfold State.advance
  try dsimp only
  repeat' first
    | (with_reducible first | assumption | apply State.setCtx_inv | apply State.setCtx_inv)
    | intro _ | split

theorem State.pay_inv {s : State} {t : Nat} {k : Nat} (hs : s.inv = true) : (State.pay s t k).inv = true := by
  unfold State.pay
  try dsimp only
  repeat' first
    | (with_reducible first | assumption | apply State.setTile_inv | apply State.tile_wf)
    | simp only [Tile.lit_wf]
    | (with_reducible first | apply State.tile_wf | apply State.setTile_inv | apply Tile.memOk)
    | intro _ | split

theorem State.pause_inv {s : State} {t : Nat} {k : Nat} (hs : s.inv = true) : (State.pause s t k).inv = true := by
  unfold State.pause
  try dsimp only
  repeat' first
    | (with_reducible first | assumption | apply State.bump_inv | apply State.setTile_inv | apply State.tile_wf)
    | simp only [Tile.lit_wf]
    | (with_reducible first | apply State.tile_wf | apply State.setTile_inv | apply Tile.memOk)
    | intro _ | split

theorem State.perform_inv {s : State} {t : Nat} {c : Ctxt} {y3 : Act} (hs : s.inv = true) (hy3 : y3.keeps) :
    (State.perform s t c y3).inv = true := by
  cases y3 with
  | fault f => exact State.issueFault_inv hs
  | hold u => exact hy3
  | go k f =>
    unfold State.perform
    dsimp only
    split
    · exact hy3 _ (State.pay_inv hs)
    · exact State.pause_inv hs

theorem issue_keeps {h : Head} {w : Nat} {u : Uses} {masked : Bool} {act : State → Act} {s : State} (hact : ∀ u,
    u.inv = true → (act u).keeps) (hs : s.inv = true) : Out.keeps (issue h w u masked act s) := by
  unfold issue
  try dsimp only
  repeat' first
    | (with_reducible first
        | assumption | apply next_keeps | apply within_keeps | apply State.fetchFails_inv | apply State.fetched_inv
        | apply State.issueFault_inv | apply State.advance_inv | apply State.perform_inv | apply hact | apply ite_inv)
    | intro _ | split

theorem issueC_keeps {h : Head} {w : Nat} {u : Uses} {f : Ctx → Ctx} {s : State} (hs : s.inv = true) : Out.keeps
    (issueC h w u f s) := by
  unfold issueC
  try dsimp only
  repeat' first
    | (with_reducible first
        | assumption | (apply Act.go_keeps <;> (try intro _ _)) | apply issue_keeps | apply State.setCtx_inv
        | apply hf | apply State.setCtx_inv)
    | intro _ | split

theorem Tile.setOp_wf {t : Tile} {o : UOp} (ht : t.wf = true) : (Tile.setOp t o).wf = true := by
  unfold Tile.setOp
  try dsimp only
  repeat' first
    | (with_reducible first | assumption)
    | simp only [Tile.lit_wf]
    | (with_reducible first | apply Tile.memOk)
    | intro _ | split

theorem State.takeRows_inv {s : State} {t : Nat} (hs : s.inv = true) : (State.takeRows s t).inv = true := by
  unfold State.takeRows
  try dsimp only
  repeat' first
    | (with_reducible first
        | assumption | apply State.tile_wf | apply State.setTile_inv | apply Tile.setOp_wf | apply State.bump_inv)
    | simp only [Tile.lit_wf]
    | (with_reducible first | apply ite_inv | apply State.tile_wf | apply State.setTile_inv | apply Tile.memOk)
    | intro _ | split

theorem State.markStarted_inv {s : State} {t : Nat} {o : UOp} (hs : s.inv = true) : (State.markStarted s t
    o).inv = true := by
  unfold State.markStarted
  try dsimp only
  repeat' first
    | (with_reducible first
        | assumption | apply Tile.takeToken_wf | apply State.tile_wf | apply State.setTile_inv | apply Tile.setOp_wf
        | apply State.tile_wf | apply State.setTile_inv)
    | intro _ | split

theorem Tile.dropOp_wf {t : Tile} {n : Nat} (ht : t.wf = true) : (Tile.dropOp t n).wf = true := by
  unfold Tile.dropOp
  try dsimp only
  repeat' first
    | (with_reducible first | assumption)
    | simp only [Tile.lit_wf]
    | (with_reducible first | apply Tile.memOk)
    | intro _ | split

theorem State.completeOp_inv {s : State} {t : Nat} {o : UOp} (hs : s.inv = true) : (State.completeOp s t o).inv
    = true := by
  unfold State.completeOp
  try dsimp only
  repeat' first
    | (with_reducible first
        | assumption | apply State.tile_wf | apply State.unitFaultAt_inv | apply Tile.dropOp_wf
        | apply State.setTile_inv | apply Tile.signal_wf | apply State.flushArrives_inv | apply State.settle_inv
        | apply ite_inv | apply State.tile_wf | apply State.setTile_inv)
    | intro _ | split

theorem State.enqueue_inv {s : State} {t : Nat} {o : UOp} (hs : s.inv = true) : (State.enqueue s t o).inv = true := by
  unfold State.enqueue
  try dsimp only
  repeat' first
    | (with_reducible first | assumption | apply State.setTile_inv | apply State.tile_wf)
    | simp only [Tile.lit_wf]
    | (with_reducible first | apply State.tile_wf | apply State.setTile_inv | apply Tile.memOk)
    | intro _ | split

theorem State.setGov_inv {s : State} {d : Nat} {g : Gov} (hs : s.inv = true) : (State.setGov s d g).inv = true := by
  unfold State.setGov
  try dsimp only
  repeat' first
    | (with_reducible first | assumption)
    | (simp only [State.lit_inv]; refine ⟨?_, ?_, ?_, ?_, ?_, ?_, ?_, ?_, ?_⟩)
    | (with_reducible first
        | apply State.inv_mem | apply State.inv_regs | apply State.inv_asks | apply State.inv_tiles
        | apply State.inv_each | apply State.inv_counters | apply State.inv_chans | apply State.inv_tags
        | apply State.inv_wear)
    | intro _ | split

end Sys2Proof.Machine
end

