-- ==== Sys2Proof/Laws/KeepControl.lean ====
section
/-! SUPPORT. The definitions of Machine/Control.lean keep the invariant State.inv of Safety.lean: one lemma each. -/

namespace Sys2Proof.Machine

theorem alu_keeps {op : Nat} {f : Word → Word → Word} {h : Head} {sd : BitVec 6} {sa : BitVec 6} {sb : BitVec 6}
    {s : State} (hs : s.inv = true) : Out.keeps (alu op f h sd sa sb s) := by
  unfold alu
  try dsimp only
  repeat' first
    | (with_reducible first | assumption | apply issueC_keeps | apply hf)
    | intro _ | split

theorem aluImm_keeps {op : Nat} {f : Word → BitVec 32 → Word} {h : Head} {sd : BitVec 6} {sa : BitVec 6} {imm :
    BitVec 32} {s : State} (hs : s.inv = true) : Out.keeps (aluImm op f h sd sa imm s) := by
  unfold aluImm
  try dsimp only
  repeat' first
    | (with_reducible first | assumption | apply issueC_keeps | apply hf)
    | intro _ | split

theorem execAdd_keeps {h : Head} {sd : BitVec 6} {sa : BitVec 6} {sb : BitVec 6} {s : State} (hs : s.inv = true)
    : Out.keeps (execAdd h sd sa sb s) := by
  unfold execAdd
  try dsimp only
  repeat' first
    | (with_reducible first | assumption | apply alu_keeps)
    | intro _ | split

theorem execSub_keeps {h : Head} {sd : BitVec 6} {sa : BitVec 6} {sb : BitVec 6} {s : State} (hs : s.inv = true)
    : Out.keeps (execSub h sd sa sb s) := by
  unfold execSub
  try dsimp only
  repeat' first
    | (with_reducible first | assumption | apply alu_keeps)
    | intro _ | split

theorem execMul_keeps {h : Head} {sd : BitVec 6} {sa : BitVec 6} {sb : BitVec 6} {s : State} (hs : s.inv = true)
    : Out.keeps (execMul h sd sa sb s) := by
  unfold execMul
  try dsimp only
  repeat' first
    | (with_reducible first | assumption | apply alu_keeps)
    | intro _ | split

theorem execMulhu_keeps {h : Head} {sd : BitVec 6} {sa : BitVec 6} {sb : BitVec 6} {s : State} (hs : s.inv =
    true) : Out.keeps (execMulhu h sd sa sb s) := by
  unfold execMulhu
  try dsimp only
  repeat' first
    | (with_reducible first | assumption | apply alu_keeps)
    | intro _ | split

theorem execAnd_keeps {h : Head} {sd : BitVec 6} {sa : BitVec 6} {sb : BitVec 6} {s : State} (hs : s.inv = true)
    : Out.keeps (execAnd h sd sa sb s) := by
  unfold execAnd
  try dsimp only
  repeat' first
    | (with_reducible first | assumption | apply alu_keeps)
    | intro _ | split

theorem execOr_keeps {h : Head} {sd : BitVec 6} {sa : BitVec 6} {sb : BitVec 6} {s : State} (hs : s.inv = true)
    : Out.keeps (execOr h sd sa sb s) := by
  unfold execOr
  try dsimp only
  repeat' first
    | (with_reducible first | assumption | apply alu_keeps)
    | intro _ | split

theorem execXor_keeps {h : Head} {sd : BitVec 6} {sa : BitVec 6} {sb : BitVec 6} {s : State} (hs : s.inv = true)
    : Out.keeps (execXor h sd sa sb s) := by
  unfold execXor
  try dsimp only
  repeat' first
    | (with_reducible first | assumption | apply alu_keeps)
    | intro _ | split

theorem execShl_keeps {h : Head} {sd : BitVec 6} {sa : BitVec 6} {sb : BitVec 6} {s : State} (hs : s.inv = true)
    : Out.keeps (execShl h sd sa sb s) := by
  unfold execShl
  try dsimp only
  repeat' first
    | (with_reducible first | assumption | apply alu_keeps)
    | intro _ | split

theorem execShr_keeps {h : Head} {sd : BitVec 6} {sa : BitVec 6} {sb : BitVec 6} {s : State} (hs : s.inv = true)
    : Out.keeps (execShr h sd sa sb s) := by
  unfold execShr
  try dsimp only
  repeat' first
    | (with_reducible first | assumption | apply alu_keeps)
    | intro _ | split

theorem execSra_keeps {h : Head} {sd : BitVec 6} {sa : BitVec 6} {sb : BitVec 6} {s : State} (hs : s.inv = true)
    : Out.keeps (execSra h sd sa sb s) := by
  unfold execSra
  try dsimp only
  repeat' first
    | (with_reducible first | assumption | apply alu_keeps)
    | intro _ | split

theorem execMin_keeps {h : Head} {sd : BitVec 6} {sa : BitVec 6} {sb : BitVec 6} {s : State} (hs : s.inv = true)
    : Out.keeps (execMin h sd sa sb s) := by
  unfold execMin
  try dsimp only
  repeat' first
    | (with_reducible first | assumption | apply alu_keeps)
    | intro _ | split

theorem execMax_keeps {h : Head} {sd : BitVec 6} {sa : BitVec 6} {sb : BitVec 6} {s : State} (hs : s.inv = true)
    : Out.keeps (execMax h sd sa sb s) := by
  unfold execMax
  try dsimp only
  repeat' first
    | (with_reducible first | assumption | apply alu_keeps)
    | intro _ | split

theorem execMinu_keeps {h : Head} {sd : BitVec 6} {sa : BitVec 6} {sb : BitVec 6} {s : State} (hs : s.inv =
    true) : Out.keeps (execMinu h sd sa sb s) := by
  unfold execMinu
  try dsimp only
  repeat' first
    | (with_reducible first | assumption | apply alu_keeps)
    | intro _ | split

theorem execMaxu_keeps {h : Head} {sd : BitVec 6} {sa : BitVec 6} {sb : BitVec 6} {s : State} (hs : s.inv =
    true) : Out.keeps (execMaxu h sd sa sb s) := by
  unfold execMaxu
  try dsimp only
  repeat' first
    | (with_reducible first | assumption | apply alu_keeps)
    | intro _ | split

theorem execAddi_keeps {h : Head} {sd : BitVec 6} {sa : BitVec 6} {imm : BitVec 32} {s : State} (hs : s.inv =
    true) : Out.keeps (execAddi h sd sa imm s) := by
  unfold execAddi
  try dsimp only
  repeat' first
    | (with_reducible first | assumption | apply aluImm_keeps)
    | intro _ | split

theorem execAndi_keeps {h : Head} {sd : BitVec 6} {sa : BitVec 6} {imm : BitVec 32} {s : State} (hs : s.inv =
    true) : Out.keeps (execAndi h sd sa imm s) := by
  unfold execAndi
  try dsimp only
  repeat' first
    | (with_reducible first | assumption | apply aluImm_keeps)
    | intro _ | split

theorem execOri_keeps {h : Head} {sd : BitVec 6} {sa : BitVec 6} {imm : BitVec 32} {s : State} (hs : s.inv =
    true) : Out.keeps (execOri h sd sa imm s) := by
  unfold execOri
  try dsimp only
  repeat' first
    | (with_reducible first | assumption | apply aluImm_keeps)
    | intro _ | split

theorem execXori_keeps {h : Head} {sd : BitVec 6} {sa : BitVec 6} {imm : BitVec 32} {s : State} (hs : s.inv =
    true) : Out.keeps (execXori h sd sa imm s) := by
  unfold execXori
  try dsimp only
  repeat' first
    | (with_reducible first | assumption | apply aluImm_keeps)
    | intro _ | split

theorem execShli_keeps {h : Head} {sd : BitVec 6} {sa : BitVec 6} {imm : BitVec 32} {s : State} (hs : s.inv =
    true) : Out.keeps (execShli h sd sa imm s) := by
  unfold execShli
  try dsimp only
  repeat' first
    | (with_reducible first | assumption | apply aluImm_keeps)
    | intro _ | split

theorem execShri_keeps {h : Head} {sd : BitVec 6} {sa : BitVec 6} {imm : BitVec 32} {s : State} (hs : s.inv =
    true) : Out.keeps (execShri h sd sa imm s) := by
  unfold execShri
  try dsimp only
  repeat' first
    | (with_reducible first | assumption | apply aluImm_keeps)
    | intro _ | split

theorem execSrai_keeps {h : Head} {sd : BitVec 6} {sa : BitVec 6} {imm : BitVec 32} {s : State} (hs : s.inv =
    true) : Out.keeps (execSrai h sd sa imm s) := by
  unfold execSrai
  try dsimp only
  repeat' first
    | (with_reducible first | assumption | apply aluImm_keeps)
    | intro _ | split

theorem execNop_keeps {tile : Nat} {ctx : Ctxt} {word : Word} {s : State} (hs : s.inv = true) : Out.keeps
    (execNop tile ctx word s) := by
  unfold execNop
  dsimp only
  exact ite_keeps (within_keeps (next_keeps hs)) (issueC_keeps hs)

theorem execEnd_keeps {h : Head} {s : State} (hs : s.inv = true) : Out.keeps (execEnd h s) := by
  unfold execEnd
  try dsimp only
  repeat' first
    | (with_reducible first | assumption | apply issueC_keeps)
    | intro _ | split

theorem branchTo_keeps {h : Head} {w : Nat} {sd : BitVec 6} {link : Bool} {offset : BitVec 32} {s : State} (hs :
    s.inv = true) : Out.keeps (branchTo h w sd link offset s) := by
  unfold branchTo
  try dsimp only
  repeat' first
    | (with_reducible first
        | assumption | (apply Act.go_keeps <;> (try intro _ _)) | apply issue_keeps | apply State.setCtx_inv
        | apply State.setCtx_inv)
    | intro _ | split

theorem execBr_keeps {h : Head} {offset : BitVec 32} {s : State} (hs : s.inv = true) : Out.keeps (execBr h
    offset s) := by
  unfold execBr
  try dsimp only
  repeat' first
    | (with_reducible first | assumption | apply branchTo_keeps)
    | intro _ | split

theorem execBrl_keeps {h : Head} {sd : BitVec 6} {offset : BitVec 32} {s : State} (hs : s.inv = true) :
    Out.keeps (execBrl h sd offset s) := by
  unfold execBrl
  try dsimp only
  repeat' first
    | (with_reducible first | assumption | apply branchTo_keeps)
    | intro _ | split

theorem jumpTo_keeps {h : Head} {w : Nat} {sd : BitVec 6} {sa : BitVec 6} {link : Bool} {s : State} (hs : s.inv
    = true) : Out.keeps (jumpTo h w sd sa link s) := by
  unfold jumpTo
  try dsimp only
  repeat' first
    | (with_reducible first
        | assumption | exact Act.fault_keeps | (apply Act.go_keeps <;> (try intro _ _)) | apply issue_keeps
        | apply State.setCtx_inv | apply State.setCtx_inv)
    | intro _ | split

theorem execJr_keeps {h : Head} {sa : BitVec 6} {s : State} (hs : s.inv = true) : Out.keeps (execJr h sa s) := by
  unfold execJr
  try dsimp only
  repeat' first
    | (with_reducible first | assumption | apply jumpTo_keeps)
    | intro _ | split

theorem execJrl_keeps {h : Head} {sd : BitVec 6} {sa : BitVec 6} {s : State} (hs : s.inv = true) : Out.keeps
    (execJrl h sd sa s) := by
  unfold execJrl
  try dsimp only
  repeat' first
    | (with_reducible first | assumption | apply jumpTo_keeps)
    | intro _ | split

theorem loopAct_keeps {h : Head} {count : Nat} {body : Nat} {s : State} (hs : s.inv = true) : Act.keeps (loopAct
    h count body s) := by
  unfold loopAct
  try dsimp only
  repeat' first
    | (with_reducible first
        | assumption | exact Act.fault_keeps | (apply Act.go_keeps <;> (try intro _ _)) | apply State.setCtx_inv
        | apply State.setCtx_inv)
    | intro _ | split

theorem execLoop_keeps {h : Head} {sa : BitVec 6} {body : BitVec 12} {s : State} (hs : s.inv = true) : Out.keeps
    (execLoop h sa body s) := by
  unfold execLoop
  try dsimp only
  repeat' first
    | (with_reducible first | assumption | exact Act.fault_keeps | apply issue_keeps | apply loopAct_keeps)
    | intro _ | split

theorem execLoopi_keeps {h : Head} {count : BitVec 20} {body : BitVec 12} {s : State} (hs : s.inv = true) :
    Out.keeps (execLoopi h count body s) := by
  unfold execLoopi
  try dsimp only
  repeat' first
    | (with_reducible first | assumption | apply issue_keeps | apply loopAct_keeps)
    | intro _ | split

theorem execMovi_keeps {h : Head} {sd : BitVec 6} {imm : BitVec 32} {s : State} (hs : s.inv = true) : Out.keeps
    (execMovi h sd imm s) := by
  unfold execMovi
  try dsimp only
  repeat' first
    | (with_reducible first | assumption | apply issueC_keeps)
    | intro _ | split

theorem execLdhi_keeps {h : Head} {sd : BitVec 6} {imm : BitVec 32} {s : State} (hs : s.inv = true) : Out.keeps
    (execLdhi h sd imm s) := by
  unfold execLdhi
  try dsimp only
  repeat' first
    | (with_reducible first | assumption | apply issueC_keeps)
    | intro _ | split

theorem execMfc_keeps {h : Head} {sd : BitVec 6} {num : BitVec 32} {s : State} (hs : s.inv = true) : Out.keeps
    (execMfc h sd num s) := by
  unfold execMfc
  try dsimp only
  repeat' first
    | (with_reducible first
        | assumption | (apply Act.go_keeps <;> (try intro _ _)) | apply issue_keeps | apply State.setCtx_inv
        | apply State.setCtx_inv)
    | intro _ | split

theorem execMtc_keeps {h : Head} {sa : BitVec 6} {num : BitVec 32} {s : State} (hs : s.inv = true) : Out.keeps
    (execMtc h sa num s) := by
  unfold execMtc
  try dsimp only
  repeat' first
    | (with_reducible first | assumption | apply issueC_keeps)
    | intro _ | split

theorem execFret_keeps {h : Head} {s : State} (hs : s.inv = true) : Out.keeps (execFret h s) := by
  unfold execFret
  try dsimp only
  repeat' first
    | (with_reducible first
        | assumption | exact Act.fault_keeps | (apply Act.go_keeps <;> (try intro _ _)) | apply issue_keeps
        | apply State.setCtx_inv | apply State.setCtx_inv)
    | intro _ | split

theorem execPset_keeps {h : Head} {pd : BitVec 3} {cond : BitVec 3} {sa : BitVec 6} {sb : BitVec 6} {s : State}
    (hs : s.inv = true) : Out.keeps (execPset h pd cond sa sb s) := by
  unfold execPset
  try dsimp only
  repeat' first
    | (with_reducible first | assumption | apply issueC_keeps)
    | intro _ | split

theorem execPseti_keeps {h : Head} {pd : BitVec 3} {cond : BitVec 3} {sa : BitVec 6} {imm : BitVec 29} {s :
    State} (hs : s.inv = true) : Out.keeps (execPseti h pd cond sa imm s) := by
  unfold execPseti
  try dsimp only
  repeat' first
    | (with_reducible first | assumption | apply issueC_keeps)
    | intro _ | split

theorem execPlog_keeps {h : Head} {pd : BitVec 3} {pa : BitVec 3} {pb : BitVec 3} {func : BitVec 2} {s : State}
    (hs : s.inv = true) : Out.keeps (execPlog h pd pa pb func s) := by
  unfold execPlog
  try dsimp only
  repeat' first
    | (with_reducible first | assumption | apply issueC_keeps)
    | intro _ | split

theorem execLds_keeps {h : Head} {sd : BitVec 6} {sa : BitVec 6} {size : BitVec 2} {imm : BitVec 32} {sram :
    Sram} {s : State} (hs : s.inv = true) : Out.keeps (execLds h sd sa size imm sram s) := by
  unfold execLds
  try dsimp only
  repeat' first
    | (with_reducible first
        | assumption | exact Act.fault_keeps | (apply Act.go_keeps <;> (try intro _ _)) | apply issue_keeps
        | apply State.sramFail_inv | apply State.sramNote_inv | apply State.setCtx_inv | apply State.setCtx_inv)
    | intro _ | split

theorem execSts_keeps {h : Head} {sd : BitVec 6} {sa : BitVec 6} {size : BitVec 2} {imm : BitVec 32} {s : State}
    (hs : s.inv = true) : Out.keeps (execSts h sd sa size imm s) := by
  unfold execSts
  try dsimp only
  repeat' first
    | (with_reducible first
        | assumption | exact Act.fault_keeps | (apply Act.go_keeps <;> (try intro _ _)) | apply issue_keeps
        | apply State.advance_inv | apply State.wrLocal_inv)
    | intro _ | split

theorem execTrap_keeps {h : Head} {s : State} (hs : s.inv = true) : Out.keeps (execTrap h s) := by
  unfold execTrap
  try dsimp only
  repeat' first
    | (with_reducible first | assumption | exact Act.fault_keeps | apply issue_keeps)
    | intro _ | split

theorem execRdtime_keeps {h : Head} {sd : BitVec 6} {s : State} (hs : s.inv = true) : Out.keeps (execRdtime h sd
    s) := by
  unfold execRdtime
  try dsimp only
  repeat' first
    | (with_reducible first
        | assumption | (apply Act.go_keeps <;> (try intro _ _)) | apply issue_keeps | apply State.drawTime_inv
        | apply State.tile_wf | apply State.setTile_inv | apply State.setCtx_inv)
    | simp only [Tile.lit_wf]
    | (with_reducible first
        | apply State.tile_wf | apply State.setTile_inv | apply State.setCtx_inv | apply Tile.memOk)
    | intro _ | split

theorem execContextSwitchToL_keeps {tile : Nat} {fcost : Nat} {lcost : Nat} {s : State} (hs : s.inv = true) :
    Out.keeps (execContextSwitchToL tile fcost lcost s) := by
  unfold execContextSwitchToL
  try dsimp only
  repeat' first
    | (with_reducible first
        | assumption | apply next_keeps | apply within_keeps | apply State.tile_wf | apply State.setTile_inv)
    | simp only [Tile.lit_wf]
    | (with_reducible first | apply ite_inv | apply State.tile_wf | apply State.setTile_inv | apply Tile.memOk)
    | intro _ | split

theorem execContextSwitchToF_keeps {tile : Nat} {fcost : Nat} {lcost : Nat} {s : State} (hs : s.inv = true) :
    Out.keeps (execContextSwitchToF tile fcost lcost s) := by
  unfold execContextSwitchToF
  try dsimp only
  repeat' first
    | (with_reducible first
        | assumption | apply next_keeps | apply within_keeps | apply State.tile_wf | apply State.setTile_inv)
    | simp only [Tile.lit_wf]
    | (with_reducible first | apply ite_inv | apply State.tile_wf | apply State.setTile_inv | apply Tile.memOk)
    | intro _ | split

end Sys2Proof.Machine
end

