-- ==== Sys2Proof/Laws/KeepFabric.lean ====
section
/-! SUPPORT. The definitions of Machine/Fabric.lean keep the invariant State.inv of Safety.lean: one lemma each. -/

namespace Sys2Proof.Machine

theorem State.setFab_inv {s : State} {f : Fabric} (hs : s.inv = true) : (State.setFab s f).inv = true := by
  unfold State.setFab
  try dsimp only
  repeat' first
    | (with_reducible first | assumption)
    | (simp only [State.lit_inv]; refine ⟨?_, ?_, ?_, ?_, ?_, ?_, ?_, ?_, ?_⟩)
    | (with_reducible first
        | apply State.inv_mem | apply State.inv_regs | apply State.inv_asks | apply State.inv_tiles
        | apply State.inv_each | apply State.inv_counters | apply State.inv_chans | apply State.inv_tags
        | apply State.inv_wear)
    | intro _ | split

theorem State.setEdge_inv {s : State} {n : Nat} {x : EdgeSwitch} (hs : s.inv = true) : (State.setEdge s n x).inv
    = true := by
  unfold State.setEdge
  try dsimp only
  repeat' first
    | (with_reducible first | assumption | apply State.setFab_inv)
    | intro _ | split

theorem State.setLink_inv {s : State} {n : Nat} {k : Nat} {l : Link} (hs : s.inv = true) : (State.setLink s n k
    l).inv = true := by
  unfold State.setLink
  try dsimp only
  repeat' first
    | (with_reducible first | assumption | apply State.setFab_inv)
    | intro _ | split

theorem State.setRouter_inv {s : State} {r : Nat} {x : Router} (hs : s.inv = true) : (State.setRouter s r x).inv
    = true := by
  unfold State.setRouter
  try dsimp only
  repeat' first
    | (with_reducible first | assumption | apply State.setFab_inv)
    | intro _ | split

theorem State.dropFlit_inv {s : State} {sp : Nat} {reason : Nat} {f : Flit} (hs : s.inv = true) :
    (State.dropFlit s sp reason f).inv = true := by
  unfold State.dropFlit
  try dsimp only
  repeat' first
    | (with_reducible first
        | assumption | apply State.bump_inv | apply State.setReg_inv | apply State.setFab_inv
        | apply State.drawTime_inv | apply State.log_inv | apply State.draw_inv | apply ite_inv)
    | intro _ | split

theorem State.dwRoute_inv {s : State} {r : Nat} {f : Flit} {fromHere : Bool} (hs : s.inv = true) :
    (State.dwRoute s r f fromHere).inv = true := by
  unfold State.dwRoute
  try dsimp only
  repeat' first
    | (with_reducible first
        | assumption | apply State.dropFlit_inv | apply State.setFab_inv | apply State.setRouter_inv | apply ite_inv)
    | intro _ | split

theorem State.dropQueued_inv {s : State} {r : Nat} {fs : List Flit} (hs : s.inv = true) : (State.dropQueued s r
    fs).inv = true := by
  unfold State.dropQueued
  try dsimp only
  repeat' first
    | (with_reducible first | assumption | apply State.setEdge_inv)
    | intro _ | split

theorem State.takeWaiting_inv {s : State} {r : Nat} {cls : Nat} (hs : s.inv = true) : (State.takeWaiting s r
    cls).inv = true := by
  unfold State.takeWaiting
  try dsimp only
  repeat' first
    | (with_reducible first | assumption | apply State.dropQueued_inv | apply State.setFab_inv)
    | intro _ | split

theorem Placing.send_inv {p : Placing} {o : Nat} {f : Flit} (hp : p.s.inv = true) : (Placing.send p o f).s.inv =
    true := by
  unfold Placing.send
  try dsimp only
  repeat' first
    | (with_reducible first | assumption)
    | intro _ | split

theorem Placing.place_inv {p : Placing} {r : Nat} {came : Came} {f : Flit} (hp : p.s.inv = true) :
    (Placing.place p r came f).s.inv = true := by
  unfold Placing.place
  try dsimp only
  repeat' first
    | (with_reducible first
        | assumption | apply State.dropFlit_inv | apply State.setFab_inv | apply Placing.send_inv
        | apply State.bump_inv)
    | intro _ | split

theorem State.putWaiting_inv {s : State} {r : Nat} {edge : List Flit} {locals : List Flit} (hs : s.inv = true) :
    (State.putWaiting s r edge locals).inv = true := by
  unfold State.putWaiting
  try dsimp only
  repeat' first
    | (with_reducible first | assumption | apply State.setFab_inv | apply State.setEdge_inv)
    | intro _ | split

theorem State.placeClass_inv {s : State} {r : Nat} {cls : Nat} {arrived : List (Nat × Flit)} {carried : List
    Flit} (hs : s.inv = true) : (State.placeClass s r cls arrived carried).1.inv = true := by
  unfold State.placeClass
  have h1 : ∀ (l : List Flit) (c : Came) (p : Placing), p.s.inv = true →
      (l.foldl (fun p f => p.place r c f) p).s.inv = true := fun l c p hp =>
    foldl_prop (P := fun (p : Placing) => p.s.inv = true) (fun _ _ h => Placing.place_inv h) hp
  have h2 : ∀ (l : List (Nat × Flit)) (p : Placing), p.s.inv = true →
      (l.foldl (fun p e => p.place r .mesh e.2) p).s.inv = true := fun l p hp =>
    foldl_prop (P := fun (p : Placing) => p.s.inv = true) (fun _ _ h => Placing.place_inv h) hp
  have hp := h1 (s.edgeQueued r cls) .edge _ (h2 (sortBy (arrivalRank s.fab.tick 4) arrived) _
    (h1 carried .mesh { s := s.takeWaiting r cls, free := s.freeSlots r cls, eject := 8, sent := [], carried := [], waits := [] }
      (State.takeWaiting_inv hs)))
  dsimp only
  generalize List.foldl _ _ (s.edgeQueued r cls) = pe at hp ⊢
  refine State.setRouter_inv (State.putWaiting_inv ?_)
  unfold Placing.inject
  exact foldl_prop (P := fun (a : Placing × Nat) => a.1.s.inv = true) (fun _ _ h => Placing.place_inv h) hp

theorem State.placeRouter_inv {s : State} {r : Nat} (hs : s.inv = true) : (State.placeRouter s r).1.inv = true := by
  unfold State.placeRouter
  try dsimp only
  repeat' first
    | (with_reducible first
        | assumption | apply State.setRouter_inv | apply State.dropFlit_inv | apply State.dwRoute_inv
        | apply State.takeWaiting_inv | apply State.placeClass_inv | (apply foldl_inv <;> (try intro _ _ _)))
    | intro _ | split

theorem State.arriveFlit_inv {s : State} {r : Nat} {e : Nat × Flit} (hs : s.inv = true) : (State.arriveFlit s r
    e).inv = true := by
  unfold State.arriveFlit
  try dsimp only
  repeat' first
    | (with_reducible first | assumption | apply State.setRouter_inv | apply State.setEdge_inv)
    | intro _ | split

theorem State.fclk_inv {s : State} (hs : s.inv = true) : (State.fclk s).inv = true := by
  unfold State.fclk
  try dsimp only
  repeat' first
    | (with_reducible first
        | assumption | apply State.placeRouter_inv | apply State.arriveFlit_inv | apply State.setFab_inv
        | (apply foldl_inv <;> (try intro _ _ _)) | (apply foldl_inv1 <;> (try intro _ _ _)))
    | intro _ | split

theorem State.linkHits_inv {s : State} {hits : List (Nat × Nat × Bool)} (hs : s.inv = true) : (State.linkHits s
    hits).inv = true := by
  unfold State.linkHits
  try dsimp only
  repeat' first
    | (with_reducible first
        | assumption | apply State.dropFlit_inv | apply State.setRouter_inv | apply State.bump_inv
        | apply State.dropQueued_inv | (apply foldl_inv <;> (try intro _ _ _)) | apply ite_inv)
    | intro _ | split

theorem execRouterPlacement_keeps {hits : List (Nat × Nat × Bool)} {s : State} (hs : s.inv = true) : Out.keeps
    (execRouterPlacement hits s) := by
  unfold execRouterPlacement
  try dsimp only
  repeat' first
    | (with_reducible first
        | assumption | apply next_keeps | apply State.fclk_inv | apply State.linkHits_inv | apply ite_inv)
    | intro _ | split

theorem State.placeEdgeDw_inv {s : State} {n : Nat} {f : Flit} (hs : s.inv = true) : (State.placeEdgeDw s n
    f).inv = true := by
  unfold State.placeEdgeDw
  try dsimp only
  repeat' first
    | (with_reducible first | assumption | apply State.dropFlit_inv | apply State.setEdge_inv | apply ite_inv)
    | intro _ | split

theorem State.placeEdge_inv {s : State} {n : Nat} {f : Flit} (hs : s.inv = true) : (State.placeEdge s n f).inv =
    true := by
  unfold State.placeEdge
  try dsimp only
  repeat' first
    | (with_reducible first
        | assumption | apply State.dropFlit_inv | apply State.setEdge_inv | apply State.bump_inv | apply ite_inv)
    | intro _ | split

theorem State.sendBlock_inv {s : State} {n : Nat} {k : Nat} (hs : s.inv = true) : (State.sendBlock s n k).inv =
    true := by
  unfold State.sendBlock
  try dsimp only
  repeat' first
    | (with_reducible first
        | assumption | apply State.draw_inv | apply State.setLink_inv | apply State.setEdge_inv | apply ite_inv)
    | intro _ | split

theorem execEdgeSwitchPlacement_keeps {n : Nat} {hits : List (Nat × Bool)} {s : State} (hs : s.inv = true) :
    Out.keeps (execEdgeSwitchPlacement n hits s) := by
  unfold execEdgeSwitchPlacement
  try dsimp only
  repeat' first
    | (with_reducible first
        | assumption | apply next_keeps | apply within_keeps | apply State.dropFlit_inv | apply State.setEdge_inv
        | apply State.bump_inv | apply State.setFab_inv | apply State.placeEdgeDw_inv | apply State.placeEdge_inv
        | apply State.sendBlock_inv | (apply foldl_inv <;> (try intro _ _ _)) | apply ite_inv)
    | intro _ | split

theorem execLinkBlockReceived_keeps {n : Nat} {k : Nat} {block : List Byte} {s : State} (hs : s.inv = true) :
    Out.keeps (execLinkBlockReceived n k block s) := by
  unfold execLinkBlockReceived
  try dsimp only
  repeat' first
    | (with_reducible first
        | assumption | apply next_keeps | apply within_keeps | apply State.setLink_inv | apply State.setEdge_inv
        | apply State.bump_inv | apply ite_inv)
    | intro _ | split

theorem State.replay_inv {s : State} {n : Nat} {k : Nat} (hs : s.inv = true) : (State.replay s n k).inv = true := by
  unfold State.replay
  try dsimp only
  repeat' first
    | (with_reducible first
        | assumption | apply State.bump_inv | apply State.penalise_inv | apply State.setLink_inv | apply ite_inv)
    | intro _ | split

theorem State.flipEpoch_inv {s : State} (hs : s.inv = true) : (State.flipEpoch s).inv = true := by
  unfold State.flipEpoch
  try dsimp only
  repeat' first
    | (with_reducible first | assumption | apply State.put_inv)
    | intro _ | split

theorem execRtepochFlip_keeps {s : State} (hs : s.inv = true) : Out.keeps (execRtepochFlip s) := by
  unfold execRtepochFlip
  try dsimp only
  repeat' first
    | (with_reducible first | assumption | apply next_keeps | apply State.flipEpoch_inv | apply ite_inv)
    | intro _ | split

theorem execEpochHoldEnd_keeps {s : State} (hs : s.inv = true) : Out.keeps (execEpochHoldEnd s) := by
  unfold execEpochHoldEnd
  try dsimp only
  repeat' first
    | (with_reducible first | assumption | apply next_keeps | apply State.put_inv)
    | intro _ | split

theorem State.epochBusy_inv {s : State} (hs : s.inv = true) : (State.epochBusy s).inv = true := by
  unfold State.epochBusy
  try dsimp only
  repeat' first
    | (with_reducible first | assumption | apply State.log_inv | apply State.put_inv)
    | intro _ | split

theorem State.requestFlip_inv {s : State} (hs : s.inv = true) : (State.requestFlip s).inv = true := by
  unfold State.requestFlip
  try dsimp only
  repeat' first
    | (with_reducible first | assumption | apply State.epochBusy_inv | apply State.put_inv | apply ite_inv)
    | intro _ | split

end Sys2Proof.Machine
end

