-- ==== Sys2Proof/Laws/KeepHostOps.lean ====
section
/-! SUPPORT. The definitions of Machine/HostOps.lean keep the invariant State.inv of Safety.lean: one lemma each. -/

namespace Sys2Proof.Machine

theorem State.setHost_inv {s : State} {h : HostLink} (hs : s.inv = true) : (State.setHost s h).inv = true := by
  unfold State.setHost
  try dsimp only
  repeat' first
    | (with_reducible first | assumption)
    | (simp only [State.lit_inv]; refine ⟨?_, ?_, ?_, ?_, ?_, ?_, ?_, ?_, ?_⟩)
    | (with_reducible first
        | apply State.inv_mem | apply State.inv_regs | apply State.inv_asks | apply State.inv_tiles
        | apply State.inv_each | apply State.inv_counters | apply State.inv_chans | apply State.inv_tags
        | apply State.inv_wear)
    | intro _ | split

theorem State.setCmd_inv {s : State} {c : HostCmd} (hs : s.inv = true) : (State.setCmd s c).inv = true := by
  unfold State.setCmd
  try dsimp only
  repeat' first
    | (with_reducible first | assumption | apply State.setHost_inv)
    | intro _ | split

theorem State.endContext_inv {s : State} {t : Nat} {c : Ctxt} (hs : s.inv = true) : (State.endContext s t c).inv
    = true := by
  unfold State.endContext
  try dsimp only
  repeat' first
    | (with_reducible first
        | assumption | apply State.setCtx_inv | apply State.log_inv | apply State.tile_wf | apply State.setTile_inv
        | apply State.setCmd_inv | apply State.arriveAt_inv)
    | simp only [Tile.lit_wf]
    | (with_reducible first
        | apply ite_inv | apply State.tile_wf | apply State.setTile_inv | apply State.setCtx_inv | apply Tile.memOk)
    | intro _ | split

theorem execContextEnded_keeps {tile : Nat} {ctx : Ctxt} {s : State} (hs : s.inv = true) : Out.keeps
    (execContextEnded tile ctx s) := by
  unfold execContextEnded
  try dsimp only
  repeat' first
    | (with_reducible first
        | assumption | apply next_keeps | apply within_keeps | apply State.endContext_inv | apply ite_inv)
    | intro _ | split

theorem State.stopCmd_inv {s : State} {c : HostCmd} {status : Nat} {info : Nat} (hs : s.inv = true) :
    (State.stopCmd s c status info).inv = true := by
  unfold State.stopCmd
  try dsimp only
  repeat' first
    | (with_reducible first | assumption | apply State.setCmd_inv)
    | intro _ | split

theorem State.recordBack_inv {s : State} {r : Nat} (hs : s.inv = true) : (State.recordBack s r).inv = true := by
  unfold State.recordBack
  try dsimp only
  repeat' first
    | (with_reducible first | assumption | apply State.setHost_inv | apply State.put_inv)
    | intro _ | split

theorem State.eventBack_inv {s : State} (hs : s.inv = true) : (State.eventBack s).inv = true := by
  unfold State.eventBack
  try dsimp only
  repeat' first
    | (with_reducible first | assumption | apply State.setHost_inv | apply State.put_inv)
    | intro _ | split

theorem State.bindQueue_inv {s : State} {q : Nat} {die : Nat} (hs : s.inv = true) : (State.bindQueue s q
    die).inv = true := by
  unfold State.bindQueue
  try dsimp only
  repeat' first
    | (with_reducible first | assumption)
    | (simp only [State.lit_inv]; refine ⟨?_, ?_, ?_, ?_, ?_, ?_, ?_, ?_, ?_⟩)
    | (with_reducible first
        | apply State.inv_mem | apply State.inv_regs | apply State.inv_asks | apply State.inv_tiles
        | apply State.inv_each | apply State.inv_counters | apply State.inv_chans | apply State.inv_tags
        | apply State.inv_wear)
    | intro _ | split

theorem State.hostFailed_inv {s : State} {m : OutMsg} (hs : s.inv = true) : (State.hostFailed s m).inv = true := by
  unfold State.hostFailed
  try dsimp only
  repeat' first
    | (with_reducible first
        | assumption | apply State.setHost_inv | apply State.stopCmd_inv | apply State.recordBack_inv
        | apply State.eventBack_inv | apply State.bindQueue_inv)
    | intro _ | split

theorem State.hostAnswer_inv {s : State} {m : InMsg} {kind : Nat} {data : List Byte} (hs : s.inv = true) :
    (State.hostAnswer s m kind data).inv = true := by
  unfold State.hostAnswer
  try dsimp only
  repeat' first
    | (with_reducible first | assumption | apply State.post_inv)
    | intro _ | split

theorem State.hostSend_inv {s : State} {die : Nat} {kind : Nat} {what : HWhat} {data : List Byte} (hs : s.inv =
    true) : (State.hostSend s die kind what data).inv = true := by
  unfold State.hostSend
  try dsimp only
  repeat' first
    | (with_reducible first | assumption | apply State.post_inv)
    | (simp only [State.lit_inv]; refine ⟨?_, ?_, ?_, ?_, ?_, ?_, ?_, ?_, ?_⟩)
    | (with_reducible first
        | apply State.inv_mem | apply State.inv_regs | apply State.inv_asks | apply State.inv_tiles
        | apply State.inv_each | apply State.inv_counters | apply State.inv_chans | apply State.inv_tags
        | apply State.inv_wear)
    | intro _ | split

theorem State.complete_inv {s : State} {c : HostCmd} {status : Nat} (hs : s.inv = true) : (State.complete s c
    status).inv = true := by
  unfold State.complete
  try dsimp only
  repeat' first
    | (with_reducible first | assumption | apply State.setHost_inv)
    | intro _ | split

theorem State.fillGo_inv {id : Nat} {y1 : Nat} {y2 : State} (hy2 : y2.inv = true) : (State.fillGo id y1 y2).inv
    = true := by
  induction y1 generalizing y2 with
  | zero => exact hy2
  | succ f ih =>
    unfold State.fillGo
    dsimp only
    split
    · exact hy2
    · split
      · exact hy2
      · split
        · exact State.stopCmd_inv (State.devWrite_inv hy2)
        · exact ih (State.setCmd_inv (State.devWrite_inv hy2))

theorem State.dmaOut_inv {s : State} {c : HostCmd} {n : Nat} (hs : s.inv = true) : (State.dmaOut s c n).inv =
    true := by
  unfold State.dmaOut
  try dsimp only
  repeat' first
    | (with_reducible first
        | assumption | apply State.devRead_inv | apply State.hostSend_inv | apply State.stopCmd_inv | apply ite_inv)
    | intro _ | split

theorem State.dmaStep_inv {s : State} {id : Nat} (hs : s.inv = true) : (State.dmaStep s id).inv = true := by
  unfold State.dmaStep
  try dsimp only
  repeat' first
    | (with_reducible first | assumption | apply State.hostSend_inv | apply State.dmaOut_inv | apply ite_inv)
    | intro _ | split

end Sys2Proof.Machine
end

