-- ==== Sys2Proof/Laws/KeepStreams.lean ====
section
/-! SUPPORT. The definitions of Machine/Streams.lean keep the invariant State.inv of Safety.lean: one lemma each. -/

namespace Sys2Proof.Machine

theorem State.copyEnds_inv {s : State} {k : Nat} {x : Copy} {st : Nat} {out : Nat} {f : FaultAt} (hs : s.inv =
    true) : (State.copyEnds s k x st out f).inv = true := by
  unfold State.copyEnds
  try dsimp only
  repeat' first
    | (with_reducible first
        | assumption | apply State.setTile_inv | apply Tile.restore_wf | apply State.tile_wf
        | apply State.setChan_inv | apply State.unitFaultAt_inv | (apply foldl_inv <;> (try intro _ _ _))
        | apply State.tile_wf | apply State.setTile_inv)
    | intro _ | split

theorem State.copyFault_inv {s : State} {k : Nat} {x : Copy} {f : FaultAt} (hs : s.inv = true) :
    (State.copyFault s k x f).inv = true := by
  unfold State.copyFault
  try dsimp only
  repeat' first
    | (with_reducible first | assumption | apply State.copyEnds_inv)
    | intro _ | split

theorem State.setOp_inv {s : State} {t : Nat} {o : UOp} (hs : s.inv = true) : (State.setOp s t o).inv = true := by
  unfold State.setOp
  try dsimp only
  repeat' first
    | (with_reducible first
        | assumption | apply State.setTile_inv | apply Tile.setOp_wf | apply State.tile_wf | apply State.tile_wf
        | apply State.setTile_inv)
    | intro _ | split

theorem State.putCopy_inv {s : State} {k : Nat} {c : Copy} (hs : s.inv = true) : (State.putCopy s k c).inv =
    true := by
  unfold State.putCopy
  try dsimp only
  repeat' first
    | (with_reducible first | assumption | apply State.setChan_inv)
    | intro _ | split

theorem State.readOn_inv {s : State} {k : Nat} (hs : s.inv = true) : (State.readOn s k).inv = true := by
  unfold State.readOn
  try dsimp only
  repeat' first
    | (with_reducible first | assumption | apply State.sendRead_inv | apply State.putCopy_inv | apply ite_inv)
    | intro _ | split

theorem State.after_inv {s : State} {t : Nat} {c : Ctxt} (hs : s.inv = true) : (State.after s t c).inv = true := by
  unfold State.after
  try dsimp only
  repeat' first
    | (with_reducible first | assumption | apply State.flushArrives_inv | apply State.settle_inv)
    | intro _ | split

theorem State.chanAct_inv {s : State} {k : Nat} {action : Nat} (hs : s.inv = true) : (State.chanAct s k
    action).inv = true := by
  unfold State.chanAct
  try dsimp only
  repeat' first
    | (with_reducible first
        | assumption | apply State.readOn_inv | apply State.after_inv | apply State.setChan_inv
        | (apply foldl_inv <;> (try intro _ _ _)))
    | intro _ | split

theorem State.runChan_inv {s : State} {t : Nat} {o : UOp} (hs : s.inv = true) : (State.runChan s t o).inv = true := by
  unfold State.runChan
  try dsimp only
  repeat' first
    | (with_reducible first
        | assumption | apply State.setCtx_inv | apply State.chanAct_inv | apply ite_inv | apply State.setCtx_inv)
    | intro _ | split

theorem State.runNarrow_inv {s : State} {t : Nat} {o : UOp} {sram : Sram} (hs : s.inv = true) : (State.runNarrow
    s t o sram).inv = true := by
  unfold State.runNarrow
  try dsimp only
  repeat' first
    | (with_reducible first
        | assumption | apply State.unitFaultAt_inv | apply State.sramNote_inv | apply State.sendRop_inv
        | apply State.setOp_inv | apply State.devRead_inv | apply State.wrLocal_inv | apply State.devWrite_inv
        | apply State.atomic_inv | apply ite_inv)
    | intro _ | split

theorem State.startN_inv {s : State} {t : Nat} {o : UOp} {sram : Sram} (hs : s.inv = true) : (State.startN s t o
    sram).inv = true := by
  unfold State.startN
  try dsimp only
  repeat' first
    | (with_reducible first
        | assumption | apply State.sramFail_inv | apply State.runChan_inv | apply State.markStarted_inv
        | apply State.runNarrow_inv | apply ite_inv)
    | intro _ | split

theorem copyAct_keeps {h : Head} {w : Nat} {s : State} (hs : s.inv = true) : Act.keeps (copyAct h w s) := by
  unfold copyAct
  try dsimp only
  repeat' first
    | (with_reducible first
        | assumption | exact Act.fault_keeps | apply Act.hold_keeps | (apply Act.go_keeps <;> (try intro _ _))
        | apply State.setCtx_inv | apply State.sramFail_inv | apply State.sramNote_inv | apply State.tile_wf
        | apply State.setTile_inv | apply State.advance_inv | apply State.setChan_inv)
    | (simp only [State.lit_inv]; refine ⟨?_, ?_, ?_, ?_, ?_, ?_, ?_, ?_, ?_⟩)
    | simp only [Tile.lit_wf]
    | (with_reducible first
        | apply State.inv_mem | apply State.inv_regs | apply State.inv_asks | apply State.inv_tiles
        | apply State.inv_each | apply State.inv_counters | apply State.inv_chans | apply State.inv_tags
        | apply State.inv_wear | apply State.tile_wf | apply State.setTile_inv | apply State.setCtx_inv
        | apply Tile.memOk)
    | intro _ | split

theorem execCopy_keeps {h : Head} {f : DF} {s : State} (hs : s.inv = true) : Out.keeps (execCopy h f s) := by
  unfold execCopy
  try dsimp only
  repeat' first
    | (with_reducible first | assumption | apply issue_keeps | apply copyAct_keeps)
    | intro _ | split

theorem State.resume_inv {s : State} {t : Nat} {c : Ctxt} {act : State → Act} (hs : s.inv = true) (hact : ∀ u,
    u.inv = true → (act u).keeps) : (State.resume s t c act).inv = true := by
  unfold State.resume
  try dsimp only
  repeat' first
    | (with_reducible first
        | assumption | apply State.setCtx_inv | apply State.perform_inv | apply hact | apply ite_inv
        | apply State.setCtx_inv)
    | intro _ | split

theorem execCopyQueueFullStall_keeps {tile : Nat} {ctx : Ctxt} {s : State} (hs : s.inv = true) : Out.keeps
    (execCopyQueueFullStall tile ctx s) := by
  unfold execCopyQueueFullStall
  try dsimp only
  repeat' first
    | (with_reducible first
        | assumption | apply next_keeps | apply within_keeps | apply State.resume_inv | apply copyAct_keeps
        | apply ite_inv)
    | intro _ | split

theorem State.copySram_inv {s : State} {c : Copy} {sram : Sram} (hs : s.inv = true) : (State.copySram s c
    sram).inv = true := by
  unfold State.copySram
  try dsimp only
  repeat' first
    | (with_reducible first | assumption | apply State.sramFail_inv | apply State.sramNote_inv)
    | intro _ | split

theorem State.startCopy_inv {s : State} {k : Nat} {c : Copy} {sram : Sram} (hs : s.inv = true) :
    (State.startCopy s k c sram).inv = true := by
  unfold State.startCopy
  try dsimp only
  repeat' first
    | (with_reducible first
        | assumption | apply Tile.takeToken_wf | apply State.tile_wf | apply State.copySram_inv
        | apply State.setTile_inv | apply State.putCopy_inv | apply State.readOn_inv | apply State.grantRaw_inv
        | apply State.copyFault_inv | apply ite_inv | apply State.tile_wf | apply State.setTile_inv)
    | intro _ | split

theorem execCopyStart_keeps {cluster : Nat} {chan : Nat} {sram : Sram} {s : State} (hs : s.inv = true) :
    Out.keeps (execCopyStart cluster chan sram s) := by
  unfold execCopyStart
  try dsimp only
  repeat' first
    | (with_reducible first
        | assumption | apply next_keeps | apply within_keeps | apply State.startCopy_inv | apply ite_inv)
    | intro _ | split

theorem State.grantChan_inv {s : State} {k : Nat} {x : Copy} {sram : Sram} (hs : s.inv = true) :
    (State.grantChan s k x sram).inv = true := by
  unfold State.grantChan
  try dsimp only
  repeat' first
    | (with_reducible first
        | assumption | apply State.setChan_inv | apply State.copySram_inv | apply State.grant_inv
        | apply State.copyFault_inv | apply State.readOn_inv | apply State.putCopy_inv | apply ite_inv)
    | intro _ | split

theorem State.copyDone_inv {s : State} {k : Nat} {c : Copy} (hs : s.inv = true) : (State.copyDone s k c).inv =
    true := by
  unfold State.copyDone
  try dsimp only
  repeat' first
    | (with_reducible first
        | assumption | apply State.wrLocal_inv | apply State.setChan_inv | apply State.sendArrival_inv
        | apply State.tile_wf | apply State.copyEnds_inv | apply State.after_inv | apply State.setTile_inv
        | apply Tile.signal_wf | apply ite_inv | apply State.tile_wf | apply State.setTile_inv)
    | intro _ | split

theorem execCopyComplete_keeps {cluster : Nat} {chan : Nat} {s : State} (hs : s.inv = true) : Out.keeps
    (execCopyComplete cluster chan s) := by
  unfold execCopyComplete
  try dsimp only
  repeat' first
    | (with_reducible first
        | assumption | apply next_keeps | apply within_keeps | apply State.copyDone_inv | apply ite_inv)
    | intro _ | split

theorem narrowAct_keeps {h : Head} {w : Nat} {s : State} (hs : s.inv = true) : Act.keeps (narrowAct h w s) := by
  unfold narrowAct
  try dsimp only
  repeat' first
    | (with_reducible first
        | assumption | exact Act.fault_keeps | apply Act.hold_keeps | (apply Act.go_keeps <;> (try intro _ _))
        | apply State.setCtx_inv | apply State.advance_inv | apply State.enqueue_inv | apply State.setCtx_inv)
    | intro _ | split

theorem execLdn_keeps {h : Head} {f : DF} {s : State} (hs : s.inv = true) : Out.keeps (execLdn h f s) := by
  unfold execLdn
  try dsimp only
  repeat' first
    | (with_reducible first | assumption | apply issue_keeps | apply narrowAct_keeps)
    | intro _ | split

theorem execStn_keeps {h : Head} {f : DF} {s : State} (hs : s.inv = true) : Out.keeps (execStn h f s) := by
  unfold execStn
  try dsimp only
  repeat' first
    | (with_reducible first | assumption | apply issue_keeps | apply narrowAct_keeps)
    | intro _ | split

theorem execNarrowComplete_keeps {tile : Nat} {seq : Nat} {s : State} (hs : s.inv = true) : Out.keeps
    (execNarrowComplete tile seq s) := by
  unfold execNarrowComplete
  try dsimp only
  repeat' first
    | (with_reducible first
        | assumption | apply next_keeps | apply within_keeps | apply State.completeOp_inv | apply ite_inv)
    | intro _ | split

theorem execNarrowPathFullStall_keeps {tile : Nat} {ctx : Ctxt} {s : State} (hs : s.inv = true) : Out.keeps
    (execNarrowPathFullStall tile ctx s) := by
  unfold execNarrowPathFullStall
  try dsimp only
  repeat' first
    | (with_reducible first
        | assumption | apply next_keeps | apply within_keeps | apply State.resume_inv | apply narrowAct_keeps
        | apply ite_inv)
    | intro _ | split

theorem execAtom_keeps {h : Head} {f : DF} {s : State} (hs : s.inv = true) : Out.keeps (execAtom h f s) := by
  unfold execAtom
  try dsimp only
  repeat' first
    | (with_reducible first | assumption | apply issue_keeps | apply narrowAct_keeps)
    | intro _ | split

theorem issueChan_keeps {op : Nat} {h : Head} {f : DF} {s : State} (hs : s.inv = true) : Out.keeps (issueChan op
    h f s) := by
  unfold issueChan
  try dsimp only
  repeat' first
    | (with_reducible first
        | assumption | (apply Act.go_keeps <;> (try intro _ _)) | apply issue_keeps | apply State.startN_inv
        | apply State.advance_inv | apply State.enqueue_inv)
    | intro _ | split

theorem execChrd_keeps {h : Head} {f : DF} {s : State} (hs : s.inv = true) : Out.keeps (execChrd h f s) := by
  unfold execChrd
  try dsimp only
  repeat' first
    | (with_reducible first | assumption | apply issueChan_keeps)
    | intro _ | split

theorem execChctlPause_keeps {h : Head} {f : DF} {s : State} (hs : s.inv = true) : Out.keeps (execChctlPause h f
    s) := by
  unfold execChctlPause
  try dsimp only
  repeat' first
    | (with_reducible first | assumption | apply issueChan_keeps)
    | intro _ | split

theorem execChctlResume_keeps {h : Head} {f : DF} {s : State} (hs : s.inv = true) : Out.keeps (execChctlResume h
    f s) := by
  unfold execChctlResume
  try dsimp only
  repeat' first
    | (with_reducible first | assumption | apply issueChan_keeps)
    | intro _ | split

theorem execChctlAbort_keeps {h : Head} {f : DF} {s : State} (hs : s.inv = true) : Out.keeps (execChctlAbort h f
    s) := by
  unfold execChctlAbort
  try dsimp only
  repeat' first
    | (with_reducible first | assumption | apply issueChan_keeps)
    | intro _ | split

end Sys2Proof.Machine
end

