-- ==== Sys2Proof/Laws/KeepMessages.lean ====
section
/-! SUPPORT. The definitions of Machine/Messages.lean keep the invariant State.inv of Safety.lean: one lemma each. -/

namespace Sys2Proof.Machine

theorem State.dropIn_inv {s : State} {n : Nat} (hs : s.inv = true) : (State.dropIn s n).inv = true := by
  unfold State.dropIn
  try dsimp only
  repeat' first
    | (with_reducible first | assumption | apply State.setFab_inv)
    | intro _ | split

theorem State.takeLanded_inv {s : State} {n : Nat} {ok : Flit → Bool} {k : Flit → State → State} (hs : s.inv =
    true) (hk : ∀ x u, u.inv = true → (k x u).inv = true) : (State.takeLanded s n ok k).inv = true := by
  unfold State.takeLanded
  try dsimp only
  repeat' first
    | (with_reducible first | assumption | apply State.setFab_inv | apply hok | apply hk | apply ite_inv)
    | intro _ | split

theorem State.acked_inv {s : State} {k : StreamKey} {seq : Nat} (hs : s.inv = true) : (State.acked s k seq).inv
    = true := by
  unfold State.acked
  try dsimp only
  repeat' first
    | (with_reducible first | assumption | apply State.pump_inv)
    | (simp only [State.lit_inv]; refine ⟨?_, ?_, ?_, ?_, ?_, ?_, ?_, ?_, ?_⟩)
    | (with_reducible first
        | apply State.inv_mem | apply State.inv_regs | apply State.inv_asks | apply State.inv_tiles
        | apply State.inv_each | apply State.inv_counters | apply State.inv_chans | apply State.inv_tags
        | apply State.inv_wear)
    | intro _ | split

theorem State.takeAck_inv {s : State} {f : Flit} (hs : s.inv = true) : (State.takeAck s f).inv = true := by
  unfold State.takeAck
  try dsimp only
  repeat' first
    | (with_reducible first | assumption | apply State.acked_inv)
    | intro _ | split

theorem State.storeFlit_inv {s : State} {i : InStream} {f : Flit} (hs : s.inv = true) : (State.storeFlit s i
    f).inv = true := by
  unfold State.storeFlit
  try dsimp only
  repeat' first
    | (with_reducible first | assumption | apply State.setFab_inv | apply State.bump_inv | apply ite_inv)
    | intro _ | split

theorem State.refuseStream_inv {s : State} {f : Flit} {reason : Nat} (hs : s.inv = true) : (State.refuseStream s
    f reason).inv = true := by
  unfold State.refuseStream
  try dsimp only
  repeat' first
    | (with_reducible first | assumption | apply State.setFab_inv)
    | intro _ | split

theorem State.takeFlit_inv {s : State} {f : Flit} (hs : s.inv = true) : (State.takeFlit s f).inv = true := by
  unfold State.takeFlit
  try dsimp only
  repeat' first
    | (with_reducible first
        | assumption | apply State.takeAck_inv | apply State.storeFlit_inv | apply State.refuseStream_inv)
    | (simp only [State.lit_inv]; refine ⟨?_, ?_, ?_, ?_, ?_, ?_, ?_, ?_, ?_⟩)
    | (with_reducible first
        | apply ite_inv | apply State.inv_mem | apply State.inv_regs | apply State.inv_asks | apply State.inv_tiles
        | apply State.inv_each | apply State.inv_counters | apply State.inv_chans | apply State.inv_tags
        | apply State.inv_wear)
    | intro _ | split

theorem execMessageDelivery_keeps {n : Nat} {s : State} (hs : s.inv = true) : Out.keeps (execMessageDelivery n
    s) := by
  unfold execMessageDelivery
  try dsimp only
  repeat' first
    | (with_reducible first | assumption | apply next_keeps | apply State.takeLanded_inv | apply State.takeFlit_inv)
    | intro _ | split

theorem execAckSend_keeps {k : StreamKey} {s : State} (hs : s.inv = true) : Out.keeps (execAckSend k s) := by
  unfold execAckSend
  try dsimp only
  repeat' first
    | (with_reducible first | assumption | apply next_keeps | apply State.ackSent_inv | apply State.setFab_inv)
    | intro _ | split

theorem execAckReceived_keeps {n : Nat} {s : State} (hs : s.inv = true) : Out.keeps (execAckReceived n s) := by
  unfold execAckReceived
  try dsimp only
  repeat' first
    | (with_reducible first | assumption | apply next_keeps | apply State.takeLanded_inv | apply State.takeAck_inv)
    | intro _ | split

theorem State.dropRop_inv {s : State} {id : Nat} (hs : s.inv = true) : (State.dropRop s id).inv = true := by
  unfold State.dropRop
  try dsimp only
  repeat' first
    | (with_reducible first | assumption)
    | (simp only [State.lit_inv]; refine ⟨?_, ?_, ?_, ?_, ?_, ?_, ?_, ?_, ?_⟩)
    | (with_reducible first
        | apply State.inv_mem | apply State.inv_regs | apply State.inv_asks | apply State.inv_tiles
        | apply State.inv_each | apply State.inv_counters | apply State.inv_chans | apply State.inv_tags
        | apply State.inv_wear)
    | intro _ | split

theorem State.failRop_inv {s : State} {o : ROp} {cause : Nat} (hs : s.inv = true) : (State.failRop s o
    cause).inv = true := by
  unfold State.failRop
  try dsimp only
  repeat' first
    | (with_reducible first
        | assumption | apply State.dropRop_inv | apply State.unitFaultAt_inv | apply State.copyFault_inv
        | apply State.expFailed_inv | apply State.unprotect_inv)
    | intro _ | split

theorem State.failStream_inv {s : State} {k : StreamKey} {seq : Nat} (hs : s.inv = true) : (State.failStream s k
    seq).inv = true := by
  unfold State.failStream
  try dsimp only
  repeat' first
    | (with_reducible first
        | assumption | apply State.setFab_inv | apply State.bump_inv | apply State.sendFailed_inv
        | apply State.hostFailed_inv | apply State.failRop_inv | (apply foldl_inv <;> (try intro _ _ _))
        | apply ite_inv)
    | intro _ | split

theorem State.resend_inv {s : State} {m : OutMsg} {syn : Bool} (hs : s.inv = true) : (State.resend s m syn).inv
    = true := by
  unfold State.resend
  try dsimp only
  repeat' first
    | (with_reducible first
        | assumption | apply State.failStream_inv | apply State.bump_inv | apply State.setFab_inv
        | apply State.launchMsg_inv | apply ite_inv)
    | intro _ | split

theorem State.takeNack_inv {s : State} {f : Flit} (hs : s.inv = true) : (State.takeNack s f).inv = true := by
  unfold State.takeNack
  try dsimp only
  repeat' first
    | (with_reducible first | assumption | apply State.resend_inv | apply State.failStream_inv)
    | intro _ | split

theorem execNack_keeps {n : Nat} {s : State} (hs : s.inv = true) : Out.keeps (execNack n s) := by
  unfold execNack
  try dsimp only
  repeat' first
    | (with_reducible first | assumption | apply next_keeps | apply State.takeLanded_inv | apply State.takeNack_inv)
    | intro _ | split

theorem execE2etoExpiry_keeps {k : StreamKey} {s : State} (hs : s.inv = true) : Out.keeps (execE2etoExpiry k s) := by
  unfold execE2etoExpiry
  try dsimp only
  repeat' first
    | (with_reducible first | assumption | apply next_keeps | apply State.resend_inv)
    | intro _ | split

theorem execStreamForget_keeps {k : StreamKey} {s : State} (hs : s.inv = true) : Out.keeps (execStreamForget k
    s) := by
  unfold execStreamForget
  try dsimp only
  repeat' first
    | (with_reducible first | assumption | apply next_keeps | apply State.setFab_inv)
    | intro _ | split

theorem State.releaseHeld_inv {s : State} {k : StreamKey} (hs : s.inv = true) : (State.releaseHeld s k).inv =
    true := by
  unfold State.releaseHeld
  try dsimp only
  repeat' first
    | (with_reducible first | assumption | apply State.request_inv | (apply foldl_inv <;> (try intro _ _ _)))
    | (simp only [State.lit_inv]; refine ⟨?_, ?_, ?_, ?_, ?_, ?_, ?_, ?_, ?_⟩)
    | (with_reducible first
        | apply ite_inv | apply State.inv_mem | apply State.inv_regs | apply State.inv_asks | apply State.inv_tiles
        | apply State.inv_each | apply State.inv_counters | apply State.inv_chans | apply State.inv_tags
        | apply State.inv_wear)
    | intro _ | split

end Sys2Proof.Machine
end

