-- ==== Sys2Proof/Laws/KeepRack.lean ====
section
/-! SUPPORT. The definitions of Machine/Rack.lean keep the invariant State.inv of Safety.lean: one lemma each. -/

namespace Sys2Proof.Machine

theorem State.reply_inv {s : State} {m : InMsg} {kind : Nat} {data : List Byte} (hs : s.inv = true) :
    (State.reply s m kind data).inv = true := by
  unfold State.reply
  try dsimp only
  repeat' first
    | (with_reducible first | assumption | apply State.post_inv)
    | intro _ | split

theorem State.retry_inv {s : State} {m : InMsg} (hs : s.inv = true) : (State.retry s m).inv = true := by
  unfold State.retry
  try dsimp only
  repeat' first
    | (with_reducible first | assumption | apply State.reply_inv | apply State.bump_inv)
    | (simp only [State.lit_inv]; refine ⟨?_, ?_, ?_, ?_, ?_, ?_, ?_, ?_, ?_⟩)
    | (with_reducible first
        | apply State.inv_mem | apply State.inv_regs | apply State.inv_asks | apply State.inv_tiles
        | apply State.inv_each | apply State.inv_counters | apply State.inv_chans | apply State.inv_tags
        | apply State.inv_wear)
    | intro _ | split

theorem State.serve_inv {s : State} {n : Nat} {kind : Nat} {extra : InMsg → Bool} {f : InMsg → State → State}
    (hs : s.inv = true) (hf : ∀ x u, u.inv = true → (f x u).inv = true) : (State.serve s n kind extra f).inv =
    true := by
  unfold State.serve
  try dsimp only
  repeat' first
    | (with_reducible first
        | assumption | apply State.dropIn_inv | apply State.retry_inv | apply State.bump_inv | apply hextra
        | apply hf)
    | (simp only [State.lit_inv]; refine ⟨?_, ?_, ?_, ?_, ?_, ?_, ?_, ?_, ?_⟩)
    | (with_reducible first
        | apply ite_inv | apply State.inv_mem | apply State.inv_regs | apply State.inv_asks | apply State.inv_tiles
        | apply State.inv_each | apply State.inv_counters | apply State.inv_chans | apply State.inv_tags
        | apply State.inv_wear)
    | intro _ | split

theorem State.refuse_inv {s : State} {m : InMsg} {reason : Nat} (hs : s.inv = true) : (State.refuse s m
    reason).inv = true := by
  unfold State.refuse
  try dsimp only
  repeat' first
    | (with_reducible first | assumption | apply State.reply_inv | apply State.bump_inv)
    | intro _ | split

theorem State.serveRead_inv {m : InMsg} {s : State} (hs : s.inv = true) : (State.serveRead m s).inv = true := by
  unfold State.serveRead
  try dsimp only
  repeat' first
    | (with_reducible first
        | assumption | apply State.refuse_inv | apply State.devRead_inv | apply State.reply_inv | apply ite_inv)
    | intro _ | split

theorem execRemoteRead_keeps {n : Nat} {s : State} (hs : s.inv = true) : Out.keeps (execRemoteRead n s) := by
  unfold execRemoteRead
  try dsimp only
  repeat' first
    | (with_reducible first | assumption | apply next_keeps | apply State.serve_inv | apply State.serveRead_inv)
    | intro _ | split

theorem State.applyWhole_inv {s : State} {a : Nat} {hint : Nat} {src : Nat} {bs : List Byte} (hs : s.inv = true)
    : (State.applyWhole s a hint src bs).1.inv = true := by
  unfold State.applyWhole
  try dsimp only
  repeat' first
    | (with_reducible first
        | assumption | apply State.noteRead_inv | apply State.devWrite_inv | (apply foldl_inv <;> (try intro _ _ _))
        | apply ite_inv)
    | intro _ | split

theorem State.serveWrite_inv {m : InMsg} {s : State} (hs : s.inv = true) : (State.serveWrite m s).inv = true := by
  unfold State.serveWrite
  try dsimp only
  repeat' first
    | (with_reducible first
        | assumption | apply State.refuse_inv | apply State.applyWhole_inv | apply State.reply_inv | apply ite_inv)
    | intro _ | split

theorem execRemoteWrite_keeps {n : Nat} {s : State} (hs : s.inv = true) : Out.keeps (execRemoteWrite n s) := by
  unfold execRemoteWrite
  try dsimp only
  repeat' first
    | (with_reducible first
        | assumption | apply next_keeps | apply State.serve_inv | apply State.serveWrite_inv | apply ite_inv)
    | intro _ | split

theorem State.serveAtomic_inv {m : InMsg} {s : State} (hs : s.inv = true) : (State.serveAtomic m s).inv = true := by
  unfold State.serveAtomic
  try dsimp only
  repeat' first
    | (with_reducible first
        | assumption | apply State.refuse_inv | apply State.atomic_inv | apply State.reply_inv | apply ite_inv)
    | intro _ | split

theorem execRemoteAtomic_keeps {n : Nat} {s : State} (hs : s.inv = true) : Out.keeps (execRemoteAtomic n s) := by
  unfold execRemoteAtomic
  try dsimp only
  repeat' first
    | (with_reducible first
        | assumption | apply next_keeps | apply State.serve_inv | apply State.serveAtomic_inv | apply ite_inv)
    | intro _ | split

theorem State.serveArrive_inv {m : InMsg} {s : State} (hs : s.inv = true) : (State.serveArrive m s).inv = true := by
  unfold State.serveArrive
  try dsimp only
  repeat' first
    | (with_reducible first | assumption | apply State.reply_inv | apply State.applyArrival_inv)
    | intro _ | split

theorem execRemoteArrive_keeps {n : Nat} {s : State} (hs : s.inv = true) : Out.keeps (execRemoteArrive n s) := by
  unfold execRemoteArrive
  try dsimp only
  repeat' first
    | (with_reducible first
        | assumption | apply next_keeps | apply State.serveArrive_inv | apply State.dropIn_inv | apply ite_inv)
    | intro _ | split

theorem State.onReply_inv {s : State} {n : Nat} {kind : Nat} {f : InMsg → ROp → State → State} (hs : s.inv =
    true) (hf : ∀ x y u, u.inv = true → (f x y u).inv = true) : (State.onReply s n kind f).inv = true := by
  unfold State.onReply
  try dsimp only
  repeat' first
    | (with_reducible first | assumption | apply State.dropIn_inv | apply hf)
    | intro _ | split

theorem State.endRop_inv {s : State} {o : ROp} (hs : s.inv = true) : (State.endRop s o).inv = true := by
  unfold State.endRop
  try dsimp only
  repeat' first
    | (with_reducible first | assumption | apply State.releaseHeld_inv | apply State.dropRop_inv)
    | intro _ | split

theorem State.narrowAnswered_inv {s : State} {t : Nat} {n : Nat} (hs : s.inv = true) : (State.narrowAnswered s t
    n).inv = true := by
  unfold State.narrowAnswered
  try dsimp only
  repeat' first
    | (with_reducible first | assumption | apply State.setOp_inv)
    | intro _ | split

theorem State.copyData_inv {s : State} {id : Nat} {bs : List Byte} (hs : s.inv = true) : (State.copyData s id
    bs).inv = true := by
  unfold State.copyData
  try dsimp only
  repeat' first
    | (with_reducible first
        | assumption | apply State.readOn_inv | apply State.putCopy_inv | apply State.rawBytes_inv
        | apply State.copyFault_inv | apply ite_inv)
    | intro _ | split

theorem State.takeData_inv {m : InMsg} {o : ROp} {s : State} (hs : s.inv = true) : (State.takeData m o s).inv =
    true := by
  unfold State.takeData
  try dsimp only
  repeat' first
    | (with_reducible first
        | assumption | apply State.endRop_inv | apply State.narrowAnswered_inv | apply State.wrLocal_inv
        | apply State.copyData_inv)
    | (simp only [State.lit_inv]; refine ⟨?_, ?_, ?_, ?_, ?_, ?_, ?_, ?_, ?_⟩)
    | (with_reducible first
        | apply ite_inv | apply State.inv_mem | apply State.inv_regs | apply State.inv_asks | apply State.inv_tiles
        | apply State.inv_each | apply State.inv_counters | apply State.inv_chans | apply State.inv_tags
        | apply State.inv_wear)
    | intro _ | split

theorem execRdata_keeps {n : Nat} {s : State} (hs : s.inv = true) : Out.keeps (execRdata n s) := by
  unfold execRdata
  try dsimp only
  repeat' first
    | (with_reducible first | assumption | apply next_keeps | apply State.onReply_inv | apply State.takeData_inv)
    | intro _ | split

theorem State.copyAcked_inv {s : State} {id : Nat} {size : Nat} {far : Bool} (hs : s.inv = true) :
    (State.copyAcked s id size far).inv = true := by
  unfold State.copyAcked
  try dsimp only
  repeat' first
    | (with_reducible first | assumption | apply State.putCopy_inv)
    | intro _ | split

theorem State.takeAckd_inv {y0 : InMsg} {o : ROp} {s : State} (hs : s.inv = true) : (State.takeAckd y0 o s).inv
    = true := by
  unfold State.takeAckd
  try dsimp only
  repeat' first
    | (with_reducible first
        | assumption | apply State.endRop_inv | apply State.narrowAnswered_inv | apply State.copyAcked_inv
        | apply State.settle_inv | apply State.expAcked_inv | apply State.flushArrives_inv)
    | intro _ | split

theorem execWack_keeps {n : Nat} {s : State} (hs : s.inv = true) : Out.keeps (execWack n s) := by
  unfold execWack
  try dsimp only
  repeat' first
    | (with_reducible first | assumption | apply next_keeps | apply State.onReply_inv | apply State.takeAckd_inv)
    | intro _ | split

theorem State.takeResult_inv {m : InMsg} {o : ROp} {s : State} (hs : s.inv = true) : (State.takeResult m o
    s).inv = true := by
  unfold State.takeResult
  try dsimp only
  repeat' first
    | (with_reducible first
        | assumption | apply State.endRop_inv | apply State.narrowAnswered_inv | apply State.wrLocal_inv
        | apply ite_inv)
    | intro _ | split

theorem execAresult_keeps {n : Nat} {s : State} (hs : s.inv = true) : Out.keeps (execAresult n s) := by
  unfold execAresult
  try dsimp only
  repeat' first
    | (with_reducible first | assumption | apply next_keeps | apply State.onReply_inv | apply State.takeResult_inv)
    | intro _ | split

theorem State.collRetry_inv {s : State} {n : Nat} {m : InMsg} (hs : s.inv = true) : (State.collRetry s n m).inv
    = true := by
  unfold State.collRetry
  try dsimp only
  repeat' first
    | (with_reducible first | assumption | apply State.bump_inv | apply State.dropIn_inv)
    | (simp only [State.lit_inv]; refine ⟨?_, ?_, ?_, ?_, ?_, ?_, ?_, ?_, ?_⟩)
    | (with_reducible first
        | apply State.inv_mem | apply State.inv_regs | apply State.inv_asks | apply State.inv_tiles
        | apply State.inv_each | apply State.inv_counters | apply State.inv_chans | apply State.inv_tags
        | apply State.inv_wear | apply SMap.wf_mapv)
    | intro _ | split

theorem State.takeRetry_inv {y0 : InMsg} {o : ROp} {s : State} (hs : s.inv = true) : (State.takeRetry y0 o
    s).inv = true := by
  unfold State.takeRetry
  try dsimp only
  repeat' first
    | (with_reducible first | assumption | apply State.bump_inv)
    | (simp only [State.lit_inv]; refine ⟨?_, ?_, ?_, ?_, ?_, ?_, ?_, ?_, ?_⟩)
    | (with_reducible first
        | apply State.inv_mem | apply State.inv_regs | apply State.inv_asks | apply State.inv_tiles
        | apply State.inv_each | apply State.inv_counters | apply State.inv_chans | apply State.inv_tags
        | apply State.inv_wear)
    | intro _ | split

theorem execRetry_keeps {n : Nat} {s : State} (hs : s.inv = true) : Out.keeps (execRetry n s) := by
  unfold execRetry
  try dsimp only
  repeat' first
    | (with_reducible first
        | assumption | apply next_keeps | apply State.collRetry_inv | apply State.onReply_inv
        | apply State.takeRetry_inv)
    | intro _ | split

theorem State.collResend_inv {s : State} {k : StreamKey} (hs : s.inv = true) : (State.collResend s k).inv = true := by
  unfold State.collResend
  try dsimp only
  repeat' first
    | (with_reducible first | assumption | apply State.post_inv | (apply foldl_inv <;> (try intro _ _ _)))
    | (simp only [State.lit_inv]; refine ⟨?_, ?_, ?_, ?_, ?_, ?_, ?_, ?_, ?_⟩)
    | (with_reducible first
        | apply State.inv_mem | apply State.inv_regs | apply State.inv_asks | apply State.inv_tiles
        | apply State.inv_each | apply State.inv_counters | apply State.inv_chans | apply State.inv_tags
        | apply State.inv_wear | apply SMap.wf_mapv)
    | intro _ | split

theorem execRetryBackoffExpiry_keeps {k : StreamKey} {s : State} (hs : s.inv = true) : Out.keeps
    (execRetryBackoffExpiry k s) := by
  unfold execRetryBackoffExpiry
  try dsimp only
  repeat' first
    | (with_reducible first
        | assumption | apply next_keeps | apply State.collResend_inv | apply State.releaseHeld_inv
        | apply State.failRop_inv | apply State.bump_inv | apply State.request_inv)
    | (simp only [State.lit_inv]; refine ⟨?_, ?_, ?_, ?_, ?_, ?_, ?_, ?_, ?_⟩)
    | (with_reducible first
        | apply ite_inv | apply State.inv_mem | apply State.inv_regs | apply State.inv_asks | apply State.inv_tiles
        | apply State.inv_each | apply State.inv_counters | apply State.inv_chans | apply State.inv_tags
        | apply State.inv_wear)
    | intro _ | split

theorem State.takeRefuse_inv {m : InMsg} {o : ROp} {s : State} (hs : s.inv = true) : (State.takeRefuse m o
    s).inv = true := by
  unfold State.takeRefuse
  try dsimp only
  repeat' first
    | (with_reducible first
        | assumption | apply State.setReg_inv | apply State.dropRop_inv | apply State.releaseHeld_inv
        | apply State.log_inv | apply State.unprotect_inv | apply State.failRop_inv)
    | intro _ | split

theorem execRefuse_keeps {n : Nat} {s : State} (hs : s.inv = true) : Out.keeps (execRefuse n s) := by
  unfold execRefuse
  try dsimp only
  repeat' first
    | (with_reducible first | assumption | apply next_keeps | apply State.onReply_inv | apply State.takeRefuse_inv)
    | intro _ | split

theorem execCombineFold_keeps {sector : Nat} {s : State} (hs : s.inv = true) : Out.keeps (execCombineFold sector
    s) := by
  unfold execCombineFold
  try dsimp only
  repeat' first
    | (with_reducible first | assumption | apply next_keeps | apply State.foldFor_inv)
    | intro _ | split

theorem State.transfer_inv {s : State} {k : Nat} {c : Copy} {d : Nat} {far : Nat} {out : Bool} (hs : s.inv =
    true) : (State.transfer s k c d far out).inv = true := by
  unfold State.transfer
  try dsimp only
  repeat' first
    | (with_reducible first
        | assumption | apply State.putCopy_inv | apply State.bump_inv | apply State.sendRop_inv
        | apply State.rdLoc_inv | apply State.copyFault_inv | apply ite_inv)
    | intro _ | split

theorem execGatewayTransfer_keeps {cluster : Nat} {chan : Nat} {s : State} (hs : s.inv = true) : Out.keeps
    (execGatewayTransfer cluster chan s) := by
  unfold execGatewayTransfer
  try dsimp only
  repeat' first
    | (with_reducible first
        | assumption | apply next_keeps | apply within_keeps | apply State.transfer_inv | apply ite_inv)
    | intro _ | split

theorem State.runWrite_inv {s : State} {m : InMsg} {last : InMsg} {data : List Byte} (hs : s.inv = true) :
    (State.runWrite s m last data).inv = true := by
  unfold State.runWrite
  try dsimp only
  repeat' first
    | (with_reducible first
        | assumption | apply State.applyWhole_inv | apply State.refuse_inv | apply State.reply_inv)
    | intro _ | split

theorem State.runData_inv {s : State} {src : Nat} {run : List InMsg} (hs : s.inv = true) : (State.runData s src
    run).1.inv = true := by
  unfold State.runData
  try dsimp only
  repeat' first
    | (with_reducible first | assumption | apply State.devRead_inv | (apply foldl_inv1 <;> (try intro _ _ _)))
    | intro _ | split

theorem State.serveReads_inv {s : State} {m : InMsg} {last : InMsg} {run : List InMsg} (hs : s.inv = true) :
    (State.serveReads s m last run).inv = true := by
  unfold State.serveReads
  try dsimp only
  repeat' first
    | (with_reducible first
        | assumption | apply State.runData_inv | apply State.refuse_inv | apply State.reply_inv
        | (apply foldl_inv <;> (try intro _ _ _)))
    | intro _ | split

theorem State.applyTransfer_inv {s : State} {run : List InMsg} (hs : s.inv = true) : (State.applyTransfer s
    run).inv = true := by
  unfold State.applyTransfer
  try dsimp only
  repeat' first
    | (with_reducible first
        | assumption | apply State.serveArrive_inv | apply State.bump_inv | apply State.refuse_inv
        | apply State.runWrite_inv | apply State.serveReads_inv | apply ite_inv)
    | intro _ | split

theorem execGatewayApply_keeps {n : Nat} {s : State} (hs : s.inv = true) : Out.keeps (execGatewayApply n s) := by
  unfold execGatewayApply
  try dsimp only
  repeat' first
    | (with_reducible first
        | assumption | apply next_keeps | apply State.applyTransfer_inv | apply State.setFab_inv | apply ite_inv)
    | intro _ | split

end Sys2Proof.Machine
end

