-- ==== Sys2Proof/Laws/KeepEngines.lean ====
section
/-! SUPPORT. The definitions of Machine/Engines.lean keep the invariant State.inv of Safety.lean: one lemma each. -/

namespace Sys2Proof.Machine

theorem State.putArrive_inv {s : State} {tile : Nat} {trig : Nat} {nb : Nat} {epoch : Nat} (hs : s.inv = true) :
    (State.putArrive s tile trig nb epoch).inv = true := by
  unfold State.putArrive
  try dsimp only
  repeat' first
    | (with_reducible first | assumption | apply State.arriveAt_inv)
    | intro _ | split

theorem State.grantPut_inv {s : State} {p : Put} {sram : Sram} (hs : s.inv = true) : (State.grantPut s p
    sram).inv = true := by
  unfold State.grantPut
  try dsimp only
  repeat' first
    | (with_reducible first
        | assumption | apply State.sramFail_inv | apply State.sramNote_inv | apply State.unitFaultAt_inv
        | apply State.wrLoc_inv | apply State.contribution_inv | apply State.setTag_inv | apply State.putArrive_inv
        | apply State.flushArrives_inv | apply State.settle_inv)
    | (simp only [State.lit_inv]; refine ⟨?_, ?_, ?_, ?_, ?_, ?_, ?_, ?_, ?_⟩)
    | simp only [Tile.lit_wf]
    | (with_reducible first
        | apply ite_inv | apply State.inv_mem | apply State.inv_regs | apply State.inv_asks | apply State.inv_tiles
        | apply State.inv_each | apply State.inv_counters | apply State.inv_chans | apply State.inv_tags
        | apply State.inv_wear)
    | intro _ | split

theorem execEngineGrant_keeps {cluster : Nat} {sram : Sram} {s : State} (hs : s.inv = true) : Out.keeps
    (execEngineGrant cluster sram s) := by
  unfold execEngineGrant
  try dsimp only
  repeat' first
    | (with_reducible first
        | assumption | apply next_keeps | apply within_keeps | apply State.grantPut_inv | apply State.grantChan_inv)
    | (simp only [State.lit_inv]; refine ⟨?_, ?_, ?_, ?_, ?_, ?_, ?_, ?_, ?_⟩)
    | (with_reducible first
        | apply ite_inv | apply State.inv_mem | apply State.inv_regs | apply State.inv_asks | apply State.inv_tiles
        | apply State.inv_each | apply State.inv_counters | apply State.inv_chans | apply State.inv_tags
        | apply State.inv_wear)
    | intro _ | split

theorem State.readRanks_inv {s : State} {d : Nat} (hs : s.inv = true) : (State.readRanks s d).1.inv = true := by
  unfold State.readRanks
  try dsimp only
  repeat' first
    | (with_reducible first | assumption | apply State.rdLoc_inv)
    | intro _ | split

theorem State.dwFinish_inv {s : State} {t : Nat} (hs : s.inv = true) : (State.dwFinish s t).inv = true := by
  unfold State.dwFinish
  try dsimp only
  repeat' first
    | (with_reducible first
        | assumption | apply State.wrForm_inv | apply State.endTag_inv | apply State.memErr_inv | apply ite_inv)
    | intro _ | split

theorem State.dwSend_inv {s : State} {t : Nat} {f : Flit} (hs : s.inv = true) : (State.dwSend s t f).inv = true := by
  unfold State.dwSend
  try dsimp only
  repeat' first
    | (with_reducible first | assumption | apply State.setFab_inv)
    | intro _ | split

theorem State.dwStep_inv {s : State} {t : Nat} {step : Nat} {send : Option Nat} (hs : s.inv = true) :
    (State.dwStep s t step send).inv = true := by
  unfold State.dwStep
  try dsimp only
  repeat' first
    | (with_reducible first | assumption | apply State.dwSend_inv | apply State.setTag_inv)
    | intro _ | split

theorem State.dwEnter_inv {y0 : Nat} {y1 : State} {y2 : Nat} (hy1 : y1.inv = true) : (State.dwEnter y0 y1
    y2).inv = true := by
  induction y0 generalizing y1 with
  | zero => exact hy1
  | succ f ih =>
    unfold State.dwEnter
    dsimp only
    split
    · exact State.dwFinish_inv hy1
    · exact State.dwStep_inv hy1
    · exact ih (State.setTag_inv (State.dwStep_inv hy1))

theorem State.dwTake_inv {s : State} {t : Nat} {f : Flit} (hs : s.inv = true) : (State.dwTake s t f).inv = true := by
  unfold State.dwTake
  try dsimp only
  repeat' first
    | (with_reducible first
        | assumption | apply State.setTag_inv | apply State.dwEnter_inv | apply State.rankArrived_inv)
    | intro _ | split

theorem State.dwHeldFor_inv {s : State} {t : Nat} (hs : s.inv = true) : (State.dwHeldFor s t).inv = true := by
  unfold State.dwHeldFor
  try dsimp only
  repeat' first
    | (with_reducible first | assumption | apply State.dwTake_inv)
    | (simp only [State.lit_inv]; refine ⟨?_, ?_, ?_, ?_, ?_, ?_, ?_, ?_, ?_⟩)
    | (with_reducible first
        | apply State.inv_mem | apply State.inv_regs | apply State.inv_asks | apply State.inv_tiles
        | apply State.inv_each | apply State.inv_counters | apply State.inv_chans | apply State.inv_tags
        | apply State.inv_wear)
    | intro _ | split

theorem State.dwSettle_inv {s : State} {t : Nat} (hs : s.inv = true) : (State.dwSettle s t).inv = true := by
  unfold State.dwSettle
  try dsimp only
  repeat' first
    | (with_reducible first | assumption | apply State.dwHeldFor_inv | (apply foldl_inv <;> (try intro _ _ _)))
    | intro _ | split

theorem State.openTag_inv {s : State} {t : Nat} (hs : s.inv = true) : (State.openTag s t).inv = true := by
  unfold State.openTag
  try dsimp only
  repeat' first
    | (with_reducible first
        | assumption | apply State.setTag_inv | apply State.rdForm_inv | apply State.memErr_inv
        | apply State.dwSettle_inv | apply State.dwEnter_inv | apply State.rankArrived_inv | apply State.keepOwn_inv
        | apply State.sendOwn_inv | apply State.runTag_inv | apply ite_inv)
    | intro _ | split

theorem State.armReady_inv {s : State} {d : Nat} {x : Tag} {broken : Bool} (hs : s.inv = true) : (State.armReady
    s d x broken).1.inv = true := by
  unfold State.armReady
  try dsimp only
  repeat' first
    | (with_reducible first | assumption | apply State.setTag_inv | apply State.memErr_inv | apply State.openTag_inv)
    | simp only [Tile.lit_wf]
    | (with_reducible first | apply ite_inv)
    | intro _ | split

theorem State.drawBytes_inv {y0 : Nat} {y1 : State} (hy1 : y1.inv = true) : (State.drawBytes y0 y1).2.inv = true := by
  induction y0 generalizing y1 with
  | zero => exact hy1
  | succ n ih => exact ih (State.draw_inv hy1)

theorem State.readExps_inv {s : State} {d : Nat} (hs : s.inv = true) : (State.readExps s d).1.inv = true := by
  unfold State.readExps
  try dsimp only
  repeat' first
    | (with_reducible first | assumption | apply State.drawBytes_inv | apply State.rdLoc_inv)
    | intro _ | split

theorem State.armRanks_inv {s : State} {d : Nat} {x : Tag} (hs : s.inv = true) : (State.armRanks s d x).1.inv =
    true := by
  unfold State.armRanks
  try dsimp only
  repeat' first
    | (with_reducible first | assumption | apply State.readExps_inv | apply State.armReady_inv)
    | intro _ | split

theorem State.armDesc_inv {s : State} {d : Nat} (hs : s.inv = true) : (State.armDesc s d).1.inv = true := by
  unfold State.armDesc
  try dsimp only
  repeat' first
    | (with_reducible first
        | assumption | apply State.readRanks_inv | apply State.armReady_inv | apply State.armRanks_inv)
    | intro _ | split

theorem State.armRead_inv {s : State} {d : Nat} {l : List (Nat × Sram)} (hs : s.inv = true) : (State.armRead s d
    l).1.inv = true := by
  unfold State.armRead
  try dsimp only
  repeat' first
    | (with_reducible first
        | assumption | apply State.sramReads_inv | apply State.armDesc_inv | apply State.armReady_inv)
    | intro _ | split

theorem issueArm_keeps {op : Nat} {starter : Nat} {h : Head} {f : XF} {s : State} (hs : s.inv = true) :
    Out.keeps (issueArm op starter h f s) := by
  unfold issueArm
  try dsimp only
  repeat' first
    | (with_reducible first
        | assumption | exact Act.fault_keeps | (apply Act.go_keeps <;> (try intro _ _)) | apply issue_keeps
        | apply State.setCtx_inv | apply State.sramFail_inv | apply State.sramNote_inv | apply State.armRead_inv
        | apply State.setCtx_inv)
    | intro _ | split

theorem execBkarm_keeps {h : Head} {f : XF} {s : State} (hs : s.inv = true) : Out.keeps (execBkarm h f s) := by
  unfold execBkarm
  try dsimp only
  repeat' first
    | (with_reducible first | assumption | apply issueArm_keeps)
    | intro _ | split

theorem execBkput_keeps {h : Head} {f : XF} {s : State} (hs : s.inv = true) : Out.keeps (execBkput h f s) := by
  unfold execBkput
  try dsimp only
  repeat' first
    | (with_reducible first
        | assumption | exact Act.fault_keeps | (apply Act.go_keeps <;> (try intro _ _)) | apply issue_keeps
        | apply State.tile_wf | apply State.putArrive_inv | apply State.setTile_inv | apply State.setCtx_inv)
    | (simp only [State.lit_inv]; refine ⟨?_, ?_, ?_, ?_, ?_, ?_, ?_, ?_, ?_⟩)
    | simp only [Tile.lit_wf]
    | (with_reducible first
        | apply ite_inv | apply State.inv_mem | apply State.inv_regs | apply State.inv_asks | apply State.inv_tiles
        | apply State.inv_each | apply State.inv_counters | apply State.inv_chans | apply State.inv_tags
        | apply State.inv_wear | apply State.tile_wf | apply State.setTile_inv | apply State.setCtx_inv
        | apply Tile.memOk)
    | intro _ | split

theorem execBkrd_keeps {h : Head} {f : XF} {s : State} (hs : s.inv = true) : Out.keeps (execBkrd h f s) := by
  unfold execBkrd
  try dsimp only
  repeat' first
    | (with_reducible first
        | assumption | exact Act.fault_keeps | (apply Act.go_keeps <;> (try intro _ _)) | apply issue_keeps
        | apply State.setCtx_inv | apply State.setCtx_inv)
    | intro _ | split

theorem execXfire_keeps {h : Head} {f : XF} {s : State} (hs : s.inv = true) : Out.keeps (execXfire h f s) := by
  unfold execXfire
  try dsimp only
  repeat' first
    | (with_reducible first | assumption | apply issueArm_keeps)
    | intro _ | split

theorem execXa2a_keeps {h : Head} {f : XF} {s : State} (hs : s.inv = true) : Out.keeps (execXa2a h f s) := by
  unfold execXa2a
  try dsimp only
  repeat' first
    | (with_reducible first | assumption | apply issueArm_keeps)
    | intro _ | split

theorem State.engineReads_inv {s : State} {t : Nat} {l : List (Nat × Sram)} {f : State → State} (hs : s.inv =
    true) (hf : ∀ u, u.inv = true → (f u).inv = true) : (State.engineReads s t l f).inv = true := by
  unfold State.engineReads
  try dsimp only
  repeat' first
    | (with_reducible first
        | assumption | apply State.sramReads_inv | apply State.memErr_inv | apply hf | apply ite_inv)
    | intro _ | split

theorem execCollOpen_keeps {tag : EngineTurn} {s : State} (hs : s.inv = true) : Out.keeps (execCollOpen tag s) := by
  unfold execCollOpen
  try dsimp only
  repeat' first
    | (with_reducible first
        | assumption | apply next_keeps | apply within_keeps | apply State.engineReads_inv | apply State.openTag_inv
        | apply ite_inv)
    | intro _ | split

theorem State.stray_inv {s : State} {n : Nat} (hs : s.inv = true) : (State.stray s n).inv = true := by
  unfold State.stray
  try dsimp only
  repeat' first
    | (with_reducible first | assumption | apply State.bump_inv)
    | intro _ | split

theorem State.onFrag_inv {s : State} {n : Nat} {request : Bool} {f : Nat → Nat → List Byte → State → State} (hs
    : s.inv = true) (hf : ∀ x y z u, u.inv = true → (f x y z u).inv = true) : (State.onFrag s n request f).inv =
    true := by
  unfold State.onFrag
  try dsimp only
  repeat' first
    | (with_reducible first
        | assumption | apply State.dropIn_inv | apply State.stray_inv | apply State.reply_inv | apply State.bump_inv
        | apply hf | apply ite_inv)
    | intro _ | split

theorem State.applyFrag_inv {s : State} {t : Nat} {rank : Nat} {part : Nat} {ix : Nat} {data : List Byte}
    {backup : Bool} (hs : s.inv = true) : (State.applyFrag s t rank part ix data backup).inv = true := by
  unfold State.applyFrag
  try dsimp only
  repeat' first
    | (with_reducible first
        | assumption | apply State.mismatch_inv | apply State.drawBytes_inv | apply State.setTag_inv
        | apply State.takeResults_inv | apply State.runTag_inv | apply State.rankArrived_inv | apply State.memErr_inv
        | apply ite_inv)
    | intro _ | split

theorem execCollFragment_keeps {n : EngineTurn} {s : State} (hs : s.inv = true) : Out.keeps (execCollFragment n
    s) := by
  unfold execCollFragment
  try dsimp only
  repeat' first
    | (with_reducible first
        | assumption | apply next_keeps | apply State.onFrag_inv | apply State.engineReads_inv
        | apply State.applyFrag_inv)
    | intro _ | split

theorem State.missingMaps_inv {s : State} {t : Nat} (hs : s.inv = true) : (State.missingMaps s t).1.inv = true := by
  unfold State.missingMaps
  try dsimp only
  repeat' first
    | (with_reducible first | assumption | apply State.writeMaps_inv | (apply foldl_inv1 <;> (try intro _ _ _)))
    | intro _ | split

theorem execCollDeadline_keeps {tag : Nat} {s : State} (hs : s.inv = true) : Out.keeps (execCollDeadline tag s) := by
  unfold execCollDeadline
  try dsimp only
  repeat' first
    | (with_reducible first
        | assumption | apply next_keeps | apply within_keeps | apply State.missingMaps_inv | apply State.endTag_inv
        | apply State.memErr_inv | apply ite_inv)
    | intro _ | split

theorem State.bkctlAbort_inv {s : State} {tag : Nat} (hs : s.inv = true) : (State.bkctlAbort s tag).inv = true := by
  unfold State.bkctlAbort
  try dsimp only
  repeat' first
    | (with_reducible first | assumption | apply State.askDone_inv | apply State.endTag_inv | apply ite_inv)
    | intro _ | split

theorem execBkctlAbort_keeps {tag : Nat} {s : State} (hs : s.inv = true) : Out.keeps (execBkctlAbort tag s) := by
  unfold execBkctlAbort
  try dsimp only
  repeat' first
    | (with_reducible first | assumption | apply next_keeps | apply within_keeps | apply State.bkctlAbort_inv)
    | intro _ | split

theorem State.answerRerun_inv {s : State} {t : Nat} {rank : Nat} {frag : Nat} {bs : List Byte} (hs : s.inv =
    true) : (State.answerRerun s t rank frag bs).inv = true := by
  unfold State.answerRerun
  try dsimp only
  repeat' first
    | (with_reducible first
        | assumption | apply State.mismatch_inv | apply State.rerunData_inv | apply State.setTag_inv
        | apply State.memErr_inv | apply State.sendStream_inv | apply ite_inv)
    | intro _ | split

theorem execRerunRequest_keeps {n : EngineTurn} {s : State} (hs : s.inv = true) : Out.keeps (execRerunRequest n
    s) := by
  unfold execRerunRequest
  try dsimp only
  repeat' first
    | (with_reducible first
        | assumption | apply next_keeps | apply State.onFrag_inv | apply State.engineReads_inv
        | apply State.answerRerun_inv)
    | intro _ | split

theorem State.dwReceive_inv {s : State} {f : Flit} (hs : s.inv = true) : (State.dwReceive s f).inv = true := by
  unfold State.dwReceive
  try dsimp only
  repeat' first
    | (with_reducible first
        | assumption | apply State.stray_inv | apply State.dwSettle_inv | apply State.dwTake_inv
        | apply State.dwSend_inv)
    | (simp only [State.lit_inv]; refine ⟨?_, ?_, ?_, ?_, ?_, ?_, ?_, ?_, ?_⟩)
    | (with_reducible first
        | apply ite_inv | apply State.inv_mem | apply State.inv_regs | apply State.inv_asks | apply State.inv_tiles
        | apply State.inv_each | apply State.inv_counters | apply State.inv_chans | apply State.inv_tags
        | apply State.inv_wear)
    | intro _ | split

theorem execDwFlitReceived_keeps {n : Nat} {s : State} (hs : s.inv = true) : Out.keeps (execDwFlitReceived n s) := by
  unfold execDwFlitReceived
  try dsimp only
  repeat' first
    | (with_reducible first | assumption | apply next_keeps | apply State.dwReceive_inv | apply State.setFab_inv)
    | intro _ | split

theorem execDwHoldExpiry_keeps {n : Nat} {s : State} (hs : s.inv = true) : Out.keeps (execDwHoldExpiry n s) := by
  unfold execDwHoldExpiry
  try dsimp only
  repeat' first
    | (with_reducible first | assumption | apply next_keeps | apply State.stray_inv)
    | (simp only [State.lit_inv]; refine ⟨?_, ?_, ?_, ?_, ?_, ?_, ?_, ?_, ?_⟩)
    | (with_reducible first
        | apply State.inv_mem | apply State.inv_regs | apply State.inv_asks | apply State.inv_tiles
        | apply State.inv_each | apply State.inv_counters | apply State.inv_chans | apply State.inv_tags
        | apply State.inv_wear)
    | intro _ | split

theorem execDwPartnerTimeout_keeps {tag : Nat} {s : State} (hs : s.inv = true) : Out.keeps (execDwPartnerTimeout
    tag s) := by
  unfold execDwPartnerTimeout
  try dsimp only
  repeat' first
    | (with_reducible first
        | assumption | apply next_keeps | apply within_keeps | apply State.endTag_inv | apply State.setTag_inv
        | apply State.dwSend_inv | apply ite_inv)
    | intro _ | split

theorem execDwSentFlitRelease_keeps {tag : Nat} {s : State} (hs : s.inv = true) : Out.keeps
    (execDwSentFlitRelease tag s) := by
  unfold execDwSentFlitRelease
  try dsimp only
  repeat' first
    | (with_reducible first
        | assumption | apply next_keeps | apply within_keeps | apply State.setTag_inv | apply ite_inv)
    | intro _ | split

end Sys2Proof.Machine
end

