-- ==== Sys2Proof/Laws/KeepOptics.lean ====
section
/-! SUPPORT. The definitions of Machine/Optics.lean keep the invariant State.inv of Safety.lean: one lemma each. -/

namespace Sys2Proof.Machine

theorem State.endTraining_inv {s : State} {n : Nat} {b : Nat} (hs : s.inv = true) : (State.endTraining s n
    b).inv = true := by
  unfold State.endTraining
  try dsimp only
  repeat' first
    | (with_reducible first | assumption | apply State.put_inv | (apply foldl_inv <;> (try intro _ _ _)))
    | (simp only [State.lit_inv]; refine ⟨?_, ?_, ?_, ?_, ?_, ?_, ?_, ?_, ?_⟩)
    | (with_reducible first
        | apply ite_inv | apply State.inv_mem | apply State.inv_regs | apply State.inv_asks | apply State.inv_tiles
        | apply State.inv_each | apply State.inv_counters | apply State.inv_chans | apply State.inv_tags
        | apply State.inv_wear)
    | intro _ | split

theorem State.stopBundle_inv {s : State} {cur : Nat} {p : Nat} {n : Nat} {b : Nat} (hs : s.inv = true) :
    (State.stopBundle s cur p n b).inv = true := by
  unfold State.stopBundle
  try dsimp only
  repeat' first
    | (with_reducible first
        | assumption | apply State.setEdge_inv | apply State.setLink_inv | apply State.put_inv
        | apply State.endTraining_inv | (apply foldl_inv <;> (try intro _ _ _)) | apply ite_inv)
    | intro _ | split

theorem State.showLanes_inv {s : State} {p : Nat} (hs : s.inv = true) : (State.showLanes s p).inv = true := by
  unfold State.showLanes
  try dsimp only
  repeat' first
    | (with_reducible first | assumption | apply State.put_inv)
    | intro _ | split

theorem State.showCube_inv {s : State} (hs : s.inv = true) : (State.showCube s).inv = true := by
  unfold State.showCube
  try dsimp only
  repeat' first
    | (with_reducible first
        | assumption | apply State.showLanes_inv | (apply foldl_inv <;> (try intro _ _ _)) | apply ite_inv)
    | intro _ | split

theorem State.requestPlan_inv {s : State} {p : Nat} {rt : Bool} {arr : Option (Nat × Nat)} (hs : s.inv = true) :
    (State.requestPlan s p rt arr).2.inv = true := by
  unfold State.requestPlan
  try dsimp only
  repeat' first
    | (with_reducible first
        | assumption | apply State.put_inv | apply State.arriveAt_inv | apply State.log_inv
        | apply State.stopBundle_inv | apply State.showCube_inv | (apply foldl_inv <;> (try intro _ _ _)))
    | (simp only [State.lit_inv]; refine ⟨?_, ?_, ?_, ?_, ?_, ?_, ?_, ?_, ?_⟩)
    | (with_reducible first
        | apply State.inv_mem | apply State.inv_regs | apply State.inv_asks | apply State.inv_tiles
        | apply State.inv_each | apply State.inv_counters | apply State.inv_chans | apply State.inv_tags
        | apply State.inv_wear)
    | intro _ | split

theorem execPlansw_keeps {h : Head} {f : XF} {s : State} (hs : s.inv = true) : Out.keeps (execPlansw h f s) := by
  unfold execPlansw
  try dsimp only
  repeat' first
    | (with_reducible first
        | assumption | exact Act.fault_keeps | (apply Act.go_keeps <;> (try intro _ _)) | apply issue_keeps
        | apply State.requestPlan_inv | apply State.setCtx_inv | apply State.setCtx_inv)
    | intro _ | split

theorem State.beginRetrain_inv {s : State} {n : Nat} {k : Nat} (hs : s.inv = true) : (State.beginRetrain s n
    k).inv = true := by
  unfold State.beginRetrain
  try dsimp only
  repeat' first
    | (with_reducible first | assumption | apply State.put_inv | (apply foldl_inv <;> (try intro _ _ _)))
    | (simp only [State.lit_inv]; refine ⟨?_, ?_, ?_, ?_, ?_, ?_, ?_, ?_, ?_⟩)
    | (with_reducible first
        | apply ite_inv | apply State.inv_mem | apply State.inv_regs | apply State.inv_asks | apply State.inv_tiles
        | apply State.inv_each | apply State.inv_counters | apply State.inv_chans | apply State.inv_tags
        | apply State.inv_wear)
    | intro _ | split

theorem State.replayOn_inv {s : State} {n : Nat} {k : Nat} (hs : s.inv = true) : (State.replayOn s n k).inv =
    true := by
  unfold State.replayOn
  try dsimp only
  repeat' first
    | (with_reducible first | assumption | apply State.replay_inv | apply State.beginRetrain_inv | apply ite_inv)
    | intro _ | split

theorem execNakReplay_keeps {n : Nat} {k : Nat} {s : State} (hs : s.inv = true) : Out.keeps (execNakReplay n k
    s) := by
  unfold execNakReplay
  try dsimp only
  repeat' first
    | (with_reducible first
        | assumption | apply next_keeps | apply within_keeps | apply State.replayOn_inv | apply ite_inv)
    | intro _ | split

theorem execReplayTimeout_keeps {n : Nat} {k : Nat} {s : State} (hs : s.inv = true) : Out.keeps
    (execReplayTimeout n k s) := by
  unfold execReplayTimeout
  try dsimp only
  repeat' first
    | (with_reducible first
        | assumption | apply next_keeps | apply within_keeps | apply State.replayOn_inv | apply ite_inv)
    | intro _ | split

theorem State.sendFrame_inv {s : State} {p : Nat} {k : Nat} (hs : s.inv = true) : (State.sendFrame s p k).inv =
    true := by
  unfold State.sendFrame
  try dsimp only
  repeat' first
    | (with_reducible first | assumption | apply State.drawTime_inv)
    | (simp only [State.lit_inv]; refine ⟨?_, ?_, ?_, ?_, ?_, ?_, ?_, ?_, ?_⟩)
    | (with_reducible first
        | apply ite_inv | apply State.inv_mem | apply State.inv_regs | apply State.inv_asks | apply State.inv_tiles
        | apply State.inv_each | apply State.inv_counters | apply State.inv_chans | apply State.inv_tags
        | apply State.inv_wear)
    | intro _ | split

theorem State.setLock_inv {s : State} {p : Nat} {k : Nat} {rx : Bool} {lock : Nat} (hs : s.inv = true) :
    (State.setLock s p k rx lock).inv = true := by
  unfold State.setLock
  try dsimp only
  repeat' first
    | (with_reducible first | assumption | apply State.put_inv)
    | intro _ | split

theorem State.bundleChanged_inv {s : State} {n : Nat} {b : Nat} (hs : s.inv = true) : (State.bundleChanged s n
    b).inv = true := by
  unfold State.bundleChanged
  try dsimp only
  repeat' first
    | (with_reducible first
        | assumption | apply State.put_inv | apply State.endTraining_inv | apply State.log_inv
        | apply State.beginRetrain_inv | apply ite_inv)
    | intro _ | split

theorem State.lanesChanged_inv {s : State} {p : Nat} {k : Nat} (hs : s.inv = true) : (State.lanesChanged s p
    k).inv = true := by
  unfold State.lanesChanged
  try dsimp only
  repeat' first
    | (with_reducible first
        | assumption | apply State.showLanes_inv | apply State.bundleChanged_inv | apply State.put_inv
        | apply ite_inv)
    | intro _ | split

theorem State.setLane_inv {s : State} {p : Nat} {k : Nat} {st : Nat} (hs : s.inv = true) : (State.setLane s p k
    st).inv = true := by
  unfold State.setLane
  try dsimp only
  repeat' first
    | (with_reducible first | assumption | apply State.put_inv | apply State.lanesChanged_inv | apply ite_inv)
    | intro _ | split

theorem State.setRx_inv {s : State} {p : Nat} {k : Nat} {x : RxLane} (hs : s.inv = true) : (State.setRx s p k
    x).inv = true := by
  unfold State.setRx
  try dsimp only
  repeat' first
    | (with_reducible first | assumption)
    | (simp only [State.lit_inv]; refine ⟨?_, ?_, ?_, ?_, ?_, ?_, ?_, ?_, ?_⟩)
    | (with_reducible first
        | apply State.inv_mem | apply State.inv_regs | apply State.inv_asks | apply State.inv_tiles
        | apply State.inv_each | apply State.inv_counters | apply State.inv_chans | apply State.inv_tags
        | apply State.inv_wear)
    | intro _ | split

theorem State.retireLane_inv {s : State} {p : Nat} {k : Nat} (hs : s.inv = true) : (State.retireLane s p k).inv
    = true := by
  unfold State.retireLane
  try dsimp only
  repeat' first
    | (with_reducible first
        | assumption | apply State.setRx_inv | apply State.log_inv | apply State.bump_inv | apply State.setLane_inv)
    | intro _ | split

theorem State.retireSlot_inv {s : State} {p : Nat} {k : Nat} (hs : s.inv = true) : (State.retireSlot s p k).inv
    = true := by
  unfold State.retireSlot
  try dsimp only
  repeat' first
    | (with_reducible first | assumption | apply State.penalise_inv | apply State.retireLane_inv)
    | intro _ | split

theorem State.takeRstat_inv {s : State} {p : Nat} {k : Nat} {rstat : Nat} (hs : s.inv = true) : (State.takeRstat
    s p k rstat).inv = true := by
  unfold State.takeRstat
  try dsimp only
  repeat' first
    | (with_reducible first
        | assumption | apply State.setLock_inv | apply State.setLane_inv | apply State.retireSlot_inv
        | apply State.setRx_inv | apply ite_inv)
    | intro _ | split

theorem State.startAttempt_inv {s : State} {p : Nat} {k : Nat} (hs : s.inv = true) : (State.startAttempt s p
    k).inv = true := by
  unfold State.startAttempt
  try dsimp only
  repeat' first
    | (with_reducible first
        | assumption | apply State.setLane_inv | apply State.setLock_inv | apply State.setRx_inv | apply ite_inv)
    | intro _ | split

theorem State.laneVerified_inv {s : State} {p : Nat} {k : Nat} (hs : s.inv = true) : (State.laneVerified s p
    k).inv = true := by
  unfold State.laneVerified
  try dsimp only
  repeat' first
    | (with_reducible first
        | assumption | apply State.put_inv | apply State.setLock_inv | apply State.setLane_inv | apply ite_inv)
    | intro _ | split

theorem execTrainingFrame_keeps {p : Nat} {k : Nat} {frame : List Byte} {s : State} (hs : s.inv = true) :
    Out.keeps (execTrainingFrame p k frame s) := by
  unfold execTrainingFrame
  try dsimp only
  repeat' first
    | (with_reducible first
        | assumption | apply next_keeps | apply within_keeps | apply State.sendFrame_inv | apply State.put_inv
        | apply State.takeRstat_inv | apply State.setRx_inv | apply State.startAttempt_inv | apply State.log_inv
        | apply State.setLane_inv | apply State.setLock_inv | apply State.laneVerified_inv | apply ite_inv)
    | intro _ | split

theorem execVerifyTimeout_keeps {p : Nat} {k : Nat} {s : State} (hs : s.inv = true) : Out.keeps
    (execVerifyTimeout p k s) := by
  unfold execVerifyTimeout
  try dsimp only
  repeat' first
    | (with_reducible first
        | assumption | apply next_keeps | apply within_keeps | apply State.startAttempt_inv | apply ite_inv)
    | intro _ | split

theorem execLockAttemptTimeout_keeps {p : Nat} {k : Nat} {s : State} (hs : s.inv = true) : Out.keeps
    (execLockAttemptTimeout p k s) := by
  unfold execLockAttemptTimeout
  try dsimp only
  repeat' first
    | (with_reducible first
        | assumption | apply next_keeps | apply within_keeps | apply State.bump_inv | apply State.put_inv
        | apply State.retireSlot_inv | apply State.setLock_inv | apply ite_inv)
    | intro _ | split

theorem State.laneDown_inv {s : State} {p : Nat} {k : Nat} (hs : s.inv = true) : (State.laneDown s p k).inv =
    true := by
  unfold State.laneDown
  try dsimp only
  repeat' first
    | (with_reducible first | assumption | apply State.setLane_inv | apply ite_inv)
    | intro _ | split

theorem execRingFailed_keeps {p : Nat} {r : Nat} {s : State} (hs : s.inv = true) : Out.keeps (execRingFailed p r
    s) := by
  unfold execRingFailed
  try dsimp only
  repeat' first
    | (with_reducible first
        | assumption | apply next_keeps | apply within_keeps | apply State.put_inv | apply State.penalise_inv
        | apply State.bump_inv | apply State.laneDown_inv | apply State.retireSlot_inv | apply ite_inv)
    | intro _ | split

theorem State.laserEn_inv {s : State} {n : Nat} (hs : s.inv = true) : (State.laserEn s n).inv = true := by
  unfold State.laserEn
  try dsimp only
  repeat' first
    | (with_reducible first | assumption | apply State.put_inv)
    | intro _ | split

theorem State.resetPort_inv {s : State} {p : Nat} (hs : s.inv = true) : (State.resetPort s p).inv = true := by
  unfold State.resetPort
  try dsimp only
  repeat' first
    | (with_reducible first
        | assumption | apply State.setLink_inv | apply State.put_inv | apply State.setLane_inv
        | apply State.setRx_inv | apply State.laserEn_inv | (apply foldl_inv <;> (try intro _ _ _)))
    | (simp only [State.lit_inv]; refine ⟨?_, ?_, ?_, ?_, ?_, ?_, ?_, ?_, ?_⟩)
    | (with_reducible first
        | apply ite_inv | apply State.inv_mem | apply State.inv_regs | apply State.inv_asks | apply State.inv_tiles
        | apply State.inv_each | apply State.inv_counters | apply State.inv_chans | apply State.inv_tags
        | apply State.inv_wear)
    | intro _ | split

theorem State.equalise_inv {s : State} {p : Nat} {k : Nat} (hs : s.inv = true) : (State.equalise s p k).inv =
    true := by
  unfold State.equalise
  try dsimp only
  repeat' first
    | (with_reducible first | assumption | apply State.setReg_inv | apply State.draw_inv)
    | intro _ | split

theorem State.awaitPeer_inv {s : State} {p : Nat} {k : Nat} {rx : Bool} (hs : s.inv = true) : (State.awaitPeer s
    p k rx).inv = true := by
  unfold State.awaitPeer
  try dsimp only
  repeat' first
    | (with_reducible first | assumption | apply State.put_inv | apply ite_inv)
    | intro _ | split

theorem execPortBringup_keeps {p : Nat} {up : Nat} {skew : Nat} {s : State} (hs : s.inv = true) : Out.keeps
    (execPortBringup p up skew s) := by
  unfold execPortBringup
  try dsimp only
  repeat' first
    | (with_reducible first
        | assumption | apply next_keeps | apply within_keeps | apply State.resetPort_inv | apply State.equalise_inv
        | apply State.draw_inv | apply State.put_inv | apply State.setLane_inv | apply State.setLock_inv
        | apply State.awaitPeer_inv | apply State.showLanes_inv | (apply foldl_inv <;> (try intro _ _ _)))
    | (simp only [State.lit_inv]; refine ⟨?_, ?_, ?_, ?_, ?_, ?_, ?_, ?_, ?_⟩)
    | (with_reducible first
        | apply ite_inv | apply State.inv_mem | apply State.inv_regs | apply State.inv_asks | apply State.inv_tiles
        | apply State.inv_each | apply State.inv_counters | apply State.inv_chans | apply State.inv_tags
        | apply State.inv_wear)
    | intro _ | split

theorem State.portReset_inv {s : State} {p : Nat} (hs : s.inv = true) : (State.portReset s p).inv = true := by
  unfold State.portReset
  try dsimp only
  repeat' first
    | (with_reducible first | assumption | apply State.askDone_inv | apply State.resetPort_inv | apply ite_inv)
    | intro _ | split

theorem execPortReset_keeps {p : Nat} {s : State} (hs : s.inv = true) : Out.keeps (execPortReset p s) := by
  unfold execPortReset
  try dsimp only
  repeat' first
    | (with_reducible first | assumption | apply next_keeps | apply within_keeps | apply State.portReset_inv)
    | intro _ | split

theorem State.retrained_inv {s : State} {n : Nat} {k : Nat} {skew : Nat} (hs : s.inv = true) : (State.retrained
    s n k skew).inv = true := by
  unfold State.retrained
  try dsimp only
  repeat' first
    | (with_reducible first
        | assumption | apply State.put_inv | apply State.equalise_inv | apply State.showLanes_inv
        | apply State.endTraining_inv | apply State.bundleChanged_inv | (apply foldl_inv <;> (try intro _ _ _))
        | apply ite_inv)
    | intro _ | split

theorem execPortRetrain_keeps {n : Nat} {k : Nat} {ok : Bool} {s : State} (hs : s.inv = true) : Out.keeps
    (execPortRetrain n k ok s) := by
  unfold execPortRetrain
  try dsimp only
  repeat' first
    | (with_reducible first
        | assumption | apply next_keeps | apply within_keeps | apply State.penalise_inv | apply State.bump_inv
        | apply State.askDone_inv | apply State.draw_inv | apply State.retrained_inv | apply State.setLink_inv
        | apply State.replay_inv | apply State.resetPort_inv | (apply foldl_inv <;> (try intro _ _ _)))
    | (simp only [State.lit_inv]; refine ⟨?_, ?_, ?_, ?_, ?_, ?_, ?_, ?_, ?_⟩)
    | (with_reducible first
        | apply ite_inv | apply State.inv_mem | apply State.inv_regs | apply State.inv_asks | apply State.inv_tiles
        | apply State.inv_each | apply State.inv_counters | apply State.inv_chans | apply State.inv_tags
        | apply State.inv_wear)
    | intro _ | split

theorem State.blank_inv {s : State} {p : Nat} (hs : s.inv = true) : (State.blank s p).inv = true := by
  unfold State.blank
  try dsimp only
  repeat' first
    | (with_reducible first
        | assumption | apply State.put_inv | apply State.bump_inv | apply State.setLane_inv | apply State.laserEn_inv
        | (apply foldl_inv <;> (try intro _ _ _)) | apply ite_inv)
    | intro _ | split

theorem execLossOfLight_keeps {p : Nat} {s : State} (hs : s.inv = true) : Out.keeps (execLossOfLight p s) := by
  unfold execLossOfLight
  try dsimp only
  repeat' first
    | (with_reducible first
        | assumption | apply next_keeps | apply within_keeps | apply State.blank_inv | apply State.put_inv
        | apply ite_inv)
    | intro _ | split

theorem execProbe_keeps {p : Nat} {on : Bool} {s : State} (hs : s.inv = true) : Out.keeps (execProbe p on s) := by
  unfold execProbe
  try dsimp only
  repeat' first
    | (with_reducible first
        | assumption | apply next_keeps | apply within_keeps | apply State.put_inv | apply State.laserEn_inv
        | apply ite_inv)
    | intro _ | split

theorem execLightReturned_keeps {p : Nat} {s : State} (hs : s.inv = true) : Out.keeps (execLightReturned p s) := by
  unfold execLightReturned
  try dsimp only
  repeat' first
    | (with_reducible first
        | assumption | apply next_keeps | apply within_keeps | apply State.put_inv | apply State.resetPort_inv
        | apply State.setLane_inv | apply State.setLink_inv | apply State.laserEn_inv
        | (apply foldl_inv <;> (try intro _ _ _)) | apply ite_inv)
    | intro _ | split

theorem State.gatesMoved_inv {s : State} {n : Nat} {ps : List Nat} (hs : s.inv = true) : (State.gatesMoved s n
    ps).inv = true := by
  unfold State.gatesMoved
  try dsimp only
  repeat' first
    | (with_reducible first
        | assumption | apply State.bundleChanged_inv | (apply foldl_inv <;> (try intro _ _ _)) | apply ite_inv)
    | intro _ | split

theorem execLaserHigh_keeps {n : Nat} {f : Nat} {s : State} (hs : s.inv = true) : Out.keeps (execLaserHigh n f
    s) := by
  unfold execLaserHigh
  try dsimp only
  repeat' first
    | (with_reducible first
        | assumption | apply next_keeps | apply within_keeps | apply State.put_inv | apply State.log_inv
        | apply State.gatesMoved_inv)
    | (simp only [State.lit_inv]; refine ⟨?_, ?_, ?_, ?_, ?_, ?_, ?_, ?_, ?_⟩)
    | (with_reducible first
        | apply State.inv_mem | apply State.inv_regs | apply State.inv_asks | apply State.inv_tiles
        | apply State.inv_each | apply State.inv_counters | apply State.inv_chans | apply State.inv_tags
        | apply State.inv_wear)
    | intro _ | split

theorem execLaserHighClear_keeps {n : Nat} {f : Nat} {s : State} (hs : s.inv = true) : Out.keeps
    (execLaserHighClear n f s) := by
  unfold execLaserHighClear
  try dsimp only
  repeat' first
    | (with_reducible first
        | assumption | apply next_keeps | apply within_keeps | apply State.gatesMoved_inv | apply State.put_inv)
    | (simp only [State.lit_inv]; refine ⟨?_, ?_, ?_, ?_, ?_, ?_, ?_, ?_, ?_⟩)
    | (with_reducible first
        | apply State.inv_mem | apply State.inv_regs | apply State.inv_asks | apply State.inv_tiles
        | apply State.inv_each | apply State.inv_counters | apply State.inv_chans | apply State.inv_tags
        | apply State.inv_wear)
    | intro _ | split

theorem execLaserLow_keeps {n : Nat} {f : Nat} {low : Bool} {s : State} (hs : s.inv = true) : Out.keeps
    (execLaserLow n f low s) := by
  unfold execLaserLow
  try dsimp only
  repeat' first
    | (with_reducible first
        | assumption | apply next_keeps | apply within_keeps | apply State.put_inv | apply State.log_inv
        | apply ite_inv)
    | intro _ | split

theorem State.takeSpare_inv {s : State} {n : Nat} {target : Nat} (hs : s.inv = true) : (State.takeSpare s n
    target).inv = true := by
  unfold State.takeSpare
  try dsimp only
  repeat' first
    | (with_reducible first
        | assumption | apply State.noteFence_inv | apply State.put_inv | apply State.blank_inv
        | apply State.resetPort_inv | apply ite_inv)
    | intro _ | split

theorem execSpareTakeover_keeps {n : Nat} {target : Nat} {s : State} (hs : s.inv = true) : Out.keeps
    (execSpareTakeover n target s) := by
  unfold execSpareTakeover
  try dsimp only
  repeat' first
    | (with_reducible first | assumption | apply next_keeps | apply within_keeps | apply State.takeSpare_inv)
    | intro _ | split

theorem execSpareRelease_keeps {n : Nat} {s : State} (hs : s.inv = true) : Out.keeps (execSpareRelease n s) := by
  unfold execSpareRelease
  try dsimp only
  repeat' first
    | (with_reducible first
        | assumption | apply next_keeps | apply within_keeps | apply State.put_inv | apply ite_inv)
    | intro _ | split

theorem State.cpctlGo_inv {s : State} (hs : s.inv = true) : (State.cpctlGo s).inv = true := by
  unfold State.cpctlGo
  try dsimp only
  repeat' first
    | (with_reducible first | assumption | apply State.askDone_inv | apply State.requestPlan_inv | apply ite_inv)
    | intro _ | split

theorem execCpctlGo_keeps {s : State} (hs : s.inv = true) : Out.keeps (execCpctlGo s) := by
  unfold execCpctlGo
  try dsimp only
  repeat' first
    | (with_reducible first | assumption | apply next_keeps | apply State.cpctlGo_inv)
    | intro _ | split

theorem State.lightLanes_inv {s : State} {p : Nat} (hs : s.inv = true) : (State.lightLanes s p).inv = true := by
  unfold State.lightLanes
  try dsimp only
  repeat' first
    | (with_reducible first
        | assumption | apply State.put_inv | (apply foldl_inv <;> (try intro _ _ _)) | apply ite_inv)
    | intro _ | split

theorem State.replayMoved_inv {s : State} {cur : Nat} {p : Nat} (hs : s.inv = true) : (State.replayMoved s cur
    p).inv = true := by
  unfold State.replayMoved
  try dsimp only
  repeat' first
    | (with_reducible first
        | assumption | apply State.replay_inv | (apply foldl_inv <;> (try intro _ _ _)) | apply ite_inv)
    | intro _ | split

theorem execPlanSwitchComplete_keeps {s : State} (hs : s.inv = true) : Out.keeps (execPlanSwitchComplete s) := by
  unfold execPlanSwitchComplete
  try dsimp only
  repeat' first
    | (with_reducible first
        | assumption | apply next_keeps | apply State.put_inv | apply State.showCube_inv | apply State.lightLanes_inv
        | apply State.requestFlip_inv | apply State.replayMoved_inv | apply State.arriveAt_inv)
    | (simp only [State.lit_inv]; refine ⟨?_, ?_, ?_, ?_, ?_, ?_, ?_, ?_, ?_⟩)
    | (with_reducible first
        | apply ite_inv | apply State.inv_mem | apply State.inv_regs | apply State.inv_asks | apply State.inv_tiles
        | apply State.inv_each | apply State.inv_counters | apply State.inv_chans | apply State.inv_tags
        | apply State.inv_wear)
    | intro _ | split

theorem execBundleUp_keeps {n : Nat} {b : Nat} {s : State} (hs : s.inv = true) : Out.keeps (execBundleUp n b s) := by
  unfold execBundleUp
  try dsimp only
  repeat' first
    | (with_reducible first
        | assumption | apply next_keeps | apply within_keeps | apply State.put_inv | apply State.replay_inv
        | apply ite_inv)
    | intro _ | split

theorem State.mapChanged_inv {s : State} {e : Nat} (hs : s.inv = true) : (State.mapChanged s e).inv = true := by
  unfold State.mapChanged
  try dsimp only
  repeat' first
    | (with_reducible first | assumption | apply State.put_inv | apply ite_inv)
    | intro _ | split

theorem State.releaseSpares_inv {s : State} (hs : s.inv = true) : (State.releaseSpares s).inv = true := by
  unfold State.releaseSpares
  try dsimp only
  repeat' first
    | (with_reducible first
        | assumption | apply State.put_inv | apply State.setReg_inv | (apply foldl_inv <;> (try intro _ _ _))
        | apply ite_inv)
    | intro _ | split

theorem State.retrainPort_inv {s : State} {p : Nat} (hs : s.inv = true) : (State.retrainPort s p).inv = true := by
  unfold State.retrainPort
  try dsimp only
  repeat' first
    | (with_reducible first
        | assumption | apply State.beginRetrain_inv | (apply foldl_inv <;> (try intro _ _ _)) | apply ite_inv)
    | intro _ | split

theorem execLockLoss_keeps {p : Nat} {r : Nat} {s : State} (hs : s.inv = true) : Out.keeps (execLockLoss p r s) := by
  unfold execLockLoss
  try dsimp only
  repeat' first
    | (with_reducible first
        | assumption | apply next_keeps | apply within_keeps | apply State.penalise_inv | apply State.bump_inv
        | apply State.put_inv | apply State.laneDown_inv | apply ite_inv)
    | intro _ | split

end Sys2Proof.Machine
end

