-- ==== Sys2Proof/Laws/KeepHealth.lean ====
section
/-! SUPPORT. The definitions of Machine/Health.lean keep the invariant State.inv of Safety.lean: one lemma each. -/

namespace Sys2Proof.Machine

theorem State.setOther_inv {s : State} {b : Nat} {on : Bool} (hs : s.inv = true) : (State.setOther s b on).inv =
    true := by
  unfold State.setOther
  try dsimp only
  repeat' first
    | (with_reducible first | assumption | apply State.setReg_inv)
    | intro _ | split

theorem State.setFence_inv {s : State} {u : Nat} {on : Bool} (hs : s.inv = true) : (State.setFence s u on).inv =
    true := by
  unfold State.setFence
  try dsimp only
  repeat' first
    | (with_reducible first
        | assumption | apply State.setReg_inv | apply State.put_inv | apply State.setOther_inv
        | (apply foldl_inv <;> (try intro _ _ _)))
    | (simp only [State.lit_inv]; refine ⟨?_, ?_, ?_, ?_, ?_, ?_, ?_, ?_, ?_⟩)
    | (with_reducible first
        | apply ite_inv | apply State.inv_mem | apply State.inv_regs | apply State.inv_asks | apply State.inv_tiles
        | apply State.inv_each | apply State.inv_counters | apply State.inv_chans | apply State.inv_tags
        | apply State.inv_wear)
    | intro _ | split

theorem State.fencePort_inv {s : State} {p : Nat} (hs : s.inv = true) : (State.fencePort s p).inv = true := by
  unfold State.fencePort
  try dsimp only
  repeat' first
    | (with_reducible first | assumption | apply State.laserEn_inv | apply State.put_inv | apply State.blank_inv)
    | intro _ | split

theorem State.fenceDiePorts_inv {s : State} {n : Nat} (hs : s.inv = true) : (State.fenceDiePorts s n).inv = true := by
  unfold State.fenceDiePorts
  try dsimp only
  repeat' first
    | (with_reducible first | assumption | apply State.fencePort_inv | (apply foldl_inv <;> (try intro _ _ _)))
    | intro _ | split

theorem State.narrowLink_inv {s : State} {u : Nat} (hs : s.inv = true) : (State.narrowLink s u).inv = true := by
  unfold State.narrowLink
  try dsimp only
  repeat' first
    | (with_reducible first | assumption | apply State.log_inv | apply State.put_inv)
    | intro _ | split

theorem State.linkPenalty_inv {s : State} {u : Nat} {w : Nat} (hs : s.inv = true) : (State.linkPenalty s u
    w).inv = true := by
  unfold State.linkPenalty
  try dsimp only
  repeat' first
    | (with_reducible first | assumption | apply State.penalise_inv | apply ite_inv)
    | intro _ | split

theorem State.halfWidth_inv {s : State} {u : Nat} (hs : s.inv = true) : (State.halfWidth s u).inv = true := by
  unfold State.halfWidth
  try dsimp only
  repeat' first
    | (with_reducible first | assumption | apply State.narrowLink_inv | apply State.linkPenalty_inv)
    | intro _ | split

theorem State.recordLate_inv {s : State} {u : Nat} (hs : s.inv = true) : (State.recordLate s u).inv = true := by
  unfold State.recordLate
  try dsimp only
  repeat' first
    | (with_reducible first | assumption | apply State.logFence_inv)
    | (simp only [State.lit_inv]; refine ⟨?_, ?_, ?_, ?_, ?_, ?_, ?_, ?_, ?_⟩)
    | (with_reducible first
        | apply State.inv_mem | apply State.inv_regs | apply State.inv_asks | apply State.inv_tiles
        | apply State.inv_each | apply State.inv_counters | apply State.inv_chans | apply State.inv_tags
        | apply State.inv_wear)
    | intro _ | split

theorem State.cutPorts_inv {s : State} {n : Nat} (hs : s.inv = true) : (State.cutPorts s n).inv = true := by
  unfold State.cutPorts
  try dsimp only
  repeat' first
    | (with_reducible first
        | assumption | apply State.noteFence_inv | apply State.fencePort_inv
        | (apply foldl_inv <;> (try intro _ _ _)) | apply ite_inv)
    | intro _ | split

theorem State.fenceAttachment_inv {s : State} {u : Nat} (hs : s.inv = true) : (State.fenceAttachment s u).inv =
    true := by
  unfold State.fenceAttachment
  try dsimp only
  repeat' first
    | (with_reducible first
        | assumption | apply State.setOther_inv | apply State.recordLate_inv | apply State.put_inv
        | apply State.setEdge_inv | apply State.noteFence_inv | apply State.cutPorts_inv | apply ite_inv)
    | intro _ | split

theorem State.fenceCluster_inv {s : State} {q : Nat} (hs : s.inv = true) : (State.fenceCluster s q).inv = true := by
  unfold State.fenceCluster
  try dsimp only
  repeat' first
    | (with_reducible first
        | assumption | apply State.setReg_inv | apply State.logFence_inv | apply State.setChan_inv
        | apply State.setTile_inv | apply State.tile_wf | apply State.endFenced_inv | apply State.noteFence_inv
        | (apply foldl_inv <;> (try intro _ _ _)))
    | (simp only [State.lit_inv]; refine ⟨?_, ?_, ?_, ?_, ?_, ?_, ?_, ?_, ?_⟩)
    | simp only [Tile.lit_wf]
    | (with_reducible first
        | apply ite_inv | apply State.inv_mem | apply State.inv_regs | apply State.inv_asks | apply State.inv_tiles
        | apply State.inv_each | apply State.inv_counters | apply State.inv_chans | apply State.inv_tags
        | apply State.inv_wear | apply State.tile_wf | apply State.setTile_inv | apply Tile.memOk)
    | intro _ | split

theorem State.linkFence_inv {s : State} {u : Nat} (hs : s.inv = true) : (State.linkFence s u).inv = true := by
  unfold State.linkFence
  try dsimp only
  repeat' first
    | (with_reducible first
        | assumption | apply State.log_inv | apply State.fenceAttachment_inv | apply State.recordLate_inv
        | apply State.drainFor_inv | apply State.put_inv | apply State.fenceCluster_inv | apply ite_inv)
    | intro _ | split

theorem State.bringLink_inv {s : State} {u : Nat} {width : Nat} (hs : s.inv = true) : (State.bringLink s u
    width).inv = true := by
  unfold State.bringLink
  try dsimp only
  repeat' first
    | (with_reducible first
        | assumption | apply State.put_inv | apply State.halfWidth_inv | apply State.linkFence_inv | apply ite_inv)
    | intro _ | split

theorem State.requalifySensors_inv {s : State} (hs : s.inv = true) : (State.requalifySensors s).inv = true := by
  unfold State.requalifySensors
  try dsimp only
  repeat' first
    | (with_reducible first | assumption | apply State.draw_inv)
    | (simp only [State.lit_inv]; refine ⟨?_, ?_, ?_, ?_, ?_, ?_, ?_, ?_, ?_⟩)
    | (with_reducible first
        | apply State.inv_mem | apply State.inv_regs | apply State.inv_asks | apply State.inv_tiles
        | apply State.inv_each | apply State.inv_counters | apply State.inv_chans | apply State.inv_tags
        | apply State.inv_wear)
    | intro _ | split

theorem State.applyFail_inv {s : State} {f : MFail} (hs : s.inv = true) : (State.applyFail s f).inv = true := by
  unfold State.applyFail
  try dsimp only
  repeat' first
    | (with_reducible first
        | assumption | apply State.logMargin_inv | apply State.logFence_inv | apply State.setFence_inv
        | apply State.put_inv | apply State.retireLane_inv | apply State.linkFence_inv | apply State.narrowLink_inv
        | apply ite_inv)
    | intro _ | split

theorem State.marginTests_inv {s : State} {fails : List MFail} (hs : s.inv = true) : (State.marginTests s
    fails).inv = true := by
  unfold State.marginTests
  try dsimp only
  repeat' first
    | (with_reducible first
        | assumption | apply State.requalifySensors_inv | apply State.applyFail_inv
        | (apply foldl_inv <;> (try intro _ _ _)))
    | intro _ | split

theorem State.acceptQueued_inv {s : State} (hs : s.inv = true) : (State.acceptQueued s).inv = true := by
  unfold State.acceptQueued
  try dsimp only
  repeat' first
    | (with_reducible first | assumption | apply State.setFab_inv)
    | intro _ | split

theorem State.stopWork_inv {s : State} (hs : s.inv = true) : (State.stopWork s).inv = true := by
  unfold State.stopWork
  try dsimp only
  repeat' first
    | (with_reducible first | assumption | apply State.endTag_inv | (apply foldl_inv <;> (try intro _ _ _)))
    | (simp only [State.lit_inv]; refine ⟨?_, ?_, ?_, ?_, ?_, ?_, ?_, ?_, ?_⟩)
    | (with_reducible first
        | apply ite_inv | apply State.inv_mem | apply State.inv_regs | apply State.inv_asks | apply State.inv_tiles
        | apply State.inv_each | apply State.inv_counters | apply State.inv_chans | apply State.inv_tags
        | apply State.inv_wear | apply SMap.wf_mapv)
    | intro _ | split

theorem State.startDrain_inv {s : State} {cause : Nat} (hs : s.inv = true) : (State.startDrain s cause).inv =
    true := by
  unfold State.startDrain
  try dsimp only
  repeat' first
    | (with_reducible first
        | assumption | apply State.put_inv | apply State.acceptQueued_inv | apply State.log_inv
        | apply State.stopWork_inv)
    | (simp only [State.lit_inv]; refine ⟨?_, ?_, ?_, ?_, ?_, ?_, ?_, ?_, ?_⟩)
    | (with_reducible first
        | apply ite_inv | apply State.inv_mem | apply State.inv_regs | apply State.inv_asks | apply State.inv_tiles
        | apply State.inv_each | apply State.inv_counters | apply State.inv_chans | apply State.inv_tags
        | apply State.inv_wear)
    | intro _ | split

theorem State.drainNow_inv {s : State} (hs : s.inv = true) : (State.drainNow s).inv = true := by
  unfold State.drainNow
  try dsimp only
  repeat' first
    | (with_reducible first | assumption | apply State.askDone_inv | apply State.startDrain_inv | apply ite_inv)
    | intro _ | split

theorem execDrain_keeps {s : State} (hs : s.inv = true) : Out.keeps (execDrain s) := by
  unfold execDrain
  try dsimp only
  repeat' first
    | (with_reducible first | assumption | apply next_keeps | apply State.drainNow_inv)
    | intro _ | split

theorem State.endAll_inv {s : State} (hs : s.inv = true) : (State.endAll s).inv = true := by
  unfold State.endAll
  try dsimp only
  repeat' first
    | (with_reducible first
        | assumption | apply State.setTile_inv | apply State.tile_wf | apply State.endFenced_inv
        | apply State.endContext_inv | (apply foldl_inv <;> (try intro _ _ _)))
    | simp only [Tile.lit_wf]
    | (with_reducible first | apply ite_inv | apply State.tile_wf | apply State.setTile_inv | apply Tile.memOk)
    | intro _ | split

theorem execDrainComplete_keeps {s : State} (hs : s.inv = true) : Out.keeps (execDrainComplete s) := by
  unfold execDrainComplete
  try dsimp only
  repeat' first
    | (with_reducible first | assumption | apply next_keeps | apply State.endAll_inv | apply State.put_inv)
    | (simp only [State.lit_inv]; refine ⟨?_, ?_, ?_, ?_, ?_, ?_, ?_, ?_, ?_⟩)
    | (with_reducible first
        | apply ite_inv | apply State.inv_mem | apply State.inv_regs | apply State.inv_asks | apply State.inv_tiles
        | apply State.inv_each | apply State.inv_counters | apply State.inv_chans | apply State.inv_tags
        | apply State.inv_wear)
    | intro _ | split

theorem State.march_inv {s : State} (hs : s.inv = true) : (State.march s).inv = true := by
  unfold State.march
  dsimp only
  rw [State.lit_inv]
  refine ⟨State.inv_mem hs, State.inv_regs hs, State.inv_asks hs, SMap.wf_tabulate _ _ _, ?_, State.inv_counters hs,
    State.inv_chans hs, State.inv_tags hs, State.inv_wear hs⟩
  intro e he
  obtain ⟨x, -, hx⟩ := List.mem_filterMap.1 he
  split at hx
  · cases hx
  · cases hx; rfl

theorem State.marginCmd_inv {s : State} {hearth : Bool} {fails : List MFail} (hs : s.inv = true) :
    (State.marginCmd s hearth fails).inv = true := by
  unfold State.marginCmd
  try dsimp only
  repeat' first
    | (with_reducible first
        | assumption | apply State.noEffect_inv | apply State.marginTests_inv | apply State.march_inv
        | apply State.askDone_inv | apply ite_inv)
    | intro _ | split

theorem execMarginTests_keeps {hearth : Bool} {fails : List MFail} {s : State} (hs : s.inv = true) : Out.keeps
    (execMarginTests hearth fails s) := by
  unfold execMarginTests
  try dsimp only
  repeat' first
    | (with_reducible first | assumption | apply next_keeps | apply State.marginCmd_inv)
    | intro _ | split

theorem State.fenceStack_inv {s : State} {k : Nat} (hs : s.inv = true) : (State.fenceStack s k).inv = true := by
  unfold State.fenceStack
  try dsimp only
  repeat' first
    | (with_reducible first
        | assumption | apply State.setOther_inv | apply State.recordLate_inv | apply State.noteFence_inv)
    | (simp only [State.lit_inv]; refine ⟨?_, ?_, ?_, ?_, ?_, ?_, ?_, ?_, ?_⟩)
    | (with_reducible first
        | apply ite_inv | apply State.inv_mem | apply State.inv_regs | apply State.inv_asks | apply State.inv_tiles
        | apply State.inv_each | apply State.inv_counters | apply State.inv_chans | apply State.inv_tags
        | apply State.inv_wear)
    | intro _ | split

theorem execLinkLaneFail_keeps {u : Nat} {spare : Bool} {s : State} (hs : s.inv = true) : Out.keeps
    (execLinkLaneFail u spare s) := by
  unfold execLinkLaneFail
  try dsimp only
  repeat' first
    | (with_reducible first
        | assumption | apply next_keeps | apply within_keeps | apply State.fenceStack_inv
        | apply State.linkPenalty_inv | apply State.put_inv | apply State.linkFence_inv)
    | (simp only [State.lit_inv]; refine ⟨?_, ?_, ?_, ?_, ?_, ?_, ?_, ?_, ?_⟩)
    | (with_reducible first
        | apply ite_inv | apply State.inv_mem | apply State.inv_regs | apply State.inv_asks | apply State.inv_tiles
        | apply State.inv_each | apply State.inv_counters | apply State.inv_chans | apply State.inv_tags
        | apply State.inv_wear)
    | intro _ | split

theorem execLinkDegraded_keeps {u : Nat} {both : Bool} {s : State} (hs : s.inv = true) : Out.keeps
    (execLinkDegraded u both s) := by
  unfold execLinkDegraded
  try dsimp only
  repeat' first
    | (with_reducible first
        | assumption | apply next_keeps | apply within_keeps | apply State.linkFence_inv | apply State.halfWidth_inv)
    | (simp only [State.lit_inv]; refine ⟨?_, ?_, ?_, ?_, ?_, ?_, ?_, ?_, ?_⟩)
    | (with_reducible first
        | apply ite_inv | apply State.inv_mem | apply State.inv_regs | apply State.inv_asks | apply State.inv_tiles
        | apply State.inv_each | apply State.inv_counters | apply State.inv_chans | apply State.inv_tags
        | apply State.inv_wear)
    | intro _ | split

theorem execHealthDecay_keeps {s : State} (hs : s.inv = true) : Out.keeps (execHealthDecay s) := by
  unfold execHealthDecay
  try dsimp only
  repeat' first
    | (with_reducible first | assumption | apply next_keeps)
    | (simp only [State.lit_inv]; refine ⟨?_, ?_, ?_, ?_, ?_, ?_, ?_, ?_, ?_⟩)
    | (with_reducible first
        | apply ite_inv | apply State.inv_mem | apply State.inv_regs | apply State.inv_asks | apply State.inv_tiles
        | apply State.inv_each | apply State.inv_counters | apply State.inv_chans | apply State.inv_tags
        | apply State.inv_wear)
    | intro _ | split

theorem State.saveHealth_inv {s : State} (hs : s.inv = true) : (State.saveHealth s).inv = true := by
  unfold State.saveHealth
  try dsimp only
  repeat' first
    | (with_reducible first | assumption)
    | (simp only [State.lit_inv]; refine ⟨?_, ?_, ?_, ?_, ?_, ?_, ?_, ?_, ?_⟩)
    | (with_reducible first
        | apply State.inv_mem | apply State.inv_regs | apply State.inv_asks | apply State.inv_tiles
        | apply State.inv_each | apply State.inv_counters | apply State.inv_chans | apply State.inv_tags
        | apply State.inv_wear)
    | intro _ | split

theorem execHealthSave_keeps {s : State} (hs : s.inv = true) : Out.keeps (execHealthSave s) := by
  unfold execHealthSave
  try dsimp only
  repeat' first
    | (with_reducible first | assumption | apply next_keeps | apply State.saveHealth_inv | apply ite_inv)
    | intro _ | split

theorem execUcieBringup_keeps {u : Nat} {width : Nat} {s : State} (hs : s.inv = true) : Out.keeps
    (execUcieBringup u width s) := by
  unfold execUcieBringup
  try dsimp only
  repeat' first
    | (with_reducible first
        | assumption | apply next_keeps | apply within_keeps | apply State.bringLink_inv | apply ite_inv)
    | intro _ | split

theorem State.restorePorts_inv {s : State} {n : Nat} (hs : s.inv = true) : (State.restorePorts s n).inv = true := by
  unfold State.restorePorts
  try dsimp only
  repeat' first
    | (with_reducible first
        | assumption | apply State.put_inv | (apply foldl_inv <;> (try intro _ _ _)) | apply ite_inv)
    | intro _ | split

theorem State.retest_inv {s : State} {fails : List MFail} (hs : s.inv = true) : (State.retest s fails).1.inv =
    true := by
  unfold State.retest
  try dsimp only
  repeat' first
    | (with_reducible first
        | assumption | apply State.logMargin_inv | apply State.setFence_inv | apply State.restorePorts_inv
        | (apply foldl_inv <;> (try intro _ _ _)))
    | (simp only [State.lit_inv]; refine ⟨?_, ?_, ?_, ?_, ?_, ?_, ?_, ?_, ?_⟩)
    | (with_reducible first
        | apply ite_inv | apply State.inv_mem | apply State.inv_regs | apply State.inv_asks | apply State.inv_tiles
        | apply State.inv_each | apply State.inv_counters | apply State.inv_chans | apply State.inv_tags
        | apply State.inv_wear)
    | intro _ | split

end Sys2Proof.Machine
end

