-- ==== Sys2Proof/Laws/KeepMemCtl.lean ====
section
/-! SUPPORT. The definitions of Machine/MemCtl.lean keep the invariant State.inv of Safety.lean: one lemma each. -/

namespace Sys2Proof.Machine

theorem genGranule_wf {g : GenRun} {m pass q n : Nat} {wr : Bool} {errs : List TgErr} {x : Mem × List (Nat × Nat)}
    (h : x.1.wf = true) :
    (genGranule g m pass q n wr errs x).1.wf = true := by
  unfold genGranule
  refine foldl_prop (P := fun (y : Mem × List (Nat × Nat)) => y.1.wf = true) (fun u sec hu => ?_) h
  cases wr with
  | true => exact Mem.lit_wf.2 ⟨wrStored_wf (Mem.wf_hbm hu), Mem.wf_cbytes hu, Mem.wf_lines hu⟩
  | false => exact hu

theorem genMoves_wf {g : GenRun} {m w : Nat} {errs : List TgErr} {x : Mem} (h : x.wf = true) :
    (genMoves g m w errs x).1.wf = true :=
  foldl_prop (P := fun (y : Mem × List (Nat × Nat)) => y.1.wf = true) (fun _ _ hu => genGranule_wf hu) h

theorem Mem.upset_wf {m : Mem} {ch : Nat} {q : Nat} {sec : Nat} {u : List (Nat × Byte)} (hm : m.wf = true) :
    (Mem.upset m ch q sec u).wf = true := by
  unfold Mem.upset
  try dsimp only
  repeat' first
    | (with_reducible first | assumption)
    | (simp only [Mem.lit_wf]; refine ⟨?_, ?_, ?_⟩)
    | (with_reducible first | apply Mem.wf_hbm | apply Mem.wf_cbytes | apply Mem.wf_lines | apply wrStored_wf)
    | intro _ | split

theorem execCacheSectorAccess_keeps {a : Nat} {n : Nat} {data : Option (List Byte)} {hint : Nat} {src : Nat} {u
    : List (Nat × Byte)} {s : State} (hs : s.inv = true) : Out.keeps (execCacheSectorAccess a n data hint src u
    s) := by
  unfold execCacheSectorAccess
  try dsimp only
  repeat' first
    | (with_reducible first
        | assumption | apply next_keeps | apply Mem.upset_wf | apply State.devRead_inv | apply State.devWrite_inv)
    | (simp only [State.lit_inv]; refine ⟨?_, ?_, ?_, ?_, ?_, ?_, ?_, ?_, ?_⟩)
    | (with_reducible first
        | apply ite_inv | apply State.inv_mem | apply State.inv_regs | apply State.inv_asks | apply State.inv_tiles
        | apply State.inv_each | apply State.inv_counters | apply State.inv_chans | apply State.inv_tags
        | apply State.inv_wear)
    | intro _ | split

theorem execPatrolScrub_keeps {m : Nat} {q : Nat} {sec : Nat} {u : List (Nat × Byte)} {s : State} (hs : s.inv =
    true) : Out.keeps (execPatrolScrub m q sec u s) := by
  unfold execPatrolScrub
  try dsimp only
  repeat' first
    | (with_reducible first
        | assumption | apply next_keeps | apply within_keeps | apply State.penalise_inv | apply State.bump_inv
        | apply State.log_inv)
    | (simp only [State.lit_inv]; refine ⟨?_, ?_, ?_, ?_, ?_, ?_, ?_, ?_, ?_⟩)
    | (simp only [Mem.lit_wf]; refine ⟨?_, ?_, ?_⟩)
    | (with_reducible first
        | apply ite_inv | apply State.inv_mem | apply State.inv_regs | apply State.inv_asks | apply State.inv_tiles
        | apply State.inv_each | apply State.inv_counters | apply State.inv_chans | apply State.inv_tags
        | apply State.inv_wear | apply Mem.wf_hbm | apply Mem.wf_cbytes | apply Mem.wf_lines | apply wrStored_wf)
    | intro _ | split

theorem State.mchRefuse_inv {s : State} {hearth : Bool} {m : Nat} (hs : s.inv = true) : (State.mchRefuse s
    hearth m).inv = true := by
  unfold State.mchRefuse
  try dsimp only
  repeat' first
    | (with_reducible first | assumption | apply State.noEffect_inv | apply State.put_inv)
    | intro _ | split

theorem State.flushChannel_inv {s : State} {m : Nat} (hs : s.inv = true) : (State.flushChannel s m).inv = true := by
  unfold State.flushChannel
  try dsimp only
  repeat' first
    | (with_reducible first
        | assumption | apply State.foldComb_inv | apply Mem.evict_wf | (apply foldl_inv <;> (try intro _ _ _))
        | (apply foldl_wf <;> (try intro _ _ _)))
    | (simp only [State.lit_inv]; refine ⟨?_, ?_, ?_, ?_, ?_, ?_, ?_, ?_, ?_⟩)
    | (with_reducible first
        | apply State.inv_mem | apply State.inv_regs | apply State.inv_asks | apply State.inv_tiles
        | apply State.inv_each | apply State.inv_counters | apply State.inv_chans | apply State.inv_tags
        | apply State.inv_wear)
    | intro _ | split

theorem State.takeOut_inv {s : State} {hearth : Bool} {m : Nat} (hs : s.inv = true) : (State.takeOut s hearth
    m).inv = true := by
  unfold State.takeOut
  try dsimp only
  repeat' first
    | (with_reducible first
        | assumption | apply State.mchRefuse_inv | apply State.askDone_inv | apply State.put_inv
        | apply State.flushChannel_inv | apply ite_inv)
    | intro _ | split

theorem execTakeOutOfService_keeps {hearth : Bool} {m : Nat} {s : State} (hs : s.inv = true) : Out.keeps
    (execTakeOutOfService hearth m s) := by
  unfold execTakeOutOfService
  try dsimp only
  repeat' first
    | (with_reducible first | assumption | apply next_keeps | apply within_keeps | apply State.takeOut_inv)
    | intro _ | split

theorem State.genEnd_inv {s : State} {m : Nat} {w : Nat} {errs : List TgErr} (hs : s.inv = true) : (State.genEnd
    s m w errs).inv = true := by
  unfold State.genEnd
  try dsimp only
  repeat' first
    | (with_reducible first
        | assumption | apply State.put_inv | apply State.bump_inv | (apply foldl_inv <;> (try intro _ _ _)))
    | (simp only [State.lit_inv]; refine ⟨?_, ?_, ?_, ?_, ?_, ?_, ?_, ?_, ?_⟩)
    | (with_reducible first
        | apply State.inv_mem | apply State.inv_regs | apply State.inv_asks | apply State.inv_tiles
        | apply State.inv_each | apply State.inv_counters | apply State.inv_chans | apply State.inv_tags
        | apply State.inv_wear | apply genMoves_wf)
    | intro _ | split

theorem State.genHalt_inv {s : State} {m : Nat} {errs : List TgErr} (hs : s.inv = true) : (State.genHalt s m
    errs).inv = true := by
  unfold State.genHalt
  try dsimp only
  repeat' first
    | (with_reducible first | assumption | apply State.drawTime_inv | apply State.genEnd_inv)
    | intro _ | split

theorem State.returnIn_inv {s : State} {hearth : Bool} {m : Nat} {errs : List TgErr} (hs : s.inv = true) :
    (State.returnIn s hearth m errs).inv = true := by
  unfold State.returnIn
  try dsimp only
  repeat' first
    | (with_reducible first
        | assumption | apply State.mchRefuse_inv | apply State.askDone_inv | apply State.genHalt_inv
        | apply State.put_inv | apply ite_inv)
    | intro _ | split

theorem execReturnToService_keeps {hearth : Bool} {m : Nat} {errs : List TgErr} {s : State} (hs : s.inv = true)
    : Out.keeps (execReturnToService hearth m errs s) := by
  unfold execReturnToService
  try dsimp only
  repeat' first
    | (with_reducible first | assumption | apply next_keeps | apply within_keeps | apply State.returnIn_inv)
    | intro _ | split

theorem execChannelLeavingDone_keeps {m : Nat} {s : State} (hs : s.inv = true) : Out.keeps
    (execChannelLeavingDone m s) := by
  unfold execChannelLeavingDone
  try dsimp only
  repeat' first
    | (with_reducible first
        | assumption | apply next_keeps | apply within_keeps | apply State.put_inv | apply State.flushChannel_inv
        | apply ite_inv)
    | intro _ | split

theorem Mem.zeroChannel_wf {x : Mem} {m : Nat} (hx : x.wf = true) : (Mem.zeroChannel x m).wf = true := by
  unfold Mem.zeroChannel
  try dsimp only
  repeat' first
    | (with_reducible first | assumption)
    | (simp only [Mem.lit_wf]; refine ⟨?_, ?_, ?_⟩)
    | (with_reducible first
        | apply SMap.sorted_keep | apply SMap.wf_keep | apply Mem.wf_hbm | apply Mem.wf_cbytes | apply Mem.wf_lines)
    | intro _ | split

theorem execChannelFillDone_keeps {m : Nat} {s : State} (hs : s.inv = true) : Out.keeps (execChannelFillDone m
    s) := by
  unfold execChannelFillDone
  try dsimp only
  repeat' first
    | (with_reducible first
        | assumption | apply next_keeps | apply within_keeps | apply State.put_inv | apply Mem.zeroChannel_wf)
    | (simp only [State.lit_inv]; refine ⟨?_, ?_, ?_, ?_, ?_, ?_, ?_, ?_, ?_⟩)
    | (with_reducible first
        | apply ite_inv | apply State.inv_mem | apply State.inv_regs | apply State.inv_asks | apply State.inv_tiles
        | apply State.inv_each | apply State.inv_counters | apply State.inv_chans | apply State.inv_tags
        | apply State.inv_wear)
    | intro _ | split

theorem State.genClear_inv {s : State} {m : Nat} (hs : s.inv = true) : (State.genClear s m).inv = true := by
  unfold State.genClear
  try dsimp only
  repeat' first
    | (with_reducible first
        | assumption | apply State.setReg_inv | apply State.put_inv | (apply foldl_inv <;> (try intro _ _ _)))
    | intro _ | split

theorem State.startGen_inv {s : State} {hearth : Bool} {m : Nat} (hs : s.inv = true) : (State.startGen s hearth
    m).inv = true := by
  unfold State.startGen
  try dsimp only
  repeat' first
    | (with_reducible first
        | assumption | apply State.mchRefuse_inv | apply State.genClear_inv | apply State.askDone_inv
        | apply State.put_inv | apply State.draw_inv)
    | (simp only [State.lit_inv]; refine ⟨?_, ?_, ?_, ?_, ?_, ?_, ?_, ?_, ?_⟩)
    | (with_reducible first
        | apply ite_inv | apply State.inv_mem | apply State.inv_regs | apply State.inv_asks | apply State.inv_tiles
        | apply State.inv_each | apply State.inv_counters | apply State.inv_chans | apply State.inv_tags
        | apply State.inv_wear)
    | intro _ | split

theorem execStartGenerator_keeps {hearth : Bool} {m : Nat} {s : State} (hs : s.inv = true) : Out.keeps
    (execStartGenerator hearth m s) := by
  unfold execStartGenerator
  try dsimp only
  repeat' first
    | (with_reducible first | assumption | apply next_keeps | apply within_keeps | apply State.startGen_inv)
    | intro _ | split

theorem State.stopGen_inv {s : State} {m : Nat} {errs : List TgErr} (hs : s.inv = true) : (State.stopGen s m
    errs).inv = true := by
  unfold State.stopGen
  try dsimp only
  repeat' first
    | (with_reducible first | assumption | apply State.askDone_inv | apply State.genHalt_inv | apply ite_inv)
    | intro _ | split

theorem execStopGenerator_keeps {m : Nat} {errs : List TgErr} {s : State} (hs : s.inv = true) : Out.keeps
    (execStopGenerator m errs s) := by
  unfold execStopGenerator
  try dsimp only
  repeat' first
    | (with_reducible first | assumption | apply next_keeps | apply within_keeps | apply State.stopGen_inv)
    | intro _ | split

theorem execGeneratorDone_keeps {m : Nat} {errs : List TgErr} {s : State} (hs : s.inv = true) : Out.keeps
    (execGeneratorDone m errs s) := by
  unfold execGeneratorDone
  try dsimp only
  repeat' first
    | (with_reducible first
        | assumption | apply next_keeps | apply within_keeps | apply State.genEnd_inv | apply ite_inv)
    | intro _ | split

theorem State.haltGens_inv {s : State} (hs : s.inv = true) : (State.haltGens s).inv = true := by
  unfold State.haltGens
  try dsimp only
  repeat' first
    | (with_reducible first | assumption | apply State.genHalt_inv | (apply foldl_inv <;> (try intro _ _ _)))
    | intro _ | split

end Sys2Proof.Machine
end

