-- ==== Sys2Proof/Laws/KeepResets.lean ====
section
/-! SUPPORT. The definitions of Machine/Resets.lean keep the invariant State.inv of Safety.lean: one lemma each. -/

namespace Sys2Proof.Machine

theorem State.clearRegs_inv {s : State} {p : Reg → Bool} (hs : s.inv = true) : (State.clearRegs s p).inv = true := by
  unfold State.clearRegs
  try dsimp only
  repeat' first
    | (with_reducible first | assumption | apply hp)
    | (simp only [State.lit_inv]; refine ⟨?_, ?_, ?_, ?_, ?_, ?_, ?_, ?_, ?_⟩)
    | (with_reducible first
        | apply State.inv_mem | apply State.inv_regs | apply State.inv_asks | apply State.inv_tiles
        | apply State.inv_each | apply State.inv_counters | apply State.inv_chans | apply State.inv_tags
        | apply State.inv_wear | apply SMap.sorted_keep)
    | intro _ | split

theorem State.loseAll_inv {s : State} {held : Reg → Bool} (hs : s.inv = true) : (State.loseAll s held).inv =
    true := by
  unfold State.loseAll
  try dsimp only
  repeat' first
    | (with_reducible first
        | assumption | apply State.clearRegs_inv | apply State.stopSprint_inv | apply Mem.reset_wf | apply hheld)
    | (simp only [State.lit_inv]; refine ⟨?_, ?_, ?_, ?_, ?_, ?_, ?_, ?_, ?_⟩)
    | (with_reducible first
        | apply State.inv_regs | apply State.inv_asks | apply State.inv_wear | apply SMap.wf_nil | apply TilesWf.nil)
    | intro _ | split

theorem State.islandOnly_inv {s : State} (hs : s.inv = true) : (State.islandOnly s).inv = true := by
  unfold State.islandOnly
  try dsimp only
  repeat' first
    | (with_reducible first | assumption | apply State.loseAll_inv | apply State.put_inv)
    | intro _ | split

theorem State.downFor_inv {s : State} {cause : Nat} (hs : s.inv = true) : (State.downFor s cause).inv = true := by
  unfold State.downFor
  try dsimp only
  repeat' first
    | (with_reducible first | assumption)
    | (simp only [State.lit_inv]; refine ⟨?_, ?_, ?_, ?_, ?_, ?_, ?_, ?_, ?_⟩)
    | (with_reducible first
        | apply State.inv_mem | apply State.inv_regs | apply State.inv_asks | apply State.inv_tiles
        | apply State.inv_each | apply State.inv_counters | apply State.inv_chans | apply State.inv_tags
        | apply State.inv_wear)
    | intro _ | split

theorem State.shutDown_inv {s : State} {unit : Nat} {data : List Byte} (hs : s.inv = true) : (State.shutDown s
    unit data).inv = true := by
  unfold State.shutDown
  try dsimp only
  repeat' first
    | (with_reducible first | assumption | apply State.islandOnly_inv | apply State.log_inv | apply State.downFor_inv)
    | (simp only [State.lit_inv]; refine ⟨?_, ?_, ?_, ?_, ?_, ?_, ?_, ?_, ?_⟩)
    | (with_reducible first
        | apply State.inv_mem | apply State.inv_regs | apply State.inv_asks | apply State.inv_tiles
        | apply State.inv_each | apply State.inv_counters | apply State.inv_chans | apply State.inv_tags
        | apply State.inv_wear)
    | intro _ | split

theorem State.portsStart_inv {s : State} (hs : s.inv = true) : (State.portsStart s).inv = true := by
  unfold State.portsStart
  try dsimp only
  repeat' first
    | (with_reducible first
        | assumption | apply State.put_inv | apply State.laserEn_inv | (apply foldl_inv <;> (try intro _ _ _)))
    | (simp only [State.lit_inv]; refine ⟨?_, ?_, ?_, ?_, ?_, ?_, ?_, ?_, ?_⟩)
    | (with_reducible first
        | apply ite_inv | apply State.inv_mem | apply State.inv_regs | apply State.inv_asks | apply State.inv_tiles
        | apply State.inv_each | apply State.inv_counters | apply State.inv_chans | apply State.inv_tags
        | apply State.inv_wear)
    | intro _ | split

theorem State.wakeDie_inv {s : State} {d : Nat} (hs : s.inv = true) : (State.wakeDie s d).inv = true := by
  unfold State.wakeDie
  try dsimp only
  repeat' first
    | (with_reducible first | assumption | apply State.put_inv)
    | (simp only [State.lit_inv]; refine ⟨?_, ?_, ?_, ?_, ?_, ?_, ?_, ?_, ?_⟩)
    | (with_reducible first
        | apply ite_inv | apply State.inv_mem | apply State.inv_regs | apply State.inv_asks | apply State.inv_tiles
        | apply State.inv_each | apply State.inv_counters | apply State.inv_chans | apply State.inv_tags
        | apply State.inv_wear)
    | intro _ | split

theorem State.allDown_inv {s : State} {supply : Bool} (hs : s.inv = true) : (State.allDown s supply).inv = true := by
  unfold State.allDown
  try dsimp only
  repeat' first
    | (with_reducible first | assumption | apply State.loseAll_inv)
    | (simp only [State.lit_inv]; refine ⟨?_, ?_, ?_, ?_, ?_, ?_, ?_, ?_, ?_⟩)
    | (with_reducible first
        | apply ite_inv | apply State.inv_mem | apply State.inv_regs | apply State.inv_asks | apply State.inv_tiles
        | apply State.inv_each | apply State.inv_counters | apply State.inv_chans | apply State.inv_tags
        | apply State.inv_wear)
    | intro _ | split

theorem State.endCommands_inv {s : State} (hs : s.inv = true) : (State.endCommands s).inv = true := by
  unfold State.endCommands
  try dsimp only
  repeat' first
    | (with_reducible first | assumption | apply State.complete_inv | (apply foldl_inv <;> (try intro _ _ _)))
    | intro _ | split

theorem State.stopJob_inv {s : State} (hs : s.inv = true) : (State.stopJob s).inv = true := by
  unfold State.stopJob
  try dsimp only
  repeat' first
    | (with_reducible first | assumption | apply State.stopSprint_inv | apply State.endCommands_inv)
    | (simp only [State.lit_inv]; refine ⟨?_, ?_, ?_, ?_, ?_, ?_, ?_, ?_, ?_⟩)
    | (with_reducible first
        | apply State.inv_mem | apply State.inv_regs | apply State.inv_asks | apply State.inv_wear
        | apply SMap.wf_nil | apply TilesWf.nil)
    | intro _ | split

theorem State.writeBackCache_inv {s : State} (hs : s.inv = true) : (State.writeBackCache s).inv = true := by
  unfold State.writeBackCache
  try dsimp only
  repeat' first
    | (with_reducible first | assumption | apply State.foldAll_inv | apply Mem.writeBackAll_wf)
    | (simp only [State.lit_inv]; refine ⟨?_, ?_, ?_, ?_, ?_, ?_, ?_, ?_, ?_⟩)
    | (simp only [Mem.lit_wf]; refine ⟨?_, ?_, ?_⟩)
    | (with_reducible first
        | apply SMap.sorted_nil | apply State.inv_mem | apply State.inv_regs | apply State.inv_asks
        | apply State.inv_tiles | apply State.inv_each | apply State.inv_counters | apply State.inv_chans
        | apply State.inv_tags | apply State.inv_wear | apply SMap.wf_nil | apply Mem.wf_hbm)
    | intro _ | split

theorem State.clearPeer_inv {s : State} (hs : s.inv = true) : (State.clearPeer s).inv = true := by
  unfold State.clearPeer
  try dsimp only
  repeat' first
    | (with_reducible first | assumption | apply State.put_inv)
    | intro _ | split

theorem State.clearTwin_inv {s : State} (hs : s.inv = true) : (State.clearTwin s).inv = true := by
  unfold State.clearTwin
  try dsimp only
  repeat' first
    | (with_reducible first | assumption | apply State.put_inv)
    | intro _ | split

theorem State.clearPlanStatus_inv {s : State} (hs : s.inv = true) : (State.clearPlanStatus s).inv = true := by
  unfold State.clearPlanStatus
  try dsimp only
  repeat' first
    | (with_reducible first | assumption | apply State.put_inv | apply ite_inv)
    | intro _ | split

theorem State.computeReset_inv {s : State} {hearth : Bool} {fails : List MFail} (hs : s.inv = true) :
    (State.computeReset s hearth fails).inv = true := by
  unfold State.computeReset
  try dsimp only
  repeat' first
    | (with_reducible first
        | assumption | apply State.noEffect_inv | apply State.retest_inv | apply State.haltGens_inv
        | apply State.stopJob_inv | apply State.clearPlanStatus_inv | apply State.clearTwin_inv
        | apply State.clearRegs_inv | apply State.saveHealth_inv | apply State.bump_inv | apply State.setReg_inv
        | apply ite_inv)
    | intro _ | split

theorem execComputeReset_keeps {hearth : Bool} {fails : List MFail} {s : State} (hs : s.inv = true) : Out.keeps
    (execComputeReset hearth fails s) := by
  unfold execComputeReset
  try dsimp only
  repeat' first
    | (with_reducible first | assumption | apply next_keeps | apply State.computeReset_inv)
    | intro _ | split

theorem State.refuseSleep_inv {s : State} {hearth : Bool} (hs : s.inv = true) : (State.refuseSleep s hearth).inv
    = true := by
  unfold State.refuseSleep
  try dsimp only
  repeat' first
    | (with_reducible first | assumption | apply State.noEffect_inv | apply State.put_inv)
    | intro _ | split

theorem State.enterNap_inv {s : State} {hearth : Bool} (hs : s.inv = true) : (State.enterNap s hearth).inv =
    true := by
  unfold State.enterNap
  try dsimp only
  repeat' first
    | (with_reducible first
        | assumption | apply State.noEffect_inv | apply State.refuseSleep_inv | apply State.put_inv
        | apply State.writeBackCache_inv | apply State.askDone_inv | apply ite_inv)
    | intro _ | split

theorem execEnterNap_keeps {hearth : Bool} {s : State} (hs : s.inv = true) : Out.keeps (execEnterNap hearth s) := by
  unfold execEnterNap
  try dsimp only
  repeat' first
    | (with_reducible first | assumption | apply next_keeps | apply State.enterNap_inv)
    | intro _ | split

theorem State.leaveNap_inv {s : State} {hearth : Bool} (hs : s.inv = true) : (State.leaveNap s hearth).inv =
    true := by
  unfold State.leaveNap
  try dsimp only
  repeat' first
    | (with_reducible first | assumption | apply State.askDone_inv | apply State.put_inv | apply State.noEffect_inv)
    | (simp only [State.lit_inv]; refine ⟨?_, ?_, ?_, ?_, ?_, ?_, ?_, ?_, ?_⟩)
    | (with_reducible first
        | apply ite_inv | apply State.inv_mem | apply State.inv_regs | apply State.inv_asks
        | apply State.inv_counters | apply State.inv_chans | apply State.inv_tags | apply State.inv_wear
        | apply SMap.wf_nil | apply TilesWf.nil)
    | intro _ | split

theorem execLeaveNap_keeps {hearth : Bool} {s : State} (hs : s.inv = true) : Out.keeps (execLeaveNap hearth s) := by
  unfold execLeaveNap
  try dsimp only
  repeat' first
    | (with_reducible first | assumption | apply next_keeps | apply State.leaveNap_inv)
    | intro _ | split

theorem State.enterDeep_inv {s : State} {hearth : Bool} (hs : s.inv = true) : (State.enterDeep s hearth).inv =
    true := by
  unfold State.enterDeep
  try dsimp only
  repeat' first
    | (with_reducible first
        | assumption | apply State.noEffect_inv | apply State.refuseSleep_inv | apply State.saveHealth_inv
        | apply State.put_inv | apply State.writeBackCache_inv | apply State.haltGens_inv | apply State.askDone_inv
        | apply State.setReg_inv | (apply foldl_inv <;> (try intro _ _ _)) | apply ite_inv)
    | intro _ | split

theorem execEnterDeep_keeps {hearth : Bool} {s : State} (hs : s.inv = true) : Out.keeps (execEnterDeep hearth s) := by
  unfold execEnterDeep
  try dsimp only
  repeat' first
    | (with_reducible first | assumption | apply next_keeps | apply State.enterDeep_inv)
    | intro _ | split

theorem execIdleGate_keeps {d : Nat} {s : State} (hs : s.inv = true) : Out.keeps (execIdleGate d s) := by
  unfold execIdleGate
  try dsimp only
  repeat' first
    | (with_reducible first | assumption | apply next_keeps | apply within_keeps | apply State.put_inv)
    | (simp only [State.lit_inv]; refine ⟨?_, ?_, ?_, ?_, ?_, ?_, ?_, ?_, ?_⟩)
    | (with_reducible first
        | apply ite_inv | apply State.inv_mem | apply State.inv_regs | apply State.inv_asks | apply State.inv_tiles
        | apply State.inv_each | apply State.inv_counters | apply State.inv_chans | apply State.inv_tags
        | apply State.inv_wear)
    | intro _ | split

end Sys2Proof.Machine
end

