-- ==== Sys2Proof/Laws/KeepGovernor.lean ====
section
/-! SUPPORT. The definitions of Machine/Governor.lean keep the invariant State.inv of Safety.lean: one lemma each. -/

namespace Sys2Proof.Machine

theorem State.loadCosts_inv {s : State} {d : Nat} (hs : s.inv = true) : (State.loadCosts s d).inv = true := by
  unfold State.loadCosts
  try dsimp only
  repeat' first
    | (with_reducible first | assumption | apply State.setGov_inv)
    | intro _ | split

theorem State.takeDieref_inv {s : State} {d : Nat} (hs : s.inv = true) : (State.takeDieref s d).inv = true := by
  unfold State.takeDieref
  try dsimp only
  repeat' first
    | (with_reducible first | assumption | apply State.askDone_inv | apply State.put_inv)
    | intro _ | split

theorem State.countPauses_inv {s : State} {d : Nat} (hs : s.inv = true) : (State.countPauses s d).inv = true := by
  unfold State.countPauses
  try dsimp only
  repeat' first
    | (with_reducible first | assumption | apply State.drawTime_inv | apply State.bump_inv | apply ite_inv)
    | intro _ | split

theorem State.askAnew_inv {s : State} {d : Nat} (hs : s.inv = true) : (State.askAnew s d).inv = true := by
  unfold State.askAnew
  try dsimp only
  repeat' first
    | (with_reducible first
        | assumption | apply State.setTile_inv | apply State.tile_wf | (apply foldl_inv <;> (try intro _ _ _)))
    | simp only [Tile.lit_wf]
    | (with_reducible first | apply State.tile_wf | apply State.setTile_inv | apply Tile.memOk)
    | intro _ | split

theorem State.rowsGoOn_inv {s : State} {d : Nat} (hs : s.inv = true) : (State.rowsGoOn s d).inv = true := by
  unfold State.rowsGoOn
  try dsimp only
  repeat' first
    | (with_reducible first
        | assumption | apply State.takeRows_inv | (apply foldl_inv <;> (try intro _ _ _)) | apply ite_inv)
    | intro _ | split

theorem execGovRefill_keeps {d : Nat} {s : State} (hs : s.inv = true) : Out.keeps (execGovRefill d s) := by
  unfold execGovRefill
  try dsimp only
  repeat' first
    | (with_reducible first
        | assumption | apply next_keeps | apply within_keeps | apply State.loadCosts_inv | apply State.takeDieref_inv
        | apply State.countPauses_inv | apply State.tile_wf | apply State.setTile_inv | apply State.setGov_inv
        | apply State.askAnew_inv | apply State.rowsGoOn_inv | (apply foldl_inv <;> (try intro _ _ _)))
    | simp only [Tile.lit_wf]
    | (with_reducible first | apply ite_inv | apply State.tile_wf | apply State.setTile_inv | apply Tile.memOk)
    | intro _ | split

theorem State.grantTile_inv {s : State} {t : Nat} (hs : s.inv = true) : (State.grantTile s t).inv = true := by
  unfold State.grantTile
  try dsimp only
  repeat' first
    | (with_reducible first
        | assumption | apply State.tile_wf | apply State.setTile_inv | apply State.setGov_inv
        | apply State.takeRows_inv)
    | simp only [Tile.lit_wf]
    | (with_reducible first | apply ite_inv | apply State.tile_wf | apply State.setTile_inv | apply Tile.memOk)
    | intro _ | split

theorem execPoolGrant_keeps {d : Nat} {s : State} (hs : s.inv = true) : Out.keeps (execPoolGrant d s) := by
  unfold execPoolGrant
  try dsimp only
  repeat' first
    | (with_reducible first
        | assumption | apply next_keeps | apply within_keeps | apply State.rowsGoOn_inv | apply State.grantTile_inv)
    | intro _ | split

theorem State.takePowercap_inv {s : State} (hs : s.inv = true) : (State.takePowercap s).inv = true := by
  unfold State.takePowercap
  try dsimp only
  repeat' first
    | (with_reducible first | assumption | apply State.put_inv | apply State.askDone_inv | apply ite_inv)
    | intro _ | split

theorem State.endSprint_inv {s : State} {bound : Nat} {us : Nat} {win : Nat} (hs : s.inv = true) :
    (State.endSprint s bound us win).inv = true := by
  unfold State.endSprint
  try dsimp only
  repeat' first
    | (with_reducible first
        | assumption | apply State.log_inv | apply State.put_inv | apply State.sprintOff_inv | apply ite_inv)
    | intro _ | split

theorem State.cutSprint_inv {s : State} {bound : Nat} (hs : s.inv = true) : (State.cutSprint s bound).inv = true := by
  unfold State.cutSprint
  try dsimp only
  repeat' first
    | (with_reducible first | assumption | apply State.drawTime_inv | apply State.endSprint_inv | apply ite_inv)
    | intro _ | split

theorem State.powercapNow_inv {s : State} (hs : s.inv = true) : (State.powercapNow s).inv = true := by
  unfold State.powercapNow
  try dsimp only
  repeat' first
    | (with_reducible first | assumption | apply State.takePowercap_inv | apply State.cutSprint_inv | apply ite_inv)
    | intro _ | split

theorem State.stepRef_inv {s : State} {d : Nat} {mw : Nat} (hs : s.inv = true) : (State.stepRef s d mw).inv =
    true := by
  unfold State.stepRef
  try dsimp only
  repeat' first
    | (with_reducible first
        | assumption | apply State.draw_inv | apply State.setGov_inv | apply State.put_inv | apply ite_inv)
    | intro _ | split

theorem execHearthPowerStep_keeps {powers : List Nat} {input : Option Nat} {s : State} (hs : s.inv = true) :
    Out.keeps (execHearthPowerStep powers input s) := by
  unfold execHearthPowerStep
  try dsimp only
  repeat' first
    | (with_reducible first
        | assumption | apply next_keeps | apply State.powercapNow_inv | apply State.setGov_inv
        | apply State.stepRef_inv | (apply foldl_inv <;> (try intro _ _ _)) | apply ite_inv)
    | intro _ | split

theorem execPowerOver_keeps {s : State} (hs : s.inv = true) : Out.keeps (execPowerOver s) := by
  unfold execPowerOver
  try dsimp only
  repeat' first
    | (with_reducible first
        | assumption | apply next_keeps | apply State.put_inv | apply State.cutSprint_inv | apply State.log_inv
        | (apply foldl_inv <;> (try intro _ _ _)))
    | (simp only [State.lit_inv]; refine ⟨?_, ?_, ?_, ?_, ?_, ?_, ?_, ?_, ?_⟩)
    | (with_reducible first
        | apply ite_inv | apply State.inv_mem | apply State.inv_regs | apply State.inv_asks | apply State.inv_tiles
        | apply State.inv_each | apply State.inv_counters | apply State.inv_chans | apply State.inv_tags
        | apply State.inv_wear)
    | intro _ | split

theorem execPowerOverClear_keeps {s : State} (hs : s.inv = true) : Out.keeps (execPowerOverClear s) := by
  unfold execPowerOverClear
  try dsimp only
  repeat' first
    | (with_reducible first
        | assumption | apply next_keeps | apply State.put_inv | (apply foldl_inv <;> (try intro _ _ _))
        | apply ite_inv)
    | intro _ | split

theorem execSprintStart_keeps {win : Nat} {s : State} (hs : s.inv = true) : Out.keeps (execSprintStart win s) := by
  unfold execSprintStart
  try dsimp only
  repeat' first
    | (with_reducible first
        | assumption | apply next_keeps | apply State.put_inv | apply State.setGov_inv
        | (apply foldl_inv <;> (try intro _ _ _)) | apply ite_inv)
    | intro _ | split

theorem execSprintEnd_keeps {bound : Nat} {us : Nat} {win : Nat} {s : State} (hs : s.inv = true) : Out.keeps
    (execSprintEnd bound us win s) := by
  unfold execSprintEnd
  try dsimp only
  repeat' first
    | (with_reducible first | assumption | apply next_keeps | apply State.endSprint_inv | apply ite_inv)
    | intro _ | split

theorem State.setSensor_inv {s : State} {u : Nat} {i : Nat} {x : Sensor} (hs : s.inv = true) : (State.setSensor
    s u i x).inv = true := by
  unfold State.setSensor
  try dsimp only
  repeat' first
    | (with_reducible first | assumption)
    | (simp only [State.lit_inv]; refine ⟨?_, ?_, ?_, ?_, ?_, ?_, ?_, ?_, ?_⟩)
    | (with_reducible first
        | apply State.inv_mem | apply State.inv_regs | apply State.inv_asks | apply State.inv_tiles
        | apply State.inv_each | apply State.inv_counters | apply State.inv_chans | apply State.inv_tags
        | apply State.inv_wear)
    | intro _ | split

theorem State.logDie_inv {s : State} {ev : Ev} {u : Nat} {data : List Byte} (hs : s.inv = true) : (State.logDie
    s ev u data).inv = true := by
  unfold State.logDie
  try dsimp only
  repeat' first
    | (with_reducible first | assumption | apply State.draw_inv | apply State.log_inv | apply ite_inv)
    | intro _ | split

theorem State.suspect_inv {s : State} {u : Nat} {i : Nat} (hs : s.inv = true) : (State.suspect s u i).inv = true := by
  unfold State.suspect
  try dsimp only
  repeat' first
    | (with_reducible first | assumption | apply State.put_inv)
    | (simp only [State.lit_inv]; refine ⟨?_, ?_, ?_, ?_, ?_, ?_, ?_, ?_, ?_⟩)
    | (with_reducible first
        | apply ite_inv | apply State.inv_mem | apply State.inv_regs | apply State.inv_asks | apply State.inv_tiles
        | apply State.inv_each | apply State.inv_counters | apply State.inv_chans | apply State.inv_tags
        | apply State.inv_wear)
    | intro _ | split

theorem State.rateTrip_inv {s : State} {u : Nat} {rises : List Int} (hs : s.inv = true) : (State.rateTrip s u
    rises).inv = true := by
  unfold State.rateTrip
  try dsimp only
  repeat' first
    | (with_reducible first
        | assumption | apply State.put_inv | apply State.setGov_inv | apply State.logDie_inv | apply ite_inv)
    | intro _ | split

theorem State.setTrip_inv {s : State} {u : Nat} {b : Nat} {on : Bool} (hs : s.inv = true) : (State.setTrip s u b
    on).inv = true := by
  unfold State.setTrip
  try dsimp only
  repeat' first
    | (with_reducible first | assumption | apply State.put_inv)
    | (simp only [State.lit_inv]; refine ⟨?_, ?_, ?_, ?_, ?_, ?_, ?_, ?_, ?_⟩)
    | (with_reducible first
        | apply ite_inv | apply State.inv_mem | apply State.inv_regs | apply State.inv_asks | apply State.inv_tiles
        | apply State.inv_each | apply State.inv_counters | apply State.inv_chans | apply State.inv_tags
        | apply State.inv_wear)
    | intro _ | split

theorem State.judge_inv {s : State} {u : Nat} {b : Nat} {trip : Int} {clear : Int} {t : Int} (hs : s.inv = true)
    : (State.judge s u b trip clear t).inv = true := by
  unfold State.judge
  try dsimp only
  repeat' first
    | (with_reducible first | assumption | apply State.logDie_inv | apply State.setTrip_inv | apply ite_inv)
    | intro _ | split

theorem State.overheated_inv {s : State} {u : Nat} {t : Int} (hs : s.inv = true) : (State.overheated s u t).inv
    = true := by
  unfold State.overheated
  try dsimp only
  repeat' first
    | (with_reducible first | assumption | apply State.draw_inv | apply State.shutDown_inv | apply ite_inv)
    | intro _ | split

theorem execSensorSample_keeps {u : Nat} {r : List Int} {s : State} (hs : s.inv = true) : Out.keeps
    (execSensorSample u r s) := by
  unfold execSensorSample
  try dsimp only
  repeat' first
    | (with_reducible first
        | assumption | apply next_keeps | apply within_keeps | apply State.setSensor_inv | apply State.logDie_inv
        | apply State.suspect_inv | apply State.put_inv | apply State.rateTrip_inv | apply State.judge_inv
        | apply State.cutSprint_inv | apply State.overheated_inv | (apply foldl_inv <;> (try intro _ _ _)))
    | (simp only [State.lit_inv]; refine ⟨?_, ?_, ?_, ?_, ?_, ?_, ?_, ?_, ?_⟩)
    | (with_reducible first
        | apply ite_inv | apply State.inv_mem | apply State.inv_regs | apply State.inv_asks | apply State.inv_tiles
        | apply State.inv_each | apply State.inv_counters | apply State.inv_chans | apply State.inv_tags
        | apply State.inv_wear)
    | intro _ | split

theorem execThrottleFactorStep_keeps {d : Nat} {s : State} (hs : s.inv = true) : Out.keeps
    (execThrottleFactorStep d s) := by
  unfold execThrottleFactorStep
  try dsimp only
  repeat' first
    | (with_reducible first
        | assumption | apply next_keeps | apply within_keeps | apply State.put_inv | apply ite_inv)
    | intro _ | split

theorem execThermalShutdown_keeps {u : Nat} {t : Int} {s : State} (hs : s.inv = true) : Out.keeps
    (execThermalShutdown u t s) := by
  unfold execThermalShutdown
  try dsimp only
  repeat' first
    | (with_reducible first
        | assumption | apply next_keeps | apply within_keeps | apply State.overheated_inv | apply ite_inv)
    | intro _ | split

theorem execSprintCclkChange_keeps {s : State} (hs : s.inv = true) : Out.keeps (execSprintCclkChange s) := by
  unfold execSprintCclkChange
  try dsimp only
  repeat' first
    | (with_reducible first
        | assumption | apply next_keeps | apply State.put_inv | (apply foldl_inv <;> (try intro _ _ _))
        | apply ite_inv)
    | intro _ | split

theorem execDailyBucketRollover_keeps {s : State} (hs : s.inv = true) : Out.keeps (execDailyBucketRollover s) := by
  unfold execDailyBucketRollover
  refine next_keeps ?_
  dsimp only
  refine ite_inv (State.put_inv (State.lit_inv.2 ⟨State.inv_mem hs, State.inv_regs hs, State.inv_asks hs, State.inv_tiles hs,
    State.inv_each hs, State.inv_counters hs, State.inv_chans hs, State.inv_tags hs, ?_⟩)) hs
  have := State.inv_wear hs
  simp [this]

end Sys2Proof.Machine
end

