-- ==== Sys2Proof/Laws/KeepHearth.lean ====
section
/-! SUPPORT. The definitions of Machine/Hearth.lean keep the invariant State.inv of Safety.lean: one lemma each. -/

namespace Sys2Proof.Machine

theorem State.setHd_inv {s : State} {h : Hearth} (hs : s.inv = true) : (State.setHd s h).inv = true := by
  unfold State.setHd
  try dsimp only
  repeat' first
    | (with_reducible first | assumption)
    | (simp only [State.lit_inv]; refine ⟨?_, ?_, ?_, ?_, ?_, ?_, ?_, ?_, ?_⟩)
    | (with_reducible first
        | apply State.inv_mem | apply State.inv_regs | apply State.inv_asks | apply State.inv_tiles
        | apply State.inv_each | apply State.inv_counters | apply State.inv_chans | apply State.inv_tags
        | apply State.inv_wear)
    | intro _ | split

theorem State.admitDie_inv {s : State} {n : Nat} {vendor : Nat} {step : Nat} (hs : s.inv = true) :
    (State.admitDie s n vendor step).inv = true := by
  unfold State.admitDie
  try dsimp only
  repeat' first
    | (with_reducible first
        | assumption | apply State.draw_inv | apply State.setHd_inv | apply State.log_inv | apply State.setReg_inv
        | apply State.fenceDiePorts_inv | apply ite_inv)
    | intro _ | split

theorem State.loadComponents_inv {s : State} (hs : s.inv = true) : (State.loadComponents s).inv = true := by
  unfold State.loadComponents
  try dsimp only
  repeat' first
    | (with_reducible first | assumption | apply State.setHd_inv)
    | intro _ | split

theorem State.reportLost_inv {s : State} (hs : s.inv = true) : (State.reportLost s).inv = true := by
  unfold State.reportLost
  try dsimp only
  repeat' first
    | (with_reducible first | assumption | apply State.setHd_inv | apply State.log_inv | apply ite_inv)
    | intro _ | split

theorem State.startSlot_inv {s : State} {k : Nat} (hs : s.inv = true) : (State.startSlot s k).inv = true := by
  unfold State.startSlot
  try dsimp only
  repeat' first
    | (with_reducible first
        | assumption | apply State.draw_inv | apply State.setHd_inv | apply State.log_inv | apply State.setReg_inv)
    | intro _ | split

theorem State.runSlot_inv {s : State} {k : Nat} (hs : s.inv = true) : (State.runSlot s k).inv = true := by
  unfold State.runSlot
  try dsimp only
  repeat' first
    | (with_reducible first | assumption | apply State.reportLost_inv | apply State.startSlot_inv)
    | intro _ | split

theorem State.recover_inv {s : State} (hs : s.inv = true) : (State.recover s).inv = true := by
  unfold State.recover
  try dsimp only
  repeat' first
    | (with_reducible first | assumption | apply State.setReg_inv | apply State.islandOnly_inv | apply ite_inv)
    | intro _ | split

theorem State.bootFrom_inv {s : State} {ready : List Bool} (hs : s.inv = true) : (State.bootFrom s ready).inv =
    true := by
  unfold State.bootFrom
  try dsimp only
  repeat' first
    | (with_reducible first
        | assumption | apply State.runSlot_inv | apply State.log_inv | apply State.recover_inv | apply ite_inv)
    | intro _ | split

theorem State.noteSlot_inv {s : State} {k : Nat} (hs : s.inv = true) : (State.noteSlot s k).inv = true := by
  unfold State.noteSlot
  try dsimp only
  repeat' first
    | (with_reducible first | assumption | apply State.setReg_inv)
    | intro _ | split

theorem State.bootHearth_inv {s : State} {ready : List Bool} (hs : s.inv = true) : (State.bootHearth s
    ready).inv = true := by
  unfold State.bootHearth
  try dsimp only
  repeat' first
    | (with_reducible first | assumption | apply State.bootFrom_inv | apply State.noteSlot_inv)
    | intro _ | split

theorem execHearthBoot_keeps {ready : List Bool} {s : State} (hs : s.inv = true) : Out.keeps (execHearthBoot
    ready s) := by
  unfold execHearthBoot
  try dsimp only
  repeat' first
    | (with_reducible first | assumption | apply next_keeps | apply State.bootHearth_inv | apply ite_inv)
    | intro _ | split

theorem State.hearthStops_inv {s : State} (hs : s.inv = true) : (State.hearthStops s).inv = true := by
  unfold State.hearthStops
  try dsimp only
  repeat' first
    | (with_reducible first
        | assumption | apply State.clearRegs_inv | apply State.stopSprint_inv | apply State.setHd_inv)
    | intro _ | split

theorem State.hearthRestarts_inv {s : State} (hs : s.inv = true) : (State.hearthRestarts s).inv = true := by
  unfold State.hearthRestarts
  try dsimp only
  repeat' first
    | (with_reducible first | assumption | apply State.hearthStops_inv | apply State.askDone_inv)
    | intro _ | split

theorem execHearthReset_keeps {s : State} (hs : s.inv = true) : Out.keeps (execHearthReset s) := by
  unfold execHearthReset
  try dsimp only
  repeat' first
    | (with_reducible first | assumption | apply next_keeps | apply State.hearthRestarts_inv)
    | intro _ | split

theorem State.ringPut_inv {s : State} {r : Nat} (hs : s.inv = true) : (State.ringPut s r).inv = true := by
  unfold State.ringPut
  try dsimp only
  repeat' first
    | (with_reducible first | assumption | apply State.put_inv | apply State.setHd_inv | apply ite_inv)
    | intro _ | split

theorem State.protect_inv {s : State} {r : Nat} (hs : s.inv = true) : (State.protect s r).inv = true := by
  unfold State.protect
  try dsimp only
  repeat' first
    | (with_reducible first
        | assumption | apply State.put_inv | apply State.setHd_inv | apply State.log_inv | apply ite_inv)
    | intro _ | split

theorem State.offerHost_inv {s : State} {r : Nat} (hs : s.inv = true) : (State.offerHost s r).inv = true := by
  unfold State.offerHost
  try dsimp only
  repeat' first
    | (with_reducible first | assumption | apply State.setHost_inv | apply State.bump_inv | apply ite_inv)
    | intro _ | split

theorem execEventRecord_keeps {s : State} (hs : s.inv = true) : Out.keeps (execEventRecord s) := by
  unfold execEventRecord
  try dsimp only
  repeat' first
    | (with_reducible first
        | assumption | apply next_keeps | apply State.drawTime_inv | apply State.setHd_inv | apply State.ringPut_inv
        | apply State.protect_inv | apply State.offerHost_inv | apply State.bump_inv)
    | (simp only [State.lit_inv]; refine ⟨?_, ?_, ?_, ?_, ?_, ?_, ?_, ?_, ?_⟩)
    | (with_reducible first
        | apply ite_inv | apply State.inv_mem | apply State.inv_regs | apply State.inv_asks | apply State.inv_tiles
        | apply State.inv_each | apply State.inv_counters | apply State.inv_chans | apply State.inv_tags
        | apply State.inv_wear)
    | intro _ | split

theorem State.answer_inv {s : State} {kind : Nat} {ok : Bool} {data : List Byte} (hs : s.inv = true) :
    (State.answer s kind ok data).inv = true := by
  unfold State.answer
  try dsimp only
  repeat' first
    | (with_reducible first | assumption)
    | (simp only [State.lit_inv]; refine ⟨?_, ?_, ?_, ?_, ?_, ?_, ?_, ?_, ?_⟩)
    | (with_reducible first
        | apply State.inv_mem | apply State.inv_regs | apply State.inv_asks | apply State.inv_tiles
        | apply State.inv_each | apply State.inv_counters | apply State.inv_chans | apply State.inv_tags
        | apply State.inv_wear)
    | intro _ | split

theorem execRequestUpdate_keeps {image : List Byte} {s : State} (hs : s.inv = true) : Out.keeps
    (execRequestUpdate image s) := by
  unfold execRequestUpdate
  try dsimp only
  repeat' first
    | (with_reducible first
        | assumption | apply next_keeps | apply State.answer_inv | apply State.setHd_inv | apply State.put_inv
        | apply ite_inv)
    | intro _ | split

theorem execVerifyComplete_keeps {s : State} (hs : s.inv = true) : Out.keeps (execVerifyComplete s) := by
  unfold execVerifyComplete
  try dsimp only
  repeat' first
    | (with_reducible first
        | assumption | apply next_keeps | apply State.noteSlot_inv | apply State.setHd_inv | apply State.answer_inv
        | apply State.log_inv | apply ite_inv)
    | intro _ | split

theorem execActivateFirmware_keeps {s : State} (hs : s.inv = true) : Out.keeps (execActivateFirmware s) := by
  unfold execActivateFirmware
  try dsimp only
  repeat' first
    | (with_reducible first
        | assumption | apply next_keeps | apply State.answer_inv | apply State.setHd_inv | apply ite_inv)
    | intro _ | split

theorem execCommitSvn_keeps {s : State} (hs : s.inv = true) : Out.keeps (execCommitSvn s) := by
  unfold execCommitSvn
  try dsimp only
  repeat' first
    | (with_reducible first
        | assumption | apply next_keeps | apply State.log_inv | apply State.put_inv | apply ite_inv)
    | intro _ | split

theorem execSpdmChallenge_keeps {transcript : List Byte} {s : State} (hs : s.inv = true) : Out.keeps
    (execSpdmChallenge transcript s) := by
  unfold execSpdmChallenge
  try dsimp only
  repeat' first
    | (with_reducible first | assumption | apply next_keeps | apply State.answer_inv | apply ite_inv)
    | intro _ | split

theorem execSpdmGetMeasurements_keeps {index : Nat} {transcript : List Byte} {s : State} (hs : s.inv = true) :
    Out.keeps (execSpdmGetMeasurements index transcript s) := by
  unfold execSpdmGetMeasurements
  try dsimp only
  repeat' first
    | (with_reducible first | assumption | apply next_keeps | apply State.answer_inv | apply ite_inv)
    | intro _ | split

theorem execSetEndpointId_keeps {eid : BitVec 8} {s : State} (hs : s.inv = true) : Out.keeps (execSetEndpointId
    eid s) := by
  unfold execSetEndpointId
  try dsimp only
  repeat' first
    | (with_reducible first | assumption | apply next_keeps | apply State.setHd_inv | apply ite_inv)
    | intro _ | split

theorem execI3cDynamicAddress_keeps {addr : Option (BitVec 7)} {s : State} (hs : s.inv = true) : Out.keeps
    (execI3cDynamicAddress addr s) := by
  unfold execI3cDynamicAddress
  try dsimp only
  repeat' first
    | (with_reducible first | assumption | apply next_keeps | apply State.setHd_inv | apply ite_inv)
    | intro _ | split

theorem State.unfenceDie_inv {s : State} {n : Nat} (hs : s.inv = true) : (State.unfenceDie s n).inv = true := by
  unfold State.unfenceDie
  try dsimp only
  repeat' first
    | (with_reducible first
        | assumption | apply State.put_inv | apply State.laserEn_inv | (apply foldl_inv <;> (try intro _ _ _))
        | apply ite_inv)
    | intro _ | split

theorem execEdgeAdmission_keeps {n : Nat} {vendor : Nat} {step : Nat} {s : State} (hs : s.inv = true) :
    Out.keeps (execEdgeAdmission n vendor step s) := by
  unfold execEdgeAdmission
  try dsimp only
  repeat' first
    | (with_reducible first
        | assumption | apply next_keeps | apply within_keeps | apply State.admitDie_inv | apply State.unfenceDie_inv
        | apply ite_inv)
    | intro _ | split

theorem execHrefclkLoss_keeps {s : State} (hs : s.inv = true) : Out.keeps (execHrefclkLoss s) := by
  unfold execHrefclkLoss
  try dsimp only
  repeat' first
    | (with_reducible first | assumption | apply next_keeps | apply State.stopSprint_inv)
    | (simp only [State.lit_inv]; refine ⟨?_, ?_, ?_, ?_, ?_, ?_, ?_, ?_, ?_⟩)
    | (with_reducible first
        | apply State.inv_mem | apply State.inv_regs | apply State.inv_asks | apply State.inv_tiles
        | apply State.inv_each | apply State.inv_counters | apply State.inv_chans | apply State.inv_tags
        | apply State.inv_wear)
    | intro _ | split

theorem execHrefclkRestored_keeps {s : State} (hs : s.inv = true) : Out.keeps (execHrefclkRestored s) := by
  unfold execHrefclkRestored
  try dsimp only
  repeat' first
    | (with_reducible first | assumption | apply next_keeps | apply State.reportLost_inv)
    | (simp only [State.lit_inv]; refine ⟨?_, ?_, ?_, ?_, ?_, ?_, ?_, ?_, ?_⟩)
    | (with_reducible first
        | apply ite_inv | apply State.inv_mem | apply State.inv_regs | apply State.inv_asks | apply State.inv_tiles
        | apply State.inv_each | apply State.inv_counters | apply State.inv_chans | apply State.inv_tags
        | apply State.inv_wear)
    | intro _ | split

theorem execSpdmNegotiateAlgorithms_keeps {mldsa : Bool} {sha3 : Bool} {s : State} (hs : s.inv = true) :
    Out.keeps (execSpdmNegotiateAlgorithms mldsa sha3 s) := by
  unfold execSpdmNegotiateAlgorithms
  try dsimp only
  repeat' first
    | (with_reducible first
        | assumption | apply next_keeps | apply State.answer_inv | apply State.setHd_inv | apply ite_inv)
    | intro _ | split

theorem execClearProtectedRegion_keeps {s : State} (hs : s.inv = true) : Out.keeps (execClearProtectedRegion s) := by
  unfold execClearProtectedRegion
  try dsimp only
  repeat' first
    | (with_reducible first
        | assumption | apply next_keeps | apply State.put_inv | apply State.setHd_inv | apply ite_inv)
    | intro _ | split

theorem execBlowOkeyhash_keeps {key : List Byte} {s : State} (hs : s.inv = true) : Out.keeps (execBlowOkeyhash
    key s) := by
  unfold execBlowOkeyhash
  try dsimp only
  repeat' first
    | (with_reducible first
        | assumption | apply next_keeps | apply State.put_inv | apply State.setHd_inv | apply ite_inv)
    | intro _ | split

end Sys2Proof.Machine
end

