-- ==== Sys2Proof/Laws/KeepPower.lean ====
section
/-! SUPPORT. The definitions of Machine/Power.lean keep the invariant State.inv of Safety.lean: one lemma each. -/

namespace Sys2Proof.Machine

theorem State.requalify_inv {s : State} {fails : List MFail} (hs : s.inv = true) : (State.requalify s fails).inv
    = true := by
  unfold State.requalify
  try dsimp only
  repeat' first
    | (with_reducible first | assumption | apply State.log_inv | apply State.put_inv)
    | (simp only [State.lit_inv]; refine ⟨?_, ?_, ?_, ?_, ?_, ?_, ?_, ?_, ?_⟩)
    | (with_reducible first
        | apply ite_inv | apply State.inv_mem | apply State.inv_regs | apply State.inv_asks | apply State.inv_tiles
        | apply State.inv_each | apply State.inv_counters | apply State.inv_chans | apply State.inv_tags
        | apply State.inv_wear)
    | intro _ | split

theorem State.mapOutStack_inv {s : State} {k : Nat} (hs : s.inv = true) : (State.mapOutStack s k).inv = true := by
  unfold State.mapOutStack
  try dsimp only
  repeat' first
    | (with_reducible first | assumption | apply State.put_inv | (apply foldl_inv <;> (try intro _ _ _)))
    | intro _ | split

theorem State.mapOutStacks_inv {s : State} {still : List Nat} (hs : s.inv = true) : (State.mapOutStacks s
    still).inv = true := by
  unfold State.mapOutStacks
  try dsimp only
  repeat' first
    | (with_reducible first | assumption | apply State.mapOutStack_inv | (apply foldl_inv <;> (try intro _ _ _)))
    | (simp only [State.lit_inv]; refine ⟨?_, ?_, ?_, ?_, ?_, ?_, ?_, ?_, ?_⟩)
    | (with_reducible first
        | apply State.inv_mem | apply State.inv_regs | apply State.inv_asks | apply State.inv_tiles
        | apply State.inv_each | apply State.inv_counters | apply State.inv_chans | apply State.inv_tags
        | apply State.inv_wear)
    | intro _ | split

theorem State.renumber_inv {s : State} (hs : s.inv = true) : (State.renumber s).inv = true := by
  unfold State.renumber
  try dsimp only
  repeat' first
    | (with_reducible first | assumption | apply State.put_inv)
    | (simp only [State.lit_inv]; refine ⟨?_, ?_, ?_, ?_, ?_, ?_, ?_, ?_, ?_⟩)
    | (with_reducible first
        | apply State.inv_mem | apply State.inv_regs | apply State.inv_asks | apply State.inv_tiles
        | apply State.inv_each | apply State.inv_counters | apply State.inv_chans | apply State.inv_tags
        | apply State.inv_wear)
    | intro _ | split

theorem State.admitAll_inv {s : State} {o : Start} (hs : s.inv = true) : (State.admitAll s o).inv = true := by
  unfold State.admitAll
  try dsimp only
  repeat' first
    | (with_reducible first
        | assumption | apply State.admitDie_inv | apply State.bringLink_inv | (apply foldl_inv <;> (try intro _ _ _))
        | apply ite_inv)
    | intro _ | split

theorem State.rebuild_inv {s : State} (hs : s.inv = true) : (State.rebuild s).inv = true := by
  unfold State.rebuild
  try dsimp only
  repeat' first
    | (with_reducible first | assumption | apply State.put_inv | (apply foldl_inv <;> (try intro _ _ _)))
    | intro _ | split

theorem State.bring_inv {s : State} {o : Start} {still : List Nat} {fails : List MFail} {warm : Bool} (hs :
    s.inv = true) : (State.bring s o still fails warm).inv = true := by
  unfold State.bring
  try dsimp only
  repeat' first
    | (with_reducible first
        | assumption | apply State.mapOutStacks_inv | apply State.renumber_inv | apply State.releaseSpares_inv
        | apply State.setFence_inv | apply State.admitAll_inv | apply State.marginTests_inv | apply State.rebuild_inv
        | apply Mem.zeroFill_wf | apply State.loadCosts_inv | apply State.portsStart_inv | apply State.setReg_inv
        | (apply foldl_inv <;> (try intro _ _ _)))
    | (simp only [State.lit_inv]; refine ⟨?_, ?_, ?_, ?_, ?_, ?_, ?_, ?_, ?_⟩)
    | (with_reducible first
        | apply ite_inv | apply State.inv_mem | apply State.inv_regs | apply State.inv_asks | apply State.inv_tiles
        | apply State.inv_each | apply State.inv_counters | apply State.inv_chans | apply State.inv_tags
        | apply State.inv_wear)
    | intro _ | split

theorem State.coldBring_inv {s : State} {o : Start} (hs : s.inv = true) : (State.coldBring s o).inv = true := by
  unfold State.coldBring
  try dsimp only
  repeat' first
    | (with_reducible first
        | assumption | apply State.requalify_inv | apply State.bring_inv | apply State.loadComponents_inv)
    | (simp only [State.lit_inv]; refine ⟨?_, ?_, ?_, ?_, ?_, ?_, ?_, ?_, ?_⟩)
    | (with_reducible first
        | apply ite_inv | apply State.inv_mem | apply State.inv_regs | apply State.inv_asks | apply State.inv_tiles
        | apply State.inv_each | apply State.inv_counters | apply State.inv_chans | apply State.inv_tags
        | apply State.inv_wear)
    | intro _ | split

theorem State.sampleStraps_inv {s : State} {straps : Nat} (hs : s.inv = true) : (State.sampleStraps s
    straps).inv = true := by
  unfold State.sampleStraps
  try dsimp only
  repeat' first
    | (with_reducible first | assumption | apply State.put_inv | apply State.setReg_inv)
    | intro _ | split

theorem State.loseStore_inv {s : State} (hs : s.inv = true) : (State.loseStore s).inv = true := by
  unfold State.loseStore
  try dsimp only
  repeat' first
    | (with_reducible first | assumption | apply State.clearRegs_inv | apply State.log_inv)
    | (simp only [State.lit_inv]; refine ⟨?_, ?_, ?_, ?_, ?_, ?_, ?_, ?_, ?_⟩)
    | (with_reducible first
        | apply List.length_replicate | apply State.inv_mem | apply State.inv_regs | apply State.inv_asks
        | apply State.inv_tiles | apply State.inv_each | apply State.inv_counters | apply State.inv_chans
        | apply State.inv_tags)
    | intro _ | split

theorem State.coldBoot_inv {s : State} {o : Start} (hs : s.inv = true) : (State.coldBoot s o).inv = true := by
  unfold State.coldBoot
  try dsimp only
  repeat' first
    | (with_reducible first
        | assumption | apply State.bootHearth_inv | apply State.sampleStraps_inv | apply State.loseStore_inv
        | apply ite_inv)
    | intro _ | split

theorem State.coldHearth_inv {s : State} {o : Start} (hs : s.inv = true) : (State.coldHearth s o).inv = true := by
  unfold State.coldHearth
  try dsimp only
  repeat' first
    | (with_reducible first | assumption | apply State.coldBoot_inv | apply ite_inv)
    | intro _ | split

theorem State.setPower_inv {s : State} {p : Power} (hs : s.inv = true) (hp : p.wear.length = 30) :
    (State.setPower s p).inv = true := by
  unfold State.setPower
  try dsimp only
  repeat' first
    | (with_reducible first | assumption)
    | (simp only [State.lit_inv]; refine ⟨?_, ?_, ?_, ?_, ?_, ?_, ?_, ?_, ?_⟩)
    | (with_reducible first
        | apply State.inv_mem | apply State.inv_regs | apply State.inv_asks | apply State.inv_tiles
        | apply State.inv_each | apply State.inv_counters | apply State.inv_chans | apply State.inv_tags)
    | intro _ | split

theorem State.coldPower_inv {s : State} (hs : s.inv = true) : (State.coldPower s).inv = true := by
  unfold State.coldPower
  try dsimp only
  repeat' first
    | (with_reducible first | assumption | apply State.setPower_inv)
    | simp only [Tile.lit_wf]
    | (with_reducible first | apply State.inv_wear)
    | intro _ | split

theorem State.coldNotes_inv {s : State} (hs : s.inv = true) : (State.coldNotes s).inv = true := by
  unfold State.coldNotes
  try dsimp only
  repeat' first
    | (with_reducible first | assumption | apply State.put_inv | apply State.setHd_inv)
    | intro _ | split

theorem State.coldStart_inv {s : State} {o : Start} (hs : s.inv = true) : (State.coldStart s o).inv = true := by
  unfold State.coldStart
  try dsimp only
  repeat' first
    | (with_reducible first
        | assumption | apply State.coldBring_inv | apply State.coldHearth_inv | apply State.coldPower_inv
        | apply State.coldNotes_inv)
    | intro _ | split

theorem execPowerupCommand_keeps {hottest : Int} {o : Start} {s : State} (hs : s.inv = true) : Out.keeps
    (execPowerupCommand hottest o s) := by
  unfold execPowerupCommand
  try dsimp only
  repeat' first
    | (with_reducible first
        | assumption | apply next_keeps | apply State.log_inv | apply State.coldStart_inv | apply ite_inv)
    | intro _ | split

theorem execColdReset_keeps {o : Start} {s : State} (hs : s.inv = true) : Out.keeps (execColdReset o s) := by
  unfold execColdReset
  try dsimp only
  repeat' first
    | (with_reducible first
        | assumption | apply next_keeps | apply State.coldStart_inv | apply State.allDown_inv | apply ite_inv)
    | intro _ | split

theorem execModResetN_keeps {low : Bool} {s : State} (hs : s.inv = true) : Out.keeps (execModResetN low s) := by
  unfold execModResetN
  try dsimp only
  repeat' first
    | (with_reducible first
        | assumption | apply next_keeps | apply State.downFor_inv | apply State.setPower_inv
        | apply State.allDown_inv)
    | simp only [Tile.lit_wf]
    | (with_reducible first | apply ite_inv | apply State.inv_wear)
    | intro _ | split

theorem execPwrEn_keeps {on : Bool} {s : State} (hs : s.inv = true) : Out.keeps (execPwrEn on s) := by
  unfold execPwrEn
  try dsimp only
  repeat' first
    | (with_reducible first
        | assumption | apply next_keeps | apply State.setPower_inv | apply State.downFor_inv
        | apply State.allDown_inv)
    | simp only [Tile.lit_wf]
    | (with_reducible first | apply ite_inv | apply State.inv_wear)
    | intro _ | split

theorem execInputLoss_keeps {low40 : Bool} {s : State} (hs : s.inv = true) : Out.keeps (execInputLoss low40 s) := by
  unfold execInputLoss
  try dsimp only
  repeat' first
    | (with_reducible first
        | assumption | apply next_keeps | apply State.downFor_inv | apply State.setPower_inv
        | apply State.allDown_inv | apply State.islandOnly_inv)
    | simp only [Tile.lit_wf]
    | (with_reducible first | apply ite_inv | apply State.inv_wear)
    | intro _ | split

theorem execInputRestored_keeps {full : Bool} {s : State} (hs : s.inv = true) : Out.keeps (execInputRestored
    full s) := by
  unfold execInputRestored
  try dsimp only
  repeat' first
    | (with_reducible first | assumption | apply next_keeps | apply State.setPower_inv)
    | simp only [Tile.lit_wf]
    | (with_reducible first | apply ite_inv | apply State.inv_wear)
    | intro _ | split

theorem execInputOutOfBand_keeps {s : State} (hs : s.inv = true) : Out.keeps (execInputOutOfBand s) := by
  unfold execInputOutOfBand
  try dsimp only
  repeat' first
    | (with_reducible first | assumption | apply next_keeps | apply State.setPower_inv | apply State.cutSprint_inv)
    | simp only [Tile.lit_wf]
    | (with_reducible first | apply ite_inv | apply State.inv_wear)
    | intro _ | split

theorem execRefclkLoss_keeps {s : State} (hs : s.inv = true) : Out.keeps (execRefclkLoss s) := by
  unfold execRefclkLoss
  try dsimp only
  repeat' first
    | (with_reducible first | assumption | apply next_keeps | apply State.shutDown_inv | apply ite_inv)
    | intro _ | split

theorem State.warmReset_inv {s : State} {hearth : Bool} {o : Start} (hs : s.inv = true) : (State.warmReset s
    hearth o).inv = true := by
  unfold State.warmReset
  try dsimp only
  repeat' first
    | (with_reducible first
        | assumption | apply State.noEffect_inv | apply State.retest_inv | apply State.haltGens_inv
        | apply State.stopJob_inv | apply State.writeBackCache_inv | apply State.clearPeer_inv
        | apply State.clearTwin_inv | apply State.clearRegs_inv | apply State.put_inv | apply State.saveHealth_inv
        | apply State.bring_inv | apply State.loadComponents_inv)
    | (simp only [State.lit_inv]; refine ⟨?_, ?_, ?_, ?_, ?_, ?_, ?_, ?_, ?_⟩)
    | (with_reducible first
        | apply ite_inv | apply State.inv_mem | apply State.inv_regs | apply State.inv_asks | apply State.inv_tiles
        | apply State.inv_each | apply State.inv_counters | apply State.inv_chans | apply State.inv_tags
        | apply State.inv_wear)
    | intro _ | split

theorem execWarmReset_keeps {hearth : Bool} {o : Start} {s : State} (hs : s.inv = true) : Out.keeps
    (execWarmReset hearth o s) := by
  unfold execWarmReset
  try dsimp only
  repeat' first
    | (with_reducible first | assumption | apply next_keeps | apply State.warmReset_inv)
    | intro _ | split

theorem State.deepLoss_inv {s : State} (hs : s.inv = true) : (State.deepLoss s).inv = true := by
  unfold State.deepLoss
  try dsimp only
  repeat' first
    | (with_reducible first | assumption | apply State.clearRegs_inv)
    | (simp only [State.lit_inv]; refine ⟨?_, ?_, ?_, ?_, ?_, ?_, ?_, ?_, ?_⟩)
    | (with_reducible first
        | apply State.inv_mem | apply State.inv_regs | apply State.inv_asks | apply State.inv_wear
        | apply SMap.wf_nil | apply TilesWf.nil)
    | intro _ | split

theorem State.leaveDeep_inv {s : State} {hearth : Bool} {o : Start} (hs : s.inv = true) : (State.leaveDeep s
    hearth o).inv = true := by
  unfold State.leaveDeep
  try dsimp only
  repeat' first
    | (with_reducible first
        | assumption | apply State.noEffect_inv | apply State.portsStart_inv | apply State.admitAll_inv
        | apply State.clearPeer_inv | apply State.clearTwin_inv | apply State.deepLoss_inv | apply State.askDone_inv
        | apply State.loadCosts_inv | apply State.put_inv | apply State.setReg_inv
        | (apply foldl_inv <;> (try intro _ _ _)) | apply ite_inv)
    | intro _ | split

theorem execLeaveDeep_keeps {hearth : Bool} {o : Start} {s : State} (hs : s.inv = true) : Out.keeps
    (execLeaveDeep hearth o s) := by
  unfold execLeaveDeep
  try dsimp only
  repeat' first
    | (with_reducible first | assumption | apply next_keeps | apply State.leaveDeep_inv)
    | intro _ | split

theorem execInputBackInRange_keeps {s : State} (hs : s.inv = true) : Out.keeps (execInputBackInRange s) := by
  unfold execInputBackInRange
  try dsimp only
  repeat' first
    | (with_reducible first | assumption | apply next_keeps | apply State.setPower_inv)
    | simp only [Tile.lit_wf]
    | (with_reducible first | apply ite_inv | apply State.inv_wear)
    | intro _ | split

theorem execFaultNRelease_keeps {s : State} (hs : s.inv = true) : Out.keeps (execFaultNRelease s) := by
  unfold execFaultNRelease
  try dsimp only
  repeat' first
    | (with_reducible first | assumption | apply next_keeps | apply State.setPower_inv)
    | simp only [Tile.lit_wf]
    | (with_reducible first | apply ite_inv | apply State.inv_wear)
    | intro _ | split

end Sys2Proof.Machine
end

