-- ==== Sys2Proof/Laws/KeepTwin.lean ====
section
/-! SUPPORT. The definitions of Machine/Twin.lean keep the invariant State.inv of Safety.lean: one lemma each. -/

namespace Sys2Proof.Machine

theorem State.setTwin_inv {s : State} {x : Twin} (hs : s.inv = true) : (State.setTwin s x).inv = true := by
  unfold State.setTwin
  try dsimp only
  repeat' first
    | (with_reducible first | assumption)
    | (simp only [State.lit_inv]; refine ⟨?_, ?_, ?_, ?_, ?_, ?_, ?_, ?_, ?_⟩)
    | (with_reducible first
        | apply State.inv_mem | apply State.inv_regs | apply State.inv_asks | apply State.inv_tiles
        | apply State.inv_each | apply State.inv_counters | apply State.inv_chans | apply State.inv_tags
        | apply State.inv_wear)
    | intro _ | split

theorem execHeartbeatSend_keeps {s : State} (hs : s.inv = true) : Out.keeps (execHeartbeatSend s) := by
  unfold execHeartbeatSend
  try dsimp only
  repeat' first
    | (with_reducible first | assumption | apply next_keeps | apply State.setTwin_inv)
    | (simp only [State.lit_inv]; refine ⟨?_, ?_, ?_, ?_, ?_, ?_, ?_, ?_, ?_⟩)
    | (with_reducible first
        | apply ite_inv | apply State.inv_mem | apply State.inv_regs | apply State.inv_asks | apply State.inv_tiles
        | apply State.inv_each | apply State.inv_counters | apply State.inv_chans | apply State.inv_tags
        | apply State.inv_wear)
    | intro _ | split

theorem State.conflict_inv {s : State} (hs : s.inv = true) : (State.conflict s).inv = true := by
  unfold State.conflict
  try dsimp only
  repeat' first
    | (with_reducible first | assumption | apply State.log_inv | apply State.put_inv | apply ite_inv)
    | intro _ | split

theorem State.setTwinCounts_inv {s : State} {m : SMap Nat} (hs : s.inv = true) : (State.setTwinCounts s m).inv =
    true := by
  unfold State.setTwinCounts
  try dsimp only
  repeat' first
    | (with_reducible first | assumption | apply State.setTwin_inv)
    | intro _ | split

theorem execHeartbeatReceived_keeps {dev : Nat} {role : Nat} {drain : Nat} {launched : Bool} {resets : Nat} {s :
    State} (hs : s.inv = true) : Out.keeps (execHeartbeatReceived dev role drain launched resets s) := by
  unfold execHeartbeatReceived
  try dsimp only
  repeat' first
    | (with_reducible first
        | assumption | apply next_keeps | apply State.put_inv | apply State.conflict_inv
        | apply State.setTwinCounts_inv | apply ite_inv)
    | intro _ | split

theorem State.discardMirrors_inv {s : State} (hs : s.inv = true) : (State.discardMirrors s).inv = true := by
  unfold State.discardMirrors
  try dsimp only
  repeat' first
    | (with_reducible first | assumption | apply State.bump_inv | apply State.setFab_inv)
    | (simp only [State.lit_inv]; refine ⟨?_, ?_, ?_, ?_, ?_, ?_, ?_, ?_, ?_⟩)
    | (with_reducible first
        | apply State.inv_mem | apply State.inv_regs | apply State.inv_asks | apply State.inv_tiles
        | apply State.inv_each | apply State.inv_counters | apply State.inv_chans | apply State.inv_tags
        | apply State.inv_wear)
    | intro _ | split

theorem execPeerLost_keeps {s : State} (hs : s.inv = true) : Out.keeps (execPeerLost s) := by
  unfold execPeerLost
  try dsimp only
  repeat' first
    | (with_reducible first
        | assumption | apply next_keeps | apply State.unprotect_inv | apply State.discardMirrors_inv
        | apply State.put_inv | apply ite_inv)
    | intro _ | split

theorem State.writeCor_inv {s : State} {a : Nat} {hint : Nat} {src : Nat} {bs : List Byte} (hs : s.inv = true) :
    (State.writeCor s a hint src bs).inv = true := by
  unfold State.writeCor
  try dsimp only
  repeat' first
    | (with_reducible first | assumption | apply State.writeSector_inv | (apply foldl_inv <;> (try intro _ _ _)))
    | intro _ | split

theorem State.applyMirror_inv {s : State} {m : InMsg} {w : Nat} (hs : s.inv = true) : (State.applyMirror s m
    w).inv = true := by
  unfold State.applyMirror
  try dsimp only
  repeat' first
    | (with_reducible first
        | assumption | apply State.refuse_inv | apply State.noteRead_inv | apply State.reply_inv
        | apply State.bump_inv | apply State.writeCor_inv | (apply foldl_inv <;> (try intro _ _ _)) | apply ite_inv)
    | intro _ | split

theorem State.mirrorInto_inv {s : State} {m : InMsg} (hs : s.inv = true) : (State.mirrorInto s m).inv = true := by
  unfold State.mirrorInto
  try dsimp only
  repeat' first
    | (with_reducible first
        | assumption | apply State.reply_inv | apply State.bump_inv | apply State.applyMirror_inv | apply ite_inv)
    | intro _ | split

theorem State.countMirror_inv {s : State} {slice : Nat} (hs : s.inv = true) : (State.countMirror s slice).inv =
    true := by
  unfold State.countMirror
  try dsimp only
  repeat' first
    | (with_reducible first | assumption | apply State.bump_inv | apply State.setTwinCounts_inv)
    | intro _ | split

theorem State.serveMirror_inv {m : InMsg} {s : State} (hs : s.inv = true) : (State.serveMirror m s).inv = true := by
  unfold State.serveMirror
  try dsimp only
  repeat' first
    | (with_reducible first
        | assumption | apply State.refuse_inv | apply State.mirrorInto_inv | apply State.countMirror_inv
        | apply ite_inv)
    | intro _ | split

theorem execMirrorWrite_keeps {n : Nat} {s : State} (hs : s.inv = true) : Out.keeps (execMirrorWrite n s) := by
  unfold execMirrorWrite
  try dsimp only
  repeat' first
    | (with_reducible first | assumption | apply next_keeps | apply State.serve_inv | apply State.serveMirror_inv)
    | intro _ | split

theorem execDrainNotice_keeps {counts : List Nat} {s : State} (hs : s.inv = true) : Out.keeps (execDrainNotice
    counts s) := by
  unfold execDrainNotice
  try dsimp only
  repeat' first
    | (with_reducible first | assumption | apply next_keeps | apply State.setTwin_inv | apply ite_inv)
    | intro _ | split

theorem State.promoteWin_inv {s : State} {w : Nat} (hs : s.inv = true) : (State.promoteWin s w).inv = true := by
  unfold State.promoteWin
  try dsimp only
  repeat' first
    | (with_reducible first | assumption | apply State.put_inv | apply State.setReg_inv | apply ite_inv)
    | intro _ | split

theorem State.promote_inv {s : State} {gap : Bool} (hs : s.inv = true) : (State.promote s gap).inv = true := by
  unfold State.promote
  try dsimp only
  repeat' first
    | (with_reducible first
        | assumption | apply State.promoteWin_inv | apply State.put_inv | apply State.arriveAny_inv
        | apply State.log_inv | (apply foldl_inv <;> (try intro _ _ _)) | apply ite_inv)
    | intro _ | split

theorem execPromotion_keeps {late : Bool} {s : State} (hs : s.inv = true) : Out.keeps (execPromotion late s) := by
  unfold execPromotion
  try dsimp only
  repeat' first
    | (with_reducible first
        | assumption | apply next_keeps | apply State.promote_inv | apply State.setTwin_inv | apply State.log_inv
        | apply ite_inv)
    | intro _ | split

theorem State.twinPromote_inv {s : State} {hearth : Bool} (hs : s.inv = true) : (State.twinPromote s hearth).inv
    = true := by
  unfold State.twinPromote
  try dsimp only
  repeat' first
    | (with_reducible first
        | assumption | apply State.noEffect_inv | apply State.promote_inv | apply State.askDone_inv | apply ite_inv)
    | intro _ | split

theorem execTwinctlPromote_keeps {hearth : Bool} {s : State} (hs : s.inv = true) : Out.keeps (execTwinctlPromote
    hearth s) := by
  unfold execTwinctlPromote
  try dsimp only
  repeat' first
    | (with_reducible first | assumption | apply next_keeps | apply State.twinPromote_inv)
    | intro _ | split

theorem State.twinDetach_inv {s : State} {hearth : Bool} (hs : s.inv = true) : (State.twinDetach s hearth).inv =
    true := by
  unfold State.twinDetach
  try dsimp only
  repeat' first
    | (with_reducible first
        | assumption | apply State.noEffect_inv | apply State.askDone_inv | apply State.setTwin_inv
        | apply State.blank_inv | apply State.put_inv | (apply foldl_inv <;> (try intro _ _ _)))
    | (simp only [State.lit_inv]; refine ⟨?_, ?_, ?_, ?_, ?_, ?_, ?_, ?_, ?_⟩)
    | (with_reducible first
        | apply ite_inv | apply State.inv_mem | apply State.inv_regs | apply State.inv_asks | apply State.inv_tiles
        | apply State.inv_each | apply State.inv_counters | apply State.inv_chans | apply State.inv_tags
        | apply State.inv_wear)
    | intro _ | split

theorem execTwinctlDetach_keeps {hearth : Bool} {s : State} (hs : s.inv = true) : Out.keeps (execTwinctlDetach
    hearth s) := by
  unfold execTwinctlDetach
  try dsimp only
  repeat' first
    | (with_reducible first | assumption | apply next_keeps | apply State.twinDetach_inv)
    | intro _ | split

theorem execDetachNotice_keeps {s : State} (hs : s.inv = true) : Out.keeps (execDetachNotice s) := by
  unfold execDetachNotice
  try dsimp only
  repeat' first
    | (with_reducible first
        | assumption | apply next_keeps | apply State.log_inv | apply State.put_inv | apply ite_inv)
    | intro _ | split

theorem execHostFailover_keeps {peerEn : Bool} {s : State} (hs : s.inv = true) : Out.keeps (execHostFailover
    peerEn s) := by
  unfold execHostFailover
  try dsimp only
  repeat' first
    | (with_reducible first | assumption | apply next_keeps | apply State.put_inv | apply ite_inv)
    | intro _ | split

theorem execHostFailback_keeps {s : State} (hs : s.inv = true) : Out.keeps (execHostFailback s) := by
  unfold execHostFailback
  try dsimp only
  repeat' first
    | (with_reducible first | assumption | apply next_keeps | apply State.put_inv | apply ite_inv)
    | intro _ | split

theorem State.shadowEnd_inv {s : State} {x : Shadow} {code : Nat} (hs : s.inv = true) : (State.shadowEnd s x
    code).inv = true := by
  unfold State.shadowEnd
  try dsimp only
  repeat' first
    | (with_reducible first
        | assumption | apply State.setTwin_inv | apply State.devWrite_inv | apply State.arriveAny_inv
        | apply State.bump_inv | apply State.put_inv | apply State.log_inv | apply ite_inv)
    | intro _ | split

theorem State.shadowMatch_inv {s : State} {x : Shadow} (hs : s.inv = true) : (State.shadowMatch s x).inv = true := by
  unfold State.shadowMatch
  try dsimp only
  repeat' first
    | (with_reducible first | assumption | apply State.shadowEnd_inv | apply State.setTwin_inv)
    | intro _ | split

theorem execShadowCompare_keeps {k : Nat} {s : State} (hs : s.inv = true) : Out.keeps (execShadowCompare k s) := by
  unfold execShadowCompare
  try dsimp only
  repeat' first
    | (with_reducible first
        | assumption | apply next_keeps | apply within_keeps | apply State.devRead_inv | apply State.shadowEnd_inv
        | apply State.shadowMatch_inv)
    | (simp only [State.lit_inv]; refine ⟨?_, ?_, ?_, ?_, ?_, ?_, ?_, ?_, ?_⟩)
    | (with_reducible first
        | apply ite_inv | apply State.inv_mem | apply State.inv_regs | apply State.inv_asks | apply State.inv_tiles
        | apply State.inv_each | apply State.inv_counters | apply State.inv_chans | apply State.inv_tags
        | apply State.inv_wear)
    | intro _ | split

theorem execShadowTimeout_keeps {k : Nat} {s : State} (hs : s.inv = true) : Out.keeps (execShadowTimeout k s) := by
  unfold execShadowTimeout
  try dsimp only
  repeat' first
    | (with_reducible first | assumption | apply next_keeps | apply within_keeps | apply State.shadowEnd_inv)
    | intro _ | split

theorem execShadowRecordReceived_keeps {k : Nat} {record : Nat} {s : State} (hs : s.inv = true) : Out.keeps
    (execShadowRecordReceived k record s) := by
  unfold execShadowRecordReceived
  try dsimp only
  repeat' first
    | (with_reducible first
        | assumption | apply next_keeps | apply within_keeps | apply State.shadowEnd_inv | apply State.setTwin_inv
        | apply ite_inv)
    | intro _ | split

theorem execTwinPresN_keeps {low : Bool} {s : State} (hs : s.inv = true) : Out.keeps (execTwinPresN low s) := by
  unfold execTwinPresN
  try dsimp only
  repeat' first
    | (with_reducible first
        | assumption | apply next_keeps | apply State.setTwin_inv | apply State.put_inv | apply ite_inv)
    | intro _ | split

end Sys2Proof.Machine
end

