-- ==== Sys2Proof/Laws/KeepSpace.lean ====
section
/-! SUPPORT. The definitions of Machine/Space.lean keep the invariant State.inv of Safety.lean: one lemma each. -/

namespace Sys2Proof.Machine

theorem State.markRefused_inv {s : State} {r : Reg} {e : Nat} {v : Nat} (hs : s.inv = true) : (State.markRefused
    s r e v).inv = true := by
  unfold State.markRefused
  try dsimp only
  repeat' first
    | (with_reducible first | assumption | apply State.put_inv | apply ite_inv)
    | intro _ | split

theorem State.action_inv {s : State} {hearth : Bool} {r : Reg} {e : Nat} {off : Nat} {v : Nat} {top : Nat} (hs :
    s.inv = true) : (State.action s hearth r e off v top).inv = true := by
  unfold State.action
  try dsimp only
  repeat' first
    | (with_reducible first | assumption | apply State.setAsk_inv | apply ite_inv)
    | intro _ | split

theorem State.applyPart_inv {s : State} {hearth : Bool} {p : Part} {e : Nat} {off : Nat} (hs : s.inv = true) :
    (State.applyPart s hearth p e off).inv = true := by
  unfold State.applyPart
  try dsimp only
  repeat' first
    | (with_reducible first
        | assumption | apply State.wake_inv | apply State.setCounter_inv | apply State.setChan_inv
        | apply State.setAsk_inv | apply State.action_inv | apply State.setReg_inv | apply State.requestFlip_inv
        | apply State.put_inv | apply State.takeSpare_inv | apply State.mapChanged_inv | apply ite_inv)
    | intro _ | split

theorem State.writePart_inv {s : State} {hearth : Bool} {off : Nat} {reach : Nat} {p : Part} (hs : s.inv = true)
    : (State.writePart s hearth off reach p).1.inv = true := by
  unfold State.writePart
  try dsimp only
  repeat' first
    | (with_reducible first | assumption | apply State.markRefused_inv | apply State.applyPart_inv)
    | simp only [Tile.lit_wf]
    | (with_reducible first | apply ite_inv)
    | intro _ | split

theorem State.writeSpace_inv {s : State} {hearth : Bool} {off : Nat} {data : List Byte} (hs : s.inv = true) :
    (State.writeSpace s hearth off data).inv = true := by
  unfold State.writeSpace
  try dsimp only
  repeat' first
    | (with_reducible first
        | assumption | apply State.record_inv | apply State.writePart_inv | (apply foldl_inv1 <;> (try intro _ _ _))
        | apply ite_inv)
    | intro _ | split

theorem State.badAccess_inv {s : State} {hearth : Bool} {off : Nat} (hs : s.inv = true) : (State.badAccess s
    hearth off).inv = true := by
  unfold State.badAccess
  try dsimp only
  repeat' first
    | (with_reducible first | assumption | apply State.record_inv)
    | intro _ | split

theorem State.access_inv {s : State} {hearth : Bool} {off : Nat} {data : List Byte} (hs : s.inv = true) :
    (State.access s hearth off data).inv = true := by
  unfold State.access
  try dsimp only
  repeat' first
    | (with_reducible first | assumption | apply State.writeSpace_inv | apply State.badAccess_inv | apply ite_inv)
    | intro _ | split

theorem execPowercapWrite_keeps {hearth : Bool} {value : BitVec 32} {s : State} (hs : s.inv = true) : Out.keeps
    (execPowercapWrite hearth value s) := by
  unfold execPowercapWrite
  try dsimp only
  repeat' first
    | (with_reducible first | assumption | apply next_keeps | apply State.access_inv)
    | intro _ | split

theorem State.readSpace_inv {s : State} {hearth : Bool} {off : Nat} {size : Nat} (hs : s.inv = true) :
    (State.readSpace s hearth off size).2.inv = true := by
  unfold State.readSpace
  try dsimp only
  repeat' first
    | (with_reducible first | assumption | apply State.record_inv | apply ite_inv)
    | intro _ | split

theorem execSccountWrite_keeps {hearth : Bool} {c : Nat} {v : BitVec 32} {s : State} (hs : s.inv = true) :
    Out.keeps (execSccountWrite hearth c v s) := by
  unfold execSccountWrite
  try dsimp only
  repeat' first
    | (with_reducible first | assumption | apply next_keeps | apply within_keeps | apply State.access_inv)
    | intro _ | split

theorem execSctargetWrite_keeps {hearth : Bool} {c : Nat} {v : BitVec 32} {s : State} (hs : s.inv = true) :
    Out.keeps (execSctargetWrite hearth c v s) := by
  unfold execSctargetWrite
  try dsimp only
  repeat' first
    | (with_reducible first | assumption | apply next_keeps | apply within_keeps | apply State.access_inv)
    | intro _ | split

theorem execBadRegisterAccess_keeps {hearth : Bool} {off : Nat} {size : Nat} {s : State} (hs : s.inv = true) :
    Out.keeps (execBadRegisterAccess hearth off size s) := by
  unfold execBadRegisterAccess
  try dsimp only
  repeat' first
    | (with_reducible first | assumption | apply next_keeps | apply State.badAccess_inv | apply ite_inv)
    | intro _ | split

theorem execRegisterWrite_keeps {hearth : Bool} {off : Nat} {data : List Byte} {s : State} (hs : s.inv = true) :
    Out.keeps (execRegisterWrite hearth off data s) := by
  unfold execRegisterWrite
  try dsimp only
  repeat' first
    | (with_reducible first | assumption | apply next_keeps | apply State.access_inv)
    | intro _ | split

theorem State.portAsk_inv {s : State} {p : Nat} {v : Nat} (hs : s.inv = true) : (State.portAsk s p v).inv = true := by
  unfold State.portAsk
  try dsimp only
  repeat' first
    | (with_reducible first
        | assumption | apply State.portReset_inv | apply State.retrainPort_inv | apply State.askDone_inv
        | apply ite_inv)
    | intro _ | split

theorem State.drainAsk_inv {s : State} {h : Bool} {v : Nat} {fails : List MFail} (hs : s.inv = true) :
    (State.drainAsk s h v fails).inv = true := by
  unfold State.drainAsk
  try dsimp only
  repeat' first
    | (with_reducible first | assumption | apply State.drainNow_inv | apply State.marginCmd_inv | apply ite_inv)
    | intro _ | split

theorem State.resetAsk_inv {s : State} {h : Bool} {v : Nat} {o : Start} (hs : s.inv = true) : (State.resetAsk s
    h v o).inv = true := by
  unfold State.resetAsk
  try dsimp only
  repeat' first
    | (with_reducible first
        | assumption | apply State.computeReset_inv | apply State.warmReset_inv | apply State.enterNap_inv
        | apply State.leaveNap_inv | apply State.enterDeep_inv | apply State.leaveDeep_inv)
    | intro _ | split

theorem State.mchAsk_inv {s : State} {h : Bool} {m : Nat} {v : Nat} {errs : List TgErr} (hs : s.inv = true) :
    (State.mchAsk s h m v errs).inv = true := by
  unfold State.mchAsk
  try dsimp only
  repeat' first
    | (with_reducible first
        | assumption | apply State.takeOut_inv | apply State.returnIn_inv | apply State.startGen_inv
        | apply State.stopGen_inv)
    | intro _ | split

theorem State.takeAsk_inv {s : State} {r : PendReg} {e : Nat} {a : Ask} {o : Start} {errs : List TgErr} (hs :
    s.inv = true) : (State.takeAsk s r e a o errs).inv = true := by
  unfold State.takeAsk
  try dsimp only
  repeat' first
    | (with_reducible first
        | assumption | apply State.askDone_inv | apply State.setReg_inv | apply State.takeDieref_inv
        | apply State.powercapNow_inv | apply State.chanAct_inv | apply State.portAsk_inv
        | apply State.bkctlAbort_inv | apply State.drainAsk_inv | apply State.twinPromote_inv
        | apply State.twinDetach_inv | apply State.resetAsk_inv | apply State.mchAsk_inv
        | apply State.hearthRestarts_inv | apply ite_inv)
    | intro _ | split

theorem execWrittenValueTakesEffect_keeps {r : PendReg} {e : Nat} {o : Start} {errs : List TgErr} {s : State}
    (hs : s.inv = true) : Out.keeps (execWrittenValueTakesEffect r e o errs s) := by
  unfold execWrittenValueTakesEffect
  try dsimp only
  repeat' first
    | (with_reducible first
        | assumption | apply next_keeps | apply within_keeps | apply State.flipEpoch_inv | apply State.cpctlGo_inv
        | apply State.takeAsk_inv | apply ite_inv)
    | intro _ | split

theorem execTestPortAccess_keeps {y0 : TestOp} {s : State} (hs : s.inv = true) : Out.keeps (execTestPortAccess
    y0 s) := by
  unfold execTestPortAccess
  try dsimp only
  repeat' first
    | (with_reducible first | assumption | apply next_keeps)
    | intro _ | split

end Sys2Proof.Machine
end

