-- ==== Sys2Proof/Laws/KeepHostLink.lean ====
section
/-! SUPPORT. The definitions of Machine/HostLink.lean keep the invariant State.inv of Safety.lean: one lemma each. -/

namespace Sys2Proof.Machine

theorem execRegrd_keeps {n : Nat} {s : State} (hs : s.inv = true) : Out.keeps (execRegrd n s) := by
  unfold execRegrd
  try dsimp only
  repeat' first
    | (with_reducible first
        | assumption | apply next_keeps | apply State.dropIn_inv | apply State.readSpace_inv
        | apply State.hostAnswer_inv | apply State.badAccess_inv | apply ite_inv)
    | intro _ | split

theorem execRegwr_keeps {n : Nat} {s : State} (hs : s.inv = true) : Out.keeps (execRegwr n s) := by
  unfold execRegwr
  try dsimp only
  repeat' first
    | (with_reducible first
        | assumption | apply next_keeps | apply State.dropIn_inv | apply State.hostAnswer_inv
        | apply State.writeSpace_inv | apply State.badAccess_inv | apply ite_inv)
    | intro _ | split

theorem execSqDoorbell_keeps {q : Nat} {tail : BitVec 12} {s : State} (hs : s.inv = true) : Out.keeps
    (execSqDoorbell q tail s) := by
  unfold execSqDoorbell
  try dsimp only
  repeat' first
    | (with_reducible first | assumption | apply next_keeps | apply within_keeps | apply State.access_inv)
    | intro _ | split

theorem State.newCmd_inv {s : State} {q : Nat} {index : Nat} {e : Nat} (hs : s.inv = true) : (State.newCmd s q
    index e).1.inv = true := by
  unfold State.newCmd
  try dsimp only
  repeat' first
    | (with_reducible first | assumption | apply State.bindQueue_inv)
    | (simp only [State.lit_inv]; refine ⟨?_, ?_, ?_, ?_, ?_, ?_, ?_, ?_, ?_⟩)
    | (with_reducible first
        | apply State.inv_mem | apply State.inv_regs | apply State.inv_asks | apply State.inv_tiles
        | apply State.inv_each | apply State.inv_counters | apply State.inv_chans | apply State.inv_tags
        | apply State.inv_wear)
    | intro _ | split

theorem State.launchMirror_inv {s : State} (hs : s.inv = true) : (State.launchMirror s).inv = true := by
  unfold State.launchMirror
  try dsimp only
  repeat' first
    | (with_reducible first | assumption | apply State.put_inv | apply State.log_inv | apply ite_inv)
    | intro _ | split

theorem State.beginJob_inv {s : State} {e : Nat} (hs : s.inv = true) : (State.beginJob s e).inv = true := by
  unfold State.beginJob
  try dsimp only
  repeat' first
    | (with_reducible first
        | assumption | apply State.put_inv | apply State.setReg_inv | apply State.setHost_inv | apply ite_inv)
    | intro _ | split

theorem State.startCtx_inv {s : State} {id : Nat} {e : Nat} {t : Nat} (hs : s.inv = true) : (State.startCtx s id
    e t).inv = true := by
  unfold State.startCtx
  try dsimp only
  repeat' first
    | (with_reducible first | assumption | apply State.wakeDie_inv | apply State.setCtx_inv | apply State.setCtx_inv)
    | intro _ | split

theorem State.launchGo_inv {s : State} {c : HostCmd} {ts : List Nat} (hs : s.inv = true) : (State.launchGo s c
    ts).inv = true := by
  unfold State.launchGo
  try dsimp only
  repeat' first
    | (with_reducible first
        | assumption | apply State.launchMirror_inv | apply State.beginJob_inv | apply State.setTwin_inv
        | apply State.complete_inv | apply State.setHost_inv | apply State.startCtx_inv
        | (apply foldl_inv <;> (try intro _ _ _)) | apply ite_inv)
    | intro _ | split

theorem State.launch_inv {s : State} {c : HostCmd} (hs : s.inv = true) : (State.launch s c).inv = true := by
  unfold State.launch
  try dsimp only
  repeat' first
    | (with_reducible first
        | assumption | apply State.complete_inv | apply State.devRead_inv | apply State.launchGo_inv | apply ite_inv)
    | intro _ | split

theorem State.dmaStart_inv {s : State} {c : HostCmd} (hs : s.inv = true) : (State.dmaStart s c).inv = true := by
  unfold State.dmaStart
  try dsimp only
  repeat' first
    | (with_reducible first
        | assumption | apply State.complete_inv | apply State.setHost_inv | apply State.fillGo_inv
        | apply State.dmaStep_inv | apply ite_inv)
    | intro _ | split

theorem State.startCmd_inv {s : State} {q : Nat} {index : Nat} {e : Nat} (hs : s.inv = true) : (State.startCmd s
    q index e).inv = true := by
  unfold State.startCmd
  try dsimp only
  repeat' first
    | (with_reducible first
        | assumption | apply State.newCmd_inv | apply State.complete_inv | apply State.launch_inv
        | apply State.dmaStart_inv)
    | intro _ | split

theorem State.serveQueue_inv {s : State} {q : Nat} {r : EntryRead} (hs : s.inv = true) : (State.serveQueue s q
    r).inv = true := by
  unfold State.serveQueue
  try dsimp only
  repeat' first
    | (with_reducible first
        | assumption | apply State.setHost_inv | apply State.startCmd_inv | apply State.put_inv
        | apply State.complete_inv | apply State.newCmd_inv | apply ite_inv)
    | intro _ | split

theorem execCommandStart_keeps {read : EntryRead} {s : State} (hs : s.inv = true) : Out.keeps (execCommandStart
    read s) := by
  unfold execCommandStart
  try dsimp only
  repeat' first
    | (with_reducible first
        | assumption | apply next_keeps | apply State.hostSend_inv | apply State.serveQueue_inv | apply ite_inv)
    | intro _ | split

theorem execLaunchComplete_keeps {id : Nat} {s : State} (hs : s.inv = true) : Out.keeps (execLaunchComplete id
    s) := by
  unfold execLaunchComplete
  try dsimp only
  repeat' first
    | (with_reducible first | assumption | apply next_keeps | apply State.complete_inv | apply ite_inv)
    | intro _ | split

theorem execDmaComplete_keeps {id : Nat} {s : State} (hs : s.inv = true) : Out.keeps (execDmaComplete id s) := by
  unfold execDmaComplete
  try dsimp only
  repeat' first
    | (with_reducible first
        | assumption | apply next_keeps | apply State.fillGo_inv | apply State.complete_inv | apply ite_inv)
    | intro _ | split

theorem State.dropReq_inv {s : State} {r : HReq} (hs : s.inv = true) : (State.dropReq s r).inv = true := by
  unfold State.dropReq
  try dsimp only
  repeat' first
    | (with_reducible first | assumption | apply State.setHost_inv)
    | intro _ | split

theorem State.dmaData_inv {s : State} {id : Nat} {off : Nat} {bs : List Byte} (hs : s.inv = true) :
    (State.dmaData s id off bs).inv = true := by
  unfold State.dmaData
  try dsimp only
  repeat' first
    | (with_reducible first
        | assumption | apply State.devWrite_inv | apply State.stopCmd_inv | apply State.dmaStep_inv
        | apply State.setCmd_inv | apply ite_inv)
    | intro _ | split

theorem execData_keeps {n : Nat} {s : State} (hs : s.inv = true) : Out.keeps (execData n s) := by
  unfold execData
  try dsimp only
  repeat' first
    | (with_reducible first
        | assumption | apply next_keeps | apply State.dropIn_inv | apply State.dropReq_inv | apply State.dmaData_inv
        | apply ite_inv)
    | intro _ | split

theorem State.linkDone_inv {s : State} {y1 : HWhat} (hs : s.inv = true) : (State.linkDone s y1).inv = true := by
  unfold State.linkDone
  try dsimp only
  repeat' first
    | (with_reducible first
        | assumption | apply State.stopCmd_inv | apply State.dmaStep_inv | apply State.setCmd_inv
        | apply State.setHost_inv | apply State.bindQueue_inv | apply ite_inv)
    | intro _ | split

theorem State.linkRefused_inv {s : State} {y1 : HWhat} (hs : s.inv = true) : (State.linkRefused s y1).inv = true := by
  unfold State.linkRefused
  try dsimp only
  repeat' first
    | (with_reducible first
        | assumption | apply State.stopCmd_inv | apply State.put_inv | apply State.recordBack_inv
        | apply State.eventBack_inv | apply State.bump_inv | apply State.setHost_inv | apply State.bindQueue_inv)
    | intro _ | split

theorem execDone_keeps {n : Nat} {s : State} (hs : s.inv = true) : Out.keeps (execDone n s) := by
  unfold execDone
  try dsimp only
  repeat' first
    | (with_reducible first
        | assumption | apply next_keeps | apply State.dropIn_inv | apply State.dropReq_inv | apply State.linkDone_inv
        | apply State.linkRefused_inv | apply ite_inv)
    | intro _ | split

theorem execCompletionRecord_keeps {r : Nat} {s : State} (hs : s.inv = true) : Out.keeps (execCompletionRecord r
    s) := by
  unfold execCompletionRecord
  try dsimp only
  repeat' first
    | (with_reducible first
        | assumption | apply next_keeps | apply within_keeps | apply State.setHost_inv | apply State.hostSend_inv
        | apply State.put_inv | apply ite_inv)
    | intro _ | split

theorem execCqDoorbell_keeps {r : Nat} {head : BitVec 12} {s : State} (hs : s.inv = true) : Out.keeps
    (execCqDoorbell r head s) := by
  unfold execCqDoorbell
  try dsimp only
  repeat' first
    | (with_reducible first | assumption | apply next_keeps | apply within_keeps | apply State.access_inv)
    | intro _ | split

theorem execEventRingWrite_keeps {s : State} (hs : s.inv = true) : Out.keeps (execEventRingWrite s) := by
  unfold execEventRingWrite
  try dsimp only
  repeat' first
    | (with_reducible first
        | assumption | apply next_keeps | apply State.bump_inv | apply State.setHost_inv | apply State.hostSend_inv
        | apply State.put_inv | apply ite_inv)
    | intro _ | split

end Sys2Proof.Machine
end

