-- ==== Sys2Proof/Laws/KeepMatrix.lean ====
section
/-! SUPPORT. The definitions of Machine/Matrix.lean keep the invariant State.inv of Safety.lean: one lemma each. -/

namespace Sys2Proof.Machine

theorem State.fenceArray_inv {s : State} {t : Nat} (hs : s.inv = true) : (State.fenceArray s t).inv = true := by
  unfold State.fenceArray
  try dsimp only
  repeat' first
    | (with_reducible first
        | assumption | apply State.setReg_inv | apply State.logFence_inv | apply State.noteFence_inv | apply ite_inv)
    | intro _ | split

theorem State.fencePair_inv {s : State} {t : Nat} {k : Nat} {own1 : Bool} {own2 : Bool} (hs : s.inv = true) :
    (State.fencePair s t k own1 own2).inv = true := by
  unfold State.fencePair
  try dsimp only
  repeat' first
    | (with_reducible first | assumption | apply State.fenceArray_inv | apply ite_inv)
    | intro _ | split

theorem State.crustFence_inv {s : State} {t : Nat} {v : Nat} {c : Crust} (hs : s.inv = true) : (State.crustFence
    s t v c).1.inv = true := by
  unfold State.crustFence
  try dsimp only
  repeat' first
    | (with_reducible first
        | assumption | apply State.drainFor_inv | apply State.fenceArray_inv | apply State.fencePair_inv)
    | intro _ | split

theorem State.crustPermanent_inv {s : State} {t : Nat} {v : Nat} {c : Crust} (hs : s.inv = true) :
    (State.crustPermanent s t v c).1.inv = true := by
  unfold State.crustPermanent
  try dsimp only
  repeat' first
    | (with_reducible first | assumption | apply State.crustFence_inv | apply State.log_inv | apply State.bump_inv)
    | intro _ | split

theorem State.crustTransient_inv {s : State} {t : Nat} (hs : s.inv = true) : (State.crustTransient s t).inv =
    true := by
  unfold State.crustTransient
  try dsimp only
  repeat' first
    | (with_reducible first | assumption | apply State.penalise_inv | apply State.log_inv | apply State.bump_inv)
    | intro _ | split

theorem State.crustNote_inv {s : State} {t : Nat} {fp : Nat → Nat} {c : Crust} (hs : s.inv = true) :
    (State.crustNote s t fp c).1.inv = true := by
  unfold State.crustNote
  try dsimp only
  repeat' first
    | (with_reducible first
        | assumption | apply State.setReg_inv | apply State.crustPermanent_inv | apply State.crustTransient_inv
        | apply hfp)
    | intro _ | split

theorem State.accumulate_inv {s : State} {t : Nat} {x : MArgs} {m : MData} {errs : List CellErr} {es : List (Nat
    × Nat)} (hs : s.inv = true) : (State.accumulate s t x m errs es).inv = true := by
  unfold State.accumulate
  try dsimp only
  repeat' first
    | (with_reducible first | assumption | apply State.putLocal_inv | (apply foldl_inv <;> (try intro _ _ _)))
    | intro _ | split

theorem State.runMul_inv {s : State} {t : Nat} {x : MArgs} {ev : UnitEvent} (hs : s.inv = true) : (State.runMul
    s t x ev).1.inv = true := by
  unfold State.runMul
  try dsimp only
  repeat' first
    | (with_reducible first
        | assumption | apply State.tile_wf | apply State.setTile_inv | apply State.bump_inv
        | apply State.crustNote_inv | apply State.accumulate_inv)
    | simp only [Tile.lit_wf]
    | (with_reducible first | apply State.tile_wf | apply State.setTile_inv | apply Tile.memOk)
    | intro _ | split

theorem State.runRead_inv {s : State} {t : Nat} {x : MArgs} (hs : s.inv = true) : (State.runRead s t x).inv =
    true := by
  unfold State.runRead
  try dsimp only
  repeat' first
    | (with_reducible first | assumption | apply State.putLocal_inv | apply ite_inv)
    | intro _ | split

theorem State.runClear_inv {s : State} {t : Nat} {x : MArgs} (hs : s.inv = true) : (State.runClear s t x).inv =
    true := by
  unfold State.runClear
  try dsimp only
  repeat' first
    | (with_reducible first | assumption | apply State.putLocal_inv)
    | intro _ | split

theorem issueM_keeps {op : Nat} {h : Head} {f : MF} {check : State → MArgs → Option FaultAt} {exps : State →
    MArgs → List Nat} {s : State} (hs : s.inv = true) : Out.keeps (issueM op h f check exps s) := by
  unfold issueM
  try dsimp only
  repeat' first
    | (with_reducible first
        | assumption | exact Act.fault_keeps | apply Act.hold_keeps | apply issue_keeps | apply State.advance_inv
        | apply State.enqueue_inv | apply State.pause_inv | apply hcheck | apply hexps)
    | intro _ | split

theorem execMmul_keeps {h : Head} {f : MF} {s : State} (hs : s.inv = true) : Out.keeps (execMmul h f s) := by
  unfold execMmul
  try dsimp only
  repeat' first
    | (with_reducible first | assumption | apply issueM_keeps)
    | intro _ | split

theorem execMslice_keeps {h : Head} {f : MF} {s : State} (hs : s.inv = true) : Out.keeps (execMslice h f s) := by
  unfold execMslice
  try dsimp only
  repeat' first
    | (with_reducible first | assumption | apply issueM_keeps)
    | intro _ | split

theorem execMread_keeps {h : Head} {f : MF} {s : State} (hs : s.inv = true) : Out.keeps (execMread h f s) := by
  unfold execMread
  try dsimp only
  repeat' first
    | (with_reducible first | assumption | apply issueM_keeps)
    | intro _ | split

theorem execMclear_keeps {h : Head} {f : MF} {s : State} (hs : s.inv = true) : Out.keeps (execMclear h f s) := by
  unfold execMclear
  try dsimp only
  repeat' first
    | (with_reducible first | assumption | apply issueM_keeps)
    | intro _ | split

end Sys2Proof.Machine
end

