-- ==== Sys2Proof/Laws/KeepSfu.lean ====
section
/-! SUPPORT. The definitions of Machine/Sfu.lean keep the invariant State.inv of Safety.lean: one lemma each. -/

namespace Sys2Proof.Machine

theorem Tile.setEntry_wf {t : Tile} {bank : Nat} {i : Nat} {v : Lane} (ht : t.wf = true) : (Tile.setEntry t bank
    i v).wf = true := by
  unfold Tile.setEntry
  try dsimp only
  repeat' first
    | (with_reducible first | assumption)
    | simp only [Tile.lit_wf]
    | (with_reducible first | apply Tile.memOk)
    | intro _ | split

theorem Tile.cbload_wf {t : Tile} {vs : List Nat} {mask : Word} {q : Nat} (ht : t.wf = true) : (Tile.cbload t vs
    mask q).wf = true := by
  unfold Tile.cbload
  try dsimp only
  repeat' first
    | (with_reducible first | assumption | apply Tile.setEntry_wf | (apply foldTile_wf <;> (try intro _ _ _)))
    | intro _ | split

theorem State.runF_inv {s : State} {t : Nat} {o : UOp} (hs : s.inv = true) : (State.runF s t o).inv = true := by
  unfold State.runF
  try dsimp only
  repeat' first
    | (with_reducible first
        | assumption | apply State.setCtx_inv | apply State.setTile_inv | apply Tile.cbload_wf | apply State.tile_wf)
    | simp only [Tile.lit_wf]
    | (with_reducible first
        | apply State.tile_wf | apply State.setTile_inv | apply State.setCtx_inv | apply Tile.memOk)
    | intro _ | split

theorem State.startF_inv {s : State} {t : Nat} {o : UOp} (hs : s.inv = true) : (State.startF s t o).inv = true := by
  unfold State.startF
  try dsimp only
  repeat' first
    | (with_reducible first
        | assumption | apply State.pause_inv | apply State.runF_inv | apply State.markStarted_inv
        | apply State.pay_inv | apply State.completeOp_inv | apply ite_inv)
    | intro _ | split

theorem issueF_keeps {op : Nat} {h : Head} {f : FF} {s : State} (hs : s.inv = true) : Out.keeps (issueF op h f
    s) := by
  unfold issueF
  try dsimp only
  repeat' first
    | (with_reducible first
        | assumption | apply Act.hold_keeps | apply issue_keeps | apply State.startF_inv | apply State.advance_inv
        | apply State.enqueue_inv | apply State.pause_inv)
    | intro _ | split

theorem execFexp_keeps {h : Head} {f : FF} {s : State} (hs : s.inv = true) : Out.keeps (execFexp h f s) := by
  unfold execFexp
  try dsimp only
  repeat' first
    | (with_reducible first | assumption | apply issueF_keeps)
    | intro _ | split

theorem execFlog_keeps {h : Head} {f : FF} {s : State} (hs : s.inv = true) : Out.keeps (execFlog h f s) := by
  unfold execFlog
  try dsimp only
  repeat' first
    | (with_reducible first | assumption | apply issueF_keeps)
    | intro _ | split

theorem execFrcp_keeps {h : Head} {f : FF} {s : State} (hs : s.inv = true) : Out.keeps (execFrcp h f s) := by
  unfold execFrcp
  try dsimp only
  repeat' first
    | (with_reducible first | assumption | apply issueF_keeps)
    | intro _ | split

theorem execFrsq_keeps {h : Head} {f : FF} {s : State} (hs : s.inv = true) : Out.keeps (execFrsq h f s) := by
  unfold execFrsq
  try dsimp only
  repeat' first
    | (with_reducible first | assumption | apply issueF_keeps)
    | intro _ | split

theorem execCbload_keeps {h : Head} {f : FF} {s : State} (hs : s.inv = true) : Out.keeps (execCbload h f s) := by
  unfold execCbload
  try dsimp only
  repeat' first
    | (with_reducible first | assumption | apply issueF_keeps)
    | intro _ | split

theorem execCbswap_keeps {h : Head} {f : FF} {s : State} (hs : s.inv = true) : Out.keeps (execCbswap h f s) := by
  unfold execCbswap
  try dsimp only
  repeat' first
    | (with_reducible first | assumption | apply issueF_keeps)
    | intro _ | split

theorem execCblook_keeps {h : Head} {f : FF} {s : State} (hs : s.inv = true) : Out.keeps (execCblook h f s) := by
  unfold execCblook
  try dsimp only
  repeat' first
    | (with_reducible first | assumption | apply issueF_keeps)
    | intro _ | split

end Sys2Proof.Machine
end

