-- ==== Sys2Proof/Laws/KeepSync.lean ====
section
/-! SUPPORT. The definitions of Machine/Sync.lean keep the invariant State.inv of Safety.lean: one lemma each. -/

namespace Sys2Proof.Machine

theorem localCounter_keeps {h : Head} {creg : Bool} {sc : BitVec 6} {cnum : BitVec 16} {k : Nat → Act} {s :
    State} (hk : ∀ c, (k c).keeps) (hs : s.inv = true) : Act.keeps (localCounter h creg sc cnum k s) := by
  unfold localCounter
  try dsimp only
  repeat' first
    | (with_reducible first | assumption | exact Act.fault_keeps | apply hk)
    | intro _ | split

theorem execArm_keeps {h : Head} {f : ArmF} {s : State} (hs : s.inv = true) : Out.keeps (execArm h f s) := by
  unfold execArm
  try dsimp only
  repeat' first
    | (with_reducible first
        | assumption | exact Act.fault_keeps | (apply Act.go_keeps <;> (try intro _ _)) | apply issue_keeps
        | apply localCounter_keeps | apply State.advance_inv | apply State.armCounter_inv)
    | intro _ | split

theorem execArrive_keeps {h : Head} {f : ArriveF} {s : State} (hs : s.inv = true) : Out.keeps (execArrive h f s) := by
  unfold execArrive
  try dsimp only
  repeat' first
    | (with_reducible first
        | assumption | exact Act.fault_keeps | (apply Act.go_keeps <;> (try intro _ _)) | apply issue_keeps
        | apply State.tile_wf | apply State.setCtx_inv | apply State.setTile_inv | apply State.advance_inv
        | apply State.flushArrives_inv)
    | simp only [Tile.lit_wf]
    | (with_reducible first
        | apply State.tile_wf | apply State.setTile_inv | apply State.setCtx_inv | apply Tile.memOk)
    | intro _ | split

theorem execArrivalApplied_keeps {id : Nat} {s : State} (hs : s.inv = true) : Out.keeps (execArrivalApplied id
    s) := by
  unfold execArrivalApplied
  try dsimp only
  repeat' first
    | (with_reducible first | assumption | apply next_keeps | apply State.applyArrival_inv | apply State.settle_inv)
    | (simp only [State.lit_inv]; refine ⟨?_, ?_, ?_, ?_, ?_, ?_, ?_, ?_, ?_⟩)
    | (with_reducible first
        | apply State.inv_mem | apply State.inv_regs | apply State.inv_asks | apply State.inv_tiles
        | apply State.inv_each | apply State.inv_counters | apply State.inv_chans | apply State.inv_tags
        | apply State.inv_wear)
    | intro _ | split

theorem State.setWaiter_inv {s : State} {c : Nat} {t : Nat} (hs : s.inv = true) : (State.setWaiter s c t).inv =
    true := by
  unfold State.setWaiter
  try dsimp only
  repeat' first
    | (with_reducible first | assumption | apply State.setCounter_inv)
    | intro _ | split

theorem execWait_keeps {h : Head} {f : WaitF} {s : State} (hs : s.inv = true) : Out.keeps (execWait h f s) := by
  unfold execWait
  try dsimp only
  repeat' first
    | (with_reducible first
        | assumption | (apply Act.go_keeps <;> (try intro _ _)) | apply issue_keeps | apply localCounter_keeps
        | apply State.setCtx_inv | apply State.setWaiter_inv | apply ite_inv | apply State.setCtx_inv)
    | intro _ | split

theorem execWaitRetest_keeps {tile : Nat} {ctx : Ctxt} {s : State} (hs : s.inv = true) : Out.keeps
    (execWaitRetest tile ctx s) := by
  unfold execWaitRetest
  try dsimp only
  repeat' first
    | (with_reducible first
        | assumption | apply next_keeps | apply within_keeps | apply State.setCtx_inv | apply State.setWaiter_inv
        | apply ite_inv | apply State.setCtx_inv)
    | intro _ | split

theorem execWaitTimeout_keeps {tile : Nat} {ctx : Ctxt} {s : State} (hs : s.inv = true) : Out.keeps
    (execWaitTimeout tile ctx s) := by
  unfold execWaitTimeout
  try dsimp only
  repeat' first
    | (with_reducible first
        | assumption | apply next_keeps | apply within_keeps | apply State.setCtx_inv | apply State.setCtx_inv)
    | intro _ | split

theorem execMigrateDrain_keeps {h : Head} {f : ArmF} {s : State} (hs : s.inv = true) : Out.keeps
    (execMigrateDrain h f s) := by
  unfold execMigrateDrain
  try dsimp only
  repeat' first
    | (with_reducible first
        | assumption | exact Act.fault_keeps | (apply Act.go_keeps <;> (try intro _ _)) | apply issue_keeps
        | apply localCounter_keeps | apply State.advance_inv | apply State.migrateCounter_inv
        | apply State.setCtx_inv | apply ite_inv | apply State.setCtx_inv)
    | intro _ | split

theorem execMigrateDrainComplete_keeps {tile : Nat} {ctx : Ctxt} {s : State} (hs : s.inv = true) : Out.keeps
    (execMigrateDrainComplete tile ctx s) := by
  unfold execMigrateDrainComplete
  try dsimp only
  repeat' first
    | (with_reducible first
        | assumption | apply next_keeps | apply within_keeps | apply State.setCtx_inv
        | apply State.migrateCounter_inv | apply ite_inv | apply State.setCtx_inv)
    | intro _ | split

theorem execMigrateDiscard_keeps {h : Head} {f : ArmF} {s : State} (hs : s.inv = true) : Out.keeps
    (execMigrateDiscard h f s) := by
  unfold execMigrateDiscard
  try dsimp only
  repeat' first
    | (with_reducible first
        | assumption | exact Act.fault_keeps | (apply Act.go_keeps <;> (try intro _ _)) | apply issue_keeps
        | apply localCounter_keeps | apply State.advance_inv | apply State.migrateCounter_inv)
    | intro _ | split

theorem execScread_keeps {h : Head} {sd : BitVec 6} {creg : Bool} {sc : BitVec 6} {sel : BitVec 2} {cnum :
    BitVec 16} {s : State} (hs : s.inv = true) : Out.keeps (execScread h sd creg sc sel cnum s) := by
  unfold execScread
  try dsimp only
  repeat' first
    | (with_reducible first
        | assumption | (apply Act.go_keeps <;> (try intro _ _)) | apply issue_keeps | apply localCounter_keeps
        | apply State.setCtx_inv | apply State.setCtx_inv)
    | intro _ | split

theorem execTwait_keeps {h : Head} {tok : BitVec 4} {s : State} (hs : s.inv = true) : Out.keeps (execTwait h tok
    s) := by
  unfold execTwait
  try dsimp only
  repeat' first
    | (with_reducible first
        | assumption | apply Act.hold_keeps | (apply Act.go_keeps <;> (try intro _ _)) | apply next_keeps
        | apply ite_keeps | apply State.setCtx_inv | apply issue_keeps | apply State.tile_wf
        | apply State.advance_inv | apply State.setTile_inv | apply Tile.setToken_wf | apply within_keeps
        | apply ite_inv | apply State.tile_wf | apply State.setTile_inv | apply State.setCtx_inv)
    | intro _ | split

theorem execTset_keeps {h : Head} {value : BitVec 8} {tok : BitVec 4} {s : State} (hs : s.inv = true) :
    Out.keeps (execTset h value tok s) := by
  unfold execTset
  try dsimp only
  repeat' first
    | (with_reducible first
        | assumption | (apply Act.go_keeps <;> (try intro _ _)) | apply issue_keeps | apply State.advance_inv
        | apply State.setTile_inv | apply Tile.setToken_wf | apply State.tile_wf | apply State.tile_wf
        | apply State.setTile_inv)
    | intro _ | split

theorem execTread_keeps {h : Head} {sd : BitVec 6} {tok : BitVec 4} {s : State} (hs : s.inv = true) : Out.keeps
    (execTread h sd tok s) := by
  unfold execTread
  try dsimp only
  repeat' first
    | (with_reducible first
        | assumption | (apply Act.go_keeps <;> (try intro _ _)) | apply issue_keeps | apply State.setCtx_inv
        | apply State.setCtx_inv)
    | intro _ | split

theorem execFence_keeps {h : Head} {scope : BitVec 2} {s : State} (hs : s.inv = true) : Out.keeps (execFence h
    scope s) := by
  unfold execFence
  try dsimp only
  repeat' first
    | (with_reducible first
        | assumption | (apply Act.go_keeps <;> (try intro _ _)) | apply issue_keeps | apply State.advance_inv
        | apply State.setCtx_inv | apply ite_inv | apply State.setCtx_inv)
    | intro _ | split

theorem execFenceComplete_keeps {tile : Nat} {ctx : Ctxt} {s : State} (hs : s.inv = true) : Out.keeps
    (execFenceComplete tile ctx s) := by
  unfold execFenceComplete
  try dsimp only
  repeat' first
    | (with_reducible first
        | assumption | apply next_keeps | apply within_keeps | apply State.setCtx_inv | apply ite_inv
        | apply State.setCtx_inv)
    | intro _ | split

theorem execTpush_keeps {h : Head} {pd : BitVec 3} {sa : BitVec 6} {sb : BitVec 6} {sc : BitVec 6} {s : State}
    (hs : s.inv = true) : Out.keeps (execTpush h pd sa sb sc s) := by
  unfold execTpush
  try dsimp only
  repeat' first
    | (with_reducible first
        | assumption | (apply Act.go_keeps <;> (try intro _ _)) | apply issue_keeps | apply State.setCtx_inv)
    | (simp only [State.lit_inv]; refine ⟨?_, ?_, ?_, ?_, ?_, ?_, ?_, ?_, ?_⟩)
    | (with_reducible first
        | apply ite_inv | apply State.inv_mem | apply State.inv_regs | apply State.inv_asks | apply State.inv_tiles
        | apply State.inv_each | apply State.inv_counters | apply State.inv_chans | apply State.inv_tags
        | apply State.inv_wear | apply State.setCtx_inv)
    | intro _ | split

theorem execTpop_keeps {h : Head} {pd : BitVec 3} {sd : BitVec 6} {se : BitVec 6} {s : State} (hs : s.inv =
    true) : Out.keeps (execTpop h pd sd se s) := by
  unfold execTpop
  try dsimp only
  repeat' first
    | (with_reducible first
        | assumption | (apply Act.go_keeps <;> (try intro _ _)) | apply issue_keeps | apply State.setCtx_inv)
    | (simp only [State.lit_inv]; refine ⟨?_, ?_, ?_, ?_, ?_, ?_, ?_, ?_, ?_⟩)
    | (with_reducible first
        | apply State.inv_mem | apply State.inv_regs | apply State.inv_asks | apply State.inv_tiles
        | apply State.inv_each | apply State.inv_counters | apply State.inv_chans | apply State.inv_tags
        | apply State.inv_wear | apply State.setCtx_inv)
    | intro _ | split

end Sys2Proof.Machine
end

