-- ==== Sys2Proof/Laws/KeepVector.lean ====
section
/-! SUPPORT. The definitions of Machine/Vector.lean keep the invariant State.inv of Safety.lean: one lemma each. -/

namespace Sys2Proof.Machine

theorem State.runV_inv {s : State} {t : Nat} {o : UOp} {sram : Sram} (hs : s.inv = true) : (State.runV s t o
    sram).inv = true := by
  unfold State.runV
  try dsimp only
  repeat' first
    | (with_reducible first
        | assumption | apply State.setCtx_inv | apply State.sramNote_inv | apply State.wrLocal_inv
        | (apply foldl_inv <;> (try intro _ _ _)) | apply ite_inv | apply State.setCtx_inv)
    | intro _ | split

theorem State.startV_inv {s : State} {t : Nat} {o : UOp} {sram : Sram} (hs : s.inv = true) : (State.startV s t o
    sram).inv = true := by
  unfold State.startV
  try dsimp only
  repeat' first
    | (with_reducible first
        | assumption | apply State.sramFail_inv | apply State.pause_inv | apply State.runV_inv
        | apply State.markStarted_inv | apply State.pay_inv | apply ite_inv)
    | intro _ | split

theorem issueV_keeps {op : Nat} {h : Head} {f : VF} {check : State → Option FaultAt} {sram : Sram} {s : State}
    (hs : s.inv = true) : Out.keeps (issueV op h f check sram s) := by
  unfold issueV
  try dsimp only
  repeat' first
    | (with_reducible first
        | assumption | exact Act.fault_keeps | apply Act.hold_keeps | apply issue_keeps | apply State.startV_inv
        | apply State.advance_inv | apply State.enqueue_inv | apply State.pause_inv | apply hcheck)
    | intro _ | split

theorem execVadd_keeps {h : Head} {f : VF} {s : State} (hs : s.inv = true) : Out.keeps (execVadd h f s) := by
  unfold execVadd
  try dsimp only
  repeat' first
    | (with_reducible first | assumption | apply issueV_keeps)
    | intro _ | split

theorem execVsub_keeps {h : Head} {f : VF} {s : State} (hs : s.inv = true) : Out.keeps (execVsub h f s) := by
  unfold execVsub
  try dsimp only
  repeat' first
    | (with_reducible first | assumption | apply issueV_keeps)
    | intro _ | split

theorem execVmul_keeps {h : Head} {f : VF} {s : State} (hs : s.inv = true) : Out.keeps (execVmul h f s) := by
  unfold execVmul
  try dsimp only
  repeat' first
    | (with_reducible first | assumption | apply issueV_keeps)
    | intro _ | split

theorem execVfma_keeps {h : Head} {f : VF} {s : State} (hs : s.inv = true) : Out.keeps (execVfma h f s) := by
  unfold execVfma
  try dsimp only
  repeat' first
    | (with_reducible first | assumption | apply issueV_keeps)
    | intro _ | split

theorem execVmin_keeps {h : Head} {f : VF} {s : State} (hs : s.inv = true) : Out.keeps (execVmin h f s) := by
  unfold execVmin
  try dsimp only
  repeat' first
    | (with_reducible first | assumption | apply issueV_keeps)
    | intro _ | split

theorem execVmax_keeps {h : Head} {f : VF} {s : State} (hs : s.inv = true) : Out.keeps (execVmax h f s) := by
  unfold execVmax
  try dsimp only
  repeat' first
    | (with_reducible first | assumption | apply issueV_keeps)
    | intro _ | split

theorem execVabs_keeps {h : Head} {f : VF} {s : State} (hs : s.inv = true) : Out.keeps (execVabs h f s) := by
  unfold execVabs
  try dsimp only
  repeat' first
    | (with_reducible first | assumption | apply issueV_keeps)
    | intro _ | split

theorem execVneg_keeps {h : Head} {f : VF} {s : State} (hs : s.inv = true) : Out.keeps (execVneg h f s) := by
  unfold execVneg
  try dsimp only
  repeat' first
    | (with_reducible first | assumption | apply issueV_keeps)
    | intro _ | split

theorem execVcvt_keeps {h : Head} {f : VF} {s : State} (hs : s.inv = true) : Out.keeps (execVcvt h f s) := by
  unfold execVcvt
  try dsimp only
  repeat' first
    | (with_reducible first | assumption | apply issueV_keeps)
    | intro _ | split

theorem execVcmp_keeps {h : Head} {f : VF} {s : State} (hs : s.inv = true) : Out.keeps (execVcmp h f s) := by
  unfold execVcmp
  try dsimp only
  repeat' first
    | (with_reducible first | assumption | apply issueV_keeps)
    | intro _ | split

theorem execVsel_keeps {h : Head} {f : VF} {s : State} (hs : s.inv = true) : Out.keeps (execVsel h f s) := by
  unfold execVsel
  try dsimp only
  repeat' first
    | (with_reducible first | assumption | apply issueV_keeps)
    | intro _ | split

theorem execVand_keeps {h : Head} {f : VF} {s : State} (hs : s.inv = true) : Out.keeps (execVand h f s) := by
  unfold execVand
  try dsimp only
  repeat' first
    | (with_reducible first | assumption | apply issueV_keeps)
    | intro _ | split

theorem execVor_keeps {h : Head} {f : VF} {s : State} (hs : s.inv = true) : Out.keeps (execVor h f s) := by
  unfold execVor
  try dsimp only
  repeat' first
    | (with_reducible first | assumption | apply issueV_keeps)
    | intro _ | split

theorem execVxor_keeps {h : Head} {f : VF} {s : State} (hs : s.inv = true) : Out.keeps (execVxor h f s) := by
  unfold execVxor
  try dsimp only
  repeat' first
    | (with_reducible first | assumption | apply issueV_keeps)
    | intro _ | split

theorem execVshl_keeps {h : Head} {f : VF} {s : State} (hs : s.inv = true) : Out.keeps (execVshl h f s) := by
  unfold execVshl
  try dsimp only
  repeat' first
    | (with_reducible first | assumption | apply issueV_keeps)
    | intro _ | split

theorem execVshr_keeps {h : Head} {f : VF} {s : State} (hs : s.inv = true) : Out.keeps (execVshr h f s) := by
  unfold execVshr
  try dsimp only
  repeat' first
    | (with_reducible first | assumption | apply issueV_keeps)
    | intro _ | split

theorem execVld_keeps {h : Head} {f : VF} {sram : Sram} {s : State} (hs : s.inv = true) : Out.keeps (execVld h f
    sram s) := by
  unfold execVld
  try dsimp only
  repeat' first
    | (with_reducible first | assumption | apply issueV_keeps)
    | intro _ | split

theorem execVst_keeps {h : Head} {f : VF} {s : State} (hs : s.inv = true) : Out.keeps (execVst h f s) := by
  unfold execVst
  try dsimp only
  repeat' first
    | (with_reducible first | assumption | apply issueV_keeps)
    | intro _ | split

theorem execVbcast_keeps {h : Head} {f : VF} {s : State} (hs : s.inv = true) : Out.keeps (execVbcast h f s) := by
  unfold execVbcast
  try dsimp only
  repeat' first
    | (with_reducible first | assumption | apply issueV_keeps)
    | intro _ | split

theorem execVext_keeps {h : Head} {f : VF} {s : State} (hs : s.inv = true) : Out.keeps (execVext h f s) := by
  unfold execVext
  try dsimp only
  repeat' first
    | (with_reducible first | assumption | apply issueV_keeps)
    | intro _ | split

theorem execVrsum_keeps {h : Head} {f : VF} {s : State} (hs : s.inv = true) : Out.keeps (execVrsum h f s) := by
  unfold execVrsum
  try dsimp only
  repeat' first
    | (with_reducible first | assumption | apply issueV_keeps)
    | intro _ | split

theorem execVrmax_keeps {h : Head} {f : VF} {s : State} (hs : s.inv = true) : Out.keeps (execVrmax h f s) := by
  unfold execVrmax
  try dsimp only
  repeat' first
    | (with_reducible first | assumption | apply issueV_keeps)
    | intro _ | split

theorem execVrmin_keeps {h : Head} {f : VF} {s : State} (hs : s.inv = true) : Out.keeps (execVrmin h f s) := by
  unfold execVrmin
  try dsimp only
  repeat' first
    | (with_reducible first | assumption | apply issueV_keeps)
    | intro _ | split

theorem execVperm_keeps {h : Head} {f : VF} {s : State} (hs : s.inv = true) : Out.keeps (execVperm h f s) := by
  unfold execVperm
  try dsimp only
  repeat' first
    | (with_reducible first | assumption | apply issueV_keeps)
    | intro _ | split

theorem execVmovi_keeps {h : Head} {f : VF} {s : State} (hs : s.inv = true) : Out.keeps (execVmovi h f s) := by
  unfold execVmovi
  try dsimp only
  repeat' first
    | (with_reducible first | assumption | apply issueV_keeps)
    | intro _ | split

end Sys2Proof.Machine
end

