-- ==== Sys2Proof/Laws/KeepUnits.lean ====
section
/-! SUPPORT. The definitions of Machine/Units.lean keep the invariant State.inv of Safety.lean: one lemma each. -/

namespace Sys2Proof.Machine

theorem State.arriveFails_inv {s : State} {a : Arrival} {tile : Nat} {c : Ctxt} {seq : Nat} (hs : s.inv = true)
    : (State.arriveFails s a tile c seq).inv = true := by
  unfold State.arriveFails
  try dsimp only
  repeat' first
    | (with_reducible first | assumption | apply State.unitFaultAt_inv)
    | (simp only [State.lit_inv]; refine ⟨?_, ?_, ?_, ?_, ?_, ?_, ?_, ?_, ?_⟩)
    | (with_reducible first
        | apply State.inv_mem | apply State.inv_regs | apply State.inv_asks | apply State.inv_tiles
        | apply State.inv_each | apply State.inv_counters | apply State.inv_chans | apply State.inv_tags
        | apply State.inv_wear)
    | intro _ | split

theorem execUnitFault_keeps {tile : Nat} {seq : Nat} {cause : BitVec 8} {info : Word} {s : State} (hs : s.inv =
    true) : Out.keeps (execUnitFault tile seq cause info s) := by
  unfold execUnitFault
  try dsimp only
  repeat' first
    | (with_reducible first
        | assumption | apply next_keeps | apply within_keeps | apply State.unitFaultAt_inv
        | apply State.copyFault_inv | apply State.arriveFails_inv | apply ite_inv)
    | intro _ | split

theorem State.payRows_inv {s : State} {t : Nat} {o : UOp} {x : MArgs} (hs : s.inv = true) : (State.payRows s t o
    x).inv = true := by
  unfold State.payRows
  try dsimp only
  repeat' first
    | (with_reducible first
        | assumption | apply State.tile_wf | apply State.takeRows_inv | apply State.setTile_inv | apply Tile.setOp_wf
        | apply State.tile_wf | apply State.setTile_inv)
    | intro _ | split

theorem State.runAnchor_inv {s : State} {t : Nat} {x : MArgs} {exps : List Nat} (hs : s.inv = true) :
    (State.runAnchor s t x exps).inv = true := by
  unfold State.runAnchor
  try dsimp only
  repeat' first
    | (with_reducible first
        | assumption | apply State.putLocal_inv | (apply foldl_inv <;> (try intro _ _ _)) | apply ite_inv)
    | intro _ | split

theorem State.runM_inv {s : State} {t : Nat} {x : MArgs} {exps : List Nat} {ev : UnitEvent} (hs : s.inv = true)
    : (State.runM s t x exps ev).1.inv = true := by
  unfold State.runM
  try dsimp only
  repeat' first
    | (with_reducible first
        | assumption | apply State.runMul_inv | apply State.runRead_inv | apply State.runAnchor_inv
        | apply State.runClear_inv)
    | intro _ | split

theorem State.startM_inv {s : State} {t : Nat} {o : UOp} {ev : UnitEvent} (hs : s.inv = true) : (State.startM s
    t o ev).inv = true := by
  unfold State.startM
  try dsimp only
  repeat' first
    | (with_reducible first
        | assumption | apply State.unitFaultAt_inv | apply State.sramFail_inv | apply State.pause_inv
        | apply State.pay_inv | apply State.sramNote_inv | apply State.payRows_inv | apply State.markStarted_inv
        | apply State.runM_inv | apply State.setOp_inv | apply ite_inv)
    | intro _ | split

theorem execUnitInstructionStart_keeps {tile : Nat} {seq : Nat} {ev : UnitEvent} {s : State} (hs : s.inv = true)
    : Out.keeps (execUnitInstructionStart tile seq ev s) := by
  unfold execUnitInstructionStart
  try dsimp only
  repeat' first
    | (with_reducible first
        | assumption | apply next_keeps | apply within_keeps | apply State.startM_inv | apply State.startV_inv
        | apply State.startF_inv | apply State.startN_inv | apply ite_inv)
    | intro _ | split

theorem execUnitInstructionComplete_keeps {tile : Nat} {seq : Nat} {s : State} (hs : s.inv = true) : Out.keeps
    (execUnitInstructionComplete tile seq s) := by
  unfold execUnitInstructionComplete
  try dsimp only
  repeat' first
    | (with_reducible first
        | assumption | apply next_keeps | apply within_keeps | apply State.completeOp_inv | apply ite_inv)
    | intro _ | split

theorem execManchor_keeps {h : Head} {f : MF} {s : State} (hs : s.inv = true) : Out.keeps (execManchor h f s) := by
  unfold execManchor
  try dsimp only
  repeat' first
    | (with_reducible first | assumption | apply issueM_keeps)
    | intro _ | split

end Sys2Proof.Machine
end

