-- ==== Sys2Proof/Laws/Units.lean ====
section
/-! SUPPORT. Writing the elements of a vector register, and the start of a unit instruction at its issue. -/

namespace Sys2Proof.Machine

/-! ## Elements -/

theorem Ctx.rdLane_wrElem_other (x : Ctx) (ty r k v q j : Nat) (hq : q ≠ r) (hj : j < 64) (hk : k < elemsOf ty) :
    (x.wrElem ty r k v).rdLane q j = x.rdLane q j := by
  unfold Ctx.wrElem elemsOf at *
  split at hk
  · rw [if_pos ‹_›, Ctx.rdLane_wrLane, Ctx.rdLane_wrLane, if_neg (by omega), if_neg (by omega)]
  · rw [if_neg ‹_›, Ctx.rdLane_wrLane, if_neg (by omega)]

theorem Ctx.rdElem_wrElem (x : Ctx) (ty r k v j : Nat) :
    (x.wrElem ty r k v).rdElem ty r j = if j = k then v % 2 ^ (if ty = 1 then 64 else 32) else x.rdElem ty r j := by
  unfold Ctx.wrElem Ctx.rdElem
  split
  · simp only [Ctx.rdLane_wrLane]
    by_cases h : j = k
    · subst h
      rw [if_pos rfl, if_neg (by omega), if_pos rfl, if_pos rfl]
      simp only [BitVec.toNat_ofNat]
      omega
    · rw [if_neg h, if_neg (by omega), if_neg (by omega), if_neg (by omega), if_neg (by omega)]
  · rw [Ctx.rdLane_wrLane]
    by_cases h : j = k
    · subst h; rw [if_pos rfl, if_pos rfl]; simp
    · rw [if_neg h, if_neg (by omega)]

/-- The parts of a context that writing vector elements leaves alone. -/
theorem Ctx.wrElem_keeps (x : Ctx) (ty r k v : Nat) : { x.wrElem ty r k v with v := x.v } = x := by
  unfold Ctx.wrElem Ctx.wrLane; split <;> rfl

theorem Ctx.wrElems_keeps (ty r : Nat) (mask : Word) (l : List (Nat × Nat)) (x : Ctx) :
    { l.foldl (fun y e => if takesPart ty mask e.2 then y.wrElem ty r e.2 e.1 else y) x with v := x.v } = x := by
  induction l generalizing x with
  | nil => rfl
  | cons e l ih =>
    rw [List.foldl_cons]
    split
    · have h := ih (x.wrElem ty r e.2 e.1)
      have k := Ctx.wrElem_keeps x ty r e.2 e.1
      calc _ = ({ ({ l.foldl _ (x.wrElem ty r e.2 e.1) with v := (x.wrElem ty r e.2 e.1).v } : Ctx) with v := x.v } : Ctx) := rfl
        _ = _ := by rw [h]; exact k
    · exact ih x

theorem Ctx.wrElems_fold (ty r : Nat) (mask : Word) : ∀ (vs : List Nat) (n : Nat) (x : Ctx), n + vs.length ≤ elemsOf ty →
    (∀ q j, q ≠ r → j < 64 →
      ((vs.zipIdx n).foldl (fun y e => if takesPart ty mask e.2 then y.wrElem ty r e.2 e.1 else y) x).rdLane q j = x.rdLane q j)
    ∧ ∀ j, ((vs.zipIdx n).foldl (fun y e => if takesPart ty mask e.2 then y.wrElem ty r e.2 e.1 else y) x).rdElem ty r j
        = if n ≤ j ∧ j < n + vs.length ∧ takesPart ty mask j = true then vs.getD (j - n) 0 % 2 ^ (if ty = 1 then 64 else 32)
          else x.rdElem ty r j := by
  intro vs
  induction vs with
  | nil => intro n x _; exact ⟨fun _ _ _ _ => rfl, fun j => by rw [if_neg (by simp; omega)]; rfl⟩
  | cons v vs ih =>
    intro n x hn
    rw [List.length_cons] at hn
    rw [List.zipIdx_cons, List.foldl_cons]
    obtain ⟨h1, h2⟩ := ih (n + 1) (if takesPart ty mask n then x.wrElem ty r n v else x) (by omega)
    refine ⟨fun q j hq hj => ?_, fun j => ?_⟩
    · rw [h1 q j hq hj]
      split
      · exact Ctx.rdLane_wrElem_other x ty r n v q j hq hj (by omega)
      · rfl
    · rw [h2 j]
      by_cases hj : j = n
      · subst hj
        rw [if_neg (by omega)]
        by_cases ht : takesPart ty mask j = true
        · have hc : j ≤ j ∧ j < j + (v :: vs).length ∧ takesPart ty mask j = true :=
            ⟨Nat.le_refl _, by rw [List.length_cons]; omega, ht⟩
          rw [if_pos ht, Ctx.rdElem_wrElem, if_pos (rfl : j = j), if_pos hc, Nat.sub_self, List.getD_cons_zero]
        · have hc : ¬ (j ≤ j ∧ j < j + (v :: vs).length ∧ takesPart ty mask j = true) := fun h => ht h.2.2
          rw [if_neg ht, if_neg hc]
      · by_cases hc : n + 1 ≤ j ∧ j < n + 1 + vs.length ∧ takesPart ty mask j = true
        · have hd : n ≤ j ∧ j < n + (v :: vs).length ∧ takesPart ty mask j = true :=
            ⟨by omega, by rw [List.length_cons]; omega, hc.2.2⟩
          rw [if_pos hc, if_pos hd]
          have : j - n = (j - (n + 1)) + 1 := by omega
          rw [this, List.getD_cons_succ]
        · have hd : ¬ (n ≤ j ∧ j < n + (v :: vs).length ∧ takesPart ty mask j = true) :=
            fun h => hc ⟨by omega, by have := h.2.1; rw [List.length_cons] at this; omega, h.2.2⟩
          rw [if_neg hc, if_neg hd]
          split
          · rw [Ctx.rdElem_wrElem, if_neg hj]
          · rfl

/-- Writing every element of a register under a mask: the elements that take part hold the values, all else is as it was. -/
theorem Ctx.rdElem_wrElems (x : Ctx) (ty r : Nat) (mask : Word) (vs : List Nat) (h : vs.length = elemsOf ty) (j : Nat)
    (hj : j < elemsOf ty) : (x.wrElems ty r mask vs).rdElem ty r j
      = if takesPart ty mask j then vs.getD j 0 % 2 ^ (if ty = 1 then 64 else 32) else x.rdElem ty r j := by
  unfold Ctx.wrElems
  rw [((Ctx.wrElems_fold ty r mask vs 0 x (by omega)).2 j)]
  by_cases ht : takesPart ty mask j = true
  · have hc : 0 ≤ j ∧ j < 0 + vs.length ∧ takesPart ty mask j = true := ⟨Nat.zero_le _, by omega, ht⟩
    rw [if_pos hc, if_pos ht]; rfl
  · have hc : ¬ (0 ≤ j ∧ j < 0 + vs.length ∧ takesPart ty mask j = true) := fun h => ht h.2.2
    rw [if_neg hc, if_neg ht]

theorem Ctx.rdLane_wrElems (x : Ctx) (ty r : Nat) (mask : Word) (vs : List Nat) (h : vs.length = elemsOf ty) (q j : Nat)
    (hq : q ≠ r) (hj : j < 64) : (x.wrElems ty r mask vs).rdLane q j = x.rdLane q j :=
  (Ctx.wrElems_fold ty r mask vs 0 x (by omega)).1 q j hq hj

theorem Ctx.rdS_wrElems (x : Ctx) (ty r : Nat) (mask : Word) (vs : List Nat) (j : Nat) :
    (x.wrElems ty r mask vs).rdS j = x.rdS j := by
  have h := Ctx.wrElems_keeps ty r mask vs.zipIdx x
  conv_rhs => rw [← h]
  rfl

theorem Ctx.rdP_wrElems (x : Ctx) (ty r : Nat) (mask : Word) (vs : List Nat) (j : Nat) :
    (x.wrElems ty r mask vs).rdP j = x.rdP j := by
  have h := Ctx.wrElems_keeps ty r mask vs.zipIdx x
  conv_rhs => rw [← h]
  rfl

theorem Ctx.flow_wrElems (x : Ctx) (ty r : Nat) (mask : Word) (vs : List Nat) :
    (x.wrElems ty r mask vs).pc = x.pc ∧ (x.wrElems ty r mask vs).loops = x.loops := by
  have h := Ctx.wrElems_keeps ty r mask vs.zipIdx x
  constructor <;> (conv_rhs => rw [← h]) <;> rfl

/-! ## Words -/

theorem b2n_le (b : Bool) : b2n b ≤ 1 := by cases b <;> decide

theorem encHead_lt (cls op : Nat) (h : Head) (hc : cls < 16) (ho : op < 64) : encHead cls op h ≤ 2 ^ 64 - 2 ^ 50 := by
  have hp := h.pred.isLt
  have hn := b2n_le h.pneg
  unfold encHead
  omega

theorem encV_lt (op : Nat) (h : Head) (f : VF) (ho : op < 64) : encV op h f < 2 ^ 64 := by
  have h0 := encHead_lt 3 op h (by omega) ho
  have h1 := f.tw.isLt; have h2 := f.ts.isLt; have h3 := f.vd.isLt; have h4 := f.va.isLt; have h5 := f.vb.isLt
  have h6 := f.vc.isLt; have h7 := f.ty.isLt; have h8 := f.sa.isLt; have h9 := f.imm9.isLt
  unfold encV
  omega

/-! ## The start of a unit instruction at its issue -/

/-- A tile after an instruction `o` of word `w` has been issued into its unit and started there. -/
structure Tile.StartedFrom (y x : Tile) (c : Ctxt) (o : UOp) : Prop where
  here : y.ctx c = (x.ctx c).advance
  other : ∀ d, d ≠ c → y.ctx d = x.ctx d
  store : y.store = x.store
  fill : y.fill = x.fill
  token : ∀ k, y.token k = if waitTok o.word.toNat = some k then x.token k - 1 else x.token k
  codebook : y.codebook = x.codebook
  bank : y.bank = x.bank
  seq : y.seq = x.seq + 1
  inOps : ∃ p ∈ y.ops, p.seq = x.seq ∧ p.ctx = o.ctx ∧ p.started = true ∧ p.word = o.word

theorem Tile.ctx_takeToken (x : Tile) (w : Nat) (c : Ctxt) : (x.takeToken w).ctx c = x.ctx c := by
  unfold Tile.takeToken; split <;> cases c <;> rfl

theorem Tile.token_takeToken (x : Tile) (w k : Nat) :
    (x.takeToken w).token k = if waitTok w = some k then x.token k - 1 else x.token k := by
  unfold Tile.takeToken
  split
  · rename_i j hj
    rw [Tile.token_setToken, hj]
    by_cases h : k = j
    · subst h; rw [if_pos rfl, if_pos rfl]
    · rw [if_neg h, if_neg (fun e => h (by cases e; rfl))]
  · rename_i hj; rw [hj, if_neg (by simp)]

/-- What takeToken leaves of a tile. -/
theorem Tile.takeToken_keeps (x : Tile) (w : Nat) : { x.takeToken w with tokens := x.tokens } = x := by
  unfold Tile.takeToken Tile.setToken; split <;> rfl

theorem Tile.startedFrom (x : Tile) (c : Ctxt) (o : UOp) (credit : Nat) (before : List (Nat × Nat)) (ho : o.seq = x.seq) :
    Tile.StartedFrom
      ((({ { x with ops := x.ops ++ [o], seq := x.seq + 1 }.setCtx c (x.ctx c).advance with credit := credit, want := 0 } :
        Tile).takeToken o.word.toNat).setOp
        { o with started := true, consumed := (waitTok o.word.toNat).isSome, before := before }) x c o := by
  generalize hz : ({ { x with ops := x.ops ++ [o], seq := x.seq + 1 }.setCtx c (x.ctx c).advance with
    credit := credit, want := 0 } : Tile) = z
  have k := Tile.takeToken_keeps z o.word.toNat
  have kz : (z.takeToken o.word.toNat).store = z.store ∧ (z.takeToken o.word.toNat).fill = z.fill
      ∧ (z.takeToken o.word.toNat).codebook = z.codebook ∧ (z.takeToken o.word.toNat).bank = z.bank
      ∧ (z.takeToken o.word.toNat).seq = z.seq ∧ (z.takeToken o.word.toNat).ops = z.ops := by
    refine ⟨?_, ?_, ?_, ?_, ?_, ?_⟩ <;> (conv_rhs => rw [← k])
  have zs : z.store = x.store ∧ z.fill = x.fill ∧ z.codebook = x.codebook ∧ z.bank = x.bank ∧ z.seq = x.seq + 1
      ∧ z.ops = x.ops ++ [o] ∧ z.tokens = x.tokens := by
    subst hz; cases c <;> exact ⟨rfl, rfl, rfl, rfl, rfl, rfl, rfl⟩
  refine ⟨?_, ?_, ?_, ?_, ?_, ?_, ?_, ?_, ?_⟩
  · show (z.takeToken o.word.toNat).ctx c = _
    rw [Tile.ctx_takeToken]; subst hz; cases c <;> rfl
  · intro d hd
    show (z.takeToken o.word.toNat).ctx d = _
    rw [Tile.ctx_takeToken]; subst hz; cases c <;> cases d <;> first | rfl | exact absurd rfl hd
  · exact kz.1.trans zs.1
  · exact kz.2.1.trans zs.2.1
  · intro j
    show (z.takeToken o.word.toNat).token j = _
    rw [Tile.token_takeToken]
    have : z.token j = x.token j := by unfold Tile.token; rw [zs.2.2.2.2.2.2]
    rw [this]
  · exact kz.2.2.1.trans zs.2.2.1
  · exact kz.2.2.2.1.trans zs.2.2.2.1
  · exact kz.2.2.2.2.1.trans zs.2.2.2.2.1
  · refine ⟨_, List.mem_map.2 ⟨o, ?_, if_pos rfl⟩, ho, rfl, rfl, rfl⟩
    rw [kz.2.2.2.2.2, zs.2.2.2.2.2.1]
    exact List.mem_append_right _ (List.mem_singleton.2 rfl)

/-- Issue into a unit's queue, the advance, the charge and the start change nothing but the tile, as `StartedFrom` says. -/
theorem State.started_at (s : State) (t k : Nat) (c : Ctxt) (o : UOp) (hc : o.ctx = c) :
    let q : UOp := { o with seq := (s.tile t).seq }
    let T := (((s.enqueue t o).advance t c).pay t k).markStarted t q
    { T with tiles := s.tiles } = s ∧ (∀ u, u ≠ t → T.tile u = s.tile u) ∧ (T.tile t).StartedFrom (s.tile t) c q := by
  intro q T
  refine ⟨rfl, fun u hu => ?_, ?_⟩
  · show (State.markStarted _ t q).tile u = _
    unfold State.markStarted State.pay State.advance State.setCtx State.enqueue
    simp only [State.tile_setTile, if_neg hu]
  · have h1 : (s.enqueue t o).tile t = { s.tile t with ops := (s.tile t).ops ++ [q], seq := (s.tile t).seq + 1 } := by
      unfold State.enqueue; rw [State.tile_setTile, if_pos rfl]
    have h2 : ((s.enqueue t o).advance t c).tile t
        = { s.tile t with ops := (s.tile t).ops ++ [q], seq := (s.tile t).seq + 1 }.setCtx c ((s.tile t).ctx c).advance := by
      unfold State.advance State.setCtx State.ctx
      rw [State.tile_setTile, if_pos rfl, h1]; cases c <;> rfl
    have h3 : ∃ n, (((s.enqueue t o).advance t c).pay t k).tile t
        = { { s.tile t with ops := (s.tile t).ops ++ [q], seq := (s.tile t).seq + 1 }.setCtx c ((s.tile t).ctx c).advance with
            credit := n, want := 0 } := by
      unfold State.pay
      rw [State.tile_setTile, if_pos rfl, h2]
      exact ⟨_, rfl⟩
    obtain ⟨n, h3⟩ := h3
    have e : T.tile t = ((((((s.enqueue t o).advance t c).pay t k).tile t).takeToken q.word.toNat).setOp
        { q with started := true, consumed := (waitTok q.word.toNat).isSome,
                 before := (uWrites q.word.toNat).map fun r =>
                   (r, ((((((s.enqueue t o).advance t c).pay t k).tile t).takeToken q.word.toNat).ctx q.ctx).rdName r) }) := by
      show (State.markStarted _ t q).tile t = _
      unfold State.markStarted
      rw [State.tile_setTile, if_pos rfl]
    rw [h3] at e
    rw [e]
    exact Tile.startedFrom _ _ _ _ _ rfl

theorem State.tile_enqueue_advance (s : State) (t : Nat) (c : Ctxt) (o : UOp) :
    ((s.enqueue t o).advance t c).tile t
      = { s.tile t with ops := (s.tile t).ops ++ [{ o with seq := (s.tile t).seq }], seq := (s.tile t).seq + 1 }.setCtx c
          ((s.tile t).ctx c).advance := by
  have h1 : (s.enqueue t o).tile t
      = { s.tile t with ops := (s.tile t).ops ++ [{ o with seq := (s.tile t).seq }], seq := (s.tile t).seq + 1 } := by
    unfold State.enqueue; rw [State.tile_setTile, if_pos rfl]
  unfold State.advance State.setCtx State.ctx
  rw [State.tile_setTile, if_pos rfl, h1]; cases c <;> rfl

theorem State.covered_enqueue_advance (s : State) (t k : Nat) (c : Ctxt) (o : UOp) :
    ((s.enqueue t o).advance t c).covered t k = s.covered t k := by
  show decide (s.chargeOf t k ≤ (((s.enqueue t o).advance t c).tile t).credit) = _
  rw [State.tile_enqueue_advance]
  cases c <;> rfl

/-- An instruction that may start once it stands in its unit may start at its issue. -/
theorem Tile.startable_issued (x : Tile) (c : Ctxt) (o : UOp) (w : Nat) (ho : o.seq = x.seq) (hs : o.started = false)
    (hc : o.ctx = c) (hn : o.unit ≠ .narrow) (hw : o.word.toNat = w) (ht : x.tokenReady w = true)
    (hb : x.blocked c x.seq (uReads w) (uWrites w) = false) (hq : ∀ p ∈ x.ops, p.unit = o.unit → p.started = true) :
    ({ x with ops := x.ops ++ [o], seq := x.seq + 1 }.setCtx c (x.ctx c).advance).startable o = true := by
  have e : ∀ y : Ctx, ({ x with ops := x.ops ++ [o], seq := x.seq + 1 }.setCtx c y).ops = x.ops ++ [o] := by
    intro y; cases c <;> rfl
  have et : ∀ y : Ctx, ({ x with ops := x.ops ++ [o], seq := x.seq + 1 }.setCtx c y).tokenReady w = x.tokenReady w := by
    intro y; cases c <;> rfl
  unfold Tile.startable
  rw [hs, hw, et, ht, hc, ho]
  have hf : ({ x with ops := x.ops ++ [o], seq := x.seq + 1 }.setCtx c (x.ctx c).advance).first o = true := by
    unfold Tile.first
    rw [e, List.all_append, Bool.and_eq_true]
    refine ⟨List.all_eq_true.2 fun p hp => ?_, by simp⟩
    by_cases hu : p.unit = o.unit
    · simp [hq p hp hu]
    · simp [hu]
  have hbb : ({ x with ops := x.ops ++ [o], seq := x.seq + 1 }.setCtx c (x.ctx c).advance).blocked c x.seq (uReads w) (uWrites w)
      = false := by
    unfold Tile.blocked at hb ⊢
    rw [e, List.any_append, hb]
    simp [ho]
  have hcl : ({ x with ops := x.ops ++ [o], seq := x.seq + 1 }.setCtx c (x.ctx c).advance).narrowClear o = true := by
    unfold Tile.narrowClear
    simp [hn]
  rw [hf, hbb, hcl]; rfl

/-- A V instruction that starts at its issue has its whole effect on the started state. -/
theorem issueV_starts {s : State} {h : Head} {op : Nat} {f : VF} {check : State → Option FaultAt} {sram : Sram}
    (hs : s.startsAtIssue h .vector (encV op h f)) (ho : op < 64) (hc : check s = none)
    (hv : ¬ (wOp (encV op h f) = 0x10 ∧ sram = .uncorrectable)) :
    ∃ (T : State) (o : UOp), issueV op h f check sram s = .next (T.runV h.tile o sram)
      ∧ o.word = BitVec.ofNat 64 (encV op h f) ∧ o.ctx = h.ctx
      ∧ o.mask = laneMask ((s.ctx h.tile h.ctx).rdP h.pred.toNat) h.pneg
      ∧ o.va = (s.ctx h.tile h.ctx).rdS f.sa.toNat ∧ o.vb = (s.ctx h.tile h.ctx).rdS (f.sa.toNat + 1)
      ∧ { T with tiles := s.tiles } = s ∧ (∀ u, u ≠ h.tile → T.tile u = s.tile u)
      ∧ (T.tile h.tile).StartedFrom (s.tile h.tile) h.ctx o := by
  obtain ⟨hg, hcov, htok, hbl, hq⟩ := hs
  have hw : (BitVec.ofNat 64 (encV op h f)).toNat = encV op h f := by
    rw [BitVec.toNat_ofNat, Nat.mod_eq_of_lt (encV_lt op h f ho)]
  generalize hw' : encV op h f = w at *
  have haff : s.affordable h.tile (costKey w) = true := by
    unfold State.covered at hcov; unfold State.affordable
    simp only [decide_eq_true_eq] at hcov ⊢; omega
  let o : UOp := capture s h .vector w f.sa.toNat (f.sa.toNat + 1) 0
  obtain ⟨k1, k2, k3⟩ := State.started_at s h.tile (costKey w) h.ctx o rfl
  refine ⟨_, { o with seq := (s.tile h.tile).seq }, ?_, rfl, rfl, rfl, rfl, rfl, k1, k2, k3⟩
  unfold issueV
  simp only [hw']
  rw [issue_goes hg]
  simp only [hc, haff, if_true, State.perform_hold]
  unfold State.startV
  have hst : (((s.enqueue h.tile o).advance h.tile h.ctx).tile h.tile).startable { o with seq := (s.tile h.tile).seq } = true := by
    rw [State.tile_enqueue_advance]
    exact Tile.startable_issued _ _ _ w rfl rfl rfl (show TUnit.vector ≠ TUnit.narrow by decide) hw htok hbl hq
  have hwo : ({ o with seq := (s.tile h.tile).seq } : UOp).word.toNat = w := hw
  rw [hst, hwo]
  rw [State.covered_enqueue_advance, hcov]
  simp only [Bool.not_true, Bool.false_eq_true, if_false]
  rw [if_neg (by simpa using fun a b => hv ⟨a, b⟩)]

/-- What a started tile says of everything but the context of the instruction, once that context has been given its result. -/
theorem State.unitElsewhere_of {T s : State} {h : Head} {w : Nat} {o : UOp} (y : Ctx) (hw : o.word = BitVec.ofNat 64 w)
    (hw' : o.word.toNat = w) (hc : o.ctx = h.ctx) (k1 : { T with tiles := s.tiles } = s)
    (k2 : ∀ u, u ≠ h.tile → T.tile u = s.tile u) (k3 : (T.tile h.tile).StartedFrom (s.tile h.tile) h.ctx o) :
    (T.setCtx h.tile h.ctx y).unitElsewhere s h w := by
  have e : (T.setCtx h.tile h.ctx y).tile h.tile = (T.tile h.tile).setCtx h.ctx y := by
    unfold State.setCtx; rw [State.tile_setTile, if_pos rfl]
  have f : ∀ (z : Tile) (v : Ctx), (z.setCtx h.ctx v).store = z.store ∧ (z.setCtx h.ctx v).fill = z.fill
      ∧ (z.setCtx h.ctx v).tokens = z.tokens ∧ (z.setCtx h.ctx v).codebook = z.codebook ∧ (z.setCtx h.ctx v).bank = z.bank
      ∧ (z.setCtx h.ctx v).seq = z.seq ∧ (z.setCtx h.ctx v).ops = z.ops := by
    intro z v; cases h.ctx <;> exact ⟨rfl, rfl, rfl, rfl, rfl, rfl, rfl⟩
  obtain ⟨f1, f2, f3, f4, f5, f6, f7⟩ := f (T.tile h.tile) y
  unfold State.unitElsewhere
  simp only [e]
  refine ⟨k1, fun u hu => ?_, fun c hc' => ?_, fun b => ?_, fun k => ?_, fun b i => ?_, ?_, ?_, ?_⟩
  · unfold State.setCtx; rw [State.tile_setTile, if_neg hu]; exact k2 u hu
  · rw [State.ctx_setCtx_other _ _ (Or.inr hc')]; exact k3.other c hc'
  · unfold Tile.rdByte; rw [f1, f2, k3.store, k3.fill]
  · have := k3.token k
    unfold Tile.token at this ⊢; rw [f3, this, hw']
  · unfold Tile.entry; rw [f4, k3.codebook]
  · rw [f5, k3.bank]
  · rw [f6, k3.seq]
  · obtain ⟨p, hp, h1, h2, h3, h4⟩ := k3.inOps
    exact ⟨p, by rw [f7]; exact hp, h1, h2.trans hc, h3, h4.trans hw⟩

/-- An instruction whose effect on the started context is to write elements of register `d`. -/
theorem State.writesV_close {T s : State} {h : Head} {w ty d : Nat} {v : Nat → Nat} {vs : List Nat} {o : UOp}
    (hw : o.word = BitVec.ofNat 64 w) (hw' : o.word.toNat = w) (hc : o.ctx = h.ctx) (k1 : { T with tiles := s.tiles } = s)
    (k2 : ∀ u, u ≠ h.tile → T.tile u = s.tile u) (k3 : (T.tile h.tile).StartedFrom (s.tile h.tile) h.ctx o)
    (hl : vs.length = elemsOf ty) (hv : ∀ k, k < elemsOf ty → vs.getD k 0 = v k) :
    let t := T.setCtx h.tile h.ctx ((s.ctx h.tile h.ctx).advance.wrElems ty d
      (laneMask ((s.ctx h.tile h.ctx).rdP h.pred.toNat) h.pneg) vs)
    t.onlyV s h ty d v ∧ t.keepsS s h ∧ (∀ j, (t.ctx h.tile h.ctx).rdP j = (s.ctx h.tile h.ctx).rdP j) ∧ t.wentOn s h
      ∧ t.unitElsewhere s h w := by
  intro t
  have hx : t.ctx h.tile h.ctx = (s.ctx h.tile h.ctx).advance.wrElems ty d
      (laneMask ((s.ctx h.tile h.ctx).rdP h.pred.toNat) h.pneg) vs := State.ctx_setCtx ..
  refine ⟨⟨fun k hk => ?_, fun r k hr hk => ?_⟩, fun j => ?_, fun j => ?_, ?_, State.unitElsewhere_of _ hw hw' hc k1 k2 k3⟩
  · rw [hx, Ctx.rdElem_wrElems _ _ _ _ _ hl k hk, hv k hk]; rfl
  · rw [hx, Ctx.rdLane_wrElems _ _ _ _ _ hl r k hr hk, Ctx.rdLane_advance]
  · rw [hx, Ctx.rdS_wrElems, Ctx.rdS_advance]
  · rw [hx, Ctx.rdP_wrElems, Ctx.rdP_advance]
  · unfold State.wentOn
    rw [hx, (Ctx.flow_wrElems ..).1, (Ctx.flow_wrElems ..).2]; rfl

/-- A V instruction whose effect is to write elements of a register. -/
theorem State.writesV_of {s : State} {h : Head} {op : Nat} {f : VF} {check : State → Option FaultAt} {i : Instr} {ty d : Nat}
    {v : Nat → Nat} {vs : List Nat} (he : exec i s = issueV op h f check .good s) (ho : op < 64)
    (hc : check s = none)
    (hr : ∀ (T : State) (o : UOp), o.word.toNat = encV op h f → o.ctx = h.ctx →
      o.mask = laneMask ((s.ctx h.tile h.ctx).rdP h.pred.toNat) h.pneg → o.va = (s.ctx h.tile h.ctx).rdS f.sa.toNat →
      o.vb = (s.ctx h.tile h.ctx).rdS (f.sa.toNat + 1) →
      T.ctx h.tile h.ctx = (s.ctx h.tile h.ctx).advance → T.regs = s.regs →
      (T.tile h.tile).store = (s.tile h.tile).store → (T.tile h.tile).fill = (s.tile h.tile).fill →
      T.runV h.tile o .good = T.setCtx h.tile h.ctx ((s.ctx h.tile h.ctx).advance.wrElems ty d
        (laneMask ((s.ctx h.tile h.ctx).rdP h.pred.toNat) h.pneg) vs))
    (hl : vs.length = elemsOf ty) (hv : ∀ k, k < elemsOf ty → vs.getD k 0 = v k) :
    s.writesV h .vector (encV op h f) i ty d v := by
  intro hs
  obtain ⟨T, o, h1, h2, h3, h4, h5, h6, k1, k2, k3⟩ := issueV_starts (sram := .good) hs ho hc (fun a => Sram.noConfusion a.2)
  have hw : o.word.toNat = encV op h f := by rw [h2, BitVec.toNat_ofNat, Nat.mod_eq_of_lt (encV_lt op h f ho)]
  have hx : T.ctx h.tile h.ctx = (s.ctx h.tile h.ctx).advance := k3.here
  have hreg : T.regs = s.regs := by have := congrArg State.regs k1; exact this
  rw [hr T o hw h3 h4 h5 h6 hx hreg k3.store k3.fill] at h1
  exact ⟨_, he.trans h1, State.writesV_close h2 hw h3 k1 k2 k3 hl hv⟩

/-- The fields of a V word read back from it (Table 3-3). -/
theorem encV_fields (op : Nat) (h : Head) (f : VF) (ho : op < 64) :
    bits (encV op h f) 59 54 = op ∧ bits (encV op h f) 39 35 = f.vd.toNat
    ∧ bits (encV op h f) 34 30 = f.va.toNat ∧ bits (encV op h f) 29 25 = f.vb.toNat ∧ bits (encV op h f) 24 20 = f.vc.toNat
    ∧ bits (encV op h f) 19 15 = f.ty.toNat ∧ bits (encV op h f) 14 9 = f.sa.toNat ∧ bits (encV op h f) 8 0 = f.imm9.toNat := by
  have hp := h.pred.isLt
  have hn := b2n_le h.pneg
  have h1 := f.tw.isLt; have h2 := f.ts.isLt; have h3 := f.vd.isLt; have h4 := f.va.isLt; have h5 := f.vb.isLt
  have h6 := f.vc.isLt; have h7 := f.ty.isLt; have h8 := f.sa.isLt; have h9 := f.imm9.isLt
  unfold encV encHead bits
  refine ⟨?_, ?_, ?_, ?_, ?_, ?_, ?_, ?_⟩ <;> omega

end Sys2Proof.Machine
end

