-- ==== Sys2Proof/Tests/Slice0.lean ====
section
/-! SUPPORT. Small tests of the model, expected results from the manual, and the witnesses: states and operands that meet the
hypotheses of the statements together. -/

namespace Sys2Proof.Tests

set_option Elab.async false

open Sys2Proof Sys2Proof.Machine

/-! ## Helpers -/

/-- The module after reset with its events recorded, and one segment over HBM from address 0 with every permission. -/
def base : State := { State.reset.setReg .SEGDESC 0 (1 + 7 * 2 ^ 7 + 2 ^ 20 * 2 ^ 48) with events := [] }

/-- A context that issues. -/
def ctx0 : Ctx := { Ctx.reset with run := .running }

/-- A tile whose context F issues, with credit. -/
def tile0 : Tile := { Tile.reset with credit := 2 ^ 30, ctxF := ctx0 }

/-- `base` with tile 0 changed. -/
def onTile (f : Tile → Tile) : State := base.setTile 0 (f tile0)

/-- `base` with context F of tile 0 changed. -/
def onCtx (f : Ctx → Ctx) : State := onTile fun t => { t with ctxF := f t.ctxF }

/-- Context F of tile 0, guard p0. -/
def h0 : Head := ⟨0, .F, 0, false, []⟩

/-- The state a command answers; `base` if it stops. -/
def after (i : Instr) (s : State) : State :=
  match exec i s with
  | .next t => t
  | .fault _ => base
  | .refused _ => base

/-- Vector fields with these registers, all others 0. -/
def vf (ty : BitVec 5) (d a b : BitVec 5) : VF := ⟨0, 0, d, a, b, 0, ty, 0, 0⟩

/-- `State.runs` as a Bool. -/
def runsB (s : State) (h : Head) (w : Nat) (u : Uses) : Bool := s.goes h w u false && s.covered h.tile 16

theorem runsB_iff (s : State) (h : Head) (w : Nat) (u : Uses) : runsB s h w u = true ↔ s.runs h w u := by
  simp [runsB, State.runs]

/-- `State.startsAtIssue` as a Bool. -/
def startsB (s : State) (h : Head) (u : TUnit) (w : Nat) : Bool :=
  s.goes h w (usesUnit w) true && s.covered h.tile (costKey w) && (s.tile h.tile).tokenReady w
  && !(s.tile h.tile).blocked h.ctx (s.tile h.tile).seq (uReads w) (uWrites w)
  && (s.tile h.tile).ops.all fun o => decide (o.unit = u → o.started = true)

theorem startsB_iff (s : State) (h : Head) (u : TUnit) (w : Nat) : startsB s h u w = true ↔ s.startsAtIssue h u w := by
  simp only [startsB, State.startsAtIssue, Bool.and_eq_true, Bool.not_eq_true', List.all_eq_true, decide_eq_true_eq, and_assoc]

/-! ## Well-formed commands -/

/-- Each kind of number a command carries has its bound, and each byte string its length. -/
theorem test_wellFormed_refuses :
    ([.nop 1152 .F 0, .contextEnded 1152 .L, .copyStart 128 0 .good, .copyStart 0 16 .good, .edgeSwitchPlacement 4 [],
      .nakReplay 0 12, .portReset 48, .verifyTimeout 0 16, .ringFailed 0 36, .laserHigh 0 4, .bundleUp 0 6,
      .patrolScrub 192 0 0 [], .patrolScrub 0 0 8 [], .govRefill 8, .sensorSample 28 [], .linkLaneFail 172 true,
      .linkDegraded 160 false, .ucieBringup 16 0, .shadowCompare 256, .sqDoorbell 64 0, .sccountWrite true 65536 0,
      .collOpen ⟨4096, []⟩, .linkBlockReceived 0 0 (List.replicate 391 0), .trainingFrame 0 0 (List.replicate 143 0),
      .blowOkeyhash (List.replicate 1311 0), .commandStart (.entry (List.replicate 127 0)),
      .writtenValueTakesEffect .chctl 2048 ⟨0, true, [], true, [], [], []⟩ [],
      .writtenValueTakesEffect .dieref 8 ⟨0, true, [], true, [], [], []⟩ [],
      .writtenValueTakesEffect .hdctl 1 ⟨0, true, [], true, [], [], []⟩ []] : List Instr).all (fun i => !i.wellFormed) = true := by
  decide +kernel

/-- The greatest number of each is one the module has. -/
theorem test_wellFormed_accepts :
    ([.nop 1151 .F 0, .copyStart 127 15 .good, .edgeSwitchPlacement 3 [], .nakReplay 3 11, .portReset 47, .verifyTimeout 47 15,
      .ringFailed 47 35, .laserHigh 3 3, .bundleUp 3 5, .patrolScrub 191 0 7 [], .govRefill 7, .sensorSample 27 [], .linkLaneFail 171 true,
      .linkDegraded 159 false, .ucieBringup 15 0, .shadowCompare 255, .sqDoorbell 63 0, .sccountWrite true 65535 0, .collOpen ⟨4095, []⟩,
      .linkBlockReceived 0 0 (List.replicate 392 0), .trainingFrame 0 0 (List.replicate 144 0),
      .writtenValueTakesEffect .chctl 2047 ⟨0, true, [], true, [], [], []⟩ []] : List Instr).all Instr.wellFormed = true := by
  decide +kernel

/-- The table gives no row bits: no word spells a command. -/
theorem test_decodeTableWord (nbits w : Nat) : decodeTableWord nbits w = none := rfl

/-- A command at the front of the queue runs on the rest; an empty queue idles. -/
theorem test_step_takes_the_front :
    (match step { base with pending := [.pwrEn true, .hearthReset] } with
      | .next t => decide (t.pending = [.hearthReset])
      | _ => false) = true := by
  decide +kernel

/-! ## Words and numbers of the manual's examples -/

/-- Table 3-11: the four words of the example. -/
theorem test_words_of_table_3_11 :
    encArrive h0 ⟨1, 4, false, 0, 0, true, 1, 0x2A10⟩ = 0x6041400040012A10
    ∧ wordCI 0x1C h0 5 5 0xFFFFFFF8 = 0x17005140FFFFFFF8
    ∧ encWait h0 ⟨4, false, false, 0, 100, 0x2A10⟩ = 0x6082000000642A10
    ∧ encC 2 ⟨0, .F, 4, true, []⟩ 0 0 0 0xFFFFFFFD = 0x10A40000FFFFFFFD := by decide +kernel

/-- The example words of vfma (chapter 6), plansw (chapter 10) and atom (chapter 13). -/
theorem test_words_of_examples :
    encV 3 ⟨0, .F, 2, false, []⟩ ⟨0, 0x15, 4, 1, 2, 3, 2, 0, 0⟩ = 0x30D0152044310000
    ∧ encX 4 h0 ⟨7, 3, 0, 0x250150⟩ = 0x710070C000250150
    ∧ encD 3 h0 ⟨0, 0x12, 6, 8, 0, 0, 0, 32, 0x18⟩ = 0x50C0121880004018 := by decide +kernel

/-- The example words are legal, and a word of class 0 is not (R57). -/
theorem test_legal_words :
    ([0x6041400040012A10, 0x17005140FFFFFFF8, 0x6082000000642A10, 0x10A40000FFFFFFFD, 0x30D0152044310000, 0x710070C000250150,
      0x50C0121880004018] : List Nat).all legal = true ∧ legal 0 = false := by decide +kernel

/-- Table 4-4: conversions under RNE. -/
theorem test_table_4_4 :
    elemEnc false 5 .rne (fp32.decode 0x3FA00000) = 0x3A ∧ elemEnc false 5 .rne (fp32.decode 0x43960000) = 0x79
    ∧ elemEnc false 5 .rne (fp32.decode 0x43FA0000) = 0x7F ∧ elemEnc true 5 .rne (fp32.decode 0x43FA0000) = 0x7E
    ∧ elemEnc false 6 .rne (fp32.decode 0x43FA0000) = 0x60 ∧ elemEnc false 3 .rne (fp32.decode 0x3F808000) = 0x3F80
    ∧ elemEnc false 4 .rne (fp32.decode 0x33800000) = 0x0001 ∧ elemEnc false 5 .rne (fp32.decode 0xFF800000) = 0x7F
    ∧ elemEnc false 2 .rne (fp64.decode 0x7FF0000000000001) = 0x7FC00000 := by decide +kernel

/-- The KX example of chapter 4: 2^24, 1 and −2^24 leave 1 in any order, with anchor −38 and these bytes. -/
theorem test_kx_example :
    (let k := (Kx.ofBits 0).addAll [.fin false 1 24, .fin false 1 0, .fin true 1 24]
     let k' := (Kx.ofBits 0).addAll [.fin true 1 24, .fin false 1 24, .fin false 1 0]
     decide (k = k') && decide (k.anchor = -38) && decide ((leBytes 32 k.toBits).map BitVec.toNat
       = [0, 0, 0, 0, 0x40] ++ List.replicate 13 0 ++ [0xDA, 0x1F] ++ List.replicate 12 0)
     && decide (elemEnc false 2 .rne k.value = 0x3F800000)) = true := by decide +kernel

/-- Table 7-4: two steps of block top-k with J = 1. -/
theorem test_table_7_4 :
    (let blk := fun (e : Int) (ns : List Int) => SxBlock.mk e 0 false false (List.replicate 32 0) (ns ++ List.replicate 29 0)
     let one := topK true 1 (blk 0 [40, -40, 7]) 0 (List.replicate 32 0)
     let two := topK true 1 (blk 1 [2, 10, 0]) 0 ((one.crumb.getD []))
     decide (one.mask = 1) && decide ((one.crumb.getD []).take 3 = [0, -40, 7])
     && decide (two.mask = 2) && decide ((two.crumb.getD []).take 3 = [2, 0, 4])) = true := by decide +kernel

/-- The address of the interleave example (chapter 8): channel 104, local granule 99,420, byte 0x80; the next granule is in 120. -/
theorem test_interleave_example :
    base.place 0x123456780 = (104, 99420, 0x80) ∧ (base.place 0x123456800).1 = 120 := by decide +kernel

/-- The flit of chapter 9: header and tail bytes. -/
theorem test_flit_example :
    (let f : Flit := { Flit.empty with sep := clusterEp 37, dep := homeEp 2, sdev := 5, ddev := 17, kind := kREAD, cls := 0, epoch := 1,
                                       hops := 0, data := List.replicate 8 0, tag := 0x3C, seq := 0xA7 }
     decide (f.sep = 0x61) && decide (f.dep = 0x2A5)
     && decide ((f.bytes.take 10).map BitVec.toNat = [0x00, 0x09, 0x11, 0x05, 0xA5, 0x86, 0x01, 0x08, 0x00, 0x00])
     && decide ((f.bytes.drop 42).map BitVec.toNat = [0xA7, 0, 0, 0, 0, 0x3C])) = true := by decide +kernel

/-- The completion record of chapter 18's example, but for PHASE. -/
theorem test_completion_record_example :
    (let c : HostCmd := { id := 0, queue := 3, index := 17, entry := 1, pos := 0, status := 0, info := 0, started := 144, left := 0, nfault := 2,
                          report := some (12, false, ⟨0, 0x100040, 1, 0, false, false⟩) }
     decide ((c.record stFAULT).map BitVec.toNat = [0x11, 0, 3, 1, 1, 0, 0x0C, 0] ++ List.replicate 8 0
       ++ [0x40, 0, 0x10, 0, 0, 0, 2, 0, 0x90, 0, 0, 0, 0, 0, 0, 0])) = true := by decide +kernel

/-- The event record of chapter 17's example: bytes 0 to 27. -/
theorem test_event_record_example :
    (let s : State := { base with hd := { base.hd with usec := 4371290, boots := 7 } }
     decide (((leBytes 32 (s.recordOf ⟨.laneRetired, 30, 5 :: List.replicate 13 0, false⟩)).take 28).map BitVec.toNat
       = [0x5A, 0xB3, 0x42, 0, 0, 0, 5, 1, 1, 0, 7, 0, 0x1E, 0, 5] ++ List.replicate 13 0)) = true := by decide +kernel

/-! ## Single steps -/

/-- Table 3-11's arrival: one arrival of increment 1 and epoch 4 at counter 0x2A10 is on its way (R42). -/
theorem test_arrive : ((after (.arrive h0 ⟨1, 4, false, 0, 0, true, 1, 0x2A10⟩) (onCtx id)).arrivals.map fun a => (a.cnum, a.inc, a.epoch))
    = [(0x2A10, 1, 4)] := by decide +kernel

/-- Table 3-11's addi: s5 − 8, and the context goes on 8 bytes further. -/
theorem test_addi : (let t := after (.addi h0 5 5 0xFFFFFFF8) (onCtx fun x => x.wrS 5 3)
    decide ((t.ctx 0 .F).rdS 5 = 0xFFFFFFFFFFFFFFFB) && decide ((t.ctx 0 .F).pc = 8)) = true := by decide +kernel

/-- Table 3-11's branch: taken when p4 is false, 24 bytes back. -/
theorem test_br_taken : ((after (.br ⟨0, .F, 4, true, []⟩ 0xFFFFFFFD) (onCtx fun x => { x with pc := 0x100018 })).ctx 0 .F).pc = 0x100000 := by
  decide +kernel

/-- A branch whose guard is 0 goes on (R60). -/
theorem test_br_not_taken :
    ((after (.br ⟨0, .F, 4, false, []⟩ 0xFFFFFFFD) (onCtx fun x => { x with pc := 0x100018 })).ctx 0 .F).pc = 0x100020 := by decide +kernel

/-- A write to s0 is discarded (R63). -/
theorem test_s0 : ((after (.movi h0 0 7) (onCtx id)).ctx 0 .F).rdS 0 = 0 := by decide +kernel

/-- mulhu gives the upper half of the product, min is signed and minu is not (Table 3-4). -/
theorem test_mulhu_min : (let s := onCtx fun x => (x.wrS 1 (BitVec.allOnes 64)).wrS 2 3
    decide (((after (.mulhu h0 4 1 2) s).ctx 0 .F).rdS 4 = 2) && decide (((after (.min_ h0 4 1 2) s).ctx 0 .F).rdS 4 = BitVec.allOnes 64)
    && decide (((after (.minu h0 4 1 2) s).ctx 0 .F).rdS 4 = 3)) = true := by decide +kernel

/-- vadd in FP32 on the lanes of p2 only: 1.5 + 2.25 = 3.75 in lane 1, lane 0 unchanged. -/
theorem test_vadd_masked :
    (let s := onCtx fun x => ((((x.wrP 2 2).wrElem 2 1 0 0x3FC00000).wrElem 2 1 1 0x3FC00000).wrElem 2 2 0 0x40100000).wrElem 2 2 1 0x40100000
     let t := after (.vadd ⟨0, .F, 2, false, []⟩ (vf 2 3 1 2)) s
     decide ((t.ctx 0 .F).rdElem 2 3 0 = 0) && decide ((t.ctx 0 .F).rdElem 2 3 1 = 0x40700000)) = true := by decide +kernel

/-- A trap without a handler ends the program with SOFT_TRAP; with one, issue goes on there and INH is set (R84, R85). -/
theorem test_trap :
    (let t := after (.trap h0) (onCtx id)
     let u := after (.trap h0) (onCtx fun x => { x with fvec := 0x4000, fmask := 0xFFFF })
     decide ((t.ctx 0 .F).run = .stopping) && decide ((u.ctx 0 .F).pc = 0x4000) && (u.ctx 0 .F).inh
     && decide ((u.ctx 0 .F).fcause = BitVec.ofNat 16 cSOFT_TRAP)) = true := by decide +kernel

/-! ## Witnesses: the hypotheses of each statement hold together on these states and operands -/

/-- `ResetCanonical`, `StepKeepsCanonical`: a canonical state whose step answers a next state. -/
theorem witness_StepKeepsCanonical :
    (let s : State := { base with pending := [.pwrEn true] }
     s.inv && safe (step s)) = true := by decide +kernel

/-- `StepRunsFront`: an empty queue. -/
theorem witness_StepRunsFront : State.reset.pending = [] := by decide +kernel

/-- `WellFormedNeverStops`: a well-formed command. -/
theorem witness_WellFormedNeverStops : (Instr.portReset 47).wellFormed = true := by decide +kernel

/-- `ScalarOps`: every register-register, register-immediate and move word runs, the one that names s0 as its destination too. -/
theorem witness_ScalarOps :
    (([0, 63] : List (BitVec 6)).all fun d =>
       ([0x0E, 0x0F, 0x10, 0x11, 0x12, 0x13, 0x14, 0x15, 0x16, 0x17, 0x18, 0x19, 0x1A, 0x1B] : List Nat).all (fun op =>
         runsB (onCtx id) h0 (wordCR op h0 d 1 2) (usesR d 1 2))
       && ([0x1C, 0x1D, 0x1E, 0x1F, 0x20, 0x21, 0x22] : List Nat).all (fun op => runsB (onCtx id) h0 (wordCI op h0 d 1 63) (usesR d 1 0))
       && runsB (onCtx id) h0 (encC 8 h0 d.toNat 0 0 0xFFFFFFFF) ⟨[], [d.toNat]⟩
       && runsB (onCtx id) h0 (encC 9 h0 d.toNat 0 0 0xFFFFFFFF) ⟨[d.toNat], [d.toNat]⟩) = true := by decide +kernel

/-- `PredicateOps`: pset, pseti and plog run. -/
theorem witness_PredicateOps :
    (runsB (onCtx id) h0 (encC 0x23 h0 0 1 2 (7 * 2 ^ 29 + 5 * 2 ^ 26)) ⟨[1, 2], [103]⟩
     && runsB (onCtx id) h0 (encC 0x24 h0 40 1 0 (7 * 2 ^ 29 + 3)) ⟨[1], [103]⟩
     && runsB (onCtx id) h0 (encC 0x25 h0 7 1 2 3) ⟨[97, 98], [103]⟩) = true := by decide +kernel

/-- `BranchesAndJumps`: every form runs, with an aligned jump register and with one that is not. -/
theorem witness_BranchesAndJumps :
    (([0, 1] : List Word).all fun v =>
      let s := onCtx fun x => x.wrS 1 v
      runsB s h0 (encC 2 h0 0 0 0 0xFFFFFFFF) ⟨[], [0]⟩ && runsB s h0 (encC 3 h0 63 0 0 1) ⟨[], [63]⟩
      && runsB s h0 (encC 4 h0 0 1 0 0) ⟨[1], [0]⟩ && runsB s h0 (encC 5 h0 63 1 0 0) ⟨[1], [63]⟩
      && decide (((s.ctx 0 .F).rdS 1).toNat % 8 = v.toNat)) = true := by decide +kernel

/-- `HardwareLoops`: loop and loopi run with 0, 3 and 4 active loops, at counts 0, 2^32 − 1 and 2^32. -/
theorem witness_HardwareLoops :
    (([0, 0xFFFFFFFF, 0x100000000] : List Word).all fun v => ([0, 3, 4] : List Nat).all fun n =>
      let s := onCtx fun x => { x.wrS 1 v with loops := List.replicate n ⟨0, 8, 2⟩ }
      runsB s h0 (encC 6 h0 0 1 0 4095) ⟨[1], []⟩ && runsB s h0 (encC 7 h0 0 0 0 (2 ^ 32 - 1)) ⟨[], []⟩
      && decide ((s.ctx 0 .F).rdS 1 = v) && decide ((s.ctx 0 .F).loops.length = n)) = true := by decide +kernel

/-- The cases of a back-edge. -/
theorem witness_backEdge :
    backEdge 8 [⟨0, 16, 2⟩] = (16, [⟨0, 16, 2⟩]) ∧ backEdge 8 [⟨0, 8, 2⟩] = (0, [⟨0, 8, 1⟩]) ∧ backEdge 8 [⟨0, 8, 1⟩] = (16, []) := by
  decide +kernel

/-- `ControlRegisters`: nop, end, mfc, mtc, rdtime and fret run, with INH set and clear, and with an active loop. -/
theorem witness_ControlRegisters :
    (([true, false] : List Bool).all fun inh =>
      let s := onCtx fun x => { x with inh := inh, loops := [⟨0, 8, 5⟩] }
      let w := 0x1000000000000000
      runsB s h0 w ⟨[], []⟩ && decide (wCls w = 1 ∧ wOp w = 0 ∧ h0.pred = BitVec.ofNat 3 (bits w 53 51) ∧ h0.pneg = bit w 50)
      && runsB s h0 (encC 1 h0 0 0 0 0) ⟨[], []⟩ && runsB s h0 (encC 0x0A h0 63 0 0 10) ⟨[], [63]⟩
      && runsB s h0 (encC 0x0B h0 0 1 0 2) ⟨[1], []⟩ && runsB s h0 (encC 0x29 h0 63 0 0 0) ⟨[], [63]⟩
      && runsB s h0 (encC 0x0C h0 0 0 0 0) ⟨[], []⟩ && decide ((s.ctx 0 .F).inh = inh)) = true := by decide +kernel

/-- `ScalarMemory`: the last aligned bytes of tile-local space, a misaligned address, and the first byte outside. -/
theorem witness_ScalarMemory :
    (([(0x1BFFF8, 0), (1, 1), (0x1C0000, 2)] : List (Word × Nat)).all fun a =>
      let s := onCtx fun x => x.wrS 1 a.1
      let v := ((s.ctx 0 .F).rdS 1 + 0).toNat
      runsB s h0 (encC 0x26 h0 2 1 48 0) ⟨[1], [2]⟩ && runsB s h0 (encC 0x27 h0 2 1 48 0) ⟨[2, 1], []⟩
      && decide ((s.tile 0).fill = none) && (s.checkerOf 0).isNone
      && (if a.2 = 0 then decide (v % 8 = 0 ∧ v + 8 ≤ localEnd) else if a.2 = 1 then decide (v % 8 ≠ 0)
          else decide (v % 8 = 0 ∧ localEnd ≤ v))) = true := by decide +kernel

/-- `TakingAFault`: trap runs, and its fault is delivered, or not. -/
theorem witness_TakingAFault :
    (([(0, false), (0x4000, true)] : List (Addr48 × Bool)).all fun v =>
      let s := onCtx fun x => { x with fvec := v.1, fmask := 0xFFFF }
      runsB s h0 (encC 0x28 h0 0 0 0 0) ⟨[], []⟩
      && ((decide ((s.ctx 0 .F).fvec ≠ 0) && bit (s.ctx 0 .F).fmask.toNat (cSOFT_TRAP % 256) && !(s.ctx 0 .F).inh) == v.2)) = true := by
  decide +kernel

/-- `ContextEvents`: F waits and L can issue; L issues and F can; a stopped context is quiet. -/
theorem witness_ContextEvents :
    (let s := onTile fun t => { t with ctxF := { ctx0 with stall := .wait 3 0 false false }, ctxL := ctx0 }
     let x := s.tile 0
     decide (x.cur = .F) && decide (x.ctxF.run = .running) && decide (x.ctxF.stall = .wait 3 0 false false)
     && decide (x.ctxL.run = .running) && decide (x.ctxL.stall = .none)) = true
    ∧ (let s := onTile fun t => { t with cur := .L, ctxL := ctx0 }
       let x := s.tile 0
       decide (x.cur = .L) && decide (x.ctxF.run = .running) && decide (x.ctxF.stall = .none) && s.affordable 0 0) = true
    ∧ (let s := onCtx fun x => { x with run := .stopping }
       let x := s.ctx 0 .F
       decide (x.run = .stopping) && s.quiet 0 .F && decide (x.held = none) && decide (x.launch = none)
       && decide (x.endFault = none)) = true := by decide +kernel

/-- `VectorArithmetic`: each operation starts at issue, in FP64, FP32 and INT32, under p0 and under a predicate; the clauses about
numbers hold at the ends of their range. -/
theorem witness_VectorArithmetic :
    (([1, 2, 15] : List (BitVec 5)).all fun ty => ([0, 1, 2, 3, 4, 5, 6, 7] : List Nat).all fun op =>
      let f := { vf ty 31 1 2 with vc := if op = 3 then 3 else 0 }
      let g := if op = 6 ∨ op = 7 then { f with vb := 0 } else f
      startsB (onCtx id) h0 .vector (encV op h0 g) && startsB (onCtx id) ⟨0, .F, 2, true, []⟩ .vector (encV op ⟨0, .F, 2, true, []⟩ g)) = true
    ∧ (fp32.decode 0x7F800001).isNan = true := by decide +kernel

/-- `VectorMoves`: each operation starts at issue. -/
theorem witness_VectorMoves :
    (([(0x0B, vf 15 3 1 2), (0x0C, vf 15 3 1 2), (0x0D, vf 15 3 1 2), (0x0E, vf 15 3 1 2), (0x0F, { vf 15 3 1 2 with imm9 := 1 }),
       (0x0A, { vf 2 3 1 2 with vc := 7 }), (0x12, { vf 2 3 0 0 with sa := 5 }), (0x18, { vf 15 3 0 0 with imm9 := 0x1FF }),
       (0x17, vf 1 3 1 2), (0x13, { vf 1 0 1 0 with sa := 63, imm9 := 31 }), (0x09, { vf 1 7 1 2 with imm9 := 5 })] : List (Nat × VF)).all
      fun e => startsB (onCtx id) h0 .vector (encV e.1 h0 e.2)) = true := by decide +kernel

/-- `VectorReductions`: each starts at issue in each type. -/
theorem witness_VectorReductions :
    (([1, 2, 15] : List (BitVec 5)).all fun ty => ([0x14, 0x15, 0x16] : List Nat).all fun op =>
      startsB (onCtx id) h0 .vector (encV op h0 (vf ty 3 1 0))) = true := by decide +kernel

/-- `VectorMemory`: the last aligned 256 bytes of tile-local space; a register above 2^21; a misaligned address; one that leaves the
space. -/
theorem witness_VectorMemory :
    (([(0x1BFF00, 0), (0x200000, 1), (2, 2), (0x1BFF04, 3)] : List (Word × Nat)).all fun a =>
      let s := onCtx fun x => x.wrS 5 a.1
      let f := { vf 2 3 0 0 with sa := 5 }
      let g := { vf 2 0 3 0 with sa := 5 }
      let va := vecAddr ((s.ctx 0 .F).rdS 5) 0
      startsB s h0 .vector (encV 0x10 h0 f) && startsB s h0 .vector (encV 0x11 h0 g) && decide ((s.tile 0).fill = none)
      && (s.checkerOf 0).isNone
      && (match a.2 with
          | 0 => decide (((s.ctx 0 .F).rdS 5).toNat < 2 ^ 21 ∧ 0 ≤ va ∧ va % 4 = 0 ∧ va + 256 ≤ (localEnd : Int))
          | 1 => decide (2 ^ 21 ≤ ((s.ctx 0 .F).rdS 5).toNat)
          | 2 => decide (va % 4 ≠ 0)
          | _ => decide (va % 4 = 0 ∧ 0 ≤ va ∧ va < (localEnd : Int) ∧ (localEnd : Int) < va + 256))) = true := by decide +kernel

/-- `VectorConversion`: conversions to FP64, FP32, INT32 and BF16 start at issue; under stochastic rounding SA = 63 is a form of
its own. -/
theorem witness_VectorConversion :
    (([(2, 15), (1, 2), (15, 2), (2, 1), (2, 3)] : List (BitVec 5 × BitVec 9)).all fun e =>
      startsB (onCtx id) h0 .vector (encV 8 h0 { vf e.1 4 2 0 with imm9 := e.2 })) = true
    ∧ (let s := (onCtx id).setReg .NUMCFG 0 ((onCtx id).reg .NUMCFG 0 + 8)
       (NumCfg.ofReg (s.reg .NUMCFG 0)).sr
       && s.goes h0 (encV 8 h0 { vf 2 4 2 0 with imm9 := 3, sa := 63 }) (usesUnit (encV 8 h0 { vf 2 4 2 0 with imm9 := 3, sa := 63 })) true) = true := by
  decide +kernel

/-- `SpecialFunctions`: each starts at issue, in both bases where it has two. -/
theorem witness_SpecialFunctions :
    (([(0, 0), (0, 1), (1, 0), (1, 1), (2, 0), (3, 0)] : List (Nat × BitVec 9)).all fun e =>
      startsB (onCtx id) h0 .sfu (encF e.1 h0 ⟨0, 0, 3, 1, 0, 2, 0, e.2⟩)) = true
    ∧ (fp32.decode 0xFFC00000).isNan = true := by decide +kernel

/-- `Codebook`: cbload, cbswap and cblook start at issue, and no instruction of the unit is before the swap. -/
theorem witness_Codebook :
    (startsB (onCtx id) h0 .sfu (encF 8 h0 ⟨0, 0, 0, 1, 0, 2, 0, 3⟩) && startsB (onCtx id) h0 .sfu (encF 9 h0 ⟨0, 0, 0, 0, 0, 0, 0, 0⟩)
     && startsB (onCtx id) h0 .sfu (encF 10 h0 ⟨0, 0, 3, 1, 0, 2, 0, 0xFF⟩)
     && decide (((onCtx id).tile 0).ops = []) && !((onCtx id).tile 0).overflows (encF 9 h0 ⟨0, 0, 0, 0, 0, 0, 0, 0⟩)
     && decide (((onCtx id).ctx 0 .F).held = none ∧ ((onCtx id).ctx 0 .F).arrives = [])) = true := by decide +kernel

/-- `MatrixArithmetic`: an element at the end of its range, a product that still fits, and arguments of an INT8 job in FAST mode. -/
theorem witness_MatrixArithmetic :
    (let k : Kx := ⟨2 ^ 143 - 2, 2047, true, false, false, false, false, false⟩
     decide (-(2 : Int) ^ 143 ≤ k.t ∧ k.t < 2 ^ 143 ∧ -2048 ≤ k.anchor ∧ k.anchor < 2048 ∧ 1 * 2 ^ 0 < 2 ^ 127 ∧ k.t.natAbs + 1 * 2 ^ 0 < 2 ^ 143)
     && (let x : MArgs := ⟨0, 2, 0, 13, 1, 0, 64, 0x180000, NumCfg.ofReg 1⟩
         decide (x.op = 0 ∧ x.fmt = 13 ∧ x.flow = 0) && x.num.fast)) = true := by decide +kernel

/-- Matrix fields: registers 1, 2 and 3. -/
def mf (rows : BitVec 11) (fmt : BitVec 5) (var : BitVec 4) : MF := ⟨0, 0, 1, 2, 3, rows, 0, fmt, var⟩

/-- Context F with the addresses of a matrix instruction in s1 to s3. -/
def onRegs (a b c : Word) : State := onCtx fun x => ((x.wrS 1 a).wrS 2 b).wrS 3 c

/-- The instruction with word `w` alone in the array's queue of tile 0. -/
def queued (w : Nat) (a b c : Word) : UOp := ⟨0, .F, 0, .matrix, BitVec.ofNat 64 w, a, b, c, 0, false, false, [], 0, false, [], [], [], []⟩
def onQueue (o : UOp) : State := onTile fun t => { t with ops := [o], seq := 1 }

/-- `MatrixIssue`: each matrix word issues and passes its checks with the last rows of accumulator store, or fails one. -/
theorem witness_MatrixIssue :
    (([(0, mf 2 13 1), (1, mf 2 1 2), (2, mf 2 2 0), (3, mf 2 17 0), (4, mf 2 17 0)] : List (Nat × MF)).all fun e =>
       let s := onRegs 0 0x1000 (0x1C0000 - 4096)
       let x := MArgs.of s (capture s h0 .matrix (encM e.1 h0 e.2) 1 2 3)
       s.goes h0 (encM e.1 h0 e.2) (usesM e.2) false && s.affordable 0 (costKey (encM e.1 h0 e.2))
       && (match e.1 with
           | 0 => x.checkMul.isNone | 1 => x.checkMul.isNone | 2 => x.checkRead.isNone | 3 => (s.checkManchor x).isNone
           | _ => x.checkClear.isNone)) = true
    ∧ (let s := onRegs 1 0x1000 0x180000
       let x := MArgs.of s (capture s h0 .matrix (encM 0 h0 (mf 2 13 1)) 1 2 3)
       decide (x.checkMul = some (cALIGN, 1))) = true := by decide +kernel

/-- The checks of mclear: each clause at a boundary. -/
theorem witness_mclear_checks :
    (let at_ := fun (c : Nat) => (⟨4, 1, 0, 17, 0, 0, 0, c, NumCfg.ofReg 0⟩ : MArgs)
     decide ((at_ (2 ^ 21)).checkClear = some (cOPERAND, unstated)) && decide ((at_ 0x180001).checkClear = some (cALIGN, 0x180001))
     && decide ((at_ 0x17FFE0).checkClear = some (cLOCAL_RANGE, 0x17FFE0)) && decide ((at_ 0x1C0000).checkClear = some (cLOCAL_RANGE, 0x1C0000))
     && decide ((at_ 0x1BF820).checkClear = some (cLOCAL_RANGE, localEnd)) && decide ((at_ 0x1BF800).checkClear = none)) = true := by decide +kernel

/-- `MatrixStart`: each instruction, alone in the queue, may start. -/
theorem witness_MatrixStart :
    (([(0, mf 2 13 1), (1, mf 2 1 2), (2, mf 2 2 0), (3, mf 2 17 0), (4, mf 2 17 0)] : List (Nat × MF)).all fun e =>
       let o := queued (encM e.1 h0 e.2) 0 0x1000 0x180000
       let s := onQueue o
       let x := MArgs.of s o
       decide ((s.tile 0).op 0 = some o) && (s.tile 0).startable o && !s.draining && s.active && !s.tileFenced 0 && !s.matrixFenced 0
       && decide ((s.tile 0).fill = none) && (s.checkerOf 0).isNone && decide (0 < x.rows) && s.covered 0 0
       && decide (s.get F.CRUSTCFG_LEVEL 0 = 0)
       && (match e.1 with
           | 0 => x.checkMul.isNone | 1 => x.checkMul.isNone | 2 => x.checkRead.isNone && decide (x.var % 4 ≤ 2)
           | 3 => (s.checkManchor x).isNone && !x.num.fast && decide (x.var % 2 = 0) | _ => x.checkClear.isNone)) = true := by
  decide +kernel

/-- `UnitCompletion`: a started instruction completes, overflows its token, meets a fenced array, and faults with and without an
earlier instruction outstanding. -/
theorem witness_UnitCompletion :
    (let w := encM 4 h0 { mf 2 17 0 with ts := 0x15 }
     let o := { queued w 0 0 0x180000 with started := true }
     let s := onQueue o
     let full := onTile fun t => { t with ops := [o], tokens := SMap.set 0 [] 5 255 }
     decide ((s.tile 0).op 0 = some o) && !(s.tile 0).overflows o.word.toNat && decide ((s.ctx 0 .F).held = none)
     && decide ((s.ctx 0 .F).arrives = []) && decide ((s.ctx 0 .F).endFault = none) && (full.tile 0).overflows o.word.toNat
     && decide (cDET_ERROR ≤ cUNIT_FENCED)
     && (let p := queued w 0 0 0x180000
         let f := (onQueue p).setReg .FENCEARR 0 1
         (f.tile 0).startable p && !f.tileFenced 0 && f.matrixFenced 0 && f.active && !f.draining)
     && (let q := { o with seq := 1 }
         let two := onTile fun t => { t with ops := [o, q], seq := 2 }
         decide ((two.tile 0).op 1 = some q) && decide (∃ p ∈ (two.tile 0).ops, p.ctx = q.ctx ∧ p.seq < 1))) = true := by decide +kernel

/-- A RAW copy of 300 bytes from address 0 of tile 0 to address 4096 of tile 1, its flag bits, and its record. -/
def rawDesc (flags : Nat) : Nat := (2 ^ 21 + 0x1000) * 2 ^ 64 + 300 * 2 ^ 128 + flags * 2 ^ 168
def rawCopy (flags : Nat) : Copy :=
  ⟨0, rawDesc flags, 0, 0, .F, 0, 0, false, false, 0, 0, 0, crcInit, [], 0, 0, 0, [], false, 0, false, false, []⟩
/-- `rawDesc` at address 0 of tile 0. -/
def descAt0 (d : Nat) : State := onTile fun t => t.wrBytes 0 (leBytes 64 d)
def chan0 (s : State) (x : Copy) (n : Nat) : State := s.setChan 0 { Chan.reset with queue := List.replicate n x }

/-- `CopyIssue`: a copy that passes its checks, a full queue and its resumption, and each check's boundary. -/
theorem witness_CopyIssue :
    (let f : DF := ⟨0, 0, 1, 2, 3, 0, 0, 0, 0⟩
     let w := encD 0 h0 f
     let s := descAt0 (rawDesc 0)
     let full := chan0 s (rawCopy 0) 8
     let x := { s.ctx 0 .F with stall := .chanFull (BitVec.ofNat 64 w) }
     s.goes h0 w (usesD w) false && decide ((s.chan 0).queue.length < 8) && s.covered 0 14
     && (match s.copyCheck 0 0 0 0 with | .ok d => decide (d = rawDesc 0) | .error _ => false)
     && full.goes h0 w (usesD w) false && decide (8 ≤ (full.chan 0).queue.length)
     && (let r := s.setCtx 0 .F x
         decide ((r.ctx 0 .F).stall = .chanFull (BitVec.ofNat 64 w)) && decide ((r.chan 0).queue.length < 8)
         && (r.setCtx 0 .F { x with stall := .none }).goes h0 w (usesD w) false)
     && (([(2 ^ 21, cOPERAND), (1, cALIGN), (0x180000, cLOCAL_RANGE)] : List (Nat × Nat)).all fun e =>
          match s.copyCheck 0 e.1 0 0 with | .error c => decide (c.1 = e.2) | .ok _ => false)
     && decide (s.badField (rawDesc 0) = none) && (addOffset (dSrc (rawDesc 0)) (2 ^ 21)).isNone && decide (s.badField (rawDesc 2) = some 21)) = true := by
  decide +kernel

/-- `CopyRuns`: the copy starts with and without a CRC, is granted the engine, and completes. -/
theorem witness_CopyRuns :
    (([0, 1] : List Nat).all fun crc =>
      let x := rawCopy crc
      let s := chan0 base x 1
      decide ((s.chan 0).queue = [x]) && decide (dOp x.desc = 0) && decide (s.form (dSrc x.desc) = some (.tile 0 0))
      && decide (s.form (dDst x.desc) = some (.tile 1 0x1000)) && !s.tileFenced 0 && !s.tileFenced 1 && decide ((s.tile 1).fill = none)
      && (s.checkerOf 1).isNone && !s.draining && s.active && !(s.chan 0).held && (s.tile 0).tokenReady 0 && (dCrc x.desc == decide (crc = 1))) = true
    ∧ (let x := { rawCopy 1 with started := true }
       let s := chan0 base x 1
       decide (SMap.get 0 s.engines 0 = 0) && decide (s.wantsGrant 0 = some x)) = true
    ∧ (let x := { rawCopy 0 with started := true, moved := true }
       let s := chan0 base x 1
       !dCrcWr x.desc && !(s.tile 0).overflows 0 && decide ((s.ctx 0 .F).held = none) && decide ((s.ctx 0 .F).arrives = [])
       && !dArr x.desc) = true := by decide +kernel

/-- `CompressionRoundTrip`: words of 32 bits. -/
theorem witness_CompressionRoundTrip : ∀ w ∈ [0, 0, 0xFFFFFFFF], w < 2 ^ 32 := by decide +kernel

/-- `TopkLosesNothing`: the block of Table 7-4, J = 8. -/
theorem witness_TopkLosesNothing :
    (let b := SxBlock.mk 1990 0 false false (1 :: List.replicate 31 0) ([0, 40, -40] ++ List.replicate 29 0)
     (topK true 8 b 1990 (List.replicate 32 0)).crumb.isSome && decide (b.ns.length = 32 ∧ b.codes.length = 32 ∧ b.e ≤ 1990)) = true := by
  decide +kernel

/-- A narrow access of 32 bytes: device address 64 in s2, tile-local address 0 in s1. -/
def nf (var : BitVec 9) (size : BitVec 6) : DF := ⟨0, 0, 1, 2, 0, 0, 0, size, var⟩
def onNarrow : State := onRegs 0 (0x4000000000000040) 0

/-- `NarrowIssue`: ldn, stn and atom pass their checks; sixty-four accesses stand in the queue; each check's boundary. -/
theorem witness_NarrowIssue :
    (([(1, nf 0 32), (2, nf 0 32), (3, nf 0 32)] : List (Nat × DF)).all fun e =>
       let w := encD e.1 h0 e.2
       onNarrow.goes h0 w (usesD w) false && decide ((onNarrow.tile 0).narrowCount < 64)
       && decide (onNarrow.narrowCheck w 0 0x4000000000000040 0 = none) && onNarrow.covered 0 15) = true
    ∧ (let o : UOp := ⟨0, .F, 0, .narrow, BitVec.ofNat 64 (encD 1 h0 (nf 0 32)), 0, 0, 0, 0, false, false, [], 0, false, [], [], [], []⟩
       let s := onTile fun t => { t with ops := List.replicate 64 o }
       let w := encD 1 h0 (nf 0 32)
       s.goes h0 w (usesD w) false && decide (64 ≤ (s.tile 0).narrowCount)) = true
    ∧ (let s := onCtx fun x => { x with stall := .narrowFull 5 }
       decide ((s.ctx 0 .F).stall = .narrowFull 5) && decide ((s.tile 0).narrowCount < 64)) = true
    ∧ (let c := fun va vb => base.narrowCheck (encD 1 h0 (nf 0 32)) va vb 0
       decide (c 0 0 = some (cOPERAND, unstated)) && decide (c 0 0x4000000000000001 = some (cALIGN, 0x4000000000000001))
       && decide (c (localEnd - 31) 0x4000000000000000 = some (cLOCAL_RANGE, localEnd))
       && decide (c (localEnd - 32) 0x4000000000000000 = none)
       && decide (base.devCheck base.capacity 1 .read = some (cADDRESS, base.capacity))
       && decide (base.devCheck (2 ^ 36) 1 .read = some (cSEGMENT, 2 ^ 36)) && base.segCovers 0 32 0) = true := by decide +kernel

/-- `NarrowEffects`: an access alone in the queue may start, of this module and of another, and completes. -/
theorem witness_NarrowEffects :
    (([1, 2, 3] : List Nat).all fun op =>
      let o : UOp := ⟨0, .F, 0, .narrow, BitVec.ofNat 64 (encD op h0 (nf 0 32)), 0, 0x4000000000000040, 0, 0, false, false, [], 0, false, [], [], [], []⟩
      let r := { o with vb := 0x8005000000000040 }
      let s := onTile fun t => { t with ops := [o], seq := 1 }
      let m := s.markStarted 0 o
      decide ((s.tile 0).op 0 = some o) && (s.tile 0).startable o && (s.tile 0).startable r && !s.draining && s.active && !s.tileFenced 0
      && decide (s.form o.vb.toNat = some (.dev 64)) && decide (s.form r.vb.toNat = some (.rack 5 64)) && !s.mirrorFull 64 32
      && (match (m.devRead 64 32 0 0).2 with | .ok bs => decide (bs.length = 32) | .error _ => false)
      && (m.devWrite 64 (List.replicate 32 1) 0 0 (some (0, .F, 0))).2.isNone
      && (((m.devRead 64 32 0 0).1.tile 0).fill.isNone) && !(s.tile 0).overflows o.word.toNat
      && decide ((s.ctx 0 .F).held = none) && decide ((s.ctx 0 .F).arrives = [])) = true
    ∧ (0 : Nat) < ([1, 2, 3, 4] : List Byte).length / atomLane 0 := by decide +kernel

/-- `ChannelState`: chrd and the three actions of chctl start at issue; a channel with a copy that moves. -/
theorem witness_ChannelState :
    (([(4, 5), (5, 0), (5, 1), (5, 2)] : List (Nat × BitVec 9)).all fun e =>
      let f : DF := ⟨0, 0, if e.1 = 4 then 1 else 0, 0, 0, 15, 0, 0, e.2⟩
      let w := encD e.1 h0 f
      let s := onCtx id
      s.goes h0 w (usesD w) false && s.covered 0 14 && (s.tile 0).tokenReady w
      && !(s.tile 0).blocked .F (s.tile 0).seq (uReads w) (uWrites w) && decide ((s.tile 0).ops = [])) = true
    ∧ (let c := (chan0 base { rawCopy 1 with started := true } 8).chan 0
       decide (c.queue.length ≤ 8 ∧ c.lastst < 16)) = true := by decide +kernel

/-- `SyncCounters`: arm, arrive and scread run; targets 2^32 − 1 and 2^32; an arrival of the epoch and one of another. -/
theorem witness_SyncCounters :
    (let s := onCtx fun x => (x.wrS 1 0xFFFFFFFF).wrS 2 0x100000000
     let f : ArmF := ⟨false, 0, 1, false, 0, 0xFFFF⟩
     let f' : ArmF := { f with st := 2 }
     let g : ArriveF := ⟨1, 0, false, 0, 1, false, 0, 0xFFFF⟩
     let x := s.ctx 0 .F
     s.inv && runsB s h0 (encArm 0 false h0 f) (usesY f.creg f.sc f.timm f.st) && runsB s h0 (encArm 0 false h0 f') (usesY f'.creg f'.sc f'.timm f'.st)
     && decide ((s.counterRef x false 0 0xFFFF).dev = none) && decide ((x.rdS 1).toNat < 2 ^ 32) && decide (2 ^ 32 ≤ (x.rdS 2).toNat)
     && runsB s h0 (encArrive h0 g) (usesY g.creg g.sc g.nimm g.sn) && decide (x.arrives = []) && s.performed 0 .F 1 (s.tile 0).seq
     && runsB s h0 (encHead 6 4 h0 + 63 * 2 ^ 44 + 2 ^ 30 + 0xFFFF) ⟨[], [63]⟩
     && (let o : UOp := ⟨0, .F, 0, .narrow, BitVec.ofNat 64 (encD 2 h0 (nf 0 32)), 0, 0x4000000000000040, 0, 0, true, false, [], 0, false, [], [], [], []⟩
         let u := onTile fun t => { t with ops := [o], seq := 1 }
         !u.performed 0 .F 1 (u.tile 0).seq)) = true
    ∧ (([0, 1] : List Nat).all fun e =>
        let a : Arrival := ⟨7, none, 0xFFFF, 2 ^ 32 - 1, e, false, 0, 0, 0, none⟩
        let s := { base with arrivals := [a], nextId := 8 }
        s.inv && decide (s.arrivals.find? (fun b => decide (b.id = 7)) = some a) && s.hearthReady
        && decide (decide (a.epoch = (s.counter 0xFFFF).epoch) = decide (e = 0))) = true := by decide +kernel

/-- Counter 3 with this target and count. -/
def onCounter (count target : Nat) (x : Ctx) : State :=
  (base.setTile 0 { tile0 with ctxF := x }).setCounter 3 { Counter.reset with count := count, target := target }

/-- `CounterWaits`: wait, migrate and the stalls, with COUNT at its target and one below it. -/
theorem witness_CounterWaits :
    (([4, 5] : List Nat).all fun n =>
      let s := onCounter n 5 ctx0
      let f : WaitF := ⟨7, false, false, 0, 0, 3⟩
      let g : ArmF := ⟨false, 0, 0, true, 9, 3⟩
      s.inv && runsB s h0 (encWait h0 f) ⟨[], [103]⟩ && runsB s h0 (encWait h0 { f with timeout := 1 }) ⟨[], [103]⟩
      && decide ((s.counterRef (s.ctx 0 .F) false 0 3).dev = none) && decide (decide ((s.counter 3).target ≤ (s.counter 3).count) = decide (n = 5))
      && runsB s h0 (encArm 3 true h0 g) (usesY g.creg g.sc g.timm g.st) && runsB s h0 (encArm 3 false h0 g) (usesY g.creg g.sc g.timm g.st)
      && (let u := onCounter n 5 { ctx0 with stall := .wait 3 7 true true }
          u.inv && decide ((u.ctx 0 .F).stall = .wait 3 7 true true))
      && (let u := onCounter n 5 { ctx0 with stall := .drain 3 9 }
          u.inv && decide ((u.ctx 0 .F).stall = .drain 3 9))) = true := by decide +kernel

/-- `TokensAndFences`: the instructions run; the token is 0 or not; accesses are performed or not; a fence that waits. -/
theorem witness_TokensAndFences :
    (([0, 1] : List (BitVec 8)).all fun n =>
      let s := onTile fun t => { t with tokens := SMap.set 0 [] 15 n }
      runsB s h0 (encHead 6 5 h0 + 15) ⟨[], []⟩ && decide ((s.tile 0).token 15 = n) && runsB s h0 (encHead 6 6 h0 + 255 * 16 + 15) ⟨[], []⟩
      && runsB s h0 (encHead 6 7 h0 + 63 * 2 ^ 44 + 15) ⟨[], [63]⟩) = true
    ∧ (([0, 1] : List (BitVec 2)).all fun scope =>
        let s := onCtx fun x => { x with stall := .fence scope }
        runsB (onCtx id) h0 (encHead 6 8 h0 + scope.toNat * 2 ^ 48) ⟨[], []⟩ && decide ((s.ctx 0 .F).stall = .fence scope)
        && s.performed 0 .F scope.toNat (s.tile 0).seq) = true
    ∧ (let s := onCtx fun x => { x with stall := .twait 15 }
       decide ((s.ctx 0 .F).stall = .twait 15) && runsB (s.setCtx 0 .F { s.ctx 0 .F with stall := .none }) h0 (encHead 6 5 h0 + 15) ⟨[], []⟩) = true := by
  decide +kernel

/-- `TaskQueues`: tpush with room and without; tpop of a task the tile owns, and with none to take. -/
theorem witness_TaskQueues :
    (let push := encHead 6 9 h0 + 7 * 2 ^ 47 + 1 * 2 ^ 38 + 2 * 2 ^ 32 + 3 * 2 ^ 26
     let pop := encHead 6 10 h0 + 7 * 2 ^ 47 + 1 * 2 ^ 38 + 2 * 2 ^ 32
     let one := { onCtx id with tasks := [⟨0, 5, 6, 0⟩] }
     let none_ := (onCtx id).setReg .DLBCTL 0 0
     runsB one h0 push ⟨[1, 2, 3], [103]⟩ && decide ((one.tasks.filter fun k => decide (k.die = one.bdieOf 0)).length < 4096)
     && runsB one h0 pop ⟨[], [1, 2, 103]⟩ && decide (one.tasks.find? (fun k => decide (k.owner.toNat = 0)) = some ⟨0, 5, 6, 0⟩)
     && runsB none_ h0 pop ⟨[], [1, 2, 103]⟩ && decide (none_.tasks = []) && decide (none_.get F.DLBCTL_EN 0 = 0)
     && (let t := { onCtx id with tasks := [⟨0, 5, 6, 2⟩] }
         t.stealable 0 0 ⟨0, 5, 6, 2⟩)) = true := by decide +kernel

/-- A descriptor of tag 5 with these fields, no deadline, its rank table at address 0x100 of tile 0. -/
def desc (op n me owner count dst : Nat) : Nat :=
  5 + op * 2 ^ 16 + n * 2 ^ 48 + me * 2 ^ 64 + owner * 2 ^ 80 + count * 2 ^ 96 + dst * 2 ^ 192 + 0x100 * 2 ^ 384 + 2 ^ 486

/-- A broadcast of 8 bytes from rank 0 of two to rank 1, and a tag in state `st` that holds descriptor `d`. -/
def bcast : Nat := desc 4 2 1 0 8 0x1000
def tagOf (d st : Nat) : Tag := { Tag.free with st := st, desc := d, ranks := [1, 0] }
def onTag (d st : Nat) : State := base.setTag 5 (tagOf d st)

/-- `CollectiveArming`: bkarm, xfire and xa2a run; a descriptor that arms, one of another starter, one with a bad field, one whose
range no segment holds; rank entries and exponents at their bounds; a busy tag. -/
theorem witness_CollectiveArming :
    (let f : XF := ⟨63, 1, 0, 0⟩
     let s := descAt0 bcast
     ([0, 3, 5] : List Nat).all (fun op => runsB s h0 (encX op h0 f) ⟨[1], [63]⟩)
     && decide (s.badDesc 0 bcast = some (2, true)) && decide (s.badDesc 1 bcast = none) && decide (s.descRanges bcast = none)
     && (match s.armCheck 0 0 1 with | .ok (.ok d) => decide (d = bcast) | _ => false)
     && (match s.armCheck 0 0 0 with | .ok (.error n) => decide (n = 3) | _ => false)
     && (match s.armCheck 0 1 1 with | .error e => decide (e = (cALIGN, 1)) | _ => false)
     && (match s.armCheck 0 0x180000 1 with | .error e => decide (e = (cLOCAL_RANGE, 0x180000)) | _ => false)
     && (match s.armCheck 0 (2 ^ 21) 1 with | .error e => decide (e = (cOPERAND, unstated)) | _ => false)
     && decide (s.form (gRanktab bcast) = some (.tile 0 0x100)) && !s.tileFenced 0 && (s.setReg .FENCETILE 0 1).tileFenced 0
     && decide (s.badDesc 1 (bcast + 2 ^ 12) = some (0, false))
     && (let far := desc 4 2 1 0 8 (2 ^ 62 + 2 ^ 38)
         decide (s.badDesc 1 far = none) && (s.descRanges far).isSome)
     && ({ Tag.free with ranks := [2 ^ 17] } : Tag).ranks.any (fun e => decide (2 ^ 17 ≤ e))
     && (let x : Tag := { Tag.free with ranks := [2, 3] }
         x.ranks.all (fun e => decide (e < 2 ^ 17)) && !s.isOwn (x.primary (gMe bcast)) && (x.backupDev (gMe bcast)).isNone)
     && decide (1990 < (sext 16 1991).natAbs) && decide ((sext 16 0xF83A).natAbs ≤ 1990) && !(s.tagAt (gTag bcast)).busy && !s.resvClash bcast
     && ((onTag bcast 2).tagAt 5).busy
     && (let d := bcast + 2 ^ 484
         let u := s.setCounter 0 { Counter.reset with target := 1 }
         gTrigv d && decide ((u.counter (gTrig d)).count < (u.counter (gTrig d)).target))
     && (let m := (0x10 : Nat) * 2 ^ 16 + 0x100 * 2 ^ 384 + 8 * 2 ^ 256
         (onTag m 1).resvClash (m + 1))) = true := by decide +kernel

/-- `BucketPuts`: bkrd at tag 4095 and at 4096; bkput with blocks, without, at each status, and at each fault. -/
theorem witness_BucketPuts :
    (let rd : XF := ⟨63, 1, 0, 5⟩
     ([4095, 4096] : List Word).all (fun v => runsB (onCtx fun x => x.wrS 1 v) h0 (encX 2 h0 rd) ⟨[1], [63]⟩)
     && (let put : XF := ⟨63, 1, 2, 1⟩
         let acc := onRegs 0x180000 5 0
         runsB acc h0 (encX 1 h0 put) ⟨[1, 2], [63]⟩ && runsB acc h0 (encX 1 h0 { put with imm := 0 }) ⟨[1, 2], [63]⟩
         && decide (0x180000 + 32 * 32 * 1 ≤ localEnd ∧ tileStoreEnd ≤ 0x180000 ∧ 0 < tileStoreEnd))
     && (let st := fun (d st b0 nb : Nat) => (onTag d st).putStatus 5 b0 nb
         let red := desc 0 2 1 0 8 0
         decide (st red 0 0 1 = 1) && decide (st bcast 1 0 1 = 3) && decide (st red 1 8 1 = 2) && decide (st red 1 8 0 = 0)
         && decide (st red 1 7 1 = 0)
         && (let u := base.setTag 5 { tagOf red 1 with origins := [⟨7, 1, 0, 0, 0⟩] }
             u.putBlocks 5 7 1 && decide (u.putStatus 5 7 1 = 4)))) = true := by decide +kernel

/-- `CombiningIsExact`: element 31, with each code. -/
theorem witness_CombiningIsExact :
    (let b := fun (c : Nat) => SxBlock.mk 0 0 false false (List.replicate 31 0 ++ [c]) (List.replicate 32 1)
     let codes := fun (c : Nat) => ([b c, b 0] : List SxBlock).map (fun x => x.codes.getD 31 0)
     (codes 0).all (fun c => decide (c = 0)) && (codes 1).contains 1 && (codes 2).contains 2 && (codes 3).contains 3) = true := by decide +kernel

/-- A collective message to the engine of tag 5: its word, and its data after it. -/
def coll (w : Nat) (bs : List Byte) : InMsg := ⟨⟨homeEngine 5, 1, homeEngine 5, 0⟩, 0, kCOLL, 9, 0, leBytes 8 w ++ bs, false⟩
def onInbox (s : State) (m : InMsg) : State := s.setFab { s.fab with inbox := [m] }

/-- `CollectiveLife`: a broadcast that opens, one that is open, one that ends; a last fragment, a stale one, an early one and a request
for a rerun. -/
theorem witness_CollectiveLife :
    (let armed := onTag bcast 1
     let open_ := base.setTag 5 { tagOf bcast 2 with arrived := [(1, false)] }
     let dl := base.setTag 5 { tagOf (bcast - 2 ^ 486 + 2 ^ 496) 2 with arrived := [(1, false)] }
     decide (gOp bcast = 4 ∧ gMe bcast ≠ gOwner bcast ∧ gMe bcast < gN bcast ∧ gOwner bcast < gN bcast ∧ 0 < gCount bcast)
     && decide ((armed.tagAt 5).st = 1 ∧ (armed.tagAt 5).arrived = []) && armed.triggered bcast && armed.active && !armed.draining
     && (dl.tagAt 5).live && !gNodl (dl.tagAt 5).desc && !isXa bcast && !isDw bcast && (open_.tagAt 5).busy
     && (let m := coll (5 + 0 * 2 ^ 16) (List.replicate 8 7)
         let s := onInbox open_ m
         let w := leValue (m.data.take 8)
         decide (s.fab.inbox[0]? = some m) && decide (m.key.ep = homeEngine 5) && s.answers
         && decide (w % 2 ^ 12 = 5 ∧ bits w 15 12 = 0 ∧ w / 2 ^ 57 = 0 ∧ 8 ≤ m.data.length ∧ bits w 23 16 = gOwner bcast ∧ bits w 48 25 = 0)
         && decide ((s.tagAt 5).fragFate (bits w 56 49) = 0) && decide ((m.data.drop 8).length = gCount bcast)
         && decide ((s.tagAt 5).asked = [] ∧ (s.tagAt 5).frags = []) && decide (s.form (gDst bcast) = some (.tile 0 0x1000))
         && !s.tileFenced 0 && decide ((s.tile 0).fill = none) && (s.checkerOf 0).isNone)
     && decide ((open_.tagAt 5).fragFate 255 = 2) && decide ((open_.tagAt 5).fragFate 1 = 1) && decide (base.fab.out = [])
     && (let w := 5 + 4 * 2 ^ 12
         decide (bits w 15 12 = 4) && !bit w 48)) = true := by decide +kernel

/-- `Dumbwaiter`: a flit for no operation, a stale one and an early one; a partner that is late seven times and eight; an ended operation
whose flits are kept. -/
theorem witness_Dumbwaiter :
    (let d := 5 + 0x10 * 2 ^ 16 + 2 * 2 ^ 48 + 8 * 2 ^ 96 + 0x100 * 2 ^ 384 + 16 * 2 ^ 256
     let f : Flit := { Flit.empty with kind := 16, cls := 2, dep := homeEngine 5, resv := 16 }
     let x := { tagOf d 2 with dwSent := [(1, f)] }
     let s := (base.setTag 5 x).setFab { base.fab with dwIn := [f] }
     isDw d && decide ((dwSteps d)[0]? = some (1, some 1, some 1)) && decide (x.tries < 8)
     && decide (x.dwSent.find? (fun e => decide (e.1 = 1)) = some (1, f)) && decide (s.dwTag f.dep f.resv f.tag = some 5)
     && decide (s.dwTag f.dep 0 f.tag = none) && decide (s.dwHeld.length < 64) && decide (128 ≤ (128 + 256 - gGen d) % 256)
     && decide (4 ≤ (tagOf d 4).st) && decide (8 ≤ ({ x with tries := 8 } : Tag).tries)
     && (let u := { base with dwHeld := [f] }
         decide (u.dwHeld[0]? = some f))) = true
    ∧ dwP 64 ≤ 64 ∧ 64 < 2 * dwP 64 ∧ (leBytes 32 1).length % 8 = 0 := by decide +kernel

/-- A flit of the request class to device `dev`, endpoint `dep`. -/
def flitTo (dev dep hops : Nat) : Flit :=
  { Flit.empty with kind := kREAD, cls := 0, sep := 0x61, dep := dep, sdev := 9, ddev := dev, hops := hops, data := List.replicate 8 0, tag := 1 }
def placing (free : List Nat) (eject : Nat) : Placing := ⟨base, free, eject, [], [], []⟩

/-- `FabricPlacement`: a flit at home with and without room, of an endpoint that does not exist, in transit with room, without, beyond its
hops and with no route; a neighbour; an edge switch's queues; the fabric runs. -/
theorem witness_FabricPlacement :
    (let f := flitTo base.dev (homeEp 0) 0
     let r := homeEp 0 / 16
     let budget := base.get F.FABCTL_HOPBUDGET 0
     !f.malformed && base.isOwn f.ddev && decide (f.dep / 16 = r) && endpointOk f.dep && base.aliasOk f && base.fab.accepts f
     && !endpointOk 0x0F && decide (budget < (flitTo base.dev (homeEp 0) 255).hops + 1) && decide (f.hops + 1 ≤ budget)
     && (base.productive (r + 1) f).isSome && (base.productive r (flitTo 77 5 0)).isNone
     && (let up := base.put F.PORTSTAT_STATE (portOf 0 6) 3
         up.queueOpen 0 6 0 && decide (base.edgeProductive 0 f = some [base.nearestAttach 0 (f.dep / 16 / 8)]) && (base.edgeProductive 0 (flitTo 77 5 0)).isNone)
     && base.fabricOn) = true
    ∧ neighbour 0 1 = some 1 ∧ neighbour 63 0 = some 55 := by decide +kernel

/-- A stream of request messages to this module's endpoint 5 from module 9, and its own stream to module 9. -/
def inKey : StreamKey := ⟨5, 9, 0x61, 0⟩
def outMsg (resends : Nat) : OutMsg := ⟨inKey, 0, kREAD, 0, 1, 0, List.replicate 8 0, true, true, resends, none⟩
def onFab (f : Fabric → Fabric) : State := base.setFab (f base.fab)

/-- `StreamDelivery`: a landed flit of a known stream, of an unknown one, one that does not open it; an acknowledgement due; an
acknowledgement, a NACK and an expiry at the source, below and at the limit. -/
theorem witness_StreamDelivery :
    (let f := { flitTo 0 5 0 with syn := true }
     let known := onFab fun b => { b with landed := [f], ins := [⟨f.stream, 0, 1, []⟩] }
     let dup := onFab fun b => { b with landed := [f], ins := [⟨f.stream, 1, 1, []⟩] }
     decide ((onFab fun b => { b with landed := [f] }).fab.landed[0]? = some f) && decide (f.kind ≠ kACK ∧ f.kind ≠ kNACK ∧ f.ack = none ∧ f.seq < 65536)
     && decide (known.fab.ins.find? (fun j => decide (j.key = f.stream)) = some ⟨f.stream, 0, 1, []⟩)
     && decide ((1 + 65535 - f.seq) % 65536 < 32768 ∧ f.fidx = f.fcnt) && decide (dup.fab.ins.length = 1)
     && decide (known.fab.ins.find? (fun i => decide (i.key = f.stream) && decide (0 < i.due)) = some ⟨f.stream, 0, 1, []⟩)
     && (let s := onFab fun b => { b with out := [outMsg 0] }
         let max := s.get F.FABCTL_RESENDMAX 0
         decide (s.fab.oldest inKey = some (outMsg 0)) && decide (0 < max)
         && decide ((onFab fun b => { b with out := [{ outMsg max with key := { inKey with cls := 1 } }] }).fab.oldest { inKey with cls := 1 }
              = some { outMsg max with key := { inKey with cls := 1 } }))
     && (let ack : Flit := { flitTo 0 5 0 with kind := kACK, cls := 1, data := [], ack := some (0, 0) }
         let s := onFab fun b => { b with landed := [ack], out := [outMsg 0] }
         decide (s.fab.landed[0]? = some ack) && s.fab.out.all (fun m => m.sent))
     && ([3, 4, 7] : List Nat).all (fun reason =>
         let v := 0 + reason * 2 ^ 24 + 0x61 * 2 ^ 32 + 9 * 2 ^ 48
         let nack : Flit := { flitTo 0 5 0 with kind := kNACK, cls := 1, data := leBytes 8 v }
         let k : StreamKey := ⟨nack.dep, bits v 55 48, bits v 41 32, bits v 17 16⟩
         let newer := { outMsg 0 with seq := 1 }
         let s := onFab fun b => { b with landed := [nack], out := if reason = 3 then [{ newer with seq := 5 }, { outMsg 0 with seq := 0 }] else [outMsg 0] }
         decide (k = inKey) && ((s.fab.of k).find? (fun x => x.sent && decide (x.seq = bits v 15 0))).isSome
         && (s.fab.oldest k).isSome)) = true := by decide +kernel

/-- `FlitEncoding`: every field at its greatest value. -/
theorem witness_FlitEncoding :
    (let f : Flit := ⟨2 ^ 16 - 1, true, 7, true, 1023, 1023, 255, 255, 31, 3, 1, 255, List.replicate 32 255, 255, 7, 7, some (1, 65535), 65535⟩
     decide (f.bytes.length = 48) && decide (Flit.ofBytes f.bytes = f) && decide ((List.replicate 8 f).length = 8)) = true := by decide +kernel

set_option maxRecDepth 50000 in /-- `LinkLayer`: a good block with the expected BSEQ, one with another, a NAK and a timeout with a block kept; a flip that is PENDING. -/
theorem witness_LinkLayer :
    (let up := base.put F.PORTSTAT_STATE (portOf 3 11) 3
     let up6 := base.put F.PORTSTAT_STATE (portOf 3 6) 3
     let blk : Block := ⟨0, List.replicate 8 Flit.empty⟩
     let b := BlockIn.ofBytes (blk.bytes 0 true)
     up6.localUp 3 6 && up.localUp 3 11 && up6.fabricOn && b.good && decide (b.bseq = (up6.link 3 6).expect)
     && !(BlockIn.ofBytes (List.replicate 392 0)).good
     && (let s := up6.setLink 3 6 { up6.link 3 6 with kept := [blk], asked := true }
         decide ((s.link 3 6).kept[0]? = some blk ∧ blk.bseq = b.back) && (s.link 3 6).asked && decide ((s.link 3 6).replays < 15)
         && decide ((s.link 3 6).kept ≠ []))
     && decide ((base.put F.RTEPOCH_PENDING 0 1).get F.RTEPOCH_PENDING 0 = 1)) = true := by decide +kernel

/-- A training frame from port `port` of module 9, slot `slot`, with its CRC. -/
def frame (slot port : Nat) : List Byte :=
  let body := leBytes 1 9 ++ leBytes 1 port ++ leBytes 1 slot ++ leBytes 1 0x18 ++ List.replicate 74 0
  List.replicate 64 0 ++ body ++ leBytes 2 (frameCrc body)
/-- `base` with port `p` in state `st`, `f` applied. -/
def onPort (p st : Nat) (f : State → State) : State := f (base.put F.PORTSTAT_STATE p st)

set_option maxRecDepth 50000 in /-- `TrainingAndLocks`: a right frame, one of another slot, one of an unexpected sender; attempts below the
limit and at it; a locked ring and a ring with no spare left. -/
theorem witness_TrainingAndLocks :
    (let s := onPort 47 1 id
     let b := fun (f : List Byte) j => (f.getD j 0).toNat
     let good := fun (f : List Byte) => decide (frameCrc ((f.drop 64).take 78) = b f 142 + 256 * b f 143)
     good (frame 15 3) && !good ((frame 15 3).set 70 1) && decide (1 ≤ s.pstate 47 ∧ s.pstate 47 ≤ 4) && decide (s.lstate 47 15 ≤ 1)
     && decide (b (frame 15 3) 66 % 16 = 15) && decide (b (frame 14 3) 66 % 16 ≠ 15) && !(s.rxLane 47 15).attempt && !s.miswired 47 15 9 3
     && (onPort 0 1 fun u => u.setReg .LDMAP 15 0x8005).miswired 0 15 9 3
     && (let a := s.setRx 47 15 { s.rxLane 47 15 with attempt := true }
         (a.rxLane 47 15).attempt && decide (s.get F.LANESTAT_ATTEMPTS (laneIx 47 15) < 2)
         && decide (2 ≤ (a.put F.LANESTAT_ATTEMPTS (laneIx 47 15) 2).get F.LANESTAT_ATTEMPTS (laneIx 47 15)))
     && (let l := (s.put F.RINGSTAT_LOCK (ringIx 47 35) 4).put F.RINGSTAT_SLOT (ringIx 47 35) 15
         decide (l.get F.RINGSTAT_LOCK (ringIx 47 35) = 4 ∧ l.get F.RINGSTAT_SLOT (ringIx 47 35) < 16)
         && (let u := (l.put F.RINGSTAT_SLOT (ringIx 47 34) 0x1F).put F.RINGSTAT_LOCK (ringIx 47 34) 0
             decide (u.get F.RINGSTAT_SLOT (ringIx 47 34) = 0x1F ∧ u.get F.RINGSTAT_LOCK (ringIx 47 34) ≠ 6)))) = true := by decide +kernel

/-- `PortLife`: a port with a role in each range of states; a fixed bundle's port that is up; a bundle whose lanes are ready. -/
theorem witness_PortLife :
    (([0, 1, 2, 4, 5, 6, 7] : List Nat).all (fun st =>
       let s := onPort 43 st id
       (s.role 43).isSome && decide (s.pstate 43 = st))
     && (let s := base.put F.PORTSTAT_STATE (base.rolePort 3 11) 4
         decide (s.pstate (s.rolePort 3 11) = 4) && decide (SMap.get 0 s.retrains (12 * 3 + 11) = 0)
         && decide (1 ≤ SMap.get 0 ({ s with retrains := SMap.set 0 [] 47 1 } : State).retrains 47))
     && (let s := ((((base.put F.CPCUR_CUR 0 0).put F.PLBUND_EN 0 1).put F.PLLANE_BUNDLE 0 0).put F.LANESTAT_LSTATE 0 2).setRx 0 0 ⟨true, 0, 0, 1, false, false⟩
         let s := (seqFrom 1 95).foldl (fun u k => u.put F.PLLANE_BUNDLE k 7) s
         decide (s.get F.CPCUR_CUR 0 < 8) && (s.bundleIn 0 0 0).isSome && s.bundleReady 0 0 0)) = true := by decide +kernel

/-- `LasersAndPlans`: a spare that is free and one that is taken; each status of a plan request; plansw at 8 and 9; a switch in progress. -/
theorem witness_LasersAndPlans :
    (let taken := base.put F.SPARE_TAKEN 3 1
     decide (base.get F.SPARE_TAKEN 3 = 0) && decide (taken.get F.SPARE_TAKEN 3 = 1)
     && (let notes := base.put F.FENCENOTE_EN 0 1
         decide (notes.get F.FENCENOTE_EN 0 = 1) && !notes.draining && notes.hearthReady)
     && decide ((base.put F.CPSTAT_SWITCHING 0 1).get F.CPSTAT_SWITCHING 0 = 1) && decide (base.get F.CPSTAT_SWITCHING 0 = 0)
     && decide (base.get F.CPCUR_CUR 0 ≤ 8) && !base.planInvalid 0 && (base.put F.PLBUND_EN 0 1).planInvalid 0
     && decide ((base.put F.RTEPOCH_HOLD 0 1).get F.RTEPOCH_HOLD 0 = 1)
     && ([8, 9] : List Word).all (fun v => runsB (onCtx fun x => x.wrS 3 v) h0 (encX 4 h0 ⟨7, 3, 0, 0x250150⟩) ⟨[3], [7]⟩)
     && decide ((base.put F.CPCTL_PENDING 0 1).get F.CPCTL_PENDING 0 = 1)
     && (let s : State := { base with plan := some ⟨8, true, some (3, 1)⟩ }
         decide (s.plan = some ⟨8, true, some (3, 1)⟩))) = true := by decide +kernel

/-- A cache that holds nothing agrees with HBM. -/
theorem witness_coherent : base.mem.coherent := by
  intro k l h
  have : base.mem.line k = none := by
    show SMap.look base.mem.lines k = none
    have : base.mem.lines = [] := by decide +kernel
    rw [this]; rfl
  rw [this] at h; cases h

/-- `SectorCodes`: active channels, data of 32 bytes, and an error of one byte. -/
theorem witness_SectorCodes :
    base.activeList ≠ [] ∧ (192 = base.activeList.length ∧ 191 ∈ base.activeList) ∧ (List.replicate 32 255).length = 32
    ∧ popcount8 0x0F ≤ 4 ∧ popcount8 0x07 ≤ 3 := by decide +kernel

/-- `MemoryReadBack`: an aligned sector at the end of the capacity; a good, a one-byte wrong and a DET sector. -/
theorem witness_MemoryReadBack :
    (let d := base.capacity - 32
     let pl := base.place d
     decide (base.mem.combs = []) && decide (d % 32 = 0 ∧ d < base.capacity ∧ pl.2.1 < 2 ^ 25) && !base.stackFenced pl.1 && !base.mirrored d
     && decide (Hint.ofWord 0 (base.segHint d) ≠ .last) && decide (pl.1 < 192)
     && decide (base.mem.sector pl.1 pl.2.1 (pl.2.2 / 32) = encodeSector false (List.replicate 32 0))
     && decide (decodeSector (base.mem.sector pl.1 pl.2.1 (pl.2.2 / 32)) = .ok false (List.replicate 32 0))
     && decide (base.get F.MCHMAP_ACTIVE 191 = 1) && !base.stackFenced 191 && (base.mem.line (lineKey 191 18874367)).isNone
     && decide (rdStored base.mem.hbm (sectorKey 191 18874367 7) = encodeSector false (List.replicate 32 0))) = true
    ∧ (let det := encodeSector true (List.replicate 32 0)
       let k := sectorKey 191 0 0
       let s : State := { base with mem := { base.mem with hbm := (List.range 36).foldl (fun m i => SMap.set 0 m (k * 36 + i) (BitVec.ofNat 8 (det.getD i 0))) [] } }
       decide (rdStored s.mem.hbm k = det)) = true := by decide +kernel

/-- `MemoryChannels`: a running job, no job, each service state, a range that fits and one that does not. -/
theorem witness_MemoryChannels :
    ((onCtx id).jobRuns && !base.jobRuns && decide (base.get F.MCHMAP_ACTIVE 191 = 1) && !base.stackFenced 191
     && ([0, 1, 2, 3] : List Nat).all (fun v => decide ((base.put F.MCHSTAT_SERVICE 191 v).get F.MCHSTAT_SERVICE 191 = v))
     && (let s := (((((base.put F.MCHSTAT_SERVICE 191 2).put F.TGRANGE_COUNT 191 1).put F.TGRANGE_FIRST 191 18874367).put F.TGCFG_PATTERN 191 1).put
           F.TGCFG_PASSES 191 1).put F.TGCFG_PCMASK 191 3
         decide (s.service 191 = 2) && decide (s.get F.TGRANGE_FIRST 191 + s.get F.TGRANGE_COUNT 191 ≤ 18874368)
         && decide (s.get F.TGCFG_PATTERN 191 ≠ 0) && decide (s.get F.TGCFG_PASSES 191 ≠ 0 ∧ s.get F.TGCFG_PCMASK 191 ≠ 0)
         && decide ((s.put F.MCHSTAT_TGRUN 191 1).get F.MCHSTAT_TGRUN 191 = 1))
     && decide (base.service 191 ≠ 2)) = true := by decide +kernel

/-- `base` with its segment visible to the rack; a request message to the home agent of base die 0; the inbox that holds it. -/
def rack : State := base.put F.SEGDESC_RACKVIS 0 1
def req (kind word : Nat) (bs : List Byte) : InMsg := ⟨⟨homeEp 0, 9, 0x61, 0⟩, base.dev, kind, 3, 0, leBytes 8 word ++ bs, false⟩
def reply (kind : Nat) (bs : List Byte) : InMsg := ⟨⟨clusterEp 0, 9, homeEp 0, 1⟩, base.dev, kind, 3, 0, bs, false⟩
/-- A read of 32 bytes at address 0 of module 9, sent for instruction 0 of tile 0. -/
def rop0 : ROp := ⟨0, .read, clusterEp 0, 9, 3, 0, 32, [], 0, 0, 0, .narrow 0 0, .sent, 0⟩
def narrow0 : UOp := ⟨0, .F, 0, .narrow, BitVec.ofNat 64 (encD 1 h0 (nf 0 32)), 0, 0x8009000000000000, 0, 0, true, false, [], 1, false, [], [], [], []⟩
def onRop (o : ROp) : State := { onTile (fun t => { t with ops := [narrow0], seq := 1 }) with rops := [o] }

/-- `RemoteRequests`: a read, a write, an atomic and an arrive that are accepted, a read that is refused, one that is turned away, and a reply. -/
theorem witness_RemoteRequests :
    (let rd := req kREAD (256 * 2 ^ 48) []
     let wr := req kWRITE (248 * 2 ^ 48) (List.replicate 248 1)
     let at_ := req kATOMIC (4 * 2 ^ 48) (List.replicate 4 1)
     let ar : InMsg := { req kARRIVE (7 + 1 * 2 ^ 20) [] with key := ⟨3, 9, 0x61, 0⟩ }
     let on := fun (m : InMsg) => onInbox rack m
     ([rd, wr, at_, ar] : List InMsg).all (fun m => decide ((on m).fab.inbox[0]? = some m) && (on m).answers && decide ((on m).fab.out = [])
       && decide ((on m).queuedBefore 0 m.key.ep < 512) && !(on m).refusing.contains m.key)
     && decide (rd.key.ep % 16 = 5 ∧ bits rd.word 62 57 = 0 ∧ 0 < rd.size ∧ rd.addr % 256 + rd.size ≤ 256 ∧ rd.data.length = 8)
     && decide ((on rd).rackCheck rd.addr rd.size .read false = none) && decide (base.rackCheck rd.addr rd.size .read false = some 3)
     && (match ((on rd).devRead rd.addr rd.size 0 10).2 with | .ok _ => true | .error _ => false)
     && decide (wr.key.far % 16 ≠ 2 ∧ bits wr.word 62 57 = 0 ∧ 0 < wr.size ∧ wr.size ≤ 248 ∧ wr.addr % 256 + wr.size ≤ 256 ∧ wr.rest.length = wr.size)
     && decide ((on wr).rackCheck wr.addr wr.size .write false = none) && !(on wr).mirrorFull wr.addr wr.size && ((on wr).partialFault wr.addr wr.size).isNone
     && atomLegal (bits at_.word 59 57) (bits at_.word 61 60) (bits at_.word 62 62) at_.size
     && decide (0 < at_.size ∧ at_.addr % 32 + at_.size ≤ 32 ∧ at_.rest.length = atomOperandBytes (bits at_.word 59 57) at_.size)
     && decide ((on at_).rackCheck at_.addr at_.size .atomic false = none)
     && decide (ar.key.ep % 16 = 3 ∧ bits ar.word 19 16 = (base.counter (bits ar.word 15 0)).epoch)
     && (let t : State := { on rd with refusing := [rd.key] }
         t.refusing.contains rd.key && !bit rd.word 63)
     && (let s := onInbox (onRop rop0) (reply kRDATA (List.replicate 32 5))
         decide (s.fab.inbox[0]? = some (reply kRDATA (List.replicate 32 5))) && decide (s.answered (reply kRDATA (List.replicate 32 5)) = some rop0)
         && decide ((s.tile 0).op 0 = some narrow0) && (s.checkerOf 0).isNone && decide ((s.tile 0).fill = none))) = true := by decide +kernel

/-- `RetriesAndGateways`: a reply RETRY and REFUSE for each owner, a retried operation below its limit and at it, a register to fold, a
gateway's transfer out and one that arrives. -/
theorem witness_RetriesAndGateways :
    (let s := onInbox (onRop rop0) (reply kRETRY (leBytes 8 2))
     decide (s.answered (reply kRETRY (leBytes 8 2)) = some rop0)
     && (let e : ROp := { rop0 with owner := .engine }
         decide ((onInbox (onRop e) (reply kREFUSE (leBytes 8 3))).answered (reply kREFUSE (leBytes 8 3)) = some e))
     && (let e : ROp := { rop0 with owner := .mirror 3 none }
         let m : InMsg := reply kREFUSE (leBytes 8 3)
         let m : InMsg := { m with key := { m.key with far := e.dep } }
         let u := (onInbox (onRop e) m).put F.TWINSTAT_MSTATE 0 1
         decide (u.answered m = some e) && u.rops.all (fun y => decide (y.phase = .sent))
         && decide ((u.ctx 0 .F).arrives = []) && u.hearthReady && decide (u.get F.TWINSTAT_MSTATE 0 = 1))
     && (let r : ROp := { rop0 with phase := .retried }
         let u := onRop r
         decide (u.rops.find? (fun o => decide (o.stream = rop0.stream) && decide (o.phase = .retried)) = some r)
         && u.rops.all (fun y => decide (y.phase ≠ .held)) && decide (r.resends < u.get F.RMCTL_RETRYMAX 0) && decide (r.dev < 64)
         && decide (u.fab.out = []) && decide ((u.put F.RMCTL_RETRYMAX 0 0).get F.RMCTL_RETRYMAX 0 ≤ r.resends))
     && (let c : Comb := ⟨sectorKey 191 0 7, 0, true, [1, 2, 3, 4], 0⟩
         let u : State := { base with mem := { base.mem with combs := [c] } }
         decide (u.mem.combs.find? (fun x => decide (x.sector = sectorKey 191 0 7)) = some c)
         && decide (decodeSector (u.mem.sector 191 0 7) = .ok false (List.replicate 32 0)) && !u.mirrored (u.unplace 191 0 + 32 * 7))
     && (let x : Copy := { rawCopy 0 with desc := 0x8009000000000000 + 0x4000000000000000 * 2 ^ 64 + 300 * 2 ^ 128, started := true, gateway := true }
         let u := chan0 base x 1
         decide ((u.chan 0).queue = [x]) && decide (x.pos < dCount x.desc) && u.answers && decide (u.copySrc x = .rack 9 0))
     && (let m : InMsg := { req kWRITE (8 * 2 ^ 48 + 32 * 2 ^ 57) (List.replicate 8 1) with key := ⟨gatewayEp 0, 9, 0x66, 0⟩ }
         let r : InMsg := { req kREAD (8 * 2 ^ 48) [] with key := ⟨gatewayEp 0, 9, 0x66, 0⟩ }
         let u := onInbox rack m
         decide (m.key.ep % 16 = 6 ∧ bits m.word 62 57 = 32 ∧ m.size = 8 ∧ m.rest.length = 8) && !u.mirrorFull m.addr 4096
         && decide (u.rackCheck m.addr 8 .write false = none) && (u.partialFault m.addr 8).isNone && decide (base.rackCheck m.addr 8 .write false = some 3)
         && decide (bits r.word 62 57 = 0 ∧ 0 < r.size ∧ r.addr % 256 + r.size ≤ 256))) = true := by decide +kernel

/-- `base` with power state `p` changed. -/
def onPower (f : Power → Power) : State := { base with power := f base.power }

/-- `Governor`: a die with a tile that holds a balance and asks the pool; a REF and a POWERCAP that wait; a power step; power over. -/
theorem witness_Governor :
    (let s := (onTile fun t => { t with want := 5 }).setGov 0 { base.gov 0 with pool := 5 }
     s.inv && s.active && decide (s.ask .DIEREF 0 = none) && decide (s.holders 0 = [0])
     && decide (s.cdieOf 0 = 0 ∧ 0 < (s.tile 0).want ∧ (s.tile 0).want ≤ (s.gov 0).pool)
     && decide ((s.tiles.filter fun e => decide (0 < e.2.want)).length = 1)
     && (let a : State := { base with asks := SMap.ins [] (Reg.DIEREF.key 7) ⟨true, 0, 2 ^ 28 - 1⟩ }
         (a.ask .DIEREF 7).isSome && a.inv)
     && (let a : State := { base with asks := SMap.ins [] (Reg.POWERCAP.key 0) ⟨true, 0, 2000⟩ }
         (a.ask .POWERCAP 0).isSome && a.hearthReady)
     && decide (base.ask .POWERCAP 0 = none) && base.active && base.hearthReady
     && (List.range 8).all (fun e => decide (base.get F.GOVSTAT_SPRINT e = 0 ∧ base.get F.GOVSTAT_OVER e = 0 ∧ 10000000 ≤ base.get F.DIEREF_REF e))
     && !base.sprinting) = true := by decide +kernel

/-- `SprintAndThermal`: a sprint that may start, one that runs; readings at each threshold; a suspect sensor; a shutdown and its end. -/
theorem witness_SprintAndThermal :
    (let may := base.put F.POWERCAP_SPRINTEN 0 1
     let may := may.put F.POWERCAP_WATTS 0 2000
     let run := (List.range 8).foldl (fun u d => u.put F.GOVSTAT_SPRINT d 1) base
     !may.sprinting && may.sprintAllowed 9999 && !may.sprintAllowed 10000 && run.sprinting && decide (run.power.wear ≠ []) && base.hearthReady
     && (let r : List Int := List.replicate 64 1519
         base.active && decide (base.suspects 7 = 0) && (List.range 64).all (fun i => decide (base.outlying 7 r i < 8)) && decide (r.length = 64)
         && r.all (fun x => decide (x ≤ 1519)) && decide ((1519 : Int) < 16 * 120))
     && (let hot := base.put F.GOVSTAT_RATE 7 1
         decide (hot.get F.GOVSTAT_RATE 7 = 1) && decide (base.get F.GOVSTAT_RATE 7 = 0))
     && (let r : List Int := 0 :: List.replicate 63 400
         let s := base.setSensor 7 0 ⟨[], 7⟩
         decide (s.suspects 7 = 0 ∧ 7 ≤ (s.sensor 7 0).off) && decide (160 < (r.getD 0 0 - medianInt ((neighbours 7 0).map (Readings.at r))).natAbs)
         && r.all (fun x => decide (x < 16 * 110)) && (List.range 64).any (fun j => decide (s.outlying 7 r j < 8)))
     && decide (base.suspects 16 = 0 ∧ base.suspects 27 = 0) && decide (base.get F.GOVSTAT_THRF 7 ≤ 8)
     && (let down := onPower fun p => { p with shutdown := true }
         down.power.shutdown && down.hearthReady && down.mayStart)) = true := by decide +kernel

/-- `Health`: no drain, a drain under way, one due for a cause; a job and none; a link at each width, one that waits for a quiet point. -/
theorem witness_Health :
    (base.inv && decide (base.get F.DRAINSTAT_STATE 0 = 0) && decide (base.drainDue.getD 0 = 0)
     && decide (({ base with drainDue := some 1 } : State).drainDue.getD 0 ≠ 0)
     && (let d := base.put F.DRAINSTAT_STATE 0 1
         decide (d.get F.DRAINSTAT_STATE 0 = 1) && !d.mirrorsOut && d.inv)
     && (onCtx id).jobRuns && !base.jobRuns && base.hearthReady && decide ((base.put F.MCHSTAT_SERVICE 191 2).service 191 = 2)
     && ([0, 1, 2] : List Nat).all (fun w => decide ((base.put F.D2DSTAT_WIDTH 159 w).get F.D2DSTAT_WIDTH 159 = w))
     && (let l := onPower fun p => { p with lost := [159] }
         l.power.lost.contains 159 && decide (l.get F.D2DSTAT_WIDTH 159 < 2))
     && SMap.wf 0 ([] : SMap Nat) && decide (base.penalty = []) && decide (0 < base.get F.HSCFG_HALFLIFE 0)) = true := by decide +kernel

/-- `base` with a twin that is present, a bridge port UP, window 7 over the first 64 KiB, and no conflict. -/
def onTwin (f : Twin → Twin) : State :=
  ((((base.put F.PORTSTAT_STATE 41 3).put F.MIRWIN_VALID 7 1).put F.MIRWIN_LENGTH 7 1).put F.TWINSTAT_PEER 0 1).setTwin (f { Twin.reset with present := true })

/-- `Twin`: each clause's states. -/
theorem witness_Twin :
    (let s := onTwin id
     s.bridgeServes && s.bridgeUp && decide (s.get F.TWINSTAT_PEER 0 ≠ 2 ∧ s.get F.TWINSTAT_PEER 0 ≠ 5)
     && (let m : InMsg := ⟨⟨homeEp 0, 9, 0x62, 0⟩, base.dev, kWRITE, 3, 0, leBytes 8 (32 * 2 ^ 48) ++ List.replicate 32 7, false⟩
         let u := onInbox s m
         decide (u.fab.inbox[0]? = some m) && decide (m.key.ep % 16 = 5 ∧ m.key.far % 16 = 2 ∧ bits m.word 62 57 = 0 ∧ m.size = 32 ∧ m.addr = 0
           ∧ m.rest.length = 32) && u.answers && decide (u.queuedBefore 0 m.key.ep < 512) && !u.refusing.contains m.key && decide (u.fab.out = [])
         && !u.draining && (u.put F.DRAINSTAT_STATE 0 1).draining && decide (u.get F.TWINSTAT_CONFLICT 0 = 0)
         && decide (u.windowOf m.addr m.size = some 7) && decide (u.windowOf 65536 32 = none)
         && (let a := u.winLoc 7 + (m.addr - u.winSrc 7)
             decide ((u.place a).2.1 < 2 ^ 25) && !u.stackFenced (u.place a).1))
     && (let n := onTwin fun t => { t with notice := some [1] }
         n.hearthReady && decide (n.twin.notice = some [1]) && decide (SMap.get 0 n.twin.got 0 ≠ 1) && n.winValid 7
         && (List.range 7).all (fun v => !n.winValid v))
     && ([2, 4, 5, 6] : List Nat).all (fun p => decide ((s.put F.TWINSTAT_PEER 0 p).get F.TWINSTAT_PEER 0 = p))
     && decide ((s.put F.DRAINSTAT_STATE 0 2).get F.DRAINSTAT_STATE 0 = 2)
     && (let f := s.put F.TWINCFG_FAILEN 0 1
         !f.hostPortUp 2 && !f.hostPortUp 3 && decide (f.get F.TWINCFG_FAILEN 0 = 1) && decide (f.get F.TWINSTAT_PEER 0 = 1))
     && (base.put F.PORTSTAT_STATE 42 3).hostPortUp 2
     && (let x := onTwin fun t => { t with shadows := [⟨255, 7⟩] }
         let x := x.put F.TWINCFG_SHEN 0 1
         let at_ := x.get F.SHCFG_MBOX 0 * 4096 + 16 * 255
         let y := (x.devWrite at_ [1] 0 0 none).1
         let r := y.devRead at_ 12 0 0
         decide (x.twin.shadows.find? (fun y => decide (y.slot = 255)) = some ⟨255, 7⟩) && decide (x.get F.TWINCFG_SHEN 0 = 1) && y.active
         && (match r.2 with | .ok bs => decide (leValue bs % 2 ^ 32 ≠ 0) | .error _ => false) && decide (r.1.arrivals = y.arrivals)
         && decide (r.1.twin = y.twin) && decide (r.1.regs = y.regs) && decide (SMap.look y.twin.theirs 255 = none)
         && decide (y.get F.TWINSTAT_PEER 0 = 1))) = true := by decide +kernel

/-- Hearth's state changed. -/
def onHd (f : Hearth → Hearth) (s : State) : State := s.setHd (f s.hd)

/-- `Hearth`: the boot ROM with each strap, with slots that are not valid; a Hearth reset; an event to record; an update and its end; fuses;
SPDM; admission; bring-up. (Whether a signature verifies is a free value, so no state shows a valid slot.) -/
theorem witness_Hearth :
    (let boot := base.put F.HDSTAT_STATE 0 0
     base.inv && boot.inv && decide (boot.get F.HDSTAT_STATE 0 = 0) && boot.power.hrefclk && decide (base.get F.HDSTAT_STATE 0 ≠ 0)
     && ([0, 1, 2, 3] : List Nat).all (fun v => decide ((boot.put F.STRAPS_BOOT_SRC 0 v).get F.STRAPS_BOOT_SRC 0 = v))
     && !(onHd (fun h => { h with torn := some 1 }) boot).imageValid 1 && starts [false, false, true] && !starts [false, false, false]
     && base.hearthReady && decide (boot.hd.prefer = none)
     && (let e : EvRec := ⟨.moduleDrain, 0, List.replicate 14 0, false⟩
         let s : State := { base with events := [e] }
         decide (s.events = [e] ∧ e.data.length = 14) && decide (s.get F.LOGPTR_PCOUNT 0 < 32768)
         && decide (32768 ≤ (s.put F.LOGPTR_PCOUNT 0 32768).get F.LOGPTR_PCOUNT 0) && decide (s.hd.pldm.length < 1024)
         && decide ((s.put F.EVRCFG_EN 0 1).get F.EVRCFG_EN 0 = 1) && decide ((s.put F.EVRCFG_REFUSED 0 1).get F.EVRCFG_REFUSED 0 = 1))
     && base.updates && !base.hd.updating && (onHd (fun h => { h with updating := true }) base).hd.updating
     && decide ((base.put F.HDVER_VALID base.targetSlot 1).get F.HDVER_VALID base.targetSlot = 1)
     && (let v := (base.put F.HDVER_SVN (base.get F.HDSTAT_SLOT 0) 5).put F.HDFUSE_CTR 0 4
         decide (v.get F.HDFUSE_CTR 0 < 64 ∧ v.get F.HDFUSE_CTR 0 < v.get F.HDVER_SVN (v.get F.HDSTAT_SLOT 0)))
     && decide ((base.put F.HDFUSE_OLOCK 0 1).get F.HDFUSE_OLOCK 0 = 1) && decide (base.get F.HDFUSE_OLOCK 0 = 0)
     && (onHd (fun h => { h with negotiated := true }) base).hd.negotiated && !base.hd.negotiated
     && base.active && decide (base.get F.EDADMIT_STATE 3 = 1) && !bit (base.get F.FENCEOTH_ATT 0) 15 && decide (base.get F.D2DSTAT_WIDTH 15 ≠ 2)
     && (let p := (base.put F.LASERSTAT_PROBE 3 1).put F.PORTSTAT_STATE (portOf 3 11) 6
         decide (p.get F.LASERSTAT_PROBE 3 = 1 ∧ p.pstate (portOf 3 11) = 6))) = true := by decide +kernel

/-- `base` with a host port UP, queue 63 bound to its ring and one entry in it. -/
def onHost (f : HostLink → HostLink) : State :=
  let s := ((base.put F.PORTSTAT_STATE 43 3).put F.SQCFG_EN 63 1).put F.SQCFG_LOG2N 63 4
  let s := (s.put F.SQCFG_CQ 63 63).put F.SQDB_TAIL 63 1
  s.setHost (f s.host)

/-- A message of the KA-2 to ED3. -/
def fromKa2 (kind cls : Nat) (bs : List Byte) : InMsg := ⟨⟨edgeEp 3, ka2, edgeEp 3, cls⟩, base.dev, kind, 0, 0, bs, false⟩

/-- `HostLink`, register messages and doorbells: an access that is in order, and one that is not. -/
theorem witness_HostLink_registers :
    (let good := fromKa2 kREGRD 0 (leBytes 8 (0 + 4 * 2 ^ 40))
     let wr := fromKa2 kREGWR 0 (leBytes 8 (0 + 4 * 2 ^ 40) ++ leBytes 4 1)
     ([good, wr] : List InMsg).all (fun m => decide ((onInbox base m).fab.inbox[0]? = some m) && decide (m.key.dev = ka2) && (edgeDie m.key.ep).isSome)
     && accessOk 0 4 && !accessOk 2 4 && decide (good.data.length = 8) && decide (wr.data.length = 8 + 4) && decide (base.fab.out = [])
     && (let u := ((onInbox base wr).dropIn 0).writeSpace false 0 (leBytes 4 1)
         decide (u.fab.out = [] ∧ u.fab.inbox = []))
     && decide (2 ≤ base.get F.PWRSTAT_STATE 0 ∧ base.get F.PWRSTAT_STATE 0 ≤ 7)) = true := by decide +kernel

/-- `HostLink`, COMMAND_START: a queue whose turn it is, with no entry that waits and with one; entries that pass and that fail each check. -/
theorem witness_HostLink_start :
    (let s := onHost id
     let able := fun (u : State) (p : Nat) => u.queueServes p && u.queueFree p && !u.flushing p
     s.active && s.hostPath && decide (s.host.turn < 64) && decide (s.host.cmds = []) && able s 63
     && (List.range 63).all (fun p => !able s p) && decide (s.wantDie 63 = s.queueDie 63) && decide (SMap.look s.host.waiting 63 = none)
     && (let w := onHost fun h => { h with waiting := SMap.ins [] 63 (2 ^ 8) }
         decide (SMap.look w.host.waiting 63 = some (2 ^ 8)) && able w 63 && decide (bits (2 ^ 8) 7 0 = 0))
     && (let c : HostCmd := ⟨0, 63, 0, 1, 0, 0, 0, 1, 1, 0, none⟩
         (onHost fun h => { h with cmds := [c] }).queueBusy 63)
     && (let num := s.reg .NUMCFG 0
         let e := 1 + 2 ^ 10 + s.get F.INTEGCFG_CLASS 0 * 2 ^ 16 + s.get F.CRUSTCFG_LEVEL 0 * 2 ^ 17 + num * 2 ^ 256
         !s.badLaunch e && s.badLaunch (e + 2 ^ 64) && !s.draining && !numReserved num && !s.segsBad && !s.winsBad && !s.mailboxBad
         && bit e 10 && decide (s.host.job = false)
         && (List.range 4).all (fun t => !(s.ctx t .F).live)
         && (let b := s.setTile 0 tile0
             decide ((b.ctx 0 .F).run = .running)))
     && (let e := 2 + (s.capacity - 300) * 2 ^ 128 + 300 * 2 ^ 192
         !badDma e && decide (bits e 191 128 + bits e 255 192 ≤ s.capacity) && (s.hostTag (s.queueDie 63)).isSome && badDma (e + 2 ^ 16)
         && !badDma 2 && !badDma (e + 2 ^ 192) && decide (s.capacity < bits (e + 2 ^ 192) 191 128 + bits (e + 2 ^ 192) 255 192))) = true := by
  decide +kernel

/-- `HostLink`, completions, records and events: a launch whose contexts ended, with and without a fault; a DMA that moved everything; each
answer of the KA-2; a record and an event to write. -/
theorem witness_HostLink_completion :
    (let c : HostCmd := ⟨0, 63, 0, 1, 0, 0, 0, 1, 0, 0, none⟩
     let f : HostCmd := { c with nfault := 1, report := some (0, false, ⟨0, 0, 1, 0, false, false⟩) }
     let d : HostCmd := { c with entry := 2 + 8 * 2 ^ 192, pos := 8 }
     ([c, f, d] : List HostCmd).all (fun x => decide ((onHost fun h => { h with cmds := [x] }).hostCmd 0 = some x))
     && ([(HWhat.dmaIn 0 0 8, kDATA), (.dmaOut 0 8, kDONE), (.record 63, kDONE), (.event, kDONE), (.flush 63, kDONE)] : List (HWhat × Nat)).all (fun e =>
         let r : HReq := ⟨3, 0, e.1⟩
         let m := fromKa2 e.2 1 (leBytes 8 0)
         let s := onInbox (onHost fun h => { h with reqs := [r], cmds := [{ d with pos := 0 }] }) m
         decide (s.fab.inbox[0]? = some m) && decide (s.linkReq m = some r) && !s.dataWaits r)
     && (let r : HRec := ⟨63, 63, List.replicate 32 0, false⟩
         let s := ((onHost fun h => { h with recs := [r] }).put F.CQCFG_EN 63 1).put F.CQCFG_LOG2N 63 12
         decide (s.host.recs.find? (fun y => decide (y.ring = 63)) = some r) && decide (2 ^ s.get F.CQCFG_LOG2N 63 ≤ 4096)
         && decide ((s.get F.CQDB_TAIL 63 + 1) % 2 ^ s.get F.CQCFG_LOG2N 63 ≠ s.get F.CQDB_HEAD 63 % 2 ^ s.get F.CQCFG_LOG2N 63)
         && s.hostPath && s.hostRoom (s.queueDie 63) 2 && decide (s.hostTag (s.queueDie 63) = some 0) && decide (s.fab.out = []))
     && (let s := ((onHost fun h => { h with events := [1] }).put F.EVRCFG_EN 0 1).put F.EVRCFG_LOG2N 0 4
         decide (s.host.events = [1] ∧ s.host.evSent = none) && s.hearthReady && s.hostRoom (s.wantDie 0) 2
         && decide ((s.get F.EVRSTAT_TAIL 0 + 1) % 2 ^ 4 ≠ s.get F.EVRCFG_HEAD 0 % 2 ^ 4)
         && decide ((15 + 1) % 2 ^ 4 = s.get F.EVRCFG_HEAD 0 % 2 ^ 4))) = true := by decide +kernel

/-- `Resets`: each power state, with and without a reason to refuse sleep; a module that may start and one that may not; each band. -/
theorem witness_Resets :
    (base.inv && base.active && decide (base.mem.combs = []) && !base.sleepRefused && (onCtx id).sleepRefused
     && ([0, 6, 9] : List Nat).all (fun v => let s := base.put F.PWRSTAT_STATE 0 v
          decide (s.get F.PWRSTAT_STATE 0 = v) && !s.active && s.inv)
     && base.mayStart && !(onPower fun p => { p with pwrEn := false }).mayStart && decide (base.fencedUnits = [])
     && (let h := base.put F.PWRSTAT_STATE 0 0
         decide (h.get F.PWRSTAT_STATE 0 = 0 ∧ h.get F.HDSTAT_STATE 0 = 1))
     && ([.full, .limited, .lost, .gone] : List Band).all (fun b => decide ((onPower fun p => { p with band := b }).power.band = b))
     && (List.range 192).all (fun m => decide (base.get F.MCHMAP_ACTIVE m ≠ base.get F.MCHMAP_MAPOUT m)) && base.hearthReady
     && !base.dieBusy 7 && (onCtx id).dieBusy 0) = true := by decide +kernel

/-- `Registers`: an access in order, a bad one, an unused offset, a window that cannot be reached, each waiting register. -/
theorem witness_Registers :
    (base.mayAccess true && !(base.put F.HDSTAT_STATE 0 0).mayAccess true && base.active && accessOk 0 64 && !accessOk 0 3
     && (match winAt (Win.base .identity + Win.size .identity - 4) with
         | some w => (List.range 4).all fun i => (regAt w (Win.base .identity + Win.size .identity - 4 - w.base + i)).isNone
         | none => false)
     && decide ((base.put F.PWRSTAT_STATE 0 9).reach .fabric = 0) && (onCtx id).jobRuns && !base.jobRuns
     && decide (base.ask .POWERCAP 0 = none) && decide ((base.put F.PWRSTAT_STATE 0 9).get F.PWRSTAT_STATE 0 = 9)
     && ([.rtepoch, .chctl, .fabctl, .portctl, .cpctl, .bkctl, .rmctl, .rmalias, .dieref, .drainctl, .twinctl, .rstctl, .mchctl, .powercap,
          .hdctl] : List PendReg).all (fun r =>
         let e := r.count - 1
         let s : State := { base with asks := SMap.ins [] ((pendReg r).key e) ⟨true, 0, 1⟩ }
         decide (e < r.count) && decide (s.ask (pendReg r) e = some ⟨true, 0, 1⟩) && decide (base.ask (pendReg r) e = none))
     && decide ((base.chan 2047).queue = []) && decide (base.get F.RTEPOCH_PENDING 0 = 0)) = true := by decide +kernel

/-! ## Further witnesses: the other clauses of the statements -/

/-- `ContextEvents`: F cannot afford its next operation and L can; F runs again and L does not hold the tile back; a program that a fault
ended, started by a host command. -/
theorem witness_ContextEvents_credit_and_fault :
    (let s := onTile fun t => { t with credit := 100, ctxL := ctx0 }
     let x := s.tile 0
     decide (x.cur = .F) && s.lReady 0 && decide (x.ctxF.run = .running) && !s.affordable 0 0 && s.affordable 0 16
     && decide (x.ctxF.stall = .none)) = true
    ∧ (let s := onTile fun t => { t with ctxF := { ctx0 with run := .idle }, ctxL := ctx0 }
       s.lReady 0 && (s.tile 0).yields (s.tile 0).ctxF) = true
    ∧ (let s := onTile fun t => { t with cur := .L, ctxL := ctx0 }
       let x := s.tile 0
       decide (x.cur = .L) && !x.yields x.ctxF && s.affordable 0 0) = true
    ∧ (let f : FaultRec := ⟨0, 8, 2, 0, false, false⟩
       let s := onCtx fun x => { x with run := .stopping, endFault := some f, launch := some 5 }
       let k : HostCmd := { id := 5, queue := 0, index := 0, entry := 2 ^ 11, pos := 0, status := 0, info := 0, started := 0, left := 1, nfault := 0,
                            report := none }
       let s := { s with host := { s.host with cmds := [k] } }
       let x := s.ctx 0 .F
       decide (x.run = .stopping) && s.quiet 0 .F && decide (x.held = none) && decide (x.endFault ≠ none) && s.hearthReady
       && decide (x.launch = some 5) && decide (s.hostCmd 5 = some k) && bit k.entry 11) = true := by decide +kernel

/-- `VectorMemory`: an offset below the start of tile-local space. -/
theorem witness_VectorMemory_negative :
    (let s := onCtx fun x => x.wrS 5 0
     let f := { vf 2 3 0 0 with sa := 5, imm9 := 0x1FF }
     let va := vecAddr ((s.ctx 0 .F).rdS 5) 0x1FF
     s.goes h0 (encV 0x10 h0 f) (usesUnit (encV 0x10 h0 f)) true && decide (va % 4 = 0 ∧ va < 0)) = true := by decide +kernel

/-- `VectorConversion`: to a type of 4 bits, to FP64 from the upper half, and to the sliced operand. -/
theorem witness_VectorConversion_narrow_and_sliced :
    (([(2, 7), (2, 1 + 32), (1, 2 + 32), (1, 5 + 32), (2, 0x15 + 64), (1, 0x15 + 448)] : List (BitVec 5 × BitVec 9)).all fun e =>
      startsB (onCtx id) h0 .vector (encV 8 h0 { vf e.1 4 2 0 with imm9 := e.2 })) = true := by decide +kernel

/-- `MatrixStart`: ROWS = 0; manchor in a FAST job; no cell errs and no check is disturbed. -/
theorem witness_MatrixStart_empty_and_fast :
    (let o := queued (encM 0 h0 (mf 0 13 1)) 0 0x1000 0x180000
     let s := onQueue o
     (s.tile 0).startable o && decide ((MArgs.of s o).rows = 0)) = true
    ∧ (let o := queued (encM 3 h0 (mf 2 17 0)) 0 0x1000 0x180000
       let s := (onQueue o).setReg .NUMCFG 0 1
       (s.tile 0).startable o && (MArgs.of s o).num.fast && decide (0 < (MArgs.of s o).rows)) = true := by decide +kernel

/-- `UnitCompletion`: a started channel operation that was cancelled and a narrow access that may start and fails with
RACK_RETRY_LIMIT before it does. -/
theorem witness_UnitCompletion_narrow :
    (let o : UOp := ⟨0, .F, 0, .narrow, BitVec.ofNat 64 (encD 4 h0 (nf 5 0)), 0, 0, 0, 0, true, true, [], 0, true, [], [], [], []⟩
     decide (o.unit = .narrow ∧ 4 ≤ wOp o.word.toNat ∧ o.started = true ∧ o.due = [] ∧ o.cancelled = true)) = true
    ∧ (let o : UOp := ⟨0, .F, 0, .narrow, BitVec.ofNat 64 (encD 1 h0 (nf 0 32)), 0, 0x8005000000000040, 0, 0, false, false, [], 0, false, [], [], [], []⟩
       let s := onTile fun t => { t with ops := [o], seq := 1 }
       decide ((s.tile 0).op 0 = some o) && (s.tile 0).startable o && decide (cDET_ERROR ≤ cRACK_RETRY_LIMIT ∧ cRACK_RETRY_LIMIT ≤ cUNIT_FENCED)
       && decide ((s.ctx 0 .F).held = none ∧ (s.ctx 0 .F).endFault = none)) = true := by decide +kernel

/-- A RAW copy record with this descriptor, and descriptors whose source or destination lies on device `dev`. -/
def rawOf (desc : Nat) : Copy := { rawCopy 0 with desc := desc }
def fromRack (dev flags : Nat) : Nat := 2 ^ 63 + dev * 2 ^ 48 + (2 ^ 21 + 0x1000) * 2 ^ 64 + 300 * 2 ^ 128 + flags * 2 ^ 168
def toRack (dev flags : Nat) : Nat := (2 ^ 63 + dev * 2 ^ 48) * 2 ^ 64 + 300 * 2 ^ 128 + flags * 2 ^ 168

/-- `CopyRuns`: copies of no unit, from a module of the switch stage, to one beyond it, with a CRC, between tiles; and one with a corrected
read. -/
theorem witness_CopyRuns_starts :
    (([(rawDesc 0 - 300 * 2 ^ 128, 0), (toRack 64 0, 1), (fromRack 64 0, 1), (fromRack 63 0, 2), (rawDesc 1, 3), (rawDesc 0, 4)] : List (Nat × Nat)).all fun e =>
      let x := rawOf e.1
      let s := chan0 base x 1
      let u := (s.setTile 0 ((s.tile 0).takeToken 0)).copySram { x with started := true } .corrected
      let c := { x with started := true }
      !x.started && !(s.chan 0).held && !s.draining && s.active && (s.tile 0).tokenReady x.word.toNat && decide (s.gatewayHeld 0 < 256)
      && !s.locFull (s.copyDst x) 300 && decide (dOp x.desc = 0)
      && (match e.2 with
          | 0 => decide (dCount x.desc = 0)
          | 1 => decide (u.farDev c = some 64) && decide (s.farDev x = some 64)
          | 2 => decide (u.farDev c = none) && u.srcRemote c
          | 3 => decide (u.farDev c = none) && !u.srcRemote c && dCrc x.desc
          | _ => decide (u.farDev c = none) && !u.srcRemote c && !dCrc x.desc && (match (u.grantRaw c 300).2 with | .ok _ => true | .error _ => false))) = true := by
  decide +kernel

/-- `CopyRuns`: a read of a stack out of service fails. -/
theorem witness_CopyRuns_failing_read :
    (let x := rawOf (2 ^ 62 + (2 ^ 21 + 0x1000) * 2 ^ 64 + 300 * 2 ^ 128)
     let s := chan0 { base with power := { base.power with outs := List.range 12 } } x 1
     let c := { x with started := true }
     !s.srcRemote c && decide (s.farDev c = none) && (match (s.grantRaw c 300).2 with | .ok _ => false | .error _ => true)) = true := by decide +kernel

/-- `CopyRuns`: a cluster's bkput is ready for the engine, before channel 0; a completing copy stores its CRC and arrives, at home or on
module 5. -/
theorem witness_CopyRuns_put_and_arrival :
    (let p : Put := ⟨0, .F, 0, 0, 0, 0, 1, 0, 0, 0, 0, true, [0]⟩
     let s : State := { base with puts := [p], engines := SMap.set 0 [] 0 16 }
     decide (s.wantsPut 0 = some p) && decide (SMap.get 0 s.engines 0 = 16)) = true
    ∧ (([(7, false), (15, true)] : List (Nat × Bool)).all fun e =>
        let x := { rawOf (rawDesc e.1 + 0x2A10 * 2 ^ 192 + 5 * 2 ^ 208 + 2 ^ 224) with started := true, moved := true }
        let s := chan0 base x 1
        decide ((s.chan 0).queue = [x]) && decide (x.wait = 0) && !(s.tile 0).overflows 0 && dCrcWr x.desc && dArr x.desc
        && (decide (dCrem x.desc = true ∧ s.isOwn (dCdev x.desc) = false) == e.2) && decide ((s.ctx 0 .F).arrives = [])) = true := by
  decide +kernel

/-- `NarrowEffects`: a read whose sector fails, and a store and an atom into a fenced stack. -/
theorem witness_NarrowEffects_failing :
    (let o : UOp := ⟨0, .F, 0, .narrow, BitVec.ofNat 64 (encD 1 h0 (nf 0 32)), 0, 0x4000000000000040, 0, 0, false, false, [], 0, false, [], [], [], []⟩
     let s := onTile fun t => { t with ops := [o], seq := 1 }
     let s := { s with power := { s.power with outs := List.range 12 } }
     let m := s.markStarted 0 o
     (s.tile 0).startable o && !s.draining && s.active && !s.tileFenced 0 && !s.mirrorFull 64 32
     && (match (m.devRead 64 32 0 0).2 with | .ok _ => false | .error _ => true)
     && (m.devWrite 64 (List.replicate 32 1) 0 0 (some (0, .F, 0))).2.isSome
     && (match (m.atomic 64 32 0 0 0 (List.replicate 32 1) 0 0 (some (0, .F, 0))).2 with | .ok _ => false | .error _ => true)) = true := by decide +kernel

/-- `NarrowEffects`: an atom that succeeds. -/
theorem witness_NarrowEffects_atom :
    (let o : UOp := ⟨0, .F, 0, .narrow, BitVec.ofNat 64 (encD 3 h0 (nf 32 32)), 0, 0x4000000000000040, 0, 0, false, false, [], 0, false, [], [], [], []⟩
     let m := (onTile fun t => { t with ops := [o], seq := 1 }).markStarted 0 o
     bit o.word.toNat 5 && (match (m.atomic 64 32 0 0 1 (List.replicate 32 1) 0 0 (some (0, .F, 0))).2 with | .ok bs => decide (bs.length = 32) | .error _ => false)) = true := by
  decide +kernel

/-- `SyncCounters`, `CounterWaits`: counters of other modules, within the switch stage and beyond it, with the alias and without. -/
theorem witness_remote_counters :
    (let d := fun (v : Nat) => BitVec.ofNat 64 (2 ^ 24 + v * 2 ^ 16 + 7)
     let s := onCtx fun x => (x.wrS 1 (d 5)).wrS 2 (d 64)
     let al := s.put F.RMALIAS_VALID 0 1
     let x := s.ctx 0 .F
     let g : ArriveF := ⟨1, 0, true, 1, 0, true, 1, 0⟩
     let w : WaitF := ⟨7, false, true, 1, 0, 0⟩
     let a : ArmF := ⟨true, 1, 0, true, 9, 0⟩
     s.inv && decide ((s.counterRef x true 1 0).dev = some 5) && decide ((s.counterRef x true 2 0).dev = some 64)
     && !s.farWithoutAlias (some 5) && s.farWithoutAlias (some 64) && !al.farWithoutAlias (some 64)
     && runsB s h0 (encArrive h0 g) (usesY g.creg g.sc g.nimm g.sn) && runsB s h0 (encArrive h0 { g with sc := 2 }) (usesY true 2 true 0)
     && s.performed 0 .F 2 (s.tile 0).seq
     && runsB s h0 (encHead 6 4 h0 + 63 * 2 ^ 44 + 2 ^ 43 + 2 ^ 37) ⟨[1], [63]⟩
     && runsB s h0 (encWait h0 w) ⟨[1], [103]⟩
     && runsB s h0 (encArm 0 false h0 a) (usesY true 1 true 0) && runsB s h0 (encArm 3 true h0 a) (usesY true 1 true 0)
     && runsB s h0 (encArm 3 false h0 a) (usesY true 1 true 0)) = true := by decide +kernel

/-- `CollectiveArming`: a rank table in a fenced tile, which arms MEMERR; a free tag whose descriptor waits for its trigger. -/
theorem witness_CollectiveArming_memerr :
    (let s := (descAt0 bcast).setReg .FENCETILE 0 1
     decide (s.form (gRanktab bcast) = some (.tile 0 0x100)) && decide (gN bcast ≠ 0) && s.tileFenced 0 && !(s.tagAt (gTag bcast)).busy
     && !s.resvClash bcast && ({ Tag.free with exps := [] } : Tag).exps.all (fun e => decide ((sext 16 e).natAbs ≤ 1990))
     && decide ((s.armDesc bcast).2 = 0) && decide (((s.armDesc bcast).1.tagAt 5).reason = 4)) = true := by decide +kernel

/-- `CopyIssue`, `CollectiveArming`, `CollectiveLife`: what the reads of tile stores may meet: the descriptor's, that of a rank table in
the same tile, and that of SRC in an engine's turn. -/
theorem witness_reads_of_tile_stores :
    (let s := descAt0 bcast
     let open_ := onTag bcast 2
     ([.good, .corrected, .uncorrectable] : List Sram).all (fun m =>
       let h : Head := { h0 with sram := [(0, m)] }
       let f : XF := ⟨63, 1, 0, 0⟩
       let g : DF := ⟨0, 0, 1, 2, 3, 0, 0, 0, 0⟩
       decide (sramAt h.sram h.tile = m) && runsB s h (encX 3 h f) ⟨[1], [63]⟩ && (s.goes h (encD 0 h g) (usesD (encD 0 h g)) false)
       && s.covered 0 14 && decide (descCheck ((s.ctx 0 .F).rdS 1).toNat = none))
     && decide (descCheck 1 ≠ none)
     && decide (s.armTiles bcast = [0]) && decide (sramAt [] 0 = .good) && decide (sramAt [(0, .uncorrectable)] 0 = .uncorrectable)
     && decide (0 ∈ open_.engineTiles (open_.tagAt 5)) && decide ((open_.tagAt 5).fragFate 0 = 0)) = true := by decide +kernel

/-- `BucketPuts`: bkput without blocks beyond the accumulator store, and one whose address lies in tile store. -/
theorem witness_BucketPuts_ranges :
    (let put : XF := ⟨63, 1, 2, 1⟩
     let s := onRegs 0x17FFFF 5 0
     let u := onRegs 0x1FFFFF (BitVec.ofNat 64 (2 ^ 48 - 1)) 0
     runsB s h0 (encX 1 h0 put) ⟨[1, 2], [63]⟩ && decide (bits put.imm.toNat 15 14 = 0 ∧ 0x17FFFF < tileStoreEnd)
     && runsB u h0 (encX 1 h0 { put with imm := 0 }) ⟨[1, 2], [63]⟩ && decide ((u.ctx 0 .F).rdS 1 = 0x1FFFFF)
     && decide (((u.ctx 0 .F).rdS 2).toNat < 2 ^ 48)) = true := by decide +kernel

/-- `CollectiveLife`: an exchange at its deadline whose maps are written, one whose maps are not, and a tag that is not busy. -/
theorem witness_CollectiveLife_exchange :
    (let d := desc 0x20 2 1 0 (2 ^ 30 + 0x400) 0x1000 - 2 ^ 486 + 2 ^ 496 + 2 ^ 256 + 2 ^ 272 + 8 * 2 ^ 288
     let s := onTag d 2
     let v := s.setReg .FENCETILE 0 1
     (s.tagAt 5).live && !gNodl (s.tagAt 5).desc && isXa (s.tagAt 5).desc && (s.missingMaps 5).2 && !(v.missingMaps 5).2
     && decide ((s.tagAt 5).missing ≠ []) && !(base.tagAt 5).busy) = true := by decide +kernel

/-- `Dumbwaiter`: a flit the operation waits for, before another step and at its last step; a flit taken before, whose partner is sent the
last flit again. -/
theorem witness_Dumbwaiter_steps :
    (([(4, 0, true), (4, 1, false)] : List (Nat × Nat × Bool)).all fun e =>
       let d := 5 + 0x10 * 2 ^ 16 + e.1 * 2 ^ 48 + 8 * 2 ^ 96 + 0x1000 * 2 ^ 192 + 0x100 * 2 ^ 384 + 16 * 2 ^ 256
       let f : Flit := { Flit.empty with kind := 16, cls := 2, dep := homeEngine 5, resv := 16 + e.2.1 + 1, tag := gGen d, data := leBytes 8 7 }
       let x := { tagOf d 2 with step := e.2.1, value := leBytes 8 3 }
       let s := (base.setTag 5 x).setFab { base.fab with dwIn := [f] }
       decide (s.fab.dwIn[0]? = some f) && decide (s.dwTag f.dep f.resv f.tag = some 5) && x.dwWants f && decide (s.dwHeld = [])
       && decide ((dwSteps d)[x.step]?.isSome = true) && (((dwSteps d)[x.step + 1]?).isSome == e.2.2) && decide (0 < gCount d)
       && decide (s.form (gDst d) = some (.tile 0 0x1000)) && !s.tileFenced 0) = true
    ∧ (let d := 5 + 0x10 * 2 ^ 16 + 4 * 2 ^ 48 + 8 * 2 ^ 96 + 0x100 * 2 ^ 384 + 16 * 2 ^ 256
       let f : Flit := { Flit.empty with kind := 16, cls := 2, dep := homeEngine 5, resv := 16 + 1, tag := gGen d, sdev := 0 }
       let x := { tagOf d 2 with step := 1, ranks := [2, 1, 0, 3], dwSent := [(2, f)] }
       let s := base.setTag 5 x
       decide (s.dwTag f.dep f.resv f.tag = some 5) && !x.dwWants f
       && decide (∃ e ∈ (dwSteps d).take x.step, f.resv = gResv d + e.1)
       && decide ((List.range (gN d)).find? (fun r => decide (x.primary r = f.sdev)) = some 2)
       && decide (x.dwSent.find? (fun e => decide (e.1 = 2)) = some (2, f))) = true := by decide +kernel

/-- `FabricPlacement`: a malformed flit; every output full, with nothing carried and with a flit carried; one output left that is not
productive; an edge switch with no queue open, and with a deflection; the fabric off; a port whose buffer is full. -/
theorem witness_FabricPlacement_full :
    (let f := flitTo base.dev (homeEp 0) 0
     let r := homeEp 0 / 16 + 1
     ({ f with cls := 1 } : Flit).malformed
     && (match base.productive r f with | some outs => outs.all (fun o => decide ((placing [0, 0, 0, 0, 0] 0).free.getD o.1 0 = 0)) | none => false)
     && decide ((placing [0, 0, 0, 0, 0] 0).carried = []) && decide (({ placing [0, 0, 0, 0, 0] 0 with carried := [f] } : Placing).carried ≠ [])
     && (([0, 1, 2, 3] : List Nat).any fun o => let q := placing ((List.range 4).map fun k => if k = o then 1 else 0) 0
          (match base.productive r f with | some outs => outs.all (fun x => decide (q.free.getD x.1 0 = 0)) | none => false) && decide (0 < q.free.getD o 0))
     && (let off := base.put F.PWRSTAT_STATE 0 1
         !off.fabricOn)
     && (let away := flitTo 77 5 0
         let up := base.put F.PORTSTAT_STATE (portOf 0 6) 3
         let full := base.setEdge 0 { base.edge 0 with queues := [12, 13, 14, 15].flatMap fun k => List.replicate 8 (k, away) }
         (up.deflections 0 away).any (fun k => up.queueOpen 0 k 0) && (full.deflections 0 away).all (fun k => !full.queueOpen 0 k 0))
     && (let up := base.put F.PORTSTAT_STATE (portOf 0 6) 3
         let s := up.setLink 0 6 { up.link 0 6 with kept := List.replicate 64 ⟨0, List.replicate 8 Flit.empty⟩ }
         s.localUp 0 6 && decide (64 ≤ (s.link 0 6).kept.length))) = true := by decide +kernel

/-- `StreamDelivery`: a module that answers nothing; an unknown stream without SYN, and one beyond 16,384 streams; reason 8. -/
theorem witness_StreamDelivery_refusals :
    (let f := flitTo 0 5 0
     let off := (onFab fun b => { b with landed := [f] }).put F.PWRSTAT_STATE 0 5
     let u := onFab fun b => { b with landed := [f] }
     decide (off.fab.landed[0]? = some f) && !off.answers && decide (f.dep % 16 ≠ 7) && !off.takes 5
     && u.answers && !f.syn && decide (u.fab.ins.find? (fun j => decide (j.key = f.stream)) = none) && decide (f.fidx = 0)
     && (let v := 8 * 2 ^ 24 + 0x61 * 2 ^ 32 + 9 * 2 ^ 48
         let nack : Flit := { flitTo 0 5 0 with kind := kNACK, cls := 1, data := leBytes 8 v }
         let s := onFab fun b => { b with landed := [nack], out := [outMsg 0] }
         decide (s.fab.landed[0]? = some nack) && decide (bits (leValue nack.data) 31 24 = 8) && decide (s.fab.oldest inKey = some (outMsg 0)))) = true := by
  decide +kernel

/-- `StreamDelivery`: a full endpoint refuses a stream that SYN would open. -/
theorem witness_StreamDelivery_full :
    (List.replicate 16384 (⟨⟨5, 1, 0x61, 0⟩, 0, 1, []⟩ : InStream)).length = 16384 := List.length_replicate

/-- `LinkLayer`: the sixteenth replay. -/
theorem witness_LinkLayer_sixteenth :
    (let up := base.put F.PORTSTAT_STATE (portOf 3 6) 3
     let blk : Block := ⟨0, List.replicate 8 Flit.empty⟩
     let s := up.setLink 3 6 { up.link 3 6 with kept := [blk], asked := true, replays := 15 }
     s.localUp 3 6 && (s.link 3 6).asked && decide (15 ≤ (s.link 3 6).replays) && decide ((s.link 3 6).kept ≠ [])
     && !(up.link 3 6).asked && decide ((up.link 3 6).kept = [])) = true := by decide +kernel

/-- A training frame with this RSTAT. -/
def frameR (slot rstat : Nat) : List Byte :=
  let body := leBytes 1 9 ++ leBytes 1 3 ++ leBytes 1 slot ++ leBytes 1 0x18 ++ leBytes 2 0 ++ leBytes 1 rstat ++ List.replicate 71 0
  List.replicate 64 0 ++ body ++ leBytes 2 (frameCrc body)

set_option maxRecDepth 50000 in /-- `TrainingAndLocks`: a lane whose receive ring is lit and one that is dark; RSTAT with each of RXUP, WRONG and RETIRED; a
transmit ring that RXUP verifies; a closed output gate; no attempt in progress; a ring that fails with its first spare free and with no spare. -/
theorem witness_TrainingAndLocks_rings :
    (let b := fun (f : List Byte) j => (f.getD j 0).toNat
     let s := (((onPort 47 1 id).put F.RINGSTAT_SLOT (ringIx 47 33) 15).put F.RINGSTAT_LOCK (ringIx 47 33) 2).put F.RINGSTAT_SLOT (ringIx 47 15) 15
     let s := s.put F.RINGSTAT_LOCK (ringIx 47 15) 1
     s.lit 47 15 && !(s.put F.RINGSTAT_LOCK (ringIx 47 33) 5).lit 47 15 && !(s.rxLane 47 15).attempt && decide (s.lstate 47 15 ≠ 3 ∧ s.lstate 47 15 ≠ 4)
     && ([1, 2, 4] : List Nat).all (fun r => decide (frameCrc (((frameR 15 r).drop 64).take 78) = b (frameR 15 r) 142 + 256 * b (frameR 15 r) 143)
          && decide (b (frameR 15 r) 70 = r))
     && decide (s.ringOf 47 15 false = some 15) && decide (1 ≤ s.get F.RINGSTAT_LOCK (ringIx 47 15) ∧ s.get F.RINGSTAT_LOCK (ringIx 47 15) ≤ 3)
     && ({ s with shut := [47] } : State).shut.contains 47 && !s.shut.contains 47
     && (let l := (s.put F.RINGSTAT_LOCK (ringIx 47 15) 4).put F.RINGSTAT_SLOT (ringIx 47 16) 0x1F
         let l := (l.put F.RINGSTAT_SLOT (ringIx 47 17) 0x1F).put F.RINGSTAT_LOCK (ringIx 47 16) 6
         decide (l.get F.RINGSTAT_LOCK (ringIx 47 15) ≠ 6 ∧ l.get F.RINGSTAT_LOCK (ringIx 47 15) ≠ 0)
         && decide (l.get F.RINGSTAT_SLOT (ringIx 47 17) = 0x1F ∧ l.get F.RINGSTAT_LOCK (ringIx 47 17) ≠ 6 ∧ l.get F.RINGSTAT_LOCK (ringIx 47 16) = 6)
         && (let m := l.put F.RINGSTAT_LOCK (ringIx 47 17) 6
             (List.range 2).all fun q => decide (m.get F.RINGSTAT_SLOT (ringIx 47 (16 + q)) ≠ 0x1F ∨ m.get F.RINGSTAT_LOCK (ringIx 47 (16 + q)) = 6))
         && (let m := (l.put F.RINGSTAT_SLOT (ringIx 47 14) 0x1F).put F.RINGSTAT_LOCK (ringIx 47 14) 1
             decide (16 ≤ m.get F.RINGSTAT_SLOT (ringIx 47 14) ∧ m.get F.RINGSTAT_LOCK (ringIx 47 14) ≠ 0)))) = true := by decide +kernel

set_option maxRecDepth 50000 in /-- `PortLife`: a port in training with the fabric on, and with it off; blanked, with its rings off and on; a cube bundle in retrain; a
bundle that comes up again with blocks kept. -/
theorem witness_PortLife_cases :
    ((onPort 43 1 id).fabricOn && (onPort 43 2 id).fabricOn && !(onPort 43 0 fun u => u.put F.PWRSTAT_STATE 0 1).fabricOn
     && (let off := onPort 43 5 fun u => (List.range 36).foldl (fun v r => v.put F.RINGSTAT_LOCK (ringIx 43 r) 0) u
         off.ringsOff 43 && !(off.put F.RINGSTAT_LOCK (ringIx 43 35) 5).ringsOff 43 && decide (off.pstate 43 = 5))
     && (let s : State := { base with training := [23] }
         s.training.contains (6 * 3 + 5))
     && decide (base.pstate (base.rolePort 3 11) ≠ 3 ∧ base.pstate (base.rolePort 3 11) ≠ 4)
     && (let s := ((((base.put F.CPCUR_CUR 0 0).put F.PLBUND_EN 0 1).put F.PLLANE_BUNDLE 0 0).put F.LANESTAT_LSTATE 0 2).setRx 0 0 ⟨true, 0, 0, 1, false, false⟩
         let s := (seqFrom 1 95).foldl (fun u k => u.put F.PLLANE_BUNDLE k 7) s
         let s := (s.setLink 0 0 { s.link 0 0 with kept := [⟨0, List.replicate 8 Flit.empty⟩] }).put F.CPSTAT_NOTUP 0 1
         (s.get F.CPSTAT_NOTUP 0).testBit 0 && decide ((s.link 0 0).kept ≠ []) && s.unaffected 0 0 && s.bundleReady 0 0 0)) = true := by decide +kernel

/-- `MemoryReadBack`: a sector with one wrong byte, one of a stack out of service, and an empty access. -/
theorem witness_MemoryReadBack_errors :
    (let data := List.replicate 32 7
     let good := encodeSector false data
     let k := sectorKey 191 0 0
     let s : State := { base with mem := { base.mem with hbm := (List.range 36).foldl (fun m i => SMap.set 0 m (k * 36 + i) (BitVec.ofNat 8 (good.getD i 0))) [] } }
     decide (rdStored s.mem.hbm k = encodeSector false data) && data.all (fun y => decide (y < 256))
     && decide (decodeSector (flipBytes (rdStored s.mem.hbm k) [(0, 1), (1, 1), (2, 1)]) = .cor)
     && (let o := { base with power := { base.power with outs := [11] } }
         o.stackFenced 191)) = true := by decide +kernel

/-- `MemoryChannels`: a generator that runs, in write-only mode, over the last granule of a channel. -/
theorem witness_MemoryChannels_running :
    (let g : GenRun := { GenRun.reset with cfg := 1, range := 2 ^ 32 }
     let s := (base.put F.MCHSTAT_SERVICE 191 2).put F.MCHSTAT_TGRUN 191 1
     let s : State := { s with gens := SMap.set GenRun.reset [] 191 g }
     decide (s.get F.MCHSTAT_TGRUN 191 = 1) && decide (SMap.get GenRun.reset s.gens 191 = g)
     && (([0, 1, 2, 3] : List Nat).any fun c => decide (({ g with cfg := c } : GenRun).mode = 0))) = true := by decide +kernel

/-- `RemoteRequests`: malformed requests; a write that waits for the mirror; a read, a write and an atomic of a stack out of service; a request that was in
the agent's queue when a drain began; a reply that answers nothing. -/
theorem witness_RemoteRequests_refusals :
    (let on := fun (m : InMsg) => onInbox rack m
     let rd := req kREAD (256 * 2 ^ 48) []
     let bad := req kREAD (257 * 2 ^ 48) []
     let wr := req kWRITE (4 * 2 ^ 48) (List.replicate 4 1)
     let at_ := req kATOMIC (4 * 2 ^ 48 + 7 * 2 ^ 57) (List.replicate 4 1)
     let out := fun (m : InMsg) => ({ on m with power := { rack.power with outs := List.range 12 } } : State)
     decide (256 < bad.size) && decide ((req kWRITE (249 * 2 ^ 48) (List.replicate 249 1)).size = 249)
     && !atomLegal (bits at_.word 59 57) (bits at_.word 61 60) (bits at_.word 62 62) at_.size
     && (match ((out rd).devRead rd.addr rd.size 0 10).2 with | .ok _ => false | .error _ => true)
     && ((out wr).partialFault wr.addr wr.size).isSome
     && (let ok := req kATOMIC (4 * 2 ^ 48) (List.replicate 4 1)
         match ((out ok).atomic ok.addr ok.size 0 0 0 ok.rest ok.hint 10 none).2 with | .ok _ => false | .error _ => true)
     && (let d := (on rd).put F.DRAINSTAT_STATE 0 1
         decide (d.rackCheck rd.addr rd.size .read false = some 5) && decide (d.rackCheck rd.addr rd.size .read true = none))
     && decide ((onInbox base (reply kRDATA [])).answered (reply kRDATA []) = none)) = true := by decide +kernel

/-- 512 mirror copies of slice 0 that wait for their answers fill its places. -/
theorem witness_RemoteRequests_mirror_full :
    (List.replicate 512 (⟨0, .write, clusterEp 0, 9, 3, 0, 32, [], 0, 0, 0, .mirror 0 none, .sent, 0⟩ : ROp)).length = 512 := List.length_replicate

/-- `RetriesAndGateways`: a gateway's transfers to the far module, with a CRC and without, one that is not due, and one of a held channel; a run of
messages and none; a register over a failing sector. -/
theorem witness_RetriesAndGateways_gateway :
    (([0, 1] : List Nat).all fun crc =>
       let x := { rawOf (toRack 64 crc) with started := true, gateway := true, buf := if crc = 1 then List.replicate 300 1 else [] }
       let s := chan0 base x 1
       decide ((s.chan 0).queue = [x]) && decide (s.copyDst x = .rack 64 0) && (match s.copySrc x with | .rack _ _ => false | _ => true)
       && x.transferReady 0 true && (dCrc x.desc == decide (crc = 1)) && !({ x with wait := 1 } : Copy).transferReady 0 true
       && !(s.chan 0).held && s.answers && (crc = 1 || (match (s.rdLoc ((s.copySrc x).plus x.pos) (x.nextTransfer 0 true).2 x.hint).2 with | .ok bs => decide (bs.length = 300) | .error _ => false))
       && (let y := { rawOf (fromRack 64 crc) with started := true, gateway := true }
           decide ((chan0 base y 1).copySrc y = .rack 64 0) && y.transferReady 0 false)) = true
    ∧ (let m : InMsg := { req kREAD (8 * 2 ^ 48) [] with key := ⟨gatewayEp 0, 9, 0x66, 0⟩ }
       let w : InMsg := { req kWRITE (8 * 2 ^ 48) (List.replicate 8 1) with key := ⟨gatewayEp 0, 9, 0x66, 0⟩ }
       let u := onInbox rack m
       (u.runAt 0 m).isSome && decide ((onInbox rack w).runAt 0 w = none) && decide (m.key.cls = 0 ∧ m.key.ep % 16 = 6)
       && decide ((u.fab.inbox.filter fun y => decide (y.key = m.key)).length = 1)) = true
    ∧ (let c : Comb := ⟨sectorKey 191 0 7, 0, true, [1, 2, 3, 4], 0⟩
       let k := sectorKey 191 0 7
       let u : State := { base with mem := { base.mem with combs := [c], hbm := SMap.set 0 (SMap.set 0 (SMap.set 0 [] (k * 36) 1) (k * 36 + 1) 1) (k * 36 + 2) 1 } }
       decide (u.mem.combs.find? (fun x => decide (x.sector = k)) = some c) && decide (decodeSector (u.mem.sector 191 0 7) = .cor)) = true
    ∧ (let m : InMsg := { reply kRETRY (leBytes 8 2) with key := ⟨homeEngine 5, 9, homeEngine 5, 1⟩ }
       decide ((onInbox base m).answered m = none ∧ m.key.ep % 16 = 4)) = true := by decide +kernel

/-- `Governor`: a tile between two streamed rows, whose balance covers the next and whose balance does not; a write of POWERCAP by an agent that may,
by one that may not, and where the window cannot be reached; a cap that ends a sprint. -/
theorem witness_Governor_rows_and_writes :
    (let o := { queued (encM 0 h0 (mf 2 13 1)) 0 0x1000 0x180000 with started := true, due := [(0, 1), (0, 1)] }
     let s := onTile fun t => { t with ops := [o], credit := 2000 }
     let p := (onTile fun t => { t with ops := [o], credit := 1 }).setGov 0 { base.gov 0 with pool := 5000 }
     decide (s.cdieOf 0 = 0) && decide ((s.tile 0).inRows = some o) && decide ((s.tile 0).want = 0)
     && decide (0 < (p.rowsGoOn 0).deficit 0 ∧ (p.rowsGoOn 0).deficit 0 ≤ ((p.rowsGoOn 0).gov 0).pool) && p.inv) = true
    ∧ (base.mayAccess true && !(base.put F.HDSTAT_STATE 0 0).mayAccess true && decide (base.reach .governor = 2)
       && decide ((base.put F.PWRSTAT_STATE 0 9).reach .governor ≠ 2) && (base.put F.PWRSTAT_STATE 0 9).mayAccess true) = true
    ∧ (let run := (List.range 8).foldl (fun u d => u.put F.GOVSTAT_SPRINT d 1) base
       let low := run.put F.POWERCAP_WATTS 0 1999
       run.sprinting && low.hearthReady && decide (low.takePowercap.get F.POWERCAP_WATTS 0 < 2000)) = true := by decide +kernel

/-- `SprintAndThermal`: a unit whose sensors are not sampled, a trip at its threshold and one that is on, and bounds of a sprint's end. -/
theorem witness_SprintAndThermal_bounds :
    (let off := base.put F.PWRSTAT_STATE 0 0
     !off.sampled 0 && base.sampled 0 && base.sampled 27
     && (let on := base.put F.GOVSTAT_THROTTLE 7 1
         on.trip 7 1 && !base.trip 7 1) && decide (base.get F.GOVSTAT_FREQ 0 = 18)
     && !(onPower fun p => { p with shutdown := true, pwrEn := false }).mayStart) = true := by decide +kernel

/-- `Health`: a unit that a drain leaves in use, a stack that is fenced already, and a job that keeps the margin tests away. -/
theorem witness_Health_draining :
    (let d := base.put F.DRAINSTAT_STATE 0 1
     d.draining && !base.draining && bit ((base.put F.FENCEOTH_STACK 0 (2 ^ 11)).get F.FENCEOTH_STACK 0) 11 && !bit (base.get F.FENCEOTH_STACK 0) 11
     && (let h := base.put F.HDSTAT_STATE 0 0
         !h.hearthReady && !h.jobRuns) && !bit (base.get F.FENCEOTH_ATT 0) 15) = true := by decide +kernel

/-- `Twin`: a mirror write during a drain, early and not; a conflict; a beat of the same role and of another; a peer's record that waits; a mailbox
that cannot be read. -/
theorem witness_Twin_cases :
    (let s := onTwin id
     let m : InMsg := ⟨⟨homeEp 0, 9, 0x62, 0⟩, base.dev, kWRITE, 3, 0, leBytes 8 (32 * 2 ^ 48) ++ List.replicate 32 7, false⟩
     let u := onInbox s m
     (u.put F.DRAINSTAT_STATE 0 1).draining && !m.early && ({ m with early := true } : InMsg).early
     && decide ((u.put F.TWINSTAT_CONFLICT 0 1).get F.TWINSTAT_CONFLICT 0 = 1)
     && decide (0 % 2 = s.get F.TWINSTAT_ROLE 0 ∨ 1 % 2 = s.get F.TWINSTAT_ROLE 0) && s.bridgeUp && s.twin.present && !base.bridgeServes
     && (let x := (onTwin fun t => { t with theirs := SMap.ins [] 255 7 }).put F.TWINCFG_SHEN 0 1
         decide (SMap.look x.twin.theirs 255 = some 7) && x.active && decide (x.get F.TWINSTAT_PEER 0 = 1 ∧ x.get F.TWINSTAT_CONFLICT 0 = 0)
         && (match (x.devRead (x.get F.SHCFG_MBOX 0 * 4096 + 16 * 255) 12 0 0).2 with | .ok bs => decide (leValue bs % 2 ^ 32 = 0) | .error _ => false)
         && (let o := { x with power := { x.power with outs := List.range 12 } }
             match (o.devRead (o.get F.SHCFG_MBOX 0 * 4096 + 16 * 255) 12 0 0).2 with | .ok _ => false | .error _ => true))
     && (let n := onTwin fun t => { t with notice := some [0, 0, 0, 0] }
         (List.range 4).all fun i => decide (SMap.get 0 n.twin.got i = ([0, 0, 0, 0] : List Nat).getD i 0))) = true := by decide +kernel

/-- `Hearth`: a staged slot that is not valid, an update that may not start, a draining module whose link fails to come up, and its fenced
attachment. -/
theorem witness_Hearth_cases :
    (let boot := base.put F.HDSTAT_STATE 0 0
     let torn := onHd (fun h => { h with prefer := some 1, torn := some 1 }) boot
     decide (torn.hd.prefer = some 1) && !torn.imageValid 1 && decide (torn.get F.STRAPS_BOOT_SRC 0 = 0)
     && decide ((base.put F.HDVER_VALID base.targetSlot 0).get F.HDVER_VALID base.targetSlot = 0)
     && bit ((base.put F.FENCEOTH_ATT 0 (2 ^ 15)).get F.FENCEOTH_ATT 0) 15 && decide (base.get F.D2DSTAT_WIDTH 15 ≠ 2)
     && (let w := base.put F.D2DSTAT_WIDTH 15 2
         decide (w.get F.D2DSTAT_WIDTH 15 = 2)) && !(base.put F.HDSTAT_STATE 0 0).hearthReady) = true := by decide +kernel

/-- `HostLink`: no queue to serve, a queue that moves to another edge die, and a reply to no request. -/
theorem witness_HostLink_idle_and_flush :
    (decide (base.nextQueue = none) && base.active
     && (let s := onHost fun h => { h with qdie := SMap.set 0 [] 63 3 }
         decide (s.nextQueue = some 63) && s.active && s.hostPath && decide (s.wantDie 63 ≠ s.queueDie 63))
     && (let m := fromKa2 kDONE 1 (leBytes 8 0)
         decide ((onInbox base m).linkReq m = none ∧ m.key.dev = ka2))) = true := by decide +kernel

/-- `Resets`: no generator runs, no stack is out of service; a loss of the reference clock; a channel whose map changes at a warm reset. -/
theorem witness_Resets_cases :
    (decide (base.gens = [] ∧ base.power.outs = [] ∧ base.fencedUnits = []) && base.active
     && (let m := base.put F.MCHMAP_MAPOUT 191 1
         decide (m.get F.MCHMAP_ACTIVE 191 = m.get F.MCHMAP_MAPOUT 191))
     && (let h := base.put F.PWRSTAT_STATE 0 0
         h.mayStart && decide (h.get F.PWRSTAT_STATE 0 = 0))) = true := by decide +kernel

/-- `Registers`: actions that are refused and that are not; a cap that ends a sprint; a tile that waits for a counter; a window out of reach. -/
theorem witness_Registers_actions :
    (base.refuses true .RSTCTL 0 4 && !base.refuses true .RSTCTL 0 1 && (onCtx id).refuses false .DRAINCTL 0 2 && !base.refuses false .DRAINCTL 0 2
     && base.refuses false .TWINCTL 0 1
     && (let run := (List.range 8).foldl (fun u d => u.put F.GOVSTAT_SPRINT d 1) base
         let a : State := { run with asks := SMap.ins [] (Reg.POWERCAP.key 0) ⟨true, 0, 1999⟩ }
         a.sprinting && a.hearthReady && decide (a.ask .POWERCAP 0 = some ⟨true, 0, 1999⟩) && decide (1200 ≤ bits 1999 10 0 ∧ bits 1999 10 0 < 2000))
     && (let s := (onCounter 4 5 { ctx0 with stall := .wait 3 0 false false }).setCounter 3 { Counter.reset with count := 4, target := 5, waiters := [0] }
         decide ((s.tile 0).ctxF.stall = .wait 3 0 false false ∧ s.clusterOf 0 ∈ (s.counter 3).waiters))) = true := by decide +kernel

end Sys2Proof.Tests
end

/-! O3: every step keeps the canonical form. -/

namespace Sys2Proof.Machine
/-- The meaning of every command keeps the canonical form: each by the law of its own definition in Laws/Keep….lean. -/
theorem exec_keeps {s : State} (hs : s.inv = true) (i : Instr) : Out.keeps (exec i s) := by
  cases i with
  | nop => exact execNop_keeps hs
  | end_ => exact execEnd_keeps hs
  | contextEnded => exact execContextEnded_keeps hs
  | br => exact execBr_keeps hs
  | brl => exact execBrl_keeps hs
  | jr => exact execJr_keeps hs
  | jrl => exact execJrl_keeps hs
  | loop => exact execLoop_keeps hs
  | loopi => exact execLoopi_keeps hs
  | movi => exact execMovi_keeps hs
  | ldhi => exact execLdhi_keeps hs
  | mfc => exact execMfc_keeps hs
  | mtc => exact execMtc_keeps hs
  | fret => exact execFret_keeps hs
  | add => exact execAdd_keeps hs
  | sub => exact execSub_keeps hs
  | mul => exact execMul_keeps hs
  | mulhu => exact execMulhu_keeps hs
  | and_ => exact execAnd_keeps hs
  | or_ => exact execOr_keeps hs
  | xor_ => exact execXor_keeps hs
  | shl => exact execShl_keeps hs
  | shr => exact execShr_keeps hs
  | sra => exact execSra_keeps hs
  | min_ => exact execMin_keeps hs
  | max_ => exact execMax_keeps hs
  | minu => exact execMinu_keeps hs
  | maxu => exact execMaxu_keeps hs
  | addi => exact execAddi_keeps hs
  | andi => exact execAndi_keeps hs
  | ori => exact execOri_keeps hs
  | xori => exact execXori_keeps hs
  | shli => exact execShli_keeps hs
  | shri => exact execShri_keeps hs
  | srai => exact execSrai_keeps hs
  | pset => exact execPset_keeps hs
  | pseti => exact execPseti_keeps hs
  | plog => exact execPlog_keeps hs
  | lds => exact execLds_keeps hs
  | sts => exact execSts_keeps hs
  | trap => exact execTrap_keeps hs
  | rdtime => exact execRdtime_keeps hs
  | unitFault => exact execUnitFault_keeps hs
  | contextSwitchToL => exact execContextSwitchToL_keeps hs
  | contextSwitchToF => exact execContextSwitchToF_keeps hs
  | unitInstructionStart => exact execUnitInstructionStart_keeps hs
  | unitInstructionComplete => exact execUnitInstructionComplete_keeps hs
  | mmul => exact execMmul_keeps hs
  | mslice => exact execMslice_keeps hs
  | mread => exact execMread_keeps hs
  | manchor => exact execManchor_keeps hs
  | mclear => exact execMclear_keeps hs
  | vadd => exact execVadd_keeps hs
  | vsub => exact execVsub_keeps hs
  | vmul => exact execVmul_keeps hs
  | vfma => exact execVfma_keeps hs
  | vmin => exact execVmin_keeps hs
  | vmax => exact execVmax_keeps hs
  | vabs => exact execVabs_keeps hs
  | vneg => exact execVneg_keeps hs
  | vcvt => exact execVcvt_keeps hs
  | vcmp => exact execVcmp_keeps hs
  | vsel => exact execVsel_keeps hs
  | vand => exact execVand_keeps hs
  | vor => exact execVor_keeps hs
  | vxor => exact execVxor_keeps hs
  | vshl => exact execVshl_keeps hs
  | vshr => exact execVshr_keeps hs
  | vld => exact execVld_keeps hs
  | vst => exact execVst_keeps hs
  | vbcast => exact execVbcast_keeps hs
  | vext => exact execVext_keeps hs
  | vrsum => exact execVrsum_keeps hs
  | vrmax => exact execVrmax_keeps hs
  | vrmin => exact execVrmin_keeps hs
  | vperm => exact execVperm_keeps hs
  | vmovi => exact execVmovi_keeps hs
  | fexp => exact execFexp_keeps hs
  | flog => exact execFlog_keeps hs
  | frcp => exact execFrcp_keeps hs
  | frsq => exact execFrsq_keeps hs
  | cbload => exact execCbload_keeps hs
  | cbswap => exact execCbswap_keeps hs
  | cblook => exact execCblook_keeps hs
  | copy => exact execCopy_keeps hs
  | copyQueueFullStall => exact execCopyQueueFullStall_keeps hs
  | copyStart => exact execCopyStart_keeps hs
  | engineGrant => exact execEngineGrant_keeps hs
  | copyComplete => exact execCopyComplete_keeps hs
  | ldn => exact execLdn_keeps hs
  | stn => exact execStn_keeps hs
  | narrowComplete => exact execNarrowComplete_keeps hs
  | narrowPathFullStall => exact execNarrowPathFullStall_keeps hs
  | atom => exact execAtom_keeps hs
  | chrd => exact execChrd_keeps hs
  | chctlPause => exact execChctlPause_keeps hs
  | chctlResume => exact execChctlResume_keeps hs
  | chctlAbort => exact execChctlAbort_keeps hs
  | arm => exact execArm_keeps hs
  | arrive => exact execArrive_keeps hs
  | arrivalApplied => exact execArrivalApplied_keeps hs
  | wait => exact execWait_keeps hs
  | waitRetest => exact execWaitRetest_keeps hs
  | waitTimeout => exact execWaitTimeout_keeps hs
  | migrateDrain => exact execMigrateDrain_keeps hs
  | migrateDrainComplete => exact execMigrateDrainComplete_keeps hs
  | migrateDiscard => exact execMigrateDiscard_keeps hs
  | scread => exact execScread_keeps hs
  | twait => exact execTwait_keeps hs
  | tset => exact execTset_keeps hs
  | tread => exact execTread_keeps hs
  | fence => exact execFence_keeps hs
  | fenceComplete => exact execFenceComplete_keeps hs
  | tpush => exact execTpush_keeps hs
  | tpop => exact execTpop_keeps hs
  | bkarm => exact execBkarm_keeps hs
  | bkput => exact execBkput_keeps hs
  | bkrd => exact execBkrd_keeps hs
  | xfire => exact execXfire_keeps hs
  | xa2a => exact execXa2a_keeps hs
  | plansw => exact execPlansw_keeps hs
  | collOpen => exact execCollOpen_keeps hs
  | collFragment => exact execCollFragment_keeps hs
  | collDeadline => exact execCollDeadline_keeps hs
  | bkctlAbort => exact execBkctlAbort_keeps hs
  | rerunRequest => exact execRerunRequest_keeps hs
  | dwFlitReceived => exact execDwFlitReceived_keeps hs
  | dwHoldExpiry => exact execDwHoldExpiry_keeps hs
  | dwPartnerTimeout => exact execDwPartnerTimeout_keeps hs
  | routerPlacement => exact execRouterPlacement_keeps hs
  | edgeSwitchPlacement => exact execEdgeSwitchPlacement_keeps hs
  | messageDelivery => exact execMessageDelivery_keeps hs
  | ackSend => exact execAckSend_keeps hs
  | ackReceived => exact execAckReceived_keeps hs
  | nack => exact execNack_keeps hs
  | e2etoExpiry => exact execE2etoExpiry_keeps hs
  | streamForget => exact execStreamForget_keeps hs
  | linkBlockReceived => exact execLinkBlockReceived_keeps hs
  | nakReplay => exact execNakReplay_keeps hs
  | replayTimeout => exact execReplayTimeout_keeps hs
  | rtepochFlip => exact execRtepochFlip_keeps hs
  | epochHoldEnd => exact execEpochHoldEnd_keeps hs
  | trainingFrame => exact execTrainingFrame_keeps hs
  | verifyTimeout => exact execVerifyTimeout_keeps hs
  | lockAttemptTimeout => exact execLockAttemptTimeout_keeps hs
  | ringFailed => exact execRingFailed_keeps hs
  | portBringup => exact execPortBringup_keeps hs
  | portReset => exact execPortReset_keeps hs
  | portRetrain => exact execPortRetrain_keeps hs
  | lossOfLight => exact execLossOfLight_keeps hs
  | probe => exact execProbe_keeps hs
  | lightReturned => exact execLightReturned_keeps hs
  | laserHigh => exact execLaserHigh_keeps hs
  | laserHighClear => exact execLaserHighClear_keeps hs
  | laserLow => exact execLaserLow_keeps hs
  | spareTakeover => exact execSpareTakeover_keeps hs
  | spareRelease => exact execSpareRelease_keeps hs
  | cpctlGo => exact execCpctlGo_keeps hs
  | planSwitchComplete => exact execPlanSwitchComplete_keeps hs
  | bundleUp => exact execBundleUp_keeps hs
  | cacheSectorAccess => exact execCacheSectorAccess_keeps hs
  | patrolScrub => exact execPatrolScrub_keeps hs
  | takeOutOfService => exact execTakeOutOfService_keeps hs
  | returnToService => exact execReturnToService_keeps hs
  | channelLeavingDone => exact execChannelLeavingDone_keeps hs
  | channelFillDone => exact execChannelFillDone_keeps hs
  | startGenerator => exact execStartGenerator_keeps hs
  | stopGenerator => exact execStopGenerator_keeps hs
  | generatorDone => exact execGeneratorDone_keeps hs
  | remoteRead => exact execRemoteRead_keeps hs
  | remoteWrite => exact execRemoteWrite_keeps hs
  | remoteAtomic => exact execRemoteAtomic_keeps hs
  | remoteArrive => exact execRemoteArrive_keeps hs
  | rdata => exact execRdata_keeps hs
  | wack => exact execWack_keeps hs
  | aresult => exact execAresult_keeps hs
  | retry => exact execRetry_keeps hs
  | retryBackoffExpiry => exact execRetryBackoffExpiry_keeps hs
  | refuse => exact execRefuse_keeps hs
  | combineFold => exact execCombineFold_keeps hs
  | gatewayTransfer => exact execGatewayTransfer_keeps hs
  | gatewayApply => exact execGatewayApply_keeps hs
  | govRefill => exact execGovRefill_keeps hs
  | poolGrant => exact execPoolGrant_keeps hs
  | hearthPowerStep => exact execHearthPowerStep_keeps hs
  | powercapWrite => exact execPowercapWrite_keeps hs
  | powerOver => exact execPowerOver_keeps hs
  | powerOverClear => exact execPowerOverClear_keeps hs
  | sprintStart => exact execSprintStart_keeps hs
  | sprintEnd => exact execSprintEnd_keeps hs
  | sensorSample => exact execSensorSample_keeps hs
  | throttleFactorStep => exact execThrottleFactorStep_keeps hs
  | thermalShutdown => exact execThermalShutdown_keeps hs
  | powerupCommand => exact execPowerupCommand_keeps hs
  | drain => exact execDrain_keeps hs
  | drainComplete => exact execDrainComplete_keeps hs
  | marginTests => exact execMarginTests_keeps hs
  | linkLaneFail => exact execLinkLaneFail_keeps hs
  | linkDegraded => exact execLinkDegraded_keeps hs
  | healthDecay => exact execHealthDecay_keeps hs
  | healthSave => exact execHealthSave_keeps hs
  | heartbeatSend => exact execHeartbeatSend_keeps hs
  | heartbeatReceived => exact execHeartbeatReceived_keeps hs
  | peerLost => exact execPeerLost_keeps hs
  | mirrorWrite => exact execMirrorWrite_keeps hs
  | drainNotice => exact execDrainNotice_keeps hs
  | promotion => exact execPromotion_keeps hs
  | twinctlPromote => exact execTwinctlPromote_keeps hs
  | twinctlDetach => exact execTwinctlDetach_keeps hs
  | detachNotice => exact execDetachNotice_keeps hs
  | hostFailover => exact execHostFailover_keeps hs
  | hostFailback => exact execHostFailback_keeps hs
  | shadowCompare => exact execShadowCompare_keeps hs
  | shadowTimeout => exact execShadowTimeout_keeps hs
  | hearthBoot => exact execHearthBoot_keeps hs
  | hearthReset => exact execHearthReset_keeps hs
  | eventRecord => exact execEventRecord_keeps hs
  | requestUpdate => exact execRequestUpdate_keeps hs
  | verifyComplete => exact execVerifyComplete_keeps hs
  | activateFirmware => exact execActivateFirmware_keeps hs
  | commitSvn => exact execCommitSvn_keeps hs
  | spdmChallenge => exact execSpdmChallenge_keeps hs
  | spdmGetMeasurements => exact execSpdmGetMeasurements_keeps hs
  | setEndpointId => exact execSetEndpointId_keeps hs
  | i3cDynamicAddress => exact execI3cDynamicAddress_keeps hs
  | edgeAdmission => exact execEdgeAdmission_keeps hs
  | ucieBringup => exact execUcieBringup_keeps hs
  | regrd => exact execRegrd_keeps hs
  | regwr => exact execRegwr_keeps hs
  | sqDoorbell => exact execSqDoorbell_keeps hs
  | commandStart => exact execCommandStart_keeps hs
  | launchComplete => exact execLaunchComplete_keeps hs
  | dmaComplete => exact execDmaComplete_keeps hs
  | data => exact execData_keeps hs
  | done => exact execDone_keeps hs
  | completionRecord => exact execCompletionRecord_keeps hs
  | cqDoorbell => exact execCqDoorbell_keeps hs
  | eventRingWrite => exact execEventRingWrite_keeps hs
  | coldReset => exact execColdReset_keeps hs
  | modResetN => exact execModResetN_keeps hs
  | pwrEn => exact execPwrEn_keeps hs
  | inputLoss => exact execInputLoss_keeps hs
  | inputRestored => exact execInputRestored_keeps hs
  | inputOutOfBand => exact execInputOutOfBand_keeps hs
  | refclkLoss => exact execRefclkLoss_keeps hs
  | warmReset => exact execWarmReset_keeps hs
  | computeReset => exact execComputeReset_keeps hs
  | enterNap => exact execEnterNap_keeps hs
  | leaveNap => exact execLeaveNap_keeps hs
  | enterDeep => exact execEnterDeep_keeps hs
  | leaveDeep => exact execLeaveDeep_keeps hs
  | idleGate => exact execIdleGate_keeps hs
  | sccountWrite => exact execSccountWrite_keeps hs
  | sctargetWrite => exact execSctargetWrite_keeps hs
  | badRegisterAccess => exact execBadRegisterAccess_keeps hs
  | registerWrite => exact execRegisterWrite_keeps hs
  | writtenValueTakesEffect => exact execWrittenValueTakesEffect_keeps hs
  | lockLoss => exact execLockLoss_keeps hs
  | shadowRecordReceived => exact execShadowRecordReceived_keeps hs
  | twinPresN => exact execTwinPresN_keeps hs
  | hrefclkLoss => exact execHrefclkLoss_keeps hs
  | hrefclkRestored => exact execHrefclkRestored_keeps hs
  | inputBackInRange => exact execInputBackInRange_keeps hs
  | sprintCclkChange => exact execSprintCclkChange_keeps hs
  | dailyBucketRollover => exact execDailyBucketRollover_keeps hs
  | spdmNegotiateAlgorithms => exact execSpdmNegotiateAlgorithms_keeps hs
  | clearProtectedRegion => exact execClearProtectedRegion_keeps hs
  | faultNRelease => exact execFaultNRelease_keeps hs
  | blowOkeyhash => exact execBlowOkeyhash_keeps hs
  | dwSentFlitRelease => exact execDwSentFlitRelease_keeps hs
  | testPortAccess op => exact execTestPortAccess_keeps (y0 := op) hs

/-- The commands that wait are no part of the canonical form. -/
theorem State.inv_pending (s : State) (cs : List Instr) : State.inv { s with pending := cs } = s.inv := rfl

/-- One step keeps the canonical form: an empty queue leaves the state, and a command keeps it. -/
theorem step_keeps {s : State} (hs : s.inv = true) : Out.keeps (step s) := by
  unfold step
  cases s.pending with
  | nil => exact next_keeps hs
  | cons c rest => exact exec_keeps (s.inv_pending rest ▸ hs) c

/-- Settles O3: the front command is run on a canonical state, and every command's meaning keeps the canonical form. -/
theorem stepKeepsCanonical : Obligations.StepKeepsCanonical := by
  unfold Obligations.StepKeepsCanonical
  intro s t hs ht
  exact step_keeps hs t ht

end Sys2Proof.Machine

/-! Registers across the shared operations: what an event, a count and a penalty leave alone (R439, R409 to R411). -/

namespace Sys2Proof.Machine

/-- A field counts up and stays at its greatest value. -/
theorem State.get_bump_same (s : State) (f : Fld) (i n : Nat) (h : f.lo ≤ f.hi) (hw : f.hi < f.reg.spec.width) :
    (s.bump f i n).get f i = min (2 ^ (f.hi + 1 - f.lo) - 1) (s.get f i + n) := by
  unfold State.bump satTo
  rw [State.get_put_same _ _ _ _ h hw, Nat.mod_eq_of_lt, Nat.min_comm]
  have := Nat.two_pow_pos (f.hi + 1 - f.lo)
  omega

theorem State.reg_bump_other (s : State) {f : Fld} {q : Reg} {i j : Nat} (n : Nat) (hi : i < 2 ^ 24) (hj : j < 2 ^ 24)
    (h : q ≠ f.reg ∨ j ≠ i) : (s.bump f i n).reg q j = s.reg q j := State.reg_put_other s _ hi hj h

/-- Logging changes no register but LOGLOST (R439). -/
theorem State.reg_log (s : State) (e : Ev) (u : Nat) (d : List Byte) {q : Reg} {j : Nat} (hj : j < 2 ^ 24) (hq : q ≠ .LOGLOST) :
    (s.log e u d).reg q j = s.reg q j := by
  unfold State.log
  dsimp only
  split
  · rfl
  · split
    · rfl
    · exact State.reg_bump_other s 1 (by decide) hj (.inl hq)

theorem State.get_of_reg {s t : State} {f : Fld} {i : Nat} (h : t.reg f.reg i = s.reg f.reg i) : t.get f i = s.get f i := by
  unfold State.get
  rw [h]

section
variable {P : State → Prop} (hlog : ∀ u e x d, P u → P (u.log e x d)) {s : State}
include hlog

/-- What every event keeps, the crossings of WARN and EXPEL keep, if the mark of an expelled module keeps it too (R411). -/
theorem State.noteScores_keeps (hput : ∀ u : State, P u → P (u.put F.HEALTHFLAG_EXPELLED 0 1)) (hs : P s)
    (cls i u0 m0 u1 : Nat) : P (s.noteScores cls i u0 m0 u1) := by
  have hif : ∀ {c : Prop} [Decidable c] {u : State} (e : Ev) (x : Nat) (d : List Byte), P u → P (if c then u.log e x d else u) :=
    fun e x d hu => by split; exacts [hlog _ e x d hu, hu]
  unfold State.noteScores
  dsimp only
  have h2 := hif (c := s.get F.HSCFG_WARN 0 ≤ m0 ∧ s.moduleScore < s.get F.HSCFG_WARN 0) .healthLow 0
    (scoreData s.worstUnit.1 s.worstUnit.2 s.moduleScore)
    (hif (c := s.get F.HSCFG_WARN 0 ≤ u0 ∧ u1 < s.get F.HSCFG_WARN 0) .healthLow i (scoreData cls i u1) hs)
  split
  · exact hlog _ _ _ _ (hput _ h2)
  · exact h2

/-- A penalty keeps what events, the mark of an expelled module and another table of penalties keep (R409 to R411). -/
theorem State.penalise_keeps (hput : ∀ u : State, P u → P (u.put F.HEALTHFLAG_EXPELLED 0 1))
    (hpen : ∀ (u : State) p, P u → P { u with penalty := p }) (hs : P s) (cls i w : Nat) : P (s.penalise cls i w) :=
  State.noteScores_keeps hlog hput (hpen _ _ hs) _ _ _ _ _

end

/-- State `t` differs from `s` at most in registers, logged events and penalties. -/
def State.onlyRecords (t s : State) : Prop := ∃ r e p, t = { s with regs := r, events := e, penalty := p }

/-- So no tile, memory, counter or channel differs. -/
theorem State.onlyRecords_parts {s t : State} (h : t.onlyRecords s) :
    (∀ u, t.tile u = s.tile u) ∧ (∀ u c, t.ctx u c = s.ctx u c) ∧ t.mem = s.mem ∧ t.counters = s.counters ∧ t.chans = s.chans := by
  obtain ⟨r, e, p, rfl⟩ := h
  exact ⟨fun _ => rfl, fun _ _ => rfl, rfl, rfl, rfl⟩

theorem State.onlyRecords_put {s t : State} (h : t.onlyRecords s) (f : Fld) (i x : Nat) : (t.put f i x).onlyRecords s := by
  obtain ⟨r, e, p, rfl⟩ := h
  exact ⟨_, _, _, rfl⟩

theorem State.onlyRecords_log {s t : State} (h : t.onlyRecords s) (e : Ev) (u : Nat) (d : List Byte) :
    (t.log e u d).onlyRecords s := by
  obtain ⟨r, e', p, rfl⟩ := h
  unfold State.log
  dsimp only
  split
  · exact ⟨_, _, _, rfl⟩
  · split
    · exact ⟨_, _, _, rfl⟩
    · exact State.onlyRecords_put ⟨_, _, _, rfl⟩ _ _ _

/-- A penalty changes registers, events and penalties only, and counts only in LOGLOST and HEALTHFLAG. -/
theorem State.penalise_onlyRecords {s t : State} (h : t.onlyRecords s) (cls i w : Nat) : (t.penalise cls i w).onlyRecords s :=
  State.penalise_keeps (P := fun u => u.onlyRecords s) (fun _ e x d h => State.onlyRecords_log h e x d)
    (fun _ h => State.onlyRecords_put h _ _ _) (fun _ p h => by obtain ⟨r, e, p', rfl⟩ := h; exact ⟨r, e, p, rfl⟩) h cls i w

theorem State.reg_penalise (s : State) (cls i w : Nat) {q : Reg} {j : Nat} (hj : j < 2 ^ 24) (hq : q ≠ .LOGLOST)
    (hq' : q ≠ .HEALTHFLAG) : (s.penalise cls i w).reg q j = s.reg q j :=
  State.penalise_keeps (P := fun u => u.reg q j = s.reg q j) (fun u e x d h => (u.reg_log e x d hj hq).trans h)
    (fun u h => (State.reg_put_other u 1 (by decide) hj (.inl hq')).trans h)
    (fun u p h => (State.reg_congr (s := u) (t := { u with penalty := p }) rfl q j).trans h) rfl cls i w

/-- A corrected error of a tile store changes registers, events and penalties only (R394). -/
theorem State.sramNote_onlyRecords (s : State) (t : Nat) (x : Sram) : (s.sramNote t x).onlyRecords s := by
  have hs : s.onlyRecords s := ⟨_, _, _, rfl⟩
  cases x with
  | good => exact hs
  | corrected => exact State.penalise_onlyRecords (State.onlyRecords_put hs _ _ _) _ _ _
  | uncorrectable => exact hs

/-- It is counted once (R394). -/
theorem State.sramNote_counted (s : State) (t : Nat) : (s.sramNote t .corrected).counted s F.SRAMCNT_CORR 0 := by
  unfold State.counted State.sramNote
  rw [State.get_of_reg (State.reg_penalise _ _ _ _ (by decide) (by decide) (by decide)),
    State.get_bump_same _ _ _ _ (by decide) (by decide)]

end Sys2Proof.Machine

/-! What a write of tile-local bytes does (R3, R136, R156). -/

namespace Sys2Proof.Machine

/-! ## Bytes of a tile -/

/-- A byte reads what was written, every other byte what it read before, whatever unlisted bytes hold (R413). -/
@[simp] theorem Tile.rdByte_wrByte_any (t : Tile) (a b : Nat) (v : Byte) :
    (t.wrByte a v).rdByte b = if b = a then v else t.rdByte b := by
  cases h : t.fill with
  | none => exact Tile.rdByte_wrByte t a b v h
  | some f =>
    unfold Tile.wrByte Tile.rdByte
    simp only [h, SMap.get_ins]

theorem Tile.rdByte_wrBytes (t : Tile) (a b : Nat) (bs : List Byte) :
    (t.wrBytes a bs).rdByte b = if a ≤ b then (bs[b - a]?).getD (t.rdByte b) else t.rdByte b := by
  induction bs generalizing t a with
  | nil => simp [Tile.wrBytes]
  | cons v bs ih =>
    rw [Tile.wrBytes, ih, Tile.rdByte_wrByte_any]
    rcases Nat.lt_trichotomy b a with h | rfl | h
    · rw [if_neg (by omega), if_neg (by omega), if_neg (by omega)]
    · simp
    · rw [if_pos (by omega), if_neg (by omega), if_pos (by omega), show b - a = b - (a + 1) + 1 by omega,
        List.getElem?_cons_succ]

/-- Outside the bytes written nothing changes. -/
theorem Tile.rdByte_wrBytes_outside (t : Tile) {a b : Nat} {bs : List Byte} (h : ¬ (a ≤ b ∧ b < a + bs.length)) :
    (t.wrBytes a bs).rdByte b = t.rdByte b := by
  rw [Tile.rdByte_wrBytes]
  split
  · rw [List.getElem?_eq_none (by omega)]; rfl
  · rfl

/-- A write of bytes changes the store and nothing else of the tile. -/
theorem Tile.wrBytes_store (t : Tile) (a : Nat) (bs : List Byte) : ∃ m, t.wrBytes a bs = { t with store := m } := by
  induction bs generalizing t a with
  | nil => exact ⟨t.store, rfl⟩
  | cons v bs ih =>
    obtain ⟨m, hm⟩ := ih (t.wrByte a v) (a + 1)
    exact ⟨m, hm⟩

/-! ## The checker of a tile (R156) -/

theorem State.checkerOf_congr {s t : State} (hr : t.regs = s.regs) (hm : t.removed = s.removed) (u : Nat) :
    t.checkerOf u = s.checkerOf u := by
  unfold State.checkerOf State.tileInSlot State.clusterOf State.tileCount State.slotOf
  simp only [State.get_congr hr, hm]

/-- No tile is its own checker: the checker lies one cluster further. -/
theorem State.checkerOf_ne_self (s : State) (u : Nat) : s.checkerOf u ≠ some u := by
  unfold State.checkerOf
  split
  · intro h
    have hs := List.find?_some h
    simp only [decide_eq_true_eq] at hs
    have : Config.tilesPerCluster = 9 := rfl
    omega
  · exact nofun

/-! ## States that differ in tile stores only -/

/-- State `t` differs from `s` at most in the bytes of tile stores and in how many free values have been drawn. -/
def State.onlyStores (t s : State) : Prop :=
  { t with tiles := s.tiles, free := s.free } = s ∧ ∀ w, ∃ m, t.tile w = { s.tile w with store := m }

theorem State.onlyStores_refl (s : State) : s.onlyStores s := ⟨rfl, fun w => ⟨(s.tile w).store, rfl⟩⟩

theorem State.onlyStores_trans {s t u : State} (h : u.onlyStores t) (h' : t.onlyStores s) : u.onlyStores s := by
  obtain ⟨he, ht⟩ := h
  obtain ⟨he', ht'⟩ := h'
  refine ⟨?_, fun w => ?_⟩
  · rw [← he'] at ⊢
    rw [← he]
  · obtain ⟨m, hm⟩ := ht w
    obtain ⟨m', hm'⟩ := ht' w
    exact ⟨m, by rw [hm, hm']⟩

theorem State.onlyStores_checker {s t : State} (h : t.onlyStores s) (u : Nat) : t.checkerOf u = s.checkerOf u :=
  State.checkerOf_congr (by rw [← h.1]) (by rw [← h.1]) u

theorem State.onlyStores_ctx {s t : State} (h : t.onlyStores s) (u : Nat) (c : Ctxt) : t.ctx u c = s.ctx u c := by
  obtain ⟨m, hm⟩ := h.2 u
  unfold State.ctx
  rw [hm]
  cases c <;> rfl

/-! ## Writes of a tile and its checker -/

/-- The tile written and its checker take the bytes; every other tile is as it was. -/
theorem State.tile_putLocal (s : State) (u a w : Nat) (bs : List Byte) :
    (s.putLocal u a bs).tile w = if w = u ∨ s.checkerOf u = some w then (s.tile w).wrBytes a bs else s.tile w := by
  unfold State.putLocal
  cases hc : s.checkerOf u with
  | none => by_cases hw : w = u <;> simp [hw]
  | some c =>
    have hcu : c ≠ u := fun e => s.checkerOf_ne_self u (e ▸ hc)
    simp only [State.tile_setTile, Option.some.injEq, if_neg hcu]
    by_cases h : w = c
    · simp [h]
    · by_cases hw : w = u
      · simp [hw, Ne.symm hcu]
      · simp [h, hw, Ne.symm h]

theorem State.putLocal_onlyStores (s : State) (u a : Nat) (bs : List Byte) : (s.putLocal u a bs).onlyStores s := by
  refine ⟨?_, fun w => ?_⟩
  · unfold State.putLocal
    dsimp only
    split <;> rfl
  · rw [State.tile_putLocal]
    split
    · exact Tile.wrBytes_store _ _ _
    · exact ⟨(s.tile w).store, rfl⟩

/-- Every other byte of a tile is as before; so is every byte of a tile that is neither written nor its checker. -/
theorem State.rdByte_putLocal_outside (s : State) {u a w b : Nat} {bs : List Byte}
    (h : (w ≠ u ∧ s.checkerOf u ≠ some w) ∨ ¬ (a ≤ b ∧ b < a + bs.length)) :
    ((s.putLocal u a bs).tile w).rdByte b = (s.tile w).rdByte b := by
  rw [State.tile_putLocal]
  split
  · rename_i hw
    rcases h with ⟨h1, h2⟩ | h
    · exact absurd hw (by simp [h1, h2])
    · exact Tile.rdByte_wrBytes_outside _ h
  · rfl

/-! ## What overwriting operand bytes does (R136) -/

/-- One step of `State.spoil`: the free values that an output range of the array takes. -/
def State.spoil1 (u : State) (t : Nat) (r : Nat × Nat) : State :=
  State.putLocal { u with free := u.free + r.2 } t r.1
    ((List.range r.2).map fun i => BitVec.ofNat 8 (Config.unspecified (u.free + i)))

theorem State.spoil1_onlyStores (s : State) (t : Nat) (r : Nat × Nat) : (s.spoil1 t r).onlyStores s :=
  State.onlyStores_trans (State.putLocal_onlyStores _ _ _ _) ⟨rfl, fun w => ⟨(s.tile w).store, rfl⟩⟩

/-- The array's output ranges that a write of `n` bytes from `a` of tile `t` spoils. -/
def State.spoils (s : State) (t a n : Nat) : List (Nat × Nat) :=
  ((s.tile t).ops.filter fun o => o.started && o.inBytes.any fun r => decide (a < r.1 + r.2) && decide (r.1 < a + n)).flatMap
    UOp.outBytes

theorem State.spoil_eq (s : State) (t a n : Nat) : s.spoil t a n = (s.spoils t a n).foldl (fun u r => u.spoil1 t r) s := rfl

/-- A byte in none of the spoilt ranges is not spoilt, and conversely. -/
theorem State.spoilt_iff (s : State) (u a n b : Nat) :
    s.spoilt u a n b ↔ ∃ r ∈ s.spoils u a n, r.1 ≤ b ∧ b < r.1 + r.2 := by
  unfold State.spoilt State.spoils
  simp only [List.mem_flatMap, List.mem_filter, Bool.and_eq_true, List.any_eq_true, decide_eq_true_eq]
  constructor
  · rintro ⟨o, ho, hs, hr, r, hro, hb⟩
    exact ⟨r, ⟨o, ⟨ho, hs, hr⟩, hro⟩, hb⟩
  · rintro ⟨r, ⟨o, ⟨ho, hs, hr⟩, hro⟩, hb⟩
    exact ⟨o, ho, hs, hr, r, hro, hb⟩

/-- Writes of a list of ranges change stores only. -/
theorem State.spoilFold_onlyStores (s : State) (t : Nat) (rs : List (Nat × Nat)) :
    (rs.foldl (fun u r => u.spoil1 t r) s).onlyStores s := by
  induction rs generalizing s with
  | nil => exact s.onlyStores_refl
  | cons r rs ih => exact State.onlyStores_trans (ih _) (s.spoil1_onlyStores t r)

/-- They leave every byte outside the ranges, and every tile that is neither `t` nor its checker. -/
theorem State.rdByte_spoilFold (s : State) {t w b : Nat} {rs : List (Nat × Nat)}
    (h : (w ≠ t ∧ s.checkerOf t ≠ some w) ∨ ∀ r ∈ rs, ¬ (r.1 ≤ b ∧ b < r.1 + r.2)) :
    ((rs.foldl (fun u r => u.spoil1 t r) s).tile w).rdByte b = (s.tile w).rdByte b := by
  induction rs generalizing s with
  | nil => rfl
  | cons r rs ih =>
    have hc := State.onlyStores_checker (s.spoil1_onlyStores t r) t
    rw [List.foldl_cons, ih]
    · refine State.rdByte_putLocal_outside { s with free := s.free + r.2 } (h.imp id fun h => ?_)
      simpa using h r (by simp)
    · rw [hc]
      exact h.imp id fun h r' hr' => h r' (by simp [hr'])

theorem State.tile_spoil1_other (s : State) {t w : Nat} {r : Nat × Nat} (h : w ≠ t ∧ s.checkerOf t ≠ some w) :
    (s.spoil1 t r).tile w = s.tile w := by
  unfold State.spoil1
  rw [State.tile_putLocal]
  exact if_neg (not_or.2 h)

/-- Tiles other than `t` and its checker are as they were, whole. -/
theorem State.tile_spoilFold (s : State) {t w : Nat} {rs : List (Nat × Nat)} (h : w ≠ t ∧ s.checkerOf t ≠ some w) :
    (rs.foldl (fun u r => u.spoil1 t r) s).tile w = s.tile w := by
  induction rs generalizing s with
  | nil => rfl
  | cons r rs ih =>
    rw [List.foldl_cons, ih (s.spoil1 t r) (by rw [State.onlyStores_checker (s.spoil1_onlyStores t r)]; exact h),
      State.tile_spoil1_other s h]

/-! ## A write from outside the array -/

theorem State.wrLocal_onlyStores (s : State) (u a : Nat) (bs : List Byte) : (s.wrLocal u a bs).onlyStores s :=
  State.onlyStores_trans (State.spoilFold_onlyStores _ _ _) (State.putLocal_onlyStores _ _ _ _)

theorem State.tile_wrLocal_other (s : State) {u a w : Nat} {bs : List Byte} (h : w ≠ u) (hc : s.checkerOf u ≠ some w) :
    (s.wrLocal u a bs).tile w = s.tile w := by
  have hp := s.putLocal_onlyStores u a bs
  rw [State.wrLocal, State.spoil_eq, State.tile_spoilFold _ ⟨h, by rw [State.onlyStores_checker hp]; exact hc⟩,
    State.tile_putLocal, if_neg (by simp [h, hc])]

/-- The ranges a write spoils are those of the state before it: it leaves the queue as it is. -/
theorem State.spoils_putLocal (s : State) (u a : Nat) (bs : List Byte) (n : Nat) :
    (s.putLocal u a bs).spoils u a n = s.spoils u a n := by
  obtain ⟨m, hm⟩ := (s.putLocal_onlyStores u a bs).2 u
  unfold State.spoils
  rw [hm]

/-- A write of bytes stores those bytes in the tile and its checker, and no others but the spoilt ones (R136, R156). -/
theorem State.wrLocal_storesLocal (s : State) (u a : Nat) (bs : List Byte) {n : Nat} {v : Nat → Option Byte}
    (hn : bs.length = n) (hv : ∀ i, i < n → v i = bs[i]?) : (s.wrLocal u a bs).storesLocal s u a n v := by
  subst hn
  have hp := s.putLocal_onlyStores u a bs
  refine ⟨fun w hw b hb => ?_, fun w b hw hc => by rw [State.tile_wrLocal_other s hw hc]⟩
  rw [State.wrLocal, State.spoil_eq, State.spoils_putLocal, State.rdByte_spoilFold, State.tile_putLocal,
    if_pos (hw.imp id id), Tile.rdByte_wrBytes]
  · by_cases ha : a ≤ b
    · by_cases hb' : b < a + bs.length
      · rw [if_pos ha, if_pos ⟨ha, hb'⟩, hv _ (by omega)]
      · rw [if_pos ha, if_neg (by omega), List.getElem?_eq_none (by omega)]
    · rw [if_neg ha, if_neg (by omega)]; rfl
  · exact .inr fun r hr hrb => hb ((s.spoilt_iff u a _ b).2 ⟨r, hr, hrb⟩)

end Sys2Proof.Machine

/-! lds and sts (R69). -/

namespace Sys2Proof.Machine

/-! ## The address checks of lds and sts -/

theorem scalarCheck_misaligned {a n : Nat} (h : a % n ≠ 0) : scalarCheck a n = some (cALIGN, a) := if_pos h

theorem scalarCheck_good {a n : Nat} (h : a % n = 0) (hr : a + n ≤ localEnd) : scalarCheck a n = none := by
  unfold scalarCheck localCheck firstAtOrAbove
  rw [if_neg (not_not.2 h)]
  split
  · rfl
  · rw [if_neg (by omega), if_neg (by omega)]; rfl

theorem scalarCheck_reserved {a n : Nat} (hn : n ≠ 0) (h : a % n = 0) (hr : localEnd ≤ a) :
    scalarCheck a n = some (cLOCAL_RANGE, a) := by
  unfold scalarCheck localCheck firstAtOrAbove
  rw [if_neg (not_not.2 h), if_neg hn, if_pos hr]; rfl

/-! ## A context that has written one scalar register and gone on -/

theorem State.onlyS_of_ctx {s t : State} {h : Head} {d : Nat} {v : Word}
    (ht : t.ctx h.tile h.ctx = ((s.ctx h.tile h.ctx).wrS d v).advance) :
    t.onlyS s h d v ∧ t.keepsPV s h ∧ t.wentOn s h := by
  unfold State.onlyS State.keepsPV State.wentOn
  rw [ht]
  refine ⟨fun j => by rw [Ctx.rdS_advance, Ctx.rdS_wrS], ⟨fun j => ?_, fun r k => ?_, ?_⟩, ?_⟩
  · rw [Ctx.rdP_advance, Ctx.rdP_wrS]
  · rw [Ctx.rdLane_advance]; unfold Ctx.wrS; split <;> rfl
  · unfold Ctx.wrS Ctx.advance; split <;> exact ⟨rfl, rfl, rfl, rfl, rfl, rfl, rfl⟩
  · unfold Ctx.wrS Ctx.advance; split <;> rfl

/-- The same of a context that has gone on and written nothing. -/
theorem State.keepsS_of_ctx {s t : State} {h : Head} (ht : t.ctx h.tile h.ctx = (s.ctx h.tile h.ctx).advance) :
    t.keepsS s h ∧ t.keepsPV s h ∧ t.wentOn s h := by
  unfold State.keepsS State.keepsPV State.wentOn
  rw [ht]
  exact ⟨fun _ => rfl, ⟨fun _ => rfl, fun _ _ => rfl, rfl, rfl, rfl, rfl, rfl, rfl, rfl⟩, rfl⟩

/-! ## What a charge and a context's update leave of a tile -/

@[simp] theorem State.rdByte_pay (s : State) (t k u b : Nat) : ((s.pay t k).tile u).rdByte b = (s.tile u).rdByte b := by
  unfold State.pay
  rw [State.tile_setTile]
  split
  · subst_vars; rfl
  · rfl

@[simp] theorem State.token_pay (s : State) (t k u j : Nat) : ((s.pay t k).tile u).token j = (s.tile u).token j := by
  unfold State.pay
  rw [State.tile_setTile]
  split
  · subst_vars; rfl
  · rfl

@[simp] theorem State.rdByte_setCtx (s : State) (t : Nat) (c : Ctxt) (x : Ctx) (u b : Nat) :
    ((s.setCtx t c x).tile u).rdByte b = (s.tile u).rdByte b := by
  unfold State.setCtx
  rw [State.tile_setTile]
  split
  · subst_vars; cases c <;> rfl
  · rfl

@[simp] theorem State.token_setCtx (s : State) (t : Nat) (c : Ctxt) (x : Ctx) (u j : Nat) :
    ((s.setCtx t c x).tile u).token j = (s.tile u).token j := by
  unfold State.setCtx
  rw [State.tile_setTile]
  split
  · subst_vars; cases c <;> rfl
  · rfl

theorem State.tile_pay_other (s : State) {t u : Nat} (k : Nat) (h : u ≠ t) : (s.pay t k).tile u = s.tile u := by
  unfold State.pay
  rw [State.tile_setTile, if_neg h]

theorem State.tile_advance_other (s : State) {t u : Nat} (c : Ctxt) (h : u ≠ t) : (s.advance t c).tile u = s.tile u := by
  unfold State.advance State.setCtx
  rw [State.tile_setTile, if_neg h]

@[simp] theorem State.rdByte_advance (s : State) (t : Nat) (c : Ctxt) (u b : Nat) :
    ((s.advance t c).tile u).rdByte b = (s.tile u).rdByte b := State.rdByte_setCtx ..

theorem State.checkerOf_pay (s : State) (t k u : Nat) : (s.pay t k).checkerOf u = s.checkerOf u := State.checkerOf_congr rfl rfl u

theorem State.rdNat_pay (s : State) (t k u a n : Nat) :
    ((s.pay t k).tile u).rdNat a n = leValue ((List.range n).map fun i => (s.tile u).rdByte (a + i)) := by
  unfold Tile.rdNat Tile.rdBytes
  simp only [State.rdByte_pay]

/-- A charge leaves the operand ranges of the unit queue alone. -/
theorem State.spoilt_pay (s : State) (t k u a n b : Nat) : (s.pay t k).spoilt u a n b ↔ s.spoilt u a n b := by
  unfold State.spoilt State.pay
  rw [State.tile_setTile]
  split
  · subst_vars; rfl
  · rfl

/-! ## The bytes of a number -/

/-- Byte `i` of a number, lowest first (R3). -/
theorem leBytes_getElem? {n i : Nat} (v : Nat) (h : i < n) : (leBytes n v)[i]? = some (BitVec.ofNat 8 (v / 2 ^ (8 * i))) := by
  induction n generalizing v i with
  | zero => omega
  | succ n ih =>
    cases i with
    | zero => simp [leBytes]
    | succ i =>
      rw [leBytes, List.getElem?_cons_succ, ih _ (by omega), Nat.div_div_eq_div_mul,
        show 2 ^ (8 * (i + 1)) = 256 * 2 ^ (8 * i) by rw [Nat.mul_add, Nat.pow_add, Nat.mul_comm]]

/-! ## lds -/

section
variable {h : Head} {sd sa : BitVec 6} {size : BitVec 2} {imm : BitVec 32} {s : State}

/-- A load whose checks find a fault raises it (R69). -/
theorem execLds_fault (sram : Sram) {f : FaultAt}
    (hr : s.runs h (encC 0x26 h sd.toNat sa.toNat (size.toNat * 16) imm.toNat) ⟨[sa.toNat], [sd.toNat]⟩)
    (hf : scalarCheck (scalarAddr (s.ctx h.tile h.ctx) sa imm) (2 ^ size.toNat) = some f) :
    execLds h sd sa size imm sram s = .next (s.issueFault h.tile h.ctx f) := by
  unfold execLds
  rw [issue_goes hr.1]
  dsimp only
  rw [hf, State.perform_fault]

/-- A load whose checks find nothing, with a read that delivers: the register takes the bytes (R69, R394). -/
theorem execLds_delivers {sram : Sram} (hx : sram ≠ .uncorrectable)
    (hr : s.runs h (encC 0x26 h sd.toNat sa.toNat (size.toNat * 16) imm.toNat) ⟨[sa.toNat], [sd.toNat]⟩)
    (hf : scalarCheck (scalarAddr (s.ctx h.tile h.ctx) sa imm) (2 ^ size.toNat) = none) :
    ∃ u : State, u = (s.pay h.tile 16).sramNote h.tile sram ∧ execLds h sd sa size imm sram s
      = .next (u.setCtx h.tile h.ctx ((u.ctx h.tile h.ctx).wrS sd.toNat (BitVec.ofNat 64
          ((u.tile h.tile).rdNat (scalarAddr (s.ctx h.tile h.ctx) sa imm) (2 ^ size.toNat)))).advance) := by
  refine ⟨_, rfl, ?_⟩
  unfold execLds
  rw [issue_goes hr.1]
  dsimp only
  rw [hf]
  dsimp only
  rw [State.perform_go hr.2]
  cases sram with
  | good => rfl
  | corrected => rfl
  | uncorrectable => exact absurd rfl hx

/-- A load whose read fails delivers nothing (R394). -/
theorem execLds_fails
    (hr : s.runs h (encC 0x26 h sd.toNat sa.toNat (size.toNat * 16) imm.toNat) ⟨[sa.toNat], [sd.toNat]⟩)
    (hf : scalarCheck (scalarAddr (s.ctx h.tile h.ctx) sa imm) (2 ^ size.toNat) = none) :
    execLds h sd sa size imm .uncorrectable s = .next ((s.pay h.tile 16).sramFail h.tile) := by
  unfold execLds
  rw [issue_goes hr.1]
  dsimp only
  rw [hf]
  dsimp only
  rw [State.perform_go hr.2]

/-- A load of correct bytes writes its register and nothing else. -/
theorem lds_good (hf : scalarCheck (scalarAddr (s.ctx h.tile h.ctx) sa imm) (2 ^ size.toNat) = none) :
    s.writesS h (encC 0x26 h sd.toNat sa.toNat (size.toNat * 16) imm.toNat) ⟨[sa.toNat], [sd.toNat]⟩
      (.lds h sd sa size imm .good) sd.toNat (BitVec.ofNat 64 (leValue ((List.range (2 ^ size.toNat)).map fun i =>
        (s.tile h.tile).rdByte (scalarAddr (s.ctx h.tile h.ctx) sa imm + i)))) := by
  intro hr
  obtain ⟨u, hu, he⟩ := execLds_delivers (sram := .good) (by decide) hr hf
  obtain rfl : u = s.pay h.tile 16 := hu
  rw [State.rdNat_pay, State.ctx_pay] at he
  obtain ⟨hS, hPV, hon⟩ := State.onlyS_of_ctx (State.ctx_setCtx (s.pay h.tile 16) h.tile h.ctx _)
  exact ⟨_, he, hS, hPV, hon, State.elsewhere_pay ..⟩

/-- A corrected load writes its register, counts the error, and leaves bytes and tokens alone (R394). -/
theorem lds_corrected (hf : scalarCheck (scalarAddr (s.ctx h.tile h.ctx) sa imm) (2 ^ size.toNat) = none)
    (hr : s.runs h (encC 0x26 h sd.toNat sa.toNat (size.toNat * 16) imm.toNat) ⟨[sa.toNat], [sd.toNat]⟩) :
    ∃ t, execLds h sd sa size imm .corrected s = .next t ∧ t.keepsPV s h ∧ t.wentOn s h
      ∧ t.onlyS s h sd.toNat (BitVec.ofNat 64 (leValue ((List.range (2 ^ size.toNat)).map fun i =>
        (s.tile h.tile).rdByte (scalarAddr (s.ctx h.tile h.ctx) sa imm + i))))
      ∧ t.counted s F.SRAMCNT_CORR 0 ∧ t.mem = s.mem ∧ t.counters = s.counters ∧ t.chans = s.chans
      ∧ (∀ u b, (t.tile u).rdByte b = (s.tile u).rdByte b) ∧ ∀ u k, (t.tile u).token k = (s.tile u).token k := by
  obtain ⟨u, hu, he⟩ := execLds_delivers (sram := .corrected) (by decide) hr hf
  have hn : u.counted (s.pay h.tile 16) F.SRAMCNT_CORR 0 := hu ▸ State.sramNote_counted _ _
  obtain ⟨htile, hctx, hmem, hcnt, hchan⟩ := State.onlyRecords_parts
    (show u.onlyRecords (s.pay h.tile 16) from hu ▸ State.sramNote_onlyRecords _ _ _)
  rw [hctx, htile, State.ctx_pay, State.rdNat_pay] at he
  obtain ⟨hS, hPV, hon⟩ := State.onlyS_of_ctx (State.ctx_setCtx u h.tile h.ctx _)
  refine ⟨_, he, hPV, hon, hS, hn, hmem, hcnt, hchan, fun w b => ?_, fun w k => ?_⟩
  · rw [State.rdByte_setCtx, htile, State.rdByte_pay]
  · rw [State.token_setCtx, htile, State.token_pay]

/-! ## sts -/

theorem execSts_fault {f : FaultAt}
    (hr : s.runs h (encC 0x27 h sd.toNat sa.toNat (size.toNat * 16) imm.toNat) ⟨[sd.toNat, sa.toNat], []⟩)
    (hf : scalarCheck (scalarAddr (s.ctx h.tile h.ctx) sa imm) (2 ^ size.toNat) = some f) :
    execSts h sd sa size imm s = .next (s.issueFault h.tile h.ctx f) := by
  unfold execSts
  rw [issue_goes hr.1]
  dsimp only
  rw [hf, State.perform_fault]

/-- A store whose checks find nothing writes the low bytes of its register and goes on (R69). -/
theorem execSts_stores
    (hr : s.runs h (encC 0x27 h sd.toNat sa.toNat (size.toNat * 16) imm.toNat) ⟨[sd.toNat, sa.toNat], []⟩)
    (hf : scalarCheck (scalarAddr (s.ctx h.tile h.ctx) sa imm) (2 ^ size.toNat) = none) :
    execSts h sd sa size imm s = .next (((s.pay h.tile 16).wrLocal h.tile (scalarAddr (s.ctx h.tile h.ctx) sa imm)
      (leBytes (2 ^ size.toNat) ((s.ctx h.tile h.ctx).rdS sd.toNat).toNat)).advance h.tile h.ctx) := by
  unfold execSts
  rw [issue_goes hr.1]
  dsimp only
  rw [hf]
  dsimp only
  rw [State.perform_go hr.2, State.ctx_pay]

/-- A store changes stores, and the context and credit of its own tile, and nothing else. -/
theorem State.stored_frame (s : State) (h : Head) (k a : Nat) (bs : List Byte) :
    let t := ((s.pay h.tile k).wrLocal h.tile a bs).advance h.tile h.ctx
    { t with tiles := s.tiles, free := s.free } = s
      ∧ ∀ u, u ≠ h.tile → s.checkerOf h.tile ≠ some u → t.tile u = s.tile u := by
  refine ⟨?_, fun u hu hc => ?_⟩
  · exact congrArg (fun x : State => { x with tiles := s.tiles, free := s.free }) ((s.pay h.tile k).wrLocal_onlyStores h.tile a bs).1
  · rw [State.tile_advance_other _ _ hu, State.tile_wrLocal_other _ hu (by rwa [State.checkerOf_pay]), State.tile_pay_other _ _ hu]

/-- The bytes a store leaves are its own in its tile and the checker, and no others but the spoilt ones (R136, R156). -/
theorem State.stored_storesLocal (s : State) (h : Head) (k a n x : Nat) :
    (((s.pay h.tile k).wrLocal h.tile a (leBytes n x)).advance h.tile h.ctx).storesLocal s h.tile a n
      (fun i => some (BitVec.ofNat 8 (x / 2 ^ (8 * i)))) := by
  obtain ⟨hin, hout⟩ := (s.pay h.tile k).wrLocal_storesLocal h.tile a (leBytes n x) (leBytes_length n x)
    (v := fun i => some (BitVec.ofNat 8 (x / 2 ^ (8 * i)))) fun i hi => (leBytes_getElem? x hi).symm
  simp only [State.checkerOf_pay, State.spoilt_pay, State.rdByte_pay] at hin hout
  refine ⟨fun w hw b hb => ?_, fun w b hw hc => ?_⟩
  · rw [State.rdByte_advance]; exact hin w hw b hb
  · rw [State.rdByte_advance]; exact hout w b hw hc

/-- A store goes on and keeps every register of its context. -/
theorem State.stored_ctx (s : State) (h : Head) (k a : Nat) (bs : List Byte) :
    (((s.pay h.tile k).wrLocal h.tile a bs).advance h.tile h.ctx).ctx h.tile h.ctx = (s.ctx h.tile h.ctx).advance := by
  rw [State.advance, State.ctx_setCtx, State.onlyStores_ctx (State.wrLocal_onlyStores _ _ _ _), State.ctx_pay]

end

/-- Settles O11: each form is its checks, then its effect after the charge; the bytes are those of `wrLocal`. -/
theorem scalarMemory : Obligations.ScalarMemory := by
  unfold Obligations.ScalarMemory
  intro h sd sa size imm s
  have hn : 2 ^ size.toNat ≠ 0 := (Nat.two_pow_pos _).ne'
  refine ⟨fun ha hr => lds_good (scalarCheck_good ha hr), fun ha hr hs => ?_, fun hs ha hr => ?_, fun sram hs ha => ?_,
    fun hs ha => ?_, fun sram hs ha hr => ?_⟩
  · exact ⟨lds_corrected (scalarCheck_good ha hr) hs, execLds_fails hs (scalarCheck_good ha hr)⟩
  · obtain ⟨hframe, hother⟩ := State.stored_frame s h 16 (scalarAddr (s.ctx h.tile h.ctx) sa imm)
      (leBytes (2 ^ size.toNat) ((s.ctx h.tile h.ctx).rdS sd.toNat).toNat)
    obtain ⟨hS, hPV, hon⟩ := State.keepsS_of_ctx (State.stored_ctx s h 16 (scalarAddr (s.ctx h.tile h.ctx) sa imm) _)
    exact ⟨_, execSts_stores hs (scalarCheck_good ha hr), hS, hPV, hon, hframe, State.stored_storesLocal .., hother⟩
  · exact execLds_fault sram hs (scalarCheck_misaligned ha)
  · exact execSts_fault hs (scalarCheck_misaligned ha)
  · exact execLds_fault sram hs (scalarCheck_reserved hn ha hr)

end Sys2Proof.Machine

/-! What a warm reset keeps (Table 19-4), and a margin test that names a die the module does not have (R413). -/

namespace Sys2Proof.Machine

/-- A start whose margin test finds die 5 · 2^24 slow. In the state's table of registers that entry of GOVSTAT has the place of entry 0 of
DIEREF, the fifth register after GOVSTAT. -/
def strayFail : Start := ⟨0, true, [true], true, [], [], [.freq ((Reg.DIEREF.ctorIdx - Reg.GOVSTAT.ctorIdx) * 2 ^ 24) 17]⟩

theorem reset_active : State.reset.active = true := by decide +kernel

/-- The command names units of the module as far as its own check goes. -/
theorem strayFail_wellFormed : Instr.wellFormed (.warmReset false strayFail) = true := rfl

/-- The test's mark lands in DIEREF of die 0. -/
theorem strayFail_changes_dieref : (State.reset.warmReset false strayFail).reg .DIEREF 0 ≠ State.reset.reg .DIEREF 0 := by
  decide +kernel

/-- Refutes O59: a warm reset does not keep the plan registers when a margin test names a die the module lacks. The command
`warmReset false strayFail` at the reset state passes `Instr.wellFormed`, and its GOVSTAT write falls on DIEREF of die 0. The
statement has no hypothesis that the units in `o.fails` are the module's own. -/
theorem not_resets : ¬ Obligations.Resets := by
  unfold Obligations.Resets
  rintro ⟨-, hwarm, -⟩
  obtain ⟨t, ht, -, -, -, -, -, -, -, -, -, -, hplans, -⟩ := (hwarm false strayFail State.reset (by decide +kernel)).2 (.inl reset_active)
  have hd := hplans .DIEREF (by decide) 0 (by decide)
  have hnext : (State.reset.warmReset false strayFail) = t := Host.Outcome.next.inj ht
  exact strayFail_changes_dieref (hnext ▸ hd)

end Sys2Proof.Machine

/-! Accesses of the control space (R504 to R513): records, windows, parts, and the three ways a write of one part can go. -/

namespace Sys2Proof.Machine

/-! ## Fields of a register that was set -/

/-- A field of a register reads the value stored there. -/
theorem State.get_setReg_same (s : State) {f : Fld} {r : Reg} (i v : Nat) (hr : f.reg = r) (hw : f.hi < r.spec.width) :
    (s.setReg r i v).get f i = bits v f.hi f.lo := by
  subst hr
  unfold State.get
  rw [State.reg_setReg_same, bits_mod hw]

theorem bankOf_lt (hearth : Bool) : bankOf hearth < 2 ^ 24 := by cases hearth <;> decide

theorem bankOf_not_ne (hearth : Bool) : bankOf (!hearth) ≠ bankOf hearth := by cases hearth <;> decide

/-- State `t` differs from `s` in registers only. -/
def State.onlyRegs (t s : State) : Prop := { t with regs := s.regs } = s

theorem State.onlyRegs_refl (s : State) : s.onlyRegs s := rfl

theorem State.onlyRegs_put {t s : State} (h : t.onlyRegs s) (f : Fld) (i x : Nat) : (t.put f i x).onlyRegs s := h

theorem State.onlyRegs_bump {t s : State} (h : t.onlyRegs s) (f : Fld) (i n : Nat) : (t.bump f i n).onlyRegs s := h

/-! ## The record of an access (R511) -/

/-- State `t` is `s` with an access of kind `kind` at offset `off` recorded for its agent: CSLAST and CSCOUNT of that agent
and nothing else. -/
def State.recordedAs (t s : State) (hearth : Bool) (off kind : Nat) : Prop :=
  { t with regs := s.regs } = s
    ∧ t.get F.CSLAST_VALID (bankOf hearth) = 1 ∧ t.get F.CSLAST_KIND (bankOf hearth) = kind
    ∧ t.get F.CSLAST_OFFSET (bankOf hearth) = off % 2 ^ 40
    ∧ t.counted s F.CSCOUNT_COUNT (bankOf hearth) ∧ t.reg .CSLAST (bankOf (!hearth)) = s.reg .CSLAST (bankOf (!hearth))
    ∧ ∀ r k, k < 2 ^ 24 → r ∉ [Reg.CSLAST, .CSCOUNT] → t.reg r k = s.reg r k

/-- The three fields of CSLAST and the count, one after the other. -/
theorem State.record_eq (s : State) (hearth : Bool) (kind off : Nat) : s.record hearth kind off
    = (((s.put F.CSLAST_VALID (bankOf hearth) 1).put F.CSLAST_KIND (bankOf hearth) kind).put F.CSLAST_OFFSET (bankOf hearth) off).bump
      F.CSCOUNT_COUNT (bankOf hearth) 1 := rfl

/-- Only the agent's own CSLAST and CSCOUNT change. -/
theorem State.reg_record (s : State) (hearth : Bool) (kind off : Nat) {r : Reg} {k : Nat} (hk : k < 2 ^ 24)
    (h : (r ≠ .CSLAST ∧ r ≠ .CSCOUNT) ∨ k ≠ bankOf hearth) : (s.record hearth kind off).reg r k = s.reg r k := by
  have hb := bankOf_lt hearth
  have hl : r ≠ .CSLAST ∨ k ≠ bankOf hearth := h.imp And.left id
  have hc : r ≠ .CSCOUNT ∨ k ≠ bankOf hearth := h.imp And.right id
  rw [State.record_eq, State.reg_bump_other _ _ hb hk hc, State.reg_put_other _ _ hb hk hl,
    State.reg_put_other _ _ hb hk hl, State.reg_put_other _ _ hb hk hl]

theorem State.cslast_record (s : State) (hearth : Bool) (kind off : Nat) {g : Fld} (hg : g.reg = .CSLAST) :
    (s.record hearth kind off).get g (bankOf hearth)
      = (((s.put F.CSLAST_VALID (bankOf hearth) 1).put F.CSLAST_KIND (bankOf hearth) kind).put F.CSLAST_OFFSET
          (bankOf hearth) off).get g (bankOf hearth) := by
  have hb := bankOf_lt hearth
  rw [State.record_eq]
  exact State.get_of_reg (State.reg_bump_other _ _ hb hb (.inl (by rw [hg]; decide)))

theorem State.record_valid (s : State) (hearth : Bool) (kind off : Nat) :
    (s.record hearth kind off).get F.CSLAST_VALID (bankOf hearth) = 1 := by
  rw [State.cslast_record _ _ _ _ rfl,
    State.get_put_field (f := F.CSLAST_OFFSET) (g := F.CSLAST_VALID) _ _ _ rfl (by decide) (by decide) (.inl (by decide)),
    State.get_put_field (f := F.CSLAST_KIND) (g := F.CSLAST_VALID) _ _ _ rfl (by decide) (by decide) (.inl (by decide)),
    State.get_put_same _ _ _ _ (by decide) (by decide)]
  rfl

theorem State.record_kind (s : State) (hearth : Bool) {kind : Nat} (off : Nat) (hk : kind < 16) :
    (s.record hearth kind off).get F.CSLAST_KIND (bankOf hearth) = kind := by
  rw [State.cslast_record _ _ _ _ rfl,
    State.get_put_field (f := F.CSLAST_OFFSET) (g := F.CSLAST_KIND) _ _ _ rfl (by decide) (by decide) (.inl (by decide)),
    State.get_put_same _ _ _ _ (by decide) (by decide)]
  exact Nat.mod_eq_of_lt hk

theorem State.record_offset (s : State) (hearth : Bool) (kind off : Nat) :
    (s.record hearth kind off).get F.CSLAST_OFFSET (bankOf hearth) = off % 2 ^ 40 := by
  rw [State.cslast_record _ _ _ _ rfl, State.get_put_same _ _ _ _ (by decide) (by decide)]
  rfl

theorem State.record_counted (s : State) (hearth : Bool) (kind off : Nat) :
    (s.record hearth kind off).counted s F.CSCOUNT_COUNT (bankOf hearth) := by
  have hb := bankOf_lt hearth
  unfold State.counted
  rw [State.record_eq, State.get_bump_same _ _ _ _ (by decide) (by decide), State.get_put_other _ _ hb hb (.inl (by decide)),
    State.get_put_other _ _ hb hb (.inl (by decide)), State.get_put_other _ _ hb hb (.inl (by decide))]

theorem State.onlyRegs_record {t s : State} (h : t.onlyRegs s) (hearth : Bool) (kind off : Nat) :
    (t.record hearth kind off).onlyRegs s :=
  State.onlyRegs_bump (State.onlyRegs_put (State.onlyRegs_put (State.onlyRegs_put h _ _ _) _ _ _) _ _ _) _ _ _

theorem State.record_recordedAs (s : State) (hearth : Bool) {kind : Nat} (off : Nat) (hk : kind < 16) :
    (s.record hearth kind off).recordedAs s hearth off kind := by
  refine ⟨State.onlyRegs_record s.onlyRegs_refl _ _ _, s.record_valid _ _ _, s.record_kind _ _ hk, s.record_offset _ _ _, s.record_counted _ _ _, ?_, ?_⟩
  · exact s.reg_record _ _ _ (bankOf_lt _) (.inr (bankOf_not_ne _))
  · intro r k hk' hr
    exact s.reg_record _ _ _ hk' (.inl ⟨fun e => hr (by simp [e]), fun e => hr (by simp [e])⟩)

/-! ## Windows (Table 21-1) -/

theorem Win.mem_all (w : Win) : w ∈ Win.all := by cases w <;> decide

theorem Win.disjoint : ∀ w ∈ Win.all, ∀ v ∈ Win.all, w = v ∨ w.base + w.size ≤ v.base ∨ v.base + v.size ≤ w.base := by decide

/-- An offset inside a window is of that window. -/
theorem winAt_eq {w : Win} {off : Nat} (h : w.base ≤ off) (h' : off < w.base + w.size) : winAt off = some w := by
  unfold winAt
  cases hf : Win.all.find? fun v => decide (v.base ≤ off) && decide (off < v.base + v.size) with
  | none => exact absurd (List.find?_eq_none.1 hf w w.mem_all) (by simp [h, h'])
  | some v =>
    have hv := List.find?_some hf
    simp only [Bool.and_eq_true, decide_eq_true_eq] at hv
    rcases Win.disjoint v v.mem_all w w.mem_all with e | e | e
    · rw [e]
    · omega
    · omega

/-- An aligned access of a legal size wholly inside a window is legal (R507). -/
theorem accessOk_of {w : Win} {off size : Nat} (hs : size ∈ [4, 8, 16, 32, 64]) (ha : off % size = 0) (h : w.base ≤ off)
    (h' : off + size ≤ w.base + w.size) : accessOk off size = true := by
  unfold accessOk
  simp only [Bool.and_eq_true, List.contains_iff_mem, decide_eq_true_eq, List.any_eq_true]
  exact ⟨⟨hs, ha⟩, w, w.mem_all, h, h'⟩

/-! ## The parts of an access (R506) -/

section
variable {w : Win} {a : Nat} {b : Byte} {bs : List Byte}

theorem partsOf_cons_none (h : regAt w a = none) : partsOf w a (b :: bs) = partsOf w (a + 1) bs := by
  simp only [partsOf, h]

variable {r : Reg} {i k : Nat}

/-- A byte with no part behind it is a part of its own. -/
theorem partsOf_cons_last (h : regAt w a = some (r, i, k)) (hr : partsOf w (a + 1) bs = []) :
    partsOf w a (b :: bs) = [{ reg := r, ix := i, lo := k, bytes := [b] }] := by
  simp only [partsOf, h, hr]

/-- A byte joins a part of its own entry. -/
theorem partsOf_cons_same {p : Part} {ps : List Part} (h : regAt w a = some (r, i, k)) (hr : partsOf w (a + 1) bs = p :: ps)
    (hp : p.reg = r ∧ p.ix = i) : partsOf w a (b :: bs) = { p with lo := k, bytes := b :: p.bytes } :: ps := by
  simp only [partsOf, h, hr, if_pos hp]

/-- A byte before a part of another entry is a part of its own. -/
theorem partsOf_cons_other {p : Part} {ps : List Part} (h : regAt w a = some (r, i, k)) (hr : partsOf w (a + 1) bs = p :: ps)
    (hp : ¬ (p.reg = r ∧ p.ix = i)) : partsOf w a (b :: bs) = { reg := r, ix := i, lo := k, bytes := [b] } :: p :: ps := by
  simp only [partsOf, h, hr, if_neg hp]

end

/-- Bytes that fall on no register make no part. -/
theorem partsOf_nil {w : Win} {a : Nat} {bs : List Byte} (h : ∀ i, i < bs.length → regAt w (a + i) = none) :
    partsOf w a bs = [] := by
  induction bs generalizing a with
  | nil => rfl
  | cons b bs ih =>
    have h0 : regAt w a = none := h 0 (by simp)
    rw [partsOf_cons_none h0]
    exact ih fun i hi => by rw [show a + 1 + i = a + (i + 1) by omega]; exact h _ (by simp; omega)

/-- A byte that falls on a register makes a part. -/
theorem partsOf_ne_nil {w : Win} {a : Nat} {bs : List Byte} (h : ∃ i, i < bs.length ∧ regAt w (a + i) ≠ none) :
    partsOf w a bs ≠ [] := by
  induction bs generalizing a with
  | nil => obtain ⟨i, hi, -⟩ := h; simp at hi
  | cons b bs ih =>
    rcases hr : regAt w a with _ | ⟨r, e, k⟩
    · rw [partsOf_cons_none hr]
      obtain ⟨i, hi, hne⟩ := h
      cases i with
      | zero => exact absurd hr hne
      | succ i => exact ih ⟨i, by simpa using hi, by rwa [show a + 1 + i = a + (i + 1) by omega]⟩
    · rcases hps : partsOf w (a + 1) bs with _ | ⟨p, ps⟩
      · rw [partsOf_cons_last hr hps]
        exact List.cons_ne_nil _ _
      · by_cases hp : p.reg = r ∧ p.ix = e
        · rw [partsOf_cons_same hr hps hp]
          exact List.cons_ne_nil _ _
        · rw [partsOf_cons_other hr hps hp]
          exact List.cons_ne_nil _ _

/-- Bytes that fall on one entry of a register, in order, make one part. -/
theorem partsOf_single {w : Win} {a lo : Nat} {r : Reg} {e : Nat} {bs : List Byte} (hne : bs ≠ [])
    (h : ∀ i, i < bs.length → regAt w (a + i) = some (r, e, lo + i)) :
    partsOf w a bs = [{ reg := r, ix := e, lo := lo, bytes := bs }] := by
  induction bs generalizing a lo with
  | nil => exact absurd rfl hne
  | cons b bs ih =>
    have h0 : regAt w a = some (r, e, lo) := h 0 (by simp)
    by_cases hb : bs = []
    · subst hb
      exact partsOf_cons_last h0 rfl
    · have hrest := ih hb (a := a + 1) (lo := lo + 1) fun i hi => by
        rw [show a + 1 + i = a + (i + 1) by omega, h _ (by simp; omega), show lo + 1 + i = lo + (i + 1) by omega]
      exact partsOf_cons_same h0 hrest ⟨rfl, rfl⟩

/-! ## Writes -/

/-- With no power in its window a part is written nowhere (R513). -/
theorem State.writePart_unreached (s : State) (hearth : Bool) (off : Nat) (p : Part) :
    (s.writePart hearth off 0 p).1 = s ∧ (s.writePart hearth off 0 p).2 ≠ .applied := by
  unfold State.writePart
  dsimp only
  split
  · exact ⟨rfl, nofun⟩
  · rw [if_pos (by decide)]
    exact ⟨rfl, nofun⟩

/-- The parts of an unreached access leave the state alone, and none of them is applied. -/
theorem State.writeParts_unreached (s : State) (hearth : Bool) (off : Nat) (ps : List Part) (vs : List Verdict)
    (hvs : ∀ v ∈ vs, v ≠ .applied) :
    let q := ps.foldl (fun (a : State × List Verdict) p =>
      let x := a.1.writePart hearth off 0 p
      (x.1, x.2 :: a.2)) (s, vs)
    q.1 = s ∧ ∀ v ∈ q.2, v ≠ .applied := by
  induction ps generalizing vs with
  | nil => exact ⟨rfl, hvs⟩
  | cons p ps ih =>
    obtain ⟨h1, h2⟩ := s.writePart_unreached hearth off p
    rw [List.foldl_cons]
    dsimp only
    rw [h1]
    exact ih _ fun v hv => (List.mem_cons.1 hv).elim (fun e => e ▸ h2) (hvs v)

theorem verdicts_lost {vs : List Verdict} (h : ∀ v ∈ vs, v ≠ .applied) :
    (vs.contains .barred || vs.all fun v => decide (v = .nothing)) = true := by
  by_cases hb : Verdict.barred ∈ vs
  · simp [hb]
  · rw [Bool.or_eq_true]
    right
    rw [List.all_eq_true]
    intro v hv
    cases v with
    | applied => exact absurd rfl (h _ hv)
    | barred => exact absurd hv hb
    | nothing => rfl

section
variable {s : State} {hearth : Bool} {off : Nat} {data : List Byte} {w : Win}

/-- An access that may be made and is legal writes its window. -/
theorem State.access_ok (hm : s.mayAccess hearth = true) (ho : accessOk off data.length = true) :
    s.access hearth off data = s.writeSpace hearth off data := by
  unfold State.access
  rw [hm, ho]
  rfl

theorem State.writeSpace_unused (hw : winAt off = some w) (hp : partsOf w (off - w.base) data = []) :
    s.writeSpace hearth off data = s.record hearth 1 off := by
  unfold State.writeSpace
  rw [hw]
  dsimp only
  rw [if_pos hp]

theorem State.writeSpace_unreached (hw : winAt off = some w) (hp : partsOf w (off - w.base) data ≠ []) (hr : s.reach w = 0) :
    s.writeSpace hearth off data = s.record hearth 3 off := by
  obtain ⟨h1, h2⟩ := s.writeParts_unreached hearth off (partsOf w (off - w.base) data) [] (by simp)
  unfold State.writeSpace
  rw [hw]
  dsimp only at h1 h2 ⊢
  rw [if_neg hp, hr, if_pos (verdicts_lost h2), h1]
  rfl

variable {p : Part}

/-- A write of one part that is applied does what the part does (R509). -/
theorem State.writeSpace_applied (hw : winAt off = some w) (hp : partsOf w (off - w.base) data = [p]) (hr : s.reach w = 2)
    (hreach : p.reaches hearth = true) (hb : s.barred hearth p (s.entry hearth p.reg p.ix) = false) :
    s.writeSpace hearth off data = s.applyPart hearth p (s.entry hearth p.reg p.ix) off := by
  unfold State.writeSpace
  simp [hw, hp, hr, State.writePart, hreach, hb]

/-- A write of one part that a rule bars marks a refused action, does nothing else, and is recorded (R509, R511). -/
theorem State.writeSpace_barred (hw : winAt off = some w) (hp : partsOf w (off - w.base) data = [p]) (hr : s.reach w = 2)
    (hreach : p.reaches hearth = true) (hb : s.barred hearth p (s.entry hearth p.reg p.ix) = true) :
    s.writeSpace hearth off data = (if s.refuses hearth p.reg (s.entry hearth p.reg p.ix) p.code
      then s.markRefused p.reg (s.entry hearth p.reg p.ix) p.code else s).record hearth 2 off := by
  unfold State.writeSpace
  simp [hw, hp, hr, State.writePart, hreach, hb]

/-- A write of one part that reaches no field the agent can change does nothing and is recorded (R509, R511). -/
theorem State.writeSpace_nothing (hw : winAt off = some w) (hp : partsOf w (off - w.base) data = [p]) (hr : s.reach w = 2)
    (hreach : p.reaches hearth = false) : s.writeSpace hearth off data = s.record hearth 2 off := by
  unfold State.writeSpace
  simp [hw, hp, hr, State.writePart, hreach]

end

end Sys2Proof.Machine

/-! The value of a register after a write, field by field (R6, Table 0-3). -/

namespace Sys2Proof.Machine

/-! ## Bits of a merged value -/

theorem testBit_bits (v hi lo i : Nat) : (bits v hi lo).testBit i = (decide (i < hi + 1 - lo) && v.testBit (lo + i)) := by
  unfold bits
  rw [Nat.testBit_mod_two_pow, Nat.testBit_div_two_pow, Nat.add_comm lo]

/-- Under a mask of the low `k` bits a field below `k` takes the data. -/
theorem bits_mergeBits_low (old d : Nat) {k hi lo : Nat} (h : hi < k) :
    bits (mergeBits old d (2 ^ k - 1)) hi lo = bits d hi lo := by
  refine Nat.eq_of_testBit_eq fun i => ?_
  rw [testBit_bits, testBit_bits]
  by_cases hi' : i < hi + 1 - lo
  · have hk : lo + i < k := by omega
    unfold mergeBits
    rw [Nat.testBit_or, Nat.testBit_xor, Nat.testBit_and, Nat.testBit_and, Nat.testBit_two_pow_sub_one]
    simp [hk]
  · simp [hi']

theorem bits_and_low (d : Nat) {k hi lo : Nat} (h : hi < k) : bits (d &&& (2 ^ k - 1)) hi lo = bits d hi lo := by
  rw [Nat.and_two_pow_sub_one_eq_mod, bits_mod h]

/-- One bit, cleared by a one (Table 0-3). -/
theorem clear_bit {o x : Nat} (ho : o ≤ 1) (hx : x ≤ 1) : o ^^^ (o &&& x) = if x = 1 then 0 else o := by
  interval_cases o <;> interval_cases x <;> rfl

theorem bit_iff (v i : Nat) : bit v i = true ↔ bits v i i = 1 := by
  unfold bit bits
  rw [show i + 1 - i = 1 by omega, decide_eq_true_eq, pow_one]

/-! ## Fields of a merged value -/

/-- What a write leaves in the field of one row. -/
def FieldRow.value (f : FieldRow) (hearth : Bool) (e old d m : Nat) : Nat :=
  let new := mergeBits old d m
  let o := bits old f.fld.hi f.fld.lo
  let x := bits new f.fld.hi f.fld.lo
  let ones := bits (d &&& m) f.fld.hi f.fld.lo
  match f.acc with
  | .ro | .wo => o
  | .rw => if f.fld.reserved new x then o else f.fld.writable e x o
  | .rwH => if hearth then (if f.fld.reserved new x then o else f.fld.writable e x o) else o
  | .w1c => o ^^^ (o &&& ones)
  | .w1s => o ||| ones

/-- One row's step of `Reg.merged`: the field is left or set. -/
def FieldRow.step (hearth : Bool) (e old d m : Nat) (v : Nat) (f : FieldRow) : Nat :=
  let new := mergeBits old d m
  let o := bits old f.fld.hi f.fld.lo
  let x := bits new f.fld.hi f.fld.lo
  let ones := bits (d &&& m) f.fld.hi f.fld.lo
  let put := fun (y : Nat) => setBits v f.fld.hi f.fld.lo y
  match f.acc with
  | .ro | .wo => v
  | .rw => put (if f.fld.reserved new x then o else f.fld.writable e x o)
  | .rwH => if hearth then put (if f.fld.reserved new x then o else f.fld.writable e x o) else v
  | .w1c => put (o ^^^ (o &&& ones))
  | .w1s => put (o ||| ones)

theorem Reg.merged_eq (r : Reg) (hearth : Bool) (e old d m : Nat) :
    r.merged hearth e old d m = r.spec.fields.foldl (FieldRow.step hearth e old d m) old := rfl

/-- Two fields have no bit in common. -/
abbrev Fld.apart (f g : Fld) : Prop := f.hi < g.lo ∨ g.hi < f.lo

/-- The field table of every register is one of fields apart from each other. -/
theorem Reg.fields_apart (r : Reg) :
    (∀ f ∈ r.spec.fields, f.fld.lo ≤ f.fld.hi) ∧ r.spec.fields.Pairwise fun f g => f.fld.apart g.fld := by
  cases r <;> decide

/-- Setting a field leaves every field apart from it. -/
theorem bits_setBits_apart {f g : Fld} (v x : Nat) (h : f.lo ≤ f.hi) (ha : g.apart f) :
    bits (setBits v f.hi f.lo x) g.hi g.lo = bits v g.hi g.lo := by
  rcases ha with ha | ha
  · exact bits_setBits_below _ _ h ha
  · exact bits_setBits_above _ _ h ha

theorem FieldRow.step_apart {f : FieldRow} {g : Fld} (hearth : Bool) (e old d m v : Nat) (h : f.fld.lo ≤ f.fld.hi)
    (ha : g.apart f.fld) : bits (f.step hearth e old d m v) g.hi g.lo = bits v g.hi g.lo := by
  unfold FieldRow.step
  dsimp only
  cases f.acc with
  | ro => rfl
  | wo => rfl
  | rw => exact bits_setBits_apart _ _ h ha
  | rwH =>
    cases hearth
    · rfl
    · exact bits_setBits_apart _ _ h ha
  | w1c => exact bits_setBits_apart _ _ h ha
  | w1s => exact bits_setBits_apart _ _ h ha

/-- The rows of other fields leave a field alone. -/
theorem FieldRow.fold_apart {fs : List FieldRow} {g : Fld} (hearth : Bool) (e old d m v : Nat)
    (h : ∀ f ∈ fs, f.fld.lo ≤ f.fld.hi ∧ g.apart f.fld) :
    bits (fs.foldl (FieldRow.step hearth e old d m) v) g.hi g.lo = bits v g.hi g.lo := by
  induction fs generalizing v with
  | nil => rfl
  | cons f fs ih =>
    obtain ⟨h1, h2⟩ := h f (by simp)
    rw [List.foldl_cons, ih _ fun f' hf' => h f' (by simp [hf']), FieldRow.step_apart _ _ _ _ _ _ h1 h2]

/-- A row sets its own field to its value. -/
theorem FieldRow.step_same (f : FieldRow) (hearth : Bool) (e old d m : Nat) {v : Nat} (h : f.fld.lo ≤ f.fld.hi)
    (hv : bits v f.fld.hi f.fld.lo = bits old f.fld.hi f.fld.lo) :
    bits (f.step hearth e old d m v) f.fld.hi f.fld.lo = f.value hearth e old d m % 2 ^ (f.fld.hi + 1 - f.fld.lo) := by
  have ho := Nat.mod_eq_of_lt (bits_lt old f.fld.hi f.fld.lo)
  unfold FieldRow.step FieldRow.value
  dsimp only
  cases f.acc with
  | ro => exact hv.trans ho.symm
  | wo => exact hv.trans ho.symm
  | rw => exact bits_setBits_same _ _ h
  | rwH =>
    cases hearth
    · exact hv.trans ho.symm
    · exact bits_setBits_same _ _ h
  | w1c => exact bits_setBits_same _ _ h
  | w1s => exact bits_setBits_same _ _ h

/-- After a write each field has the value of its row, whatever the other rows do (R6). -/
theorem Reg.bits_merged {r : Reg} {f : FieldRow} (hf : f ∈ r.spec.fields) (hearth : Bool) (e old d m : Nat) :
    bits (r.merged hearth e old d m) f.fld.hi f.fld.lo = f.value hearth e old d m % 2 ^ (f.fld.hi + 1 - f.fld.lo) := by
  obtain ⟨hle, hp⟩ := r.fields_apart
  obtain ⟨a, b, hab⟩ := List.append_of_mem hf
  rw [hab, List.pairwise_append, List.pairwise_cons] at hp
  obtain ⟨-, ⟨hfb, -⟩, haf⟩ := hp
  have ha : ∀ g ∈ a, g.fld.lo ≤ g.fld.hi ∧ f.fld.apart g.fld := fun g hg =>
    ⟨hle g (by simp [hab, hg]), (haf g hg f (by simp)).symm⟩
  have hb : ∀ g ∈ b, g.fld.lo ≤ g.fld.hi ∧ f.fld.apart g.fld := fun g hg => ⟨hle g (by simp [hab, hg]), hfb g hg⟩
  rw [Reg.merged_eq, hab, List.foldl_append, List.foldl_cons, FieldRow.fold_apart _ _ _ _ _ _ hb,
    FieldRow.step_same _ _ _ _ _ _ (hle f hf) (FieldRow.fold_apart _ _ _ _ _ _ ha)]

/-- Every row of a register's table is a field of that register, inside its width. -/
theorem Reg.fields_inside (r : Reg) : ∀ f ∈ r.spec.fields, f.fld.reg = r ∧ f.fld.hi < r.spec.width := by
  cases r <;> decide

/-- What a field reads once the merged value is stored. -/
theorem State.get_setReg_merged (s : State) {r : Reg} {f : FieldRow} (hf : f ∈ r.spec.fields) (hearth : Bool) (i e old d m : Nat) :
    (s.setReg r i (r.merged hearth e old d m)).get f.fld i = f.value hearth e old d m % 2 ^ (f.fld.hi + 1 - f.fld.lo) := by
  obtain ⟨hr, hw⟩ := r.fields_inside f hf
  rw [State.get_setReg_same _ _ _ hr hw, Reg.bits_merged hf]

section
variable {f : FieldRow} {hearth : Bool} {e old d k : Nat}

/-- A writable field that the data covers takes them, or keeps what it held where they are reserved (R6). -/
theorem FieldRow.value_rw (ha : f.acc = .rw ∨ f.acc = .rwH ∧ hearth = true) (hk : f.fld.hi < k) :
    f.value hearth e old d (2 ^ k - 1) = if f.fld.reserved (mergeBits old d (2 ^ k - 1)) (bits d f.fld.hi f.fld.lo)
      then bits old f.fld.hi f.fld.lo else f.fld.writable e (bits d f.fld.hi f.fld.lo) (bits old f.fld.hi f.fld.lo) := by
  unfold FieldRow.value
  dsimp only
  rw [bits_mergeBits_low _ _ hk]
  rcases ha with ha | ⟨ha, rfl⟩
  · rw [ha]
  · rw [ha]; rfl

/-- The same after the whole write: the data where they are allowed, else the old value. -/
theorem Reg.bits_merged_rw {r : Reg} {g : Fld} {a : Acc} {n : Nat} (hrow : ⟨g, a, n⟩ ∈ r.spec.fields)
    (ha : a = .rw ∨ a = .rwH ∧ hearth = true) (hk : g.hi < k) {P : Prop} [Decidable P]
    (hres : ∀ new, g.reserved new (bits d g.hi g.lo) = true ↔ ¬ P) (hwr : ∀ x old, g.writable e x old = x) :
    bits (r.merged hearth e old d (2 ^ k - 1)) g.hi g.lo = if P then bits d g.hi g.lo else bits old g.hi g.lo := by
  have hm := Reg.bits_merged hrow hearth e old d (2 ^ k - 1)
  rw [FieldRow.value_rw (f := ⟨g, a, n⟩) ha hk] at hm
  refine hm.trans ?_
  dsimp only
  rw [hwr]
  by_cases hP : P
  · rw [if_neg (by rw [hres]; exact not_not.2 hP), if_pos hP, Nat.mod_eq_of_lt (bits_lt _ _ _)]
  · rw [if_pos ((hres _).2 hP), if_neg hP, Nat.mod_eq_of_lt (bits_lt _ _ _)]

/-- A read-only field is as it was. -/
theorem Reg.bits_merged_ro {r : Reg} {g : Fld} {n : Nat} (hrow : ⟨g, .ro, n⟩ ∈ r.spec.fields) (m : Nat) :
    bits (r.merged hearth e old d m) g.hi g.lo = bits old g.hi g.lo :=
  (Reg.bits_merged hrow hearth e old d m).trans (Nat.mod_eq_of_lt (bits_lt _ _ _))

/-- A flag is cleared by a one, else as it was (Table 0-3). -/
theorem Reg.bits_merged_w1c {r : Reg} {g : Fld} {n : Nat} (hrow : ⟨g, .w1c, n⟩ ∈ r.spec.fields) (h1 : g.hi = g.lo) (hk : g.hi < k) :
    bits (r.merged hearth e old d (2 ^ k - 1)) g.hi g.lo = if bit d g.lo then 0 else bits old g.hi g.lo := by
  have hv : FieldRow.value ⟨g, .w1c, n⟩ hearth e old d (2 ^ k - 1) = if bit d g.lo then 0 else bits old g.hi g.lo := by
    unfold FieldRow.value
    dsimp only
    rw [bits_and_low _ hk, h1, clear_bit (bits_one_le _ _) (bits_one_le _ _)]
    simp only [← bit_iff]
  rw [Reg.bits_merged hrow, hv]
  refine Nat.mod_eq_of_lt ?_
  split
  · exact Nat.two_pow_pos _
  · exact bits_lt _ _ _

end

end Sys2Proof.Machine

/-! Where the accesses of the obligation on registers land, and what the write of one whole entry does (R504, R506, R513). -/

namespace Sys2Proof.Machine

/-! ## Windows that can be reached whole -/

theorem State.reach_of_active {s : State} (h : s.active = true) (w : Win) : s.reach w = 2 := by
  unfold State.active at h
  simp only [Bool.or_eq_true, decide_eq_true_eq] at h
  unfold State.reach
  rcases h with h | h <;> cases w <;> simp [h]

/-! ## Accesses that fall on one entry -/

/-- An access at `off` falls on entry `e` of register `r` from its first byte, and on nothing else. -/
structure LandsOn (off : Nat) (data : List Byte) (r : Reg) (e : Nat) : Prop where
  ok : accessOk off data.length = true
  win : winAt off = some r.spec.win
  parts : partsOf r.spec.win (off - r.spec.win.base) data = [{ reg := r, ix := e, lo := 0, bytes := data }]

theorem landsOn_of {r : Reg} {e k : Nat} {data : List Byte} (hs : data.length ∈ [4, 8, 16, 32, 64])
    (ha : (r.spec.win.base + r.spec.off + k) % data.length = 0) (hf : r.spec.off + k + data.length ≤ r.spec.win.size)
    (hr : ∀ i, i < data.length → regAt r.spec.win (r.spec.off + k + i) = some (r, e, i)) :
    LandsOn (r.spec.win.base + r.spec.off + k) data r e := by
  have hpos : 0 < data.length := Nat.pos_of_ne_zero fun h => absurd (h ▸ hs) (by decide)
  refine ⟨accessOk_of hs ha (w := r.spec.win) (by omega) (by omega), winAt_eq (by omega) (by omega), ?_⟩
  rw [show r.spec.win.base + r.spec.off + k - r.spec.win.base = r.spec.off + k by omega]
  exact partsOf_single (List.ne_nil_of_length_pos hpos) fun i hi => by rw [hr i hi, Nat.zero_add]

/-- A word at the place of a 32-bit register. -/
theorem landsOn_word {r : Reg} (x : Nat) (ha : (r.spec.win.base + r.spec.off) % 4 = 0) (hf : r.spec.off + 4 ≤ r.spec.win.size)
    (hr : ∀ i, i < 4 → regAt r.spec.win (r.spec.off + i) = some (r, 0, i)) :
    LandsOn (r.spec.win.base + r.spec.off + 0) (leBytes 4 x) r 0 := by
  have hl := leBytes_length 4 x
  refine landsOn_of (k := 0) (by rw [hl]; decide) (by rw [hl]; exact ha) (by rw [hl]; exact hf) fun i hi => ?_
  rw [hl] at hi
  exact hr i hi

/-- The registers that words are written to here. -/
def wordRegs : List Reg := [.HSCFG, .MCHSEL, .PWRSTAT, .RSTCTL, .DRAINCTL, .TWINCTL, .POWERCAP]

theorem landsOn_reg {r : Reg} (h : r ∈ wordRegs) (x : Nat) :
    LandsOn (r.spec.win.base + r.spec.off + 0) (leBytes 4 x) r 0 := by
  have key : ∀ q ∈ wordRegs,
      (q.spec.win.base + q.spec.off) % 4 = 0 ∧ q.spec.off + 4 ≤ q.spec.win.size
        ∧ ∀ i, i < 4 → regAt q.spec.win (q.spec.off + i) = some (q, 0, i) := by decide +kernel
  obtain ⟨h1, h2, h3⟩ := key r h
  exact landsOn_word x h1 h2 h3

/-! ## Arrays -/

/-- A byte of an entry of an array of one dimension. -/
theorem entryAt_one {n d e b : Nat} (he : e < n) (hb : b < d) : entryAt [(n, d)] 0 (d * e + b) = some (e, b) := by
  have hd : 0 < d := by omega
  have h1 : (d * e + b) / d = e := by rw [Nat.mul_add_div hd, Nat.div_eq_of_lt hb, Nat.add_zero]
  have h2 : (d * e + b) % d = b := by rw [Nat.mul_add_mod, Nat.mod_eq_of_lt hb]
  simp only [entryAt, h1, h2, he, if_true, Nat.zero_mul, Nat.zero_add]

/-- A byte of an array falls on its entry, unless it lies between two entries. -/
theorem Reg.hit_one {r : Reg} {n d e b : Nat} (hd : r.spec.dims = [(n, d)]) (he : e < n) (hb : b < d) :
    r.hit (r.spec.off + (d * e + b)) = if b < r.spec.width / 8 then some (e, b) else none := by
  unfold Reg.hit
  rw [if_neg (by omega), Nat.add_sub_cancel_left, hd, entryAt_one he hb]

theorem regAt_segdesc {n i : Nat} (hn : n < 64) (hi : i < 16) : regAt .segment (16 * n + i) = some (.SEGDESC, n, i) := by
  have hf : (Reg.all.filter fun r => decide (r.spec.win = .segment)) = [.SEGDESC] := by decide
  have hh := Reg.hit_one (r := .SEGDESC) rfl hn hi
  rw [show Reg.SEGDESC.spec.off = 0 from rfl, Nat.zero_add, if_pos (by exact hi)] at hh
  unfold regAt
  rw [hf]
  simp [hh]

/-- The first registers of the counter window. -/
theorem syncmap_regs : ∃ rest, (Reg.all.filter fun r => decide (r.spec.win = .syncmap)) = .SCCOUNT :: .SCTARGET :: rest :=
  ⟨_, rfl⟩

theorem regAt_sccount {c i : Nat} (hc : c < 65536) (hi : i < 4) : regAt .syncmap (32 * c + i) = some (.SCCOUNT, c, i) := by
  have hh := Reg.hit_one (r := .SCCOUNT) (b := i) rfl hc (by omega)
  rw [show Reg.SCCOUNT.spec.off = 0 from rfl, Nat.zero_add, if_pos (by exact hi)] at hh
  obtain ⟨rest, hrest⟩ := syncmap_regs
  unfold regAt
  rw [hrest]
  simp [hh]

theorem regAt_sctarget {c i : Nat} (hc : c < 65536) (hi : i < 4) : regAt .syncmap (4 + 32 * c + i) = some (.SCTARGET, c, i) := by
  have h1 := Reg.hit_one (r := .SCCOUNT) (b := 4 + i) rfl hc (by omega)
  have h2 := Reg.hit_one (r := .SCTARGET) (b := i) rfl hc (by omega)
  rw [show Reg.SCCOUNT.spec.off = 0 from rfl, if_neg (by rw [show Reg.SCCOUNT.spec.width / 8 = 4 from rfl]; omega),
    show 0 + (32 * c + (4 + i)) = 4 + 32 * c + i by omega] at h1
  rw [show Reg.SCTARGET.spec.off = 4 from rfl, if_pos (by exact hi), show 4 + (32 * c + i) = 4 + 32 * c + i by omega] at h2
  obtain ⟨rest, hrest⟩ := syncmap_regs
  unfold regAt
  rw [hrest]
  simp [h1, h2]

theorem landsOn_segdesc {n : Nat} {data : List Byte} (hn : n < 64) (hd : data.length = 16) :
    LandsOn (Win.base .segment + 0 + 16 * n) data .SEGDESC n := by
  have hb : Win.base .segment = 0x2000 := rfl
  have hsz : Win.size .segment = 0x1000 := rfl
  refine landsOn_of (r := .SEGDESC) (by rw [hd]; decide) ?_ ?_ fun i hi => ?_
  · rw [hd]
    show (Win.base .segment + 0 + 16 * n) % 16 = 0
    omega
  · show 0 + 16 * n + data.length ≤ Win.size .segment
    omega
  · rw [hd] at hi
    show regAt .segment (0 + 16 * n + i) = _
    rw [Nat.zero_add]
    exact regAt_segdesc hn hi

theorem landsOn_sccount {c : Nat} (x : Nat) (hc : c < 65536) : LandsOn (Win.base .syncmap + 0 + 32 * c) (leBytes 4 x) .SCCOUNT c := by
  have hb : Win.base .syncmap = 0x400000 := rfl
  have hsz : Win.size .syncmap = 0x400000 := rfl
  have hl := leBytes_length 4 x
  refine landsOn_of (r := .SCCOUNT) (by rw [hl]; decide) ?_ ?_ fun i hi => ?_
  · rw [hl]
    show (Win.base .syncmap + 0 + 32 * c) % 4 = 0
    omega
  · show 0 + 32 * c + (leBytes 4 x).length ≤ Win.size .syncmap
    omega
  · rw [hl] at hi
    show regAt .syncmap (0 + 32 * c + i) = _
    rw [Nat.zero_add]
    exact regAt_sccount hc hi

theorem landsOn_sctarget {c : Nat} (x : Nat) (hc : c < 65536) :
    LandsOn (Win.base .syncmap + 4 + 32 * c) (leBytes 4 x) .SCTARGET c := by
  have hb : Win.base .syncmap = 0x400000 := rfl
  have hsz : Win.size .syncmap = 0x400000 := rfl
  have hl := leBytes_length 4 x
  refine landsOn_of (r := .SCTARGET) (by rw [hl]; decide) ?_ ?_ fun i hi => ?_
  · rw [hl]
    show (Win.base .syncmap + 4 + 32 * c) % 4 = 0
    omega
  · show 4 + 32 * c + (leBytes 4 x).length ≤ Win.size .syncmap
    omega
  · rw [hl] at hi
    exact regAt_sctarget hc hi

end Sys2Proof.Machine

/-! Writes of whole entries: what each way of going does, and the stored registers of the obligation (R6, R31, R509). -/

namespace Sys2Proof.Machine

/-! ## A part that is a whole entry -/

/-- The part an access has that falls on one entry from its first byte. -/
abbrev whole (r : Reg) (e : Nat) (data : List Byte) : Part := { reg := r, ix := e, lo := 0, bytes := data }

@[simp] theorem whole_mask (r : Reg) (e : Nat) (data : List Byte) : (whole r e data).mask = 2 ^ (8 * data.length) - 1 := by
  unfold Part.mask
  simp

@[simp] theorem whole_data (r : Reg) (e : Nat) (data : List Byte) : (whole r e data).data = leValue data := by
  unfold Part.data
  simp

theorem leValue_word (v : BitVec 32) : leValue (leBytes 4 v.toNat) = v.toNat := by
  rw [leValue_leBytes]
  exact Nat.mod_eq_of_lt v.isLt

theorem whole_covers {r : Reg} {e i : Nat} {data : List Byte} (h : i < 8 * data.length) : (whole r e data).covers i = true := by
  unfold Part.covers
  rw [whole_mask, bit_iff, ← Nat.mod_eq_of_lt (bits_lt _ i i), show i + 1 - i = 1 by omega]
  unfold bits
  rw [show i + 1 - i = 1 by omega, Nat.mod_mod]
  have := Nat.testBit_two_pow_sub_one (8 * data.length) i
  rw [Nat.testBit_eq_decide_div_mod_eq] at this
  simpa [h] using this

theorem whole_reaches {r : Reg} {e n : Nat} {data : List Byte} (hearth : Bool) (hn : data.length = n) :
    (whole r e data).reaches hearth
      = r.spec.fields.any fun f => f.acc.changes hearth && decide (bits (2 ^ (8 * n) - 1) f.fld.hi f.fld.lo ≠ 0) := by
  unfold Part.reaches
  rw [whole_mask, hn]

/-! ## The three ways of a write -/

section
variable {s : State} {hearth : Bool} {off : Nat} {data : List Byte} {r : Reg} {e e' : Nat}

theorem State.access_applied (hm : s.mayAccess hearth = true) (hl : LandsOn off data r e) (hr : s.reach r.spec.win = 2)
    (he : s.entry hearth r e = e') (hreach : (whole r e data).reaches hearth = true)
    (hb : s.barred hearth (whole r e data) e' = false) :
    s.access hearth off data = s.applyPart hearth (whole r e data) e' off := by
  subst he
  rw [State.access_ok hm hl.ok, State.writeSpace_applied hl.win hl.parts hr hreach hb]

theorem State.access_barred (hm : s.mayAccess hearth = true) (hl : LandsOn off data r e) (hr : s.reach r.spec.win = 2)
    (he : s.entry hearth r e = e') (hreach : (whole r e data).reaches hearth = true)
    (hb : s.barred hearth (whole r e data) e' = true) :
    s.access hearth off data = (if s.refuses hearth r e' (whole r e data).code
      then s.markRefused r e' (whole r e data).code else s).record hearth 2 off := by
  subst he
  rw [State.access_ok hm hl.ok, State.writeSpace_barred hl.win hl.parts hr hreach hb]

theorem State.access_nothing (hm : s.mayAccess hearth = true) (hl : LandsOn off data r e) (hr : s.reach r.spec.win = 2)
    (hreach : (whole r e data).reaches hearth = false) : s.access hearth off data = s.record hearth 2 off := by
  rw [State.access_ok hm hl.ok, State.writeSpace_nothing hl.win hl.parts hr hreach]

theorem State.access_unreached (hm : s.mayAccess hearth = true) (hl : LandsOn off data r e) (hr : s.reach r.spec.win = 0) :
    s.access hearth off data = s.record hearth 3 off := by
  rw [State.access_ok hm hl.ok, State.writeSpace_unreached hl.win (by rw [hl.parts]; exact List.cons_ne_nil _ _) hr]

end

/-- A register behind no select register is reached at the entry accessed (R512). -/
theorem State.entry_plain (s : State) (hearth : Bool) {r : Reg} (e : Nat) (hb : r.banked = false) (hu : s.unitOf hearth r = 0) :
    s.entry hearth r e = e := by
  unfold State.entry
  rw [hb, hu, Nat.zero_mul, Nat.zero_add]
  rfl

/-- Storing in a register changes that register only. -/
theorem State.setReg_only (s : State) (r : Reg) {i : Nat} (v : Nat) (hi : i < 2 ^ 24) :
    { s.setReg r i v with regs := s.regs } = s ∧ ∀ q k, k < 2 ^ 24 → q ≠ r → (s.setReg r i v).reg q k = s.reg q k :=
  ⟨s.onlyRegs_refl, fun _ _ hk hq => State.reg_setReg_other _ _ hi hk (.inl hq)⟩

/-! ## Segment descriptors (R31) -/

section
variable {s : State} {hearth : Bool} {n : Nat} {data : List Byte}

theorem segdesc_reaches (hd : data.length = 16) : (whole .SEGDESC n data).reaches hearth = true := by
  rw [whole_reaches hearth hd]
  cases hearth <;> rfl

/-- The host's write of a descriptor while a job runs has no effect (R31). -/
theorem segdesc_barred (hm : s.mayAccess false = true) (ha : s.active = true) (hn : n < 64) (hd : data.length = 16)
    (hj : s.jobRuns = true) : s.access false (Win.base .segment + 0 + 16 * n) data
      = s.record false 2 (Win.base .segment + 0 + 16 * n) := by
  rw [State.access_barred hm (landsOn_segdesc hn hd) (State.reach_of_active ha _) (State.entry_plain s false n rfl rfl)
    (segdesc_reaches hd) hj]
  rfl

/-- Any other write of a descriptor stores it. -/
theorem segdesc_stored (hm : s.mayAccess hearth = true) (ha : s.active = true) (hn : n < 64) (hd : data.length = 16)
    (hj : hearth = true ∨ s.jobRuns = false) : s.access hearth (Win.base .segment + 0 + 16 * n) data
      = s.setReg .SEGDESC n (Reg.merged .SEGDESC hearth n (s.written .SEGDESC n) (leValue data) (2 ^ 128 - 1)) := by
  have hb : s.barred hearth (whole .SEGDESC n data) n = false := by
    show (!hearth && s.jobRuns) = false
    rcases hj with h | h <;> simp [h]
  rw [State.access_applied hm (landsOn_segdesc hn hd) (State.reach_of_active ha _) (State.entry_plain s hearth n rfl rfl)
    (segdesc_reaches hd) hb]
  show s.setReg .SEGDESC n (Reg.merged _ _ _ _ (whole .SEGDESC n data).data (whole .SEGDESC n data).mask) = _
  rw [whole_data, whole_mask, hd]

/-- No value of a descriptor's fields is reserved, and every field is writable whole. -/
theorem segdesc_fields : ∀ f ∈ Reg.SEGDESC.spec.fields, f.acc = .rw ∧ f.fld.hi < 128 ∧ f.fld.lo ≤ f.fld.hi
    ∧ ∀ new x e old, f.fld.reserved new x = false ∧ f.fld.writable e x old = x := by
  intro f hf
  fin_cases hf <;> exact ⟨rfl, by decide, by decide, fun _ _ _ _ => ⟨rfl, rfl⟩⟩

/-- A stored descriptor reads the data in every field. -/
theorem get_segdesc (old : Nat) {f : Fld} (hf : f ∈ Reg.SEGDESC.spec.fields.map FieldRow.fld) :
    (s.setReg .SEGDESC n (Reg.merged .SEGDESC hearth n old (leValue data) (2 ^ 128 - 1))).get f n
      = bits (leValue data) f.hi f.lo := by
  obtain ⟨row, hrow, rfl⟩ := List.mem_map.1 hf
  obtain ⟨hacc, hhi, -, hfree⟩ := segdesc_fields row hrow
  obtain ⟨hres, hwr⟩ := hfree (mergeBits old (leValue data) (2 ^ 128 - 1)) (bits (leValue data) row.fld.hi row.fld.lo) n
    (bits old row.fld.hi row.fld.lo)
  rw [State.get_setReg_merged _ hrow, FieldRow.value_rw (.inl hacc) hhi, hres, if_neg Bool.false_ne_true, hwr,
    Nat.mod_eq_of_lt (bits_lt _ _ _)]

end

end Sys2Proof.Machine

/-! Words written to single registers: stored values, flags, actions and values that wait (R6, R9, R486). -/

namespace Sys2Proof.Machine

/-! ## Waiting writes -/

section
variable (s : State) (r : Reg) {i : Nat} (a : Ask)

/-- A waiting write changes registers and the table of waiting writes only. -/
theorem State.setAsk_frame (i : Nat) : { s.setAsk r i a with regs := s.regs, asks := s.asks } = s := rfl

@[simp] theorem State.ask_setAsk_same (i : Nat) : (s.setAsk r i a).ask r i = some a := by
  show SMap.look (SMap.ins s.asks (r.key i) a) (r.key i) = some a
  rw [SMap.look_ins, if_pos rfl]

/-- Of the registers it changes its own only. -/
theorem State.reg_setAsk_other {q : Reg} {k : Nat} (hi : i < 2 ^ 24) (hk : k < 2 ^ 24) (h : q ≠ r ∨ k ≠ i) :
    (s.setAsk r i a).reg q k = s.reg q k := State.reg_setReg_other s _ hi hk h

/-- The PENDING bit reads 1. -/
theorem State.get_setAsk_pending {f : Fld} (i : Nat) (hr : f.reg = r) (hhi : f.hi = r.pendBit) (hlo : f.lo = r.pendBit)
    (hw : r.pendBit < r.spec.width) : (s.setAsk r i a).get f i = 1 := by
  have h := State.get_setReg_same s i (setBits (s.reg r i) r.pendBit r.pendBit 1) hr (by rw [hhi]; exact hw)
  rw [hhi, hlo, bits_setBits_same _ _ (Nat.le_refl _), show r.pendBit + 1 - r.pendBit = 1 by omega] at h
  exact h

/-- Every field below the PENDING bit keeps what it held. -/
theorem State.get_setAsk_below {f : Fld} (i : Nat) (hr : f.reg = r) (hhi : f.hi < r.pendBit) (hw : r.pendBit < r.spec.width) :
    (s.setAsk r i a).get f i = s.get f i := by
  have h := State.get_setReg_same s i (setBits (s.reg r i) r.pendBit r.pendBit 1) hr (by omega)
  rw [bits_setBits_below _ _ (Nat.le_refl _) hhi] at h
  have hs : s.get f i = bits (s.reg r i) f.hi f.lo := by rw [State.get, hr]
  rw [hs]
  exact h

end

/-! ## The words -/

section
variable {s : State} {hearth : Bool} {r : Reg} {v : BitVec 32}

/-- The word part of a register. -/
abbrev word (r : Reg) (v : BitVec 32) : Part := whole r 0 (leBytes 4 v.toNat)

theorem word_mask (r : Reg) (v : BitVec 32) : (word r v).mask = 2 ^ 32 - 1 := by
  rw [whole_mask, leBytes_length]

theorem word_data (r : Reg) (v : BitVec 32) : (word r v).data = v.toNat := by
  rw [whole_data, leValue_word]

/-- A word of a register whose agent can change one of its fields reaches it. -/
theorem word_reaches (h : (r.spec.fields.any fun f => f.acc.changes hearth && decide (bits (2 ^ 32 - 1) f.fld.hi f.fld.lo ≠ 0)) = true) :
    (word r v).reaches hearth = true := by
  rw [whole_reaches hearth (leBytes_length 4 _)]
  exact h

theorem word_code (h : r = .RSTCTL ∨ r = .DRAINCTL ∨ r = .TWINCTL) :
    (word r v).code = v.toNat % (if r = .RSTCTL then 8 else 4) := by
  unfold Part.code
  rw [whole_covers (by rw [leBytes_length]; decide), if_pos rfl, word_data]
  rcases h with rfl | rfl | rfl <;> rfl

theorem State.written_plain (s : State) {r : Reg} (e : Nat) (h : r.valued = false) : s.written r e = s.reg r e := by
  unfold State.written
  split
  · rw [h]; rfl
  · rfl

/-- A word of a stored register that nothing bars is merged into it. -/
theorem State.word_stored (hm : s.mayAccess hearth = true) (ha : s.active = true)
    (hr : r = .HSCFG ∧ hearth = true ∨ r = .MCHSEL ∨ r = .PWRSTAT) :
    s.access hearth (r.spec.win.base + r.spec.off + 0) (leBytes 4 v.toNat)
      = s.setReg r (s.entry hearth r 0) (r.merged hearth (s.entry hearth r 0) (s.reg r (s.entry hearth r 0)) v.toNat (2 ^ 32 - 1)) := by
  have hin : r ∈ wordRegs := by rcases hr with ⟨rfl, -⟩ | rfl | rfl <;> decide
  have hreach : (word r v).reaches hearth = true := word_reaches <| by
    rcases hr with ⟨rfl, rfl⟩ | rfl | rfl
    · rfl
    · cases hearth <;> rfl
    · cases hearth <;> rfl
  have hb : s.barred hearth (word r v) (s.entry hearth r 0) = false := by
    rcases hr with ⟨rfl, -⟩ | rfl | rfl <;> simp [State.barred, State.unitFenced, Reg.banked, Reg.spec]
  have hv : r.valued = false := by rcases hr with ⟨rfl, -⟩ | rfl | rfl <;> rfl
  have hap : s.applyPart hearth (word r v) (s.entry hearth r 0) (r.spec.win.base + r.spec.off + 0) = s.setReg r (s.entry hearth r 0)
      (r.merged hearth (s.entry hearth r 0) (s.written r (s.entry hearth r 0)) (word r v).data (word r v).mask) := by
    rcases hr with ⟨rfl, -⟩ | rfl | rfl <;> rfl
  rw [State.access_applied hm (landsOn_reg hin _) (State.reach_of_active ha _) rfl hreach hb, hap, word_data, word_mask,
    State.written_plain _ _ hv]

/-- A word of an action register that is refused marks the refusal and is recorded (R509). -/
theorem State.word_refused (hm : s.mayAccess hearth = true) (ha : s.active = true)
    (hr : r = .RSTCTL ∨ r = .DRAINCTL ∨ r = .TWINCTL)
    (hf : s.refuses hearth r 0 (v.toNat % (if r = .RSTCTL then 8 else 4)) = true) :
    s.access hearth (r.spec.win.base + r.spec.off + 0) (leBytes 4 v.toNat)
      = (s.markRefused r 0 (v.toNat % (if r = .RSTCTL then 8 else 4))).record hearth 2 (r.spec.win.base + r.spec.off + 0) := by
  have hin : r ∈ wordRegs := by rcases hr with rfl | rfl | rfl <;> decide
  have hreach : (word r v).reaches hearth = true := word_reaches <| by
    rcases hr with rfl | rfl | rfl <;> rfl
  have he : s.entry hearth r 0 = 0 := by
    rcases hr with rfl | rfl | rfl <;> exact State.entry_plain s hearth 0 rfl rfl
  rw [← word_code hr] at hf ⊢
  have hb : s.barred hearth (word r v) 0 = true := by
    rcases hr with rfl | rfl | rfl <;> exact hf
  rw [State.access_barred hm (landsOn_reg hin _) (State.reach_of_active ha _) he hreach hb, if_pos hf]

/-- A word of RSTCTL that is not refused leaves its action waiting, if it names one (R6, R486). -/
theorem State.rstctl_waits (hm : s.mayAccess hearth = true) (ha : s.active = true)
    (hf : s.refuses hearth .RSTCTL 0 (v.toNat % 8) = false) :
    s.access hearth (Reg.RSTCTL.spec.win.base + Reg.RSTCTL.spec.off + 0) (leBytes 4 v.toNat)
      = s.action hearth .RSTCTL 0 (Reg.RSTCTL.spec.win.base + Reg.RSTCTL.spec.off + 0) (v.toNat % 8) 6 := by
  have hb : s.barred hearth (word .RSTCTL v) 0 = false := by
    show s.refuses hearth .RSTCTL 0 (word .RSTCTL v).code = false
    rw [word_code (.inl rfl)]
    exact hf
  have hap : s.applyPart hearth (word .RSTCTL v) 0 (Reg.RSTCTL.spec.win.base + Reg.RSTCTL.spec.off + 0)
      = s.action hearth .RSTCTL 0 (Reg.RSTCTL.spec.win.base + Reg.RSTCTL.spec.off + 0)
        ((if (word .RSTCTL v).covers 0 then (word .RSTCTL v).data % 8 else 0) % 8) 6 := rfl
  rw [State.access_applied hm (landsOn_reg (r := .RSTCTL) (by decide) _) (State.reach_of_active ha _)
    (State.entry_plain s hearth 0 rfl rfl) (word_reaches rfl) hb, hap, whole_covers (by rw [leBytes_length]; decide), if_pos rfl,
    word_data, Nat.mod_mod]

/-- A word of POWERCAP waits for Hearth's next step (R378). -/
theorem State.powercap_waits (hm : s.mayAccess hearth = true) (ha : s.active = true) (hk : s.ask .POWERCAP 0 = none) :
    s.access hearth (Reg.POWERCAP.spec.win.base + Reg.POWERCAP.spec.off + 0) (leBytes 4 v.toNat)
      = s.setAsk .POWERCAP 0 ⟨hearth, Reg.POWERCAP.spec.win.base + Reg.POWERCAP.spec.off + 0,
          setBits (Reg.merged .POWERCAP hearth 0 (s.reg .POWERCAP 0) v.toNat (2 ^ 32 - 1)) 31 31 0⟩ := by
  have hap : s.applyPart hearth (word .POWERCAP v) 0 (Reg.POWERCAP.spec.win.base + Reg.POWERCAP.spec.off + 0)
      = s.setAsk .POWERCAP 0 ⟨hearth, Reg.POWERCAP.spec.win.base + Reg.POWERCAP.spec.off + 0,
          setBits (Reg.merged .POWERCAP hearth 0 (s.written .POWERCAP 0) (word .POWERCAP v).data (word .POWERCAP v).mask) 31 31 0⟩ := rfl
  have hw : s.written .POWERCAP 0 = s.reg .POWERCAP 0 := by
    unfold State.written
    rw [hk]
  rw [State.access_applied hm (landsOn_reg (r := .POWERCAP) (by decide) _) (State.reach_of_active ha _)
    (State.entry_plain s hearth 0 rfl rfl) (word_reaches (by cases hearth <;> rfl)) rfl, hap, word_data, word_mask, hw]

end

/-! ## What the stored words read -/

section
variable {s : State} {hearth : Bool} {v : BitVec 32}

/-- HSCFG's fields take their values, but reserved ones (R411). -/
theorem get_hscfg {f : Fld} {lo hi : Nat}
    (hf : (f, lo, hi) ∈ [(F.HSCFG_HALFLIFE, 1, 168), (F.HSCFG_EXPEL, 0, 1000), (F.HSCFG_WARN, 0, 1000)]) :
    (s.setReg .HSCFG 0 (Reg.merged .HSCFG true 0 (s.reg .HSCFG 0) v.toNat (2 ^ 32 - 1))).get f 0
      = if lo ≤ bits v.toNat f.hi f.lo ∧ bits v.toNat f.hi f.lo ≤ hi then bits v.toNat f.hi f.lo else s.get f 0 := by
  have key : ∃ d, (⟨f, .rwH, d⟩ : FieldRow) ∈ Reg.HSCFG.spec.fields ∧ f.reg = .HSCFG ∧ f.hi < 32 ∧
      (∀ new x, f.reserved new x = true ↔ ¬ (lo ≤ x ∧ x ≤ hi)) ∧ ∀ x old, f.writable 0 x old = x := by
    simp only [List.mem_cons, Prod.mk.injEq, List.not_mem_nil, or_false] at hf
    rcases hf with ⟨rfl, rfl, rfl⟩ | ⟨rfl, rfl, rfl⟩ | ⟨rfl, rfl, rfl⟩
    · refine ⟨0x18, by decide, rfl, by decide, fun new x => ?_, fun _ _ => rfl⟩
      show (decide (x = 0) || decide (168 < x)) = true ↔ _
      simp only [Bool.or_eq_true, decide_eq_true_eq]
      omega
    · refine ⟨0x12c, by decide, rfl, by decide, fun new x => ?_, fun _ _ => rfl⟩
      show decide (1000 < x) = true ↔ _
      simp only [decide_eq_true_eq]
      omega
    · refine ⟨0x258, by decide, rfl, by decide, fun new x => ?_, fun _ _ => rfl⟩
      show decide (1000 < x) = true ↔ _
      simp only [decide_eq_true_eq]
      omega
  obtain ⟨d, hrow, hreg, hhi, hres, hwr⟩ := key
  have hs : s.get f 0 = bits (s.reg .HSCFG 0) f.hi f.lo := by rw [State.get, hreg]
  rw [State.get_setReg_same _ _ _ hreg hhi, Reg.bits_merged_rw hrow (.inr ⟨rfl, rfl⟩) hhi (fun new => hres new _) hwr, hs]

/-- MCHSEL takes the number of a channel the module has. -/
theorem get_mchsel (e : Nat) : (s.setReg .MCHSEL e (Reg.merged .MCHSEL hearth e (s.reg .MCHSEL e) v.toNat (2 ^ 32 - 1))).get
    F.MCHSEL_CHANNEL e = if v.toNat % 256 < 192 then v.toNat % 256 else s.get F.MCHSEL_CHANNEL e := by
  have hx : bits v.toNat F.MCHSEL_CHANNEL.hi F.MCHSEL_CHANNEL.lo = v.toNat % 256 := by
    show v.toNat / 2 ^ 0 % 256 = _
    rw [pow_zero, Nat.div_one]
  have hm := Reg.bits_merged_rw (r := .MCHSEL) (g := F.MCHSEL_CHANNEL) (a := .rw) (n := 0) (hearth := hearth) (e := e)
    (old := s.reg .MCHSEL e) (d := v.toNat) (k := 32) (P := v.toNat % 256 < 192) (by decide) (.inl rfl) (by decide)
    (fun new => by rw [hx]; show decide (192 ≤ v.toNat % 256) = true ↔ _; simp) fun _ _ => rfl
  refine (State.get_setReg_same (r := .MCHSEL) _ _ _ rfl (by decide)).trans ?_
  rw [hm, hx]
  rfl

/-- PWRSTAT's flags clear where a one is written, and its state is as it was. -/
theorem get_pwrstat : let t := s.setReg .PWRSTAT 0 (Reg.merged .PWRSTAT hearth 0 (s.reg .PWRSTAT 0) v.toNat (2 ^ 32 - 1))
    t.get F.PWRSTAT_STATE 0 = s.get F.PWRSTAT_STATE 0
      ∧ t.get F.PWRSTAT_REFUSED 0 = (if bit v.toNat 9 then 0 else s.get F.PWRSTAT_REFUSED 0)
      ∧ t.get F.PWRSTAT_DEFAULTS_RESTORED 0 = if bit v.toNat 8 then 0 else s.get F.PWRSTAT_DEFAULTS_RESTORED 0 := by
  refine ⟨?_, ?_, ?_⟩
  · exact (State.get_setReg_same (r := .PWRSTAT) _ _ _ rfl (by decide)).trans
      (Reg.bits_merged_ro (n := 0) (by decide) _)
  · exact (State.get_setReg_same (r := .PWRSTAT) _ _ _ rfl (by decide)).trans
      (Reg.bits_merged_w1c (g := F.PWRSTAT_REFUSED) (n := 0) (by decide) rfl (by decide))
  · exact (State.get_setReg_same (r := .PWRSTAT) _ _ _ rfl (by decide)).trans
      (Reg.bits_merged_w1c (g := F.PWRSTAT_DEFAULTS_RESTORED) (n := 0) (by decide) rfl (by decide))

/-- The cap that a word of POWERCAP asks for: its WATTS where allowed, else those in force (R378). -/
theorem powercap_asks : bits (setBits (Reg.merged .POWERCAP hearth 0 (s.reg .POWERCAP 0) v.toNat (2 ^ 32 - 1)) 31 31 0) 10 0
    = if 1200 ≤ bits v.toNat 10 0 ∧ bits v.toNat 10 0 ≤ 2000 then bits v.toNat 10 0 else s.get F.POWERCAP_WATTS 0 := by
  rw [bits_setBits_below _ _ (by decide) (by decide)]
  refine Reg.bits_merged_rw (r := .POWERCAP) (g := F.POWERCAP_WATTS) (a := .rw) (n := 0x7d0) (by decide) (.inl rfl) (by decide)
    (fun new => ?_) fun _ _ => rfl
  show (decide (bits v.toNat 10 0 < 1200) || decide (2000 < bits v.toNat 10 0)) = true ↔ _
  simp only [Bool.or_eq_true, decide_eq_true_eq]
  omega

end

end Sys2Proof.Machine

/-! Writes of a counter's count and target (R45, R510). -/

namespace Sys2Proof.Machine

/-! ## Listed values that are changed -/

/-- A listed value that does not become the default reads its change. -/
theorem SMap.get_mapv_listed {α : Type} [DecidableEq α] {d x : α} {m : SMap α} {f : Nat → α → α} {k : Nat}
    (hk : SMap.look m k = some x) (hx : f k x ≠ d) : SMap.get d (SMap.mapv d m f) k = f k x := by
  have key : SMap.look (SMap.mapv d m f) k = some (f k x) := by
    unfold SMap.mapv
    induction m with
    | nil => cases hk
    | cons e m ih =>
      obtain ⟨j, y⟩ := e
      rw [SMap.look] at hk
      rw [List.map_cons, List.filter_cons]
      by_cases hj : k = j
      · subst hj
        rw [if_pos rfl] at hk
        cases hk
        rw [if_pos (by simpa using hx), SMap.look, if_pos rfl]
      · rw [if_neg hj] at hk
        split
        · rw [SMap.look, if_neg hj]; exact ih hk
        · exact ih hk
  unfold SMap.get
  rw [key]
  rfl

/-! ## Waking waiters (R45) -/

section
variable (s : State) (c : Nat)

/-- Waking clears the waiters of a counter that has met its target and changes no other value of any counter. -/
theorem State.counter_wake (k : Nat) : (s.wake c).counter k
    = if k = c ∧ (s.counter c).reached = true then { s.counter c with waiters := [] } else s.counter k := by
  unfold State.wake
  dsimp only
  by_cases hr : (s.counter c).reached = true
  · by_cases hw : (s.counter c).waiters = []
    · rw [if_neg (by simp [hw])]
      by_cases hk : k = c
      · subst hk
        rw [if_pos ⟨rfl, hr⟩, ← hw]
      · rw [if_neg (by simp [hk])]
    · rw [if_pos (by simp [hr, hw])]
      show (s.setCounter c { s.counter c with waiters := [] }).counter k = _
      rw [State.counter_setCounter]
      by_cases hk : k = c
      · rw [if_pos hk, if_pos ⟨hk, hr⟩]
      · rw [if_neg hk, if_neg (by simp [hk])]
  · rw [if_neg (by simp [hr]), if_neg (by simp [hr])]

/-- A counter below its target wakes nobody. -/
theorem State.wake_unreached (h : (s.counter c).reached = false) : s.wake c = s := by
  unfold State.wake
  dsimp only
  rw [h]
  rfl

/-- A context that waits on the counter in a cluster of its waiters wakes when the counter has met its target. -/
theorem State.wake_stall {t : Nat} (hr : (s.counter c).reached = true) (hw : s.clusterOf t ∈ (s.counter c).waiters)
    (hs : (s.tile t).ctxF.stall = .wait c 0 false false) : ((s.wake c).tile t).ctxF.stall = .wait c 0 false true := by
  have hne : (s.counter c).waiters ≠ [] := List.ne_nil_of_mem hw
  cases hl : SMap.look s.tiles t with
  | none =>
    have : s.tile t = Tile.reset := by unfold State.tile SMap.get; rw [hl]; rfl
    rw [this] at hs
    cases hs
  | some x =>
    have hx : s.tile t = x := by unfold State.tile SMap.get; rw [hl]; rfl
    rw [hx] at hs
    have hf : (x.ctxF.wake c).stall = .wait c 0 false true := by
      unfold Ctx.wake
      rw [hs]
      dsimp only
      rw [if_pos rfl]
    unfold State.wake
    dsimp only
    rw [if_pos (by simp [hr, hne])]
    unfold State.tile
    dsimp only
    have hcl : (s.setCounter c { s.counter c with waiters := [] }).clusterOf t = s.clusterOf t := rfl
    have hyes : (s.counter c).waiters.contains ((s.setCounter c { s.counter c with waiters := [] }).clusterOf t) = true := by
      rw [hcl]; exact List.contains_iff_mem.2 hw
    have hl' : SMap.look (s.setCounter c { s.counter c with waiters := [] }).tiles t = some x := hl
    rw [SMap.get_mapv_listed hl']
    · rw [if_pos hyes]; exact hf
    · rw [if_pos hyes]
      intro he
      have := congrArg (fun y : Tile => y.ctxF.stall) he
      rw [hf] at this
      cases this

end

/-! ## The writes -/

section
variable {s : State} {hearth : Bool} {c : Nat} {v : BitVec 32}

theorem State.reach_counters (h : 2 ≤ s.get F.PWRSTAT_STATE 0) (h' : s.get F.PWRSTAT_STATE 0 ≤ 7) : s.reach .syncmap = 2 := by
  unfold State.reach
  exact if_pos ⟨h, h'⟩

theorem State.reach_counters_off (h : s.get F.PWRSTAT_STATE 0 < 2 ∨ 7 < s.get F.PWRSTAT_STATE 0) : s.reach .syncmap = 0 := by
  unfold State.reach
  exact if_neg (by omega)

theorem sccount_stored (hm : s.mayAccess hearth = true) (hc : c < 65536) (hr : s.reach .syncmap = 2) :
    s.access hearth (Win.base .syncmap + 0 + 32 * c) (leBytes 4 v.toNat)
      = (s.setCounter c { s.counter c with count := v.toNat }).wake c := by
  have hap : s.applyPart hearth (whole .SCCOUNT c (leBytes 4 v.toNat)) c (Win.base .syncmap + 0 + 32 * c)
      = (s.setCounter c { s.counter c with count := (whole .SCCOUNT c (leBytes 4 v.toNat)).data % 2 ^ 32 }).wake c := rfl
  rw [State.access_applied hm (landsOn_sccount _ hc) hr (State.entry_plain s hearth c rfl rfl)
    (by rw [whole_reaches hearth (leBytes_length 4 _)]; cases hearth <;> rfl) rfl, hap, whole_data, leValue_word,
    Nat.mod_eq_of_lt v.isLt]

theorem sctarget_stored (hm : s.mayAccess hearth = true) (hc : c < 65536) (hr : s.reach .syncmap = 2) :
    s.access hearth (Win.base .syncmap + 4 + 32 * c) (leBytes 4 v.toNat)
      = (s.setCounter c { s.counter c with target := v.toNat }).wake c := by
  have hap : s.applyPart hearth (whole .SCTARGET c (leBytes 4 v.toNat)) c (Win.base .syncmap + 4 + 32 * c)
      = (s.setCounter c { s.counter c with target := (whole .SCTARGET c (leBytes 4 v.toNat)).data % 2 ^ 32 }).wake c := rfl
  rw [State.access_applied hm (landsOn_sctarget _ hc) hr (State.entry_plain s hearth c rfl rfl)
    (by rw [whole_reaches hearth (leBytes_length 4 _)]; cases hearth <;> rfl) rfl, hap, whole_data, leValue_word,
    Nat.mod_eq_of_lt v.isLt]

end

/-! ## What a counter reads after the write -/

section
variable (s : State) (c : Nat) (y : Counter)

/-- The counter written has its new count and target; its waiters stay until it meets the target. -/
theorem State.counter_stored_same : ((s.setCounter c y).wake c).counter c
    = { y with waiters := if y.target ≤ y.count then [] else y.waiters } := by
  rw [State.counter_wake]
  by_cases h : y.target ≤ y.count <;> simp [Counter.reached, h]

theorem State.counter_stored_other {k : Nat} (hk : k ≠ c) : ((s.setCounter c y).wake c).counter k = s.counter k := by
  rw [State.counter_wake]
  simp [hk]

theorem State.stall_stored {t : Nat} (hw : s.clusterOf t ∈ y.waiters) (hs : (s.tile t).ctxF.stall = .wait c 0 false false) :
    (y.target ≤ y.count → (((s.setCounter c y).wake c).tile t).ctxF.stall = .wait c 0 false true)
    ∧ (y.count < y.target → (((s.setCounter c y).wake c).tile t).ctxF.stall = .wait c 0 false false) := by
  have hy : (s.setCounter c y).counter c = y := by simp
  refine ⟨fun h => ?_, fun h => ?_⟩
  · exact State.wake_stall _ c (by rw [hy]; exact decide_eq_true h) (by rw [hy]; exact hw) hs
  · rw [State.wake_unreached _ c (by rw [hy]; exact decide_eq_false (by omega))]
    exact hs

end

end Sys2Proof.Machine

/-! Waiting writes take effect (R9, R486, Table 19-6). -/

namespace Sys2Proof.Machine

/-! ## The end of a wait -/

/-- State `t` differs from `s` in registers and waiting writes only. -/
def State.onlyWaits (t s : State) : Prop := { t with regs := s.regs, asks := s.asks } = s

theorem State.onlyWaits_refl (s : State) : s.onlyWaits s := rfl

theorem State.onlyWaits_setReg {t s : State} (h : t.onlyWaits s) (r : Reg) (i v : Nat) : (t.setReg r i v).onlyWaits s := h

theorem State.onlyWaits_put {t s : State} (h : t.onlyWaits s) (f : Fld) (i x : Nat) : (t.put f i x).onlyWaits s := h

theorem State.onlyWaits_askDone {t s : State} (h : t.onlyWaits s) (r : Reg) (i : Nat) : (t.askDone r i).onlyWaits s := h

section
variable (s : State) (r : Reg) (i : Nat)

theorem State.askDone_regs : (s.askDone r i).regs = (s.setReg r i (setBits (s.reg r i) r.pendBit r.pendBit 0)).regs := rfl

theorem State.askDone_asks : (s.askDone r i).asks = SMap.del s.asks (r.key i) := rfl

@[simp] theorem State.ask_askDone_same : (s.askDone r i).ask r i = none := by
  unfold State.ask
  rw [State.askDone_asks, SMap.look_del, if_pos rfl]

theorem State.reg_askDone_same : (s.askDone r i).reg r i = setBits (s.reg r i) r.pendBit r.pendBit 0 % 2 ^ r.spec.width :=
  (State.reg_congr (s.askDone_regs r i) r i).trans (State.reg_setReg_same _ _ _ _)

theorem State.reg_askDone_other {q : Reg} {k : Nat} (hi : i < 2 ^ 24) (hk : k < 2 ^ 24) (h : q ≠ r ∨ k ≠ i) :
    (s.askDone r i).reg q k = s.reg q k :=
  (State.reg_congr (s.askDone_regs r i) q k).trans (State.reg_setReg_other s _ hi hk h)

/-- Fields below the PENDING bit stay. -/
theorem State.get_askDone_below {f : Fld} (hr : f.reg = r) (hhi : f.hi < r.pendBit) (hw : r.pendBit < r.spec.width) :
    (s.askDone r i).get f i = s.get f i := by
  unfold State.get
  rw [hr, State.reg_askDone_same, bits_mod (by omega), bits_setBits_below _ _ (Nat.le_refl _) hhi]

/-- A stored value is the register's once its wait is over. -/
theorem State.reg_askDone_setReg (v : Nat) (hw : r.pendBit < r.spec.width) :
    ((s.setReg r i v).askDone r i).reg r i = setBits (v % 2 ^ r.spec.width) r.pendBit r.pendBit 0 := by
  rw [State.reg_askDone_same, State.reg_setReg_same]
  exact Nat.mod_eq_of_lt (setBits_lt _ (Nat.le_refl _) hw (Nat.mod_lt _ (Nat.two_pow_pos _)))

end

theorem State.ask_setChan (s : State) (k : Nat) (c : Chan) (r : Reg) (i : Nat) : (s.setChan k c).ask r i = s.ask r i := rfl

theorem PendReg.count_lt (r : PendReg) : r.count < 2 ^ 24 := by cases r <;> decide

/-! ## The command -/

section
variable {r : PendReg} {e : Nat} {o : Start} {errs : List TgErr} {s : State}

theorem exec_takes_none (he : e < r.count) (h1 : r ≠ .rtepoch) (h2 : r ≠ .cpctl) (ha : s.ask (pendReg r) e = none) :
    exec (.writtenValueTakesEffect r e o errs) s = .next s := by
  show execWrittenValueTakesEffect r e o errs s = _
  unfold execWrittenValueTakesEffect within
  rw [if_pos he]
  cases r with
  | rtepoch => exact absurd rfl h1
  | cpctl => exact absurd rfl h2
  | _ => simp only [ha]

theorem exec_takes_some {a : Ask} (he : e < r.count) (h1 : r ≠ .rtepoch) (h2 : r ≠ .cpctl) (ha : s.ask (pendReg r) e = some a) :
    exec (.writtenValueTakesEffect r e o errs) s = .next (s.takeAsk r e a o errs) := by
  show execWrittenValueTakesEffect r e o errs s = _
  unfold execWrittenValueTakesEffect within
  rw [if_pos he]
  cases r with
  | rtepoch => exact absurd rfl h1
  | cpctl => exact absurd rfl h2
  | _ => simp only [ha]

theorem exec_rtepoch_idle (he : e < PendReg.count .rtepoch) (h : s.get F.RTEPOCH_PENDING 0 = 0) :
    exec (.writtenValueTakesEffect .rtepoch e o errs) s = .next s := by
  show execWrittenValueTakesEffect .rtepoch e o errs s = _
  unfold execWrittenValueTakesEffect within
  rw [if_pos he]
  dsimp only
  rw [h]
  rfl

theorem exec_cpctl (he : e < PendReg.count .cpctl) :
    exec (.writtenValueTakesEffect .cpctl e o errs) s = .next s.cpctlGo := by
  show execWrittenValueTakesEffect .cpctl e o errs s = _
  unfold execWrittenValueTakesEffect within
  rw [if_pos he]

end

/-! ## Values -/

/-- A value that crosses a clock domain is stored as written, with PENDING clear (R9). -/
theorem State.takes_value (s : State) {r : PendReg} {e : Nat} (a : Ask) (he : e < r.count) (hw : (pendReg r).pendBit < (pendReg r).spec.width) :
    let t := (s.setReg (pendReg r) e a.value).askDone (pendReg r) e
    { t with regs := s.regs, asks := s.asks } = s
      ∧ t.reg (pendReg r) e = setBits (a.value % 2 ^ (pendReg r).spec.width) (pendReg r).pendBit (pendReg r).pendBit 0
      ∧ t.ask (pendReg r) e = none ∧ ∀ q k, k < 2 ^ 24 → q ≠ pendReg r → t.reg q k = s.reg q k := by
  have hi : e < 2 ^ 24 := Nat.lt_trans he (PendReg.count_lt r)
  refine ⟨State.onlyWaits_askDone (State.onlyWaits_setReg s.onlyWaits_refl _ _ _) _ _, State.reg_askDone_setReg _ _ _ _ hw, State.ask_askDone_same _ _ _, fun q k hk hq => ?_⟩
  rw [State.reg_askDone_other _ _ _ hi hk (.inl hq), State.reg_setReg_other _ _ hi hk (.inl hq)]

/-- A REF is in force from the next refill on. -/
theorem State.takes_dieref (s : State) {e : Nat} {a : Ask} (ha : s.ask .DIEREF e = some a) :
    (s.takeDieref e).get F.DIEREF_REF e = a.value % 2 ^ 28 ∧ (s.takeDieref e).ask .DIEREF e = none
      ∧ { s.takeDieref e with regs := s.regs, asks := s.asks } = s := by
  have ht : s.takeDieref e = (s.put F.DIEREF_REF e (a.value % 2 ^ 28)).askDone .DIEREF e := by
    unfold State.takeDieref
    rw [ha]
  rw [ht]
  refine ⟨?_, State.ask_askDone_same _ _ _, State.onlyWaits_askDone (State.onlyWaits_put s.onlyWaits_refl _ _ _) _ _⟩
  refine (State.get_askDone_below _ .DIEREF _ rfl (by decide) (by decide)).trans ?_
  rw [State.get_put_same _ _ _ _ (by decide) (by decide)]
  exact Nat.mod_mod _ _

/-- An action reaches a channel with no copies and nothing else but its register (R209). -/
theorem State.takes_chctl (s : State) {e : Nat} (a : Nat) (hq : (s.chan e).queue = []) :
    let t := (s.askDone .CHCTL e).chanAct e a
    t.chan e = (s.chan e).act a ∧ t.ask .CHCTL e = none ∧ (∀ k, k ≠ e → t.chan k = s.chan k) ∧ t.tiles = s.tiles ∧ t.mem = s.mem := by
  have hact : ((s.chan e).act a).queue = [] := by
    unfold Chan.act
    split <;> simp [hq]
  have ht : (s.askDone .CHCTL e).chanAct e a = (s.askDone .CHCTL e).setChan e ((s.chan e).act a) := by
    have hc : (s.askDone .CHCTL e).chan e = s.chan e := by
      unfold State.chan
      rw [State.askDone_chans]
    unfold State.chanAct State.readOn
    simp [hc, hq, hact]
  rw [ht]
  refine ⟨by simp, ?_, fun k hk => ?_, ?_, ?_⟩
  · rw [State.ask_setChan, State.ask_askDone_same]
  · rw [State.chan_setChan, if_neg hk]
    unfold State.chan
    rw [State.askDone_chans]
  · rw [State.setChan_tiles, State.askDone_tiles]
  · rw [State.setChan_mem, State.askDone_mem]

end Sys2Proof.Machine

/-! A written power cap takes effect, and ends a sprint that it does not allow (R378, R381). -/

namespace Sys2Proof.Machine

/-! ## The end of a sprint -/

/-- One die's part of the end of a sprint. -/
def State.dieSprintOff (u : State) (d : Nat) : State :=
  let u := u.put F.GOVSTAT_SPRINT d 0
  if u.get F.GOVSTAT_FREQ d = 20 then u.put F.GOVSTAT_FREQ d 18 else u

/-- The flag of die 0 clears with its own part, and no die's part sets it. -/
theorem State.sprint_dieSprintOff (u : State) {d : Nat} (hd : d < 8) (h : d = 0 ∨ u.get F.GOVSTAT_SPRINT 0 = 0) :
    (u.dieSprintOff d).get F.GOVSTAT_SPRINT 0 = 0 := by
  have hclear : (u.put F.GOVSTAT_SPRINT d 0).get F.GOVSTAT_SPRINT 0 = 0 := by
    by_cases h0 : d = 0
    · subst h0
      rw [State.get_put_same _ _ _ _ (by decide) (by decide)]
      rfl
    · rw [State.get_put_other _ _ (by omega) (by omega) (.inr (Ne.symm h0))]
      exact h.resolve_left h0
  unfold State.dieSprintOff
  dsimp only
  split
  · by_cases h0 : d = 0
    · subst h0
      rw [State.get_put_field (f := F.GOVSTAT_FREQ) (g := F.GOVSTAT_SPRINT) _ _ _ rfl (by decide) (by decide) (.inr (by decide)), hclear]
    · rw [State.get_put_other _ _ (by omega) (by omega) (.inr (Ne.symm h0)), hclear]
  · exact hclear

/-- No module sprints whose sprint is over (R380). -/
theorem State.sprintOff_sprinting (s : State) (us win : Nat) : (s.sprintOff us win).sprinting = false := by
  have hfold : ((List.range 8).foldl State.dieSprintOff s).get F.GOVSTAT_SPRINT 0 = 0 := by
    rw [show List.range 8 = 0 :: [1, 2, 3, 4, 5, 6, 7] from rfl, List.foldl_cons]
    refine List.foldlRecOn (motive := fun u : State => u.get F.GOVSTAT_SPRINT 0 = 0) _ State.dieSprintOff ?_ fun u hu d hd => ?_
    · exact s.sprint_dieSprintOff (by decide) (.inl rfl)
    · exact u.sprint_dieSprintOff (by fin_cases hd <;> decide) (.inr hu)
  have heq : ∃ (p : Power) (x y : Nat), s.sprintOff us win
      = ((((List.range 8).foldl State.dieSprintOff s).setPower p).put F.SPRSTAT_WINUS 0 x).put F.SPRWEAR_SECONDS 0 y :=
    ⟨_, _, _, rfl⟩
  obtain ⟨p, x, y, he⟩ := heq
  unfold State.sprinting
  rw [he, State.get_put_other _ _ (by decide) (by decide) (.inl (by decide)),
    State.get_put_other _ _ (by decide) (by decide) (.inl (by decide)),
    State.get_congr (s := (List.range 8).foldl State.dieSprintOff s) (t := ((List.range 8).foldl State.dieSprintOff s).setPower p) rfl,
    hfold]
  rfl

/-- A sprint that a bound ends is over, and LASTCAP names the bound (R381). -/
theorem State.endSprint_ends (s : State) {bound : Nat} (us win : Nat) (hb : bound < 16) (hs : s.sprinting = true) :
    (s.endSprint bound us win).sprinting = false ∧ (s.endSprint bound us win).get F.SPRSTAT_LASTCAP 0 = bound := by
  have he : s.endSprint bound us win
      = ((s.sprintOff us win).put F.SPRSTAT_LASTCAP 0 bound).log .sprintCap 0 (leBytes 1 bound) := by
    unfold State.endSprint
    rw [if_pos hs]
  have hlog : ∀ (u : State) (f : Fld), f.reg ≠ .LOGLOST → (u.log .sprintCap 0 (leBytes 1 bound)).get f 0 = u.get f 0 :=
    fun u f hf => State.get_of_reg (u.reg_log _ _ _ (by decide) hf)
  rw [he]
  refine ⟨?_, ?_⟩
  · unfold State.sprinting
    rw [hlog _ _ (by decide), State.get_put_other _ _ (by decide) (by decide) (.inl (by decide))]
    exact s.sprintOff_sprinting us win
  · rw [hlog _ _ (by decide), State.get_put_same _ _ _ _ (by decide) (by decide)]
    exact Nat.mod_eq_of_lt hb

theorem State.cutSprint_idle (s : State) (bound : Nat) (hs : s.sprinting = false) : s.cutSprint bound = s := by
  unfold State.cutSprint
  rw [hs]
  rfl

theorem State.cutSprint_ends (s : State) {bound : Nat} (hb : bound < 16) (hs : s.sprinting = true) :
    (s.cutSprint bound).sprinting = false ∧ (s.cutSprint bound).get F.SPRSTAT_LASTCAP 0 = bound := by
  unfold State.cutSprint
  rw [if_pos hs]
  exact State.endSprint_ends _ _ _ hb hs

/-! ## The cap -/

section
variable {s : State} {a : Ask} (ha : s.ask .POWERCAP 0 = some a)
include ha

/-- What a waiting cap stores, and what it leaves. -/
theorem State.takePowercap_stores :
    s.takePowercap.get F.POWERCAP_WATTS 0
        = (if 1200 ≤ bits a.value 10 0 ∧ bits a.value 10 0 ≤ 2000 then bits a.value 10 0 else s.get F.POWERCAP_WATTS 0)
      ∧ s.takePowercap.get F.POWERCAP_SPRINTEN 0 = bits a.value 12 12 ∧ s.takePowercap.ask .POWERCAP 0 = none
      ∧ s.takePowercap.onlyWaits s ∧ s.takePowercap.sprinting = s.sprinting := by
  have ht : s.takePowercap = (if 1200 ≤ bits a.value 10 0 ∧ bits a.value 10 0 ≤ 2000
      then (s.put F.POWERCAP_SPRINTEN 0 (bits a.value 12 12)).put F.POWERCAP_WATTS 0 (bits a.value 10 0)
      else s.put F.POWERCAP_SPRINTEN 0 (bits a.value 12 12)).askDone .POWERCAP 0 := by
    unfold State.takePowercap
    rw [ha]
  have hflag : (s.put F.POWERCAP_SPRINTEN 0 (bits a.value 12 12)).get F.POWERCAP_SPRINTEN 0 = bits a.value 12 12 := by
    rw [State.get_put_same _ _ _ _ (by decide) (by decide)]
    exact Nat.mod_eq_of_lt (bits_lt _ _ _)
  have hsprint : ∀ u : State, u.reg .GOVSTAT 0 = s.reg .GOVSTAT 0 → u.sprinting = s.sprinting := fun u hu => by
    unfold State.sprinting
    rw [State.get_of_reg (f := F.GOVSTAT_SPRINT) hu]
  have hdone : ∀ (u : State) (f : Fld), f.reg = .POWERCAP → f.hi < 31 → (u.askDone .POWERCAP 0).get f 0 = u.get f 0 :=
    fun u f hf hhi => State.get_askDone_below u .POWERCAP 0 hf hhi (by decide)
  rw [ht, hdone _ F.POWERCAP_WATTS rfl (by decide), hdone _ F.POWERCAP_SPRINTEN rfl (by decide)]
  refine ⟨?_, ?_, State.ask_askDone_same _ _ _, State.onlyWaits_askDone ?_ _ _, hsprint _ ?_⟩
  · split
    · rw [State.get_put_same _ _ _ _ (by decide) (by decide)]
      exact Nat.mod_eq_of_lt (bits_lt _ _ _)
    · exact State.get_put_field (f := F.POWERCAP_SPRINTEN) (g := F.POWERCAP_WATTS) _ _ _ rfl (by decide) (by decide) (.inr (by decide))
  · split
    · rw [State.get_put_field (f := F.POWERCAP_WATTS) (g := F.POWERCAP_SPRINTEN) _ _ _ rfl (by decide) (by decide) (.inl (by decide)), hflag]
    · exact hflag
  · split
    · exact State.onlyWaits_put (State.onlyWaits_put s.onlyWaits_refl _ _ _) _ _ _
    · exact State.onlyWaits_put s.onlyWaits_refl _ _ _
  · rw [State.reg_askDone_other _ _ _ (by decide) (by decide) (.inl (by decide))]
    split
    · rw [State.reg_put_other _ _ (by decide) (by decide) (.inl (by decide)),
        State.reg_put_other _ _ (by decide) (by decide) (.inl (by decide))]
    · rw [State.reg_put_other _ _ (by decide) (by decide) (.inl (by decide))]

/-- Without a sprint a cap in the range is in force, with its SPRINTEN. -/
theorem State.powercapNow_idle (hs : s.sprinting = false) (h1 : 1200 ≤ bits a.value 10 0) (h2 : bits a.value 10 0 ≤ 2000) :
    s.powercapNow.get F.POWERCAP_WATTS 0 = bits a.value 10 0 ∧ s.powercapNow.get F.POWERCAP_SPRINTEN 0 = bits a.value 12 12
      ∧ s.powercapNow.ask .POWERCAP 0 = none ∧ { s.powercapNow with regs := s.regs, asks := s.asks } = s := by
  obtain ⟨hw, he, hk, hf, hsp⟩ := State.takePowercap_stores ha
  have hnow : s.powercapNow = s.takePowercap := by
    unfold State.powercapNow
    dsimp only
    split
    · exact State.cutSprint_idle _ _ (hsp.trans hs)
    · rfl
  rw [hnow]
  exact ⟨hw.trans (if_pos ⟨h1, h2⟩), he, hk, hf⟩

/-- A cap below 2,000 W, or one that takes SPRINTEN away, ends a sprint (R378). -/
theorem State.powercapNow_ends (hs : s.sprinting = true) (hc : bits a.value 10 0 < 2000 ∨ bits a.value 12 12 = 0)
    (h1 : 1200 ≤ bits a.value 10 0) : s.powercapNow.sprinting = false ∧ s.powercapNow.get F.SPRSTAT_LASTCAP 0 = 4 := by
  obtain ⟨hw, he, -, -, hsp⟩ := State.takePowercap_stores ha
  have hcut : s.takePowercap.get F.POWERCAP_WATTS 0 < 2000 ∨ s.takePowercap.get F.POWERCAP_SPRINTEN 0 = 0 := by
    rcases hc with hc | hc
    · left; rw [hw, if_pos ⟨h1, by omega⟩]; exact hc
    · right; rw [he]; exact hc
  have hnow : s.powercapNow = s.takePowercap.cutSprint 4 := by
    unfold State.powercapNow
    dsimp only
    exact if_pos hcut
  rw [hnow]
  exact State.cutSprint_ends _ (by decide) (hsp.trans hs)

end

end Sys2Proof.Machine

/-! The obligation on register accesses, part by part. -/

namespace Sys2Proof.Machine

theorem exec_registerWrite (hearth : Bool) (off : Nat) (data : List Byte) (s : State) :
    exec (.registerWrite hearth off data) s = .next (s.access hearth off data) := rfl

theorem exec_sccountWrite {hearth : Bool} {c : Nat} {v : BitVec 32} {s : State} (hc : c < 65536) :
    exec (.sccountWrite hearth c v) s = .next (s.access hearth (Win.base .syncmap + 0 + 32 * c) (leBytes 4 v.toNat)) := if_pos hc

theorem exec_sctargetWrite {hearth : Bool} {c : Nat} {v : BitVec 32} {s : State} (hc : c < 65536) :
    exec (.sctargetWrite hearth c v) s = .next (s.access hearth (Win.base .syncmap + 4 + 32 * c) (leBytes 4 v.toNat)) := if_pos hc

theorem exec_badRegisterAccess (hearth : Bool) (off size : Nat) (s : State) :
    exec (.badRegisterAccess hearth off size) s = .next (if !s.mayAccess hearth || accessOk off size then s else s.badAccess hearth off) := rfl

/-- Command `i` of an agent changes nothing and is recorded. -/
def recordsOnly (i : Instr) (hearth : Bool) (off kind : Nat) (s : State) : Prop :=
  ∃ t, exec i s = .next t ∧ t.recordedAs s hearth off kind

theorem recordsOnly_of {i : Instr} {hearth : Bool} {off kind : Nat} {s : State} (hk : kind < 16)
    (h : exec i s = .next (s.record hearth kind off)) : recordsOnly i hearth off kind s :=
  ⟨_, h, s.record_recordedAs hearth off hk⟩

/-! ## Legal and bad accesses, unused offsets, windows without power -/

section
variable (s : State) (hearth : Bool) (off : Nat) (data : List Byte)

theorem access_denied (hm : s.mayAccess hearth = false) :
    exec (.registerWrite hearth off data) s = .next s ∧ exec (.badRegisterAccess hearth off data.length) s = .next s := by
  rw [exec_registerWrite, exec_badRegisterAccess, hm]
  unfold State.access
  rw [hm]
  exact ⟨rfl, rfl⟩

theorem access_bad (hm : s.mayAccess hearth = true) (ho : accessOk off data.length = false) :
    recordsOnly (.registerWrite hearth off data) hearth off 4 s ∧ recordsOnly (.badRegisterAccess hearth off data.length) hearth off 4 s := by
  have hw : s.access hearth off data = s.record hearth 4 off := by
    unfold State.access
    rw [hm, ho]
    rfl
  have hb : exec (.badRegisterAccess hearth off data.length) s = .next (s.record hearth 4 off) := by
    rw [exec_badRegisterAccess, hm, ho]
    rfl
  exact ⟨recordsOnly_of (by decide) (by rw [exec_registerWrite, hw]), recordsOnly_of (by decide) hb⟩

theorem badAccess_legal (ho : accessOk off data.length = true) : exec (.badRegisterAccess hearth off data.length) s = .next s := by
  rw [exec_badRegisterAccess, ho, Bool.or_true]
  rfl

variable {s hearth off data}

theorem access_unused (hm : s.mayAccess hearth = true) {w : Win} (ho : accessOk off data.length = true) (hw : winAt off = some w)
    (hr : ∀ i, i < data.length → regAt w (off - w.base + i) = none) :
    recordsOnly (.registerWrite hearth off data) hearth off 1 s :=
  recordsOnly_of (by decide) (by rw [exec_registerWrite, State.access_ok hm ho, State.writeSpace_unused hw (partsOf_nil hr)])

theorem access_unpowered (hm : s.mayAccess hearth = true) {w : Win} (ho : accessOk off data.length = true) (hw : winAt off = some w)
    (hp : s.reach w = 0) (hr : ∃ i, i < data.length ∧ regAt w (off - w.base + i) ≠ none) :
    recordsOnly (.registerWrite hearth off data) hearth off 3 s :=
  recordsOnly_of (by decide)
    (by rw [exec_registerWrite, State.access_ok hm ho, State.writeSpace_unreached hw (partsOf_ne_nil hr) hp])

end

/-! ## The words of the power and health windows -/

/-- The places of the words are below 2^40. -/
theorem word_place {r : Reg} (h : r ∈ wordRegs) : (r.spec.win.base + r.spec.off + 0) % 2 ^ 40 = r.spec.win.base + r.spec.off + 0 := by
  have key : ∀ q ∈ wordRegs, q.spec.win.base + q.spec.off + 0 < 2 ^ 40 := by decide
  exact Nat.mod_eq_of_lt (key r h)

/-- Which actions the module refuses while it is active (R479, R482). -/
theorem refuses_active {s : State} (ha : s.active = true) (hearth : Bool) :
    s.refuses hearth .RSTCTL 0 1 = false ∧ s.refuses hearth .RSTCTL 0 2 = false ∧ s.refuses hearth .RSTCTL 0 4 = true
      ∧ s.refuses hearth .RSTCTL 0 6 = true ∧ (∀ k ∈ [3, 5], s.refuses hearth .RSTCTL 0 k = s.sleepRefused)
      ∧ s.refuses hearth .DRAINCTL 0 2 = s.jobRuns := by
  have hp : s.get F.PWRSTAT_STATE 0 = 3 ∨ s.get F.PWRSTAT_STATE 0 = 4 := by
    unfold State.active at ha
    simpa only [Bool.or_eq_true, decide_eq_true_eq] using ha
  have h6 : s.get F.PWRSTAT_STATE 0 ≠ 6 := by omega
  have h9 : s.get F.PWRSTAT_STATE 0 ≠ 9 := by omega
  refine ⟨?_, ?_, ?_, ?_, ?_, rfl⟩
  · show (!s.active) = false
    rw [ha]; rfl
  · show (!s.active && decide (s.get F.PWRSTAT_STATE 0 ≠ 6)) = false
    rw [ha]; rfl
  · exact decide_eq_true h6
  · show (!hearth || decide (s.get F.PWRSTAT_STATE 0 ≠ 9)) = true
    rw [decide_eq_true h9, Bool.or_true]
  · intro k hk
    simp only [List.mem_cons, List.not_mem_nil, or_false] at hk
    rcases hk with rfl | rfl
    · show (!s.active || s.sleepRefused) = _
      rw [ha]; rfl
    · show (!(s.active || decide (s.get F.PWRSTAT_STATE 0 = 6)) || s.sleepRefused) = _
      rw [ha]; rfl

/-- A refused action of RSTCTL sets REFUSED where it is an entry to Nap or Deep, and nothing else (R479). -/
theorem State.markRefused_rstctl {s : State} (ha : s.active = true) (k : Nat) :
    (s.markRefused .RSTCTL 0 k).onlyRegs s
      ∧ (∀ q j, j < 2 ^ 24 → q ≠ .PWRSTAT → (s.markRefused .RSTCTL 0 k).reg q j = s.reg q j)
      ∧ (s.markRefused .RSTCTL 0 k).get F.PWRSTAT_STATE 0 = s.get F.PWRSTAT_STATE 0
      ∧ (s.markRefused .RSTCTL 0 k).get F.PWRSTAT_REFUSED 0 = if k = 3 ∨ k = 5 then 1 else s.get F.PWRSTAT_REFUSED 0 := by
  have hmark : s.markRefused .RSTCTL 0 k = if k = 3 ∨ k = 5 then s.put F.PWRSTAT_REFUSED 0 1 else s := by
    show (if (k = 3 ∧ s.active = true) ∨ (k = 5 ∧ (s.active = true ∨ s.get F.PWRSTAT_STATE 0 = 6)) then s.put F.PWRSTAT_REFUSED 0 1 else s) = _
    simp only [ha, and_true, true_or]
  rw [hmark]
  by_cases hk : k = 3 ∨ k = 5
  · rw [if_pos hk, if_pos hk]
    refine ⟨State.onlyRegs_put s.onlyRegs_refl _ _ _, fun q j hj hq => State.reg_put_other _ _ (by decide) hj (.inl hq), ?_, ?_⟩
    · exact State.get_put_field (f := F.PWRSTAT_REFUSED) (g := F.PWRSTAT_STATE) _ _ _ rfl (by decide) (by decide) (.inr (by decide))
    · rw [State.get_put_same _ _ _ _ (by decide) (by decide)]
      rfl
  · rw [if_neg hk, if_neg hk]
    exact ⟨s.onlyRegs_refl, fun _ _ _ _ => rfl, rfl, rfl⟩

/-- A refused word of RSTCTL: the record, the mark, and nothing else. -/
theorem rstctl_refused {s : State} {hearth : Bool} {v : BitVec 32} (hm : s.mayAccess hearth = true) (ha : s.active = true)
    (hf : s.refuses hearth .RSTCTL 0 (v.toNat % 8) = true) :
    ∃ t, exec (.registerWrite hearth (Reg.RSTCTL.spec.win.base + Reg.RSTCTL.spec.off + 0) (leBytes 4 v.toNat)) s = .next t
      ∧ t.onlyRegs s ∧ t.get F.CSLAST_VALID (bankOf hearth) = 1 ∧ t.get F.CSLAST_KIND (bankOf hearth) = 2
      ∧ t.get F.CSLAST_OFFSET (bankOf hearth) = Reg.RSTCTL.spec.win.base + Reg.RSTCTL.spec.off + 0
      ∧ t.counted s F.CSCOUNT_COUNT (bankOf hearth) ∧ t.reg .RSTCTL 0 = s.reg .RSTCTL 0
      ∧ t.get F.PWRSTAT_STATE 0 = s.get F.PWRSTAT_STATE 0
      ∧ t.get F.PWRSTAT_REFUSED 0 = if v.toNat % 8 = 3 ∨ v.toNat % 8 = 5 then 1 else s.get F.PWRSTAT_REFUSED 0 := by
  obtain ⟨hregs, hother, hstate, hrefused⟩ := State.markRefused_rstctl ha (v.toNat % 8)
  have hacc := State.word_refused (r := .RSTCTL) hm ha (.inl rfl) (by rw [if_pos rfl]; exact hf)
  rw [if_pos rfl] at hacc
  obtain ⟨-, hvalid, hkind, hoff, hcount, -, hrest⟩ := (s.markRefused .RSTCTL 0 (v.toNat % 8)).record_recordedAs hearth
    (kind := 2) (Reg.RSTCTL.spec.win.base + Reg.RSTCTL.spec.off + 0) (by decide)
  refine ⟨_, by rw [exec_registerWrite, hacc], State.onlyRegs_record hregs _ _ _, hvalid, hkind, ?_, ?_, ?_, ?_, ?_⟩
  · rw [hoff, word_place (by decide)]
  · unfold State.counted at hcount ⊢
    rw [hcount, State.get_of_reg (f := F.CSCOUNT_COUNT) (hother .CSCOUNT _ (bankOf_lt hearth) (by decide))]
  · rw [hrest .RSTCTL 0 (by decide) (by decide), hother .RSTCTL 0 (by decide) (by decide)]
  · rw [State.get_of_reg (f := F.PWRSTAT_STATE) (hrest .PWRSTAT 0 (by decide) (by decide)), hstate]
  · rw [State.get_of_reg (f := F.PWRSTAT_REFUSED) (hrest .PWRSTAT 0 (by decide) (by decide)), hrefused]

/-- A refused word of DRAINCTL or TWINCTL is recorded and does nothing else. -/
theorem action_refused {s : State} {hearth : Bool} {v : BitVec 32} {r : Reg} (hm : s.mayAccess hearth = true) (ha : s.active = true)
    (hr : r ∈ [Reg.DRAINCTL, .TWINCTL]) (hf : s.refuses hearth r 0 (v.toNat % 4) = true) :
    recordsOnly (.registerWrite hearth (r.spec.win.base + r.spec.off + 0) (leBytes 4 v.toNat)) hearth (r.spec.win.base + r.spec.off + 0) 2 s := by
  have hor : r = .DRAINCTL ∨ r = .TWINCTL := by simpa using hr
  have hne : ¬ r = .RSTCTL := by rcases hor with rfl | rfl <;> decide
  have hacc := State.word_refused (r := r) hm ha (.inr hor) (by rw [if_neg hne]; exact hf)
  have hmark : ∀ k, s.markRefused r 0 k = s := fun k => by rcases hor with rfl | rfl <;> rfl
  rw [hmark] at hacc
  exact recordsOnly_of (by decide) (by rw [exec_registerWrite, hacc])

/-- A word of RSTCTL that names no action does nothing. -/
theorem rstctl_none {s : State} {hearth : Bool} {v : BitVec 32} (hm : s.mayAccess hearth = true) (ha : s.active = true)
    (hv : v.toNat % 8 = 0 ∨ v.toNat % 8 = 7) :
    exec (.registerWrite hearth (Reg.RSTCTL.spec.win.base + Reg.RSTCTL.spec.off + 0) (leBytes 4 v.toNat)) s = .next s := by
  have hf : s.refuses hearth .RSTCTL 0 (v.toNat % 8) = false := by rcases hv with h | h <;> rw [h] <;> rfl
  rw [exec_registerWrite, State.rstctl_waits hm ha hf]
  unfold State.action
  rw [if_pos (by omega)]

/-- Any other word of RSTCTL leaves its action waiting. -/
theorem rstctl_action {s : State} {hearth : Bool} {v : BitVec 32} (hm : s.mayAccess hearth = true) (ha : s.active = true)
    (h1 : 1 ≤ v.toNat % 8) (h6 : v.toNat % 8 ≤ 6) (hf : s.refuses hearth .RSTCTL 0 (v.toNat % 8) = false) :
    ∃ t, exec (.registerWrite hearth (Reg.RSTCTL.spec.win.base + Reg.RSTCTL.spec.off + 0) (leBytes 4 v.toNat)) s = .next t
      ∧ { t with regs := s.regs, asks := s.asks } = s ∧ t.get F.RSTCTL_PENDING 0 = 1
      ∧ t.ask .RSTCTL 0 = some { hearth := hearth, off := Reg.RSTCTL.spec.win.base + Reg.RSTCTL.spec.off + 0, value := v.toNat % 8 }
      ∧ ∀ q k, k < 2 ^ 24 → q ≠ .RSTCTL → t.reg q k = s.reg q k := by
  have hact : s.action hearth .RSTCTL 0 (Reg.RSTCTL.spec.win.base + Reg.RSTCTL.spec.off + 0) (v.toNat % 8) 6
      = s.setAsk .RSTCTL 0 ⟨hearth, Reg.RSTCTL.spec.win.base + Reg.RSTCTL.spec.off + 0, v.toNat % 8⟩ := by
    unfold State.action
    rw [if_neg (by omega)]
  refine ⟨_, by rw [exec_registerWrite, State.rstctl_waits hm ha hf, hact], State.setAsk_frame _ _ _ _, ?_, State.ask_setAsk_same _ _ _ _,
    fun q k hk hq => State.reg_setAsk_other _ _ _ (by decide) hk (.inl hq)⟩
  exact State.get_setAsk_pending s .RSTCTL _ 0 rfl rfl rfl (by decide)

/-- A word of POWERCAP waits with PENDING, and the cap in force stays. -/
theorem powercap_pending {s : State} {hearth : Bool} {v : BitVec 32} (hm : s.mayAccess hearth = true) (ha : s.active = true)
    (hk : s.ask .POWERCAP 0 = none) :
    ∃ t, exec (.registerWrite hearth (Reg.POWERCAP.spec.win.base + Reg.POWERCAP.spec.off + 0) (leBytes 4 v.toNat)) s = .next t
      ∧ { t with regs := s.regs, asks := s.asks } = s ∧ t.get F.POWERCAP_PENDING 0 = 1
      ∧ t.get F.POWERCAP_WATTS 0 = s.get F.POWERCAP_WATTS 0 ∧ ∃ a, t.ask .POWERCAP 0 = some a ∧ a.hearth = hearth
      ∧ bits a.value 10 0 = if 1200 ≤ bits v.toNat 10 0 ∧ bits v.toNat 10 0 ≤ 2000 then bits v.toNat 10 0 else s.get F.POWERCAP_WATTS 0 := by
  refine ⟨_, by rw [exec_registerWrite, State.powercap_waits hm ha hk], State.setAsk_frame _ _ _ _, ?_, ?_, _,
    State.ask_setAsk_same _ _ _ _, rfl, powercap_asks⟩
  · exact State.get_setAsk_pending s .POWERCAP _ 0 rfl rfl rfl (by decide)
  · exact State.get_setAsk_below s .POWERCAP _ 0 rfl (by decide) (by decide)

/-- The host cannot write HSCFG (R509). -/
theorem hscfg_host {s : State} {v : BitVec 32} (hm : s.mayAccess false = true) (ha : s.active = true) :
    recordsOnly (.registerWrite false (Reg.HSCFG.spec.win.base + Reg.HSCFG.spec.off + 0) (leBytes 4 v.toNat)) false
      (Reg.HSCFG.spec.win.base + Reg.HSCFG.spec.off + 0) 2 s := by
  refine recordsOnly_of (by decide) ?_
  rw [exec_registerWrite, State.access_nothing hm (landsOn_reg (r := .HSCFG) (by decide) _) (State.reach_of_active ha _)]
  rw [whole_reaches false (leBytes_length 4 _)]
  rfl

/-- MCHSEL of one agent is not that of the other. -/
theorem mchsel_bank (s : State) (hearth : Bool) (x : Nat) :
    (s.setReg .MCHSEL (bankOf hearth) x).reg .MCHSEL (bankOf (!hearth)) = s.reg .MCHSEL (bankOf (!hearth)) :=
  State.reg_setReg_other _ _ (bankOf_lt _) (bankOf_lt _) (.inr (bankOf_not_ne _))


/-! ## Counters -/

/-- A write of a count or a target in a window without power is recorded. -/
theorem counter_unpowered {s : State} {hearth : Bool} {c : Nat} {v : BitVec 32} (hm : s.mayAccess hearth = true) (hc : c < 65536)
    (hp : s.get F.PWRSTAT_STATE 0 < 2 ∨ 7 < s.get F.PWRSTAT_STATE 0) :
    recordsOnly (.sccountWrite hearth c v) hearth (Win.base .syncmap + 0 + 32 * c) 3 s
      ∧ recordsOnly (.sctargetWrite hearth c v) hearth (Win.base .syncmap + 4 + 32 * c) 3 s := by
  have hr := State.reach_counters_off hp
  refine ⟨recordsOnly_of (by decide) ?_, recordsOnly_of (by decide) ?_⟩
  · rw [exec_sccountWrite hc, State.access_unreached hm (landsOn_sccount _ hc) hr]
  · rw [exec_sctargetWrite hc, State.access_unreached hm (landsOn_sctarget _ hc) hr]

/-! ## The actions by their codes -/

theorem State.portAsk_reset (s : State) (p : Nat) : s.portAsk p 1 = s.portReset p := if_pos rfl

theorem State.drainAsk_codes (s : State) (h : Bool) (f : List MFail) :
    s.drainAsk h 1 f = s.drainNow ∧ s.drainAsk h 2 f = s.marginCmd h f := ⟨if_pos rfl, if_neg (by decide)⟩

theorem State.mchAsk_codes (s : State) (h : Bool) (m : Nat) (errs : List TgErr) :
    s.mchAsk h m 1 errs = s.takeOut h m ∧ s.mchAsk h m 2 errs = s.returnIn h m errs ∧ s.mchAsk h m 3 errs = s.startGen h m
      ∧ s.mchAsk h m 4 errs = s.stopGen m errs := by
  simp only [State.mchAsk, and_self]

theorem State.resetAsk_codes (s : State) (h : Bool) (o : Start) :
    s.resetAsk h 1 o = s.computeReset h o.fails ∧ s.resetAsk h 2 o = s.warmReset h o ∧ s.resetAsk h 3 o = s.enterNap h
      ∧ s.resetAsk h 4 o = s.leaveNap h ∧ s.resetAsk h 5 o = s.enterDeep h ∧ s.resetAsk h 6 o = s.leaveDeep h o := by
  simp only [State.resetAsk, and_self]

/-- The commands of RSTCTL's actions. -/
theorem exec_resets (s : State) (h : Bool) (o : Start) :
    exec (.computeReset h o.fails) s = .next (s.computeReset h o.fails) ∧ exec (.warmReset h o) s = .next (s.warmReset h o)
      ∧ exec (.enterNap h) s = .next (s.enterNap h) ∧ exec (.leaveNap h) s = .next (s.leaveNap h)
      ∧ exec (.enterDeep h) s = .next (s.enterDeep h) ∧ exec (.leaveDeep h o) s = .next (s.leaveDeep h o) :=
  ⟨rfl, rfl, rfl, rfl, rfl, rfl⟩

/-! ## Waiting writes -/

/-- Two commands with the same next state. -/
theorem same_next {i j : Instr} {s t : State} (hi : exec i s = .next t) (hj : exec j s = .next t) :
    exec i s = exec j s ∧ ∃ t, exec i s = .next t := ⟨hi.trans hj.symm, t, hi⟩

section
variable {s : State} {e : Nat} {o : Start} {errs : List TgErr} {a : Ask}

theorem takes_portctl (he : e < PendReg.count .portctl) (ha : s.ask .PORTCTL e = some a) (hv : a.value = 1) :
    exec (.writtenValueTakesEffect .portctl e o errs) s = exec (.portReset e) s
      ∧ ∃ t, exec (.writtenValueTakesEffect .portctl e o errs) s = .next t := by
  have hi : exec (.writtenValueTakesEffect .portctl e o errs) s = .next (s.portAsk e a.value) := exec_takes_some he nofun nofun ha
  exact same_next (by rw [hi, hv, s.portAsk_reset]) (if_pos he)

/-- The actions of DRAINCTL. -/
theorem takes_drainctl (he : e < PendReg.count .drainctl) (ha : s.ask .DRAINCTL e = some a) :
    let i := Instr.writtenValueTakesEffect .drainctl e o errs
    (a.value = 1 → exec i s = exec .drain s ∧ ∃ t, exec i s = .next t)
      ∧ (a.value = 2 → exec i s = exec (.marginTests a.hearth o.fails) s ∧ ∃ t, exec i s = .next t) := by
  have hi : exec (.writtenValueTakesEffect .drainctl e o errs) s = .next (s.drainAsk a.hearth a.value o.fails) :=
    exec_takes_some he nofun nofun ha
  obtain ⟨h1, h2⟩ := s.drainAsk_codes a.hearth o.fails
  exact ⟨fun hv => same_next (by rw [hi, hv, h1]) rfl,
    fun hv => same_next (by rw [hi, hv, h2]) rfl⟩

/-- The actions of TWINCTL. -/
theorem takes_twinctl (he : e < PendReg.count .twinctl) (ha : s.ask .TWINCTL e = some a) :
    let i := Instr.writtenValueTakesEffect .twinctl e o errs
    (a.value = 1 → exec i s = exec (.twinctlPromote a.hearth) s ∧ ∃ t, exec i s = .next t)
      ∧ (a.value = 2 → exec i s = exec (.twinctlDetach a.hearth) s ∧ ∃ t, exec i s = .next t) := by
  have hi : exec (.writtenValueTakesEffect .twinctl e o errs) s
      = .next (if a.value = 1 then s.twinPromote a.hearth else s.twinDetach a.hearth) := exec_takes_some he nofun nofun ha
  exact ⟨fun hv => same_next (by rw [hi, if_pos hv]) rfl,
    fun hv => same_next (by rw [hi, if_neg (by omega)]) rfl⟩

/-- The actions of MCHCTL, on a channel of the module. -/
theorem takes_mchctl (he : e < PendReg.count .mchctl) (ha : s.ask .MCHCTL e = some a) :
    let i := Instr.writtenValueTakesEffect .mchctl e o errs
    (a.value = 1 → exec i s = exec (.takeOutOfService a.hearth e) s ∧ ∃ t, exec i s = .next t)
      ∧ (a.value = 2 → exec i s = exec (.returnToService a.hearth e errs) s ∧ ∃ t, exec i s = .next t)
      ∧ (a.value = 3 → exec i s = exec (.startGenerator a.hearth e) s ∧ ∃ t, exec i s = .next t)
      ∧ (a.value = 4 → exec i s = exec (.stopGenerator e errs) s ∧ ∃ t, exec i s = .next t) := by
  have hi : exec (.writtenValueTakesEffect .mchctl e o errs) s = .next (s.mchAsk a.hearth e a.value errs) :=
    exec_takes_some he nofun nofun ha
  obtain ⟨h1, h2, h3, h4⟩ := s.mchAsk_codes a.hearth e errs
  exact ⟨fun hv => same_next (by rw [hi, hv, h1]) (if_pos he), fun hv => same_next (by rw [hi, hv, h2]) (if_pos he),
    fun hv => same_next (by rw [hi, hv, h3]) (if_pos he), fun hv => same_next (by rw [hi, hv, h4]) (if_pos he)⟩

/-- The actions of RSTCTL. -/
theorem takes_rstctl (he : e < PendReg.count .rstctl) (ha : s.ask .RSTCTL e = some a) :
    let i := Instr.writtenValueTakesEffect .rstctl e o errs
    let same := fun (j : Instr) => exec i s = exec j s ∧ ∃ t, exec i s = .next t
    (a.value = 1 → same (.computeReset a.hearth o.fails)) ∧ (a.value = 2 → same (.warmReset a.hearth o))
      ∧ (a.value = 3 → same (.enterNap a.hearth)) ∧ (a.value = 4 → same (.leaveNap a.hearth))
      ∧ (a.value = 5 → same (.enterDeep a.hearth)) ∧ (a.value = 6 → same (.leaveDeep a.hearth o)) := by
  have hi : exec (.writtenValueTakesEffect .rstctl e o errs) s = .next (s.resetAsk a.hearth a.value o) :=
    exec_takes_some he nofun nofun ha
  obtain ⟨h1, h2, h3, h4, h5, h6⟩ := s.resetAsk_codes a.hearth o
  obtain ⟨e1, e2, e3, e4, e5, e6⟩ := exec_resets s a.hearth o
  exact ⟨fun hv => same_next (by rw [hi, hv, h1]) e1, fun hv => same_next (by rw [hi, hv, h2]) e2,
    fun hv => same_next (by rw [hi, hv, h3]) e3, fun hv => same_next (by rw [hi, hv, h4]) e4,
    fun hv => same_next (by rw [hi, hv, h5]) e5, fun hv => same_next (by rw [hi, hv, h6]) e6⟩

/-- The values that only cross a clock domain. -/
theorem takes_stored {r : PendReg} (he : e < r.count) (ha : s.ask (pendReg r) e = some a) (hr : r = .fabctl ∨ r = .rmctl ∨ r = .rmalias) :
    ∃ t, exec (.writtenValueTakesEffect r e o errs) s = .next t ∧ { t with regs := s.regs, asks := s.asks } = s
      ∧ t.reg (pendReg r) e = setBits (a.value % 2 ^ (pendReg r).spec.width) (pendReg r).pendBit (pendReg r).pendBit 0
      ∧ t.ask (pendReg r) e = none ∧ ∀ q k, k < 2 ^ 24 → q ≠ pendReg r → t.reg q k = s.reg q k := by
  have hi : exec (.writtenValueTakesEffect r e o errs) s = .next ((s.setReg (pendReg r) e a.value).askDone (pendReg r) e) := by
    rcases hr with rfl | rfl | rfl <;> exact exec_takes_some he nofun nofun ha
  exact ⟨_, hi, s.takes_value a he (by rcases hr with rfl | rfl | rfl <;> decide)⟩

/-- POWERCAP at Hearth's step. -/
theorem takes_powercap (he : e < PendReg.count .powercap) (ha : s.ask .POWERCAP e = some a) :
    exec (.writtenValueTakesEffect .powercap e o errs) s = .next (if s.hearthReady then s.powercapNow else s) :=
  exec_takes_some he nofun nofun ha

end

/-- Settles O60: what each access reaches, what becomes of its one part, and what each waiting write does, part by part. -/
theorem registers : Obligations.Registers := by
  unfold Obligations.Registers
  intro agent recorded at_ only
  refine ⟨fun hearth off data s => ?_, fun hearth n data s hm ha hn hd => ?_, fun hearth v s hm ha => ?_, fun hearth c v s hm hc => ?_,
    fun r e o errs s he => ?_⟩
  · refine ⟨access_denied s hearth off data, fun hm => ⟨access_bad s hearth off data hm, badAccess_legal s hearth off data, fun w ho hw => ?_⟩⟩
    exact ⟨access_unused hm ho hw, access_unpowered hm ho hw⟩
  · refine ⟨fun hh hj => ?_, fun hj => ?_⟩
    · subst hh
      exact recordsOnly_of (by decide) (by rw [exec_registerWrite]; exact congrArg _ (segdesc_barred hm ha hn hd hj))
    · obtain ⟨hf, ho⟩ := s.setReg_only .SEGDESC (i := n) (Reg.merged .SEGDESC hearth n (s.written .SEGDESC n) (leValue data) (2 ^ 128 - 1)) (by omega)
      refine ⟨_, by rw [exec_registerWrite]; exact congrArg _ (segdesc_stored hm ha hn hd hj), ⟨hf, ho⟩, fun m hm' hne => ?_, fun f hf' => ?_⟩
      · exact State.reg_setReg_other _ _ (by omega) (by omega) (.inr hne)
      · refine get_segdesc _ ?_
        revert f
        decide
  · refine ⟨fun hh => ?_, fun hh => ?_, ?_, ?_, rstctl_none hm ha, rstctl_refused hm ha, fun r hr hf => action_refused hm ha hr hf,
      refuses_active ha hearth, rstctl_action hm ha, powercap_pending hm ha⟩
    · subst hh
      exact hscfg_host hm ha
    · subst hh
      exact ⟨_, by rw [exec_registerWrite]; exact congrArg _ (State.word_stored hm ha (.inl ⟨rfl, rfl⟩)),
        s.setReg_only .HSCFG _ (by decide), fun f lo hi hf => get_hscfg hf⟩
    · exact ⟨_, by rw [exec_registerWrite]; exact congrArg _ (State.word_stored hm ha (.inr (.inl rfl))),
        s.setReg_only .MCHSEL _ (bankOf_lt hearth), mchsel_bank s hearth _, get_mchsel _⟩
    · exact ⟨_, by rw [exec_registerWrite]; exact congrArg _ (State.word_stored hm ha (.inr (.inr rfl))),
        s.setReg_only .PWRSTAT _ (by decide), get_pwrstat⟩
  · refine ⟨fun h2 h7 => ?_, fun hp => counter_unpowered hm hc hp⟩
    have hr := State.reach_counters h2 h7
    have hcount : exec (.sccountWrite hearth c v) s = _ :=
      (exec_sccountWrite hc).trans (congrArg Host.Outcome.next (sccount_stored hm hc hr))
    have htarget : exec (.sctargetWrite hearth c v) s = _ :=
      (exec_sctargetWrite hc).trans (congrArg Host.Outcome.next (sctarget_stored hm hc hr))
    refine ⟨hcount, htarget, _, _, hcount, htarget, ?_⟩
    rw [State.counter_stored_same, State.counter_stored_same]
    refine ⟨rfl, rfl, rfl, rfl, rfl, rfl, fun k hk => ?_, fun tile hs hw _ => ?_⟩
    · exact ⟨State.counter_stored_other s c _ hk, State.counter_stored_other s c _ hk⟩
    · exact State.stall_stored s c { s.counter c with count := v.toNat } hw hs
  · refine ⟨fun h1 h2 hn => exec_takes_none he h1 h2 hn, fun hr hp => ?_, fun hr => ?_, fun a ha => ?_⟩
    · subst hr
      exact exec_rtepoch_idle he hp
    · subst hr
      exact same_next (exec_cpctl he) rfl
    · refine ⟨takes_stored he ha, fun hr => ?_, fun hr hy => ?_, fun hr hy hs h1 h2 => ?_, fun hr hy hs hc h1 => ?_, fun hr hy => ?_,
        fun hr hq => ?_, fun hr hv => ?_, fun hr => ?_, fun hr => ?_, fun hr => ?_, fun hr => ?_, fun hr => ?_, fun hr => ?_⟩
      all_goals subst hr
      · obtain ⟨href, hask, hframe⟩ := s.takes_dieref ha
        exact ⟨_, exec_takes_some he nofun nofun ha, href, hask, hframe⟩
      · rw [takes_powercap he ha, if_pos hy]
      · obtain rfl : e = 0 := Nat.lt_one_iff.1 he
        exact ⟨_, by rw [takes_powercap he ha, if_pos hy], State.powercapNow_idle ha hs h1 h2⟩
      · obtain rfl : e = 0 := Nat.lt_one_iff.1 he
        exact ⟨_, by rw [takes_powercap he ha, if_pos hy], State.powercapNow_ends ha hs hc h1⟩
      · rw [takes_powercap he ha, if_neg (by rw [hy]; exact Bool.false_ne_true)]
      · exact ⟨_, exec_takes_some he nofun nofun ha, s.takes_chctl a.value hq⟩
      · exact takes_portctl he ha hv
      · exact same_next (exec_takes_some he nofun nofun ha) (if_pos he)
      · exact same_next (exec_takes_some he nofun nofun ha) rfl
      · exact takes_drainctl he ha
      · exact takes_twinctl he ha
      · exact takes_mchctl he ha
      · exact takes_rstctl he ha

end Sys2Proof.Machine

/-! A step by the two shapes of its queue. -/

namespace Sys2Proof.Machine

/-- The command that runs does not find itself in the queue: it sees only the commands behind it. -/
@[simp] theorem step_pending_cons (c : Instr) (rest : List Instr) (s : State) :
    step { s with pending := c :: rest } = exec c { s with pending := rest } := rfl

/-- The block idles (log entry 2): no clocked event happens unless its command is queued. -/
theorem step_of_pending_nil {s : State} (h : s.pending = []) : step s = .next s := by
  unfold step
  rw [h]

/-- Settles O1: a queue has a front command or is empty, and each shape has its equation of `step`. -/
theorem stepRunsFront : Obligations.StepRunsFront := by
  unfold Obligations.StepRunsFront
  exact ⟨step_pending_cons, fun _ => step_of_pending_nil⟩

end Sys2Proof.Machine

/-! Reset (R55, R472): the state right after it is canonical and holds the defaults of the register tables. -/

namespace Sys2Proof.Machine

/-- Settles O2: the invariant is decided on the reset state. -/
theorem resetCanonical : Obligations.ResetCanonical := by
  unfold Obligations.ResetCanonical
  exact State.reset_inv

/-- The fields of registers that O5 names, on the reset state (R472, Tables 19-2 and 21-2). -/
theorem reset_fields : State.reset.get F.PWRSTAT_STATE 0 = 3 ∧ State.reset.get F.HDSTAT_STATE 0 = 1
    ∧ State.reset.get F.DRAINSTAT_STATE 0 = 0 ∧ State.reset.get F.DLBCTL_EN 0 = 1 ∧ State.reset.get F.DLBCTL_SCOPE 0 = 3 := by
  decide +kernel

/-- Settles O5: the registers are decided; tiles, counters and channels are the sparse maps' defaults, since nothing is listed. -/
theorem resetValues : Obligations.ResetValues := by
  unfold Obligations.ResetValues
  obtain ⟨hpower, hhearth, hdrain, hbalancer, hscope⟩ := reset_fields
  exact ⟨hpower, hhearth, hdrain, hbalancer, hscope, fun _ => rfl, fun _ => rfl, fun _ => rfl, rfl, fun _ c j => by
    show (Tile.reset.ctx c).rdS j = 0
    cases c <;> exact ite_self 0, fun _ _ => rfl, fun _ _ => rfl⟩

end Sys2Proof.Machine

/-! The switches between the contexts (R22, R23) and the end of one (R72, R87). -/

namespace Sys2Proof.Machine

/-! ## Switches -/

/-- The tile's new current context is all that a switch changes. -/
theorem State.switched_setTile (s : State) (tile : Nat) (c : Ctxt) (p : Option Nat) :
    let t := s.setTile tile { s.tile tile with cur := c, poor := p }
    (t.tile tile).cur = c ∧ t.ctx tile .F = s.ctx tile .F ∧ t.ctx tile .L = s.ctx tile .L ∧ { t with tiles := s.tiles } = s
      ∧ ∀ u, u ≠ tile → t.tile u = s.tile u := by
  dsimp only
  unfold State.ctx
  refine ⟨?_, ?_, ?_, rfl, fun u hu => by rw [State.tile_setTile, if_neg hu]⟩
  all_goals rw [State.tile_setTile, if_pos rfl]
  all_goals rfl

/-- L is ready when it runs, holds no fault and does not stall. -/
theorem State.lReady_of_unstalled {s : State} {t : Nat} (hr : (s.tile t).ctxL.run = .running) (hs : (s.tile t).ctxL.stall = .none)
    (hh : (s.tile t).ctxL.held = none) : s.lReady t = true := by
  unfold State.lReady
  simp [hr, hs, hh]

/-- A running context that waits at a counter lets the other run (R22). -/
theorem Tile.yields_of_wait {y : Tile} {x : Ctx} {n : Nat} {pd : BitVec 3} {timed woken : Bool} (hr : x.run = .running)
    (hs : x.stall = .wait n pd timed woken) : y.yields x = true := by
  unfold Tile.yields
  simp [hr, hs, Stall.yields]

section
variable {s : State} {tile fcost lcost : Nat}

/-- F lets L run: L becomes the current context (R22). -/
theorem contextSwitchToL_switches (ht : tile < Config.tiles) (hc : (s.tile tile).cur = .F) (hl : s.lReady tile = true)
    (hy : (s.tile tile).yields (s.tile tile).ctxF = true ∨ ((s.tile tile).ctxF.run = .running
      ∧ s.affordable tile fcost = false ∧ s.affordable tile lcost = true) ∧ (s.tile tile).ctxF.stall = .none) :
    exec (.contextSwitchToL tile fcost lcost) s = .next (s.setTile tile { s.tile tile with
      cur := .L, poor := if (s.tile tile).yields (s.tile tile).ctxF then none else some fcost }) := by
  show execContextSwitchToL tile fcost lcost s = _
  unfold execContextSwitchToL within
  rw [if_pos ht]
  dsimp only
  rw [if_pos]
  rcases hy with hy | ⟨⟨hr, hf, hl'⟩, hs⟩
  · simp [hc, hl, hy]
  · simp [hc, hl, hr, hf, hl', hs]

/-- No condition of R22 holds for F: it becomes the current context again (R23). -/
theorem contextSwitchToF_switches (ht : tile < Config.tiles) (hc : (s.tile tile).cur = .L)
    (hy : (s.tile tile).yields (s.tile tile).ctxF = false)
    (hp : ¬ ((s.tile tile).ctxF.run = .running ∧ s.affordable tile fcost = false ∧ s.affordable tile lcost = true)) :
    exec (.contextSwitchToF tile fcost lcost) s = .next (s.setTile tile { s.tile tile with cur := .F, poor := none }) := by
  show execContextSwitchToF tile fcost lcost s = _
  unfold execContextSwitchToF within
  rw [if_pos ht]
  dsimp only
  rw [if_pos]
  simp only [hc, hy, decide_true, Bool.not_false, Bool.and_true, Bool.true_and, Bool.not_eq_true', Bool.and_eq_false_imp]
  simpa using hp

end

/-! ## The end of a context -/

/-- What the end of a context does before its launch counts it (R72, R87, R371). -/
def State.unlaunched (s : State) (t : Nat) (c : Ctxt) : State :=
  let x := s.ctx t c
  let s := s.setCtx t c { x with run := .ended, stall := .none, held := none }
  let s := if x.endFault.isSome then s.log .contextFault t [] else s
  let y := s.tile t
  let idle := fun (z : Ctx) => decide (z.run = .idle) || decide (z.run = .ended)
  if idle y.ctxF && idle y.ctxL then s.setTile t { y with credit := 0, want := 0 } else s

/-- A launch that has counted the end of a context `x` (R461, R464). -/
def HostCmd.counting (k : HostCmd) (t : Nat) (c : Ctxt) (x : Ctx) : HostCmd :=
  let first := match k.report with
    | some (u, _, _) => decide (t < u)
    | none => true
  { k with left := k.left - 1, nfault := k.nfault + b2n x.endFault.isSome,
           report := match x.endFault with
             | some f => if first then some (t, decide (c = .L), f) else k.report
             | none => k.report }

/-- The launch of an ended context counts it, and arrives at its counter under CARR (R461). -/
def State.countEnd (s : State) (k : HostCmd) (t : Nat) (c : Ctxt) (x : Ctx) : State :=
  let u := s.setCmd (k.counting t c x)
  if bit k.entry 11 then u.arriveAt 0x7FF (bits k.entry 47 32) 1 (bits k.entry 27 24) else u

theorem State.endContext_eq (s : State) (t : Nat) (c : Ctxt) : s.endContext t c
    = ((s.ctx t c).launch.bind (s.unlaunched t c).hostCmd).elim (s.unlaunched t c)
        fun k => (s.unlaunched t c).countEnd k t c (s.ctx t c) := by
  unfold State.endContext
  extract_lets x s1 s2 y idle s3
  have hu : s.unlaunched t c = s3 := rfl
  rw [hu]
  cases x.launch.bind s3.hostCmd with
  | none => rfl
  | some k => rfl

/-- Logging does not look at tiles. -/
theorem State.log_setCtx (s : State) (t : Nat) (c : Ctxt) (x : Ctx) (e : Ev) (u : Nat) (d : List Byte) :
    (s.setCtx t c x).log e u d = { s.log e u d with tiles := (s.setCtx t c x).tiles } := by
  unfold State.log
  dsimp only
  have hh : (s.setCtx t c x).hearthReady = s.hearthReady := rfl
  rw [hh, State.setCtx_events]
  split
  · rfl
  · split <;> rfl

/-- Outside the tiles the end of a context only logs the fault that ended it (R87). -/
theorem State.unlaunched_tiles (s : State) (t : Nat) (c : Ctxt) : ∃ T, s.unlaunched t c
    = { (if (s.ctx t c).endFault.isSome then s.log .contextFault t [] else s : State) with tiles := T } := by
  unfold State.unlaunched
  extract_lets x s1 s2 y idle
  have h2 : ∃ T, s2 = { (if x.endFault.isSome then s.log .contextFault t [] else s : State) with tiles := T } := by
    show ∃ T, (if x.endFault.isSome then s1.log .contextFault t [] else s1) = _
    split
    · exact ⟨_, s.log_setCtx t c _ _ _ _⟩
    · exact ⟨_, rfl⟩
  obtain ⟨T, hT⟩ := h2
  split
  · rw [hT]; exact ⟨_, rfl⟩
  · exact ⟨T, hT⟩

/-- The context itself has ended; its registers are as they were. -/
theorem State.ctx_unlaunched (s : State) (t : Nat) (c : Ctxt) :
    (s.unlaunched t c).ctx t c = { s.ctx t c with run := .ended, stall := .none, held := none } := by
  unfold State.unlaunched
  extract_lets x s1 s2 y idle
  have h2 : s2.ctx t c = { x with run := .ended, stall := .none, held := none } := by
    show State.ctx (if x.endFault.isSome then s1.log .contextFault t [] else s1) t c = _
    split
    · unfold State.ctx State.tile
      rw [State.log_tiles]
      exact s.ctx_setCtx t c _
    · exact s.ctx_setCtx t c _
  split
  · rw [← h2]
    unfold State.ctx
    rw [State.tile_setTile, if_pos rfl]
    cases c <;> rfl
  · exact h2

/-- Counting the end of a context touches the host link, the arrivals and their names only. -/
theorem State.countEnd_frame (s : State) (k : HostCmd) (t : Nat) (c : Ctxt) (x : Ctx) :
    { s.countEnd k t c x with host := s.host, arrivals := s.arrivals, nextId := s.nextId } = s := by
  unfold State.countEnd
  dsimp only
  split <;> rfl

/-- The launch's command has been replaced. -/
theorem State.hostCmd_countEnd {s : State} {k : HostCmd} {id : Nat} (t : Nat) (c : Ctxt) (x : Ctx) (hk : s.hostCmd id = some k) :
    (s.countEnd k t c x).hostCmd id = some (k.counting t c x) := by
  have hset : (s.setCmd (k.counting t c x)).hostCmd id = some (k.counting t c x) := by
    unfold State.hostCmd at hk ⊢
    have hid : k.id = id := by simpa using List.find?_some hk
    show List.find? _ (s.host.cmds.map _) = _
    rw [List.find?_map]
    have hp : ((fun m : HostCmd => decide (m.id = id)) ∘ fun m => if m.id = (k.counting t c x).id then k.counting t c x else m)
        = fun m => decide (m.id = id) := by
      funext m
      have hkid : (k.counting t c x).id = id := hid
      by_cases hm : m.id = id <;> simp [hkid, hm]
    rw [hp, hk]
    exact congrArg some (if_pos rfl)
  unfold State.countEnd
  dsimp only
  split <;> exact hset

/-- Under CARR the end arrives at the launch's counter (R461). -/
theorem State.arrivals_countEnd {s : State} {k : HostCmd} (t : Nat) (c : Ctxt) (x : Ctx) (hb : bit k.entry 11 = true) :
    ∃ a ∈ (s.countEnd k t c x).arrivals, a.cnum = bits k.entry 47 32 ∧ a.inc = 1 ∧ a.epoch = bits k.entry 27 24 := by
  unfold State.countEnd
  dsimp only
  rw [if_pos hb]
  exact ⟨_, List.mem_append_right _ (List.mem_singleton_self _), rfl, rfl, rfl⟩

/-- Whether its launch counts it or not, the end of a context leaves tiles, memory, counters, registers and events as
`State.unlaunched` does. -/
theorem State.endContext_frame (s : State) (t : Nat) (c : Ctxt) :
    { s.endContext t c with host := s.host, arrivals := s.arrivals, nextId := s.nextId }
      = { s.unlaunched t c with host := s.host, arrivals := s.arrivals, nextId := s.nextId } := by
  rw [State.endContext_eq]
  cases (s.ctx t c).launch.bind (s.unlaunched t c).hostCmd with
  | none => rfl
  | some k =>
    exact congrArg (fun u : State => { u with host := s.host, arrivals := s.arrivals, nextId := s.nextId })
      ((s.unlaunched t c).countEnd_frame k t c (s.ctx t c))

/-- So memory, counters, registers and events are those of `s` with the fault logged. -/
theorem State.endContext_parts (s : State) (t : Nat) (c : Ctxt) :
    let u := if (s.ctx t c).endFault.isSome then s.log .contextFault t [] else s
    (s.endContext t c).mem = s.mem ∧ (s.endContext t c).counters = s.counters ∧ (s.endContext t c).regs = u.regs
      ∧ (s.endContext t c).events = u.events := by
  intro u
  obtain ⟨T, hT⟩ := s.unlaunched_tiles t c
  have hf := s.endContext_frame t c
  rw [hT] at hf
  have hu : u.mem = s.mem ∧ u.counters = s.counters := by
    show State.mem (if _ then _ else _) = _ ∧ State.counters (if _ then _ else _) = _
    split
    · exact ⟨State.log_mem .., State.log_counters ..⟩
    · exact ⟨rfl, rfl⟩
  exact ⟨(congrArg State.mem hf).trans hu.1, (congrArg State.counters hf).trans hu.2, (congrArg State.regs hf :),
    (congrArg State.events hf :)⟩

theorem State.host_unlaunched (s : State) (t : Nat) (c : Ctxt) : (s.unlaunched t c).host = s.host := by
  obtain ⟨T, hT⟩ := s.unlaunched_tiles t c
  rw [hT]
  show State.host (if _ then _ else _) = _
  split
  · exact State.log_host ..
  · rfl

theorem State.ctx_endContext (s : State) (t : Nat) (c : Ctxt) :
    (s.endContext t c).ctx t c = { s.ctx t c with run := .ended, stall := .none, held := none } :=
  (congrArg (fun u : State => u.ctx t c) (s.endContext_frame t c)).trans (s.ctx_unlaunched t c)

/-- A stopped context with nothing outstanding and no fault held has ended (R72, R87). -/
theorem contextEnded_ends {s : State} {tile : Nat} {c : Ctxt} (ht : tile < Config.tiles) (hr : (s.ctx tile c).run = .stopping)
    (hq : s.quiet tile c = true) (hh : (s.ctx tile c).held = none) :
    exec (.contextEnded tile c) s = .next (s.endContext tile c) := by
  show execContextEnded tile c s = _
  unfold execContextEnded within
  rw [if_pos ht]
  dsimp only
  rw [if_pos ⟨hr, hq, by rw [hh]; rfl⟩]

/-- The conditions under which F lets L run, one by one (R22). -/
theorem Tile.yields_iff (y : Tile) (x : Ctx) : y.yields x = true ↔ x.run = .idle ∨ x.run = .ended
    ∨ (x.run = .stopping ∧ x.endFault ≠ none) ∨ (x.run = .running ∧ match x.stall with
        | .wait .. | .drain .. => True
        | .twait k => y.token k.toNat = 0
        | .fence scope => scope ≠ 0
        | _ => False) := by
  have hs : x.stall.yields y = true ↔ (match x.stall with
      | .wait .. | .drain .. => True
      | .twait k => y.token k.toNat = 0
      | .fence scope => scope ≠ 0
      | _ => False) := by
    cases x.stall <;> simp [Stall.yields]
  unfold Tile.yields Ctx.isOver
  simp only [Bool.or_eq_true, Bool.and_eq_true, decide_eq_true_eq, hs, Option.isSome_iff_ne_none, or_assoc]

/-- Settles O13: the switches by their guards, the conditions of R22 one by one, and the end of a context by its parts: the
context, the log and the launch. -/
theorem contextEvents : Obligations.ContextEvents := by
  unfold Obligations.ContextEvents
  intro tile fcost lcost c s ht
  refine ⟨fun n pd timed woken hc hr hs hlr hls hlh => ?_, fun hc hl hy => ?_, fun hc hy hp => ?_, Tile.yields_iff _ _, fun hr hq hh => ?_⟩
  · exact ⟨_, contextSwitchToL_switches ht hc (State.lReady_of_unstalled hlr hls hlh) (.inl (Tile.yields_of_wait hr hs)),
      s.switched_setTile tile .L _⟩
  · exact ⟨_, contextSwitchToL_switches ht hc hl hy, s.switched_setTile tile .L _⟩
  · exact ⟨_, contextSwitchToF_switches ht hc hy hp, s.switched_setTile tile .F _⟩
  · obtain ⟨hmem, hcounters, hregs, hevents⟩ := s.endContext_parts tile c
    have hctx := s.ctx_endContext tile c
    refine ⟨_, contextEnded_ends ht hr hq hh, by rw [hctx], fun j => by rw [hctx]; rfl, hmem, hcounters, fun he => ?_,
      fun he hready => ?_, fun id k hl hk => ?_⟩
    · rw [hevents, hregs, he]
      exact ⟨rfl, rfl⟩
    · rw [State.logged, hevents, hregs, if_pos (Option.isSome_iff_ne_none.2 he), State.log, if_pos hready]
      exact ⟨⟨_, List.mem_append_right _ (List.mem_singleton_self _), rfl, rfl⟩, rfl⟩
    · have hu : (s.unlaunched tile c).hostCmd id = some k := by
        rw [← hk]
        unfold State.hostCmd
        rw [s.host_unlaunched tile c]
      have he : s.endContext tile c = (s.unlaunched tile c).countEnd k tile c (s.ctx tile c) := by
        rw [State.endContext_eq, hl]
        show (State.hostCmd _ id).elim _ _ = _
        rw [hu]
        rfl
      refine ⟨k.counting tile c (s.ctx tile c), by rw [he]; exact State.hostCmd_countEnd _ _ _ hu, rfl, ?_,
        fun hb => by rw [he]; exact State.arrivals_countEnd _ _ _ hb⟩
      show k.nfault + b2n _ = _
      cases (s.ctx tile c).endFault <;> rfl

end Sys2Proof.Machine

/-! Sync instructions at issue: what an instruction that nothing stops comes to, and what a context's update leaves alone. -/

namespace Sys2Proof.Machine

/-- An instruction that nothing stops, priced by entry 16, takes effect after its charge (R372). -/
theorem issue_runs {s : State} {h : Head} {w : Nat} {u : Uses} {act : State → Act} {f : State → State} (hr : s.runs h w u)
    (ha : act s = .go 16 f) : issue h w u false act s = .next (f (s.pay h.tile 16)) := by
  rw [issue_goes hr.1, ha, State.perform_go hr.2]

/-- One that finds a fault raises it at issue (R85). -/
theorem issue_runs_fault {s : State} {h : Head} {w : Nat} {u : Uses} {act : State → Act} {e : FaultAt} (hr : s.runs h w u)
    (ha : act s = .fault e) : issue h w u false act s = .next (s.issueFault h.tile h.ctx e) := by
  rw [issue_goes hr.1, ha, State.perform_fault]

theorem State.tile_setCtx_other (s : State) {t u : Nat} (c : Ctxt) (x : Ctx) (h : u ≠ t) : (s.setCtx t c x).tile u = s.tile u := by
  unfold State.setCtx
  rw [State.tile_setTile, if_neg h]

@[simp] theorem Ctx.rdS_wrPb (x : Ctx) (i j : Nat) (b : Bool) : (x.wrPb i b).rdS j = x.rdS j := Ctx.rdS_wrP ..

@[simp] theorem Ctx.rdP_wrPb (x : Ctx) (i j : Nat) (b : Bool) :
    (x.wrPb i b).rdP j = if j = 0 then BitVec.allOnes 64 else if j = i then (if b then BitVec.allOnes 64 else 0) else x.rdP j :=
  Ctx.rdP_wrP ..

theorem Ctx.flow_wrP (x : Ctx) (i : Nat) (v : Word) : (x.wrP i v).pc = x.pc ∧ (x.wrP i v).loops = x.loops ∧ (x.wrP i v).stall = x.stall := by
  unfold Ctx.wrP
  split <;> exact ⟨rfl, rfl, rfl⟩

theorem Ctx.flow_wrS (x : Ctx) (i : Nat) (v : Word) : (x.wrS i v).pc = x.pc ∧ (x.wrS i v).loops = x.loops ∧ (x.wrS i v).stall = x.stall := by
  unfold Ctx.wrS
  split <;> exact ⟨rfl, rfl, rfl⟩

/-- A context whose program counter and loops are those of `s` has gone on once it advances. -/
theorem State.wentOn_of_ctx {s t : State} {h : Head} {y : Ctx} (ht : t.ctx h.tile h.ctx = y.advance)
    (hp : y.pc = (s.ctx h.tile h.ctx).pc) (hl : y.loops = (s.ctx h.tile h.ctx).loops) : t.wentOn s h := by
  unfold State.wentOn
  rw [ht, ← hp, ← hl]
  rfl

/-- A context that has written one predicate and gone on. -/
theorem State.onlyP_of_ctx {s t : State} {h : Head} {y : Ctx} {d : Nat} {b : Bool}
    (ht : t.ctx h.tile h.ctx = (y.wrPb d b).advance) (hy : ∀ j, y.rdP j = (s.ctx h.tile h.ctx).rdP j) :
    t.onlyP s h d (if b then BitVec.allOnes 64 else 0) := by
  intro j
  rw [ht, Ctx.rdP_advance, Ctx.rdP_wrPb, hy]

end Sys2Proof.Machine

/-! Task queues (R51 to R53, R83). -/

namespace Sys2Proof.Machine

/-! ## The task a pop returns (R51) -/

section
variable {s : State} {tile : Nat}

/-- The oldest task the tile owns goes before every other. -/
theorem State.popChoice_owned {k : Task} (h : s.tasks.find? (fun k => decide (k.owner.toNat = tile)) = some k) :
    s.popChoice tile = some k := by
  unfold State.popChoice
  rw [h]

theorem State.owned_none : s.tasks.find? (fun k => decide (k.owner.toNat = tile)) = none ↔ ∀ j ∈ s.tasks, j.owner.toNat ≠ tile := by
  simp [List.find?_eq_none]

/-- With none of its own the tile takes nothing while the balancer is off. -/
theorem State.popChoice_off (h : ∀ j ∈ s.tasks, j.owner.toNat ≠ tile) (he : s.get F.DLBCTL_EN 0 ≠ 1) : s.popChoice tile = none := by
  unfold State.popChoice
  rw [State.owned_none.2 h]
  exact if_neg he

/-- With the balancer on it takes the first task of the nearest level that has one. -/
theorem State.popChoice_on (h : ∀ j ∈ s.tasks, j.owner.toNat ≠ tile) (he : s.get F.DLBCTL_EN 0 = 1) : s.popChoice tile
    = (List.range (s.get F.DLBCTL_SCOPE 0 + 1)).findSome? fun l => s.tasks.find? (s.stealable tile l) := by
  unfold State.popChoice
  rw [State.owned_none.2 h]
  exact if_pos he

/-- What the first hit over rising levels is: the least level with a hit, and its hit. -/
theorem findSome?_range {α : Type} {f : Nat → Option α} {a : α} : ∀ {n : Nat}, (List.range n).findSome? f = some a →
    ∃ l, l < n ∧ f l = some a ∧ ∀ i, i < l → f i = none
  | 0, h => by cases h
  | n + 1, h => by
    rw [List.range_succ, List.findSome?_append] at h
    cases hn : (List.range n).findSome? f with
    | some b =>
      rw [hn] at h
      obtain ⟨l, hl, hf, hi⟩ := findSome?_range hn
      exact ⟨l, by omega, hf.trans h, hi⟩
    | none =>
      rw [hn] at h
      refine ⟨n, by omega, ?_, fun i hi => List.findSome?_eq_none_iff.1 hn i (List.mem_range.2 hi)⟩
      simpa using h

/-- The task chosen is one of the queues', the tile's own or stolen from the nearest level that has one. -/
theorem State.popChoice_some {k : Task} (h : s.popChoice tile = some k) : k ∈ s.tasks ∧ (k.owner.toNat = tile ∨
    ((∀ j ∈ s.tasks, j.owner.toNat ≠ tile) ∧ s.get F.DLBCTL_EN 0 = 1 ∧ ∃ l, l ≤ s.get F.DLBCTL_SCOPE 0
      ∧ s.stealable tile l k = true ∧ ∀ i, i < l → ∀ j ∈ s.tasks, s.stealable tile i j = false)) := by
  cases ho : s.tasks.find? (fun k => decide (k.owner.toNat = tile)) with
  | some j =>
    rw [State.popChoice_owned ho] at h
    cases h
    exact ⟨List.mem_of_find?_eq_some ho, .inl (by simpa using List.find?_some ho)⟩
  | none =>
    have hn := State.owned_none.1 ho
    by_cases he : s.get F.DLBCTL_EN 0 = 1
    · rw [State.popChoice_on hn he] at h
      obtain ⟨l, hl, hf, hi⟩ := findSome?_range h
      refine ⟨List.mem_of_find?_eq_some hf, .inr ⟨hn, he, l, Nat.le_of_lt_succ hl, List.find?_some hf, fun i hil j hj => ?_⟩⟩
      simpa using List.find?_eq_none.1 (hi i hil) j hj
    · rw [State.popChoice_off hn he] at h
      cases h

/-- Nothing is taken exactly when the tile owns no task and none within the scope can be stolen. -/
theorem State.popChoice_none : s.popChoice tile = none ↔ (∀ j ∈ s.tasks, j.owner.toNat ≠ tile)
    ∧ (s.get F.DLBCTL_EN 0 = 1 → ∀ l, l ≤ s.get F.DLBCTL_SCOPE 0 → ∀ j ∈ s.tasks, s.stealable tile l j = false) := by
  cases ho : s.tasks.find? (fun k => decide (k.owner.toNat = tile)) with
  | some k =>
    rw [State.popChoice_owned ho]
    exact ⟨nofun, fun h => absurd (by simpa using List.find?_some ho) (h.1 k (List.mem_of_find?_eq_some ho))⟩
  | none =>
    have hn := State.owned_none.1 ho
    by_cases he : s.get F.DLBCTL_EN 0 = 1
    · rw [State.popChoice_on hn he, List.findSome?_eq_none_iff]
      simp only [List.mem_range, Nat.lt_succ_iff, List.find?_eq_none, Bool.not_eq_true]
      exact ⟨fun h => ⟨hn, fun _ => h⟩, fun h => h.2 he⟩
    · exact iff_of_true (State.popChoice_off hn he) ⟨hn, fun h => absurd h he⟩

/-- A task that can be stolen at a level belongs to another enabled tile that the level joins. -/
theorem State.stealable_owner {l : Nat} {k : Task} (h : s.stealable tile l k = true) :
    k.owner.toNat ≠ tile ∧ k.owner.toNat < s.tileCount ∧ (l = 0 → s.clusterOf k.owner.toNat = s.clusterOf tile)
      ∧ (l = 1 → s.cdieOf k.owner.toNat = s.cdieOf tile) ∧ (l = 2 → s.bdieOf k.owner.toNat = s.bdieOf tile) := by
  unfold State.stealable at h
  simp only [Bool.and_eq_true, decide_eq_true_eq] at h
  obtain ⟨⟨hne, hlt⟩, hl⟩ := h
  refine ⟨hne, hlt, ?_, ?_, ?_⟩ <;> rintro rfl <;> simpa using hl

end

/-! ## The instructions -/

/-- The state after a tpush or a tpop: charged, with tasks `T`, its context `y`. -/
def State.tasked (s : State) (h : Head) (T : List Task) (y : Ctx) : State :=
  State.setCtx { s.pay h.tile 16 with tasks := T } h.tile h.ctx y

/-- The queue of a tile's base die has room (R52). -/
def State.queueRoom (s : State) (tile : Nat) : Bool :=
  decide ((s.tasks.filter fun k => decide (k.die = s.bdieOf tile)).length < 4096)

/-- The task that tpush makes of its registers (R51). -/
def State.taskOf (s : State) (h : Head) (sa sb sc : BitVec 6) : Task :=
  let x := s.ctx h.tile h.ctx
  ⟨s.bdieOf h.tile, x.rdS sa.toNat, (x.rdS sb.toNat).setWidth 32, (x.rdS sc.toNat).setWidth 32⟩

/-- In `t` the context of a tpush or a tpop has gone on; all else of `s` is as it was but the tasks, its registers and its balance. -/
def State.wentOnWithTasks (t s : State) (h : Head) : Prop :=
  t.wentOn s h ∧ { t with tiles := s.tiles, tasks := s.tasks } = s ∧ (∀ u, u ≠ h.tile → t.tile u = s.tile u)
    ∧ ∀ b, (t.tile h.tile).rdByte b = (s.tile h.tile).rdByte b

/-- A context that has written predicate `pd` last, on top of a context `y` with the flow and the predicates of its own. -/
theorem State.tasked_spec {s : State} {h : Head} (T : List Task) (pd : Nat) (b : Bool) {y : Ctx}
    (hf : y.pc = (s.ctx h.tile h.ctx).pc ∧ y.loops = (s.ctx h.tile h.ctx).loops) (hp : ∀ j, y.rdP j = (s.ctx h.tile h.ctx).rdP j) :
    let t := s.tasked h T (y.wrPb pd b).advance
    t.wentOnWithTasks s h ∧ t.onlyP s h pd (if b then BitVec.allOnes 64 else 0) ∧ t.tasks = T
      ∧ ∀ j, (t.ctx h.tile h.ctx).rdS j = y.rdS j := by
  intro t
  have ht : t.ctx h.tile h.ctx = (y.wrPb pd b).advance := State.ctx_setCtx ..
  obtain ⟨hpc, hloops, -⟩ := y.flow_wrP pd (if b then BitVec.allOnes 64 else 0)
  refine ⟨⟨State.wentOn_of_ctx ht (hpc.trans hf.1) (hloops.trans hf.2), rfl, fun u hu => ?_, fun k => ?_⟩, State.onlyP_of_ctx ht hp, rfl,
    fun j => by rw [ht, Ctx.rdS_advance, Ctx.rdS_wrPb]⟩
  · exact (State.tile_setCtx_other _ _ _ hu).trans (s.tile_pay_other 16 hu)
  · exact (State.rdByte_setCtx ..).trans (s.rdByte_pay ..)

section
variable {s : State} {h : Head} {pd : BitVec 3} {sa sb sc : BitVec 6}

/-- tpush puts its task last while its die has room, and writes whether it had (R52, R83). -/
theorem tpush_runs (hr : s.runs h (encHead 6 9 h + pd.toNat * 2 ^ 47 + sa.toNat * 2 ^ 38 + sb.toNat * 2 ^ 32 + sc.toNat * 2 ^ 26)
    ⟨[sa.toNat, sb.toNat, sc.toNat], [96 + pd.toNat]⟩) :
    exec (.tpush h pd sa sb sc) s = .next (s.tasked h (s.tasks ++ if s.queueRoom h.tile then [s.taskOf h sa sb sc] else [])
      ((s.ctx h.tile h.ctx).wrPb pd.toNat (s.queueRoom h.tile)).advance) := by
  show execTpush h pd sa sb sc s = _
  unfold execTpush
  rw [issue_runs hr rfl]
  dsimp only
  rw [State.ctx_pay]
  show Host.Outcome.next (State.setCtx (if s.queueRoom h.tile then _ else _) _ _ (Ctx.advance (Ctx.wrPb _ _ (s.queueRoom h.tile)))) = _
  cases s.queueRoom h.tile with
  | true => rfl
  | false => rw [if_neg Bool.false_ne_true, if_neg Bool.false_ne_true, List.append_nil]; rfl

variable (hr : s.runs h (encHead 6 10 h + pd.toNat * 2 ^ 47 + sa.toNat * 2 ^ 38 + sb.toNat * 2 ^ 32)
  ⟨[], [sa.toNat, sb.toNat, 96 + pd.toNat]⟩)
include hr

theorem tpop_runs : exec (.tpop h pd sa sb) s = .next (match s.popChoice h.tile with
    | some k => s.tasked h (s.tasks.erase k)
        ((((s.ctx h.tile h.ctx).wrS sa.toNat k.arg).wrS sb.toNat (k.num.setWidth 64)).wrPb pd.toNat true).advance
    | none => s.tasked h s.tasks ((s.ctx h.tile h.ctx).wrPb pd.toNat false).advance) := by
  show execTpop h pd sa sb s = _
  unfold execTpop
  rw [issue_runs hr rfl]
  dsimp only
  rw [State.ctx_pay, show (s.pay h.tile 16).popChoice h.tile = s.popChoice h.tile from rfl]
  cases s.popChoice h.tile with
  | none => rfl
  | some k => rfl

/-- A pop of task `k` takes it from its queue, and writes its argument, its number and a predicate of ones (R83). -/
theorem tpop_takes {k : Task} (hk : s.popChoice h.tile = some k) :
    ∃ t, exec (.tpop h pd sa sb) s = .next t ∧ t.wentOnWithTasks s h ∧ t.onlyP s h pd.toNat (BitVec.allOnes 64)
      ∧ t.tasks = s.tasks.erase k ∧ ∀ j, (t.ctx h.tile h.ctx).rdS j = if j = 0 then 0 else if j = sb.toNat then k.num.setWidth 64
        else if j = sa.toNat then k.arg else (s.ctx h.tile h.ctx).rdS j := by
  obtain ⟨hpc, hloops, -⟩ := (s.ctx h.tile h.ctx).flow_wrS sa.toNat k.arg
  obtain ⟨hpc', hloops', -⟩ := ((s.ctx h.tile h.ctx).wrS sa.toNat k.arg).flow_wrS sb.toNat (k.num.setWidth 64)
  obtain ⟨hon, hp, htasks, hs⟩ := State.tasked_spec (s := s) (h := h) (s.tasks.erase k) pd.toNat true
    ⟨hpc'.trans hpc, hloops'.trans hloops⟩ fun j => by rw [Ctx.rdP_wrS, Ctx.rdP_wrS]
  refine ⟨_, by rw [tpop_runs hr, hk], hon, hp, htasks, fun j => ?_⟩
  rw [hs, Ctx.rdS_wrS, Ctx.rdS_wrS]
  by_cases hj : j = 0
  · rw [if_pos hj, if_pos hj]
  · rw [if_neg hj, if_neg hj, if_neg hj]

/-- A pop that finds none writes a predicate of zeros and leaves the queues and the scalar registers (R83). -/
theorem tpop_none (hk : s.popChoice h.tile = none) :
    ∃ t, exec (.tpop h pd sa sb) s = .next t ∧ t.wentOnWithTasks s h ∧ t.keepsS s h ∧ t.onlyP s h pd.toNat 0 ∧ t.tasks = s.tasks := by
  obtain ⟨hon, hp, htasks, hs⟩ := State.tasked_spec (s := s) (h := h) s.tasks pd.toNat false ⟨rfl, rfl⟩ fun _ => rfl
  exact ⟨_, by rw [tpop_runs hr, hk], hon, hs, hp, htasks⟩

end

/-- Settles O35: tpush and tpop by what they come to, and the task that a pop takes by the search of R51. -/
theorem taskQueues : Obligations.TaskQueues := by
  unfold Obligations.TaskQueues
  intro h pd sa sb sc s
  refine ⟨fun hr => ?_, fun hr => ⟨fun k hk => tpop_takes hr (State.popChoice_owned hk), fun k hk => tpop_takes hr hk, tpop_none hr,
      fun hn he => tpop_none hr (State.popChoice_off hn (by rw [he]; decide))⟩,
    fun _ _ => State.popChoice_some, fun _ => State.popChoice_none, fun _ _ _ => State.stealable_owner⟩
  obtain ⟨hon, hp, htasks, hs⟩ := State.tasked_spec (s := s) (h := h)
    (s.tasks ++ if s.queueRoom h.tile then [s.taskOf h sa sb sc] else []) pd.toNat (s.queueRoom h.tile) ⟨rfl, rfl⟩ fun _ => rfl
  refine ⟨_, tpush_runs hr, hon, hs, ?_, htasks.trans ?_⟩
  all_goals unfold State.queueRoom at *
  · simpa only [decide_eq_true_eq] using hp
  · simp only [decide_eq_true_eq]
    rfl

end Sys2Proof.Machine

/-! Counters and the contexts that wait at them (R41 to R48). -/

namespace Sys2Proof.Machine

/-! ## Waking waiters (R45) -/

theorem SMap.look_none_of_above {α : Type} {m : SMap α} : ∀ {k : Nat}, SMap.sortedFrom (some k) m = true → SMap.look m k = none := by
  have key : ∀ (m : SMap α) (lo k : Nat), k ≤ lo → SMap.sortedFrom (some lo) m = true → SMap.look m k = none := by
    intro m
    induction m with
    | nil => intro _ _ _ _; rfl
    | cons e m ih =>
      obtain ⟨j, v⟩ := e
      intro lo k hk h
      rw [SMap.sortedFrom_cons] at h
      have hj : lo < j := h.1 lo rfl
      rw [SMap.look, if_neg (by omega)]
      exact ih j k (by omega) h.2
  exact fun {k} => key m k k le_rfl

/-- A change of every listed value that keeps the default changes every value, listed or not. -/
theorem SMap.get_mapv {α : Type} [DecidableEq α] {d : α} {m : SMap α} {f : Nat → α → α} (hm : SMap.sortedFrom none m = true)
    (hd : ∀ k, f k d = d) (k : Nat) : SMap.get d (SMap.mapv d m f) k = f k (SMap.get d m k) := by
  unfold SMap.mapv SMap.get
  induction m with
  | nil => exact (hd k).symm
  | cons e m ih =>
    obtain ⟨j, x⟩ := e
    rw [SMap.sortedFrom_cons] at hm
    have ih' := ih (SMap.sortedFrom_weaken hm.2 fun _ _ => nofun)
    rw [List.map_cons, List.filter_cons, SMap.look]
    by_cases hk : k = j
    · subst hk
      rw [if_pos rfl]
      rw [SMap.look_none_of_above hm.2] at ih'
      split
      · rw [SMap.look, if_pos rfl]; rfl
      · rename_i hx
        have hx' : f k x = d := by simpa using hx
        rw [ih']
        exact (hd k).trans hx'.symm
    · rw [if_neg hk]
      split
      · rw [SMap.look, if_neg hk]; exact ih'
      · exact ih'

/-- Both contexts of a tile whose cluster is woken at counter `c`. -/
def Tile.wake (y : Tile) (c : Nat) : Tile := { y with ctxF := y.ctxF.wake c, ctxL := y.ctxL.wake c }

theorem Tile.ctx_wake (y : Tile) (c : Nat) (k : Ctxt) : (y.wake c).ctx k = (y.ctx k).wake c := by cases k <;> rfl

theorem Ctx.wake_of_stall {x : Ctx} (c : Nat) (h : ∀ n pd timed woken, x.stall ≠ .wait n pd timed woken) : x.wake c = x := by
  unfold Ctx.wake
  split
  · rename_i n pd timed woken hs
    exact absurd hs (h n pd timed woken)
  · rfl

/-- What a wake sets is the mark that a context waiting at the counter is woken. -/
theorem Ctx.stall_wake {x : Ctx} {c n : Nat} {pd : BitVec 3} {timed woken : Bool} (h : x.stall = .wait n pd timed woken) :
    (x.wake c).stall = .wait n pd timed (decide (n = c) || woken) := by
  unfold Ctx.wake
  rw [h]
  dsimp only
  by_cases hn : n = c
  · rw [if_pos hn, decide_eq_true hn]; rfl
  · rw [if_neg hn, decide_eq_false hn, h]; rfl

theorem Ctx.held_wake (x : Ctx) (c : Nat) : (x.wake c).held = x.held := by
  unfold Ctx.wake
  split
  · split <;> rfl
  · rfl

section
variable {s : State}

@[simp] theorem State.clusterOf_setCounter (s : State) (c t : Nat) (y : Counter) : (s.setCounter c y).clusterOf t = s.clusterOf t := rfl

/-- The tiles of the waiters' clusters are woken when the counter has met its target; no other tile changes (R45). -/
theorem State.tile_wake (hs : s.inv = true) (c t : Nat) : (s.wake c).tile t
    = if (s.counter c).reached = true ∧ s.clusterOf t ∈ (s.counter c).waiters then (s.tile t).wake c else s.tile t := by
  unfold State.wake
  dsimp only
  by_cases hr : (s.counter c).reached = true
  · by_cases hw : (s.counter c).waiters = []
    · rw [if_neg (by simp [hw]), if_neg (by simp [hw])]
    · rw [if_pos (by simp [hr, hw])]
      unfold State.tile
      dsimp only
      rw [State.setCounter_tiles, SMap.get_mapv (SMap.wf_iff.1 (State.inv_tiles hs)).1 (fun k => by split <;> rfl),
        State.clusterOf_setCounter]
      by_cases hc : s.clusterOf t ∈ (s.counter c).waiters
      · rw [if_pos (List.contains_iff_mem.2 hc), if_pos ⟨hr, hc⟩]; rfl
      · rw [if_neg (fun h => hc (List.contains_iff_mem.1 h)), if_neg (fun h => hc h.2)]
  · rw [if_neg (by simp [hr]), if_neg (by simp [hr])]

theorem State.ctx_wake (hs : s.inv = true) (c t : Nat) (k : Ctxt) : (s.wake c).ctx t k
    = if (s.counter c).reached = true ∧ s.clusterOf t ∈ (s.counter c).waiters then (s.ctx t k).wake c else s.ctx t k := by
  unfold State.ctx
  rw [State.tile_wake hs]
  split
  · exact Tile.ctx_wake ..
  · rfl

/-- A context that does not wait at a counter is as it was. -/
theorem State.ctx_wake_of_stall (hs : s.inv = true) (c : Nat) {t : Nat} {k : Ctxt}
    (h : ∀ n pd timed woken, (s.ctx t k).stall ≠ .wait n pd timed woken) : (s.wake c).ctx t k = s.ctx t k := by
  rw [State.ctx_wake hs]
  split
  · exact Ctx.wake_of_stall c h
  · rfl

/-- Outside tiles and counters a wake changes nothing. -/
theorem State.wake_frame (s : State) (c : Nat) : { s.wake c with tiles := s.tiles, counters := s.counters } = s := by
  unfold State.wake
  dsimp only
  split <;> rfl

end

/-! ## What keeps registers, memory, channels, bytes and tokens -/

section
variable {s t u : State}

theorem State.keepsData_refl (s : State) : s.keepsData s := ⟨rfl, rfl, rfl, fun _ _ => rfl, fun _ _ => rfl⟩

theorem State.keepsData_trans (h : u.keepsData t) (h' : t.keepsData s) : u.keepsData s := by
  obtain ⟨hr, hm, hc, hb, hk⟩ := h
  obtain ⟨hr', hm', hc', hb', hk'⟩ := h'
  exact ⟨hr.trans hr', hm.trans hm', hc.trans hc', fun w b => (hb w b).trans (hb' w b), fun w k => (hk w k).trans (hk' w k)⟩

theorem State.keepsData_pay (s : State) (t k : Nat) : (s.pay t k).keepsData s :=
  ⟨rfl, rfl, rfl, fun _ _ => State.rdByte_pay .., fun _ _ => State.token_pay ..⟩

theorem State.keepsData_setCtx (s : State) (t : Nat) (c : Ctxt) (x : Ctx) : (s.setCtx t c x).keepsData s :=
  ⟨rfl, rfl, rfl, fun _ _ => State.rdByte_setCtx .., fun _ _ => State.token_setCtx ..⟩

/-- A tile set to one with the same bytes and tokens. -/
theorem State.keepsData_setTile (s : State) {v : Nat} {y : Tile} (hb : ∀ b, y.rdByte b = (s.tile v).rdByte b)
    (hk : ∀ k, y.token k = (s.tile v).token k) : (s.setTile v y).keepsData s := by
  have htile : ∀ u, (s.setTile v y).tile u = y ∧ u = v ∨ (s.setTile v y).tile u = s.tile u := by
    intro u
    rw [State.tile_setTile]
    by_cases hu : u = v
    · exact .inl ⟨if_pos hu, hu⟩
    · exact .inr (if_neg hu)
  refine ⟨rfl, rfl, rfl, fun u b => ?_, fun u k => ?_⟩ <;> obtain ⟨ht, rfl⟩ | ht := htile u <;> rw [ht]
  · exact hb b
  · exact hk k

theorem State.keepsData_setCounter (s : State) (c : Nat) (y : Counter) : (s.setCounter c y).keepsData s :=
  ⟨rfl, rfl, rfl, fun _ _ => rfl, fun _ _ => rfl⟩

theorem State.keepsData_wake (hs : s.inv = true) (c : Nat) : (s.wake c).keepsData s := by
  have hf := s.wake_frame c
  refine ⟨(congrArg State.regs hf :), (congrArg State.mem hf :), (congrArg State.chans hf :), fun w b => ?_, fun w k => ?_⟩
  all_goals rw [State.tile_wake hs]; split <;> rfl

end

/-! ## A counter that is set and then looks for waiters -/

/-- Setting a counter to `y` and waking its waiters when that meets the target. -/
def State.setWaking (s : State) (c : Nat) (y : Counter) : State := (s.setCounter c y).wake c

theorem State.armCounter_eq (s : State) (c k : Nat) :
    s.armCounter c k = s.setWaking c { s.counter c with count := 0, target := k } := rfl

theorem State.migrateCounter_eq (s : State) (c k : Nat) : s.migrateCounter c k
    = s.setWaking c { s.counter c with epoch := ((s.counter c).epoch + 1) % 16, count := 0, target := k } := rfl

section
variable {s : State} {c : Nat} {y : Counter}

theorem State.onlyCounter_setWaking (s : State) (c : Nat) (y : Counter) :
    (s.setWaking c y).onlyCounter s c { y with waiters := if y.target ≤ y.count then [] else y.waiters } := by
  intro k
  by_cases hk : k = c
  · rw [if_pos hk, hk]; exact s.counter_stored_same c y
  · rw [if_neg hk]; exact s.counter_stored_other c y hk

theorem State.keepsData_setWaking (hs : s.inv = true) : (s.setWaking c y).keepsData s :=
  State.keepsData_trans (State.keepsData_wake (State.setCounter_inv hs) c) (s.keepsData_setCounter c y)

theorem State.ctx_setWaking (hs : s.inv = true) {t : Nat} {k : Ctxt} (h : ∀ n pd timed woken, (s.ctx t k).stall ≠ .wait n pd timed woken) :
    (s.setWaking c y).ctx t k = s.ctx t k :=
  State.ctx_wake_of_stall (State.setCounter_inv hs) c h

theorem State.setWaking_frame (s : State) (c : Nat) (y : Counter) :
    { s.setWaking c y with tiles := s.tiles, counters := s.counters } = s :=
  congrArg (fun u : State => { u with tiles := s.tiles, counters := s.counters }) ((s.setCounter c y).wake_frame c)

end

/-! ## The counter an instruction names (R76 to R78) -/

/-- A context that may issue does not stall and holds no fault. -/
theorem State.runs_idle {s : State} {h : Head} {w : Nat} {u : Uses} (hr : s.runs h w u) :
    (s.ctx h.tile h.ctx).stall = .none ∧ (s.ctx h.tile h.ctx).held = none := by
  obtain ⟨-, hready, -⟩ := State.goes_iff.1 hr.1
  unfold State.ready at hready
  simp only [Bool.and_eq_true, decide_eq_true_eq, Option.isNone_iff_eq_none] at hready
  exact ⟨hready.1.1.2, hready.1.2⟩

theorem State.runs_tile {s : State} {h : Head} {w : Nat} {u : Uses} (hr : s.runs h w u) : h.tile < Config.tiles :=
  (State.goes_iff.1 hr.1).1

theorem stall_none_not_wait {x : Ctx} (h : x.stall = .none) : ∀ n pd timed woken, x.stall ≠ .wait n pd timed woken := by
  rw [h]
  exact nofun

section
variable {s : State} {h : Head} {creg : Bool} {sc : BitVec 6} {cnum : BitVec 16} {k : Nat → Act}

/-- A counter of another module is OPERAND (R78). -/
theorem localCounter_far (hd : (s.counterRef (s.ctx h.tile h.ctx) creg sc cnum).dev ≠ none) :
    localCounter h creg sc cnum k s = .fault (cOPERAND, unstated) := by
  unfold localCounter
  dsimp only
  split
  · rfl
  · exact absurd ‹_› hd

theorem localCounter_own (hd : (s.counterRef (s.ctx h.tile h.ctx) creg sc cnum).dev = none) :
    localCounter h creg sc cnum k s = k (s.counterRef (s.ctx h.tile h.ctx) creg sc cnum).cnum := by
  unfold localCounter
  dsimp only
  rw [hd]

/-- The operand of Table 3-5 as a number: the immediate, or the whole register. -/
def State.operandOf (s : State) (h : Head) (isImm : Bool) (imm : BitVec 14) (r : BitVec 6) : Nat :=
  if isImm then imm.toNat else ((s.ctx h.tile h.ctx).rdS r.toNat).toNat

theorem State.operand32_ok {isImm : Bool} {imm : BitVec 14} {r : BitVec 6} (hn : s.operandOf h isImm imm r < 2 ^ 32) :
    s.operand32 h isImm imm r = .ok (s.operandOf h isImm imm r) := by
  unfold State.operand32 State.operandOf reg32 at *
  cases isImm with
  | true => rfl
  | false =>
    have hn' : ((s.ctx h.tile h.ctx).rdS r.toNat).toNat < 2 ^ 32 := hn
    exact if_neg (Nat.not_le.2 hn')

/-- Above 2^32 − 1 it is OPERAND (R77); an immediate never is. -/
theorem State.operand32_large {isImm : Bool} {imm : BitVec 14} {r : BitVec 6} (hn : 2 ^ 32 ≤ s.operandOf h isImm imm r) :
    s.operand32 h isImm imm r = .error (cOPERAND, unstated) := by
  unfold State.operand32 State.operandOf reg32 at *
  cases isImm with
  | true =>
    have := imm.isLt
    simp only [if_true] at hn
    omega
  | false => exact if_pos hn

/-- What an instruction on an own counter with an operand of 32 bits comes to (R77, R78). -/
def State.counterAct (s : State) (h : Head) (creg : Bool) (sc : BitVec 6) (cnum : BitVec 16) (isImm : Bool) (imm : BitVec 14)
    (r : BitVec 6) (k : Nat → Nat → Act) : Act :=
  localCounter h creg sc cnum (fun c =>
    match s.operand32 h isImm imm r with
    | .error e => .fault e
    | .ok n => k c n) s

variable {isImm : Bool} {imm : BitVec 14} {r : BitVec 6} {k : Nat → Nat → Act}

theorem State.counterAct_fault
    (hb : (s.counterRef (s.ctx h.tile h.ctx) creg sc cnum).dev ≠ none ∨ 2 ^ 32 ≤ s.operandOf h isImm imm r) :
    s.counterAct h creg sc cnum isImm imm r k = .fault (cOPERAND, unstated) := by
  unfold State.counterAct
  by_cases hd : (s.counterRef (s.ctx h.tile h.ctx) creg sc cnum).dev = none
  · rw [localCounter_own hd, State.operand32_large (hb.resolve_left fun h => h hd)]
  · exact localCounter_far hd

theorem State.counterAct_ok (hd : (s.counterRef (s.ctx h.tile h.ctx) creg sc cnum).dev = none)
    (hn : s.operandOf h isImm imm r < 2 ^ 32) : s.counterAct h creg sc cnum isImm imm r k
      = k (s.counterRef (s.ctx h.tile h.ctx) creg sc cnum).cnum (s.operandOf h isImm imm r) := by
  unfold State.counterAct
  rw [localCounter_own hd, State.operand32_ok hn]

end

end Sys2Proof.Machine

/-! wait, its retest and timeout, and migrate (R43 to R48). -/

namespace Sys2Proof.Machine

section
variable {s u t : State} {h : Head}

theorem State.elsewhere_setCtx (s : State) (h : Head) (x : Ctx) : (s.setCtx h.tile h.ctx x).elsewhere s h :=
  ⟨rfl, fun _ hu => s.tile_setCtx_other _ _ hu, x, (s.tile h.tile).credit, (s.tile h.tile).want, by
    unfold State.setCtx
    rw [State.tile_setTile, if_pos rfl]⟩

/-- A stalled instruction that completes with predicate `b` (R43, R44). -/
theorem State.finishWait_spec {pd : BitVec 3} {b : Bool} (ht : t.ctx h.tile h.ctx = (s.ctx h.tile h.ctx).finishWait pd b) :
    t.onlyP s h pd.toNat (if b then BitVec.allOnes 64 else 0) ∧ t.keepsS s h ∧ t.wentOn s h ∧ (t.ctx h.tile h.ctx).stall = .none := by
  obtain ⟨hpc, hloops, hstall⟩ :=
    Ctx.flow_wrP { s.ctx h.tile h.ctx with stall := .none } pd.toNat (if b then BitVec.allOnes 64 else 0)
  refine ⟨State.onlyP_of_ctx ht fun _ => rfl, fun j => ?_, State.wentOn_of_ctx ht hpc hloops, by rw [ht]; exact hstall⟩
  rw [ht]
  unfold Ctx.finishWait
  rw [Ctx.rdS_advance, Ctx.rdS_wrPb]
  rfl

/-- State `u` is `s`, at a retest or a completion, or `s` with its control instruction charged, at issue. -/
def State.isOrPaid (u s : State) (h : Head) : Prop := u = s ∨ u = s.pay h.tile 16

theorem State.isOrPaid_ctx (hu : u.isOrPaid s h) : u.ctx h.tile h.ctx = s.ctx h.tile h.ctx := by
  obtain rfl | rfl := hu
  · rfl
  · exact State.ctx_pay ..

theorem State.isOrPaid_inv (hu : u.isOrPaid s h) (hs : s.inv = true) : u.inv = true := by
  obtain rfl | rfl := hu
  · exact hs
  · exact State.pay_inv hs

theorem State.isOrPaid_keepsData (hu : u.isOrPaid s h) : u.keepsData s := by
  obtain rfl | rfl := hu
  · exact u.keepsData_refl
  · exact s.keepsData_pay ..

theorem State.isOrPaid_counter (hu : u.isOrPaid s h) (n : Nat) : u.counter n = s.counter n := by
  obtain rfl | rfl := hu <;> rfl

theorem State.isOrPaid_clusterOf (hu : u.isOrPaid s h) (n : Nat) : u.clusterOf n = s.clusterOf n := by
  obtain rfl | rfl := hu <;> rfl

theorem State.isOrPaid_elsewhere (hu : u.isOrPaid s h) (x : Ctx) : (u.setCtx h.tile h.ctx x).elsewhere s h := by
  obtain rfl | rfl := hu
  · exact u.elsewhere_setCtx h x
  · exact s.elsewhere_pay h 16 x

/-- A context that stalls at a counter, and its cluster among the counter's waiters (R43). -/
def State.stallsAt (u : State) (h : Head) (n : Nat) (pd : BitVec 3) (timed : Bool) : State :=
  (u.setCtx h.tile h.ctx { u.ctx h.tile h.ctx with stall := .wait n pd timed false }).setWaiter n h.tile

theorem State.stallsAt_spec (hu : u.isOrPaid s h) (n : Nat) (pd : BitVec 3) (timed : Bool) : let t := u.stallsAt h n pd timed
    (t.ctx h.tile h.ctx).stall = .wait n pd timed false ∧ (t.ctx h.tile h.ctx).pc = (s.ctx h.tile h.ctx).pc ∧ t.keepsS s h
      ∧ t.keepsPV s h ∧ t.keepsData s
      ∧ t.onlyCounter s n { s.counter n with waiters := insertRising (s.clusterOf h.tile) (s.counter n).waiters } := by
  intro t
  have ht : t.ctx h.tile h.ctx = { s.ctx h.tile h.ctx with stall := .wait n pd timed false } := by
    rw [← State.isOrPaid_ctx hu]
    exact u.ctx_setCtx ..
  refine ⟨congrArg Ctx.stall ht, by rw [ht], fun j => by rw [ht]; rfl, ?_, ?_, fun k => ?_⟩
  · unfold State.keepsPV
    rw [ht]
    exact ⟨fun _ => rfl, fun _ _ => rfl, rfl, rfl, rfl, rfl, rfl, rfl, rfl⟩
  · exact State.keepsData_trans (State.keepsData_trans (State.keepsData_setCounter ..) (u.keepsData_setCtx ..))
      (State.isOrPaid_keepsData hu)
  · rw [← State.isOrPaid_counter hu, ← State.isOrPaid_counter hu, ← State.isOrPaid_clusterOf hu]
    exact State.counter_setCounter ..

/-- A counter set to `y`, its waiters woken, and the context going on: at issue, or out of a stall (R45, R48). -/
theorem State.setWaking_wentOn (hs : s.inv = true) (hu : u.isOrPaid s h) (n : Nat) (y : Counter) (st : Stall) :
    let t := (u.setWaking n y).setCtx h.tile h.ctx { s.ctx h.tile h.ctx with stall := st }.advance
    t.keepsS s h ∧ t.keepsPV s h ∧ t.wentOn s h ∧ t.keepsData s
      ∧ t.onlyCounter s n { y with waiters := if y.target ≤ y.count then [] else y.waiters } := by
  intro t
  have ht : t.ctx h.tile h.ctx = { s.ctx h.tile h.ctx with stall := st }.advance := State.ctx_setCtx ..
  refine ⟨fun j => ?_, ?_, State.wentOn_of_ctx ht rfl rfl, ?_, fun j => ?_⟩
  · rw [ht]; rfl
  · unfold State.keepsPV
    rw [ht]
    exact ⟨fun _ => rfl, fun _ _ => rfl, rfl, rfl, rfl, rfl, rfl, rfl, rfl⟩
  · exact State.keepsData_trans (State.keepsData_trans (State.keepsData_setCtx ..)
      (State.keepsData_setWaking (State.isOrPaid_inv hu hs))) (State.isOrPaid_keepsData hu)
  · rw [← State.isOrPaid_counter hu]
    exact u.onlyCounter_setWaking n y j

/-- At issue, where the context does not stall. -/
theorem State.setWaking_issued (hs : s.inv = true) (hi : (s.ctx h.tile h.ctx).stall = .none) (n : Nat) (y : Counter) :
    let t := ((s.pay h.tile 16).setWaking n y).advance h.tile h.ctx
    t.keepsS s h ∧ t.keepsPV s h ∧ t.wentOn s h ∧ t.keepsData s
      ∧ t.onlyCounter s n { y with waiters := if y.target ≤ y.count then [] else y.waiters } := by
  have hx : ((s.pay h.tile 16).setWaking n y).ctx h.tile h.ctx = s.ctx h.tile h.ctx :=
    (State.ctx_setWaking (State.pay_inv hs) (stall_none_not_wait (by rw [State.ctx_pay]; exact hi))).trans (State.ctx_pay ..)
  unfold State.advance
  rw [hx]
  exact State.setWaking_wentOn hs (.inr rfl) n y (s.ctx h.tile h.ctx).stall

/-- The counter after a migrate (R48). -/
def Counter.migrated (c : Counter) (k : Nat) : Counter := { c with epoch := (c.epoch + 1) % 16, count := 0, target := k }

end

/-! ## The instructions -/

section
variable {s : State} {h : Head}

theorem Counter.reached_iff {c : Counter} : c.reached = true ↔ c.target ≤ c.count := by
  unfold Counter.reached
  exact decide_eq_true_iff

theorem Counter.reached_false {c : Counter} : c.reached = false ↔ c.count < c.target := by
  unfold Counter.reached
  rw [decide_eq_false_iff_not, Nat.not_le]

section
variable {f : WaitF} (hr : s.runs h (encWait h f) ⟨if f.creg then [f.sc.toNat] else [], [96 + f.pd.toNat]⟩)
include hr

theorem wait_far (hd : (s.counterRef (s.ctx h.tile h.ctx) f.creg f.sc f.cnum).dev ≠ none) :
    exec (.wait h f) s = .next (s.issueFault h.tile h.ctx (cOPERAND, unstated)) :=
  issue_runs_fault hr (localCounter_far hd)

variable (hd : (s.counterRef (s.ctx h.tile h.ctx) f.creg f.sc f.cnum).dev = none)
include hd

/-- wait on an own counter: its predicate at once when the target is met or no time is given, else a stall (R43, R44). -/
theorem wait_own : let n := (s.counterRef (s.ctx h.tile h.ctx) f.creg f.sc f.cnum).cnum
    exec (.wait h f) s = .next (if (s.counter n).reached then
        (s.pay h.tile 16).setCtx h.tile h.ctx ((s.ctx h.tile h.ctx).finishWait f.pd true)
      else if !f.notimeout && decide (f.timeout = 0) then
        (s.pay h.tile 16).setCtx h.tile h.ctx ((s.ctx h.tile h.ctx).finishWait f.pd false)
      else (s.pay h.tile 16).stallsAt h n f.pd (!f.notimeout)) := by
  intro n
  refine (issue_runs hr (localCounter_own hd)).trans ?_
  dsimp only
  unfold State.stallsAt
  rw [State.ctx_pay]
  rfl

end

/-- A stall that ends with its predicate, at issue or later: what `CounterWaits` calls going on. -/
theorem State.finishWait_goesOn {u : State} (hu : u.isOrPaid s h) (pd : BitVec 3) (b : Bool) :
    let t := u.setCtx h.tile h.ctx ((s.ctx h.tile h.ctx).finishWait pd b)
    t.onlyP s h pd.toNat (if b then BitVec.allOnes 64 else 0) ∧ t.keepsS s h ∧ t.wentOn s h ∧ t.elsewhere s h
      ∧ (t.ctx h.tile h.ctx).stall = .none := by
  intro t
  obtain ⟨hp, hs, hon, hst⟩ := State.finishWait_spec (s := s) (h := h) (t := t) (u.ctx_setCtx ..)
  exact ⟨hp, hs, hon, State.isOrPaid_elsewhere hu _, hst⟩

section
variable {n : Nat} {pd : BitVec 3} {timed woken : Bool} (ht : h.tile < Config.tiles) (hx : (s.ctx h.tile h.ctx).stall = .wait n pd timed woken)
include ht hx

/-- A woken context that finds its target met goes on with ones (R45). -/
theorem waitRetest_met (hw : woken = true) (hm : (s.counter n).reached = true) :
    exec (.waitRetest h.tile h.ctx) s = .next (s.setCtx h.tile h.ctx ((s.ctx h.tile h.ctx).finishWait pd true)) := by
  subst hw
  refine (if_pos ht).trans ?_
  dsimp only
  rw [hx]
  exact congrArg Host.Outcome.next (if_pos hm)

/-- One that does not waits again, as it did (R45). -/
theorem waitRetest_unmet (hw : woken = true) (hm : (s.counter n).reached = false) :
    exec (.waitRetest h.tile h.ctx) s = .next (s.stallsAt h n pd timed) := by
  subst hw
  refine (if_pos ht).trans ?_
  dsimp only
  rw [hx]
  exact congrArg Host.Outcome.next (if_neg (by rw [hm]; exact Bool.false_ne_true))

/-- A wait whose time is over goes on with zeros (R44). -/
theorem waitTimeout_over (hw : timed = true) :
    exec (.waitTimeout h.tile h.ctx) s = .next (s.setCtx h.tile h.ctx ((s.ctx h.tile h.ctx).finishWait pd false)) := by
  subst hw
  refine (if_pos ht).trans ?_
  dsimp only
  rw [hx]

end

section
variable {g : ArmF} {discard : Bool} (hr : s.runs h (encArm 3 discard h g) (usesY g.creg g.sc g.timm g.st))
include hr

/-- migrate of another module's counter, or with a target above 2^32 − 1, is OPERAND (R77, R78). -/
theorem migrate_operand (hb : (s.counterRef (s.ctx h.tile h.ctx) g.creg g.sc g.cnum).dev ≠ none
    ∨ 2 ^ 32 ≤ s.operandOf h g.timm g.ti g.st) :
    exec (if discard then .migrateDiscard h g else .migrateDrain h g) s = .next (s.issueFault h.tile h.ctx (cOPERAND, unstated)) := by
  cases discard with
  | true => exact issue_runs_fault hr (State.counterAct_fault hb)
  | false => exact issue_runs_fault hr (State.counterAct_fault hb)

variable (hd : (s.counterRef (s.ctx h.tile h.ctx) g.creg g.sc g.cnum).dev = none) (hn : s.operandOf h g.timm g.ti g.st < 2 ^ 32)
include hd hn

/-- A migrate of an own counter with a target of 32 bits takes its effect: DISCARD at once, DRAIN when the old epoch is complete,
and else the context stalls (R48). -/
theorem migrate_own : let c := (s.counterRef (s.ctx h.tile h.ctx) g.creg g.sc g.cnum).cnum
    let k := s.operandOf h g.timm g.ti g.st
    let s' := s.pay h.tile 16
    exec (if discard then .migrateDiscard h g else .migrateDrain h g) s = .next (
      if discard || (s.counter c).reached then (s'.migrateCounter c k).advance h.tile h.ctx
      else s'.setCtx h.tile h.ctx { s.ctx h.tile h.ctx with stall := .drain c k }) := by
  intro c k s'
  cases discard with
  | true => exact issue_runs hr (State.counterAct_ok (k := fun c k => .go 16 fun s => (s.migrateCounter c k).advance h.tile h.ctx) hd hn)
  | false =>
    refine (issue_runs hr (State.counterAct_ok (k := fun c k => .go 16 fun s =>
      if (s.counter c).reached then (s.migrateCounter c k).advance h.tile h.ctx
      else s.setCtx h.tile h.ctx { s.ctx h.tile h.ctx with stall := .drain c k }) hd hn)).trans ?_
    rw [Bool.false_or, State.ctx_pay]
    rfl

end

/-- The old epoch of a stalled DRAIN migrate has completed (R48). -/
theorem migrateDrainComplete_met {n k : Nat} (ht : h.tile < Config.tiles) (hx : (s.ctx h.tile h.ctx).stall = .drain n k)
    (hm : (s.counter n).reached = true) : exec (.migrateDrainComplete h.tile h.ctx) s
      = .next ((s.migrateCounter n k).setCtx h.tile h.ctx { s.ctx h.tile h.ctx with stall := .none }.advance) := by
  refine (if_pos ht).trans ?_
  dsimp only
  rw [hx]
  exact congrArg Host.Outcome.next (if_pos hm)

end

/-- Settles O33: each command by what it comes to, and the three states that it can leave: going on, stalled, migrated. -/
theorem counterWaits : Obligations.CounterWaits := by
  unfold Obligations.CounterWaits
  intro h f g s hs
  extract_lets x r c rm y target ones goesOn stalls migrates
  have migrates_of : ∀ {t : State} {n k : Nat}, (t.keepsS s h ∧ t.keepsPV s h ∧ t.wentOn s h ∧ t.keepsData s
      ∧ t.onlyCounter s n { (s.counter n).migrated k with waiters := if k ≤ 0 then [] else (s.counter n).waiters }) → migrates t n k := by
    intro t n k ⟨hS, hPV, hon, hdata, hcounter⟩
    exact ⟨hS, hPV, hon, hdata, by simpa only [Nat.le_zero, Counter.migrated] using hcounter⟩
  refine ⟨fun hr => ⟨wait_far hr, fun hd => ⟨fun hm => ?_, fun hm hnt hz => ?_, fun hm hw => ?_⟩⟩,
    fun ht n pd timed woken hx => ⟨fun hw hm => ?_, fun hw hm => ?_, fun hw => ?_⟩,
    fun hb discard hr => migrate_operand hr hb, fun hd hn => ⟨fun hr => ?_, fun hr => ⟨fun hm => ?_, fun hm => ?_⟩⟩,
    fun ht n k hx hm => ?_⟩
  · refine ⟨_, (wait_own hr hd).trans (congrArg Host.Outcome.next (if_pos (Counter.reached_iff.2 hm))), ?_⟩
    exact State.finishWait_goesOn (.inr rfl) f.pd true
  · refine ⟨_, (wait_own hr hd).trans (congrArg Host.Outcome.next ?_), State.finishWait_goesOn (.inr rfl) f.pd false⟩
    rw [if_neg (by rw [Counter.reached_false.2 hm]; exact Bool.false_ne_true), if_pos (by simp [hnt, hz])]
  · refine ⟨_, (wait_own hr hd).trans (congrArg Host.Outcome.next ?_), State.stallsAt_spec (.inr rfl) ..⟩
    rw [if_neg (by rw [Counter.reached_false.2 hm]; exact Bool.false_ne_true), if_neg ?_]
    obtain hw | hw := hw
    · rw [hw]; exact Bool.false_ne_true
    · rw [decide_eq_false hw, Bool.and_false]; exact Bool.false_ne_true
  · exact ⟨_, waitRetest_met ht hx hw (Counter.reached_iff.2 hm), State.finishWait_goesOn (.inl rfl) pd true⟩
  · exact ⟨_, waitRetest_unmet ht hx hw (Counter.reached_false.2 hm), State.stallsAt_spec (.inl rfl) ..⟩
  · exact ⟨_, waitTimeout_over ht hx hw, State.finishWait_goesOn (.inl rfl) pd false⟩
  · exact ⟨_, migrate_own hr hd hn, migrates_of (State.setWaking_issued hs (State.runs_idle hr).1 ..)⟩
  · refine ⟨_, (migrate_own hr hd hn).trans (congrArg Host.Outcome.next (if_pos ?_)),
      migrates_of (State.setWaking_issued hs (State.runs_idle hr).1 ..)⟩
    exact Counter.reached_iff.2 hm
  · refine ⟨_, (migrate_own hr hd hn).trans (congrArg Host.Outcome.next (if_neg ?_)), s.elsewhere_pay h 16 _, State.ctx_setCtx ..⟩
    rw [show (s.counter _).reached = false from Counter.reached_false.2 hm]
    exact Bool.false_ne_true
  · exact ⟨_, migrateDrainComplete_met ht hx (Counter.reached_iff.2 hm),
      migrates_of (State.setWaking_wentOn (u := s) hs (.inl rfl) n ((s.counter n).migrated k) .none),
      congrArg Ctx.stall (State.ctx_setCtx ..)⟩

end Sys2Proof.Machine

/-! What sending changes: the fabric, the free values drawn, and the operations and arrivals that are on their way. -/

namespace Sys2Proof.Machine

/-- In `t` messages of `s` have been sent: the fabric and the free values drawn may differ. -/
def State.posts (t s : State) : Prop := ∃ (f : Fabric) (n : Nat), t = { s with fab := f, free := n }

/-- In `t` operations and arrivals have been added to those of `s` and sent. -/
def State.sends (t s : State) : Prop := ∃ (f : Fabric) (n : Nat) (ro : List ROp) (ar : List Arrival) (i : Nat),
  t = { s with fab := f, free := n, rops := s.rops ++ ro, arrivals := s.arrivals ++ ar, nextId := i }

section
variable {s t u : State}

theorem State.posts_refl (s : State) : s.posts s := ⟨s.fab, s.free, rfl⟩

theorem State.posts_trans (h : u.posts t) (h' : t.posts s) : u.posts s := by
  obtain ⟨f, n, rfl⟩ := h
  obtain ⟨f', n', rfl⟩ := h'
  exact ⟨f, n, rfl⟩

theorem State.posts_fab (s : State) (f : Fabric) : { s with fab := f }.posts s := ⟨f, s.free, rfl⟩

theorem State.ackSent_posts (s : State) (k : StreamKey) (a : Option (Nat × Nat)) : (s.ackSent k a).posts s := by
  unfold State.ackSent
  split
  · exact s.posts_refl
  · exact s.posts_fab _

theorem State.launchMsg_posts (s : State) (m : OutMsg) (r : Bool) : (s.launchMsg m r).posts s :=
  State.posts_trans (State.posts_fab _ _) (s.ackSent_posts ..)

theorem State.pump1_posts (s : State) (k : StreamKey) : (s.pump1 k).posts s := by
  unfold State.pump1
  dsimp only
  split
  · exact s.posts_refl
  · split
    · exact s.posts_refl
    · refine State.posts_trans (State.launchMsg_posts ..) (State.posts_trans (State.posts_fab _ _) ?_)
      split
      · exact s.posts_refl
      · exact ⟨s.fab, s.free + 1, rfl⟩

theorem State.foldl_posts {α : Type} {f : State → α → State} (hf : ∀ u x, (f u x).posts u) (l : List α) (s : State) :
    (l.foldl f s).posts s :=
  foldl_prop (P := fun u => u.posts s) (fun u x hu => State.posts_trans (hf u x) hu) s.posts_refl

theorem State.post_posts (s : State) (k : StreamKey) (d kind hint tag : Nat) (data : List Byte) (r : Option Nat) :
    (s.post k d kind hint tag data r).posts s :=
  State.posts_trans (State.foldl_posts (fun u _ => u.pump1_posts k) _ _) (s.posts_fab _)

theorem State.request_posts (s : State) (o : ROp) (r : Bool) : (s.request o r).posts s :=
  State.foldl_posts (fun u _ => u.post_posts ..) _ s

/-! ## Operations and arrivals -/

theorem State.sends_refl (s : State) : s.sends s :=
  ⟨s.fab, s.free, [], [], s.nextId, by rw [List.append_nil, List.append_nil]⟩

theorem State.sends_trans (h : u.sends t) (h' : t.sends s) : u.sends s := by
  obtain ⟨f, n, ro, ar, i, rfl⟩ := h
  obtain ⟨f', n', ro', ar', i', rfl⟩ := h'
  exact ⟨f, n, ro' ++ ro, ar' ++ ar, i, by rw [← List.append_assoc, ← List.append_assoc]⟩

theorem State.foldl_sends {α : Type} {f : State → α → State} (hf : ∀ u x, (f u x).sends u) (l : List α) (s : State) :
    (l.foldl f s).sends s :=
  foldl_prop (P := fun u => u.sends s) (fun u x hu => State.sends_trans (hf u x) hu) s.sends_refl

/-- Sending leaves everything but what is on its way. -/
theorem State.sends_frame (h : t.sends s) :
    { t with fab := s.fab, free := s.free, rops := s.rops, arrivals := s.arrivals, nextId := s.nextId } = s := by
  obtain ⟨f, n, ro, ar, i, rfl⟩ := h
  rfl

theorem State.sends_tiles (h : t.sends s) : t.tiles = s.tiles := (congrArg State.tiles (State.sends_frame h) :)

theorem State.sends_ctx (h : t.sends s) (u : Nat) (c : Ctxt) : t.ctx u c = s.ctx u c := by
  unfold State.ctx State.tile
  rw [State.sends_tiles h]

theorem State.keepsData_sends (h : t.sends s) : t.keepsData s := by
  have hf := State.sends_frame h
  refine ⟨(congrArg State.regs hf :), (congrArg State.mem hf :), (congrArg State.chans hf :), fun u b => ?_, fun u k => ?_⟩
  all_goals unfold State.tile; rw [State.sends_tiles h]

theorem State.mem_rops_sends (h : t.sends s) {o : ROp} (ho : o ∈ s.rops) : o ∈ t.rops := by
  obtain ⟨f, n, ro, ar, i, rfl⟩ := h
  exact List.mem_append_left _ ho

theorem State.mem_arrivals_sends (h : t.sends s) {a : Arrival} (ha : a ∈ s.arrivals) : a ∈ t.arrivals := by
  obtain ⟨f, n, ro, ar, i, rfl⟩ := h
  exact List.mem_append_left _ ha

/-- An operation as the module sends it: with its number, its TAG and its phase (R353, R361). -/
def State.issued (s : State) (o : ROp) : ROp :=
  { o with id := s.nextId, tag := (s.freeTag o.stream).getD 256,
           phase := if s.streamHeld o.stream || (s.freeTag o.stream).isNone then .held else .sent }

/-- An operation joins those on their way, and its request is sent unless its stream holds it. -/
theorem State.sendRop_posts (s : State) (o : ROp) :
    (s.sendRop o).posts { s with rops := s.rops ++ [s.issued o], nextId := s.nextId + 1 } := by
  have heq : s.sendRop o = if s.streamHeld o.stream || (s.freeTag o.stream).isNone
      then { s with rops := s.rops ++ [s.issued o], nextId := s.nextId + 1 }
      else State.request { s with rops := s.rops ++ [s.issued o], nextId := s.nextId + 1 } (s.issued o) false := rfl
  rw [heq]
  split
  · exact State.posts_refl _
  · exact State.request_posts ..

theorem State.sendRop_rops (s : State) (o : ROp) : (s.sendRop o).rops = s.rops ++ [s.issued o] := by
  obtain ⟨f, n, hp⟩ := s.sendRop_posts o
  rw [hp]

theorem State.sendRop_sends (s : State) (o : ROp) : (s.sendRop o).sends s := by
  obtain ⟨f, n, hp⟩ := s.sendRop_posts o
  exact ⟨f, n, [s.issued o], [], s.nextId + 1, hp.trans (by rw [List.append_nil])⟩

/-- An arrival of the module itself. -/
theorem State.sendArrival_home (s : State) (ep : Nat) (o : ROwner) {a : Arrival} (ha : a.dev = none) : s.sendArrival ep o a
    = { s with arrivals := s.arrivals ++ [{ a with id := s.nextId }], nextId := s.nextId + 1 } := by
  unfold State.sendArrival
  rw [ha]

/-- The ARRIVE to another module (Table 9-4, R76). -/
theorem State.sendArrival_away (s : State) (ep : Nat) (o : ROwner) {a : Arrival} {d : Nat} (ha : a.dev = some d) :
    ∃ r, s.sendArrival ep o a = s.sendRop r ∧ r.kind = .arrive ∧ r.dev = d ∧ r.addr = a.cnum + a.epoch * 2 ^ 16 + a.inc * 2 ^ 20
      ∧ r.owner = o := by
  unfold State.sendArrival
  rw [ha]
  exact ⟨_, rfl, rfl, rfl, rfl, rfl⟩

theorem State.sendArrival_sends (s : State) (ep : Nat) (o : ROwner) (a : Arrival) : (s.sendArrival ep o a).sends s := by
  cases ha : a.dev with
  | none =>
    rw [s.sendArrival_home ep o ha]
    exact ⟨s.fab, s.free, [], [{ a with id := s.nextId }], s.nextId + 1, by rw [List.append_nil]⟩
  | some d =>
    obtain ⟨r, hr, -⟩ := s.sendArrival_away ep o ha
    rw [hr]
    exact s.sendRop_sends r

/-! ## The arrives a context keeps (R42) -/

/-- The arrives kept by a context that no longer wait for its accesses, and those that still do. -/
def State.readyArrives (s : State) (t : Nat) (c : Ctxt) : List (Nat × BitVec 2 × Arrival) :=
  (s.ctx t c).arrives.filter fun e => s.performed t c e.2.1.toNat e.1

def State.waitingArrives (s : State) (t : Nat) (c : Ctxt) : List (Nat × BitVec 2 × Arrival) :=
  (s.ctx t c).arrives.filter fun e => !s.performed t c e.2.1.toNat e.1

/-- One kept arrive is sent. -/
def State.sendKept (s : State) (t : Nat) (c : Ctxt) (ep : Nat) (e : Nat × BitVec 2 × Arrival) : State :=
  s.sendArrival ep (.arrive t c e.1 e.2.2.pc) e.2.2

theorem State.flushArrives_eq (s : State) (t : Nat) (c : Ctxt) : s.flushArrives t c
    = (s.readyArrives t c).foldl (fun u e => u.sendKept t c (clusterEp (s.clusterOf t)) e)
        (s.setCtx t c { s.ctx t c with arrives := s.waitingArrives t c }) := rfl

theorem State.flushArrives_sends (s : State) (t : Nat) (c : Ctxt) :
    (s.flushArrives t c).sends (s.setCtx t c { s.ctx t c with arrives := s.waitingArrives t c }) := by
  rw [State.flushArrives_eq]
  exact State.foldl_sends (fun u e => u.sendArrival_sends ..) _ _

/-- What holds once it does and is brought about by one step of a fold holds after the fold. -/
theorem foldl_reaches {α β : Type} {P : β → Prop} {f : β → α → β} (hf : ∀ u x, P u → P (f u x)) {x : α} (hx : ∀ u, P (f u x)) :
    ∀ {l : List α} {m : β}, x ∈ l → P (l.foldl f m)
  | y :: l, m, h => by
    rw [List.foldl_cons]
    obtain rfl | h := List.mem_cons.1 h
    · exact foldl_prop hf (hx m)
    · exact foldl_reaches hf hx h

/-- A ready arrive of the module itself is on its way once the kept ones are sent. -/
theorem State.flushArrives_home {c : Ctxt} {v : Nat} {e : Nat × BitVec 2 × Arrival} (he : e ∈ s.readyArrives v c) (ha : e.2.2.dev = none)
    (hid : e.2.2.id = 0) : ∃ b ∈ (s.flushArrives v c).arrivals, { b with id := 0 } = e.2.2 := by
  rw [State.flushArrives_eq]
  refine foldl_reaches (P := fun u : State => ∃ b ∈ u.arrivals, { b with id := 0 } = e.2.2) (x := e) ?_ ?_ he
  · rintro u x ⟨b, hb, hbe⟩
    exact ⟨b, State.mem_arrivals_sends (u.sendArrival_sends ..) hb, hbe⟩
  · intro u
    refine ⟨{ e.2.2 with id := u.nextId }, ?_, by rw [← hid]⟩
    unfold State.sendKept
    rw [u.sendArrival_home _ _ ha]
    exact List.mem_append_right _ (List.mem_singleton.2 rfl)

/-- A ready arrive to another module is among the module's operations once the kept ones are sent. -/
theorem State.flushArrives_away {c : Ctxt} {v d : Nat} {e : Nat × BitVec 2 × Arrival} (he : e ∈ s.readyArrives v c)
    (ha : e.2.2.dev = some d) : ∃ o ∈ (s.flushArrives v c).rops, o.kind = .arrive ∧ o.dev = d
      ∧ o.addr = e.2.2.cnum + e.2.2.epoch * 2 ^ 16 + e.2.2.inc * 2 ^ 20 ∧ o.owner = .arrive v c e.1 e.2.2.pc := by
  rw [State.flushArrives_eq]
  refine foldl_reaches (P := fun u : State => ∃ o ∈ u.rops, o.kind = .arrive ∧ o.dev = d
      ∧ o.addr = e.2.2.cnum + e.2.2.epoch * 2 ^ 16 + e.2.2.inc * 2 ^ 20 ∧ o.owner = .arrive v c e.1 e.2.2.pc) (x := e) ?_ ?_ he
  · rintro u x ⟨o, ho, hoe⟩
    exact ⟨o, State.mem_rops_sends (u.sendArrival_sends ..) ho, hoe⟩
  · intro u
    obtain ⟨r, hr, hk, hd, hadr, hown⟩ := u.sendArrival_away (clusterEp (s.clusterOf v)) (.arrive v c e.1 e.2.2.pc) ha
    refine ⟨u.issued r, ?_, hk, hd, hadr, hown⟩
    unfold State.sendKept
    rw [hr, State.sendRop_rops]
    exact List.mem_append_right _ (List.mem_singleton.2 rfl)

/-- Nothing kept, nothing sent. -/
theorem State.flushArrives_none {c : Ctxt} {v : Nat} (hx : (s.ctx v c).arrives = []) :
    s.flushArrives v c = s.setCtx v c { s.ctx v c with arrives := [] } := by
  rw [State.flushArrives_eq]
  unfold State.readyArrives State.waitingArrives
  rw [hx]
  rfl

end

end Sys2Proof.Machine

/-! arm, arrive, scread and an arrival at its counter (R41, R42, R46, R49, R76 to R80). -/

namespace Sys2Proof.Machine

/-! ## Settling a fault that a context holds (R85, R86) -/

section
variable {s t : State} {v : Nat} {c : Ctxt}

/-- The context with its fault delivered, or its program ended. -/
def Ctx.taken (x : Ctx) (f : FaultRec) : Ctx :=
  if x.delivers f then
    { x with fpc := f.pc, fcause := BitVec.ofNat 16 (b2n f.unit * 256 + f.cause.toNat), finfo := f.info, fresume := x.pc, inh := true,
             pc := x.fvec, stall := .none, held := none, endFault := none, run := .running }
  else { x with run := .stopping, endFault := some { f with inh := x.inh }, stall := .none, held := none }

theorem State.takeFault_eq (s : State) (v : Nat) (c : Ctxt) (f : FaultRec) :
    s.takeFault v c f = s.setCtx v c ((s.ctx v c).taken f) := by
  unfold State.takeFault Ctx.taken
  dsimp only
  split <;> rfl

theorem State.settle_free (hx : (s.ctx v c).held = none) : s.settle v c = s := by
  unfold State.settle
  rw [hx]

/-- A held fault is taken once nothing earlier is outstanding. -/
theorem State.settle_held {f : FaultRec} (hx : (s.ctx v c).held = some f) :
    s.settle v c = if s.before v c f.seq then s.setCtx v c ((s.ctx v c).taken f) else s := by
  unfold State.settle
  rw [hx]
  simp only [State.takeFault_eq]

/-- Settling changes its context only. -/
theorem State.settle_cases (s : State) (v : Nat) (c : Ctxt) :
    s.settle v c = s ∨ ∃ f, (s.ctx v c).held = some f ∧ s.settle v c = s.setCtx v c ((s.ctx v c).taken f) := by
  cases hx : (s.ctx v c).held with
  | none => exact .inl (State.settle_free hx)
  | some f =>
    rw [State.settle_held hx]
    split
    · exact .inr ⟨f, rfl, rfl⟩
    · exact .inl rfl

theorem State.settle_frame (s : State) (v : Nat) (c : Ctxt) : { s.settle v c with tiles := s.tiles } = s := by
  obtain h | ⟨f, -, h⟩ := s.settle_cases v c
  · rw [h]
  · rw [h]; rfl

theorem State.tile_settle_other {u : Nat} (hu : u ≠ v) : (s.settle v c).tile u = s.tile u := by
  obtain h | ⟨f, -, h⟩ := s.settle_cases v c <;> rw [h]
  exact s.tile_setCtx_other c _ hu

/-- A context that holds no fault is as it was. -/
theorem State.ctx_settle {u : Nat} {k : Ctxt} (hx : (s.ctx u k).held = none) : (s.settle v c).ctx u k = s.ctx u k := by
  obtain h | ⟨f, hf, h⟩ := s.settle_cases v c <;> rw [h]
  refine s.ctx_setCtx_other _ ?_
  by_contra hn
  obtain ⟨rfl, rfl⟩ : u = v ∧ k = c := by simpa [not_or] using hn
  rw [hx] at hf
  cases hf

end

/-! ## arm and scread -/

section
variable {s : State} {h : Head}

section
variable {f : ArmF} (hr : s.runs h (encArm 0 false h f) (usesY f.creg f.sc f.timm f.st))
include hr

theorem armExec_operand (hb : (s.counterRef (s.ctx h.tile h.ctx) f.creg f.sc f.cnum).dev ≠ none ∨ 2 ^ 32 ≤ s.operandOf h f.timm f.ti f.st) :
    exec (.arm h f) s = .next (s.issueFault h.tile h.ctx (cOPERAND, unstated)) :=
  issue_runs_fault hr (State.counterAct_fault hb)

theorem armExec_own (hd : (s.counterRef (s.ctx h.tile h.ctx) f.creg f.sc f.cnum).dev = none) (hn : s.operandOf h f.timm f.ti f.st < 2 ^ 32) :
    exec (.arm h f) s = .next (((s.pay h.tile 16).armCounter (s.counterRef (s.ctx h.tile h.ctx) f.creg f.sc f.cnum).cnum
      (s.operandOf h f.timm f.ti f.st)).advance h.tile h.ctx) :=
  issue_runs hr (State.counterAct_ok (k := fun c n => .go 16 fun s => (s.armCounter c n).advance h.tile h.ctx) hd hn)

end

section
variable {sd sc : BitVec 6} {creg : Bool} {sel : BitVec 2} {cnum : BitVec 16}
  (hr : s.runs h (encHead 6 4 h + sd.toNat * 2 ^ 44 + b2n creg * 2 ^ 43 + sc.toNat * 2 ^ 37 + sel.toNat * 2 ^ 30 + cnum.toNat)
    ⟨if creg then [sc.toNat] else [], [sd.toNat]⟩)
include hr

theorem scread_far (hd : (s.counterRef (s.ctx h.tile h.ctx) creg sc cnum).dev ≠ none) :
    exec (.scread h sd creg sc sel cnum) s = .next (s.issueFault h.tile h.ctx (cOPERAND, unstated)) :=
  issue_runs_fault hr (localCounter_far hd)

theorem scread_own (hd : (s.counterRef (s.ctx h.tile h.ctx) creg sc cnum).dev = none) :
    exec (.scread h sd creg sc sel cnum) s = .next ((s.pay h.tile 16).setCtx h.tile h.ctx ((s.ctx h.tile h.ctx).wrS sd.toNat
      (BitVec.ofNat 64 ((s.counter (s.counterRef (s.ctx h.tile h.ctx) creg sc cnum).cnum).word sel.toNat))).advance) := by
  refine (issue_runs hr (localCounter_own hd)).trans ?_
  rw [State.ctx_pay]
  rfl

end

/-- The word scread selects, as R80 gives it. -/
theorem Counter.word_eq (y : Counter) (sel : Nat) : y.word sel = match sel with
    | 0 => y.count
    | 1 => y.target
    | _ => (if y.ovf then 2 ^ 7 else 0) + (if y.target ≤ y.count then 2 ^ 6 else 0) + y.epoch := by
  unfold Counter.word Counter.stat Counter.reached
  split
  · rfl
  · rfl
  · cases y.ovf <;> by_cases hm : y.target ≤ y.count <;> simp [b2n, hm]

/-! ## arrive -/

theorem State.seq_pay (s : State) (t k u : Nat) : ((s.pay t k).tile u).seq = (s.tile u).seq := by
  unfold State.pay
  rw [State.tile_setTile]
  split
  · subst_vars; rfl
  · rfl

theorem State.arriveOf_pay (s : State) (h : Head) (g : ArriveF) (n k : Nat) : arriveOf (s.pay h.tile k) h g n = arriveOf s h g n := by
  unfold arriveOf
  rw [State.ctx_pay, State.seq_pay]
  rfl

/-- The state of an arrive that is charged, with its arrival kept by its context and its issue number taken (R42). -/
def State.arriving (s : State) (h : Head) (e : Nat × BitVec 2 × Arrival) : State :=
  let u := s.pay h.tile 16
  let y := u.setCtx h.tile h.ctx { u.ctx h.tile h.ctx with arrives := (u.ctx h.tile h.ctx).arrives ++ [e] }
  y.setTile h.tile { y.tile h.tile with seq := (s.tile h.tile).seq + 1 }

section
variable (s h) (e : Nat × BitVec 2 × Arrival)

theorem State.tile_arriving : (s.arriving h e).tile h.tile = { ({ s.tile h.tile with
      credit := (s.tile h.tile).credit - s.chargeOf h.tile 16, want := 0 } : Tile).setCtx h.ctx
        { s.ctx h.tile h.ctx with arrives := (s.ctx h.tile h.ctx).arrives ++ [e] } with seq := (s.tile h.tile).seq + 1 } := by
  unfold State.arriving State.setCtx
  dsimp only
  rw [State.tile_setTile, if_pos rfl, State.tile_setTile, if_pos rfl, State.ctx_pay]
  unfold State.pay
  rw [State.tile_setTile, if_pos rfl]

theorem State.ctx_arriving : (s.arriving h e).ctx h.tile h.ctx
    = { s.ctx h.tile h.ctx with arrives := (s.ctx h.tile h.ctx).arrives ++ [e] } := by
  unfold State.ctx
  rw [State.tile_arriving]
  cases h.ctx <;> rfl

theorem State.keepsData_arriving : (s.arriving h e).keepsData s := by
  exact State.keepsData_trans (State.keepsData_setTile _ (fun _ => rfl) fun _ => rfl)
    (State.keepsData_trans (State.keepsData_setCtx ..) (s.keepsData_pay ..))

/-- What an arrive waits for does not change as it issues. -/
theorem State.performed_arriving (sc n : Nat) : (s.arriving h e).performed h.tile h.ctx sc n = s.performed h.tile h.ctx sc n := by
  have hops : ((s.arriving h e).tile h.tile).ops = (s.tile h.tile).ops := by
    rw [State.tile_arriving]
    cases h.ctx <;> rfl
  unfold State.performed
  rw [hops]
  rfl

/-- Its context once the arrives that no longer wait are sent. -/
theorem State.flush_arriving : let t := ((s.arriving h e).flushArrives h.tile h.ctx).advance h.tile h.ctx
    t.keepsS s h ∧ t.keepsPV s h ∧ t.wentOn s h ∧ t.keepsData s ∧ t.counters = s.counters ∧ (t.tile h.tile).seq = (s.tile h.tile).seq + 1
      ∧ (t.ctx h.tile h.ctx).arrives = ((s.ctx h.tile h.ctx).arrives ++ [e]).filter fun e => !s.performed h.tile h.ctx e.2.1.toNat e.1 := by
  intro t
  have hsend := (s.arriving h e).flushArrives_sends h.tile h.ctx
  have hx : t.ctx h.tile h.ctx = { s.ctx h.tile h.ctx with arrives := (s.arriving h e).waitingArrives h.tile h.ctx }.advance := by
    refine (State.ctx_setCtx ..).trans (congrArg Ctx.advance ?_)
    rw [State.sends_ctx hsend, State.ctx_setCtx, State.ctx_arriving]
  refine ⟨fun j => by rw [hx]; rfl, ?_, State.wentOn_of_ctx hx rfl rfl, ?_, ?_, ?_, ?_⟩
  · unfold State.keepsPV
    rw [hx]
    exact ⟨fun _ => rfl, fun _ _ => rfl, rfl, rfl, rfl, rfl, rfl, rfl, rfl⟩
  · exact State.keepsData_trans (State.keepsData_setCtx ..) (State.keepsData_trans (State.keepsData_sends hsend)
      (State.keepsData_trans (State.keepsData_setCtx ..) (s.keepsData_arriving h e)))
  · exact (congrArg State.counters (State.sends_frame hsend) :)
  · have htile : ((s.arriving h e).flushArrives h.tile h.ctx).tile h.tile
        = ((s.arriving h e).setCtx h.tile h.ctx { (s.arriving h e).ctx h.tile h.ctx with
            arrives := (s.arriving h e).waitingArrives h.tile h.ctx }).tile h.tile := by
      unfold State.tile
      rw [State.sends_tiles hsend]
    unfold State.setCtx at htile
    rw [State.tile_setTile, if_pos rfl, State.tile_arriving] at htile
    show ((State.setCtx ..).tile h.tile).seq = _
    unfold State.setCtx
    rw [State.tile_setTile, if_pos rfl, htile]
    cases h.ctx <;> rfl
  · rw [hx]
    show (s.arriving h e).waitingArrives h.tile h.ctx = _
    unfold State.waitingArrives
    rw [State.ctx_arriving]
    simp only [State.performed_arriving]

end

theorem State.readyArrives_arriving (s : State) (h : Head) (e : Nat × BitVec 2 × Arrival) : (s.arriving h e).readyArrives h.tile h.ctx
    = ((s.ctx h.tile h.ctx).arrives ++ [e]).filter fun e => s.performed h.tile h.ctx e.2.1.toNat e.1 := by
  unfold State.readyArrives
  rw [State.ctx_arriving]
  simp only [State.performed_arriving]

section
variable {e : Nat × BitVec 2 × Arrival}

/-- A kept arrive is ready as soon as the accesses it waits for are performed. -/
theorem State.ready_arriving (hp : s.performed h.tile h.ctx e.2.1.toNat e.1 = true) : e ∈ (s.arriving h e).readyArrives h.tile h.ctx := by
  rw [State.readyArrives_arriving]
  exact List.mem_filter.2 ⟨List.mem_append_right _ (List.mem_singleton.2 rfl), hp⟩

variable (hx : (s.ctx h.tile h.ctx).arrives = [])
include hx

/-- An arrive home, alone with its context and no longer waiting, is sent at once (R42). -/
theorem State.arrivals_flush_alone (hp : s.performed h.tile h.ctx e.2.1.toNat e.1 = true) (hd : e.2.2.dev = none) :
    ((s.arriving h e).flushArrives h.tile h.ctx).arrivals = s.arrivals ++ [{ e.2.2 with id := s.nextId }] := by
  rw [State.flushArrives_eq, State.readyArrives_arriving, hx, List.nil_append, List.filter_cons, if_pos hp]
  exact congrArg State.arrivals (State.sendArrival_home _ _ _ hd)

/-- One that waits is not sent. -/
theorem State.flush_waiting (hp : s.performed h.tile h.ctx e.2.1.toNat e.1 = false) :
    ((s.arriving h e).flushArrives h.tile h.ctx).arrivals = s.arrivals ∧ ((s.arriving h e).flushArrives h.tile h.ctx).rops = s.rops := by
  rw [State.flushArrives_eq, State.readyArrives_arriving, hx, List.nil_append, List.filter_cons, if_neg (by rw [hp]; exact Bool.false_ne_true)]
  exact ⟨rfl, rfl⟩

end

section
variable {g : ArriveF} (hr : s.runs h (encArrive h g) (usesY g.creg g.sc g.nimm g.sn))
include hr

theorem arrive_operand (hb : 2 ^ 32 ≤ s.operandOf h g.nimm g.ni g.sn
      ∨ s.farWithoutAlias (s.counterRef (s.ctx h.tile h.ctx) g.creg g.sc g.cnum).dev = true) :
    exec (.arrive h g) s = .next (s.issueFault h.tile h.ctx (cOPERAND, unstated)) := by
  show execArrive h g s = _
  refine issue_runs_fault hr ?_
  by_cases hn : s.operandOf h g.nimm g.ni g.sn < 2 ^ 32
  · rw [State.operand32_ok hn]
    exact if_pos (hb.resolve_left (by omega))
  · rw [State.operand32_large (Nat.le_of_not_lt hn)]

variable (hn : s.operandOf h g.nimm g.ni g.sn < 2 ^ 32)
  (hf : s.farWithoutAlias (s.counterRef (s.ctx h.tile h.ctx) g.creg g.sc g.cnum).dev = false)
include hn hf

/-- arrive keeps its arrival with its context, and sends what no longer waits (R42). -/
theorem arrive_runs : let a := arriveOf s h g (s.operandOf h g.nimm g.ni g.sn)
    exec (.arrive h g) s = .next (((s.arriving h ((s.tile h.tile).seq, arriveScope a g.scope, a)).flushArrives h.tile h.ctx).advance
      h.tile h.ctx) := by
  intro a
  show execArrive h g s = _
  unfold execArrive
  refine (issue_runs hr (f := fun u =>
    let e := ((u.tile h.tile).seq, arriveScope (arriveOf u h g (s.operandOf h g.nimm g.ni g.sn)) g.scope,
      arriveOf u h g (s.operandOf h g.nimm g.ni g.sn))
    let y := u.setCtx h.tile h.ctx { u.ctx h.tile h.ctx with arrives := (u.ctx h.tile h.ctx).arrives ++ [e] }
    ((y.setTile h.tile { y.tile h.tile with seq := (u.tile h.tile).seq + 1 }).flushArrives h.tile h.ctx).advance h.tile h.ctx) ?_).trans ?_
  · rw [State.operand32_ok hn]
    exact if_neg (by rw [show s.farWithoutAlias (arriveOf s h g _).dev = false from hf]; exact Bool.false_ne_true)
  · dsimp only
    rw [s.arriveOf_pay, s.seq_pay]
    rfl

end

end

/-! ## An arrival at its counter (R41, R46, R49) -/

section
variable {s : State} {a : Arrival}

/-- The state once the context of an applied arrival's instruction has looked at a fault that it holds. -/
def State.settleWho (s : State) (a : Arrival) : State :=
  match a.who with
  | some (t, c, _) => s.settle t c
  | none => s

theorem State.settleWho_frame (s : State) (a : Arrival) : { s.settleWho a with tiles := s.tiles } = s := by
  unfold State.settleWho
  split
  · exact s.settle_frame ..
  · rfl

theorem State.ctx_settleWho {u : Nat} {k : Ctxt} (hx : (s.ctx u k).held = none) : (s.settleWho a).ctx u k = s.ctx u k := by
  unfold State.settleWho
  split
  · exact State.ctx_settle hx
  · rfl

theorem State.settleWho_free (hx : ∀ w, a.who = some w → (s.ctx w.1 w.2.1).held = none) : s.settleWho a = s := by
  unfold State.settleWho
  split
  · rename_i t c q hw
    exact State.settle_free (hx _ hw)
  · rfl

theorem arrivalApplied_eq {id : Nat} (ha : s.arrivals.find? (fun b => decide (b.id = id)) = some a) : exec (.arrivalApplied id) s
    = .next ((State.applyArrival { s with arrivals := s.arrivals.filter fun b => decide (b.id ≠ id) } a).settleWho a) := by
  show execArrivalApplied id s = _
  unfold execArrivalApplied
  rw [ha]
  rfl

theorem State.log_records (s : State) (e : Ev) (u : Nat) (d : List Byte) :
    ∃ (r : SMap Nat) (l : List EvRec), s.log e u d = { s with regs := r, events := l } := by
  unfold State.log
  dsimp only
  split
  · exact ⟨s.regs, _, rfl⟩
  · split
    · exact ⟨s.regs, _, rfl⟩
    · exact ⟨_, s.events, rfl⟩

theorem State.log_frame (s : State) (e : Ev) (u : Nat) (d : List Byte) : { s.log e u d with regs := s.regs, events := s.events } = s := by
  obtain ⟨r, l, h⟩ := s.log_records e u d
  rw [h]

theorem State.log_ready {e : Ev} {u : Nat} {d : List Byte} (hh : s.hearthReady = true) :
    s.log e u d = { s with events := s.events ++ [⟨e, u, (d ++ List.replicate 14 0).take 14, false⟩] } := if_pos hh

/-- The counter after an arrival of its epoch: COUNT grows up to 2^32 − 1, and past it OVF is set (R46). -/
def Counter.plus (c : Counter) (n : Nat) : Counter :=
  { c with count := min (c.count + n) (2 ^ 32 - 1), ovf := c.ovf || decide (2 ^ 32 ≤ c.count + n) }

/-- The state with an arrival of its epoch counted, and its overflow recorded (R46). -/
def State.arrived (s : State) (a : Arrival) : State :=
  let u := s.setCounter a.cnum ((s.counter a.cnum).plus a.inc)
  if 2 ^ 32 - 1 < (s.counter a.cnum).count + a.inc then u.log .syncOverflow a.unit (leBytes 2 a.cnum ++ leBytes 1 a.fromDev) else u

theorem State.arrived_frame (s : State) (a : Arrival) :
    { s.arrived a with regs := s.regs, events := s.events, counters := s.counters } = s := by
  unfold State.arrived
  dsimp only
  split
  · exact congrArg (fun u : State => { u with counters := s.counters })
      ((s.setCounter a.cnum ((s.counter a.cnum).plus a.inc)).log_frame ..)
  · rfl

theorem State.counter_arrived (s : State) (a : Arrival) (k : Nat) :
    (s.arrived a).counter k = if k = a.cnum then (s.counter a.cnum).plus a.inc else s.counter k := by
  have hc : (s.arrived a).counters = (s.setCounter a.cnum ((s.counter a.cnum).plus a.inc)).counters := by
    unfold State.arrived
    dsimp only
    split
    · exact (congrArg State.counters ((s.setCounter a.cnum ((s.counter a.cnum).plus a.inc)).log_frame ..) :)
    · rfl
  exact (congrArg (fun m => SMap.get Counter.reset m k) hc).trans (s.counter_setCounter a.cnum k _)

theorem State.arrived_inv (hs : s.inv = true) : (s.arrived a).inv = true := by
  unfold State.arrived
  dsimp only
  split
  · exact State.log_inv (State.setCounter_inv hs)
  · exact State.setCounter_inv hs

/-- An arrival of its counter's epoch is counted, and one with an increment looks for waiters (R41, R45). -/
theorem State.applyArrival_arrived (he : a.anyEpoch = true ∨ a.epoch = (s.counter a.cnum).epoch) :
    s.applyArrival a = if a.inc = 0 then s.arrived a else (s.arrived a).wake a.cnum := by
  unfold State.applyArrival State.arrived
  dsimp only
  rw [if_pos (by simpa using he)]
  simp only [decide_eq_true_eq]
  rfl

theorem State.ctx_arrived (s : State) (a : Arrival) (v : Nat) (k : Ctxt) : (s.arrived a).ctx v k = s.ctx v k := by
  have ht : (s.arrived a).tiles = s.tiles := (congrArg State.tiles (s.arrived_frame a) :)
  unfold State.ctx State.tile
  rw [ht]

theorem State.clusterOf_arrived (s : State) (a : Arrival) (v : Nat) : (s.arrived a).clusterOf v = s.clusterOf v := by
  have hr : (s.arrived a).removed = s.removed := (congrArg State.removed (s.arrived_frame a) :)
  unfold State.clusterOf State.slotOf
  rw [hr]

section
variable (hs : s.inv = true) (he : a.anyEpoch = true ∨ a.epoch = (s.counter a.cnum).epoch)
include he

theorem State.applyArrival_frame : { s.applyArrival a with tiles := s.tiles, counters := (s.arrived a).counters } = s.arrived a := by
  have ht : (s.arrived a).tiles = s.tiles := (congrArg State.tiles (s.arrived_frame a) :)
  rw [State.applyArrival_arrived he, ← ht]
  split
  · rfl
  · exact (s.arrived a).wake_frame a.cnum

theorem State.onlyCounter_applyArrival : let c := (s.counter a.cnum).plus a.inc
    (s.applyArrival a).onlyCounter s a.cnum { c with waiters := if a.inc ≠ 0 ∧ c.target ≤ c.count then [] else c.waiters } := by
  intro c k
  have hc : (s.arrived a).counter a.cnum = c := (s.counter_arrived a _).trans (if_pos rfl)
  rw [State.applyArrival_arrived he]
  by_cases h0 : a.inc = 0
  · rw [if_pos h0, if_neg fun h : a.inc ≠ 0 ∧ c.target ≤ c.count => h.1 h0]
    exact s.counter_arrived a k
  · rw [if_neg h0, State.counter_wake, hc, s.counter_arrived]
    by_cases hk : k = a.cnum
    · by_cases hm : c.target ≤ c.count <;> simp [hk, h0, Counter.reached_iff, hm, c]
    · rw [if_neg fun h => hk h.1, if_neg hk, if_neg hk]

include hs

theorem State.ctx_applyArrival (h0 : a.inc ≠ 0) (hm : ((s.counter a.cnum).plus a.inc).reached = true) (v : Nat) (k : Ctxt) :
    (s.applyArrival a).ctx v k = if s.clusterOf v ∈ (s.counter a.cnum).waiters then (s.ctx v k).wake a.cnum else s.ctx v k := by
  have hc : (s.arrived a).counter a.cnum = (s.counter a.cnum).plus a.inc := (s.counter_arrived a _).trans (if_pos rfl)
  rw [State.applyArrival_arrived he, if_neg h0, State.ctx_wake (State.arrived_inv hs), s.ctx_arrived, s.clusterOf_arrived, hc]
  simp only [hm, true_and]
  rfl

/-- The contexts that wait at the counter of an arrival that meets its target wake with their cluster (R45). -/
theorem State.stall_applyArrival (h0 : a.inc ≠ 0) (hm : ((s.counter a.cnum).plus a.inc).reached = true) {v : Nat} {k : Ctxt} {pd : BitVec 3}
    {timed woken : Bool} (hx : (s.ctx v k).stall = .wait a.cnum pd timed woken) (hh : (s.ctx v k).held = none) :
    ((s.applyArrival a).ctx v k).held = none
      ∧ ((s.applyArrival a).ctx v k).stall = .wait a.cnum pd timed (woken || (s.counter a.cnum).waiters.contains (s.clusterOf v)) := by
  rw [State.ctx_applyArrival hs he h0 hm]
  by_cases hw : s.clusterOf v ∈ (s.counter a.cnum).waiters
  · rw [if_pos hw, Ctx.held_wake, Ctx.stall_wake hx, List.contains_iff_mem.2 hw, Bool.or_true]
    exact ⟨hh, by simp⟩
  · rw [if_neg hw, show (s.counter a.cnum).waiters.contains (s.clusterOf v) = false by simpa using hw, Bool.or_false]
    exact ⟨hh, hx⟩

end

/-- One of another epoch is discarded, and recorded at its base die (R49). -/
theorem State.applyArrival_discarded (ha : a.anyEpoch = false) (he : a.epoch ≠ (s.counter a.cnum).epoch) : s.applyArrival a
    = (s.bump F.SCDISC_DISCARDED (a.cnum / 2 ^ 14) 1).setReg .SCDISCLAST (a.cnum / 2 ^ 14) (2 ^ 16 + a.cnum) := by
  unfold State.applyArrival
  dsimp only
  rw [if_neg (by simp [ha, he])]
  rfl

/-- The state with an applied arrival taken from those on their way. -/
def State.landed (s : State) (id : Nat) : State := { s with arrivals := s.arrivals.filter fun b => decide (b.id ≠ id) }

/-- Its epoch's arrival: all but tiles and counters is as in `State.arrived`. -/
theorem State.counted_frame (he : a.anyEpoch = true ∨ a.epoch = (s.counter a.cnum).epoch) :
    { (s.applyArrival a).settleWho a with tiles := s.tiles, counters := (s.arrived a).counters } = s.arrived a :=
  (congrArg (fun u : State => { u with tiles := s.tiles, counters := (s.arrived a).counters })
    ((s.applyArrival a).settleWho_frame a)).trans (State.applyArrival_frame he)

theorem State.arrived_below (hsum : (s.counter a.cnum).count + a.inc < 2 ^ 32) : { s.arrived a with counters := s.counters } = s := by
  unfold State.arrived
  dsimp only
  rw [if_neg (by omega)]
  rfl

/-- With Hearth ready the event of an overflow is recorded, and nothing is lost (R46, R439). -/
theorem State.arrived_above (hsum : 2 ^ 32 ≤ (s.counter a.cnum).count + a.inc) (hh : s.hearthReady = true) :
    { s.arrived a with counters := s.counters } = { s with events := s.events ++
      [⟨.syncOverflow, a.unit, (leBytes 2 a.cnum ++ leBytes 1 a.fromDev ++ List.replicate 14 0).take 14, false⟩] } := by
  unfold State.arrived
  dsimp only
  rw [if_pos (by omega), State.log_ready (s := s.setCounter a.cnum ((s.counter a.cnum).plus a.inc)) hh]
  rfl

/-- What an applied arrival leaves of all but tiles, counters, registers and events. -/
theorem State.counted_keeps (he : a.anyEpoch = true ∨ a.epoch = (s.counter a.cnum).epoch) :
    let t := (s.applyArrival a).settleWho a
    t.arrivals = s.arrivals ∧ t.mem = s.mem ∧ t.chans = s.chans := by
  intro t
  have hfr := (congrArg (fun u : State => { u with regs := s.regs, events := s.events, counters := s.counters })
    (State.counted_frame he)).trans (s.arrived_frame a)
  exact ⟨(congrArg State.arrivals hfr :), (congrArg State.mem hfr :), (congrArg State.chans hfr :)⟩

/-- The counter of an applied arrival. -/
theorem State.onlyCounter_counted (he : a.anyEpoch = true ∨ a.epoch = (s.counter a.cnum).epoch) :
    let c := (s.counter a.cnum).plus a.inc
    ((s.applyArrival a).settleWho a).onlyCounter s a.cnum { c with
      waiters := if a.inc ≠ 0 ∧ c.target ≤ c.count then [] else c.waiters } := by
  intro c k
  have hcounters := (congrArg State.counters (State.settleWho_frame (s.applyArrival a) a) :)
  exact (congrArg (fun m => SMap.get Counter.reset m k) hcounters).trans (State.onlyCounter_applyArrival he k)

theorem State.counted_below (he : a.anyEpoch = true ∨ a.epoch = (s.counter a.cnum).epoch)
    (hsum : (s.counter a.cnum).count + a.inc < 2 ^ 32) : let t := (s.applyArrival a).settleWho a
    t.events = s.events ∧ t.regs = s.regs := by
  intro t
  have hfr := (congrArg (fun u : State => { u with counters := s.counters }) (State.counted_frame he)).trans (State.arrived_below hsum)
  exact ⟨(congrArg State.events hfr :), (congrArg State.regs hfr :)⟩

theorem State.counted_above (he : a.anyEpoch = true ∨ a.epoch = (s.counter a.cnum).epoch)
    (hsum : 2 ^ 32 ≤ (s.counter a.cnum).count + a.inc) (hh : s.hearthReady = true) : let t := (s.applyArrival a).settleWho a
    t.regs = s.regs ∧ t.events = s.events ++
      [⟨.syncOverflow, a.unit, (leBytes 2 a.cnum ++ leBytes 1 a.fromDev ++ List.replicate 14 0).take 14, false⟩] := by
  intro t
  have hfr := (congrArg (fun u : State => { u with counters := s.counters }) (State.counted_frame he)).trans
    (State.arrived_above hsum hh)
  exact ⟨(congrArg State.regs hfr :), (congrArg State.events hfr :)⟩

/-- A discarded arrival changes its base die's two registers. -/
theorem State.discarded_frame (hany : a.anyEpoch = false) (hne : a.epoch ≠ (s.counter a.cnum).epoch) :
    { s.applyArrival a with regs := s.regs } = s := by
  obtain ⟨r, hr⟩ : ∃ r, s.bump F.SCDISC_DISCARDED (a.cnum / 2 ^ 14) 1 = { s with regs := r } := ⟨_, rfl⟩
  rw [State.applyArrival_discarded hany hne, hr]
  rfl

theorem State.discarded_records (hany : a.anyEpoch = false) (hne : a.epoch ≠ (s.counter a.cnum).epoch) (hc : a.cnum < 2 ^ 16) :
    let t := s.applyArrival a
    let d := a.cnum / 2 ^ 14
    t.get F.SCDISC_DISCARDED d = min (2 ^ 32 - 1) (s.get F.SCDISC_DISCARDED d + 1) ∧ t.get F.SCDISCLAST_SEEN d = 1
      ∧ t.get F.SCDISCLAST_COUNTER d = a.cnum := by
  intro t d
  have hd : d < 2 ^ 24 := by omega
  have ht : t = (s.bump F.SCDISC_DISCARDED d 1).setReg .SCDISCLAST d (2 ^ 16 + a.cnum) := State.applyArrival_discarded hany hne
  have hlast : t.reg .SCDISCLAST d = 2 ^ 16 + a.cnum := by
    rw [ht, State.reg_setReg_same]
    exact Nat.mod_eq_of_lt (by show _ < 2 ^ 32; omega)
  refine ⟨?_, ?_, ?_⟩
  · rw [ht]
    exact (State.get_of_reg (State.reg_setReg_other _ _ hd hd (.inl (by decide)))).trans
      (State.get_bump_same s F.SCDISC_DISCARDED d 1 (by decide) (by decide))
  · unfold State.get
    rw [show F.SCDISCLAST_SEEN.reg = .SCDISCLAST from rfl, hlast]
    show bits (2 ^ 16 + a.cnum) 16 16 = 1
    unfold bits
    omega
  · unfold State.get
    rw [show F.SCDISCLAST_COUNTER.reg = .SCDISCLAST from rfl, hlast]
    show bits (2 ^ 16 + a.cnum) 15 0 = a.cnum
    unfold bits
    omega

end

/-- Settles O32: each command by what it comes to; an arrival by the counter, the record and the contexts it leaves. -/
theorem syncCounters : Obligations.SyncCounters := by
  unfold Obligations.SyncCounters
  refine ⟨fun h f g sd sc creg sel cnum s hs => ?_, fun id a s hs ha => ?_⟩
  · extract_lets x wa r target rg n e rs c q scope a y
    refine ⟨fun hr => ⟨fun hd hn => ⟨_, armExec_own hr hd hn, ?_⟩, fun hb => armExec_operand hr hb⟩,
      fun hr => ⟨fun hb => arrive_operand hr hb, fun hn hf => ?_⟩, fun hr => ⟨scread_far hr, fun hd => ?_⟩⟩
    · obtain ⟨hS, hPV, hon, hdata, hcounter⟩ :=
        State.setWaking_issued hs (State.runs_idle hr).1 r.cnum { c with count := 0, target := target }
      refine ⟨hS, hPV, hon, hdata, ?_⟩
      simp only [Nat.le_zero] at hcounter
      exact hcounter
    · have hscope : arriveScope (arriveOf s h g n) g.scope = scope := by
        show (if rg.dev.isSome = true then (2 : BitVec 2) else g.scope) = if rg.dev = none then g.scope else 2
        cases rg.dev <;> rfl
      have hrun : exec (.arrive h g) s
          = .next (((s.arriving h (q, scope, a)).flushArrives h.tile h.ctx).advance h.tile h.ctx) := by
        rw [← hscope]
        exact arrive_runs hr hn hf
      obtain ⟨hS, hPV, hon, hdata, hcounters, hseq, hkept⟩ := s.flush_arriving h (q, scope, a)
      refine ⟨_, hrun, hS, hPV, hon, hdata, hcounters, hseq, fun hp => ?_, fun hp => ⟨fun hd => ?_, fun d hd => ?_⟩,
        fun hx hd hp => ⟨?_, State.arrivals_flush_alone hx hp hd⟩, fun hx hp => ⟨?_, ?_, ?_⟩⟩
      · rw [hkept]
        exact List.mem_filter.2 ⟨List.mem_append_right _ (List.mem_singleton.2 rfl), by rw [hp]; rfl⟩
      · exact State.flushArrives_home (State.ready_arriving (e := (q, scope, a)) hp) hd rfl
      · exact State.flushArrives_away (State.ready_arriving (e := (q, scope, a)) hp) hd
      · rw [hkept, hx, List.nil_append, List.filter_cons, hp]
        rfl
      · exact (State.flush_waiting (e := (q, scope, a)) hx hp).1
      · exact (State.flush_waiting (e := (q, scope, a)) hx hp).2
      · rw [hkept, hx, List.nil_append, List.filter_cons, hp]
        rfl
    · obtain ⟨honly, hPV, hon⟩ := State.onlyS_of_ctx (s := s) (h := h) (State.ctx_setCtx (s.pay h.tile 16) ..)
      exact ⟨_, scread_own hr hd, hPV, hon, s.elsewhere_pay ..,
        (congrArg (fun k => State.onlyS _ s h sd.toNat (BitVec.ofNat 64 k)) (y.word_eq sel.toNat)).mp honly⟩
  · extract_lets c sum d
    refine ⟨fun he => ?_, fun hany hne hc => ?_⟩
    · obtain ⟨harr, hmem, hchans⟩ := State.counted_keeps (s := s.landed id) he
      refine ⟨_, arrivalApplied_eq ha, harr, hmem, hchans, State.onlyCounter_counted (s := s.landed id) he,
        State.counted_below (s := s.landed id) he, State.counted_above (s := s.landed id) he,
        fun h0 hm u k pd timed woken hx hh => ?_⟩
      obtain ⟨hh', hw⟩ := State.stall_applyArrival (s := s.landed id) hs he h0 (Counter.reached_iff.2 hm) hx hh
      exact (congrArg Ctx.stall (State.ctx_settleWho hh')).trans hw
    · have hfr := (congrArg (fun u : State => { u with regs := s.regs, tiles := s.tiles })
        (((s.landed id).applyArrival a).settleWho_frame a)).trans
          (congrArg (fun u : State => { u with tiles := s.tiles }) (State.discarded_frame (s := s.landed id) hany hne))
      have hregs := (congrArg State.regs (((s.landed id).applyArrival a).settleWho_frame a) :)
      have htiles := (congrArg State.tiles (State.discarded_frame (s := s.landed id) hany hne) :)
      obtain ⟨hcount, hseen, hlast⟩ := State.discarded_records (s := s.landed id) hany hne hc
      have hget : ∀ f : Fld, (((s.landed id).applyArrival a).settleWho a).get f d = ((s.landed id).applyArrival a).get f d :=
        fun f => by unfold State.get State.reg; rw [hregs]
      refine ⟨_, arrivalApplied_eq ha, (congrArg State.arrivals hfr :), (congrArg State.counters hfr :), (congrArg State.mem hfr :),
        (congrArg State.events hfr :), fun hw => ?_, (hget _).trans hcount, (hget _).trans hseen, (hget _).trans hlast⟩
      have hfree : ∀ w, a.who = some w → (((s.landed id).applyArrival a).ctx w.1 w.2.1).held = none := fun w h => by
        unfold State.ctx State.tile
        rw [htiles]
        exact hw w h
      exact (congrArg State.tiles (State.settleWho_free hfree)).trans htiles

end Sys2Proof.Machine

/-! Completion and faults of unit instructions (R39, R40, R72, R85, R86). -/

namespace Sys2Proof.Machine

/-! ## Contexts that differ in their registers only -/

/-- Context `y` is `x` but for its scalar, vector and predicate registers. -/
def Ctx.sameFlow (y x : Ctx) : Prop := { y with s := x.s, v := x.v, p := x.p } = x

section
variable {x y z : Ctx}

theorem Ctx.sameFlow_trans (h : z.sameFlow y) (h' : y.sameFlow x) : z.sameFlow x := by
  unfold Ctx.sameFlow at *
  exact (congrArg (fun u : Ctx => { u with s := x.s, v := x.v, p := x.p }) h).trans h'

theorem Ctx.wrLane_sameFlow (x : Ctx) (r k : Nat) (v : Lane) : (x.wrLane r k v).sameFlow x := rfl

theorem Ctx.wrS_sameFlow (x : Ctx) (i : Nat) (v : Word) : (x.wrS i v).sameFlow x := by
  unfold Ctx.wrS
  split <;> rfl

theorem Ctx.wrP_sameFlow (x : Ctx) (i : Nat) (v : Word) : (x.wrP i v).sameFlow x := by
  unfold Ctx.wrP
  split <;> rfl

theorem Ctx.wrVec_sameFlow (x : Ctx) (r v : Nat) : (x.wrVec r v).sameFlow x :=
  foldl_prop (P := fun u => Ctx.sameFlow u x) (fun u _ hu => Ctx.sameFlow_trans (u.wrLane_sameFlow ..) hu) rfl

theorem Ctx.wrName_sameFlow (x : Ctx) (r v : Nat) : (x.wrName r v).sameFlow x := by
  unfold Ctx.wrName
  split
  · exact x.wrS_sameFlow ..
  · split
    · exact x.wrVec_sameFlow ..
    · exact x.wrP_sameFlow ..

end

/-! ## What a discard leaves of a tile (R85) -/

theorem Tile.ctx_setToken (t : Tile) (k : Nat) (v : BitVec 8) (c : Ctxt) : (t.setToken k v).ctx c = t.ctx c := by cases c <;> rfl

theorem Tile.ctx_restore (t : Tile) (w : Nat) (b : Bool) (c : Ctxt) : (t.restore w b).ctx c = t.ctx c := by
  unfold Tile.restore
  split
  · split
    · exact t.ctx_setToken ..
    · rfl
  · rfl

theorem Tile.undo_sameFlow (t : Tile) (o : UOp) (c : Ctxt) : ((t.undo o).ctx c).sameFlow (t.ctx c) := by
  unfold Tile.undo
  refine foldl_prop (P := fun u : Tile => (u.ctx c).sameFlow (t.ctx c)) (fun u e hu => ?_) (by rw [Tile.ctx_restore]; rfl)
  rw [Tile.ctx_setCtx]
  split
  · subst_vars
    exact Ctx.sameFlow_trans (Ctx.wrName_sameFlow ..) hu
  · exact hu

theorem Tile.discard_sameFlow (t : Tile) (c d : Ctxt) (u : TUnit) (n : Nat) : ((t.discard c u n).ctx d).sameFlow (t.ctx d) := by
  unfold Tile.discard
  dsimp only
  have h := foldl_prop (P := fun y : Tile => (y.ctx d).sameFlow (t.ctx d))
    (l := t.ops.filter fun o => decide (o.ctx = c) && decide (o.unit = u) && decide (n ≤ o.seq))
    (fun y o hy => Ctx.sameFlow_trans (y.undo_sameFlow o d) hy) rfl
  cases d <;> exact h

theorem Tile.mem_ops_discard {t : Tile} {c : Ctxt} {u : TUnit} {n : Nat} {p : UOp} :
    p ∈ (t.discard c u n).ops ↔ p ∈ t.ops ∧ ¬ (p.ctx = c ∧ p.unit = u ∧ n ≤ p.seq) := by
  show p ∈ t.ops.filter _ ↔ _
  rw [List.mem_filter]
  simp only [Bool.not_eq_true', Bool.and_eq_false_iff, decide_eq_false_iff_not, ← not_and_or, and_assoc]

theorem Tile.setCtx_keeps (y : Tile) (c : Ctxt) (x : Ctx) :
    (y.setCtx c x).ops = y.ops ∧ (∀ k, (y.setCtx c x).token k = y.token k) ∧ ∀ b, (y.setCtx c x).rdByte b = y.rdByte b := by
  cases c <;> exact ⟨rfl, fun _ => rfl, fun _ => rfl⟩

/-! ## A context that settles and then sends what it kept -/

/-- A held fault is looked at, and arrives that no longer wait are sent: how every completion ends. -/
def State.settleFlush (s : State) (v : Nat) (c : Ctxt) : State := (s.settle v c).flushArrives v c

section
variable {s : State} {v : Nat} {c : Ctxt}

theorem Ctx.taken_regs (x : Ctx) (f : FaultRec) : (x.taken f).s = x.s ∧ (x.taken f).v = x.v ∧ (x.taken f).p = x.p
    ∧ (x.taken f).arrives = x.arrives := by
  unfold Ctx.taken
  split <;> exact ⟨rfl, rfl, rfl, rfl⟩

theorem Ctx.delivers_iff {x : Ctx} {f : FaultRec} :
    x.delivers f = true ↔ x.fvec ≠ 0 ∧ bit x.fmask.toNat f.cause.toNat = true ∧ x.inh = false := by
  unfold Ctx.delivers
  simp [and_assoc]

/-- A delivered fault: its registers, and the context at its handler (R86). -/
theorem Ctx.taken_delivered {x : Ctx} {f : FaultRec} (h : x.delivers f = true) : let z := x.taken f
    z.pc = x.fvec ∧ z.fpc = f.pc ∧ z.fcause = BitVec.ofNat 16 (b2n f.unit * 256 + f.cause.toNat) ∧ z.finfo = f.info ∧ z.fresume = x.pc
      ∧ z.inh = true ∧ z.run = .running := by
  unfold Ctx.taken
  rw [if_pos h]
  exact ⟨rfl, rfl, rfl, rfl, rfl, rfl, rfl⟩

/-- One that is not ends the program (R72). -/
theorem Ctx.taken_ended {x : Ctx} {f : FaultRec} (h : x.delivers f = false) :
    (x.taken f).run = .stopping ∧ (x.taken f).endFault = some { f with inh := x.inh } := by
  unfold Ctx.taken
  rw [if_neg (by rw [h]; exact Bool.false_ne_true)]
  exact ⟨rfl, rfl⟩

/-- Tile `v` as it was but for context `c`, whose registers are as they were. -/
theorem State.tile_settle (s : State) (v : Nat) (c : Ctxt) : ∃ y : Ctx, (s.settle v c).tile v = (s.tile v).setCtx c y
    ∧ y.s = (s.ctx v c).s ∧ y.arrives = (s.ctx v c).arrives := by
  obtain h | ⟨f, -, h⟩ := s.settle_cases v c
  · refine ⟨s.ctx v c, ?_, rfl, rfl⟩
    rw [h]
    unfold State.ctx
    cases c <;> rfl
  · obtain ⟨hs, -, -, ha⟩ := (s.ctx v c).taken_regs f
    refine ⟨(s.ctx v c).taken f, ?_, hs, ha⟩
    rw [h]
    unfold State.setCtx
    rw [State.tile_setTile, if_pos rfl]

theorem State.tile_flushArrives (s : State) (v : Nat) (c : Ctxt) (u : Nat) : (s.flushArrives v c).tile u
    = if u = v then (s.tile v).setCtx c { s.ctx v c with arrives := s.waitingArrives v c } else s.tile u := by
  have ht := State.sends_tiles (s.flushArrives_sends v c)
  refine (congrArg (fun m => SMap.get Tile.reset m u) ht).trans ?_
  show (s.setCtx v c _).tile u = _
  unfold State.setCtx
  rw [State.tile_setTile]

theorem State.ctx_flushArrives (s : State) (v : Nat) (c : Ctxt) :
    (s.flushArrives v c).ctx v c = { s.ctx v c with arrives := s.waitingArrives v c } := by
  rw [State.sends_ctx (s.flushArrives_sends v c), State.ctx_setCtx]

/-- What a context's settling and sending leaves: all but what is on its way and the context. -/
theorem State.settleFlush_frame (s : State) (v : Nat) (c : Ctxt) : { s.settleFlush v c with
    tiles := s.tiles, fab := s.fab, free := s.free, rops := s.rops, arrivals := s.arrivals, nextId := s.nextId } = s := by
  have h := State.sends_frame ((s.settle v c).flushArrives_sends v c)
  exact (congrArg (fun u : State => { u with
    tiles := s.tiles, fab := s.fab, free := s.free, rops := s.rops, arrivals := s.arrivals, nextId := s.nextId }) h).trans
    (congrArg (fun u : State => { u with
      fab := s.fab, free := s.free, rops := s.rops, arrivals := s.arrivals, nextId := s.nextId }) (s.settle_frame v c))

theorem State.tile_settleFlush (s : State) (v : Nat) (c : Ctxt) :
    ∃ y : Ctx, (s.settleFlush v c).tile v = (s.tile v).setCtx c y ∧ y.s = (s.ctx v c).s := by
  obtain ⟨y, ht, hs, -⟩ := s.tile_settle v c
  refine ⟨{ y with arrives := (s.settle v c).waitingArrives v c }, ?_, hs⟩
  unfold State.settleFlush
  rw [State.tile_flushArrives, if_pos rfl]
  unfold State.ctx
  rw [ht]
  cases c <;> rfl

theorem State.tile_settleFlush_other {u : Nat} (hu : u ≠ v) : (s.settleFlush v c).tile u = s.tile u := by
  unfold State.settleFlush
  rw [State.tile_flushArrives, if_neg hu, State.tile_settle_other hu]

/-- Nothing kept, nothing sent: only the tile may change. -/
theorem State.settleFlush_keeps (hx : (s.ctx v c).arrives = []) : { s.settleFlush v c with tiles := s.tiles } = s := by
  obtain ⟨y, ht, -, ha⟩ := s.tile_settle v c
  have hy : ((s.settle v c).ctx v c).arrives = [] := by
    unfold State.ctx
    rw [ht, Tile.ctx_setCtx, if_pos rfl, ha, hx]
  unfold State.settleFlush
  rw [State.flushArrives_none hy]
  exact s.settle_frame v c

end

/-! ## Completion -/

/-- A tile that an instruction leaves: its number is gone, and its token is signalled unless a drain cancelled it (R39, R153). -/
def Tile.completed (y : Tile) (o : UOp) : Tile :=
  if o.cancelled then y.dropOp o.seq else (y.dropOp o.seq).signal o.word.toNat

section
variable {y : Tile} {o : UOp}

theorem Tile.signal_keeps (y : Tile) (w : Nat) : { y.signal w with tokens := y.tokens } = y := by
  unfold Tile.signal
  split <;> rfl

theorem Tile.completed_keeps (y : Tile) (o : UOp) : { y.completed o with tokens := y.tokens } = y.dropOp o.seq := by
  unfold Tile.completed
  split
  · rfl
  · exact (y.dropOp o.seq).signal_keeps o.word.toNat

/-- What stands outside its tokens is as in a tile that only lost the instruction. -/
theorem Tile.completed_parts (y : Tile) (o : UOp) : (y.completed o).ops = y.ops.filter (fun p => decide (p.seq ≠ o.seq))
    ∧ (∀ b, (y.completed o).rdByte b = y.rdByte b) ∧ ∀ c, (y.completed o).ctx c = y.ctx c := by
  have hk := y.completed_keeps o
  refine ⟨(congrArg Tile.ops hk :), fun b => (congrArg (fun t : Tile => t.rdByte b) hk :), fun c => ?_⟩
  cases c
  · exact (congrArg Tile.ctxF hk :)
  · exact (congrArg Tile.ctxL hk :)

theorem Tile.token_signal (y : Tile) (w k : Nat) : (y.signal w).token k = if sigTok w = some k then y.token k + 1 else y.token k := by
  unfold Tile.signal
  split
  · rename_i j hj
    rw [hj, Tile.token_setToken]
    by_cases hk : k = j
    · rw [if_pos hk, if_pos (by rw [hk]), hk]
    · rw [if_neg hk, if_neg (by simpa using Ne.symm hk)]
  · rename_i hj
    rw [hj, if_neg nofun]

theorem Tile.token_completed (y : Tile) (o : UOp) (k : Nat) : (y.completed o).token k
    = if o.cancelled = false ∧ sigTok o.word.toNat = some k then y.token k + 1 else y.token k := by
  unfold Tile.completed
  cases o.cancelled with
  | true => rfl
  | false =>
    simp only [true_and]
    exact (y.dropOp o.seq).token_signal o.word.toNat k

end

section
variable {s : State} {v : Nat} {o : UOp}

/-- An instruction that overflows no token, or that a drain cancelled, leaves its unit (R39). -/
theorem State.completeOp_ok (hv : o.cancelled = true ∨ (s.tile v).overflows o.word.toNat = false) :
    s.completeOp v o = (s.setTile v ((s.tile v).completed o)).settleFlush v o.ctx := by
  unfold State.completeOp
  exact if_neg (by obtain h | h := hv <;> rw [h] <;> simp)

theorem State.completeOp_overflows (hc : o.cancelled = false) (hv : (s.tile v).overflows o.word.toNat = true) :
    s.completeOp v o = s.unitFaultAt v o.ctx o.unit o.seq o.pc (cTOKEN_OVERFLOW, unstated) := by
  unfold State.completeOp
  exact if_pos (by rw [hc, hv]; rfl)

/-- What a completion leaves (R39, R72). -/
theorem State.completed_spec (s : State) (v : Nat) (o : UOp) : let t := (s.setTile v ((s.tile v).completed o)).settleFlush v o.ctx
    (t.tile v).ops = (s.tile v).ops.filter (fun p => decide (p.seq ≠ o.seq))
      ∧ (∀ k, (t.tile v).token k = if o.cancelled = false ∧ sigTok o.word.toNat = some k then (s.tile v).token k + 1 else (s.tile v).token k)
      ∧ (∀ b, (t.tile v).rdByte b = (s.tile v).rdByte b) ∧ (∀ c j, (t.ctx v c).rdS j = (s.ctx v c).rdS j)
      ∧ ∀ u, u ≠ v → t.tile u = s.tile u := by
  intro t
  obtain ⟨x, ht, hx⟩ := (s.setTile v ((s.tile v).completed o)).tile_settleFlush v o.ctx
  obtain ⟨hops, hb, hc⟩ := (s.tile v).completed_parts o
  unfold State.ctx at hx
  rw [State.tile_setTile, if_pos rfl] at ht hx
  obtain ⟨hops', htok', hb'⟩ := ((s.tile v).completed o).setCtx_keeps o.ctx x
  refine ⟨by rw [ht, hops', hops], fun k => by rw [ht, htok', Tile.token_completed], fun b => by rw [ht, hb', hb], fun c j => ?_,
    fun u hu => ?_⟩
  · unfold State.ctx
    rw [ht, Tile.ctx_setCtx]
    split
    · subst_vars
      unfold Ctx.rdS
      rw [hx, hc]
    · rw [hc]
  · rw [State.tile_settleFlush_other hu, State.tile_setTile, if_neg hu]

/-- With no arrive kept, the tile is all that a completion may change. -/
theorem State.completed_alone (hx : (s.ctx v o.ctx).arrives = []) :
    { (s.setTile v ((s.tile v).completed o)).settleFlush v o.ctx with tiles := s.tiles } = s := by
  have hy : ((s.setTile v ((s.tile v).completed o)).ctx v o.ctx).arrives = [] := by
    obtain ⟨-, -, hc⟩ := (s.tile v).completed_parts o
    unfold State.ctx
    rw [State.tile_setTile, if_pos rfl, hc]
    exact hx
  exact congrArg (fun u : State => { u with tiles := s.tiles }) (State.settleFlush_keeps hy)

end

/-! ## A fault in a unit (R85, R86) -/

/-- The fault of instruction `seq` as its context holds it. -/
def unitRec (seq : Nat) (pc : Addr48) (f : FaultAt) : FaultRec :=
  { seq := seq, pc := pc, cause := BitVec.ofNat 8 f.1, info := BitVec.ofNat 64 f.2, unit := true, inh := false }

/-- The state with a unit's instructions from the faulting one on discarded, and its fault held (R85). -/
def State.holding (s : State) (v : Nat) (c : Ctxt) (u : TUnit) (r : FaultRec) : State :=
  let d := s.setTile v ((s.tile v).discard c u r.seq)
  d.setCtx v c { d.ctx v c with held := some r }

section
variable {s : State} {v : Nat} {c : Ctxt} {u : TUnit} {r : FaultRec}

theorem State.finfo_given {n : Nat} (hn : n < 2 ^ 64) : s.finfo n = (BitVec.ofNat 64 n, s) := if_pos hn

theorem State.tile_holding (s : State) (v : Nat) (c : Ctxt) (u : TUnit) (r : FaultRec) : ∃ y : Ctx, y.sameFlow (s.ctx v c)
    ∧ (s.holding v c u r).tile v = ((s.tile v).discard c u r.seq).setCtx c { y with held := some r } := by
  refine ⟨((s.tile v).discard c u r.seq).ctx c, (s.tile v).discard_sameFlow c c u r.seq, ?_⟩
  unfold State.holding State.setCtx State.ctx
  rw [State.tile_setTile, if_pos rfl, State.tile_setTile, if_pos rfl]

theorem State.ctx_holding (s : State) (v : Nat) (c : Ctxt) (u : TUnit) (r : FaultRec) : ∃ y : Ctx, y.sameFlow (s.ctx v c)
    ∧ (s.holding v c u r).ctx v c = { y with held := some r } := by
  obtain ⟨y, hy, ht⟩ := s.tile_holding v c u r
  refine ⟨y, hy, ?_⟩
  unfold State.ctx
  rw [ht, Tile.ctx_setCtx, if_pos rfl]

theorem State.ops_holding (s : State) (v : Nat) (c : Ctxt) (u : TUnit) (r : FaultRec) :
    ((s.holding v c u r).tile v).ops = ((s.tile v).discard c u r.seq).ops := by
  obtain ⟨y, -, ht⟩ := s.tile_holding v c u r
  rw [ht]
  exact (Tile.setCtx_keeps ..).1

/-- A unit's fault, with none held yet, is held and then looked at (R85, R86). -/
theorem State.unitFaultAt_first {seq : Nat} {pc : Addr48} {f : FaultAt} (hi : f.2 < 2 ^ 64) (hh : (s.ctx v c).held = none)
    (he : (s.ctx v c).endFault = none) : s.unitFaultAt v c u seq pc f = (s.holding v c u (unitRec seq pc f)).settleFlush v c := by
  have hx : ((s.setTile v ((s.tile v).discard c u seq)).ctx v c).sameFlow (s.ctx v c) := by
    unfold State.ctx
    rw [State.tile_setTile, if_pos rfl]
    exact (s.tile v).discard_sameFlow c c u seq
  have hh' := ((congrArg Ctx.held hx :)).trans hh
  have he' := ((congrArg Ctx.endFault hx :)).trans he
  unfold State.unitFaultAt
  rw [State.finfo_given hi]
  refine congrArg (fun z : State => z.settleFlush v c) (if_neg ?_)
  rw [hh', he']
  exact Bool.false_ne_true

/-- The discard does not touch what earlier instructions have outstanding. -/
theorem State.before_holding : (s.holding v c u r).before v c r.seq = s.before v c r.seq := by
  have hops : ((s.holding v c u r).tile v).ops.all (fun o => decide (o.ctx ≠ c) || decide (r.seq ≤ o.seq))
      = (s.tile v).ops.all (fun o => decide (o.ctx ≠ c) || decide (r.seq ≤ o.seq)) := by
    rw [State.ops_holding, Bool.eq_iff_iff, List.all_eq_true, List.all_eq_true]
    refine ⟨fun h p hp => ?_, fun h p hp => h p (Tile.mem_ops_discard.1 hp).1⟩
    by_cases hg : p.ctx = c ∧ p.unit = u ∧ r.seq ≤ p.seq
    · obtain ⟨-, -, hseq⟩ := hg
      rw [decide_eq_true hseq, Bool.or_true]
    · exact h p (Tile.mem_ops_discard.2 ⟨hp, hg⟩)
  have harr : ((s.holding v c u r).ctx v c).arrives = (s.ctx v c).arrives := by
    obtain ⟨y, hy, hx⟩ := s.ctx_holding v c u r
    rw [hx]
    exact (congrArg Ctx.arrives hy :)
  unfold State.before State.arrivesDone
  rw [hops, harr]
  rfl

/-- With nothing earlier outstanding the fault is taken. -/
theorem State.ctx_faulted_taken (hb : s.before v c r.seq = true) : ∃ (y : Ctx) (l : List (Nat × BitVec 2 × Arrival)), y.sameFlow (s.ctx v c)
    ∧ ((s.holding v c u r).settleFlush v c).ctx v c = { ({ y with held := some r } : Ctx).taken r with arrives := l } := by
  obtain ⟨y, hy, hx⟩ := s.ctx_holding v c u r
  have hheld : ((s.holding v c u r).ctx v c).held = some r := by rw [hx]
  refine ⟨y, ((s.holding v c u r).settle v c).waitingArrives v c, hy, ?_⟩
  unfold State.settleFlush
  rw [State.ctx_flushArrives, State.settle_held hheld, State.before_holding, if_pos hb, State.ctx_setCtx, hx]

/-- Else it stays held. -/
theorem State.held_faulted (hb : s.before v c r.seq = false) :
    (((s.holding v c u r).settleFlush v c).ctx v c).held = some r := by
  obtain ⟨y, -, hx⟩ := s.ctx_holding v c u r
  have hheld : ((s.holding v c u r).ctx v c).held = some r := by rw [hx]
  unfold State.settleFlush
  rw [State.ctx_flushArrives, State.settle_held hheld, State.before_holding, if_neg (by rw [hb]; exact Bool.false_ne_true)]
  exact hheld

theorem State.ops_settleFlush (s : State) (v : Nat) (c : Ctxt) : ((s.settleFlush v c).tile v).ops = (s.tile v).ops := by
  obtain ⟨x, ht, -⟩ := s.tile_settleFlush v c
  rw [ht]
  exact (Tile.setCtx_keeps ..).1

/-- What a fault in a unit leaves (R85, R86). -/
theorem State.faulted_spec (s : State) (v : Nat) (c : Ctxt) (u : TUnit) (r : FaultRec) : let t := (s.holding v c u r).settleFlush v c
    t.mem = s.mem ∧ t.regs = s.regs ∧ t.counters = s.counters
      ∧ ∀ p, p ∈ (t.tile v).ops ↔ p ∈ (s.tile v).ops ∧ ¬ (p.ctx = c ∧ p.unit = u ∧ r.seq ≤ p.seq) := by
  intro t
  have hf := (s.holding v c u r).settleFlush_frame v c
  refine ⟨(congrArg State.mem hf :), (congrArg State.regs hf :), (congrArg State.counters hf :), fun p => ?_⟩
  rw [State.ops_settleFlush, State.ops_holding]
  exact Tile.mem_ops_discard

end

/-! ## The obligation -/

theorem Tile.seq_of_op {y : Tile} {n : Nat} {o : UOp} (h : y.op n = some o) : o.seq = n := by
  simpa using List.find?_some h

section
variable {s : State} {tile seq : Nat} {o : UOp} (ht : tile < Config.tiles) (ho : (s.tile tile).op seq = some o)
include ht ho

theorem unitInstructionComplete_eq (hu : o.unit = .matrix ∨ o.unit = .vector ∨ o.unit = .sfu ∨ o.unit = .narrow ∧ 4 ≤ wOp o.word.toNat)
    (hs : o.started = true) (hd : o.due = []) : exec (.unitInstructionComplete tile seq) s = .next (s.completeOp tile o) := by
  refine (if_pos ht).trans (congrArg Host.Outcome.next ?_)
  rw [ho]
  dsimp only
  rw [hs, hd]
  obtain h | h | h | ⟨h, hw⟩ := hu
  · rw [h]; rfl
  · rw [h]; rfl
  · rw [h]; rfl
  · rw [h]; simp [hw]

theorem unitInstructionStart_matrix {ev : UnitEvent} (hu : o.unit = .matrix) (hd : s.draining = false) (ha : s.active = true)
    (hf : s.tileFenced tile = false) : exec (.unitInstructionStart tile seq ev) s = .next (s.startM tile o ev) := by
  refine (if_pos ht).trans (congrArg Host.Outcome.next ?_)
  rw [ho]
  dsimp only
  rw [hd, ha, hf, hu]
  rfl

theorem unitFault_eq {cause : BitVec 8} {info : Word} (h1 : cDET_ERROR ≤ cause.toNat) (h2 : cause.toNat ≤ cUNIT_FENCED)
    (hs : o.started = true ∨ o.unit = .narrow ∧ cause.toNat = cRACK_RETRY_LIMIT ∧ (s.tile tile).startable o = true) :
    exec (.unitFault tile seq cause info) s = .next (s.unitFaultAt tile o.ctx o.unit o.seq o.pc (cause.toNat, info.toNat)) := by
  have hcause : unitCause cause.toNat = true := by
    unfold unitCause
    rw [decide_eq_true h1, decide_eq_true h2]
    rfl
  refine (if_pos ht).trans (congrArg Host.Outcome.next ?_)
  rw [hcause, ho, if_neg (by simp)]
  refine if_pos ?_
  obtain h | ⟨hn, hc, hst⟩ := hs
  · rw [h]; rfl
  · rw [hn, hc, hst]
    exact Bool.or_true _

end

theorem State.startM_fenced {s : State} {v : Nat} {o : UOp} {ev : UnitEvent} (hs : (s.tile v).startable o = true)
    (hf : s.matrixFenced v = true) : s.startM v o ev = s.unitFaultAt v o.ctx .matrix o.seq o.pc (cUNIT_FENCED, 0) := by
  unfold State.startM
  dsimp only
  rw [hs, hf]
  rfl

/-- Settles O24: a completion through `State.completed_spec`; a unit's fault is held and, with nothing earlier outstanding, taken. -/
theorem unitCompletion : Obligations.UnitCompletion := by
  unfold Obligations.UnitCompletion
  refine ⟨fun tile seq o s => ?_, fun tile seq cause info o s => ?_⟩
  · intro y ht ho
    have hseq := Tile.seq_of_op ho
    refine ⟨fun hu hs hd hv => ?_, fun hu hs hd hc hv => ?_, fun ev hu hs hd ha hf hm => ?_⟩
    · obtain ⟨hops, htok, hb, hS, hother⟩ := s.completed_spec tile o
      have hfr := (s.setTile tile ((s.tile tile).completed o)).settleFlush_frame tile o.ctx
      rw [hseq] at hops
      exact ⟨_, (unitInstructionComplete_eq ht ho hu hs hd).trans (congrArg Host.Outcome.next (State.completeOp_ok hv)), hops, htok, hb,
        (congrArg State.regs hfr :), (congrArg State.mem hfr :), hS, hother⟩
    · rw [unitInstructionComplete_eq ht ho hu hs hd, State.completeOp_overflows hc hv]
    · rw [unitInstructionStart_matrix ht ho hu hd ha hf, State.startM_fenced hs hm]
  · intro y x ht ho h1 h2 hs hh he
    have hseq := Tile.seq_of_op ho
    have hcause : (unitRec seq o.pc (cause.toNat, info.toNat)).cause = cause := BitVec.ofNat_toNat ..
    have hinfo : (unitRec seq o.pc (cause.toNat, info.toNat)).info = info := BitVec.ofNat_toNat ..
    obtain ⟨hmem, hregs, hcounters, hops⟩ := s.faulted_spec tile o.ctx o.unit (unitRec seq o.pc (cause.toNat, info.toNat))
    refine ⟨_, ?_, hmem, hregs, hcounters, fun p hp => ((hops p).1 hp).2, fun p hp hn => (hops p).2 ⟨hp, hn⟩, fun hb => ?_, fun hb => ?_⟩
    · rw [unitFault_eq ht ho h1 h2 hs, State.unitFaultAt_first info.isLt hh he, hseq]
    · obtain ⟨z, l, hz, hx⟩ := State.ctx_faulted_taken (u := o.unit) (r := unitRec seq o.pc (cause.toNat, info.toNat)) hb
      have hfvec : z.fvec = x.fvec := (congrArg Ctx.fvec hz :)
      have hfmask : z.fmask = x.fmask := (congrArg Ctx.fmask hz :)
      have hinh : z.inh = x.inh := (congrArg Ctx.inh hz :)
      have hiff : z.fvec ≠ 0 ∧ bit z.fmask.toNat (unitRec seq o.pc (cause.toNat, info.toNat)).cause.toNat = true ∧ z.inh = false
          ↔ x.fvec ≠ 0 ∧ bit x.fmask.toNat cause.toNat = true ∧ x.inh = false := by rw [hfvec, hfmask, hinh, hcause]
      have hd := (Ctx.delivers_iff (x := { z with held := some (unitRec seq o.pc (cause.toNat, info.toNat)) })
        (f := unitRec seq o.pc (cause.toNat, info.toNat))).trans hiff
      have hcode : b2n true * 256 + (unitRec seq o.pc (cause.toNat, info.toNat)).cause.toNat = 256 + cause.toNat := by
        rw [hcause]
        exact congrArg (· + cause.toNat) (Nat.one_mul 256)
      rw [hx]
      refine ⟨fun h => ?_, fun h => ?_⟩
      · obtain ⟨hpc, hfpc, hfc, hfi, hres, hinh', hrun⟩ := Ctx.taken_delivered (hd.2 h)
        exact ⟨hpc.trans hfvec, hfpc, hfc.trans (congrArg (BitVec.ofNat 16) hcode), hfi.trans hinfo,
          hres.trans (congrArg Ctx.pc hz :), hinh', hrun⟩
      · obtain ⟨hrun, hend⟩ := Ctx.taken_ended (Bool.eq_false_iff.2 (mt hd.1 h))
        exact ⟨hrun, _, hend, rfl, hcause, hinfo, rfl, hinh⟩
    · exact ⟨_, State.held_faulted (r := unitRec seq o.pc (cause.toNat, info.toNat)) hb, rfl, rfl, hcause, hinfo, rfl⟩

end Sys2Proof.Machine

/-! Narrow accesses that start and complete (R206, R349 to R353, Table 13-1). -/

namespace Sys2Proof.Machine

/-! ## The lanes of an atomic (Table 13-1) -/

theorem leValue_lt (bs : List Byte) : leValue bs < 2 ^ (8 * bs.length) := by
  induction bs with
  | nil => exact Nat.one_pos
  | cons b bs ih =>
    have hb := b.isLt
    rw [leValue, List.length_cons, Nat.mul_succ, Nat.pow_add, Nat.mul_comm (2 ^ _)]
    calc b.toNat + 256 * leValue bs < 256 * (leValue bs + 1) := by omega
      _ ≤ 2 ^ 8 * 2 ^ (8 * bs.length) := Nat.mul_le_mul_left _ ih

theorem lanesOf_cons {w : Nat} (hw : 0 < w) {b : List Byte} (hb : b.length = w) (bs : List Byte) :
    lanesOf w (b ++ bs) = leValue b :: lanesOf w bs := by
  unfold lanesOf
  rw [List.length_append, hb, Nat.add_comm, Nat.add_div_right _ hw, List.range_succ_eq_map, List.map_cons, List.map_map]
  refine List.cons_eq_cons.2 ⟨?_, List.map_congr_left fun i _ => ?_⟩
  · rw [Nat.mul_zero, List.drop_zero, ← hb, List.take_left]
  · show leValue (((b ++ bs).drop (w * (i + 1))).take w) = _
    rw [Nat.mul_succ, Nat.add_comm, ← List.drop_drop, ← hb, List.drop_left]

/-- Lanes written one after another are read back, each modulo its width. -/
theorem lanesOf_flatMap {w : Nat} (hw : 0 < w) (vs : List Nat) : lanesOf w (vs.flatMap (leBytes w)) = vs.map (· % 2 ^ (8 * w)) := by
  induction vs with
  | nil => simp [lanesOf]
  | cons v vs ih => rw [List.flatMap_cons, lanesOf_cons hw (leBytes_length w v), ih, leValue_leBytes, List.map_cons]

theorem lanesOf_length (w : Nat) (bs : List Byte) : (lanesOf w bs).length = bs.length / w := by
  unfold lanesOf
  rw [List.length_map, List.length_range]

theorem lanesOf_lt {w v : Nat} {bs : List Byte} (hv : v ∈ lanesOf w bs) : v < 2 ^ (8 * w) := by
  obtain ⟨i, -, rfl⟩ := List.mem_map.1 hv
  refine Nat.lt_of_lt_of_le (leValue_lt _) (Nat.pow_le_pow_right (by omega) ?_)
  rw [List.length_take]
  omega

theorem atomLane_pos (atype : Nat) : 0 < atomLane atype := by
  unfold atomLane
  split <;> omega

theorem atomLaneOp_lt {aop w old x : Nat} (ho : old < 2 ^ (8 * w)) (hx : x < 2 ^ (8 * w)) : atomLaneOp aop w old x < 2 ^ (8 * w) := by
  unfold atomLaneOp
  split
  · exact Nat.mod_lt _ (Nat.two_pow_pos _)
  · split <;> assumption
  · split <;> assumption

section
variable {aop atype : Nat} {old x : List Byte}

theorem atomNew_lanes (ha : aop ≤ 2) : atomNew aop atype old x
    = (List.zipWith (atomLaneOp aop (atomLane atype)) (lanesOf (atomLane atype) old) (lanesOf (atomLane atype) x)).flatMap
        (leBytes (atomLane atype)) := by
  unfold atomNew
  split
  · omega
  · omega
  · rfl

theorem atomNew_length (ha : aop ≤ 2) (hx : x.length = old.length) (hd : old.length % atomLane atype = 0) :
    (atomNew aop atype old x).length = old.length := by
  rw [atomNew_lanes ha, List.length_flatMap]
  simp only [leBytes_length, List.map_const', List.sum_replicate, List.length_zipWith, lanesOf_length, hx, Nat.min_self, smul_eq_mul]
  exact Nat.div_mul_cancel (Nat.dvd_of_mod_eq_zero hd)

theorem atomNew_lane (ha : aop ≤ 2) (hx : x.length = old.length) {k : Nat} (hk : k < old.length / atomLane atype) :
    (lanesOf (atomLane atype) (atomNew aop atype old x)).getD k 0
      = atomLaneOp aop (atomLane atype) ((lanesOf (atomLane atype) old).getD k 0) ((lanesOf (atomLane atype) x).getD k 0) := by
  have hko : k < (lanesOf (atomLane atype) old).length := by rw [lanesOf_length]; exact hk
  have hkx : k < (lanesOf (atomLane atype) x).length := by rw [lanesOf_length, hx]; exact hk
  rw [atomNew_lanes ha, lanesOf_flatMap (atomLane_pos atype)]
  simp only [List.getD_eq_getElem?_getD, List.getElem?_map, List.getElem?_zipWith, List.getElem?_eq_getElem hko,
    List.getElem?_eq_getElem hkx, Option.map_some, Option.getD_some]
  exact Nat.mod_eq_of_lt (atomLaneOp_lt (lanesOf_lt (List.getElem_mem hko)) (lanesOf_lt (List.getElem_mem hkx)))

/-- Compare and swap takes the second half of its operand when the first equals the old bytes. -/
theorem atomNew_cas {y : List Byte} (hx : x.length = old.length) (hy : y.length = old.length) :
    atomNew 4 atype old (x ++ y) = if x = old then y else old := by
  show (if (x ++ y).take old.length = old then ((x ++ y).drop old.length).take old.length else old) = _
  rw [List.take_left' hx, List.drop_left' hx, List.take_of_length_le (Nat.le_of_eq hy)]

end

/-! ## An access that starts -/

theorem Tile.op_setOp {y : Tile} {n : Nat} {o p : UOp} (ho : y.op n = some o) (hp : p.seq = n) : (y.setOp p).op n = some p := by
  subst hp
  show (y.ops.map fun x => if x.seq = p.seq then p else x).find? (fun o => decide (o.seq = p.seq)) = some p
  rw [List.find?_map]
  have hf : (fun o : UOp => decide (o.seq = p.seq)) ∘ (fun x : UOp => if x.seq = p.seq then p else x)
      = fun o => decide (o.seq = p.seq) := by
    funext x
    by_cases hx : x.seq = p.seq <;> simp [hx]
  rw [hf, show y.ops.find? (fun o => decide (o.seq = p.seq)) = some o from ho]
  exact congrArg some (if_pos (Tile.seq_of_op ho))

section
variable {s : State} {v : Nat} {o : UOp}

/-- An instruction as the mark of its start leaves it: its token and the registers it will write recorded (R39, R85). -/
def State.marked (s : State) (v : Nat) (o : UOp) : UOp :=
  { o with started := true, consumed := (waitTok o.word.toNat).isSome,
           before := (uWrites o.word.toNat).map fun r => (r, (((s.tile v).takeToken o.word.toNat).ctx o.ctx).rdName r) }

theorem State.markStarted_eq (s : State) (v : Nat) (o : UOp) :
    s.markStarted v o = s.setTile v (((s.tile v).takeToken o.word.toNat).setOp (s.marked v o)) := rfl

theorem State.rdByte_markStarted (s : State) (v : Nat) (o : UOp) (u b : Nat) :
    ((s.markStarted v o).tile u).rdByte b = (s.tile u).rdByte b := by
  rw [State.markStarted_eq, State.tile_setTile]
  split
  · subst_vars
    exact (congrArg (fun t : Tile => t.rdByte b) ((s.tile u).takeToken_keeps o.word.toNat) :)
  · rfl

theorem State.op_markStarted {n : Nat} (ho : (s.tile v).op n = some o) : ((s.markStarted v o).tile v).op n = some (s.marked v o) := by
  rw [State.markStarted_eq, State.tile_setTile, if_pos rfl]
  have hseq : o.seq = n := Tile.seq_of_op ho
  refine Tile.op_setOp (o := o) ?_ (hseq : (s.marked v o).seq = n)
  rw [← ho]
  exact (congrArg (fun t : Tile => t.op n) ((s.tile v).takeToken_keeps o.word.toNat) :)

theorem unitInstructionStart_narrow {seq : Nat} {ev : UnitEvent} (ht : v < Config.tiles) (ho : (s.tile v).op seq = some o)
    (hu : o.unit = .narrow) (hd : s.draining = false) (ha : s.active = true) (hf : s.tileFenced v = false) :
    exec (.unitInstructionStart v seq ev) s = .next (s.startN v o ev.sram) := by
  refine (if_pos ht).trans (congrArg Host.Outcome.next ?_)
  rw [ho]
  dsimp only
  rw [hd, ha, hf, hu]
  rfl

/-- A narrow access that nothing holds back runs, marked as started (R39). -/
theorem State.startN_runs {sram : Sram} {l : Loc} (hs : (s.tile v).startable o = true) (hl : s.form o.vb.toNat = some l)
    (hfull : wOp o.word.toNat = 1 ∨ s.locFull l (bits o.word.toNat 14 9) = false) (hw : wOp o.word.toNat ≤ 3)
    (hram : wOp o.word.toNat = 1 ∨ sram ≠ .uncorrectable) : s.startN v o sram = (s.markStarted v o).runNarrow v o sram := by
  have hf : (decide (2 ≤ wOp o.word.toNat) && decide (wOp o.word.toNat ≤ 3) && s.locFull l (bits o.word.toNat 14 9)) = false := by
    obtain h | h := hfull <;> rw [h] <;> simp
  have hr : (decide (wOp o.word.toNat = 2 ∨ wOp o.word.toNat = 3) && decide (sram = .uncorrectable)) = false := by
    obtain h | h := hram
    · rw [h]; rfl
    · rw [decide_eq_false h, Bool.and_false]
  unfold State.startN
  rw [hl]
  dsimp only
  rw [hf, hr, hs, if_neg (by simp), if_neg (by simp), if_neg (by omega)]

/-- A narrow access's bytes of tile store, as it starts. -/
theorem State.rdBytes_noted (s : State) (v : Nat) (x : Sram) (a n : Nat) :
    ((s.sramNote v x).tile v).rdBytes a n = (s.tile v).rdBytes a n := by
  obtain ⟨r, e, p, h⟩ := s.sramNote_onlyRecords v x
  rw [h]
  rfl

/-- The fields of the VAR of an atom's word stand where the word's do. -/
theorem bits_var {w hi lo : Nat} (h : hi < 9) : bits (bits w 8 0) hi lo = bits w hi lo := by
  rw [show bits w 8 0 = w % 2 ^ 9 by unfold bits; rw [Nat.pow_zero, Nat.div_one]]
  exact bits_mod h

section
variable {sram : Sram} {a : Nat} (hl : s.form o.vb.toNat = some (.dev a))
include hl

theorem State.runNarrow_ldn (hw : wOp o.word.toNat = 1) : let r := s.devRead a (bits o.word.toNat 14 9) (bits o.word.toNat 17 15) 0
    (∀ e, r.2 = .error e → s.runNarrow v o sram = r.1.unitFaultAt v o.ctx .narrow o.seq o.pc e)
      ∧ ∀ bs, r.2 = .ok bs → s.runNarrow v o sram = r.1.wrLocal v o.va.toNat bs := by
  intro r
  unfold State.runNarrow
  rw [hl]
  dsimp only
  rw [if_pos hw]
  refine ⟨fun e he => ?_, fun bs hb => ?_⟩
  · rw [show (s.devRead a (bits o.word.toNat 14 9) (bits o.word.toNat 17 15) 0).2 = _ from he]
  · rw [show (s.devRead a (bits o.word.toNat 14 9) (bits o.word.toNat 17 15) 0).2 = _ from hb]

theorem State.runNarrow_stn (hw : wOp o.word.toNat = 2) :
    let r := (s.sramNote v sram).devWrite a ((s.tile v).rdBytes o.va.toNat (bits o.word.toNat 14 9)) (bits o.word.toNat 17 15) 0
      (some (v, o.ctx, o.seq))
    (∀ e, r.2 = some e → s.runNarrow v o sram = r.1.unitFaultAt v o.ctx .narrow o.seq o.pc e)
      ∧ (r.2 = none → s.runNarrow v o sram = r.1) := by
  rw [← s.rdBytes_noted v sram]
  intro r
  unfold State.runNarrow
  rw [hl]
  dsimp only
  rw [if_neg (by omega), if_pos hw]
  refine ⟨fun e he => ?_, fun hn => ?_⟩
  · show (match r.2 with | some f => _ | none => _) = _
    rw [he]
  · show (match r.2 with | some f => _ | none => _) = _
    rw [hn]

theorem State.runNarrow_atom (hw : wOp o.word.toNat = 3) : let w := o.word.toNat
    let r := (s.sramNote v sram).atomic a (bits w 14 9) (bits w 2 0) (bits w 4 3) (bits w 5 5)
      ((s.tile v).rdBytes o.va.toNat (if bits w 2 0 = 4 then 2 * bits w 14 9 else bits w 14 9)) (bits w 17 15) 0 (some (v, o.ctx, o.seq))
    (∀ e, r.2 = .error e → s.runNarrow v o sram = r.1.unitFaultAt v o.ctx .narrow o.seq o.pc e)
      ∧ ∀ old, r.2 = .ok old → s.runNarrow v o sram = if bit w 5 then r.1.wrLocal v o.vc.toNat old else r.1 := by
  intro w
  rw [← s.rdBytes_noted v sram]
  intro r
  have hbit : bit (bits w 8 0) 5 = bit w 5 := by rw [Bool.eq_iff_iff, bit_iff, bit_iff, bits_var (by decide)]
  unfold State.runNarrow
  rw [hl]
  dsimp only
  rw [if_neg (by omega), if_neg (by omega), bits_var (by decide), bits_var (by decide), bits_var (by decide), hbit]
  refine ⟨fun e he => ?_, fun old ho => ?_⟩
  · show (match r.2 with | .error f => _ | .ok old => _) = _
    rw [he]
    rfl
  · show (match r.2 with | .error f => _ | .ok old => _) = _
    rw [ho]
    rfl

end

/-- The request of a store carries the bytes of tile store (R353). -/
theorem State.narrowRop_data {d a : Nat} (hw : wOp o.word.toNat = 2) :
    (s.narrowRop v o d a).data = (s.tile v).rdBytes o.va.toNat (bits o.word.toNat 14 9) := by
  unfold State.narrowRop
  dsimp only
  rw [if_neg (by omega), if_neg (by omega)]

/-- An access of another module sends one request, and its instruction waits for the answer (R350, R353). -/
theorem State.runNarrow_rack {sram : Sram} {d a n : Nat} {p : UOp} (hl : s.form o.vb.toNat = some (.rack d a)) (hn : o.seq = n)
    (hp : (s.tile v).op n = some p) : ∃ u : State, u.onlyRecords s
      ∧ s.runNarrow v o sram = (u.sendRop (u.narrowRop v o d a)).setOp v { p with wait := 1 } := by
  subst hn
  refine ⟨if wOp o.word.toNat = 1 then s else s.sramNote v sram, ?_, ?_⟩
  · split
    · exact ⟨_, _, _, rfl⟩
    · exact s.sramNote_onlyRecords v sram
  · have hu : ((if wOp o.word.toNat = 1 then s else s.sramNote v sram).tile v).op o.seq = some p := by
      rw [← hp]
      split
      · rfl
      · obtain ⟨r, e, q, h⟩ := s.sramNote_onlyRecords v sram
        rw [h]
        rfl
    unfold State.runNarrow
    rw [hl]
    dsimp only
    rw [hu]

/-- What the request of an access sent leaves. -/
theorem State.requested_spec {u : State} {n : Nat} {p : UOp} {r : ROp} (hu : u.onlyRecords s) (hp : (s.tile v).op n = some p) :
    let t := (u.sendRop r).setOp v { p with wait := 1 }
    t.rops = s.rops ++ [u.issued r] ∧ (t.tile v).op n = some { p with wait := 1 } ∧ t.mem = s.mem
      ∧ ∀ w c, (t.tile w).rdByte c = (s.tile w).rdByte c := by
  obtain ⟨r', e, q, hr⟩ := hu
  have htiles : ∀ w, (u.sendRop r).tile w = s.tile w := fun w => by
    unfold State.tile
    rw [State.sends_tiles (u.sendRop_sends r), hr]
  have hmem : (u.sendRop r).mem = u.mem := (congrArg State.mem (State.sends_frame (u.sendRop_sends r)) :)
  refine ⟨(u.sendRop_rops r).trans (by rw [hr]), ?_, hmem.trans (by rw [hr]), fun w c => ?_⟩
  · unfold State.setOp
    rw [State.tile_setTile, if_pos rfl, htiles]
    have hseq : p.seq = n := Tile.seq_of_op hp
    exact Tile.op_setOp hp (hseq : ({ p with wait := 1 } : UOp).seq = n)
  · unfold State.setOp
    rw [State.tile_setTile]
    split
    · subst_vars
      rw [htiles]
      rfl
    · rw [htiles]

theorem narrowComplete_eq {seq : Nat} (ht : v < Config.tiles) (ho : (s.tile v).op seq = some o) (hu : o.unit = .narrow)
    (hs : o.started = true) (hw : wOp o.word.toNat ≤ 3) (hwait : o.wait = 0) :
    exec (.narrowComplete v seq) s = .next (s.completeOp v o) := by
  refine (if_pos ht).trans (congrArg Host.Outcome.next ?_)
  rw [ho]
  exact if_pos (by rw [hu, hs, hwait, decide_eq_true hw]; rfl)

end

/-! ## The obligation -/

/-- Settles O30: a start by the form of its address and its operation, a completion as any unit's, and Table 13-1 lane by lane. -/
theorem narrowEffects : Obligations.NarrowEffects := by
  unfold Obligations.NarrowEffects
  refine ⟨fun tile seq ev o s => ?_, fun w old x => ⟨rfl, rfl, rfl⟩, fun atype old x y hx hy => ⟨?_, fun h => ?_, fun h => ?_⟩,
    fun aop atype k old x ha _ hx hd hk => ⟨atomNew_length ha hx hd, atomNew_lane ha hx hk⟩⟩
  · intro y w size m who failed ht ho hu
    have hseq : o.seq = seq := Tile.seq_of_op ho
    have hbytes : ∀ a n, (m.tile tile).rdBytes a n = y.rdBytes a n := fun a n => by
      unfold Tile.rdBytes
      simp only [m, y, State.rdByte_markStarted]
    refine ⟨fun hs hd ha hf hram => ?_, fun hs hw hwait hv => ?_⟩
    · have hstart := unitInstructionStart_narrow (ev := ev) ht ho hu hd ha hf
      refine ⟨fun a hl => ⟨fun hw => ?_, fun hw hm => ?_, fun hw hm => ?_⟩, fun d a hl h1 h3 => ?_⟩
      · rw [hstart, State.startN_runs hs hl (.inl hw) (hw.le.trans (by omega)) (.inl hw)]
        obtain ⟨hfail, hread⟩ := State.runNarrow_ldn (s := m) (v := tile) (sram := ev.sram) hl hw
        refine ⟨fun e he => congrArg Host.Outcome.next (hfail e he), fun bs hb => ⟨_, congrArg Host.Outcome.next (hread bs hb), ?_, ?_⟩⟩
        · exact (State.wrLocal_onlyStores ..).1
        · exact State.wrLocal_storesLocal _ _ _ _ rfl fun _ _ => rfl
      · rw [hstart, State.startN_runs hs hl (.inr hm) (hw.le.trans (by omega)) (hram.imp_left fun h => h)]
        obtain ⟨hfail, hdone⟩ := State.runNarrow_stn (s := m) (v := tile) (sram := ev.sram) hl hw
        rw [hbytes] at hfail hdone
        exact ⟨fun e he => congrArg Host.Outcome.next (hfail e he), fun hn => congrArg Host.Outcome.next (hdone hn)⟩
      · rw [hstart, State.startN_runs hs hl (.inr hm) (hw.le.trans (by omega)) (hram.imp_left fun h => h)]
        obtain ⟨hfail, hdone⟩ := State.runNarrow_atom (s := m) (v := tile) (sram := ev.sram) hl hw
        rw [hbytes] at hfail hdone
        exact ⟨fun e he => congrArg Host.Outcome.next (hfail e he), fun old ho => congrArg Host.Outcome.next (hdone old ho)⟩
      · rw [hstart, State.startN_runs hs hl (.inr rfl) h3 (hram.imp_left fun h => h)]
        obtain ⟨u, ⟨r', e, q, rfl⟩, hrun⟩ := State.runNarrow_rack (s := m) (v := tile) (sram := ev.sram) hl hseq (State.op_markStarted ho)
        obtain ⟨hrops, hop, hmem, hb⟩ := State.requested_spec (r := State.narrowRop _ tile o d a) ⟨r', e, q, rfl⟩ (State.op_markStarted ho)
        refine ⟨_, _, _, congrArg Host.Outcome.next hrun, hrops, hop, rfl, rfl, rfl, rfl, rfl, rfl, rfl, ?_, fun hw => ?_, hmem,
          fun w c => (hb w c).trans (s.rdByte_markStarted ..)⟩
        · rfl
        · exact (State.narrowRop_data (d := d) (a := a) hw).trans (hbytes ..)
    · have hfr := (s.setTile tile ((s.tile tile).completed o)).settleFlush_frame tile o.ctx
      obtain ⟨hops, htok, hb, -, hother⟩ := s.completed_spec tile o
      rw [hseq] at hops
      refine ⟨_, (narrowComplete_eq ht ho hu hs hw hwait).trans (congrArg Host.Outcome.next (State.completeOp_ok hv)),
        (congrArg State.regs hfr :), (congrArg State.mem hfr :), (congrArg State.counters hfr :), State.completed_alone, hops, htok,
        fun u c => ?_⟩
      by_cases hu' : u = tile
      · rw [hu']; exact hb c
      · rw [hother u hu']
  · exact (congrArg (List.take · x) hx.symm).trans List.take_length
  · rw [atomNew_cas hx hy, if_pos h]
  · rw [atomNew_cas hx hy, if_neg h]

end Sys2Proof.Machine

/-! ldn, stn and atom at issue, and the order of their checks (R206, R217, R349, R350). -/

namespace Sys2Proof.Machine

/-! ## The word of a D instruction -/

theorem encD_lt (op : Nat) (h : Head) (f : DF) (ho : op < 64) : encD op h f < 2 ^ 64 := by
  have h0 := encHead_lt 5 op h (by omega) ho
  have h1 := f.tw.isLt; have h2 := f.ts.isLt; have h3 := f.sa.isLt; have h4 := f.sb.isLt; have h5 := f.sc.isLt
  have h6 := f.chan.isLt; have h7 := f.hint.isLt; have h8 := f.size.isLt; have h9 := f.var.isLt
  unfold encD
  omega

theorem encD_fields (op : Nat) (h : Head) (f : DF) :
    bits (encD op h f) 39 34 = f.sa.toNat ∧ bits (encD op h f) 33 28 = f.sb.toNat ∧ bits (encD op h f) 27 22 = f.sc.toNat
      ∧ bits (encD op h f) 53 51 = h.pred.toNat ∧ bits (encD op h f) 50 50 = b2n h.pneg := by
  have hp := h.pred.isLt
  have hn := b2n_le h.pneg
  have h1 := f.tw.isLt; have h2 := f.ts.isLt; have h3 := f.sa.isLt; have h4 := f.sb.isLt; have h5 := f.sc.isLt
  have h6 := f.chan.isLt; have h7 := f.hint.isLt; have h8 := f.size.isLt; have h9 := f.var.isLt
  unfold encD encHead bits
  refine ⟨?_, ?_, ?_, ?_, ?_⟩ <;> omega

/-- The head that a word carries is the one it was made with, but for what its reads met. -/
theorem headOf_encD (op : Nat) (h : Head) (f : DF) : headOf h.tile h.ctx (encD op h f) = { h with sram := [] } := by
  obtain ⟨-, -, -, hp, hn⟩ := encD_fields op h f
  have hneg : bit (encD op h f) 50 = h.pneg := by
    rw [Bool.eq_iff_iff, bit_iff, hn]
    cases h.pneg <;> simp [b2n]
  unfold headOf
  rw [hp, hneg, BitVec.ofNat_toNat, BitVec.setWidth_eq]

/-! ## Issue -/

section
variable {s : State} {h : Head} {f : DF} {op : Nat}

/-- What a narrow access captures at issue. -/
def State.narrowCapture (s : State) (h : Head) (op : Nat) (f : DF) : UOp :=
  capture s h .narrow (encD op h f) f.sa.toNat f.sb.toNat f.sc.toNat

/-- Its check (R206, R350). -/
def State.narrowFinds (s : State) (h : Head) (op : Nat) (f : DF) : Option FaultAt :=
  s.narrowCheck (encD op h f) ((s.ctx h.tile h.ctx).rdS f.sa.toNat).toNat ((s.ctx h.tile h.ctx).rdS f.sb.toNat).toNat
    ((s.ctx h.tile h.ctx).rdS f.sc.toNat).toNat

theorem narrowAct_full (hn : 64 ≤ (s.tile h.tile).narrowCount) : narrowAct h (encD op h f) s
    = .hold (s.setCtx h.tile h.ctx { s.ctx h.tile h.ctx with stall := .narrowFull (BitVec.ofNat 64 (encD op h f)) }) := if_pos hn

/-- With room, the check decides (R349, R350). -/
theorem narrowAct_room (hn : (s.tile h.tile).narrowCount < 64) : narrowAct h (encD op h f) s = match s.narrowFinds h op f with
    | some e => .fault e
    | none => .go 15 fun u => (u.enqueue h.tile (s.narrowCapture h op f)).advance h.tile h.ctx := by
  obtain ⟨ha, hb, hc, -, -⟩ := encD_fields op h f
  unfold narrowAct
  rw [ha, hb, hc]
  exact if_neg (Nat.not_le.2 hn)

/-- What the reads of an instruction's row met does not bear on its issue. -/
theorem narrowAct_sram (w : Nat) (u : State) : narrowAct { h with sram := [] } w u = narrowAct h w u := rfl

theorem State.resume_ready {v : Nat} {c : Ctxt} {act : State → Act}
    (hr : (s.setCtx v c { s.ctx v c with stall := .none }).ready v c = true) : s.resume v c act
      = (s.setCtx v c { s.ctx v c with stall := .none }).perform v c (act (s.setCtx v c { s.ctx v c with stall := .none })) := if_pos hr

/-- An instruction queued behind its tile's others, its context gone on, and the price of its issue taken. -/
theorem State.queued_spec (s : State) (h : Head) (o : UOp) (k : Nat) :
    let t := ((s.pay h.tile k).enqueue h.tile o).advance h.tile h.ctx
    t.keepsS s h ∧ t.keepsPV s h ∧ t.wentOn s h ∧ { t with tiles := s.tiles } = s ∧ (∀ u, u ≠ h.tile → t.tile u = s.tile u)
      ∧ (t.tile h.tile).ops = (s.tile h.tile).ops ++ [{ o with seq := (s.tile h.tile).seq }]
      ∧ (∀ b, (t.tile h.tile).rdByte b = (s.tile h.tile).rdByte b) ∧ ∀ j, (t.tile h.tile).token j = (s.tile h.tile).token j := by
  intro t
  have hp : (s.pay h.tile k).tile h.tile
      = { s.tile h.tile with credit := (s.tile h.tile).credit - s.chargeOf h.tile k, want := 0 } := by
    unfold State.pay
    rw [State.tile_setTile, if_pos rfl]
  have ht := (s.pay h.tile k).tile_enqueue_advance h.tile h.ctx o
  have hx : t.ctx h.tile h.ctx = (s.ctx h.tile h.ctx).advance := by
    refine (congrArg (fun y : Tile => y.ctx h.ctx) ht).trans ?_
    rw [Tile.ctx_setCtx, if_pos rfl, hp]
    unfold State.ctx
    cases h.ctx <;> rfl
  obtain ⟨hS, hPV, hon⟩ := State.keepsS_of_ctx hx
  rw [hp] at ht
  obtain ⟨hops, htok, hb⟩ := Tile.setCtx_keeps _ h.ctx _
  refine ⟨hS, hPV, hon, rfl, fun u hu => ?_, ?_, fun b => ?_, fun j => ?_⟩
  · rw [State.tile_advance_other _ _ hu]
    unfold State.enqueue
    rw [State.tile_setTile, if_neg hu, State.tile_pay_other _ _ hu]
  · exact (congrArg Tile.ops ht).trans hops
  · exact (congrArg (fun y : Tile => y.rdByte b) ht).trans (hb b)
  · exact (congrArg (fun y : Tile => y.token j) ht).trans (htok j)

/-- An access that waited for room issues as if it issued then (R349). -/
theorem narrowPathFullStall_issues {u : Uses} (ho : op < 64)
    (hx : (s.ctx h.tile h.ctx).stall = .narrowFull (BitVec.ofNat 64 (encD op h f))) (hn : (s.tile h.tile).narrowCount < 64)
    (hg : (s.setCtx h.tile h.ctx { s.ctx h.tile h.ctx with stall := .none }).goes h (encD op h f) u false = true) :
    exec (.narrowPathFullStall h.tile h.ctx) s = issue h (encD op h f) u false (narrowAct h (encD op h f))
      (s.setCtx h.tile h.ctx { s.ctx h.tile h.ctx with stall := .none }) := by
  obtain ⟨ht, hready, -⟩ := State.goes_iff.1 hg
  have hw : (BitVec.ofNat 64 (encD op h f)).toNat = encD op h f :=
    (BitVec.toNat_ofNat ..).trans (Nat.mod_eq_of_lt (encD_lt op h f ho))
  have hexec : exec (.narrowPathFullStall h.tile h.ctx) s = .next (s.resume h.tile h.ctx
      (narrowAct (headOf h.tile h.ctx (BitVec.ofNat 64 (encD op h f)).toNat) (BitVec.ofNat 64 (encD op h f)).toNat)) := by
    refine (if_pos ht).trans (congrArg Host.Outcome.next ?_)
    rw [hx]
    exact if_neg (Nat.not_le.2 hn)
  rw [hexec, hw, headOf_encD, State.resume_ready hready, issue_goes hg, narrowAct_sram]

end

/-! ## The order of the checks (R26, R29, R206, R217) -/

theorem firstAtOrAbove_within {a n l : Nat} (h : a + n ≤ l) : firstAtOrAbove a n l = none := by
  unfold firstAtOrAbove
  split
  · rfl
  · rw [if_neg (by omega), if_neg (by omega)]

theorem firstAtOrAbove_beyond {a n l : Nat} (hn : 0 < n) (h : l < a + n) : firstAtOrAbove a n l = some (max a l) := by
  unfold firstAtOrAbove
  rw [if_neg (by omega)]
  by_cases hl : l ≤ a
  · rw [if_pos hl, Nat.max_eq_left hl]
  · rw [if_neg hl, if_pos h, Nat.max_eq_right (by omega)]

section
variable {s : State} {a n : Nat} {p : Perm}

theorem State.devCheck_address (hn : 0 < n) (h : s.capacity < a + n) : s.devCheck a n p = some (cADDRESS, max a s.capacity) := by
  unfold State.devCheck
  rw [firstAtOrAbove_beyond hn h]

theorem State.devCheck_uncovered (h : a + n ≤ s.capacity) (hk : ∀ k, k < 64 → s.segCovers a n k = false) :
    s.devCheck a n p = some (cSEGMENT, a) := by
  have hseg : s.segOf a n = none := List.find?_eq_none.2 fun k hm => by rw [hk k (List.mem_range.1 hm)]; exact Bool.false_ne_true
  unfold State.devCheck
  rw [firstAtOrAbove_within h, hseg]

theorem State.devCheck_allowed (h : a + n ≤ s.capacity) (ha : ∀ k, k < 64 → s.segCovers a n k = true → s.segAllows k p = true)
    (hk : ∃ k, k < 64 ∧ s.segCovers a n k = true) : s.devCheck a n p = none := by
  unfold State.devCheck
  rw [firstAtOrAbove_within h]
  cases hseg : s.segOf a n with
  | none =>
    obtain ⟨k, hk, hc⟩ := hk
    exact absurd hc (List.find?_eq_none.1 hseg k (List.mem_range.2 hk))
  | some k => exact if_pos (ha k (List.mem_range.1 (List.mem_of_find?_eq_some hseg)) (List.find?_some hseg))

variable {w va vb vc : Nat}

/-- The address of device memory that a value of form 1 names (Table 7-2). -/
theorem State.form_dev (hvb : vb / 2 ^ 48 = 2 ^ 14) : s.form vb = some (.dev (vb % 2 ^ 48)) := by
  have h1 : bits vb 63 62 = 1 := by unfold bits; omega
  have h2 : bits vb 61 48 = 0 := by unfold bits; omega
  have h3 : bits vb 47 0 = vb % 2 ^ 48 := by unfold bits; omega
  unfold State.form
  rw [h1, h3]
  exact if_pos h2

/-- A form of a tile, or of none, is OPERAND for a narrow access. -/
theorem State.narrowCheck_form (hf : bits vb 63 62 = 0 ∨ 3 ≤ bits vb 63 62) : s.narrowCheck w va vb vc = some (cOPERAND, unstated) := by
  have hform : s.form vb = none ∨ ∃ t b, s.form vb = some (.tile t b) := by
    have hlt := bits_lt vb 63 62
    unfold State.form
    obtain h | h := hf
    · rw [h]
      by_cases hc : bits vb 61 32 = 0 ∧ bits vb 31 21 < s.tileCount
      · exact .inr ⟨_, _, if_pos hc⟩
      · exact .inl (if_neg hc)
    · rw [show bits vb 63 62 = 3 by omega]
      exact .inl rfl
  unfold State.narrowCheck
  obtain h | ⟨t, b, h⟩ := hform <;> rw [h]

/-- A register beyond tile-local space is OPERAND whatever the form. -/
theorem State.narrowCheck_register (hva : 2 ^ 21 ≤ va) : s.narrowCheck w va vb vc = some (cOPERAND, unstated) := by
  unfold State.narrowCheck
  dsimp only
  rw [decide_eq_false (Nat.not_lt.2 hva), Bool.false_and]
  split
  · rfl
  · rfl
  · exact if_pos rfl

/-- ldn and stn of device memory: the sector, then the two ranges. -/
theorem State.narrowCheck_dev (hw : wOp w = 1 ∨ wOp w = 2) (hs : 1 ≤ bits w 14 9) (hvb : vb / 2 ^ 48 = 2 ^ 14) (hva : va < 2 ^ 21) :
    s.narrowCheck w va vb vc = if 32 < vb % 32 + bits w 14 9 then some (cALIGN, vb)
      else if localEnd < va + bits w 14 9 then some (cLOCAL_RANGE, max va localEnd)
      else s.devCheck (vb % 2 ^ 48) (bits w 14 9) (if wOp w = 1 then .read else .write) := by
  have h3 : wOp w ≠ 3 := by omega
  have hperm : (if wOp w = 1 then Perm.read else if wOp w = 2 then .write else .atomic) = if wOp w = 1 then .read else .write := by
    obtain h | h := hw <;> rw [h] <;> rfl
  unfold State.narrowCheck narrowAlign State.locCheck localCheck
  rw [s.form_dev hvb]
  dsimp only
  rw [decide_eq_true hva, decide_eq_true h3, decide_eq_false h3, if_neg h3, hperm, Nat.mod_mod_of_dvd _ (by norm_num : 32 ∣ 2 ^ 48),
    if_neg (by omega : bits w 14 9 ≠ 0)]
  by_cases hal : vb % 32 + bits w 14 9 ≤ 32
  · rw [if_neg (Nat.not_lt.2 hal), decide_eq_true hal]
    by_cases hr : localEnd < va + bits w 14 9
    · rw [if_pos hr, firstAtOrAbove_beyond (by omega) hr]
      rfl
    · rw [if_neg hr, firstAtOrAbove_within (by omega)]
      cases s.devCheck (vb % 2 ^ 48) (bits w 14 9) (if wOp w = 1 then .read else .write) <;> rfl
  · rw [if_pos (Nat.lt_of_not_le hal), decide_eq_false hal]
    rfl

end

/-! ## The obligation -/

/-- Settles O29: the act of each instruction by its room and its check, and the check by its form, register, sector and ranges. -/
theorem narrowIssue : Obligations.NarrowIssue := by
  unfold Obligations.NarrowIssue
  refine ⟨fun h f s => ?_, fun s w va vb vc => ⟨fun hw hs _ => ⟨fun hf => ?_, fun hvb hva hal => ?_, fun hvb hva hal hr => ?_,
    fun hvb hva hal hr => ?_⟩, fun a n p hn => ⟨State.devCheck_address hn, State.devCheck_uncovered, State.devCheck_allowed⟩⟩⟩
  · intro x issues
    have key : ∀ op i, op < 64 → (∀ u, exec i u = issue h (encD op h f) (usesD (encD op h f)) false (narrowAct h (encD op h f)) u) →
        issues op i := by
      intro op i hop hi
      refine ⟨fun hg => ⟨fun hn => ?_, fun e hn he => ?_, fun hn hc hcov => ?_⟩, fun hx hn hg => ?_⟩
      · rw [hi, issue_goes hg, narrowAct_full hn, State.perform_hold]
      · rw [hi, issue_goes hg, narrowAct_room hn, show s.narrowFinds h op f = some e from he, State.perform_fault]
      · refine ⟨_, ?_, s.queued_spec h (s.narrowCapture h op f) 15⟩
        rw [hi, issue_goes hg, narrowAct_room hn, show s.narrowFinds h op f = none from hc, State.perform_go hcov]
      · rw [hi]
        exact narrowPathFullStall_issues hop hx hn hg
    exact ⟨key 1 _ (by omega) fun _ => rfl, key 2 _ (by omega) fun _ => rfl, key 3 _ (by omega) fun _ => rfl⟩
  · obtain h | h | h := hf
    · exact State.narrowCheck_form (.inl h)
    · exact State.narrowCheck_form (.inr h)
    · exact State.narrowCheck_register h
  · exact (State.narrowCheck_dev hw hs hvb hva).trans (if_pos hal)
  · exact (State.narrowCheck_dev hw hs hvb hva).trans ((if_neg (Nat.not_lt.2 hal)).trans (if_pos hr))
  · exact (State.narrowCheck_dev hw hs hvb hva).trans ((if_neg (Nat.not_lt.2 hal)).trans (if_neg (Nat.not_lt.2 hr)))

end Sys2Proof.Machine

/-! Copies from their start to their completion, and the engine's turns (R184, R200 to R203, R366, R367). -/

namespace Sys2Proof.Machine

/-! ## The engine's turn (R201) -/

section
variable {s : State} {cl m : Nat} {sram : Sram}

/-- Channel `ch` of a cluster, or its bkputs as 16, have a grant ready. -/
def State.engineReady (s : State) (cl ch : Nat) : Bool :=
  if ch = 16 then (s.wantsPut cl).isSome else (s.wantsGrant (16 * cl + ch)).isSome

/-- Nothing that follows `last` before `m` is ready. -/
def State.notBefore (s : State) (cl last m : Nat) : Prop := ∀ j, j < (m + 17 - last) % 17 →
  if (last + j) % 17 = 16 then s.wantsPut cl = none else s.wantsGrant (16 * cl + (last + j) % 17) = none

theorem State.engineReady_false {ch : Nat} (h : if ch = 16 then s.wantsPut cl = none else s.wantsGrant (16 * cl + ch) = none) :
    s.engineReady cl ch = false := by
  unfold State.engineReady
  split at h <;> rename_i hc
  · rw [if_pos hc, h]; rfl
  · rw [if_neg hc, h]; rfl

/-- The engine serves the first that is ready after what it served last. -/
theorem State.find_turn {last : Nat} (hl : last < 18) (hm : m < 17) (hr : s.engineReady cl m = true) (hb : s.notBefore cl last m) :
    ((List.range 17).map fun i => (last + i) % 17).find? (s.engineReady cl) = some m := by
  rw [List.find?_map]
  have hfind : (List.range 17).find? (s.engineReady cl ∘ fun i => (last + i) % 17) = some ((m + 17 - last) % 17) := by
    rw [List.find?_range_eq_some]
    refine ⟨?_, List.mem_range.2 (by omega), fun j hj => ?_⟩
    · show s.engineReady cl ((last + (m + 17 - last) % 17) % 17) = true
      rw [show (last + (m + 17 - last) % 17) % 17 = m by omega]
      exact hr
    · show (!s.engineReady cl ((last + j) % 17)) = true
      rw [State.engineReady_false (hb j hj)]
      rfl
  rw [hfind]
  exact congrArg some (by show (last + (m + 17 - last) % 17) % 17 = m; omega)

variable (hcl : cl < Config.clusters) (hd : s.draining = false) (ha : s.active = true) (hl : SMap.get 0 s.engines cl < 18)
include hcl hd ha hl

theorem engineGrant_serves {x : Copy} (hm : m < 16) (hx : s.wantsGrant (16 * cl + m) = some x)
    (hb : s.notBefore cl (SMap.get 0 s.engines cl) m) : exec (.engineGrant cl sram) s
      = .next (State.grantChan { s with engines := SMap.set 0 s.engines cl (m + 1) } (16 * cl + m) x sram) := by
  have hr : s.engineReady cl m = true := by
    unfold State.engineReady
    rw [if_neg (by omega), hx]
    rfl
  refine (if_pos hcl).trans (congrArg Host.Outcome.next ?_)
  rw [hd, ha]
  refine (if_neg (by simp)).trans ?_
  have hf := State.find_turn hl (by omega) hr hb
  unfold State.engineReady at hf
  dsimp only
  rw [hf]
  dsimp only
  rw [if_neg (by omega), hx]

theorem engineGrant_puts {p : Put} (hp : s.wantsPut cl = some p) (hb : s.notBefore cl (SMap.get 0 s.engines cl) 16) :
    exec (.engineGrant cl sram) s = .next (State.grantPut { s with engines := SMap.set 0 s.engines cl 17 } p sram) := by
  have hr : s.engineReady cl 16 = true := by
    unfold State.engineReady
    rw [if_pos rfl, hp]
    rfl
  refine (if_pos hcl).trans (congrArg Host.Outcome.next ?_)
  rw [hd, ha]
  refine (if_neg (by simp)).trans ?_
  have hf := State.find_turn hl (by omega) hr hb
  unfold State.engineReady at hf
  dsimp only
  rw [hf]
  dsimp only
  rw [if_pos rfl, hp]

end

/-! ## The start of a copy (R184, R366, R367) -/

section
variable {s : State} {cl ch : Nat} {x : Copy} {rest : List Copy} {sram : Sram}

/-- A copy as its start leaves it. -/
def Copy.startedFrom (x : Copy) : Copy := { x with started := true, consumed := (waitTok x.word.toNat).isSome }

/-- The state in which a copy starts: its token taken, and what the read of its source store met noted. -/
def State.copyStarts (s : State) (x : Copy) (sram : Sram) : State :=
  (s.setTile x.tile ((s.tile x.tile).takeToken x.word.toNat)).copySram x sram

/-- A start waits for room at a gateway or in a mirror slice (R367, R422). -/
def State.copyFull (s : State) (x : Copy) : Bool :=
  match s.farDev x with
  | some d => decide (256 ≤ s.gatewayHeld (d % 4))
  | none => dOp x.desc = 0 && !dCrc x.desc && s.locFull (s.copyDst x) (dCount x.desc)

theorem copyStart_starts (hcl : cl < Config.clusters) (hch : ch < 16) (hq : (s.chan (16 * cl + ch)).queue = x :: rest)
    (hs : x.started = false) (hh : (s.chan (16 * cl + ch)).held = false) (hd : s.draining = false) (ha : s.active = true)
    (ht : (s.tile x.tile).tokenReady x.word.toNat = true) (hf : s.copyFull x = false) :
    exec (.copyStart cl ch sram) s = .next (s.startCopy (16 * cl + ch) x sram) := by
  refine (if_pos hcl).trans ((if_pos hch).trans (congrArg Host.Outcome.next ?_))
  dsimp only
  rw [hq]
  refine if_neg ?_
  rw [hs, hh, hd, ha, ht]
  show ¬ s.copyFull x = true
  rw [hf]
  exact Bool.false_ne_true

/-- With anything but an uncorrectable read, only records change before the copy starts. -/
theorem State.copySram_onlyRecords (s : State) (x : Copy) (h : sram ≠ .uncorrectable) : (s.copySram x sram).onlyRecords s := by
  unfold State.copySram
  split
  · exact absurd rfl h
  · exact s.sramNote_onlyRecords ..
  · exact ⟨_, _, _, rfl⟩

theorem State.reg_sramNote (s : State) (t : Nat) (y : Sram) {q : Reg} {j : Nat} (hj : j < 2 ^ 24) (h1 : q ≠ .SRAMCNT) (h2 : q ≠ .LOGLOST)
    (h3 : q ≠ .HEALTHFLAG) : (s.sramNote t y).reg q j = s.reg q j := by
  cases y with
  | good => rfl
  | corrected => exact (State.reg_penalise _ _ _ _ hj h2 h3).trans (s.reg_bump_other 1 (by decide) hj (.inl h1))
  | uncorrectable => rfl

/-- A corrected error starts no drain. -/
theorem State.draining_sramNote (s : State) (t : Nat) (y : Sram) : (s.sramNote t y).draining = s.draining := by
  obtain ⟨r, e, p, hr⟩ := s.sramNote_onlyRecords t y
  have hreg := s.reg_sramNote t y (q := .DRAINSTAT) (j := 0) (by decide) (by decide) (by decide) (by decide)
  have hget : (s.sramNote t y).get F.DRAINSTAT_STATE 0 = s.get F.DRAINSTAT_STATE 0 := State.get_of_reg hreg
  have hdue : (s.sramNote t y).drainDue = s.drainDue := by rw [hr]
  unfold State.draining
  rw [hget, hdue]

theorem State.draining_copySram (s : State) (x : Copy) (h : sram ≠ .uncorrectable) : (s.copySram x sram).draining = s.draining := by
  unfold State.copySram
  split
  · exact absurd rfl h
  · exact s.draining_sramNote ..
  · rfl

/-- What the start of copy `c` in channel `k` comes to (R184, R366, R367). -/
def State.beginCopy (u : State) (k : Nat) (c : Copy) : State :=
  if dCount c.desc = 0 then u.putCopy k c
  else match u.farDev c with
    | some _ => u.putCopy k { c with gateway := true }
    | none =>
      if u.srcRemote c then (u.putCopy k c).readOn k
      else if dOp c.desc = 0 && !dCrc c.desc then
        match (u.grantRaw c (dCount c.desc)).2 with
        | .error f => (u.grantRaw c (dCount c.desc)).1.copyFault k { c with out := f.2 } f.1
        | .ok g => (u.grantRaw c (dCount c.desc)).1.putCopy k g.copy
      else u.putCopy k c

theorem State.startCopy_begin {k : Nat} (hq : (s.chan k).queue = x :: rest) (hd : s.draining = false) (h : sram ≠ .uncorrectable) :
    s.startCopy k x sram = (s.copyStarts x sram).beginCopy k x.startedFrom := by
  obtain ⟨r, e, p, hr⟩ := State.copySram_onlyRecords (s.setTile x.tile ((s.tile x.tile).takeToken x.word.toNat)) x h
  have hqueue : ((s.copyStarts x sram).chan k).queue = x :: rest := by
    unfold State.copyStarts
    rw [hr]
    exact hq
  have hdrain : (s.copyStarts x sram).draining = false := (State.draining_copySram _ x h).trans hd
  unfold State.startCopy
  refine if_neg ?_
  show ¬ ((s.copyStarts x sram).draining || !(((s.copyStarts x sram).chan k).queue.any fun y => decide (y.id = x.id))) = true
  rw [hdrain, hqueue, List.any_cons, decide_eq_true rfl]
  exact Bool.false_ne_true

section
variable {u : State} {k : Nat} {c : Copy}

theorem State.beginCopy_empty (hn : dCount c.desc = 0) : u.beginCopy k c = u.putCopy k c := if_pos hn

variable (hn : dCount c.desc ≠ 0)
include hn

theorem State.beginCopy_far (hf : u.farDev c ≠ none) : u.beginCopy k c = u.putCopy k { c with gateway := true } := by
  obtain ⟨d, hd⟩ := Option.ne_none_iff_exists'.1 hf
  unfold State.beginCopy
  rw [if_neg hn, hd]

variable (hf : u.farDev c = none)
include hf

theorem State.beginCopy_remote (hs : u.srcRemote c = true) : u.beginCopy k c = (u.putCopy k c).readOn k := by
  unfold State.beginCopy
  rw [if_neg hn, hf]
  exact if_pos hs

variable (hs : u.srcRemote c = false)
include hs

theorem State.beginCopy_served (h : dOp c.desc ≠ 0 ∨ dCrc c.desc = true) : u.beginCopy k c = u.putCopy k c := by
  unfold State.beginCopy
  rw [if_neg hn, hf]
  dsimp only
  rw [hs, if_neg Bool.false_ne_true]
  exact if_neg (by obtain h | h := h <;> simp [h])

theorem State.beginCopy_raw (ho : dOp c.desc = 0) (hc : dCrc c.desc = false) :
    (∀ g, (u.grantRaw c (dCount c.desc)).2 = .ok g → u.beginCopy k c = (u.grantRaw c (dCount c.desc)).1.putCopy k g.copy)
      ∧ ∀ f, (u.grantRaw c (dCount c.desc)).2 = .error f →
        u.beginCopy k c = (u.grantRaw c (dCount c.desc)).1.copyFault k { c with out := f.2 } f.1 := by
  unfold State.beginCopy
  rw [if_neg hn, hf]
  dsimp only
  rw [hs, ho, hc, if_neg Bool.false_ne_true, if_pos (by decide)]
  exact ⟨fun g hg => by rw [hg], fun f hf => by rw [hf]⟩

end

end

/-! ## A RAW move between tiles -/

section
variable {s t u : State}

/-- Bytes, unit queues and checkers are those of `s`: what a write of tile-local bytes goes by. -/
def State.bytesAs (u s : State) : Prop :=
  (∀ w b, (u.tile w).rdByte b = (s.tile w).rdByte b) ∧ (∀ w, (u.tile w).ops = (s.tile w).ops) ∧ ∀ w, u.checkerOf w = s.checkerOf w

theorem State.storesLocal_from {v a n : Nat} {f : Nat → Option Byte} (hu : u.bytesAs s) (h : t.storesLocal u v a n f) :
    t.storesLocal s v a n f := by
  obtain ⟨hb, hops, hc⟩ := hu
  obtain ⟨hin, hout⟩ := h
  refine ⟨fun w hw b hs => ?_, fun w b hw hcw => ?_⟩
  · rw [← hb]
    refine hin w (by rw [hc]; exact hw) b ?_
    unfold State.spoilt at hs ⊢
    rw [hops]
    exact hs
  · rw [hout w b hw (by rw [hc]; exact hcw), hb]

theorem State.storesLocal_then {v a n : Nat} {f : Nat → Option Byte} (ht : ∀ w b, (u.tile w).rdByte b = (t.tile w).rdByte b)
    (h : t.storesLocal s v a n f) : u.storesLocal s v a n f := by
  obtain ⟨hin, hout⟩ := h
  exact ⟨fun w hw b hs => (ht w b).trans (hin w hw b hs), fun w b hw hc => (ht w b).trans (hout w b hw hc)⟩

/-- A store of nothing. -/
theorem State.storesLocal_nothing {v a : Nat} {f : Nat → Option Byte} (ht : ∀ w b, (t.tile w).rdByte b = (s.tile w).rdByte b) :
    t.storesLocal s v a 0 f := by
  refine ⟨fun w _ b _ => ?_, fun w b _ _ => ht w b⟩
  rw [if_neg (by omega)]
  exact ht w b

theorem State.form_congr (hr : t.regs = s.regs) (v : Nat) : t.form v = s.form v := by
  unfold State.form State.isOwn State.tileCount State.dev
  simp only [State.get_congr hr]

theorem Tile.rdBytes_length (y : Tile) (a n : Nat) : (y.rdBytes a n).length = n := by
  unfold Tile.rdBytes
  rw [List.length_map, List.length_range]

theorem Tile.rdBytes_getElem? (y : Tile) (a : Nat) {n i : Nat} (h : i < n) : (y.rdBytes a n)[i]? = some (y.rdByte (a + i)) := by
  unfold Tile.rdBytes
  rw [List.getElem?_map, List.getElem?_range h]
  rfl

/-- A copy that a RAW grant of bytes `bs` has moved on. -/
def Copy.moveOn (c : Copy) (bs : List Byte) : Copy :=
  { c with out := c.out + bs.length, crc := if dCrc c.desc then crcOver c.crc bs else c.crc, pos := c.pos + bs.length }

section
variable {c : Copy} {t1 a t2 b n : Nat} (ho : dOp c.desc = 0) (h1 : u.form (dSrc c.desc) = some (.tile t1 a))
  (h2 : u.form (dDst c.desc) = some (.tile t2 b)) (f1 : u.tileFenced t1 = false) (f2 : u.tileFenced t2 = false)
include ho h1 h2 f1 f2

/-- A RAW grant between tiles in service stores the source's bytes (R190). -/
theorem State.grantRaw_tiles : ∃ v : State, v.onlyStores u
    ∧ v.storesLocal u t2 (b + c.pos) n (fun i => some ((u.tile t1).rdByte (a + c.pos + i)))
    ∧ u.grantRaw c n = (v, .ok { copy := c.moveOn ((u.tile t1).rdBytes (a + c.pos) n), ovf := 0 }) := by
  have hsrc : u.copySrc c = .tile t1 a := by unfold State.copySrc; rw [h1]; rfl
  have hdst : u.copyDst c = .tile t2 b := by unfold State.copyDst; rw [h2]; rfl
  have hslice : (decide (dOp c.desc = 7) && dCrc c.desc) = false := by rw [ho]; rfl
  have hread : u.rdLoc ((Loc.tile t1 a).plus c.pos) n (bits c.word.toNat 17 15) = (u, .ok ((u.tile t1).rdBytes (a + c.pos) n)) := by
    unfold State.rdLoc
    by_cases hn : n = 0
    · rw [if_pos hn, hn]; rfl
    · rw [if_neg hn]
      unfold Loc.plus State.fencedLoc
      dsimp only
      rw [f1]
      rfl
  have hwrite : ∃ v : State, v.onlyStores u ∧ v.storesLocal u t2 (b + c.pos) n (fun i => some ((u.tile t1).rdByte (a + c.pos + i)))
      ∧ u.wrLoc ((Loc.tile t2 b).plus c.pos) ((u.tile t1).rdBytes (a + c.pos) n) c.hint c.who = (v, none) := by
    unfold State.wrLoc
    by_cases hn : n = 0
    · subst hn
      exact ⟨u, u.onlyStores_refl, State.storesLocal_nothing fun _ _ => rfl, if_pos rfl⟩
    · refine ⟨_, u.wrLocal_onlyStores t2 (b + c.pos) ((u.tile t1).rdBytes (a + c.pos) n),
        State.wrLocal_storesLocal _ _ _ _ (Tile.rdBytes_length ..) fun i hi => (Tile.rdBytes_getElem? _ _ hi).symm, ?_⟩
      rw [if_neg (by rw [List.isEmpty_iff_length_eq_zero, Tile.rdBytes_length]; exact hn)]
      unfold Loc.plus State.fencedLoc
      dsimp only
      rw [f2]
      rfl
  obtain ⟨v, hv, hstore, hw⟩ := hwrite
  refine ⟨v, hv, hstore, ?_⟩
  unfold State.grantRaw State.rdCopy
  rw [hsrc, hread]
  dsimp only
  unfold State.rawBytes State.rawOut
  rw [hdst]
  unfold Loc.plus
  dsimp only
  unfold State.grantOut
  dsimp only
  rw [hdst, hw, hslice]
  rfl

end

end

end Sys2Proof.Machine

/-! A copy that moves at its start or at a grant, and its completion (R184, R190, R200 to R203). -/

namespace Sys2Proof.Machine

section
variable {s u : State} {k : Nat} {x c : Copy} {rest : List Copy}

/-- A copy put back stands first where it stood first, done once it has reached COUNT. -/
theorem State.head_putCopy (hq : (u.chan k).queue = x :: rest) (hid : x.id = c.id) :
    ((u.putCopy k c).chan k).queue.head? = some { c with moved := decide (dCount c.desc ≤ c.pos) } := by
  unfold State.putCopy
  rw [State.chan_setChan, if_pos rfl]
  unfold Chan.setCopy
  dsimp only
  rw [hq, List.map_cons, List.head?_cons, if_pos hid]

section
variable {t1 a t2 b : Nat}

theorem State.copySrc_tile (h1 : s.form (dSrc c.desc) = some (.tile t1 a)) : s.copySrc c = .tile t1 a := by
  unfold State.copySrc
  rw [h1]
  rfl

theorem State.copyDst_tile (h2 : s.form (dDst c.desc) = some (.tile t2 b)) : s.copyDst c = .tile t2 b := by
  unfold State.copyDst
  rw [h2]
  rfl

theorem State.srcRemote_tile (h1 : s.form (dSrc c.desc) = some (.tile t1 a)) : s.srcRemote c = false := by
  unfold State.srcRemote
  rw [State.copySrc_tile h1]

variable (h1 : s.form (dSrc c.desc) = some (.tile t1 a)) (h2 : s.form (dDst c.desc) = some (.tile t2 b))
include h1 h2

theorem State.farDev_tiles : s.farDev c = none := by
  unfold State.farDev
  rw [State.copySrc_tile h1, State.copyDst_tile h2]

theorem State.copyFull_tiles : s.copyFull c = false := by
  unfold State.copyFull
  rw [State.farDev_tiles h1 h2, State.copyDst_tile h2]
  exact Bool.and_false _

end

/-! ## The start of a copy between tiles -/

theorem State.copySram_good (s : State) (x : Copy) : s.copySram x .good = s := by
  unfold State.copySram
  cases s.copySrc x <;> rfl

theorem State.copyStarts_good (s : State) (x : Copy) :
    s.copyStarts x .good = s.setTile x.tile ((s.tile x.tile).takeToken x.word.toNat) := State.copySram_good ..

/-- Taking a token changes no byte, no queue and no checker. -/
theorem State.bytesAs_copyStarts (s : State) (x : Copy) : (s.copyStarts x .good).bytesAs s := by
  rw [State.copyStarts_good]
  have hk := (s.tile x.tile).takeToken_keeps x.word.toNat
  refine ⟨fun w b => ?_, fun w => ?_, fun w => State.checkerOf_congr rfl rfl w⟩ <;> rw [State.tile_setTile]
  · split
    · subst_vars
      exact (congrArg (fun y : Tile => y.rdByte b) hk :)
    · rfl
  · split
    · subst_vars
      exact (congrArg Tile.ops hk :)
    · rfl

/-- In `t` bytes `[lo, hi)` of a copy between tiles have been moved, and all but channels, tiles, engines and free values is as in `s`. -/
def State.moved (t s : State) (t1 a t2 b lo hi : Nat) : Prop :=
  t.storesLocal s t2 (b + lo) (hi - lo) (fun i => some ((s.tile t1).rdByte (a + lo + i)))
    ∧ { t with chans := s.chans, tiles := s.tiles, engines := s.engines, free := s.free } = s

section
variable {t1 a t2 b : Nat} (hq : (s.chan k).queue = x :: rest) (h1 : s.form (dSrc x.desc) = some (.tile t1 a))
  (h2 : s.form (dDst x.desc) = some (.tile t2 b))
include hq h1 h2

/-- A copy between tiles that the engine serves, or of no unit, starts without a move. -/
theorem State.beginCopy_waits (hn : dCount x.desc = 0 ∨ dCrc x.desc = true) (hp : x.pos = 0) :
    let t := (s.copyStarts x .good).beginCopy k x.startedFrom
    (t.chan k).queue.head? = some { x.startedFrom with moved := decide (dCount x.desc = 0) }
      ∧ (∀ w, t.tile w = (s.copyStarts x .good).tile w) ∧ t.moved s t1 a t2 b 0 0 := by
  intro t
  have hs := s.copyStarts_good x
  have ht : t = (s.copyStarts x .good).putCopy k x.startedFrom := by
    by_cases h0 : dCount x.desc = 0
    · exact State.beginCopy_empty h0
    · have h1' : (s.copyStarts x .good).form (dSrc x.desc) = some (.tile t1 a) := by rw [hs]; exact h1
      have h2' : (s.copyStarts x .good).form (dDst x.desc) = some (.tile t2 b) := by rw [hs]; exact h2
      exact State.beginCopy_served h0 (State.farDev_tiles h1' h2') (State.srcRemote_tile h1') (.inr (hn.resolve_left h0))
  have hq' : ((s.copyStarts x .good).chan k).queue = x :: rest := by rw [hs]; exact hq
  obtain ⟨hb, -, -⟩ := s.bytesAs_copyStarts x
  refine ⟨?_, fun w => by rw [ht]; rfl, State.storesLocal_nothing fun w c => ?_, ?_⟩
  · rw [ht, State.head_putCopy (c := x.startedFrom) hq' rfl]
    have hd : (dCount x.startedFrom.desc ≤ x.startedFrom.pos) = (dCount x.desc = 0) := by
      show (dCount x.desc ≤ x.pos) = _
      rw [hp, Nat.le_zero]
    simp only [hd]
  · rw [ht]
    exact hb w c
  · rw [ht, hs]
    rfl

/-- A RAW copy between tiles in service, without a CRC, moves whole as it starts (log 36). -/
theorem State.beginCopy_moves (ho : dOp x.desc = 0) (hn : dCount x.desc ≠ 0) (hc : dCrc x.desc = false) (f1 : s.tileFenced t1 = false)
    (f2 : s.tileFenced t2 = false) (hp : x.pos = 0) (hout : x.out = 0) : let t := (s.copyStarts x .good).beginCopy k x.startedFrom
    ∃ y, (t.chan k).queue.head? = some y ∧ y.started = true ∧ y.desc = x.desc ∧ y.id = x.id ∧ y.wait = x.wait ∧ y.moved = true
      ∧ y.out = dCount x.desc ∧ (∀ w j, (t.tile w).token j = ((s.copyStarts x .good).tile w).token j)
      ∧ t.moved s t1 a t2 b 0 (dCount x.desc) := by
  intro t
  have hs := s.copyStarts_good x
  have h1' : (s.copyStarts x .good).form (dSrc x.desc) = some (.tile t1 a) := by rw [hs]; exact h1
  have h2' : (s.copyStarts x .good).form (dDst x.desc) = some (.tile t2 b) := by rw [hs]; exact h2
  have hq' : ((s.copyStarts x .good).chan k).queue = x :: rest := by rw [hs]; exact hq
  obtain ⟨v, ⟨hv, hvt⟩, hstore, hg⟩ := State.grantRaw_tiles (u := s.copyStarts x .good) (c := x.startedFrom) (n := dCount x.desc) ho h1' h2'
    (by rw [hs]; exact f1) (by rw [hs]; exact f2)
  have hgo := (State.beginCopy_raw (u := s.copyStarts x .good) (k := k) (c := x.startedFrom) hn (State.farDev_tiles h1' h2')
    (State.srcRemote_tile h1') ho hc).1
  generalize hy : x.startedFrom.moveOn (((s.copyStarts x .good).tile t1).rdBytes (a + x.startedFrom.pos) (dCount x.desc)) = y at hg
  have hlen : y.pos = dCount x.desc ∧ y.out = dCount x.desc := by
    subst hy
    unfold Copy.moveOn Copy.startedFrom
    dsimp only
    rw [Tile.rdBytes_length, hp, hout, Nat.zero_add]
    exact ⟨rfl, rfl⟩
  have ht : t = v.putCopy k y :=
    (hgo _ (congrArg Prod.snd hg)).trans (congrArg (fun u : State × Except GrantFault Grant => u.1.putCopy k y) hg)
  have hchan : v.chan k = (s.copyStarts x .good).chan k :=
    congrArg (fun m => SMap.get Chan.reset m k) (congrArg State.chans hv :)
  obtain ⟨hb, hops, hck⟩ := s.bytesAs_copyStarts x
  refine ⟨{ y with moved := decide (dCount y.desc ≤ y.pos) }, ?_, ?_, ?_, ?_, ?_, ?_, hlen.2, fun w j => ?_, ?_, ?_⟩
  · rw [ht]
    exact State.head_putCopy (by rw [hchan]; exact hq') (by rw [← hy]; rfl)
  iterate 4 rw [← hy]; rfl
  · show decide (dCount y.desc ≤ y.pos) = true
    rw [hlen.1, show y.desc = x.desc by rw [← hy]; rfl]
    exact decide_eq_true le_rfl
  · obtain ⟨m, hm⟩ := hvt w
    rw [ht]
    exact (congrArg (fun z : Tile => z.token j) hm :)
  · refine State.storesLocal_from ⟨hb, hops, hck⟩ (State.storesLocal_then (t := v) (fun w c => by rw [ht]; rfl) ?_)
    have hv0 : v.storesLocal (s.copyStarts x .good) t2 (b + 0) (dCount x.desc)
        (fun i => some (((s.copyStarts x .good).tile t1).rdByte (a + 0 + i))) := hp ▸ hstore
    simpa only [hb, Nat.sub_zero] using hv0
  · rw [ht]
    exact (congrArg (fun u : State => { u with chans := s.chans, tiles := s.tiles, engines := s.engines, free := s.free }) hv).trans
      (by rw [hs])

end

end

/-! ## A grant of the engine to a copy between tiles (R200, R201) -/

section
variable {s : State} {k : Nat} {x : Copy} {rest : List Copy}

theorem State.readOn_local (hq : (s.chan k).queue = x :: rest) (hr : s.srcRemote x = false) : s.readOn k = s := by
  unfold State.readOn
  dsimp only
  rw [hq]
  exact if_neg (by rw [hr, Bool.and_false]; exact Bool.false_ne_true)

/-- The state in which a grant is given: counted by its channel, and the engine's turn moved on. -/
def State.granting (s : State) (cl ch : Nat) : State :=
  State.setChan { s with engines := SMap.set 0 s.engines cl (ch + 1) } (16 * cl + ch)
    { s.chan (16 * cl + ch) with grants := satTo 64 ((s.chan (16 * cl + ch)).grants + 1) }

/-- What a grant comes to once its read of a tile store is done. -/
def State.grantIn (u : State) (k : Nat) (x : Copy) : State :=
  if u.draining || !((u.chan k).queue.any fun y => decide (y.id = x.id)) then u
  else match (u.grant x).2 with
    | .error f => (u.grant x).1.copyFault k { x with out := f.2 } f.1
    | .ok g => State.readOn (State.putCopy ((u.grant x).1.setChan k
        { (u.grant x).1.chan k with ovf := satTo 32 (((u.grant x).1.chan k).ovf + g.ovf) }) k g.copy) k

theorem State.grantChan_good (s : State) (cl ch : Nat) (x : Copy) :
    State.grantChan { s with engines := SMap.set 0 s.engines cl (ch + 1) } (16 * cl + ch) x .good
      = (s.granting cl ch).grantIn (16 * cl + ch) x := by
  rw [← State.copySram_good (s.granting cl ch) x]
  rfl

section
variable {cl ch t1 a t2 b : Nat} (hq : (s.chan (16 * cl + ch)).queue = x :: rest) (h1 : s.form (dSrc x.desc) = some (.tile t1 a))
  (hd : s.draining = false) (ho : dOp x.desc = 0) (hg : x.gateway = false)
include hq h1 hd ho hg

/-- A grant to a RAW copy between tiles is a RAW grant of at most 256 bytes. -/
theorem State.grantChan_raw {v : State} {y : Copy}
    (hr : (s.granting cl ch).grantRaw x (min 256 (dCount x.desc - x.pos)) = (v, .ok { copy := y, ovf := 0 })) :
    State.grantChan { s with engines := SMap.set 0 s.engines cl (ch + 1) } (16 * cl + ch) x .good
      = ((v.setChan (16 * cl + ch) { v.chan (16 * cl + ch) with ovf := satTo 32 ((v.chan (16 * cl + ch)).ovf + 0) }).putCopy
          (16 * cl + ch) y).readOn (16 * cl + ch) := by
  have hqueue : ((s.granting cl ch).chan (16 * cl + ch)).queue = x :: rest := by
    unfold State.granting
    rw [State.chan_setChan, if_pos rfl]
    exact hq
  have hgrant : (s.granting cl ch).grant x = (v, .ok { copy := y, ovf := 0 }) := by
    rw [← hr]
    unfold State.grant
    rw [ho]
    dsimp only
    unfold State.grantCrc
    rw [State.srcRemote_tile (s := s.granting cl ch) h1, hg, if_neg Bool.false_ne_true]
    rfl
  have hd' : (s.granting cl ch).draining = false := hd
  rw [State.grantChan_good]
  unfold State.grantIn
  rw [hqueue, List.any_cons, decide_eq_true rfl, hd', hgrant]
  rfl

/-- So up to 256 bytes move, the CRC takes them in, and the grant is counted (R200, R201). -/
theorem State.grantChan_moves (h2 : s.form (dDst x.desc) = some (.tile t2 b)) (hc : dCrc x.desc = true) (f1 : s.tileFenced t1 = false)
    (f2 : s.tileFenced t2 = false) :
    let t := State.grantChan { s with engines := SMap.set 0 s.engines cl (ch + 1) } (16 * cl + ch) x .good
    let m := min 256 (dCount x.desc - x.pos)
    ∃ y, (t.chan (16 * cl + ch)).queue.head? = some y ∧ t.moved s t1 a t2 b x.pos (x.pos + m) ∧ y.pos = x.pos + m ∧ y.out = x.out + m
      ∧ y.moved = decide (dCount x.desc ≤ x.pos + m) ∧ y.crc = crcOver x.crc ((s.tile t1).rdBytes (a + x.pos) m)
      ∧ SMap.get 0 t.engines cl = ch + 1
      ∧ (t.chan (16 * cl + ch)).grants = min (2 ^ 64 - 1) ((s.chan (16 * cl + ch)).grants + 1) := by
  intro t m
  obtain ⟨v, ⟨hv, hvt⟩, hstore, hr⟩ := State.grantRaw_tiles (u := s.granting cl ch) (c := x) (n := m) ho h1 h2 f1 f2
  generalize hy : x.moveOn (((s.granting cl ch).tile t1).rdBytes (a + x.pos) m) = y at hr
  have hlen : (((s.granting cl ch).tile t1).rdBytes (a + x.pos) m).length = m := Tile.rdBytes_length ..
  have hpos : y.pos = x.pos + m := by rw [← hy]; exact congrArg (x.pos + ·) hlen
  have hdesc : y.desc = x.desc := by rw [← hy]; rfl
  have hchan : v.chan (16 * cl + ch) = (s.granting cl ch).chan (16 * cl + ch) :=
    congrArg (fun n => SMap.get Chan.reset n (16 * cl + ch)) (congrArg State.chans hv :)
  have hregs : v.regs = s.regs := (congrArg State.regs hv :)
  obtain ⟨w, hw⟩ : ∃ w : State, w = v.setChan (16 * cl + ch)
      { v.chan (16 * cl + ch) with ovf := satTo 32 ((v.chan (16 * cl + ch)).ovf + 0) } := ⟨_, rfl⟩
  have hwq : (w.chan (16 * cl + ch)).queue = x :: rest := by
    rw [hw, State.chan_setChan, if_pos rfl, hchan]
    unfold State.granting
    rw [State.chan_setChan, if_pos rfl]
    exact hq
  have hhead := State.head_putCopy (u := w) (c := y) hwq (by rw [← hy]; rfl)
  obtain ⟨l, hl⟩ := List.head?_eq_some_iff.1 hhead
  have ht : t = w.putCopy (16 * cl + ch) y := by
    rw [← State.readOn_local (s := w.putCopy (16 * cl + ch) y) hl (State.srcRemote_tile (t1 := t1) (a := a) ?_), hw]
    · exact State.grantChan_raw hq h1 hd ho hg hr
    · rw [show ({ y with moved := decide (dCount y.desc ≤ y.pos) } : Copy).desc = x.desc from hdesc, ← h1]
      refine State.form_congr ?_ _
      rw [← hregs, hw]
      rfl
  refine ⟨{ y with moved := decide (dCount y.desc ≤ y.pos) }, by rw [ht]; exact hhead, ⟨?_, ?_⟩, hpos, ?_, ?_, ?_, ?_, ?_⟩
  · rw [Nat.add_sub_cancel_left]
    refine State.storesLocal_from ⟨fun _ _ => rfl, fun _ => rfl, fun u => State.checkerOf_congr rfl rfl u⟩
      (State.storesLocal_then (t := v) (fun u c => ?_) hstore)
    rw [ht, hw]
    rfl
  · rw [ht, hw]
    exact congrArg (fun u : State => { u with chans := s.chans, tiles := s.tiles, engines := s.engines, free := s.free }) hv
  · rw [← hy]; exact congrArg (x.out + ·) hlen
  · show decide (dCount y.desc ≤ y.pos) = _
    rw [hpos, hdesc]
  · rw [← hy]
    exact if_pos hc
  · have he : t.engines = SMap.set 0 s.engines cl (ch + 1) := by
      rw [ht, hw]
      exact (congrArg State.engines hv :)
    rw [he, SMap.get_set, if_pos rfl]
  · have hgr : (t.chan (16 * cl + ch)).grants = (v.chan (16 * cl + ch)).grants := by
      rw [ht]
      unfold State.putCopy
      rw [State.chan_setChan, if_pos rfl, hw, State.chan_setChan, if_pos rfl]
      rfl
    rw [hgr, hchan]
    unfold State.granting satTo
    rw [State.chan_setChan, if_pos rfl]
    exact Nat.min_comm ..

end

end

end Sys2Proof.Machine

/-! The completion of a copy (R190, R203). -/

namespace Sys2Proof.Machine

section
variable {s u : State} {k : Nat} {x c : Copy} {rest : List Copy}

/-- Once its CRC word is stored and its arrival sent, a copy leaves its channel and signals its token. -/
def State.copyLeaves (u : State) (k : Nat) (c : Copy) : State :=
  let w := u.setChan k { u.chan k with queue := (u.chan k).queue.filter (fun y => decide (y.id ≠ c.id)), lastst := c.status, out := c.out }
  (w.setTile c.tile ((u.tile c.tile).signal c.word.toNat)).settleFlush c.tile c.ctx

theorem State.mem_rops_settleFlush (s : State) (v : Nat) (e : Ctxt) {o : ROp} (ho : o ∈ s.rops) : o ∈ (s.settleFlush v e).rops := by
  refine State.mem_rops_sends ((s.settle v e).flushArrives_sends v e) ?_
  have hr : (s.settle v e).rops = s.rops := (congrArg State.rops (s.settle_frame v e) :)
  show o ∈ (s.settle v e).rops
  rw [hr]
  exact ho

/-- What that leaves. -/
theorem State.copyLeaves_spec (u : State) (k : Nat) (c : Copy) : let t := u.copyLeaves k c
    t.regs = u.regs ∧ t.mem = u.mem ∧ t.chan k = { u.chan k with
        queue := (u.chan k).queue.filter (fun y => decide (y.id ≠ c.id)), lastst := c.status, out := c.out }
      ∧ (∀ w b, (t.tile w).rdByte b = (u.tile w).rdByte b)
      ∧ (∀ j, (t.tile c.tile).token j = if sigTok c.word.toNat = some j then (u.tile c.tile).token j + 1 else (u.tile c.tile).token j)
      ∧ (∀ o ∈ u.rops, o ∈ t.rops) ∧ ((u.ctx c.tile c.ctx).arrives = [] → t.arrivals = u.arrivals) := by
  intro t
  obtain ⟨w, hw⟩ : ∃ w : State, w = State.setTile (u.setChan k { u.chan k with
    queue := (u.chan k).queue.filter (fun y => decide (y.id ≠ c.id)), lastst := c.status, out := c.out }) c.tile
      ((u.tile c.tile).signal c.word.toNat) := ⟨_, rfl⟩
  have ht : t = w.settleFlush c.tile c.ctx := by rw [hw]; rfl
  have hf := w.settleFlush_frame c.tile c.ctx
  have hkeeps := (u.tile c.tile).signal_keeps c.word.toNat
  have hwt : ∀ v, w.tile v = if v = c.tile then (u.tile c.tile).signal c.word.toNat else u.tile v := fun v => by
    rw [hw, State.tile_setTile]
    rfl
  obtain ⟨y, hty, -⟩ := w.tile_settleFlush c.tile c.ctx
  obtain ⟨-, htok, hb⟩ := Tile.setCtx_keeps (w.tile c.tile) c.ctx y
  rw [ht]
  refine ⟨(congrArg State.regs hf :).trans (by rw [hw]; rfl), (congrArg State.mem hf :).trans (by rw [hw]; rfl), ?_, fun v b => ?_,
    fun j => ?_, fun o ho => State.mem_rops_settleFlush _ _ _ (by rw [hw]; exact ho), fun ha => ?_⟩
  · refine (congrArg (fun m => SMap.get Chan.reset m k) (congrArg State.chans hf :)).trans ?_
    show w.chan k = _
    rw [hw]
    exact (State.chan_setChan ..).trans (if_pos rfl)
  · by_cases hv : v = c.tile
    · rw [hv, hty, hb, hwt, if_pos rfl]
      exact (congrArg (fun z : Tile => z.rdByte b) hkeeps :)
    · rw [State.tile_settleFlush_other hv, hwt, if_neg hv]
  · rw [hty, htok, hwt, if_pos rfl, Tile.token_signal]
  · have hx : (w.ctx c.tile c.ctx).arrives = [] := by
      unfold State.ctx
      rw [hwt, if_pos rfl, ← ha]
      unfold State.ctx
      cases c.ctx
      · exact (congrArg (fun z : Tile => z.ctxF.arrives) hkeeps :)
      · exact (congrArg (fun z : Tile => z.ctxL.arrives) hkeeps :)
    exact (congrArg State.arrivals (State.settleFlush_keeps hx) :).trans (by rw [hw]; rfl)

/-- The CRC word of a copy, stored where its descriptor asks for it (R190). -/
def State.crcStored (s : State) (c : Copy) : State :=
  if dCrcWr c.desc && decide (0 < dCount c.desc) then s.wrLocal c.tile (dCrcAddr c.desc) (leBytes 4 c.crcValue) else s

theorem State.crcStored_spec (s : State) (c : Copy) : (s.crcStored c).onlyStores s
    ∧ (s.crcStored c).storesLocal s c.tile (dCrcAddr c.desc) (if dCrcWr c.desc = true ∧ 0 < dCount c.desc then 4 else 0)
        (fun i => some (BitVec.ofNat 8 (c.crcValue / 2 ^ (8 * i)))) := by
  unfold State.crcStored
  by_cases hc : dCrcWr c.desc = true ∧ 0 < dCount c.desc
  · rw [if_pos hc, if_pos (by rw [hc.1, decide_eq_true hc.2]; rfl)]
    exact ⟨s.wrLocal_onlyStores .., State.wrLocal_storesLocal _ _ _ _ (leBytes_length ..) fun i hi => (leBytes_getElem? _ hi).symm⟩
  · rw [if_neg hc, if_neg (by simpa using hc)]
    exact ⟨s.onlyStores_refl, State.storesLocal_nothing fun _ _ => rfl⟩

/-- CHCRC of a copy that computes one (R203). -/
def State.crcShown (u : State) (k : Nat) (c : Copy) : State :=
  if dCrc c.desc then u.setChan k { u.chan k with crc := c.crcValue } else u

theorem State.crcShown_spec (u : State) (k : Nat) (c : Copy) : { u.crcShown k c with chans := u.chans } = u
    ∧ (u.crcShown k c).chan k = { u.chan k with crc := if dCrc c.desc then c.crcValue else (u.chan k).crc } := by
  unfold State.crcShown
  cases dCrc c.desc with
  | true => exact ⟨rfl, (State.chan_setChan ..).trans (if_pos rfl)⟩
  | false => exact ⟨rfl, rfl⟩

/-- The arrival of a copy that asks for one (R47, R203). -/
def State.copyArrives (u : State) (k : Nat) (c : Copy) : State :=
  if dArr c.desc then u.sendArrival (clusterEp (k / 16)) .engine (u.copyArrival c) else u

theorem State.copyArrives_sends (u : State) (k : Nat) (c : Copy) : (u.copyArrives k c).sends u := by
  unfold State.copyArrives
  split
  · exact u.sendArrival_sends ..
  · exact u.sends_refl

/-- A copy that overflows no token is done: CRC word, CHCRC, arrival, then channel and token (R203). -/
theorem State.copyDone_ok (hv : (s.tile c.tile).overflows c.word.toNat = false) :
    s.copyDone k c = (((s.crcStored c).crcShown k c).copyArrives k c).copyLeaves k c := by
  obtain ⟨hs, -⟩ := s.crcStored_spec c
  obtain ⟨m, hm⟩ := hs.2 c.tile
  have htile : (((s.crcStored c).crcShown k c).copyArrives k c).tile c.tile = (s.crcStored c).tile c.tile := by
    have h1 := State.sends_tiles (((s.crcStored c).crcShown k c).copyArrives_sends k c)
    have h2 : ((s.crcStored c).crcShown k c).tiles = (s.crcStored c).tiles :=
      (congrArg State.tiles ((s.crcStored c).crcShown_spec k c).1 :)
    unfold State.tile
    rw [h1, h2]
  have hover : ((((s.crcStored c).crcShown k c).copyArrives k c).tile c.tile).overflows c.word.toNat = false := by
    rw [htile, hm]
    exact hv
  unfold State.copyDone
  exact if_neg (by
    show ¬ ((((s.crcStored c).crcShown k c).copyArrives k c).tile c.tile).overflows c.word.toNat = true
    rw [hover]
    exact Bool.false_ne_true)

theorem State.isOwn_congr {t : State} (hr : t.regs = s.regs) (d : Nat) : t.isOwn d = s.isOwn d := by
  unfold State.isOwn State.dev
  simp only [State.get_congr hr]

/-- A copy's arrival goes to another module where its descriptor names one (R203). -/
theorem State.copyArrives_away (ha : dArr c.desc = true) (hrem : dCrem c.desc = true) (hown : u.isOwn (dCdev c.desc) = false) :
    ∃ o ∈ (u.copyArrives k c).rops, o.kind = .arrive ∧ o.dev = dCdev c.desc
      ∧ o.addr = dCnum c.desc + dEpoch c.desc * 2 ^ 16 + (if dCount c.desc = 0 then 0 else dIncr c.desc) * 2 ^ 20 := by
  have hdev : (u.copyArrival c).dev = some (dCdev c.desc) := if_pos (by rw [hrem, hown]; rfl)
  obtain ⟨r, hr, hk, hd, hadr, -⟩ := u.sendArrival_away (clusterEp (k / 16)) .engine hdev
  refine ⟨u.issued r, ?_, hk, hd, hadr⟩
  unfold State.copyArrives
  rw [if_pos ha, hr, State.sendRop_rops]
  exact List.mem_append_right _ (List.mem_singleton.2 rfl)

/-- Else it is the module's own. -/
theorem State.copyArrives_home (hn : ¬ (dArr c.desc = true ∧ dCrem c.desc = true ∧ u.isOwn (dCdev c.desc) = false)) :
    (u.copyArrives k c).arrivals = u.arrivals ++ (if dArr c.desc then
      [{ id := u.nextId, dev := none, cnum := dCnum c.desc, inc := if dCount c.desc = 0 then 0 else dIncr c.desc,
         epoch := dEpoch c.desc, anyEpoch := false, unit := c.tile, fromDev := 0, pc := 0, who := none }] else []) := by
  unfold State.copyArrives
  by_cases ha : dArr c.desc = true
  · have hdev : (u.copyArrival c).dev = none := if_neg (by simpa [ha] using hn)
    rw [if_pos ha, if_pos ha, u.sendArrival_home _ _ hdev]
    unfold State.copyArrival at hdev ⊢
    dsimp only at hdev ⊢
    rw [hdev]
  · rw [if_neg ha, if_neg ha, List.append_nil]

/-- What a completed copy leaves (R47, R190, R203). -/
theorem State.copyDone_spec (hv : (s.tile c.tile).overflows c.word.toNat = false) : let t := s.copyDone k c
    let away := dCrem c.desc = true ∧ s.isOwn (dCdev c.desc) = false
    let inc := if dCount c.desc = 0 then 0 else dIncr c.desc
    t.regs = s.regs ∧ t.mem = s.mem
      ∧ t.chan k = { s.chan k with queue := (s.chan k).queue.filter (fun y => decide (y.id ≠ c.id)), lastst := c.status, out := c.out,
                                   crc := if dCrc c.desc then c.crcValue else (s.chan k).crc }
      ∧ t.storesLocal s c.tile (dCrcAddr c.desc) (if dCrcWr c.desc = true ∧ 0 < dCount c.desc then 4 else 0)
          (fun i => some (BitVec.ofNat 8 (c.crcValue / 2 ^ (8 * i))))
      ∧ (∀ j, (t.tile c.tile).token j = if sigTok c.word.toNat = some j then (s.tile c.tile).token j + 1 else (s.tile c.tile).token j)
      ∧ (dArr c.desc = true → away → ∃ o ∈ t.rops, o.kind = .arrive ∧ o.dev = dCdev c.desc
          ∧ o.addr = dCnum c.desc + dEpoch c.desc * 2 ^ 16 + inc * 2 ^ 20)
      ∧ (¬ (dArr c.desc = true ∧ away) → (s.ctx c.tile c.ctx).arrives = [] → t.arrivals = s.arrivals ++ (if dArr c.desc then
          [{ id := s.nextId, dev := none, cnum := dCnum c.desc, inc := inc, epoch := dEpoch c.desc, anyEpoch := false,
             unit := c.tile, fromDev := 0, pc := 0, who := none }] else [])) := by
  intro t away inc
  obtain ⟨hs, hstore⟩ := s.crcStored_spec c
  obtain ⟨hshown, hcrc⟩ := (s.crcStored c).crcShown_spec k c
  obtain ⟨m, hm⟩ := hs.2 c.tile
  have hsent := ((s.crcStored c).crcShown k c).copyArrives_sends k c
  have hsf := State.sends_frame hsent
  have ht : t = (((s.crcStored c).crcShown k c).copyArrives k c).copyLeaves k c := State.copyDone_ok hv
  obtain ⟨hregs, hmem, hchan, hb, htok, hrops, harr⟩ := (((s.crcStored c).crcShown k c).copyArrives k c).copyLeaves_spec k c
  have hf := (congrArg (fun u : State => { u with chans := s.chans, tiles := s.tiles, free := s.free }) hshown).trans
    (congrArg (fun u : State => { u with chans := s.chans }) hs.1)
  have hregs1 : ((s.crcStored c).crcShown k c).regs = s.regs := (congrArg State.regs hf :)
  have htile : ∀ w, (((s.crcStored c).crcShown k c).copyArrives k c).tile w = (s.crcStored c).tile w := fun w => by
    have h1 := State.sends_tiles hsent
    have h2 : ((s.crcStored c).crcShown k c).tiles = (s.crcStored c).tiles := (congrArg State.tiles hshown :)
    unfold State.tile
    rw [h1, h2]
  rw [ht]
  refine ⟨hregs.trans ((congrArg State.regs hsf :).trans hregs1), hmem.trans ((congrArg State.mem hsf :).trans (congrArg State.mem hf :)),
    hchan.trans ?_, State.storesLocal_then (fun w b => (hb w b).trans (by rw [htile])) hstore, fun j => (htok j).trans ?_,
    fun ha haway => ?_, fun hn hx => ?_⟩
  · have h3 : (((s.crcStored c).crcShown k c).copyArrives k c).chan k = ((s.crcStored c).crcShown k c).chan k :=
      congrArg (fun n => SMap.get Chan.reset n k) (congrArg State.chans hsf :)
    have h0 : (s.crcStored c).chan k = s.chan k := congrArg (fun n => SMap.get Chan.reset n k) (congrArg State.chans hs.1 :)
    rw [h3, hcrc, h0]
  · rw [htile, hm]
    rfl
  · obtain ⟨o, ho, hspec⟩ := State.copyArrives_away (u := (s.crcStored c).crcShown k c) (k := k) ha haway.1
      ((State.isOwn_congr hregs1 _).trans haway.2)
    exact ⟨o, hrops o ho, hspec⟩
  · have hx' : ((((s.crcStored c).crcShown k c).copyArrives k c).ctx c.tile c.ctx).arrives = [] := by
      rw [← hx]
      unfold State.ctx
      rw [htile, hm]
      cases c.ctx <;> rfl
    have hid : ((s.crcStored c).crcShown k c).nextId = s.nextId := (congrArg State.nextId hf :)
    have har : ((s.crcStored c).crcShown k c).arrivals = s.arrivals := (congrArg State.arrivals hf :)
    have hhome := State.copyArrives_home (u := (s.crcStored c).crcShown k c) (k := k) (c := c)
      (by rw [State.isOwn_congr hregs1]; exact hn)
    rw [hid, har] at hhome
    exact (harr hx').trans hhome

end

section
variable {s : State} {cl ch : Nat} {x : Copy} {rest : List Copy}

theorem copyComplete_done (hcl : cl < Config.clusters) (hch : ch < 16) (hq : (s.chan (16 * cl + ch)).queue = x :: rest)
    (hs : x.started = true) (hm : x.moved = true) (hw : x.wait = 0) :
    exec (.copyComplete cl ch) s = .next (s.copyDone (16 * cl + ch) x) := by
  refine (if_pos hcl).trans ((if_pos hch).trans (congrArg Host.Outcome.next ?_))
  dsimp only
  rw [hq]
  exact if_pos (by rw [hs, hm, hw]; rfl)

end

/-! ## The obligation -/

/-- Settles O26: a start by what its copy is, a move between tiles by its bytes, the engine by its turn, a completion by its parts. -/
theorem copyRuns : Obligations.CopyRuns := by
  unfold Obligations.CopyRuns
  intro cl ch x rest s k n tl hcl hch hq
  refine ⟨fun t1 a t2 b ho h1 h2 f1 f2 hd hact => ?_, fun sram hsram hs hh hd hact ht hfar hfull => ?_,
    fun sram last hlast hl hd hact => ?_, fun hs hm hw hv => ?_⟩
  · intro moves
    refine ⟨fun hs hh ht hp hout => ?_, fun last hlast hx hc hl hb => ?_⟩
    · have hrun : exec (.copyStart cl ch .good) s = .next ((s.copyStarts x .good).beginCopy k x.startedFrom) :=
        (copyStart_starts (sram := .good) hcl hch hq hs hh hd hact ht (State.copyFull_tiles h1 h2)).trans
          (congrArg Host.Outcome.next (State.startCopy_begin hq hd (by decide)))
      have htok : ∀ j, ((s.copyStarts x .good).tile x.tile).token j
          = if waitTok x.word.toNat = some j then tl.token j - 1 else tl.token j := fun j => by
        rw [State.copyStarts_good, State.tile_setTile, if_pos rfl, Tile.token_takeToken]
      by_cases hmv : n ≠ 0 ∧ dCrc x.desc = false
      · obtain ⟨hn, hc⟩ := hmv
        obtain ⟨y, hy, hst, hdesc, hid, hwait, hmoved, hyout, htok', hm⟩ := State.beginCopy_moves hq h1 h2 ho hn hc f1 f2 hp hout
        exact ⟨_, y, hrun, hy, fun j => (htok' _ j).trans (htok j), hst, hdesc, hid, hwait, fun _ => ⟨hm, hmoved, hyout⟩,
          fun hc' => absurd (hc.symm.trans hc') Bool.false_ne_true⟩
      · have hn : n = 0 ∨ dCrc x.desc = true := by
          by_cases h0 : n = 0
          · exact .inl h0
          · exact .inr (Bool.eq_true_of_not_eq_false fun hc => hmv ⟨h0, hc⟩)
        obtain ⟨hy, htile, hm⟩ := State.beginCopy_waits hq h1 h2 hn hp
        refine ⟨_, _, hrun, hy, fun j => by rw [htile]; exact htok j, rfl, rfl, rfl, rfl, fun hc => ?_, fun _ => ⟨hm, rfl, rfl, hp⟩⟩
        have h0 : n = 0 := hn.resolve_right (by rw [hc]; exact Bool.false_ne_true)
        rw [h0]
        exact ⟨hm, decide_eq_true h0, hout⟩
    · intro m hg
      subst hlast
      obtain ⟨y, hy⟩ := State.grantChan_moves hq h1 hd ho hg h2 hc f1 f2
      exact ⟨_, y, engineGrant_serves hcl hd hact hl hch hx hb, hy⟩
  · intro c u answers
    have hf : s.copyFull x = false := by
      unfold State.copyFull
      cases hdev : s.farDev x with
      | some d => exact decide_eq_false (Nat.not_le.2 (hfar d hdev))
      | none =>
        by_cases hraw : dOp x.desc = 0 ∧ dCrc x.desc = false
        · dsimp only
          rw [hfull hdev hraw.1 hraw.2, Bool.and_false]
        · dsimp only
          rw [show (decide (dOp x.desc = 0) && !dCrc x.desc) = false by simpa using hraw, Bool.false_and]
    have hrun : exec (.copyStart cl ch sram) s = .next (u.beginCopy k c) :=
      (copyStart_starts hcl hch hq hs hh hd hact ht hf).trans (congrArg Host.Outcome.next (State.startCopy_begin hq hd hsram))
    refine ⟨fun h0 => ?_, fun h0 hu => ?_, fun h0 hu hr => ?_, fun h0 hu hr ho => ?_, fun h0 hu hr ho hc => ⟨fun g hg => ?_, fun f hf => ?_⟩⟩
    · exact hrun.trans (congrArg Host.Outcome.next (State.beginCopy_empty h0))
    · exact hrun.trans (congrArg Host.Outcome.next (State.beginCopy_far h0 hu))
    · exact hrun.trans (congrArg Host.Outcome.next (State.beginCopy_remote h0 hu hr))
    · exact hrun.trans (congrArg Host.Outcome.next (State.beginCopy_served h0 hu hr ho))
    · exact hrun.trans (congrArg Host.Outcome.next ((State.beginCopy_raw (c := c) h0 hu hr ho hc).1 g hg))
    · exact hrun.trans (congrArg Host.Outcome.next ((State.beginCopy_raw (c := c) h0 hu hr ho hc).2 f hf))
  · subst hlast
    exact ⟨fun hx hb => engineGrant_serves hcl hd hact hl hch hx hb, fun p hp hb => engineGrant_puts hcl hd hact hl hp hb⟩
  · exact ⟨_, copyComplete_done hcl hch hq hs hm hw, State.copyDone_spec hv⟩

end Sys2Proof.Machine

/-! A pause that lands in another register: a state with more removed slots than the module has tiles (R372, R398). -/

namespace Sys2Proof.Machine

section
variable {s : State} {v : Nat} {o : UOp}

/-- Rows of one kind that the balance does not cover leave some over, and a pause is counted at their compute die (R372). -/
theorem State.takeRows_short {k n : Nat} (ho : (s.tile v).inRows = some o) (hd : o.due = [(k, n)])
    (hc : (s.tile v).credit < n * s.chargeOf v k) : ∃ u : State, u.regs = s.regs ∧ s.takeRows v = u.bump F.PAUSECNT_PAUSES (s.cdieOf v) 1 := by
  have hr : (rowsCovered (s.chargeOf v) (s.tile v).credit o.due).2 ≠ [] := by
    rw [hd, rowsCovered, if_neg (Nat.not_le.2 hc)]
    exact List.cons_ne_nil _ _
  unfold State.takeRows
  rw [ho]
  dsimp only
  rw [if_neg hr]
  refine ⟨_, ?_, rfl⟩
  rfl

/-- The charge of an mclear: its rows at entry 5 of Table 14-1. -/
theorem State.payRows_clear {x : MArgs} {p : UOp} {n : Nat} (ho : (s.tile v).op o.seq = some p) (hop : x.op = 4) (hrows : x.rows = n) :
    s.payRows v o x = (s.setTile v ((s.tile v).setOp { p with inBytes := x.inBytes, outBytes := x.outBytes, due := [(5, n)] })).takeRows v := by
  have hdue : ∀ crust, x.charges (x.prescans (s.tile v)) (decide (x.op ≤ 1) && crust) = [(5, n)] := by
    intro crust
    have hos : x.os = false := by unfold MArgs.os; rw [hop]; rfl
    have hkey : x.rowKey = 5 := by unfold MArgs.rowKey; rw [hop]; rfl
    unfold MArgs.charges MArgs.prescans
    rw [hos, hkey, hop, hrows]
    rfl
  unfold State.payRows
  dsimp only
  rw [ho, hdue]

/-- The registers after an mclear starts are those after its rows were charged. -/
theorem State.startM_clear_regs {ev : UnitEvent} (hs : (s.tile v).startable o = true) (hf : s.matrixFenced v = false) (hr : ev.sram = .good)
    (hop : (MArgs.of s o).op = 4) (hrows : (MArgs.of s o).rows ≠ 0) :
    (s.startM v o ev).regs = ((s.markStarted v o).payRows v o (MArgs.of s o)).regs := by
  have hrun : State.runM (((s.markStarted v o).payRows v o (MArgs.of s o)).sramNote v ev.sram) v (MArgs.of s o) o.exps ev
      = (((s.markStarted v o).payRows v o (MArgs.of s o)).runClear v (MArgs.of s o), none) := by
    unfold State.runM
    rw [if_neg hrows, hop, hr]
    rfl
  have hregs : (((s.markStarted v o).payRows v o (MArgs.of s o)).runClear v (MArgs.of s o)).regs
      = ((s.markStarted v o).payRows v o (MArgs.of s o)).regs := (congrArg State.regs (State.putLocal_onlyStores _ _ _ _).1 :)
  rw [← hregs]
  unfold State.startM
  dsimp only
  rw [hs, hf, hop, if_neg (by simp), if_neg (by simp), if_neg (by simp [hr]), if_neg (by simp), if_neg (by simp), hrun]
  dsimp only
  split
  · split <;> rfl
  · rfl

end

/-! ## The state -/

/-- The slots before the first one of compute die 2^24, which the module does not have. -/
def straySlots : Nat := Config.tilesPerCluster * 16 * 2 ^ 24

/-- mclear of one row of accumulator store, alone in the array's queue of tile 0. -/
def strayClear : UOp :=
  { seq := 0, ctx := .F, pc := 0, unit := .matrix, word := BitVec.ofNat 64 (encM 4 ⟨0, .F, 0, false, []⟩ ⟨0, 0, 1, 2, 3, 1, 0, 17, 0⟩),
    va := 0, vb := 0, vc := 0x180000, mask := 0, started := false, consumed := false, before := [], wait := 0, cancelled := false,
    exps := [], inBytes := [], outBytes := [], due := [] }

/-- The reset state with that mclear queued, no balance at tile 0, and `straySlots` slots removed before it: the numbering of R398 puts
tile 0 on compute die 2^24. -/
def strayState : State :=
  { State.reset.setTile 0 { Tile.reset with ops := [strayClear], seq := 1, credit := 0 } with removed := List.replicate straySlots 0 }

theorem foldl_removed (n t : Nat) : (List.replicate n 0).foldl (fun u r => if r ≤ u then u + 1 else u) t = t + n := by
  induction n generalizing t with
  | zero => rfl
  | succ n ih =>
    rw [List.replicate_succ, List.foldl_cons, if_pos (Nat.zero_le t), ih]
    omega

/-- A state with those slots removed has its tile 0 there. -/
theorem State.cdieOf_stray {s : State} (h : s.removed = List.replicate straySlots 0) : s.cdieOf 0 = 2 ^ 24 := by
  unfold State.cdieOf State.clusterOf State.slotOf
  rw [h, foldl_removed]
  rfl

theorem bit_zero (i : Nat) : bit 0 i = false := by
  unfold bit
  rw [Nat.zero_div]
  rfl

theorem strayState_unfenced : strayState.tileFenced 0 = false ∧ strayState.matrixFenced 0 = false := by
  have hcl : strayState.reg .FENCECL 0 = 0 := by decide +kernel
  have htl : strayState.reg .FENCETILE 0 = 0 := by decide +kernel
  have har : strayState.reg .FENCEARR 0 = 0 := by decide +kernel
  have hlevel : strayState.get F.CRUSTCFG_LEVEL 0 ≠ 3 := by decide +kernel
  have hck : strayState.checkerOf 0 = none := if_neg fun h => hlevel h.1
  constructor
  · show (bit (strayState.reg .FENCETILE 0) 0 || bit (strayState.reg .FENCECL 0) (strayState.clusterOf 0)) = false
    rw [htl, hcl, bit_zero, bit_zero]
    rfl
  · unfold State.matrixFenced
    rw [hck]
    show (bit (strayState.reg .FENCEARR 0) 0 || false) = false
    rw [har, bit_zero]
    rfl

theorem strayClear_args : (MArgs.of strayState strayClear).op = 4 ∧ (MArgs.of strayState strayClear).rows = 1 := by decide +kernel

theorem strayState_startable : (strayState.tile 0).op 0 = some strayClear ∧ (strayState.tile 0).startable strayClear = true
    ∧ strayState.draining = false ∧ strayState.active = true := by
  decide +kernel

/-- The mclear as it stands in its queue once it has started, its row not yet charged. -/
def strayQueued : UOp :=
  { strayState.marked 0 strayClear with
    inBytes := (MArgs.of strayState strayClear).inBytes, outBytes := (MArgs.of strayState strayClear).outBytes, due := [(5, 1)] }

def strayStarted : State :=
  let s := strayState.markStarted 0 strayClear
  s.setTile 0 ((s.tile 0).setOp strayQueued)

theorem strayState_payRows : (strayState.markStarted 0 strayClear).payRows 0 strayClear (MArgs.of strayState strayClear)
    = strayStarted.takeRows 0 := by
  obtain ⟨hop, -⟩ := strayState_startable
  obtain ⟨h4, h1⟩ := strayClear_args
  exact State.payRows_clear (State.op_markStarted hop) h4 h1

/-- The balance covers no row. -/
theorem strayStarted_short : (strayStarted.tile 0).credit < 1 * strayStarted.chargeOf 0 5 := by
  unfold State.chargeOf
  rw [State.cdieOf_stray (s := strayStarted) rfl]
  decide +kernel

/-- So the start counts a pause at compute die 2^24, among registers as they were. -/
theorem strayState_paused : ∃ u : State, u.regs = strayState.regs ∧ strayStarted.takeRows 0 = u.bump F.PAUSECNT_PAUSES (2 ^ 24) 1 := by
  obtain ⟨u, hu, hr⟩ := State.takeRows_short (s := strayStarted) (v := 0) (o := strayQueued) (by decide +kernel) rfl strayStarted_short
  rw [State.cdieOf_stray (s := strayStarted) rfl] at hr
  exact ⟨u, hu, hr⟩

/-- Entry 2^24 of PAUSECNT has the place of entry 0 of SPRSTAT, the register after it. -/
theorem State.pausecnt_stray (s : State) : s.get F.PAUSECNT_PAUSES (2 ^ 24) = s.reg .SPRSTAT 0 % 2 ^ 64 := by
  have hkey : Reg.PAUSECNT.key (2 ^ 24) = Reg.SPRSTAT.key 0 := by decide
  have hdflt : Reg.PAUSECNT.dflt (2 ^ 24) = Reg.SPRSTAT.dflt 0 := by decide
  show bits (SMap.get (Reg.PAUSECNT.dflt (2 ^ 24)) s.regs (Reg.PAUSECNT.key (2 ^ 24))) 63 0 = _
  rw [hkey, hdflt]
  unfold bits
  rw [Nat.pow_zero, Nat.div_one]
  rfl

/-- The start changes SPRSTAT, which is none of the registers that `MatrixStart` lets it count in. -/
theorem strayState_changes_sprstat {ev : UnitEvent} (hr : ev.sram = .good) :
    (strayState.startM 0 strayClear ev).reg .SPRSTAT 0 ≠ strayState.reg .SPRSTAT 0 := by
  obtain ⟨-, hs, -, -⟩ := strayState_startable
  obtain ⟨hop, hrows⟩ := strayClear_args
  obtain ⟨u, hu, hpause⟩ := strayState_paused
  have hregs : (strayState.startM 0 strayClear ev).regs = (u.bump F.PAUSECNT_PAUSES (2 ^ 24) 1).regs := by
    rw [State.startM_clear_regs hs strayState_unfenced.2 hr hop (by rw [hrows]; decide), strayState_payRows, hpause]
  have hcount : (u.bump F.PAUSECNT_PAUSES (2 ^ 24) 1).get F.PAUSECNT_PAUSES (2 ^ 24) = 1 := by
    rw [State.get_bump_same u F.PAUSECNT_PAUSES (2 ^ 24) 1 (by decide) (by decide), State.get_congr hu, State.pausecnt_stray,
      show strayState.reg .SPRSTAT 0 = 0 by decide +kernel]
    decide
  intro hsame
  rw [State.pausecnt_stray, ← State.reg_congr hregs, hsame, show strayState.reg .SPRSTAT 0 = 0 by decide +kernel] at hcount
  exact absurd hcount (by decide)

/-- Refutes O23: the statement bounds neither `s.removed` nor the compute die it gives a tile. In `strayState` 144 · 2^24 slots are removed
before tile 0, many more than the module has, so tile 0 is on compute die 2^24; its mclear counts a pause there, and in the state's table
of registers that entry of PAUSECNT has the place of SPRSTAT, which the statement says is unchanged. -/
theorem not_matrixStart : ¬ Obligations.MatrixStart := by
  unfold Obligations.MatrixStart
  intro h
  obtain ⟨hop, hs, hd, ha⟩ := strayState_startable
  obtain ⟨hft, hfm⟩ := strayState_unfenced
  obtain ⟨h4, h1⟩ := strayClear_args
  obtain ⟨-, -, -, -, hclear⟩ := h 0 0 ⟨.good, [], []⟩ strayClear strayState (by decide) hop rfl hs hd ha hft hfm (by decide)
  obtain ⟨t, ⟨hrun, -, -, hregs, -⟩, -⟩ := hclear h4 (by rw [h1]; decide)
  have hstart := unitInstructionStart_matrix (ev := ⟨.good, [], []⟩) (by decide) hop rfl hd ha hft
  have ht : strayState.startM 0 strayClear ⟨.good, [], []⟩ = t := Host.Outcome.next.inj (hstart.symm.trans hrun)
  exact strayState_changes_sprstat (ev := ⟨.good, [], []⟩) rfl (by rw [ht]; exact hregs .SPRSTAT 0 (by decide) (by decide))

end Sys2Proof.Machine

/-! Control instructions that complete: the one state they leave, and what it keeps of the state before (R56, R63, R66 to R68). -/

namespace Sys2Proof.Machine

/-- The state after a control instruction of context `h`: its charge is paid and its context is `y` (R372). -/
def State.controlled (s : State) (h : Head) (y : Ctx) : State := (s.pay h.tile 16).setCtx h.tile h.ctx y

/-- A write of a scalar register changes the scalar registers only. -/
theorem Ctx.wrS_eq (x : Ctx) (i : Nat) (v : Word) : x.wrS i v = { x with s := (x.wrS i v).s } := by
  unfold Ctx.wrS
  split <;> rfl

section
variable {s t : State} {h : Head} {w d : Nat} {u : Uses} {i : Instr} {v : Word}

@[simp] theorem State.ctx_controlled (s : State) (h : Head) (y : Ctx) : (s.controlled h y).ctx h.tile h.ctx = y := State.ctx_setCtx ..

theorem State.elsewhere_controlled (s : State) (h : Head) (y : Ctx) : (s.controlled h y).elsewhere s h := State.elsewhere_pay ..

/-- An instruction that nothing stops leaves its context as its effect sets it. -/
theorem issue_controls {act : State → Act} {f : State → Ctx} (hr : s.runs h w u)
    (ha : act s = .go 16 fun s => s.setCtx h.tile h.ctx (f s)) :
    issue h w u false act s = .next (s.controlled h (f (s.pay h.tile 16))) := issue_runs hr ha

theorem issueC_controls {f : Ctx → Ctx} (hr : s.runs h w u) :
    issueC h w u f s = .next (s.controlled h (f (s.ctx h.tile h.ctx)).advance) := issueC_goes hr.1 hr.2

/-- A context whose run, flow, scalar registers and stall alone may differ keeps predicates, vectors and fault registers. -/
theorem State.keepsPV_of_ctx {run : Run} {pc : Addr48} {m : SMap Word} {loops : List Loop} {stall : Stall}
    (ht : t.ctx h.tile h.ctx = { s.ctx h.tile h.ctx with run := run, pc := pc, s := m, loops := loops, stall := stall }) :
    t.keepsPV s h := by
  unfold State.keepsPV
  rw [ht]
  exact ⟨fun _ => rfl, fun _ _ => rfl, rfl, rfl, rfl, rfl, rfl, rfl, rfl⟩

/-- A context with the scalar registers of `s`. -/
theorem State.keepsS_of_regs {y : Ctx} (ht : t.ctx h.tile h.ctx = y) (hy : y.s = (s.ctx h.tile h.ctx).s) : t.keepsS s h := by
  intro j
  unfold Ctx.rdS
  rw [ht, hy]

/-- What leaves a context that has written one scalar register and gone on writes that register and nothing else. -/
theorem State.writesS_of_controlled
    (he : s.runs h w u → exec i s = .next (s.controlled h ((s.ctx h.tile h.ctx).wrS d v).advance)) : s.writesS h w u i d v := by
  intro hr
  obtain ⟨hS, hPV, hon⟩ := State.onlyS_of_ctx (s.ctx_controlled h ((s.ctx h.tile h.ctx).wrS d v).advance)
  exact ⟨_, he hr, hS, hPV, hon, s.elsewhere_controlled h _⟩

end

/-- Settles O6: reads after writes by the rules of `wrS` and `wrP`, and each operation by the rule of its format with its own function. -/
theorem scalarOps : Obligations.ScalarOps := by
  unfold Obligations.ScalarOps
  refine ⟨fun x i j v => ⟨Ctx.rdS_wrS .., Ctx.rdP_wrP .., rfl, rfl, Ctx.rdP_wrS .., Ctx.rdS_wrP ..⟩, fun h sd sa sb s => ?_,
    fun h sd sa imm s => ?_⟩
  · exact ⟨State.writesS_alu (f := addOp) rfl, State.writesS_alu (f := subOp) rfl, State.writesS_alu (f := mulOp) rfl,
      State.writesS_alu (f := mulhuOp) rfl, State.writesS_alu (f := andOp) rfl, State.writesS_alu (f := orOp) rfl,
      State.writesS_alu (f := xorOp) rfl, State.writesS_alu (f := shlOp) rfl, State.writesS_alu (f := shrOp) rfl,
      State.writesS_alu (f := sraOp) rfl, State.writesS_alu (f := minOp) rfl, State.writesS_alu (f := maxOp) rfl,
      State.writesS_alu (f := minuOp) rfl, State.writesS_alu (f := maxuOp) rfl⟩
  · exact ⟨State.writesS_aluImm (f := addiOp) rfl, State.writesS_aluImm (f := andiOp) rfl, State.writesS_aluImm (f := oriOp) rfl,
      State.writesS_aluImm (f := xoriOp) rfl, State.writesS_aluImm (f := shliOp) rfl, State.writesS_aluImm (f := shriOp) rfl,
      State.writesS_aluImm (f := sraiOp) rfl, State.writesS_of (f := fun x => x.wrS sd.toNat (imm.signExtend 64)) rfl rfl,
      State.writesS_of (f := fun x => x.wrS sd.toNat (imm ++ (x.rdS sd.toNat).setWidth 32)) rfl rfl⟩

/-- Settles O7: each of the three writes one predicate, and the value is that of `scalarCond` or `plogFunc`. -/
theorem predicateOps : Obligations.PredicateOps := by
  unfold Obligations.PredicateOps
  intro h pd s
  refine ⟨fun cond sa sb => ?_, fun cond sa imm => ?_, fun pa pb func => ?_⟩
  · exact State.writesP_of
      (f := fun x => x.wrPb pd.toNat (scalarCond cond.toNat (x.rdS sa.toNat) (x.rdS sb.toNat))) rfl rfl
  · exact State.writesP_of (f := fun x => x.wrPb pd.toNat (scalarCond cond.toNat (x.rdS sa.toNat) (psetiImm imm))) rfl rfl
  · exact State.writesP_of (f := fun x => x.wrP pd.toNat (plogFunc func.toNat (x.rdP pa.toNat) (x.rdP pb.toNat))) rfl rfl

/-! ## Branches, jumps and loops -/

section
variable {s : State} {h : Head}

/-- A context that goes on at `target`, with one scalar register written or none, keeps the rest (R71, R75). -/
theorem State.wentTo_controlled (s : State) (h : Head) (target : Addr48) (m : SMap Word) :
    let t := s.controlled h ({ s.ctx h.tile h.ctx with s := m }.jump target)
    t.wentTo s h target ∧ t.keepsPV s h ∧ t.elsewhere s h := by
  intro t
  have ht : t.ctx h.tile h.ctx = { s.ctx h.tile h.ctx with s := m }.jump target := State.ctx_controlled ..
  exact ⟨⟨by rw [ht]; rfl, by rw [ht]; rfl⟩, State.keepsPV_of_ctx ht, State.elsewhere_controlled ..⟩

/-- A branch or jump with no link (R71). -/
theorem State.jumps (s : State) (h : Head) (target : Addr48) :
    let t := s.controlled h ((s.ctx h.tile h.ctx).jump target)
    t.wentTo s h target ∧ t.keepsS s h ∧ t.keepsPV s h ∧ t.elsewhere s h := by
  obtain ⟨hto, hPV, hels⟩ := s.wentTo_controlled h target (s.ctx h.tile h.ctx).s
  exact ⟨hto, State.keepsS_of_regs (State.ctx_controlled ..) rfl, hPV, hels⟩

/-- A branch or jump that links (R71). -/
theorem State.jumps_linked (s : State) (h : Head) (target : Addr48) (d : Nat) (v : Word) :
    let t := s.controlled h (((s.ctx h.tile h.ctx).wrS d v).jump target)
    t.wentTo s h target ∧ t.onlyS s h d v ∧ t.keepsPV s h ∧ t.elsewhere s h := by
  have hS : (s.controlled h (((s.ctx h.tile h.ctx).wrS d v).jump target)).onlyS s h d v := fun j => by
    rw [State.ctx_controlled]
    exact Ctx.rdS_wrS ..
  rw [Ctx.wrS_eq] at hS ⊢
  obtain ⟨hto, hPV, hels⟩ := s.wentTo_controlled h target ((s.ctx h.tile h.ctx).wrS d v).s
  exact ⟨hto, hS, hPV, hels⟩

theorem branchTo_runs {w : Nat} {sd : BitVec 6} {link : Bool} {offset : BitVec 32} (hr : s.runs h w ⟨[], [sd.toNat]⟩) :
    branchTo h w sd link offset s = .next (s.controlled h ((if link then (s.ctx h.tile h.ctx).wrS sd.toNat
      (((s.ctx h.tile h.ctx).pc + 8).setWidth 64) else s.ctx h.tile h.ctx).jump (branchTarget (s.ctx h.tile h.ctx).pc offset))) := by
  unfold branchTo
  rw [issue_runs hr rfl]
  dsimp only
  rw [State.ctx_pay]
  rfl

section
variable {w : Nat} {sd sa : BitVec 6} {link : Bool} (hr : s.runs h w ⟨[sa.toNat], [sd.toNat]⟩)
include hr

theorem jumpTo_aligned (ha : ((s.ctx h.tile h.ctx).rdS sa.toNat).toNat % 8 = 0) :
    jumpTo h w sd sa link s = .next (s.controlled h ((if link then (s.ctx h.tile h.ctx).wrS sd.toNat
      (((s.ctx h.tile h.ctx).pc + 8).setWidth 64) else s.ctx h.tile h.ctx).jump
        (((s.ctx h.tile h.ctx).rdS sa.toNat).setWidth 48))) := by
  unfold jumpTo
  rw [issue_runs hr (if_neg (not_not.2 ha))]
  dsimp only
  rw [State.ctx_pay]
  rfl

theorem jumpTo_misaligned (ha : ((s.ctx h.tile h.ctx).rdS sa.toNat).toNat % 8 ≠ 0) : jumpTo h w sd sa link s
    = .next (s.issueFault h.tile h.ctx (cALIGN, ((s.ctx h.tile h.ctx).rdS sa.toNat).toNat)) :=
  issue_runs_fault hr (if_pos ha)

end

end

/-- Settles O8: each form is a branch or a jump, with its link or without. -/
theorem branchesAndJumps : Obligations.BranchesAndJumps := by
  unfold Obligations.BranchesAndJumps
  intro h sd sa offset s
  refine ⟨fun hr => ?_, fun hr => ?_, fun hr => ⟨fun ha => ?_, fun ha => ?_⟩, fun hr => ⟨fun ha => ?_, fun ha => ?_⟩⟩
  · exact ⟨_, branchTo_runs (sd := 0) (link := false) hr, s.jumps h _⟩
  · exact ⟨_, branchTo_runs (link := true) hr, s.jumps_linked h _ _ _⟩
  · exact ⟨_, jumpTo_aligned (sd := 0) (link := false) hr ha, s.jumps h _⟩
  · exact jumpTo_misaligned (sd := 0) (link := false) hr ha
  · exact ⟨_, jumpTo_aligned (link := true) hr ha, s.jumps_linked h _ _ _⟩
  · exact jumpTo_misaligned (link := true) hr ha

end Sys2Proof.Machine

/-! Hardware loops (R73 to R75). -/

namespace Sys2Proof.Machine

section
variable {s : State} {h : Head}

/-- What a start of a loop of `k` passes over `body` words leaves, or a skip of them. -/
theorem State.loops_started (s : State) (h : Head) (k body : Nat) :
    let x := s.ctx h.tile h.ctx
    let t := s.controlled h (x.startLoop k body)
    t.keepsS s h ∧ t.keepsPV s h ∧ t.elsewhere s h
      ∧ (k = 0 → (t.ctx h.tile h.ctx).pc = x.pc + BitVec.ofNat 48 (8 * (body + 1)) ∧ (t.ctx h.tile h.ctx).loops = x.loops)
      ∧ (k ≠ 0 → (t.ctx h.tile h.ctx).pc = x.pc + 8
          ∧ (t.ctx h.tile h.ctx).loops = ⟨x.pc + 8, x.pc + BitVec.ofNat 48 (8 * body), k⟩ :: x.loops) := by
  intro x t
  have ht : t.ctx h.tile h.ctx = x.startLoop k body := State.ctx_controlled ..
  have hels : t.elsewhere s h := State.elsewhere_controlled ..
  unfold Ctx.startLoop at ht
  by_cases hk : k = 0
  · rw [if_pos hk] at ht
    exact ⟨State.keepsS_of_regs ht rfl, State.keepsPV_of_ctx ht, hels, fun _ => by rw [ht]; exact ⟨rfl, rfl⟩,
      fun hn => absurd hk hn⟩
  · rw [if_neg hk] at ht
    exact ⟨State.keepsS_of_regs ht rfl, State.keepsPV_of_ctx ht, hels, fun h0 => absurd h0 hk,
      fun _ => by rw [ht]; exact ⟨rfl, rfl⟩⟩

theorem loopAct_starts {k body : Nat} (hl : (s.ctx h.tile h.ctx).loops.length < 4) : loopAct h k body s
    = .go 16 fun s => s.setCtx h.tile h.ctx ((s.ctx h.tile h.ctx).startLoop k body) := if_neg (Nat.not_le.2 hl)

/-- A fifth active loop (R74). -/
theorem loopAct_deep {k body : Nat} (hl : 4 ≤ (s.ctx h.tile h.ctx).loops.length) :
    loopAct h k body s = .fault (cLOOP_DEPTH, unstated) := if_pos hl

/-- An instruction that starts a loop, at issue. -/
theorem issue_loop {w k body : Nat} {u : Uses} {act : State → Act} (hr : s.runs h w u) (ha : act s = loopAct h k body s)
    (hl : (s.ctx h.tile h.ctx).loops.length < 4) :
    issue h w u false act s = .next (s.controlled h ((s.ctx h.tile h.ctx).startLoop k body)) := by
  rw [issue_controls (f := fun u => (u.ctx h.tile h.ctx).startLoop k body) hr (ha.trans (loopAct_starts hl)), State.ctx_pay]

section
variable {sa : BitVec 6} {body : BitVec 12} (hr : s.runs h (encC 6 h 0 sa.toNat 0 body.toNat) ⟨[sa.toNat], []⟩)
include hr

theorem loop_operand (hn : 2 ^ 32 ≤ ((s.ctx h.tile h.ctx).rdS sa.toNat).toNat) :
    exec (.loop h sa body) s = .next (s.issueFault h.tile h.ctx (cOPERAND, unstated)) := by
  show execLoop h sa body s = _
  exact issue_runs_fault hr (if_pos (by omega))

variable (hn : ((s.ctx h.tile h.ctx).rdS sa.toNat).toNat < 2 ^ 32)
include hn

theorem loop_starts (hl : (s.ctx h.tile h.ctx).loops.length < 4) : exec (.loop h sa body) s
    = .next (s.controlled h ((s.ctx h.tile h.ctx).startLoop ((s.ctx h.tile h.ctx).rdS sa.toNat).toNat body.toNat)) := by
  show execLoop h sa body s = _
  exact issue_loop hr (if_neg (by omega)) hl

theorem loop_deep (hl : 4 ≤ (s.ctx h.tile h.ctx).loops.length) :
    exec (.loop h sa body) s = .next (s.issueFault h.tile h.ctx (cLOOP_DEPTH, unstated)) := by
  show execLoop h sa body s = _
  exact issue_runs_fault hr ((if_neg (by omega)).trans (loopAct_deep hl))

end

section
variable {count : BitVec 20} {body : BitVec 12} (hr : s.runs h (encC 7 h 0 0 0 (count.toNat * 2 ^ 12 + body.toNat)) ⟨[], []⟩)
include hr

theorem loopi_starts (hl : (s.ctx h.tile h.ctx).loops.length < 4) :
    exec (.loopi h count body) s = .next (s.controlled h ((s.ctx h.tile h.ctx).startLoop count.toNat body.toNat)) :=
  issue_loop (act := loopAct h count.toNat body.toNat) hr rfl hl

theorem loopi_deep (hl : 4 ≤ (s.ctx h.tile h.ctx).loops.length) :
    exec (.loopi h count body) s = .next (s.issueFault h.tile h.ctx (cLOOP_DEPTH, unstated)) :=
  issue_runs_fault (act := loopAct h count.toNat body.toNat) hr (loopAct_deep hl)

end

end

/-- Settles O9: loop is loopi with its count from a register and a check of it; the back-edges are the recursion of `backEdge`. -/
theorem hardwareLoops : Obligations.HardwareLoops := by
  unfold Obligations.HardwareLoops
  refine ⟨fun h sa count body s => ?_, fun pc l ls => ?_⟩
  · intro x n started
    refine ⟨fun hr => ⟨fun hn hl => ?_, loop_operand hr, loop_deep hr⟩, fun hr => ⟨fun hl => ?_, loopi_deep hr⟩⟩
    · exact ⟨_, loop_starts hr hn hl, s.loops_started h n body.toNat⟩
    · exact ⟨_, loopi_starts hr hl, s.loops_started h count.toNat body.toNat⟩
  · refine ⟨rfl, fun hne => if_neg hne, fun hl hk => ?_, fun hl hk => ?_⟩
    · exact (if_pos hl).trans (if_pos hk)
    · exact (if_pos hl).trans (if_neg (Nat.not_lt.2 hk))

end Sys2Proof.Machine

/-! The control registers of a context and the return from a fault (R65, R72, R88, Table 3-7). -/

namespace Sys2Proof.Machine

section
variable {s : State} {h : Head}

/-- Paying a charge changes no control register. -/
theorem State.readCtl_pay (s : State) (t k v : Nat) (c : Ctxt) (n : Nat) : (s.pay t k).readCtl v c n = s.readCtl v c n := by
  unfold State.readCtl
  rw [State.ctx_pay]
  rfl

/-- Tile and context as control register 9 names them (Table 3-7). -/
theorem State.readCtl_name (s : State) (t : Nat) (c : Ctxt) :
    s.readCtl t c 9 = BitVec.ofNat 64 (b2n (decide (c = .L)) * 2 ^ 15 + t) := rfl

/-- nop whose word is its own goes on (R65). -/
theorem nop_runs {w : Word} (hc : wCls w.toNat = 1) (ho : wOp w.toNat = 0) (hp : h.pred = BitVec.ofNat 3 (bits w.toNat 53 51))
    (hn : h.pneg = bit w.toNat 50) (hr : s.runs h w.toNat ⟨[], []⟩) :
    exec (.nop h.tile h.ctx w) s = .next (s.controlled h (s.ctx h.tile h.ctx).advance) := by
  obtain ⟨tile, ctx, pred, pneg, sram⟩ := h
  obtain rfl : pred = _ := hp
  obtain rfl : pneg = _ := hn
  show execNop tile ctx w s = _
  unfold execNop
  dsimp only
  rw [if_neg (by simp [hc, ho])]
  exact issueC_controls hr

/-- mtc writes FVEC, FMASK or FPC by its number, and no other register (Table 3-7). -/
theorem Ctx.writeCtl_fields (x : Ctx) (n : Nat) (v : Word) :
    x.writeCtl n v = { x with fvec := if n = 0 then v.setWidth 48 else x.fvec, fmask := if n = 1 then v.setWidth 16 else x.fmask,
                              fpc := if n = 2 then v.setWidth 48 else x.fpc } := by
  match n with
  | 0 => rfl
  | 1 => rfl
  | 2 => rfl
  | n + 3 => rfl

theorem end_runs (hr : s.runs h (encC 1 h 0 0 0 0) ⟨[], []⟩) : exec (.end_ h) s
    = .next (s.controlled h { s.ctx h.tile h.ctx with run := .stopping, loops := [] }.advance) :=
  issueC_controls (f := fun x => { x with run := .stopping, loops := [] }) hr

theorem mtc_runs {sa : BitVec 6} {num : BitVec 32} (hr : s.runs h (encC 0x0B h 0 sa.toNat 0 num.toNat) ⟨[sa.toNat], []⟩) :
    exec (.mtc h sa num) s
      = .next (s.controlled h ((s.ctx h.tile h.ctx).writeCtl num.toNat ((s.ctx h.tile h.ctx).rdS sa.toNat)).advance) :=
  issueC_controls (f := fun x => x.writeCtl num.toNat (x.rdS sa.toNat)) hr

theorem mfc_writes {sd : BitVec 6} {num : BitVec 32} : s.writesS h (encC 0x0A h sd.toNat 0 0 num.toNat) ⟨[], [sd.toNat]⟩
    (.mfc h sd num) sd.toNat (s.readCtl h.tile h.ctx num.toNat) := by
  refine State.writesS_of_controlled fun hr => ?_
  show execMfc h sd num s = _
  rw [execMfc, issue_runs hr rfl, State.readCtl_pay, State.ctx_pay]
  rfl

/-- The state whose tile's clock has moved on by a free amount, as rdtime finds it (log 5). -/
def State.clocked (s : State) (tile : Nat) : State :=
  let d := s.drawTime
  d.2.setTile tile { d.2.tile tile with cclk := ((d.2.tile tile).cclk + d.1) % 2 ^ 64 }

theorem State.tile_clocked (s : State) (v : Nat) :
    (s.clocked v).tile v = { s.tile v with cclk := ((s.tile v).cclk + Config.elapsed s.free) % 2 ^ 64 } := by
  unfold State.clocked
  dsimp only
  rw [State.tile_setTile, if_pos rfl]
  rfl

theorem State.ctx_clocked (s : State) (v : Nat) (c : Ctxt) : (s.clocked v).ctx v c = s.ctx v c := by
  unfold State.ctx
  rw [State.tile_clocked]
  cases c <;> rfl

/-- rdtime reads the clock it has moved on. -/
theorem rdtime_runs {sd : BitVec 6} (hr : s.runs h (encC 0x29 h sd.toNat 0 0 0) ⟨[], [sd.toNat]⟩) :
    let u := (s.pay h.tile 16).clocked h.tile
    exec (.rdtime h sd) s = .next (u.setCtx h.tile h.ctx
      ((s.ctx h.tile h.ctx).wrS sd.toNat (BitVec.ofNat 64 (u.tile h.tile).cclk)).advance) := by
  intro u
  have hu : u.ctx h.tile h.ctx = s.ctx h.tile h.ctx := (State.ctx_clocked ..).trans (State.ctx_pay ..)
  show execRdtime h sd s = _
  rw [execRdtime, issue_runs hr rfl]
  show Host.Outcome.next (u.setCtx _ _ ((u.ctx _ _).wrS _ (BitVec.ofNat 64 _)).advance) = _
  rw [hu, State.tile_clocked]
  rfl

/-- The clock of a context's tile after it was moved on and the context set. -/
theorem State.cclk_setCtx (s : State) (t : Nat) (c : Ctxt) (x : Ctx) : ((s.setCtx t c x).tile t).cclk = (s.tile t).cclk := by
  unfold State.setCtx
  rw [State.tile_setTile, if_pos rfl]
  cases c <;> rfl

section
variable (hr : s.runs h (encC 0x0C h 0 0 0 0) ⟨[], []⟩)
include hr

theorem fret_returns (hi : (s.ctx h.tile h.ctx).inh = true) : exec (.fret h) s
    = .next (s.controlled h { s.ctx h.tile h.ctx with inh := false, pc := (s.ctx h.tile h.ctx).fpc }) := by
  show execFret h s = _
  rw [execFret, issue_runs hr (if_pos hi)]
  dsimp only
  rw [State.ctx_pay]
  rfl

theorem fret_illegal (hi : (s.ctx h.tile h.ctx).inh = false) :
    exec (.fret h) s = .next (s.issueFault h.tile h.ctx (cILLEGAL, 0)) := by
  show execFret h s = _
  exact issue_runs_fault hr (if_neg (by rw [hi]; exact Bool.false_ne_true))

end

end

/-- Settles O10: each instruction by the context it leaves; the control registers by Table 3-7. -/
theorem controlRegisters : Obligations.ControlRegisters := by
  unfold Obligations.ControlRegisters
  intro h sd sa num s x a
  refine ⟨fun w hc ho hp hn hr => ?_, fun hr => ?_, mfc_writes, rfl, rfl, rfl, rfl, rfl, rfl, rfl, rfl, fun l ls hl => ?_, fun hF => ?_,
    fun hL => ?_, rfl, fun hr => ?_, fun hr => ?_, fun hr => ⟨fun hi => ?_, fun hi => fret_illegal hr hi⟩⟩
  · obtain ⟨hS, hPV, hon⟩ := State.keepsS_of_ctx (s.ctx_controlled h x.advance)
    exact ⟨_, nop_runs hc ho hp hn hr, hS, hPV, hon, s.elsewhere_controlled h _⟩
  · have ht := s.ctx_controlled h { x with run := .stopping, loops := [] }.advance
    exact ⟨_, end_runs hr, State.keepsS_of_regs ht rfl, State.keepsPV_of_ctx ht, s.elsewhere_controlled h _,
      congrArg Ctx.run ht, congrArg Ctx.loops ht⟩
  · show BitVec.ofNat 64 (match x.loops with | l :: _ => l.left - 1 | [] => 0) = _
    rw [hl]
  · rw [State.readCtl_name, hF]
    simp [b2n]
  · rw [State.readCtl_name, hL]
    simp [b2n]
  · have ht := (s.ctx_controlled h (x.writeCtl num.toNat a).advance).trans (congrArg Ctx.advance (Ctx.writeCtl_fields ..))
    exact ⟨_, mtc_runs hr, State.keepsS_of_regs ht rfl, State.wentOn_of_ctx ht rfl rfl,
      s.elsewhere_controlled h _, congrArg Ctx.fvec ht, congrArg Ctx.fmask ht, congrArg Ctx.fpc ht⟩
  · obtain ⟨hS, hPV, hon⟩ := State.onlyS_of_ctx (State.ctx_setCtx ((s.pay h.tile 16).clocked h.tile) h.tile h.ctx _)
    refine ⟨_, _, rdtime_runs hr, hS, hPV, hon, ?_, rfl, rfl, fun b => ?_⟩
    · rw [State.cclk_setCtx, State.tile_clocked, BitVec.toNat_ofNat, Nat.mod_mod]
    · rw [State.rdByte_setCtx, State.tile_clocked]
      exact s.rdByte_pay ..
  · have ht := s.ctx_controlled h { x with inh := false, pc := x.fpc }
    exact ⟨_, fret_returns hr hi, State.keepsS_of_regs ht rfl, s.elsewhere_controlled h _, congrArg Ctx.inh ht,
      congrArg Ctx.pc ht, (congrArg Ctx.loops ht :)⟩

end Sys2Proof.Machine

/-! A fault taken at issue (R84 to R87). -/

namespace Sys2Proof.Machine

section
variable {x : Ctx} {f : FaultRec}

/-- A fault leaves the loops as they are, delivered or not (R86). -/
theorem Ctx.taken_loops (x : Ctx) (f : FaultRec) : (x.taken f).loops = x.loops := by
  unfold Ctx.taken
  split <;> rfl

/-- A fault that ends the program leaves its program counter (R87). -/
theorem Ctx.taken_pc (hd : x.delivers f = false) : (x.taken f).pc = x.pc := by
  unfold Ctx.taken
  rw [if_neg (by rw [hd]; exact Bool.false_ne_true)]

end

/-- The detail of a fault is its number, or a free value drawn from the state (log 6). -/
theorem State.finfo_cases (s : State) (n : Nat) :
    ∃ w k, s.finfo n = (w, { s with free := k }) ∧ (n < 2 ^ 64 → w = BitVec.ofNat 64 n) := by
  unfold State.finfo
  split
  · exact ⟨_, s.free, rfl, fun _ => rfl⟩
  · exact ⟨_, _, rfl, fun hn => absurd hn ‹_›⟩

/-- The record that issue makes of a fault of context `c` (R85). -/
def State.issueRec (s : State) (v : Nat) (c : Ctxt) (cause : Nat) (info : Word) : FaultRec :=
  { seq := (s.tile v).seq, pc := (s.ctx v c).pc, cause := BitVec.ofNat 8 cause, info := info, unit := false, inh := false }

/-- A fault at issue changes its context, which takes it, and how many free values have been drawn. -/
theorem State.issueFault_eq (s : State) (v : Nat) (c : Ctxt) (cause info : Nat) :
    ∃ w k, s.issueFault v c (cause, info)
        = State.setCtx { s with free := k } v c ((s.ctx v c).taken (s.issueRec v c cause w))
      ∧ (info < 2 ^ 64 → w = BitVec.ofNat 64 info) := by
  obtain ⟨w, k, he, hw⟩ := s.finfo_cases info
  refine ⟨w, k, ?_, hw⟩
  unfold State.issueFault
  dsimp only
  rw [he, State.takeFault_eq]
  rfl

theorem trap_faults {s : State} {h : Head} (hr : s.runs h (encC 0x28 h 0 0 0 0) ⟨[], []⟩) :
    exec (.trap h) s = .next (s.issueFault h.tile h.ctx (cSOFT_TRAP, unstated)) :=
  issue_runs_fault (act := fun _ => .fault (cSOFT_TRAP, unstated)) hr rfl

/-- Settles O12: a fault at issue is the fault its context takes, and that is delivered or ends the program. -/
theorem takingAFault : Obligations.TakingAFault := by
  unfold Obligations.TakingAFault
  intro h s cause info x delivered t y
  obtain ⟨w, k, he, hw⟩ := s.issueFault_eq h.tile h.ctx cause info
  have ht : t = State.setCtx { s with free := k } h.tile h.ctx (x.taken (s.issueRec h.tile h.ctx cause w)) := he
  have hy : y = x.taken (s.issueRec h.tile h.ctx cause w) := by
    show t.ctx h.tile h.ctx = _
    rw [ht]
    exact State.ctx_setCtx ..
  have hcs : (s.issueRec h.tile h.ctx cause w).cause.toNat = cause % 256 := BitVec.toNat_ofNat ..
  have hd : x.delivers (s.issueRec h.tile h.ctx cause w) = true ↔ delivered := by rw [Ctx.delivers_iff, hcs]
  obtain ⟨hs, hv, hp, -⟩ := x.taken_regs (s.issueRec h.tile h.ctx cause w)
  refine ⟨trap_faults, fun j => by rw [hy, Ctx.rdS, hs]; rfl, fun j => by rw [hy, Ctx.rdP, hp]; rfl,
    fun r k => by rw [hy, Ctx.rdLane, hv]; rfl, by rw [ht]; rfl, by rw [ht]; rfl, by rw [ht]; rfl, by rw [ht]; rfl,
    fun b => by rw [ht]; exact State.rdByte_setCtx .., fun k => by rw [ht]; exact State.token_setCtx .., fun hdel => ?_, fun hdel => ?_⟩
  · obtain ⟨hpc, hfpc, hcause, hinfo, hresume, hinh, hrun⟩ := Ctx.taken_delivered (hd.2 hdel)
    rw [hy]
    refine ⟨hpc, hfpc, hcause.trans ?_, hresume, hinh, hrun, x.taken_loops _, fun hi => hinfo.trans (hw hi)⟩
    rw [hcs, show b2n (s.issueRec h.tile h.ctx cause w).unit = 0 from rfl, Nat.zero_mul, Nat.zero_add]
  · have hn := Bool.eq_false_iff.2 (mt hd.1 hdel)
    obtain ⟨hrun, hend⟩ := Ctx.taken_ended hn
    rw [hy]
    exact ⟨hrun, Ctx.taken_pc hn, _, hend, rfl, rfl, rfl, rfl⟩

end Sys2Proof.Machine

/-! Tokens and fences (R36, R39, R81, R82). -/

namespace Sys2Proof.Machine

section
variable {s : State} {h : Head}

/-- The state after a control instruction that sets token `k` and goes on (R81). -/
def State.tokened (s : State) (h : Head) (k : Nat) (v : BitVec 8) : State :=
  let u := s.pay h.tile 16
  (u.setTile h.tile ((u.tile h.tile).setToken k v)).advance h.tile h.ctx

theorem State.ctx_setToken (s : State) (t k : Nat) (v : BitVec 8) (c : Ctxt) :
    (s.setTile t ((s.tile t).setToken k v)).ctx t c = s.ctx t c := by
  unfold State.ctx
  rw [State.tile_setTile, if_pos rfl, Tile.ctx_setToken]

theorem State.ops_setCtx (s : State) (t : Nat) (c : Ctxt) (x : Ctx) (u : Nat) : ((s.setCtx t c x).tile u).ops = (s.tile u).ops := by
  unfold State.setCtx
  rw [State.tile_setTile]
  split
  · subst_vars
    exact (Tile.setCtx_keeps ..).1
  · rfl

theorem State.ops_pay (s : State) (t k u : Nat) : ((s.pay t k).tile u).ops = (s.tile u).ops := by
  unfold State.pay
  rw [State.tile_setTile]
  split
  · subst_vars; rfl
  · rfl

/-- One token is set; every register, byte and unit queue, and every other token and tile, is as it was (R81, R82). -/
theorem State.tokened_spec (s : State) (h : Head) (k : Nat) (v : BitVec 8) : let t := s.tokened h k v
    t.keepsS s h ∧ t.keepsPV s h ∧ t.wentOn s h ∧ { t with tiles := s.tiles } = s ∧ (∀ u, u ≠ h.tile → t.tile u = s.tile u)
      ∧ (∀ b, (t.tile h.tile).rdByte b = (s.tile h.tile).rdByte b) ∧ (t.tile h.tile).ops = (s.tile h.tile).ops
      ∧ ∀ j, (t.tile h.tile).token j = if j = k then v else (s.tile h.tile).token j := by
  intro t
  have hx : t.ctx h.tile h.ctx = (s.ctx h.tile h.ctx).advance := by
    refine (State.ctx_setCtx ..).trans ?_
    rw [State.ctx_setToken, State.ctx_pay]
  obtain ⟨hS, hPV, hon⟩ := State.keepsS_of_ctx hx
  refine ⟨hS, hPV, hon, rfl, fun u hu => ?_, fun b => ?_, ?_, fun j => ?_⟩
  · refine (State.tile_advance_other _ _ hu).trans ?_
    rw [State.tile_setTile, if_neg hu, State.tile_pay_other _ _ hu]
  · refine (State.rdByte_advance ..).trans ?_
    rw [State.tile_setTile, if_pos rfl]
    exact s.rdByte_pay ..
  · refine (State.ops_setCtx ..).trans ?_
    rw [State.tile_setTile, if_pos rfl]
    exact s.ops_pay ..
  · refine (State.token_setCtx ..).trans ?_
    rw [State.tile_setTile, if_pos rfl, Tile.token_setToken, State.token_pay]

theorem State.runs_ready {w : Nat} {u : Uses} (hr : s.runs h w u) : s.ready h.tile h.ctx = true := by
  obtain ⟨-, hready, -⟩ := State.goes_iff.1 hr.1
  exact hready

/-! ## twait, tset and tread -/

/-- twait of a context that may issue issues: its own stall does not hold it. -/
theorem execTwait_runs {tok : BitVec 4} {w : Nat} {u : Uses} (hr : s.runs h w u) :
    execTwait h tok s = issue h (encHead 6 5 h + tok.toNat) ⟨[], []⟩ false (fun s =>
      if (s.tile h.tile).token tok.toNat = 0 then
        .hold (s.setCtx h.tile h.ctx { s.ctx h.tile h.ctx with stall := .twait tok })
      else .go 16 fun s =>
        (s.setTile h.tile ((s.tile h.tile).setToken tok.toNat ((s.tile h.tile).token tok.toNat - 1))).advance h.tile h.ctx) s := by
  have hne : (s.ctx h.tile h.ctx).stall ≠ .twait tok := by
    rw [(State.runs_idle hr).1]
    exact nofun
  unfold execTwait
  dsimp only
  rw [if_neg hne]
  exact if_pos (State.runs_ready hr)

section
variable {tok : BitVec 4} (hr : s.runs h (encHead 6 5 h + tok.toNat) ⟨[], []⟩)
include hr

theorem twait_takes (hk : (s.tile h.tile).token tok.toNat ≠ 0) :
    exec (.twait h tok) s = .next (s.tokened h tok.toNat ((s.tile h.tile).token tok.toNat - 1)) := by
  refine (execTwait_runs hr).trans ((issue_runs hr (if_neg hk)).trans ?_)
  rw [State.token_pay]
  rfl

theorem twait_stalls (hk : (s.tile h.tile).token tok.toNat = 0) :
    exec (.twait h tok) s = .next (s.setCtx h.tile h.ctx { s.ctx h.tile h.ctx with stall := .twait tok }) := by
  refine (execTwait_runs hr).trans ?_
  rw [issue_goes hr.1, if_pos hk]
  rfl

end

/-- A twait that stalls is issued again as from a state in which it does not (R81). -/
theorem twait_again {tok : BitVec 4} {w : Nat} {u : Uses} (hx : (s.ctx h.tile h.ctx).stall = .twait tok)
    (hr : (s.setCtx h.tile h.ctx { s.ctx h.tile h.ctx with stall := .none }).runs h w u) : exec (.twait h tok) s
      = exec (.twait h tok) (s.setCtx h.tile h.ctx { s.ctx h.tile h.ctx with stall := .none }) := by
  refine Eq.trans ?_ (execTwait_runs hr).symm
  show execTwait h tok s = _
  unfold execTwait
  dsimp only
  rw [if_pos hx]
  exact if_pos (State.runs_ready hr)

theorem tset_sets {value : BitVec 8} {tok : BitVec 4} (hr : s.runs h (encHead 6 6 h + value.toNat * 16 + tok.toNat) ⟨[], []⟩) :
    exec (.tset h value tok) s = .next (s.tokened h tok.toNat value) := by
  show execTset h value tok s = _
  rw [execTset, issue_runs hr rfl]
  rfl

theorem tread_writes {sd : BitVec 6} {tok : BitVec 4} :
    s.writesS h (encHead 6 7 h + sd.toNat * 2 ^ 44 + tok.toNat) ⟨[], [sd.toNat]⟩ (.tread h sd tok) sd.toNat
      (((s.tile h.tile).token tok.toNat).setWidth 64) := by
  refine State.writesS_of_controlled fun hr => ?_
  show execTread h sd tok s = _
  rw [execTread, issue_runs hr rfl, State.token_pay, State.ctx_pay]
  rfl

/-! ## fence -/

/-- Paying a charge performs no access and issues none. -/
theorem State.performed_pay (s : State) (t k v : Nat) (c : Ctxt) (sc n : Nat) :
    (s.pay t k).performed v c sc n = s.performed v c sc n := by
  unfold State.performed
  rw [State.ops_pay]
  rfl

theorem fence_runs {scope : BitVec 2} (hr : s.runs h (encHead 6 8 h + scope.toNat * 2 ^ 48) ⟨[], []⟩) :
    exec (.fence h scope) s = .next (if s.performed h.tile h.ctx scope.toNat (s.tile h.tile).seq then
        s.controlled h (s.ctx h.tile h.ctx).advance
      else s.controlled h { s.ctx h.tile h.ctx with stall := .fence scope }) := by
  show execFence h scope s = _
  rw [execFence, issue_runs hr rfl, State.performed_pay, State.seq_pay, State.advance, State.ctx_pay]
  rfl

/-- A stalled fence goes on once what it waits for is performed (R36). -/
theorem fenceComplete_goesOn {scope : BitVec 2} (ht : h.tile < Config.tiles) (hx : (s.ctx h.tile h.ctx).stall = .fence scope)
    (hp : s.performed h.tile h.ctx scope.toNat (s.tile h.tile).seq = true) :
    exec (.fenceComplete h.tile h.ctx) s
      = .next (s.setCtx h.tile h.ctx { s.ctx h.tile h.ctx with stall := .none }.advance) := by
  refine (if_pos ht).trans ?_
  dsimp only
  rw [hx]
  exact congrArg Host.Outcome.next (if_pos hp)

end

/-- Settles O34: the token each of twait and tset leaves, and a fence's two ways on, at issue and out of its stall. -/
theorem tokensAndFences : Obligations.TokensAndFences := by
  unfold Obligations.TokensAndFences
  intro h tok value sd scope s x k token wt
  refine ⟨fun hr => ⟨fun hk => ⟨_, twait_takes hr hk, s.tokened_spec h _ _⟩, twait_stalls hr⟩, fun hx hr => twait_again hx hr,
    fun hr => ⟨_, tset_sets hr, s.tokened_spec h _ _⟩, tread_writes, fun hr => ⟨fun hp => ?_, fun hp => ?_⟩, fun ht hx hp => ?_⟩
  · obtain ⟨hS, hPV, hon⟩ := State.keepsS_of_ctx (s.ctx_controlled h x.advance)
    exact ⟨_, (fence_runs hr).trans (congrArg Host.Outcome.next (if_pos hp)), hS, hPV, hon, s.elsewhere_controlled h _⟩
  · refine ⟨_, (fence_runs hr).trans (congrArg Host.Outcome.next (if_neg ?_)), s.ctx_controlled h _, s.elsewhere_controlled h _⟩
    rw [hp]
    exact Bool.false_ne_true
  · have hc : (s.setCtx h.tile h.ctx { x with stall := .none }.advance).ctx h.tile h.ctx = { x with stall := .none }.advance :=
      State.ctx_setCtx ..
    exact ⟨_, fenceComplete_goesOn ht hx hp, State.keepsS_of_regs hc rfl, State.keepsPV_of_ctx hc, State.wentOn_of_ctx hc rfl rfl,
      s.elsewhere_setCtx h _, congrArg Ctx.stall hc⟩

end Sys2Proof.Machine

/-! Commands whose units exist (R58, R84, R511; log 3). -/

namespace Sys2Proof.Machine

/-- Every unit a well-formed command names is one the module has. -/
theorem Instr.unit_exists {i : Instr} (hw : i.wellFormed = true) {k : Kind} {n : Nat} (hn : .unit k n ∈ i.checks) : n < k.count := by
  have h := List.all_eq_true.1 hw _ hn
  simpa [Check.holds] using h

/-- The event of a unit that the module has answers its next state. The issue of an instruction is such an event, of its tile, whatever
the instruction does: a fault it finds is taken by its context (R84). -/
theorem within_next {n l : Nat} {t : State} (h : n < l) : ∃ u, within n l (.next t) = .next u := ⟨t, if_pos h⟩

/-- The event of two units, one of them within the other. -/
theorem within_within_next {n l m k : Nat} {t : State} (h : n < l) (h' : m < k) :
    ∃ u, within n l (within m k (.next t)) = .next u := ⟨t, (if_pos h).trans (if_pos h')⟩

theorem ite_next {c : Prop} [Decidable c] {a b : Out} (ha : ∃ t, a = .next t) (hb : ∃ t, b = .next t) :
    ∃ t, (if c then a else b) = .next t := by
  split
  · exact ha
  · exact hb

/-- A word of nop issues, and a legal word of another instruction is no nop and leaves the state. -/
theorem nop_next {tile : Nat} {c : Ctxt} {w : Word} {s : State} (ht : tile < Config.tiles) : ∃ t, exec (.nop tile c w) s = .next t :=
  ite_next (within_next ht) (within_next ht)

/-- twait issues, or its context may not and it leaves the state. -/
theorem twait_next {h : Head} {tok : BitVec 4} {s : State} (ht : h.tile < Config.tiles) : ∃ t, exec (.twait h tok) s = .next t :=
  ite_next (within_next ht) (within_next ht)

/-- A command whose units exist answers a next state: an instruction issues on its tile, an event takes place in its unit or units, and
every other command names none that could be absent. -/
theorem exec_next {i : Instr} (hw : i.wellFormed = true) (s : State) : ∃ t, exec i s = .next t := by
  have hu := @Instr.unit_exists i hw
  cases i
  case nop => exact nop_next (hu List.mem_cons_self)
  case twait => exact twait_next (hu List.mem_cons_self)
  -- instructions, each issued on its tile
  case end_ | movi | ldhi | mtc | pset | pseti | plog | br | brl | jr | jrl | loop | loopi | mfc | fret | lds | sts | trap | rdtime
      | copy | ldn | stn | atom | arm | arrive | wait | migrateDrain | migrateDiscard | scread | tset | tread | fence | tpush | tpop
      | bkput | bkrd | plansw | add | sub | mul | mulhu | and_ | or_ | xor_ | shl | shr | sra | min_ | max_ | minu | maxu | addi | andi
      | ori | xori | shli | shri | srai | mmul | mslice | mread | manchor | mclear | vadd | vsub | vmul | vfma | vmin | vmax | vabs
      | vneg | vcvt | vcmp | vsel | vand | vor | vxor | vshl | vshr | vld | vst | vbcast | vext | vrsum | vrmax | vrmin | vperm | vmovi
      | fexp | flog | frcp | frsq | cbload | cbswap | cblook | chrd | chctlPause | chctlResume | chctlAbort | bkarm | xfire | xa2a =>
    exact within_next (hu List.mem_cons_self)
  -- events of one unit
  case contextEnded | unitFault | contextSwitchToL | contextSwitchToF | unitInstructionStart | unitInstructionComplete
      | copyQueueFullStall | narrowComplete | narrowPathFullStall | waitRetest | waitTimeout | migrateDrainComplete | fenceComplete
      | engineGrant | collOpen | collDeadline | bkctlAbort | dwPartnerTimeout | dwSentFlitRelease | edgeSwitchPlacement | spareTakeover
      | spareRelease | edgeAdmission | portBringup | portReset | lossOfLight | probe | lightReturned | patrolScrub | takeOutOfService
      | returnToService | channelLeavingDone | channelFillDone | startGenerator | stopGenerator | generatorDone | govRefill | poolGrant
      | throttleFactorStep | idleGate | sensorSample | thermalShutdown | linkLaneFail | linkDegraded | shadowCompare | shadowTimeout
      | shadowRecordReceived | ucieBringup | sqDoorbell | completionRecord | cqDoorbell | sccountWrite | sctargetWrite
      | writtenValueTakesEffect =>
    exact within_next (hu List.mem_cons_self)
  -- events of two units
  case copyStart | copyComplete | gatewayTransfer | linkBlockReceived | nakReplay | replayTimeout | portRetrain | trainingFrame
      | verifyTimeout | lockAttemptTimeout | ringFailed | lockLoss | laserHigh | laserHighClear | laserLow | bundleUp =>
    exact within_within_next (hu List.mem_cons_self) (hu (List.mem_cons_of_mem _ List.mem_cons_self))
  -- commands that name no unit by number
  all_goals exact ⟨_, rfl⟩

/-- Settles O4: a well-formed command names units that exist, so none of its checks of a unit fails, and nothing else stops a command. A
command that cannot come about leaves the state: the model's choice (log 3). -/
theorem wellFormedNeverStops : Obligations.WellFormedNeverStops := by
  unfold Obligations.WellFormedNeverStops
  intro c s hw
  exact exec_next hw s

end Sys2Proof.Machine

/-! The accumulator element and the INT8 product (Table 4-5, R105 to R107, R110, R111, R124, R128, R132). -/

namespace Sys2Proof.Machine

/-! ## Two's complement (R3) -/

/-- The signed reading of `w` bits is the balanced remainder modulo 2^w. -/
theorem sext_eq_bmod (w v : Nat) : sext w v = (v : Int).bmod (2 ^ w) := by
  have hmid : (2 ^ w + 1) / 2 = 2 ^ (w - 1) := by
    cases w with
    | zero => rfl
    | succ n => rw [Nat.pow_succ, Nat.add_sub_cancel]; omega
  have hhalf : (((2 ^ w : Nat) : Int) + 1) / 2 = ((2 ^ (w - 1) : Nat) : Int) := by
    rw [← hmid]; rfl
  unfold sext Int.bmod
  simp only [hhalf, ← Int.natCast_mod, Int.ofNat_lt]

/-- Only the low `w` bits count. -/
theorem sext_mod (w v : Nat) : sext w (v % 2 ^ w) = sext w v := by
  unfold sext
  rw [Nat.mod_mod]

theorem wrapInt_lt (w : Nat) (i : Int) : wrapInt w i < 2 ^ w := by
  have hpos : (0 : Int) < ((2 ^ w : Nat) : Int) := Int.natCast_pos.2 (Nat.two_pow_pos w)
  unfold wrapInt
  exact (Int.toNat_lt (Int.emod_nonneg _ hpos.ne')).2 (Int.emod_lt_of_pos _ hpos)

theorem sext_wrapInt (w : Nat) (i : Int) : sext w (wrapInt w i) = i.bmod (2 ^ w) := by
  have hne : ((2 ^ w : Nat) : Int) ≠ 0 := Int.natCast_ne_zero.2 (Nat.two_pow_pos w).ne'
  rw [sext_eq_bmod, wrapInt, Int.toNat_of_nonneg (Int.emod_nonneg _ hne), Int.emod_bmod]

/-- An integer that `w + 1` bits hold is read as it was written. -/
theorem sext_wrapInt_of_fits {w : Nat} {i : Int} (hlo : -(2 : Int) ^ w ≤ i) (hhi : i < 2 ^ w) :
    sext (w + 1) (wrapInt (w + 1) i) = i := by
  have hhalf : ((2 ^ (w + 1) : Nat) : Int) = 2 * 2 ^ w := by push_cast; ring
  rw [sext_wrapInt]
  exact Int.bmod_eq_of_le (by rw [hhalf]; omega) (by rw [hhalf]; omega)

/-! ## The 256 bits of an element (Table 4-5) -/

section
variable (k : Kx)

/-- The fields of an element, lowest first; 11 reserved bits lie between ASET and NAN. -/
theorem Kx.toBits_eq : k.toBits = wrapInt 144 k.t + 2 ^ 144 * (wrapInt 12 k.anchor + 2 ^ 12 * (b2n k.aset
    + 2 ^ 12 * (b2n k.nan + 2 * (b2n k.pinf + 2 * (b2n k.ninf + 2 * (b2n k.inexact + 2 * b2n k.ovf)))))) := by
  unfold Kx.toBits
  ring

theorem Kx.toBits_t : k.toBits % 2 ^ 144 = wrapInt 144 k.t := by
  rw [Kx.toBits_eq, Nat.add_mul_mod_self_left, Nat.mod_eq_of_lt (wrapInt_lt ..)]

/-- What lies above T. -/
theorem Kx.toBits_aboveT : k.toBits / 2 ^ 144 = wrapInt 12 k.anchor + 2 ^ 12 * (b2n k.aset
    + 2 ^ 12 * (b2n k.nan + 2 * (b2n k.pinf + 2 * (b2n k.ninf + 2 * (b2n k.inexact + 2 * b2n k.ovf))))) := by
  rw [Kx.toBits_eq, Nat.add_mul_div_left _ _ (Nat.two_pow_pos _), Nat.div_eq_of_lt (wrapInt_lt ..), Nat.zero_add]

theorem Kx.toBits_anchor : bits k.toBits 155 144 = wrapInt 12 k.anchor := by
  unfold bits
  rw [Kx.toBits_aboveT, Nat.add_mul_mod_self_left, Nat.mod_eq_of_lt (wrapInt_lt ..)]

/-- What lies above A. -/
theorem Kx.toBits_aboveAnchor : k.toBits / 2 ^ 156 = b2n k.aset
    + 2 ^ 12 * (b2n k.nan + 2 * (b2n k.pinf + 2 * (b2n k.ninf + 2 * (b2n k.inexact + 2 * b2n k.ovf)))) := by
  rw [show (2 : Nat) ^ 156 = 2 ^ 144 * 2 ^ 12 from rfl, ← Nat.div_div_eq_div_mul, Kx.toBits_aboveT,
    Nat.add_mul_div_left _ _ (Nat.two_pow_pos _), Nat.div_eq_of_lt (wrapInt_lt ..), Nat.zero_add]

/-- A bit from ASET up, by its place above A. -/
theorem bit_above (v n : Nat) : bit v (156 + n) = bit (v / 2 ^ 156) n := by
  unfold bit
  rw [Nat.pow_add, Nat.div_div_eq_div_mul]

/-- The six flags are at the bits of Table 4-5. -/
theorem Kx.toBits_flags : bit k.toBits 156 = k.aset ∧ bit k.toBits 168 = k.nan ∧ bit k.toBits 169 = k.pinf
    ∧ bit k.toBits 170 = k.ninf ∧ bit k.toBits 171 = k.inexact ∧ bit k.toBits 172 = k.ovf := by
  have place : ∀ n, bit k.toBits (156 + n) = bit (b2n k.aset
      + 2 ^ 12 * (b2n k.nan + 2 * (b2n k.pinf + 2 * (b2n k.ninf + 2 * (b2n k.inexact + 2 * b2n k.ovf))))) n := fun n => by
    rw [bit_above, Kx.toBits_aboveAnchor]
  have flags : ∀ a b c d e f : Bool,
      let v := b2n a + 2 ^ 12 * (b2n b + 2 * (b2n c + 2 * (b2n d + 2 * (b2n e + 2 * b2n f))))
      bit v 0 = a ∧ bit v 12 = b ∧ bit v 13 = c ∧ bit v 14 = d ∧ bit v 15 = e ∧ bit v 16 = f := by decide
  obtain ⟨h0, h12, h13, h14, h15, h16⟩ := flags k.aset k.nan k.pinf k.ninf k.inexact k.ovf
  exact ⟨(place 0).trans h0, (place 12).trans h12, (place 13).trans h13, (place 14).trans h14, (place 15).trans h15,
    (place 16).trans h16⟩

/-- The 256 bits hold an element whose T and A are in their ranges. -/
theorem Kx.ofBits_toBits (htl : -(2 : Int) ^ 143 ≤ k.t) (hth : k.t < 2 ^ 143) (hal : -2048 ≤ k.anchor) (hah : k.anchor < 2048) :
    Kx.ofBits k.toBits = k := by
  obtain ⟨haset, hnan, hpinf, hninf, hinexact, hovf⟩ := k.toBits_flags
  have ht : sext 144 k.toBits = k.t := by
    rw [← sext_mod, Kx.toBits_t]
    exact sext_wrapInt_of_fits htl hth
  have hanchor : sext 12 (bits k.toBits 155 144) = k.anchor := by
    rw [Kx.toBits_anchor]
    exact sext_wrapInt_of_fits (w := 11) hal hah
  unfold Kx.ofBits
  rw [ht, hanchor, haset, hnan, hpinf, hninf, hinexact, hovf]

end

/-! ## One exact product (R105 to R107) -/

/-- A number on or above the grid needs no rounding. -/
theorem roundTo_onGrid (rnd : Rnd) (m d : Nat) (q : Int) : roundTo rnd m (q + d) q = m * 2 ^ d := by
  unfold roundTo
  rw [if_pos (by omega), show (q + d - q).toNat = d by omega]

theorem exactAt_onGrid (m d : Nat) (q : Int) : exactAt m (q + d) q = true := by
  unfold exactAt
  rw [decide_eq_true (by omega : q ≤ q + d), Bool.true_or]

theorem not_inWindow (t : Int) : (!inWindow t) = decide (t < -(2 : Int) ^ 127 ∨ 2 ^ 127 ≤ t) := by
  unfold inWindow
  rw [Bool.eq_iff_iff]
  simp only [Bool.not_eq_true', Bool.and_eq_false_iff, decide_eq_false_iff_not, decide_eq_true_eq, not_le, not_lt, Nat.cast_pow,
    Nat.cast_ofNat]

theorem sgnInt_natAbs (neg : Bool) (n : Nat) : (sgnInt neg n).natAbs = n := by
  cases neg
  · exact Int.natAbs_natCast n
  · exact (Int.natAbs_neg _).trans (Int.natAbs_natCast n)

/-- A product on or above the anchor, of fewer than 127 bits, is added exactly where T holds the sum; OVF is set outside the window. -/
theorem Kx.add_onGrid (k : Kx) (neg : Bool) {m d : Nat} (hq : m * 2 ^ d < 2 ^ 127) (ht : k.t.natAbs + m * 2 ^ d < 2 ^ 143) :
    let t := k.t + sgnInt neg (m * 2 ^ d)
    k.add (.fin neg m (k.anchor + d)) = { k with t := t, ovf := k.ovf || decide (t < -(2 : Int) ^ 127 ∨ 2 ^ 127 ≤ t) } := by
  have habs := sgnInt_natAbs neg (m * 2 ^ d)
  have hfits : sext 144 (wrapInt 144 (k.t + sgnInt neg (m * 2 ^ d))) = k.t + sgnInt neg (m * 2 ^ d) :=
    sext_wrapInt_of_fits (by omega) (by omega)
  dsimp only [Kx.add]
  rw [roundTo_onGrid, exactAt_onGrid, if_neg (Nat.not_le.2 hq), hfits, not_inWindow, Bool.not_true, Bool.or_false]

/-- R110: NAN, both infinities, or OVF without an infinity reads as NaN. -/
theorem Kx.value_nan {k : Kx} (h : k.nan = true ∨ k.pinf = true ∧ k.ninf = true ∨ k.ovf = true ∧ k.pinf = false ∧ k.ninf = false) :
    k.value = .nan := by
  unfold Kx.value
  obtain hn | ⟨hp, hm⟩ | ⟨ho, hp, hm⟩ := h
  · simp [hn]
  · simp [hp, hm]
  · simp [ho, hp, hm]

/-! ## Integer products of a FAST job (R99, R111, R124, R128) -/

/-- The integer that a number without a fraction stands for. -/
def FVal.toInt : FVal → Int
  | .fin neg q e => sgnInt neg (q * 2 ^ e.toNat)
  | _ => 0

theorem sgnInt_mul (a b : Bool) (m n : Nat) : sgnInt (a != b) (m * n) = sgnInt a m * sgnInt b n := by
  cases a <;> cases b <;> simp [sgnInt]

theorem sgnInt_of_int (i : Int) : sgnInt (decide (i < 0)) i.natAbs = i := by
  unfold sgnInt
  simp only [decide_eq_true_eq]
  split <;> omega

/-- The value of a two's-complement pattern is its signed reading at exponent 0. -/
theorem intVal_eq (w v : Nat) : intVal w v = .fin (decide (sext w v < 0)) (sext w v).natAbs 0 := by
  unfold intVal FVal.ofInt
  split
  · rename_i h
    rw [h]
    rfl
  · rfl

/-- The product of two two's-complement patterns is the product of their signed readings. -/
theorem FVal.toInt_mul_intVal (w v u b : Nat) : ((intVal w v).mul (intVal u b)).toInt = sext w v * sext u b := by
  rw [intVal_eq, intVal_eq]
  show sgnInt _ (_ * 1) = _
  rw [Nat.mul_one, sgnInt_mul, sgnInt_of_int, sgnInt_of_int]

/-- A fold that adds a number for each member adds their sum. -/
theorem foldl_add_sum {α : Type} {f : Int → α → Int} {g : α → Int} (h : ∀ n a, f n a = n + g a) (l : List α) (n : Int) :
    l.foldl f n = n + (l.map g).sum := by
  induction l generalizing n with
  | nil => exact (Int.add_zero n).symm
  | cons a l ih => rw [List.foldl_cons, ih, h, List.map_cons, List.sum_cons, Int.add_assoc]

section
variable {x : MArgs} (m : MData) (i j : Nat)

/-- An INT8 or INT4 update of a FAST job adds the products' integers to the old element, or to 0 under VAR[0], modulo 2^32. -/
theorem MArgs.update_int (old : Nat) (ts ps : List FVal) (hop : x.op = 0) (hfmt : x.fmt = 13 ∨ x.fmt = 14) (hfast : x.num.fast = true) :
    x.update m i j old ts ps = wrapInt 32 ((if x.var % 2 = 1 then 0 else sext 32 old) + (ps.map FVal.toInt).sum) := by
  have hstart : sext 32 (if bit x.var 0 = true then 0 else old) = if x.var % 2 = 1 then 0 else sext 32 old := by
    rw [show bit x.var 0 = decide (x.var % 2 = 1) by rw [bit, pow_zero, Nat.div_one], apply_ite (sext 32)]
    simp only [decide_eq_true_eq]
    rfl
  unfold MArgs.update
  rw [if_neg (by omega), ← hstart]
  simp only [hfast, Bool.not_true, Bool.false_eq_true, if_false, if_pos hfmt]
  congr 1
  exact foldl_add_sum (fun n p => by cases p <;> simp [FVal.toInt]) ps _

/-- The sixteen products of an INT8 element in weight-stationary flow: S(i, k) at byte 64k + i times T(j, k) at byte 16j + k (R128). -/
theorem MArgs.products_int8 (hop : x.op = 0) (hfmt : x.fmt = 13) (hflow : x.flow = 0) : x.products m i j
    = (List.range 16).map fun k => (intVal 8 (packedElem 8 m.a (64 * k + i))).mul (intVal 8 (packedElem 8 m.b (16 * j + k))) := by
  have hos : x.os = false := by simp [MArgs.os, hflow]
  have hmx : x.mx = false := by simp [MArgs.mx, hfmt, fmtIsMx]
  have hd : x.d = 8 := by simp [MArgs.d, hfmt, fmtWidth]
  have hk : x.k = 16 := by simp [MArgs.k, hop, hd]
  have hbfmt : x.bfmt = 13 := by simp [MArgs.bfmt, hfmt]
  have hval : ∀ scale v, mElem false 13 scale v = intVal 8 v := fun _ _ => rfl
  simp [MArgs.products, MArgs.stat, MArgs.strm, hop, hos, hmx, hd, hk, hfmt, hbfmt, hflow, hval]

end

theorem sext_packedElem (w img k : Nat) : sext w (packedElem w img k) = sext w (img / 2 ^ (w * k)) := sext_mod ..

/-- Settles O21: each clause of the element by its rule, and the INT8 update as the sum of the integers of its products. -/
theorem matrixArithmetic : Obligations.MatrixArithmetic := by
  unfold Obligations.MatrixArithmetic
  refine ⟨fun k => ⟨k.ofBits_toBits, fun neg m d => k.add_onGrid neg, rfl, rfl, rfl, Kx.value_nan⟩,
    fun x m i j old hop hfmt hflow hfast => ?_⟩
  rw [MArgs.update_int m i j old _ _ hop (.inl hfmt) hfast, MArgs.products_int8 m i j hop hfmt hflow, List.map_map]
  congr 4
  funext k
  exact (FVal.toInt_mul_intVal ..).trans (congrArg₂ (· * ·) (sext_packedElem ..) (sext_packedElem ..))

end Sys2Proof.Machine

/-! Issue of the matrix instructions and the checks of mclear (R126, R127, R135, R141 to R143, R326). -/

namespace Sys2Proof.Machine

section
variable {s : State} {h : Head} {f : MF} {op : Nat} {check : State → MArgs → Option FaultAt} {exps : State → MArgs → List Nat}

/-! ## Issue -/

/-- What a matrix instruction captures at issue. -/
def State.matrixCapture (s : State) (h : Head) (op : Nat) (f : MF) : UOp :=
  capture s h .matrix (encM op h f) f.sa.toNat f.sb.toNat f.sc.toNat

/-- A context that has queued an instruction stands at its next one (R56). -/
theorem State.ctx_enqueue_advance (s : State) (t : Nat) (c : Ctxt) (o : UOp) :
    ((s.enqueue t o).advance t c).ctx t c = (s.ctx t c).advance := by
  refine (congrArg (fun y : Tile => y.ctx c) (s.tile_enqueue_advance t c o)).trans ?_
  rw [Tile.ctx_setCtx, if_pos rfl]
  rfl

/-- An instruction queued behind its tile's others, and its context gone on: nothing else changes, not even the balance. -/
theorem State.enqueue_advance_spec (s : State) (h : Head) (o : UOp) :
    let t := (s.enqueue h.tile o).advance h.tile h.ctx
    t.keepsS s h ∧ t.keepsPV s h ∧ t.wentOn s h ∧ { t with tiles := s.tiles } = s ∧ (∀ u, u ≠ h.tile → t.tile u = s.tile u)
      ∧ (t.tile h.tile).ops = (s.tile h.tile).ops ++ [{ o with seq := (s.tile h.tile).seq }]
      ∧ (∀ b, (t.tile h.tile).rdByte b = (s.tile h.tile).rdByte b) ∧ ∀ k, (t.tile h.tile).token k = (s.tile h.tile).token k := by
  intro t
  obtain ⟨hS, hPV, hon⟩ := State.keepsS_of_ctx (s.ctx_enqueue_advance h.tile h.ctx o)
  have ht := s.tile_enqueue_advance h.tile h.ctx o
  obtain ⟨hops, htok, hbyte⟩ := Tile.setCtx_keeps
    { s.tile h.tile with ops := (s.tile h.tile).ops ++ [{ o with seq := (s.tile h.tile).seq }], seq := (s.tile h.tile).seq + 1 }
    h.ctx ((s.tile h.tile).ctx h.ctx).advance
  rw [← ht] at hops htok hbyte
  refine ⟨hS, hPV, hon, rfl, fun u hu => ?_, hops, hbyte, htok⟩
  rw [State.tile_advance_other _ _ hu]
  exact (State.tile_setTile ..).trans (if_neg hu)

/-- A matrix instruction that passes its checks is queued with the exponents it takes at issue; it is charged when it starts
(R135, R326, R372). -/
theorem issueM_queues (hg : s.goes h (encM op h f) (usesM f) false = true) (hc : check s (MArgs.of s (s.matrixCapture h op f)) = none)
    (ha : s.affordable h.tile (costKey (encM op h f)) = true) : issueM op h f check exps s
      = .next ((s.enqueue h.tile { s.matrixCapture h op f with exps := exps s (MArgs.of s (s.matrixCapture h op f)) }).advance
          h.tile h.ctx) := by
  unfold State.matrixCapture at hc
  unfold issueM
  rw [issue_goes hg]
  dsimp only
  rw [hc, ha]
  rfl

/-- One that fails a check takes that fault at issue (R85). -/
theorem issueM_faults {e : FaultAt} (hg : s.goes h (encM op h f) (usesM f) false = true)
    (hc : check s (MArgs.of s (s.matrixCapture h op f)) = some e) :
    issueM op h f check exps s = .next (s.issueFault h.tile h.ctx e) := by
  unfold State.matrixCapture at hc
  unfold issueM
  rw [issue_goes hg]
  dsimp only
  rw [hc]
  rfl

end

/-! ## The order of the checks of mclear (R126, R127, R143; the order is log 19) -/

section
variable {a n : Nat}

/-- A byte before accumulator store is outside it (Table 2-3). -/
theorem outsideAcc_below (hn : 0 < n) (h : a < tileStoreEnd) : outsideAcc a n = some a :=
  (if_neg hn.ne').trans (if_pos h)

theorem outsideAcc_beyond (hn : 0 < n) (ha : tileStoreEnd ≤ a) (h : localEnd < a + n) : outsideAcc a n = some (max a localEnd) :=
  (if_neg hn.ne').trans ((if_neg (Nat.not_lt.2 ha)).trans (firstAtOrAbove_beyond hn h))

theorem outsideAcc_within (hn : 0 < n) (ha : tileStoreEnd ≤ a) (h : a + n ≤ localEnd) : outsideAcc a n = none :=
  (if_neg hn.ne').trans ((if_neg (Nat.not_lt.2 ha)).trans (firstAtOrAbove_within h))

variable {x : MArgs}

/-- The bytes that mclear stores are at least one when it has a row (R123, R143). -/
theorem clearBytes_pos (hr : 0 < x.rows) : 0 < clearWidth x.fmt * 64 * x.rows := by
  unfold clearWidth
  split <;> omega

theorem MArgs.checkClear_register (h : 2 ^ 21 ≤ x.c) : x.checkClear = some (cOPERAND, unstated) := by
  unfold MArgs.checkClear needLocal
  rw [if_neg (Nat.not_lt.2 h)]
  rfl

theorem MArgs.checkClear_misaligned (h : x.c < 2 ^ 21) (ha : x.c % clearWidth x.fmt ≠ 0) : x.checkClear = some (cALIGN, x.c) := by
  unfold MArgs.checkClear needLocal needAlign
  dsimp only
  rw [if_pos h, if_neg ha]
  rfl

/-- With a good address the range decides. -/
theorem MArgs.checkClear_range (h : x.c < 2 ^ 21) (ha : x.c % clearWidth x.fmt = 0) :
    x.checkClear = needStore (outsideAcc x.c (clearWidth x.fmt * 64 * x.rows)) := by
  unfold MArgs.checkClear needLocal needAlign
  dsimp only
  rw [if_pos h, if_pos ha]
  cases outsideAcc x.c (clearWidth x.fmt * 64 * x.rows) <;> rfl

end

/-! ## The obligation -/

/-- Settles O22: the act of each instruction by its check, and the check of mclear by its register, its alignment and its range. -/
theorem matrixIssue : Obligations.MatrixIssue := by
  unfold Obligations.MatrixIssue
  refine ⟨fun h f s => ?_, fun x _ hr => ?_⟩
  · intro issues no
    have key : ∀ op i (check : State → MArgs → Option FaultAt) (exps : State → MArgs → List Nat),
        exec i s = issueM op h f check exps s → issues op i (check s) (exps s) := by
      intro op i check exps hi hg
      refine ⟨fun hc ha => ?_, fun e he => hi.trans (issueM_faults hg he)⟩
      obtain ⟨hS, hPV, hon, hrest, hother, hops, hbyte, htok⟩ := s.enqueue_advance_spec h
        { s.matrixCapture h op f with exps := exps s (MArgs.of s (s.matrixCapture h op f)) }
      exact ⟨_, hi.trans (issueM_queues hg hc ha), hS, hPV, hon, hrest, hother, hops, rfl, rfl, rfl, rfl, hbyte, htok⟩
    exact ⟨key 0 _ (fun _ => MArgs.checkMul) (fun _ => no) rfl, key 1 _ (fun _ => MArgs.checkMul) (fun _ => no) rfl,
      key 2 _ (fun _ => MArgs.checkRead) (fun _ => no) rfl, key 3 _ State.checkManchor State.anchorExps rfl,
      key 4 _ (fun _ => MArgs.checkClear) (fun _ => no) rfl⟩
  · have hn := clearBytes_pos hr
    have hlocal : localEnd < 2 ^ 21 := by decide
    refine ⟨MArgs.checkClear_register, MArgs.checkClear_misaligned, fun hc ha hlow => ?_, fun hc ha hhigh => ?_,
      fun ha hlow hhigh hout => ?_, fun ha hlow hin => ?_⟩
    · rw [MArgs.checkClear_range hc ha, outsideAcc_below hn hlow]
      rfl
    · rw [MArgs.checkClear_range hc ha, outsideAcc_beyond hn (le_trans (by decide) hhigh) (by omega), Nat.max_eq_left hhigh]
      rfl
    · rw [MArgs.checkClear_range (hhigh.trans hlocal) ha, outsideAcc_beyond hn hlow hout, Nat.max_eq_right hhigh.le]
      rfl
    · rw [MArgs.checkClear_range (by omega) ha, outsideAcc_within hn hlow hin]
      rfl

end Sys2Proof.Machine

/-! V instructions that write vector elements: what each writes to the elements that take part (R158 to R161, Table 6-1). -/

namespace Sys2Proof.Machine

/-! ## The fields of a V word (Table 3-3) -/

section
variable {op : Nat} (h : Head) (f : VF) (ho : op < 64)
include ho

@[simp] theorem wOp_encV : wOp (encV op h f) = op := (encV_fields op h f ho).1
@[simp] theorem encV_vd : bits (encV op h f) 39 35 = f.vd.toNat := (encV_fields op h f ho).2.1
@[simp] theorem encV_va : bits (encV op h f) 34 30 = f.va.toNat := (encV_fields op h f ho).2.2.1
@[simp] theorem encV_vb : bits (encV op h f) 29 25 = f.vb.toNat := (encV_fields op h f ho).2.2.2.1
@[simp] theorem encV_vc : bits (encV op h f) 24 20 = f.vc.toNat := (encV_fields op h f ho).2.2.2.2.1
@[simp] theorem encV_ty : bits (encV op h f) 19 15 = f.ty.toNat := (encV_fields op h f ho).2.2.2.2.2.1
@[simp] theorem encV_sa : bits (encV op h f) 14 9 = f.sa.toNat := (encV_fields op h f ho).2.2.2.2.2.2.1
@[simp] theorem encV_imm9 : bits (encV op h f) 8 0 = f.imm9.toNat := (encV_fields op h f ho).2.2.2.2.2.2.2

/-- CLASS of a V word is 3. -/
theorem wCls_encV : wCls (encV op h f) = 3 := by
  have hp := h.pred.isLt
  have hn := b2n_le h.pneg
  have h1 := f.tw.isLt; have h2 := f.ts.isLt; have h3 := f.vd.isLt; have h4 := f.va.isLt; have h5 := f.vb.isLt
  have h6 := f.vc.isLt; have h7 := f.ty.isLt; have h8 := f.sa.isLt; have h9 := f.imm9.isLt
  unfold wCls encV encHead bits
  omega

end

/-- A field that starts at bit 0 is a remainder. -/
theorem bits_low (v hi : Nat) : bits v hi 0 = v % 2 ^ (hi + 1) := by
  unfold bits
  rw [Nat.pow_zero, Nat.div_one, Nat.sub_zero]

/-- Bit 0 says whether the number is odd. -/
theorem bit_low (v : Nat) : bit v 0 = decide (v % 2 = 1) := by
  unfold bit
  rw [Nat.pow_zero, Nat.div_one]

/-- A word of class V that goes is legal as one (R58). -/
theorem State.startsAtIssue_legalV {s : State} {h : Head} {u : TUnit} {op : Nat} {f : VF} (ho : op < 64)
    (hs : s.startsAtIssue h u (encV op h f)) : legalV op (encV op h f) = true := by
  obtain ⟨-, -, -, hl, -, -⟩ := State.goes_iff.1 hs.1
  unfold legal at hl
  rw [wCls_encV h f ho] at hl
  simpa only [wOp_encV h f ho] using hl

/-! ## Lists of elements -/

/-- Context `x` with the elements of register `d` that take part holding `v` (R61, R159). -/
def Ctx.setElems (x : Ctx) (ty d : Nat) (mask : Word) (v : Nat → Nat) : Ctx :=
  x.wrElems ty d mask ((List.range (elemsOf ty)).map v)

section
variable (x : Ctx) (ty d : Nat) (mask : Word)

theorem Ctx.wrElems_zipWith (g : Nat → Nat → Nat) (a b : Nat) : x.wrElems ty d mask (List.zipWith g (x.elems ty a) (x.elems ty b))
    = x.setElems ty d mask fun k => g (x.rdElem ty a k) (x.rdElem ty b k) := by
  unfold Ctx.setElems Ctx.elems
  rw [List.zipWith_map, List.zipWith_self]

theorem Ctx.wrElems_map (g : Nat → Nat) (a : Nat) : x.wrElems ty d mask ((x.elems ty a).map g)
    = x.setElems ty d mask fun k => g (x.rdElem ty a k) := by
  unfold Ctx.setElems Ctx.elems
  rw [List.map_map]
  rfl

theorem Ctx.wrElems_replicate (v : Nat) : x.wrElems ty d mask (List.replicate (elemsOf ty) v) = x.setElems ty d mask fun _ => v := by
  unfold Ctx.setElems
  rw [List.map_const', List.length_range]

/-- Element `k` of a register's elements. -/
theorem Ctx.elems_getD (r : Nat) {k : Nat} (hk : k < elemsOf ty) : (x.elems ty r).getD k 0 = x.rdElem ty r k := by
  unfold Ctx.elems
  rw [List.getD_eq_getElem _ _ (by simpa using hk)]
  simp

/-- A list over the numbers below `n`, each entry with its place. -/
theorem zipIdx_map_range {α : Type} (n : Nat) (g : Nat → α) : ((List.range n).map g).zipIdx = (List.range n).map fun k => (g k, k) :=
  List.ext_getElem (by simp) fun i hi hi' => by simp

end

/-! ## Instructions that write elements -/

section
variable {s : State} {h : Head} {f : VF} {op : Nat} {i : Instr} {check : State → Option FaultAt}

/-- An instruction other than vld and vst has its effect on the context (R172). -/
theorem State.runV_register {T : State} {o : UOp} {t : Nat} {sram : Sram} (hl : wOp o.word.toNat ≠ 0x10) (hs : wOp o.word.toNat ≠ 0x11) :
    T.runV t o sram = T.setCtx t o.ctx ((T.ctx t o.ctx).runV (NumCfg.ofReg (T.reg .NUMCFG 0)) o) := by
  unfold State.runV
  rw [if_neg hl, if_neg hs]

/-- A register instruction whose effect is to give the elements of a register values. -/
theorem State.writesV_runV {ty d : Nat} {v : Nat → Nat} (he : exec i s = issueV op h f check .good s) (hc : check s = none)
    (ho : op < 64) (hl : op ≠ 0x10) (hst : op ≠ 0x11)
    (hr : ∀ o : UOp, o.word.toNat = encV op h f → o.mask = laneMask ((s.ctx h.tile h.ctx).rdP h.pred.toNat) h.pneg →
      o.va = (s.ctx h.tile h.ctx).rdS f.sa.toNat → o.vb = (s.ctx h.tile h.ctx).rdS (f.sa.toNat + 1) →
      (s.ctx h.tile h.ctx).advance.runV (NumCfg.ofReg (s.reg .NUMCFG 0)) o
        = (s.ctx h.tile h.ctx).advance.setElems ty d o.mask v) : s.writesV h .vector (encV op h f) i ty d v := by
  refine State.writesV_of (vs := (List.range (elemsOf ty)).map v) he ho hc (fun T o hw hctx hm hva hvb hx hregs _ _ => ?_)
    (by simp) (fun k hk => ?_)
  · have hop : wOp o.word.toNat = op := by rw [hw, wOp_encV h f ho]
    rw [State.runV_register (by rwa [hop]) (by rwa [hop]), hctx, hx, State.reg_congr hregs, hr o hw hm hva hvb, hm]
    rfl
  · rw [List.getD_eq_getElem _ _ (by simpa using hk)]
    simp

/-- A context that has gone on and written elements of a register. -/
theorem State.onlyV_of_ctx {t : State} {ty d : Nat} {v : Nat → Nat} (ht : t.ctx h.tile h.ctx
      = (s.ctx h.tile h.ctx).advance.setElems ty d (laneMask ((s.ctx h.tile h.ctx).rdP h.pred.toNat) h.pneg) v) :
    t.onlyV s h ty d v ∧ t.keepsS s h ∧ (∀ j, (t.ctx h.tile h.ctx).rdP j = (s.ctx h.tile h.ctx).rdP j) ∧ t.wentOn s h := by
  have hlen : ((List.range (elemsOf ty)).map v).length = elemsOf ty := by simp
  unfold State.onlyV State.keepsS State.wentOn
  rw [ht]
  unfold Ctx.setElems
  refine ⟨⟨fun k hk => ?_, fun r k hr hk => ?_⟩, fun j => ?_, fun j => ?_, ?_⟩
  · rw [Ctx.rdElem_wrElems _ _ _ _ _ hlen k hk, List.getD_eq_getElem _ _ (by rwa [hlen]), List.getElem_map, List.getElem_range]
    rfl
  · rw [Ctx.rdLane_wrElems _ _ _ _ _ hlen r k hr hk, Ctx.rdLane_advance]
  · rw [Ctx.rdS_wrElems, Ctx.rdS_advance]
  · rw [Ctx.rdP_wrElems, Ctx.rdP_advance]
  · rw [(Ctx.flow_wrElems ..).1, (Ctx.flow_wrElems ..).2]
    rfl

/-- Only the bits that an element holds count. -/
theorem State.writesV_congr {u : TUnit} {w ty d : Nat} {v v' : Nat → Nat} (hv : s.writesV h u w i ty d v)
    (he : s.startsAtIssue h u w → ∀ k, k < elemsOf ty → v k % 2 ^ (if ty = 1 then 64 else 32) = v' k % 2 ^ (if ty = 1 then 64 else 32)) :
    s.writesV h u w i ty d v' := by
  intro hs
  obtain ⟨t, ht, ⟨hd, hother⟩, hrest⟩ := hv hs
  exact ⟨t, ht, ⟨fun k hk => by rw [hd k hk, he hs k hk], hother⟩, hrest⟩

/-! ## Operations on two vectors and on one (Table 6-1) -/

/-- The operation on each pair of elements that an OP of two source vectors names (Table 6-1). -/
def twoSource (ty imm : Nat) : Nat → Option (Nat → Nat → Nat)
  | 0x00 => some (vecAdd ty)
  | 0x01 => some (vecSub ty)
  | 0x02 => some (vecMul ty)
  | 0x04 => some (vecMin ty)
  | 0x05 => some (vecMax ty)
  | 0x0B => some (· &&& ·)
  | 0x0C => some (· ||| ·)
  | 0x0D => some (· ^^^ ·)
  | 0x0E => some vecShl
  | 0x0F => some (vecShr (bit imm 0))
  | _ => none

/-- These OPs have six bits and access no memory. -/
theorem twoSource_op {ty imm : Nat} {g : Nat → Nat → Nat} (hg : twoSource ty imm op = some g) : op < 0x10 := by
  unfold twoSource at hg
  split at hg <;> simp at hg ⊢

theorem Ctx.runV_two {x : Ctx} {num : NumCfg} {o : UOp} {g : Nat → Nat → Nat} (hw : o.word.toNat = encV op h f)
    (hg : twoSource f.ty.toNat f.imm9.toNat op = some g) : x.runV num o = x.setElems f.ty.toNat f.vd.toNat o.mask
      fun k => g (x.rdElem f.ty.toNat f.va.toNat k) (x.rdElem f.ty.toNat f.vb.toNat k) := by
  have ho : op < 64 := (twoSource_op hg).trans (by decide)
  rw [← Ctx.wrElems_zipWith]
  unfold Ctx.runV
  simp only [hw, wOp_encV h f ho, encV_vd h f ho, encV_va h f ho, encV_vb h f ho, encV_ty h f ho, encV_imm9 h f ho]
  unfold twoSource at hg
  split at hg <;> cases hg <;> rfl

theorem State.writesV_two {g : Nat → Nat → Nat} (he : exec i s = issueV op h f noCheck .good s)
    (hg : twoSource f.ty.toNat f.imm9.toNat op = some g) : s.writesV h .vector (encV op h f) i f.ty.toNat f.vd.toNat fun k =>
      g ((s.ctx h.tile h.ctx).rdElem f.ty.toNat f.va.toNat k) ((s.ctx h.tile h.ctx).rdElem f.ty.toNat f.vb.toNat k) := by
  have ho := twoSource_op hg
  exact State.writesV_runV he rfl (by omega) (by omega) (by omega) fun o hw _ _ _ => Ctx.runV_two hw hg

section
variable {x : Ctx} {num : NumCfg} {o : UOp}

theorem Ctx.runV_vfma (hw : o.word.toNat = encV 0x03 h f) : x.runV num o = x.setElems f.ty.toNat f.vd.toNat o.mask fun k =>
    vecFma f.ty.toNat (x.rdElem f.ty.toNat f.va.toNat k) (x.rdElem f.ty.toNat f.vb.toNat k) (x.rdElem f.ty.toNat f.vc.toNat k) := by
  unfold Ctx.runV
  simp [hw, Ctx.setElems, Ctx.elems, List.zip_map', List.zipWith_map, List.zipWith_self]

theorem Ctx.runV_vabs (hw : o.word.toNat = encV 0x06 h f) : x.runV num o = x.setElems f.ty.toNat f.vd.toNat o.mask fun k =>
    vecAbs f.ty.toNat (x.rdElem f.ty.toNat f.va.toNat k) := by
  rw [← Ctx.wrElems_map]
  unfold Ctx.runV
  simp [hw]

theorem Ctx.runV_vneg (hw : o.word.toNat = encV 0x07 h f) : x.runV num o = x.setElems f.ty.toNat f.vd.toNat o.mask fun k =>
    vecNeg f.ty.toNat (x.rdElem f.ty.toNat f.va.toNat k) := by
  rw [← Ctx.wrElems_map]
  unfold Ctx.runV
  simp [hw]

end

end

/-! ## Integers modulo 2^32 and NaN operands (R160, R161) -/

/-- A pattern is congruent to its signed reading. -/
theorem sext_modEq (w v : Nat) : sext w v ≡ v [ZMOD ((2 ^ w : Nat) : Int)] := by
  rw [sext_eq_bmod]
  exact Int.bmod_emod

/-- Congruent to a number, wrapped to its remainder. -/
theorem wrapInt_of_modEq {w n : Nat} {i : Int} (h : i ≡ n [ZMOD ((2 ^ w : Nat) : Int)]) : wrapInt w i = n % 2 ^ w := by
  unfold wrapInt
  rw [show i % ((2 ^ w : Nat) : Int) = _ from h, ← Int.natCast_mod, Int.toNat_natCast]

/-- The signed reading of a pattern, wrapped again, is the pattern. -/
theorem wrapInt_sext {w v : Nat} (h : v < 2 ^ w) : wrapInt w (sext w v) = v := by
  rw [wrapInt_of_modEq (sext_modEq w v), Nat.mod_eq_of_lt h]

theorem FVal.add_nan {a b : FVal} (h : a.isNan = true ∨ b.isNan = true) : a.add b = .nan := by
  cases a <;> cases b <;> simp_all [FVal.isNan, FVal.add]

theorem FVal.mul_nan {a b : FVal} (h : a.isNan = true ∨ b.isNan = true) : a.mul b = .nan := by
  cases a <;> cases b <;> simp_all [FVal.isNan, FVal.mul]

theorem FVal.isNan_negate (a : FVal) : a.negate.isNan = a.isNan := by cases a <;> rfl

section
variable {a b c : Nat}

theorem vecAdd_int : vecAdd 15 a b = (a + b) % 2 ^ 32 := wrapInt_of_modEq (by
  push_cast
  exact (sext_modEq 32 a).add (sext_modEq 32 b))

theorem vecSub_int (hb : b < 2 ^ 32) : vecSub 15 a b = (a + (2 ^ 32 - b)) % 2 ^ 32 := wrapInt_of_modEq (by
  have hd : ((a + (2 ^ 32 - b) : Nat) : Int) = (a : Int) - b + ((2 ^ 32 : Nat) : Int) := by push_cast; omega
  rw [hd]
  exact ((sext_modEq 32 a).sub (sext_modEq 32 b)).trans (Int.add_modEq_right).symm)

theorem vecMul_int : vecMul 15 a b = a * b % 2 ^ 32 := wrapInt_of_modEq (by
  push_cast
  exact (sext_modEq 32 a).mul (sext_modEq 32 b))

theorem vecFma_int : vecFma 15 a b c = (a * b + c) % 2 ^ 32 := wrapInt_of_modEq (by
  push_cast
  exact ((sext_modEq 32 a).mul (sext_modEq 32 b)).add (sext_modEq 32 c))

theorem vecMin_int (ha : a < 2 ^ 32) (hb : b < 2 ^ 32) : vecMin 15 a b = if sext 32 b < sext 32 a then b else a := by
  show wrapInt 32 (min (sext 32 a) (sext 32 b)) = _
  split
  · rw [min_eq_right (le_of_lt ‹_›), wrapInt_sext hb]
  · rw [min_eq_left (not_lt.1 ‹_›), wrapInt_sext ha]

theorem vecMax_int (ha : a < 2 ^ 32) (hb : b < 2 ^ 32) : vecMax 15 a b = if sext 32 a < sext 32 b then b else a := by
  show wrapInt 32 (max (sext 32 a) (sext 32 b)) = _
  split
  · rw [max_eq_right (le_of_lt ‹_›), wrapInt_sext hb]
  · rw [max_eq_left (not_lt.1 ‹_›), wrapInt_sext ha]

theorem vecNeg_int (ha : a < 2 ^ 32) : vecNeg 15 a = (2 ^ 32 - a) % 2 ^ 32 := wrapInt_of_modEq (by
  have hd : ((2 ^ 32 - a : Nat) : Int) = -(a : Int) + ((2 ^ 32 : Nat) : Int) := by push_cast; omega
  rw [hd]
  exact (sext_modEq 32 a).neg.trans (Int.add_modEq_right).symm)

theorem vecAbs_int (ha : a < 2 ^ 32) : vecAbs 15 a = if a < 2 ^ 31 then a else 2 ^ 32 - a := by
  show wrapInt 32 (if sext 32 a < 0 then -sext 32 a else sext 32 a) = _
  have hs : sext 32 a = if a < 2 ^ 31 then (a : Int) else (a : Int) - 2 ^ 32 := by
    unfold sext
    simp only [Nat.mod_eq_of_lt ha]
    rfl
  rw [hs]
  unfold wrapInt
  split <;> split <;> omega

/-- A NaN operand of a sum, difference, product or fused product gives the canonical NaN (R160). -/
theorem vec_nan (h : (fp32.decode a).isNan = true ∨ (fp32.decode b).isNan = true) :
    vecAdd 2 a b = 0x7FC00000 ∧ vecSub 2 a b = 0x7FC00000 ∧ vecMul 2 a b = 0x7FC00000
      ∧ vecFma 2 a b c = 0x7FC00000 ∧ vecFma 2 c a b = 0x7FC00000 := by
  refine ⟨?_, ?_, ?_, ?_, ?_⟩
  · show fp32.encode .rne ((fp32.decode a).add (fp32.decode b)) = _
    rw [FVal.add_nan h]; rfl
  · show fp32.encode .rne ((fp32.decode a).add (fp32.decode b).negate) = _
    rw [FVal.add_nan (by rwa [FVal.isNan_negate])]; rfl
  · show fp32.encode .rne ((fp32.decode a).mul (fp32.decode b)) = _
    rw [FVal.mul_nan h]; rfl
  · show fp32.encode .rne (((fp32.decode a).mul (fp32.decode b)).add (fp32.decode c)) = _
    rw [FVal.mul_nan h, FVal.add_nan (.inl rfl)]; rfl
  · show fp32.encode .rne (((fp32.decode c).mul (fp32.decode a)).add (fp32.decode b)) = _
    rw [FVal.add_nan (h.imp_left fun ha => by rw [FVal.mul_nan (.inr ha)]; rfl)]; rfl

end

/-- Settles O14: each instruction by the operation its OP names on every pair of elements; the integers by congruence modulo 2^32. -/
theorem vectorArithmetic : Obligations.VectorArithmetic := by
  unfold Obligations.VectorArithmetic
  refine ⟨fun h f s => ?_, fun a b c ha hb hc => ?_⟩
  · intro x ty d a b c
    have one : ∀ {op i v}, exec i s = issueV op h f noCheck .good s → op < 0x10 → (∀ o : UOp, o.word.toNat = encV op h f →
        x.advance.runV (NumCfg.ofReg (s.reg .NUMCFG 0)) o = x.advance.setElems ty d o.mask v) →
        s.writesV h .vector (encV op h f) i ty d v :=
      fun he ho hr => State.writesV_runV he rfl (by omega) (by omega) (by omega) fun o hw _ _ _ => hr o hw
    exact ⟨State.writesV_two rfl rfl, State.writesV_two rfl rfl, State.writesV_two rfl rfl,
      one rfl (by decide) fun _ => Ctx.runV_vfma, State.writesV_two rfl rfl, State.writesV_two rfl rfl,
      one rfl (by decide) fun _ => Ctx.runV_vabs, one rfl (by decide) fun _ => Ctx.runV_vneg⟩
  · exact ⟨vecAdd_int, vecSub_int hb, vecMul_int, vecFma_int, vecMin_int ha hb, vecMax_int ha hb, vecNeg_int ha, vecAbs_int ha, vec_nan⟩

end Sys2Proof.Machine

/-! V instructions on bits, selections, permutations and comparisons, and those that do not write vector elements (R163 to R166). -/

namespace Sys2Proof.Machine

/-! ## Instructions that write elements -/

section
variable {h : Head} {f : VF} {x : Ctx} {num : NumCfg} {o : UOp}

theorem Ctx.runV_vsel (hw : o.word.toNat = encV 0x0A h f) : x.runV num o = x.setElems f.ty.toNat f.vd.toNat o.mask fun k =>
    if takesPart f.ty.toNat (x.rdP (f.vc.toNat % 8)) k then x.rdElem f.ty.toNat f.va.toNat k else x.rdElem f.ty.toNat f.vb.toNat k := by
  unfold Ctx.runV
  simp [hw, Ctx.setElems, Ctx.elems, List.zip_map', zipIdx_map_range, Function.comp_def, bits_low]

theorem Ctx.runV_vbcast (hw : o.word.toNat = encV 0x12 h f) : x.runV num o = x.setElems f.ty.toNat f.vd.toNat o.mask fun _ =>
    o.va.toNat % 2 ^ (if f.ty.toNat = 1 then 64 else 32) := by
  rw [← Ctx.wrElems_replicate]
  unfold Ctx.runV
  simp only [hw, wOp_encV, encV_vd, encV_ty, Nat.reduceLT]

theorem Ctx.runV_vmovi (hw : o.word.toNat = encV 0x18 h f) : x.runV num o = x.setElems f.ty.toNat f.vd.toNat o.mask fun _ =>
    if f.ty.toNat = 15 then wrapInt 32 (sext 9 f.imm9.toNat)
    else (arithFmt f.ty.toNat).encode .rne (FVal.ofInt false (sext 9 f.imm9.toNat) 0) := by
  rw [← Ctx.wrElems_replicate]
  unfold Ctx.runV
  simp only [hw, wOp_encV, encV_vd, encV_ty, encV_imm9, Nat.reduceLT]

theorem Ctx.runV_vperm (hw : o.word.toNat = encV 0x17 h f) : x.runV num o = x.setElems f.ty.toNat f.vd.toNat o.mask fun k =>
    x.rdElem f.ty.toNat f.va.toNat ((x.rdLane f.vb.toNat (if f.ty.toNat = 1 then 2 * k else k)).toNat % elemsOf f.ty.toNat) := by
  have hpos : 0 < elemsOf f.ty.toNat := by unfold elemsOf; split <;> decide
  unfold Ctx.runV Ctx.setElems
  simp only [hw, wOp_encV, encV_vd, encV_va, encV_vb, encV_ty, Nat.reduceLT, Ctx.elems_getD _ _ _ (Nat.mod_lt _ hpos)]

end

/-! ## vext and vcmp -/

section
variable {s : State} {h : Head} {f : VF} {op : Nat} {check : State → Option FaultAt}

/-- A register instruction that starts at its issue leaves its effect in the context, which has gone on, and its mark in the tile. -/
theorem issueV_register (hs : s.startsAtIssue h .vector (encV op h f)) (hc : check s = none) (ho : op < 64) (hl : op ≠ 0x10)
    (hst : op ≠ 0x11) : ∃ (t : State) (o : UOp), issueV op h f check .good s = .next t ∧ o.word.toNat = encV op h f
      ∧ o.mask = laneMask ((s.ctx h.tile h.ctx).rdP h.pred.toNat) h.pneg ∧ o.va = (s.ctx h.tile h.ctx).rdS f.sa.toNat
      ∧ o.vb = (s.ctx h.tile h.ctx).rdS (f.sa.toNat + 1)
      ∧ t.ctx h.tile h.ctx = (s.ctx h.tile h.ctx).advance.runV (NumCfg.ofReg (s.reg .NUMCFG 0)) o
      ∧ t.unitElsewhere s h (encV op h f) := by
  obtain ⟨T, o, he, hword, hctx, hm, hva, hvb, hframe, hother, hT⟩ := issueV_starts (sram := .good) hs ho hc fun a => Sram.noConfusion a.2
  have hw : o.word.toNat = encV op h f := by rw [hword, BitVec.toNat_ofNat, Nat.mod_eq_of_lt (encV_lt op h f ho)]
  have hop : wOp o.word.toNat = op := by rw [hw, wOp_encV h f ho]
  have hx : T.ctx h.tile h.ctx = (s.ctx h.tile h.ctx).advance := hT.here
  have hregs : T.regs = s.regs := (congrArg State.regs hframe :)
  rw [State.runV_register (by rwa [hop]) (by rwa [hop]), hctx, hx, State.reg_congr hregs] at he
  exact ⟨_, o, he, hw, hm, hva, hvb, State.ctx_setCtx .., State.unitElsewhere_of _ hword hw hctx hframe hother hT⟩

variable {x : Ctx} {num : NumCfg} {o : UOp}

theorem Ctx.runV_vext (hw : o.word.toNat = encV 0x13 h f) : x.runV num o = x.wrS f.sa.toNat (BitVec.ofNat 64
    (let v := x.rdElem f.ty.toNat f.va.toNat (f.imm9.toNat % if f.ty.toNat = 1 then 32 else 64)
     if f.ty.toNat = 15 then wrapInt 64 (sext 32 v) else v)) := by
  unfold Ctx.runV
  simp only [hw, wOp_encV, encV_va, encV_ty, encV_sa, encV_imm9, Nat.reduceLT]
  rw [bits_low, show 2 ^ ((if f.ty.toNat = 1 then 4 else 5) + 1) = if f.ty.toNat = 1 then 32 else 64 by split <;> rfl]

/-- The predicate that a comparison leaves in place of `p`: the bits of the elements that take part hold `b` (R163). -/
def cmpBits (ty : Nat) (mask : Word) (b : Nat → Bool) (p : Nat) : Nat :=
  (List.range (elemsOf ty)).foldl (fun q k => if takesPart ty mask k then setPredBits ty q k (b k) else q) p

theorem Ctx.runV_vcmp (hw : o.word.toNat = encV 0x09 h f) : x.runV num o = x.wrP (f.vd.toNat % 8) (BitVec.ofNat 64
    (cmpBits f.ty.toNat o.mask (fun k => vecCond (f.imm9.toNat % 8) (arithVal f.ty.toNat (x.rdElem f.ty.toNat f.va.toNat k))
      (arithVal f.ty.toNat (x.rdElem f.ty.toNat f.vb.toNat k))) (x.rdP (f.vd.toNat % 8)).toNat)) := by
  unfold Ctx.runV cmpBits
  simp only [hw, wOp_encV, encV_vd, encV_va, encV_vb, encV_ty, encV_imm9, Nat.reduceLT, Ctx.elems, List.zipWith_map,
    List.zipWith_self, zipIdx_map_range, List.foldl_map]
  simp only [bits_low, Nat.reduceAdd, Nat.reducePow]

/-- A field inside a field. -/
theorem bits_bits {v hi lo a b : Nat} (h : a + lo ≤ hi) : bits (bits v hi lo) a b = bits v (a + lo) (b + lo) := by
  have hm : bits v hi lo = v / 2 ^ lo % 2 ^ (hi + 1 - lo) := rfl
  rw [hm, bits_mod (by omega)]
  unfold bits
  rw [Nat.div_div_eq_div_mul, ← Nat.pow_add, Nat.add_comm lo b, show a + lo + 1 - (b + lo) = a + 1 - b by omega]

/-- A bit after a field was set: a bit of the field, or the bit it was. -/
theorem bit_setBits (v y i : Nat) {hi lo : Nat} (hle : lo ≤ hi) :
    bit (setBits v hi lo y) i = if lo ≤ i ∧ i ≤ hi then bit y (i - lo) else bit v i := by
  rw [Bool.eq_iff_iff, bit_iff]
  split
  · rename_i hin
    obtain ⟨j, rfl⟩ := Nat.exists_eq_add_of_le' hin.1
    rw [← bits_bits hin.2, bits_setBits_same _ _ hle, bits_mod (by omega), Nat.add_sub_cancel, bit_iff]
  · rename_i hout
    obtain hlow | hhigh : i < lo ∨ hi < i := by omega
    · rw [bits_setBits_below _ _ hle hlow, bit_iff]
    · rw [bits_setBits_above _ _ hle hhigh, bit_iff]

theorem bit_setPredBits (ty p k i : Nat) (b : Bool) :
    bit (setPredBits ty p k b) i = if (if ty = 1 then i / 2 else i) = k then b else bit p i := by
  unfold setPredBits
  split
  · rw [bit_setBits _ _ _ (by omega)]
    by_cases hk : i / 2 = k
    · rw [if_pos (by omega), if_pos hk]
      cases b
      · simp [bit]
      · have : i - 2 * k = 0 ∨ i - 2 * k = 1 := by omega
        obtain h | h := this <;> rw [h] <;> rfl
    · rw [if_neg (by omega), if_neg hk]
  · rw [bit_setBits _ _ _ le_rfl]
    by_cases hk : i = k
    · subst hk
      rw [if_pos ⟨le_rfl, le_rfl⟩, if_pos rfl, Nat.sub_self]
      cases b <;> rfl
    · rw [if_neg (by omega), if_neg hk]

/-- Each bit of a comparison's predicate: of an element that takes part its result, else the bit it was. -/
theorem bit_cmpBits (ty : Nat) (mask : Word) (b : Nat → Bool) (p : Nat) {i : Nat} (hi : i < 64) :
    bit (cmpBits ty mask b p) i = (let k := if ty = 1 then i / 2 else i
      if takesPart ty mask k then b k else bit p i) := by
  have hfold : ∀ n, bit ((List.range n).foldl (fun q k => if takesPart ty mask k then setPredBits ty q k (b k) else q) p) i
      = (let k := if ty = 1 then i / 2 else i
         if k < n ∧ takesPart ty mask k = true then b k else bit p i) := by
    intro n
    induction n with
    | zero => rfl
    | succ n ih =>
      rw [List.range_succ, List.foldl_append, List.foldl_cons, List.foldl_nil]
      generalize hk : (if ty = 1 then i / 2 else i) = k at ih ⊢
      dsimp only at ih ⊢
      by_cases hn : takesPart ty mask n = true
      · rw [if_pos hn, bit_setPredBits, hk, ih]
        by_cases hkn : k = n
        · rw [if_pos hkn, if_pos ⟨by omega, hkn ▸ hn⟩, hkn]
        · rw [if_neg hkn]
          exact if_congr (and_congr_left' (by omega)) rfl rfl
      · rw [if_neg hn, ih]
        exact if_congr (and_congr_left fun ht => by
          have : k ≠ n := fun e => hn (e ▸ ht)
          omega) rfl rfl
  have hlt : (if ty = 1 then i / 2 else i) < elemsOf ty := by
    unfold elemsOf
    split <;> omega
  rw [cmpBits, hfold]
  exact if_congr (and_iff_right hlt) rfl rfl

/-- A context writes a scalar register before or after it goes on. -/
theorem Ctx.wrS_advance (x : Ctx) (i : Nat) (v : Word) : x.advance.wrS i v = (x.wrS i v).advance := by
  unfold Ctx.wrS
  split <;> rfl

/-- A context that has gone on and written a predicate (R59). -/
theorem State.onlyP_of_wrP {s t : State} {h : Head} {d : Nat} {v : Word}
    (ht : t.ctx h.tile h.ctx = (s.ctx h.tile h.ctx).advance.wrP d v) :
    t.keepsS s h ∧ (∀ r k, (t.ctx h.tile h.ctx).rdLane r k = (s.ctx h.tile h.ctx).rdLane r k) ∧ t.wentOn s h ∧ t.onlyP s h d v := by
  unfold State.keepsS State.wentOn State.onlyP
  rw [ht]
  refine ⟨fun j => by rw [Ctx.rdS_wrP, Ctx.rdS_advance], fun r k => ?_, ?_, fun j => by rw [Ctx.rdP_wrP, Ctx.rdP_advance]⟩
  · unfold Ctx.wrP; split <;> rfl
  · unfold Ctx.wrP; split <;> rfl

end

/-- Settles O15: the bitwise operations and shifts by their operation on pairs, the others by what each writes; a comparison bit by bit. -/
theorem vectorMoves : Obligations.VectorMoves := by
  unfold Obligations.VectorMoves
  intro h f s x ty d a b mask n e
  have moves : ∀ {op i v}, exec i s = issueV op h f noCheck .good s → op < 64 → op ≠ 0x10 → op ≠ 0x11 →
      (∀ o : UOp, o.word.toNat = encV op h f → o.va = x.rdS f.sa.toNat →
        x.advance.runV (NumCfg.ofReg (s.reg .NUMCFG 0)) o = x.advance.setElems ty d o.mask v) →
      s.writesV h .vector (encV op h f) i ty d v :=
    fun he ho hl hst hr => State.writesV_runV he rfl ho hl hst fun o hw _ hva _ => hr o hw hva
  refine ⟨State.writesV_two rfl rfl, State.writesV_two rfl rfl, State.writesV_two rfl rfl, ?shl, ?shr,
    moves rfl (by decide) (by decide) (by decide) fun _ hw _ => Ctx.runV_vsel hw, ?bcast,
    moves rfl (by decide) (by decide) (by decide) fun _ hw _ => Ctx.runV_vmovi hw,
    moves rfl (by decide) (by decide) (by decide) fun _ hw _ => Ctx.runV_vperm hw, fun hs => ?ext, fun hs => ?cmp⟩
  case shl =>
    refine State.writesV_congr (State.writesV_two rfl rfl) fun hs k _ => ?_
    have hty : ty = 15 := by
      have hl := State.startsAtIssue_legalV (by decide) hs
      unfold legalV at hl
      simp only [encV_ty, Nat.reduceLT, Nat.reduceLeDiff, Nat.reduceEqDiff, Bool.and_eq_true, decide_eq_true_eq, and_self,
        or_self, false_and, if_true, if_false] at hl
      exact hl.2.1.1.1
    rw [hty]
    exact Nat.mod_mod _ _
  case shr =>
    refine State.writesV_congr (State.writesV_two rfl rfl) fun _ k _ => ?_
    unfold vecShr
    rw [bit_low]
    simp only [decide_eq_true_eq]
    rfl
  case bcast =>
    refine State.writesV_congr (moves rfl (by decide) (by decide) (by decide) fun o hw hva => by rw [Ctx.runV_vbcast hw, hva])
      fun _ k _ => Nat.mod_mod _ _
  case ext =>
    obtain ⟨t, o, ht, hw, -, -, -, hx, helse⟩ := issueV_register (check := noCheck) hs rfl (by decide) (by decide) (by decide)
    rw [Ctx.runV_vext hw, Ctx.wrS_advance] at hx
    obtain ⟨hS, hPV, hon⟩ := State.onlyS_of_ctx hx
    exact ⟨t, ht, hS, hPV, hon, helse⟩
  case cmp =>
    obtain ⟨t, o, ht, hw, hm, -, -, hx, helse⟩ := issueV_register (check := noCheck) hs rfl (by decide) (by decide) (by decide)
    rw [Ctx.runV_vcmp hw, hm] at hx
    obtain ⟨hS, hV, hon, hP⟩ := State.onlyP_of_wrP hx
    refine ⟨t, ht, hS, hV, hon, helse, fun j hj => ?_, fun hd i hi => ?_⟩
    · rw [hP j, if_neg hj]
      split
      · subst_vars; rfl
      · rfl
    · rw [hP _, if_neg hd, if_pos rfl, BitVec.toNat_ofNat]
      have hmod : ∀ v, bit (v % 2 ^ 64) i = bit v i := fun v => by rw [Bool.eq_iff_iff, bit_iff, bit_iff, bits_mod hi]
      rw [hmod, bit_cmpBits _ _ _ _ hi]
      rfl

/-! ## Reductions (R171) -/

/-- The operation and the identity of each OP of reduction (R171). -/
def reduction (ty : Nat) : Nat → Option ((Nat → Nat → Nat) × Nat)
  | 0x14 => some (vecAdd ty, idle ty 0x14)
  | 0x15 => some (vecMax ty, idle ty 0x15)
  | 0x16 => some (vecMin ty, idle ty 0x16)
  | _ => none

section
variable {s : State} {h : Head} {f : VF} {op : Nat} {i : Instr} {r : (Nat → Nat → Nat) × Nat}

theorem reduction_op {ty : Nat} (hg : reduction ty op = some r) : 0x14 ≤ op ∧ op ≤ 0x16 := by
  unfold reduction at hg
  split at hg <;> simp at hg ⊢

/-- A reduction gives every element that takes part the root of the tree over all elements, the identity in place of those that do not. -/
theorem Ctx.reduce_eq {ty : Nat} (x : Ctx) (va d : Nat) (mask : Word) (hg : reduction ty op = some r) : x.reduce op ty va d mask
    = x.setElems ty d mask fun _ => tree r.1 (if ty = 1 then 5 else 6)
        ((List.range (elemsOf ty)).map fun k => if takesPart ty mask k then x.rdElem ty va k else r.2) := by
  rw [← Ctx.wrElems_replicate]
  unfold Ctx.reduce Ctx.elems
  rw [zipIdx_map_range, List.map_map]
  unfold reduction at hg
  split at hg <;> cases hg <;> rfl

theorem Ctx.runV_reduction {x : Ctx} {num : NumCfg} {o : UOp} (hw : o.word.toNat = encV op h f)
    (hg : reduction f.ty.toNat op = some r) : x.runV num o = x.reduce op f.ty.toNat f.va.toNat f.vd.toNat o.mask := by
  have ho : op < 64 := (reduction_op hg).2.trans_lt (by decide)
  unfold Ctx.runV
  simp only [hw, wOp_encV h f ho, encV_vd h f ho, encV_va h f ho, encV_ty h f ho]
  unfold reduction at hg
  split at hg <;> cases hg <;> rfl

theorem State.writesV_reduction (he : exec i s = issueV op h f noCheck .good s) (hg : reduction f.ty.toNat op = some r) :
    s.writesV h .vector (encV op h f) i f.ty.toNat f.vd.toNat fun _ => tree r.1 (if f.ty.toNat = 1 then 5 else 6)
      ((List.range (elemsOf f.ty.toNat)).map fun k =>
        if takesPart f.ty.toNat (laneMask ((s.ctx h.tile h.ctx).rdP h.pred.toNat) h.pneg) k
        then (s.ctx h.tile h.ctx).rdElem f.ty.toNat f.va.toNat k else r.2) := by
  have ho := reduction_op hg
  refine State.writesV_runV he rfl (by omega) (by omega) (by omega) fun o hw hm _ _ => ?_
  rw [Ctx.runV_reduction hw hg, Ctx.reduce_eq _ _ _ _ hg, hm]
  rfl

end

/-- Settles O16: a reduction is the root of its tree; the tree halves its list level by level by definition. -/
theorem vectorReductions : Obligations.VectorReductions := by
  unfold Obligations.VectorReductions
  intro h f s
  exact ⟨State.writesV_reduction (r := (vecAdd _, idle _ 0x14)) rfl rfl, State.writesV_reduction (r := (vecMax _, idle _ 0x15)) rfl rfl,
    State.writesV_reduction (r := (vecMin _, idle _ 0x16)) rfl rfl, fun _ _ _ => rfl, fun _ _ => rfl⟩

end Sys2Proof.Machine

/-! A V or F instruction queued and started within its issue, state by state (R39, R61, R172, R372). -/

namespace Sys2Proof.Machine

/-- A V or F instruction as it stands in its unit after its issue. -/
def State.issuedOp (s : State) (h : Head) (u : TUnit) (w va vb : Nat) : UOp :=
  { capture s h u w va vb 0 with seq := (s.tile h.tile).seq }

/-- The state with an instruction queued and its context gone on. -/
def State.queued (s : State) (h : Head) (o : UOp) : State := (s.enqueue h.tile o).advance h.tile h.ctx

/-- The same, with the instruction charged and marked as started. -/
def State.startedAt (s : State) (h : Head) (o : UOp) : State :=
  ((s.queued h o).pay h.tile (costKey o.word.toNat)).markStarted h.tile o

section
variable {s : State} {h : Head} {u : TUnit} {w va vb : Nat}

theorem State.issuedOp_word (hw : w < 2 ^ 64) : (s.issuedOp h u w va vb).word.toNat = w :=
  (BitVec.toNat_ofNat ..).trans (Nat.mod_eq_of_lt hw)

/-- What is covered is affordable (R372, R375). -/
theorem State.affordable_of_covered {t k : Nat} (hc : s.covered t k = true) : s.affordable t k = true :=
  decide_eq_true ((of_decide_eq_true hc).trans (Nat.le_add_right _ _))

/-- An instruction that starts at its issue may start once it is queued, and its charge is covered. -/
theorem State.queued_startable (hs : s.startsAtIssue h u w) (hu : u ≠ .narrow) (hw : w < 2 ^ 64) :
    ((s.queued h (s.issuedOp h u w va vb)).tile h.tile).startable (s.issuedOp h u w va vb) = true
      ∧ (s.queued h (s.issuedOp h u w va vb)).covered h.tile (costKey (s.issuedOp h u w va vb).word.toNat) = true := by
  obtain ⟨-, hcov, htok, hfree, hfirst⟩ := hs
  have hw' := State.issuedOp_word (s := s) (h := h) (u := u) (va := va) (vb := vb) hw
  refine ⟨?_, ?_⟩
  · unfold State.queued
    rw [State.tile_enqueue_advance]
    exact Tile.startable_issued _ _ _ w rfl rfl rfl hu hw' htok hfree hfirst
  · rw [hw']
    exact (State.covered_enqueue_advance ..).trans hcov

/-- Queue, charge and mark change nothing but the tile of the instruction. -/
theorem State.startedAt_spec (s : State) (h : Head) (u : TUnit) (w va vb : Nat) :
    { s.startedAt h (s.issuedOp h u w va vb) with tiles := s.tiles } = s
      ∧ (∀ v, v ≠ h.tile → (s.startedAt h (s.issuedOp h u w va vb)).tile v = s.tile v)
      ∧ ((s.startedAt h (s.issuedOp h u w va vb)).tile h.tile).StartedFrom (s.tile h.tile) h.ctx (s.issuedOp h u w va vb) :=
  s.started_at h.tile (costKey (s.issuedOp h u w va vb).word.toNat) h.ctx (s.issuedOp h u w va vb) rfl

/-- The queue of the started tile: the instructions that stood there, and the new one with its mark. -/
theorem State.ops_startedAt (s : State) (h : Head) (o : UOp) (ho : o.seq = (s.tile h.tile).seq) : ∃ p : UOp, p.seq = o.seq
    ∧ p.inBytes = o.inBytes ∧ ((s.startedAt h o).tile h.tile).ops
      = ((s.tile h.tile).ops ++ [o]).map fun x => if x.seq = o.seq then p else x := by
  refine ⟨((s.queued h o).pay h.tile (costKey o.word.toNat)).marked h.tile o, rfl, rfl, ?_⟩
  have hq : ((s.queued h o).tile h.tile).ops = (s.tile h.tile).ops ++ [{ o with seq := (s.tile h.tile).seq }] := by
    unfold State.queued
    rw [State.tile_enqueue_advance]
    exact (Tile.setCtx_keeps ..).1
  have hpay : (((s.queued h o).pay h.tile (costKey o.word.toNat)).tile h.tile).ops = ((s.queued h o).tile h.tile).ops := by
    unfold State.pay
    rw [State.tile_setTile, if_pos rfl]
  unfold State.startedAt
  rw [State.markStarted_eq, State.tile_setTile, if_pos rfl]
  generalize hm : ((s.queued h o).pay h.tile (costKey o.word.toNat)).marked h.tile o = p
  have htake := Tile.takeToken_keeps (((s.queued h o).pay h.tile (costKey o.word.toNat)).tile h.tile) o.word.toNat
  have hops := congrArg Tile.ops htake
  have hseq : p.seq = o.seq := hm ▸ rfl
  unfold Tile.setOp
  dsimp only at hops ⊢
  rw [hops, hpay, hq, hseq, ← ho]

end

/-! ## V instructions -/

section
variable {s : State} {h : Head} {f : VF} {op : Nat} {check : State → Option FaultAt}

/-- An instruction that fails its check takes that fault at issue (R85). -/
theorem issueV_faults {sram : Sram} {e : FaultAt} (hg : s.goes h (encV op h f) (usesUnit (encV op h f)) true = true)
    (hc : check s = some e) : issueV op h f check sram s = .next (s.issueFault h.tile h.ctx e) := by
  unfold issueV
  rw [issue_goes hg]
  dsimp only
  rw [hc]
  rfl

/-- What the context of a V instruction captures at issue. -/
def State.issuedV (s : State) (h : Head) (op : Nat) (f : VF) : UOp :=
  s.issuedOp h .vector (encV op h f) f.sa.toNat (f.sa.toNat + 1)

theorem issueV_issues {sram : Sram} (hs : s.startsAtIssue h .vector (encV op h f)) (hc : check s = none) :
    issueV op h f check sram s = .next ((s.queued h (s.issuedV h op f)).startV h.tile (s.issuedV h op f) sram) := by
  unfold issueV
  rw [issue_goes hs.1]
  dsimp only
  rw [hc]
  dsimp only
  rw [if_pos (State.affordable_of_covered hs.2.1)]
  rfl

/-- A read of vld that fails delivers nothing (R394). -/
theorem State.startV_fails {T : State} {t : Nat} {o : UOp} (hst : (T.tile t).startable o = true) (hop : wOp o.word.toNat = 0x10) :
    T.startV t o .uncorrectable = T.sramFail t := by
  unfold State.startV
  rw [hst, hop, if_neg (by decide), if_pos (by decide)]

theorem State.startV_runs {T : State} {t : Nat} {o : UOp} {sram : Sram} (hst : (T.tile t).startable o = true)
    (hcov : T.covered t (costKey o.word.toNat) = true) (hram : wOp o.word.toNat ≠ 0x10 ∨ sram ≠ .uncorrectable) :
    T.startV t o sram = ((T.pay t (costKey o.word.toNat)).markStarted t o).runV t o sram := by
  unfold State.startV
  rw [hst, hcov, if_neg (by decide), if_neg (by obtain h | h := hram <;> simp [h]), if_neg (by decide)]

theorem issueV_read_fails (hs : s.startsAtIssue h .vector (encV 0x10 h f)) (hc : check s = none) :
    issueV 0x10 h f check .uncorrectable s = .next ((s.queued h (s.issuedV h 0x10 f)).sramFail h.tile) := by
  have hw := encV_lt 0x10 h f (by decide)
  obtain ⟨hst, -⟩ := State.queued_startable (va := f.sa.toNat) (vb := f.sa.toNat + 1) hs (by decide) hw
  rw [issueV_issues hs hc]
  exact congrArg Host.Outcome.next (State.startV_fails hst
    ((congrArg wOp (State.issuedOp_word hw)).trans (wOp_encV h f (by decide))))

theorem issueV_runs {sram : Sram} (hs : s.startsAtIssue h .vector (encV op h f)) (hc : check s = none) (ho : op < 64)
    (hram : op ≠ 0x10 ∨ sram ≠ .uncorrectable) :
    issueV op h f check sram s = .next ((s.startedAt h (s.issuedV h op f)).runV h.tile (s.issuedV h op f) sram) := by
  have hw := encV_lt op h f ho
  obtain ⟨hst, hcov⟩ := State.queued_startable (va := f.sa.toNat) (vb := f.sa.toNat + 1) hs (by decide) hw
  have hop : wOp (s.issuedV h op f).word.toNat = op := (congrArg wOp (State.issuedOp_word hw)).trans (wOp_encV h f ho)
  rw [issueV_issues hs hc]
  exact congrArg Host.Outcome.next (State.startV_runs hst hcov (by rwa [hop]))

end

end Sys2Proof.Machine

/-! vld and vst (R136, R156, R162, R394). -/

namespace Sys2Proof.Machine

/-! ## The address check (R26, R162; the order is log 19) -/

/-- Bytes of an element in memory (R162). -/
def elemBytes (ty : Nat) : Nat := if ty = 1 then 8 else 4

theorem elemBytes_elemsOf (ty : Nat) : elemBytes ty * elemsOf ty = 256 := by
  unfold elemBytes elemsOf
  split <;> rfl

section
variable {sa : Word} {ty imm : Nat}

theorem vecCheck_register (hr : 2 ^ 21 ≤ sa.toNat) : vecCheck sa ty imm = some (cOPERAND, unstated) := by
  unfold vecCheck localReg
  rw [decide_eq_false (Nat.not_lt.2 hr)]
  rfl

variable (hr : sa.toNat < 2 ^ 21)
include hr

theorem vecCheck_misaligned (ha : vecAddr sa imm % (elemBytes ty : Int) ≠ 0) :
    vecCheck sa ty imm = some (cALIGN, wrapInt 64 (vecAddr sa imm)) := by
  unfold elemBytes at ha
  unfold vecCheck localReg
  rw [decide_eq_true hr]
  exact if_pos (by push_cast at ha; exact ha)

variable (ha : vecAddr sa imm % (elemBytes ty : Int) = 0)
include ha

/-- With a good register and an aligned address the range decides. -/
theorem vecCheck_range : vecCheck sa ty imm = if vecAddr sa imm < 0 then some (cLOCAL_RANGE, wrapInt 64 (vecAddr sa imm))
    else localCheck (vecAddr sa imm).toNat 256 := by
  unfold elemBytes at ha
  unfold vecCheck localReg
  rw [decide_eq_true hr]
  exact if_neg (not_not.2 (by push_cast at ha; exact ha))

theorem vecCheck_negative (hn : vecAddr sa imm < 0) : vecCheck sa ty imm = some (cLOCAL_RANGE, wrapInt 64 (vecAddr sa imm)) := by
  rw [vecCheck_range hr ha, if_pos hn]

theorem vecCheck_beyond (hn : 0 ≤ vecAddr sa imm) (he : (localEnd : Int) < vecAddr sa imm + 256) :
    vecCheck sa ty imm = some (cLOCAL_RANGE, max localEnd (vecAddr sa imm).toNat) := by
  rw [vecCheck_range hr ha, if_neg (not_lt.2 hn)]
  unfold localCheck firstAtOrAbove
  rw [if_neg (by decide)]
  split
  · rw [Nat.max_eq_right ‹_›]; rfl
  · rw [if_pos (by omega), Nat.max_eq_left (by omega)]; rfl

theorem vecCheck_good (hn : 0 ≤ vecAddr sa imm) (he : vecAddr sa imm + 256 ≤ (localEnd : Int)) : vecCheck sa ty imm = none := by
  rw [vecCheck_range hr ha, if_neg (not_lt.2 hn)]
  unfold localCheck firstAtOrAbove
  rw [if_neg (by decide), if_neg (by have : 0 < localEnd := by decide
                                     omega), if_neg (by omega)]
  rfl

end

/-! ## Stores of elements -/

section
variable {s t : State} {u : Nat}

/-- A smaller range spoils no more (R136). -/
theorem State.spoilt_mono {a n a' n' b : Nat} (h : s.spoilt u a n b) (hlo : a' ≤ a) (hhi : a + n ≤ a' + n') : s.spoilt u a' n' b := by
  obtain ⟨o, ho, hst, ⟨r, hr, hra⟩, hout⟩ := h
  exact ⟨o, ho, hst, ⟨r, hr, by omega, by omega⟩, hout⟩

/-- Writes of bytes leave the operand ranges of the unit queue alone. -/
theorem State.onlyStores_spoilt (h : t.onlyStores s) (a n b : Nat) : t.spoilt u a n b ↔ s.spoilt u a n b := by
  obtain ⟨m, hm⟩ := h.2 u
  unfold State.spoilt
  rw [hm]

/-- The elements that take part, of the first `m`, stored one after another from `a` (R162). -/
def State.storeElems (s : State) (u a n : Nat) (part : Nat → Bool) (v : Nat → Nat) (m : Nat) : State :=
  (List.range m).foldl (fun t k => if part k then t.wrLocal u (a + n * k) (leBytes n (v k)) else t) s

section
variable {a n : Nat} {part : Nat → Bool} {v : Nat → Nat} {m : Nat}

theorem State.storeElems_succ : s.storeElems u a n part v (m + 1)
    = if part m then (s.storeElems u a n part v m).wrLocal u (a + n * m) (leBytes n (v m)) else s.storeElems u a n part v m := by
  unfold State.storeElems
  rw [List.range_succ, List.foldl_append]
  rfl

theorem State.storeElems_onlyStores : (s.storeElems u a n part v m).onlyStores s :=
  foldl_prop (P := fun t => State.onlyStores t s) (fun t k ht => by
    split
    · exact State.onlyStores_trans (t.wrLocal_onlyStores ..) ht
    · exact ht) s.onlyStores_refl

theorem State.tile_storeElems_other {w : Nat} (hw : w ≠ u) (hc : s.checkerOf u ≠ some w) :
    (s.storeElems u a n part v m).tile w = s.tile w := by
  induction m with
  | zero => rfl
  | succ m ih =>
    rw [State.storeElems_succ]
    split
    · rw [State.tile_wrLocal_other _ hw (by rwa [State.onlyStores_checker State.storeElems_onlyStores]), ih]
    · exact ih

/-- A number stored: a byte that nothing spoils is that of the number, or the byte it was. -/
theorem State.rdByte_wrLocal_number {w b : Nat} (x : Nat) (hw : w = u ∨ s.checkerOf u = some w) (hb : ¬ s.spoilt u a n b) :
    ((s.wrLocal u a (leBytes n x)).tile w).rdByte b
      = if a ≤ b ∧ b < a + n then BitVec.ofNat 8 (x / 2 ^ (8 * (b - a))) else (s.tile w).rdByte b := by
  obtain ⟨hst, -⟩ := s.wrLocal_storesLocal u a (leBytes n x) (leBytes_length n x)
    (v := fun i => some (BitVec.ofNat 8 (x / 2 ^ (8 * i)))) fun i hi => (leBytes_getElem? x hi).symm
  rw [hst w hw b hb]
  split <;> rfl

/-- A byte that nothing spoils holds its byte of the element it lies in, if that takes part, else what it held. -/
theorem State.rdByte_storeElems {N w b : Nat} (hN : n * m ≤ N) (hw : w = u ∨ s.checkerOf u = some w)
    (hb : ¬ s.spoilt u a N b) : ((s.storeElems u a n part v m).tile w).rdByte b
      = if (a ≤ b ∧ b < a + n * m) ∧ part ((b - a) / n) = true then BitVec.ofNat 8 (v ((b - a) / n) / 2 ^ (8 * ((b - a) % n)))
        else (s.tile w).rdByte b := by
  induction m with
  | zero => rw [if_neg (by omega)]; rfl
  | succ m ih =>
    have hmul : n * (m + 1) = n * m + n := Nat.mul_succ n m
    specialize ih (by omega)
    have honly : (s.storeElems u a n part v m).onlyStores s := State.storeElems_onlyStores
    have hone := State.rdByte_wrLocal_number (s := s.storeElems u a n part v m) (a := a + n * m) (n := n) (v m)
      (by rwa [State.onlyStores_checker honly])
      fun h => hb (State.spoilt_mono ((State.onlyStores_spoilt honly ..).1 h) (Nat.le_add_right ..) (by omega))
    rw [State.storeElems_succ]
    by_cases hin : a + n * m ≤ b ∧ b < a + n * m + n
    · have hcomm : m * n = n * m := Nat.mul_comm ..
      have hdiv : (b - a) / n = m := Nat.div_eq_of_lt_le (by omega) (by rw [Nat.add_mul]; omega)
      have hdm := Nat.div_add_mod (b - a) n
      have hmod : (b - a) % n = b - (a + n * m) := by rw [hdiv] at hdm; omega
      rw [hdiv, hmod]
      by_cases hp : part m = true
      · rw [if_pos hp, hone, if_pos hin, if_pos ⟨by omega, hp⟩]
      · rw [if_neg hp, if_neg fun h => hp h.2, ih, if_neg (by omega)]
    · have hsame : (a ≤ b ∧ b < a + n * (m + 1)) ↔ a ≤ b ∧ b < a + n * m := by omega
      rw [if_neg hin] at hone
      simp only [hsame, ← ih]
      split
      · exact hone
      · rfl

/-- So the elements that take part are stored, and no other byte (R136, R156). -/
theorem State.storeElems_storesLocal {N : Nat} (hN : n * m = N) : (s.storeElems u a n part v m).storesLocal s u a N
    fun i => if part (i / n) then some (BitVec.ofNat 8 (v (i / n) / 2 ^ (8 * (i % n)))) else none := by
  refine ⟨fun w hw b hb => ?_, fun w b hw hc => by rw [State.tile_storeElems_other hw hc]⟩
  rw [State.rdByte_storeElems hN.le hw hb, hN]
  by_cases hin : a ≤ b ∧ b < a + N
  · rw [if_pos hin]
    dsimp only
    by_cases hp : part ((b - a) / n) = true
    · rw [if_pos ⟨hin, hp⟩, if_pos hp]; rfl
    · rw [if_neg fun h => hp h.2, if_neg hp]; rfl
  · rw [if_neg fun h => hin h.1, if_neg hin]; rfl

end

end

/-- What is stored on top of a state with the same bytes and no more spoilt is stored on top of the first. -/
theorem State.storesLocal_of_base {t T s : State} {u a n : Nat} {v : Nat → Option Byte} (h : t.storesLocal T u a n v)
    (hb : ∀ w b, (T.tile w).rdByte b = (s.tile w).rdByte b) (hc : T.checkerOf u = s.checkerOf u)
    (hs : ∀ b, T.spoilt u a n b → s.spoilt u a n b) : t.storesLocal s u a n v := by
  obtain ⟨hin, hout⟩ := h
  rw [hc] at hin hout
  refine ⟨fun w hw b hn => ?_, fun w b hw hw' => ?_⟩
  · rw [hin w hw b fun ht => hn (hs b ht), hb]
  · rw [hout w b hw hw', hb]

/-! ## vld -/

section
variable {s : State} {h : Head} {f : VF}

/-- A V instruction on its start spoils nothing that its tile did not: it has no operand bytes. -/
theorem State.spoilt_startedAt {op a n b : Nat} (h' : (s.startedAt h (s.issuedV h op f)).spoilt h.tile a n b) :
    s.spoilt h.tile a n b := by
  obtain ⟨o, ho, hst, ⟨r, hr, hra⟩, hout⟩ := h'
  obtain ⟨p, -, hin, hops⟩ := s.ops_startedAt h (s.issuedV h op f) rfl
  have hempty : p.inBytes = [] := hin
  rw [hops, List.mem_map] at ho
  obtain ⟨q, hq, rfl⟩ := ho
  have hsq : q.seq ≠ (s.issuedV h op f).seq := fun e => by
    rw [if_pos e, hempty] at hr
    exact absurd hr (List.not_mem_nil)
  rw [if_neg hsq] at hst hr hout
  obtain hq | hq := List.mem_append.1 hq
  · exact ⟨q, hq, hst, ⟨r, hr, hra⟩, hout⟩
  · exact absurd (congrArg UOp.seq (List.mem_singleton.1 hq)) hsq

/-- What lies outside the tiles is not touched when a context is set. -/
theorem State.setCtx_frame (s : State) (t : Nat) (c : Ctxt) (x : Ctx) : (s.setCtx t c x).regs = s.regs
    ∧ (s.setCtx t c x).mem = s.mem ∧ (s.setCtx t c x).counters = s.counters ∧ (s.setCtx t c x).chans = s.chans :=
  ⟨rfl, rfl, rfl, rfl⟩

/-- The start of an instruction leaves every byte of every tile. -/
theorem State.rdByte_started {T : State} {o : UOp} (hother : ∀ u, u ≠ h.tile → T.tile u = s.tile u)
    (hT : (T.tile h.tile).StartedFrom (s.tile h.tile) h.ctx o) (u b : Nat) : (T.tile u).rdByte b = (s.tile u).rdByte b := by
  by_cases hu : u = h.tile
  · subst hu
    unfold Tile.rdByte
    rw [hT.store, hT.fill]
  · rw [hother u hu]

/-- A V instruction that starts at its issue has its effect on a state that is as before but for its tile, where it stands started. -/
theorem issueV_started {op : Nat} {check : State → Option FaultAt} {sram : Sram} (hs : s.startsAtIssue h .vector (encV op h f))
    (hc : check s = none) (ho : op < 64) (hram : op ≠ 0x10 ∨ sram ≠ .uncorrectable) : ∃ (T : State) (o : UOp),
      issueV op h f check sram s = .next (T.runV h.tile o sram) ∧ o.word.toNat = encV op h f ∧ o.ctx = h.ctx
      ∧ o.mask = laneMask ((s.ctx h.tile h.ctx).rdP h.pred.toNat) h.pneg ∧ o.va = (s.ctx h.tile h.ctx).rdS f.sa.toNat
      ∧ { T with tiles := s.tiles } = s ∧ (∀ u, u ≠ h.tile → T.tile u = s.tile u) ∧ (T.tile h.tile).StartedFrom (s.tile h.tile) h.ctx o
      ∧ ∀ a n b, T.spoilt h.tile a n b → s.spoilt h.tile a n b := by
  obtain ⟨hframe, hother, hT⟩ := s.startedAt_spec h .vector (encV op h f) f.sa.toNat (f.sa.toNat + 1)
  exact ⟨_, _, issueV_runs hs hc ho hram, State.issuedOp_word (encV_lt op h f ho), rfl, rfl, rfl, hframe, hother, hT,
    fun a n b => State.spoilt_startedAt⟩

/-- The address check of vld and vst in a state. -/
def State.vecFault (s : State) (h : Head) (f : VF) : Option FaultAt :=
  vecCheck ((s.ctx h.tile h.ctx).rdS f.sa.toNat) f.ty.toNat f.imm9.toNat

/-- The address of vld and vst in a state (R162). -/
def State.vecPlace (s : State) (h : Head) (f : VF) : Nat := (vecAddr ((s.ctx h.tile h.ctx).rdS f.sa.toNat) f.imm9.toNat).toNat

/-- A number read from a tile whose store is the same. -/
theorem Tile.rdNat_congr {x y : Tile} (hs : y.store = x.store) (hf : y.fill = x.fill) (a n : Nat) : y.rdNat a n = x.rdNat a n := by
  unfold Tile.rdNat Tile.rdBytes Tile.rdByte
  rw [hs, hf]

theorem exec_vld (sram : Sram) : exec (.vld h f sram) s = issueV 0x10 h f (fun s => s.vecFault h f) sram s := rfl

theorem exec_vst : exec (.vst h f) s = issueV 0x11 h f (fun s => s.vecFault h f) .good s := rfl

/-- What the elements of a vld read (R162). -/
def State.vecRead (s : State) (h : Head) (f : VF) (k : Nat) : Nat :=
  (s.tile h.tile).rdNat (s.vecPlace h f + elemBytes f.ty.toNat * k) (elemBytes f.ty.toNat)

/-- A vld that starts notes what its read met and writes the elements it read (R162, R394). -/
theorem State.runV_vld {T : State} {o : UOp} (sram : Sram) (hw : o.word.toNat = encV 0x10 h f) (hc : o.ctx = h.ctx)
    (hva : o.va = (s.ctx h.tile h.ctx).rdS f.sa.toNat) (hst : (T.tile h.tile).store = (s.tile h.tile).store)
    (hfill : (T.tile h.tile).fill = (s.tile h.tile).fill) :
    T.runV h.tile o sram = (T.sramNote h.tile sram).setCtx h.tile h.ctx
      ((T.ctx h.tile h.ctx).setElems f.ty.toNat f.vd.toNat o.mask (s.vecRead h f)) := by
  unfold State.runV
  simp only [hw, wOp_encV, encV_ty, encV_vd, encV_imm9, Nat.reduceLT, if_true, hc, hva, Tile.rdNat_congr hst hfill]
  rfl

theorem vld_good (hf : s.vecFault h f = none) : s.writesV h .vector (encV 0x10 h f) (.vld h f .good) f.ty.toNat f.vd.toNat
    (s.vecRead h f) := by
  refine State.writesV_of (vs := (List.range (elemsOf f.ty.toNat)).map (s.vecRead h f)) (check := fun s => s.vecFault h f)
    (exec_vld .good) (by decide) hf (fun T o hw hc hm hva _ hx _ hst hfill => ?_) (by simp) (fun k hk => ?_)
  · rw [State.runV_vld .good hw hc hva hst hfill, hx, hm]
    rfl
  · rw [List.getD_eq_getElem _ _ (by simpa using hk)]
    simp

theorem vld_corrected (hf : s.vecFault h f = none) (hs : s.startsAtIssue h .vector (encV 0x10 h f)) :
    ∃ t, exec (.vld h f .corrected) s = .next t ∧ t.keepsS s h ∧ t.wentOn s h
      ∧ t.onlyV s h f.ty.toNat f.vd.toNat (s.vecRead h f)
      ∧ t.counted s F.SRAMCNT_CORR 0 ∧ t.mem = s.mem ∧ t.counters = s.counters ∧ t.chans = s.chans
      ∧ ∀ u b, (t.tile u).rdByte b = (s.tile u).rdByte b := by
  obtain ⟨T, o, he, hw, hctx, hm, hva, hframe, hother, hT, -⟩ := issueV_started (check := fun s => s.vecFault h f)
    (sram := .corrected) hs hf (by decide) (.inr (by decide))
  have hx : T.ctx h.tile h.ctx = (s.ctx h.tile h.ctx).advance := hT.here
  rw [State.runV_vld .corrected hw hctx hva hT.store hT.fill, hx, hm] at he
  have hrec := T.sramNote_onlyRecords h.tile .corrected
  have hn := T.sramNote_counted h.tile
  generalize T.sramNote h.tile .corrected = u at he hrec hn
  obtain ⟨htile, -, hmem, hcnt, hchan⟩ := State.onlyRecords_parts hrec
  generalize hy : (s.ctx h.tile h.ctx).advance.setElems _ _ _ _ = y at he
  obtain ⟨hV, hS, -, hon⟩ := State.onlyV_of_ctx (v := s.vecRead h f) ((State.ctx_setCtx u h.tile h.ctx y).trans hy.symm)
  obtain ⟨hregs', hmem', hcnt', hchan'⟩ := u.setCtx_frame h.tile h.ctx y
  have hregs : T.regs = s.regs := (congrArg State.regs hframe :)
  refine ⟨_, (exec_vld .corrected).trans he, hS, hon, hV, ?_, hmem'.trans (hmem.trans (congrArg State.mem hframe :)),
    hcnt'.trans (hcnt.trans (congrArg State.counters hframe :)), hchan'.trans (hchan.trans (congrArg State.chans hframe :)),
    fun w b => ?_⟩
  · unfold State.counted at hn ⊢
    rw [State.get_congr hregs', hn, State.get_congr hregs]
  · rw [State.rdByte_setCtx, htile]
    exact State.rdByte_started hother hT w b

/-! ## vst -/

/-- A vst that starts stores the elements that take part (R162). -/
theorem State.runV_vst {T : State} {o : UOp} (sram : Sram) (hw : o.word.toNat = encV 0x11 h f) (hc : o.ctx = h.ctx)
    (hva : o.va = (s.ctx h.tile h.ctx).rdS f.sa.toNat) (hx : T.ctx h.tile h.ctx = (s.ctx h.tile h.ctx).advance) :
    T.runV h.tile o sram = T.storeElems h.tile (s.vecPlace h f) (elemBytes f.ty.toNat) (takesPart f.ty.toNat o.mask)
      ((s.ctx h.tile h.ctx).rdElem f.ty.toNat f.va.toNat) (elemsOf f.ty.toNat) := by
  unfold State.runV State.storeElems
  simp only [hw, wOp_encV, encV_ty, encV_va, encV_imm9, Nat.reduceLT, if_true, hc, hva, hx, Ctx.elems, zipIdx_map_range,
    List.foldl_map]
  rfl

theorem vst_stores (hf : s.vecFault h f = none) (hs : s.startsAtIssue h .vector (encV 0x11 h f)) :
    ∃ t, exec (.vst h f) s = .next t ∧ t.keepsS s h ∧ t.keepsPV s h ∧ t.wentOn s h
      ∧ { t with tiles := s.tiles, free := s.free } = s
      ∧ t.storesLocal s h.tile (s.vecPlace h f) 256 (fun i =>
          if takesPart f.ty.toNat (laneMask ((s.ctx h.tile h.ctx).rdP h.pred.toNat) h.pneg) (i / elemBytes f.ty.toNat)
          then some (BitVec.ofNat 8 ((s.ctx h.tile h.ctx).rdElem f.ty.toNat f.va.toNat (i / elemBytes f.ty.toNat)
            / 2 ^ (8 * (i % elemBytes f.ty.toNat)))) else none)
      ∧ ∀ u, u ≠ h.tile → s.checkerOf h.tile ≠ some u → t.tile u = s.tile u := by
  obtain ⟨T, o, he, hw, hctx, hm, hva, hframe, hother, hT, hsub⟩ := issueV_started (check := fun s => s.vecFault h f)
    (sram := .good) hs hf (by decide) (.inl (by decide))
  have hx : T.ctx h.tile h.ctx = (s.ctx h.tile h.ctx).advance := hT.here
  rw [State.runV_vst .good hw hctx hva hx, hm] at he
  have hregs : T.regs = s.regs := (congrArg State.regs hframe :)
  have hcheck : T.checkerOf h.tile = s.checkerOf h.tile := State.checkerOf_congr hregs (congrArg State.removed hframe :) _
  have honly := State.storeElems_onlyStores (s := T) (u := h.tile) (a := s.vecPlace h f) (n := elemBytes f.ty.toNat)
    (part := takesPart f.ty.toNat (laneMask ((s.ctx h.tile h.ctx).rdP h.pred.toNat) h.pneg))
    (v := (s.ctx h.tile h.ctx).rdElem f.ty.toNat f.va.toNat)
    (m := elemsOf f.ty.toNat)
  obtain ⟨hS, hPV, hon⟩ := State.keepsS_of_ctx ((State.onlyStores_ctx honly h.tile h.ctx).trans hx)
  refine ⟨_, exec_vst.trans he, hS, hPV, hon, ?_, ?_, fun u hu hc => ?_⟩
  · exact (congrArg (fun t : State => { t with tiles := s.tiles, free := s.free }) honly.1).trans
      (congrArg (fun t : State => { t with free := s.free }) hframe)
  · exact State.storesLocal_of_base (State.storeElems_storesLocal (elemBytes_elemsOf _)) (State.rdByte_started hother hT) hcheck (hsub _ _)
  · rw [State.tile_storeElems_other hu (by rwa [hcheck]), hother u hu]

end

/-- Settles O17: each instruction by its check, then by what it reads or stores once it has started. -/
theorem vectorMemory : Obligations.VectorMemory := by
  unfold Obligations.VectorMemory
  intro h f s x ty n va a mask inRange
  have good : inRange → s.vecFault h f = none := fun ⟨hr, hn, ha, he⟩ => vecCheck_good hr ha hn he
  refine ⟨fun hin => vld_good (good hin),
    fun hin hs => ⟨vld_corrected (good hin) hs, (exec_vld _).trans (issueV_read_fails (check := fun s => s.vecFault h f) hs (good hin))⟩,
    fun hin hs => vst_stores (good hin) hs, fun w i sram hi hg => ?_⟩
  have fault : ∀ e, s.vecFault h f = some e → exec i s = .next (s.issueFault h.tile h.ctx e) := fun e he => by
    obtain ⟨rfl, rfl⟩ | ⟨rfl, rfl⟩ := hi
    · exact (exec_vld sram).trans (issueV_faults (check := fun s => s.vecFault h f) hg he)
    · exact exec_vst.trans (issueV_faults (check := fun s => s.vecFault h f) hg he)
  exact ⟨fun hr => fault _ (vecCheck_register hr), fun hr ha => fault _ (vecCheck_misaligned hr ha),
    fun hr ha hn => fault _ (vecCheck_negative hr ha hn), fun hr ha hn he => fault _ (vecCheck_beyond hr ha hn he)⟩

end Sys2Proof.Machine

/-! Vector registers as numbers: packed elements, and the fields of an image (R95, R158). -/

namespace Sys2Proof.Machine

/-! ## Packed elements (R95) -/

theorem packedElem_eq_bits {w : Nat} (hw : 0 < w) (v k : Nat) : packedElem w v k = bits v (w * k + (w - 1)) (w * k) := by
  unfold packedElem bits
  rw [show w * k + (w - 1) + 1 - w * k = w by omega]

theorem packedElem_zero (w v : Nat) : packedElem w v 0 = v % 2 ^ w := by
  unfold packedElem
  rw [Nat.mul_zero, Nat.pow_zero, Nat.div_one]

theorem packedElem_succ (w v k : Nat) : packedElem w v (k + 1) = packedElem w (v / 2 ^ w) k := by
  unfold packedElem
  rw [Nat.div_div_eq_div_mul, ← Nat.pow_add, Nat.mul_succ, Nat.add_comm]

theorem packedElem_packElems (w : Nat) (vs : List Nat) (k : Nat) : packedElem w (packElems w vs) k = vs.getD k 0 % 2 ^ w := by
  induction vs generalizing k with
  | nil => simp [packElems, packedElem]
  | cons v vs ih =>
    have hlow : (v % 2 ^ w + 2 ^ w * packElems w vs) / 2 ^ w = packElems w vs := by
      rw [Nat.add_mul_div_left _ _ (Nat.two_pow_pos w), Nat.div_eq_of_lt (Nat.mod_lt _ (Nat.two_pow_pos w)), Nat.zero_add]
    cases k with
    | zero => rw [packElems, packedElem_zero, Nat.add_mul_mod_self_left, Nat.mod_mod, List.getD_cons_zero]
    | succ k => rw [packElems, packedElem_succ, hlow, ih, List.getD_cons_succ]

theorem packElems_lt (w : Nat) (vs : List Nat) : packElems w vs < 2 ^ (w * vs.length) := by
  induction vs with
  | nil => exact Nat.one_pos
  | cons v vs ih =>
    have hv := Nat.mod_lt v (Nat.two_pow_pos w)
    rw [packElems, List.length_cons, Nat.mul_succ, Nat.add_comm (w * _) w, Nat.pow_add]
    calc v % 2 ^ w + 2 ^ w * packElems w vs < 2 ^ w * (packElems w vs + 1) := by rw [Nat.mul_succ]; omega
      _ ≤ 2 ^ w * 2 ^ (w * vs.length) := Nat.mul_le_mul_left _ ih

/-- A number is the packing of its elements. -/
theorem packElems_packedElem (w n v : Nat) : packElems w ((List.range n).map (packedElem w v)) = v % 2 ^ (w * n) := by
  induction n generalizing v with
  | zero => simp [packElems, Nat.mod_one]
  | succ n ih =>
    have hmap : (List.range n).map (packedElem w v ∘ Nat.succ) = (List.range n).map (packedElem w (v / 2 ^ w)) :=
      List.map_congr_left fun k _ => packedElem_succ w v k
    rw [List.range_succ_eq_map, List.map_cons, List.map_map, hmap, packElems, ih, packedElem_zero, Nat.mod_mod, Nat.mul_succ,
      Nat.add_comm (w * n) w, Nat.pow_add, Nat.mod_mul]

/-! ## A vector register as a number -/

theorem Ctx.rdLane_wrVec (x : Ctx) (r v q : Nat) {j : Nat} (hj : j < 64) :
    (x.wrVec r v).rdLane q j = if q = r then BitVec.ofNat 32 (packedElem 32 v j) else x.rdLane q j := by
  have hfold : ∀ n, n ≤ 64 → ((List.range n).foldl (fun y k => y.wrLane r k (BitVec.ofNat 32 (packedElem 32 v k))) x).rdLane q j
      = if q = r ∧ j < n then BitVec.ofNat 32 (packedElem 32 v j) else x.rdLane q j := by
    intro n hn
    induction n with
    | zero => rw [if_neg (by omega)]; rfl
    | succ n ih =>
      rw [List.range_succ, List.foldl_append, List.foldl_cons, List.foldl_nil, Ctx.rdLane_wrLane, ih (by omega)]
      by_cases hq : 64 * q + j = 64 * r + n
      · obtain ⟨rfl, rfl⟩ : q = r ∧ j = n := by omega
        rw [if_pos rfl, if_pos ⟨rfl, by omega⟩]
      · rw [if_neg hq]
        exact if_congr (by omega) rfl rfl
  exact (hfold 64 le_rfl).trans (if_congr (and_iff_left hj) rfl rfl)

theorem Ctx.rdVec_wrVec (x : Ctx) (r v : Nat) (hv : v < 2 ^ (32 * 64)) : (x.wrVec r v).rdVec r = v := by
  have hmap : (List.range 64).map (fun k => ((x.wrVec r v).rdLane r k).toNat) = (List.range 64).map (packedElem 32 v) := by
    refine List.map_congr_left fun k hk => ?_
    rw [Ctx.rdLane_wrVec x r v r (List.mem_range.1 hk), if_pos rfl, BitVec.toNat_ofNat]
    exact Nat.mod_mod _ _
  unfold Ctx.rdVec
  rw [hmap, packElems_packedElem]
  exact Nat.mod_eq_of_lt hv

theorem Ctx.rdVec_lt (x : Ctx) (r : Nat) : x.rdVec r < 2 ^ (32 * 64) := by
  have h := packElems_lt 32 ((List.range 64).map fun k => (x.rdLane r k).toNat)
  rw [List.length_map, List.length_range] at h
  exact h

/-- Context `y` is `x` but for its vector registers. -/
def Ctx.onlyVecs (y x : Ctx) : Prop := { y with v := x.v } = x

section
variable {x y z : Ctx}

theorem Ctx.onlyVecs_trans (h : z.onlyVecs y) (h' : y.onlyVecs x) : z.onlyVecs x :=
  Eq.trans (congrArg (fun u : Ctx => { u with v := x.v }) (h : { z with v := y.v } = y)) h'

/-- The other registers and the place in the program are as they were. -/
theorem Ctx.onlyVecs_parts (h : y.onlyVecs x) : (∀ j, y.rdS j = x.rdS j) ∧ (∀ j, y.rdP j = x.rdP j) ∧ y.pc = x.pc
    ∧ y.loops = x.loops :=
  ⟨fun j => (congrArg (fun u : Ctx => u.rdS j) h :), fun j => (congrArg (fun u : Ctx => u.rdP j) h :), (congrArg Ctx.pc h :),
    (congrArg Ctx.loops h :)⟩

end

theorem Ctx.wrLane_onlyVecs (x : Ctx) (r k : Nat) (u : Lane) : (x.wrLane r k u).onlyVecs x := rfl

theorem Ctx.wrVec_onlyVecs (x : Ctx) (r u : Nat) : (x.wrVec r u).onlyVecs x :=
  foldl_prop (P := fun y => Ctx.onlyVecs y x) (fun y _ hy => Ctx.onlyVecs_trans (y.wrLane_onlyVecs ..) hy) rfl

/-! ## Fields of an image -/

/-- An element of an image after an element was set. -/
theorem packedElem_setBits {w : Nat} (hw : 0 < w) (v j k u : Nat) :
    packedElem w (setBits v (w * j + w - 1) (w * j) u) k = if k = j then u % 2 ^ w else packedElem w v k := by
  have hhi : ∀ i, w * i + w - 1 = w * i + (w - 1) := fun i => Nat.add_sub_assoc hw _
  rw [packedElem_eq_bits hw, packedElem_eq_bits hw, hhi]
  obtain hk | rfl | hk := Nat.lt_trichotomy k j
  · have := Nat.mul_le_mul_left w hk
    rw [Nat.mul_succ] at this
    rw [if_neg hk.ne, bits_setBits_below _ _ (by omega) (by omega)]
  · rw [if_pos rfl, bits_setBits_same _ _ (by omega), show w * k + (w - 1) + 1 - w * k = w by omega]
  · have := Nat.mul_le_mul_left w hk
    rw [Nat.mul_succ] at this
    rw [if_neg hk.ne', bits_setBits_above _ _ (by omega) (by omega)]

/-- The part of an image above a field keeps its value. -/
theorem setBits_div (v u : Nat) {hi lo m : Nat} (h : lo ≤ hi) (hm : hi < m) : setBits v hi lo u / 2 ^ m = v / 2 ^ m := by
  have hlow : setBits (v % 2 ^ lo) hi lo u < 2 ^ (hi + 1) := setBits_lt u h (Nat.lt_succ_self hi)
    ((Nat.mod_lt v (Nat.two_pow_pos lo)).trans_le (Nat.pow_le_pow_right (by decide) (by omega)))
  have hsplit : setBits v hi lo u = 2 ^ (hi + 1) * (v / 2 ^ (hi + 1)) + setBits (v % 2 ^ lo) hi lo u := by
    have hz : v % 2 ^ lo / 2 ^ (hi + 1) = 0 := Nat.div_eq_of_lt
      ((Nat.mod_lt v (Nat.two_pow_pos lo)).trans_le (Nat.pow_le_pow_right (by decide) (by omega)))
    unfold setBits
    rw [hz, Nat.zero_mul, Nat.zero_add, Nat.mod_mod, Nat.mul_comm, Nat.add_assoc]
  obtain ⟨j, rfl⟩ := Nat.exists_eq_add_of_le hm
  rw [Nat.succ_eq_add_one, Nat.pow_add, ← Nat.div_div_eq_div_mul, ← Nat.div_div_eq_div_mul, hsplit,
    Nat.mul_add_div (Nat.two_pow_pos _), Nat.div_eq_of_lt hlow, Nat.add_zero]

end Sys2Proof.Machine

/-! vcvt (R167 to R170). -/

namespace Sys2Proof.Machine

/-! ## The elements of a destination -/

/-- The source element that destination element `k` takes its value from; `half` is the first element of the half that takes part
(R168). -/
def cvtFrom (ty dst half k : Nat) : Nat := if ty = 1 then k - half else if dst = 1 then half + k else k

/-- The first destination element of a conversion, and how many there are (R168). -/
def cvtFirst (ty half : Nat) : Nat := if ty = 1 then half else 0
def cvtCount (ty dst : Nat) : Nat := if ty = 1 ∨ dst = 1 then 32 else 64

theorem cvtPairs_eq (ty dst : Nat) (b : Bool) : cvtPairs ty dst b = (List.range (cvtCount ty dst)).map fun j =>
    (cvtFrom ty dst (if b then 32 else 0) (cvtFirst ty (if b then 32 else 0) + j), cvtFirst ty (if b then 32 else 0) + j) := by
  unfold cvtPairs cvtCount cvtFrom cvtFirst
  by_cases hs : ty = 1
  · simp [hs]
  · by_cases hd : dst = 1
    · simp [hs, hd]
    · simp [hs, hd]

/-- Context `x` with `n` destination elements from `lo` holding `v`, where they take part (R168). -/
def Ctx.cvtRange (x : Ctx) (dst d : Nat) (mask : Word) (v : Nat → Nat) (lo n : Nat) : Ctx :=
  (List.range n).foldl (fun y j => if takesPart dst mask (lo + j) then y.cvtDest dst d (lo + j) (v (lo + j)) else y) x

section
variable {x : Ctx} {dst d : Nat} {mask : Word} {v : Nat → Nat} {lo n : Nat}

theorem Ctx.cvtRange_succ : x.cvtRange dst d mask v lo (n + 1) = if takesPart dst mask (lo + n)
    then (x.cvtRange dst d mask v lo n).cvtDest dst d (lo + n) (v (lo + n)) else x.cvtRange dst d mask v lo n := by
  unfold Ctx.cvtRange
  rw [List.range_succ, List.foldl_append]
  rfl

theorem Ctx.cvtDest_wide (hw : 32 ≤ fmtWidth dst) (k u : Nat) : x.cvtDest dst d k u = x.wrElem dst d k u :=
  if_neg (Nat.not_lt.2 hw)

theorem Ctx.cvtDest_packed (hw : fmtWidth dst < 32) (k u : Nat) : x.cvtDest dst d k u = x.wrVec d
    (setBits (x.rdVec d) (fmtWidth dst * k + fmtWidth dst - 1) (fmtWidth dst * k) u) :=
  if_pos hw

theorem Ctx.cvtDest_onlyVecs (x : Ctx) (dst d k u : Nat) : (x.cvtDest dst d k u).onlyVecs x := by
  by_cases hw : fmtWidth dst < 32
  · rw [Ctx.cvtDest_packed hw]
    exact x.wrVec_onlyVecs _ _
  · rw [Ctx.cvtDest_wide (Nat.not_lt.1 hw)]
    exact x.wrElem_keeps dst d k u

theorem Ctx.cvtRange_onlyVecs (x : Ctx) (dst d : Nat) (mask : Word) (v : Nat → Nat) (lo n : Nat) :
    (x.cvtRange dst d mask v lo n).onlyVecs x :=
  foldl_prop (P := fun y => Ctx.onlyVecs y x) (fun y k hy => by
    split
    · exact Ctx.onlyVecs_trans (y.cvtDest_onlyVecs ..) hy
    · exact hy) rfl

/-- Other vector registers are as they were. -/
theorem Ctx.rdLane_cvtRange (hn : lo + n ≤ elemsOf dst) {q j : Nat} (hq : q ≠ d) (hj : j < 64) :
    (x.cvtRange dst d mask v lo n).rdLane q j = x.rdLane q j := by
  induction n with
  | zero => rfl
  | succ n ih =>
    rw [Ctx.cvtRange_succ]
    split
    · by_cases hw : fmtWidth dst < 32
      · rw [Ctx.cvtDest_packed hw, Ctx.rdLane_wrVec _ _ _ _ hj, if_neg hq, ih (by omega)]
      · rw [Ctx.cvtDest_wide (Nat.not_lt.1 hw), Ctx.rdLane_wrElem_other _ _ _ _ _ _ _ hq hj (by omega), ih (by omega)]
    · exact ih (by omega)

/-- Elements of 32 bits and more: those that take part hold their value, the others what they held (R168). -/
theorem Ctx.rdElem_cvtRange (hw : 32 ≤ fmtWidth dst) (k : Nat) : (x.cvtRange dst d mask v lo n).rdElem dst d k
    = if (lo ≤ k ∧ k < lo + n) ∧ takesPart dst mask k = true then v k % 2 ^ (if dst = 1 then 64 else 32) else x.rdElem dst d k := by
  induction n with
  | zero => rw [if_neg (by omega)]; rfl
  | succ n ih =>
    rw [Ctx.cvtRange_succ]
    by_cases hk : k = lo + n
    · subst hk
      by_cases ht : takesPart dst mask (lo + n) = true
      · rw [if_pos ht, Ctx.cvtDest_wide hw, Ctx.rdElem_wrElem, if_pos rfl, if_pos (show (lo ≤ lo + n ∧ _) ∧ _ from ⟨by omega, ht⟩)]
      · rw [if_neg ht, ih, if_neg fun h => ht h.2, if_neg fun h => ht h.2]
    · have hsame : (lo ≤ k ∧ k < lo + (n + 1)) ↔ lo ≤ k ∧ k < lo + n := by omega
      simp only [hsame, ← ih]
      split
      · rw [Ctx.cvtDest_wide hw, Ctx.rdElem_wrElem, if_neg hk]
      · rfl

/-- Elements of less than 32 bits, packed: those that take part hold their value, the others what they held, and so do the bits
above the 64 elements (R168). -/
theorem Ctx.rdVec_cvtRange (h0 : 0 < fmtWidth dst) (hw : fmtWidth dst < 32) (hn : lo + n ≤ 64) :
    (∀ k, packedElem (fmtWidth dst) ((x.cvtRange dst d mask v lo n).rdVec d) k
      = if (lo ≤ k ∧ k < lo + n) ∧ takesPart dst mask k = true then v k % 2 ^ fmtWidth dst
        else packedElem (fmtWidth dst) (x.rdVec d) k)
    ∧ (x.cvtRange dst d mask v lo n).rdVec d / 2 ^ (64 * fmtWidth dst) = x.rdVec d / 2 ^ (64 * fmtWidth dst) := by
  induction n with
  | zero => exact ⟨fun k => by rw [if_neg (by omega)]; rfl, rfl⟩
  | succ n ih =>
    obtain ⟨ihelem, ihabove⟩ := ih (by omega)
    rw [Ctx.cvtRange_succ]
    by_cases ht : takesPart dst mask (lo + n) = true
    · have hfit : fmtWidth dst * (lo + n) + fmtWidth dst ≤ fmtWidth dst * 64 := by
        rw [← Nat.mul_succ]
        exact Nat.mul_le_mul_left _ (by omega)
      have hlt := setBits_lt (hi := fmtWidth dst * (lo + n) + fmtWidth dst - 1) (lo := fmtWidth dst * (lo + n)) (v (lo + n))
        (by omega) (by omega) ((x.cvtRange dst d mask v lo n).rdVec_lt d)
      rw [if_pos ht, Ctx.cvtDest_packed hw, Ctx.rdVec_wrVec _ _ _ hlt]
      refine ⟨fun k => ?_, ?_⟩
      · rw [packedElem_setBits h0]
        by_cases hk : k = lo + n
        · subst hk
          rw [if_pos rfl, if_pos (show (lo ≤ lo + n ∧ _) ∧ _ from ⟨by omega, ht⟩)]
        · rw [if_neg hk, ihelem]
          exact if_congr (and_congr_left' (by omega)) rfl rfl
      · rw [setBits_div _ _ (by omega) (by omega), ihabove]
    · rw [if_neg ht]
      refine ⟨fun k => ?_, ihabove⟩
      rw [ihelem]
      refine if_congr (and_congr_left fun hk => ?_) rfl rfl
      have : k ≠ lo + n := fun e => ht (e ▸ hk)
      omega

end

end Sys2Proof.Machine

namespace Sys2Proof.Machine

/-! ## vcvt to any destination but the sliced operand (R167 to R169) -/

/-- The value of destination element `k` before it is cut to its width (R167 to R169). -/
def Ctx.cvtValue (x : Ctx) (num : NumCfg) (f : VF) (va vb : Word) (k : Nat) : Nat :=
  elemEnc num.sat (f.imm9.toNat % 32) (num.rnd (va.toNat + k) (vb.toNat % 2 ^ 32)) (x.cvtSource f.ty.toNat f.va.toNat
    (cvtFrom f.ty.toNat (f.imm9.toNat % 32) (if bit f.imm9.toNat 5 then 32 else 0) k))

/-- The types of a conversion have widths: one of 32 bits and more is that of an element of its register (R158, R168). -/
theorem isCvt_width {c : Nat} (hc : isCvt c = true) : 0 < fmtWidth c ∧ (32 ≤ fmtWidth c → fmtWidth c = if c = 1 then 64 else 32) := by
  simp only [isCvt, List.contains_eq_mem, decide_eq_true_eq, List.mem_cons, List.not_mem_nil, or_false] at hc
  obtain rfl | rfl | rfl | rfl | rfl | rfl | rfl | rfl | rfl | rfl := hc <;> decide

/-- IMM9[4:0] names the destination's type (R167). -/
theorem bits_dst (v : Nat) : bits v 4 0 = v % 32 := bits_low v 4

section
variable {s : State} {h : Head} {f : VF} {x : Ctx} {num : NumCfg} {o : UOp}

/-- What legality gives of the types of vcvt (R167). -/
theorem vcvt_legal {u : TUnit} (hs : s.startsAtIssue h u (encV 0x08 h f)) : f.imm9.toNat % 32 ≠ f.ty.toNat
    ∧ (f.imm9.toNat % 32 ≠ 0x15 → isCvt (f.imm9.toNat % 32) = true) := by
  have hl := State.startsAtIssue_legalV (by decide) hs
  unfold legalV at hl
  simp only [encV_ty, encV_imm9, Nat.reduceLT, Nat.reduceLeDiff, Nat.reduceEqDiff, false_and, or_self, if_false,
    Bool.and_eq_true, decide_eq_true_eq] at hl
  obtain ⟨-, ⟨-, hne⟩, hdst⟩ := hl
  rw [bits_dst] at hne hdst
  refine ⟨hne, fun h15 => ?_⟩
  rw [if_neg h15] at hdst
  simp only [Bool.and_eq_true] at hdst
  exact hdst.1.1

variable (hw : o.word.toNat = encV 0x08 h f)
include hw

theorem Ctx.runV_vcvt : x.runV num o = if f.imm9.toNat % 32 = 0x15 then x.cvtSliced o else x.cvt num o := by
  unfold Ctx.runV
  simp only [hw, wOp_encV, encV_imm9, Nat.reduceLT]
  rw [bits_dst]

theorem Ctx.cvt_eq : x.cvt num o = x.cvtRange (f.imm9.toNat % 32) f.vd.toNat o.mask (x.cvtValue num f o.va o.vb)
    (cvtFirst f.ty.toNat (if bit f.imm9.toNat 5 then 32 else 0)) (cvtCount f.ty.toNat (f.imm9.toNat % 32)) := by
  have himm : bits (encV 0x08 h f) 8 0 = f.imm9.toNat := encV_imm9 h f (by decide)
  have hdst : bits (encV 0x08 h f) 4 0 = f.imm9.toNat % 32 := by rw [← bits_var (by decide), himm, bits_dst]
  have hhalf : bit (encV 0x08 h f) 5 = bit f.imm9.toNat 5 := by
    rw [Bool.eq_iff_iff, bit_iff, bit_iff, ← bits_var (by decide), himm]
  unfold Ctx.cvt Ctx.cvtRange Ctx.cvtValue
  simp only [hw, encV_ty, encV_vd, encV_va, Nat.reduceLT, hdst, hhalf, cvtPairs_eq, List.map_map, List.foldl_map, Function.comp_def]

end

section
variable {ty dst half : Nat}

/-- The destination elements of a conversion are those of the statement of R168: all of the register, but from FP64 only a half. -/
theorem cvtFirst_iff {k : Nat} (hk : k < elemsOf dst) :
    (cvtFirst ty half ≤ k ∧ k < cvtFirst ty half + cvtCount ty dst) ↔ (ty = 1 → half ≤ k ∧ k < half + 32) := by
  unfold elemsOf at hk
  unfold cvtFirst cvtCount
  by_cases hty : ty = 1
  · rw [if_pos hty, if_pos (.inl hty)]
    exact ⟨fun hk _ => hk, fun hk => hk hty⟩
  · rw [if_neg hty]
    simp only [hty, false_or, false_implies, iff_true]
    omega

theorem cvtFirst_le (hne : dst ≠ ty) (hhalf : half ≤ 32) : cvtFirst ty half + cvtCount ty dst ≤ elemsOf dst := by
  unfold cvtFirst cvtCount elemsOf
  by_cases hty : ty = 1
  · rw [if_pos hty, if_pos (.inl hty), if_neg (hty ▸ hne)]
    omega
  · rw [if_neg hty]
    simp only [hty, false_or]
    omega

/-- Between types of 64 elements every element of the destination is converted (R168). -/
theorem Ctx.cvtRange_all {x : Ctx} {d : Nat} {mask : Word} {v v' : Nat → Nat} (hw : 32 ≤ fmtWidth dst) (hall : elemsOf dst = 64)
    (hty : ty ≠ 1) (hdst : dst ≠ 1) (hv : ∀ k, v k = v' k) :
    x.cvtRange dst d mask v (cvtFirst ty half) (cvtCount ty dst) = x.setElems dst d mask v' := by
  have hfirst : cvtFirst ty half = 0 := if_neg hty
  have hcount : cvtCount ty dst = 64 := if_neg (not_or.2 ⟨hty, hdst⟩)
  obtain rfl : v = v' := funext hv
  unfold Ctx.cvtRange Ctx.setElems Ctx.wrElems
  rw [hfirst, hcount, hall, zipIdx_map_range, List.foldl_map]
  simp only [Nat.zero_add, Ctx.cvtDest_wide hw]

end

/-- A context that has gone on and written vector registers. -/
theorem State.keeps_of_onlyVecs {s t : State} {h : Head} (ht : (t.ctx h.tile h.ctx).onlyVecs (s.ctx h.tile h.ctx).advance) :
    t.keepsS s h ∧ (∀ j, (t.ctx h.tile h.ctx).rdP j = (s.ctx h.tile h.ctx).rdP j) ∧ t.wentOn s h := by
  obtain ⟨hS, hP, hpc, hloops⟩ := Ctx.onlyVecs_parts ht
  refine ⟨hS, hP, ?_⟩
  unfold State.wentOn
  rw [hpc, hloops]
  rfl

/-! ## vcvt to the sliced operand (R170) -/

section
variable {v x : Nat} {hi lo hi' lo' : Nat}

theorem bits_setBits_disjoint (h : lo ≤ hi) (hd : hi' < lo ∨ hi < lo') : bits (setBits v hi lo x) hi' lo' = bits v hi' lo' := by
  obtain hd | hd := hd
  · exact bits_setBits_below v x h hd
  · exact bits_setBits_above v x h hd

end

/-- The image `u` with the slice bytes, the sign word and the exponent word of vector `v` in their places (R170). -/
def sliceInto (u v : Nat) (bytes : List Nat) (sign exp : Nat) : Nat :=
  setBits (setBits (setBits u (8 * (16 * v + 15) + 7) (8 * 16 * v) (packElems 8 bytes)) (8 * (65 + 2 * v) + 7) (8 * (64 + 2 * v)) sign)
    (8 * (73 + 2 * v) + 7) (8 * (72 + 2 * v)) exp

section
variable {u v : Nat} {bytes : List Nat} {sign exp : Nat}

theorem sliceInto_lt (hv : v < 4) (hu : u < 2 ^ (32 * 64)) : sliceInto u v bytes sign exp < 2 ^ (32 * 64) :=
  setBits_lt _ (by omega) (by omega) (setBits_lt _ (by omega) (by omega) (setBits_lt _ (by omega) (by omega) hu))

theorem bits_sliceInto_bytes (hv : v < 4) : bits (sliceInto u v bytes sign exp) (8 * (16 * v + 15) + 7) (8 * 16 * v)
    = packElems 8 bytes % 2 ^ 128 := by
  unfold sliceInto
  rw [bits_setBits_disjoint (by omega) (by omega), bits_setBits_disjoint (by omega) (by omega), bits_setBits_same _ _ (by omega),
    show 8 * (16 * v + 15) + 7 + 1 - 8 * 16 * v = 128 by omega]

theorem bits_sliceInto_sign : bits (sliceInto u v bytes sign exp) (8 * (65 + 2 * v) + 7) (8 * (64 + 2 * v)) = sign % 2 ^ 16 := by
  unfold sliceInto
  rw [bits_setBits_disjoint (by omega) (by omega), bits_setBits_same _ _ (by omega),
    show 8 * (65 + 2 * v) + 7 + 1 - 8 * (64 + 2 * v) = 16 by omega]

theorem bits_sliceInto_exp : bits (sliceInto u v bytes sign exp) (8 * (73 + 2 * v) + 7) (8 * (72 + 2 * v)) = exp % 2 ^ 16 := by
  unfold sliceInto
  rw [bits_setBits_same _ _ (by omega), show 8 * (73 + 2 * v) + 7 + 1 - 8 * (72 + 2 * v) = 16 by omega]

/-- A field apart from the three places of a vector keeps its value. -/
theorem bits_sliceInto_apart {hi lo : Nat} (hb : hi < 8 * 16 * v ∨ 8 * (16 * v + 15) + 7 < lo)
    (hs : hi < 8 * (64 + 2 * v) ∨ 8 * (65 + 2 * v) + 7 < lo) (he : hi < 8 * (72 + 2 * v) ∨ 8 * (73 + 2 * v) + 7 < lo) :
    bits (sliceInto u v bytes sign exp) hi lo = bits u hi lo := by
  unfold sliceInto
  rw [bits_setBits_disjoint (by omega) he, bits_setBits_disjoint (by omega) hs, bits_setBits_disjoint (by omega) hb]

end

/-- The image of the first `n` vectors over `u`. -/
def slicedImage (bytes : Nat → List Nat) (sign exp : Nat → Nat) (u n : Nat) : Nat :=
  (List.range n).foldl (fun u v => sliceInto u v (bytes v) (sign v) (exp v)) u

section
variable {bytes : Nat → List Nat} {sign exp : Nat → Nat} {u n : Nat}

theorem slicedImage_succ : slicedImage bytes sign exp u (n + 1) = sliceInto (slicedImage bytes sign exp u n) n (bytes n) (sign n) (exp n) := by
  unfold slicedImage
  rw [List.range_succ, List.foldl_append]
  rfl

theorem slicedImage_lt (hn : n ≤ 4) (hu : u < 2 ^ (32 * 64)) : slicedImage bytes sign exp u n < 2 ^ (32 * 64) := by
  induction n with
  | zero => exact hu
  | succ n ih =>
    rw [slicedImage_succ]
    exact sliceInto_lt (by omega) (ih (by omega))

/-- Each vector's places hold its own, and every other byte is as it was. -/
theorem slicedImage_spec (hn : n ≤ 4) : (∀ v, v < n →
      bits (slicedImage bytes sign exp u n) (8 * (16 * v + 15) + 7) (8 * 16 * v) = packElems 8 (bytes v) % 2 ^ 128
      ∧ bits (slicedImage bytes sign exp u n) (8 * (65 + 2 * v) + 7) (8 * (64 + 2 * v)) = sign v % 2 ^ 16
      ∧ bits (slicedImage bytes sign exp u n) (8 * (73 + 2 * v) + 7) (8 * (72 + 2 * v)) = exp v % 2 ^ 16)
    ∧ ∀ i, 16 * n ≤ i → i < 64 ∨ 64 + 2 * n ≤ i → i < 72 ∨ 72 + 2 * n ≤ i →
      packedElem 8 (slicedImage bytes sign exp u n) i = packedElem 8 u i := by
  induction n with
  | zero => exact ⟨fun v hv => absurd hv (Nat.not_lt_zero v), fun _ _ _ _ => rfl⟩
  | succ n ih =>
    obtain ⟨ihown, ihother⟩ := ih (by omega)
    rw [slicedImage_succ]
    refine ⟨fun v hv => ?_, fun i hb hs he => ?_⟩
    · by_cases hvn : v = n
      · subst hvn
        exact ⟨bits_sliceInto_bytes (by omega), bits_sliceInto_sign, bits_sliceInto_exp⟩
      · obtain ⟨hbytes, hsign, hexp⟩ := ihown v (by omega)
        refine ⟨?_, ?_, ?_⟩
        · rw [bits_sliceInto_apart (by omega) (by omega) (by omega), hbytes]
        · rw [bits_sliceInto_apart (by omega) (by omega) (by omega), hsign]
        · rw [bits_sliceInto_apart (by omega) (by omega) (by omega), hexp]
    · rw [← ihother i (by omega) (by omega) (by omega), packedElem_eq_bits (by decide), packedElem_eq_bits (by decide),
        bits_sliceInto_apart (by omega) (by omega) (by omega)]

end

/-- Sixteen elements of a list over the numbers below `m`. -/
theorem take_drop_map_range {α : Type} (g : Nat → α) {m v : Nat} (hv : 16 * v + 16 ≤ m) :
    (((List.range m).map g).drop (16 * v)).take 16 = (List.range 16).map fun k => g (16 * v + k) :=
  List.ext_getElem (by simp; omega) fun i hi hi' => by simp

/-- The slices of vector `v` of 16 source elements; SA = 0 leaves its exponent to be computed (R170). -/
def Ctx.slicedVec (x : Ctx) (f : VF) (va : Word) (v : Nat) : Nat × Nat × List (List Nat) :=
  sliceVec (if f.ty.toNat = 1 then 7 else 3) (if f.sa.toNat = 0 then none else some (va.toNat % 2 ^ 16))
    ((List.range 16).map fun k => x.cvtSource f.ty.toNat f.va.toNat (16 * v + k))

/-- The slice of a vector that IMM9[8:6] names (R170). -/
def Ctx.namedSlice (x : Ctx) (f : VF) (va : Word) (v : Nat) : List Nat := (x.slicedVec f va v).2.2.getD (bits f.imm9.toNat 8 6 - 1) []

/-- The image that a conversion to the sliced operand leaves of its destination. -/
def Ctx.slicedReg (x : Ctx) (f : VF) (va : Word) : Nat :=
  slicedImage (x.namedSlice f va) (fun v => (x.slicedVec f va v).2.1) (fun v => (x.slicedVec f va v).1) (x.rdVec f.vd.toNat)
    (elemsOf f.ty.toNat / 16)

section
variable {s : State} {h : Head} {f : VF}

theorem elemsOf_vectors (ty : Nat) : elemsOf ty / 16 ≤ 4 ∧ 16 * (elemsOf ty / 16) = elemsOf ty ∧ 2 * (elemsOf ty / 16) = elemsOf ty / 8 := by
  unfold elemsOf
  split <;> decide

theorem Ctx.cvtSliced_eq {x : Ctx} {o : UOp} (hw : o.word.toNat = encV 0x08 h f) :
    x.cvtSliced o = x.wrVec f.vd.toNat (x.slicedReg f o.va) := by
  have hsl : bits (encV 0x08 h f) 8 6 = bits f.imm9.toNat 8 6 := by
    rw [← bits_var (by decide), encV_imm9 h f (by decide)]
  obtain ⟨-, hm, -⟩ := elemsOf_vectors f.ty.toNat
  unfold Ctx.cvtSliced Ctx.slicedReg slicedImage
  simp only [hw, encV_ty, encV_vd, encV_va, encV_sa, Nat.reduceLT, hsl]
  congr 1
  refine List.foldl_ext _ _ _ fun u v hv => ?_
  rw [take_drop_map_range _ (show 16 * v + 16 ≤ elemsOf f.ty.toNat by have := List.mem_range.1 hv; omega)]
  rfl

variable {x : Ctx} {va : Word}

theorem Ctx.slicedReg_lt : x.slicedReg f va < 2 ^ (32 * 64) :=
  slicedImage_lt (elemsOf_vectors _).1 (x.rdVec_lt _)

/-- The bytes of a vector's slice, its sign word and its exponent word stand where R170 puts them. -/
theorem Ctx.slicedReg_own {v : Nat} (hv : v < elemsOf f.ty.toNat / 16) :
    (∀ k, k < 16 → packedElem 8 (x.slicedReg f va) (16 * v + k) = (x.namedSlice f va v).getD k 0 % 256)
      ∧ packedElem 16 (x.slicedReg f va) (32 + v) = (x.slicedVec f va v).2.1 % 2 ^ 16
      ∧ packedElem 16 (x.slicedReg f va) (36 + v) = (x.slicedVec f va v).1 % 2 ^ 16 := by
  obtain ⟨hbytes, hsign, hexp⟩ := (slicedImage_spec (bytes := x.namedSlice f va) (sign := fun v => (x.slicedVec f va v).2.1)
    (exp := fun v => (x.slicedVec f va v).1) (u := x.rdVec f.vd.toNat) (elemsOf_vectors f.ty.toNat).1).1 v hv
  refine ⟨fun k hk => ?_, ?_, ?_⟩
  · have hfield : packedElem 8 (x.slicedReg f va) (16 * v + k)
        = bits (bits (x.slicedReg f va) (8 * (16 * v + 15) + 7) (8 * 16 * v)) (8 * k + 7) (8 * k) := by
      rw [bits_bits (by omega), packedElem_eq_bits (by decide)]
      congr 1 <;> omega
    rw [hfield]
    unfold Ctx.slicedReg
    rw [hbytes, bits_mod (by omega)]
    exact (packedElem_eq_bits (by decide) ..).symm.trans (packedElem_packElems ..)
  · rw [packedElem_eq_bits (by decide), ← hsign]
    unfold Ctx.slicedReg
    congr 1 <;> omega
  · rw [packedElem_eq_bits (by decide), ← hexp]
    unfold Ctx.slicedReg
    congr 1 <;> omega

/-- Every other byte of the destination is as it was. -/
theorem Ctx.slicedReg_other {i : Nat} (hi : (elemsOf f.ty.toNat ≤ i ∧ i < 64)
      ∨ (64 + elemsOf f.ty.toNat / 8 ≤ i ∧ i < 72) ∨ 72 + elemsOf f.ty.toNat / 8 ≤ i) :
    packedElem 8 (x.slicedReg f va) i = packedElem 8 (x.rdVec f.vd.toNat) i := by
  obtain ⟨h4, h16, h8⟩ := elemsOf_vectors f.ty.toNat
  exact (slicedImage_spec h4).2 i (by omega) (by omega) (by omega)

end

/-! ## The obligation -/

section
variable {s : State} {h : Head} {f : VF}

/-- The check of vcvt at issue (R169). -/
def State.cvtFault (s : State) (f : VF) : Option FaultAt := cvtCheck (NumCfg.ofReg (s.reg .NUMCFG 0)) f

theorem exec_vcvt : exec (.vcvt h f) s = issueV 0x08 h f (fun s => s.cvtFault f) .good s := rfl

theorem State.cvtFault_none (hok : f.imm9.toNat % 32 = 0x15 ∨ ((NumCfg.ofReg (s.reg .NUMCFG 0)).sr = true → f.sa ≠ 63)) :
    s.cvtFault f = none := by
  refine if_neg fun hc => ?_
  simp only [Bool.and_eq_true, decide_eq_true_eq] at hc
  obtain ⟨⟨hsr, hsa⟩, h15⟩ := hc
  exact hok.elim h15 fun hok => hok hsr hsa

theorem State.cvtFault_some (hsr : (NumCfg.ofReg (s.reg .NUMCFG 0)).sr = true) (hsa : f.sa = 63) (h15 : f.imm9.toNat % 32 ≠ 0x15) :
    s.cvtFault f = some (cOPERAND, unstated) := by
  refine if_pos ?_
  rw [hsr, decide_eq_true hsa, decide_eq_true h15]
  rfl

/-- A vcvt that starts: its context has gone on and written vector registers only, as the conversion of the context before says. -/
theorem vcvt_starts (hs : s.startsAtIssue h .vector (encV 0x08 h f)) (hc : s.cvtFault f = none) : ∃ (t : State) (y : Ctx),
    exec (.vcvt h f) s = .next t ∧ t.ctx h.tile h.ctx = y ∧ t.unitElsewhere s h (encV 0x08 h f)
      ∧ (f.imm9.toNat % 32 = 0x15 → y = (s.ctx h.tile h.ctx).advance.wrVec f.vd.toNat
          ((s.ctx h.tile h.ctx).slicedReg f ((s.ctx h.tile h.ctx).rdS f.sa.toNat)))
      ∧ (f.imm9.toNat % 32 ≠ 0x15 → y = (s.ctx h.tile h.ctx).advance.cvtRange (f.imm9.toNat % 32) f.vd.toNat
          (laneMask ((s.ctx h.tile h.ctx).rdP h.pred.toNat) h.pneg)
          ((s.ctx h.tile h.ctx).cvtValue (NumCfg.ofReg (s.reg .NUMCFG 0)) f ((s.ctx h.tile h.ctx).rdS f.sa.toNat)
            ((s.ctx h.tile h.ctx).rdS (f.sa.toNat + 1)))
          (cvtFirst f.ty.toNat (if bit f.imm9.toNat 5 then 32 else 0)) (cvtCount f.ty.toNat (f.imm9.toNat % 32))) := by
  obtain ⟨t, o, ht, hw, hm, hva, hvb, hx, helse⟩ := issueV_register (check := fun s => s.cvtFault f) hs hc (by decide) (by decide)
    (by decide)
  rw [Ctx.runV_vcvt hw] at hx
  refine ⟨t, _, exec_vcvt.trans ht, hx, helse, fun h15 => ?_, fun h15 => ?_⟩
  · rw [if_pos h15, Ctx.cvtSliced_eq hw, hva]
    rfl
  · rw [if_neg h15, Ctx.cvt_eq hw, hm, hva, hvb]
    rfl

end

/-- Settles O18: a conversion writes its range of destination elements, whole or packed; one to the sliced operand the image of its
vectors. -/
theorem vectorConversion : Obligations.VectorConversion := by
  unfold Obligations.VectorConversion
  intro h f s x w num ty dst wd mask half src part val rest
  refine ⟨fun hdst hty hdst1 hok => ?plain, fun hs h15 hok => ?range, fun hs h15 => ?sliced, fun hg hsr hsa h15 => ?fault⟩
  case plain =>
    have hw32 : 32 ≤ fmtWidth dst ∧ elemsOf dst = 64 := by
      obtain h | h | h := hdst
      · exact absurd h hdst1
      · rw [h]; decide
      · rw [h]; decide
    have h15 : dst ≠ 0x15 := fun e => by rw [e] at hdst; omega
    refine State.writesV_runV exec_vcvt (State.cvtFault_none (.inr hok)) (by decide) (by decide) (by decide) fun o hw _ hva hvb => ?_
    rw [Ctx.runV_vcvt hw, if_neg h15, Ctx.cvt_eq hw, hva, hvb]
    exact Ctx.cvtRange_all hw32.1 hw32.2 hty hdst1 fun k => by
      unfold Ctx.cvtValue cvtFrom
      rw [if_neg hty, if_neg hdst1]
      rfl
  case range =>
    obtain ⟨hne, hcvt⟩ := vcvt_legal hs
    obtain ⟨hpos, hwide⟩ := isCvt_width (hcvt h15)
    obtain ⟨t, y, ht, hy, helse, -, hrange⟩ := vcvt_starts hs (State.cvtFault_none (.inr hok))
    have hy' := hrange h15
    have hhalf : half ≤ 32 := by
      show (if _ then 32 else 0) ≤ 32
      split <;> decide
    have hfit := cvtFirst_le hne hhalf
    obtain ⟨hS, hP, hon⟩ := State.keeps_of_onlyVecs (s := s) (t := t) (h := h) (by rw [hy, hy']; exact Ctx.cvtRange_onlyVecs ..)
    have hpart : ∀ k, k < elemsOf dst → ((cvtFirst ty half ≤ k ∧ k < cvtFirst ty half + cvtCount ty dst) ∧ takesPart dst mask k = true
        ↔ part k) := fun k hk => (and_congr_left' (cvtFirst_iff hk)).trans and_comm
    refine ⟨t, ht, ⟨hS, hP, hon, helse, fun r k hr hk => ?_⟩, fun hw k hk => ?_, fun hw => ?_⟩
    · rw [hy, hy']
      exact Ctx.rdLane_cvtRange hfit hr hk
    · show _ = if part k then _ % 2 ^ fmtWidth dst else _
      rw [hy, hy', Ctx.rdElem_cvtRange hw, hwide hw]
      exact if_congr (hpart k hk) rfl rfl
    · have hdst1 : dst ≠ 1 := fun e => by
        have : wd = 64 := by show fmtWidth dst = 64; rw [e]; rfl
        omega
      have hall : elemsOf dst = 64 := if_neg hdst1
      obtain ⟨helem, habove⟩ := Ctx.rdVec_cvtRange (x := x.advance) (d := f.vd.toNat) (mask := mask)
        (v := x.cvtValue num f (x.rdS f.sa.toNat) (x.rdS (f.sa.toNat + 1))) hpos hw (hall ▸ hfit)
      rw [hy, hy']
      exact ⟨fun k hk => (helem k).trans (if_congr (hpart k (by omega)) rfl rfl), habove⟩
  case sliced =>
    obtain ⟨t, y, ht, hy, helse, hsliced, -⟩ := vcvt_starts hs (State.cvtFault_none (.inl h15))
    have hy' := hsliced h15
    obtain ⟨hS, hP, hon⟩ := State.keeps_of_onlyVecs (s := s) (t := t) (h := h) (by rw [hy, hy']; exact Ctx.wrVec_onlyVecs ..)
    have hreg : (t.ctx h.tile h.ctx).rdVec f.vd.toNat = x.slicedReg f (x.rdS f.sa.toNat) := by
      rw [hy, hy', Ctx.rdVec_wrVec _ _ _ Ctx.slicedReg_lt]
    refine ⟨t, ht, ⟨hS, hP, hon, helse, fun r k hr hk => ?_⟩, ?_⟩
    · rw [hy, hy', Ctx.rdLane_wrVec _ _ _ _ hk, if_neg hr]
      rfl
    · rw [hreg]
      exact ⟨fun v hv => Ctx.slicedReg_own hv, fun i _ hi => Ctx.slicedReg_other hi⟩
  case fault =>
    exact exec_vcvt.trans (issueV_faults (check := fun s => s.cvtFault f) hg (State.cvtFault_some hsr hsa h15))

end Sys2Proof.Machine

/-! F instructions: the special functions and the codebook (R173 to R183, Table 6-4). -/

namespace Sys2Proof.Machine

/-! ## The fields of an F word (Table 3-3) -/

section
variable {op : Nat} (h : Head) (f : FF) (ho : op < 64)
include ho

theorem encF_lt : encF op h f < 2 ^ 64 := by
  have h0 := encHead_lt 4 op h (by omega) ho
  have h1 := f.tw.isLt; have h2 := f.ts.isLt; have h3 := f.vd.isLt; have h4 := f.va.isLt; have h5 := f.rsv.isLt
  have h6 := f.ty.isLt; have h7 := f.sa.isLt; have h8 := f.var.isLt
  unfold encF
  omega

theorem encF_fields : bits (encF op h f) 59 54 = op ∧ bits (encF op h f) 39 35 = f.vd.toNat ∧ bits (encF op h f) 34 30 = f.va.toNat
    ∧ bits (encF op h f) 8 0 = f.var.toNat := by
  have hp := h.pred.isLt
  have hn := b2n_le h.pneg
  have h1 := f.tw.isLt; have h2 := f.ts.isLt; have h3 := f.vd.isLt; have h4 := f.va.isLt; have h5 := f.rsv.isLt
  have h6 := f.ty.isLt; have h7 := f.sa.isLt; have h8 := f.var.isLt
  unfold encF encHead bits
  refine ⟨?_, ?_, ?_, ?_⟩ <;> omega

@[simp] theorem wOp_encF : wOp (encF op h f) = op := (encF_fields h f ho).1
@[simp] theorem encF_vd : bits (encF op h f) 39 35 = f.vd.toNat := (encF_fields h f ho).2.1
@[simp] theorem encF_va : bits (encF op h f) 34 30 = f.va.toNat := (encF_fields h f ho).2.2.1
@[simp] theorem encF_var : bits (encF op h f) 8 0 = f.var.toNat := (encF_fields h f ho).2.2.2

end

/-! ## The start of an F instruction at its issue -/

section
variable {s : State} {h : Head} {f : FF} {op : Nat}

/-- What the context of an F instruction captures at issue. -/
def State.issuedF (s : State) (h : Head) (op : Nat) (f : FF) : UOp := s.issuedOp h .sfu (encF op h f) 0 0

theorem issueF_issues (hs : s.startsAtIssue h .sfu (encF op h f)) :
    issueF op h f s = .next ((s.queued h (s.issuedF h op f)).startF h.tile (s.issuedF h op f)) := by
  unfold issueF
  rw [issue_goes hs.1]
  dsimp only
  rw [if_pos (State.affordable_of_covered hs.2.1)]
  rfl

/-- An F instruction that may start has its effect; cbswap completes as well (R182). -/
theorem State.startF_runs {T : State} {t : Nat} {o : UOp} (hst : (T.tile t).startable o = true) (hsw : (T.tile t).swapReady o = true)
    (hcov : T.covered t (costKey o.word.toNat) = true) : T.startF t o
      = if wOp o.word.toNat = 9 then (((T.pay t (costKey o.word.toNat)).markStarted t o).runF t o).completeOp t o
        else ((T.pay t (costKey o.word.toNat)).markStarted t o).runF t o := by
  unfold State.startF
  rw [hst, hsw, hcov, if_neg (by decide), if_neg (by decide)]

/-- cbswap is ready when no F instruction stands in the tile; every other F instruction always is (R182). -/
theorem State.queued_swapReady {o : UOp} (hseq : o.seq = (s.tile h.tile).seq)
    (hsw : wOp o.word.toNat = 9 → ∀ p ∈ (s.tile h.tile).ops, p.unit ≠ .sfu) : ((s.queued h o).tile h.tile).swapReady o = true := by
  have hops : ((s.queued h o).tile h.tile).ops = (s.tile h.tile).ops ++ [{ o with seq := (s.tile h.tile).seq }] := by
    unfold State.queued
    rw [State.tile_enqueue_advance]
    exact (Tile.setCtx_keeps ..).1
  unfold Tile.swapReady
  by_cases h9 : wOp o.word.toNat = 9
  · rw [hops, h9, List.all_append, Bool.or_eq_true, Bool.and_eq_true, List.all_eq_true]
    refine .inr ⟨fun p hp => ?_, ?_⟩
    · rw [decide_eq_true (hsw h9 p hp)]
      rfl
    · simp [hseq]
  · rw [decide_eq_true h9]
    rfl

/-- The replacement of the instruction of one number does not show among those of other numbers. -/
theorem filter_seq_replaced {p : UOp} {n : Nat} (hp : p.seq = n) (l : List UOp) :
    (l.map fun x => if x.seq = n then p else x).filter (fun x => decide (x.seq ≠ n)) = l.filter fun x => decide (x.seq ≠ n) := by
  induction l with
  | nil => rfl
  | cons x l ih =>
    by_cases hx : x.seq = n
    · rw [List.map_cons, if_pos hx, List.filter_cons_of_neg (by simp [hp]), List.filter_cons_of_neg (by simp [hx]), ih]
    · rw [List.map_cons, if_neg hx, List.filter_cons_of_pos (by simp [hx]), List.filter_cons_of_pos (by simp [hx]), ih]

/-- An F instruction that starts at its issue has its effect on a state that is as before but for its tile, where it stands started
last in the queue. -/
theorem issueF_started (hs : s.startsAtIssue h .sfu (encF op h f)) (ho : op < 64)
    (hsw : op = 9 → ∀ p ∈ (s.tile h.tile).ops, p.unit ≠ .sfu) : ∃ (T : State) (o : UOp),
      issueF op h f s = .next (if op = 9 then (T.runF h.tile o).completeOp h.tile o else T.runF h.tile o)
      ∧ o.word = BitVec.ofNat 64 (encF op h f) ∧ o.word.toNat = encF op h f ∧ o.ctx = h.ctx
      ∧ o.mask = laneMask ((s.ctx h.tile h.ctx).rdP h.pred.toNat) h.pneg ∧ o.seq = (s.tile h.tile).seq
      ∧ { T with tiles := s.tiles } = s ∧ (∀ u, u ≠ h.tile → T.tile u = s.tile u) ∧ (T.tile h.tile).StartedFrom (s.tile h.tile) h.ctx o
      ∧ (T.tile h.tile).ops.filter (fun p => decide (p.seq ≠ o.seq)) = (s.tile h.tile).ops.filter fun p => decide (p.seq ≠ o.seq) := by
  have hw := encF_lt h f ho
  have hword : (s.issuedF h op f).word.toNat = encF op h f := State.issuedOp_word hw
  have hop : wOp (s.issuedF h op f).word.toNat = op := (congrArg wOp hword).trans (wOp_encF h f ho)
  obtain ⟨hst, hcov⟩ := State.queued_startable (va := 0) (vb := 0) hs (by decide) hw
  obtain ⟨hframe, hother, hT⟩ := s.startedAt_spec h .sfu (encF op h f) 0 0
  refine ⟨s.startedAt h (s.issuedF h op f), s.issuedF h op f, ?_, rfl, hword, rfl, rfl, rfl, hframe, hother, hT, ?_⟩
  · have hrun := State.startF_runs (o := s.issuedF h op f) hst (State.queued_swapReady rfl fun h9 => hsw (hop.symm.trans h9)) hcov
    rw [hop] at hrun
    exact (issueF_issues hs).trans (congrArg Host.Outcome.next hrun)
  · obtain ⟨p, hp, -, hops⟩ := s.ops_startedAt h (s.issuedF h op f) rfl
    rw [hops, filter_seq_replaced hp, List.filter_append]
    exact (congrArg _ (by simp [State.issuedF, State.issuedOp])).trans (List.append_nil _)

end

/-! ## Instructions that write elements -/

/-- The function of each OP that works element by element in FP32 (Table 6-4). -/
def sfuFunction (base2 lvl2 : Bool) : Nat → Option (Nat → Nat)
  | 0 => some (sfuExp base2 lvl2)
  | 1 => some (sfuLog base2 lvl2)
  | 2 => some (sfuRcp lvl2)
  | 3 => some (sfuRsq lvl2)
  | _ => none

section
variable {s T : State} {h : Head} {f : FF} {op : Nat} {o : UOp} {g : Nat → Nat} {i : Instr}

theorem sfuFunction_op {base2 lvl2 : Bool} (hg : sfuFunction base2 lvl2 op = some g) : op < 4 := by
  unfold sfuFunction at hg
  split at hg <;> simp at hg ⊢

theorem State.runF_function (hw : o.word.toNat = encF op h f)
    (hg : sfuFunction (bit f.var.toNat 0) (NumCfg.ofReg (T.reg .NUMCFG 0)).lvl2 op = some g) :
    T.runF h.tile o = T.setCtx h.tile o.ctx ((T.ctx h.tile o.ctx).setElems 2 f.vd.toNat o.mask fun k =>
      g ((T.ctx h.tile o.ctx).rdElem 2 f.va.toNat k)) := by
  have ho : op < 64 := (sfuFunction_op hg).trans (by decide)
  rw [← Ctx.wrElems_map]
  unfold State.runF
  simp only [hw, wOp_encF h f ho, encF_vd h f ho, encF_va h f ho, encF_var h f ho]
  unfold sfuFunction at hg
  split at hg <;> cases hg <;> rfl

theorem State.runF_cblook (hw : o.word.toNat = encF 10 h f) :
    T.runF h.tile o = T.setCtx h.tile o.ctx ((T.ctx h.tile o.ctx).setElems 2 f.vd.toNat o.mask fun k =>
      ((T.tile h.tile).entry (T.tile h.tile).bank (cbIndex ((T.ctx h.tile o.ctx).rdVec f.va.toNat) f.var.toNat k)).toNat) := by
  unfold State.runF
  simp only [hw, wOp_encF, encF_vd, encF_va, encF_var, Nat.reduceLT]
  rfl

/-- An F instruction whose effect is to give the elements of a register values. -/
theorem State.writesV_runF {v : Nat → Nat} (he : exec i s = issueF op h f s) (ho : op < 64) (h9 : op ≠ 9)
    (hr : ∀ (T : State) (o : UOp), o.word.toNat = encF op h f → o.ctx = h.ctx → T.ctx h.tile h.ctx = (s.ctx h.tile h.ctx).advance →
      T.regs = s.regs → (T.tile h.tile).codebook = (s.tile h.tile).codebook → (T.tile h.tile).bank = (s.tile h.tile).bank →
      T.runF h.tile o = T.setCtx h.tile h.ctx ((s.ctx h.tile h.ctx).advance.setElems 2 f.vd.toNat o.mask v)) :
    s.writesV h .sfu (encF op h f) i 2 f.vd.toNat v := by
  intro hs
  obtain ⟨T, o, ht, hword, hw, hctx, hm, -, hframe, hother, hT, -⟩ := issueF_started hs ho fun e => absurd e h9
  have hregs : T.regs = s.regs := (congrArg State.regs hframe :)
  rw [if_neg h9, hr T o hw hctx hT.here hregs hT.codebook hT.bank, hm] at ht
  exact ⟨_, he.trans ht, State.writesV_close hword hw hctx hframe hother hT (by simp) fun k hk => by
    rw [List.getD_eq_getElem _ _ (by simpa using hk)]
    simp⟩

theorem State.writesV_function (he : exec i s = issueF op h f s)
    (hg : sfuFunction (decide (f.var.toNat % 2 = 1)) (NumCfg.ofReg (s.reg .NUMCFG 0)).lvl2 op = some g) :
    s.writesV h .sfu (encF op h f) i 2 f.vd.toNat fun k => g ((s.ctx h.tile h.ctx).rdElem 2 f.va.toNat k) := by
  have hlt := sfuFunction_op hg
  refine State.writesV_runF he (by omega) (by omega) fun T o hw hc hx hregs _ _ => ?_
  rw [← bit_low, ← State.reg_congr hregs] at hg
  rw [State.runF_function hw hg, hc, hx]
  rfl

end

/-! ## Special operands (R176, Table 6-4) -/

section
variable {v : Nat} (base2 lv : Bool)

theorem sfu_nan (hv : (fp32.decode v).isNan = true) :
    sfuExp base2 lv v = nan32 ∧ sfuLog base2 lv v = nan32 ∧ sfuRcp lv v = nan32 ∧ sfuRsq lv v = nan32 := by
  have hd : fp32.decode v = .nan := by
    cases hd : fp32.decode v with
    | nan => rfl
    | inf n => rw [hd] at hv; cases hv
    | fin n m e => rw [hd] at hv; cases hv
  unfold sfuExp sfuLog sfuRcp sfuRsq
  rw [hd]
  exact ⟨rfl, rfl, rfl, rfl⟩

theorem sfuExp_special : sfuExp base2 lv 0 = 0x3F800000 ∧ sfuExp base2 lv 0x7F800000 = 0x7F800000 ∧ sfuExp base2 lv 0xFF800000 = 0 :=
  ⟨rfl, rfl, rfl⟩

theorem sfuLog_special : sfuLog base2 lv 0 = 0xFF800000 ∧ sfuLog base2 lv 0x3F800000 = 0
    ∧ sfuLog base2 lv 0x7F800000 = 0x7F800000 ∧ sfuLog base2 lv 0xBF800000 = nan32 :=
  ⟨rfl, rfl, rfl, rfl⟩

theorem sfuRcp_special : sfuRcp lv 0 = 0x7F800000 ∧ sfuRcp lv 0x80000000 = 0xFF800000 ∧ sfuRcp lv 0xFF800000 = 0x80000000 :=
  ⟨rfl, rfl, rfl⟩

theorem sfuRsq_special : sfuRsq lv 0 = 0x7F800000 ∧ sfuRsq lv 0x7F800000 = 0 ∧ sfuRsq lv 0xBF800000 = nan32 :=
  ⟨rfl, rfl, rfl⟩

end

/-- Settles O19: each instruction by the function its OP names on every element; the special operands by the function's first cases. -/
theorem specialFunctions : Obligations.SpecialFunctions := by
  unfold Obligations.SpecialFunctions
  intro h f s
  refine ⟨State.writesV_function rfl rfl, State.writesV_function rfl rfl, State.writesV_function rfl rfl, State.writesV_function rfl rfl,
    fun v base2 lv hv => sfu_nan base2 lv hv, fun base2 lv => ?_⟩
  obtain ⟨exp0, expInf, expNegInf⟩ := sfuExp_special base2 lv
  obtain ⟨log0, log1, logInf, logNeg⟩ := sfuLog_special base2 lv
  obtain ⟨rcp0, rcpNeg0, rcpNegInf⟩ := sfuRcp_special lv
  obtain ⟨rsq0, rsqInf, rsqNeg⟩ := sfuRsq_special lv
  exact ⟨exp0, expInf, expNegInf, log0, log1, logInf, logNeg, rcp0, rcpNeg0, rcpNegInf, rsq0, rsqInf, rsqNeg⟩

end Sys2Proof.Machine

/-! The codebook (R179 to R183). -/

namespace Sys2Proof.Machine

/-! ## Entries -/

/-- An entry as cbload stores it: a NaN in canonical form (R180). -/
def storedEntry (v : Nat) : Lane := BitVec.ofNat 32 (if (fp32.decode v).isNan then nan32 else v)

theorem Tile.entry_setEntry (t : Tile) (b i c j : Nat) (u : Lane) :
    (t.setEntry b i u).entry c j = if 256 * c + j = 256 * b + i then u else t.entry c j := by
  simp [Tile.entry, Tile.setEntry]

/-- A load of lanes changes codebook entries only. -/
theorem Tile.cbload_keeps (t : Tile) (vs : List Nat) (mask : Word) (q : Nat) : { t.cbload vs mask q with codebook := t.codebook } = t :=
  foldl_prop (P := fun u : Tile => { u with codebook := t.codebook } = t) (fun u e hu => by
    split <;> exact hu) rfl

/-- The lanes that take part stand in their quarter of the shadow bank; every other entry is as it was (R180). -/
theorem Tile.entry_cbload (t : Tile) (mask : Word) (v : Nat → Nat) {q c j : Nat} (hq : q < 4) (hj : j < 256) :
    (t.cbload ((List.range 64).map v) mask q).entry c j
      = if c = 1 - t.bank ∧ j / 64 = q ∧ takesPart 2 mask (j % 64) = true then storedEntry (v (j % 64)) else t.entry c j := by
  have hfold : ∀ n, n ≤ 64 → ((List.range n).foldl (fun u k =>
      if takesPart 2 mask k then u.setEntry (1 - t.bank) (64 * q + k) (storedEntry (v k)) else u) t).entry c j
      = if c = 1 - t.bank ∧ (j / 64 = q ∧ j % 64 < n) ∧ takesPart 2 mask (j % 64) = true then storedEntry (v (j % 64))
        else t.entry c j := by
    intro n hn
    induction n with
    | zero => rw [if_neg (by omega)]; rfl
    | succ n ih =>
      rw [List.range_succ, List.foldl_append, List.foldl_cons, List.foldl_nil]
      specialize ih (by omega)
      by_cases hat : 256 * c + j = 256 * (1 - t.bank) + (64 * q + n)
      · obtain ⟨rfl, hdiv, hmod⟩ : c = 1 - t.bank ∧ j / 64 = q ∧ j % 64 = n := by omega
        by_cases ht : takesPart 2 mask n = true
        · rw [if_pos ht, Tile.entry_setEntry, if_pos hat, hmod, if_pos ⟨rfl, ⟨hdiv, Nat.lt_succ_self n⟩, ht⟩]
        · rw [if_neg ht, ih, hmod, if_neg fun h => ht h.2.2, if_neg fun h => ht h.2.2]
      · have hsame : (c = 1 - t.bank ∧ (j / 64 = q ∧ j % 64 < n + 1) ∧ takesPart 2 mask (j % 64) = true)
            ↔ (c = 1 - t.bank ∧ (j / 64 = q ∧ j % 64 < n) ∧ takesPart 2 mask (j % 64) = true) := by
          refine and_congr_right fun hc => and_congr_left' ?_
          subst hc
          omega
        simp only [hsame, ← ih]
        split
        · rw [Tile.entry_setEntry, if_neg hat]
        · rfl
  have hlt : j % 64 < 64 := Nat.mod_lt _ (by decide)
  unfold Tile.cbload
  rw [zipIdx_map_range, List.foldl_map]
  exact (hfold 64 le_rfl).trans (if_congr (by rw [and_iff_left hlt]) rfl rfl)

/-! ## cbload -/

section
variable {s T : State} {h : Head} {f : FF} {o : UOp}

theorem State.runF_cbload (hw : o.word.toNat = encF 8 h f) : T.runF h.tile o = T.setTile h.tile
    ((T.tile h.tile).cbload ((T.ctx h.tile o.ctx).elems 2 f.va.toNat) o.mask (f.var.toNat % 4)) := by
  unfold State.runF
  simp only [hw, wOp_encF, encF_va, encF_var, Nat.reduceLT]
  rw [show bits f.var.toNat 1 0 = f.var.toNat % 4 from bits_low _ 1]

/-- A tile set in a started state, whose contexts and bytes are those of that state. -/
theorem State.setTile_started {y : Tile} (hframe : { T with tiles := s.tiles } = s) (hother : ∀ u, u ≠ h.tile → T.tile u = s.tile u)
    (hT : (T.tile h.tile).StartedFrom (s.tile h.tile) h.ctx o) (hctx : y.ctx h.ctx = (T.tile h.tile).ctx h.ctx)
    (hstore : y.store = (T.tile h.tile).store) (hfill : y.fill = (T.tile h.tile).fill) : let t := T.setTile h.tile y
    t.keepsS s h ∧ t.keepsPV s h ∧ t.wentOn s h ∧ { t with tiles := s.tiles } = s ∧ (∀ u, u ≠ h.tile → t.tile u = s.tile u)
      ∧ ∀ b, (t.tile h.tile).rdByte b = (s.tile h.tile).rdByte b := by
  have htile : ∀ u, (T.setTile h.tile y).tile u = if u = h.tile then y else T.tile u := fun u => State.tile_setTile T h.tile u y
  have hx : (T.setTile h.tile y).ctx h.tile h.ctx = (s.ctx h.tile h.ctx).advance := by
    unfold State.ctx
    rw [htile, if_pos rfl, hctx]
    exact hT.here
  obtain ⟨hS, hPV, hon⟩ := State.keepsS_of_ctx hx
  refine ⟨hS, hPV, hon, hframe, fun u hu => by rw [htile, if_neg hu, hother u hu], fun b => ?_⟩
  rw [htile, if_pos rfl]
  unfold Tile.rdByte
  rw [hstore, hfill, hT.store, hT.fill]

theorem cbload_spec (hs : s.startsAtIssue h .sfu (encF 8 h f)) : ∃ t, exec (.cbload h f) s = .next t
    ∧ (t.keepsS s h ∧ t.keepsPV s h ∧ t.wentOn s h ∧ { t with tiles := s.tiles } = s ∧ (∀ u, u ≠ h.tile → t.tile u = s.tile u)
      ∧ ∀ b, (t.tile h.tile).rdByte b = (s.tile h.tile).rdByte b)
    ∧ (t.tile h.tile).bank = (s.tile h.tile).bank ∧ ∀ c j, j < 256 → (t.tile h.tile).entry c j
      = if c = 1 - (s.tile h.tile).bank ∧ j / 64 = f.var.toNat % 4
          ∧ takesPart 2 (laneMask ((s.ctx h.tile h.ctx).rdP h.pred.toNat) h.pneg) (j % 64) = true
        then storedEntry ((s.ctx h.tile h.ctx).rdElem 2 f.va.toNat (j % 64)) else (s.tile h.tile).entry c j := by
  obtain ⟨T, o, ht, -, hw, hctx, hm, -, hframe, hother, hT, -⟩ := issueF_started hs (by decide) fun e => absurd e (by decide)
  have hx : T.ctx h.tile h.ctx = (s.ctx h.tile h.ctx).advance := hT.here
  rw [if_neg (by decide), State.runF_cbload hw, hctx, hm, hx] at ht
  generalize hy : (T.tile h.tile).cbload ((s.ctx h.tile h.ctx).advance.elems 2 f.va.toNat)
    (laneMask ((s.ctx h.tile h.ctx).rdP h.pred.toNat) h.pneg) (f.var.toNat % 4) = y at ht
  have hkeeps : { y with codebook := (T.tile h.tile).codebook } = T.tile h.tile := hy ▸ Tile.cbload_keeps ..
  have hyctx : y.ctx h.ctx = (T.tile h.tile).ctx h.ctx := by
    cases h.ctx
    · exact (congrArg Tile.ctxF hkeeps :)
    · exact (congrArg Tile.ctxL hkeeps :)
  refine ⟨_, ht, State.setTile_started hframe hother hT hyctx (congrArg Tile.store hkeeps :) (congrArg Tile.fill hkeeps :), ?_,
    fun c j hj => ?_⟩
  · rw [State.tile_setTile, if_pos rfl, ← hT.bank]
    exact (congrArg Tile.bank hkeeps :)
  · rw [State.tile_setTile, if_pos rfl, ← hy]
    refine (Tile.entry_cbload _ _ ((s.ctx h.tile h.ctx).rdElem 2 f.va.toNat) (Nat.mod_lt _ (by decide)) hj).trans ?_
    rw [hT.bank]
    refine if_congr Iff.rfl rfl ?_
    unfold Tile.entry
    rw [hT.codebook]

/-! ## cbswap -/

/-- A context that may issue holds no fault. -/
theorem State.goes_unheld {w : Nat} {u : Uses} {m : Bool} (hg : s.goes h w u m = true) : (s.ctx h.tile h.ctx).held = none := by
  obtain ⟨-, hready, -⟩ := State.goes_iff.1 hg
  unfold State.ready at hready
  simp only [Bool.and_eq_true, Option.isNone_iff_eq_none] at hready
  exact hready.1.2

theorem State.runF_cbswap (hw : o.word.toNat = encF 9 h f) :
    T.runF h.tile o = T.setTile h.tile { T.tile h.tile with bank := 1 - (T.tile h.tile).bank } := by
  unfold State.runF
  simp only [hw, wOp_encF, Nat.reduceLT]

/-- A completion in a context that holds no fault: the tile without the instruction, and arrives that no longer wait are sent. -/
theorem State.tile_completed_unheld {v : Nat} (hh : (s.ctx v o.ctx).held = none) :
    ((s.setTile v ((s.tile v).completed o)).settleFlush v o.ctx).tile v
      = ((s.tile v).completed o).setCtx o.ctx { s.ctx v o.ctx with
          arrives := (s.setTile v ((s.tile v).completed o)).waitingArrives v o.ctx } := by
  have hx : (s.setTile v ((s.tile v).completed o)).ctx v o.ctx = s.ctx v o.ctx := by
    obtain ⟨-, -, hc⟩ := (s.tile v).completed_parts o
    unfold State.ctx
    rw [State.tile_setTile, if_pos rfl, hc]
  unfold State.settleFlush
  rw [State.settle_free (by rw [hx, hh]), State.tile_flushArrives, if_pos rfl, hx, State.tile_setTile, if_pos rfl]

theorem Tile.setCtx_codebook (y : Tile) (c : Ctxt) (x : Ctx) : (y.setCtx c x).bank = y.bank ∧ (y.setCtx c x).codebook = y.codebook := by
  cases c <;> exact ⟨rfl, rfl⟩

/-- Such a completion leaves the context, but for its arrives, and the codebook. -/
theorem State.completed_unheld_keeps {v : Nat} (hh : (s.ctx v o.ctx).held = none) :
    let t := (s.setTile v ((s.tile v).completed o)).settleFlush v o.ctx
    (∃ a, t.ctx v o.ctx = { s.ctx v o.ctx with arrives := a }) ∧ (t.tile v).bank = (s.tile v).bank
      ∧ (t.tile v).codebook = (s.tile v).codebook := by
  intro t
  have ht : t.tile v = _ := State.tile_completed_unheld hh
  have hkeeps := (s.tile v).completed_keeps o
  obtain ⟨hbank, hcodebook⟩ := Tile.setCtx_codebook ((s.tile v).completed o) o.ctx { s.ctx v o.ctx with
    arrives := (s.setTile v ((s.tile v).completed o)).waitingArrives v o.ctx }
  refine ⟨⟨(s.setTile v ((s.tile v).completed o)).waitingArrives v o.ctx, ?_⟩, ?_, ?_⟩
  · unfold State.ctx
    rw [ht, Tile.ctx_setCtx, if_pos rfl]
    rfl
  · rw [ht, hbank]
    exact (congrArg Tile.bank hkeeps :)
  · rw [ht, hcodebook]
    exact (congrArg Tile.codebook hkeeps :)

/-- Only its tokens decide whether a tile's signal overflows. -/
theorem Tile.overflows_congr {y z : Tile} {w : Nat} (hyz : ∀ k, y.token k = z.token k) : y.overflows w = z.overflows w := by
  unfold Tile.overflows
  split
  · rw [hyz]
  · rfl

/-- A tile set before an instruction completes in a context that holds no fault. -/
theorem State.completed_setTile_unheld {v : Nat} {y : Tile} (hctx : y.ctx o.ctx = s.ctx v o.ctx) (hh : (s.ctx v o.ctx).held = none) :
    let t := ((s.setTile v y).setTile v (y.completed o)).settleFlush v o.ctx
    (∃ a, t.ctx v o.ctx = { s.ctx v o.ctx with arrives := a }) ∧ (t.tile v).bank = y.bank ∧ (t.tile v).codebook = y.codebook
      ∧ (t.tile v).ops = y.ops.filter (fun p => decide (p.seq ≠ o.seq)) ∧ (∀ b, (t.tile v).rdByte b = y.rdByte b)
      ∧ (∀ u, u ≠ v → t.tile u = s.tile u) ∧ t.regs = s.regs ∧ t.mem = s.mem ∧ t.counters = s.counters
      ∧ ((s.ctx v o.ctx).arrives = [] → { t with tiles := s.tiles } = s) := by
  have hy : (s.setTile v y).tile v = y := (State.tile_setTile ..).trans (if_pos rfl)
  have hx : (s.setTile v y).ctx v o.ctx = s.ctx v o.ctx := (congrArg (fun z : Tile => z.ctx o.ctx) hy).trans hctx
  obtain ⟨hops, -, hb, -, hother⟩ := (s.setTile v y).completed_spec v o
  obtain ⟨hc, hbank, hcodebook⟩ := State.completed_unheld_keeps ((congrArg Ctx.held hx).trans hh)
  have hframe := ((s.setTile v y).setTile v (y.completed o)).settleFlush_frame v o.ctx
  have halone := State.completed_alone (s := s.setTile v y) (v := v) (o := o)
  rw [hx] at hc halone
  rw [hy] at hops hb hc hbank hcodebook hother halone
  refine ⟨hc, hbank, hcodebook, hops, hb, fun u hu => (hother u hu).trans ?_, (congrArg State.regs hframe :),
    (congrArg State.mem hframe :), (congrArg State.counters hframe :), fun ha => ?_⟩
  · rw [State.tile_setTile, if_neg hu]
  · exact (congrArg (fun u : State => { u with tiles := s.tiles }) (halone ha) :)

/-- A context that has gone on and kept other arrives. -/
theorem State.keepsS_of_arrives {t : State} {a : List (Nat × BitVec 2 × Arrival)}
    (ht : t.ctx h.tile h.ctx = { (s.ctx h.tile h.ctx).advance with arrives := a }) : t.keepsS s h ∧ t.keepsPV s h ∧ t.wentOn s h := by
  unfold State.keepsS State.keepsPV State.wentOn
  rw [ht]
  exact ⟨fun _ => rfl, ⟨fun _ => rfl, fun _ _ => rfl, rfl, rfl, rfl, rfl, rfl, rfl, rfl⟩, rfl⟩

theorem cbswap_spec (hs : s.startsAtIssue h .sfu (encF 9 h f)) (hno : ∀ o ∈ (s.tile h.tile).ops, o.unit ≠ .sfu)
    (hov : ((s.tile h.tile).takeToken (encF 9 h f)).overflows (encF 9 h f) = false) : ∃ t, exec (.cbswap h f) s = .next t
    ∧ (t.keepsS s h ∧ t.keepsPV s h ∧ t.wentOn s h) ∧ (t.tile h.tile).bank = 1 - (s.tile h.tile).bank
    ∧ (t.tile h.tile).codebook = (s.tile h.tile).codebook
    ∧ (t.tile h.tile).ops = (s.tile h.tile).ops.filter (fun o => decide (o.seq ≠ (s.tile h.tile).seq))
    ∧ (t.regs = s.regs ∧ t.mem = s.mem ∧ t.counters = s.counters)
    ∧ (∀ u, u ≠ h.tile → t.tile u = s.tile u) ∧ (∀ b, (t.tile h.tile).rdByte b = (s.tile h.tile).rdByte b)
    ∧ ((s.ctx h.tile h.ctx).arrives = [] → { t with tiles := s.tiles } = s) := by
  obtain ⟨T, o, ht, hword, hw, hctx, -, hseq, hframe, hother, hT, hops⟩ := issueF_started hs (by decide) fun _ => hno
  have hx : T.ctx h.tile h.ctx = (s.ctx h.tile h.ctx).advance := hT.here
  generalize hy : ({ T.tile h.tile with bank := 1 - (T.tile h.tile).bank } : Tile) = y
  have hyctx : y.ctx o.ctx = T.ctx h.tile o.ctx := by
    rw [← hy]
    cases o.ctx <;> rfl
  have hgood : y.overflows o.word.toNat = false := by
    rw [hw, ← hov]
    refine Tile.overflows_congr fun k => ?_
    rw [Tile.token_takeToken, ← hw, ← hT.token k, ← hy]
    rfl
  rw [if_pos rfl, State.runF_cbswap hw, hy,
    State.completeOp_ok (.inr ((congrArg (Tile.overflows · o.word.toNat) ((State.tile_setTile ..).trans (if_pos rfl))).trans hgood)),
    State.tile_setTile, if_pos rfl, hctx] at ht
  have hend := State.completed_setTile_unheld hyctx (by rw [hctx, hx]; exact State.goes_unheld hs.1)
  rw [hctx, hx] at hend
  obtain ⟨⟨a, hc⟩, hbank, hcodebook, hops', hb, hother', hregs, hmem, hcounters, halone⟩ := hend
  subst hy
  refine ⟨_, ht, State.keepsS_of_arrives hc, hbank.trans (congrArg (1 - ·) hT.bank), hcodebook.trans hT.codebook, ?_,
    ⟨hregs.trans (congrArg State.regs hframe :), hmem.trans (congrArg State.mem hframe :),
      hcounters.trans (congrArg State.counters hframe :)⟩,
    fun u hu => (hother' u hu).trans (hother u hu), fun b => (hb b).trans ?_, fun ha => ?_⟩
  · exact hops'.trans (hops.trans (by rw [hseq]))
  · unfold Tile.rdByte
    rw [hT.store, hT.fill]
  · exact (congrArg (fun u : State => { u with tiles := s.tiles }) (halone ha)).trans hframe

end

/-! ## cblook -/

theorem cblook_writesV (s : State) (h : Head) (f : FF) : s.writesV h .sfu (encF 10 h f) (.cblook h f) 2 f.vd.toNat (fun k =>
    ((s.tile h.tile).entry (s.tile h.tile).bank (cbIndex ((s.ctx h.tile h.ctx).rdVec f.va.toNat) f.var.toNat k)).toNat) := by
  refine State.writesV_runF rfl (by decide) (by decide) fun T o hw hctx hx _ hcodebook hbank => ?_
  rw [State.runF_cblook hw, hctx, hx, hbank]
  unfold Tile.entry
  rw [hcodebook]
  rfl

/-- Settles O20: the load by its fold over the lanes, the swap by the completion of an instruction whose context holds no fault, the
look-up as an instruction that writes elements. -/
theorem codebook : Obligations.Codebook := by
  unfold Obligations.Codebook
  intro h f s
  refine ⟨fun hs => ?_, fun hs hno hov => ?_, ?_⟩
  · obtain ⟨t, ht, ⟨hS, hPV, hon, hframe, hother, hbytes⟩, hbank, hentry⟩ := cbload_spec hs
    exact ⟨t, ht, ⟨hS, hPV, hon, hframe, hother, hbytes⟩, hbank, fun c j _ hj => hentry c j hj⟩
  · obtain ⟨t, ht, ⟨hS, hPV, hon⟩, hbank, hcodebook, hops, ⟨hregs, hmem, hcounters⟩, hother, hbytes, halone⟩ := cbswap_spec hs hno hov
    refine ⟨t, ht, hS, hPV, hon, hbank, fun b i => ?_, hops, hregs, hmem, hcounters,
      fun ha => ⟨hS, hPV, hon, halone ha, hother, hbytes⟩⟩
    unfold Tile.entry
    rw [hcodebook]
  · have hlook := cblook_writesV s h f
    unfold cbIndex at hlook
    simpa only [bit_low, decide_eq_true_eq] using hlook

end Sys2Proof.Machine

/-! Copies at issue, and the order of their checks (R185, R187, R188, R394). -/

namespace Sys2Proof.Machine

/-! ## Issue -/

theorem encD_chan (op : Nat) (h : Head) (f : DF) : bits (encD op h f) 21 18 = f.chan.toNat := by
  have hp := h.pred.isLt
  have hn := b2n_le h.pneg
  have h1 := f.tw.isLt; have h2 := f.ts.isLt; have h3 := f.sa.isLt; have h4 := f.sb.isLt; have h5 := f.sc.isLt
  have h6 := f.chan.isLt; have h7 := f.hint.isLt; have h8 := f.size.isLt; have h9 := f.var.isLt
  unfold encD encHead bits
  omega

/-- The channel that a D instruction of context `h` names (R184). -/
def State.namedChan (s : State) (h : Head) (f : DF) : Nat := 16 * s.clusterOf h.tile + f.chan.toNat

/-- The address of a copy's descriptor, and its check with the offsets (R187, R188). -/
def State.descAddr (s : State) (h : Head) (f : DF) : Nat := ((s.ctx h.tile h.ctx).rdS f.sa.toNat).toNat
def State.copyFinds (s : State) (h : Head) (f : DF) : Except FaultAt Nat :=
  s.copyCheck h.tile (s.descAddr h f) ((s.ctx h.tile h.ctx).rdS f.sb.toNat).toNat ((s.ctx h.tile h.ctx).rdS f.sc.toNat).toNat

/-- A copy as it enters a queue. -/
def State.copyIssued (u : State) (h : Head) (f : DF) (pc : Addr48) (d : Nat) : Copy :=
  { id := u.nextId, desc := d, word := BitVec.ofNat 64 (encD 0 h f), tile := h.tile, ctx := h.ctx, seq := (u.tile h.tile).seq, pc := pc,
    started := false, consumed := false, pos := 0, out := 0, src := 0, crc := crcInit, lit := [], zeros := 0,
    litLeft := 0, status := 0, kept := [], moved := false, wait := 0, gateway := false, reading := false, buf := [] }

/-- The state with a copy last in the queue of channel `k`, and its context gone on (R185). -/
def State.copyEnters (u : State) (h : Head) (k : Nat) (c : Copy) : State :=
  let v := State.setTile { u with nextId := u.nextId + 1 } h.tile { u.tile h.tile with seq := (u.tile h.tile).seq + 1 }
  (v.setChan k { v.chan k with queue := (v.chan k).queue ++ [c] }).advance h.tile h.ctx

section
variable {s : State} {h : Head} {f : DF}

/-- What a copy does at its issue (R185, R187, R394). -/
theorem copyAct_eq : copyAct h (encD 0 h f) s =
    if 8 ≤ (s.chan (s.namedChan h f)).queue.length then
      .hold (s.setCtx h.tile h.ctx { s.ctx h.tile h.ctx with stall := .chanFull (BitVec.ofNat 64 (encD 0 h f)) })
    else if decide (sramAt h.sram h.tile = .uncorrectable) && (descCheck (s.descAddr h f)).isNone then .go 14 fun u => u.sramFail h.tile
    else match s.copyFinds h f with
      | .error e => .fault e
      | .ok d => .go 14 fun u =>
        let v := u.sramNote h.tile (sramAt h.sram h.tile)
        v.copyEnters h (s.namedChan h f) (v.copyIssued h f (s.ctx h.tile h.ctx).pc d) := by
  obtain ⟨ha, hb, hc, -, -⟩ := encD_fields 0 h f
  unfold copyAct
  rw [ha, hb, hc, encD_chan]
  rfl

section
variable (hg : s.goes h (encD 0 h f) (usesD (encD 0 h f)) false = true)
include hg

/-- A queue of eight copies stalls the context (R185). -/
theorem copy_stalls (hn : 8 ≤ (s.chan (s.namedChan h f)).queue.length) : exec (.copy h f) s
    = .next (s.setCtx h.tile h.ctx { s.ctx h.tile h.ctx with stall := .chanFull (BitVec.ofNat 64 (encD 0 h f)) }) := by
  show execCopy h f s = _
  unfold execCopy
  rw [issue_goes hg, copyAct_eq, if_pos hn, State.perform_hold]

variable (hn : (s.chan (s.namedChan h f)).queue.length < 8)
include hn

/-- A descriptor that the read does not deliver takes the tile out of use (R394). -/
theorem copy_undelivered (hd : descCheck (s.descAddr h f) = none) (hcov : s.covered h.tile 14 = true)
    (hm : sramAt h.sram h.tile = .uncorrectable) : exec (.copy h f) s = .next ((s.pay h.tile 14).sramFail h.tile) := by
  show execCopy h f s = _
  unfold execCopy
  rw [issue_goes hg, copyAct_eq, if_neg (Nat.not_le.2 hn), if_pos (by rw [hm, hd]; rfl), State.perform_go hcov]

/-- Once the descriptor is read, its check decides. -/
theorem copy_checked (hm : sramAt h.sram h.tile = .uncorrectable → descCheck (s.descAddr h f) ≠ none) : exec (.copy h f) s
    = .next (s.perform h.tile h.ctx (match s.copyFinds h f with
      | .error e => .fault e
      | .ok d => .go 14 fun u => (u.sramNote h.tile (sramAt h.sram h.tile)).copyEnters h (s.namedChan h f)
          ((u.sramNote h.tile (sramAt h.sram h.tile)).copyIssued h f (s.ctx h.tile h.ctx).pc d))) := by
  have hread : ¬ (decide (sramAt h.sram h.tile = .uncorrectable) && (descCheck (s.descAddr h f)).isNone) = true := by simpa using hm
  show execCopy h f s = _
  unfold execCopy
  rw [issue_goes hg, copyAct_eq, if_neg (Nat.not_le.2 hn), if_neg hread]

theorem copy_faults {e : FaultAt} (he : s.copyFinds h f = .error e)
    (hm : sramAt h.sram h.tile = .uncorrectable → descCheck (s.descAddr h f) ≠ none) :
    exec (.copy h f) s = .next (s.issueFault h.tile h.ctx e) := by
  rw [copy_checked hg hn hm, he, State.perform_fault]

theorem copy_enters {d : Nat} {y : Sram} (hd : s.copyFinds h f = .ok d) (hcov : s.covered h.tile 14 = true)
    (hm : sramAt h.sram h.tile = y) (hy : y ≠ .uncorrectable) : let u := (s.pay h.tile 14).sramNote h.tile y
    exec (.copy h f) s = .next (u.copyEnters h (s.namedChan h f) (u.copyIssued h f (s.ctx h.tile h.ctx).pc d)) := by
  rw [copy_checked hg hn (fun h => absurd (hm.symm.trans h) hy), hd, hm, State.perform_go hcov]

end

/-- A context that goes on in a tile whose count of issues has grown. -/
theorem State.tile_advance_seq {w : State} {y : Tile} {t n : Nat} {c : Ctxt} (hw : w.tile t = { y with seq := n }) :
    (w.advance t c).tile t = { y.setCtx c (y.ctx c).advance with seq := n } := by
  unfold State.advance State.setCtx State.ctx
  rw [State.tile_setTile, if_pos rfl, hw]
  cases c <;> rfl

/-- What a copy that enters its channel's queue leaves (R185). -/
theorem State.copyEnters_spec (u : State) (h : Head) (k : Nat) (c : Copy) : let t := u.copyEnters h k c
    { t with chans := u.chans, tiles := u.tiles, nextId := u.nextId } = u ∧ t.nextId = u.nextId + 1
      ∧ t.chan k = { u.chan k with queue := (u.chan k).queue ++ [c] } ∧ (∀ j, j ≠ k → t.chan j = u.chan j)
      ∧ t.tile h.tile = { (u.tile h.tile).setCtx h.ctx (u.ctx h.tile h.ctx).advance with seq := (u.tile h.tile).seq + 1 }
      ∧ ∀ v, v ≠ h.tile → t.tile v = u.tile v := by
  intro t
  refine ⟨rfl, rfl, (State.chan_setChan ..).trans (if_pos rfl), fun j hj => (State.chan_setChan ..).trans (if_neg hj), ?_, fun v hv => ?_⟩
  · exact State.tile_advance_seq (n := (u.tile h.tile).seq + 1) ((State.tile_setTile ..).trans (if_pos rfl))
  · refine (State.tile_advance_other _ _ hv).trans ((State.tile_setTile ..).trans (if_neg hv))

/-- A copy that waited for a place issues as if it issued then (R185). -/
theorem copyQueueFullStall_issues (hx : (s.ctx h.tile h.ctx).stall = .chanFull (BitVec.ofNat 64 (encD 0 h f)))
    (hn : (s.chan (s.namedChan h f)).queue.length < 8) (hsram : h.sram = [])
    (hg : (s.setCtx h.tile h.ctx { s.ctx h.tile h.ctx with stall := .none }).goes h (encD 0 h f) (usesD (encD 0 h f)) false = true) :
    exec (.copyQueueFullStall h.tile h.ctx) s = exec (.copy h f) (s.setCtx h.tile h.ctx { s.ctx h.tile h.ctx with stall := .none }) := by
  obtain ⟨ht, hready, -⟩ := State.goes_iff.1 hg
  have hw : (BitVec.ofNat 64 (encD 0 h f)).toNat = encD 0 h f := (BitVec.toNat_ofNat ..).trans (Nat.mod_eq_of_lt (encD_lt 0 h f (by decide)))
  have hhead : headOf h.tile h.ctx (encD 0 h f) = h := by rw [headOf_encD, ← hsram]
  have hexec : exec (.copyQueueFullStall h.tile h.ctx) s = .next (s.resume h.tile h.ctx
      (copyAct (headOf h.tile h.ctx (BitVec.ofNat 64 (encD 0 h f)).toNat) (BitVec.ofNat 64 (encD 0 h f)).toNat)) := by
    refine (if_pos ht).trans (congrArg Host.Outcome.next ?_)
    rw [hx]
    refine if_neg (Nat.not_le.2 ?_)
    rw [hw, encD_chan]
    exact hn
  rw [hexec, hw, hhead, State.resume_ready hready]
  exact (issue_goes hg).symm

end

/-! ## The order of the checks (R187, R188, R366; the order of the descriptor's address is log 19) -/

theorem descCheck_beyond {a : Nat} (h : 2 ^ 21 ≤ a) : descCheck a = some (cOPERAND, unstated) := if_pos h

theorem descCheck_unaligned {a : Nat} (h : a < 2 ^ 21) (ha : a % 64 ≠ 0) : descCheck a = some (cALIGN, a) :=
  (if_neg (Nat.not_le.2 h)).trans (if_pos ha)

theorem descCheck_range {a : Nat} (h : a < 2 ^ 21) (ha : a % 64 = 0) (hr : tileStoreEnd ≤ a) : descCheck a = some (cLOCAL_RANGE, a) :=
  (if_neg (Nat.not_le.2 h)).trans ((if_neg (not_not.2 ha)).trans (if_pos hr))

theorem descCheck_good {a : Nat} (ha : a % 64 = 0) (hr : a < tileStoreEnd) : descCheck a = none :=
  (if_neg (Nat.not_le.2 (Nat.lt_trans hr (by decide)))).trans ((if_neg (not_not.2 ha)).trans (if_neg (Nat.not_le.2 hr)))

theorem addOffset_eq (v n : Nat) : addOffset v n = if v % 2 ^ formBits v + n < 2 ^ formBits v then some (v + n) else none := rfl

/-- A field takes its offset unless its form is reserved or the sum carries out (R187). -/
theorem offsetField_eq (v n : Nat) :
    offsetField v n = if formBits v ≠ 0 ∧ v % 2 ^ formBits v + n < 2 ^ formBits v then v + n else v := by
  unfold offsetField
  rw [addOffset_eq]
  by_cases h0 : formBits v = 0
  · rw [if_pos h0, if_neg (fun h => h.1 h0)]
  · by_cases hc : v % 2 ^ formBits v + n < 2 ^ formBits v
    · rw [if_neg h0, if_pos hc, if_pos ⟨h0, hc⟩]
      rfl
    · rw [if_neg h0, if_neg hc, if_neg (fun h => hc h.2)]
      rfl

theorem carriesOut_iff {v n : Nat} : carriesOut v n = true ↔ formBits v ≠ 0 ∧ addOffset v n = none := by
  unfold carriesOut
  rw [Bool.and_eq_true, decide_eq_true_iff, Option.isNone_iff_eq_none]

theorem localCheck_none_iff {a n : Nat} (hn : n ≠ 0) : localCheck a n = none ↔ a + n ≤ localEnd := by
  unfold localCheck
  rw [Option.map_eq_none_iff]
  refine ⟨fun h => Nat.le_of_not_lt fun hl => ?_, firstAtOrAbove_within⟩
  rw [firstAtOrAbove_beyond (Nat.pos_of_ne_zero hn) hl] at h
  cases h

section
variable {s : State} {tile va vb vc : Nat}

/-- The descriptor at `va` with its offsets added (R187). -/
def Tile.offsetDesc (y : Tile) (va vb vc : Nat) : Nat :=
  setBits (setBits (y.rdNat va 64) 63 0 (offsetField (dSrc (y.rdNat va 64)) vb)) 127 64 (offsetField (dDst (y.rdNat va 64)) vc)

/-- One of the two sums carries out of its form (R187). -/
def Tile.sumCarries (y : Tile) (va vb vc : Nat) : Prop :=
  (formBits (dSrc (y.rdNat va 64)) ≠ 0 ∧ addOffset (dSrc (y.rdNat va 64)) vb = none)
    ∨ (formBits (dDst (y.rdNat va 64)) ≠ 0 ∧ addOffset (dDst (y.rdNat va 64)) vc = none)

/-- The permissions that a copy's use of AUX0 takes (Table 7-3). -/
def auxPerms (e : Nat) : List Perm := if dOp e = 2 then [.write] else if dOp e = 4 then [.read, .write] else [.read]

/-- The ranges of a descriptor in the order of their checks (R188). -/
def State.rangeFaults (s : State) (e : Nat) : List (Option FaultAt) :=
  [s.rangeCheck (dSrc e) (srcBytes e) .read, s.rangeCheck (dDst e) (dstBytes e) .write]
    ++ (if auxUsed e then (auxPerms e).map fun p => s.rangeCheck (dAux e) (auxBytes e) p else [])
    ++ (if dCrcWr e then [localCheck (dCrcAddr e) 4] else [])

/-- Every range of a descriptor is free of faults (R188). -/
def State.rangesFree (s : State) (e : Nat) : Prop :=
  s.rangeCheck (dSrc e) (srcBytes e) .read = none ∧ s.rangeCheck (dDst e) (dstBytes e) .write = none
    ∧ (auxUsed e = true → s.rangeCheck (dAux e) (auxBytes e) (if dOp e = 2 then .write else .read) = none
        ∧ (dOp e = 4 → s.rangeCheck (dAux e) (auxBytes e) .write = none))
    ∧ (dCrcWr e = true → dCrcAddr e + 4 ≤ localEnd)

theorem auxPerms_free {e : Nat} {g : Perm → Option FaultAt} : (∀ p ∈ auxPerms e, g p = none)
    ↔ g (if dOp e = 2 then .write else .read) = none ∧ (dOp e = 4 → g .write = none) := by
  unfold auxPerms
  by_cases h2 : dOp e = 2
  · simp [h2]
  · by_cases h4 : dOp e = 4
    · simp [h4]
    · simp [h2, h4]

theorem State.rangeFaults_none_iff {e : Nat} : (s.rangeFaults e).findSome? id = none ↔ s.rangesFree e := by
  unfold State.rangeFaults State.rangesFree
  rw [List.findSome?_eq_none_iff]
  simp only [id, List.forall_mem_append, List.forall_mem_cons, List.not_mem_nil, false_imp_iff, implies_true, and_true, and_assoc]
  have haux : (∀ o ∈ if auxUsed e = true then (auxPerms e).map fun p => s.rangeCheck (dAux e) (auxBytes e) p else [], o = none)
      ↔ (auxUsed e = true → ∀ p ∈ auxPerms e, s.rangeCheck (dAux e) (auxBytes e) p = none) := by
    cases auxUsed e <;> simp
  have hcrc : (∀ o ∈ if dCrcWr e = true then [localCheck (dCrcAddr e) 4] else [], o = none)
      ↔ (dCrcWr e = true → dCrcAddr e + 4 ≤ localEnd) := by
    cases dCrcWr e <;> simp [localCheck_none_iff]
  rw [haux, hcrc, auxPerms_free]

theorem State.copyCheck_address {f : FaultAt} (h : descCheck va = some f) : s.copyCheck tile va vb vc = .error f := by
  unfold State.copyCheck
  rw [h]

/-- The sums of a descriptor `e` that fail its check: one carries out, or its devices are too far (R187, R367). -/
def State.sumsFail (s : State) (tile va vb vc e : Nat) : Prop :=
  (carriesOut (dSrc ((s.tile tile).rdNat va 64)) vb || carriesOut (dDst ((s.tile tile).rdNat va 64)) vc || s.farCheck e) = true

theorem State.sumsFail_iff {e : Nat} :
    s.sumsFail tile va vb vc e ↔ (s.tile tile).sumCarries va vb vc ∨ s.farCheck e = true := by
  unfold State.sumsFail Tile.sumCarries
  rw [Bool.or_eq_true, Bool.or_eq_true, carriesOut_iff, carriesOut_iff]

/-- What the check of a descriptor at a good address finds: a field, the sums, a range, or nothing (R187, R188). -/
theorem State.copyCheck_cases {e : Nat} (ha : descCheck va = none) (he : (s.tile tile).offsetDesc va vb vc = e) :
    (∃ o, s.badField e = some o ∧ s.copyCheck tile va vb vc = .error (cOPERAND, o))
      ∨ s.badField e = none ∧ s.sumsFail tile va vb vc e ∧ s.copyCheck tile va vb vc = .error (cOPERAND, unstated)
      ∨ s.badField e = none ∧ ¬ s.sumsFail tile va vb vc e
        ∧ ((∃ f, (s.rangeFaults e).findSome? id = some f ∧ s.copyCheck tile va vb vc = .error f)
          ∨ (s.rangeFaults e).findSome? id = none ∧ s.copyCheck tile va vb vc = .ok e) := by
  unfold State.copyCheck State.sumsFail
  generalize s.badField = field
  generalize carriesOut = carries
  -- Split with the two functions unknown: their values at a descriptor are numbers of 512 bits, too long for the kernel to unfold.
  as_aux_lemma =>
    split
    · rename_i h
      rw [ha] at h
      cases h
    · extract_lets d0 d
      have hd : d = e := he
      clear_value d
      subst hd
      split
      · rename_i o ho
        exact .inl ⟨o, ho, rfl⟩
      · rename_i hb
        split
        · rename_i hc
          exact .inr (.inl ⟨hb, hc, rfl⟩)
        · rename_i hc
          refine .inr (.inr ⟨hb, hc, ?_⟩)
          split
          · rename_i f hf
            exact .inl ⟨f, hf, rfl⟩
          · rename_i hf
            exact .inr ⟨hf, rfl⟩

section
variable {e : Nat} (ha : descCheck va = none) (he : (s.tile tile).offsetDesc va vb vc = e)
include ha he

theorem State.copyCheck_field {o : Nat} (ho : s.badField e = some o) : s.copyCheck tile va vb vc = .error (cOPERAND, o) := by
  obtain ⟨o', ho', h⟩ | ⟨hb, -⟩ | ⟨hb, -⟩ := State.copyCheck_cases ha he
  · rw [h, Option.some.inj (ho.symm.trans ho')]
  · rw [hb] at ho; cases ho
  · rw [hb] at ho; cases ho

theorem State.copyCheck_sums (hb : s.badField e = none) (hs : s.sumsFail tile va vb vc e) :
    s.copyCheck tile va vb vc = .error (cOPERAND, unstated) := by
  obtain ⟨o, ho, -⟩ | ⟨-, -, h⟩ | ⟨-, hn, -⟩ := State.copyCheck_cases ha he
  · rw [hb] at ho; cases ho
  · exact h
  · exact absurd hs hn

theorem State.copyCheck_free (hb : s.badField e = none) (hs : ¬ s.sumsFail tile va vb vc e) (hr : s.rangesFree e) :
    s.copyCheck tile va vb vc = .ok e := by
  obtain ⟨o, ho, -⟩ | ⟨-, hs', -⟩ | ⟨-, -, ⟨f, hf, -⟩ | ⟨-, h⟩⟩ := State.copyCheck_cases ha he
  · rw [hb] at ho; cases ho
  · exact absurd hs' hs
  · rw [State.rangeFaults_none_iff.2 hr] at hf; cases hf
  · exact h

/-- Only a descriptor with every range free passes, as it stands after the offsets. -/
theorem State.copyCheck_passes {r : Nat} (h : s.copyCheck tile va vb vc = .ok r) : r = e ∧ s.rangesFree e := by
  obtain ⟨o, -, h'⟩ | ⟨-, -, h'⟩ | ⟨-, -, ⟨f, -, h'⟩ | ⟨hr, h'⟩⟩ := State.copyCheck_cases ha he <;> rw [h'] at h <;> cases h
  exact ⟨rfl, State.rangeFaults_none_iff.1 hr⟩

end

end

/-! ## The obligation -/

/-- Settles O25: a copy by its queue, its read and its check, and the check by what stops it first. -/
theorem copyIssue : Obligations.CopyIssue := by
  unfold Obligations.CopyIssue
  refine ⟨fun h f s => ⟨fun hg => ⟨fun d hn hd hcov hm => ?_, fun d hn hd hcov hm => ?_, fun hn hd hcov hm => copy_undelivered hg hn hd hcov hm,
    fun e hn he hm => copy_faults hg hn he hm, fun hn => copy_stalls hg hn⟩,
    fun hx hn hsram hg => copyQueueFullStall_issues hx hn hsram hg⟩, fun s tile va vb vc => ?_⟩
  · obtain ⟨hframe, hid, hk, hother, htile, htiles⟩ := (s.pay h.tile 14).copyEnters_spec h (s.namedChan h f)
      ((s.pay h.tile 14).copyIssued h f (s.ctx h.tile h.ctx).pc d)
    have hp : (s.pay h.tile 14).tile h.tile = { s.tile h.tile with credit := (s.tile h.tile).credit - s.chargeOf h.tile 14, want := 0 } :=
      (State.tile_setTile ..).trans (if_pos rfl)
    refine ⟨_, _, copy_enters hg hn hd hcov hm (by decide), congrArg (fun u : State => { u with tiles := s.tiles }) hframe, hid, hk, hother,
      rfl, rfl, rfl, rfl, s.seq_pay .., rfl, rfl, rfl, rfl, rfl, htile.trans ?_, fun u hu => (htiles u hu).trans (State.tile_pay_other _ _ hu)⟩
    rw [State.ctx_pay, hp]
    cases h.ctx <;> rfl
  · obtain ⟨c, hc, hdesc⟩ : ∃ c, c = ((s.pay h.tile 14).sramNote h.tile .corrected).copyIssued h f (s.ctx h.tile h.ctx).pc d ∧ c.desc = d :=
      ⟨_, rfl, rfl⟩
    obtain ⟨hframe, -, hk, -⟩ := ((s.pay h.tile 14).sramNote h.tile .corrected).copyEnters_spec h (s.namedChan h f) c
    obtain ⟨-, -, -, -, hchans⟩ := State.onlyRecords_parts ((s.pay h.tile 14).sramNote_onlyRecords h.tile .corrected)
    refine ⟨_, c, (copy_enters hg hn hd hcov hm (by decide)).trans (by rw [← hc]), hframe, hk.trans ?_, hdesc⟩
    unfold State.chan
    rw [hchans]
    rfl
  · refine ⟨fun hva => State.copyCheck_address (descCheck_beyond hva), fun hva hal => State.copyCheck_address (descCheck_unaligned hva hal),
      fun hva hal hr => State.copyCheck_address (descCheck_range hva hal hr), fun hal hva => ?_, offsetField_eq, addOffset_eq⟩
    intro e carries auxFree free
    have ha := descCheck_good hal hva
    have he : (s.tile tile).offsetDesc va vb vc = e := rfl
    have hsums : s.sumsFail tile va vb vc e ↔ carries ∨ s.farCheck e = true := State.sumsFail_iff
    clear_value e
    refine ⟨fun o => State.copyCheck_field ha he, fun hb hc => State.copyCheck_sums ha he hb (hsums.2 (.inl hc)),
      fun hb hf => State.copyCheck_sums ha he hb (hsums.2 (.inr hf)), fun hb hc hf hr => ?_, fun r => State.copyCheck_passes ha he,
      fun f hf hb hc hfar hr => ?_⟩
    · exact State.copyCheck_free ha he hb (fun h => (hsums.1 h).elim hc (by rw [hf]; exact Bool.false_ne_true)) hr
    · have hok := State.copyCheck_free ha he hb (fun h => (hsums.1 h).elim hc (by rw [hfar]; exact Bool.false_ne_true)) hr
      cases hf.symm.trans hok

end Sys2Proof.Machine

/-! Zero-run compression and its expansion (R198, R199), and the CRC-32C (R200). -/

namespace Sys2Proof.Machine

/-! ## Tokens (R198) -/

/-- Bytes `bs` are whole tokens, and stand for the words `ws`: runs of 1 to 128 zero words and of 1 to 128 literal words. -/
inductive Tokens : List Byte → List Nat → Prop where
  | nil : Tokens [] []
  | zeros {n : Nat} {bs : List Byte} {ws : List Nat} (h1 : 1 ≤ n) (h2 : n ≤ 128) (h : Tokens bs ws) :
      Tokens (BitVec.ofNat 8 (0x80 + (n - 1)) :: bs) (List.replicate n 0 ++ ws)
  | literal {l : List Nat} {bs : List Byte} {ws : List Nat} (h1 : 1 ≤ l.length) (h2 : l.length ≤ 128) (h : Tokens bs ws) :
      Tokens (BitVec.ofNat 8 (l.length - 1) :: (l.flatMap (leBytes 4) ++ bs)) (l ++ ws)

theorem Tokens.append {bs cs : List Byte} {ws vs : List Nat} (h : Tokens bs ws) (h' : Tokens cs vs) : Tokens (bs ++ cs) (ws ++ vs) := by
  induction h with
  | nil => exact h'
  | zeros h1 h2 _ ih =>
    rw [List.append_assoc]
    exact .zeros h1 h2 ih
  | literal h1 h2 _ ih =>
    rw [List.append_assoc, List.cons_append, List.append_assoc]
    exact .literal h1 h2 ih

/-- The tokens of a zero run stand for its words. -/
theorem tokens_zeroTokens {f n : Nat} (h : n < f) : Tokens (zeroTokens f n) (List.replicate n 0) := by
  induction f generalizing n with
  | zero => omega
  | succ f ih =>
    unfold zeroTokens
    by_cases h0 : n = 0
    · rw [if_pos h0, h0]
      exact .nil
    · rw [if_neg h0]
      by_cases hn : n ≤ 128
      · rw [if_pos hn]
        have := Tokens.zeros (Nat.one_le_iff_ne_zero.2 h0) hn .nil
        rwa [List.append_nil] at this
      · rw [if_neg hn, show n = 128 + (n - 128) by omega, List.replicate_add, Nat.add_sub_cancel_left]
        exact .zeros (n := 128) (by decide) (by decide) (ih (by omega))

/-- The tokens of a literal run stand for its words. -/
theorem tokens_litTokens {f : Nat} {l : List Nat} (h : l.length < f) : Tokens (litTokens f l) l := by
  induction f generalizing l with
  | zero => omega
  | succ f ih =>
    unfold litTokens
    cases l with
    | nil => exact .nil
    | cons w l =>
      rw [if_neg (by simp)]
      have hrest := ih (l := (w :: l).drop 128) (by simp only [List.length_drop, List.length_cons] at h ⊢; omega)
      have htake : 1 ≤ ((w :: l).take 128).length ∧ ((w :: l).take 128).length ≤ 128 := by
        simp only [List.length_take, List.length_cons]
        omega
      have := Tokens.literal htake.1 htake.2 hrest
      rwa [List.take_append_drop] at this

theorem tokens_flushLit (l : List Nat) : Tokens (flushLit l) l := tokens_litTokens (Nat.lt_succ_self _)

/-! ## Compression (R198) -/

/-- The compressor's state, of an open literal run, an open zero run and output, once it has taken in the words `ws`: the output's
tokens stand for the words before the open ones, and no literal run is open beside two zeros. -/
def zTaken (st : List Nat × Nat × List Byte) (ws : List Nat) : Prop :=
  ∃ vs, Tokens st.2.2 vs ∧ ws = vs ++ st.1 ++ List.replicate st.2.1 0 ∧ (2 ≤ st.2.1 → st.1 = [])

/-- A literal run that is flushed once it is full. -/
theorem zTaken_literal {l : List Nat} {out : List Byte} {vs ws : List Nat} (h : Tokens out vs) (hw : ws = vs ++ l) :
    zTaken (if l.length = 128 then ([], 0, out ++ flushLit l) else (l, 0, out)) ws := by
  split
  · exact ⟨vs ++ l, h.append (tokens_flushLit l), by simp [hw], fun _ => rfl⟩
  · exact ⟨vs, h, by simp [hw], fun h => absurd h (Nat.not_succ_le_zero _)⟩

theorem zTaken_zStep {st : List Nat × Nat × List Byte} {ws : List Nat} (h : zTaken st ws) (w : Nat) :
    zTaken (zStep st w) (ws ++ [w]) := by
  obtain ⟨l, z, out⟩ := st
  obtain ⟨vs, hout, hws, hz⟩ := h
  dsimp only at hout hws hz
  unfold zStep
  dsimp only
  by_cases hw : w = 0
  · rw [if_pos hw, hws, hw]
    by_cases h1 : z = 1
    · rw [if_pos h1, h1]
      exact ⟨vs ++ l, hout.append (tokens_flushLit l), by simp [List.replicate], fun _ => rfl⟩
    · rw [if_neg h1]
      exact ⟨vs, hout, by simp [List.replicate_succ'], fun (h : 2 ≤ z + 1) => hz (by omega)⟩
  · rw [if_neg hw]
    by_cases h0 : z = 0
    · rw [if_pos h0]
      exact zTaken_literal hout (by simp [hws, h0])
    · by_cases h1 : z = 1
      · rw [if_neg h0, if_pos h1]
        exact zTaken_literal hout (by simp [hws, h1])
      · rw [if_neg h0, if_neg h1]
        have hl : l = [] := hz (by omega)
        exact zTaken_literal (hout.append (tokens_zeroTokens (Nat.lt_succ_self z))) (by simp [hws, hl])

theorem zTaken_foldl (ws : List Nat) : zTaken (ws.foldl zStep ([], 0, [])) ws := by
  induction ws using List.reverseRecOn with
  | nil => exact ⟨[], .nil, rfl, fun _ => rfl⟩
  | append_singleton ws w ih =>
    rw [List.foldl_concat]
    exact zTaken_zStep ih w

/-- What is open at the end of the source is flushed, so the whole output stands for the source. -/
theorem tokens_zEnd {st : List Nat × Nat × List Byte} {ws : List Nat} (h : zTaken st ws) : Tokens (st.2.2 ++ zEnd st.1 st.2.1) ws := by
  obtain ⟨l, z, out⟩ := st
  obtain ⟨vs, hout, hws, hz⟩ := h
  dsimp only at hout hws hz ⊢
  rw [hws, List.append_assoc]
  refine hout.append ?_
  unfold zEnd
  by_cases h0 : z = 0
  · rw [if_pos h0, h0, List.replicate_zero, List.append_nil]
    exact tokens_flushLit l
  · by_cases h1 : z = 1
    · rw [if_neg h0, if_pos h1, h1]
      exact tokens_flushLit (l ++ [0])
    · rw [if_neg h0, if_neg h1, hz (by omega)]
      exact tokens_zeroTokens (Nat.lt_succ_self z)

/-! ## Expansion (R199) -/

theorem flatMap_leBytes_length (n : Nat) (ws : List Nat) : (ws.flatMap (leBytes n)).length = n * ws.length := by
  induction ws with
  | nil => rfl
  | cons w ws ih =>
    rw [List.flatMap_cons, List.length_append, leBytes_length, ih, List.length_cons]
    ring

theorem flatMap_leBytes_zeros (n : Nat) : (List.replicate n 0).flatMap (leBytes 4) = List.replicate (4 * n) 0 := by
  induction n with
  | zero => rfl
  | succ n ih =>
    rw [List.replicate_succ, List.flatMap_cons, ih, show 4 * (n + 1) = 4 + 4 * n by ring, List.replicate_add]
    rfl

section
variable {f need : Nat} {src : List Byte} {x : Expand}

theorem expand_done (h : need ≤ x.out.length) : expand f need src x = x := by
  cases f with
  | zero => rfl
  | succ f => exact if_pos h

section
variable (h : x.out.length < need)
include h

theorem expand_zeros {k : Nat} (hz : 0 < x.zeros) (hk : min x.zeros (need - x.out.length) = k) : expand (f + 1) need src x
    = expand f need src { x with out := x.out ++ List.replicate k 0, zeros := x.zeros - k } := by
  subst hk
  exact (if_neg (Nat.not_le.2 h)).trans (if_pos hz)

theorem expand_literal {k : Nat} (hz : x.zeros = 0) (hl : 0 < x.lit)
    (hk : min (min x.lit (need - x.out.length)) (src.length / 4 * 4) = k) (h0 : k ≠ 0) : expand (f + 1) need src x
      = expand f need (src.drop k) { x with out := x.out ++ src.take k, lit := x.lit - k, used := x.used + k } := by
  subst hk
  exact (if_neg (Nat.not_le.2 h)).trans ((if_neg (by omega)).trans ((if_pos hl).trans (if_neg h0)))

theorem expand_token {b : Byte} (hz : x.zeros = 0) (hl : x.lit = 0) : expand (f + 1) need (b :: src) x
    = if b.toNat < 128 then expand f need src { x with lit := 4 * (b.toNat % 128 + 1), used := x.used + 1 }
      else expand f need src { x with zeros := 4 * (b.toNat % 128 + 1), used := x.used + 1 } :=
  (if_neg (Nat.not_le.2 h)).trans ((if_neg (by omega)).trans (if_neg (by omega)))

end

variable {out : List Byte} {used n : Nat}

/-- A zero token and its run, where the run is needed whole. -/
theorem expand_zeroToken (h1 : 1 ≤ n) (h2 : n ≤ 128) (hn : out.length + 4 * n ≤ need) :
    expand (f + 2) need (BitVec.ofNat 8 (0x80 + (n - 1)) :: src) ⟨out, 0, 0, used⟩
      = expand f need src ⟨out ++ List.replicate (4 * n) 0, 0, 0, used + 1⟩ := by
  have hb : (BitVec.ofNat 8 (0x80 + (n - 1))).toNat = 127 + n := by rw [BitVec.toNat_ofNat]; omega
  rw [expand_token (show out.length < need by omega) rfl rfl, hb, if_neg (by omega), show 4 * ((127 + n) % 128 + 1) = 4 * n by omega,
    expand_zeros (k := 4 * n) (show out.length < need by omega) (show 0 < 4 * n by omega) (by dsimp only; omega)]
  dsimp only
  rw [Nat.sub_self]

/-- A literal token and its run, where the run is needed whole. -/
theorem expand_literalToken {bs : List Byte} (hlen : bs.length = 4 * n) (h1 : 1 ≤ n) (h2 : n ≤ 128) (hn : out.length + 4 * n ≤ need) :
    expand (f + 2) need (BitVec.ofNat 8 (n - 1) :: (bs ++ src)) ⟨out, 0, 0, used⟩
      = expand f need src ⟨out ++ bs, 0, 0, used + 1 + 4 * n⟩ := by
  have hb : (BitVec.ofNat 8 (n - 1)).toNat = n - 1 := by rw [BitVec.toNat_ofNat]; omega
  rw [expand_token (show out.length < need by omega) rfl rfl, hb, if_pos (by omega), show 4 * ((n - 1) % 128 + 1) = 4 * n by omega,
    expand_literal (k := 4 * n) (show out.length < need by omega) rfl (show 0 < 4 * n by omega)
      (by rw [List.length_append, hlen]; dsimp only; omega) (by omega),
    List.drop_left' hlen, List.take_left' hlen]
  dsimp only
  rw [Nat.sub_self]

end

/-- Expanding whole tokens between two tokens gives the bytes of their words, with at most two steps for each byte. -/
theorem expand_tokens {bs : List Byte} {ws : List Nat} (h : Tokens bs ws) {fuel need used : Nat} {out : List Byte}
    (hn : need = out.length + 4 * ws.length) (hf : 2 * bs.length ≤ fuel) :
    expand fuel need bs ⟨out, 0, 0, used⟩ = ⟨out ++ ws.flatMap (leBytes 4), 0, 0, used + bs.length⟩ := by
  induction h generalizing fuel out used with
  | nil =>
    rw [expand_done (show need ≤ out.length from Nat.le_of_eq hn), List.flatMap_nil, List.append_nil]
    rfl
  | @zeros n bs ws h1 h2 _ ih =>
    rw [List.length_cons] at hf
    rw [List.length_append, List.length_replicate] at hn
    obtain ⟨f, rfl⟩ : ∃ f, fuel = f + 2 := ⟨fuel - 2, by omega⟩
    rw [expand_zeroToken h1 h2 (by omega), ih (by rw [List.length_append, List.length_replicate]; omega) (by omega),
      List.flatMap_append, flatMap_leBytes_zeros, List.append_assoc, List.length_cons, Nat.add_assoc, Nat.add_comm 1]
  | @literal l bs ws h1 h2 _ ih =>
    have hlen := flatMap_leBytes_length 4 l
    rw [List.length_cons, List.length_append, hlen] at hf
    rw [List.length_append] at hn
    obtain ⟨f, rfl⟩ : ∃ f, fuel = f + 2 := ⟨fuel - 2, by omega⟩
    rw [expand_literalToken hlen h1 h2 (by omega), ih (by rw [List.length_append, hlen]; omega) (by omega),
      List.flatMap_append, List.append_assoc, List.length_cons, List.length_append, hlen,
      show used + 1 + 4 * l.length + bs.length = used + (4 * l.length + bs.length + 1) by omega]

/-! ## The obligation -/

/-- Settles O27: the compressed bytes are whole tokens that stand for the words, and tokens expand to their words; the CRC is computed. -/
theorem compressionRoundTrip : Obligations.CompressionRoundTrip := by
  unfold Obligations.CompressionRoundTrip
  refine ⟨fun ws fuel _ => ?_, by decide +kernel⟩
  intro r bs hf
  have h := expand_tokens (tokens_zEnd (zTaken_foldl ws)) (fuel := fuel) (need := 4 * ws.length) (used := 0) (out := [])
    (Nat.zero_add _).symm (Nat.le_of_add_right_le hf)
  rw [h]
  exact ⟨List.nil_append _, Nat.zero_add _⟩

end Sys2Proof.Machine

/-! Thinned blocks as bytes (R335, Tables 4-7 and 12-3). -/

namespace Sys2Proof.Machine

/-! ## Masks -/

theorem bit_eq_testBit (v i : Nat) : bit v i = v.testBit i := Nat.testBit_eq_decide_div_mod_eq.symm

/-- Adding a power of two whose bit is 0 sets that bit. -/
theorem bit_add_two_pow {m i : Nat} (h : bit m i = false) (k : Nat) : bit (m + 2 ^ i) k = (decide (k = i) || bit m k) := by
  rw [bit_eq_testBit] at h
  rw [bit_eq_testBit, bit_eq_testBit, Nat.add_comm]
  obtain hk | rfl | hk := Nat.lt_trichotomy k i
  · rw [Nat.testBit_two_pow_add_gt hk, decide_eq_false hk.ne, Bool.false_or]
  · rw [Nat.testBit_two_pow_add_eq, h, decide_eq_true rfl]
    rfl
  · have heven : m / 2 ^ i % 2 = 0 := by
      rw [Nat.testBit_eq_decide_div_mod_eq, decide_eq_false_iff_not] at h
      omega
    have hdiv : (2 ^ i + m) / 2 ^ i / 2 = m / 2 ^ i / 2 := by
      rw [Nat.add_div_left _ (Nat.two_pow_pos i)]
      omega
    obtain ⟨d, rfl⟩ : ∃ d, k = d + 1 + i := ⟨k - i - 1, by omega⟩
    rw [Nat.testBit_add, Nat.testBit_add_one, hdiv, ← Nat.testBit_add_one, ← Nat.testBit_add, decide_eq_false (by omega), Bool.false_or]

/-- A number has the bits of a list of distinct places added to it. -/
theorem bit_foldl_two_pow {l : List Nat} (hl : l.Nodup) {m : Nat} (hm : ∀ i ∈ l, bit m i = false) (k : Nat) :
    bit (l.foldl (fun m i => m + 2 ^ i) m) k = (decide (k ∈ l) || bit m k) := by
  induction l generalizing m with
  | nil => rw [List.foldl_nil, decide_eq_false List.not_mem_nil, Bool.false_or]
  | cons i l ih =>
    obtain ⟨hi, hl⟩ := List.nodup_cons.1 hl
    have hbit := bit_add_two_pow (hm i List.mem_cons_self)
    rw [List.foldl_cons, ih hl fun x hx => ?_, hbit]
    · rw [← Bool.or_assoc]
      congr 1
      simp [List.mem_cons, Bool.or_comm]
    · rw [hbit, hm x (List.mem_cons_of_mem _ hx), decide_eq_false (fun e : x = i => hi (e ▸ hx))]
      rfl

/-- The count of a mask is the number of its places below 32. -/
theorem maskCount_eq (m : Nat) : maskCount m = ((List.range 32).filter (bit m)).length := by
  have hfold : ∀ (l : List Nat) (a : Nat), l.foldl (fun a i => a + b2n (bit m i)) a = a + (l.filter (bit m)).length := by
    intro l
    induction l with
    | nil => exact fun a => rfl
    | cons i l ih =>
      intro a
      rw [List.foldl_cons, ih, List.filter_cons]
      cases bit m i
      · rfl
      · rw [if_pos rfl, List.length_cons]
        unfold b2n
        rw [if_pos rfl]
        omega
  exact (hfold _ 0).trans (Nat.zero_add _)

/-- A mask below 2^32 with places only in a list has at most that many. -/
theorem maskCount_le {m : Nat} {l : List Nat} (h : ∀ k, bit m k = true → k ∈ l) : maskCount m ≤ l.length := by
  rw [maskCount_eq]
  exact (List.subperm_of_subset (List.nodup_range.filter _) fun k hk => h k (List.mem_filter.1 hk).2).length_le

/-! ## Bytes -/

theorem leValue_append (as bs : List Byte) : leValue (as ++ bs) = leValue as + 2 ^ (8 * as.length) * leValue bs := by
  induction as with
  | nil => simp [leValue]
  | cons a as ih =>
    rw [List.cons_append, leValue, leValue, ih, List.length_cons, Nat.mul_succ, Nat.pow_add]
    ring

/-- The numbers written one after another behind `pre` are read back, each modulo its width. -/
theorem leValue_flatMap {w lo : Nat} {pre : List Byte} (hpre : pre.length = lo) (l : List Nat) (post : List Byte) {i : Nat} (hi : i < l.length) :
    leValue (((pre ++ (l.flatMap (leBytes w) ++ post)).drop (lo + w * i)).take w) = l.getD i 0 % 2 ^ (8 * w) := by
  subst hpre
  rw [← List.drop_drop, List.drop_left]
  induction l generalizing i with
  | nil => exact absurd hi (Nat.not_lt_zero i)
  | cons v l ih =>
    have hlen := leBytes_length w v
    rw [List.flatMap_cons, List.append_assoc]
    cases i with
    | zero => rw [Nat.mul_zero, List.drop_zero, List.take_left' hlen, leValue_leBytes, List.getD_cons_zero]
    | succ i =>
      rw [Nat.mul_succ, Nat.add_comm, ← List.drop_drop, List.drop_left' hlen, List.getD_cons_succ]
      exact ih (Nat.lt_of_succ_lt_succ hi)


/-! ## The header (Table 4-7) -/

theorem SxBlock.header_length (b : SxBlock) : b.header.length = 16 := by
  unfold header
  simp only [List.length_append, leBytes_length]

/-- The MAXE field holds 16 bits. -/
theorem SxBlock.maxeField_lt (b : SxBlock) : (if b.ovfm then wrapInt 16 b.maxe else 0) < 2 ^ 16 := by
  split
  · exact wrapInt_lt 16 _
  · decide

/-- The FLAGS field holds 8 bits. -/
theorem SxBlock.flags_lt (b : SxBlock) : b2n b.ovfm + 2 * b2n b.thin < 2 ^ 8 := by cases b.ovfm <;> cases b.thin <;> decide

/-- The header's value, field by field. -/
theorem SxBlock.leValue_header (b : SxBlock) : leValue b.header = wrapInt 16 b.e
    + 2 ^ 16 * (if b.ovfm then wrapInt 16 b.maxe else 0) + 2 ^ 32 * (b2n b.ovfm + 2 * b2n b.thin)
    + 2 ^ 64 * (packElems 2 b.codes % 2 ^ 64) := by
  have he := wrapInt_lt 16 b.e
  have hm := b.maxeField_lt
  have hf := b.flags_lt
  unfold header
  simp only [leValue_append, List.length_append, leBytes_length, leValue_leBytes]
  generalize (if b.ovfm then wrapInt 16 b.maxe else 0) = m at hm
  generalize b2n b.ovfm + 2 * b2n b.thin = f at hf
  omega

section
variable {b : SxBlock} (rest : List Byte)

theorem SxBlock.take_header : (b.header ++ rest).take 16 = b.header := List.take_left' b.header_length

theorem SxBlock.ofHeader_e (hlo : -1990 ≤ b.e) (hhi : b.e ≤ 1990) : (ofHeader (b.header ++ rest)).e = b.e := by
  unfold ofHeader
  dsimp only
  rw [take_header, leValue_header, ← sext_mod]
  generalize (if b.ovfm then wrapInt 16 b.maxe else 0) = m
  generalize b2n b.ovfm + 2 * b2n b.thin = f
  rw [show ∀ a p : Nat, (a + 2 ^ 16 * m + 2 ^ 32 * f + 2 ^ 64 * p) % 2 ^ 16 = a % 2 ^ 16 by omega, sext_mod]
  exact sext_wrapInt_of_fits (w := 15) (by omega) (by omega)

theorem SxBlock.ofHeader_flags : (ofHeader (b.header ++ rest)).ovfm = b.ovfm ∧ (ofHeader (b.header ++ rest)).thin = b.thin := by
  have he := wrapInt_lt 16 b.e
  have hm := b.maxeField_lt
  unfold ofHeader
  dsimp only
  rw [take_header, leValue_header]
  generalize (if b.ovfm then wrapInt 16 b.maxe else 0) = m at hm
  unfold bit b2n
  cases b.ovfm <;> cases b.thin <;> simp <;> omega

/-- The special codes come back. -/
theorem SxBlock.ofHeader_codes (hlen : b.codes.length = 32) (hcode : ∀ c ∈ b.codes, c < 4) :
    (ofHeader (b.header ++ rest)).codes = b.codes := by
  have he := wrapInt_lt 16 b.e
  have hm := b.maxeField_lt
  have hf := b.flags_lt
  have hp : packElems 2 b.codes < 2 ^ 64 := by
    have := packElems_lt 2 b.codes
    rwa [hlen] at this
  unfold ofHeader
  dsimp only
  rw [take_header, leValue_header, Nat.mod_eq_of_lt hp]
  refine List.ext_getElem (by simp [hlen]) fun k hk hk' => ?_
  rw [List.getElem_map, List.getElem_range]
  generalize (if b.ovfm then wrapInt 16 b.maxe else 0) = m at hm
  generalize b2n b.ovfm + 2 * b2n b.thin = f at hf
  have hdiv : (wrapInt 16 b.e + 2 ^ 16 * m + 2 ^ 32 * f + 2 ^ 64 * packElems 2 b.codes) / 2 ^ 64 = packElems 2 b.codes := by omega
  unfold bits
  rw [Nat.pow_add, ← Nat.div_div_eq_div_mul, hdiv, show 64 + 2 * k + 1 + 1 - (64 + 2 * k) = 2 by omega]
  refine (packedElem_packElems 2 b.codes k).trans ?_
  rw [List.getD_eq_getElem _ _ hk']
  exact Nat.mod_eq_of_lt (hcode _ (List.getElem_mem hk'))

end

/-! ## The integers sent -/

/-- The integers of a block at the places of a mask. -/
def sentInts (mask : Nat) (ns : List Int) : List Int := (ns.zipIdx.filter fun e => bit mask e.2).map Prod.fst

/-- One integer is sent per place of the mask. -/
theorem sentInts_length (mask : Nat) {ns : List Int} (hlen : ns.length = 32) : (sentInts mask ns).length = maskCount mask := by
  have hsnd : ns.zipIdx.map Prod.snd = List.range 32 := by rw [List.zipIdx_map_snd, hlen, List.range_eq_range']
  rw [sentInts, List.length_map, maskCount_eq, ← hsnd, List.filter_map, List.length_map]
  rfl

/-- Spreading the integers sent puts each at its own place, and 0 elsewhere. -/
theorem spread_sent (m : Nat) (ns : List Int) (k : Nat) :
    spread m ns.length (((ns.zipIdx k).filter fun e => bit m e.2).map Prod.fst) k
      = (ns.zipIdx k).map fun e => if bit m e.2 then e.1 else 0 := by
  induction ns generalizing k with
  | nil => rfl
  | cons v ns ih =>
    rw [List.length_cons, List.zipIdx_cons, List.filter_cons, List.map_cons, ← ih (k + 1)]
    cases hbit : bit m k
    · conv_lhs => unfold spread
      simp only [hbit, Bool.false_eq_true, if_false]
    · rw [if_pos rfl, List.map_cons, spread, if_pos hbit, if_pos rfl]

/-- A thinned block's expansion has the header read. -/
theorem SxBlock.expand_header (w64 : Bool) (bs : List Byte) : (expand w64 bs).thin = (ofHeader bs).thin
    ∧ (expand w64 bs).ovfm = (ofHeader bs).ovfm ∧ (expand w64 bs).e = (ofHeader bs).e ∧ (expand w64 bs).codes = (ofHeader bs).codes :=
  ⟨rfl, rfl, rfl, rfl⟩

/-- The bytes before the integers of a thinned block. -/
def thinHead (w64 : Bool) (mask : Nat) (b : SxBlock) : List Byte :=
  ({ b with thin := true } : SxBlock).header ++ (leBytes 4 mask ++ if w64 then leBytes 4 0 else [])

theorem thinHead_length (w64 : Bool) (mask : Nat) (b : SxBlock) : (thinHead w64 mask b).length = if w64 then 24 else 20 := by
  unfold thinHead
  cases w64 <;> simp [SxBlock.header_length, leBytes_length]

section
variable {w64 : Bool} {j mask : Nat} {b : SxBlock} (hns : b.ns.length = 32) (hj : maskCount mask ≤ j)
include hns hj

/-- A thinned block is its head, the integers sent, and zeros up to its slot's size. -/
theorem SxBlock.thinned_eq : (thinned w64 j mask b).length = thinSize w64 j ∧ ∃ n, thinned w64 j mask b
    = thinHead w64 mask b ++ (((sentInts mask b.ns).map (wrapInt (8 * sxW w64))).flatMap (leBytes (sxW w64)) ++ List.replicate n 0) := by
  have hvs : ((b.ns.zipIdx.filter fun e => bit mask e.2).flatMap fun e => leBytes (sxW w64) (wrapInt (8 * sxW w64) e.1))
      = ((sentInts mask b.ns).map (wrapInt (8 * sxW w64))).flatMap (leBytes (sxW w64)) := by
    rw [sentInts, List.map_map, List.flatMap_map]
    rfl
  have hlen : (((sentInts mask b.ns).map (wrapInt (8 * sxW w64))).flatMap (leBytes (sxW w64))).length = sxW w64 * maskCount mask := by
    rw [List.length_flatMap, List.map_congr_left fun v _ => leBytes_length (sxW w64) v, List.map_const', List.sum_replicate,
      List.length_map, sentInts_length mask hns]
    exact Nat.mul_comm ..
  unfold thinned
  dsimp only
  rw [hvs]
  generalize ((sentInts mask b.ns).map (wrapInt (8 * sxW w64))).flatMap (leBytes (sxW w64)) = vs at hlen
  have hbody : (({ b with thin := true } : SxBlock).header ++ leBytes 4 mask ++ (if w64 then leBytes 4 0 else []) ++ vs)
      = thinHead w64 mask b ++ vs := by
    rw [thinHead, List.append_assoc _ (leBytes 4 mask)]
  have hle : (thinHead w64 mask b ++ vs).length ≤ thinSize w64 j := by
    rw [List.length_append, thinHead_length, hlen]
    unfold sxW thinSize
    cases w64
    · simp only [Bool.false_eq_true, if_false]
      omega
    · simp only [if_true]
      omega
  rw [hbody]
  have htot : (thinHead w64 mask b ++ vs ++ List.replicate (thinSize w64 j - (thinHead w64 mask b ++ vs).length) (0 : Byte)).length
      = thinSize w64 j := by
    rw [List.length_append, List.length_replicate]
    omega
  rw [List.take_of_length_le htot.le]
  exact ⟨htot, _, List.append_assoc ..⟩

/-- The header and the mask of a thinned block are read back. -/
theorem SxBlock.thinned_head (hmask : mask < 2 ^ 32) : ∃ rest, thinned w64 j mask b = ({ b with thin := true } : SxBlock).header ++ rest
    ∧ thinMask (thinned w64 j mask b) = mask := by
  obtain ⟨-, n, heq⟩ := thinned_eq (w64 := w64) hns hj
  rw [thinHead, List.append_assoc] at heq
  refine ⟨_, heq, ?_⟩
  rw [heq, thinMask, List.drop_left' (header_length _), List.append_assoc, List.take_left' (leBytes_length ..), leValue_leBytes]
  exact Nat.mod_eq_of_lt hmask

/-- Expanding a thinned block gives the integers at the places of its mask, and 0 at the others. -/
theorem SxBlock.expand_thinned (hmask : mask < 2 ^ 32)
    (hfit : ∀ k, bit mask k = true → sext (8 * sxW w64) (wrapInt (8 * sxW w64) (b.ns.getD k 0)) = b.ns.getD k 0) (k : Nat) :
    (expand w64 (thinned w64 j mask b)).ns.getD k 0 = if bit mask k then b.ns.getD k 0 else 0 := by
  obtain ⟨-, -, hm⟩ := thinned_head (w64 := w64) hns hj hmask
  obtain ⟨-, n, heq⟩ := thinned_eq (w64 := w64) hns hj
  have hvs : ((List.range (maskCount mask)).map fun i => sext (8 * sxW w64)
      (leValue (((thinned w64 j mask b).drop ((if w64 then 24 else 20) + sxW w64 * i)).take (sxW w64)))) = sentInts mask b.ns := by
    refine List.ext_getElem (by rw [List.length_map, List.length_range, sentInts_length mask hns]) fun i hi hi' => ?_
    rw [List.getElem_map, List.getElem_range, heq, leValue_flatMap (thinHead_length w64 mask b) _ _ (by rwa [List.length_map]), sext_mod,
      List.getD_eq_getElem _ _ (by rwa [List.length_map]), List.getElem_map]
    obtain ⟨e, he, hv⟩ := List.mem_map.1 (List.getElem_mem hi')
    obtain ⟨he, hbit⟩ := List.mem_filter.1 he
    have hget := hfit _ hbit
    obtain ⟨hlt, hat⟩ := List.mem_zipIdx' he
    rw [List.getD_eq_getElem _ _ hlt, ← hat] at hget
    rw [← hv, hget]
  unfold expand
  dsimp only
  rw [hm, hvs, sentInts, ← hns, spread_sent, List.getD_eq_getElem?_getD, List.getElem?_map, List.getElem?_zipIdx, List.getD_eq_getElem?_getD,
    Nat.zero_add]
  cases b.ns[k]? with
  | none => simp
  | some v => rfl

/-- Expanding a thinned block gives back its header, with THIN. -/
theorem SxBlock.expand_thinned_header (hmask : mask < 2 ^ 32) (hlen : b.codes.length = 32) (hcode : ∀ c ∈ b.codes, c < 4)
    (hlo : -1990 ≤ b.e) (hhi : b.e ≤ 1990) : (expand w64 (thinned w64 j mask b)).thin = true
    ∧ (expand w64 (thinned w64 j mask b)).ovfm = b.ovfm ∧ (expand w64 (thinned w64 j mask b)).e = b.e
    ∧ (expand w64 (thinned w64 j mask b)).codes = b.codes := by
  obtain ⟨rest, heq, -⟩ := thinned_head (w64 := w64) hns hj hmask
  obtain ⟨hovfm, hthin⟩ := ofHeader_flags (b := { b with thin := true }) rest
  have he := ofHeader_e (b := { b with thin := true }) rest hlo hhi
  have hcodes := ofHeader_codes (b := { b with thin := true }) rest hlen hcode
  obtain ⟨heThin, heOvfm, heE, heCodes⟩ := expand_header w64 (thinned w64 j mask b)
  rw [heThin, heOvfm, heE, heCodes, heq]
  exact ⟨hthin, hovfm, he, hcodes⟩

/-- A thinned block of at most J integers, none of them at a special element, is well formed. -/
theorem SxBlock.thinBad_thinned (hmask : mask < 2 ^ 32) (hlen : b.codes.length = 32) (hcode : ∀ c ∈ b.codes, c < 4)
    (hfin : ∀ k, bit mask k = true → b.codes.getD k 0 = 0) : thinBad j (thinned w64 j mask b) = false := by
  obtain ⟨rest, heq, hm⟩ := thinned_head (w64 := w64) hns hj hmask
  unfold thinBad
  dsimp only
  rw [hm, heq, ofHeader_codes (b := { b with thin := true }) rest hlen hcode, decide_eq_false (Nat.not_lt.2 hj), Bool.false_or,
    List.any_eq_false]
  intro c hc hbad
  obtain ⟨hne, hbit⟩ := Bool.and_eq_true_iff.1 hbad
  obtain ⟨hlt, hat⟩ := List.mem_zipIdx' hc
  have := hfin _ hbit
  rw [List.getD_eq_getElem _ _ hlt, ← hat] at this
  exact of_decide_eq_true hne this

end

end Sys2Proof.Machine

/-! Block top-k and its crumb (R194, R196). -/

namespace Sys2Proof.Machine

/-! ## Rounding to the grid -/

/-- Rounding to nearest leaves at most half a unit. -/
theorem roundTo_half (m : Nat) : roundTo .rne m (-32) 0 * 2 ^ 32 ≤ m + 2 ^ 31 ∧ m ≤ roundTo .rne m (-32) 0 * 2 ^ 32 + 2 ^ 31 := by
  have hdiv := Nat.div_add_mod m (2 ^ 32)
  have hrem := Nat.mod_lt m (Nat.two_pow_pos 32)
  unfold roundTo
  rw [if_neg (by decide), show ((0 : Int) - -32).toNat = 32 from rfl]
  dsimp only
  split
  · omega
  · split
    · omega
    · split <;> omega

theorem regrid_half (y : Int) : (y - regrid y (-32) * 2 ^ 32).natAbs ≤ 2 ^ 31 := by
  obtain ⟨hlo, hhi⟩ := roundTo_half y.natAbs
  unfold regrid sgnInt
  generalize roundTo .rne y.natAbs (-32) 0 = r at hlo hhi
  by_cases hy : y < 0
  · rw [decide_eq_true hy, if_pos rfl]
    omega
  · rw [decide_eq_false hy, if_neg Bool.false_ne_true]
    omega

theorem regrid_zero (k : Int) : regrid 0 k = 0 := by
  have hzero : roundTo .rne 0 k 0 = 0 := by
    unfold roundTo
    split
    · exact Nat.zero_mul _
    · dsimp only
      rw [if_pos (Nat.zero_mod _), Nat.zero_div]
  unfold regrid
  rw [Int.natAbs_zero, hzero]
  rfl

/-! ## The largest elements -/

/-- The largest found so far, when another element is looked at (the fold of `pickLargest`). -/
def larger (b : Option (Nat × Nat)) (x : Nat × Nat) : Option (Nat × Nat) :=
  match b with
  | none => some x
  | some y => if y.1 < x.1 then some x else some y

theorem larger_eq (b : Option (Nat × Nat)) (x : Nat × Nat) : larger b x = some x ∨ larger b x = b := by
  unfold larger
  cases b with
  | none => exact .inl rfl
  | some y =>
    dsimp only
    split
    · exact .inl rfl
    · exact .inr rfl

theorem foldl_larger_mem {l : List (Nat × Nat)} {b : Option (Nat × Nat)} {z : Nat × Nat} (h : l.foldl larger b = some z) : b = some z ∨ z ∈ l := by
  induction l generalizing b with
  | nil => exact .inl h
  | cons x l ih =>
    obtain hz | hz := ih h
    · obtain hx | hb := larger_eq b x
      · rw [hx] at hz
        exact .inr (Option.some.inj hz ▸ List.mem_cons_self)
      · exact .inl (hb ▸ hz)
    · exact .inr (List.mem_cons_of_mem _ hz)

theorem pickLargest_succ (j : Nat) (l : List (Nat × Nat)) : pickLargest (j + 1) l =
    match l.foldl larger none with
    | none => []
    | some b => b.2 :: pickLargest j (l.filter fun x => decide (x.2 ≠ b.2)) := rfl

/-- The indices picked are at most `j`, distinct, and the list's own. -/
theorem pickLargest_picks (j : Nat) (l : List (Nat × Nat)) :
    (pickLargest j l).length ≤ j ∧ (pickLargest j l).Nodup ∧ ∀ k ∈ pickLargest j l, k ∈ l.map Prod.snd := by
  induction j generalizing l with
  | zero => exact ⟨le_rfl, List.nodup_nil, fun k hk => absurd hk List.not_mem_nil⟩
  | succ j ih =>
    rw [pickLargest_succ]
    cases hb : l.foldl larger none with
    | none => exact ⟨Nat.zero_le _, List.nodup_nil, fun k hk => absurd hk List.not_mem_nil⟩
    | some b =>
      obtain ⟨hlen, hnodup, hmem⟩ := ih (l.filter fun x => decide (x.2 ≠ b.2))
      have hrest : ∀ k ∈ pickLargest j (l.filter fun x => decide (x.2 ≠ b.2)), k ≠ b.2 ∧ k ∈ l.map Prod.snd := by
        intro k hk
        obtain ⟨x, hx, rfl⟩ := List.mem_map.1 (hmem k hk)
        obtain ⟨hx, hne⟩ := List.mem_filter.1 hx
        exact ⟨of_decide_eq_true hne, List.mem_map_of_mem hx⟩
      refine ⟨Nat.succ_le_succ hlen, List.nodup_cons.2 ⟨fun hin => (hrest _ hin).1 rfl, hnodup⟩, fun k hk => ?_⟩
      obtain rfl | hk := List.mem_cons.1 hk
      · obtain hz | hz := foldl_larger_mem hb
        · exact absurd hz (by simp)
        · exact List.mem_map_of_mem hz
      · exact (hrest k hk).2

/-! ## Block top-k -/

/-- The sum of an element and its crumb (R194, step 2). -/
def topSum (w64 : Bool) (b : SxBlock) (ec : Int) (cs : List Int) (k : Nat) : Int :=
  (if w64 then b.ns.getD k 0 else b.ns.getD k 0 * 2 ^ 32) + (cs.map fun c => regrid c (ec - b.e)).getD k 0

theorem topSum_eq (w64 : Bool) (b : SxBlock) (ec : Int) (cs : List Int) (k : Nat) :
    topSum w64 b ec cs k = b.ns.getD k 0 * (if w64 then 1 else 2 ^ 32) + regrid (cs.getD k 0) (ec - b.e) := by
  have hc : (cs.map fun c => regrid c (ec - b.e)).getD k 0 = regrid (cs.getD k 0) (ec - b.e) := by
    conv_lhs => rw [← regrid_zero (ec - b.e)]
    exact List.getD_map _ _ (fun c => regrid c (ec - b.e))
  unfold topSum
  rw [hc]
  cases w64
  · rfl
  · rw [if_pos rfl, if_pos rfl, Int.mul_one]

/-- The integer sent for a sum (R194, step 3). -/
def topRound (w64 : Bool) (y : Int) : Int := if w64 then y else regrid y (-32)

/-- What an element sent leaves is at most half its unit. -/
theorem topRound_half (w64 : Bool) (y : Int) : (y - topRound w64 y * (if w64 then 1 else 2 ^ 32)).natAbs ≤ 2 ^ 31 := by
  unfold topRound
  cases w64
  · exact regrid_half y
  · rw [if_pos rfl, if_pos rfl, Int.mul_one, Int.sub_self]
    decide

theorem getD_map_range {α : Type} (f : Nat → α) (d : α) {n k : Nat} (h : k < n) : ((List.range n).map f).getD k d = f k := by
  rw [List.getD_eq_getElem _ _ (by simpa using h), List.getElem_map, List.getElem_range]

/-- The integers sent, before the choice of the largest. -/
def topInts (w64 : Bool) (b : SxBlock) (ec : Int) (cs : List Int) : List Int :=
  ((List.range 32).map (topSum w64 b ec cs)).map (topRound w64)

theorem topInts_getD (w64 : Bool) (b : SxBlock) (ec : Int) (cs : List Int) {k : Nat} (h : k < 32) :
    (topInts w64 b ec cs).getD k 0 = topRound w64 (topSum w64 b ec cs k) := by
  unfold topInts
  rw [List.map_map, getD_map_range _ _ h]
  rfl

/-- The block that is thinned. -/
def topBlock (w64 : Bool) (b : SxBlock) (ec : Int) (cs : List Int) : SxBlock :=
  { b with maxe := 0, ovfm := false, ns := topInts w64 b ec cs }

/-- The new crumb, for the mask sent. -/
def topCrumb (w64 : Bool) (b : SxBlock) (ec : Int) (cs : List Int) (mask k : Nat) : Int :=
  if b.codes.getD k 0 = 0 then
    topSum w64 b ec cs k - if bit mask k then topRound w64 (topSum w64 b ec cs k) * (if w64 then 1 else 2 ^ 32) else 0
  else 0

/-- The places picked, and their mask. -/
def topPicks (w64 : Bool) (j : Nat) (b : SxBlock) (ec : Int) (cs : List Int) : List Nat :=
  pickLargest j (((List.range 32).filter fun k => decide (b.codes.getD k 0 = 0)).map fun k =>
    ((((List.range 32).map (topSum w64 b ec cs)).getD k 0).natAbs, k))

def topMask (w64 : Bool) (j : Nat) (b : SxBlock) (ec : Int) (cs : List Int) : Nat :=
  (topPicks w64 j b ec cs).foldl (fun m k => m + 2 ^ k) 0

/-- The crumb's integers, as `topK` writes them. -/
def topCrumbs (w64 : Bool) (j : Nat) (b : SxBlock) (ec : Int) (cs : List Int) : List Int :=
  (List.range 32).map fun k =>
    if !decide (b.codes.getD k 0 = 0) then 0
    else if bit (topMask w64 j b ec cs) k then
      ((List.range 32).map (topSum w64 b ec cs)).getD k 0
        - (if w64 then (topInts w64 b ec cs).getD k 0 else (topInts w64 b ec cs).getD k 0 * 2 ^ 32)
    else ((List.range 32).map (topSum w64 b ec cs)).getD k 0

theorem topCrumbs_getD (w64 : Bool) (j : Nat) (b : SxBlock) (ec : Int) (cs : List Int) {k : Nat} (h : k < 32) :
    (topCrumbs w64 j b ec cs).getD k 0 = topCrumb w64 b ec cs (topMask w64 j b ec cs) k := by
  unfold topCrumbs topCrumb
  rw [getD_map_range _ _ h, getD_map_range _ _ h, topInts_getD _ _ _ _ h]
  by_cases hfin : b.codes.getD k 0 = 0
  · rw [decide_eq_true hfin, if_neg (by decide), if_pos hfin]
    cases bit (topMask w64 j b ec cs) k
    · exact (Int.sub_zero _).symm
    · cases w64
      · rfl
      · exact congrArg (topSum true b ec cs k - ·) (Int.mul_one _).symm
  · rw [decide_eq_false hfin, if_neg hfin]
    rfl

/-- The ordinary elements whose integer overflows (R194, step 4). -/
def topOvers (w64 : Bool) (b : SxBlock) (ec : Int) (cs : List Int) : List Nat :=
  (List.range 32).filter fun k => decide (b.codes.getD k 0 = 0)
    && decide ((if w64 then 2 ^ 56 else 2 ^ 24) ≤ ((topInts w64 b ec cs).getD k 0).natAbs)

/-- A block whose crumb is written has not overflowed. -/
theorem not_overflow_of_crumb {w64 : Bool} {j : Nat} {b : SxBlock} {ec : Int} {cs new : List Int}
    (h : (topK w64 j b ec cs).crumb = some new) : ¬ (b.ovfm || !(topOvers w64 b ec cs).isEmpty) = true := by
  intro hov
  have hnone : (topK w64 j b ec cs).crumb = none := congrArg TopK.crumb (if_pos hov)
  rw [hnone] at h
  cases h

/-- Without overflow the largest elements go out, and the rest is the crumb. -/
theorem topK_eq {w64 : Bool} {j : Nat} {b : SxBlock} {ec : Int} {cs : List Int} (h : ¬ (b.ovfm || !(topOvers w64 b ec cs).isEmpty) = true) :
    topK w64 j b ec cs =
      { out := (topBlock w64 b ec cs).thinned w64 j (topMask w64 j b ec cs), ovfm := false, mask := topMask w64 j b ec cs,
        crumb := some (topCrumbs w64 j b ec cs) } :=
  if_neg h

/-- Without overflow every ordinary element is below the limit. -/
theorem topRound_lt {w64 : Bool} {b : SxBlock} {ec : Int} {cs : List Int} (h : ¬ (b.ovfm || !(topOvers w64 b ec cs).isEmpty) = true)
    {k : Nat} (hk : k < 32) (hfin : b.codes.getD k 0 = 0) :
    (topRound w64 (topSum w64 b ec cs k)).natAbs < if w64 then 2 ^ 56 else 2 ^ 24 := by
  rw [Bool.not_eq_true, Bool.or_eq_false_iff, Bool.not_eq_false', List.isEmpty_iff, topOvers, List.filter_eq_nil_iff] at h
  have hlt := h.2 k (List.mem_range.2 hk)
  rwa [decide_eq_true hfin, Bool.true_and, decide_eq_true_eq, Nat.not_le, topInts_getD _ _ _ _ hk] at hlt

/-- The mask sent has the bits of the places picked: at most `j`, each an ordinary element's. -/
theorem topMask_bits (w64 : Bool) (j : Nat) (b : SxBlock) (ec : Int) (cs : List Int) :
    maskCount (topMask w64 j b ec cs) ≤ j
    ∧ ∀ k, bit (topMask w64 j b ec cs) k = true → k < 32 ∧ b.codes.getD k 0 = 0 := by
  obtain ⟨hlen, hnodup, hmem⟩ := pickLargest_picks j (((List.range 32).filter fun k => decide (b.codes.getD k 0 = 0)).map fun k =>
    ((((List.range 32).map (topSum w64 b ec cs)).getD k 0).natAbs, k))
  have hbit : ∀ k, bit (topMask w64 j b ec cs) k = true → k ∈ topPicks w64 j b ec cs := by
    intro k hk
    have hzero : ∀ i, bit 0 i = false := fun i => by rw [bit_eq_testBit, Nat.zero_testBit]
    have hfold := bit_foldl_two_pow hnodup (fun i _ => hzero i) k
    rw [hzero, Bool.or_false] at hfold
    have hk := hfold.symm.trans hk
    exact of_decide_eq_true hk
  refine ⟨(maskCount_le hbit).trans hlen, fun k hk => ?_⟩
  have hk := hmem k (hbit k hk)
  rw [List.map_map, show Prod.snd ∘ (fun k => ((((List.range 32).map (topSum w64 b ec cs)).getD k 0).natAbs, k)) = id from rfl,
    List.map_id] at hk
  obtain ⟨hlt, hfin⟩ := List.mem_filter.1 hk
  exact ⟨List.mem_range.1 hlt, of_decide_eq_true hfin⟩

/-- The mask sent is below 2^32. -/
theorem topMask_lt (w64 : Bool) (j : Nat) (b : SxBlock) (ec : Int) (cs : List Int) : topMask w64 j b ec cs < 2 ^ 32 :=
  Nat.lt_pow_two_of_testBit _ fun k hk => by
    rw [← bit_eq_testBit, Bool.eq_false_iff]
    exact fun hbit => absurd ((topMask_bits w64 j b ec cs).2 k hbit).1 (Nat.not_lt.2 hk)

/-- An integer within the limits of overflow is read back. -/
theorem sext_wrapInt_topInt {w64 : Bool} {i : Int} (h : i.natAbs < if w64 then 2 ^ 56 else 2 ^ 24) :
    sext (8 * sxW w64) (wrapInt (8 * sxW w64) i) = i := by
  cases w64
  · rw [if_neg Bool.false_ne_true] at h
    exact sext_wrapInt_of_fits (w := 31) (by omega) (by omega)
  · rw [if_pos rfl] at h
    exact sext_wrapInt_of_fits (w := 63) (by omega) (by omega)

/-- Settles O28: the integers sent are read back from the thinned block, and the crumb is what each leaves of its sum. -/
theorem topkLosesNothing : Obligations.TopkLosesNothing := by
  unfold Obligations.TopkLosesNothing
  intro w64 j b ec cs new _ _ hlen hcode _ hlo hhi hcrumb
  dsimp only
  have hover := not_overflow_of_crumb hcrumb
  obtain ⟨hcount, hbits⟩ := topMask_bits w64 j b ec cs
  have hlt := topMask_lt w64 j b ec cs
  rw [topK_eq hover] at hcrumb ⊢
  dsimp only at hcrumb ⊢
  rw [← Option.some.inj hcrumb]
  have hns : (topBlock w64 b ec cs).ns.length = 32 := by simp [topBlock, topInts]
  obtain ⟨hsize, -⟩ := SxBlock.thinned_eq (w64 := w64) hns hcount
  obtain ⟨hthin, hovfm, he, hcodes⟩ := SxBlock.expand_thinned_header (w64 := w64) (b := topBlock w64 b ec cs) hns hcount hlt hlen hcode
    hlo hhi
  have hexp : ∀ k, (SxBlock.expand w64 ((topBlock w64 b ec cs).thinned w64 j (topMask w64 j b ec cs))).ns.getD k 0
      = if bit (topMask w64 j b ec cs) k then (topInts w64 b ec cs).getD k 0 else 0 := SxBlock.expand_thinned hns hcount hlt fun k hk => by
    obtain ⟨hk, hfin⟩ := hbits k hk
    exact (topInts_getD w64 b ec cs hk).symm ▸ sext_wrapInt_topInt (topRound_lt hover hk hfin)
  refine ⟨hsize, SxBlock.thinBad_thinned hns hcount hlt hlen hcode fun k hk => (hbits k hk).2, rfl, hthin, hovfm, he, hcodes, hcount,
    fun k hk => ⟨fun hfin => ?_, fun hbit => ?_, fun hspecial => ⟨?_, ?_⟩⟩⟩
  · rw [hexp, topCrumbs_getD _ _ _ _ _ hk, topCrumb, if_pos hfin, ← topSum_eq, topInts_getD w64 b ec cs hk]
    cases bit (topMask w64 j b ec cs) k <;> simp
  · rw [topCrumbs_getD _ _ _ _ _ hk, topCrumb, if_pos (hbits k hbit).2, if_pos hbit]
    exact topRound_half w64 _
  · rw [topCrumbs_getD _ _ _ _ _ hk, topCrumb, if_neg hspecial]
  · rw [hexp, if_neg fun hbit => hspecial (hbits k hbit).2]

end Sys2Proof.Machine

/-! The state of a stream channel: chrd and the actions of chctl (R207, R208, R209, R366). -/

namespace Sys2Proof.Machine

/-! ## The word -/

theorem encD_class (op : Nat) (h : Head) (f : DF) (ho : op < 64) :
    wCls (encD op h f) = 5 ∧ wOp (encD op h f) = op ∧ bits (encD op h f) 8 0 = f.var.toNat := by
  have hp := h.pred.isLt
  have hn := b2n_le h.pneg
  have h1 := f.tw.isLt; have h2 := f.ts.isLt; have h3 := f.sa.isLt; have h4 := f.sb.isLt; have h5 := f.sc.isLt
  have h6 := f.chan.isLt; have h7 := f.hint.isLt; have h8 := f.size.isLt; have h9 := f.var.isLt
  unfold wCls wOp encD encHead bits
  refine ⟨?_, ?_, ?_⟩ <;> omega

theorem bits_encD_var {op hi lo : Nat} (h : Head) (f : DF) (ho : op < 64) (hhi : hi < 9) :
    bits (encD op h f) hi lo = bits f.var.toNat hi lo := by
  obtain ⟨-, -, hvar⟩ := encD_class op h f ho
  rw [← hvar, bits_var hhi]

/-- A legal chrd names one of the six words (R207). -/
theorem chrd_var_le {h : Head} {f : DF} (hl : legal (encD 4 h f) = true) : f.var.toNat ≤ 5 := by
  obtain ⟨hcls, hop, hvar⟩ := encD_class 4 h f (by decide)
  unfold legal at hl
  rw [hcls, hop] at hl
  unfold legalD at hl
  simp only [hvar, Bool.and_eq_true, decide_eq_true_eq] at hl
  obtain ⟨-, ⟨⟨⟨hle, -⟩, -⟩, -⟩, -⟩ := hl
  exact hle

/-! ## Issue and start -/

/-- A chrd or chctl of word `w` starts within its issue (R207): nothing stops it, and its context's earlier narrow accesses have
started. -/
def State.chanStarts (s : State) (h : Head) (w : Nat) : Prop :=
  s.goes h w (usesD w) false = true ∧ s.covered h.tile 14 = true ∧ (s.tile h.tile).tokenReady w = true
    ∧ (s.tile h.tile).blocked h.ctx (s.tile h.tile).seq (uReads w) (uWrites w) = false
    ∧ ∀ o ∈ (s.tile h.tile).ops, o.unit = .narrow → o.ctx = h.ctx → o.started = true

/-- A chrd or chctl that may start once it stands in the narrow path may start at its issue. -/
theorem Tile.startable_chan (x : Tile) (c : Ctxt) (o : UOp) (w : Nat) (ho : o.seq = x.seq) (hs : o.started = false) (hc : o.ctx = c)
    (hn : o.unit = .narrow) (hw : o.word.toNat = w) (hop : 4 ≤ wOp w) (ht : x.tokenReady w = true)
    (hb : x.blocked c x.seq (uReads w) (uWrites w) = false) (hq : ∀ p ∈ x.ops, p.unit = .narrow → p.ctx = c → p.started = true) :
    ({ x with ops := x.ops ++ [o], seq := x.seq + 1 }.setCtx c (x.ctx c).advance).startable o = true := by
  generalize hz : { x with ops := x.ops ++ [o], seq := x.seq + 1 }.setCtx c (x.ctx c).advance = z
  have hops : z.ops = x.ops ++ [o] := by rw [← hz]; cases c <;> rfl
  have htok : z.tokenReady w = x.tokenReady w := by rw [← hz]; cases c <;> rfl
  have hfirst : z.first o = true := by
    unfold Tile.first
    rw [hops, List.all_append, Bool.and_eq_true, hn, hw, hc, decide_eq_true hop]
    refine ⟨List.all_eq_true.2 fun p hp => ?_, by simp⟩
    by_cases hu : p.unit = .narrow
    · by_cases hctx : p.ctx = c
      · simp [hq p hp hu hctx]
      · simp [hctx]
    · simp [hu]
  have hclear : z.narrowClear o = true := by
    unfold Tile.narrowClear
    rw [hw, decide_eq_true hop, Bool.or_true, Bool.true_or]
  have hfree : z.blocked c x.seq (uReads w) (uWrites w) = false := by
    unfold Tile.blocked at hb ⊢
    rw [hops, List.any_append, hb]
    simp [ho]
  unfold Tile.startable
  rw [hs, hw, hfirst, hclear, htok, ht, hc, ho, hfree]
  rfl

/-- chrd and chctl read no store, and no window refuses them. -/
theorem State.startN_chan {s : State} {t : Nat} {o : UOp} (hs : (s.tile t).startable o = true) (hop : 4 ≤ wOp o.word.toNat) :
    s.startN t o .good = (s.markStarted t o).runChan t o := by
  have hfull : ∀ l, (decide (2 ≤ wOp o.word.toNat) && decide (wOp o.word.toNat ≤ 3) && s.locFull l (bits o.word.toNat 14 9)) = false :=
    fun l => by rw [decide_eq_false (Nat.not_le.2 hop), Bool.and_false, Bool.false_and]
  have hgood : ¬ (decide (wOp o.word.toNat = 2 ∨ wOp o.word.toNat = 3) && decide (Sram.good = .uncorrectable)) = true := by simp
  unfold State.startN
  dsimp only
  rw [hs]
  cases s.form o.vb.toNat with
  | none => exact (if_neg Bool.false_ne_true).trans ((if_neg hgood).trans (if_pos hop))
  | some l => exact (if_neg (by dsimp only; rw [hfull]; exact Bool.false_ne_true)).trans ((if_neg hgood).trans (if_pos hop))

/-- A chrd or chctl queued and marked as started, its charge paid before. -/
def State.chanStarted (s : State) (h : Head) (w : Nat) : State :=
  ((s.pay h.tile 14).queued h (capture (s.pay h.tile 14) h .narrow w 0 0 0)).markStarted h.tile
    ((s.pay h.tile 14).issuedOp h .narrow w 0 0)

section
variable {s : State} {h : Head} {f : DF} {op : Nat}

theorem issueChan_eq (op : Nat) (h : Head) (f : DF) (s : State) : issueChan op h f s
    = issue h (encD op h f) (usesD (encD op h f)) false (fun _ => .go 14 fun p =>
      (p.queued h (capture p h .narrow (encD op h f) 0 0 0)).startN h.tile (p.issuedOp h .narrow (encD op h f) 0 0) .good) s := rfl

theorem State.tile_paid (s : State) (t k : Nat) :
    (s.pay t k).tile t = { s.tile t with credit := (s.tile t).credit - s.chargeOf t k, want := 0 } :=
  (State.tile_setTile ..).trans (if_pos rfl)

/-- A tile's balance is no part of what lets an instruction start. -/
theorem Tile.charged_ready (y : Tile) (credit want w : Nat) : ({ y with credit := credit, want := want } : Tile).tokenReady w = y.tokenReady w
    ∧ (∀ c n rs ws, ({ y with credit := credit, want := want } : Tile).blocked c n rs ws = y.blocked c n rs ws) :=
  ⟨rfl, fun _ _ _ _ => rfl⟩

theorem State.paid_ready (s : State) (t k w : Nat) : ((s.pay t k).tile t).tokenReady w = (s.tile t).tokenReady w
    ∧ (∀ c n rs ws, ((s.pay t k).tile t).blocked c n rs ws = (s.tile t).blocked c n rs ws)
    ∧ ((s.pay t k).tile t).seq = (s.tile t).seq ∧ ((s.pay t k).tile t).ops = (s.tile t).ops := by
  rw [s.tile_paid]
  obtain ⟨htok, hfree⟩ := (s.tile t).charged_ready ((s.tile t).credit - s.chargeOf t k) 0 w
  exact ⟨htok, hfree, rfl, rfl⟩

theorem issueChan_starts (hop : 4 ≤ op) (hlt : op < 64) (hs : s.chanStarts h (encD op h f)) : issueChan op h f s
    = .next ((s.chanStarted h (encD op h f)).runChan h.tile ((s.pay h.tile 14).issuedOp h .narrow (encD op h f) 0 0)) := by
  obtain ⟨hg, hcov, htok, hfree, hfirst⟩ := hs
  obtain ⟨-, hwop, -⟩ := encD_class op h f hlt
  have hw := State.issuedOp_word (s := s.pay h.tile 14) (h := h) (u := .narrow) (va := 0) (vb := 0) (encD_lt op h f hlt)
  rw [issueChan_eq, issue_goes hg, State.perform_go hcov]
  unfold State.chanStarted
  generalize encD op h f = w at *
  rw [← hwop] at hop
  refine congrArg Host.Outcome.next (State.startN_chan ?_ (by rwa [hw]))
  unfold State.queued
  rw [State.tile_enqueue_advance]
  obtain ⟨hpTok, hpFree, hpSeq, hpOps⟩ := s.paid_ready h.tile 14 w
  exact Tile.startable_chan ((s.pay h.tile 14).tile h.tile) h.ctx ((s.pay h.tile 14).issuedOp h .narrow w 0 0) w rfl rfl rfl rfl hw hop
    (hpTok.trans htok) (by rw [hpFree, hpSeq, hfree]) (by rw [hpOps]; exact hfirst)

/-- Two steps that change tiles only. -/
theorem State.tilesOnly_trans {t u s : State} (h : { t with tiles := u.tiles } = u) (h' : { u with tiles := s.tiles } = s) :
    { t with tiles := s.tiles } = s :=
  (congrArg (fun v : State => { v with tiles := s.tiles }) h).trans h'

theorem State.tilesOnly_chan {t s : State} (h : { t with tiles := s.tiles } = s) :
    (∀ k, t.chan k = s.chan k) ∧ ∀ v, t.clusterOf v = s.clusterOf v :=
  ⟨fun k => (congrArg (fun u : State => u.chan k) h :), fun v => (congrArg (fun u : State => u.clusterOf v) h :)⟩

theorem State.queued_frame (s : State) (h : Head) (o : UOp) : { s.queued h o with tiles := s.tiles } = s := rfl

theorem State.markStarted_frame (s : State) (t : Nat) (o : UOp) : { s.markStarted t o with tiles := s.tiles } = s := rfl

theorem State.pay_frame (s : State) (t k : Nat) : { s.pay t k with tiles := s.tiles } = s := rfl

theorem State.chanStarted_frame (s : State) (h : Head) (w : Nat) : { s.chanStarted h w with tiles := s.tiles } = s := by
  unfold State.chanStarted
  exact State.tilesOnly_trans (State.markStarted_frame ..) (State.tilesOnly_trans (State.queued_frame ..) (s.pay_frame ..))

/-- Charge, queue and mark change nothing but the tile of the instruction. -/
theorem State.chanStarted_spec (s : State) (h : Head) (w : Nat) : { s.chanStarted h w with tiles := s.tiles } = s
    ∧ (∀ v, v ≠ h.tile → (s.chanStarted h w).tile v = s.tile v)
    ∧ ((s.chanStarted h w).tile h.tile).StartedFrom (s.tile h.tile) h.ctx ((s.pay h.tile 14).issuedOp h .narrow w 0 0) := by
  have hseq : ((s.pay h.tile 14).issuedOp h .narrow w 0 0).seq = (s.tile h.tile).seq := s.seq_pay ..
  have hqueued : ((s.pay h.tile 14).queued h (capture (s.pay h.tile 14) h .narrow w 0 0 0)).tile h.tile =
      { { s.tile h.tile with ops := (s.tile h.tile).ops ++ [(s.pay h.tile 14).issuedOp h .narrow w 0 0],
                             seq := (s.tile h.tile).seq + 1 }.setCtx h.ctx ((s.tile h.tile).ctx h.ctx).advance with
        credit := (s.tile h.tile).credit - s.chargeOf h.tile 14, want := 0 } := by
    unfold State.queued
    rw [State.tile_enqueue_advance]
    unfold State.issuedOp
    rw [s.tile_paid]
    cases h.ctx <;> rfl
  refine ⟨s.chanStarted_frame h w, fun v hv => ?_, ?_⟩
  all_goals unfold State.chanStarted
  · rw [State.markStarted_eq, State.tile_setTile, if_neg hv]
    unfold State.queued
    rw [State.tile_advance_other _ _ hv]
    unfold State.enqueue
    rw [State.tile_setTile, if_neg hv, State.tile_pay_other _ _ hv]
  · rw [State.markStarted_eq, State.tile_setTile, if_pos rfl, hqueued]
    exact Tile.startedFrom (s.tile h.tile) h.ctx ((s.pay h.tile 14).issuedOp h .narrow w 0 0) _ _ hseq

/-- The context of a started chrd or chctl has gone on. -/
theorem State.chanStarted_ctx (s : State) (h : Head) (w : Nat) :
    (s.chanStarted h w).ctx h.tile h.ctx = (s.ctx h.tile h.ctx).advance := by
  obtain ⟨-, -, hT⟩ := s.chanStarted_spec h w
  exact hT.here

/-! ## chrd -/

theorem Chan.word_var {v : Nat} (c : Chan) (hv : v ≤ 5) : c.word (bits v 2 0) = c.word v := by
  rw [bits_low, Nat.mod_eq_of_lt (Nat.lt_of_le_of_lt hv (by decide))]

/-- What a started chrd does (R207). -/
theorem State.runChan_chrd {T : State} {t : Nat} {o : UOp} {w : Nat} (hw : o.word.toNat = w) (hop : wOp w = 4) : T.runChan t o
    = T.setCtx t o.ctx ((T.ctx t o.ctx).wrS (bits w 39 34)
      (BitVec.ofNat 64 ((T.chan (16 * T.clusterOf t + bits w 21 18)).word (bits w 2 0)))) := by
  unfold State.runChan
  dsimp only
  rw [hw, if_pos hop]

/-- What a started chctl does (R208). -/
theorem State.runChan_chctl {T : State} {t : Nat} {o : UOp} {w : Nat} (hw : o.word.toNat = w) (hop : wOp w = 5) : T.runChan t o
    = T.chanAct (16 * T.clusterOf t + bits w 21 18) (bits w 1 0) := by
  unfold State.runChan
  dsimp only
  rw [hw, if_neg (by rw [hop]; decide)]

/-- chrd writes the word that VAR selects (R207). -/
theorem chrd_writes (hs : s.chanStarts h (encD 4 h f)) : ∃ t, exec (.chrd h f) s = .next t
    ∧ t.onlyS s h f.sa.toNat (BitVec.ofNat 64 ((s.chan (s.namedChan h f)).word f.var.toNat)) ∧ t.keepsPV s h ∧ t.wentOn s h
    ∧ t.unitElsewhere s h (encD 4 h f) := by
  obtain ⟨hframe, hother, hT⟩ := s.chanStarted_spec h (encD 4 h f)
  have hgo := issueChan_starts (by decide) (by decide) hs
  have hctx := s.chanStarted_ctx h (encD 4 h f)
  have hw := State.issuedOp_word (s := s.pay h.tile 14) (h := h) (u := .narrow) (va := 0) (vb := 0) (encD_lt 4 h f (by decide))
  obtain ⟨-, -, -, hlegal, -⟩ := State.goes_iff.1 hs.1
  have hvar := chrd_var_le hlegal
  obtain ⟨-, hop, -⟩ := encD_class 4 h f (by decide)
  obtain ⟨hsa, -⟩ := encD_fields 4 h f
  have hsel := bits_encD_var (op := 4) (hi := 2) (lo := 0) h f (by decide) (by decide)
  have hrun := State.runChan_chrd (T := s.chanStarted h (encD 4 h f)) (t := h.tile) hw hop
  obtain ⟨hchan, hcluster⟩ := State.tilesOnly_chan hframe
  rw [hsa, encD_chan, hsel, Chan.word_var _ hvar, hchan, hcluster] at hrun
  generalize s.chanStarted h (encD 4 h f) = T at *
  generalize hv : BitVec.ofNat 64 ((s.chan (16 * s.clusterOf h.tile + f.chan.toNat)).word f.var.toNat) = v at hrun
  have hrun : T.runChan h.tile ((s.pay h.tile 14).issuedOp h .narrow (encD 4 h f) 0 0)
      = T.setCtx h.tile h.ctx ((T.ctx h.tile h.ctx).wrS f.sa.toNat v) := hrun
  rw [hctx, Ctx.wrS_advance] at hrun
  obtain ⟨hS, hPV, hon⟩ := State.onlyS_of_ctx (T.ctx_setCtx h.tile h.ctx (((s.ctx h.tile h.ctx).wrS f.sa.toNat v).advance))
  exact ⟨_, hgo.trans (congrArg Host.Outcome.next hrun), hv ▸ hS, hPV, hon, State.unitElsewhere_of _ rfl hw rfl hframe hother hT⟩

end

/-! ## The actions of chctl (R209) -/

section
variable {u t s : State}

/-- A context that holds no fault keeps all but its arrives as another context settles, or the same. -/
theorem State.ctx_settleFlush_unheld {w : Nat} {d : Ctxt} (hx : (s.ctx w d).held = none) (v : Nat) (c : Ctxt) :
    ∃ a, (s.settleFlush v c).ctx w d = { s.ctx w d with arrives := a } := by
  have hsettle := State.ctx_settle (v := v) (c := c) hx
  unfold State.settleFlush
  by_cases hw : w = v
  · subst hw
    by_cases hd : d = c
    · subst hd
      exact ⟨_, by rw [State.ctx_flushArrives, hsettle]⟩
    · refine ⟨(s.ctx w d).arrives, ?_⟩
      rw [← hsettle]
      unfold State.ctx
      rw [State.tile_flushArrives, if_pos rfl, Tile.ctx_setCtx, if_neg hd]
  · refine ⟨(s.ctx w d).arrives, ?_⟩
    rw [← hsettle]
    unfold State.ctx
    rw [State.tile_flushArrives, if_neg hw]

theorem State.keepsData_settleFlush (s : State) (v : Nat) (c : Ctxt) : (s.settleFlush v c).keepsData s := by
  have hf := s.settleFlush_frame v c
  obtain ⟨y, hy, -⟩ := s.tile_settleFlush v c
  obtain ⟨-, htok, hbyte⟩ := (s.tile v).setCtx_keeps c y
  refine ⟨(congrArg State.regs hf :), (congrArg State.mem hf :), (congrArg State.chans hf :), fun w b => ?_, fun w k => ?_⟩
  · by_cases hw : w = v
    · subst hw
      rw [hy, hbyte]
    · rw [State.tile_settleFlush_other hw]
  · by_cases hw : w = v
    · subst hw
      rw [hy, htok]
    · rw [State.tile_settleFlush_other hw]

/-- State `t` has the data of `s`, and context `d` of tile `w` is as in `s` but for the arrives it keeps. -/
def State.onlyArrives (t s : State) (w : Nat) (d : Ctxt) : Prop :=
  t.keepsData s ∧ ∃ a, t.ctx w d = { s.ctx w d with arrives := a }

theorem State.onlyArrives_trans {w : Nat} {d : Ctxt} (h : u.onlyArrives t w d) (h' : t.onlyArrives s w d) : u.onlyArrives s w d := by
  obtain ⟨hd, a, ha⟩ := h
  obtain ⟨hd', a', ha'⟩ := h'
  exact ⟨State.keepsData_trans hd hd', a, by rw [ha, ha']⟩

/-- Contexts settle and send, one after another. -/
theorem State.foldl_after {w : Nat} {d : Ctxt} (hx : (s.ctx w d).held = none) (l : List Copy) :
    (l.foldl (fun v x => v.after x.tile x.ctx) s).onlyArrives s w d := by
  refine foldl_prop (P := fun v : State => v.onlyArrives s w d) (fun v x hv => ?_) ⟨s.keepsData_refl, (s.ctx w d).arrives, rfl⟩
  refine State.onlyArrives_trans (t := v) ?_ hv
  obtain ⟨-, a, ha⟩ := hv
  exact ⟨v.keepsData_settleFlush x.tile x.ctx, v.ctx_settleFlush_unheld (by rw [ha]; exact hx) x.tile x.ctx⟩

end

/-! ## The next READ of a copy (R366) -/

section
variable {s : State} {k : Nat}

theorem State.sendRead_sends (s : State) (c : Copy) : (s.sendRead c).1.sends s := by
  unfold State.sendRead
  dsimp only
  split
  · exact s.sends_refl
  · split
    · exact s.sendRop_sends _
    · exact s.sends_refl

theorem Chan.setCopy_ids (c : Chan) (x : Copy) : (c.setCopy x).queue.map Copy.id = c.queue.map Copy.id := by
  unfold setCopy
  rw [List.map_map]
  refine List.map_congr_left fun y _ => ?_
  dsimp only [Function.comp]
  split
  · rename_i h
    exact h.symm
  · rfl

/-- State `t` is `s` but for operations on their way and the progress of the copies of channel `k`. -/
def State.onlyReads (t s : State) (k : Nat) : Prop :=
  t.regs = s.regs ∧ t.mem = s.mem ∧ t.tiles = s.tiles ∧ (∀ j, j ≠ k → t.chan j = s.chan j)
    ∧ (t.chan k).held = (s.chan k).held ∧ (t.chan k).queue.map Copy.id = (s.chan k).queue.map Copy.id
    ∧ (t.chan k).lastst = (s.chan k).lastst ∧ (t.chan k).out = (s.chan k).out

theorem State.readOn_cases (s : State) (k : Nat) : s.readOn k = s
    ∨ ∃ x rest, (s.chan k).queue = x :: rest ∧ (s.chan k).held = false ∧ s.srcRemote x = true
      ∧ s.readOn k = (s.sendRead x).1.putCopy k (s.sendRead x).2 := by
  unfold State.readOn
  dsimp only
  split
  · rename_i x rest hq
    split
    · rename_i hgo
      obtain ⟨hrest, hremote⟩ := Bool.and_eq_true_iff.1 hgo
      obtain ⟨-, hheld⟩ := Bool.and_eq_true_iff.1 hrest
      exact .inr ⟨x, rest, hq, by simpa using hheld, hremote, rfl⟩
    · exact .inl rfl
  · exact .inl rfl

/-- A held channel sends none, and neither does one whose first copy has its source in the module. -/
theorem State.readOn_none (h : (s.chan k).held = true ∨ ∀ x rest, (s.chan k).queue = x :: rest → s.srcRemote x = false) :
    s.readOn k = s := by
  obtain hs | ⟨x, rest, hq, hheld, hremote, -⟩ := s.readOn_cases k
  · exact hs
  · obtain hh | hl := h
    · rw [hh] at hheld
      cases hheld
    · rw [hl x rest hq] at hremote
      cases hremote

theorem State.onlyReads_sent (s : State) (k : Nat) (x : Copy) : ((s.sendRead x).1.putCopy k (s.sendRead x).2).onlyReads s k := by
  have hsends := s.sendRead_sends x
  have hf := State.sends_frame hsends
  have hchans : ∀ j, (s.sendRead x).1.chan j = s.chan j := fun j =>
    congrArg (fun m => SMap.get Chan.reset m j) (congrArg State.chans hf :)
  have hregs : (s.sendRead x).1.regs = s.regs := (congrArg State.regs hf :)
  have hmem : (s.sendRead x).1.mem = s.mem := (congrArg State.mem hf :)
  unfold State.putCopy
  rw [hchans]
  generalize { (s.sendRead x).2 with moved := decide (dCount (s.sendRead x).2.desc ≤ (s.sendRead x).2.pos) } = y
  have hk : ((s.sendRead x).1.setChan k ((s.chan k).setCopy y)).chan k = (s.chan k).setCopy y := (State.chan_setChan ..).trans (if_pos rfl)
  refine ⟨hregs, hmem, (State.sends_tiles hsends :), fun j hj => ((State.chan_setChan ..).trans (if_neg hj)).trans (hchans j), ?_⟩
  rw [hk]
  exact ⟨rfl, Chan.setCopy_ids .., rfl, rfl⟩

theorem State.readOn_onlyReads (s : State) (k : Nat) : (s.readOn k).onlyReads s k := by
  obtain hs | ⟨x, -, -, -, -, hs⟩ := s.readOn_cases k <;> rw [hs]
  · exact ⟨rfl, rfl, rfl, fun _ _ => rfl, rfl, rfl, rfl, rfl⟩
  · exact s.onlyReads_sent k x

end

/-! ## An action's effect (R209) -/

section
variable {s : State} {w : Nat} {d : Ctxt}

theorem State.srcRemote_congr {t : State} (hr : t.regs = s.regs) (x : Copy) : t.srcRemote x = s.srcRemote x := by
  unfold State.srcRemote State.copySrc
  rw [State.form_congr hr]

/-- The state of an action, before the next READ. -/
def State.acted (s : State) (k n : Nat) : State :=
  ((s.chan k).queue.filter fun x => !(((s.chan k).act n).queue.any fun y => decide (y.id = x.id))).foldl
    (fun u x => u.after x.tile x.ctx) (s.setChan k ((s.chan k).act n))

theorem State.chanAct_eq (s : State) (k n : Nat) : s.chanAct k n = (s.acted k n).readOn k := rfl

/-- What an action leaves, in a context that holds no fault. -/
theorem State.chanAct_spec (hx : (s.ctx w d).held = none) (k n : Nat) : let t := s.chanAct k n
    let c := (s.chan k).act n
    t.regs = s.regs ∧ t.mem = s.mem ∧ (∀ u b, (t.tile u).rdByte b = (s.tile u).rdByte b) ∧ (∀ j, j ≠ k → t.chan j = s.chan j)
      ∧ (∃ a, t.ctx w d = { s.ctx w d with arrives := a })
      ∧ (c.held = true ∨ (∀ x rest, c.queue = x :: rest → s.srcRemote x = false) → t.chan k = c)
      ∧ (t.chan k).held = c.held ∧ (t.chan k).queue.map Copy.id = c.queue.map Copy.id ∧ (t.chan k).lastst = c.lastst
      ∧ (t.chan k).out = c.out := by
  intro t c
  obtain ⟨⟨hregs, hmem, hchans, hbytes, -⟩, a, ha⟩ : (s.acted k n).onlyArrives (s.setChan k ((s.chan k).act n)) w d :=
    State.foldl_after (s := s.setChan k ((s.chan k).act n)) hx _
  obtain ⟨hregs', hmem', htiles, hother, hheld, hids, hlast, hout⟩ := (s.acted k n).readOn_onlyReads k
  have hchan : ∀ j, (s.acted k n).chan j = if j = k then c else s.chan j := fun j =>
    (congrArg (fun m => SMap.get Chan.reset m j) hchans).trans (State.chan_setChan ..)
  have htile : ∀ u, t.tile u = (s.acted k n).tile u := fun u => congrArg (fun m => SMap.get Tile.reset m u) htiles
  have hk := (hchan k).trans (if_pos rfl)
  refine ⟨hregs'.trans hregs, hmem'.trans hmem, fun u b => (congrArg (fun y : Tile => y.rdByte b) (htile u)).trans (hbytes u b),
    fun j hj => ((hother j hj).trans (hchan j)).trans (if_neg hj), ⟨a, ?_⟩, fun hno => ?_, hheld.trans (congrArg Chan.held hk),
    hids.trans (congrArg (fun y : Chan => y.queue.map Copy.id) hk), hlast.trans (congrArg Chan.lastst hk),
    hout.trans (congrArg Chan.out hk)⟩
  · exact (congrArg (fun y : Tile => y.ctx d) (htile w)).trans ha
  · have hnone : (s.acted k n).readOn k = s.acted k n := by
      refine State.readOn_none ?_
      rw [hk]
      refine hno.imp_right fun h x rest hq => ?_
      rw [State.srcRemote_congr (s := s) hregs]
      exact h x rest hq
    exact (congrArg (fun u : State => u.chan k) hnone).trans hk

/-! ## The words of a channel (R207) -/

theorem Chan.stat_fields {c : Chan} (hq : c.queue.length ≤ 8) (hl : c.lastst < 16) :
    bits c.stat 23 20 = c.queue.length ∧ bits c.stat 19 16 = c.lastst ∧ bit c.stat 1 = c.held
      ∧ bit c.stat 0 = (match c.queue with | x :: _ => x.started | [] => false) := by
  obtain ⟨cur, hcur, hstat⟩ : ∃ cur, cur < 16 ∧ c.stat = c.queue.length * 2 ^ 20 + c.lastst * 2 ^ 16 + cur * 2 ^ 12 + b2n c.held * 2
      + b2n (match c.queue with | x :: _ => x.started | [] => false) := by
    refine ⟨_, ?_, rfl⟩
    split
    · split
      · exact bits_lt ..
      · decide
    · decide
  rw [hstat]
  generalize (match c.queue with | x :: _ => x.started | [] => false) = busy
  generalize c.queue.length = q at hq
  have hheld := b2n_le c.held
  have hbusy := b2n_le busy
  refine ⟨?_, ?_, ?_, ?_⟩
  · unfold bits; omega
  · unfold bits; omega
  · unfold bit b2n
    cases c.held <;> cases busy <;> simp <;> omega
  · unfold bit b2n
    cases c.held <;> cases busy <;> simp <;> omega

end

/-! ## chctl -/

section
variable {s : State} {h : Head} {f : DF}

/-- An action of chctl that starts at its issue leaves channel `c`, whose first copy may have sent its next READ (R208, R209). -/
def State.chctlLeaves (s : State) (h : Head) (f : DF) (n : Nat) (i : Instr) (c : Chan) : Prop :=
  s.chanStarts h (encD 5 h { f with var := BitVec.ofNat 9 n }) →
    ∃ t, exec i s = .next t ∧ (∀ j, j ≠ s.namedChan h f → t.chan j = s.chan j) ∧ t.keepsS s h ∧ t.wentOn s h
      ∧ t.regs = s.regs ∧ t.mem = s.mem ∧ (∀ u b, (t.tile u).rdByte b = (s.tile u).rdByte b)
      ∧ (c.held = true ∨ (∀ x rest, c.queue = x :: rest → s.srcRemote x = false) → t.chan (s.namedChan h f) = c)
      ∧ (t.chan (s.namedChan h f)).held = c.held ∧ (t.chan (s.namedChan h f)).queue.map Copy.id = c.queue.map Copy.id
      ∧ (t.chan (s.namedChan h f)).lastst = c.lastst ∧ (t.chan (s.namedChan h f)).out = c.out

theorem State.chctl_leaves {n : Nat} (hn : n < 4) {i : Instr} (hi : exec i s = issueChan 5 h { f with var := BitVec.ofNat 9 n } s) :
    s.chctlLeaves h f n i ((s.chan (s.namedChan h f)).act n) := by
  intro hs
  obtain ⟨hframe, hother, hT⟩ := s.chanStarted_spec h (encD 5 h { f with var := BitVec.ofNat 9 n })
  have hgo := hi.trans (issueChan_starts (by decide) (by decide) hs)
  have hctx := s.chanStarted_ctx h (encD 5 h { f with var := BitVec.ofNat 9 n })
  have hw := State.issuedOp_word (s := s.pay h.tile 14) (h := h) (u := .narrow) (va := 0) (vb := 0)
    (encD_lt 5 h { f with var := BitVec.ofNat 9 n } (by decide))
  obtain ⟨-, hop, -⟩ := encD_class 5 h { f with var := BitVec.ofNat 9 n } (by decide)
  have hsel : bits (encD 5 h { f with var := BitVec.ofNat 9 n }) 1 0 = n := by
    rw [bits_encD_var h _ (by decide) (by decide), bits_low, BitVec.toNat_ofNat]
    omega
  have hrun := State.runChan_chctl (T := s.chanStarted h (encD 5 h { f with var := BitVec.ofNat 9 n })) (t := h.tile) hw hop
  obtain ⟨hchan, hcluster⟩ := State.tilesOnly_chan hframe
  rw [encD_chan, hsel, hcluster] at hrun
  have hheld := State.goes_unheld hs.1
  generalize s.chanStarted h (encD 5 h { f with var := BitVec.ofNat 9 n }) = T at *
  have hregs : T.regs = s.regs := (congrArg State.regs hframe :)
  have hmem : T.mem = s.mem := (congrArg State.mem hframe :)
  have hx : (T.ctx h.tile h.ctx).held = none := by
    rw [hctx]
    exact hheld
  obtain ⟨hregs', hmem', hbytes, hchans, ⟨a, ha⟩, hno, hrest⟩ := State.chanAct_spec hx (s.namedChan h f) n
  rw [hchan] at hno hrest
  rw [hctx] at ha
  refine ⟨_, hgo.trans (congrArg Host.Outcome.next hrun), fun j hj => (hchans j hj).trans (hchan j), fun j => ?_, ?_, hregs'.trans hregs,
    hmem'.trans hmem, fun u b => (hbytes u b).trans (State.rdByte_started hother hT u b), fun h => hno (h.imp_right fun hl x rest hq => ?_),
    hrest⟩
  · exact (congrArg (fun y : Ctx => y.rdS j) ha :)
  · exact (congrArg (fun y : Ctx => (y.pc, y.loops)) ha :)
  · rw [State.srcRemote_congr hregs]
    exact hl x rest hq

/-- An abort removes the copies whose last grant has not finished (R209). -/
theorem Chan.act_abort (c : Chan) : c.act 2 = { c with
    queue := c.queue.filter (fun x => x.started && x.moved), held := false,
    lastst := if c.queue.all (fun x => x.started && x.moved) then c.lastst else 1,
    out := if c.queue.all (fun x => x.started && x.moved) then c.out
      else match c.queue with | x :: _ => if x.started && !x.moved then x.out else 0 | [] => 0 } := by
  unfold act
  dsimp only
  cases hall : c.queue.all fun x => x.started && x.moved
  · rfl
  · rw [if_pos rfl, if_pos rfl, if_pos rfl, List.filter_eq_self.2 (List.all_eq_true.1 hall)]
    rfl

end

/-- Settles O31: chrd by the word it selects, each action of chctl by what it makes of its channel. -/
theorem channelState : Obligations.ChannelState := by
  unfold Obligations.ChannelState
  intro h f s
  refine ⟨fun hs => chrd_writes hs, State.chctl_leaves (by decide) rfl, State.chctl_leaves (by decide) rfl, ?_, Chan.stat_fields⟩
  have habort := State.chctl_leaves (s := s) (h := h) (f := f) (n := 2) (i := .chctlAbort h f) (by decide) rfl
  rw [Chan.act_abort] at habort
  exact habort

end Sys2Proof.Machine

/-! The interleave (R215, R216). -/

namespace Sys2Proof.Machine

section
variable (s : State)

/-- The rotation of row `q` of the interleave, in slots (R216). -/
def State.turn (q : Nat) : Nat := q * 0x9E3779B1 % 2 ^ 32 / 256 % s.activeList.length

/-- No channel stands twice in the active list. -/
theorem State.activeList_nodup : s.activeList.Nodup := by
  refine List.Nodup.filter _ (List.Nodup.map_on (fun x hx y hy h => ?_) List.nodup_range)
  have := List.mem_range.1 hx
  have := List.mem_range.1 hy
  omega

theorem State.place_eq (d : Nat) : s.place d = (s.activeList.getD
    ((d / 256 % s.activeList.length + s.turn (d / 256 / s.activeList.length)) % s.activeList.length) 0,
    d / 256 / s.activeList.length, d % 256) := rfl

theorem State.unplace_eq (ch q : Nat) : s.unplace ch q = (q * s.activeList.length
    + (s.activeList.idxOf ch + s.activeList.length - s.turn q) % s.activeList.length) * 256 := rfl

variable {s}

/-- A rotation by less than `n` slots is undone by turning back. -/
theorem turn_back {n r h : Nat} (hr : r < n) (hh : h < n) : ((r + h) % n + n - h) % n = r := by
  obtain hlt | hge := Nat.lt_or_ge (r + h) n
  · rw [Nat.mod_eq_of_lt hlt, show r + h + n - h = r + n by omega, Nat.add_mod_right, Nat.mod_eq_of_lt hr]
  · rw [Nat.mod_eq_sub_mod hge, Nat.mod_eq_of_lt (by omega : r + h - n < n), show r + h - n + n - h = r by omega,
      Nat.mod_eq_of_lt hr]

theorem State.turn_lt (hn : 0 < s.activeList.length) (q : Nat) : s.turn q < s.activeList.length := Nat.mod_lt _ hn

/-- The channel of an address is the one its slot holds. -/
theorem State.place_slot (hn : 0 < s.activeList.length) (d : Nat) :
    ∃ h : (d / 256 % s.activeList.length + s.turn (d / 256 / s.activeList.length)) % s.activeList.length < s.activeList.length,
      (s.place d).1 = s.activeList[(d / 256 % s.activeList.length + s.turn (d / 256 / s.activeList.length)) % s.activeList.length] :=
  ⟨Nat.mod_lt _ hn, List.getD_eq_getElem _ _ _⟩

/-- The granule of a place is the granule of the address put there. -/
theorem State.unplace_place (hn : 0 < s.activeList.length) (d : Nat) :
    s.unplace (s.place d).1 (s.place d).2.1 = d / 256 * 256 := by
  obtain ⟨hlt, hch⟩ := State.place_slot hn d
  have hq : (s.place d).2.1 = d / 256 / s.activeList.length := rfl
  rw [State.unplace_eq, hch, hq, s.activeList_nodup.idxOf_getElem,
    turn_back (Nat.mod_lt _ hn) (State.turn_lt hn _), Nat.mul_comm (_ / _), Nat.div_add_mod]

theorem State.place_inj (hn : 0 < s.activeList.length) {d e : Nat} (h : s.place d = s.place e) : d = e := by
  have hg := State.unplace_place hn d
  rw [h, State.unplace_place hn e] at hg
  have ho : d % 256 = e % 256 := congrArg (fun p => p.2.2) h
  omega

theorem State.place_active (hn : 0 < s.activeList.length) (d : Nat) : (s.place d).1 ∈ s.activeList := by
  obtain ⟨hlt, hch⟩ := State.place_slot hn d
  rw [hch]
  exact List.getElem_mem hlt

/-- Row `q` of the interleave takes every active channel (R216). -/
theorem State.row_covers (hn : 0 < s.activeList.length) (q : Nat) {m : Nat} (hm : m ∈ s.activeList) :
    ∃ r, r < s.activeList.length ∧ (s.place ((q * s.activeList.length + r) * 256)).1 = m
      ∧ (s.place ((q * s.activeList.length + r) * 256)).2.1 = q := by
  generalize hl : s.activeList.length = n at hn
  obtain ⟨i, hi, rfl⟩ := List.getElem_of_mem hm
  have ht : s.turn q < n := hl ▸ State.turn_lt (hl ▸ hn) q
  have hr : (i + n - s.turn q) % n < n := Nat.mod_lt _ hn
  have hdiv : (q * n + (i + n - s.turn q) % n) * 256 / 256 / n = q := by
    rw [Nat.mul_div_cancel _ (by decide), Nat.mul_comm, Nat.mul_add_div hn, Nat.div_eq_of_lt hr, Nat.add_zero]
  have hmod : (q * n + (i + n - s.turn q) % n) * 256 / 256 % n = (i + n - s.turn q) % n := by
    rw [Nat.mul_div_cancel _ (by decide), Nat.mul_comm, Nat.mul_add_mod, Nat.mod_mod]
  have hslot : ((i + n - s.turn q) % n + s.turn q) % n = i := by
    rw [Nat.mod_add_mod, show i + n - s.turn q + s.turn q = i + n by omega, Nat.add_mod_right, Nat.mod_eq_of_lt (hl ▸ hi)]
  refine ⟨_, hr, ?_, ?_⟩
  · rw [State.place_eq, hl, hdiv, hmod, hslot]
    exact List.getD_eq_getElem _ _ _
  · rw [State.place_eq, hl]
    exact hdiv

end

end Sys2Proof.Machine

/-! The sector codes (R224 to R228). -/

namespace Sys2Proof.Machine

/-! ## Maps that respect exclusive-or -/

/-- A map of the numbers below `N` that respects exclusive-or and sends no other number to 0. -/
structure XorLinear (N : Nat) (M : Nat → Nat) : Prop where
  lt : ∀ a, a < N → M a < N
  xor : ∀ a b, a < N → b < N → M (a ^^^ b) = M a ^^^ M b
  zero : ∀ a, a < N → M a = 0 → a = 0

theorem XorLinear.id (N : Nat) : XorLinear N id := ⟨fun _ h => h, fun _ _ _ _ => rfl, fun _ _ h => h⟩

theorem XorLinear.comp {N : Nat} {M K : Nat → Nat} (hM : XorLinear N M) (hK : XorLinear N K) : XorLinear N (M ∘ K) where
  lt a ha := hM.lt _ (hK.lt a ha)
  xor a b ha hb := by rw [Function.comp, hK.xor a b ha hb, hM.xor _ _ (hK.lt a ha) (hK.lt b hb)]; rfl
  zero a ha h := hK.zero a ha (hM.zero _ (hK.lt a ha) h)

theorem XorLinear.iterate {N : Nat} {M : Nat → Nat} (hM : XorLinear N M) : ∀ n, XorLinear N M^[n]
  | 0 => XorLinear.id N
  | n + 1 => (hM.iterate n).comp hM

theorem XorLinear.congr {N : Nat} {M K : Nat → Nat} (hM : XorLinear N M) (h : ∀ a, a < N → K a = M a) (hN : ∃ w, N = 2 ^ w) :
    XorLinear N K where
  lt a ha := by rw [h a ha]; exact hM.lt a ha
  xor a b ha hb := by
    obtain ⟨w, rfl⟩ := hN
    rw [h _ (Nat.xor_lt_two_pow ha hb), h a ha, h b hb, hM.xor a b ha hb]
  zero a ha hz := hM.zero a ha (by rw [← h a ha, hz])

theorem XorLinear.inj {w : Nat} {M : Nat → Nat} (hM : XorLinear (2 ^ w) M) {a b : Nat} (ha : a < 2 ^ w) (hb : b < 2 ^ w)
    (h : M a = M b) : a = b :=
  Nat.xor_eq_zero_iff.1 (hM.zero _ (Nat.xor_lt_two_pow ha hb) (by rw [hM.xor a b ha hb, h, Nat.xor_self]))

/-! ## Shift registers -/

/-- One shift of a register of `n + 1` bits with feedback `p`. -/
def shiftReg (n p c : Nat) : Nat := if c < 2 ^ n then 2 * c else (2 * c % 2 ^ (n + 1)) ^^^ p

theorem shiftReg_eq {n c : Nat} (p : Nat) (hc : c < 2 ^ (n + 1)) :
    shiftReg n p c = (2 * c % 2 ^ (n + 1)) ^^^ (if c.testBit n then p else 0) := by
  unfold shiftReg
  by_cases h : c < 2 ^ n
  · rw [if_pos h, Nat.testBit_lt_two_pow h, if_neg (by decide), Nat.xor_zero, Nat.mod_eq_of_lt (by rw [Nat.pow_succ]; omega)]
  · have hb : c.testBit n = true := by
      rw [Nat.testBit_eq_decide_div_mod_eq, decide_eq_true_eq, Nat.div_eq_of_lt_le (k := 1) (by omega) (by rw [Nat.pow_succ] at hc; omega)]
    rw [if_neg h, if_pos hb]

theorem shiftReg_linear {n p : Nat} (hp : p < 2 ^ (n + 1)) (hodd : p.testBit 0 = true) : XorLinear (2 ^ (n + 1)) (shiftReg n p) where
  lt a ha := by
    rw [shiftReg_eq p ha]
    refine Nat.xor_lt_two_pow (Nat.mod_lt _ (Nat.two_pow_pos _)) ?_
    split
    exacts [hp, Nat.two_pow_pos _]
  xor a b ha hb := by
    have hdouble : 2 * (a ^^^ b) = 2 * a ^^^ 2 * b := by
      simpa [Nat.shiftLeft_eq, Nat.mul_comm] using Nat.shiftLeft_xor_distrib (a := a) (b := b) (i := 1)
    rw [shiftReg_eq p (Nat.xor_lt_two_pow ha hb), shiftReg_eq p ha, shiftReg_eq p hb, hdouble, Nat.xor_mod_two_pow, Nat.testBit_xor]
    cases a.testBit n <;> cases b.testBit n <;> simp [Nat.xor_comm, Nat.xor_left_comm]
  zero a ha hz := by
    unfold shiftReg at hz
    split at hz
    · omega
    · have h0 : ((2 * a % 2 ^ (n + 1)) ^^^ p).testBit 0 = true := by
        rw [Nat.testBit_xor, hodd, Nat.testBit_mod_two_pow]
        simp
      rw [hz] at h0
      cases h0

/-! ## One wrong byte in a code word -/

/-- How the check of a code reads a word byte by byte: what a change of what was read so far, and of a byte, changes. -/
structure ByteCheck (w : Nat) (f : Nat → Nat → Nat) (M K : Nat → Nat) : Prop where
  linear : XorLinear (2 ^ w) M
  lt : ∀ a b, a < 2 ^ w → b < 256 → f a b < 2 ^ w
  err : ∀ x, x < 256 → K x < 2 ^ w
  carry : ∀ a e b, a < 2 ^ w → e < 2 ^ w → b < 256 → f (a ^^^ e) b = f a b ^^^ M e
  byte : ∀ a b x, a < 2 ^ w → b < 256 → x < 256 → f a (b ^^^ x) = f a b ^^^ K x

section
variable {w : Nat} {f : Nat → Nat → Nat} {M K : Nat → Nat} (hf : ByteCheck w f M K)
include hf

theorem ByteCheck.foldl_lt {l : List Nat} {a : Nat} (ha : a < 2 ^ w) (hl : ∀ b ∈ l, b < 256) : l.foldl f a < 2 ^ w := by
  induction l generalizing a with
  | nil => exact ha
  | cons b l ih =>
    obtain ⟨hb, hl⟩ := List.forall_mem_cons.1 hl
    exact ih (hf.lt a b ha hb) hl

theorem ByteCheck.foldl_xor {l : List Nat} {a e : Nat} (ha : a < 2 ^ w) (he : e < 2 ^ w) (hl : ∀ b ∈ l, b < 256) :
    l.foldl f (a ^^^ e) = l.foldl f a ^^^ M^[l.length] e := by
  induction l generalizing a e with
  | nil => rfl
  | cons b l ih =>
    obtain ⟨hb, hl⟩ := List.forall_mem_cons.1 hl
    rw [List.foldl_cons, hf.carry a e b ha he hb, ih (hf.lt a b ha hb) (hf.linear.lt e he) hl]
    rfl

/-- A wrong byte changes what the check comes to by its own value, carried on over the bytes after it. -/
theorem ByteCheck.foldl_set {l : List Nat} {i a x : Nat} (ha : a < 2 ^ w) (hl : ∀ b ∈ l, b < 256) (hi : i < l.length) (hx : x < 256) :
    (l.set i (l.getD i 0 ^^^ x)).foldl f a = l.foldl f a ^^^ M^[l.length - 1 - i] (K x) := by
  have hsplit : l = l.take i ++ l[i] :: l.drop (i + 1) := by rw [List.getElem_cons_drop, List.take_append_drop]
  have htake : ∀ b ∈ l.take i, b < 256 := fun b hb => hl b (List.mem_of_mem_take hb)
  have hdrop : ∀ b ∈ l.drop (i + 1), b < 256 := fun b hb => hl b (List.mem_of_mem_drop hb)
  have hbyte : l[i] < 256 := hl _ (List.getElem_mem hi)
  have hread := hf.foldl_lt ha htake
  rw [List.set_eq_take_append_cons_drop, if_pos hi, List.foldl_append, List.foldl_cons, List.getD_eq_getElem _ _ hi,
    hf.byte _ _ _ hread hbyte hx, hf.foldl_xor (hf.lt _ _ hread hbyte) (hf.err x hx) hdrop, List.length_drop]
  congr 1
  · conv_rhs => rw [hsplit]
    rw [List.foldl_append, List.foldl_cons]
  · rw [show l.length - (i + 1) = l.length - 1 - i by omega]

end

/-! ## The field GF(2^8) (R226) -/

theorem gfX_linear : XorLinear 256 gfX := shiftReg_linear (n := 7) (p := 0x1D) (by decide) (by decide)

theorem gfMulN_xor (n : Nat) : ∀ a b c : Nat, gfMulN n (a ^^^ b) c = gfMulN n a c ^^^ gfMulN n b c := by
  induction n with
  | zero => exact fun _ _ _ => (Nat.xor_self 0).symm
  | succ n ih =>
    intro a b c
    have hdiv : (a ^^^ b) / 2 = a / 2 ^^^ b / 2 := Nat.xor_div_two
    have hmod : (a ^^^ b) % 2 = (a % 2) ^^^ (b % 2) := Nat.xor_mod_two_pow (n := 1)
    rw [gfMulN, gfMulN, gfMulN, hdiv, ih, hmod]
    obtain ha | ha := Nat.mod_two_eq_zero_or_one a <;> obtain hb | hb := Nat.mod_two_eq_zero_or_one b <;>
      simp [ha, hb, Nat.xor_assoc, Nat.xor_left_comm]

theorem gfMulN_lt (n : Nat) : ∀ a b : Nat, b < 256 → gfMulN n a b < 256 := by
  induction n with
  | zero => exact fun _ _ _ => Nat.zero_lt_succ 255
  | succ n ih =>
    intro a b hb
    refine Nat.xor_lt_two_pow (n := 8) ?_ (ih _ _ (gfX_linear.lt b hb))
    split
    exacts [hb, by decide]

theorem gfMulN_gfX (n : Nat) : ∀ a b : Nat, b < 256 → gfMulN n a (gfX b) = gfX (gfMulN n a b) := by
  induction n with
  | zero => exact fun _ _ _ => rfl
  | succ n ih =>
    intro a b hb
    have hrest := gfMulN_lt n (a / 2) (gfX b) (gfX_linear.lt b hb)
    rw [gfMulN, gfMulN, ih _ _ (gfX_linear.lt b hb), gfX_linear.xor _ _ (by split; exacts [hb, by decide]) hrest]
    congr 1
    split <;> rfl

theorem gfMul_one : ∀ a, a < 256 → gfMul a 1 = a := by decide +kernel
theorem gfMul_two : ∀ a, a < 256 → gfMul a 2 = gfX a := fun a ha => by
  have h := gfMulN_gfX 8 a 1 (by decide)
  have h1 : gfMulN 8 a 1 = a := gfMul_one a ha
  rw [h1] at h
  exact h
theorem gfMul_four (a : Nat) (ha : a < 256) : gfMul a 4 = gfX (gfX a) :=
  (gfMulN_gfX 8 a 2 (by decide)).trans (congrArg gfX (gfMul_two a ha))

theorem gfPow_lt : ∀ k, gfPow k < 256
  | 0 => by decide
  | k + 1 => gfX_linear.lt _ (gfPow_lt k)

/-- A product with α^k is `k` products with α. -/
theorem gfMul_gfPow (a : Nat) (ha : a < 256) : ∀ k, gfMul a (gfPow k) = gfX^[k] a
  | 0 => gfMul_one a ha
  | k + 1 => by
    rw [Function.iterate_succ_apply', ← gfMul_gfPow a ha k]
    exact gfMulN_gfX 8 a _ (gfPow_lt k)

theorem gfX_orbit : ∀ a, a < 256 → a ≠ 0 → a ∉ List.iterate gfX (gfX a) 35 := by decide +kernel

/-- The powers of α up to α^35 are distinct. -/
theorem gfX_cycle {a d : Nat} (ha : a < 256) (h0 : a ≠ 0) (hd : d < 36) (h : gfX^[d] a = a) : d = 0 := by
  cases d with
  | zero => rfl
  | succ d => exact absurd (List.mem_iterate.2 ⟨d, by omega, h.symm⟩) (gfX_orbit a ha h0)

theorem gfX_iterate_inj {a j k : Nat} (ha : a < 256) (h0 : a ≠ 0) (hj : j < 36) (hk : k < 36) (h : gfX^[j] a = gfX^[k] a) : j = k := by
  have key : ∀ {j k : Nat}, j ≤ k → k < 36 → gfX^[j] a = gfX^[k] a → j = k := fun {j k} hjk hk h => by
    obtain ⟨d, rfl⟩ := Nat.exists_eq_add_of_le hjk
    rw [Function.iterate_add_apply] at h
    have hcycle := (gfX_linear.iterate j).inj (w := 8) ha ((gfX_linear.iterate d).lt a ha) h
    rw [gfX_cycle ha h0 (by omega) hcycle.symm, Nat.add_zero]
  obtain hle | hle := Nat.le_total j k
  · exact key hle hk h
  · exact (key hle hj h.symm).symm


/-! ## The COR code (R226) -/

theorem gfMul_linear {z : Nat} {M : Nat → Nat} (hM : XorLinear 256 M) (h : ∀ a, a < 256 → gfMul a z = M a) :
    ByteCheck 8 (fun a b => gfMul a z ^^^ b) M id where
  linear := hM
  lt a b ha hb := by
    have := hM.lt a ha
    rw [← h a ha] at this
    exact Nat.xor_lt_two_pow (n := 8) this hb
  err _ hx := hx
  carry a e b ha he hb := by
    rw [show gfMul (a ^^^ e) z = gfMul a z ^^^ gfMul e z from gfMulN_xor 8 a e z, h e he, Nat.xor_right_comm]
  byte a b x _ _ _ := (Nat.xor_assoc _ _ _).symm

theorem gfEval_one_check : ByteCheck 8 (fun a b => gfMul a 1 ^^^ b) id id := gfMul_linear (XorLinear.id 256) gfMul_one
theorem gfEval_two_check : ByteCheck 8 (fun a b => gfMul a 2 ^^^ b) gfX id := gfMul_linear gfX_linear gfMul_two
theorem gfEval_four_check : ByteCheck 8 (fun a b => gfMul a 4 ^^^ b) (gfX ∘ gfX) id := gfMul_linear (gfX_linear.comp gfX_linear) gfMul_four

/-- The step of the division by g(x): the check symbols after one more byte. -/
def rsStep (r : Nat × Nat × Nat) (b : Nat) : Nat × Nat × Nat :=
  (r.2.1 ^^^ gfMul (r.1 ^^^ b) 7, r.2.2 ^^^ gfMul (r.1 ^^^ b) 14, gfMul (r.1 ^^^ b) 8)

theorem rsCheck_eq (bs : List Nat) : rsCheck bs = bs.foldl rsStep (0, 0, 0) := rfl

theorem gfMul_lt (a : Nat) {b : Nat} (hb : b < 256) : gfMul a b < 256 := gfMulN_lt 8 a b hb

theorem gfMul_xor (a b z : Nat) : gfMul (a ^^^ b) z = gfMul a z ^^^ gfMul b z := gfMulN_xor 8 a b z

/-- A symbol moved up three places, at `z`. -/
def gfCube (z a : Nat) : Nat := gfMul (gfMul (gfMul a z) z) z

/-- The three check symbols as a polynomial at `z`. -/
def rsValue (z : Nat) (r : Nat × Nat × Nat) : Nat := gfMul (gfMul r.1 z) z ^^^ gfMul r.2.1 z ^^^ r.2.2

/-- `z` is a root of g(x) = x³ + 7x² + 14x + 8. -/
def rsRoot (z : Nat) : Prop := ∀ f, f < 256 → gfCube z f = rsValue z (gfMul f 7, gfMul f 14, gfMul f 8)

theorem rsRoot_one : rsRoot 1 := by unfold rsRoot; decide +kernel
theorem rsRoot_two : rsRoot 2 := by unfold rsRoot; decide +kernel
theorem rsRoot_four : rsRoot 4 := by unfold rsRoot; decide +kernel

/-- Every check symbol is a byte. -/
def rsBytes (r : Nat × Nat × Nat) : Prop := r.1 < 256 ∧ r.2.1 < 256 ∧ r.2.2 < 256

theorem rsStep_bytes {r : Nat × Nat × Nat} (hr : rsBytes r) (b : Nat) : rsBytes (rsStep r b) :=
  ⟨Nat.xor_lt_two_pow (n := 8) hr.2.1 (gfMul_lt _ (by decide)), Nat.xor_lt_two_pow (n := 8) hr.2.2 (gfMul_lt _ (by decide)),
    gfMul_lt _ (by decide)⟩

theorem rsCheck_bytes (bs : List Nat) : rsBytes (rsCheck bs) :=
  foldl_prop (P := rsBytes) (fun _ b hr => rsStep_bytes hr b) (by unfold rsBytes; decide)

/-- One more byte keeps what the check symbols stand for. -/
theorem rsValue_rsStep {z a b : Nat} {r : Nat × Nat × Nat} (hz : rsRoot z) (hr : rsBytes r) (hb : b < 256)
    (h : gfCube z a = rsValue z r) : gfCube z (gfMul a z ^^^ b) = rsValue z (rsStep r b) := by
  have hf := hz (r.1 ^^^ b) (Nat.xor_lt_two_pow (n := 8) hr.1 hb)
  have hup : gfCube z (gfMul a z) = gfMul (gfCube z a) z := rfl
  have hadd : ∀ x y, gfCube z (x ^^^ y) = gfCube z x ^^^ gfCube z y := fun x y => by simp only [gfCube, gfMul_xor]
  have hsplit : rsValue z (rsStep r b)
      = gfMul (gfMul r.2.1 z) z ^^^ gfMul r.2.2 z ^^^ rsValue z (gfMul (r.1 ^^^ b) 7, gfMul (r.1 ^^^ b) 14, gfMul (r.1 ^^^ b) 8) := by
    simp only [rsStep, rsValue, gfMul_xor]
    ac_rfl
  have htop : gfMul (rsValue z r) z = gfCube z r.1 ^^^ gfMul (gfMul r.2.1 z) z ^^^ gfMul r.2.2 z := by
    simp only [rsValue, gfCube, gfMul_xor]
  rw [hsplit, ← hf, hadd, hadd, hup, h, htop]
  ac_rfl

theorem gfCube_foldl {z : Nat} (hz : rsRoot z) {bs : List Nat} (hb : ∀ b ∈ bs, b < 256) {a : Nat} {r : Nat × Nat × Nat}
    (hr : rsBytes r) (h : gfCube z a = rsValue z r) :
    gfCube z (bs.foldl (fun a b => gfMul a z ^^^ b) a) = rsValue z (bs.foldl rsStep r) := by
  induction bs generalizing a r with
  | nil => exact h
  | cons b bs ih =>
    obtain ⟨hb, hbs⟩ := List.forall_mem_cons.1 hb
    exact ih hbs (rsStep_bytes hr b) (rsValue_rsStep hz hr hb h)

/-- Bytes followed by their check symbols are 0 at every root of g(x) (R226). -/
theorem gfEval_rsCheck {z : Nat} (hz : rsRoot z) {bs : List Nat} (hb : ∀ b ∈ bs, b < 256) :
    gfEval z (bs ++ [(rsCheck bs).1, (rsCheck bs).2.1, (rsCheck bs).2.2]) = 0 := by
  have hzero : gfCube z 0 = rsValue z (0, 0, 0) := by
    have hm : gfMul 0 z = 0 := (gfMul_xor 0 0 z).trans (Nat.xor_self _)
    simp [gfCube, rsValue, hm]
  have h := gfCube_foldl hz hb (by unfold rsBytes; decide) hzero
  rw [← rsCheck_eq] at h
  unfold gfEval
  rw [List.foldl_append]
  simp only [List.foldl_cons, List.foldl_nil, gfMul_xor]
  unfold gfCube rsValue at h
  rw [h]
  simp [Nat.xor_comm, Nat.xor_left_comm]

/-! ## Lists -/

theorem getD_set {α : Type} {l : List α} {i : Nat} (j : Nat) (v d : α) (hi : i < l.length) :
    (l.set i v).getD j d = if j = i then v else l.getD j d := by
  simp only [List.getD_eq_getElem?_getD, List.getElem?_set]
  split
  · subst_vars
    simp
  · rw [if_neg (Ne.symm ‹_›)]

theorem getD_take {α : Type} {l : List α} {n i : Nat} {d : α} (h : i < n) : (l.take n).getD i d = l.getD i d := by
  simp only [List.getD_eq_getElem?_getD, List.getElem?_take_of_lt h]

theorem set_getD {α : Type} (l : List α) (i : Nat) (d : α) : l.set i (l.getD i d) = l := by
  obtain h | h := Nat.lt_or_ge i l.length
  · rw [List.getD_eq_getElem _ _ h, List.set_getElem_self]
  · exact List.set_eq_of_length_le h

/-- A search finds the one entry there is to find. -/
theorem find?_eq_some_unique {α : Type} {p : α → Bool} {l : List α} {a : α} (ha : a ∈ l) (hp : p a = true)
    (hu : ∀ b ∈ l, p b = true → b = a) : l.find? p = some a := by
  cases h : l.find? p with
  | none => exact absurd hp (List.find?_eq_none.1 h a ha)
  | some b => rw [hu b (List.mem_of_find?_eq_some h) (List.find?_some h)]

/-! ## Stored sectors (R224, R225) -/

/-- A TAG of a COR sector with at most four flipped bits is read as COR (R225). -/
theorem tag_flipped_cor {i x : Nat} (h : i ≠ 32 ∨ popcount8 x ≤ 4) :
    popcount8 ((if false = true then 0xFF else 0) ^^^ (if i = 32 then x else 0)) ≤ 4 := by
  rw [if_neg (by decide), Nat.zero_xor]
  split
  · exact h.resolve_left (not_not_intro ‹_›)
  · decide

theorem popcount8_flipped : ∀ x, x < 256 → popcount8 x ≤ 3 → ¬ popcount8 (0xFF ^^^ x) ≤ 4 := by decide +kernel

/-- A TAG of a DET sector with at most three flipped bits is read as DET (R225). -/
theorem tag_flipped_det {i x : Nat} (hx : x < 256) (h : i ≠ 32 ∨ popcount8 x ≤ 3) :
    ¬ popcount8 ((if true = true then 0xFF else 0) ^^^ (if i = 32 then x else 0)) ≤ 4 := by
  rw [if_pos rfl]
  split
  · exact popcount8_flipped x hx (h.resolve_left (not_not_intro ‹_›))
  · decide

section
variable {data : List Nat}

theorem encodeSector_cor : encodeSector false data = (data ++ [0])
    ++ [(rsCheck (data ++ [0])).1, (rsCheck (data ++ [0])).2.1, (rsCheck (data ++ [0])).2.2] := by
  unfold encodeSector
  simp

theorem encodeSector_det : encodeSector true data
    = (data ++ [0xFF]) ++ [crc16 (data ++ [0xFF]) % 256, crc16 (data ++ [0xFF]) / 256, 0] := by
  unfold encodeSector
  simp

theorem crc16Bits_linear (n : Nat) : XorLinear 65536 (crc16Bits n) := by
  induction n with
  | zero => exact XorLinear.id _
  | succ n ih => exact ih.comp (shiftReg_linear (n := 15) (p := 0x8BB7) (by decide) (by decide))

theorem crc16_check : ByteCheck 16 (fun c b => crc16Bits 8 (c ^^^ b * 256)) (crc16Bits 8) (fun x => crc16Bits 8 (x * 256)) where
  linear := crc16Bits_linear 8
  lt a b ha hb := (crc16Bits_linear 8).lt _ (Nat.xor_lt_two_pow (n := 16) ha (by omega))
  err x hx := (crc16Bits_linear 8).lt _ (by omega)
  carry a e b ha he hb := by
    rw [Nat.xor_right_comm, (crc16Bits_linear 8).xor _ _ (Nat.xor_lt_two_pow (n := 16) ha (by omega)) he]
  byte a b x ha hb hx := by
    have hmul : (b ^^^ x) * 256 = b * 256 ^^^ x * 256 := by
      simpa [Nat.shiftLeft_eq] using Nat.shiftLeft_xor_distrib (a := b) (b := x) (i := 8)
    rw [hmul, ← Nat.xor_assoc, (crc16Bits_linear 8).xor _ _ (Nat.xor_lt_two_pow (n := 16) ha (by omega)) (by omega)]

theorem crc16_lt {bs : List Nat} (hb : ∀ b ∈ bs, b < 256) : crc16 bs < 65536 := crc16_check.foldl_lt (by decide) hb

/-- A wrong byte changes the CRC (R227). -/
theorem crc16_set_ne {bs : List Nat} (hb : ∀ b ∈ bs, b < 256) {i x : Nat} (hi : i < bs.length) (h0 : x ≠ 0) (hx : x < 256) :
    crc16 (bs.set i (bs.getD i 0 ^^^ x)) ≠ crc16 bs := by
  intro h
  have hset := crc16_check.foldl_set (a := 0) (by decide) hb hi hx
  have herr : (crc16Bits 8)^[bs.length - 1 - i] (crc16Bits 8 (x * 256)) = 0 := by
    rw [show bs.foldl _ 0 = crc16 bs from rfl, ← h] at hset
    exact (Nat.xor_right_inj.1 (hset.symm.trans (Nat.xor_zero _).symm) :)
  have hstep := ((crc16Bits_linear 8).iterate _).zero _ ((crc16Bits_linear 8).lt _ (by omega)) herr
  have := (crc16Bits_linear 8).zero _ (by omega) hstep
  omega

section
variable (hd : ∀ b ∈ data, b < 256)
include hd

theorem encodeSector_bytes (det : Bool) : ∀ b ∈ encodeSector det data, b < 256 := by
  cases det
  · obtain ⟨h1, h2, h3⟩ := rsCheck_bytes (data ++ [0])
    rw [encodeSector_cor]
    simp only [List.mem_append, List.mem_cons, List.not_mem_nil, or_false]
    rintro b ((hb | rfl) | rfl | rfl | rfl)
    exacts [hd b hb, by decide, h1, h2, h3]
  · have hc := crc16_lt (bs := data ++ [0xFF]) (by
      simp only [List.mem_append, List.mem_cons, List.not_mem_nil, or_false]
      rintro b (hb | rfl)
      exacts [hd b hb, by decide])
    rw [encodeSector_det]
    simp only [List.mem_append, List.mem_cons, List.not_mem_nil, or_false]
    rintro b ((hb | rfl) | rfl | rfl | rfl)
    exacts [hd b hb, by decide, by omega, by omega, by decide]

theorem gfEval_encodeSector {z : Nat} (hz : rsRoot z) : gfEval z (encodeSector false data) = 0 := by
  rw [encodeSector_cor]
  refine gfEval_rsCheck hz fun b h => encodeSector_bytes hd false b ?_
  rw [encodeSector_cor]
  exact List.mem_append_left _ h

end

variable (hl : data.length = 32)
include hl

theorem encodeSector_length (det : Bool) : (encodeSector det data).length = 36 := by
  cases det
  · simp [encodeSector_cor, hl]
  · simp [encodeSector_det, hl]

theorem encodeSector_take (det : Bool) : (encodeSector det data).take 32 = data := by
  cases det
  · rw [encodeSector_cor, List.append_assoc, List.take_left' hl]
  · rw [encodeSector_det, List.append_assoc, List.take_left' hl]

theorem encodeSector_tag (det : Bool) : (encodeSector det data).getD 32 0 = if det then 0xFF else 0 := by
  cases det <;> simp [encodeSector, hl]

/-- The tag of a sector with one wrong byte. -/
theorem encodeSector_tag_set (det : Bool) {i : Nat} (hi : i < 36) (x : Nat) :
    ((encodeSector det data).set i ((encodeSector det data).getD i 0 ^^^ x)).getD 32 0
      = (if det then 0xFF else 0) ^^^ (if i = 32 then x else 0) := by
  rw [getD_set _ _ _ (by rwa [encodeSector_length hl det])]
  by_cases h : i = 32
  · subst h
    rw [if_pos rfl, if_pos rfl, encodeSector_tag hl det]
  · rw [if_neg (Ne.symm h), if_neg h, Nat.xor_zero, encodeSector_tag hl det]

variable (hd : ∀ b ∈ data, b < 256)
include hd

/-- A stored sector decodes to its data, under the class of its TAG (R225 to R227). -/
theorem decodeSector_encodeSector (det : Bool) : decodeSector (encodeSector det data) = .ok det data := by
  have htag := encodeSector_tag hl det
  have htake := encodeSector_take hl det
  unfold decodeSector
  cases det
  · rw [htag, if_pos (by decide), if_pos ⟨gfEval_encodeSector hd rsRoot_one, gfEval_encodeSector hd rsRoot_two,
      gfEval_encodeSector hd rsRoot_four⟩, htake]
  · have hcrc : (encodeSector true data).take 33 = data ++ [0xFF] := by
      rw [encodeSector_det]
      exact List.take_left' (by simp [hl])
    have h33 : (encodeSector true data).getD 33 0 = crc16 (data ++ [0xFF]) % 256 := by simp [encodeSector_det, hl]
    have h34 : (encodeSector true data).getD 34 0 = crc16 (data ++ [0xFF]) / 256 := by simp [encodeSector_det, hl]
    have h35 : (encodeSector true data).getD 35 0 = 0 := by simp [encodeSector_det, hl]
    rw [htag, if_neg (by decide), hcrc, h33, h34, h35, if_pos ⟨(Nat.mod_add_div _ _).symm, rfl⟩, htake]

/-! ## One wrong byte (R226 to R228) -/

/-- What the syndromes of a COR sector with one wrong byte are. -/
theorem gfEval_set {z : Nat} {M : Nat → Nat} (hz : rsRoot z) (hM : ByteCheck 8 (fun a b => gfMul a z ^^^ b) M id) {i x : Nat}
    (hi : i < 36) (hx : x < 256) :
    gfEval z ((encodeSector false data).set i ((encodeSector false data).getD i 0 ^^^ x)) = M^[35 - i] x := by
  have hlen := encodeSector_length hl false
  unfold gfEval
  rw [hM.foldl_set (by decide) (encodeSector_bytes hd false) (by rwa [hlen]) hx, hlen]
  exact (congrArg (· ^^^ M^[35 - i] x) (gfEval_encodeSector hd hz)).trans (Nat.zero_xor _)

/-- One wrong byte of a COR sector is corrected, the TAG's if at most four of its bits flipped (R226, R228). -/
theorem decodeSector_cor_set {i x : Nat} (hi : i < 36) (h0 : 0 < x) (hx : x < 256) (htag : i ≠ 32 ∨ popcount8 x ≤ 4) :
    decodeSector ((encodeSector false data).set i ((encodeSector false data).getD i 0 ^^^ x)) = .fixed data := by
  have hlen := encodeSector_length hl false
  have h1 : gfEval 1 _ = x := (gfEval_set hl hd rsRoot_one gfEval_one_check hi hx).trans (by rw [Function.iterate_id]; rfl)
  have h2 := gfEval_set hl hd rsRoot_two gfEval_two_check hi hx
  have h4 : gfEval 4 _ = gfX^[35 - i] (gfX^[35 - i] x) := (gfEval_set hl hd rsRoot_four gfEval_four_check hi hx).trans (by
    rw [(Function.Commute.refl gfX).comp_iterate]
    rfl)
  have hfind : (List.range 36).find? (fun j => decide (x ≠ 0) && decide (gfMul x (gfPow (35 - j)) = gfX^[35 - i] x)
      && decide (gfMul (gfX^[35 - i] x) (gfPow (35 - j)) = gfX^[35 - i] (gfX^[35 - i] x))) = some i := by
    refine find?_eq_some_unique (List.mem_range.2 hi) ?_ fun j hj h => ?_
    · simp [h0.ne', gfMul_gfPow _ hx, gfMul_gfPow _ ((gfX_linear.iterate _).lt x hx)]
    · simp only [Bool.and_eq_true, decide_eq_true_eq, gfMul_gfPow _ hx] at h
      have := gfX_iterate_inj hx h0.ne' (by omega) (by omega) h.1.2
      have := List.mem_range.1 hj
      omega
  unfold decodeSector
  rw [encodeSector_tag_set hl false hi x, if_pos (tag_flipped_cor htag)]
  dsimp only
  rw [h1, h2, h4, if_neg (by omega), hfind]
  dsimp only
  rw [getD_set _ _ _ (by rwa [hlen]), if_pos rfl, List.set_set, Nat.xor_assoc, Nat.xor_self, Nat.xor_zero, set_getD,
    encodeSector_take hl false]

/-- One wrong byte of a DET sector is found, the TAG's if at most three of its bits flipped (R227, R228). -/
theorem decodeSector_det_set {i x : Nat} (hi : i < 36) (h0 : 0 < x) (hx : x < 256) (htag : i ≠ 32 ∨ popcount8 x ≤ 3) :
    decodeSector ((encodeSector true data).set i ((encodeSector true data).getD i 0 ^^^ x)) = .det := by
  have hlen := encodeSector_length hl true
  have hget := fun j => getD_set (l := encodeSector true data) j ((encodeSector true data).getD i 0 ^^^ x) 0 (by rwa [hlen] : i < _)
  have hgood := decodeSector_encodeSector hl hd true
  unfold decodeSector at hgood ⊢
  rw [encodeSector_tag hl true, if_neg (by decide)] at hgood
  rw [encodeSector_tag_set hl true hi x, if_neg (tag_flipped_det hx htag)]
  obtain ⟨hcrc, h35⟩ : crc16 ((encodeSector true data).take 33) = (encodeSector true data).getD 33 0
      + 256 * (encodeSector true data).getD 34 0 ∧ (encodeSector true data).getD 35 0 = 0 := by
    by_contra hne
    rw [if_neg hne] at hgood
    cases hgood
  have hflip : ∀ v, v ^^^ x ≠ v := fun v e => h0.ne' (Nat.xor_right_inj.1 (e.trans (Nat.xor_zero v).symm))
  refine if_neg fun ⟨hc, hz⟩ => ?_
  rw [hget, hget] at hc
  rw [hget] at hz
  rw [List.take_set] at hc
  obtain hlow | rfl | rfl | rfl : i < 33 ∨ i = 33 ∨ i = 34 ∨ i = 35 := by omega
  · rw [if_neg (by omega), if_neg (by omega), ← hcrc, ← getD_take hlow] at hc
    refine crc16_set_ne (fun b hb => encodeSector_bytes hd true b (List.mem_of_mem_take hb)) ?_ h0.ne' hx hc
    rw [List.length_take, hlen]
    omega
  · rw [if_pos rfl, if_neg (by decide), List.set_eq_of_length_le (by simp), hcrc] at hc
    exact hflip ((encodeSector true data).getD 33 0) (by omega)
  · rw [if_pos rfl, if_neg (by decide), List.set_eq_of_length_le (by simp), hcrc] at hc
    exact hflip ((encodeSector true data).getD 34 0) (by omega)
  · rw [if_pos rfl] at hz
    exact hflip _ (hz.trans h35.symm)

end

/-! ## The obligation -/

/-- Settles O48: the interleave by its rows, the codes by the linearity of their checks. -/
theorem sectorCodes : Obligations.SectorCodes := by
  unfold Obligations.SectorCodes
  refine ⟨fun s d e hne => ?_, fun q n s hn h0 m hm => ?_, fun data hl hd => ?_, by decide +kernel, fun det => ?_⟩
  · have hn := List.length_pos_iff.2 hne
    exact ⟨State.place_inj hn, State.place_active hn d, State.unplace_place hn d⟩
  · subst hn
    exact State.row_covers h0 q hm
  · exact ⟨encodeSector_length hl false, encodeSector_length hl true, encodeSector_bytes hd false, encodeSector_bytes hd true,
      decodeSector_encodeSector hl hd false, decodeSector_encodeSector hl hd true,
      fun i x hi h0 hx => ⟨decodeSector_cor_set hl hd hi h0 hx, decodeSector_det_set hl hd hi h0 hx⟩⟩
  · refine ⟨(encodeSector det (List.replicate 32 0)).drop 32, ?_, ?_⟩
    · conv_lhs => rw [← List.take_append_drop 32 (encodeSector det _), encodeSector_take (List.length_replicate ..)]
    · rw [show List.replicate 36 0 = encodeSector false (List.replicate 32 0) by decide +kernel,
        decodeSector_encodeSector (List.length_replicate ..) (fun b hb => by rw [List.eq_of_mem_replicate hb]; decide)]

end Sys2Proof.Machine

/-! Stored bytes and the memory-side cache (R218 to R222, Tables 8-2 and 8-3). -/

namespace Sys2Proof.Machine

/-! ## Stored bytes (R224) -/

theorem get_wrStored_from (sk k : Nat) (bs : List Nat) : ∀ (m : List Host.Cell) (n : Nat),
    SMap.get 0 ((bs.zipIdx n).foldl (fun a e => SMap.set 0 a (storedKey sk e.2) (BitVec.ofNat 8 e.1)) m) k
      = if storedKey sk n ≤ k ∧ k < storedKey sk (n + bs.length) then BitVec.ofNat 8 (bs.getD (k - storedKey sk n) 0) else SMap.get 0 m k := by
  induction bs with
  | nil => exact fun m n => (if_neg (by simp)).symm
  | cons b bs ih =>
    intro m n
    rw [List.zipIdx_cons, List.foldl_cons, ih, SMap.get_set, List.length_cons]
    unfold storedKey
    obtain hlt | rfl | hgt := Nat.lt_trichotomy k (sk * 36 + n)
    · rw [if_neg (by omega), if_neg (by omega), if_neg (by omega)]
    · rw [if_neg (by omega), if_pos rfl, if_pos (by omega), Nat.sub_self]
      rfl
    · by_cases hin : k < sk * 36 + (n + (bs.length + 1))
      · rw [if_pos (by omega), if_pos (by omega), show k - (sk * 36 + n) = k - (sk * 36 + (n + 1)) + 1 by omega, List.getD_cons_succ]
      · rw [if_neg (by omega), if_neg (by omega), if_neg (by omega)]

/-- A byte after stored bytes were written: one of them, or what it was. -/
theorem get_wrStored (m : List Host.Cell) (sk k : Nat) (bs : List Nat) : SMap.get 0 (wrStored m sk bs) k
    = if storedKey sk 0 ≤ k ∧ k < storedKey sk bs.length then BitVec.ofNat 8 (bs.getD (k - storedKey sk 0) 0) else SMap.get 0 m k := by
  have h := get_wrStored_from sk k bs m 0
  rw [Nat.zero_add] at h
  exact h

theorem rdStored_congr {m m' : List Host.Cell} {sk : Nat} (h : ∀ i, i < 36 → SMap.get 0 m (storedKey sk i) = SMap.get 0 m' (storedKey sk i)) :
    rdStored m sk = rdStored m' sk :=
  List.map_congr_left fun i hi => congrArg BitVec.toNat (h i (List.mem_range.1 hi))

theorem rdStored_length (m : List Host.Cell) (sk : Nat) : (rdStored m sk).length = 36 := by
  unfold rdStored
  rw [List.length_map, List.length_range]

theorem rdStored_bytes (m : List Host.Cell) (sk : Nat) : ∀ b ∈ rdStored m sk, b < 256 := fun b hb => by
  obtain ⟨i, -, rfl⟩ := List.mem_map.1 hb
  exact BitVec.isLt _

section
variable {m : List Host.Cell} {sk : Nat} {bs : List Nat}

/-- A stored sector reads what was written. -/
theorem rdStored_wrStored_same (hl : bs.length = 36) (hb : ∀ b ∈ bs, b < 256) : rdStored (wrStored m sk bs) sk = bs := by
  show (List.range 36).map _ = bs
  refine List.ext_getElem (by rw [List.length_map, List.length_range, hl]) fun i hi hi' => ?_
  have hbyte : bs[i] < 256 := hb _ (List.getElem_mem hi')
  rw [List.getElem_map, List.getElem_range, get_wrStored, if_pos (by unfold storedKey; omega),
    show storedKey sk i - storedKey sk 0 = i by unfold storedKey; omega, List.getD_eq_getElem _ _ hi', BitVec.toNat_ofNat,
    Nat.mod_eq_of_lt hbyte]

theorem rdStored_wrStored_other {sk' : Nat} (hl : bs.length = 36) (hk : sk' ≠ sk) : rdStored (wrStored m sk bs) sk' = rdStored m sk' :=
  rdStored_congr fun i hi => by
    rw [get_wrStored, if_neg]
    unfold storedKey
    omega

/-- A sector copied from other stored bytes reads as it did there. -/
theorem rdStored_copied {m' : List Host.Cell} {sk' : Nat} : rdStored (wrStored m sk (rdStored m' sk')) sk = rdStored m' sk' :=
  rdStored_wrStored_same (rdStored_length _ _) (rdStored_bytes _ _)

theorem rdStored_delStored_other {sk' : Nat} (hk : sk' ≠ sk) : rdStored (delStored m sk) sk' = rdStored m sk' := by
  unfold delStored
  have key : ∀ (l : List Nat) (a : List Host.Cell), (∀ j ∈ l, j < 36) →
      rdStored (l.foldl (fun a i => SMap.set 0 a (storedKey sk i) 0) a) sk' = rdStored a sk' := by
    intro l
    induction l with
    | nil => exact fun _ _ => rfl
    | cons j l ih =>
      intro a hl
      obtain ⟨hj, hl⟩ := List.forall_mem_cons.1 hl
      refine (ih _ hl).trans (rdStored_congr fun i hi => ?_)
      rw [SMap.get_set, if_neg]
      unfold storedKey
      omega
  exact key _ _ fun j hj => List.mem_range.1 hj

end

/-! ## The copy an access sees -/

/-- Sector `sec` of line `k` is valid in the cache; it is dirty there. -/
def Mem.validAt (m : Mem) (k sec : Nat) : Bool := match m.line k with
  | some l => bit l.valid sec
  | none => false

def Mem.dirtyAt (m : Mem) (k sec : Nat) : Bool := match m.line k with
  | some l => bit l.dirty sec
  | none => false

/-- The stored sector an access to sector `sec` of line `k` sees. -/
def Mem.seenAt (m : Mem) (k sec : Nat) : List Nat := if m.validAt k sec then rdStored m.cbytes (k * 8 + sec) else rdStored m.hbm (k * 8 + sec)

/-- The cache agrees with HBM on sector `sec` of line `k`. -/
def Mem.soundAt (m : Mem) (k sec : Nat) : Prop :=
  (m.dirtyAt k sec = true → m.validAt k sec = true)
  ∧ (m.validAt k sec = true → m.dirtyAt k sec = false → rdStored m.cbytes (k * 8 + sec) = rdStored m.hbm (k * 8 + sec))

theorem Mem.sector_eq_seenAt (m : Mem) (ch q sec : Nat) : m.sector ch q sec = m.seenAt (lineKey ch q) sec := by
  unfold Mem.sector Mem.seenAt Mem.validAt sectorKey
  cases m.line (lineKey ch q) <;> rfl

theorem Mem.coherent_iff (m : Mem) : m.coherent ↔ ∀ k sec, sec < 8 → m.soundAt k sec := by
  unfold Mem.coherent Mem.soundAt Mem.validAt Mem.dirtyAt
  refine ⟨fun h k sec hs => ?_, fun h k l hl sec hs => ?_⟩
  · split
    · exact h k _ ‹_› sec hs
    · exact ⟨nofun, nofun⟩
  · have := h k sec hs
    rwa [hl] at this

theorem Mem.validAt_some {m : Mem} {k : Nat} {l : Line} (h : m.line k = some l) (sec : Nat) : m.validAt k sec = bit l.valid sec := by
  unfold Mem.validAt
  rw [h]

theorem Mem.dirtyAt_some {m : Mem} {k : Nat} {l : Line} (h : m.line k = some l) (sec : Nat) : m.dirtyAt k sec = bit l.dirty sec := by
  unfold Mem.dirtyAt
  rw [h]

theorem Mem.validAt_none {m : Mem} {k : Nat} (h : m.line k = none) (sec : Nat) : m.validAt k sec = false := by
  unfold Mem.validAt
  rw [h]

theorem Mem.dirtyAt_none {m : Mem} {k : Nat} (h : m.line k = none) (sec : Nat) : m.dirtyAt k sec = false := by
  unfold Mem.dirtyAt
  rw [h]

theorem Mem.soundAt_none {m : Mem} {k : Nat} (h : m.line k = none) (sec : Nat) : m.soundAt k sec := by
  unfold Mem.soundAt
  rw [Mem.validAt_none h, Mem.dirtyAt_none h]
  exact ⟨nofun, nofun⟩

theorem lineKey_inj {c q c' q' : Nat} (hq : q < 2 ^ 25) (hq' : q' < 2 ^ 25) (h : lineKey c q = lineKey c' q') : c = c' ∧ q = q' := by
  unfold lineKey at h
  omega

/-- Memory `m'` shows every sector as `m` does, but for one at most, and agrees with HBM wherever `m` does. -/
structure Mem.keeps (m' m : Mem) (but : Option (Nat × Nat)) : Prop where
  combs : m'.combs = m.combs
  seen : ∀ k sec, sec < 8 → but ≠ some (k, sec) → m'.seenAt k sec = m.seenAt k sec
  sound : ∀ k sec, sec < 8 → but ≠ some (k, sec) → m.soundAt k sec → m'.soundAt k sec

theorem Mem.keeps_refl (m : Mem) (but : Option (Nat × Nat)) : m.keeps m but := ⟨rfl, fun _ _ _ _ => rfl, fun _ _ _ _ h => h⟩

theorem Mem.keeps.trans {m m' m'' : Mem} {but : Option (Nat × Nat)} (h : m''.keeps m' but) (h' : m'.keeps m but) : m''.keeps m but where
  combs := h.combs.trans h'.combs
  seen k sec hs hb := (h.seen k sec hs hb).trans (h'.seen k sec hs hb)
  sound k sec hs hb hm := h.sound k sec hs hb (h'.sound k sec hs hb hm)

theorem Mem.keeps.weaken {m m' : Mem} (h : m'.keeps m none) (but : Option (Nat × Nat)) : m'.keeps m but :=
  ⟨h.combs, fun k sec hs _ => h.seen k sec hs nofun, fun k sec hs _ => h.sound k sec hs nofun⟩

/-- If the one sector shows the same too and agrees with HBM, all do. -/
theorem Mem.keeps.all {m m' : Mem} {k sec : Nat} (h : m'.keeps m (some (k, sec))) (hseen : m'.seenAt k sec = m.seenAt k sec)
    (hsound : m.soundAt k sec → m'.soundAt k sec) : m'.keeps m none := by
  refine ⟨h.combs, fun j i hi _ => ?_, fun j i hi _ => ?_⟩ <;> by_cases e : (k, sec) = (j, i)
  · cases e; exact hseen
  · exact h.seen j i hi fun e' => e (Option.some.inj e')
  · cases e; exact hsound
  · exact h.sound j i hi fun e' => e (Option.some.inj e')

/-- Steps that each show every sector as before, one after the other. -/
theorem Mem.keeps_foldl {α : Type} {f : Mem → α → Mem} {P : Mem → Prop} (hP : ∀ u x, P u → P (f u x)) :
    ∀ {xs : List α} {m : Mem}, (∀ u, ∀ x ∈ xs, P u → (f u x).keeps u none) → P m → (xs.foldl f m).keeps m none
  | [], m, _, _ => m.keeps_refl _
  | x :: _, m, h, hm => (Mem.keeps_foldl hP (fun u y hy => h u y (List.mem_cons_of_mem _ hy)) (hP m x hm)).trans
      (h m x List.mem_cons_self hm)

theorem Mem.keeps.coherent {m m' : Mem} (h : m'.keeps m none) (hm : m.coherent) : m'.coherent :=
  m'.coherent_iff.2 fun k sec hs => h.sound k sec hs nofun (m.coherent_iff.1 hm k sec hs)

theorem Mem.keeps.sectorsKept {m m' : Mem} (h : m'.keeps m none) : m'.sectorsKept m none := fun ch q sec _ hs _ => by
  rw [Mem.sector_eq_seenAt, Mem.sector_eq_seenAt, h.seen _ _ hs nofun]

theorem Mem.keeps.sectorsKept_but {m m' : Mem} {ch q sec : Nat} (h : m'.keeps m (some (lineKey ch q, sec))) (hq : q < 2 ^ 25) :
    m'.sectorsKept m (some (ch, q, sec)) := fun ch' q' sec' hq' hs' hne => by
  rw [Mem.sector_eq_seenAt, Mem.sector_eq_seenAt, h.seen _ _ hs' fun e => hne ?_]
  injection e with e
  injection e with e1 e2
  obtain ⟨rfl, rfl⟩ := lineKey_inj hq hq' e1
  rw [e2]

/-- What is stored and marked at a sector decides what is seen there, and whether the cache agrees with HBM. -/
theorem Mem.at_congr {m m' : Mem} {k sec : Nat} (hv : m'.validAt k sec = m.validAt k sec) (hd : m'.dirtyAt k sec = m.dirtyAt k sec)
    (hc : rdStored m'.cbytes (k * 8 + sec) = rdStored m.cbytes (k * 8 + sec))
    (hh : rdStored m'.hbm (k * 8 + sec) = rdStored m.hbm (k * 8 + sec)) :
    m'.seenAt k sec = m.seenAt k sec ∧ (m.soundAt k sec → m'.soundAt k sec) := by
  unfold Mem.seenAt Mem.soundAt
  rw [hv, hd, hc, hh]
  exact ⟨rfl, id⟩

/-! ## Marks -/

theorem Mem.line_ins (m : Mem) (k j : Nat) (l : Line) (c : Nat) :
    Mem.line { m with lines := SMap.ins m.lines k l, clock := c } j = if j = k then some l else m.line j := SMap.look_ins _ _ _ _

/-- Lines that mark the same sectors, over the same bytes, show the same. -/
theorem Mem.keeps_relined {m : Mem} {k : Nat} {l : Line} {but : Option (Nat × Nat)} (c : Nat)
    (hv : ∀ i, but ≠ some (k, i) → bit l.valid i = m.validAt k i) (hd : ∀ i, but ≠ some (k, i) → bit l.dirty i = m.dirtyAt k i) :
    Mem.keeps { m with lines := SMap.ins m.lines k l, clock := c } m but := by
  have hline := fun j => m.line_ins k j l c
  have hvalid : ∀ j i, but ≠ some (j, i) → Mem.validAt { m with lines := SMap.ins m.lines k l, clock := c } j i = m.validAt j i := by
    intro j i hb
    by_cases hj : j = k
    · subst hj
      rw [Mem.validAt_some ((hline j).trans (if_pos rfl)), hv i hb]
    · unfold Mem.validAt
      rw [hline, if_neg hj]
  have hdirty : ∀ j i, but ≠ some (j, i) → Mem.dirtyAt { m with lines := SMap.ins m.lines k l, clock := c } j i = m.dirtyAt j i := by
    intro j i hb
    by_cases hj : j = k
    · subst hj
      rw [Mem.dirtyAt_some ((hline j).trans (if_pos rfl)), hd i hb]
    · unfold Mem.dirtyAt
      rw [hline, if_neg hj]
  exact ⟨rfl, fun j i _ hb => (Mem.at_congr (hvalid j i hb) (hdirty j i hb) rfl rfl).1,
    fun j i _ hb => (Mem.at_congr (hvalid j i hb) (hdirty j i hb) rfl rfl).2⟩

/-- A line whose valid and dirty bits stay, whatever its other marks, keeps what is seen. -/
theorem Mem.keeps_marked {m : Mem} {k : Nat} {l l' : Line} (c : Nat) (hl : m.line k = some l) (hv : l'.valid = l.valid)
    (hd : l'.dirty = l.dirty) : Mem.keeps { m with lines := SMap.ins m.lines k l', clock := c } m none :=
  Mem.keeps_relined c (fun i _ => by rw [hv, Mem.validAt_some hl]) (fun i _ => by rw [hd, Mem.dirtyAt_some hl])

theorem Mem.unkeep_some {m : Mem} {k : Nat} {l : Line} (h : m.line k = some l) :
    m.unkeep k = { m with lines := SMap.ins m.lines k { l with keep := false }, clock := m.clock } := by
  unfold Mem.unkeep
  rw [h]

theorem Mem.unkeep_none {m : Mem} {k : Nat} (h : m.line k = none) : m.unkeep k = m := by
  unfold Mem.unkeep
  rw [h]

theorem Mem.keeps_unkeep (m : Mem) (k : Nat) : (m.unkeep k).keeps m none := by
  cases h : m.line k with
  | none => rw [Mem.unkeep_none h]; exact m.keeps_refl _
  | some l => rw [Mem.unkeep_some h]; exact Mem.keeps_marked _ h rfl rfl

theorem lru_mem : ∀ {l : List (Nat × Line)} {v : Nat}, lru l = some v → ∃ e ∈ l, e.1 = v
  | [e], v, h => ⟨e, List.mem_singleton_self e, Option.some.inj h⟩
  | e :: f :: es, v, h => by
    rw [lru] at h
    · cases hes : lru (f :: es) with
      | none =>
        rw [hes] at h
        exact ⟨e, List.mem_cons_self, Option.some.inj h⟩
      | some w =>
        rw [hes] at h
        dsimp only at h
        split at h
        · exact ⟨e, List.mem_cons_self, Option.some.inj h⟩
        · obtain ⟨x, hx, rfl⟩ := lru_mem hes
          exact ⟨x, List.mem_cons_of_mem _ hx, Option.some.inj h⟩
    · exact List.cons_ne_nil _ _

/-- The other line that an access under KEEP takes the mark from, if it takes one (R221). -/
def Mem.unmark (m : Mem) (k : Nat) (keep : Bool) (l : Line) : Mem :=
  let others := (m.setLines k).filter fun e => e.2.keep && decide (e.1 ≠ k)
  if keep && !l.keep && decide (12 ≤ others.length) then
    match lru others with
    | some v => m.unkeep v
    | none => m
  else m

theorem Mem.touch_some {m : Mem} {k : Nat} {l : Line} (keep : Bool) (h : m.line k = some l) : m.touch k keep
    = { m.unmark k keep l with lines := SMap.ins (m.unmark k keep l).lines k { l with keep := keep, used := (m.unmark k keep l).clock },
                               clock := (m.unmark k keep l).clock + 1 } := by
  unfold Mem.touch
  rw [h]
  rfl

theorem Mem.keeps_unmark (m : Mem) (k : Nat) (keep : Bool) (l : Line) : (m.unmark k keep l).keeps m none := by
  unfold Mem.unmark
  dsimp only
  split
  · split
    exacts [m.keeps_unkeep _, m.keeps_refl _]
  · exact m.keeps_refl _

/-- The accessed line is not the one that loses its mark. -/
theorem Mem.line_unmark (m : Mem) (k : Nat) (keep : Bool) (l : Line) : (m.unmark k keep l).line k = m.line k := by
  unfold Mem.unmark
  dsimp only
  split
  · split
    · rename_i v hv
      obtain ⟨e, he, rfl⟩ := lru_mem hv
      have hne : e.1 ≠ k := by
        have := (List.mem_filter.1 he).2
        simp only [Bool.and_eq_true, decide_eq_true_eq] at this
        exact this.2
      cases hl : m.line e.1 with
      | none => rw [Mem.unkeep_none hl]
      | some lv => rw [Mem.unkeep_some hl, Mem.line_ins, if_neg hne.symm]
    · rfl
  · rfl

theorem Mem.keeps_touch (m : Mem) (k : Nat) (keep : Bool) : (m.touch k keep).keeps m none := by
  cases h : m.line k with
  | none =>
    unfold Mem.touch
    rw [h]
    exact m.keeps_refl _
  | some l =>
    rw [Mem.touch_some keep h]
    refine Mem.keeps.trans (m' := m.unmark k keep l) ?_ (m.keeps_unmark k keep l)
    exact Mem.keeps_marked _ ((m.line_unmark k keep l).trans h) rfl rfl

/-! ## Evictions (R220, R221) -/

/-- The sectors `is` of line `k` that are dirty by the bits `d`, written back to HBM. -/
def Mem.writeBacks (m : Mem) (k d : Nat) (is : List Nat) : Mem :=
  is.foldl (fun a i => if bit d i then a.writeBack1 k i else a) m

theorem Mem.writeBacks_frame (k d : Nat) (is : List Nat) (m : Mem) :
    (m.writeBacks k d is).cbytes = m.cbytes ∧ (m.writeBacks k d is).lines = m.lines ∧ (m.writeBacks k d is).combs = m.combs
      ∧ (m.writeBacks k d is).clock = m.clock :=
  foldl_prop (P := fun x : Mem => x.cbytes = m.cbytes ∧ x.lines = m.lines ∧ x.combs = m.combs ∧ x.clock = m.clock)
    (fun u i hu => by split; exacts [hu, hu]) ⟨rfl, rfl, rfl, rfl⟩

/-- HBM holds the cached copy of each sector written back, and of the others what it held. -/
theorem Mem.writeBacks_hbm (k d : Nat) {j i : Nat} (hi : i < 8) {is : List Nat} (his : ∀ x ∈ is, x < 8) (m : Mem) :
    rdStored (m.writeBacks k d is).hbm (j * 8 + i)
      = if j = k ∧ i ∈ is ∧ bit d i = true then rdStored m.cbytes (k * 8 + i) else rdStored m.hbm (j * 8 + i) := by
  induction is generalizing m with
  | nil => exact (if_neg fun h => List.not_mem_nil h.2.1).symm
  | cons x is ih =>
    obtain ⟨hx, his⟩ := List.forall_mem_cons.1 his
    show rdStored (Mem.writeBacks (if bit d x then m.writeBack1 k x else m) k d is).hbm _ = _
    rw [ih his]
    by_cases hd : bit d x = true
    · rw [if_pos hd]
      show (if _ then rdStored m.cbytes _ else rdStored (wrStored m.hbm (k * 8 + x) (rdStored m.cbytes (k * 8 + x))) (j * 8 + i)) = _
      by_cases hjx : j = k ∧ i = x
      · obtain ⟨rfl, rfl⟩ := hjx
        rw [rdStored_copied, ite_self, if_pos ⟨rfl, List.mem_cons_self, hd⟩]
      · rw [rdStored_wrStored_other (rdStored_length _ _) (by omega)]
        refine if_congr ?_ rfl rfl
        rw [List.mem_cons]
        tauto
    · rw [if_neg hd]
      refine if_congr ?_ rfl rfl
      rw [List.mem_cons]
      constructor
      · exact fun ⟨h1, h2, h3⟩ => ⟨h1, .inr h2, h3⟩
      · rintro ⟨h1, rfl | h2, h3⟩
        exacts [absurd h3 hd, ⟨h1, h2, h3⟩]

theorem Mem.writeBack_none {m : Mem} {k : Nat} (h : m.line k = none) : m.writeBack k = m := by
  unfold Mem.writeBack
  rw [h]

theorem Mem.writeBack_some {m : Mem} {k : Nat} {l : Line} (h : m.line k = some l) : m.writeBack k
    = { m.writeBacks k l.dirty (List.range 8) with
        lines := SMap.ins (m.writeBacks k l.dirty (List.range 8)).lines k { l with dirty := 0 } } := by
  simp only [Mem.writeBack, Mem.writeBacks, h]

theorem Mem.drop_line (m : Mem) (k j : Nat) : (m.drop k).line j = if j = k then none else m.line j := SMap.look_del _ _ _

theorem Mem.drop_hbm (m : Mem) (k : Nat) : (m.drop k).hbm = m.hbm := by unfold Mem.drop; rfl
theorem Mem.drop_combs (m : Mem) (k : Nat) : (m.drop k).combs = m.combs := by unfold Mem.drop; rfl

theorem Mem.drop_cbytes (m : Mem) {k j i : Nat} (hi : i < 8) (hj : j ≠ k) :
    rdStored (m.drop k).cbytes (j * 8 + i) = rdStored m.cbytes (j * 8 + i) := by
  have key : ∀ (is : List Nat) (a : List Host.Cell), (∀ x ∈ is, x < 8) →
      rdStored (is.foldl (fun a i => delStored a (k * 8 + i)) a) (j * 8 + i) = rdStored a (j * 8 + i) := by
    intro is
    induction is with
    | nil => exact fun _ _ => rfl
    | cons x is ih =>
      intro a his
      obtain ⟨hx, his⟩ := List.forall_mem_cons.1 his
      rw [List.foldl_cons, ih _ his, rdStored_delStored_other (by omega)]
  unfold Mem.drop
  dsimp only
  exact key (List.range 8) m.cbytes fun x hx => List.mem_range.1 hx

/-- An eviction ends with the line gone, its dirty sectors in HBM, and every other sector's bytes kept. -/
theorem Mem.evict_spec (m : Mem) (k : Nat) :
    (m.evict k).combs = m.combs ∧ (∀ j, (m.evict k).line j = if j = k then none else m.line j)
    ∧ (∀ j i, i < 8 → j ≠ k → rdStored (m.evict k).cbytes (j * 8 + i) = rdStored m.cbytes (j * 8 + i))
    ∧ ∀ j i, i < 8 → rdStored (m.evict k).hbm (j * 8 + i)
        = if j = k ∧ m.dirtyAt k i = true then rdStored m.cbytes (k * 8 + i) else rdStored m.hbm (j * 8 + i) := by
  unfold Mem.evict
  cases h : m.line k with
  | none =>
    rw [Mem.writeBack_none h]
    refine ⟨m.drop_combs k, m.drop_line k, fun j i hi hj => m.drop_cbytes hi hj, fun j i hi => ?_⟩
    rw [Mem.dirtyAt_none h, if_neg (by simp), Mem.drop_hbm]
  | some l =>
    obtain ⟨hc, hl, hm, -⟩ := Mem.writeBacks_frame k l.dirty (List.range 8) m
    rw [Mem.writeBack_some h]
    refine ⟨(Mem.drop_combs _ k).trans hm, fun j => ?_, fun j i hi hj => ?_, fun j i hi => ?_⟩
    · rw [Mem.drop_line]
      by_cases hj : j = k
      · rw [if_pos hj, if_pos hj]
      · rw [if_neg hj, if_neg hj]
        unfold Mem.line
        rw [SMap.look_ins, if_neg hj, hl]
    · rw [Mem.drop_cbytes _ hi hj]
      dsimp only
      rw [hc]
    · rw [Mem.dirtyAt_some h, Mem.drop_hbm]
      dsimp only
      refine (Mem.writeBacks_hbm k l.dirty hi (fun x hx => List.mem_range.1 hx) m).trans (if_congr ?_ rfl rfl)
      exact ⟨fun ⟨h1, _, h3⟩ => ⟨h1, h3⟩, fun ⟨h1, h3⟩ => ⟨h1, List.mem_range.2 hi, h3⟩⟩

theorem Mem.evict_line (m : Mem) (k j : Nat) : (m.evict k).line j = if j = k then none else m.line j := (m.evict_spec k).2.1 j

/-- Where the cache agrees with HBM an eviction changes nothing that is seen (R220). -/
theorem Mem.keeps_evict {m : Mem} (hm : m.coherent) (k : Nat) : (m.evict k).keeps m none := by
  obtain ⟨hcombs, hline, hcb, hhbm⟩ := m.evict_spec k
  have hother : ∀ j i, i < 8 → j ≠ k → (m.evict k).seenAt j i = m.seenAt j i ∧ (m.soundAt j i → (m.evict k).soundAt j i) := by
    intro j i hi hj
    have hlj := (hline j).trans (if_neg hj)
    refine Mem.at_congr ?_ ?_ (hcb j i hi hj) ((hhbm j i hi).trans (if_neg fun h => hj h.1))
    · unfold Mem.validAt; rw [hlj]
    · unfold Mem.dirtyAt; rw [hlj]
  have hgone : (m.evict k).line k = none := (hline k).trans (if_pos rfl)
  refine ⟨hcombs, fun j i hi _ => ?_, fun j i hi _ hs => ?_⟩
  · by_cases hj : j = k
    · subst hj
      obtain ⟨hdv, hclean⟩ := m.coherent_iff.1 hm j i hi
      unfold Mem.seenAt
      rw [Mem.validAt_none hgone, if_neg (by decide), hhbm j i hi]
      cases hd : m.dirtyAt j i with
      | true => rw [if_pos ⟨rfl, rfl⟩, if_pos (hdv hd)]
      | false =>
        rw [if_neg (by simp)]
        cases hv : m.validAt j i with
        | true => rw [if_pos rfl, hclean hv hd]
        | false => rw [if_neg (by decide)]
    · exact (hother j i hi hj).1
  · by_cases hj : j = k
    · subst hj
      exact Mem.soundAt_none hgone i
    · exact (hother j i hi hj).2 hs

/-- The memory with room made for line `k` (R221). -/
def Mem.roomFor (m : Mem) (k : Nat) (keep : Bool) : Mem :=
  let ls := m.setLines k
  let keeps := ls.filter fun e => e.2.keep
  if keep && decide (12 ≤ keeps.length) then
    match lru keeps with
    | some v => m.evict v
    | none => m
  else if ls.length < 16 then m
  else
    let plain := ls.filter fun e => !e.2.keep
    match lru (if plain.isEmpty then ls else plain) with
    | some v => m.evict v
    | none => m

theorem Mem.alloc_eq (m : Mem) (k : Nat) (keep : Bool) : m.alloc k keep = { m.roomFor k keep with
    lines := SMap.ins (m.roomFor k keep).lines k { valid := 0, dirty := 0, keep := keep, used := (m.roomFor k keep).clock },
    clock := (m.roomFor k keep).clock + 1 } := rfl

/-- Room is made by at most one eviction. -/
theorem Mem.roomFor_cases (m : Mem) (k : Nat) (keep : Bool) : m.roomFor k keep = m ∨ ∃ v, m.roomFor k keep = m.evict v := by
  have hvictim : ∀ o : Option Nat, (match o with | some v => m.evict v | none => m) = m
      ∨ ∃ v, (match o with | some v => m.evict v | none => m) = m.evict v := fun o => by
    cases o with
    | none => exact .inl rfl
    | some v => exact .inr ⟨v, rfl⟩
  unfold Mem.roomFor
  dsimp only
  split
  · exact hvictim _
  · split
    exacts [.inl rfl, hvictim _]

theorem Mem.keeps_roomFor {m : Mem} (hm : m.coherent) (k : Nat) (keep : Bool) : (m.roomFor k keep).keeps m none := by
  obtain h | ⟨v, h⟩ := m.roomFor_cases k keep <;> rw [h]
  exacts [m.keeps_refl _, Mem.keeps_evict hm _]

theorem Mem.line_roomFor {m : Mem} {k : Nat} (hk : m.line k = none) (keep : Bool) : (m.roomFor k keep).line k = none := by
  obtain h | ⟨v, h⟩ := m.roomFor_cases k keep <;> rw [h]
  · exact hk
  · rw [Mem.evict_line, hk, ite_self]

theorem bit_none (i : Nat) : bit 0 i = false := by
  unfold bit
  simp

/-- A new line holds nothing, so what is seen stays. -/
theorem Mem.keeps_alloc {m : Mem} (hm : m.coherent) {k : Nat} (h : m.line k = none) (keep : Bool) : (m.alloc k keep).keeps m none := by
  rw [Mem.alloc_eq]
  refine Mem.keeps.trans (m' := m.roomFor k keep) ?_ (Mem.keeps_roomFor hm k keep)
  have hnone := Mem.line_roomFor h keep
  exact Mem.keeps_relined _ (fun i _ => (bit_none i).trans (Mem.validAt_none hnone i).symm)
    (fun i _ => (bit_none i).trans (Mem.dirtyAt_none hnone i).symm)

/-! ## One sector stored anew -/

/-- A sector's bytes written to the cache's copy, to HBM's, and to the cache's with the line marked anew. -/
def Mem.wrCached (m : Mem) (k sec : Nat) (bs : List Nat) : Mem := { m with cbytes := wrStored m.cbytes (k * 8 + sec) bs }
def Mem.wrHbm (m : Mem) (k sec : Nat) (bs : List Nat) : Mem := { m with hbm := wrStored m.hbm (k * 8 + sec) bs }
def Mem.recache (m : Mem) (k sec : Nat) (bs : List Nat) (l : Line) : Mem :=
  { m.wrCached k sec bs with lines := SMap.ins m.lines k l, clock := m.clock }

section
variable {m : Mem} {k sec : Nat} {bs : List Nat}

theorem Mem.line_wrCached (j : Nat) : (m.wrCached k sec bs).line j = m.line j := rfl
theorem Mem.line_wrHbm (j : Nat) : (m.wrHbm k sec bs).line j = m.line j := rfl
theorem Mem.line_recache (l : Line) (j : Nat) : (m.recache k sec bs l).line j = if j = k then some l else m.line j := SMap.look_ins _ _ _ _

theorem Mem.validAt_recache (l : Line) (i : Nat) : (m.recache k sec bs l).validAt k i = bit l.valid i :=
  Mem.validAt_some ((Mem.line_recache l k).trans (if_pos rfl)) i

theorem Mem.dirtyAt_recache (l : Line) (i : Nat) : (m.recache k sec bs l).dirtyAt k i = bit l.dirty i :=
  Mem.dirtyAt_some ((Mem.line_recache l k).trans (if_pos rfl)) i

theorem Mem.seenAt_valid (h : m.validAt k sec = true) : m.seenAt k sec = rdStored m.cbytes (k * 8 + sec) := if_pos h
theorem Mem.seenAt_invalid (h : m.validAt k sec = false) : m.seenAt k sec = rdStored m.hbm (k * 8 + sec) := if_neg (by rw [h]; decide)

variable (hs : sec < 8) (hl : bs.length = 36)

section
include hs hl

theorem Mem.keeps_wrCached : (m.wrCached k sec bs).keeps m (some (k, sec)) := by
  have h : ∀ j i, i < 8 → some (k, sec) ≠ some (j, i) → _ := fun j i hi hb =>
    Mem.at_congr (m' := m.wrCached k sec bs) (m := m) (k := j) (sec := i) rfl rfl
      (rdStored_wrStored_other hl (sk := k * 8 + sec) fun e => hb (by rw [show k = j by omega, show sec = i by omega])) rfl
  exact ⟨rfl, fun j i hi hb => (h j i hi hb).1, fun j i hi hb => (h j i hi hb).2⟩

theorem Mem.keeps_wrHbm : (m.wrHbm k sec bs).keeps m (some (k, sec)) := by
  have h : ∀ j i, i < 8 → some (k, sec) ≠ some (j, i) → _ := fun j i hi hb =>
    Mem.at_congr (m' := m.wrHbm k sec bs) (m := m) (k := j) (sec := i) rfl rfl rfl
      (rdStored_wrStored_other hl (sk := k * 8 + sec) fun e => hb (by rw [show k = j by omega, show sec = i by omega]))
  exact ⟨rfl, fun j i hi hb => (h j i hi hb).1, fun j i hi hb => (h j i hi hb).2⟩

/-- A new cached copy whose line marks the other sectors as before leaves those. -/
theorem Mem.keeps_recache {l l' : Line} (hk : m.line k = some l) (hv : ∀ i, i ≠ sec → bit l'.valid i = bit l.valid i)
    (hd : ∀ i, i ≠ sec → bit l'.dirty i = bit l.dirty i) : (m.recache k sec bs l').keeps m (some (k, sec)) := by
  refine Mem.keeps.trans (m' := m.wrCached k sec bs) ?_ (Mem.keeps_wrCached hs hl)
  refine Mem.keeps_relined _ (fun i hi => ?_) fun i hi => ?_
  · rw [hv i fun e => hi (by rw [e]), Mem.validAt_some ((Mem.line_wrCached k).trans hk)]
  · rw [hd i fun e => hi (by rw [e]), Mem.dirtyAt_some ((Mem.line_wrCached k).trans hk)]

end

variable (hb : ∀ b ∈ bs, b < 256)
include hl hb

theorem Mem.seenAt_wrCached (h : m.validAt k sec = true) : (m.wrCached k sec bs).seenAt k sec = bs :=
  (Mem.seenAt_valid (m := m.wrCached k sec bs) h).trans (rdStored_wrStored_same hl hb)

theorem Mem.seenAt_wrHbm (h : m.validAt k sec = false) : (m.wrHbm k sec bs).seenAt k sec = bs :=
  (Mem.seenAt_invalid (m := m.wrHbm k sec bs) h).trans (rdStored_wrStored_same hl hb)

/-- The new copy is the one seen, if its line marks it valid. -/
theorem Mem.seenAt_recache {l : Line} (hv : bit l.valid sec = true) : (m.recache k sec bs l).seenAt k sec = bs :=
  (Mem.seenAt_valid ((Mem.validAt_recache l sec).trans hv)).trans (rdStored_wrStored_same hl hb)

end

/-! ## Fills (R220) -/

theorem bit_setBits_one (v sec i : Nat) : bit (setBits v sec sec 1) i = if i = sec then true else bit v i := by
  rw [bit_setBits v 1 i le_rfl]
  by_cases h : i = sec
  · rw [if_pos ⟨h.ge, h.le⟩, if_pos h, h, Nat.sub_self]
    rfl
  · rw [if_neg fun hc => h (Nat.le_antisymm hc.2 hc.1), if_neg h]

/-- One sector of a present line filled from HBM. -/
def Mem.fill1 (m : Mem) (k sec : Nat) : Mem :=
  match m.line k with
  | some l => if bit l.valid sec then m
              else m.recache k sec (rdStored m.hbm (k * 8 + sec)) { l with valid := setBits l.valid sec sec 1 }
  | none => m

theorem Mem.keeps_fill1 (m : Mem) {k sec : Nat} (hs : sec < 8) : (m.fill1 k sec).keeps m none := by
  unfold Mem.fill1
  cases h : m.line k with
  | none => exact m.keeps_refl _
  | some l =>
    dsimp only
    cases hv : bit l.valid sec with
    | true => exact m.keeps_refl _
    | false =>
      rw [if_neg (by decide)]
      have hset := bit_setBits_one l.valid sec
      have hvalid : bit (setBits l.valid sec sec 1) sec = true := (hset sec).trans (if_pos rfl)
      have hseen := Mem.seenAt_invalid ((Mem.validAt_some h sec).trans hv)
      refine Mem.keeps.all (Mem.keeps_recache hs (rdStored_length _ _) h (fun i hi => (hset i).trans (if_neg hi)) fun _ _ => rfl)
        ((Mem.seenAt_recache (rdStored_length _ _) (rdStored_bytes _ _) hvalid).trans hseen.symm) fun _ => ?_
      exact ⟨fun _ => (Mem.validAt_recache _ sec).trans hvalid, fun _ _ => rdStored_copied⟩

theorem Mem.keeps_fill (m : Mem) (k : Nat) {secs : List Nat} (hs : ∀ sec ∈ secs, sec < 8) : (m.fill k secs).keeps m none :=
  Mem.keeps_foldl (P := fun _ => True) (fun _ _ _ => trivial) (fun u sec h _ => u.keeps_fill1 (hs sec h)) trivial

/-- A read under any hint but LAST shows every sector as before (Table 8-2). -/
theorem Mem.keeps_afterRead {m : Mem} {k : Nat} {secs : List Nat} {h : Hint} (hm : m.line k = none → m.coherent) (hh : h ≠ .last)
    (hs : ∀ sec ∈ secs, sec < 8) : (m.afterRead k secs h).keeps m none := by
  unfold Mem.afterRead
  split
  · exact (Mem.keeps_fill _ k hs).trans (m.keeps_touch k false)
  · exact (Mem.keeps_fill _ k hs).trans (Mem.keeps_alloc (hm ‹_›) ‹_› false)
  · exact (Mem.keeps_fill _ k hs).trans (m.keeps_touch k true)
  · exact (Mem.keeps_fill _ k hs).trans (Mem.keeps_alloc (hm ‹_›) ‹_› true)
  · exact m.keeps_refl _
  · exact absurd rfl hh
  · exact absurd rfl hh

/-! ## Whole-sector writes (R220) -/

/-- A whole sector written into a present line, or to HBM past an absent one. -/
def Mem.store (m : Mem) (k sec : Nat) (bs : List Nat) : Mem :=
  match m.line k with
  | some l => m.recache k sec bs { l with valid := setBits l.valid sec sec 1, dirty := setBits l.dirty sec sec 1 }
  | none => m.wrHbm k sec bs

/-- The memory with line `k` as a write under a hint finds it (Table 8-2). -/
def Mem.prepare (m : Mem) (k : Nat) (h : Hint) : Mem := match h, m.line k with
  | .normal, some _ => m.touch k false
  | .normal, none => m.alloc k false
  | .keep, some _ => m.touch k true
  | .keep, none => m.alloc k true
  | .stream, _ => m
  | .last, _ => m.unkeep k

theorem Mem.putSector_eq (m : Mem) (k sec : Nat) (bs : List Nat) (h : Hint) : m.putSector k sec bs h = (m.prepare k h).store k sec bs := by
  unfold Mem.putSector Mem.prepare
  cases h <;> cases m.line k <;> rfl

theorem Mem.keeps_prepare {m : Mem} (hm : m.coherent) (k : Nat) (h : Hint) : (m.prepare k h).keeps m none := by
  unfold Mem.prepare
  split
  · exact m.keeps_touch k false
  · exact Mem.keeps_alloc hm ‹_› false
  · exact m.keeps_touch k true
  · exact Mem.keeps_alloc hm ‹_› true
  · exact m.keeps_refl _
  · exact m.keeps_unkeep k

section
variable {m : Mem} {k sec : Nat} {bs : List Nat} (hs : sec < 8) (hl : bs.length = 36) (hb : ∀ b ∈ bs, b < 256)
include hs hl

theorem Mem.keeps_store : (m.store k sec bs).keeps m (some (k, sec)) := by
  unfold Mem.store
  split
  · exact Mem.keeps_recache hs hl ‹_› (fun i hi => (bit_setBits_one _ _ i).trans (if_neg hi))
      fun i hi => (bit_setBits_one _ _ i).trans (if_neg hi)
  · exact Mem.keeps_wrHbm hs hl

omit hs hl in
/-- A stored sector agrees with HBM, or is dirty. -/
theorem Mem.sound_store : (m.store k sec bs).soundAt k sec := by
  unfold Mem.store
  split
  · unfold Mem.soundAt
    rw [Mem.validAt_recache, Mem.dirtyAt_recache, bit_setBits_one, bit_setBits_one, if_pos rfl, if_pos rfl]
    exact ⟨fun _ => rfl, fun _ => nofun⟩
  · exact Mem.soundAt_none ((Mem.line_wrHbm k).trans ‹_›) sec

include hb

omit hs in
theorem Mem.seen_store : (m.store k sec bs).seenAt k sec = bs := by
  unfold Mem.store
  split
  · exact Mem.seenAt_recache hl hb ((bit_setBits_one _ _ _).trans (if_pos rfl))
  · exact Mem.seenAt_wrHbm hl hb (Mem.validAt_none ‹_› sec)

/-- A whole-sector write is what the sector shows, whatever the hint, and no other sector changes (R220). -/
theorem Mem.putSector_spec (hm : m.coherent) (h : Hint) :
    (m.putSector k sec bs h).seenAt k sec = bs ∧ (m.putSector k sec bs h).keeps m (some (k, sec)) ∧ (m.putSector k sec bs h).coherent := by
  rw [Mem.putSector_eq]
  have hkeeps : ((m.prepare k h).store k sec bs).keeps m (some (k, sec)) :=
    (Mem.keeps_store hs hl).trans ((Mem.keeps_prepare hm k h).weaken _)
  refine ⟨Mem.seen_store hl hb, hkeeps, (Mem.coherent_iff _).2 fun j i hi => ?_⟩
  by_cases e : (k, sec) = (j, i)
  · cases e
    exact Mem.sound_store
  · exact hkeeps.sound j i hi (fun e' => e (Option.some.inj e')) (m.coherent_iff.1 hm j i hi)

end

end Sys2Proof.Machine

/-! Accesses to device memory: reads, whole-sector writes and scrubs (R219 to R222, R230, R231). -/

namespace Sys2Proof.Machine

theorem State.onlyRecords_refl (s : State) : s.onlyRecords s := ⟨s.regs, s.events, s.penalty, rfl⟩

theorem State.onlyRecords_bump (s : State) (f : Fld) (i n : Nat) : (s.bump f i n).onlyRecords s :=
  State.onlyRecords_put s.onlyRecords_refl f i _

theorem State.onlyRecords_power {s t : State} (h : t.onlyRecords s) : t.power = s.power := by
  obtain ⟨r, e, p, rfl⟩ := h
  rfl

/-! ## Findings of reads (R409) -/

/-- What a read finds is recorded in registers, events and penalties only. -/
theorem State.noteRead_onlyRecords (s : State) (ch src : Nat) (r : SecRead) : (s.noteRead ch src r).onlyRecords s := by
  have hput : ∀ f n, (s.bump f ch n).onlyRecords s := fun f n => s.onlyRecords_bump f ch n
  cases r with
  | ok det data => exact s.onlyRecords_refl
  | fixed data => exact State.penalise_onlyRecords (hput _ _) _ _ _
  | cor => exact State.onlyRecords_log (State.penalise_onlyRecords (hput _ _) _ _ _) _ _ _
  | det => exact State.onlyRecords_log (State.penalise_onlyRecords (hput _ _) _ _ _) _ _ _

theorem State.noteRead_mem (s : State) (ch src : Nat) (r : SecRead) : (s.noteRead ch src r).mem = s.mem :=
  (State.onlyRecords_parts (s.noteRead_onlyRecords ch src r)).2.2.1

theorem State.foldFor_none {s : State} (h : s.mem.combs = []) (sk : Nat) : s.foldFor sk = s := by
  unfold State.foldFor
  rw [h]
  rfl

/-- A counted event in a register that neither penalties nor events count in. -/
theorem State.counted_penalised (s : State) (f : Fld) {i : Nat} (cls w : Nat) (hf : f.lo ≤ f.hi) (hw : f.hi < f.reg.spec.width)
    (hi : i < 2 ^ 24) (hr : f.reg ≠ .LOGLOST) (hr' : f.reg ≠ .HEALTHFLAG) : ((s.bump f i 1).penalise cls i w).counted s f i := by
  unfold State.counted
  rw [State.get_of_reg (State.reg_penalise _ _ _ _ hi hr hr'), State.get_bump_same _ _ _ _ hf hw]

theorem State.counted_withMem {s t : State} {f : Fld} {i : Nat} (h : t.counted s f i) (m : Mem) : State.counted { t with mem := m } s f i := by
  unfold State.counted at h ⊢
  exact (State.get_congr rfl f i).trans h

/-- A corrected read is counted (R226). -/
theorem State.noteRead_fixed_counted (s : State) {ch : Nat} (src : Nat) (data : List Nat) (hch : ch < 192) :
    (s.noteRead ch src (.fixed data)).counted s F.MCHCNT_CORFIX ch :=
  State.counted_penalised s F.MCHCNT_CORFIX 1 1 (by decide) (by decide) (by omega) (by decide) (by decide)

/-! ## Reads (R219 to R222, R226 to R230) -/

theorem sectorsOf_lt {o n : Nat} (h : o + n ≤ 256) (ho : o < 256) : ∀ sec ∈ sectorsOf o n, sec < 8 := by
  intro sec hsec
  unfold sectorsOf seqFrom ceilDiv at hsec
  obtain ⟨i, hi, rfl⟩ := List.mem_map.1 hsec
  have := List.mem_range.1 hi
  omega

/-- An access within one sector touches that sector. -/
theorem sectorsOf_single {o n : Nat} (hn : 0 < n) (h : o % 32 + n ≤ 32) : sectorsOf o n = [o / 32] := by
  unfold sectorsOf seqFrom ceilDiv
  rw [show (o % 32 + n + 32 - 1) / 32 = 1 by omega]
  simp

section
variable {s : State} {d n : Nat} {h : Hint} {src : Nat}

/-- A read leaves memory as it is, or as Table 8-2 has it for its sectors. -/
theorem State.readGranule_mem (hc : s.mem.combs = []) : (s.readGranule d n h src).1.mem = s.mem
    ∨ (s.readGranule d n h src).1.mem
      = s.mem.afterRead (lineKey (s.place d).1 (s.place d).2.1) (sectorsOf (s.place d).2.2 n) h := by
  have hfold : ∀ l : List Nat, l.foldl (fun u sec => u.foldFor (sectorKey (s.place d).1 (s.place d).2.1 sec)) s = s := fun l =>
    foldl_prop (P := fun u => u = s) (fun u sec hu => by rw [hu]; exact State.foldFor_none hc _) rfl
  have hnote : ∀ l : List (Nat × SecRead), (l.foldl (fun u r => u.noteRead (s.place d).1 src r.2) s).mem = s.mem := fun l =>
    foldl_prop (P := fun u : State => u.mem = s.mem) (fun u r hu => (u.noteRead_mem _ _ _).trans hu) rfl
  unfold State.readGranule
  dsimp only
  split
  · exact .inl rfl
  · rw [hfold]
    split
    · exact .inl (hnote _)
    · exact .inr (congrArg (fun m => Mem.afterRead m _ _ h) (hnote _))

/-- A read under any hint but LAST changes no sector (Table 8-2). -/
theorem State.readGranule_keeps (hm : s.mem.coherent) (hc : s.mem.combs = []) (hh : h ≠ .last) (hd : d % 256 + n ≤ 256) :
    (s.readGranule d n h src).1.mem.keeps s.mem none := by
  obtain e | e := State.readGranule_mem (d := d) (n := n) (h := h) (src := src) hc
  · rw [e]; exact s.mem.keeps_refl _
  · rw [e]; exact Mem.keeps_afterRead (fun _ => hm) hh (sectorsOf_lt hd (Nat.mod_lt _ (by decide)))

/-- The state a read within one sector leaves, when the sector does not fail. -/
theorem State.readGranule_single {r : SecRead} (hc : s.mem.combs = []) (hf : s.stackFenced (s.place d).1 = false) (hn : 0 < n)
    (hd : d % 32 + n ≤ 32) (hr : decodeSector (s.mem.sector (s.place d).1 (s.place d).2.1 ((s.place d).2.2 / 32)) = r)
    (hok : r.fault = none) : s.readGranule d n h src = ({ s.noteRead (s.place d).1 src r with
        mem := s.mem.afterRead (lineKey (s.place d).1 (s.place d).2.1) [(s.place d).2.2 / 32] h },
      .ok (((r.data.map (BitVec.ofNat 8)).drop ((s.place d).2.2 % 32)).take n)) := by
  have hsecs : sectorsOf (s.place d).2.2 n = [(s.place d).2.2 / 32] := sectorsOf_single hn (by
    have : (s.place d).2.2 = d % 256 := rfl
    omega)
  unfold State.readGranule
  dsimp only
  rw [if_neg (by rw [hf]; decide), hsecs]
  simp only [List.foldl_cons, List.foldl_nil, List.map_cons, List.map_nil, State.foldFor_none hc, hr, List.find?_cons, List.find?_nil, hok,
    Option.isSome_none, State.noteRead_mem, List.flatMap_cons, List.flatMap_nil, List.append_nil]

/-! ## Cutting ranges -/

theorem cut_single {u : Nat} (hn : 0 < n) (h : d % u + n ≤ u) : cut u d n = [(d, n)] := by
  have hmin : min n (u - d % u) = n := Nat.min_eq_left (by omega)
  have hpieces : ∀ f, pieces u (f + 2) d n = [(d, n)] := fun f => by
    rw [pieces, if_neg (by omega)]
    dsimp only
    rw [hmin, Nat.sub_self, pieces, if_pos rfl]
  exact hpieces _

/-- A read within one granule. -/
theorem State.devRead_single {hint : Nat} (hn : 0 < n) (hd : d % 256 + n ≤ 256) :
    s.devRead d n hint src = s.readGranule d n (Hint.ofWord hint (s.segHint d)) src := by
  unfold State.devRead
  rw [cut_single hn hd]
  simp only [List.foldl_cons, List.foldl_nil]
  generalize s.readGranule d n _ src = r
  obtain ⟨t, e | bs⟩ := r
  · rfl
  · dsimp only
    rw [List.nil_append]

end

/-! ## Whole-sector writes (R220) -/

theorem bytes_lt (bs : List Byte) : ∀ b ∈ bs.map BitVec.toNat, b < 256 := fun b hb => by
  obtain ⟨x, -, rfl⟩ := List.mem_map.1 hb
  exact x.isLt

section
variable {s : State} {d : Nat} {bs : List Byte} {h : Hint} {det : Bool} {src : Nat}

/-- A write of a whole sector stores it, encoded, and nothing else (R220, R225). -/
theorem State.writeSector_whole (hc : s.mem.combs = []) (hf : s.stackFenced (s.place d).1 = false) (hl : bs.length = 32) :
    s.writeSector d bs h det src = ({ s with
      mem := s.mem.putSector (lineKey (s.place d).1 (s.place d).2.1) ((s.place d).2.2 / 32)
        (encodeSector det (bs.map BitVec.toNat)) h }, none) := by
  unfold State.writeSector
  dsimp only
  rw [if_neg (by rw [hf]; decide), State.foldFor_none hc, if_pos hl]

theorem State.sector_of_place (d : Nat) : (s.place d).2.2 / 32 < 8 := by
  have : (s.place d).2.2 = d % 256 := rfl
  omega

/-- What memory shows after a whole-sector write. -/
theorem State.putSector_placed (hm : s.mem.coherent) (hl : bs.length = 32) (hq : (s.place d).2.1 < 2 ^ 25) :
    let m := s.mem.putSector (lineKey (s.place d).1 (s.place d).2.1) ((s.place d).2.2 / 32) (encodeSector det (bs.map BitVec.toNat)) h
    m.combs = s.mem.combs ∧ m.coherent ∧ m.sector (s.place d).1 (s.place d).2.1 ((s.place d).2.2 / 32) = encodeSector det (bs.map BitVec.toNat)
      ∧ m.sectorsKept s.mem (some ((s.place d).1, (s.place d).2.1, (s.place d).2.2 / 32)) := by
  have hlen : (bs.map BitVec.toNat).length = 32 := by rw [List.length_map, hl]
  obtain ⟨hseen, hkeeps, hcoh⟩ := Mem.putSector_spec (k := lineKey (s.place d).1 (s.place d).2.1) (State.sector_of_place (s := s) d)
    (encodeSector_length hlen det) (encodeSector_bytes (bytes_lt bs) det) hm h
  exact ⟨hkeeps.combs, hcoh, (Mem.sector_eq_seenAt ..).trans hseen, hkeeps.sectorsKept_but hq⟩

end

/-! ## Reading back (R220) -/

section
variable {s : State} {d : Nat} {bs : List Byte} {h : Hint} {det : Bool} {src : Nat}

/-- The bytes of a sector as they were given. -/
theorem map_ofNat_toNat (bs : List Byte) : (bs.map BitVec.toNat).map (BitVec.ofNat 8) = bs := by
  rw [List.map_map]
  exact (List.map_congr_left fun b _ => BitVec.ofNat_toNat 8 b |>.trans (BitVec.setWidth_eq b)).trans (List.map_id bs)

/-- A sector written whole is read back under any hint. -/
theorem State.writeSector_reads (hm : s.mem.coherent) (hc : s.mem.combs = []) (hl : bs.length = 32) (hd : d % 32 = 0)
    (hq : (s.place d).2.1 < 2 ^ 25) (hf : s.stackFenced (s.place d).1 = false) (h' : Hint) (src' : Nat) :
    ((s.writeSector d bs h det src).1.readGranule d 32 h' src').2 = .ok bs := by
  obtain ⟨hcombs, -, hsector, -⟩ := State.putSector_placed (s := s) (d := d) (bs := bs) (h := h) (det := det) hm hl hq
  have hlen : (bs.map BitVec.toNat).length = 32 := by rw [List.length_map, hl]
  have ho : (s.place d).2.2 % 32 = 0 := by
    have : (s.place d).2.2 = d % 256 := rfl
    omega
  rw [State.writeSector_whole hc hf hl]
  generalize s.mem.putSector _ _ _ h = m at *
  rw [State.readGranule_single (s := { s with mem := m }) (r := .ok det (bs.map BitVec.toNat)) (hcombs.trans hc) hf (by decide)
    (by omega) ((congrArg decodeSector hsector).trans (decodeSector_encodeSector hlen (bytes_lt bs) det)) rfl]
  refine congrArg Except.ok ?_
  rw [show (State.place { s with mem := m } d).2.2 % 32 = 0 from ho, List.drop_zero]
  exact (List.take_of_length_le (by rw [List.length_map]; exact hlen.le)).trans (map_ofNat_toNat bs)

end

/-! ## Accesses at a slice (R219, R230) -/

section
variable {s : State} {a n hint src : Nat}

theorem exec_cacheSectorAccess (data : Option (List Byte)) (u : List (Nat × Byte)) :
    let z := match data with | some bs => bs.length | none => n
    let pl := s.place a
    let s' := if u = [] then s else { s with mem := s.mem.upset pl.1 pl.2.1 (pl.2.2 / 32) u }
    (z = 0 ∨ 32 < a % 32 + z ∨ s.capacity ≤ a → exec (.cacheSectorAccess a n data hint src u) s = .next s)
    ∧ (0 < z → a % 32 + z ≤ 32 → a < s.capacity → exec (.cacheSectorAccess a n data hint src u) s =
        .next (match data with | some bs => (s'.devWrite a bs hint src none).1 | none => (s'.devRead a n hint src).1)) := by
  intro z pl s'
  have hexec : exec (.cacheSectorAccess a n data hint src u) s = .next (if z = 0 ∨ 32 < a % 32 + z ∨ s.capacity ≤ a then s
      else match data with
        | some bs => (s'.devWrite a bs hint src none).1
        | none => (s'.devRead a n hint src).1) := by
    show execCacheSectorAccess a n data hint src u s = _
    unfold execCacheSectorAccess
    cases data <;> cases u <;> rfl
  refine ⟨fun h => hexec.trans (congrArg _ (if_pos h)), fun h0 h1 h2 => hexec.trans (congrArg _ (if_neg (by omega)))⟩

/-- Writing a whole sector that is not mirrored is storing it and nothing more. -/
theorem State.devWrite_whole {bs : List Byte} (hc : s.mem.combs = []) (hf : s.stackFenced (s.place a).1 = false)
    (ha : a % 32 = 0) (hl : bs.length = 32) (hn : s.mirrored a = false) : s.devWrite a bs hint src none = ({ s with
      mem := s.mem.putSector (lineKey (s.place a).1 (s.place a).2.1) ((s.place a).2.2 / 32)
        (encodeSector (s.segDet a) (bs.map BitVec.toNat)) (Hint.ofWord hint (s.segHint a)) }, none) := by
  have hsub : (bs.drop (a - a)).take 32 = bs := by
    rw [Nat.sub_self, List.drop_zero, List.take_of_length_le hl.le]
  unfold State.devWrite
  rw [hl, cut_single (by decide) (by omega)]
  simp only [List.foldl_cons, List.foldl_nil, hsub, State.writeSector_whole hc hf hl]
  rw [Nat.add_sub_cancel_left, cut_single (by decide) (by omega)]
  simp only [List.foldl_cons, List.foldl_nil, hsub]
  have hmirror : ∀ m, State.mirrored { s with mem := m } a = false := fun _ => hn
  unfold State.mirror
  rw [if_neg (by rw [hmirror]; decide)]

end

/-! ## Errors of memory cells (R226, R231) -/

section
variable {bs : List Nat}

theorem flipBytes_length (u : List (Nat × Byte)) (bs : List Nat) : (flipBytes bs u).length = bs.length :=
  foldl_prop (P := fun l : List Nat => l.length = bs.length) (fun _ _ h => (List.length_set ..).trans h) rfl

theorem flipBytes_bytes (hb : ∀ b ∈ bs, b < 256) (u : List (Nat × Byte)) : ∀ b ∈ flipBytes bs u, b < 256 := by
  refine foldl_prop (P := fun l : List Nat => ∀ b ∈ l, b < 256) (fun l e hl b h => ?_) hb
  obtain h | rfl := List.mem_or_eq_of_mem_set h
  · exact hl b h
  · refine Nat.xor_lt_two_pow (n := 8) ?_ e.2.isLt
    rw [List.getD_eq_getElem?_getD]
    cases hg : l[e.1]? with
    | none => exact Nat.two_pow_pos 8
    | some v => exact hl v (List.mem_of_getElem? hg)

end

theorem Mem.upset_eq (m : Mem) (ch q sec : Nat) (u : List (Nat × Byte)) : m.upset ch q sec u
    = if m.validAt (lineKey ch q) sec then m.wrCached (lineKey ch q) sec (flipBytes (m.seenAt (lineKey ch q) sec) u)
      else m.wrHbm (lineKey ch q) sec (flipBytes (m.seenAt (lineKey ch q) sec) u) := by
  unfold Mem.upset Mem.seenAt Mem.validAt
  cases m.line (lineKey ch q) with
  | none => rfl
  | some l => dsimp only; split <;> rfl

/-- Flipped bits show in the sector they strike and in no other. -/
theorem Mem.upset_spec (m : Mem) {ch q sec : Nat} (hs : sec < 8) (u : List (Nat × Byte)) :
    (m.upset ch q sec u).keeps m (some (lineKey ch q, sec))
    ∧ (m.upset ch q sec u).seenAt (lineKey ch q) sec = flipBytes (m.seenAt (lineKey ch q) sec) u := by
  have hlen : (m.seenAt (lineKey ch q) sec).length = 36 := by
    unfold Mem.seenAt
    split <;> exact rdStored_length _ _
  have hbytes : ∀ b ∈ m.seenAt (lineKey ch q) sec, b < 256 := by
    unfold Mem.seenAt
    split <;> exact rdStored_bytes _ _
  have hflen := (flipBytes_length u _).trans hlen
  have hfb := flipBytes_bytes hbytes u
  rw [Mem.upset_eq]
  cases hv : m.validAt (lineKey ch q) sec with
  | true => exact ⟨Mem.keeps_wrCached hs hflen, Mem.seenAt_wrCached hflen hfb hv⟩
  | false => exact ⟨Mem.keeps_wrHbm hs hflen, Mem.seenAt_wrHbm hflen hfb hv⟩

section
variable {s : State} {a n : Nat} {h : Hint} {src : Nat}

/-- A read within one sector that holds good data changes nothing but the cache's marks and fills (R220). -/
theorem State.readGranule_good {det : Bool} {data : List Nat} (hm : s.mem.coherent) (hc : s.mem.combs = [])
    (hf : s.stackFenced (s.place a).1 = false) (hn : 0 < n) (ha : a % 32 + n ≤ 32) (hh : h ≠ .last)
    (hd : decodeSector (s.mem.sector (s.place a).1 (s.place a).2.1 ((s.place a).2.2 / 32)) = .ok det data) :
    { (s.readGranule a n h src).1 with mem := s.mem } = s ∧ (s.readGranule a n h src).1.mem.keeps s.mem none := by
  refine ⟨?_, State.readGranule_keeps hm hc hh (by omega)⟩
  rw [State.readGranule_single hc hf hn ha hd rfl]
  rfl

/-- A read within one sector that has one wrong byte counts the correction and leaves the copy as it is (R226). -/
theorem State.readGranule_fixed {data : List Nat} (hm : s.mem.line (lineKey (s.place a).1 (s.place a).2.1) = none → s.mem.coherent)
    (hc : s.mem.combs = []) (hf : s.stackFenced (s.place a).1 = false) (hn : 0 < n) (ha : a % 32 + n ≤ 32) (hh : h ≠ .last)
    (hch : (s.place a).1 < 192)
    (hd : decodeSector (s.mem.sector (s.place a).1 (s.place a).2.1 ((s.place a).2.2 / 32)) = .fixed data) :
    (s.readGranule a n h src).1.counted s F.MCHCNT_CORFIX (s.place a).1 ∧ (s.readGranule a n h src).1.mem.keeps s.mem none := by
  have hcounted := s.noteRead_fixed_counted src data hch
  rw [State.readGranule_single hc hf hn ha hd rfl]
  generalize s.noteRead (s.place a).1 src (.fixed data) = t at *
  refine ⟨State.counted_withMem hcounted _, Mem.keeps_afterRead hm hh fun sec hsec => ?_⟩
  rw [List.mem_singleton.1 hsec]
  exact State.sector_of_place a

end

/-! ## The patrol scrubber (R231) -/

/-- The state with other bytes in HBM. -/
def State.withHbm (s : State) (x : List Host.Cell) : State := { s with mem := { s.mem with hbm := x } }

/-- What the scrubber does with what it finds in HBM. -/
def State.scrubFound (s : State) (m sk : Nat) : State := match decodeSector (rdStored s.mem.hbm sk) with
  | .ok _ _ => s
  | .fixed d => ((s.withHbm (wrStored s.mem.hbm sk (encodeSector false d))).bump F.MCHCNT_CORFIX m 1).penalise 1 m 1
  | _ => ((s.bump F.MCHCNT_SCRUBERR m 1).penalise 1 m 5).log .scrubFinding m (leBytes 1 0)

/-- The state with the bits `u` of a sector flipped in HBM. -/
def State.struck (s : State) (sk : Nat) (u : List (Nat × Byte)) : State :=
  if u.isEmpty then s else s.withHbm (wrStored s.mem.hbm sk (flipBytes (rdStored s.mem.hbm sk) u))

section
variable {s : State} {m q sec : Nat} {u : List (Nat × Byte)}

theorem exec_patrolScrub (hm : m < 192) : exec (.patrolScrub m q sec u) s = .next (
    if s.get F.MCHMAP_ACTIVE m ≠ 1 ∨ Config.granulesPerChannel ≤ q ∨ 8 ≤ sec ∨ s.stackFenced m then s
    else if s.mem.dirtyAt (lineKey m q) sec then s.struck (sectorKey m q sec) u
    else (s.struck (sectorKey m q sec) u).scrubFound m (sectorKey m q sec)) := by
  show execPatrolScrub m q sec u s = _
  unfold execPatrolScrub within
  rw [if_pos (show m < Config.channels from hm)]
  dsimp only
  refine congrArg _ (if_congr Iff.rfl rfl ?_)
  unfold State.struck State.scrubFound State.withHbm Mem.dirtyAt
  rfl

theorem State.scrubFound_ok {sk : Nat} {det : Bool} {data : List Nat} (h : decodeSector (rdStored s.mem.hbm sk) = .ok det data) :
    s.scrubFound m sk = s := by
  unfold State.scrubFound
  rw [h]

theorem State.scrubFound_fixed {sk : Nat} {data : List Nat} (h : decodeSector (rdStored s.mem.hbm sk) = .fixed data) :
    s.scrubFound m sk = ((s.withHbm (wrStored s.mem.hbm sk (encodeSector false data))).bump F.MCHCNT_CORFIX m 1).penalise 1 m 1 := by
  unfold State.scrubFound
  rw [h]

theorem State.scrubFound_bad {sk : Nat} (h : decodeSector (rdStored s.mem.hbm sk) = .det ∨ decodeSector (rdStored s.mem.hbm sk) = .cor) :
    s.scrubFound m sk = ((s.bump F.MCHCNT_SCRUBERR m 1).penalise 1 m 5).log .scrubFinding m (leBytes 1 0) := by
  unfold State.scrubFound
  obtain h | h := h <;> rw [h]

/-- State `t` differs from `s` at most in what HBM holds, and in records. -/
def State.onlyHbm (t s : State) : Prop := ∃ x, t.onlyRecords (s.withHbm x)

theorem State.onlyHbm_of_records {s t : State} (h : t.onlyRecords s) : t.onlyHbm s := ⟨s.mem.hbm, h⟩

theorem State.struck_onlyHbm (s : State) (sk : Nat) (u : List (Nat × Byte)) : (s.struck sk u).onlyHbm s := by
  unfold State.struck
  split
  exacts [State.onlyHbm_of_records s.onlyRecords_refl, ⟨_, State.onlyRecords_refl _⟩]

theorem State.onlyHbm.trans {s t v : State} (h : v.onlyHbm t) (h' : t.onlyHbm s) : v.onlyHbm s := by
  obtain ⟨x, r, e, p, rfl⟩ := h'
  obtain ⟨x', r', e', p', rfl⟩ := h
  exact ⟨x', r', e', p', rfl⟩

theorem State.scrubFound_onlyHbm (s : State) (m sk : Nat) : (s.scrubFound m sk).onlyHbm s := by
  have hbad : (((s.bump F.MCHCNT_SCRUBERR m 1).penalise 1 m 5).log .scrubFinding m (leBytes 1 0)).onlyHbm s :=
    State.onlyHbm_of_records (State.onlyRecords_log (State.penalise_onlyRecords (s.onlyRecords_bump _ _ _) _ _ _) _ _ _)
  cases h : decodeSector (rdStored s.mem.hbm sk) with
  | ok det data => rw [State.scrubFound_ok h]; exact State.onlyHbm_of_records s.onlyRecords_refl
  | fixed data => rw [State.scrubFound_fixed h]; exact ⟨_, State.penalise_onlyRecords (State.onlyRecords_bump _ _ _ _) _ _ _⟩
  | cor => rw [State.scrubFound_bad (.inr h)]; exact hbad
  | det => rw [State.scrubFound_bad (.inl h)]; exact hbad

theorem State.onlyHbm_parts {s t : State} (h : t.onlyHbm s) :
    t.tiles = s.tiles ∧ t.fab = s.fab ∧ t.mem.cbytes = s.mem.cbytes ∧ t.mem.lines = s.mem.lines := by
  obtain ⟨x, r, e, p, rfl⟩ := h
  exact ⟨rfl, rfl, rfl, rfl⟩

/-- What the scrubber reads is the sector with its flipped bits. -/
theorem State.struck_reads (s : State) (sk : Nat) (u : List (Nat × Byte)) :
    rdStored (s.struck sk u).mem.hbm sk = flipBytes (rdStored s.mem.hbm sk) u := by
  unfold State.struck
  cases u with
  | nil => rfl
  | cons e u => exact rdStored_wrStored_same ((flipBytes_length _ _).trans (rdStored_length _ _)) (flipBytes_bytes (rdStored_bytes _ _) _)

theorem State.struck_regs (s : State) (sk : Nat) (u : List (Nat × Byte)) : (s.struck sk u).regs = s.regs ∧ (s.struck sk u).power = s.power := by
  unfold State.struck
  split <;> exact ⟨rfl, rfl⟩

theorem State.struck_other (s : State) {sk k : Nat} (u : List (Nat × Byte)) (hk : k ≠ sk) :
    rdStored (s.struck sk u).mem.hbm k = rdStored s.mem.hbm k := by
  unfold State.struck
  split
  · rfl
  · exact rdStored_wrStored_other ((flipBytes_length _ _).trans (rdStored_length _ _)) hk

/-- A failing sector is counted and logged, and left as it is (R231). -/
theorem State.scrubFound_counts {sk : Nat} (hm : m < 192)
    (h : decodeSector (rdStored s.mem.hbm sk) = .det ∨ decodeSector (rdStored s.mem.hbm sk) = .cor) :
    (s.scrubFound m sk).counted s F.MCHCNT_SCRUBERR m ∧ (s.hearthReady = true → (s.scrubFound m sk).logged .scrubFinding m)
      ∧ (s.scrubFound m sk).mem = s.mem := by
  have hrec : ((s.bump F.MCHCNT_SCRUBERR m 1).penalise 1 m 5).onlyRecords s := State.penalise_onlyRecords (s.onlyRecords_bump _ _ _) _ _ _
  rw [State.scrubFound_bad h]
  refine ⟨?_, fun hh => ?_, ?_⟩
  · unfold State.counted
    rw [State.get_of_reg (State.reg_log _ _ _ _ (by omega) (by decide))]
    exact State.counted_penalised s F.MCHCNT_SCRUBERR 1 5 (by decide) (by decide) (by omega) (by decide) (by decide)
  · have hready : ((s.bump F.MCHCNT_SCRUBERR m 1).penalise 1 m 5).hearthReady = true := by
      have hstate := State.get_of_reg (f := F.HDSTAT_STATE) ((State.reg_penalise (s.bump F.MCHCNT_SCRUBERR m 1) 1 m 5 (q := .HDSTAT) (j := 0)
        (by decide) (by decide) (by decide)).trans (State.reg_bump_other s 1 (by omega) (by decide) (.inl (by decide))))
      unfold State.hearthReady at hh ⊢
      rwa [hstate, State.onlyRecords_power hrec]
    rw [State.log_ready hready]
    exact ⟨_, List.mem_append_right _ (List.mem_singleton_self _), rfl, rfl⟩
  · rw [State.log_mem]
    exact (State.onlyRecords_parts hrec).2.2.1

/-- One wrong byte of a COR sector is corrected, counted and written back (R231). -/
theorem State.scrubFound_corrects {sk : Nat} {data : List Nat} (hm : m < 192) (h : decodeSector (rdStored s.mem.hbm sk) = .fixed data)
    (hl : data.length = 32) (hd : ∀ y ∈ data, y < 256) :
    (s.scrubFound m sk).counted s F.MCHCNT_CORFIX m ∧ rdStored (s.scrubFound m sk).mem.hbm sk = encodeSector false data
      ∧ ∀ k, k ≠ sk → rdStored (s.scrubFound m sk).mem.hbm k = rdStored s.mem.hbm k := by
  rw [State.scrubFound_fixed h]
  have hmem := (State.onlyRecords_parts (State.penalise_onlyRecords
    ((s.withHbm (wrStored s.mem.hbm sk (encodeSector false data))).onlyRecords_bump F.MCHCNT_CORFIX m 1) 1 m 1)).2.2.1
  refine ⟨?_, ?_, fun k hk => ?_⟩
  · exact State.counted_penalised (s.withHbm _) F.MCHCNT_CORFIX 1 1 (by decide) (by decide) (by omega) (by decide) (by decide)
  · exact (congrArg (fun x : Mem => rdStored x.hbm sk) hmem).trans (rdStored_wrStored_same (encodeSector_length hl false) (encodeSector_bytes hd false))
  · exact (congrArg (fun x : Mem => rdStored x.hbm k) hmem).trans (rdStored_wrStored_other (encodeSector_length hl false) hk)

end

/-! ## The obligation -/

section
variable {data : List Nat} {b : Nat} {x : Byte} (hl : data.length = 32) (hd : ∀ y ∈ data, y < 256) (hb : b < 36) (h32 : b ≠ 32) (hx : x ≠ 0)
include hl hd hb h32 hx

theorem decodeSector_flipped_cor : decodeSector (flipBytes (encodeSector false data) [(b, x)]) = .fixed data :=
  decodeSector_cor_set hl hd hb (Nat.pos_of_ne_zero fun e => hx (BitVec.eq_of_toNat_eq e)) x.isLt (.inl h32)

theorem decodeSector_flipped_det : decodeSector (flipBytes (encodeSector true data) [(b, x)]) = .det :=
  decodeSector_det_set hl hd hb (Nat.pos_of_ne_zero fun e => hx (BitVec.eq_of_toNat_eq e)) x.isLt (.inl h32)

end

section
variable {s : State} {a n hint src : Nat} (hm : s.mem.coherent) (hc : s.mem.combs = []) (ha : a < s.capacity)
  (hq : (s.place a).2.1 < 2 ^ 25) (hf : s.stackFenced (s.place a).1 = false)
include hm hc ha hf

/-- An access that reads good data within one sector. -/
theorem access_reads {det : Bool} {data : List Nat} (hn : 0 < n) (h32 : a % 32 + n ≤ 32) (hh : Hint.ofWord hint (s.segHint a) ≠ .last)
    (hd : decodeSector (s.mem.sector (s.place a).1 (s.place a).2.1 ((s.place a).2.2 / 32)) = .ok det data) :
    ∃ t, exec (.cacheSectorAccess a n none hint src []) s = .next t ∧ { t with mem := s.mem } = s ∧ t.mem.coherent
      ∧ t.mem.sectorsKept s.mem none := by
  refine ⟨_, (exec_cacheSectorAccess none []).2 hn h32 ha, ?_⟩
  dsimp only
  rw [if_pos rfl, State.devRead_single hn (by omega)]
  obtain ⟨hs, hkeeps⟩ := State.readGranule_good (src := src) hm hc hf hn h32 hh hd
  exact ⟨hs, hkeeps.coherent hm, hkeeps.sectorsKept⟩

include hq

/-- An access that writes a whole sector (R220). -/
theorem access_writes {bs : List Byte} (h32 : a % 32 = 0) (hl : bs.length = 32) (hn : s.mirrored a = false) :
    ∃ t, exec (.cacheSectorAccess a n (some bs) hint src []) s = .next t ∧ { t with mem := s.mem } = s ∧ t.mem.coherent
      ∧ t.mem.sector (s.place a).1 (s.place a).2.1 ((s.place a).2.2 / 32) = encodeSector (s.segDet a) (bs.map BitVec.toNat)
      ∧ t.mem.sectorsKept s.mem (some ((s.place a).1, (s.place a).2.1, (s.place a).2.2 / 32)) := by
  refine ⟨_, (exec_cacheSectorAccess (some bs) []).2 (by dsimp only; omega) (by dsimp only; omega) ha, ?_⟩
  dsimp only
  rw [if_pos rfl, State.devWrite_whole hc hf h32 hl hn]
  obtain ⟨-, hcoh, hsector, hkept⟩ := State.putSector_placed (s := s) (d := a) (bs := bs) (h := Hint.ofWord hint (s.segHint a))
    (det := s.segDet a) hm hl hq
  exact ⟨rfl, hcoh, hsector, hkept⟩

/-- An access that reads a sector with one wrong byte: the copy stays as it is (R226). -/
theorem access_corrects {data : List Nat} {b : Nat} {x : Byte} (hn : 0 < n) (h32 : a % 32 + n ≤ 32)
    (hh : Hint.ofWord hint (s.segHint a) ≠ .last)
    (hd : s.mem.sector (s.place a).1 (s.place a).2.1 ((s.place a).2.2 / 32) = encodeSector false data)
    (hfix : decodeSector (flipBytes (encodeSector false data) [(b, x)]) = .fixed data) (hch : (s.place a).1 < 192) :
    ∃ t, exec (.cacheSectorAccess a n none hint src [(b, x)]) s = .next t ∧ t.counted s F.MCHCNT_CORFIX (s.place a).1
      ∧ t.mem.sectorsKept s.mem (some ((s.place a).1, (s.place a).2.1, (s.place a).2.2 / 32))
      ∧ decodeSector (t.mem.sector (s.place a).1 (s.place a).2.1 ((s.place a).2.2 / 32)) = .fixed data := by
  refine ⟨_, (exec_cacheSectorAccess none [(b, x)]).2 hn h32 ha, ?_⟩
  have hsec := State.sector_of_place (s := s) a
  obtain ⟨hkeeps, hseen⟩ := s.mem.upset_spec (ch := (s.place a).1) (q := (s.place a).2.1) hsec [(b, x)]
  have hclean : (s.mem.upset (s.place a).1 (s.place a).2.1 ((s.place a).2.2 / 32) [(b, x)]).line (lineKey (s.place a).1 (s.place a).2.1) = none →
      (s.mem.upset (s.place a).1 (s.place a).2.1 ((s.place a).2.2 / 32) [(b, x)]).coherent := fun hnone =>
    (Mem.coherent_iff _).2 fun j i hi => by
      by_cases e : (lineKey (s.place a).1 (s.place a).2.1, (s.place a).2.2 / 32) = (j, i)
      · cases e
        exact Mem.soundAt_none hnone _
      · exact hkeeps.sound j i hi (fun e' => e (Option.some.inj e')) (s.mem.coherent_iff.1 hm j i hi)
  dsimp only
  rw [if_neg (List.cons_ne_nil _ _)]
  generalize s.mem.upset (s.place a).1 (s.place a).2.1 ((s.place a).2.2 / 32) [(b, x)] = m at *
  have hflip : decodeSector (m.sector (s.place a).1 (s.place a).2.1 ((s.place a).2.2 / 32)) = .fixed data := by
    rw [Mem.sector_eq_seenAt, hseen, ← Mem.sector_eq_seenAt, hd, hfix]
  obtain ⟨hcounted, hread⟩ := State.readGranule_fixed (s := { s with mem := m }) (src := src) (h := Hint.ofWord hint (s.segHint a))
    hclean (hkeeps.combs.trans hc) hf hn h32 hh hch hflip
  rw [State.devRead_single hn (by omega), show State.segHint { s with mem := m } a = s.segHint a from rfl]
  refine ⟨hcounted, (hread.weaken _ |>.trans hkeeps).sectorsKept_but hq, ?_⟩
  rw [Mem.sector_eq_seenAt, hread.seen _ _ hsec nofun, ← Mem.sector_eq_seenAt]
  exact hflip

end

section
variable {s : State} {m q sec : Nat}

/-- A scrub ends whatever it finds, and changes nothing but HBM and records (R231). -/
theorem scrub_completes (hm : m < 192) (u : List (Nat × Byte)) : ∃ t, exec (.patrolScrub m q sec u) s = .next t ∧ t.tiles = s.tiles
    ∧ t.fab = s.fab ∧ t.mem.cbytes = s.mem.cbytes ∧ t.mem.lines = s.mem.lines
    ∧ (s.get F.MCHMAP_ACTIVE m ≠ 1 ∨ 18874368 ≤ q ∨ 8 ≤ sec ∨ s.stackFenced m = true → t = s) := by
  by_cases hout : s.get F.MCHMAP_ACTIVE m ≠ 1 ∨ Config.granulesPerChannel ≤ q ∨ 8 ≤ sec ∨ s.stackFenced m = true
  · exact ⟨s, (exec_patrolScrub hm).trans (congrArg _ (if_pos hout)), rfl, rfl, rfl, rfl, fun _ => rfl⟩
  · have hexec := (exec_patrolScrub (u := u) hm).trans (congrArg _ (if_neg hout))
    have hstruck := s.struck_onlyHbm (sectorKey m q sec) u
    by_cases hdirty : s.mem.dirtyAt (lineKey m q) sec = true
    · rw [if_pos hdirty] at hexec
      obtain ⟨h1, h2, h3, h4⟩ := State.onlyHbm_parts hstruck
      exact ⟨_, hexec, h1, h2, h3, h4, fun h => absurd h hout⟩
    · rw [if_neg hdirty] at hexec
      obtain ⟨h1, h2, h3, h4⟩ := State.onlyHbm_parts ((State.scrubFound_onlyHbm _ m (sectorKey m q sec)).trans hstruck)
      exact ⟨_, hexec, h1, h2, h3, h4, fun h => absurd h hout⟩

variable (hm : m < 192) (hq : q < 18874368) (hs : sec < 8) (ha : s.get F.MCHMAP_ACTIVE m = 1) (hf : s.stackFenced m = false)
  (hdirty : ∀ l, s.mem.line (lineKey m q) = some l → bit l.dirty sec = false)
include hm hq hs ha hf hdirty

/-- A scrub reads a sector that the cache does not hold dirty. -/
theorem exec_patrolScrub_reads (u : List (Nat × Byte)) : exec (.patrolScrub m q sec u) s
    = .next ((s.struck (sectorKey m q sec) u).scrubFound m (sectorKey m q sec)) := by
  have hin : ¬ (s.get F.MCHMAP_ACTIVE m ≠ 1 ∨ Config.granulesPerChannel ≤ q ∨ 8 ≤ sec ∨ s.stackFenced m = true) := by
    rintro (h | h | h | h)
    · exact h ha
    · exact absurd hq (Nat.not_lt.2 h)
    · omega
    · rw [hf] at h; cases h
  have hclean : s.mem.dirtyAt (lineKey m q) sec = false := by
    cases h : s.mem.line (lineKey m q) with
    | none => exact Mem.dirtyAt_none h sec
    | some l => exact (Mem.dirtyAt_some h sec).trans (hdirty l h)
  refine (exec_patrolScrub hm).trans (congrArg _ ((if_neg hin).trans (if_neg ?_)))
  rw [hclean]
  decide

theorem scrub_good {det : Bool} {data : List Nat} (h : decodeSector (rdStored s.mem.hbm (sectorKey m q sec)) = .ok det data) :
    exec (.patrolScrub m q sec []) s = .next s :=
  (exec_patrolScrub_reads hm hq hs ha hf hdirty []).trans (congrArg _ (State.scrubFound_ok h))

/-- One wrong byte of a COR sector is corrected in HBM (R231). -/
theorem scrub_corrects {data : List Nat} {b : Nat} {x : Byte} (hl : data.length = 32) (hd : ∀ y ∈ data, y < 256)
    (h : rdStored s.mem.hbm (sectorKey m q sec) = encodeSector false data)
    (hfix : decodeSector (flipBytes (encodeSector false data) [(b, x)]) = .fixed data) :
    ∃ t, exec (.patrolScrub m q sec [(b, x)]) s = .next t ∧ t.counted s F.MCHCNT_CORFIX m
      ∧ t.mem.cbytes = s.mem.cbytes ∧ t.mem.lines = s.mem.lines ∧ t.tiles = s.tiles ∧ t.fab = s.fab
      ∧ ∀ k, rdStored t.mem.hbm k = rdStored s.mem.hbm k := by
  have hreads := s.struck_reads (sectorKey m q sec) [(b, x)]
  have hregs := (s.struck_regs (sectorKey m q sec) [(b, x)]).1
  have hstruck := s.struck_onlyHbm (sectorKey m q sec) [(b, x)]
  have hother := fun k hk => s.struck_other (sk := sectorKey m q sec) (k := k) [(b, x)] hk
  rw [h] at hreads
  refine ⟨_, exec_patrolScrub_reads hm hq hs ha hf hdirty [(b, x)], ?_⟩
  generalize s.struck (sectorKey m q sec) [(b, x)] = v at *
  obtain ⟨hcounted, hhere, hrest⟩ := State.scrubFound_corrects (s := v) hm ((congrArg decodeSector hreads).trans hfix) hl hd
  obtain ⟨h1, h2, h3, h4⟩ := State.onlyHbm_parts ((v.scrubFound_onlyHbm m (sectorKey m q sec)).trans hstruck)
  refine ⟨?_, h3, h4, h1, h2, fun k => ?_⟩
  · unfold State.counted at hcounted ⊢
    rwa [State.get_congr hregs] at hcounted
  · by_cases hk : k = sectorKey m q sec
    · rw [hk, hhere, h]
    · rw [hrest k hk, hother k hk]

/-- A failing sector is counted, logged and left failing (R231). -/
theorem scrub_fails {u : List (Nat × Byte)} (h : decodeSector (flipBytes (rdStored s.mem.hbm (sectorKey m q sec)) u) = .det
      ∨ decodeSector (flipBytes (rdStored s.mem.hbm (sectorKey m q sec)) u) = .cor) :
    ∃ t, exec (.patrolScrub m q sec u) s = .next t ∧ t.counted s F.MCHCNT_SCRUBERR m
      ∧ (s.hearthReady = true → t.logged .scrubFinding m) ∧ t.tiles = s.tiles ∧ t.fab = s.fab
      ∧ rdStored t.mem.hbm (sectorKey m q sec) = flipBytes (rdStored s.mem.hbm (sectorKey m q sec)) u := by
  have hreads := s.struck_reads (sectorKey m q sec) u
  obtain ⟨hregs, hpower⟩ := s.struck_regs (sectorKey m q sec) u
  have hstruck := s.struck_onlyHbm (sectorKey m q sec) u
  refine ⟨_, exec_patrolScrub_reads hm hq hs ha hf hdirty u, ?_⟩
  generalize s.struck (sectorKey m q sec) u = v at *
  obtain ⟨hcounted, hlogged, hmem⟩ := State.scrubFound_counts (s := v) (sk := sectorKey m q sec) hm (by rwa [hreads])
  obtain ⟨h1, h2, -, -⟩ := State.onlyHbm_parts ((v.scrubFound_onlyHbm m (sectorKey m q sec)).trans hstruck)
  have hready : v.hearthReady = s.hearthReady := by
    unfold State.hearthReady
    rw [State.get_congr hregs, hpower]
  refine ⟨?_, fun hh => hlogged (hready.trans hh), h1, h2, by rw [hmem, hreads]⟩
  unfold State.counted at hcounted ⊢
  rwa [State.get_congr hregs] at hcounted

end

/-- Settles O49: the cache by what each of its steps keeps of what an access sees; the scrubber by what it reads in HBM. -/
theorem memoryReadBack : Obligations.MemoryReadBack := by
  unfold Obligations.MemoryReadBack
  refine ⟨fun d bs h det src s hm hc hl hd => ?_, fun d n h src s hm hc hh hq hd => ?_, fun a n hint src data u s => exec_cacheSectorAccess data u,
    fun a n hint src bs s hm hc ha => ?_, fun m q sec u s hm => scrub_completes hm u, fun m q sec s hm hq hs ha hf hdirty => ?_⟩
  · intro pl r hq hf
    obtain ⟨hcombs, hcoh, hsector, hkept⟩ := State.putSector_placed (s := s) (d := d) (bs := bs) (h := h) (det := det) hm hl hq
    have hr : r = _ := State.writeSector_whole hc hf hl
    have hread := State.writeSector_reads (h := h) (det := det) (src := src) hm hc hl hd hq hf
    rw [State.writeSector_whole hc hf hl] at hread
    rw [hr]
    exact ⟨rfl, rfl, hcombs.trans hc, hcoh, hsector, hkept, hread⟩
  · have hkeeps := State.readGranule_keeps (src := src) hm hc hh hd
    exact ⟨hkeeps.coherent hm, hkeeps.sectorsKept, hkeeps.combs.trans hc⟩
  · intro pl sec hq hf
    refine ⟨fun h32 hl hn => access_writes hm hc ha hq hf h32 hl hn, fun hn h32 hh => ⟨fun det data hd => access_reads hm hc ha hf hn h32 hh hd,
      fun data b x hd hl hb hb36 hne hx hch => ?_⟩⟩
    exact access_corrects hm hc ha hq hf hn h32 hh hd (decodeSector_flipped_cor hl hb hb36 hne hx) hch
  · refine ⟨fun det data hd => scrub_good hm hq hs ha hf hdirty hd, fun data b x hh hl hd hb h32 hx => ?_, fun u h => ?_,
      fun data b x hh hl hd hb h32 hx => ?_⟩
    · exact scrub_corrects hm hq hs ha hf hdirty hl hd hh (decodeSector_flipped_cor hl hd hb h32 hx)
    · obtain ⟨t, ht, hcounted, hlogged, -⟩ := scrub_fails hm hq hs ha hf hdirty h
      exact ⟨t, ht, hcounted, hlogged⟩
    · have hdet := decodeSector_flipped_det hl hd hb h32 hx
      rw [← hh] at hdet
      obtain ⟨t, ht, hcounted, hlogged, h1, h2, hrd⟩ := scrub_fails hm hq hs ha hf hdirty (.inl hdet)
      exact ⟨t, ht, hcounted, hlogged, h1, h2, (congrArg decodeSector hrd).trans hdet⟩

end Sys2Proof.Machine

/-! The traffic generator's run: what it writes and what its checker finds (R237, R238, Table 8-6). -/

namespace Sys2Proof.Machine

/-! ## Beats in stored sectors (Table 8-6) -/

/-- A number made of bits has those bits, and no others. -/
theorem bitsOf_spec (p : Nat → Bool) : ∀ n, bitsOf n p < 2 ^ n ∧ ∀ z, bit (bitsOf n p) z = (decide (z < n) && p z)
  | 0 => ⟨Nat.one_pos, fun z => bit_none z⟩
  | n + 1 => by
    obtain ⟨hlt, hbits⟩ := bitsOf_spec p n
    have hstep : bitsOf (n + 1) p = bitsOf n p + b2n (p n) * 2 ^ n := by
      unfold bitsOf
      rw [List.range_succ, List.foldl_append]
      rfl
    rw [hstep, Nat.pow_succ]
    cases hp : p n with
    | false =>
      have hzero : bitsOf n p + b2n false * 2 ^ n = bitsOf n p := by simp [b2n]
      rw [hzero]
      refine ⟨by omega, fun z => (hbits z).trans ?_⟩
      by_cases hz : z = n
      · rw [hz, hp]; simp
      · rw [show decide (z < n + 1) = decide (z < n) from decide_eq_decide.2 (by omega)]
    | true =>
      have hone : bitsOf n p + b2n true * 2 ^ n = bitsOf n p + 2 ^ n := by simp [b2n]
      rw [hone]
      refine ⟨by omega, fun z => ?_⟩
      rw [bit_add_two_pow ((hbits n).trans (by simp)), hbits]
      by_cases hz : z = n
      · rw [hz, hp]; simp
      · rw [decide_eq_false hz, Bool.false_or, show decide (z < n + 1) = decide (z < n) from decide_eq_decide.2 (by omega)]

/-- Every bit of a beat travels in one place of the stored sector. -/
theorem beatSlot_surj : ∀ k, k < 288 → ∃ j, j < 288 ∧ beatSlot j = k := by
  intro k hk
  unfold beatSlot
  by_cases hl : k % 72 < 64
  · refine ⟨64 * (k / 72) + k % 72, by omega, ?_⟩
    rw [if_pos (by omega)]
    omega
  · refine ⟨256 + 8 * (k / 72) + (k % 72 - 64), by omega, ?_⟩
    rw [if_neg (by omega)]
    omega

section
variable {old : List Nat} {use : Nat → Bool} {want : List Bool}

theorem storeBeat_length : (storeBeat old use want).length = 36 := by
  unfold storeBeat
  rw [List.length_map, List.length_range]

theorem storeBeat_bytes : ∀ b ∈ storeBeat old use want, b < 256 := fun b hb => by
  obtain ⟨y, -, rfl⟩ := List.mem_map.1 hb
  exact (bitsOf_spec _ 8).1

/-- The lanes that take part hold the beat. -/
theorem storeBeat_bit {j : Nat} (hj : j < 288) (hu : use (beatSlot j % 72) = true) :
    bit ((storeBeat old use want).getD (j / 8) 0) (j % 8) = want.getD (beatSlot j) false := by
  unfold storeBeat
  rw [getD_map_range _ _ (by omega), (bitsOf_spec _ 8).2, decide_eq_true (by omega), Bool.true_and]
  dsimp only
  rw [Nat.div_add_mod, if_pos hu]

end

/-! ## One granule of a run -/

theorem foldl_eq_self {α β : Type} {f : β → α → β} {b : β} : ∀ {l : List α}, (∀ x ∈ l, f b x = b) → l.foldl f b = b
  | [], _ => rfl
  | x :: l, h => by
    rw [List.foldl_cons, h x List.mem_cons_self]
    exact foldl_eq_self fun y hy => h y (List.mem_cons_of_mem _ hy)

/-- A fold that leaves the first of a pair alone. -/
theorem foldl_pair {α β γ : Type} {F : α → γ → β → β} (l : List γ) (x : α × β) :
    l.foldl (fun a c => (a.1, F a.1 c a.2)) x = (x.1, l.foldl (fun b c => F x.1 c b) x.2) := by
  induction l generalizing x with
  | nil => rfl
  | cons c l ih => exact ih _

section
variable (g : GenRun) (m pass : Nat)

/-- Sector `b` of channel `m` holds the beat of pass `pass` on the lanes that take part. -/
def GenRun.holds (x : Mem) (b : Nat) : Prop := ∀ j, j < 288 → g.uses (beatSlot j % 72) = true →
  bit ((rdStored x.hbm (sectorKey m (b / 8) (b % 8))).getD (j / 8) 0) (j % 8) = (g.beat pass b).getD (beatSlot j) false

/-- The step of one beat written. -/
def GenRun.wrBeat (q : Nat) (x : Mem) (sec : Nat) : Mem :=
  { x with hbm := wrStored x.hbm (sectorKey m q sec) (storeBeat (rdStored x.hbm (sectorKey m q sec)) g.uses (g.beat pass (8 * q + sec))) }

/-- The mismatches of one beat read, added to those found before. -/
def GenRun.rdBeat (q n : Nat) (errs : List TgErr) (x : Mem) (l : List (Nat × Nat)) (sec : Nat) : List (Nat × Nat) :=
  (List.range 288).foldl (fun l k =>
    let j := (List.range 288).find? fun j => decide (beatSlot j = k)
    let got := match j with
      | some j => bit ((rdStored x.hbm (sectorKey m q sec)).getD (j / 8) 0) (j % 8)
      | none => false
    let seen := got != errs.contains (n + sec, k)
    if g.uses (k % 72) && seen != (g.beat pass (8 * q + sec)).getD k false then (k % 72, 32 * (8 * q + sec)) :: l else l) l

theorem genGranule_write (q n : Nat) (errs : List TgErr) (x : Mem × List (Nat × Nat)) :
    genGranule g m pass q n true errs x = ((List.range 8).foldl (g.wrBeat m pass q) x.1, x.2) := by
  unfold genGranule
  generalize List.range 8 = secs
  induction secs generalizing x with
  | nil => rfl
  | cons sec secs ih => exact ih _

theorem genGranule_read (q n : Nat) (errs : List TgErr) (x : Mem × List (Nat × Nat)) :
    genGranule g m pass q n false errs x = (x.1, (List.range 8).foldl (g.rdBeat m pass q n errs x.1) x.2) := by
  unfold genGranule
  simp only [Bool.false_eq_true, if_false]
  exact foldl_pair (F := fun y sec l => g.rdBeat m pass q n errs y l sec) (List.range 8) x

variable {g m pass}

theorem GenRun.wrBeat_same {q : Nat} {x : Mem} {sec : Nat} (hs : sec < 8) : g.holds m pass (g.wrBeat m pass q x sec) (8 * q + sec) := by
  intro j hj hu
  have hkey : sectorKey m ((8 * q + sec) / 8) ((8 * q + sec) % 8) = sectorKey m q sec := by
    rw [show (8 * q + sec) / 8 = q by omega, show (8 * q + sec) % 8 = sec by omega]
  rw [hkey]
  unfold GenRun.wrBeat
  rw [rdStored_wrStored_same storeBeat_length storeBeat_bytes, storeBeat_bit hj hu]

theorem GenRun.wrBeat_other {q : Nat} {x : Mem} {sec b : Nat} (hb : b ≠ 8 * q + sec) (h : g.holds m pass x b) :
    g.holds m pass (g.wrBeat m pass q x sec) b := by
  have hkey : sectorKey m (b / 8) (b % 8) ≠ sectorKey m q sec := by
    unfold sectorKey lineKey
    omega
  unfold GenRun.holds GenRun.wrBeat
  rw [rdStored_wrStored_other storeBeat_length hkey]
  exact h

/-- A granule written holds its beats, and no other sector loses its own. -/
theorem GenRun.wrBeats (q : Nat) {secs : List Nat} (hs : ∀ sec ∈ secs, sec < 8) (x : Mem) (b : Nat)
    (h : g.holds m pass x b ∨ ∃ sec ∈ secs, b = 8 * q + sec) : g.holds m pass (secs.foldl (g.wrBeat m pass q) x) b := by
  induction secs generalizing x with
  | nil =>
    obtain h | ⟨_, h, -⟩ := h
    exacts [h, absurd h List.not_mem_nil]
  | cons sec secs ih =>
    obtain ⟨h0, hs⟩ := List.forall_mem_cons.1 hs
    refine ih hs _ ?_
    by_cases hb : b = 8 * q + sec
    · exact .inl (hb ▸ GenRun.wrBeat_same h0)
    · obtain h | ⟨y, hy, e⟩ := h
      · exact .inl (GenRun.wrBeat_other hb h)
      · obtain rfl | hy := List.mem_cons.1 hy
        exacts [absurd e hb, .inr ⟨y, hy, e⟩]

/-- A sector that holds its beat, read without error, shows no mismatch. -/
theorem GenRun.rdBeat_holds {q n : Nat} {x : Mem} {sec : Nat} (hs : sec < 8) (h : g.holds m pass x (8 * q + sec)) (l : List (Nat × Nat)) :
    g.rdBeat m pass q n [] x l sec = l := by
  refine foldl_eq_self fun k hk => ?_
  obtain ⟨j0, hj0, hk0⟩ := beatSlot_surj k (List.mem_range.1 hk)
  dsimp only
  cases hfind : (List.range 288).find? fun j => decide (beatSlot j = k) with
  | none => exact absurd (List.find?_eq_none.1 hfind j0 (List.mem_range.2 hj0)) (by simpa using hk0)
  | some j =>
    have hp := List.find?_some hfind
    have hslot : beatSlot j = k := by simpa using hp
    have hj := List.mem_range.1 (List.mem_of_find?_eq_some hfind)
    refine if_neg fun hbad => ?_
    rw [Bool.and_eq_true] at hbad
    have hbit := h j hj (hslot ▸ hbad.1)
    rw [show (8 * q + sec) / 8 = q by omega, show (8 * q + sec) % 8 = sec by omega, hslot] at hbit
    dsimp only at hbad
    rw [hbit] at hbad
    simp at hbad

theorem mem_ite_cons {α : Type} {c : Prop} [Decidable c] {x e : α} {l : List α} (h : e ∈ if c then x :: l else l) : e = x ∨ e ∈ l := by
  split at h
  exacts [List.mem_cons.1 h, .inr h]

/-- Every mismatch is on a lane of the channel. -/
theorem GenRun.rdBeat_lanes {q n : Nat} {errs : List TgErr} {x : Mem} {l : List (Nat × Nat)} (sec : Nat) (hl : ∀ e ∈ l, e.1 < 72) :
    ∀ e ∈ g.rdBeat m pass q n errs x l sec, e.1 < 72 := by
  unfold GenRun.rdBeat
  refine foldl_prop (P := fun l : List (Nat × Nat) => ∀ e ∈ l, e.1 < 72) (fun l k hl => ?_) hl
  intro e he
  obtain rfl | he := mem_ite_cons he
  exacts [Nat.mod_lt _ (by decide), hl e he]

/-- A granule that holds its beats, read without error, shows no mismatch. -/
theorem genGranule_holds {q n : Nat} {x : Mem × List (Nat × Nat)} (h : ∀ sec, sec < 8 → g.holds m pass x.1 (8 * q + sec)) :
    genGranule g m pass q n false [] x = x := by
  rw [genGranule_read, foldl_eq_self fun sec hsec => GenRun.rdBeat_holds (List.mem_range.1 hsec) (h sec (List.mem_range.1 hsec)) x.2]

end

/-! ## A run that nothing disturbs -/

theorem succ_div_mod {i n : Nat} (h : i % n + 1 < n) : (i + 1) / n = i / n ∧ (i + 1) % n = i % n + 1 := by
  have hn : 0 < n := by omega
  refine (Nat.div_mod_unique hn).2 ⟨?_, h⟩
  have := Nat.mod_add_div i n
  omega

theorem succ_mod_zero {i n : Nat} (h : i % n + 1 = n) : (i + 1) % n = 0 := by
  have hn : 0 < n := by omega
  refine ((Nat.div_mod_unique (d := i / n + 1) hn).2 ⟨?_, hn⟩).2
  have := Nat.mod_add_div i n
  rw [Nat.mul_add]
  omega

section
variable (g : GenRun) (m : Nat)

/-- Granule move `i` of a run. -/
def GenRun.move (errs : List TgErr) (a : Mem × List (Nat × Nat)) (i : Nat) : Mem × List (Nat × Nat) :=
  let pass := i / g.perPass
  let k := i % g.perPass
  let wr := decide (g.mode = 1) || (decide (g.mode = 0) && decide (k < g.count))
  genGranule g m pass (g.first + k % g.count) (8 * (g.count * pass + k % g.count)) wr errs a

theorem genMoves_zero (errs : List TgErr) (x : Mem) : genMoves g m 0 errs x = (x, []) := rfl

theorem genMoves_succ (w : Nat) (errs : List TgErr) (x : Mem) :
    genMoves g m (w + 1) errs x = g.move m errs (genMoves g m w errs x) w := by
  unfold genMoves GenRun.move
  rw [List.range_succ, List.foldl_append, List.foldl_cons, List.foldl_nil]

/-- Before move `i` of a write-and-check run nothing is found, and the granules the pass has written hold its beats. -/
def GenRun.clean (i : Nat) (a : Mem × List (Nat × Nat)) : Prop :=
  a.2 = [] ∧ ∀ t sec, t < min (i % g.perPass) g.count → sec < 8 → g.holds m (i / g.perPass) a.1 (8 * (g.first + t) + sec)

variable {g m}

theorem GenRun.move_clean {i : Nat} {a : Mem × List (Nat × Nat)} (h0 : g.mode = 0) (hc : 0 < g.count) (h : g.clean m i a) :
    g.clean m (i + 1) (g.move m [] a i) := by
  obtain ⟨hfound, hheld⟩ := h
  have hper : g.perPass = 2 * g.count := if_pos h0
  have hlt : i % g.perPass < g.perPass := Nat.mod_lt _ (by omega)
  unfold GenRun.move
  dsimp only
  rw [h0, show decide (0 = 1) = false from rfl, show decide (0 = 0) = true from rfl, Bool.false_or, Bool.true_and]
  by_cases hw : i % g.perPass < g.count
  · obtain ⟨hdiv, hmod⟩ := succ_div_mod (i := i) (n := g.perPass) (by omega)
    rw [decide_eq_true hw, Nat.mod_eq_of_lt hw, genGranule_write]
    refine ⟨hfound, fun t sec ht hs => ?_⟩
    rw [hdiv]
    rw [hmod] at ht
    refine GenRun.wrBeats _ (fun x hx => List.mem_range.1 hx) _ _ ?_
    by_cases he : t = i % g.perPass
    · exact .inr ⟨sec, List.mem_range.2 hs, by rw [he]⟩
    · exact .inl (hheld t sec (by omega) hs)
  · have hback : i % g.perPass % g.count = i % g.perPass - g.count := by
      rw [Nat.mod_eq_sub_mod (by omega), Nat.mod_eq_of_lt (by omega)]
    rw [decide_eq_false hw, hback, genGranule_holds fun sec hs => hheld _ sec (by omega) hs]
    refine ⟨hfound, fun t sec ht hs => ?_⟩
    by_cases hend : i % g.perPass + 1 = g.perPass
    · rw [succ_mod_zero hend] at ht
      omega
    · obtain ⟨hdiv, hmod⟩ := succ_div_mod (i := i) (n := g.perPass) (by omega)
      rw [hdiv]
      exact hheld t sec (by omega) hs

/-- An undisturbed write and check finds nothing (R237). -/
theorem genMoves_undisturbed (h0 : g.mode = 0) (x : Mem) : (genMoves g m g.total [] x).2 = [] := by
  obtain hc | hc := Nat.eq_zero_or_pos g.count
  · have htotal : g.total = 0 := by
      unfold GenRun.total GenRun.perPass
      rw [if_pos h0, hc, Nat.mul_zero]
    rw [htotal, genMoves_zero]
  · have hclean : ∀ w, g.clean m w (genMoves g m w [] x) := fun w => by
      induction w with
      | zero =>
        refine ⟨rfl, fun t sec ht _ => ?_⟩
        rw [Nat.zero_mod] at ht
        omega
      | succ w ih =>
        rw [genMoves_succ]
        exact GenRun.move_clean h0 hc ih
    exact (hclean _).1

theorem genMoves_lanes (w : Nat) (errs : List TgErr) (x : Mem) : ∀ e ∈ (genMoves g m w errs x).2, e.1 < 72 := by
  induction w with
  | zero => exact fun e he => absurd he List.not_mem_nil
  | succ w ih =>
    rw [genMoves_succ]
    unfold GenRun.move
    dsimp only
    generalize (decide (g.mode = 1) || _) = wr
    cases wr with
    | true => rw [genGranule_write]; exact ih
    | false =>
      rw [genGranule_read]
      generalize List.range 8 = secs
      exact foldl_prop (P := fun l : List (Nat × Nat) => ∀ e ∈ l, e.1 < 72) (fun l sec hl => GenRun.rdBeat_lanes sec hl) ih

end

end Sys2Proof.Machine

/-! Memory channels leave service and return, and their generators run (R232 to R238). -/

namespace Sys2Proof.Machine

/-! ## The commands on a channel -/

section
variable {hearth : Bool} {m : Nat} {errs : List TgErr} {s : State}

theorem within_channels (hm : m < 192) (o : Out) : within m Config.channels o = o := if_pos (show m < Config.channels from hm)

theorem exec_takeOutOfService (hm : m < 192) : exec (.takeOutOfService hearth m) s = .next (s.takeOut hearth m) :=
  within_channels hm _

theorem exec_returnToService (hm : m < 192) : exec (.returnToService hearth m errs) s = .next (s.returnIn hearth m errs) :=
  within_channels hm _

theorem exec_startGenerator (hm : m < 192) : exec (.startGenerator hearth m) s = .next (s.startGen hearth m) :=
  within_channels hm _

theorem exec_stopGenerator (hm : m < 192) : exec (.stopGenerator m errs) s = .next (s.stopGen m errs) := within_channels hm _

theorem exec_channelLeavingDone (hm : m < 192) : exec (.channelLeavingDone m) s
    = .next (if s.service m = 1 then (s.flushChannel m).put F.MCHSTAT_SERVICE m 2 else s) := within_channels hm _

theorem exec_channelFillDone (hm : m < 192) : exec (.channelFillDone m) s
    = .next (if s.service m = 3 then State.put { s with mem := s.mem.zeroChannel m } F.MCHSTAT_SERVICE m 0 else s) :=
  within_channels hm _

theorem exec_generatorDone (hm : m < 192) : exec (.generatorDone m errs) s
    = .next (if s.get F.MCHSTAT_TGRUN m = 1 then s.genEnd m (SMap.get GenRun.reset s.gens m).total errs else s) :=
  within_channels hm _

/-! ## Service states and refusals (R234, R236) -/

theorem State.service_eq (s : State) (m : Nat) :
    s.service m = if ¬ s.get F.MCHMAP_ACTIVE m = 1 ∨ s.stackFenced m = true then 2 else s.get F.MCHSTAT_SERVICE m := by
  unfold State.service
  simp

theorem State.service_mapped (ha : s.get F.MCHMAP_ACTIVE m = 1) (hf : s.stackFenced m = false) :
    s.service m = s.get F.MCHSTAT_SERVICE m := by
  rw [State.service_eq, if_neg (by rw [hf]; simp [ha])]

theorem State.serviceRefused_iff (s : State) (m : Nat) :
    s.serviceRefused m = true ↔ s.jobRuns = true ∨ ¬ s.get F.MCHMAP_ACTIVE m = 1 := by
  unfold State.serviceRefused
  simp

theorem State.reg_mchDone (hm : m < 192) {q : Reg} {j : Nat} (hj : j < 2 ^ 24) (hq : q ≠ .MCHCTL) :
    (s.askDone .MCHCTL m).reg q j = s.reg q j := State.reg_askDone_other s _ _ (by omega) hj (.inl hq)

theorem State.get_mchDone (hm : m < 192) {f : Fld} (hf : f.reg ≠ .MCHCTL) : (s.askDone .MCHCTL m).get f m = s.get f m :=
  State.get_of_reg (State.reg_mchDone hm (by omega) hf)

theorem State.onlyWaits_parts {t : State} (h : t.onlyWaits s) :
    t.mem = s.mem ∧ t.tiles = s.tiles ∧ t.fab = s.fab ∧ t.power = s.power ∧ t.gens = s.gens := by
  unfold State.onlyWaits at h
  exact ⟨(congrArg State.mem h :), (congrArg State.tiles h :), (congrArg State.fab h :), (congrArg State.power h :), (congrArg State.gens h :)⟩

theorem State.mchDone_parts : (s.askDone .MCHCTL m).mem = s.mem ∧ (s.askDone .MCHCTL m).tiles = s.tiles
    ∧ (s.askDone .MCHCTL m).fab = s.fab ∧ (s.askDone .MCHCTL m).power = s.power ∧ (s.askDone .MCHCTL m).gens = s.gens :=
  State.onlyWaits_parts (State.onlyWaits_askDone s.onlyWaits_refl _ _)

theorem State.stackFenced_mchDone : (s.askDone .MCHCTL m).stackFenced m = s.stackFenced m := by
  unfold State.stackFenced
  rw [State.mchDone_parts.2.2.2.1]

theorem State.service_mchDone (hm : m < 192) : (s.askDone .MCHCTL m).service m = s.service m := by
  rw [State.service_eq, State.service_eq, State.get_mchDone hm (by decide), State.get_mchDone hm (by decide),
    State.stackFenced_mchDone]

/-- What a refused action of MCHCTL leaves: REFUSED, no other service state, the waiting write gone and its record (R511). -/
def State.refusedAction (t s : State) (hearth : Bool) (m : Nat) : Prop :=
  t.get F.MCHSTAT_REFUSED m = 1 ∧ t.mem = s.mem ∧ t.tiles = s.tiles ∧ t.fab = s.fab
  ∧ t.get F.MCHSTAT_SERVICE m = s.get F.MCHSTAT_SERVICE m ∧ t.ask .MCHCTL m = none
  ∧ t.get F.CSLAST_VALID (bankOf hearth) = 1 ∧ t.get F.CSLAST_KIND (bankOf hearth) = 2

theorem State.onlyWaits_mchRefuse (s : State) (hearth : Bool) (m : Nat) : (s.mchRefuse hearth m).onlyWaits s := by
  unfold State.mchRefuse State.noEffect State.record State.bump
  exact State.onlyWaits_put (State.onlyWaits_put (State.onlyWaits_put (State.onlyWaits_put (State.onlyWaits_askDone
    (State.onlyWaits_put s.onlyWaits_refl _ _ _) _ _) _ _ _) _ _ _) _ _ _) _ _ _

theorem State.onlyRegs_asks {t : State} (h : t.onlyRegs s) : t.asks = s.asks := by
  unfold State.onlyRegs at h
  exact (congrArg State.asks h :)

theorem State.ask_mchRefuse (s : State) (hearth : Bool) (m : Nat) : (s.mchRefuse hearth m).ask .MCHCTL m = none := by
  unfold State.mchRefuse State.noEffect State.ask
  rw [State.onlyRegs_asks (State.onlyRegs_record (State.onlyRegs_refl _) _ _ _)]
  exact State.ask_askDone_same _ _ _

theorem State.mchRefuse_refused (hm : m < 192) : (s.mchRefuse hearth m).refusedAction s hearth m := by
  obtain ⟨hmem, htiles, hfab, -⟩ := State.onlyWaits_parts (State.onlyWaits_mchRefuse s hearth m)
  have hreg : (s.mchRefuse hearth m).reg .MCHSTAT m = (s.put F.MCHSTAT_REFUSED m 1).reg .MCHSTAT m :=
    (State.reg_record _ hearth 2 _ (by omega) (.inl ⟨by decide, by decide⟩)).trans (State.reg_mchDone hm (by omega) (by decide))
  refine ⟨?_, hmem, htiles, hfab, ?_, s.ask_mchRefuse hearth m, State.record_valid _ _ _ _, State.record_kind _ _ _ (by decide)⟩
  · rw [State.get_of_reg (f := F.MCHSTAT_REFUSED) hreg, State.get_put_same _ _ _ _ (by decide) (by decide)]
    rfl
  · rw [State.get_of_reg (f := F.MCHSTAT_SERVICE) hreg]
    exact State.get_put_field _ _ _ rfl (by decide) (by decide) (.inr (by decide))

/-- No context may run and the channel must be mapped in, else both service actions are refused (R234, R236). -/
theorem service_actions_refused (hm : m < 192) (h : s.jobRuns = true ∨ ¬ s.get F.MCHMAP_ACTIVE m = 1) (errs : List TgErr) :
    (∃ t, exec (.takeOutOfService hearth m) s = .next t ∧ t.refusedAction s hearth m)
    ∧ ∃ t, exec (.returnToService hearth m errs) s = .next t ∧ t.refusedAction s hearth m := by
  have hr := (s.serviceRefused_iff m).2 h
  have hspec := State.mchRefuse_refused (s := s) (hearth := hearth) hm
  refine ⟨⟨s.mchRefuse hearth m, ?_, hspec⟩, ⟨s.mchRefuse hearth m, ?_, hspec⟩⟩
  · rw [exec_takeOutOfService hm, State.takeOut, if_pos hr]
  · rw [exec_returnToService hm, State.returnIn, if_pos hr]

end

section
variable {hearth : Bool} {m : Nat} {s : State} (hm : m < 192) (hj : s.jobRuns = false) (ha : s.get F.MCHMAP_ACTIVE m = 1)
include hm hj ha

omit hm in
theorem serviceRefused_idle : ¬ s.serviceRefused m = true := by
  rw [State.serviceRefused_iff, hj]
  simp [ha]

theorem takeOut_inService (h : s.service m = 0) : exec (.takeOutOfService hearth m) s
    = .next (((s.askDone .MCHCTL m).flushChannel m).put F.MCHSTAT_SERVICE m 1) := by
  rw [exec_takeOutOfService hm]
  exact congrArg _ ((if_neg (serviceRefused_idle hj ha)).trans (if_pos ((State.service_mchDone hm).trans h)))

theorem takeOut_otherState (h : s.service m ≠ 0) : exec (.takeOutOfService hearth m) s = .next (s.askDone .MCHCTL m) := by
  rw [exec_takeOutOfService hm]
  exact congrArg _ ((if_neg (serviceRefused_idle hj ha)).trans (if_neg (by rwa [State.service_mchDone hm])))

theorem returnIn_otherState (h : s.service m ≠ 2 ∨ s.stackFenced m = true) (errs : List TgErr) :
    exec (.returnToService hearth m errs) s = .next (s.askDone .MCHCTL m) := by
  rw [exec_returnToService hm]
  refine congrArg _ ((if_neg (serviceRefused_idle hj ha)).trans (if_neg ?_))
  rw [State.service_mchDone hm, State.stackFenced_mchDone]
  rcases h with h | h <;> simp [h]

theorem returnIn_out (h : s.service m = 2) (hf : s.stackFenced m = false) (errs : List TgErr) :
    exec (.returnToService hearth m errs) s = .next (State.put (if s.get F.MCHSTAT_TGRUN m = 1
      then (s.askDone .MCHCTL m).genHalt m errs else s.askDone .MCHCTL m) F.MCHSTAT_SERVICE m 3) := by
  rw [exec_returnToService hm, ← State.get_mchDone (s := s) (f := F.MCHSTAT_TGRUN) hm (by decide)]
  refine congrArg _ ((if_neg (serviceRefused_idle hj ha)).trans (if_pos ?_))
  rw [State.service_mchDone hm, State.stackFenced_mchDone, h, hf]
  rfl

end

/-! ## A channel's lines flushed, and its bytes zeroed (R232, R234) -/

/-- An eviction adds no line. -/
theorem Mem.evict_lines_sub {m : Mem} {k : Nat} {e : Nat × Line} (h : e ∈ (m.evict k).lines) : e.1 ≠ k ∧ e ∈ m.lines := by
  obtain ⟨hmem, hk⟩ := List.mem_filter.1 (show e ∈ SMap.del (m.writeBack k).lines k from h)
  have hk : e.1 ≠ k := of_decide_eq_true hk
  refine ⟨hk, ?_⟩
  cases hl : m.line k with
  | none => rwa [Mem.writeBack_none hl] at hmem
  | some l =>
    rw [Mem.writeBack_some hl] at hmem
    rcases SMap.mem_ins hmem with rfl | hmem
    · exact absurd rfl hk
    · rwa [(Mem.writeBacks_frame k l.dirty (List.range 8) m).2.1] at hmem

theorem Mem.evicts_lines_sub {ks : List Nat} {m : Mem} {e : Nat × Line} (h : e ∈ (ks.foldl Mem.evict m).lines) :
    e.1 ∉ ks ∧ e ∈ m.lines := by
  induction ks generalizing m with
  | nil => exact ⟨List.not_mem_nil, h⟩
  | cons k ks ih =>
    obtain ⟨hks, he⟩ := ih h
    obtain ⟨hk, he⟩ := Mem.evict_lines_sub he
    exact ⟨fun h => (List.mem_cons.1 h).elim hk hks, he⟩

/-- Every line of channel `ch` written back and dropped. -/
def Mem.flushed (m : Mem) (ch : Nat) : Mem := (m.linesOf ch).foldl Mem.evict m

theorem State.flushChannel_eq {s : State} (hc : s.mem.combs = []) (m : Nat) :
    s.flushChannel m = { s with mem := s.mem.flushed m } := by
  unfold State.flushChannel
  rw [hc]
  rfl

theorem Mem.linesOf_flushed (m : Mem) (ch : Nat) : (m.flushed ch).linesOf ch = [] := by
  refine List.map_eq_nil_iff.2 (List.filter_eq_nil_iff.2 fun e he hch => ?_)
  obtain ⟨hout, hin⟩ := Mem.evicts_lines_sub he
  exact hout (List.mem_map.2 ⟨e, List.mem_filter.2 ⟨hin, hch⟩, rfl⟩)

theorem Mem.keeps_flushed {m : Mem} (hm : m.coherent) (ch : Nat) : (m.flushed ch).keeps m none :=
  Mem.keeps_foldl (P := Mem.coherent) (fun _ k hu => (Mem.keeps_evict hu k).coherent hu)
    (fun _ k _ hu => Mem.keeps_evict hu k) hm

/-- What a channel that leaves service shows: no line of it, every sector as before. -/
theorem State.flushChannel_spec {s : State} (hm : s.mem.coherent) (hc : s.mem.combs = []) (m v : Nat) :
    ((s.flushChannel m).put F.MCHSTAT_SERVICE m v).get F.MCHSTAT_SERVICE m = v % 4
    ∧ ((s.flushChannel m).put F.MCHSTAT_SERVICE m v).mem.linesOf m = []
    ∧ ((s.flushChannel m).put F.MCHSTAT_SERVICE m v).mem.sectorsKept s.mem none
    ∧ ((s.flushChannel m).put F.MCHSTAT_SERVICE m v).mem.coherent
    ∧ ((s.flushChannel m).put F.MCHSTAT_SERVICE m v).tiles = s.tiles
    ∧ ((s.flushChannel m).put F.MCHSTAT_SERVICE m v).asks = s.asks := by
  have hk := Mem.keeps_flushed hm m
  rw [State.flushChannel_eq hc]
  exact ⟨State.get_put_same _ _ _ _ (by decide) (by decide), s.mem.linesOf_flushed m, hk.sectorsKept, hk.coherent hm, rfl, rfl⟩

theorem sectorKey_channel {c q sec i : Nat} (hq : q < 2 ^ 25) (hs : sec < 8) (hi : i < 36) :
    storedKey (sectorKey c q sec) i / 36 / 8 / 2 ^ 25 = c := by
  unfold storedKey sectorKey lineKey
  omega

theorem lineKey_channel {c q : Nat} (hq : q < 2 ^ 25) : lineKey c q / 2 ^ 25 = c := by
  unfold lineKey
  omega

/-- Bytes kept by their channel: those of one channel read 0, those of another what they were. -/
theorem rdStored_keep (x : List Host.Cell) {m c q sec : Nat} (hq : q < 2 ^ 25) (hs : sec < 8) :
    rdStored (SMap.keep x fun k => decide (k / 36 / 8 / 2 ^ 25 ≠ m)) (sectorKey c q sec)
      = if c = m then List.replicate 36 0 else rdStored x (sectorKey c q sec) := by
  have hget : ∀ i, i < 36 → SMap.get 0 (SMap.keep x fun k => decide (k / 36 / 8 / 2 ^ 25 ≠ m)) (storedKey (sectorKey c q sec) i)
      = if c = m then 0 else SMap.get 0 x (storedKey (sectorKey c q sec) i) := fun i hi => by
    unfold SMap.get
    rw [SMap.look_keep, sectorKey_channel hq hs hi]
    by_cases h : c = m <;> simp [h]
  by_cases h : c = m
  · rw [if_pos h, List.eq_replicate_iff]
    refine ⟨rdStored_length _ _, fun b hb => ?_⟩
    obtain ⟨i, hi, rfl⟩ := List.mem_map.1 hb
    rw [hget i (List.mem_range.1 hi), if_pos h]
    rfl
  · rw [if_neg h]
    exact rdStored_congr fun i hi => (hget i hi).trans (if_neg h)

theorem Mem.line_zeroChannel (x : Mem) (m : Nat) {c q : Nat} (hq : q < 2 ^ 25) :
    (x.zeroChannel m).line (lineKey c q) = if c = m then none else x.line (lineKey c q) := by
  unfold Mem.line Mem.zeroChannel
  dsimp only
  rw [SMap.look_keep, lineKey_channel hq]
  by_cases h : c = m <;> simp [h]

theorem Mem.sector_zeroChannel (x : Mem) (m : Nat) {c q sec : Nat} (hq : q < 2 ^ 25) (hs : sec < 8) :
    (x.zeroChannel m).sector c q sec = if c = m then List.replicate 36 0 else x.sector c q sec := by
  have hh : rdStored (x.zeroChannel m).hbm (sectorKey c q sec) = _ := rdStored_keep x.hbm hq hs
  have hb : rdStored (x.zeroChannel m).cbytes (sectorKey c q sec) = _ := rdStored_keep x.cbytes hq hs
  unfold Mem.sector
  rw [Mem.line_zeroChannel x m hq, hh, hb]
  by_cases h : c = m
  · simp only [if_pos h]
  · simp only [if_neg h]

section
variable {hearth : Bool} {m : Nat} {s : State} (hm : m < 192) (ha : s.get F.MCHMAP_ACTIVE m = 1) (hf : s.stackFenced m = false)
include hm ha hf

/-- A channel IN_SERVICE starts to leave with its cached data written back (R234). -/
theorem takeOut_writesBack (hc : s.mem.combs = []) (hcoh : s.mem.coherent) (hj : s.jobRuns = false)
    (hsv : s.get F.MCHSTAT_SERVICE m = 0) : ∃ t, exec (.takeOutOfService hearth m) s = .next t ∧ t.get F.MCHSTAT_SERVICE m = 1
      ∧ t.mem.linesOf m = [] ∧ t.mem.sectorsKept s.mem none ∧ t.mem.coherent ∧ t.tiles = s.tiles ∧ t.ask .MCHCTL m = none := by
  have hx := takeOut_inService (hearth := hearth) hm hj ha ((State.service_mapped ha hf).trans hsv)
  have hu := s.ask_askDone_same .MCHCTL m
  obtain ⟨hmem, htiles, -⟩ := State.mchDone_parts (s := s) (m := m)
  generalize s.askDone .MCHCTL m = u at hx hu hmem htiles
  rw [← hmem] at hc hcoh
  obtain ⟨h1, h2, h3, h4, h5, h6⟩ := State.flushChannel_spec hcoh hc m 1
  refine ⟨_, hx, h1, h2, hmem ▸ h3, h4, h5.trans htiles, ?_⟩
  unfold State.ask at hu ⊢
  rw [h6, hu]

/-- It is OUT once what its accesses left in the cache since is written back too (R234). -/
theorem leavingDone_writesBack (hc : s.mem.combs = []) (hcoh : s.mem.coherent) (hsv : s.get F.MCHSTAT_SERVICE m = 1) :
    ∃ t, exec (.channelLeavingDone m) s = .next t ∧ t.get F.MCHSTAT_SERVICE m = 2 ∧ t.mem.linesOf m = []
      ∧ t.mem.sectorsKept s.mem none ∧ t.mem.coherent ∧ t.tiles = s.tiles := by
  obtain ⟨h1, h2, h3, h4, h5, -⟩ := State.flushChannel_spec hcoh hc m 2
  exact ⟨_, (exec_channelLeavingDone hm).trans (congrArg _ (if_pos ((State.service_mapped ha hf).trans hsv))), h1, h2, h3, h4, h5⟩

/-- A filled channel is IN_SERVICE with every sector zero, and no other channel's sectors change (R232, R234). -/
theorem fillDone_zeroes (hsv : s.get F.MCHSTAT_SERVICE m = 3) : ∃ t, exec (.channelFillDone m) s = .next t
    ∧ t.get F.MCHSTAT_SERVICE m = 0 ∧ t.tiles = s.tiles
    ∧ (∀ q sec, q < 2 ^ 25 → sec < 8 → t.mem.sector m q sec = List.replicate 36 0)
    ∧ ∀ c q sec, c ≠ m → q < 2 ^ 25 → sec < 8 → t.mem.sector c q sec = s.mem.sector c q sec :=
  ⟨_, (exec_channelFillDone hm).trans (congrArg _ (if_pos ((State.service_mapped ha hf).trans hsv))),
    State.get_put_same _ _ _ _ (by decide) (by decide), rfl,
    fun _ _ hq hs => (s.mem.sector_zeroChannel m hq hs).trans (if_pos rfl),
    fun _ _ _ hc hq hs => (s.mem.sector_zeroChannel m hq hs).trans (if_neg hc)⟩

end

end Sys2Proof.Machine

/-! The results of a generator's run, its start and its stop (R237, R238). -/

namespace Sys2Proof.Machine

/-! ## Counting what the checker found -/

section
variable {m : Nat} (hm : m < 192) {l : List (Nat × Nat)}

/-- Every mismatch of a run counted, in all and on its lane. -/
def State.tally (s : State) (m : Nat) (l : List (Nat × Nat)) : State :=
  l.foldl (fun (u : State) e => (u.bump F.TGERR_BITS m 1).bump F.TGLANE_MISMATCH (72 * m + e.1) 1) s

theorem State.tally_cons (s : State) (m : Nat) (e : Nat × Nat) (l : List (Nat × Nat)) :
    s.tally m (e :: l) = ((s.bump F.TGERR_BITS m 1).bump F.TGLANE_MISMATCH (72 * m + e.1) 1).tally m l := rfl

theorem State.onlyRegs_tally (s : State) (m : Nat) (l : List (Nat × Nat)) : (s.tally m l).onlyRegs s :=
  foldl_prop (P := fun u : State => u.onlyRegs s) (fun _ _ hu => State.onlyRegs_bump (State.onlyRegs_bump hu _ _ _) _ _ _)
    s.onlyRegs_refl

theorem min_add_min (b x y : Nat) : min b (min b x + y) = min b (x + y) := by omega

include hm

theorem State.reg_tally (hl : ∀ e ∈ l, e.1 < 72) (s : State) {q : Reg} {j : Nat} (hj : j < 2 ^ 24) (h1 : q ≠ .TGERR) (h2 : q ≠ .TGLANE) :
    (s.tally m l).reg q j = s.reg q j := by
  induction l generalizing s with
  | nil => rfl
  | cons e l ih =>
    obtain ⟨he, hl⟩ := List.forall_mem_cons.1 hl
    rw [State.tally_cons, ih hl, State.reg_bump_other _ _ (by omega) hj (.inl h2), State.reg_bump_other _ _ (by omega) hj (.inl h1)]

theorem State.tally_bits (hl : ∀ e ∈ l, e.1 < 72) (s : State) :
    (s.tally m l).get F.TGERR_BITS m = min (2 ^ 64 - 1) (s.get F.TGERR_BITS m + l.length) := by
  induction l generalizing s with
  | nil => exact (Nat.min_eq_right (Nat.le_sub_one_of_lt (bits_lt _ 63 0))).symm
  | cons e l ih =>
    obtain ⟨he, hl⟩ := List.forall_mem_cons.1 hl
    have hlane : ((s.bump F.TGERR_BITS m 1).bump F.TGLANE_MISMATCH (72 * m + e.1) 1).get F.TGERR_BITS m
        = (s.bump F.TGERR_BITS m 1).get F.TGERR_BITS m :=
      State.get_of_reg (State.reg_bump_other _ _ (by omega) (by omega) (.inl (by decide)))
    rw [State.tally_cons, ih hl, hlane, State.get_bump_same _ _ _ _ (by decide) (by decide), List.length_cons]
    exact (min_add_min _ _ _).trans (by rw [Nat.add_assoc, Nat.add_comm 1])

theorem State.tally_lane (hl : ∀ e ∈ l, e.1 < 72) {k : Nat} (hk : k < 72) (s : State) :
    (s.tally m l).get F.TGLANE_MISMATCH (72 * m + k)
      = min (2 ^ 32 - 1) (s.get F.TGLANE_MISMATCH (72 * m + k) + (l.filter fun e => decide (e.1 = k)).length) := by
  induction l generalizing s with
  | nil => exact (Nat.min_eq_right (Nat.le_sub_one_of_lt (bits_lt _ 31 0))).symm
  | cons e l ih =>
    obtain ⟨he, hl⟩ := List.forall_mem_cons.1 hl
    have hall : (s.bump F.TGERR_BITS m 1).get F.TGLANE_MISMATCH (72 * m + k) = s.get F.TGLANE_MISMATCH (72 * m + k) :=
      State.get_of_reg (State.reg_bump_other _ _ (by omega) (by omega) (.inl (by decide)))
    rw [State.tally_cons, ih hl, List.filter_cons]
    by_cases h : e.1 = k
    · rw [h, State.get_bump_same _ _ _ _ (by decide) (by decide), hall, if_pos (by simp), List.length_cons]
      exact (min_add_min _ _ _).trans (by rw [Nat.add_assoc, Nat.add_comm 1])
    · have hother : ((s.bump F.TGERR_BITS m 1).bump F.TGLANE_MISMATCH (72 * m + e.1) 1).get F.TGLANE_MISMATCH (72 * m + k)
          = (s.bump F.TGERR_BITS m 1).get F.TGLANE_MISMATCH (72 * m + k) :=
        State.get_of_reg (State.reg_bump_other _ _ (by omega) (by omega) (.inr (by omega)))
      rw [hother, hall, if_neg (by simpa using h)]

end

/-! ## The end of a run (R237) -/

/-- The run is over, with its writes in memory. -/
def State.runOver (s : State) (m : Nat) (x : Mem) : State :=
  (State.put { s with mem := x, gens := SMap.set .reset s.gens m .reset } F.MCHSTAT_TGRUN m 0).put F.MCHSTAT_TGDONE m 1

/-- The first mismatch found, if any, reported. -/
def State.noteFirst (s : State) (m : Nat) : List (Nat × Nat) → State
  | [] => s
  | e :: _ => (((s.put F.MCHSTAT_TGFAIL m 1).put F.TGFIRST_VALID m 1).put F.TGFIRST_LANE m e.1).put F.TGFIRST_ADDR m e.2

theorem State.genEnd_eq (s : State) (m w : Nat) (errs : List TgErr) :
    let run := genMoves (SMap.get .reset s.gens m) m w errs s.mem
    s.genEnd m w errs = ((s.runOver m run.1).tally m run.2.reverse).noteFirst m run.2.reverse := by
  intro run
  unfold State.genEnd State.noteFirst
  dsimp only
  cases run.2.reverse <;> rfl

/-- State `t` is what a run of channel `m` leaves of `s` after `w` granule moves. -/
def State.ranTo (t s : State) (m w : Nat) (errs : List TgErr) : Prop :=
  let run := genMoves (SMap.get GenRun.reset s.gens m) m w errs s.mem
  let found := run.2.reverse
  t.get F.MCHSTAT_TGRUN m = 0 ∧ t.get F.MCHSTAT_TGDONE m = 1 ∧ t.mem = run.1 ∧ SMap.get GenRun.reset t.gens m = GenRun.reset
  ∧ t.tiles = s.tiles ∧ t.fab = s.fab
  ∧ t.get F.TGERR_BITS m = min (2 ^ 64 - 1) (s.get F.TGERR_BITS m + found.length)
  ∧ (∀ k, k < 72 → t.get F.TGLANE_MISMATCH (72 * m + k)
      = min (2 ^ 32 - 1) (s.get F.TGLANE_MISMATCH (72 * m + k) + (found.filter fun e => decide (e.1 = k)).length))
  ∧ (∀ e, found.head? = some e → t.get F.MCHSTAT_TGFAIL m = 1 ∧ t.get F.TGFIRST_VALID m = 1
      ∧ t.get F.TGFIRST_LANE m = e.1 ∧ t.get F.TGFIRST_ADDR m = e.2 % 2 ^ 33)
  ∧ (found = [] → t.get F.MCHSTAT_TGFAIL m = s.get F.MCHSTAT_TGFAIL m)

section
variable {m : Nat} {s : State} {l : List (Nat × Nat)}

theorem State.runOver_parts (x : Mem) : (s.runOver m x).mem = x ∧ SMap.get GenRun.reset (s.runOver m x).gens m = GenRun.reset
    ∧ (s.runOver m x).tiles = s.tiles ∧ (s.runOver m x).fab = s.fab ∧ (s.runOver m x).asks = s.asks := by
  refine ⟨rfl, ?_, rfl, rfl, rfl⟩
  show SMap.get GenRun.reset (SMap.set GenRun.reset s.gens m GenRun.reset) m = _
  rw [SMap.get_set, if_pos rfl]

theorem State.reg_runOver (x : Mem) {q : Reg} {j : Nat} (hm : m < 192) (hj : j < 2 ^ 24) (hq : q ≠ .MCHSTAT) :
    (s.runOver m x).reg q j = s.reg q j := by
  unfold State.runOver
  rw [State.reg_put_other _ _ (by omega) hj (.inl hq), State.reg_put_other _ _ (by omega) hj (.inl hq)]
  exact State.reg_congr rfl q j

theorem State.runOver_status (x : Mem) : (s.runOver m x).get F.MCHSTAT_TGRUN m = 0 ∧ (s.runOver m x).get F.MCHSTAT_TGDONE m = 1
    ∧ (s.runOver m x).get F.MCHSTAT_TGFAIL m = s.get F.MCHSTAT_TGFAIL m := by
  unfold State.runOver
  refine ⟨?_, State.get_put_same _ _ _ _ (by decide) (by decide), ?_⟩
  · rw [State.get_put_field (f := F.MCHSTAT_TGDONE) (g := F.MCHSTAT_TGRUN) _ _ _ rfl (by decide) (by decide) (.inr (by decide))]
    exact State.get_put_same _ _ _ _ (by decide) (by decide)
  · rw [State.get_put_field (f := F.MCHSTAT_TGDONE) (g := F.MCHSTAT_TGFAIL) _ _ _ rfl (by decide) (by decide) (.inl (by decide)),
      State.get_put_field (f := F.MCHSTAT_TGRUN) (g := F.MCHSTAT_TGFAIL) _ _ _ rfl (by decide) (by decide) (.inl (by decide))]
    exact State.get_congr rfl _ _

theorem State.onlyRegs_noteFirst (s : State) (m : Nat) (l : List (Nat × Nat)) : (s.noteFirst m l).onlyRegs s := by
  cases l with
  | nil => exact s.onlyRegs_refl
  | cons e l => exact State.onlyRegs_put (State.onlyRegs_put (State.onlyRegs_put (State.onlyRegs_put s.onlyRegs_refl _ _ _) _ _ _) _ _ _) _ _ _

theorem State.reg_noteFirst {q : Reg} {j : Nat} (hm : m < 192) (hj : j < 2 ^ 24) (h1 : q ≠ .MCHSTAT) (h2 : q ≠ .TGFIRST) :
    (s.noteFirst m l).reg q j = s.reg q j := by
  cases l with
  | nil => rfl
  | cons e l =>
    unfold State.noteFirst
    rw [State.reg_put_other _ _ (by omega) hj (.inl h2), State.reg_put_other _ _ (by omega) hj (.inl h2),
      State.reg_put_other _ _ (by omega) hj (.inl h2), State.reg_put_other _ _ (by omega) hj (.inl h1)]

/-- The status register, once the first mismatch is noted: only TGFAIL can have changed. -/
theorem State.status_noteFirst (hm : m < 192) {e : Nat × Nat} {g : Fld} (hg : g.reg = .MCHSTAT) :
    (s.noteFirst m (e :: l)).get g m = (s.put F.MCHSTAT_TGFAIL m 1).get g m := by
  unfold State.noteFirst
  have hne : ∀ {f : Fld}, f.reg = .TGFIRST → g.reg ≠ f.reg := fun hf h => by rw [hg, hf] at h; exact absurd h (by decide)
  rw [State.get_put_other _ _ (by omega) (by omega) (.inl (hne rfl)), State.get_put_other _ _ (by omega) (by omega) (.inl (hne rfl)),
    State.get_put_other _ _ (by omega) (by omega) (.inl (hne rfl))]

theorem State.noteFirst_status (hm : m < 192) : (s.noteFirst m l).get F.MCHSTAT_TGRUN m = s.get F.MCHSTAT_TGRUN m
    ∧ (s.noteFirst m l).get F.MCHSTAT_TGDONE m = s.get F.MCHSTAT_TGDONE m := by
  cases l with
  | nil => exact ⟨rfl, rfl⟩
  | cons e l =>
    rw [State.status_noteFirst hm rfl, State.status_noteFirst hm rfl]
    exact ⟨State.get_put_field _ _ _ rfl (by decide) (by decide) (.inr (by decide)),
      State.get_put_field _ _ _ rfl (by decide) (by decide) (.inr (by decide))⟩

theorem State.noteFirst_some (hm : m < 192) {e : Nat × Nat} (he : e.1 < 72) (h : l.head? = some e) :
    (s.noteFirst m l).get F.MCHSTAT_TGFAIL m = 1 ∧ (s.noteFirst m l).get F.TGFIRST_VALID m = 1
      ∧ (s.noteFirst m l).get F.TGFIRST_LANE m = e.1 ∧ (s.noteFirst m l).get F.TGFIRST_ADDR m = e.2 % 2 ^ 33 := by
  cases l with
  | nil => exact absurd h nofun
  | cons e' l =>
    cases Option.some.inj h
    refine ⟨?_, ?_, ?_, ?_⟩
    · rw [State.status_noteFirst hm rfl]
      exact State.get_put_same _ _ _ _ (by decide) (by decide)
    all_goals unfold State.noteFirst
    · rw [State.get_put_field (f := F.TGFIRST_ADDR) (g := F.TGFIRST_VALID) _ _ _ rfl (by decide) (by decide) (.inl (by decide)),
        State.get_put_field (f := F.TGFIRST_LANE) (g := F.TGFIRST_VALID) _ _ _ rfl (by decide) (by decide) (.inl (by decide))]
      exact State.get_put_same _ _ _ _ (by decide) (by decide)
    · rw [State.get_put_field (f := F.TGFIRST_ADDR) (g := F.TGFIRST_LANE) _ _ _ rfl (by decide) (by decide) (.inl (by decide)),
        State.get_put_same _ _ _ _ (by decide) (by decide)]
      exact Nat.mod_eq_of_lt (by show e.1 < 2 ^ 7; omega)
    · exact State.get_put_same _ _ _ _ (by decide) (by decide)

end

theorem State.onlyRegs_parts {s t : State} (h : t.onlyRegs s) : t.mem = s.mem ∧ t.gens = s.gens ∧ t.tiles = s.tiles ∧ t.fab = s.fab := by
  unfold State.onlyRegs at h
  exact ⟨(congrArg State.mem h :), (congrArg State.gens h :), (congrArg State.tiles h :), (congrArg State.fab h :)⟩

section
variable {m : Nat} {s : State} (w : Nat) (errs : List TgErr)

theorem State.asks_genEnd : (s.genEnd m w errs).asks = s.asks := by
  rw [State.genEnd_eq, State.onlyRegs_asks (State.onlyRegs_noteFirst _ _ _), State.onlyRegs_asks (State.onlyRegs_tally _ _ _)]
  exact (State.runOver_parts _).2.2.2.2

theorem State.genEnd_ranTo (hm : m < 192) : (s.genEnd m w errs).ranTo s m w errs := by
  have hlanes : ∀ e ∈ (genMoves (SMap.get GenRun.reset s.gens m) m w errs s.mem).2.reverse, e.1 < 72 := fun e he =>
    genMoves_lanes w errs s.mem e (List.mem_reverse.1 he)
  rw [State.genEnd_eq]
  unfold State.ranTo
  dsimp only
  generalize genMoves (SMap.get GenRun.reset s.gens m) m w errs s.mem = run at hlanes ⊢
  generalize run.2.reverse = found at hlanes ⊢
  obtain ⟨nmem, ngens, ntiles, nfab⟩ := State.onlyRegs_parts (State.onlyRegs_noteFirst ((s.runOver m run.1).tally m found) m found)
  obtain ⟨tmem, tgens, ttiles, tfab⟩ := State.onlyRegs_parts (State.onlyRegs_tally (s.runOver m run.1) m found)
  obtain ⟨rmem, rgens, rtiles, rfab, -⟩ := State.runOver_parts (s := s) (m := m) run.1
  obtain ⟨rrun, rdone, rfail⟩ := State.runOver_status (s := s) (m := m) run.1
  obtain ⟨nrun, ndone⟩ := State.noteFirst_status (s := (s.runOver m run.1).tally m found) (l := found) hm
  have hstat : ((s.runOver m run.1).tally m found).reg .MCHSTAT m = (s.runOver m run.1).reg .MCHSTAT m :=
    State.reg_tally hm hlanes _ (by omega) (by decide) (by decide)
  have hkept : ∀ {f : Fld} {j : Nat}, j < 2 ^ 24 → f.reg ≠ .MCHSTAT → (s.runOver m run.1).get f j = s.get f j := fun hj hf =>
    State.get_of_reg (State.reg_runOver run.1 hm hj hf)
  have hfirst : ∀ {f : Fld} {j : Nat}, j < 2 ^ 24 → f.reg ≠ .MCHSTAT → f.reg ≠ .TGFIRST →
      (((s.runOver m run.1).tally m found).noteFirst m found).get f j = ((s.runOver m run.1).tally m found).get f j :=
    fun hj h1 h2 => State.get_of_reg (State.reg_noteFirst hm hj h1 h2)
  refine ⟨?_, ?_, nmem.trans (tmem.trans rmem), ?_, ntiles.trans (ttiles.trans rtiles), nfab.trans (tfab.trans rfab), ?_,
    fun k hk => ?_, fun e he => State.noteFirst_some hm (hlanes e (List.mem_of_mem_head? he)) he, ?_⟩
  · rw [nrun, State.get_of_reg (f := F.MCHSTAT_TGRUN) hstat, rrun]
  · rw [ndone, State.get_of_reg (f := F.MCHSTAT_TGDONE) hstat, rdone]
  · rw [ngens, tgens, rgens]
  · rw [hfirst (by omega) (by decide) (by decide), State.tally_bits hm hlanes, hkept (by omega) (by decide)]
  · rw [hfirst (by omega) (by decide) (by decide), State.tally_lane hm hlanes hk, hkept (by omega) (by decide)]
  · rintro rfl
    exact rfail

end

/-- A run's end is the same from every state with the same memory, run and registers. -/
theorem State.ranTo.congr {t u s : State} {m w : Nat} {errs : List TgErr} (h : t.ranTo u m w errs) (hm : m < 192)
    (hmem : u.mem = s.mem) (hgens : u.gens = s.gens) (htiles : u.tiles = s.tiles) (hfab : u.fab = s.fab)
    (hreg : ∀ (q : Reg) (j : Nat), j < 2 ^ 24 → q ≠ .MCHCTL → u.reg q j = s.reg q j) : t.ranTo s m w errs := by
  have hget : ∀ {f : Fld} {j : Nat}, j < 2 ^ 24 → f.reg ≠ .MCHCTL → u.get f j = s.get f j := fun hj hf =>
    State.get_of_reg (hreg _ _ hj hf)
  unfold State.ranTo at h ⊢
  dsimp only at h ⊢
  rw [hmem, hgens, htiles, hfab, hget (by omega) (by decide), hget (by omega) (by decide)] at h
  obtain ⟨h1, h2, h3, h4, h5, h6, h7, h8, h9⟩ := h
  exact ⟨h1, h2, h3, h4, h5, h6, h7, fun k hk => (h8 k hk).trans (by rw [hget (by omega) (by decide)]), h9⟩

theorem State.drawTime_parts (u : State) : u.drawTime.2.mem = u.mem ∧ u.drawTime.2.gens = u.gens ∧ u.drawTime.2.tiles = u.tiles
    ∧ u.drawTime.2.fab = u.fab ∧ u.drawTime.2.regs = u.regs ∧ u.drawTime.2.asks = u.asks := by
  unfold State.drawTime
  exact ⟨rfl, rfl, rfl, rfl, rfl, rfl⟩

section
variable {m : Nat} {s : State} (hm : m < 192) (errs : List TgErr)
include hm

/-- A stop ends the run at a granule boundary, later than its start if it moves anything (R237). -/
theorem genHalt_ranTo : ∃ w, w ≤ (SMap.get GenRun.reset s.gens m).total ∧ (0 < (SMap.get GenRun.reset s.gens m).total → 0 < w)
    ∧ ((s.askDone .MCHCTL m).genHalt m errs).ranTo s m w errs
    ∧ ((s.askDone .MCHCTL m).genHalt m errs).ask .MCHCTL m = none := by
  obtain ⟨hmem, htiles, hfab, -, hgens⟩ := State.mchDone_parts (s := s) (m := m)
  have hask := s.ask_askDone_same .MCHCTL m
  have hreg : ∀ (q : Reg) (j : Nat), j < 2 ^ 24 → q ≠ .MCHCTL → (s.askDone .MCHCTL m).reg q j = s.reg q j := fun q j hj hq =>
    State.reg_mchDone hm hj hq
  generalize s.askDone .MCHCTL m = u at hmem htiles hfab hgens hask hreg ⊢
  refine ⟨min (1 + u.drawTime.1) (SMap.get GenRun.reset s.gens m).total, Nat.min_le_right _ _, fun h => by omega, ?_⟩
  obtain ⟨dmem, dgens, dtiles, dfab, dregs, dasks⟩ := u.drawTime_parts
  unfold State.genHalt State.ask
  dsimp only
  rw [hgens]
  generalize u.drawTime.2 = v at dmem dgens dtiles dfab dregs dasks ⊢
  refine ⟨(State.genEnd_ranTo _ errs hm).congr hm (dmem.trans hmem) (dgens.trans hgens) (dtiles.trans htiles) (dfab.trans hfab)
    fun q j hj hq => (State.reg_congr dregs q j).trans (hreg q j hj hq), ?_⟩
  rw [State.asks_genEnd, dasks]
  exact hask

theorem stopGenerator_ends (h : s.get F.MCHSTAT_TGRUN m = 1) : ∃ t w, exec (.stopGenerator m errs) s = .next t
    ∧ w ≤ (SMap.get GenRun.reset s.gens m).total ∧ (0 < (SMap.get GenRun.reset s.gens m).total → 0 < w)
    ∧ t.ranTo s m w errs ∧ t.ask .MCHCTL m = none := by
  obtain ⟨w, hle, hpos, hran, hask⟩ := genHalt_ranTo (s := s) hm errs
  refine ⟨_, w, ?_, hle, hpos, hran, hask⟩
  rw [exec_stopGenerator hm, State.stopGen, if_pos ((State.get_mchDone hm (by decide)).trans h)]

theorem generatorDone_ends (h : s.get F.MCHSTAT_TGRUN m = 1) : ∃ t, exec (.generatorDone m errs) s = .next t
    ∧ t.ranTo s m (SMap.get GenRun.reset s.gens m).total errs :=
  ⟨_, (exec_generatorDone hm).trans (congrArg _ (if_pos h)), State.genEnd_ranTo _ errs hm⟩

theorem generator_idle (h : s.get F.MCHSTAT_TGRUN m ≠ 1) : exec (.stopGenerator m errs) s = .next (s.askDone .MCHCTL m)
    ∧ exec (.generatorDone m errs) s = .next s := by
  refine ⟨?_, (exec_generatorDone hm).trans (congrArg _ (if_neg h))⟩
  rw [exec_stopGenerator hm, State.stopGen, if_neg (by rwa [State.get_mchDone hm (by decide)])]

/-- A channel that returns stops its generator, and fills (R234, R237). -/
theorem returnIn_fills (hearth : Bool) (hj : s.jobRuns = false) (ha : s.get F.MCHMAP_ACTIVE m = 1) (hf : s.stackFenced m = false)
    (hsv : s.get F.MCHSTAT_SERVICE m = 2) : ∃ t, exec (.returnToService hearth m errs) s = .next t ∧ t.get F.MCHSTAT_SERVICE m = 3
      ∧ (s.get F.MCHSTAT_TGRUN m ≠ 1 → t.mem = s.mem) ∧ t.get F.MCHSTAT_TGRUN m = 0 ∧ t.tiles = s.tiles := by
  have hput : ∀ u : State, (u.put F.MCHSTAT_SERVICE m 3).get F.MCHSTAT_TGRUN m = u.get F.MCHSTAT_TGRUN m
      ∧ (u.put F.MCHSTAT_SERVICE m 3).mem = u.mem ∧ (u.put F.MCHSTAT_SERVICE m 3).tiles = u.tiles := fun u =>
    ⟨State.get_put_field _ _ _ rfl (by decide) (by decide) (.inl (by decide)), rfl, rfl⟩
  obtain ⟨hmem, htiles, -⟩ := State.mchDone_parts (s := s) (m := m)
  refine ⟨_, returnIn_out hm hj ha ((State.service_mapped ha hf).trans hsv) hf errs,
    State.get_put_same _ _ _ _ (by decide) (by decide), fun h => ?_, ?_⟩
  · rw [(hput _).2.1, if_neg h, hmem]
  · rw [(hput _).1, (hput _).2.2]
    by_cases h : s.get F.MCHSTAT_TGRUN m = 1
    · obtain ⟨w, -, -, hran, -⟩ := genHalt_ranTo (s := s) hm errs
      obtain ⟨h0, -, -, -, ht, -⟩ := hran
      rw [if_pos h]
      exact ⟨h0, ht⟩
    · have hle : s.get F.MCHSTAT_TGRUN m ≤ 1 := bits_one_le _ 4
      rw [if_neg h, State.get_mchDone hm (by decide)]
      exact ⟨by omega, htiles⟩

end

end Sys2Proof.Machine

/-! A generator's start, and the memory channels' obligation (R232 to R238). -/

namespace Sys2Proof.Machine

/-! ## The results of the last run cleared -/

/-- The mismatch counts of the lanes `ks` cleared. -/
def State.zeroLanes (s : State) (m : Nat) (ks : List Nat) : State := ks.foldl (fun (u : State) k => u.setReg .TGLANE (72 * m + k) 0) s

section
variable {m : Nat} {ks : List Nat} (hm : m < 192)

theorem State.onlyRegs_setReg {s t : State} (h : t.onlyRegs s) (r : Reg) (i v : Nat) : (t.setReg r i v).onlyRegs s := h

theorem State.onlyRegs_zeroLanes (s : State) (m : Nat) (ks : List Nat) : (s.zeroLanes m ks).onlyRegs s :=
  foldl_prop (P := fun u : State => u.onlyRegs s) (fun _ _ hu => State.onlyRegs_setReg hu _ _ _) s.onlyRegs_refl

include hm

theorem State.reg_zeroLanes (hks : ∀ k ∈ ks, k < 72) (s : State) {q : Reg} {j : Nat} (hj : j < 2 ^ 24) (hq : q ≠ .TGLANE) :
    (s.zeroLanes m ks).reg q j = s.reg q j := by
  induction ks generalizing s with
  | nil => rfl
  | cons k ks ih =>
    obtain ⟨hk, hks⟩ := List.forall_mem_cons.1 hks
    exact (ih hks _).trans (State.reg_setReg_other _ _ (by omega) hj (.inl hq))

theorem State.zeroLanes_lane (hks : ∀ k ∈ ks, k < 72) {k : Nat} (hk : k < 72) (s : State) (h : k ∈ ks ∨ s.reg .TGLANE (72 * m + k) = 0) :
    (s.zeroLanes m ks).reg .TGLANE (72 * m + k) = 0 := by
  induction ks generalizing s with
  | nil => exact h.resolve_left List.not_mem_nil
  | cons i ks ih =>
    obtain ⟨hi, hks⟩ := List.forall_mem_cons.1 hks
    refine ih hks _ ?_
    by_cases e : k = i
    · exact .inr (by rw [e, State.reg_setReg_same, Nat.zero_mod])
    · refine h.imp (fun h => (List.mem_cons.1 h).resolve_left e) fun h => ?_
      rw [State.reg_setReg_other _ _ (by omega) (by omega) (.inr (by omega)), h]

end

section
variable {m : Nat} {s : State}

theorem State.genClear_eq (s : State) (m : Nat) : s.genClear m = ((((s.zeroLanes m (List.range 72)).setReg .TGERR m 0).setReg
    .TGFIRST m 0).put F.MCHSTAT_TGFAIL m 0).put F.MCHSTAT_TGDONE m 0 := rfl

theorem State.onlyRegs_genClear (s : State) (m : Nat) : (s.genClear m).onlyRegs s := by
  rw [State.genClear_eq]
  exact State.onlyRegs_put (State.onlyRegs_put (State.onlyRegs_setReg (State.onlyRegs_setReg
    (s.onlyRegs_zeroLanes m (List.range 72)) _ _ _) _ _ _) _ _ _) _ _ _

theorem State.genClear_status : (s.genClear m).get F.MCHSTAT_TGFAIL m = 0 ∧ (s.genClear m).get F.MCHSTAT_TGDONE m = 0 := by
  rw [State.genClear_eq]
  refine ⟨?_, State.get_put_same _ _ _ _ (by decide) (by decide)⟩
  rw [State.get_put_field (f := F.MCHSTAT_TGDONE) (g := F.MCHSTAT_TGFAIL) _ _ _ rfl (by decide) (by decide) (.inl (by decide))]
  exact State.get_put_same _ _ _ _ (by decide) (by decide)

theorem lanes_lt : ∀ k ∈ List.range 72, k < 72 := fun _ hk => List.mem_range.1 hk

variable (hm : m < 192)
include hm

theorem State.reg_genClear {q : Reg} {j : Nat} (hj : j < 2 ^ 24) (h1 : q ≠ .MCHSTAT) (h2 : q ≠ .TGFIRST) (h3 : q ≠ .TGERR)
    (h4 : q ≠ .TGLANE) : (s.genClear m).reg q j = s.reg q j := by
  rw [State.genClear_eq, State.reg_put_other _ _ (by omega) hj (.inl h1), State.reg_put_other _ _ (by omega) hj (.inl h1),
    State.reg_setReg_other _ _ (by omega) hj (.inl h2), State.reg_setReg_other _ _ (by omega) hj (.inl h3),
    State.reg_zeroLanes hm lanes_lt _ hj h4]

theorem State.genClear_results : (s.genClear m).reg .TGERR m = 0 ∧ (s.genClear m).reg .TGFIRST m = 0
    ∧ ∀ k, k < 72 → (s.genClear m).reg .TGLANE (72 * m + k) = 0 := by
  rw [State.genClear_eq]
  refine ⟨?_, ?_, fun k hk => ?_⟩
  · rw [State.reg_put_other _ _ (by omega) (by omega) (.inl (by decide)), State.reg_put_other _ _ (by omega) (by omega) (.inl (by decide)),
      State.reg_setReg_other _ _ (by omega) (by omega) (.inl (by decide)), State.reg_setReg_same, Nat.zero_mod]
  · rw [State.reg_put_other _ _ (by omega) (by omega) (.inl (by decide)), State.reg_put_other _ _ (by omega) (by omega) (.inl (by decide)),
      State.reg_setReg_same, Nat.zero_mod]
  · rw [State.reg_put_other _ _ (by omega) (by omega) (.inl (by decide)), State.reg_put_other _ _ (by omega) (by omega) (.inl (by decide)),
      State.reg_setReg_other _ _ (by omega) (by omega) (.inl (by decide)),
      State.reg_setReg_other _ _ (by omega) (by omega) (.inl (by decide)),
      State.zeroLanes_lane hm lanes_lt hk _ (.inl (List.mem_range.2 hk))]

end

/-! ## The start (R237) -/

/-- The run's own copy of its registers, with the free choice `x` of how the walking address lies on the lanes. -/
def State.latched (s : State) (m x : Nat) : GenRun := ⟨s.reg .TGCFG m, s.reg .TGRANGE m, s.get F.TGSEED_SEED m, s.reg .TGUSER m, x⟩

/-- A run of no granule is done at once. -/
def State.emptyRun (s : State) (m : Nat) : Prop :=
  s.get F.TGCFG_PASSES m = 0 ∨ s.get F.TGRANGE_COUNT m = 0 ∨ s.get F.TGCFG_PCMASK m = 0

/-- A run of some granules starts. -/
def State.launchGen (s : State) (m : Nat) : State :=
  State.put { s.draw.2 with gens := SMap.set .reset s.gens m (s.latched m (s.draw.1 % 8)) } F.MCHSTAT_TGRUN m 1

section
variable {hearth : Bool} {m : Nat} {s : State}

theorem State.genRefused_iff (s : State) (m : Nat) : s.genRefused m = true ↔ s.service m ≠ 2
    ∨ (s.get F.TGRANGE_COUNT m ≠ 0 ∧ Config.granulesPerChannel < s.get F.TGRANGE_FIRST m + s.get F.TGRANGE_COUNT m)
    ∨ (s.get F.TGCFG_PATTERN m = 0 ∧ s.get F.TGSEED_SEED m = 0) := by
  unfold State.genRefused
  simp only [Bool.or_eq_true, Bool.and_eq_true, decide_eq_true_eq, or_assoc]

theorem startGen_refused (hm : m < 192) (h : s.genRefused m = true) :
    ∃ t, exec (.startGenerator hearth m) s = .next t ∧ t.refusedAction s hearth m :=
  ⟨s.mchRefuse hearth m, by rw [exec_startGenerator hm, State.startGen, if_pos h], State.mchRefuse_refused hm⟩

theorem State.launchGen_parts (s : State) (m : Nat) : (s.launchGen m).mem = s.mem ∧ (s.launchGen m).tiles = s.tiles
    ∧ SMap.get GenRun.reset (s.launchGen m).gens m = s.latched m (s.draw.1 % 8) := by
  refine ⟨rfl, rfl, ?_⟩
  show SMap.get GenRun.reset (SMap.set GenRun.reset s.gens m (s.latched m (s.draw.1 % 8))) m = _
  rw [SMap.get_set, if_pos rfl]

theorem State.reg_launchGen (hm : m < 192) {q : Reg} {j : Nat} (hj : j < 2 ^ 24) (hq : q ≠ .MCHSTAT) : (s.launchGen m).reg q j = s.reg q j := by
  unfold State.launchGen
  rw [State.reg_put_other _ _ (by omega) hj (.inl hq)]
  exact State.reg_congr rfl q j

theorem State.launchGen_status : (s.launchGen m).get F.MCHSTAT_TGRUN m = 1 ∧ (s.launchGen m).get F.MCHSTAT_TGFAIL m = s.get F.MCHSTAT_TGFAIL m
    ∧ (s.launchGen m).get F.MCHSTAT_TGDONE m = s.get F.MCHSTAT_TGDONE m := by
  unfold State.launchGen
  refine ⟨State.get_put_same _ _ _ _ (by decide) (by decide), ?_, ?_⟩
  · rw [State.get_put_field (f := F.MCHSTAT_TGRUN) (g := F.MCHSTAT_TGFAIL) _ _ _ rfl (by decide) (by decide) (.inl (by decide))]
    exact State.get_congr rfl _ _
  · rw [State.get_put_field (f := F.MCHSTAT_TGRUN) (g := F.MCHSTAT_TGDONE) _ _ _ rfl (by decide) (by decide) (.inl (by decide))]
    exact State.get_congr rfl _ _

/-- State `t` is what a START that is not refused leaves of `s`. -/
def State.startedFrom (t s : State) (m : Nat) : Prop :=
  t.get F.TGERR_BITS m = 0 ∧ t.get F.TGFIRST_VALID m = 0
  ∧ t.get F.MCHSTAT_TGFAIL m = 0 ∧ (∀ k, k < 72 → t.get F.TGLANE_MISMATCH (72 * m + k) = 0)
  ∧ t.get F.MCHSTAT_TGDONE m = (if s.get F.TGCFG_PASSES m = 0 ∨ s.get F.TGRANGE_COUNT m = 0 ∨ s.get F.TGCFG_PCMASK m = 0 then 1 else 0)
  ∧ (¬ s.emptyRun m → t.get F.MCHSTAT_TGRUN m = 1 ∧ ∃ x, x < 8 ∧ SMap.get GenRun.reset t.gens m = s.latched m x)
  ∧ t.mem = s.mem ∧ t.tiles = s.tiles

/-- Results that read zero: what the lemmas about a started run share. -/
theorem State.results_zero {t c : State} (hm : m < 192) (hreg : ∀ (q : Reg) (j : Nat), j < 2 ^ 24 → q ≠ .MCHSTAT → t.reg q j = c.reg q j)
    (hc : c.reg .TGERR m = 0 ∧ c.reg .TGFIRST m = 0 ∧ ∀ k, k < 72 → c.reg .TGLANE (72 * m + k) = 0) :
    t.get F.TGERR_BITS m = 0 ∧ t.get F.TGFIRST_VALID m = 0 ∧ ∀ k, k < 72 → t.get F.TGLANE_MISMATCH (72 * m + k) = 0 := by
  obtain ⟨herr, hfirst, hlane⟩ := hc
  have hzero : ∀ {f : Fld} {j : Nat}, j < 2 ^ 24 → f.reg ≠ .MCHSTAT → c.reg f.reg j = 0 → t.get f j = 0 := fun hj hf h => by
    unfold State.get
    rw [hreg _ _ hj hf, h]
    unfold bits
    rw [Nat.zero_div, Nat.zero_mod]
  exact ⟨hzero (by omega) (by decide) herr, hzero (by omega) (by decide) hfirst,
    fun k hk => hzero (by omega) (by decide) (hlane k hk)⟩

theorem startGen_starts (hm : m < 192) (h : ¬ s.genRefused m = true) :
    ∃ t, exec (.startGenerator hearth m) s = .next t ∧ t.startedFrom s m := by
  obtain ⟨dmem, dtiles, -, -, -⟩ := State.mchDone_parts (s := s) (m := m)
  obtain ⟨cmem, -, ctiles, -⟩ := State.onlyRegs_parts (State.onlyRegs_genClear (s.askDone .MCHCTL m) m)
  have hres := State.genClear_results (s := s.askDone .MCHCTL m) hm
  obtain ⟨hfail, hdone⟩ := State.genClear_status (s := s.askDone .MCHCTL m) (m := m)
  have hcfg : ∀ (q : Reg), q ≠ .MCHCTL → q ≠ .MCHSTAT → q ≠ .TGFIRST → q ≠ .TGERR → q ≠ .TGLANE →
      ((s.askDone .MCHCTL m).genClear m).reg q m = s.reg q m := fun q h0 h1 h2 h3 h4 =>
    (State.reg_genClear hm (by omega) h1 h2 h3 h4).trans (State.reg_mchDone hm (by omega) h0)
  have hexec : exec (.startGenerator hearth m) s = .next (if ((s.askDone .MCHCTL m).genClear m).get F.TGCFG_PASSES m = 0
      ∨ ((s.askDone .MCHCTL m).genClear m).get F.TGRANGE_COUNT m = 0 ∨ ((s.askDone .MCHCTL m).genClear m).get F.TGCFG_PCMASK m = 0
      then ((s.askDone .MCHCTL m).genClear m).put F.MCHSTAT_TGDONE m 1 else ((s.askDone .MCHCTL m).genClear m).launchGen m) := by
    rw [exec_startGenerator hm, State.startGen, if_neg h]
    rfl
  generalize (s.askDone .MCHCTL m).genClear m = c at cmem ctiles hres hfail hdone hcfg hexec
  have hgcfg : c.reg .TGCFG m = s.reg .TGCFG m := hcfg _ (by decide) (by decide) (by decide) (by decide) (by decide)
  have hgrange : c.reg .TGRANGE m = s.reg .TGRANGE m := hcfg _ (by decide) (by decide) (by decide) (by decide) (by decide)
  have hgseed : c.reg .TGSEED m = s.reg .TGSEED m := hcfg _ (by decide) (by decide) (by decide) (by decide) (by decide)
  have hguser : c.reg .TGUSER m = s.reg .TGUSER m := hcfg _ (by decide) (by decide) (by decide) (by decide) (by decide)
  rw [State.get_of_reg (f := F.TGCFG_PASSES) hgcfg, State.get_of_reg (f := F.TGRANGE_COUNT) hgrange,
    State.get_of_reg (f := F.TGCFG_PCMASK) hgcfg] at hexec
  refine ⟨_, hexec, ?_⟩
  unfold State.startedFrom State.emptyRun
  by_cases he : s.get F.TGCFG_PASSES m = 0 ∨ s.get F.TGRANGE_COUNT m = 0 ∨ s.get F.TGCFG_PCMASK m = 0
  · rw [if_pos he, if_pos he]
    obtain ⟨h1, h2, h3⟩ := State.results_zero (t := c.put F.MCHSTAT_TGDONE m 1) hm
      (fun q j hj hq => State.reg_put_other _ _ (by omega) hj (.inl hq)) hres
    obtain ⟨pmem, -, ptiles, -⟩ := State.onlyRegs_parts (State.onlyRegs_put c.onlyRegs_refl F.MCHSTAT_TGDONE m 1)
    refine ⟨h1, h2, ?_, h3, State.get_put_same _ _ _ _ (by decide) (by decide), fun hn => absurd he hn,
      pmem.trans (cmem.trans dmem), ptiles.trans (ctiles.trans dtiles)⟩
    rw [← hfail]
    exact State.get_put_field _ _ _ rfl (by decide) (by decide) (.inl (by decide))
  · rw [if_neg he, if_neg he]
    obtain ⟨h1, h2, h3⟩ := State.results_zero (t := c.launchGen m) hm (fun q j hj hq => State.reg_launchGen hm hj hq) hres
    obtain ⟨lmem, ltiles, lgens⟩ := c.launchGen_parts m
    obtain ⟨lrun, lfail, ldone⟩ := State.launchGen_status (s := c) (m := m)
    refine ⟨h1, h2, lfail.trans hfail, h3, ldone.trans hdone,
      fun _ => ⟨lrun, c.draw.1 % 8, Nat.mod_lt _ (by decide), lgens.trans ?_⟩, lmem.trans (cmem.trans dmem), ltiles.trans (ctiles.trans dtiles)⟩
    unfold State.latched
    rw [hgcfg, hgrange, hguser, State.get_of_reg (f := F.TGSEED_SEED) hgseed]

end

/-! ## The obligation -/

/-- Settles O50: each action is refused, or runs as its equation says; evictions keep every sector seen, the zero-fill keeps those of
the other channels, and the checker of an undisturbed run reads back what the run's own writes of the pass stored. -/
theorem memoryChannels : Obligations.MemoryChannels := by
  unfold Obligations.MemoryChannels
  refine ⟨fun hearth m s hm => ?_, fun g m x h0 => genMoves_undisturbed h0 x⟩
  refine ⟨s.service_eq m, service_actions_refused hm, fun hj ha => ⟨takeOut_inService hm hj ha, takeOut_otherState hm hj ha,
      returnIn_otherState hm hj ha⟩,
    fun h => (exec_channelLeavingDone hm).trans (congrArg _ (if_pos h)),
    fun h => (exec_channelLeavingDone hm).trans (congrArg _ (if_neg h)),
    fun h => (exec_channelFillDone hm).trans (congrArg _ (if_neg h)),
    fun ha hf hc hcoh => ⟨takeOut_writesBack hm ha hf hc hcoh, leavingDone_writesBack hm ha hf hc hcoh⟩,
    fun ha hf => ⟨fun hj hsv errs => returnIn_fills hm errs hearth hj ha hf hsv, fillDone_zeroes hm ha hf⟩,
    ⟨fun hb => startGen_refused hm ((s.genRefused_iff m).2 hb), fun hb => startGen_starts hm fun h => hb ((s.genRefused_iff m).1 h)⟩,
    fun h errs => generator_idle hm errs h, fun h errs => ⟨stopGenerator_ends hm errs h, generatorDone_ends hm errs h⟩⟩

end Sys2Proof.Machine
